-- ==== Sys2Proof/Word.lean ====
section
/-! DEFINITION. The word types of the machine and the shape of its sparse tables. -/
namespace Sys2Proof

/-- A byte of memory or of a flit. -/
abbrev Byte := BitVec 8
/-- A 32-bit register word. -/
abbrev Word32 := BitVec 32
/-- A 64-bit register or engine word. -/
abbrev Word64 := BitVec 64
/-- A vector register of an engine. -/
abbrev Vec256 := BitVec 256

/-- A sparse table: pairs of a key and a value. Its canonical form (keys strictly rising, no entry equal to what an
unlisted key reads as) is stated in Machine/Tbl.lean. -/
abbrev Tbl (β : Type) := List (Nat × β)

end Sys2Proof
end

