-- ==== Sys2Proof/Regs.lean ====
section
/-! DEFINITION. The register names of the spec's register tables, as data: one constructor per register. -/
namespace Sys2Proof

/-- The register blocks a register address names (R598): the CL_ block is split by where it stands (group 0 only, every
group's clusters, group 1 only); SF_ registers are reached through the BARs of a service function. -/
inductive Blk where
  | XB
  | ARB
  | SCH
  | PCI
  | LN
  | BL
  | RT
  | DL
  | CL
  | CLU
  | CL1
  | EN
  | TM
  | SF
  deriving DecidableEq, Repr

/-- The register access codes of R14. -/
inductive Acc where
  | RO | RW | RW1C | RWS | WO | RC | HWINIT
  deriving DecidableEq, Repr

/-- The registers of the spec's register tables. -/
inductive Reg where
  | XB_PORT_CTRL
  | XB_PORT_EGR
  | XB_VS_TCMAP
  | XB_VS_OCMAP
  | XB_BUF_FREE
  | XB_BUF_NP
  | XB_BUF_CPL
  | XB_BUF_LOW
  | XB_ERR_LOG0
  | XB_ERR_LOG1
  | XB_DROP_CNT
  | XB_FTO
  | XB_LOCK
  | XB_SYNTH_CNT
  | XB_FLATE_CNT
  | XB_EXPIRE_CNT
  | XB_PERR_LOST_CNT
  | XB_LOCK_BRK_CNT
  | XB_MW_RETRY_CNT
  | XB_QREL_CNT
  | ARB_COMMIT
  | ARB_HATCH_WD
  | ARB_CFG_S
  | ARB_CFG_W
  | ARB_PRIV_S
  | ARB_PRIV_W
  | ARB_HATCH
  | ARB_FLAG
  | ARB_STAT
  | ARB_DEAD_CNT
  | ARB_CUT_CNT
  | ARB_CLASS_S
  | ARB_CLASS_W
  | SCH_CAL
  | SCH_CAL_STAT
  | SCH_SMP_CTRL
  | SCH_SMP_BASE
  | SCH_SMP_WP
  | SCH_SMP_RP
  | SCH_SMP_SEL
  | SCH_SMP_SKIP_CNT
  | SCH_SMP_LOST_CNT
  | SCH_PORT_S
  | SCH_PORT_W
  | SCH_GATE_STAT
  | SCH_GATE_BASE_S
  | SCH_GATE_SWT_S
  | SCH_GATE_OVR_CNT
  | SCH_GATE_BASE_W
  | SCH_GATE_SWT_W
  | SCH_QDEPTH
  | SCH_FSEL_S
  | SCH_FSEL_W
  | SCH_FLOW_INC_S
  | SCH_FLOW_CFG_S
  | SCH_FLOW_INC_W
  | SCH_FLOW_CFG_W
  | SCH_FLOW_TAT
  | SCH_GATE_ENT_S
  | SCH_GATE_ENT_W
  | PCI_PORT_CTRL
  | PCI_PORT_STAT
  | PCI_L0P
  | PCI_VS_CFG
  | PCI_SLOT_MAP
  | PCI_SLOT_STAT
  | LN_TBL_STAT
  | LN_WATCH
  | LN_STRESS
  | LN_TEMP
  | LN_LANE_APPLIED
  | LN_LANE_EQ
  | LN_LANE_STAT
  | LN_PRBS_CTRL
  | LN_FEC_RX
  | LN_FEC_SYM
  | LN_FEC_UNC
  | LN_PRBS_BITS
  | LN_PRBS_ERR
  | BL_BRINGUP
  | BL_CTRL
  | BL_LINK
  | BL_SLEEP
  | BL_STAT
  | BL_PARTNER
  | BL_SEQ
  | BL_BU_LOG
  | BL_REPLAY_CNT
  | BL_BAD_CNT
  | BL_GAP_CNT
  | BL_DUP_CNT
  | BL_RESET_CNT
  | BL_PROTO_CNT
  | RT_ID
  | RT_STAT
  | RT_STAGE_CHK
  | RT_STAGE_STAT
  | RT_HAND_CFG
  | RT_LEAK_CNT
  | RT_UNTOK_CNT
  | RT_OVERRUN_CNT
  | RT_DIR_DROP
  | RT_SHELF_USE
  | RT_NBR_SERIAL
  | RT_NBR_LINK
  | RT_NBR_ADDR
  | RT_NBR_DEV
  | RT_HAND_HOLD
  | DL_CFG
  | DL_FENCE_CFG
  | DL_MARK_CFG
  | DL_DEAL_STAT
  | DL_DEAL_EPOCH
  | DL_DEAL_T
  | DL_DRAIN_STAT
  | DL_CUT_STAT
  | DL_MISS
  | DL_TREE
  | DL_TREE_CHILD
  | DL_TREE_STAT
  | DL_TREE_DROP_CNT
  | DL_DUP_CNT
  | DL_WIN_CNT
  | DL_RESEND_CNT
  | DL_GIVEUP_CNT
  | DL_LIFE_CNT
  | DL_FENCE_CNT
  | DL_LATE_CNT
  | DL_DISTURB_CNT
  | DL_STALE_EP_CNT
  | DL_ACK_IN
  | DL_FENCE_IN
  | CL_COLL_CFG
  | CL_COLL_DONE_CNT
  | CL_COLL_ABORT_CNT
  | CL_COLL_STALE_CNT
  | CL_GRP_CTL
  | CL_GRP_N
  | CL_GRP_PARENT
  | CL_GRP_CHILD
  | CL_GRP_VSMASK
  | CL_GRP_STAT
  | CL_STAT
  | CL_ACC_CNT
  | CL_HEADROOM_CNT
  | CL_SCHED
  | CL_SHARE
  | EN_STAT
  | EN_PC
  | EN_FAULT
  | EN_FAULT_ADDR
  | EN_SMP_CFG
  | EN_SMP_PC
  | EN_OP_CNT
  | EN_CYC_CNT
  | TM_TIME
  | TM_STAT
  | TM_CFG
  | TM_OFFSET
  | TM_DELAY
  | TM_BW_CFG
  | TM_BW_STAT
  | TM_BW_END
  | TM_REJ_WR_CNT
  | TM_CORE_CE_CNT
  | TM_WEAR
  | TM_WEAR_RATE
  | TM_EVT_PEND
  | TM_MEM_VIOL
  | TM_PTM_OFF
  | TM_BW_RX
  | TM_BW_TX
  | TM_PORT_RXB
  | TM_PORT_TXB
  | SF_DV_ID
  | SF_DV_FW
  | SF_DV_EPOCH
  | SF_ID
  | SF_RES
  | SF_EVT
  | SF_EVT_MASK
  | SF_LATE_LOG
  | SF_LATE_CNT
  | SF_Q_BASE
  | SF_Q_CFG
  | SF_Q_STAT
  | SF_Q_CQ_BASE
  | SF_Q_CQ_HEAD
  | SF_Q_CQ_STAT
  | SF_DB
  | SF_PERR_LOG_ADDR
  | SF_PERR_LOG_INFO
  | SF_PERR_STAT
  | SF_CNT_VIS
  | SF_LG_CTRL
  | SF_LG_STAT
  | SF_LG_RBASE
  | SF_LG_RPAGES
  | SF_LG_BMP_A
  | SF_LG_BMP_B
  | SF_LG_VDSP
  | SF_MB_CTRL
  | SF_MB_STAT
  | SF_CNT_WIN
  deriving DecidableEq, Repr

end Sys2Proof
end

