-- ==== Sys2Proof/Msgs.lean ====
section
/-! DEFINITION. What the commands carry: register and object addresses, transaction layer packets, envelopes, flits of the
core, tree, collective and directed messages, queue descriptors, engine operation words and the measurements an event names.
Every number is a natural number; WellFormed.lean states the range the spec gives it. -/
namespace Sys2Proof

/-- The planes of R26 that access registers and LPDDR4X. -/
inductive Plane where
  | data | control | management
  deriving DecidableEq, Repr

/-- Which part of a register an access covers: the whole register, or one 32-bit word of a 64-bit register (R729). -/
inductive RegPart where
  | whole | low | high
  deriving DecidableEq, Repr

/-- A register address: a block code and an offset in the block (R598), or an offset in a BAR of a function of a virtual
switch's service function (R224). -/
inductive RegAddr where
  | blk (code off : Nat)
  | bar (vs fn b off : Nat)
  deriving DecidableEq, Repr

/-- The request types of the envelope's TYPE field (R387), and markers, which are no packets (R52). -/
inductive PType where
  | posted | nonPosted | completion | control | marker
  deriving DecidableEq, Repr

/-- The kinds of transaction layer packet the spec's rules tell apart. -/
inductive TlpKind where
  | memRd | memRdLk | memWr | ioRd | ioWr | cfgRd | cfgWr | fetchAdd | swap | cas | msg | unlock | vdm
  | cpl | cplD | cplLk | cplDLk
  deriving DecidableEq, Repr

/-- How a message TLP is routed. -/
inductive MsgRoute where
  | toRoot | byAddress | byId | broadcast | local | gather
  deriving DecidableEq, Repr

/-- A transaction layer packet: the header fields the spec's rules read, the payload, and the bytes as the link carries
them (`raw`); `len` is its length in bytes (b of R52); `be` the byte enables, first dword's in bits 3:0 and last dword's in bits
7:4; `translated` and `transReq` its address type; `malformed` where PCI Express's receiver checks find it so (R191).
[log: DESIGN CHOICE 12] -/
structure Tlp where
  kind : TlpKind := .memWr
  route : MsgRoute := .local
  tc : Nat := 0
  ro : Bool := false
  ido : Bool := false
  ep : Bool := false
  ide : Bool := false
  translated : Bool := false
  transReq : Bool := false
  malformed : Bool := false
  reqId : Nat := 0
  tag : Nat := 0
  addr : Nat := 0
  bytes : Nat := 0
  be : Nat := 0xFF
  target : Nat := 0
  code : Nat := 0
  vendor : Nat := 0
  cplId : Nat := 0
  status : Nat := 0
  byteCount : Nat := 0
  lowerAddr : Nat := 0
  len : Nat := 16
  data : List Byte := []
  raw : List Byte := []
  deriving DecidableEq, Repr

/-- The fabric envelope of R387. -/
structure Env where
  dgpa : Nat := 0
  sgpa : Nat := 0
  vs : Nat := 0
  oc : Nat := 0
  typ : Nat := 0
  ep : Nat := 0
  lock : Bool := false
  tok : Bool := false
  eseq : Nat := 0
  tlen : Nat := 1
  dlv : Bool := false
  dl : Nat := 0
  deriving DecidableEq, Repr

/-- What a packet carries: a TLP, the payload of a control packet, or a marker (R451). -/
inductive Content where
  | tlp (t : Tlp)
  | ctl (b : List Byte)
  | marker (sub info : Nat)
  deriving DecidableEq, Repr

/-- A packet that an engine group or port 52 sends into the core: the items of R54 come from its descriptor or firmware; `unit` is the
engine (0 to 63) or cluster reduction unit (64 to 67) of its group that sends it (R96); `via` is the egress port a directed packet
names (R344). -/
structure IntPkt where
  unit : Nat := 0
  plane : Plane := .control
  vs : Nat := 0
  oc : Nat := 0
  cc : Nat := 0
  typ : PType := .posted
  dgpa : Nat := 0
  via : Option Nat := none
  saf : Bool := false
  topen : Bool := false
  tclose : Bool := false
  content : Content := .ctl []
  deriving DecidableEq, Repr

/-- An arriving packet (R54): a TLP at a host or device port, with how many of its core flits have arrived; more flits of such a TLP,
by its packet's number (R72); at a fabric port the packet whose first flit the link has accepted, with the reading of its TLP where it
carries one; or a packet of an engine group or of port 52. -/
inductive Ingress where
  | pcie (t : Tlp) (arrived : Nat)
  | more (pid n : Nat)
  | fabric (t : Option Tlp)
  | internal (p : IntPkt)
  deriving DecidableEq, Repr

/-- A request at an arbiter whose requesters the packet queues do not hold (R96): requester number and core class. -/
structure ArbReq where
  input : Nat
  cls : Nat
  deriving DecidableEq, Repr

/-- What the buffer read and the header check find in a data phase (R62, R119, R61). -/
inductive CoreCheck where
  | good | corrected | headerBad | payloadBad | unreadable
  deriving DecidableEq, Repr

/-- The errors of R191 that a port or a link reports. -/
inductive PcieErr where
  | receiverError | badTlp | badDllp | replayTimeout | replayRollover | dlProtocol | fcProtocol | receiverOverflow
  | unsupportedRequest | unexpectedCompletion | malformedTlp | acsViolation | surpriseDown | internalError | poisonedTlp
  | completionTimeout | completerAbort
  deriving DecidableEq, Repr

/-- The function a configuration request names, as the host-port switch finds it (R183, R184): below a vDSP by its routing ID. -/
inductive CfgTarget where
  | usp
  | vdsp (n : Nat)
  | sf (fn : Nat)
  | below (n rid : Nat)
  | vfBusInside (fn : Nat)
  deriving DecidableEq, Repr

/-- The vDSP routing register a host writes (R362). -/
inductive VdspWinReg where
  | memBase | memLimit | pfBase | pfLimit | pfBaseHi | pfLimitHi
  deriving DecidableEq, Repr

/-- A down or up tree message, 32 bytes (R463). -/
structure TreeMsg where
  kind : Nat := 0x10
  flags : Nat := 0
  term : Nat := 0
  epoch : Nat := 0
  t : Nat := 0
  count1 : Nat := 0
  count2 : Nat := 0
  deriving DecidableEq, Repr

/-- Where a tree message comes from: a switch by its FSID over the fabric, an external dealer over Ikiup, or a directed
packet of KIND 0x0A from the dealer (R460, R346). -/
inductive TreeSrc where
  | fsid (f : Nat)
  | external
  | directed
  deriving DecidableEq, Repr

/-- A collective message (R474, R483): header fields and the payload after the 16-byte header. -/
structure CollMsg where
  kind : Nat := 1
  op : Nat := 1
  typ : Nat := 0
  red : Nat := 0
  rnd : Nat := 0
  nch : Nat := 1
  group : Nat := 0
  gen : Nat := 0
  iseq : Nat := 0
  count : Nat := 0
  chunk : Nat := 0
  status : Nat := 0
  payload : List Byte := []
  deriving DecidableEq, Repr

/-- A completion as it reaches its requester. -/
structure CplIn where
  status : Nat := 0
  poisoned : Bool := false
  last : Bool := true
  completer : Nat := 0
  data : List Byte := []
  deriving DecidableEq, Repr

/-- How an outstanding engine access ends: with data, or with an error (R501, R545). -/
inductive AccEnd where
  | ok (data : List Byte)
  | error
  deriving DecidableEq, Repr

/-- The fields of an operation word beside its operation code (R496). -/
structure OpWord where
  d : Nat := 0
  a : Nat := 0
  b : Nat := 0
  m : Nat := 0
  resv : Nat := 0
  imm : Nat := 0
  deriving DecidableEq, Repr

/-- The transport a request comes over and the session on it (R576 to R585). -/
inductive SessKey where
  | udp (id : Nat)
  | mctp (eid : Nat)
  | mailbox (vs : Nat)
  deriving DecidableEq, Repr

/-- The value of an object entry: a number of its type, or the bytes of a STR or OCTETS entry. -/
inductive OVal where
  | num (n : Nat)
  | bytes (b : List Byte)
  deriving DecidableEq, Repr

/-- One entry of a READ or WRITE body (R572). -/
structure EntryRef where
  index : Nat
  sub : Nat
  typ : Nat
  deriving DecidableEq, Repr

/-- One entry of a WRITE with its value. -/
structure EntryWrite where
  ref : EntryRef
  val : OVal
  deriving DecidableEq, Repr

/-- The header of a request frame, after reassembly (R573 to R576): sequence number, whether the message was malformed
or too long (R574), its version, and the source address and tag check of a UDP frame (R579, R581). -/
structure ReqHdr where
  sess : SessKey
  seq : Nat := 1
  version : Nat := 1
  fault : Nat := 0
  src : Nat := 0
  tagOk : Bool := true
  deriving DecidableEq, Repr

/-- A request of a link partner for this end's transmitter coefficients, C(+1), C(0), C(-1), C(-2), and whether PCI Express lets it be
made (R171). -/
structure EqReq where
  fir : List Int := []
  legal : Bool := true
  deriving DecidableEq, Repr

/-- An equalisation of one lane (R171): what the standard procedure found, and the partner's coefficient requests in their order. -/
structure EqFound where
  reqs : List EqReq := []
  h1 : Nat := 0
  vga : Nat := 0
  ctleDc : Nat := 0
  ctlePk : Nat := 0
  deriving DecidableEq, Repr

/-- The measurements of the power-entry stage that an event carries, in millivolts, milliamperes and milliwatts. -/
structure PeSample where
  va : Nat := 0
  vb : Nat := 0
  bus : Nat := 0
  power : Nat := 0
  deriving DecidableEq, Repr

/-- Why a feed is lost (R655). -/
inductive FeedLoss where
  | low | drop | overvoltage | reverse
  deriving DecidableEq, Repr

/-- A link partner's capabilities as a PCI Express link trains (R166 to R168). -/
structure PciePartner where
  rate : Nat := 0
  width : Nat := 1
  flit : Bool := false
  deriving DecidableEq, Repr

/-- Who sends a PTM request to the switch (R200, R219): the endpoint below a device port, or the service function of a VS. -/
inductive PtmReqr where
  | port (n : Nat)
  | sf (vs : Nat)
  deriving DecidableEq, Repr

/-- What changes a bus map (R367): an input of it at the host port's switch, that switch's new map at another switch, or the
acknowledgement of such a copy by the switch with an FSID. -/
inductive BusMapPart where
  | here
  | copy (codes : List Nat)
  | ack (fsid : Nat)
  deriving DecidableEq, Repr

/-- What the header log of AER holds: the header of a TLP, and whether it is in the flit-mode format (R192). -/
structure HdrLog where
  flit : Bool := false
  bytes : List Byte := []
  deriving DecidableEq, Repr

/-- What a device port's switch tells of the port beside its Link Status (R185, R186, R192, R198, R206, R208, R213): presence at its slot's
contact and in-band; of a physical slot its Slot Power Limit, whether Power Controller Control is off, and AUTO_ON (R205, R214); the port's
MAXRATE (bits 2:0), FLIT_EN (bit 3) and L0P_EN (bit 4); a press of its attention button, a trip of its slot, a release of its
containment. [log: DEDUCED 45] -/
structure PortNotice where
  contact : Bool := false
  inband : Bool := false
  slot : Option (Nat × Bool × Bool) := none
  caps : Option Nat := none
  button : Bool := false
  fault : Bool := false
  released : Bool := false
  deriving DecidableEq, Repr

/-- The last part of a device port's notice: data link active, and the rest (R186). -/
structure LinkTold where
  dlActive : Bool := false
  note : PortNotice := {}
  deriving DecidableEq, Repr

/-- What a port's switch tells of an error: the error, and the reason and Error Source ID of a DPC trigger it has acted on (R192, R195). -/
structure ErrTold where
  err : Option PcieErr := none
  trig : Option (Nat × Nat) := none
  deriving DecidableEq, Repr

/-- A change of the bus map of a VS. -/
structure BusMapMsg where
  vs : Nat := 0
  part : BusMapPart := .here
  deriving DecidableEq, Repr

/-- A posted-error report's payload (R401). -/
structure PerrReport where
  reason : Nat := 0
  vs : Nat := 0
  supp : Nat := 0
  reqId : Nat := 0
  dgpa : Nat := 0
  addr : Nat := 0
  deriving DecidableEq, Repr

end Sys2Proof
end

