-- ==== Sys2Proof/Syntax.lean ====
section
/-! DEFINITION. The commands: one constructor for each row of the table of operations and events, with the operands the
spec names for it. -/
namespace Sys2Proof

/-- A command of the switch: a register access, an operation of a protocol, an event of a plane, a link, an engine, a timer
or a contact. Ports are numbered as R43 numbers them, arbiters as R96, lanes as 16 to a bank. [log: DESIGN CHOICE 200] -/
inductive Instr where
  /-- REGISTER_WRITE (R14). A software write to a register that has no step of its own stores the value as its access code, range and store conditions allow. -/
  | registerWrite (p : Plane) (a : RegAddr) (part : RegPart) (v : Nat)
  /-- RC_READ (R14). A read of an RC field returns its value and then clears or reloads it. -/
  | rcRead (p : Plane) (a : RegAddr)
  /-- FIRST_EVENT_RECORD_CLEAR (R722). A write of 1 to VALID of a first-event record clears it, and a same-cycle event is recorded after the clear. -/
  | firstEventRecordClear (r : Reg) (inst : Nat) (ev : Option (Nat × Nat))
  /-- LPDDR4X_ACCESS (R29). A plane's access to an LPDDR4X region is performed when the plane owns the region or holds a read grant. -/
  | lpddr4xAccess (p : Plane) (write : Bool) (addr : Nat) (len : Nat) (data : List Byte)
  /-- PACKET_INGRESS (R54). An arriving packet is converted into core flits, and ingress decode produces VS, key, type, classes, epoch parity and flit count. -/
  | packetIngress (port : Nat) (x : Ingress)
  /-- ESEQ_ASSIGN (R413). The source switch assigns the next ESEQ of a stream when the 1,024-packet window allows, possibly after waiting. -/
  | eseqAssign (pid : Nat)
  /-- CORE_LOOKUP (R56). The first flit crosses into the switch core, the table half is chosen by parity, and window, binding, route and next hop are resolved. -/
  | coreLookup (pid : Nat) (chk : CoreCheck)
  /-- NP_RESERVATION (R371). A non-posted request takes a hand token and its shelf in one cycle and then enters the fabric, possibly after waiting. -/
  | npReservation (pid : Nat)
  /-- GRANT (R101). In an arbitration phase an arbiter grants the highest eligible level, by round-robin, to one requester. -/
  | grant (a : Nat) (reqs : List ArbReq) (tenure : Bool) (release : Bool)
  /-- CROSSBAR_DATA_PHASE (R97). A granted flit passes the crossbar in the data phase after its grant. -/
  | crossbarDataPhase (a : Nat) (chk : CoreCheck)
  /-- EGRESS_ENCODE (R135). Egress encode of a flit starts in the egress bank port and frees its transmit staging slot. -/
  | egressEncode (port : Nat)
  /-- EGRESS_TLP_START (R74). A PCIe egress port begins a multi-flit TLP once all its flits are staged or buffered. -/
  | egressTlpStart (port : Nat)
  /-- EGRESS_STALL_TIMEOUT (R84). An egress port that sends none of its queued flits for its stall timeout has stalled. -/
  | egressStallTimeout (port : Nat)
  /-- ROUND_BOUNDARY (R106). At a round boundary every class's grant count resets and every class is unmasked. -/
  | roundBoundary (a : Nat)
  /-- TENURE_CUT (R111). A tenure still held at its last permitted data cycle is cut off, logged and counted. -/
  | tenureCut (a : Nat)
  /-- TRICK_CUT_64 (R116). A trick whose 64th flit does not close it is cut, and the port opens to all requesters. -/
  | trickCut64 (a port : Nat)
  /-- TRICK_HOLD_CUT (R116). A trick open for its hold limit is cut, logged and signalled to its owner. -/
  | trickHoldCut (a port : Nat)
  /-- PARK_RELEASE_IDLE (R122). A parked grant is released after PARK_IDLE consecutive phases without a request. -/
  | parkReleaseIdle (a : Nat)
  /-- COMMIT (R123). A write of 1 to ARB_COMMIT.COMMIT copies every shadow register into its working copy and increases SEQ. -/
  | commit (p : Plane)
  /-- HATCH_WRITE (R128). A plane writes its hatch bit, closing or opening the hatch of an arbiter. -/
  | hatchWrite (a : Nat) (p : Plane) (close : Bool)
  /-- HATCH_WATCHDOG (R130). A hatch closed for the watchdog interval is logged in ARB_FLAG and raises the event source. -/
  | hatchWatchdog (a : Nat)
  /-- CALENDAR_SLOT_BEGIN (R144). When a calendar slot begins its flows become eligible at up to 4 per core cycle. -/
  | calendarSlotBegin
  /-- FLOW_SWEEP_VISIT (R146). The scheduler's sweep visits a flow and sets a TAT more than 1 s in the past to now. -/
  | flowSweepVisit (f : Nat)
  /-- GATE_ENTRY_BEGIN (R149). A gate list entry takes effect at its start time and sets the gate states of the port. -/
  | gateEntryBegin (port : Nat)
  /-- GATE_SWITCHOVER (R155). At SWT the armed gate list becomes the active list. -/
  | gateSwitchover (port : Nat)
  /-- SAMPLING_PASS (R160). At each sampling period a record is written for each selected egress queue to the sampling ring. -/
  | samplingPass (late : Bool)
  /-- PCIE_LINK_UP (R168). A PCIe port trains to L0 at the widest common width and the allowed rate. -/
  | pcieLinkUp (port : Nat) (partner : PciePartner)
  /-- PCIE_LINK_DOWN (R194). A PCIe link's data link goes down and Surprise Down is handled at the bound vDSP or VS. -/
  | pcieLinkDown (port : Nat) (hotReset : Bool)
  /-- PCIE_RECOVERY (R169). A link leaving L0 through Recovery returns at its previous width and rate unless a lane fails. -/
  | pcieRecovery (port : Nat) (failedTo : Option Nat) (rate : Option Nat)
  /-- PCIE_EQUALISATION (R170). A port equalises at 8 GT/s and above by the standard procedure or from the board table. -/
  | pcieEqualisation (port rate : Nat) (found : List EqFound)
  /-- L0P_WINDOW_END (R175). At the end of a utilisation window the transmit direction narrows or requests full width. -/
  | l0pWindowEnd (port used cap : Nat)
  /-- L0P_WIDEN_COMPLETE (R176). Full transmit width is in force after a widening request. -/
  | l0pWidenComplete (port : Nat)
  /-- L0P_PARTNER_REQUEST (R174). The switch accepts the partner's L0p request for its receive direction. -/
  | l0pPartnerRequest (port width : Nat)
  /-- ASPM_L1_ENTRY (R178). A port enters L1 when the host has enabled it and the partner agrees. -/
  | aspmL1Entry (port : Nat)
  /-- CONFIG_REQUEST (R183). A configuration request to the USP, a vDSP or a function below a vDSP is answered locally or forwarded. -/
  | configRequest (vs : Nat) (tgt : CfgTarget) (off : Nat) (write : Option (Nat × Nat)) (reqId tag : Nat)
  /-- VDSP_LINK_DISABLE (R185). Link Disable at a vDSP disables the bound device port's link. -/
  | vdspLinkDisable (vs n : Nat) (dis : Bool)
  /-- VDSP_RETRAIN_LINK (R185). Retrain Link at a vDSP retrains the bound device port's link. -/
  | vdspRetrainLink (vs n : Nat)
  /-- VDSP_TARGET_LINK_SPEED (R185). Target Link Speed at a vDSP sets the bound device port's target rate. -/
  | vdspTargetLinkSpeed (vs n speed : Nat)
  /-- VDSP_ASPM_CONTROL (R185). ASPM Control at a vDSP sets the device port's permission for ASPM L1. -/
  | vdspAspmControl (vs n ctl : Nat)
  /-- SECONDARY_BUS_RESET (R185). Secondary Bus Reset at a vDSP sends a hot reset on the device port's link. -/
  | secondaryBusReset (vs n : Nat) (set : Bool)
  /-- VDSP_LINK_STATUS_UPDATE (R186). A change of the bound device port's state is reflected in the vDSP's Link Status. -/
  | vdspLinkStatusUpdate (vs n : Nat) (speed width : Nat) (training : Bool) (told : LinkTold)
  /-- REMOTE_ERROR_NOTICE (R192). An error detected at a remote device port is logged at the bound vDSP. -/
  | remoteErrorNotice (vs n : Nat) (err : ErrTold) (hdr : HdrLog)
  /-- DPC_SOFTWARE_TRIGGER (R196). The DPC software trigger contains the bound device port. -/
  | dpcSoftwareTrigger (vs n : Nat)
  /-- DPC_TRIGGER_STATUS_WRITE (R198). A write of 1 to DPC Trigger Status requests release of the contained device port. -/
  | dpcTriggerStatusWrite (vs n : Nat)
  /-- DPC_RELEASE (R198). Once its queue is empty and 1 ms has passed the device port is released and its link enters Detect. -/
  | dpcRelease (vs n : Nat)
  /-- PTM_REQUEST (R200). An endpoint's PTM request is answered from fabric time by the switch carrying its device port. -/
  | ptmRequest (src : PtmReqr)
  /-- PRESENCE_DEBOUNCED (R206). A presence change of a slot is debounced and sets Presence Detect State and Changed. -/
  | presenceDebounced (slot : Nat) (present : Bool)
  /-- ATTENTION_BUTTON_PRESS (R208). A debounced attention button press sets Attention Button Pressed at the bound vDSP. -/
  | attentionButtonPress (slot : Nat)
  /-- SLOT_INDICATOR_WRITE (R209). A Slot Control write of indicator states drives ATN_IND and PWR_IND. -/
  | slotIndicatorWrite (vs n atn pwr : Nat)
  /-- SLOT_POWER_ON (R210). Power Controller Control written on starts a soft start of the slot channel. -/
  | slotPowerOn (vs n : Nat)
  /-- SLOT_POWER_OFF (R211). Power Controller Control written off disables the link, asserts SLOT_PERST_N and turns the channel off. -/
  | slotPowerOff (vs n : Nat)
  /-- SLOT_PERST_RELEASE (R210). SLOT_PERST_N is released 100 ms after power good and link training starts. -/
  | slotPerstRelease (slot : Nat)
  /-- SLOT_COMMAND_COMPLETED (R212). Command Completed is set after a Slot Control write has been performed. -/
  | slotCommandCompleted (vs n : Nat)
  /-- DOORBELL_WRITE (R226). A doorbell write gives a new submission tail and starts descriptor fetches. -/
  | doorbellWrite (vs fn q tail : Nat)
  /-- DESCRIPTOR_FETCH_COMPLETE (R226). A fetched descriptor arrives and is checked and started in fetch order. -/
  | descriptorFetchComplete (q : Nat) (cpl : CplIn)
  /-- QUEUE_ENABLE (R225). A write of 1 to SF_Q_CFG.EN resets the queue's head, completion tail and phase. -/
  | queueEnable (q : Nat)
  /-- QUEUE_DISABLE (R229). A write of 0 to EN stops the queue's fetch. -/
  | queueDisable (q : Nat)
  /-- QUEUE_IDLE (R229). IDLE is set once every fetched descriptor has written its completion record. -/
  | queueIdle (q : Nat)
  /-- VECTOR_UNMASK (R233). A pending message is sent when its vector is unmasked with Bus Master Enable 1. -/
  | vectorUnmask (vs fn vec : Nat)
  /-- REVOKE_GRACE_EXPIRY (R235). At the end of the revoke grace the queue leaves its function and unstarted descriptors complete revoked. -/
  | revokeGraceExpiry (q : Nat)
  /-- COMPLETION_TIMEOUT (R239). A request of the service function times out and its operation ends with a timeout status. -/
  | completionTimeout (vs fn tag : Nat)
  /-- SF_COMPLETION_ARRIVAL (R240). A completion reaches the service function and ends its request or is handled as late. -/
  | sfCompletionArrival (vs fn tag : Nat) (cpl : CplIn)
  /-- TAG_QUARANTINE_END (R242). A quarantined tag becomes reusable when its quarantine ends. -/
  | tagQuarantineEnd (vs fn tag : Nat)
  /-- FUNCTION_LEVEL_RESET (R243). A Function Level Reset stops new requests of the function and abandons its outstanding reads. -/
  | functionLevelReset (vs fn : Nat)
  /-- FLR_COMPLETE (R244). The Function Level Reset completes and the function accepts configuration requests again. -/
  | flrComplete (vs fn : Nat)
  /-- BUS_MASTER_DISABLE (R247). Clearing Bus Master Enable stops new requests and abandons outstanding reads. -/
  | busMasterDisable (vs fn : Nat)
  /-- BUS_MASTER_ENABLE (R247). Setting Bus Master Enable resumes queue fetches and sends pending messages. -/
  | busMasterEnable (vs fn : Nat)
  /-- LEDGER_SWAP (R252). A write of 1 to SF_LG_CTRL.SWAP makes a swap point and switches the active bitmap. -/
  | ledgerSwap (vs ctx : Nat)
  /-- LEDGER_SWAP_DONE (R252). Once all marks before the swap point are written, DONE is set and SEQ increases. -/
  | ledgerSwapDone (vs ctx : Nat)
  /-- LEDGER_SWAP_TIMEOUT (R254). Marks still unwritten 1 ms after the swap point set ERR and disable the context. -/
  | ledgerSwapTimeout (vs ctx : Nat)
  /-- MAILBOX_GO (R257). A write of 1 to SF_MB_CTRL.GO sends the mailbox request as an Ikiup message. -/
  | mailboxGo (vs : Nat) (req : List Byte)
  /-- POSTED_ERROR_REPORT_RECEIVE (R400). A posted-error report is forwarded or recorded in the VS's posted-error log. -/
  | postedErrorReportReceive (r : PerrReport)
  /-- WATCH_INTERVAL_END (R271). At the end of a watch interval the lane's corrected symbols are judged against the threshold. -/
  | watchIntervalEnd (lane : Nat) (cw sym unc : Nat) (util : Nat)
  /-- BANK_TEMP_UPDATE (R274). The bank temperature reading is updated and compared with the temperature at the application point. -/
  | bankTempUpdate (bank : Nat) (temp : Nat)
  /-- PRBS_START (R280). A write of 1 to LN_PRBS_CTRL.START clears the counts and runs a PRBS31 test. -/
  | prbsStart (lane : Nat)
  /-- PRBS_TEST_END (R281). The PRBS test duration expires and DONE is set. -/
  | prbsTestEnd (lane : Nat) (bits errs : Nat)
  /-- PRBS_LOCK_LOSS (R281). The checker loses lock on 16 errors within 64 bits, sets LOSS and relocks. -/
  | prbsLockLoss (lane : Nat) (bits errs : Nat)
  /-- FLIT_RECEIVE (R290). A received Brorna link flit is checked and corrected, then accepted, discarded or acted on by type. -/
  | flitReceive (port : Nat) (b : List Byte) (t : Option Tlp)
  /-- FLIT_SEND (R312). The sender transmits a new data or marker flit with the next SEQ while window and credit allow. -/
  | flitSend (port : Nat)
  /-- PORT_ENABLE (R299). A port is enabled and a fabric port with usable table entries enters TRAIN. -/
  | portEnable (port : Nat)
  /-- PORT_DISABLE (R48). A port is disabled and its link leaves service. -/
  | portDisable (port : Nat)
  /-- BRINGUP_CHECK_WINDOW_END (R300). A lane's PRBS check window ends and the lane passes or starts a new window. -/
  | bringupCheckWindowEnd (port lane bits errs : Nat)
  /-- ALIGN_ENTRY (R299). 4 µs after every lane passed, the link enters ALIGN and sends idle flits. -/
  | alignEntry (port : Nat)
  /-- BRINGUP_TIMEOUT (R302). The bring-up timeout expires before ACTIVE and the bring-up fails. -/
  | bringupTimeout (port : Nat)
  /-- RESET_FLITS_SENT (R299). After 64 RESET flits the link enters QUIET with its driver off. -/
  | resetFlitsSent (port : Nat)
  /-- QUIET_END (R304). At the end of QUIET the link starts TRAIN by rank or enters HELD. -/
  | quietEnd (port : Nat)
  /-- SIGNAL_DETECT (R304). The lower-ranked side detects signal on every lane and starts TRAIN. -/
  | signalDetect (port : Nat)
  /-- LOWER_RANK_WAIT_EXPIRY (R304). 20 µs after QUIET the lower-ranked side starts TRAIN without signal. -/
  | lowerRankWaitExpiry (port : Nat)
  /-- SIGNAL_LOSS (R307). Signal or lock lost on a lane for more than 1 µs fails the link. -/
  | signalLoss (port lane : Nat)
  /-- REPLAY_TIMER_EXPIRY (R318). The replay timer expires and the sender replays from O or fails the link at its limit. -/
  | replayTimerExpiry (port : Nat)
  /-- BL_SLEEP_ENTRY (R329). An idle transmit direction sends four SLEEP flits and turns its driver off. -/
  | blSleepEntry (port : Nat)
  /-- BL_WAKE (R330). A sleeping transmit direction wakes, sends 16 idle flits and resumes. -/
  | blWake (port : Nat)
  /-- BL_REALIGN_TIMEOUT (R331). A receive direction not realigned 4 µs after signal fails the link. -/
  | blRealignTimeout (port : Nat)
  /-- NEIGHBOUR_NOTICE_SEND (R341). A joined switch sends a neighbour notice to the dealer after a link event. -/
  | neighbourNoticeSend (port : Nat)
  /-- DIRECTED_PACKET_RELAY (R344). A control island records its ingress port in RPATH and relays a directed packet one hop. -/
  | directedPacketRelay (port : Nat) (b : List Byte)
  /-- NEIGHBOUR_QUERY (R345). A directed neighbour query at its destination is answered with a neighbour reply. -/
  | neighbourQuery (port : Nat) (b : List Byte)
  /-- NEIGHBOUR_REPLY (R346). A directed neighbour reply is kept for directed_send, passed to the dealer or discarded. -/
  | neighbourReply (port : Nat) (b : List Byte)
  /-- CLASS_CHECK (R352). A received class check compares the link's classes and sets CLASSMIS on a mismatch. -/
  | classCheck (port : Nat) (b : List Byte)
  /-- DIRECTED_MW_REQUEST (R346). A directed management-window request is served and answered along the reversed path. -/
  | directedMwRequest (port : Nat) (b : List Byte)
  /-- DIRECTED_MW_RESPONSE (R346). A directed management-window response reaches its originator. -/
  | directedMwResponse (port : Nat) (b : List Byte)
  /-- DIRECTED_DOWN_TREE (R346). An unjoined switch acts on a tree message carried in a directed packet. -/
  | directedDownTree (port : Nat) (b : List Byte)
  /-- DIRECTED_UP_TREE (R346). A directed up tree message returns to the dealer along the reversed path. -/
  | directedUpTree (port : Nat) (b : List Byte)
  /-- VDSP_WINDOW_REGISTER_WRITE (R362). A host write to a vDSP routing register is held and a window notice is sent to the dealer. -/
  | vdspWindowRegisterWrite (vs n : Nat) (r : VdspWinReg) (v : Nat)
  /-- WINDOW_HOLD_TIMEOUT (R362). A held routing register write completes at 1 ms and sets HOLDTO. -/
  | windowHoldTimeout (vs n : Nat)
  /-- BUS_MAP_UPDATE (R367). A configuration write changing a bus-map input updates the map and its copies. -/
  | busMapUpdate (m : BusMapMsg)
  /-- HAND_RETURN_SEND (R374). A destination sends a hand-return packet when enough tokens are owed or RET_WAIT passes. -/
  | handReturnSend (f d : Nat)
  /-- HAND_RETURN_RECEIVE (R377). A hand-return packet reaching port 52 reduces the outstanding token counts. -/
  | handReturnReceive (f count0 count1 : Nat)
  /-- HAND_AUDIT (R380). One fabric timeout after an old epoch drains, leftover tokens are reclaimed and reported as a leak. -/
  | handAudit
  /-- STAGING_CHECK_START (R385). A write of 1 to RT_STAGE_CHK.START starts a check of the staged half. -/
  | stagingCheckStart
  /-- STAGING_CHECK_DONE (R385). The staging check ends and its code and index are written to RT_STAGE_STAT. -/
  | stagingCheckDone
  /-- FABRIC_TIMEOUT (R393). A non-posted request's fabric timeout expires at its requester-side switch. -/
  | fabricTimeout (reqId tag : Nat)
  /-- FABRIC_QUARANTINE_END (R397). A quarantined requester ID and tag pair is released. -/
  | fabricQuarantineEnd (reqId tag : Nat)
  /-- LOCK_BROKEN_NOTICE (R406). A lock-broken notice at the host port's switch sets XB_LOCK.BROKEN and counts it. -/
  | lockBrokenNotice (vs : Nat)
  /-- MW_READ (R408). A management-window read request is served by the register responder. -/
  | mwRead (src id addr : Nat)
  /-- MW_WRITE (R408). A management-window write request is served by the register responder. -/
  | mwWrite (src id addr data : Nat)
  /-- MW_LOCK_READ (R409). A lock-read locks the far switch's register bus for the requester. -/
  | mwLockRead (src id addr : Nat)
  /-- MW_UNLOCK_WRITE (R409). An unlock-write performs its write and releases the register bus lock. -/
  | mwUnlockWrite (src id addr data : Nat)
  /-- MW_RESPONSE (R407). A management-window response ends the waiting access with its status and data. -/
  | mwResponse (src id status data : Nat)
  /-- MW_READ_TIMEOUT (R407). A management-window read not answered in time completes with TIMEOUT and data 0. -/
  | mwReadTimeout (id : Nat)
  /-- MW_LOCK_TIMEOUT (R409). An unlock-write not arrived in time makes the far switch withdraw the lock. -/
  | mwLockTimeout
  /-- E2E_ACK_SEND (R419). The destination writes ND into DL_ACK_IN at the source after ACK_BATCH or ACK_WAIT. -/
  | e2eAckSend (f oc : Nat)
  /-- E2E_ACK_RECEIVE (R420). An acknowledgement written to DL_ACK_IN releases retained packets below it. -/
  | e2eAckReceive (d oc nd : Nat)
  /-- E2E_TIMER_EXPIRY (R422). A stream's end-to-end timer expires and the source resends under a fence or gives up. -/
  | e2eTimerExpiry (d oc : Nat)
  /-- FENCE_WRITE (R427). A FENCE write to DL_FENCE_IN starts ordered mode at the destination. -/
  | fenceWrite (f oc src val : Nat)
  /-- SKIP_WRITE (R454). A SKIP write releases held packets, sets ND, clears the mask and ends ordered mode. -/
  | skipWrite (f oc src val : Nat)
  /-- FENCE_POLL (R427). Every POLL the fencing switch reads the destination's ND. -/
  | fencePoll (f d oc : Nat)
  /-- FENCE_TIMEOUT (R429). No OK within FENCE_TO makes the fencing switch repeat its FENCE write. -/
  | fenceTimeout (f d oc : Nat)
  /-- LIFETIME_EXPIRY (R424). A sequenced packet whose sojourn reaches LIFE is discarded and counted. -/
  | lifetimeExpiry (pid : Nat)
  /-- PREPARE (R436). A switch accepts a PREPARE and votes yes, or votes with a rejection code. -/
  | prepare (src : TreeSrc) (m : TreeMsg)
  /-- VOTE (R461). Child VOTE messages are combined with the local result and sent to the parent. -/
  | vote (m : TreeMsg) (src : TreeSrc)
  /-- GO (R437). A PREPARED switch receives GO and schedules the apply instant, or applies at once when late. -/
  | goDeal (src : TreeSrc) (m : TreeMsg)
  /-- DEAL_APPLY (R438). At the apply instant the halves exchange, deal parameters act, DEAL markers are sent and drain round 1 starts. -/
  | dealApply
  /-- CANCEL (R439). A PREPARED switch returns to IDLE with its staged half unchanged. -/
  | cancel (src : TreeSrc) (m : TreeMsg)
  /-- DRAIN_MESSAGE (R440). A DRAIN message naming a later round begins that drain round. -/
  | drainMessage (src : TreeSrc) (m : TreeMsg)
  /-- DRAIN_LOCAL_CONFIRM (R440). Local drain is confirmed once all markers arrived and no old-parity flit remains. -/
  | drainLocalConfirm
  /-- CONFIRM (R461). Child CONFIRM messages are combined and sent to the parent. -/
  | confirm (src : TreeSrc) (m : TreeMsg)
  /-- RELEASE (R443). RELEASE returns a DRAINED switch to IDLE with the old half writable. -/
  | release (src : TreeSrc) (m : TreeMsg)
  /-- MARKER_RECEIVE (R451). A DRAIN, CUT or DEAL marker flit is received and acted on. -/
  | markerReceive (port sub info : Nat)
  /-- MARKER_TIMEOUT (R442). A marker missing on some port at the marker timeout sets TIMEOUT and records the ports. -/
  | markerTimeout (isCut : Bool)
  /-- CUT (R448). A switch latches its cut record on the CUT tree message and sends CUT markers. -/
  | cut (src : TreeSrc) (m : TreeMsg)
  /-- CUT_RECORD_COMPLETE (R449). The cut record completes when markers have arrived on every ACTIVE ingress port. -/
  | cutRecordComplete
  /-- CUT_DONE (R461). Child CUT_DONE messages are combined and sent to the parent. -/
  | cutDone (src : TreeSrc) (m : TreeMsg)
  /-- TREE_CHILD_TIMEOUT (R462). A child's up message missing at the marker timeout is left out and MISS is set. -/
  | treeChildTimeout (kind : Nat)
  /-- DEALER_HEARTBEAT (R447). The active dealer sends a heartbeat to the standby each heartbeat interval. -/
  | dealerHeartbeat
  /-- DEALER_TAKEOVER (R447). A standby that misses three heartbeats becomes active with a higher term and resumes. -/
  | dealerTakeover
  /-- RESET_MESSAGE (R696). A RESET tree message schedules a fabric reset at instant T. -/
  | resetMessage (src : TreeSrc) (m : TreeMsg)
  /-- FABRIC_RESET (R697). At T the switch leaves the fabric, clears its tables, streams and tree, and moves to STANDBY. -/
  | fabricReset
  /-- COLL_DESCRIPTOR (R467). A collective request is accepted into its group, or completed with DENIED or BADREQ. -/
  | collDescriptor (q : Nat) (data : List Byte)
  /-- COLL_UP (R472). A collective UP message is used, held or discarded by instance number and combined. -/
  | collUp (src : Nat) (m : CollMsg)
  /-- COLL_DOWN (R473). A collective DOWN message is written to DST and sent on to the children. -/
  | collDown (src : Nat) (m : CollMsg)
  /-- COLL_CREDIT (R474). A CREDIT message returns chunk credits from the parent. -/
  | collCredit (src : Nat) (m : CollMsg)
  /-- COLL_CREDIT_SEND (R474). A parent sends a CREDIT message when 8 credits are owed or 1 µs has passed. -/
  | collCreditSend (g child : Nat)
  /-- COLL_ABORT (R486). An ABORT for the present instance completes local requests ABORTED and is sent on. -/
  | collAbort (src : Nat) (m : CollMsg)
  /-- COLL_TIMEOUT (R484). The collective timeout expires and the member aborts the instance with TIMEOUT. -/
  | collTimeout (g : Nat)
  /-- GROUP_DISABLE (R468). A write of 0 to a group's EN aborts its instance and waiting requests. -/
  | groupDisable (g : Nat)
  /-- RUN_DISPATCH (R516). The dispatcher assigns a waiting RUN to free engines of one customer cluster. -/
  | runDispatch (cluster : Nat)
  /-- COPY_DESCRIPTOR (R513). A COPY descriptor is executed by firmware engines in the function's name. -/
  | copyDescriptor (q : Nat)
  /-- NOP_DESCRIPTOR (R511). A NOP descriptor completes with a completion record. -/
  | nopDescriptor (q : Nat)
  /-- QUANTUM_BOUNDARY (R517). At a quantum boundary used cycles reset and new engine weights take effect. -/
  | quantumBoundary
  /-- RUN_LIMIT_EXPIRY (R518). A run not ended within the run limit faults with code 0x06. -/
  | runLimitExpiry (run : Nat)
  /-- LD (R497). LD loads memory into gD with the size and extension given by M. -/
  | ld (e : Nat) (w : OpWord)
  /-- ST (R497). ST stores the low bytes of gB to memory. -/
  | st (e : Nat) (w : OpWord)
  /-- LDP (R497). LDP loads 16 bytes into gD and gD+1. -/
  | ldp (e : Nat) (w : OpWord)
  /-- STP (R497). STP stores gB and gB+1 as 16 bytes. -/
  | stp (e : Nat) (w : OpWord)
  /-- VLD (R497). VLD loads 32 bytes into vD. -/
  | vld (e : Nat) (w : OpWord)
  /-- VST (R497). VST stores vB as 32 bytes. -/
  | vst (e : Nat) (w : OpWord)
  /-- PRF (R500). PRF prefetches 64 bytes where allowed and otherwise is discarded. -/
  | prf (e : Nat) (w : OpWord)
  /-- AADD (R499). AADD atomically adds gB to memory and returns the old value. -/
  | aadd (e : Nat) (w : OpWord)
  /-- AAND (R499). AAND atomically ANDs gB into memory and returns the old value. -/
  | aand (e : Nat) (w : OpWord)
  /-- AOR (R499). AOR atomically ORs gB into memory and returns the old value. -/
  | aor (e : Nat) (w : OpWord)
  /-- ASWP (R499). ASWP atomically swaps gB into memory and returns the old value. -/
  | aswp (e : Nat) (w : OpWord)
  /-- ACAS (R499). ACAS compares memory with gD and stores gB when equal. -/
  | acas (e : Nat) (w : OpWord)
  /-- ACASP (R499). ACASP performs a 16-byte compare-and-swap. -/
  | acasp (e : Nat) (w : OpWord)
  /-- MOV (R497). MOV copies gA to gD. -/
  | mov (e : Nat) (w : OpWord)
  /-- MOVI (R497). MOVI loads the sign-extended immediate into gD. -/
  | movi (e : Nat) (w : OpWord)
  /-- MOVH (R497). MOVH writes the immediate into the upper half of gD. -/
  | movh (e : Nat) (w : OpWord)
  /-- ADD (R497). ADD adds gA and gB modulo 2^64. -/
  | add (e : Nat) (w : OpWord)
  /-- ADDI (R497). ADDI adds the immediate to gA. -/
  | addi (e : Nat) (w : OpWord)
  /-- SUB (R497). SUB subtracts gB from gA. -/
  | sub (e : Nat) (w : OpWord)
  /-- MUL (R497). MUL writes the low 64 bits of gA times gB. -/
  | mul (e : Nat) (w : OpWord)
  /-- AND (R497). AND writes gA and gB. -/
  | andOp (e : Nat) (w : OpWord)
  /-- OR (R497). OR writes gA or gB. -/
  | orOp (e : Nat) (w : OpWord)
  /-- XOR (R497). XOR writes gA xor gB. -/
  | xorOp (e : Nat) (w : OpWord)
  /-- SHL (R497). SHL shifts gA left by gB mod 64. -/
  | shl (e : Nat) (w : OpWord)
  /-- SHR (R497). SHR shifts gA right logically by gB mod 64. -/
  | shr (e : Nat) (w : OpWord)
  /-- SLT (R497). SLT writes 1 when gA is less than gB as signed. -/
  | slt (e : Nat) (w : OpWord)
  /-- MCPY (R497). MCPY copies gB bytes from address gA to address gD. -/
  | mcpy (e : Nat) (w : OpWord)
  /-- MFILL (R497). MFILL fills gB bytes at gD with an immediate byte. -/
  | mfill (e : Nat) (w : OpWord)
  /-- VADD (R497). VADD adds vA and vB lane by lane. -/
  | vadd (e : Nat) (w : OpWord)
  /-- VMUL (R497). VMUL multiplies vA and vB lane by lane. -/
  | vmul (e : Nat) (w : OpWord)
  /-- VFMA (R497). VFMA adds vA times vB to vD with one rounding per lane. -/
  | vfma (e : Nat) (w : OpWord)
  /-- VMIN (R497). VMIN writes the lane minimum of vA and vB. -/
  | vmin (e : Nat) (w : OpWord)
  /-- VMAX (R497). VMAX writes the lane maximum of vA and vB. -/
  | vmax (e : Nat) (w : OpWord)
  /-- VBC (R497). VBC broadcasts the low lane bits of gA to every lane of vD. -/
  | vbc (e : Nat) (w : OpWord)
  /-- VEXT (R497). VEXT extracts a lane of vA into gD. -/
  | vext (e : Nat) (w : OpWord)
  /-- ACZ (R502). ACZ clears an accumulation slot and sets its type. -/
  | acz (e : Nat) (w : OpWord)
  /-- ACA (R503). ACA adds the lanes of vA exactly into an accumulation slot. -/
  | aca (e : Nat) (w : OpWord)
  /-- ACR (R504). ACR rounds an accumulation slot into vD. -/
  | acr (e : Nat) (w : OpWord)
  /-- WAIT (R497). WAIT holds the engine until a memory value reaches gB or a time limit passes. -/
  | waitOp (e : Nat) (w : OpWord)
  /-- WAIT_MET (R497). The awaited 8-byte value reaches gB and WAIT ends with gD 0. -/
  | waitMet (e : Nat) (data : List Byte)
  /-- WAIT_TIMEOUT (R497). The WAIT time limit passes and WAIT ends with gD 1. -/
  | waitTimeout (e : Nat)
  /-- SIG (R497). SIG atomically adds the immediate to an 8-byte location. -/
  | sig (e : Nat) (w : OpWord)
  /-- IRQ (R497). IRQ sends the message of the RUN's queue vector. -/
  | irq (e : Nat) (w : OpWord)
  /-- B (R497). B branches by the immediate. -/
  | b (e : Nat) (w : OpWord)
  /-- BZ (R497). BZ branches when gA is zero. -/
  | bz (e : Nat) (w : OpWord)
  /-- BNZ (R497). BNZ branches when gA is not zero. -/
  | bnz (e : Nat) (w : OpWord)
  /-- CALL (R497). CALL saves the return PC in g15 and branches. -/
  | call (e : Nat) (w : OpWord)
  /-- RET (R497). RET returns to the PC held in g15. -/
  | ret (e : Nat) (w : OpWord)
  /-- END (R497). END ends the engine's part of the run, and the last END completes the run. -/
  | endOp (e : Nat) (w : OpWord)
  /-- BAR_ENGINE (R531). An engine-scope barrier waits for earlier loads, copies and atomics. -/
  | barEngine (e : Nat) (w : OpWord)
  /-- BAR_CLUSTER (R532). A cluster-scope barrier also waits for SRAM and LPDDR4X stores and empties the prefetch buffer. -/
  | barCluster (e : Nat) (w : OpWord)
  /-- BAR_SYSTEM (R533). A system-scope barrier drains the store buffer and sends flush reads to every flush-set GPA. -/
  | barSystem (e : Nat) (w : OpWord)
  /-- SYSTEM_BARRIER_COMPLETE (R549). Every flush read has completed or expired, and the barrier completes with gD set. -/
  | systemBarrierComplete (e : Nat) (oks : List Bool)
  /-- DEVICE_LOAD_RETURN (R529). The data of a device load returns and releases the held engine. -/
  | deviceLoadReturn (e : Nat) (r : AccEnd)
  /-- PREFETCH_ENTRY_EXPIRY (R544). A prefetch buffer entry filled 2 µs ago is discarded. -/
  | prefetchEntryExpiry (e addr : Nat)
  /-- ENGINE_SAMPLE (R520). When the event count reaches 2^n the engine writes a sampled PC to EN_SMP_PC. -/
  | engineSample (e : Nat) (ahead : Nat)
  /-- READ (R559). An Ikiup READ returns the values of up to 32 entries taken in one pass. -/
  | read (h : ReqHdr) (es : List EntryRef)
  /-- WRITE (R557). An Ikiup WRITE checks every entry and stores all of them or none. -/
  | write (h : ReqHdr) (es : List EntryWrite)
  /-- DESCRIBE (R554). DESCRIBE returns an entry's descriptor. -/
  | describe (h : ReqHdr) (r : EntryRef)
  /-- SUBSCRIBE (R587). SUBSCRIBE sets the session's notification class mask. -/
  | subscribe (h : ReqHdr) (mask : Nat)
  /-- NOTIFY_ACK (R588). NOTIFY_ACK acknowledges every notice up to its NSEQ. -/
  | notifyAck (h : ReqHdr) (nseq : Nat)
  /-- KEEPALIVE (R583). KEEPALIVE restarts the session's idle timeout. -/
  | keepalive (h : ReqHdr)
  /-- OPEN (R580). OPEN starts a UDP session and is answered with a CHALLENGE. -/
  | openSession (h : ReqHdr) (slot : Nat) (body : List Byte)
  /-- PROOF (R580). PROOF is verified and the session opens with ACCEPT, or is refused. -/
  | proof (h : ReqHdr) (sig : List Byte)
  /-- CLOSE (R583). CLOSE closes the session and discards its notices and held load targets. -/
  | closeSession (h : ReqHdr)
  /-- SESSION_IDLE_TIMEOUT (R583). A session with no valid frame for its idle timeout is closed. -/
  | sessionIdleTimeout (k : SessKey)
  /-- PROOF_TIMEOUT (R582). A session whose PROOF has not arrived 5 s after the CHALLENGE is discarded. -/
  | proofTimeout (k : SessKey)
  /-- KEY_SLOT_UNLOCK (R582). A locked key slot accepts OPEN again after 60 s. -/
  | keySlotUnlock (slot : Nat)
  /-- RWS_FLASH_COMMIT (R558). An RWS value is committed to flash and the WRITE response is sent. -/
  | rwsFlashCommit (k : SessKey)
  /-- NOTIFY_RETRANSMIT (R588). Unacknowledged notices are sent again every 100 ms. -/
  | notifyRetransmit (k : SessKey)
  /-- EVENT_NOTICE_SEND (R627). A raised event source with a class produces a notice at most once per 1 ms. -/
  | eventNoticeSend (src : Nat)
  /-- CONTINUE (R564). CONTINUE restores the RWS values and moves MEASURED to STANDBY. -/
  | continueCmd (h : ReqHdr)
  /-- DRAIN (R564). DRAIN moves ACTIVE to DRAINING and sends a drain notice to the dealer. -/
  | drain (h : ReqHdr)
  /-- MAINTAIN (R565). MAINTAIN enters MAINTENANCE at once in STANDBY or when forced, and otherwise waits for the drain condition. -/
  | maintain (h : ReqHdr) (force : Bool)
  /-- MAINTAIN_COMPLETE (R565). The drain condition holds, ports are disabled and the device enters MAINTENANCE. -/
  | maintainComplete
  /-- MAINTAIN_TIMEOUT (R565). maint_wait passes first and the MAINTAIN result is 0x0406. -/
  | maintainTimeout
  /-- RESUME (R564). RESUME leaves MAINTENANCE for ACTIVE when joined, STANDBY otherwise. -/
  | resume (h : ReqHdr)
  /-- ABORT_DRAIN (R564). ABORT_DRAIN returns DRAINING to ACTIVE. -/
  | abortDrain (h : ReqHdr)
  /-- MGMT_RESET (R689). MGMT_RESET performs a management reset through BOOT. -/
  | mgmtReset (h : ReqHdr)
  /-- DEVICE_FAULT (R566). An uncorrectable management or table-half error moves the device to FAULT. -/
  | deviceFault (cause : Nat)
  /-- LOAD_DATA_WRITE (R591). The holder's write of a load data entry stores bytes at the offset and advances it. -/
  | loadDataWrite (h : ReqHdr) (idx : Nat) (data : List Byte)
  /-- LOAD_OFFSET_WRITE (R591). The holder's write of a load offset entry sets the offset. -/
  | loadOffsetWrite (h : ReqHdr) (idx : Nat) (off : Nat)
  /-- EQ_OPEN (R591). eq_cmd OPEN clears the equalisation table staging area and makes the session holder. -/
  | eqOpen (h : ReqHdr)
  /-- EQ_COMMIT (R267). eq_cmd COMMIT writes the image into the other copy and accepts it only when valid with a larger SEQ. -/
  | eqCommit (h : ReqHdr)
  /-- MARGIN_CMD (R268). margin_cmd runs receiver margining on a fabric-port lane. -/
  | marginCmd (h : ReqHdr) (port : Nat) (v : Nat)
  /-- MARGIN_DONE (R268). At the end of the dwell the margining result is written. -/
  | marginDone (port bits errs : Nat)
  /-- DPC_CMD (R198). dpc_cmd writes 1 to DPC Trigger Status of the bound vDSP. -/
  | dpcCmd (h : ReqHdr) (port : Nat)
  /-- ATN_CMD (R208). atn_cmd presses the attention button of a virtual slot. -/
  | atnCmd (h : ReqHdr) (port : Nat)
  /-- RES_ADD_QUEUES (R234). res_cmd op 0x01 adds queues to a function. -/
  | resAddQueues (h : ReqHdr) (vs fn v : Nat)
  /-- RES_REVOKE_QUEUES (R235). res_cmd op 0x02 requests revocation of queues from a function. -/
  | resRevokeQueues (h : ReqHdr) (vs fn v : Nat)
  /-- RES_SET_VECTORS (R232). res_cmd op 0x03 sets a function's MSI-X allocation. -/
  | resSetVectors (h : ReqHdr) (vs fn v : Nat)
  /-- RES_SET_ENGINE_WEIGHT (R236). res_cmd op 0x04 sets a function's engine weight. -/
  | resSetEngineWeight (h : ReqHdr) (vs fn v : Nat)
  /-- RES_SET_FLOW (R237). res_cmd op 0x05 names a function's shaped flow. -/
  | resSetFlow (h : ReqHdr) (vs fn v : Nat)
  /-- SCHED_COMMIT (R123). sched_commit writes ARB_COMMIT.COMMIT and returns the new SEQ. -/
  | schedCommit (h : ReqHdr)
  /-- REG_VAL_WRITE (R598). A write of reg_val writes the register that reg_sel names, subject to plane and role limits. -/
  | regValWrite (h : ReqHdr) (v : Nat)
  /-- CUT_CMD (R448). cut_cmd starts a cut with the given id. -/
  | cutCmd (h : ReqHdr) (id : Nat)
  /-- DIRECTED_SEND (R346). directed_send sends a directed packet from this switch's control island. -/
  | directedSend (h : ReqHdr) (b : List Byte)
  /-- KEY_OPEN (R591). key_cmd OPEN starts loading an empty key slot. -/
  | keyOpen (h : ReqHdr) (slot : Nat)
  /-- KEY_COMMIT (R580). key_cmd COMMIT enrols the loaded key with its role and measures it. -/
  | keyCommit (h : ReqHdr) (slot role : Nat)
  /-- KEY_ERASE (R602). key_cmd ERASE erases a key slot and closes its sessions. -/
  | keyErase (h : ReqHdr) (slot : Nat)
  /-- REPORT_CMD (R649). report_cmd takes a report snapshot with the given nonce. -/
  | reportCmd (h : ReqHdr) (nonce : List Byte)
  /-- REPORT_READY (R649). The signed report is ready and its result is written. -/
  | reportReady
  /-- PROG_OPEN (R603). prog_cmd OPEN moves an EMPTY program slot to LOADING for a VS. -/
  | progOpen (h : ReqHdr) (slot vs : Nat)
  /-- PROG_COMMIT (R603). prog_cmd COMMIT moves the slot to MEASURING. -/
  | progCommit (h : ReqHdr) (slot : Nat)
  /-- PROGRAM_MEASURED (R507). The program digest is logged and the slot becomes ACTIVE, or returns to EMPTY. -/
  | programMeasured (slot : Nat)
  /-- PROG_RETIRE (R603). prog_cmd RETIRE empties a LOADING slot or starts RETIRING an ACTIVE one. -/
  | progRetire (h : ReqHdr) (slot : Nat)
  /-- FW_OPEN (R591). fw_cmd OPEN starts loading a firmware image. -/
  | fwOpen (h : ReqHdr) (kind : Nat)
  /-- FW_COMMIT (R651). fw_cmd COMMIT writes, verifies and marks a valid image current and records it. -/
  | fwCommit (h : ReqHdr) (kind : Nat)
  /-- RAISE_SVN (R652). fw_cmd RAISE_SVN raises the fused minimum SVN of an image kind. -/
  | raiseSvn (h : ReqHdr) (kind : Nat)
  /-- PE_CLEAR (R688). pe_clear clears the sticky power-entry flags and pe_last_trip. -/
  | peClear (h : ReqHdr)
  /-- CLUSTER_RESET (R700). cluster_cmd aborts a customer cluster's runs and zeroes its SRAM and slots. -/
  | clusterReset (h : ReqHdr) (c : Nat)
  /-- TIME_SYNC (R609). A SYNC TIME flit gives the partner's departure time. -/
  | timeSync (port val : Nat)
  /-- TIME_REPORT (R613). A REPORT TIME flit completes an exchange and the offset and delay are computed. -/
  | timeReport (port val : Nat)
  /-- TIME_HIGH (R609). A HIGH TIME flit carries bits 39 to 20 of the last SYNC time. -/
  | timeHigh (port val : Nat)
  /-- TIME_TOP (R609). A TOP TIME flit carries bits 59 to 40 of the last SYNC time. -/
  | timeTop (port val : Nat)
  /-- TIME_STATE (R609). A STATE TIME flit carries the top time bits, DIST, TREE, LOCKED and TPORT. -/
  | timeState (port val : Nat)
  /-- TIME_ROOT (R609). A ROOT0 to ROOT3 TIME flit carries part of the root SERIAL. -/
  | timeRoot (port q val : Nat)
  /-- TIME_EXCHANGE_INTERVAL (R610). Each exchange interval a side sends SYNC, REPORT and the next descriptor flit. -/
  | timeExchangeInterval (port : Nat)
  /-- TIME_DESCRIPTOR_EXPIRY (R611). A root descriptor not refreshed for 4 ms expires. -/
  | timeDescriptorExpiry (port : Nat)
  /-- TIME_PORT_LOSS (R611). LOSS intervals without a good SYNC lose the time port. -/
  | timePortLoss (port : Nat)
  /-- PTM_HOST_REQUEST (R620). Every 1 ms the host-port switch sends a PTM Request to the host. -/
  | ptmHostRequest (vs : Nat)
  /-- PTM_HOST_RESPONSE (R620). A PTM response from the host updates TM_PTM_OFF of the VS. -/
  | ptmHostResponse (vs host : Nat)
  /-- BW_WINDOW_END (R625). At the end of a bandwidth window each port's bytes are latched. -/
  | bwWindowEnd
  /-- WEAR_TICK (R629). Each second the acceleration factor is added to each die's age and eol_predicted is updated. -/
  | wearTick
  /-- WEAR_STORE (R629). Every hour the wear ages are stored in the configuration flash. -/
  | wearStore
  /-- DIE_TEMP_READING (R719). A new die temperature reading is judged against the THERM_N and shutdown thresholds. -/
  | dieTempReading (die : Nat) (milliC : Int)
  /-- REMEASURE (R643). Every remeasure_interval the running code of slots 1 and 2 is hashed again and compared. -/
  | remeasure (slot : Nat) (code : List Byte)
  /-- IMAGE_MEASURE (R635). An image is verified and measured, its record logged and the image started in order. -/
  | imageMeasure (slot : Nat)
  /-- BOOT_COMPLETE (R701). All images are measured and the device enters MEASURED, then STANDBY unless boot_hold holds it. -/
  | bootComplete
  /-- ECC_INIT_COMPLETE (R704). Inline ECC initialisation of the LPDDR4X regions completes. -/
  | eccInitComplete
  /-- RRS_LIMIT_EXPIRY (R703). Once rrs_limit has passed unjoined, requests below vDSPs are answered by R184 and an event is raised. -/
  | rrsLimitExpiry
  /-- POWER_GOOD (R659). Power-good is asserted once rails are in regulation and a cold start enters BOOT. -/
  | powerGood
  /-- WARM_RESET (R690). RST_N held low for 10 µs performs a warm reset through BOOT. -/
  | warmReset (held : Nat)
  /-- VS_HOT_RESET (R699). A hot reset or host link down resets one virtual switch and its functions. -/
  | vsHotReset (vs : Nat)
  /-- HOST_PERST_ASSERT (R712). A host port's PERST_N input going low holds its link in Detect. -/
  | hostPerstAssert (port : Nat)
  /-- HOST_PERST_RELEASE (R713). A host port's PERST_N released lets its link train to L0. -/
  | hostPerstRelease (port : Nat)
  /-- CONTROLLER_START (R675). A feed reaches 4.0 V and the power-entry controller starts in WAIT. -/
  | controllerStart (x : PeSample)
  /-- FEED_USABLE (R655). A feed passes the usable test for 10 ms. -/
  | feedUsable (f : Nat) (x : PeSample)
  /-- FEED_LOST (R656). A lost feed's gate is turned off and a transfer starts when the other feed is usable. -/
  | feedLost (f : Nat) (why : FeedLoss) (x : PeSample)
  /-- TRANSFER_BREAK_END (R668). At the end of the break the incoming gate starts regulated turn-on. -/
  | transferBreakEnd
  /-- TRANSFER_END (R669). The incoming gate is fully on and the transfer ends and is counted. -/
  | transferEnd (x : PeSample)
  /-- FEED_REVERT (R670). After the preferred feed is usable for 10 s the controller transfers back when t_safe allows. -/
  | feedRevert (x : PeSample)
  /-- RAMP_END (R657). The bus reaches the feed, the gate is fully on and the rails are enabled. -/
  | rampEnd (x : PeSample)
  /-- INRUSH_FAULT_TIMEOUT (R658). inrush_fault_time expires before the ramp or transfer ends and the module trips. -/
  | inrushFaultTimeout
  /-- RAIL_FAULT_TIMEOUT (R659). A rail not in regulation within 5 ms trips the module. -/
  | railFaultTimeout
  /-- FAST_TRIP (R661). Gate current above the fast-trip threshold turns the gate off and trips the module. -/
  | fastTrip (f : Nat) (ma : Nat)
  /-- BREAKER_TRIP (R664). A breaker point timer reaches its time and the module trips. -/
  | breakerTrip (f pt : Nat) (ma : Nat)
  /-- LATCH_RELEASE (R666). RST_N held low for 10 ms ends LATCHED and the controller goes to WAIT. -/
  | latchRelease
  /-- CONTROLLER_STOP (R666). Both feeds below 4.0 V stop the controller. -/
  | controllerStop (x : PeSample)
  /-- SAG_WARN (R673). The bus falls below sag_warn and PFW_N is asserted. -/
  | sagWarn (x : PeSample)
  /-- PFW_RELEASE (R673). PFW_N is released after 1 ms at or above sag_warn plus 100 mV. -/
  | pfwRelease (x : PeSample)
  /-- SAG_RESET (R674). The bus falls below sag_reset, power is removed and the controller enters WAIT. -/
  | sagReset (x : PeSample)
  /-- ENERGY_STORE (R677). Every 60 s the energy counters are stored. -/
  | energyStore
  /-- SLOT_SOFT_START (R679). A slot channel begins a soft start once its conditions hold. -/
  | slotSoftStart (k : Nat)
  /-- SLOT_POWER_GOOD (R679). SLOT_VOUT reaches 95 % of the rail and the channel reports power good. -/
  | slotPowerGood (k mv : Nat)
  /-- SLOT_START_TIMEOUT (R679). slot_fault_time expires during the soft start and the channel trips with cause 0x02. -/
  | slotStartTimeout (k : Nat)
  /-- SLOT_FAST_TRIP (R680). Channel current above twice slot_limit trips the channel with cause 0x01. -/
  | slotFastTrip (k ma : Nat)
  /-- SLOT_FAULT_TIME_TRIP (R680). Current above slot_limit for slot_fault_time while ON trips with cause 0x03. -/
  | slotFaultTimeTrip (k ma : Nat)
  /-- SLOT_VOUT_TRIP (R680). SLOT_VOUT below 90 % of the rail for 10 µs while ON trips with cause 0x04. -/
  | slotVoutTrip (k mv : Nat)
  /-- SLOT_RETRY_END (R682). The retry timer ends and the channel enters WAIT. -/
  | slotRetryEnd (k : Nat)
  /-- SLOT_COUNT_RESTART (R682). After 10 s in ON the channel's trip count restarts at 0. -/
  | slotCountRestart (k : Nat)
  /-- SLOT_PRESENCE_LOSS (R683). Presence lost in RAMP or ON turns the gate off and enters WAIT. -/
  | slotPresenceLoss (k : Nat)
  /-- SLOT_SAG (R685). SLOT_VOUT below slot_sag with the gate on asserts SLOT_PFW_N. -/
  | slotSag (k mv : Nat)
  /-- SLOT_PFW_RELEASE (R685). SLOT_PFW_N is released after 1 ms at or above slot_sag plus 100 mV. -/
  | slotPfwRelease (k mv : Nat)
  /-- RECEIVER_ALIGNED (R297). The Brorna link receiver finds the flit boundary, lane order and polarity and starts sending RXOK 1 in its idle flits. -/
  | receiverAligned (port : Nat)
  /-- PRBS_CHECKER_LOCK (R281). The PRBS31 checker of a lane locks after 64 consecutive matching bits, sets LOCK and starts counting, which in TRAIN opens the check window. -/
  | prbsCheckerLock (lane : Nat)
  /-- L1_EXIT (R178). A PCIe port in ASPM L1 leaves L1 and returns to L0 when either side has traffic to send. -/
  | l1Exit (port : Nat)
  /-- PCIE_CREDIT_UPDATE (R132). A flow-control credit update from the PCIe link partner of a host or device port adds to the credit that egress eligibility counts. -/
  | pcieCreditUpdate (port : Nat) (kind hdr data : Nat)
  /-- STORE_VISIBLE (R522). A store leaves an engine's store buffer and reaches its point of visibility in SRAM, LPDDR4X or at the completer. -/
  | storeVisible (e seq : Nat)
  /-- ACCESS_COMPLETE (R531). An earlier normal-memory load, prefetch, MCPY, MFILL or atomic of an engine returns its value or completes. -/
  | accessComplete (e seq : Nat) (r : AccEnd)
  /-- COPY_COMPLETE (R515). The firmware engines finish a COPY descriptor and its completion record is written with the bytes moved. -/
  | copyComplete (q : Nat) (moved : Nat) (data : List Byte)
  /-- RST_N_RELEASE (R690). RST_N rises after a warm reset hold and BOOT begins. -/
  | rstNRelease
  deriving DecidableEq, Repr

end Sys2Proof
end

