-- ==== Sys2Proof/Decode.lean ====
section
/-! DEFINITION. The reading of a command from a word. No row of the opcode table gives bits: the commands are events at the
module's contacts, links, registers and clocks, and no word spells one. -/
namespace Sys2Proof

/-- The command a word of `nbits` bits spells under the opcode table's bits: none, since no row gives bits. -/
def decodeTableWord (_nbits _w : Nat) : Option Instr := none

end Sys2Proof
end

