-- ==== Sys2Proof/Config.lean ====
section
/-! DEFINITION. What an implementation fixes and the values the spec leaves open: opaque constants, so that no proof can see
their values. A free value is applied to what it depends on, or to a counter of the state that each use advances. -/
namespace Sys2Proof.Config

/-- A free natural number, fresh for each value of the counter it is applied to.
[log: DESIGN CHOICE 5, DESIGN CHOICE 78, DESIGN CHOICE 97, DESIGN CHOICE 186] -/
opaque freeNat : Nat → Nat
/-- Free bytes: the values of bytes the spec does not state, by counter. [log: DESIGN CHOICE 5] -/
opaque freeByte : Nat → Byte
/-- The bytes of a TLP that the switch builds, in the flit-mode format (PCI Express gives it). [log: DESIGN CHOICE 12] -/
opaque tlpBytes : Tlp → List Byte
/-- The bytes of a TLP of which the switch changes the address or the poisoned bit: from its bytes as they arrived, with all that is
not changed (prefixes, orthogonal header content, PASID, IDE content) as it was (R202). [log: DESIGN CHOICE 12] -/
opaque tlpEdit : List Byte → Tlp → List Byte
/-- The header of a TLP's bytes as AER's header log holds it, of flit mode (true) or without (R192; PCI Express gives both).
[log: DESIGN CHOICE 12] -/
opaque headerOf : Bool → List Byte → List Byte
/-- A TLP's bytes converted from the format without flit mode to the flit-mode format, and back (R390; PCI Express gives both).
[log: DESIGN CHOICE 12] -/
opaque toFlitMode : List Byte → List Byte
/-- [log: DESIGN CHOICE 12] -/
opaque fromFlitMode : List Byte → List Byte
/-- Sign and payload of the NaN that an engine's floating-point operation gives, by type and operands: IEEE 754 leaves them open.
[log: DESIGN CHOICE 119] -/
opaque nanBits : Nat → Nat → Nat → Nat → Nat
/-- VMIN and VMAX of a lane with a NaN operand: the spec states no result. [log: DESIGN CHOICE 119] -/
opaque nanPick : Nat → Nat → Nat → Bool → Nat
/-- The result of an integer accumulator past its addition bound: the spec gives one for floating-point types alone (R477).
[log: DESIGN CHOICE 121] -/
opaque intHeadroom : Nat → Nat → Nat
/-- ML-DSA-65 verification (FIPS 204): public key, message, context string, signature. [log: DESIGN CHOICE 152] -/
opaque mldsaVerify : List Byte → List Byte → List Byte → List Byte → Bool
/-- The device key's signature over a message under a context string (R646, R648), 3,309 bytes, and its public key.
[log: DESIGN CHOICE 152] -/
opaque deviceSign : List Byte → List Byte → List Byte
/-- [log: DESIGN CHOICE 152] -/
opaque devicePub : List Byte
/-- ML-KEM-768 encapsulation (FIPS 203) to a key with the randomness of a counter: ciphertext and shared secret (R580).
[log: DESIGN CHOICE 151, DESIGN CHOICE 152] -/
opaque encapsulate : List Byte → Nat → List Byte × List Byte
/-- What the boot ROM holds (R636, R648): the digest of the firmware signing key, its version. [log: DESIGN CHOICE 192] -/
opaque romKeyDigest : List Byte
/-- [log: DESIGN CHOICE 192] -/
opaque romVersion : Nat
/-- The firmware images a module is made with, by kind and copy (R635), and the bank its controller runs at first (R694).
[log: DESIGN CHOICE 192] -/
opaque factoryImage : Nat → Nat → List Byte
/-- [log: DESIGN CHOICE 192] -/
opaque factoryBank : List Byte
/-- The stored value block of the RWS values, whose format the spec does not give (R561, R639). [log: DESIGN CHOICE 192] -/
opaque storedBlock : Tbl OVal → List Byte
/-- The certificate chain (R647), the MAC address and the ordering code of the module (0x1000, 0x1001).
[log: DESIGN CHOICE 163] -/
opaque certChain : List Byte
/-- [log: DESIGN CHOICE 163] -/
opaque macAddr : List Byte
/-- [log: DESIGN CHOICE 163] -/
opaque orderingCode : Bool
/-- A measurement of the power-entry stage or of a sensor as a read returns it, by entry and counter: binary32 bits.
[log: DESIGN CHOICE 163, DESIGN CHOICE 178] -/
opaque reading : Nat → Nat → Nat
/-- A microjoule count of a meter as a read returns it, by entry and counter. [log: DESIGN CHOICE 163, DESIGN CHOICE 179] -/
opaque meter : Nat → Nat → Nat
/-- The encoded default that DESCRIBE gives for an entry without one in the index, and the name of subindex 0 (R553, R554).
[log: DEDUCED 162] -/
opaque noDefault : Nat → Nat → List Byte
/-- [log: DEDUCED 162] -/
opaque zeroName : Nat → List Byte
/-- Configuration words whose fields the spec leaves to PCI Express, by function kind (0 USP, 1 vDSP, 2 PF, 3 VF) and offset.
[log: DESIGN CHOICE 19] -/
opaque cfgRom : Nat → Nat → Nat
/-- Where the other extended capabilities of the USP (0) and of a vDSP (1) stand, by kind and capability ID: the spec gives their order and
not their offsets. [log: DESIGN CHOICE 19] -/
opaque extCap : Nat → Nat → Nat
/-- The capability ID of Physical Layer 128.0 GT/s (PCI Express Revision 7.0 gives it). [log: DESIGN CHOICE 19] -/
opaque phy128Id : Nat
/-- Where extended capabilities stand whose offset the spec does not state: ACS and DPC of a vDSP, PTM and Device Serial Number of
the USP. [log: DESIGN CHOICE 19] -/
opaque vdspAcs : Nat
/-- [log: DESIGN CHOICE 19] -/
opaque vdspDpc : Nat
/-- [log: DESIGN CHOICE 19] -/
opaque uspPtm : Nat
/-- [log: DESIGN CHOICE 19] -/
opaque uspDsn : Nat
/-- The module serial number, fixed at manufacture (R337). [log: DESIGN CHOICE 163] -/
opaque serial : Nat

end Sys2Proof.Config
end

