-- ==== Sys2Proof/Machine/Operands.lean ====
section
/-! DEFINITION. The operand forms of engine operations and collectives: element types and their lanes (R496), floating-point
formats as exact dyadic numbers, IEEE 754 rounding in the four modes (R479, R497), vector lanes as one 256-bit number. -/
namespace Sys2Proof.Machine

/-- The element types of R496: 0 INT32, 1 INT64, 2 BF16, 3 FP32, 4 FP64; their widths. -/
def typWidth (t : Nat) : Nat := if t = 0 ∨ t = 3 then 32 else if t = 2 then 16 else 64
def typLanes (t : Nat) : Nat := 256 / typWidth t
def typInt (t : Nat) : Bool := decide (t < 2)

/-- Exponent and fraction bits of a floating-point type. -/
def expBits (t : Nat) : Nat := if t = 4 then 11 else 8
def fracBits (t : Nat) : Nat := if t = 4 then 52 else if t = 3 then 23 else 7

/-- The exponent of the least subnormal of a type: 2 to this power. -/
def minExp (t : Nat) : Int := 2 - Int.ofNat (2 ^ (expBits t - 1)) - Int.ofNat (fracBits t)

/-- A floating-point value: NaN, an infinity or a zero with its sign, or m × 2^e with m not 0. -/
inductive FVal where
  | nan
  | inf (neg : Bool)
  | zero (neg : Bool)
  | fin (m e : Int)
  deriving DecidableEq, Repr

/-- The value of an encoding. -/
def fdecode (t x : Nat) : FVal :=
  let f := fracBits t
  let neg := x.testBit (f + expBits t)
  let ex := bitsOf x (f + expBits t - 1) f
  let fr := x % 2 ^ f
  if ex = 2 ^ expBits t - 1 then (if fr = 0 then .inf neg else .nan)
  else if ex = 0 ∧ fr = 0 then .zero neg
  else
    let m : Int := if ex = 0 then Int.ofNat fr else Int.ofNat (2 ^ f + fr)
    .fin (if neg then -m else m) (minExp t + Int.ofNat (if ex = 0 then 0 else ex - 1))

/-- The encodings of an infinity, a zero, the largest finite number, and the canonical quiet NaN (R479). -/
def signBit (t : Nat) (neg : Bool) : Nat := if neg then 2 ^ (fracBits t + expBits t) else 0
def finf (t : Nat) (neg : Bool) : Nat := signBit t neg + (2 ^ expBits t - 1) * 2 ^ fracBits t
def fmax (t : Nat) (neg : Bool) : Nat := finf t neg - 1
def fnan (t : Nat) : Nat := (2 ^ expBits t - 1) * 2 ^ fracBits t + 2 ^ (fracBits t - 1)

/-- Whether the magnitude q + r / d, with 0 ≤ r < d, is rounded up to q + 1: mode 0 to nearest even, 1 toward zero, 2 toward
+∞, 3 toward −∞. -/
def roundUp (mode q r d : Nat) (neg : Bool) : Bool :=
  match mode with
  | 0 => decide (d < 2 * r) || (decide (2 * r = d) && q % 2 == 1)
  | 1 => false
  | 2 => !neg && r != 0
  | _ => neg && r != 0

/-- m × 2^e, m not 0, rounded to a type (IEEE 754 rounding of one exact result): the encoding. Overflow gives an infinity or the
largest finite number as the mode asks. -/
def fround (t mode : Nat) (m e : Int) : Nat :=
  let neg := decide (m < 0)
  let a := m.natAbs
  let f := fracBits t
  let top := Int.ofNat (bitLen a) + e
  let ulp := max (minExp t) (top - Int.ofNat (f + 1))
  let (q, r, d) := if ulp ≤ e then (a * 2 ^ (e - ulp).toNat, 0, 1)
    else (a / 2 ^ (ulp - e).toNat, a % 2 ^ (ulp - e).toNat, 2 ^ (ulp - e).toNat)
  let q1 := if roundUp mode q r d neg then q + 1 else q
  let enc := if q1 < 2 ^ f then q1 else q1 - 2 ^ f + ((ulp - minExp t).toNat + 1) * 2 ^ f
  if finf t false ≤ enc then
    (if mode = 1 ∨ (mode = 2 ∧ neg) ∨ (mode = 3 ∧ ¬ neg) then fmax t neg else finf t neg)
  else signBit t neg + enc

/-- The exact sum of two dyadic numbers. -/
def dyAdd (m1 e1 m2 e2 : Int) : Int × Int :=
  let e := min e1 e2
  (m1 * Int.ofNat (2 ^ (e1 - e).toNat) + m2 * Int.ofNat (2 ^ (e2 - e).toNat), e)

/-- The encoding of an exact result, a zero result having the sign of rounding to nearest: +0. -/
def fpack (t : Nat) (m e : Int) : Nat := if m = 0 then 0 else fround t 0 m e

/-- A NaN result: IEEE 754 leaves the payload and sign open. -/
def fnanOf (t x y z : Nat) : Nat :=
  let p := Config.nanBits t x y z
  signBit t (p % 2 == 1) + fnan t + p / 2 % 2 ^ (fracBits t - 1)

/-- Sum, product and fused multiply-add of encodings, rounded once to nearest even. -/
def fadd (t x y : Nat) : Nat :=
  match fdecode t x, fdecode t y with
  | .nan, _ => fnanOf t x y 0
  | _, .nan => fnanOf t x y 0
  | .inf a, .inf b => if a = b then finf t a else fnanOf t x y 0
  | .inf a, _ => finf t a
  | _, .inf b => finf t b
  | .zero a, .zero b => signBit t (a && b)
  | .zero _, .fin m e => fround t 0 m e
  | .fin m e, .zero _ => fround t 0 m e
  | .fin m1 e1, .fin m2 e2 => let r := dyAdd m1 e1 m2 e2; fpack t r.1 r.2

def fneg : FVal → Bool
  | .nan => false
  | .inf n => n
  | .zero n => n
  | .fin m _ => decide (m < 0)

def fmul (t x y : Nat) : Nat :=
  let a := fdecode t x
  let b := fdecode t y
  let s := fneg a != fneg b
  match a, b with
  | .nan, _ => fnanOf t x y 1
  | _, .nan => fnanOf t x y 1
  | .inf _, .zero _ => fnanOf t x y 1
  | .zero _, .inf _ => fnanOf t x y 1
  | .inf _, _ => finf t s
  | _, .inf _ => finf t s
  | .zero _, _ => signBit t s
  | _, .zero _ => signBit t s
  | .fin m1 e1, .fin m2 e2 => fround t 0 (m1 * m2) (e1 + e2)

/-- d + x × y, rounded once. -/
def ffma (t d x y : Nat) : Nat :=
  let a := fdecode t x
  let b := fdecode t y
  let s := fneg a != fneg b
  let nanv := fnanOf t x y (d + 2)
  let prodZero : FVal := .zero s
  let prod : FVal := match a, b with
    | .nan, _ => .nan
    | _, .nan => .nan
    | .inf _, .zero _ => .nan
    | .zero _, .inf _ => .nan
    | .inf _, _ => .inf s
    | _, .inf _ => .inf s
    | .zero _, _ => prodZero
    | _, .zero _ => prodZero
    | .fin m1 e1, .fin m2 e2 => .fin (m1 * m2) (e1 + e2)
  match prod, fdecode t d with
  | .nan, _ => nanv
  | _, .nan => nanv
  | .inf p, .inf q => if p = q then finf t p else nanv
  | .inf p, _ => finf t p
  | _, .inf q => finf t q
  | .zero p, .zero q => signBit t (p && q)
  | .zero _, .fin m e => fround t 0 m e
  | .fin m e, .zero _ => fround t 0 m e
  | .fin m1 e1, .fin m2 e2 => let r := dyAdd m1 e1 m2 e2; fpack t r.1 r.2

/-- A number that orders encodings that are not NaN by value, −0 below +0 (R481). -/
def forder (t x : Nat) : Int :=
  let w := typWidth t
  if x.testBit (w - 1) then -Int.ofNat (x % 2 ^ (w - 1)) - 1 else Int.ofNat x

/-- The order of integers or of floating-point encodings. -/
def torder (t x : Nat) : Int := if typInt t then signedOf (typWidth t) x else forder t x

/-- Whether an encoding is a NaN of its type. -/
def isNan (t x : Nat) : Bool := !typInt t && fdecode t x == .nan

/-- The least or the greatest of two; a NaN makes the result open (VMIN, VMAX). -/
def tpick (hi : Bool) (t x y : Nat) : Nat :=
  if isNan t x || isNan t y then Config.nanPick t x y hi % 2 ^ typWidth t
  else if hi then (if torder t x < torder t y then y else x)
  else (if torder t y < torder t x then y else x)

/-! Vectors -/

/-- Lane i of a vector of a type, and a vector from its lanes. -/
def laneOf (t v i : Nat) : Nat := v / 2 ^ (typWidth t * i) % 2 ^ typWidth t
def lanesVec (t : Nat) (l : List Nat) : Nat := l.foldr (fun x acc => x % 2 ^ typWidth t + 2 ^ typWidth t * acc) 0
def lanesList (t v : Nat) : List Nat := (List.range (typLanes t)).map (laneOf t v)
def vmap2 (t : Nat) (f : Nat → Nat → Nat) (a b : Nat) : Nat := lanesVec t (List.zipWith f (lanesList t a) (lanesList t b))

/-- The lane operations of R497: integer lanes wrap, floating-point lanes follow IEEE 754. -/
def laneAdd (t x y : Nat) : Nat := if typInt t then (x + y) % 2 ^ typWidth t else fadd t x y
def laneMul (t x y : Nat) : Nat := if typInt t then (x * y) % 2 ^ typWidth t else fmul t x y
def laneFma (t d x y : Nat) : Nat := if typInt t then (d + x * y) % 2 ^ typWidth t else ffma t d x y

/-- An immediate as a number: sign-extended to 64 bits (R496). -/
def immOf (imm : Nat) : Nat := unsignedOf 64 (signedOf 32 imm)

/-- A loaded value of `size` bytes, sign-extended to 64 bits where asked (R496). -/
def loadExt (size v : Nat) (sext : Bool) : Nat := if sext then unsignedOf 64 (signedOf (8 * size) v) else v

end Sys2Proof.Machine
end

