-- ==== Sys2Proof/Machine/RegMap.lean ====
section
/-! DEFINITION. The register map: for each register its block, offset, instances, width and fields, with access code,
reset value and range of every field, as the spec's register tables give them. Field constants stand after it. -/
namespace Sys2Proof.Machine

/-- One field of a register: its bits, its access code (R14), its reset value and the ranges its values lie in (R13;
no range named: every value of the width). -/
structure Field where
  hi : Nat
  lo : Nat
  acc : Acc
  reset : Nat
  lims : List (Nat × Nat)

/-- One register of the tables: `n1` instances `s1` bytes apart, each of them `n2` sub-instances `s2` bytes apart. -/
structure RegInfo where
  blk : Blk
  off : Nat
  n1 : Nat
  s1 : Nat
  n2 : Nat
  s2 : Nat
  width : Nat
  fields : List Field

def Info.XB_PORT_CTRL : RegInfo := ⟨.XB, 0x0, 48, 0x10, 1, 0, 32,
  [⟨23, 20, .RW, 4, [(0, 7)]⟩, ⟨16, 4, .RW, 512, [(0, 4096)]⟩, ⟨1, 1, .RW, 0, []⟩]⟩
def Info.XB_PORT_EGR : RegInfo := ⟨.XB, 0x4, 48, 0x10, 1, 0, 32,
  [⟨31, 16, .RW, 1024, [(1, 12288)]⟩, ⟨4, 0, .RW, 10, [(0, 17)]⟩]⟩
def Info.XB_VS_TCMAP : RegInfo := ⟨.XB, 0x400, 48, 8, 1, 0, 32,
  [⟨23, 0, .RW, 0xFAC688, []⟩]⟩
def Info.XB_VS_OCMAP : RegInfo := ⟨.XB, 0x404, 48, 8, 1, 0, 32,
  [⟨23, 0, .RW, 0xFAC688, []⟩]⟩
def Info.XB_BUF_FREE : RegInfo := ⟨.XB, 0x600, 1, 4, 1, 0, 32,
  [⟨17, 0, .RO, 0, []⟩]⟩
def Info.XB_BUF_NP : RegInfo := ⟨.XB, 0x604, 1, 4, 1, 0, 32,
  [⟨17, 0, .RO, 0, []⟩]⟩
def Info.XB_BUF_CPL : RegInfo := ⟨.XB, 0x608, 1, 4, 1, 0, 32,
  [⟨17, 0, .RO, 0, []⟩]⟩
def Info.XB_BUF_LOW : RegInfo := ⟨.XB, 0x60C, 1, 4, 1, 0, 32,
  [⟨17, 0, .RC, 0, []⟩]⟩
def Info.XB_ERR_LOG0 : RegInfo := ⟨.XB, 0x700, 1, 4, 1, 0, 32,
  [⟨31, 31, .RW1C, 0, []⟩, ⟨30, 30, .RO, 0, []⟩, ⟨24, 8, .RO, 0, []⟩, ⟨7, 0, .RO, 0, []⟩]⟩
def Info.XB_ERR_LOG1 : RegInfo := ⟨.XB, 0x704, 1, 4, 1, 0, 32,
  [⟨29, 24, .RO, 0, []⟩, ⟨23, 21, .RO, 0, []⟩, ⟨20, 19, .RO, 0, []⟩, ⟨18, 6, .RO, 0, []⟩]⟩
def Info.XB_DROP_CNT : RegInfo := ⟨.XB, 0x800, 8, 8, 1, 0, 64,
  [⟨63, 63, .RW1C, 0, []⟩, ⟨47, 0, .RO, 0, []⟩]⟩
def Info.XB_FTO : RegInfo := ⟨.XB, 0x900, 49, 4, 1, 0, 32,
  [⟨19, 0, .RW, 20, [(1, 1000000)]⟩]⟩
def Info.XB_LOCK : RegInfo := ⟨.XB, 0xA00, 48, 4, 1, 0, 32,
  [⟨31, 31, .RO, 0, []⟩, ⟨30, 30, .RO, 0, []⟩, ⟨16, 0, .RO, 0, []⟩]⟩
def Info.XB_SYNTH_CNT : RegInfo := ⟨.XB, 0xB00, 1, 8, 1, 0, 64,
  [⟨63, 63, .RW1C, 0, []⟩, ⟨47, 0, .RO, 0, []⟩]⟩
def Info.XB_FLATE_CNT : RegInfo := ⟨.XB, 0xB08, 1, 8, 1, 0, 64,
  [⟨63, 63, .RW1C, 0, []⟩, ⟨47, 0, .RO, 0, []⟩]⟩
def Info.XB_EXPIRE_CNT : RegInfo := ⟨.XB, 0xB10, 1, 8, 1, 0, 64,
  [⟨63, 63, .RW1C, 0, []⟩, ⟨47, 0, .RO, 0, []⟩]⟩
def Info.XB_PERR_LOST_CNT : RegInfo := ⟨.XB, 0xB18, 1, 8, 1, 0, 64,
  [⟨63, 63, .RW1C, 0, []⟩, ⟨47, 0, .RO, 0, []⟩]⟩
def Info.XB_LOCK_BRK_CNT : RegInfo := ⟨.XB, 0xB20, 1, 8, 1, 0, 64,
  [⟨63, 63, .RW1C, 0, []⟩, ⟨47, 0, .RO, 0, []⟩]⟩
def Info.XB_MW_RETRY_CNT : RegInfo := ⟨.XB, 0xB28, 1, 8, 1, 0, 64,
  [⟨63, 63, .RW1C, 0, []⟩, ⟨47, 0, .RO, 0, []⟩]⟩
def Info.XB_QREL_CNT : RegInfo := ⟨.XB, 0xB30, 1, 8, 1, 0, 64,
  [⟨63, 63, .RW1C, 0, []⟩, ⟨47, 0, .RO, 0, []⟩]⟩
def Info.ARB_COMMIT : RegInfo := ⟨.ARB, 0x0, 1, 4, 1, 0, 32,
  [⟨31, 31, .WO, 0, []⟩, ⟨30, 30, .RO, 0, []⟩, ⟨15, 0, .RO, 0, []⟩]⟩
def Info.ARB_HATCH_WD : RegInfo := ⟨.ARB, 0x4, 1, 4, 1, 0, 32,
  [⟨4, 0, .RW, 10, [(0, 20)]⟩]⟩
def Info.ARB_CFG_S : RegInfo := ⟨.ARB, 0x1000, 57, 0x80, 1, 0, 32,
  [⟨29, 29, .RW, 0, []⟩, ⟨28, 24, .RW, 8, [(6, 16)]⟩, ⟨23, 16, .RW, 16, [(1, 255)]⟩, ⟨4, 0, .RW, 16, [(6, 20)]⟩]⟩
def Info.ARB_CFG_W : RegInfo := ⟨.ARB, 0x1004, 57, 0x80, 1, 0, 32,
  [⟨29, 29, .RO, 0, []⟩, ⟨28, 24, .RO, 8, []⟩, ⟨23, 16, .RO, 16, []⟩, ⟨4, 0, .RO, 16, []⟩]⟩
def Info.ARB_PRIV_S : RegInfo := ⟨.ARB, 0x1008, 57, 0x80, 1, 0, 32,
  [⟨23, 16, .RW, 16, [(1, 64)]⟩, ⟨15, 8, .RW, 32, [(1, 64)]⟩]⟩
def Info.ARB_PRIV_W : RegInfo := ⟨.ARB, 0x100C, 57, 0x80, 1, 0, 32,
  [⟨23, 16, .RO, 16, []⟩, ⟨15, 8, .RO, 32, []⟩]⟩
def Info.ARB_HATCH : RegInfo := ⟨.ARB, 0x1010, 57, 0x80, 1, 0, 32,
  [⟨31, 31, .RO, 0, []⟩, ⟨1, 1, .RW, 0, []⟩, ⟨0, 0, .RW, 0, []⟩]⟩
def Info.ARB_FLAG : RegInfo := ⟨.ARB, 0x1014, 57, 0x80, 1, 0, 32,
  [⟨31, 31, .RW1C, 0, []⟩, ⟨30, 30, .RO, 0, []⟩, ⟨29, 28, .RO, 0, []⟩, ⟨21, 16, .RO, 0, []⟩, ⟨15, 10, .RO, 0, []⟩, ⟨9, 7, .RO, 0, []⟩]⟩
def Info.ARB_STAT : RegInfo := ⟨.ARB, 0x1018, 57, 0x80, 1, 0, 32,
  [⟨31, 31, .RO, 0, []⟩, ⟨30, 30, .RO, 0, []⟩, ⟨29, 24, .RO, 0, []⟩, ⟨23, 16, .RO, 0, []⟩, ⟨15, 0, .RO, 0, []⟩]⟩
def Info.ARB_DEAD_CNT : RegInfo := ⟨.ARB, 0x1020, 57, 0x80, 1, 0, 64,
  [⟨63, 63, .RW1C, 0, []⟩, ⟨47, 0, .RO, 0, []⟩]⟩
def Info.ARB_CUT_CNT : RegInfo := ⟨.ARB, 0x1028, 57, 0x80, 1, 0, 64,
  [⟨63, 63, .RW1C, 0, []⟩, ⟨47, 0, .RO, 0, []⟩]⟩
def Info.ARB_CLASS_S : RegInfo := ⟨.ARB, 0x1040, 57, 0x80, 8, 4, 32,
  [⟨31, 31, .RW, 0, []⟩, ⟨26, 24, .RW, 0, []⟩, ⟨15, 0, .RW, 64, [(1, 65535)]⟩]⟩
def Info.ARB_CLASS_W : RegInfo := ⟨.ARB, 0x1060, 57, 0x80, 8, 4, 32,
  [⟨31, 31, .RO, 0, []⟩, ⟨26, 24, .RO, 0, []⟩, ⟨15, 0, .RO, 64, []⟩]⟩
def Info.SCH_CAL : RegInfo := ⟨.SCH, 0x0, 1, 4, 1, 0, 32,
  [⟨31, 31, .RW, 1, []⟩, ⟨2, 0, .RW, 2, [(0, 5)]⟩]⟩
def Info.SCH_CAL_STAT : RegInfo := ⟨.SCH, 0x4, 1, 4, 1, 0, 32,
  [⟨31, 16, .RO, 0, []⟩, ⟨15, 0, .RC, 0, []⟩]⟩
def Info.SCH_SMP_CTRL : RegInfo := ⟨.SCH, 0x10, 1, 4, 1, 0, 32,
  [⟨31, 31, .RW, 0, []⟩, ⟨30, 30, .RW, 0, []⟩, ⟨12, 8, .RW, 16, [(10, 24)]⟩, ⟨4, 0, .RW, 10, [(0, 23)]⟩]⟩
def Info.SCH_SMP_BASE : RegInfo := ⟨.SCH, 0x18, 1, 8, 1, 0, 64,
  [⟨33, 12, .RW, 0, []⟩]⟩
def Info.SCH_SMP_WP : RegInfo := ⟨.SCH, 0x20, 1, 4, 1, 0, 32,
  [⟨23, 0, .RO, 0, []⟩]⟩
def Info.SCH_SMP_RP : RegInfo := ⟨.SCH, 0x24, 1, 4, 1, 0, 32,
  [⟨23, 0, .RW, 0, []⟩]⟩
def Info.SCH_SMP_SEL : RegInfo := ⟨.SCH, 0x30, 12, 4, 1, 0, 32,
  [⟨31, 0, .RW, 0, []⟩]⟩
def Info.SCH_SMP_SKIP_CNT : RegInfo := ⟨.SCH, 0x60, 1, 8, 1, 0, 64,
  [⟨63, 63, .RW1C, 0, []⟩, ⟨47, 0, .RO, 0, []⟩]⟩
def Info.SCH_SMP_LOST_CNT : RegInfo := ⟨.SCH, 0x68, 1, 8, 1, 0, 64,
  [⟨63, 63, .RW1C, 0, []⟩, ⟨47, 0, .RO, 0, []⟩]⟩
def Info.SCH_PORT_S : RegInfo := ⟨.SCH, 0x1000, 48, 0x40, 1, 0, 32,
  [⟨31, 31, .RW, 0, []⟩, ⟨25, 17, .RW, 1, []⟩, ⟨16, 16, .RW, 1, []⟩, ⟨8, 0, .RW, 0, [(0, 255), (480, 511)]⟩]⟩
def Info.SCH_PORT_W : RegInfo := ⟨.SCH, 0x1004, 48, 0x40, 1, 0, 32,
  [⟨31, 31, .RO, 0, []⟩, ⟨25, 17, .RO, 1, []⟩, ⟨16, 16, .RO, 1, []⟩, ⟨8, 0, .RO, 0, []⟩]⟩
def Info.SCH_GATE_STAT : RegInfo := ⟨.SCH, 0x1008, 48, 0x40, 1, 0, 32,
  [⟨31, 31, .RW1C, 0, []⟩, ⟨30, 28, .RO, 0, []⟩, ⟨27, 27, .RO, 0, []⟩, ⟨15, 8, .RO, 0xFF, []⟩, ⟨7, 0, .RO, 0, []⟩]⟩
def Info.SCH_GATE_BASE_S : RegInfo := ⟨.SCH, 0x1010, 48, 0x40, 1, 0, 64,
  [⟨63, 0, .RW, 0, []⟩]⟩
def Info.SCH_GATE_SWT_S : RegInfo := ⟨.SCH, 0x1018, 48, 0x40, 1, 0, 64,
  [⟨63, 0, .RW, 0, []⟩]⟩
def Info.SCH_GATE_OVR_CNT : RegInfo := ⟨.SCH, 0x1020, 48, 0x40, 1, 0, 64,
  [⟨63, 63, .RW1C, 0, []⟩, ⟨47, 0, .RO, 0, []⟩]⟩
def Info.SCH_GATE_BASE_W : RegInfo := ⟨.SCH, 0x1028, 48, 0x40, 1, 0, 64,
  [⟨63, 0, .RO, 0, []⟩]⟩
def Info.SCH_GATE_SWT_W : RegInfo := ⟨.SCH, 0x1030, 48, 0x40, 1, 0, 64,
  [⟨63, 0, .RO, 0, []⟩]⟩
def Info.SCH_QDEPTH : RegInfo := ⟨.SCH, 0x2000, 48, 0x20, 8, 4, 32,
  [⟨17, 0, .RO, 0, []⟩]⟩
def Info.SCH_FSEL_S : RegInfo := ⟨.SCH, 0x4000, 2304, 4, 1, 0, 32,
  [⟨31, 31, .RW, 0, []⟩, ⟨30, 30, .RW, 0, []⟩, ⟨13, 0, .RW, 0, []⟩]⟩
def Info.SCH_FSEL_W : RegInfo := ⟨.SCH, 0x8000, 2304, 4, 1, 0, 32,
  [⟨31, 31, .RO, 0, []⟩, ⟨30, 30, .RO, 0, []⟩, ⟨13, 0, .RO, 0, []⟩]⟩
def Info.SCH_FLOW_INC_S : RegInfo := ⟨.SCH, 0x10000, 16384, 0x10, 1, 0, 32,
  [⟨31, 0, .RW, 0, []⟩]⟩
def Info.SCH_FLOW_CFG_S : RegInfo := ⟨.SCH, 0x10004, 16384, 0x10, 1, 0, 32,
  [⟨19, 0, .RW, 4096, []⟩]⟩
def Info.SCH_FLOW_INC_W : RegInfo := ⟨.SCH, 0x10008, 16384, 0x10, 1, 0, 32,
  [⟨31, 0, .RO, 0, []⟩]⟩
def Info.SCH_FLOW_CFG_W : RegInfo := ⟨.SCH, 0x1000C, 16384, 0x10, 1, 0, 32,
  [⟨19, 0, .RO, 4096, []⟩]⟩
def Info.SCH_FLOW_TAT : RegInfo := ⟨.SCH, 0x50000, 16384, 8, 1, 0, 64,
  [⟨63, 16, .RO, 0, []⟩, ⟨15, 0, .RO, 0, []⟩]⟩
def Info.SCH_GATE_ENT_S : RegInfo := ⟨.SCH, 0x80000, 48, 0x800, 256, 8, 64,
  [⟨39, 32, .RW, 0xFF, []⟩, ⟨29, 0, .RW, 1000, []⟩]⟩
def Info.SCH_GATE_ENT_W : RegInfo := ⟨.SCH, 0xA0000, 48, 0x800, 256, 8, 64,
  [⟨39, 32, .RO, 0xFF, []⟩, ⟨29, 0, .RO, 1000, []⟩]⟩
def Info.PCI_PORT_CTRL : RegInfo := ⟨.PCI, 0x0, 48, 0x10, 1, 0, 32,
  [⟨11, 8, .RW, 4, [(0, 10)]⟩, ⟨6, 6, .RW, 1, []⟩, ⟨5, 5, .RW, 0, []⟩, ⟨4, 4, .RW, 1, []⟩, ⟨2, 0, .RW, 6, [(0, 6)]⟩]⟩
def Info.PCI_PORT_STAT : RegInfo := ⟨.PCI, 0x4, 48, 0x10, 1, 0, 32,
  [⟨31, 31, .RW1C, 0, []⟩, ⟨30, 30, .RW1C, 0, []⟩, ⟨29, 27, .RO, 0, []⟩, ⟨26, 26, .RO, 0, []⟩, ⟨20, 16, .RO, 0, []⟩, ⟨15, 11, .RO, 0, []⟩, ⟨10, 8, .RO, 0, []⟩, ⟨5, 0, .RO, 0, []⟩]⟩
def Info.PCI_L0P : RegInfo := ⟨.PCI, 0x8, 48, 0x10, 1, 0, 32,
  [⟨27, 24, .RW, 4, [(0, 10)]⟩, ⟨21, 20, .RW, 0, []⟩, ⟨15, 8, .RW, 75, [(1, 100)]⟩, ⟨7, 0, .RW, 20, [(0, 99)]⟩]⟩
def Info.PCI_VS_CFG : RegInfo := ⟨.PCI, 0x400, 48, 4, 1, 0, 32,
  [⟨22, 22, .RW, 0, []⟩, ⟨21, 16, .RW, 0, [(0, 47)]⟩, ⟨8, 0, .RW, 8, [(1, 256)]⟩]⟩
def Info.PCI_SLOT_MAP : RegInfo := ⟨.PCI, 0x500, 8, 8, 1, 0, 32,
  [⟨31, 31, .RW, 0, []⟩, ⟨30, 30, .RW, 1, []⟩, ⟨21, 14, .RW, 20, [(1, 255)]⟩, ⟨13, 6, .RW, 25, [(1, 240)]⟩, ⟨5, 0, .RW, 0, [(0, 47)]⟩]⟩
def Info.PCI_SLOT_STAT : RegInfo := ⟨.PCI, 0x504, 8, 8, 1, 0, 32,
  [⟨31, 31, .RO, 0, []⟩, ⟨30, 30, .RO, 0, []⟩, ⟨29, 28, .RO, 0, []⟩, ⟨27, 26, .RO, 0, []⟩, ⟨14, 8, .RO, 0x7F, []⟩, ⟨7, 0, .RC, 0, []⟩]⟩
def Info.LN_TBL_STAT : RegInfo := ⟨.LN, 0x0, 1, 4, 1, 0, 32,
  [⟨31, 31, .HWINIT, 0, []⟩, ⟨30, 30, .HWINIT, 0, []⟩, ⟨29, 29, .HWINIT, 0, []⟩, ⟨28, 16, .HWINIT, 0, []⟩, ⟨15, 0, .HWINIT, 0, []⟩]⟩
def Info.LN_WATCH : RegInfo := ⟨.LN, 0x4, 1, 4, 1, 0, 32,
  [⟨31, 31, .RW, 1, []⟩, ⟨30, 27, .RW, 2, [(1, 15)]⟩, ⟨23, 20, .RW, 7, [(0, 12)]⟩, ⟨13, 8, .RW, 24, [(16, 40)]⟩, ⟨5, 0, .RW, 22, [(16, 40)]⟩]⟩
def Info.LN_STRESS : RegInfo := ⟨.LN, 0x8, 1, 4, 1, 0, 32,
  [⟨31, 24, .RW, 16, [(1, 255)]⟩, ⟨23, 16, .RW, 25, [(5, 100)]⟩, ⟨15, 8, .RW, 85, [(40, 125)]⟩, ⟨7, 0, .RW, 80, [(1, 100)]⟩]⟩
def Info.LN_TEMP : RegInfo := ⟨.LN, 0x40, 12, 4, 1, 0, 32,
  [⟨15, 0, .RO, 0, []⟩]⟩
def Info.LN_LANE_APPLIED : RegInfo := ⟨.LN, 0x1000, 192, 0x40, 1, 0, 32,
  [⟨31, 30, .RO, 0, []⟩, ⟨29, 29, .RO, 0, []⟩, ⟨23, 16, .RO, 0, []⟩, ⟨15, 0, .RO, 0, []⟩]⟩
def Info.LN_LANE_EQ : RegInfo := ⟨.LN, 0x1004, 192, 0x40, 1, 0, 32,
  [⟨31, 24, .RO, 0, []⟩, ⟨23, 18, .RO, 0, []⟩, ⟨17, 14, .RO, 0, []⟩, ⟨13, 9, .RO, 0, []⟩]⟩
def Info.LN_LANE_STAT : RegInfo := ⟨.LN, 0x1008, 192, 0x40, 1, 0, 32,
  [⟨31, 31, .RW1C, 0, []⟩, ⟨30, 30, .RW1C, 0, []⟩, ⟨29, 29, .RW1C, 0, []⟩, ⟨28, 28, .RO, 0, []⟩, ⟨27, 27, .RO, 0, []⟩, ⟨26, 26, .RO, 0, []⟩, ⟨19, 16, .RO, 0, []⟩, ⟨15, 8, .RO, 0, []⟩]⟩
def Info.LN_PRBS_CTRL : RegInfo := ⟨.LN, 0x100C, 192, 0x40, 1, 0, 32,
  [⟨31, 31, .WO, 0, []⟩, ⟨30, 30, .RO, 0, []⟩, ⟨29, 29, .RO, 0, []⟩, ⟨28, 28, .RW1C, 0, []⟩, ⟨27, 26, .RW, 3, [(1, 3)]⟩, ⟨25, 25, .RW1C, 0, []⟩, ⟨20, 16, .RW, 20, [(0, 30)]⟩]⟩
def Info.LN_FEC_RX : RegInfo := ⟨.LN, 0x1010, 192, 0x40, 1, 0, 64,
  [⟨63, 63, .RW1C, 0, []⟩, ⟨47, 0, .RO, 0, []⟩]⟩
def Info.LN_FEC_SYM : RegInfo := ⟨.LN, 0x1018, 192, 0x40, 1, 0, 64,
  [⟨63, 63, .RW1C, 0, []⟩, ⟨47, 0, .RO, 0, []⟩]⟩
def Info.LN_FEC_UNC : RegInfo := ⟨.LN, 0x1020, 192, 0x40, 1, 0, 64,
  [⟨63, 63, .RW1C, 0, []⟩, ⟨47, 0, .RO, 0, []⟩]⟩
def Info.LN_PRBS_BITS : RegInfo := ⟨.LN, 0x1028, 192, 0x40, 1, 0, 64,
  [⟨63, 63, .RW1C, 0, []⟩, ⟨47, 0, .RO, 0, []⟩]⟩
def Info.LN_PRBS_ERR : RegInfo := ⟨.LN, 0x1030, 192, 0x40, 1, 0, 64,
  [⟨63, 63, .RW1C, 0, []⟩, ⟨47, 0, .RO, 0, []⟩]⟩
def Info.BL_BRINGUP : RegInfo := ⟨.BL, 0x0, 1, 4, 1, 0, 32,
  [⟨26, 21, .RW, 20, [(10, 40)]⟩, ⟨20, 16, .RW, 10, [(0, 20)]⟩, ⟨15, 12, .RW, 2, [(0, 10)]⟩, ⟨7, 0, .RW, 10, [(1, 255)]⟩]⟩
def Info.BL_CTRL : RegInfo := ⟨.BL, 0x1000, 48, 0x80, 1, 0, 32,
  [⟨4, 4, .RW, 1, []⟩, ⟨2, 2, .RW, 0, []⟩, ⟨0, 0, .RW, 1, []⟩]⟩
def Info.BL_LINK : RegInfo := ⟨.BL, 0x1004, 48, 0x80, 1, 0, 32,
  [⟨31, 24, .RW, 8, [(1, 128)]⟩, ⟨23, 20, .RW, 4, [(1, 15)]⟩, ⟨12, 0, .RW, 4096, [(64, 4096)]⟩]⟩
def Info.BL_SLEEP : RegInfo := ⟨.BL, 0x1008, 48, 0x80, 1, 0, 32,
  [⟨31, 31, .RW, 0, []⟩, ⟨15, 0, .RW, 2000, [(100, 65535)]⟩]⟩
def Info.BL_STAT : RegInfo := ⟨.BL, 0x100C, 48, 0x80, 1, 0, 32,
  [⟨31, 28, .RO, 0, []⟩, ⟨27, 27, .RO, 0, []⟩, ⟨26, 26, .RO, 0, []⟩, ⟨25, 25, .RO, 0, []⟩, ⟨24, 24, .RW1C, 0, []⟩, ⟨23, 23, .RO, 0, []⟩, ⟨22, 22, .RO, 0, []⟩, ⟨15, 12, .RO, 0, []⟩, ⟨11, 11, .RW1C, 0, []⟩]⟩
def Info.BL_PARTNER : RegInfo := ⟨.BL, 0x1010, 48, 0x80, 1, 0, 32,
  [⟨31, 31, .RO, 0, []⟩, ⟨30, 30, .RO, 0, []⟩, ⟨26, 16, .RO, 0, []⟩, ⟨13, 8, .RO, 0, []⟩]⟩
def Info.BL_SEQ : RegInfo := ⟨.BL, 0x1014, 48, 0x80, 1, 0, 32,
  [⟨29, 16, .RO, 0, []⟩, ⟨13, 0, .RO, 0, []⟩]⟩
def Info.BL_BU_LOG : RegInfo := ⟨.BL, 0x1018, 48, 0x80, 1, 0, 32,
  [⟨31, 31, .RO, 0, []⟩, ⟨30, 27, .RO, 0, []⟩, ⟨15, 0, .RO, 0, []⟩]⟩
def Info.BL_REPLAY_CNT : RegInfo := ⟨.BL, 0x1020, 48, 0x80, 1, 0, 64,
  [⟨63, 63, .RW1C, 0, []⟩, ⟨47, 0, .RO, 0, []⟩]⟩
def Info.BL_BAD_CNT : RegInfo := ⟨.BL, 0x1028, 48, 0x80, 1, 0, 64,
  [⟨63, 63, .RW1C, 0, []⟩, ⟨47, 0, .RO, 0, []⟩]⟩
def Info.BL_GAP_CNT : RegInfo := ⟨.BL, 0x1030, 48, 0x80, 1, 0, 64,
  [⟨63, 63, .RW1C, 0, []⟩, ⟨47, 0, .RO, 0, []⟩]⟩
def Info.BL_DUP_CNT : RegInfo := ⟨.BL, 0x1038, 48, 0x80, 1, 0, 64,
  [⟨63, 63, .RW1C, 0, []⟩, ⟨47, 0, .RO, 0, []⟩]⟩
def Info.BL_RESET_CNT : RegInfo := ⟨.BL, 0x1040, 48, 0x80, 1, 0, 64,
  [⟨63, 63, .RW1C, 0, []⟩, ⟨47, 0, .RO, 0, []⟩]⟩
def Info.BL_PROTO_CNT : RegInfo := ⟨.BL, 0x1048, 48, 0x80, 1, 0, 64,
  [⟨63, 63, .RW1C, 0, []⟩, ⟨47, 0, .RO, 0, []⟩]⟩
def Info.RT_ID : RegInfo := ⟨.RT, 0x0, 1, 4, 1, 0, 32,
  [⟨31, 31, .RO, 0, []⟩, ⟨10, 0, .RO, 0, []⟩]⟩
def Info.RT_STAT : RegInfo := ⟨.RT, 0x4, 1, 4, 1, 0, 32,
  [⟨31, 31, .RW1C, 0, []⟩, ⟨30, 30, .RW1C, 0, []⟩, ⟨29, 29, .RW1C, 0, []⟩, ⟨28, 28, .RW1C, 0, []⟩, ⟨27, 27, .RW1C, 0, []⟩, ⟨5, 0, .RO, 0, []⟩]⟩
def Info.RT_STAGE_CHK : RegInfo := ⟨.RT, 0x8, 1, 4, 1, 0, 32,
  [⟨31, 31, .WO, 0, []⟩]⟩
def Info.RT_STAGE_STAT : RegInfo := ⟨.RT, 0xC, 1, 4, 1, 0, 32,
  [⟨31, 31, .RO, 0, []⟩, ⟨30, 30, .RW1C, 0, []⟩, ⟨29, 29, .RO, 0, []⟩, ⟨26, 19, .RO, 0, []⟩, ⟨18, 0, .RO, 0, []⟩]⟩
def Info.RT_HAND_CFG : RegInfo := ⟨.RT, 0x10, 1, 4, 1, 0, 32,
  [⟨14, 8, .RW, 4, [(1, 64)]⟩, ⟨6, 0, .RW, 8, [(1, 64)]⟩]⟩
def Info.RT_LEAK_CNT : RegInfo := ⟨.RT, 0x20, 1, 8, 1, 0, 64,
  [⟨63, 63, .RW1C, 0, []⟩, ⟨47, 0, .RO, 0, []⟩]⟩
def Info.RT_UNTOK_CNT : RegInfo := ⟨.RT, 0x28, 1, 8, 1, 0, 64,
  [⟨63, 63, .RW1C, 0, []⟩, ⟨47, 0, .RO, 0, []⟩]⟩
def Info.RT_OVERRUN_CNT : RegInfo := ⟨.RT, 0x30, 1, 8, 1, 0, 64,
  [⟨63, 63, .RW1C, 0, []⟩, ⟨47, 0, .RO, 0, []⟩]⟩
def Info.RT_DIR_DROP : RegInfo := ⟨.RT, 0x38, 1, 8, 1, 0, 64,
  [⟨63, 63, .RW1C, 0, []⟩, ⟨47, 0, .RO, 0, []⟩]⟩
def Info.RT_SHELF_USE : RegInfo := ⟨.RT, 0x100, 53, 4, 1, 0, 32,
  [⟨31, 16, .RC, 0, []⟩, ⟨13, 0, .RO, 0, []⟩]⟩
def Info.RT_NBR_SERIAL : RegInfo := ⟨.RT, 0x400, 48, 0x20, 1, 0, 64,
  [⟨63, 0, .RO, 0, []⟩]⟩
def Info.RT_NBR_LINK : RegInfo := ⟨.RT, 0x408, 48, 0x20, 1, 0, 32,
  [⟨31, 28, .RO, 0, []⟩, ⟨23, 16, .RO, 0, []⟩, ⟨15, 8, .RO, 0, []⟩, ⟨7, 0, .RO, 0, []⟩]⟩
def Info.RT_NBR_ADDR : RegInfo := ⟨.RT, 0x40C, 48, 0x20, 1, 0, 32,
  [⟨31, 16, .RO, 0xFFFF, []⟩, ⟨13, 8, .RO, 0, []⟩]⟩
def Info.RT_NBR_DEV : RegInfo := ⟨.RT, 0x410, 48, 0x20, 1, 0, 32,
  [⟨15, 0, .RO, 0, []⟩]⟩
def Info.RT_HAND_HOLD : RegInfo := ⟨.RT, 0x1000, 2048, 4, 1, 0, 32,
  [⟨23, 16, .RO, 0, []⟩, ⟨15, 8, .RO, 0, []⟩, ⟨7, 0, .RO, 0, []⟩]⟩
def Info.DL_CFG : RegInfo := ⟨.DL, 0x0, 1, 4, 1, 0, 32,
  [⟨31, 24, .RW, 16, [(1, 255)]⟩, ⟨23, 20, .RW, 3, [(1, 15)]⟩, ⟨19, 12, .RW, 50, [(5, 200)]⟩, ⟨11, 6, .RW, 16, [(1, 63)]⟩, ⟨5, 0, .RW, 4, [(1, 63)]⟩]⟩
def Info.DL_FENCE_CFG : RegInfo := ⟨.DL, 0x4, 1, 4, 1, 0, 32,
  [⟨31, 24, .RW, 8, [(1, 255)]⟩, ⟨23, 20, .RW, 8, [(1, 15)]⟩, ⟨19, 12, .RW, 4, [(1, 255)]⟩]⟩
def Info.DL_MARK_CFG : RegInfo := ⟨.DL, 0x8, 1, 4, 1, 0, 32,
  [⟨4, 0, .RW, 10, [(0, 20)]⟩]⟩
def Info.DL_DEAL_STAT : RegInfo := ⟨.DL, 0x10, 1, 4, 1, 0, 32,
  [⟨31, 30, .RO, 0, []⟩, ⟨29, 29, .RW1C, 0, []⟩, ⟨28, 28, .RO, 0, []⟩, ⟨19, 16, .RO, 0, []⟩, ⟨15, 0, .RO, 0, []⟩]⟩
def Info.DL_DEAL_EPOCH : RegInfo := ⟨.DL, 0x14, 1, 4, 1, 0, 32,
  [⟨31, 0, .RO, 0, []⟩]⟩
def Info.DL_DEAL_T : RegInfo := ⟨.DL, 0x18, 1, 8, 1, 0, 64,
  [⟨63, 0, .RO, 0, []⟩]⟩
def Info.DL_DRAIN_STAT : RegInfo := ⟨.DL, 0x20, 1, 4, 1, 0, 32,
  [⟨31, 31, .RO, 0, []⟩, ⟨30, 30, .RW1C, 0, []⟩, ⟨29, 29, .RW1C, 0, []⟩, ⟨28, 28, .RO, 0, []⟩, ⟨27, 22, .RO, 0, []⟩, ⟨15, 0, .RO, 0, []⟩]⟩
def Info.DL_CUT_STAT : RegInfo := ⟨.DL, 0x24, 1, 4, 1, 0, 32,
  [⟨31, 31, .RO, 0, []⟩, ⟨29, 29, .RW1C, 0, []⟩, ⟨28, 28, .RO, 0, []⟩, ⟨27, 22, .RO, 0, []⟩, ⟨15, 0, .RO, 0, []⟩]⟩
def Info.DL_MISS : RegInfo := ⟨.DL, 0x28, 1, 8, 1, 0, 64,
  [⟨63, 0, .RO, 0, []⟩]⟩
def Info.DL_TREE : RegInfo := ⟨.DL, 0x40, 1, 4, 1, 0, 32,
  [⟨31, 31, .RO, 0, []⟩, ⟨10, 0, .RO, 0, []⟩]⟩
def Info.DL_TREE_CHILD : RegInfo := ⟨.DL, 0x44, 16, 2, 1, 0, 16,
  [⟨15, 15, .RO, 0, []⟩, ⟨10, 0, .RO, 0, []⟩]⟩
def Info.DL_TREE_STAT : RegInfo := ⟨.DL, 0x64, 1, 4, 1, 0, 32,
  [⟨15, 0, .RW1C, 0, []⟩]⟩
def Info.DL_TREE_DROP_CNT : RegInfo := ⟨.DL, 0x68, 1, 8, 1, 0, 64,
  [⟨63, 63, .RW1C, 0, []⟩, ⟨47, 0, .RO, 0, []⟩]⟩
def Info.DL_DUP_CNT : RegInfo := ⟨.DL, 0x100, 1, 8, 1, 0, 64,
  [⟨63, 63, .RW1C, 0, []⟩, ⟨47, 0, .RO, 0, []⟩]⟩
def Info.DL_WIN_CNT : RegInfo := ⟨.DL, 0x108, 1, 8, 1, 0, 64,
  [⟨63, 63, .RW1C, 0, []⟩, ⟨47, 0, .RO, 0, []⟩]⟩
def Info.DL_RESEND_CNT : RegInfo := ⟨.DL, 0x110, 1, 8, 1, 0, 64,
  [⟨63, 63, .RW1C, 0, []⟩, ⟨47, 0, .RO, 0, []⟩]⟩
def Info.DL_GIVEUP_CNT : RegInfo := ⟨.DL, 0x118, 1, 8, 1, 0, 64,
  [⟨63, 63, .RW1C, 0, []⟩, ⟨47, 0, .RO, 0, []⟩]⟩
def Info.DL_LIFE_CNT : RegInfo := ⟨.DL, 0x120, 1, 8, 1, 0, 64,
  [⟨63, 63, .RW1C, 0, []⟩, ⟨47, 0, .RO, 0, []⟩]⟩
def Info.DL_FENCE_CNT : RegInfo := ⟨.DL, 0x128, 1, 8, 1, 0, 64,
  [⟨63, 63, .RW1C, 0, []⟩, ⟨47, 0, .RO, 0, []⟩]⟩
def Info.DL_LATE_CNT : RegInfo := ⟨.DL, 0x130, 1, 8, 1, 0, 64,
  [⟨63, 63, .RW1C, 0, []⟩, ⟨47, 0, .RO, 0, []⟩]⟩
def Info.DL_DISTURB_CNT : RegInfo := ⟨.DL, 0x138, 1, 8, 1, 0, 64,
  [⟨63, 63, .RW1C, 0, []⟩, ⟨47, 0, .RO, 0, []⟩]⟩
def Info.DL_STALE_EP_CNT : RegInfo := ⟨.DL, 0x140, 1, 8, 1, 0, 64,
  [⟨63, 63, .RW1C, 0, []⟩, ⟨47, 0, .RO, 0, []⟩]⟩
def Info.DL_ACK_IN : RegInfo := ⟨.DL, 0x10000, 16384, 4, 1, 0, 32,
  [⟨31, 31, .RO, 0, []⟩, ⟨23, 0, .RW, 0, []⟩]⟩
def Info.DL_FENCE_IN : RegInfo := ⟨.DL, 0x20000, 16384, 4, 1, 0, 32,
  [⟨31, 31, .RO, 0, []⟩, ⟨23, 0, .RW, 0, []⟩]⟩
def Info.CL_COLL_CFG : RegInfo := ⟨.CL, 0x8000, 1, 4, 1, 0, 32,
  [⟨31, 24, .RW, 16, [(4, 64)]⟩, ⟨10, 8, .RW, 5, []⟩, ⟨4, 0, .RW, 10, [(0, 20)]⟩]⟩
def Info.CL_COLL_DONE_CNT : RegInfo := ⟨.CL, 0x8008, 1, 8, 1, 0, 64,
  [⟨63, 63, .RW1C, 0, []⟩, ⟨47, 0, .RO, 0, []⟩]⟩
def Info.CL_COLL_ABORT_CNT : RegInfo := ⟨.CL, 0x8010, 1, 8, 1, 0, 64,
  [⟨63, 63, .RW1C, 0, []⟩, ⟨47, 0, .RO, 0, []⟩]⟩
def Info.CL_COLL_STALE_CNT : RegInfo := ⟨.CL, 0x8018, 1, 8, 1, 0, 64,
  [⟨63, 63, .RW1C, 0, []⟩, ⟨47, 0, .RO, 0, []⟩]⟩
def Info.CL_GRP_CTL : RegInfo := ⟨.CL, 0x9000, 256, 0x40, 1, 0, 32,
  [⟨31, 31, .RW, 0, []⟩, ⟨27, 24, .RW, 15, [(1, 15)]⟩, ⟨23, 20, .RW, 0, []⟩, ⟨15, 0, .RW, 0, []⟩]⟩
def Info.CL_GRP_N : RegInfo := ⟨.CL, 0x9004, 256, 0x40, 1, 0, 32,
  [⟨27, 16, .RW, 1, [(1, 2048)]⟩, ⟨10, 0, .RW, 0, []⟩]⟩
def Info.CL_GRP_PARENT : RegInfo := ⟨.CL, 0x9008, 256, 0x40, 1, 0, 32,
  [⟨31, 31, .RW, 0, []⟩, ⟨10, 0, .RW, 0, []⟩]⟩
def Info.CL_GRP_CHILD : RegInfo := ⟨.CL, 0x900C, 256, 0x40, 16, 2, 16,
  [⟨15, 15, .RW, 0, []⟩, ⟨10, 0, .RW, 0, []⟩]⟩
def Info.CL_GRP_VSMASK : RegInfo := ⟨.CL, 0x9030, 256, 0x40, 1, 0, 64,
  [⟨47, 0, .RW, 0, []⟩]⟩
def Info.CL_GRP_STAT : RegInfo := ⟨.CL, 0x903C, 256, 0x40, 1, 0, 32,
  [⟨31, 31, .RO, 0, []⟩, ⟨23, 16, .RO, 0, []⟩, ⟨15, 0, .RO, 0, []⟩]⟩
def Info.CL_STAT : RegInfo := ⟨.CLU, 0x0, 16, 0x1000, 1, 0, 32,
  [⟨31, 31, .HWINIT, 0, []⟩, ⟨20, 16, .RO, 0, []⟩, ⟨15, 4, .RO, 0, []⟩, ⟨3, 0, .RO, 0, []⟩]⟩
def Info.CL_ACC_CNT : RegInfo := ⟨.CLU, 0x8, 16, 0x1000, 1, 0, 64,
  [⟨63, 63, .RW1C, 0, []⟩, ⟨47, 0, .RO, 0, []⟩]⟩
def Info.CL_HEADROOM_CNT : RegInfo := ⟨.CLU, 0x10, 16, 0x1000, 1, 0, 64,
  [⟨63, 63, .RW1C, 0, []⟩, ⟨47, 0, .RO, 0, []⟩]⟩
def Info.CL_SCHED : RegInfo := ⟨.CL1, 0x4000, 1, 4, 1, 0, 32,
  [⟨12, 8, .RW, 14, [(0, 24)]⟩, ⟨3, 0, .RW, 4, [(0, 10)]⟩]⟩
def Info.CL_SHARE : RegInfo := ⟨.CL1, 0x5008, 256, 0x10, 1, 0, 64,
  [⟨63, 63, .RW, 0, []⟩, ⟨62, 62, .RW, 1, []⟩, ⟨61, 56, .RW, 0, [(0, 47)]⟩, ⟨55, 50, .RW, 0, [(0, 47)]⟩, ⟨49, 36, .RW, 0, []⟩]⟩
def Info.EN_STAT : RegInfo := ⟨.EN, 0x0, 256, 0x40, 1, 0, 32,
  [⟨31, 29, .RO, 0, []⟩, ⟨28, 28, .HWINIT, 0, []⟩, ⟨27, 22, .RO, 0, []⟩, ⟨21, 11, .RO, 0, []⟩]⟩
def Info.EN_PC : RegInfo := ⟨.EN, 0x4, 256, 0x40, 1, 0, 32,
  [⟨31, 24, .RO, 0, []⟩, ⟨15, 0, .RO, 0, []⟩]⟩
def Info.EN_FAULT : RegInfo := ⟨.EN, 0x8, 256, 0x40, 1, 0, 32,
  [⟨31, 31, .RW1C, 0, []⟩, ⟨23, 16, .RO, 0, []⟩, ⟨15, 0, .RO, 0, []⟩]⟩
def Info.EN_FAULT_ADDR : RegInfo := ⟨.EN, 0x10, 256, 0x40, 1, 0, 64,
  [⟨63, 0, .RO, 0, []⟩]⟩
def Info.EN_SMP_CFG : RegInfo := ⟨.EN, 0x18, 256, 0x40, 1, 0, 32,
  [⟨31, 31, .RW, 0, []⟩, ⟨13, 8, .RW, 16, [(4, 32)]⟩, ⟨2, 0, .RW, 0, [(0, 4)]⟩]⟩
def Info.EN_SMP_PC : RegInfo := ⟨.EN, 0x1C, 256, 0x40, 1, 0, 32,
  [⟨31, 31, .RW1C, 0, []⟩, ⟨30, 30, .RO, 0, []⟩, ⟨23, 16, .RO, 0, []⟩, ⟨15, 0, .RO, 0, []⟩]⟩
def Info.EN_OP_CNT : RegInfo := ⟨.EN, 0x20, 256, 0x40, 1, 0, 64,
  [⟨63, 63, .RW1C, 0, []⟩, ⟨47, 0, .RO, 0, []⟩]⟩
def Info.EN_CYC_CNT : RegInfo := ⟨.EN, 0x28, 256, 0x40, 1, 0, 64,
  [⟨63, 63, .RW1C, 0, []⟩, ⟨47, 0, .RO, 0, []⟩]⟩
def Info.TM_TIME : RegInfo := ⟨.TM, 0x0, 1, 8, 1, 0, 64,
  [⟨63, 0, .RO, 0, []⟩]⟩
def Info.TM_STAT : RegInfo := ⟨.TM, 0x8, 1, 4, 1, 0, 32,
  [⟨31, 29, .RO, 0, []⟩, ⟨28, 28, .RO, 0, []⟩, ⟨27, 24, .RO, 15, []⟩, ⟨21, 16, .RO, 0, []⟩, ⟨15, 0, .RO, 0, []⟩]⟩
def Info.TM_CFG : RegInfo := ⟨.TM, 0xC, 1, 4, 1, 0, 32,
  [⟨7, 4, .RW, 4, [(2, 15)]⟩, ⟨2, 0, .RW, 2, [(0, 6)]⟩]⟩
def Info.TM_OFFSET : RegInfo := ⟨.TM, 0x10, 1, 4, 1, 0, 32,
  [⟨31, 0, .RO, 0, []⟩]⟩
def Info.TM_DELAY : RegInfo := ⟨.TM, 0x14, 1, 4, 1, 0, 32,
  [⟨31, 0, .RO, 0, []⟩]⟩
def Info.TM_BW_CFG : RegInfo := ⟨.TM, 0x18, 1, 4, 1, 0, 32,
  [⟨23, 0, .RW, 1000, [(1, 10000000)]⟩]⟩
def Info.TM_BW_STAT : RegInfo := ⟨.TM, 0x1C, 1, 4, 1, 0, 32,
  [⟨31, 31, .RO, 0, []⟩]⟩
def Info.TM_BW_END : RegInfo := ⟨.TM, 0x20, 1, 8, 1, 0, 64,
  [⟨63, 0, .RO, 0, []⟩]⟩
def Info.TM_REJ_WR_CNT : RegInfo := ⟨.TM, 0x30, 1, 8, 1, 0, 64,
  [⟨63, 63, .RW1C, 0, []⟩, ⟨47, 0, .RO, 0, []⟩]⟩
def Info.TM_CORE_CE_CNT : RegInfo := ⟨.TM, 0x38, 1, 8, 1, 0, 64,
  [⟨63, 63, .RW1C, 0, []⟩, ⟨47, 0, .RO, 0, []⟩]⟩
def Info.TM_WEAR : RegInfo := ⟨.TM, 0x40, 5, 8, 1, 0, 64,
  [⟨63, 0, .HWINIT, 0, []⟩]⟩
def Info.TM_WEAR_RATE : RegInfo := ⟨.TM, 0x80, 5, 4, 1, 0, 32,
  [⟨31, 0, .HWINIT, 65536, []⟩]⟩
def Info.TM_EVT_PEND : RegInfo := ⟨.TM, 0x100, 72, 4, 1, 0, 32,
  [⟨31, 0, .RW1C, 0, []⟩]⟩
def Info.TM_MEM_VIOL : RegInfo := ⟨.TM, 0x300, 4, 8, 1, 0, 64,
  [⟨63, 63, .RW1C, 0, []⟩, ⟨62, 62, .RO, 0, []⟩, ⟨61, 60, .RO, 0, []⟩, ⟨59, 59, .RO, 0, []⟩, ⟨58, 56, .RO, 0, []⟩, ⟨33, 0, .RO, 0, []⟩]⟩
def Info.TM_PTM_OFF : RegInfo := ⟨.TM, 0x400, 48, 8, 1, 0, 64,
  [⟨63, 63, .RO, 0, []⟩, ⟨62, 0, .RO, 0, []⟩]⟩
def Info.TM_BW_RX : RegInfo := ⟨.TM, 0x1000, 48, 0x10, 1, 0, 64,
  [⟨47, 0, .RO, 0, []⟩]⟩
def Info.TM_BW_TX : RegInfo := ⟨.TM, 0x1008, 48, 0x10, 1, 0, 64,
  [⟨47, 0, .RO, 0, []⟩]⟩
def Info.TM_PORT_RXB : RegInfo := ⟨.TM, 0x2000, 48, 0x10, 1, 0, 64,
  [⟨63, 63, .RW1C, 0, []⟩, ⟨47, 0, .RO, 0, []⟩]⟩
def Info.TM_PORT_TXB : RegInfo := ⟨.TM, 0x2008, 48, 0x10, 1, 0, 64,
  [⟨63, 63, .RW1C, 0, []⟩, ⟨47, 0, .RO, 0, []⟩]⟩
def Info.SF_DV_ID : RegInfo := ⟨.SF, 0, 48, 1, 1, 0, 32,
  [⟨31, 31, .RO, 0, []⟩, ⟨26, 16, .RO, 0, []⟩, ⟨13, 8, .HWINIT, 0, []⟩, ⟨5, 0, .HWINIT, 0, []⟩]⟩
def Info.SF_DV_FW : RegInfo := ⟨.SF, 0, 48, 1, 1, 0, 32,
  [⟨31, 0, .HWINIT, 0, []⟩]⟩
def Info.SF_DV_EPOCH : RegInfo := ⟨.SF, 0, 48, 1, 1, 0, 32,
  [⟨31, 0, .RO, 0, []⟩]⟩
def Info.SF_ID : RegInfo := ⟨.SF, 0, 49200, 1, 1, 0, 32,
  [⟨31, 31, .HWINIT, 0, []⟩, ⟨30, 20, .HWINIT, 0, []⟩, ⟨19, 14, .HWINIT, 0, []⟩, ⟨13, 0, .RO, 0, []⟩]⟩
def Info.SF_RES : RegInfo := ⟨.SF, 4, 49200, 1, 1, 0, 32,
  [⟨30, 23, .RO, 0, []⟩, ⟨22, 12, .RO, 0, []⟩, ⟨11, 0, .RO, 1, []⟩]⟩
def Info.SF_EVT : RegInfo := ⟨.SF, 8, 49200, 1, 1, 0, 32,
  [⟨6, 6, .RW1C, 0, []⟩, ⟨5, 5, .RW1C, 0, []⟩, ⟨4, 4, .RW1C, 0, []⟩, ⟨3, 3, .RW1C, 0, []⟩, ⟨2, 2, .RW1C, 0, []⟩, ⟨1, 1, .RW1C, 0, []⟩, ⟨0, 0, .RW1C, 0, []⟩]⟩
def Info.SF_EVT_MASK : RegInfo := ⟨.SF, 0xC, 49200, 1, 1, 0, 32,
  [⟨6, 0, .RW, 0, []⟩]⟩
def Info.SF_LATE_LOG : RegInfo := ⟨.SF, 0x10, 49200, 1, 1, 0, 64,
  [⟨63, 63, .RW1C, 0, []⟩, ⟨62, 62, .RO, 0, []⟩, ⟨47, 32, .RO, 0, []⟩, ⟨31, 29, .RO, 0, []⟩, ⟨13, 0, .RO, 0, []⟩]⟩
def Info.SF_LATE_CNT : RegInfo := ⟨.SF, 0x18, 49200, 1, 1, 0, 64,
  [⟨63, 63, .RW1C, 0, []⟩, ⟨47, 0, .RO, 0, []⟩]⟩
def Info.SF_Q_BASE : RegInfo := ⟨.SF, 0, 4096, 1, 1, 0, 64,
  [⟨63, 12, .RW, 0, []⟩]⟩
def Info.SF_Q_CFG : RegInfo := ⟨.SF, 8, 4096, 1, 1, 0, 32,
  [⟨31, 31, .RW, 0, []⟩, ⟨28, 24, .RW, 6, [(6, 16)]⟩, ⟨10, 0, .RW, 0, []⟩]⟩
def Info.SF_Q_STAT : RegInfo := ⟨.SF, 12, 4096, 1, 1, 0, 32,
  [⟨31, 31, .RO, 1, []⟩, ⟨30, 30, .RW1C, 0, []⟩, ⟨29, 29, .RO, 0, []⟩, ⟨28, 26, .RO, 0, []⟩, ⟨15, 0, .RO, 0, []⟩]⟩
def Info.SF_Q_CQ_BASE : RegInfo := ⟨.SF, 16, 4096, 1, 1, 0, 64,
  [⟨63, 12, .RW, 0, []⟩]⟩
def Info.SF_Q_CQ_HEAD : RegInfo := ⟨.SF, 24, 4096, 1, 1, 0, 32,
  [⟨15, 0, .RW, 0, []⟩]⟩
def Info.SF_Q_CQ_STAT : RegInfo := ⟨.SF, 28, 4096, 1, 1, 0, 32,
  [⟨31, 31, .RO, 1, []⟩, ⟨15, 0, .RO, 0, []⟩]⟩
def Info.SF_DB : RegInfo := ⟨.SF, 0, 4096, 1, 1, 0, 32,
  [⟨15, 0, .WO, 0, []⟩]⟩
def Info.SF_PERR_LOG_ADDR : RegInfo := ⟨.SF, 0x100, 48, 1, 4, 1, 64,
  [⟨63, 0, .RO, 0, []⟩]⟩
def Info.SF_PERR_LOG_INFO : RegInfo := ⟨.SF, 0x108, 48, 1, 4, 1, 64,
  [⟨63, 63, .RW1C, 0, []⟩, ⟨56, 40, .RO, 0, []⟩, ⟨39, 32, .RO, 0, []⟩, ⟨15, 0, .RO, 0, []⟩]⟩
def Info.SF_PERR_STAT : RegInfo := ⟨.SF, 0x140, 48, 1, 1, 0, 32,
  [⟨15, 0, .RC, 0, []⟩]⟩
def Info.SF_CNT_VIS : RegInfo := ⟨.SF, 0x200, 48, 1, 32, 1, 32,
  [⟨31, 0, .RW, 0, []⟩]⟩
def Info.SF_LG_CTRL : RegInfo := ⟨.SF, 0x400, 48, 1, 8, 1, 32,
  [⟨31, 31, .RW, 0, []⟩, ⟨30, 30, .WO, 0, []⟩, ⟨29, 29, .RW, 0, []⟩, ⟨28, 28, .RW, 1, []⟩, ⟨10, 0, .RW, 0, []⟩]⟩
def Info.SF_LG_STAT : RegInfo := ⟨.SF, 0x404, 48, 1, 8, 1, 32,
  [⟨31, 31, .RO, 0, []⟩, ⟨30, 30, .RO, 0, []⟩, ⟨29, 29, .RW1C, 0, []⟩, ⟨28, 28, .RW1C, 0, []⟩, ⟨15, 0, .RO, 0, []⟩]⟩
def Info.SF_LG_RBASE : RegInfo := ⟨.SF, 0x408, 48, 1, 8, 1, 64,
  [⟨63, 12, .RW, 0, []⟩]⟩
def Info.SF_LG_RPAGES : RegInfo := ⟨.SF, 0x410, 48, 1, 8, 1, 32,
  [⟨27, 0, .RW, 0, [(1, 268435455)]⟩]⟩
def Info.SF_LG_BMP_A : RegInfo := ⟨.SF, 0x418, 48, 1, 8, 1, 64,
  [⟨63, 12, .RW, 0, []⟩]⟩
def Info.SF_LG_BMP_B : RegInfo := ⟨.SF, 0x420, 48, 1, 8, 1, 64,
  [⟨63, 12, .RW, 0, []⟩]⟩
def Info.SF_LG_VDSP : RegInfo := ⟨.SF, 0x440, 48, 1, 64, 1, 32,
  [⟨31, 0, .RW, 0, []⟩]⟩
def Info.SF_MB_CTRL : RegInfo := ⟨.SF, 0, 48, 1, 1, 0, 32,
  [⟨31, 31, .WO, 0, []⟩, ⟨10, 0, .RW, 0, [(1, 2047)]⟩]⟩
def Info.SF_MB_STAT : RegInfo := ⟨.SF, 4, 48, 1, 1, 0, 32,
  [⟨31, 31, .RO, 0, []⟩, ⟨30, 30, .RW1C, 0, []⟩, ⟨29, 29, .RW1C, 0, []⟩, ⟨10, 0, .RO, 0, []⟩]⟩
def Info.SF_CNT_WIN : RegInfo := ⟨.SF, 0x8000, 49200, 1, 12, 1, 64,
  [⟨63, 63, .RO, 0, []⟩, ⟨47, 0, .RO, 0, []⟩]⟩

/-- The register tables of the spec. -/
def regInfo : Reg → RegInfo
  | .XB_PORT_CTRL => Info.XB_PORT_CTRL
  | .XB_PORT_EGR => Info.XB_PORT_EGR
  | .XB_VS_TCMAP => Info.XB_VS_TCMAP
  | .XB_VS_OCMAP => Info.XB_VS_OCMAP
  | .XB_BUF_FREE => Info.XB_BUF_FREE
  | .XB_BUF_NP => Info.XB_BUF_NP
  | .XB_BUF_CPL => Info.XB_BUF_CPL
  | .XB_BUF_LOW => Info.XB_BUF_LOW
  | .XB_ERR_LOG0 => Info.XB_ERR_LOG0
  | .XB_ERR_LOG1 => Info.XB_ERR_LOG1
  | .XB_DROP_CNT => Info.XB_DROP_CNT
  | .XB_FTO => Info.XB_FTO
  | .XB_LOCK => Info.XB_LOCK
  | .XB_SYNTH_CNT => Info.XB_SYNTH_CNT
  | .XB_FLATE_CNT => Info.XB_FLATE_CNT
  | .XB_EXPIRE_CNT => Info.XB_EXPIRE_CNT
  | .XB_PERR_LOST_CNT => Info.XB_PERR_LOST_CNT
  | .XB_LOCK_BRK_CNT => Info.XB_LOCK_BRK_CNT
  | .XB_MW_RETRY_CNT => Info.XB_MW_RETRY_CNT
  | .XB_QREL_CNT => Info.XB_QREL_CNT
  | .ARB_COMMIT => Info.ARB_COMMIT
  | .ARB_HATCH_WD => Info.ARB_HATCH_WD
  | .ARB_CFG_S => Info.ARB_CFG_S
  | .ARB_CFG_W => Info.ARB_CFG_W
  | .ARB_PRIV_S => Info.ARB_PRIV_S
  | .ARB_PRIV_W => Info.ARB_PRIV_W
  | .ARB_HATCH => Info.ARB_HATCH
  | .ARB_FLAG => Info.ARB_FLAG
  | .ARB_STAT => Info.ARB_STAT
  | .ARB_DEAD_CNT => Info.ARB_DEAD_CNT
  | .ARB_CUT_CNT => Info.ARB_CUT_CNT
  | .ARB_CLASS_S => Info.ARB_CLASS_S
  | .ARB_CLASS_W => Info.ARB_CLASS_W
  | .SCH_CAL => Info.SCH_CAL
  | .SCH_CAL_STAT => Info.SCH_CAL_STAT
  | .SCH_SMP_CTRL => Info.SCH_SMP_CTRL
  | .SCH_SMP_BASE => Info.SCH_SMP_BASE
  | .SCH_SMP_WP => Info.SCH_SMP_WP
  | .SCH_SMP_RP => Info.SCH_SMP_RP
  | .SCH_SMP_SEL => Info.SCH_SMP_SEL
  | .SCH_SMP_SKIP_CNT => Info.SCH_SMP_SKIP_CNT
  | .SCH_SMP_LOST_CNT => Info.SCH_SMP_LOST_CNT
  | .SCH_PORT_S => Info.SCH_PORT_S
  | .SCH_PORT_W => Info.SCH_PORT_W
  | .SCH_GATE_STAT => Info.SCH_GATE_STAT
  | .SCH_GATE_BASE_S => Info.SCH_GATE_BASE_S
  | .SCH_GATE_SWT_S => Info.SCH_GATE_SWT_S
  | .SCH_GATE_OVR_CNT => Info.SCH_GATE_OVR_CNT
  | .SCH_GATE_BASE_W => Info.SCH_GATE_BASE_W
  | .SCH_GATE_SWT_W => Info.SCH_GATE_SWT_W
  | .SCH_QDEPTH => Info.SCH_QDEPTH
  | .SCH_FSEL_S => Info.SCH_FSEL_S
  | .SCH_FSEL_W => Info.SCH_FSEL_W
  | .SCH_FLOW_INC_S => Info.SCH_FLOW_INC_S
  | .SCH_FLOW_CFG_S => Info.SCH_FLOW_CFG_S
  | .SCH_FLOW_INC_W => Info.SCH_FLOW_INC_W
  | .SCH_FLOW_CFG_W => Info.SCH_FLOW_CFG_W
  | .SCH_FLOW_TAT => Info.SCH_FLOW_TAT
  | .SCH_GATE_ENT_S => Info.SCH_GATE_ENT_S
  | .SCH_GATE_ENT_W => Info.SCH_GATE_ENT_W
  | .PCI_PORT_CTRL => Info.PCI_PORT_CTRL
  | .PCI_PORT_STAT => Info.PCI_PORT_STAT
  | .PCI_L0P => Info.PCI_L0P
  | .PCI_VS_CFG => Info.PCI_VS_CFG
  | .PCI_SLOT_MAP => Info.PCI_SLOT_MAP
  | .PCI_SLOT_STAT => Info.PCI_SLOT_STAT
  | .LN_TBL_STAT => Info.LN_TBL_STAT
  | .LN_WATCH => Info.LN_WATCH
  | .LN_STRESS => Info.LN_STRESS
  | .LN_TEMP => Info.LN_TEMP
  | .LN_LANE_APPLIED => Info.LN_LANE_APPLIED
  | .LN_LANE_EQ => Info.LN_LANE_EQ
  | .LN_LANE_STAT => Info.LN_LANE_STAT
  | .LN_PRBS_CTRL => Info.LN_PRBS_CTRL
  | .LN_FEC_RX => Info.LN_FEC_RX
  | .LN_FEC_SYM => Info.LN_FEC_SYM
  | .LN_FEC_UNC => Info.LN_FEC_UNC
  | .LN_PRBS_BITS => Info.LN_PRBS_BITS
  | .LN_PRBS_ERR => Info.LN_PRBS_ERR
  | .BL_BRINGUP => Info.BL_BRINGUP
  | .BL_CTRL => Info.BL_CTRL
  | .BL_LINK => Info.BL_LINK
  | .BL_SLEEP => Info.BL_SLEEP
  | .BL_STAT => Info.BL_STAT
  | .BL_PARTNER => Info.BL_PARTNER
  | .BL_SEQ => Info.BL_SEQ
  | .BL_BU_LOG => Info.BL_BU_LOG
  | .BL_REPLAY_CNT => Info.BL_REPLAY_CNT
  | .BL_BAD_CNT => Info.BL_BAD_CNT
  | .BL_GAP_CNT => Info.BL_GAP_CNT
  | .BL_DUP_CNT => Info.BL_DUP_CNT
  | .BL_RESET_CNT => Info.BL_RESET_CNT
  | .BL_PROTO_CNT => Info.BL_PROTO_CNT
  | .RT_ID => Info.RT_ID
  | .RT_STAT => Info.RT_STAT
  | .RT_STAGE_CHK => Info.RT_STAGE_CHK
  | .RT_STAGE_STAT => Info.RT_STAGE_STAT
  | .RT_HAND_CFG => Info.RT_HAND_CFG
  | .RT_LEAK_CNT => Info.RT_LEAK_CNT
  | .RT_UNTOK_CNT => Info.RT_UNTOK_CNT
  | .RT_OVERRUN_CNT => Info.RT_OVERRUN_CNT
  | .RT_DIR_DROP => Info.RT_DIR_DROP
  | .RT_SHELF_USE => Info.RT_SHELF_USE
  | .RT_NBR_SERIAL => Info.RT_NBR_SERIAL
  | .RT_NBR_LINK => Info.RT_NBR_LINK
  | .RT_NBR_ADDR => Info.RT_NBR_ADDR
  | .RT_NBR_DEV => Info.RT_NBR_DEV
  | .RT_HAND_HOLD => Info.RT_HAND_HOLD
  | .DL_CFG => Info.DL_CFG
  | .DL_FENCE_CFG => Info.DL_FENCE_CFG
  | .DL_MARK_CFG => Info.DL_MARK_CFG
  | .DL_DEAL_STAT => Info.DL_DEAL_STAT
  | .DL_DEAL_EPOCH => Info.DL_DEAL_EPOCH
  | .DL_DEAL_T => Info.DL_DEAL_T
  | .DL_DRAIN_STAT => Info.DL_DRAIN_STAT
  | .DL_CUT_STAT => Info.DL_CUT_STAT
  | .DL_MISS => Info.DL_MISS
  | .DL_TREE => Info.DL_TREE
  | .DL_TREE_CHILD => Info.DL_TREE_CHILD
  | .DL_TREE_STAT => Info.DL_TREE_STAT
  | .DL_TREE_DROP_CNT => Info.DL_TREE_DROP_CNT
  | .DL_DUP_CNT => Info.DL_DUP_CNT
  | .DL_WIN_CNT => Info.DL_WIN_CNT
  | .DL_RESEND_CNT => Info.DL_RESEND_CNT
  | .DL_GIVEUP_CNT => Info.DL_GIVEUP_CNT
  | .DL_LIFE_CNT => Info.DL_LIFE_CNT
  | .DL_FENCE_CNT => Info.DL_FENCE_CNT
  | .DL_LATE_CNT => Info.DL_LATE_CNT
  | .DL_DISTURB_CNT => Info.DL_DISTURB_CNT
  | .DL_STALE_EP_CNT => Info.DL_STALE_EP_CNT
  | .DL_ACK_IN => Info.DL_ACK_IN
  | .DL_FENCE_IN => Info.DL_FENCE_IN
  | .CL_COLL_CFG => Info.CL_COLL_CFG
  | .CL_COLL_DONE_CNT => Info.CL_COLL_DONE_CNT
  | .CL_COLL_ABORT_CNT => Info.CL_COLL_ABORT_CNT
  | .CL_COLL_STALE_CNT => Info.CL_COLL_STALE_CNT
  | .CL_GRP_CTL => Info.CL_GRP_CTL
  | .CL_GRP_N => Info.CL_GRP_N
  | .CL_GRP_PARENT => Info.CL_GRP_PARENT
  | .CL_GRP_CHILD => Info.CL_GRP_CHILD
  | .CL_GRP_VSMASK => Info.CL_GRP_VSMASK
  | .CL_GRP_STAT => Info.CL_GRP_STAT
  | .CL_STAT => Info.CL_STAT
  | .CL_ACC_CNT => Info.CL_ACC_CNT
  | .CL_HEADROOM_CNT => Info.CL_HEADROOM_CNT
  | .CL_SCHED => Info.CL_SCHED
  | .CL_SHARE => Info.CL_SHARE
  | .EN_STAT => Info.EN_STAT
  | .EN_PC => Info.EN_PC
  | .EN_FAULT => Info.EN_FAULT
  | .EN_FAULT_ADDR => Info.EN_FAULT_ADDR
  | .EN_SMP_CFG => Info.EN_SMP_CFG
  | .EN_SMP_PC => Info.EN_SMP_PC
  | .EN_OP_CNT => Info.EN_OP_CNT
  | .EN_CYC_CNT => Info.EN_CYC_CNT
  | .TM_TIME => Info.TM_TIME
  | .TM_STAT => Info.TM_STAT
  | .TM_CFG => Info.TM_CFG
  | .TM_OFFSET => Info.TM_OFFSET
  | .TM_DELAY => Info.TM_DELAY
  | .TM_BW_CFG => Info.TM_BW_CFG
  | .TM_BW_STAT => Info.TM_BW_STAT
  | .TM_BW_END => Info.TM_BW_END
  | .TM_REJ_WR_CNT => Info.TM_REJ_WR_CNT
  | .TM_CORE_CE_CNT => Info.TM_CORE_CE_CNT
  | .TM_WEAR => Info.TM_WEAR
  | .TM_WEAR_RATE => Info.TM_WEAR_RATE
  | .TM_EVT_PEND => Info.TM_EVT_PEND
  | .TM_MEM_VIOL => Info.TM_MEM_VIOL
  | .TM_PTM_OFF => Info.TM_PTM_OFF
  | .TM_BW_RX => Info.TM_BW_RX
  | .TM_BW_TX => Info.TM_BW_TX
  | .TM_PORT_RXB => Info.TM_PORT_RXB
  | .TM_PORT_TXB => Info.TM_PORT_TXB
  | .SF_DV_ID => Info.SF_DV_ID
  | .SF_DV_FW => Info.SF_DV_FW
  | .SF_DV_EPOCH => Info.SF_DV_EPOCH
  | .SF_ID => Info.SF_ID
  | .SF_RES => Info.SF_RES
  | .SF_EVT => Info.SF_EVT
  | .SF_EVT_MASK => Info.SF_EVT_MASK
  | .SF_LATE_LOG => Info.SF_LATE_LOG
  | .SF_LATE_CNT => Info.SF_LATE_CNT
  | .SF_Q_BASE => Info.SF_Q_BASE
  | .SF_Q_CFG => Info.SF_Q_CFG
  | .SF_Q_STAT => Info.SF_Q_STAT
  | .SF_Q_CQ_BASE => Info.SF_Q_CQ_BASE
  | .SF_Q_CQ_HEAD => Info.SF_Q_CQ_HEAD
  | .SF_Q_CQ_STAT => Info.SF_Q_CQ_STAT
  | .SF_DB => Info.SF_DB
  | .SF_PERR_LOG_ADDR => Info.SF_PERR_LOG_ADDR
  | .SF_PERR_LOG_INFO => Info.SF_PERR_LOG_INFO
  | .SF_PERR_STAT => Info.SF_PERR_STAT
  | .SF_CNT_VIS => Info.SF_CNT_VIS
  | .SF_LG_CTRL => Info.SF_LG_CTRL
  | .SF_LG_STAT => Info.SF_LG_STAT
  | .SF_LG_RBASE => Info.SF_LG_RBASE
  | .SF_LG_RPAGES => Info.SF_LG_RPAGES
  | .SF_LG_BMP_A => Info.SF_LG_BMP_A
  | .SF_LG_BMP_B => Info.SF_LG_BMP_B
  | .SF_LG_VDSP => Info.SF_LG_VDSP
  | .SF_MB_CTRL => Info.SF_MB_CTRL
  | .SF_MB_STAT => Info.SF_MB_STAT
  | .SF_CNT_WIN => Info.SF_CNT_WIN

/-- A number of its own for every register: the key of its instances in the register table. -/
def regCode : Reg → Nat
  | .XB_PORT_CTRL => 0
  | .XB_PORT_EGR => 1
  | .XB_VS_TCMAP => 2
  | .XB_VS_OCMAP => 3
  | .XB_BUF_FREE => 4
  | .XB_BUF_NP => 5
  | .XB_BUF_CPL => 6
  | .XB_BUF_LOW => 7
  | .XB_ERR_LOG0 => 8
  | .XB_ERR_LOG1 => 9
  | .XB_DROP_CNT => 10
  | .XB_FTO => 11
  | .XB_LOCK => 12
  | .XB_SYNTH_CNT => 13
  | .XB_FLATE_CNT => 14
  | .XB_EXPIRE_CNT => 15
  | .XB_PERR_LOST_CNT => 16
  | .XB_LOCK_BRK_CNT => 17
  | .XB_MW_RETRY_CNT => 18
  | .XB_QREL_CNT => 19
  | .ARB_COMMIT => 20
  | .ARB_HATCH_WD => 21
  | .ARB_CFG_S => 22
  | .ARB_CFG_W => 23
  | .ARB_PRIV_S => 24
  | .ARB_PRIV_W => 25
  | .ARB_HATCH => 26
  | .ARB_FLAG => 27
  | .ARB_STAT => 28
  | .ARB_DEAD_CNT => 29
  | .ARB_CUT_CNT => 30
  | .ARB_CLASS_S => 31
  | .ARB_CLASS_W => 32
  | .SCH_CAL => 33
  | .SCH_CAL_STAT => 34
  | .SCH_SMP_CTRL => 35
  | .SCH_SMP_BASE => 36
  | .SCH_SMP_WP => 37
  | .SCH_SMP_RP => 38
  | .SCH_SMP_SEL => 39
  | .SCH_SMP_SKIP_CNT => 40
  | .SCH_SMP_LOST_CNT => 41
  | .SCH_PORT_S => 42
  | .SCH_PORT_W => 43
  | .SCH_GATE_STAT => 44
  | .SCH_GATE_BASE_S => 45
  | .SCH_GATE_SWT_S => 46
  | .SCH_GATE_OVR_CNT => 47
  | .SCH_GATE_BASE_W => 48
  | .SCH_GATE_SWT_W => 49
  | .SCH_QDEPTH => 50
  | .SCH_FSEL_S => 51
  | .SCH_FSEL_W => 52
  | .SCH_FLOW_INC_S => 53
  | .SCH_FLOW_CFG_S => 54
  | .SCH_FLOW_INC_W => 55
  | .SCH_FLOW_CFG_W => 56
  | .SCH_FLOW_TAT => 57
  | .SCH_GATE_ENT_S => 58
  | .SCH_GATE_ENT_W => 59
  | .PCI_PORT_CTRL => 60
  | .PCI_PORT_STAT => 61
  | .PCI_L0P => 62
  | .PCI_VS_CFG => 63
  | .PCI_SLOT_MAP => 64
  | .PCI_SLOT_STAT => 65
  | .LN_TBL_STAT => 66
  | .LN_WATCH => 67
  | .LN_STRESS => 68
  | .LN_TEMP => 69
  | .LN_LANE_APPLIED => 70
  | .LN_LANE_EQ => 71
  | .LN_LANE_STAT => 72
  | .LN_PRBS_CTRL => 73
  | .LN_FEC_RX => 74
  | .LN_FEC_SYM => 75
  | .LN_FEC_UNC => 76
  | .LN_PRBS_BITS => 77
  | .LN_PRBS_ERR => 78
  | .BL_BRINGUP => 79
  | .BL_CTRL => 80
  | .BL_LINK => 81
  | .BL_SLEEP => 82
  | .BL_STAT => 83
  | .BL_PARTNER => 84
  | .BL_SEQ => 85
  | .BL_BU_LOG => 86
  | .BL_REPLAY_CNT => 87
  | .BL_BAD_CNT => 88
  | .BL_GAP_CNT => 89
  | .BL_DUP_CNT => 90
  | .BL_RESET_CNT => 91
  | .BL_PROTO_CNT => 92
  | .RT_ID => 93
  | .RT_STAT => 94
  | .RT_STAGE_CHK => 95
  | .RT_STAGE_STAT => 96
  | .RT_HAND_CFG => 97
  | .RT_LEAK_CNT => 98
  | .RT_UNTOK_CNT => 99
  | .RT_OVERRUN_CNT => 100
  | .RT_DIR_DROP => 101
  | .RT_SHELF_USE => 102
  | .RT_NBR_SERIAL => 103
  | .RT_NBR_LINK => 104
  | .RT_NBR_ADDR => 105
  | .RT_NBR_DEV => 106
  | .RT_HAND_HOLD => 107
  | .DL_CFG => 108
  | .DL_FENCE_CFG => 109
  | .DL_MARK_CFG => 110
  | .DL_DEAL_STAT => 111
  | .DL_DEAL_EPOCH => 112
  | .DL_DEAL_T => 113
  | .DL_DRAIN_STAT => 114
  | .DL_CUT_STAT => 115
  | .DL_MISS => 116
  | .DL_TREE => 117
  | .DL_TREE_CHILD => 118
  | .DL_TREE_STAT => 119
  | .DL_TREE_DROP_CNT => 120
  | .DL_DUP_CNT => 121
  | .DL_WIN_CNT => 122
  | .DL_RESEND_CNT => 123
  | .DL_GIVEUP_CNT => 124
  | .DL_LIFE_CNT => 125
  | .DL_FENCE_CNT => 126
  | .DL_LATE_CNT => 127
  | .DL_DISTURB_CNT => 128
  | .DL_STALE_EP_CNT => 129
  | .DL_ACK_IN => 130
  | .DL_FENCE_IN => 131
  | .CL_COLL_CFG => 132
  | .CL_COLL_DONE_CNT => 133
  | .CL_COLL_ABORT_CNT => 134
  | .CL_COLL_STALE_CNT => 135
  | .CL_GRP_CTL => 136
  | .CL_GRP_N => 137
  | .CL_GRP_PARENT => 138
  | .CL_GRP_CHILD => 139
  | .CL_GRP_VSMASK => 140
  | .CL_GRP_STAT => 141
  | .CL_STAT => 142
  | .CL_ACC_CNT => 143
  | .CL_HEADROOM_CNT => 144
  | .CL_SCHED => 145
  | .CL_SHARE => 146
  | .EN_STAT => 147
  | .EN_PC => 148
  | .EN_FAULT => 149
  | .EN_FAULT_ADDR => 150
  | .EN_SMP_CFG => 151
  | .EN_SMP_PC => 152
  | .EN_OP_CNT => 153
  | .EN_CYC_CNT => 154
  | .TM_TIME => 155
  | .TM_STAT => 156
  | .TM_CFG => 157
  | .TM_OFFSET => 158
  | .TM_DELAY => 159
  | .TM_BW_CFG => 160
  | .TM_BW_STAT => 161
  | .TM_BW_END => 162
  | .TM_REJ_WR_CNT => 163
  | .TM_CORE_CE_CNT => 164
  | .TM_WEAR => 165
  | .TM_WEAR_RATE => 166
  | .TM_EVT_PEND => 167
  | .TM_MEM_VIOL => 168
  | .TM_PTM_OFF => 169
  | .TM_BW_RX => 170
  | .TM_BW_TX => 171
  | .TM_PORT_RXB => 172
  | .TM_PORT_TXB => 173
  | .SF_DV_ID => 174
  | .SF_DV_FW => 175
  | .SF_DV_EPOCH => 176
  | .SF_ID => 177
  | .SF_RES => 178
  | .SF_EVT => 179
  | .SF_EVT_MASK => 180
  | .SF_LATE_LOG => 181
  | .SF_LATE_CNT => 182
  | .SF_Q_BASE => 183
  | .SF_Q_CFG => 184
  | .SF_Q_STAT => 185
  | .SF_Q_CQ_BASE => 186
  | .SF_Q_CQ_HEAD => 187
  | .SF_Q_CQ_STAT => 188
  | .SF_DB => 189
  | .SF_PERR_LOG_ADDR => 190
  | .SF_PERR_LOG_INFO => 191
  | .SF_PERR_STAT => 192
  | .SF_CNT_VIS => 193
  | .SF_LG_CTRL => 194
  | .SF_LG_STAT => 195
  | .SF_LG_RBASE => 196
  | .SF_LG_RPAGES => 197
  | .SF_LG_BMP_A => 198
  | .SF_LG_BMP_B => 199
  | .SF_LG_VDSP => 200
  | .SF_MB_CTRL => 201
  | .SF_MB_STAT => 202
  | .SF_CNT_WIN => 203

def regsPart0 : List Reg :=
  [.XB_PORT_CTRL, .XB_PORT_EGR, .XB_VS_TCMAP, .XB_VS_OCMAP,
   .XB_BUF_FREE, .XB_BUF_NP, .XB_BUF_CPL, .XB_BUF_LOW,
   .XB_ERR_LOG0, .XB_ERR_LOG1, .XB_DROP_CNT, .XB_FTO,
   .XB_LOCK, .XB_SYNTH_CNT, .XB_FLATE_CNT, .XB_EXPIRE_CNT,
   .XB_PERR_LOST_CNT, .XB_LOCK_BRK_CNT, .XB_MW_RETRY_CNT, .XB_QREL_CNT,
   .ARB_COMMIT, .ARB_HATCH_WD, .ARB_CFG_S, .ARB_CFG_W]

def regsPart1 : List Reg :=
  [.ARB_PRIV_S, .ARB_PRIV_W, .ARB_HATCH, .ARB_FLAG,
   .ARB_STAT, .ARB_DEAD_CNT, .ARB_CUT_CNT, .ARB_CLASS_S,
   .ARB_CLASS_W, .SCH_CAL, .SCH_CAL_STAT, .SCH_SMP_CTRL,
   .SCH_SMP_BASE, .SCH_SMP_WP, .SCH_SMP_RP, .SCH_SMP_SEL,
   .SCH_SMP_SKIP_CNT, .SCH_SMP_LOST_CNT, .SCH_PORT_S, .SCH_PORT_W,
   .SCH_GATE_STAT, .SCH_GATE_BASE_S, .SCH_GATE_SWT_S, .SCH_GATE_OVR_CNT]

def regsPart2 : List Reg :=
  [.SCH_GATE_BASE_W, .SCH_GATE_SWT_W, .SCH_QDEPTH, .SCH_FSEL_S,
   .SCH_FSEL_W, .SCH_FLOW_INC_S, .SCH_FLOW_CFG_S, .SCH_FLOW_INC_W,
   .SCH_FLOW_CFG_W, .SCH_FLOW_TAT, .SCH_GATE_ENT_S, .SCH_GATE_ENT_W,
   .PCI_PORT_CTRL, .PCI_PORT_STAT, .PCI_L0P, .PCI_VS_CFG,
   .PCI_SLOT_MAP, .PCI_SLOT_STAT, .LN_TBL_STAT, .LN_WATCH,
   .LN_STRESS, .LN_TEMP, .LN_LANE_APPLIED, .LN_LANE_EQ]

def regsPart3 : List Reg :=
  [.LN_LANE_STAT, .LN_PRBS_CTRL, .LN_FEC_RX, .LN_FEC_SYM,
   .LN_FEC_UNC, .LN_PRBS_BITS, .LN_PRBS_ERR, .BL_BRINGUP,
   .BL_CTRL, .BL_LINK, .BL_SLEEP, .BL_STAT,
   .BL_PARTNER, .BL_SEQ, .BL_BU_LOG, .BL_REPLAY_CNT,
   .BL_BAD_CNT, .BL_GAP_CNT, .BL_DUP_CNT, .BL_RESET_CNT,
   .BL_PROTO_CNT, .RT_ID, .RT_STAT, .RT_STAGE_CHK]

def regsPart4 : List Reg :=
  [.RT_STAGE_STAT, .RT_HAND_CFG, .RT_LEAK_CNT, .RT_UNTOK_CNT,
   .RT_OVERRUN_CNT, .RT_DIR_DROP, .RT_SHELF_USE, .RT_NBR_SERIAL,
   .RT_NBR_LINK, .RT_NBR_ADDR, .RT_NBR_DEV, .RT_HAND_HOLD,
   .DL_CFG, .DL_FENCE_CFG, .DL_MARK_CFG, .DL_DEAL_STAT,
   .DL_DEAL_EPOCH, .DL_DEAL_T, .DL_DRAIN_STAT, .DL_CUT_STAT,
   .DL_MISS, .DL_TREE, .DL_TREE_CHILD, .DL_TREE_STAT]

def regsPart5 : List Reg :=
  [.DL_TREE_DROP_CNT, .DL_DUP_CNT, .DL_WIN_CNT, .DL_RESEND_CNT,
   .DL_GIVEUP_CNT, .DL_LIFE_CNT, .DL_FENCE_CNT, .DL_LATE_CNT,
   .DL_DISTURB_CNT, .DL_STALE_EP_CNT, .DL_ACK_IN, .DL_FENCE_IN,
   .CL_COLL_CFG, .CL_COLL_DONE_CNT, .CL_COLL_ABORT_CNT, .CL_COLL_STALE_CNT,
   .CL_GRP_CTL, .CL_GRP_N, .CL_GRP_PARENT, .CL_GRP_CHILD,
   .CL_GRP_VSMASK, .CL_GRP_STAT, .CL_STAT, .CL_ACC_CNT]

def regsPart6 : List Reg :=
  [.CL_HEADROOM_CNT, .CL_SCHED, .CL_SHARE, .EN_STAT,
   .EN_PC, .EN_FAULT, .EN_FAULT_ADDR, .EN_SMP_CFG,
   .EN_SMP_PC, .EN_OP_CNT, .EN_CYC_CNT, .TM_TIME,
   .TM_STAT, .TM_CFG, .TM_OFFSET, .TM_DELAY,
   .TM_BW_CFG, .TM_BW_STAT, .TM_BW_END, .TM_REJ_WR_CNT,
   .TM_CORE_CE_CNT, .TM_WEAR, .TM_WEAR_RATE, .TM_EVT_PEND]

def regsPart7 : List Reg :=
  [.TM_MEM_VIOL, .TM_PTM_OFF, .TM_BW_RX, .TM_BW_TX,
   .TM_PORT_RXB, .TM_PORT_TXB, .SF_DV_ID, .SF_DV_FW,
   .SF_DV_EPOCH, .SF_ID, .SF_RES, .SF_EVT,
   .SF_EVT_MASK, .SF_LATE_LOG, .SF_LATE_CNT, .SF_Q_BASE,
   .SF_Q_CFG, .SF_Q_STAT, .SF_Q_CQ_BASE, .SF_Q_CQ_HEAD,
   .SF_Q_CQ_STAT, .SF_DB, .SF_PERR_LOG_ADDR, .SF_PERR_LOG_INFO]

def regsPart8 : List Reg :=
  [.SF_PERR_STAT, .SF_CNT_VIS, .SF_LG_CTRL, .SF_LG_STAT,
   .SF_LG_RBASE, .SF_LG_RPAGES, .SF_LG_BMP_A, .SF_LG_BMP_B,
   .SF_LG_VDSP, .SF_MB_CTRL, .SF_MB_STAT, .SF_CNT_WIN]

/-- Every register, in the order of the tables. -/
def allRegs : List Reg :=
  regsPart0 ++ regsPart1 ++ regsPart2 ++ regsPart3 ++ regsPart4 ++ regsPart5 ++ regsPart6 ++ regsPart7 ++ regsPart8

/-- A field of a register, by its bits. -/
structure Fld where
  reg : Reg
  hi : Nat
  lo : Nat
  deriving DecidableEq, Repr

abbrev Fld.XB_PORT_CTRL.ALPHA : Fld := ⟨.XB_PORT_CTRL, 23, 20⟩
abbrev Fld.XB_PORT_CTRL.RSV : Fld := ⟨.XB_PORT_CTRL, 16, 4⟩
abbrev Fld.XB_PORT_CTRL.SAF : Fld := ⟨.XB_PORT_CTRL, 1, 1⟩
abbrev Fld.XB_PORT_EGR.CAP : Fld := ⟨.XB_PORT_EGR, 31, 16⟩
abbrev Fld.XB_PORT_EGR.STALL_TO : Fld := ⟨.XB_PORT_EGR, 4, 0⟩
abbrev Fld.XB_VS_TCMAP.OC_FOR_TC : Fld := ⟨.XB_VS_TCMAP, 23, 0⟩
abbrev Fld.XB_VS_OCMAP.CC_FOR_OC : Fld := ⟨.XB_VS_OCMAP, 23, 0⟩
abbrev Fld.XB_BUF_FREE.CELLS : Fld := ⟨.XB_BUF_FREE, 17, 0⟩
abbrev Fld.XB_BUF_NP.CELLS : Fld := ⟨.XB_BUF_NP, 17, 0⟩
abbrev Fld.XB_BUF_CPL.CELLS : Fld := ⟨.XB_BUF_CPL, 17, 0⟩
abbrev Fld.XB_BUF_LOW.CELLS : Fld := ⟨.XB_BUF_LOW, 17, 0⟩
abbrev Fld.XB_ERR_LOG0.VALID : Fld := ⟨.XB_ERR_LOG0, 31, 31⟩
abbrev Fld.XB_ERR_LOG0.MORE : Fld := ⟨.XB_ERR_LOG0, 30, 30⟩
abbrev Fld.XB_ERR_LOG0.GPA : Fld := ⟨.XB_ERR_LOG0, 24, 8⟩
abbrev Fld.XB_ERR_LOG0.REASON : Fld := ⟨.XB_ERR_LOG0, 7, 0⟩
abbrev Fld.XB_ERR_LOG1.ING_PORT : Fld := ⟨.XB_ERR_LOG1, 29, 24⟩
abbrev Fld.XB_ERR_LOG1.OC : Fld := ⟨.XB_ERR_LOG1, 23, 21⟩
abbrev Fld.XB_ERR_LOG1.TYPE : Fld := ⟨.XB_ERR_LOG1, 20, 19⟩
abbrev Fld.XB_ERR_LOG1.VS : Fld := ⟨.XB_ERR_LOG1, 18, 6⟩
abbrev Fld.XB_DROP_CNT.OVF : Fld := ⟨.XB_DROP_CNT, 63, 63⟩
abbrev Fld.XB_DROP_CNT.COUNT : Fld := ⟨.XB_DROP_CNT, 47, 0⟩
abbrev Fld.XB_FTO.US : Fld := ⟨.XB_FTO, 19, 0⟩
abbrev Fld.XB_LOCK.HELD : Fld := ⟨.XB_LOCK, 31, 31⟩
abbrev Fld.XB_LOCK.BROKEN : Fld := ⟨.XB_LOCK, 30, 30⟩
abbrev Fld.XB_LOCK.DGPA : Fld := ⟨.XB_LOCK, 16, 0⟩
abbrev Fld.XB_SYNTH_CNT.OVF : Fld := ⟨.XB_SYNTH_CNT, 63, 63⟩
abbrev Fld.XB_SYNTH_CNT.COUNT : Fld := ⟨.XB_SYNTH_CNT, 47, 0⟩
abbrev Fld.XB_FLATE_CNT.OVF : Fld := ⟨.XB_FLATE_CNT, 63, 63⟩
abbrev Fld.XB_FLATE_CNT.COUNT : Fld := ⟨.XB_FLATE_CNT, 47, 0⟩
abbrev Fld.XB_EXPIRE_CNT.OVF : Fld := ⟨.XB_EXPIRE_CNT, 63, 63⟩
abbrev Fld.XB_EXPIRE_CNT.COUNT : Fld := ⟨.XB_EXPIRE_CNT, 47, 0⟩
abbrev Fld.XB_PERR_LOST_CNT.OVF : Fld := ⟨.XB_PERR_LOST_CNT, 63, 63⟩
abbrev Fld.XB_PERR_LOST_CNT.COUNT : Fld := ⟨.XB_PERR_LOST_CNT, 47, 0⟩
abbrev Fld.XB_LOCK_BRK_CNT.OVF : Fld := ⟨.XB_LOCK_BRK_CNT, 63, 63⟩
abbrev Fld.XB_LOCK_BRK_CNT.COUNT : Fld := ⟨.XB_LOCK_BRK_CNT, 47, 0⟩
abbrev Fld.XB_MW_RETRY_CNT.OVF : Fld := ⟨.XB_MW_RETRY_CNT, 63, 63⟩
abbrev Fld.XB_MW_RETRY_CNT.COUNT : Fld := ⟨.XB_MW_RETRY_CNT, 47, 0⟩
abbrev Fld.XB_QREL_CNT.OVF : Fld := ⟨.XB_QREL_CNT, 63, 63⟩
abbrev Fld.XB_QREL_CNT.COUNT : Fld := ⟨.XB_QREL_CNT, 47, 0⟩
abbrev Fld.ARB_COMMIT.COMMIT : Fld := ⟨.ARB_COMMIT, 31, 31⟩
abbrev Fld.ARB_COMMIT.DIRTY : Fld := ⟨.ARB_COMMIT, 30, 30⟩
abbrev Fld.ARB_COMMIT.SEQ : Fld := ⟨.ARB_COMMIT, 15, 0⟩
abbrev Fld.ARB_HATCH_WD.EXP : Fld := ⟨.ARB_HATCH_WD, 4, 0⟩
abbrev Fld.ARB_CFG_S.PARK : Fld := ⟨.ARB_CFG_S, 29, 29⟩
abbrev Fld.ARB_CFG_S.ROUND_EXP : Fld := ⟨.ARB_CFG_S, 28, 24⟩
abbrev Fld.ARB_CFG_S.PARK_IDLE : Fld := ⟨.ARB_CFG_S, 23, 16⟩
abbrev Fld.ARB_CFG_S.TRICK_HOLD : Fld := ⟨.ARB_CFG_S, 4, 0⟩
abbrev Fld.ARB_CFG_W.PARK : Fld := ⟨.ARB_CFG_W, 29, 29⟩
abbrev Fld.ARB_CFG_W.ROUND_EXP : Fld := ⟨.ARB_CFG_W, 28, 24⟩
abbrev Fld.ARB_CFG_W.PARK_IDLE : Fld := ⟨.ARB_CFG_W, 23, 16⟩
abbrev Fld.ARB_CFG_W.TRICK_HOLD : Fld := ⟨.ARB_CFG_W, 4, 0⟩
abbrev Fld.ARB_PRIV_S.MGMT_LIMIT : Fld := ⟨.ARB_PRIV_S, 23, 16⟩
abbrev Fld.ARB_PRIV_S.ENG_LIMIT : Fld := ⟨.ARB_PRIV_S, 15, 8⟩
abbrev Fld.ARB_PRIV_W.MGMT_LIMIT : Fld := ⟨.ARB_PRIV_W, 23, 16⟩
abbrev Fld.ARB_PRIV_W.ENG_LIMIT : Fld := ⟨.ARB_PRIV_W, 15, 8⟩
abbrev Fld.ARB_HATCH.IDLE : Fld := ⟨.ARB_HATCH, 31, 31⟩
abbrev Fld.ARB_HATCH.CTRL : Fld := ⟨.ARB_HATCH, 1, 1⟩
abbrev Fld.ARB_HATCH.MGMT : Fld := ⟨.ARB_HATCH, 0, 0⟩
abbrev Fld.ARB_FLAG.VALID : Fld := ⟨.ARB_FLAG, 31, 31⟩
abbrev Fld.ARB_FLAG.MORE : Fld := ⟨.ARB_FLAG, 30, 30⟩
abbrev Fld.ARB_FLAG.KIND : Fld := ⟨.ARB_FLAG, 29, 28⟩
abbrev Fld.ARB_FLAG.INPUT : Fld := ⟨.ARB_FLAG, 21, 16⟩
abbrev Fld.ARB_FLAG.PORT : Fld := ⟨.ARB_FLAG, 15, 10⟩
abbrev Fld.ARB_FLAG.CLASS : Fld := ⟨.ARB_FLAG, 9, 7⟩
abbrev Fld.ARB_STAT.PARKED : Fld := ⟨.ARB_STAT, 31, 31⟩
abbrev Fld.ARB_STAT.TRICK : Fld := ⟨.ARB_STAT, 30, 30⟩
abbrev Fld.ARB_STAT.TRICK_PORT : Fld := ⟨.ARB_STAT, 29, 24⟩
abbrev Fld.ARB_STAT.MASKED : Fld := ⟨.ARB_STAT, 23, 16⟩
abbrev Fld.ARB_STAT.SEQ_W : Fld := ⟨.ARB_STAT, 15, 0⟩
abbrev Fld.ARB_DEAD_CNT.OVF : Fld := ⟨.ARB_DEAD_CNT, 63, 63⟩
abbrev Fld.ARB_DEAD_CNT.COUNT : Fld := ⟨.ARB_DEAD_CNT, 47, 0⟩
abbrev Fld.ARB_CUT_CNT.OVF : Fld := ⟨.ARB_CUT_CNT, 63, 63⟩
abbrev Fld.ARB_CUT_CNT.COUNT : Fld := ⟨.ARB_CUT_CNT, 47, 0⟩
abbrev Fld.ARB_CLASS_S.QEN : Fld := ⟨.ARB_CLASS_S, 31, 31⟩
abbrev Fld.ARB_CLASS_S.LEVEL : Fld := ⟨.ARB_CLASS_S, 26, 24⟩
abbrev Fld.ARB_CLASS_S.QUOTA : Fld := ⟨.ARB_CLASS_S, 15, 0⟩
abbrev Fld.ARB_CLASS_W.QEN : Fld := ⟨.ARB_CLASS_W, 31, 31⟩
abbrev Fld.ARB_CLASS_W.LEVEL : Fld := ⟨.ARB_CLASS_W, 26, 24⟩
abbrev Fld.ARB_CLASS_W.QUOTA : Fld := ⟨.ARB_CLASS_W, 15, 0⟩
abbrev Fld.SCH_CAL.EN : Fld := ⟨.SCH_CAL, 31, 31⟩
abbrev Fld.SCH_CAL.SLOT_EXP : Fld := ⟨.SCH_CAL, 2, 0⟩
abbrev Fld.SCH_CAL_STAT.STEP : Fld := ⟨.SCH_CAL_STAT, 31, 16⟩
abbrev Fld.SCH_CAL_STAT.LAGMAX : Fld := ⟨.SCH_CAL_STAT, 15, 0⟩
abbrev Fld.SCH_SMP_CTRL.EN : Fld := ⟨.SCH_SMP_CTRL, 31, 31⟩
abbrev Fld.SCH_SMP_CTRL.MODE : Fld := ⟨.SCH_SMP_CTRL, 30, 30⟩
abbrev Fld.SCH_SMP_CTRL.RING_EXP : Fld := ⟨.SCH_SMP_CTRL, 12, 8⟩
abbrev Fld.SCH_SMP_CTRL.EXP : Fld := ⟨.SCH_SMP_CTRL, 4, 0⟩
abbrev Fld.SCH_SMP_BASE.ADDR : Fld := ⟨.SCH_SMP_BASE, 33, 12⟩
abbrev Fld.SCH_SMP_WP.IDX : Fld := ⟨.SCH_SMP_WP, 23, 0⟩
abbrev Fld.SCH_SMP_RP.IDX : Fld := ⟨.SCH_SMP_RP, 23, 0⟩
abbrev Fld.SCH_SMP_SEL.SEL : Fld := ⟨.SCH_SMP_SEL, 31, 0⟩
abbrev Fld.SCH_SMP_SKIP_CNT.OVF : Fld := ⟨.SCH_SMP_SKIP_CNT, 63, 63⟩
abbrev Fld.SCH_SMP_SKIP_CNT.COUNT : Fld := ⟨.SCH_SMP_SKIP_CNT, 47, 0⟩
abbrev Fld.SCH_SMP_LOST_CNT.OVF : Fld := ⟨.SCH_SMP_LOST_CNT, 63, 63⟩
abbrev Fld.SCH_SMP_LOST_CNT.COUNT : Fld := ⟨.SCH_SMP_LOST_CNT, 47, 0⟩
abbrev Fld.SCH_PORT_S.GEN : Fld := ⟨.SCH_PORT_S, 31, 31⟩
abbrev Fld.SCH_PORT_S.LEN : Fld := ⟨.SCH_PORT_S, 25, 17⟩
abbrev Fld.SCH_PORT_S.GUARD : Fld := ⟨.SCH_PORT_S, 16, 16⟩
abbrev Fld.SCH_PORT_S.OVH : Fld := ⟨.SCH_PORT_S, 8, 0⟩
abbrev Fld.SCH_PORT_W.GEN : Fld := ⟨.SCH_PORT_W, 31, 31⟩
abbrev Fld.SCH_PORT_W.LEN : Fld := ⟨.SCH_PORT_W, 25, 17⟩
abbrev Fld.SCH_PORT_W.GUARD : Fld := ⟨.SCH_PORT_W, 16, 16⟩
abbrev Fld.SCH_PORT_W.OVH : Fld := ⟨.SCH_PORT_W, 8, 0⟩
abbrev Fld.SCH_GATE_STAT.ERR : Fld := ⟨.SCH_GATE_STAT, 31, 31⟩
abbrev Fld.SCH_GATE_STAT.CODE : Fld := ⟨.SCH_GATE_STAT, 30, 28⟩
abbrev Fld.SCH_GATE_STAT.ARMED : Fld := ⟨.SCH_GATE_STAT, 27, 27⟩
abbrev Fld.SCH_GATE_STAT.GATES : Fld := ⟨.SCH_GATE_STAT, 15, 8⟩
abbrev Fld.SCH_GATE_STAT.IDX : Fld := ⟨.SCH_GATE_STAT, 7, 0⟩
abbrev Fld.SCH_GATE_BASE_S.TIME : Fld := ⟨.SCH_GATE_BASE_S, 63, 0⟩
abbrev Fld.SCH_GATE_SWT_S.TIME : Fld := ⟨.SCH_GATE_SWT_S, 63, 0⟩
abbrev Fld.SCH_GATE_OVR_CNT.OVF : Fld := ⟨.SCH_GATE_OVR_CNT, 63, 63⟩
abbrev Fld.SCH_GATE_OVR_CNT.COUNT : Fld := ⟨.SCH_GATE_OVR_CNT, 47, 0⟩
abbrev Fld.SCH_GATE_BASE_W.TIME : Fld := ⟨.SCH_GATE_BASE_W, 63, 0⟩
abbrev Fld.SCH_GATE_SWT_W.TIME : Fld := ⟨.SCH_GATE_SWT_W, 63, 0⟩
abbrev Fld.SCH_QDEPTH.CELLS : Fld := ⟨.SCH_QDEPTH, 17, 0⟩
abbrev Fld.SCH_FSEL_S.EN : Fld := ⟨.SCH_FSEL_S, 31, 31⟩
abbrev Fld.SCH_FSEL_S.MODE : Fld := ⟨.SCH_FSEL_S, 30, 30⟩
abbrev Fld.SCH_FSEL_S.BASE : Fld := ⟨.SCH_FSEL_S, 13, 0⟩
abbrev Fld.SCH_FSEL_W.EN : Fld := ⟨.SCH_FSEL_W, 31, 31⟩
abbrev Fld.SCH_FSEL_W.MODE : Fld := ⟨.SCH_FSEL_W, 30, 30⟩
abbrev Fld.SCH_FSEL_W.BASE : Fld := ⟨.SCH_FSEL_W, 13, 0⟩
abbrev Fld.SCH_FLOW_INC_S.INC : Fld := ⟨.SCH_FLOW_INC_S, 31, 0⟩
abbrev Fld.SCH_FLOW_CFG_S.BURST : Fld := ⟨.SCH_FLOW_CFG_S, 19, 0⟩
abbrev Fld.SCH_FLOW_INC_W.INC : Fld := ⟨.SCH_FLOW_INC_W, 31, 0⟩
abbrev Fld.SCH_FLOW_CFG_W.BURST : Fld := ⟨.SCH_FLOW_CFG_W, 19, 0⟩
abbrev Fld.SCH_FLOW_TAT.UNITS : Fld := ⟨.SCH_FLOW_TAT, 63, 16⟩
abbrev Fld.SCH_FLOW_TAT.FRAC : Fld := ⟨.SCH_FLOW_TAT, 15, 0⟩
abbrev Fld.SCH_GATE_ENT_S.GATES : Fld := ⟨.SCH_GATE_ENT_S, 39, 32⟩
abbrev Fld.SCH_GATE_ENT_S.DUR : Fld := ⟨.SCH_GATE_ENT_S, 29, 0⟩
abbrev Fld.SCH_GATE_ENT_W.GATES : Fld := ⟨.SCH_GATE_ENT_W, 39, 32⟩
abbrev Fld.SCH_GATE_ENT_W.DUR : Fld := ⟨.SCH_GATE_ENT_W, 29, 0⟩
abbrev Fld.PCI_PORT_CTRL.FPRESET : Fld := ⟨.PCI_PORT_CTRL, 11, 8⟩
abbrev Fld.PCI_PORT_CTRL.L0P_EN : Fld := ⟨.PCI_PORT_CTRL, 6, 6⟩
abbrev Fld.PCI_PORT_CTRL.EQ_MODE : Fld := ⟨.PCI_PORT_CTRL, 5, 5⟩
abbrev Fld.PCI_PORT_CTRL.FLIT_EN : Fld := ⟨.PCI_PORT_CTRL, 4, 4⟩
abbrev Fld.PCI_PORT_CTRL.MAXRATE : Fld := ⟨.PCI_PORT_CTRL, 2, 0⟩
abbrev Fld.PCI_PORT_STAT.EQFB : Fld := ⟨.PCI_PORT_STAT, 31, 31⟩
abbrev Fld.PCI_PORT_STAT.DOWNGR : Fld := ⟨.PCI_PORT_STAT, 30, 30⟩
abbrev Fld.PCI_PORT_STAT.EQFB_RATE : Fld := ⟨.PCI_PORT_STAT, 29, 27⟩
abbrev Fld.PCI_PORT_STAT.FLIT : Fld := ⟨.PCI_PORT_STAT, 26, 26⟩
abbrev Fld.PCI_PORT_STAT.TXW : Fld := ⟨.PCI_PORT_STAT, 20, 16⟩
abbrev Fld.PCI_PORT_STAT.RXW : Fld := ⟨.PCI_PORT_STAT, 15, 11⟩
abbrev Fld.PCI_PORT_STAT.RATE : Fld := ⟨.PCI_PORT_STAT, 10, 8⟩
abbrev Fld.PCI_PORT_STAT.LTSSM : Fld := ⟨.PCI_PORT_STAT, 5, 0⟩
abbrev Fld.PCI_L0P.WIN_EXP : Fld := ⟨.PCI_L0P, 27, 24⟩
abbrev Fld.PCI_L0P.MINW : Fld := ⟨.PCI_L0P, 21, 20⟩
abbrev Fld.PCI_L0P.HI_PCT : Fld := ⟨.PCI_L0P, 15, 8⟩
abbrev Fld.PCI_L0P.LO_PCT : Fld := ⟨.PCI_L0P, 7, 0⟩
abbrev Fld.PCI_VS_CFG.HPV : Fld := ⟨.PCI_VS_CFG, 22, 22⟩
abbrev Fld.PCI_VS_CFG.HOST_PORT : Fld := ⟨.PCI_VS_CFG, 21, 16⟩
abbrev Fld.PCI_VS_CFG.NDSP : Fld := ⟨.PCI_VS_CFG, 8, 0⟩
abbrev Fld.PCI_SLOT_MAP.EN : Fld := ⟨.PCI_SLOT_MAP, 31, 31⟩
abbrev Fld.PCI_SLOT_MAP.AUTO_ON : Fld := ⟨.PCI_SLOT_MAP, 30, 30⟩
abbrev Fld.PCI_SLOT_MAP.DEBOUNCE : Fld := ⟨.PCI_SLOT_MAP, 21, 14⟩
abbrev Fld.PCI_SLOT_MAP.PWR_LIM : Fld := ⟨.PCI_SLOT_MAP, 13, 6⟩
abbrev Fld.PCI_SLOT_MAP.PORT : Fld := ⟨.PCI_SLOT_MAP, 5, 0⟩
abbrev Fld.PCI_SLOT_STAT.PRSNT : Fld := ⟨.PCI_SLOT_STAT, 31, 31⟩
abbrev Fld.PCI_SLOT_STAT.POWERED : Fld := ⟨.PCI_SLOT_STAT, 30, 30⟩
abbrev Fld.PCI_SLOT_STAT.ATN_IND : Fld := ⟨.PCI_SLOT_STAT, 29, 28⟩
abbrev Fld.PCI_SLOT_STAT.PWR_IND : Fld := ⟨.PCI_SLOT_STAT, 27, 26⟩
abbrev Fld.PCI_SLOT_STAT.VS : Fld := ⟨.PCI_SLOT_STAT, 14, 8⟩
abbrev Fld.PCI_SLOT_STAT.UNBOUND_PRESS : Fld := ⟨.PCI_SLOT_STAT, 7, 0⟩
abbrev Fld.LN_TBL_STAT.VALID : Fld := ⟨.LN_TBL_STAT, 31, 31⟩
abbrev Fld.LN_TBL_STAT.COPY : Fld := ⟨.LN_TBL_STAT, 30, 30⟩
abbrev Fld.LN_TBL_STAT.OTHER : Fld := ⟨.LN_TBL_STAT, 29, 29⟩
abbrev Fld.LN_TBL_STAT.BADENT : Fld := ⟨.LN_TBL_STAT, 28, 16⟩
abbrev Fld.LN_TBL_STAT.SEQ : Fld := ⟨.LN_TBL_STAT, 15, 0⟩
abbrev Fld.LN_WATCH.EN : Fld := ⟨.LN_WATCH, 31, 31⟩
abbrev Fld.LN_WATCH.CONSEC : Fld := ⟨.LN_WATCH, 30, 27⟩
abbrev Fld.LN_WATCH.INT_EXP : Fld := ⟨.LN_WATCH, 23, 20⟩
abbrev Fld.LN_WATCH.PTHR_EXP : Fld := ⟨.LN_WATCH, 13, 8⟩
abbrev Fld.LN_WATCH.THR_EXP : Fld := ⟨.LN_WATCH, 5, 0⟩
abbrev Fld.LN_STRESS.QUALIFY : Fld := ⟨.LN_STRESS, 31, 24⟩
abbrev Fld.LN_STRESS.TDELTA : Fld := ⟨.LN_STRESS, 23, 16⟩
abbrev Fld.LN_STRESS.TEMP_HI : Fld := ⟨.LN_STRESS, 15, 8⟩
abbrev Fld.LN_STRESS.LOAD_PCT : Fld := ⟨.LN_STRESS, 7, 0⟩
abbrev Fld.LN_TEMP.TEMP : Fld := ⟨.LN_TEMP, 15, 0⟩
abbrev Fld.LN_LANE_APPLIED.SRC : Fld := ⟨.LN_LANE_APPLIED, 31, 30⟩
abbrev Fld.LN_LANE_APPLIED.QUAL : Fld := ⟨.LN_LANE_APPLIED, 29, 29⟩
abbrev Fld.LN_LANE_APPLIED.RATE : Fld := ⟨.LN_LANE_APPLIED, 23, 16⟩
abbrev Fld.LN_LANE_APPLIED.ATEMP : Fld := ⟨.LN_LANE_APPLIED, 15, 0⟩
abbrev Fld.LN_LANE_EQ.H1 : Fld := ⟨.LN_LANE_EQ, 31, 24⟩
abbrev Fld.LN_LANE_EQ.VGA : Fld := ⟨.LN_LANE_EQ, 23, 18⟩
abbrev Fld.LN_LANE_EQ.CTLE_DC : Fld := ⟨.LN_LANE_EQ, 17, 14⟩
abbrev Fld.LN_LANE_EQ.CTLE_PK : Fld := ⟨.LN_LANE_EQ, 13, 9⟩
abbrev Fld.LN_LANE_STAT.DRIFT : Fld := ⟨.LN_LANE_STAT, 31, 31⟩
abbrev Fld.LN_LANE_STAT.UNCOR : Fld := ⟨.LN_LANE_STAT, 30, 30⟩
abbrev Fld.LN_LANE_STAT.TSHIFT : Fld := ⟨.LN_LANE_STAT, 29, 29⟩
abbrev Fld.LN_LANE_STAT.STRESS_OK : Fld := ⟨.LN_LANE_STAT, 28, 28⟩
abbrev Fld.LN_LANE_STAT.SLEEP_TX : Fld := ⟨.LN_LANE_STAT, 27, 27⟩
abbrev Fld.LN_LANE_STAT.SLEEP_RX : Fld := ⟨.LN_LANE_STAT, 26, 26⟩
abbrev Fld.LN_LANE_STAT.RUN : Fld := ⟨.LN_LANE_STAT, 19, 16⟩
abbrev Fld.LN_LANE_STAT.QRUN : Fld := ⟨.LN_LANE_STAT, 15, 8⟩
abbrev Fld.LN_PRBS_CTRL.START : Fld := ⟨.LN_PRBS_CTRL, 31, 31⟩
abbrev Fld.LN_PRBS_CTRL.BUSY : Fld := ⟨.LN_PRBS_CTRL, 30, 30⟩
abbrev Fld.LN_PRBS_CTRL.LOCK : Fld := ⟨.LN_PRBS_CTRL, 29, 29⟩
abbrev Fld.LN_PRBS_CTRL.DONE : Fld := ⟨.LN_PRBS_CTRL, 28, 28⟩
abbrev Fld.LN_PRBS_CTRL.DIR : Fld := ⟨.LN_PRBS_CTRL, 27, 26⟩
abbrev Fld.LN_PRBS_CTRL.LOSS : Fld := ⟨.LN_PRBS_CTRL, 25, 25⟩
abbrev Fld.LN_PRBS_CTRL.DUR_EXP : Fld := ⟨.LN_PRBS_CTRL, 20, 16⟩
abbrev Fld.LN_FEC_RX.OVF : Fld := ⟨.LN_FEC_RX, 63, 63⟩
abbrev Fld.LN_FEC_RX.COUNT : Fld := ⟨.LN_FEC_RX, 47, 0⟩
abbrev Fld.LN_FEC_SYM.OVF : Fld := ⟨.LN_FEC_SYM, 63, 63⟩
abbrev Fld.LN_FEC_SYM.COUNT : Fld := ⟨.LN_FEC_SYM, 47, 0⟩
abbrev Fld.LN_FEC_UNC.OVF : Fld := ⟨.LN_FEC_UNC, 63, 63⟩
abbrev Fld.LN_FEC_UNC.COUNT : Fld := ⟨.LN_FEC_UNC, 47, 0⟩
abbrev Fld.LN_PRBS_BITS.OVF : Fld := ⟨.LN_PRBS_BITS, 63, 63⟩
abbrev Fld.LN_PRBS_BITS.COUNT : Fld := ⟨.LN_PRBS_BITS, 47, 0⟩
abbrev Fld.LN_PRBS_ERR.OVF : Fld := ⟨.LN_PRBS_ERR, 63, 63⟩
abbrev Fld.LN_PRBS_ERR.COUNT : Fld := ⟨.LN_PRBS_ERR, 47, 0⟩
abbrev Fld.BL_BRINGUP.BER_EXP : Fld := ⟨.BL_BRINGUP, 26, 21⟩
abbrev Fld.BL_BRINGUP.CHK_EXP : Fld := ⟨.BL_BRINGUP, 20, 16⟩
abbrev Fld.BL_BRINGUP.TO_EXP : Fld := ⟨.BL_BRINGUP, 15, 12⟩
abbrev Fld.BL_BRINGUP.RETRY : Fld := ⟨.BL_BRINGUP, 7, 0⟩
abbrev Fld.BL_CTRL.AUTO : Fld := ⟨.BL_CTRL, 4, 4⟩
abbrev Fld.BL_CTRL.TWOCLASS : Fld := ⟨.BL_CTRL, 2, 2⟩
abbrev Fld.BL_CTRL.RATE : Fld := ⟨.BL_CTRL, 0, 0⟩
abbrev Fld.BL_LINK.REPLAY_TO : Fld := ⟨.BL_LINK, 31, 24⟩
abbrev Fld.BL_LINK.REPLAY_MAX : Fld := ⟨.BL_LINK, 23, 20⟩
abbrev Fld.BL_LINK.WIN : Fld := ⟨.BL_LINK, 12, 0⟩
abbrev Fld.BL_SLEEP.EN : Fld := ⟨.BL_SLEEP, 31, 31⟩
abbrev Fld.BL_SLEEP.IDLE : Fld := ⟨.BL_SLEEP, 15, 0⟩
abbrev Fld.BL_STAT.STATE : Fld := ⟨.BL_STAT, 31, 28⟩
abbrev Fld.BL_STAT.FB : Fld := ⟨.BL_STAT, 27, 27⟩
abbrev Fld.BL_STAT.S96 : Fld := ⟨.BL_STAT, 26, 26⟩
abbrev Fld.BL_STAT.DRIVE : Fld := ⟨.BL_STAT, 25, 25⟩
abbrev Fld.BL_STAT.MERGED : Fld := ⟨.BL_STAT, 24, 24⟩
abbrev Fld.BL_STAT.TXSLEEP : Fld := ⟨.BL_STAT, 23, 23⟩
abbrev Fld.BL_STAT.RXSLEEP : Fld := ⟨.BL_STAT, 22, 22⟩
abbrev Fld.BL_STAT.REASON : Fld := ⟨.BL_STAT, 15, 12⟩
abbrev Fld.BL_STAT.FAIL : Fld := ⟨.BL_STAT, 11, 11⟩
abbrev Fld.BL_PARTNER.VALID : Fld := ⟨.BL_PARTNER, 31, 31⟩
abbrev Fld.BL_PARTNER.JOINED : Fld := ⟨.BL_PARTNER, 30, 30⟩
abbrev Fld.BL_PARTNER.FSID : Fld := ⟨.BL_PARTNER, 26, 16⟩
abbrev Fld.BL_PARTNER.PORT : Fld := ⟨.BL_PARTNER, 13, 8⟩
abbrev Fld.BL_SEQ.TXO : Fld := ⟨.BL_SEQ, 29, 16⟩
abbrev Fld.BL_SEQ.RXNE : Fld := ⟨.BL_SEQ, 13, 0⟩
abbrev Fld.BL_BU_LOG.PASS : Fld := ⟨.BL_BU_LOG, 31, 31⟩
abbrev Fld.BL_BU_LOG.LANE : Fld := ⟨.BL_BU_LOG, 30, 27⟩
abbrev Fld.BL_BU_LOG.ERR : Fld := ⟨.BL_BU_LOG, 15, 0⟩
abbrev Fld.BL_REPLAY_CNT.OVF : Fld := ⟨.BL_REPLAY_CNT, 63, 63⟩
abbrev Fld.BL_REPLAY_CNT.COUNT : Fld := ⟨.BL_REPLAY_CNT, 47, 0⟩
abbrev Fld.BL_BAD_CNT.OVF : Fld := ⟨.BL_BAD_CNT, 63, 63⟩
abbrev Fld.BL_BAD_CNT.COUNT : Fld := ⟨.BL_BAD_CNT, 47, 0⟩
abbrev Fld.BL_GAP_CNT.OVF : Fld := ⟨.BL_GAP_CNT, 63, 63⟩
abbrev Fld.BL_GAP_CNT.COUNT : Fld := ⟨.BL_GAP_CNT, 47, 0⟩
abbrev Fld.BL_DUP_CNT.OVF : Fld := ⟨.BL_DUP_CNT, 63, 63⟩
abbrev Fld.BL_DUP_CNT.COUNT : Fld := ⟨.BL_DUP_CNT, 47, 0⟩
abbrev Fld.BL_RESET_CNT.OVF : Fld := ⟨.BL_RESET_CNT, 63, 63⟩
abbrev Fld.BL_RESET_CNT.COUNT : Fld := ⟨.BL_RESET_CNT, 47, 0⟩
abbrev Fld.BL_PROTO_CNT.OVF : Fld := ⟨.BL_PROTO_CNT, 63, 63⟩
abbrev Fld.BL_PROTO_CNT.COUNT : Fld := ⟨.BL_PROTO_CNT, 47, 0⟩
abbrev Fld.RT_ID.JOINED : Fld := ⟨.RT_ID, 31, 31⟩
abbrev Fld.RT_ID.FSID : Fld := ⟨.RT_ID, 10, 0⟩
abbrev Fld.RT_STAT.DUPFSID : Fld := ⟨.RT_STAT, 31, 31⟩
abbrev Fld.RT_STAT.CLASSMIS : Fld := ⟨.RT_STAT, 30, 30⟩
abbrev Fld.RT_STAT.LEAK : Fld := ⟨.RT_STAT, 29, 29⟩
abbrev Fld.RT_STAT.OVERRUN : Fld := ⟨.RT_STAT, 28, 28⟩
abbrev Fld.RT_STAT.HOLDTO : Fld := ⟨.RT_STAT, 27, 27⟩
abbrev Fld.RT_STAT.CM_PORT : Fld := ⟨.RT_STAT, 5, 0⟩
abbrev Fld.RT_STAGE_CHK.START : Fld := ⟨.RT_STAGE_CHK, 31, 31⟩
abbrev Fld.RT_STAGE_STAT.BUSY : Fld := ⟨.RT_STAGE_STAT, 31, 31⟩
abbrev Fld.RT_STAGE_STAT.DONE : Fld := ⟨.RT_STAGE_STAT, 30, 30⟩
abbrev Fld.RT_STAGE_STAT.STALE : Fld := ⟨.RT_STAGE_STAT, 29, 29⟩
abbrev Fld.RT_STAGE_STAT.CODE : Fld := ⟨.RT_STAGE_STAT, 26, 19⟩
abbrev Fld.RT_STAGE_STAT.INDEX : Fld := ⟨.RT_STAGE_STAT, 18, 0⟩
abbrev Fld.RT_HAND_CFG.RET_WAIT : Fld := ⟨.RT_HAND_CFG, 14, 8⟩
abbrev Fld.RT_HAND_CFG.RET_BATCH : Fld := ⟨.RT_HAND_CFG, 6, 0⟩
abbrev Fld.RT_LEAK_CNT.OVF : Fld := ⟨.RT_LEAK_CNT, 63, 63⟩
abbrev Fld.RT_LEAK_CNT.COUNT : Fld := ⟨.RT_LEAK_CNT, 47, 0⟩
abbrev Fld.RT_UNTOK_CNT.OVF : Fld := ⟨.RT_UNTOK_CNT, 63, 63⟩
abbrev Fld.RT_UNTOK_CNT.COUNT : Fld := ⟨.RT_UNTOK_CNT, 47, 0⟩
abbrev Fld.RT_OVERRUN_CNT.OVF : Fld := ⟨.RT_OVERRUN_CNT, 63, 63⟩
abbrev Fld.RT_OVERRUN_CNT.COUNT : Fld := ⟨.RT_OVERRUN_CNT, 47, 0⟩
abbrev Fld.RT_DIR_DROP.OVF : Fld := ⟨.RT_DIR_DROP, 63, 63⟩
abbrev Fld.RT_DIR_DROP.COUNT : Fld := ⟨.RT_DIR_DROP, 47, 0⟩
abbrev Fld.RT_SHELF_USE.PEAK : Fld := ⟨.RT_SHELF_USE, 31, 16⟩
abbrev Fld.RT_SHELF_USE.RESV : Fld := ⟨.RT_SHELF_USE, 13, 0⟩
abbrev Fld.RT_NBR_SERIAL.SERIAL : Fld := ⟨.RT_NBR_SERIAL, 63, 0⟩
abbrev Fld.RT_NBR_LINK.STATE : Fld := ⟨.RT_NBR_LINK, 31, 28⟩
abbrev Fld.RT_NBR_LINK.RATE : Fld := ⟨.RT_NBR_LINK, 23, 16⟩
abbrev Fld.RT_NBR_LINK.WIDTH : Fld := ⟨.RT_NBR_LINK, 15, 8⟩
abbrev Fld.RT_NBR_LINK.MODE : Fld := ⟨.RT_NBR_LINK, 7, 0⟩
abbrev Fld.RT_NBR_ADDR.FSID : Fld := ⟨.RT_NBR_ADDR, 31, 16⟩
abbrev Fld.RT_NBR_ADDR.PORT : Fld := ⟨.RT_NBR_ADDR, 13, 8⟩
abbrev Fld.RT_NBR_DEV.DEVICE : Fld := ⟨.RT_NBR_DEV, 15, 0⟩
abbrev Fld.RT_HAND_HOLD.DOUBT : Fld := ⟨.RT_HAND_HOLD, 23, 16⟩
abbrev Fld.RT_HAND_HOLD.OUT_P1 : Fld := ⟨.RT_HAND_HOLD, 15, 8⟩
abbrev Fld.RT_HAND_HOLD.OUT_P0 : Fld := ⟨.RT_HAND_HOLD, 7, 0⟩
abbrev Fld.DL_CFG.E2E_TO : Fld := ⟨.DL_CFG, 31, 24⟩
abbrev Fld.DL_CFG.E2E_MAX : Fld := ⟨.DL_CFG, 23, 20⟩
abbrev Fld.DL_CFG.LIFE : Fld := ⟨.DL_CFG, 19, 12⟩
abbrev Fld.DL_CFG.ACK_BATCH : Fld := ⟨.DL_CFG, 11, 6⟩
abbrev Fld.DL_CFG.ACK_WAIT : Fld := ⟨.DL_CFG, 5, 0⟩
abbrev Fld.DL_FENCE_CFG.FENCE_TO : Fld := ⟨.DL_FENCE_CFG, 31, 24⟩
abbrev Fld.DL_FENCE_CFG.FENCE_MAX : Fld := ⟨.DL_FENCE_CFG, 23, 20⟩
abbrev Fld.DL_FENCE_CFG.POLL : Fld := ⟨.DL_FENCE_CFG, 19, 12⟩
abbrev Fld.DL_MARK_CFG.EXP : Fld := ⟨.DL_MARK_CFG, 4, 0⟩
abbrev Fld.DL_DEAL_STAT.STATE : Fld := ⟨.DL_DEAL_STAT, 31, 30⟩
abbrev Fld.DL_DEAL_STAT.LATE : Fld := ⟨.DL_DEAL_STAT, 29, 29⟩
abbrev Fld.DL_DEAL_STAT.AP : Fld := ⟨.DL_DEAL_STAT, 28, 28⟩
abbrev Fld.DL_DEAL_STAT.CODE : Fld := ⟨.DL_DEAL_STAT, 19, 16⟩
abbrev Fld.DL_DEAL_STAT.TERM : Fld := ⟨.DL_DEAL_STAT, 15, 0⟩
abbrev Fld.DL_DEAL_EPOCH.EPOCH : Fld := ⟨.DL_DEAL_EPOCH, 31, 0⟩
abbrev Fld.DL_DEAL_T.T : Fld := ⟨.DL_DEAL_T, 63, 0⟩
abbrev Fld.DL_DRAIN_STAT.DONE : Fld := ⟨.DL_DRAIN_STAT, 31, 31⟩
abbrev Fld.DL_DRAIN_STAT.DISTURBED : Fld := ⟨.DL_DRAIN_STAT, 30, 30⟩
abbrev Fld.DL_DRAIN_STAT.TIMEOUT : Fld := ⟨.DL_DRAIN_STAT, 29, 29⟩
abbrev Fld.DL_DRAIN_STAT.HATCH : Fld := ⟨.DL_DRAIN_STAT, 28, 28⟩
abbrev Fld.DL_DRAIN_STAT.ARB : Fld := ⟨.DL_DRAIN_STAT, 27, 22⟩
abbrev Fld.DL_DRAIN_STAT.ROUND : Fld := ⟨.DL_DRAIN_STAT, 15, 0⟩
abbrev Fld.DL_CUT_STAT.DONE : Fld := ⟨.DL_CUT_STAT, 31, 31⟩
abbrev Fld.DL_CUT_STAT.TIMEOUT : Fld := ⟨.DL_CUT_STAT, 29, 29⟩
abbrev Fld.DL_CUT_STAT.HATCH : Fld := ⟨.DL_CUT_STAT, 28, 28⟩
abbrev Fld.DL_CUT_STAT.ARB : Fld := ⟨.DL_CUT_STAT, 27, 22⟩
abbrev Fld.DL_CUT_STAT.CUT_ID : Fld := ⟨.DL_CUT_STAT, 15, 0⟩
abbrev Fld.DL_MISS.PORTS : Fld := ⟨.DL_MISS, 63, 0⟩
abbrev Fld.DL_TREE.ROOT : Fld := ⟨.DL_TREE, 31, 31⟩
abbrev Fld.DL_TREE.PARENT : Fld := ⟨.DL_TREE, 10, 0⟩
abbrev Fld.DL_TREE_CHILD.VALID : Fld := ⟨.DL_TREE_CHILD, 15, 15⟩
abbrev Fld.DL_TREE_CHILD.FSID : Fld := ⟨.DL_TREE_CHILD, 10, 0⟩
abbrev Fld.DL_TREE_STAT.MISS : Fld := ⟨.DL_TREE_STAT, 15, 0⟩
abbrev Fld.DL_TREE_DROP_CNT.OVF : Fld := ⟨.DL_TREE_DROP_CNT, 63, 63⟩
abbrev Fld.DL_TREE_DROP_CNT.COUNT : Fld := ⟨.DL_TREE_DROP_CNT, 47, 0⟩
abbrev Fld.DL_DUP_CNT.OVF : Fld := ⟨.DL_DUP_CNT, 63, 63⟩
abbrev Fld.DL_DUP_CNT.COUNT : Fld := ⟨.DL_DUP_CNT, 47, 0⟩
abbrev Fld.DL_WIN_CNT.OVF : Fld := ⟨.DL_WIN_CNT, 63, 63⟩
abbrev Fld.DL_WIN_CNT.COUNT : Fld := ⟨.DL_WIN_CNT, 47, 0⟩
abbrev Fld.DL_RESEND_CNT.OVF : Fld := ⟨.DL_RESEND_CNT, 63, 63⟩
abbrev Fld.DL_RESEND_CNT.COUNT : Fld := ⟨.DL_RESEND_CNT, 47, 0⟩
abbrev Fld.DL_GIVEUP_CNT.OVF : Fld := ⟨.DL_GIVEUP_CNT, 63, 63⟩
abbrev Fld.DL_GIVEUP_CNT.COUNT : Fld := ⟨.DL_GIVEUP_CNT, 47, 0⟩
abbrev Fld.DL_LIFE_CNT.OVF : Fld := ⟨.DL_LIFE_CNT, 63, 63⟩
abbrev Fld.DL_LIFE_CNT.COUNT : Fld := ⟨.DL_LIFE_CNT, 47, 0⟩
abbrev Fld.DL_FENCE_CNT.OVF : Fld := ⟨.DL_FENCE_CNT, 63, 63⟩
abbrev Fld.DL_FENCE_CNT.COUNT : Fld := ⟨.DL_FENCE_CNT, 47, 0⟩
abbrev Fld.DL_LATE_CNT.OVF : Fld := ⟨.DL_LATE_CNT, 63, 63⟩
abbrev Fld.DL_LATE_CNT.COUNT : Fld := ⟨.DL_LATE_CNT, 47, 0⟩
abbrev Fld.DL_DISTURB_CNT.OVF : Fld := ⟨.DL_DISTURB_CNT, 63, 63⟩
abbrev Fld.DL_DISTURB_CNT.COUNT : Fld := ⟨.DL_DISTURB_CNT, 47, 0⟩
abbrev Fld.DL_STALE_EP_CNT.OVF : Fld := ⟨.DL_STALE_EP_CNT, 63, 63⟩
abbrev Fld.DL_STALE_EP_CNT.COUNT : Fld := ⟨.DL_STALE_EP_CNT, 47, 0⟩
abbrev Fld.DL_ACK_IN.VALID : Fld := ⟨.DL_ACK_IN, 31, 31⟩
abbrev Fld.DL_ACK_IN.ND : Fld := ⟨.DL_ACK_IN, 23, 0⟩
abbrev Fld.DL_FENCE_IN.ORDERED : Fld := ⟨.DL_FENCE_IN, 31, 31⟩
abbrev Fld.DL_FENCE_IN.VALUE : Fld := ⟨.DL_FENCE_IN, 23, 0⟩
abbrev Fld.CL_COLL_CFG.WIN : Fld := ⟨.CL_COLL_CFG, 31, 24⟩
abbrev Fld.CL_COLL_CFG.CLASS : Fld := ⟨.CL_COLL_CFG, 10, 8⟩
abbrev Fld.CL_COLL_CFG.TO_EXP : Fld := ⟨.CL_COLL_CFG, 4, 0⟩
abbrev Fld.CL_COLL_DONE_CNT.OVF : Fld := ⟨.CL_COLL_DONE_CNT, 63, 63⟩
abbrev Fld.CL_COLL_DONE_CNT.COUNT : Fld := ⟨.CL_COLL_DONE_CNT, 47, 0⟩
abbrev Fld.CL_COLL_ABORT_CNT.OVF : Fld := ⟨.CL_COLL_ABORT_CNT, 63, 63⟩
abbrev Fld.CL_COLL_ABORT_CNT.COUNT : Fld := ⟨.CL_COLL_ABORT_CNT, 47, 0⟩
abbrev Fld.CL_COLL_STALE_CNT.OVF : Fld := ⟨.CL_COLL_STALE_CNT, 63, 63⟩
abbrev Fld.CL_COLL_STALE_CNT.COUNT : Fld := ⟨.CL_COLL_STALE_CNT, 47, 0⟩
abbrev Fld.CL_GRP_CTL.EN : Fld := ⟨.CL_GRP_CTL, 31, 31⟩
abbrev Fld.CL_GRP_CTL.FANM1 : Fld := ⟨.CL_GRP_CTL, 27, 24⟩
abbrev Fld.CL_GRP_CTL.LOCM1 : Fld := ⟨.CL_GRP_CTL, 23, 20⟩
abbrev Fld.CL_GRP_CTL.GEN : Fld := ⟨.CL_GRP_CTL, 15, 0⟩
abbrev Fld.CL_GRP_N.N : Fld := ⟨.CL_GRP_N, 27, 16⟩
abbrev Fld.CL_GRP_N.RANK : Fld := ⟨.CL_GRP_N, 10, 0⟩
abbrev Fld.CL_GRP_PARENT.PV : Fld := ⟨.CL_GRP_PARENT, 31, 31⟩
abbrev Fld.CL_GRP_PARENT.PARENT : Fld := ⟨.CL_GRP_PARENT, 10, 0⟩
abbrev Fld.CL_GRP_CHILD.VALID : Fld := ⟨.CL_GRP_CHILD, 15, 15⟩
abbrev Fld.CL_GRP_CHILD.FSID : Fld := ⟨.CL_GRP_CHILD, 10, 0⟩
abbrev Fld.CL_GRP_VSMASK.VSMASK : Fld := ⟨.CL_GRP_VSMASK, 47, 0⟩
abbrev Fld.CL_GRP_STAT.BUSY : Fld := ⟨.CL_GRP_STAT, 31, 31⟩
abbrev Fld.CL_GRP_STAT.LAST : Fld := ⟨.CL_GRP_STAT, 23, 16⟩
abbrev Fld.CL_GRP_STAT.ISEQ : Fld := ⟨.CL_GRP_STAT, 15, 0⟩
abbrev Fld.CL_STAT.FW : Fld := ⟨.CL_STAT, 31, 31⟩
abbrev Fld.CL_STAT.BUSY : Fld := ⟨.CL_STAT, 20, 16⟩
abbrev Fld.CL_STAT.CODE_KIB : Fld := ⟨.CL_STAT, 15, 4⟩
abbrev Fld.CL_STAT.RESIDENT : Fld := ⟨.CL_STAT, 3, 0⟩
abbrev Fld.CL_ACC_CNT.OVF : Fld := ⟨.CL_ACC_CNT, 63, 63⟩
abbrev Fld.CL_ACC_CNT.COUNT : Fld := ⟨.CL_ACC_CNT, 47, 0⟩
abbrev Fld.CL_HEADROOM_CNT.OVF : Fld := ⟨.CL_HEADROOM_CNT, 63, 63⟩
abbrev Fld.CL_HEADROOM_CNT.COUNT : Fld := ⟨.CL_HEADROOM_CNT, 47, 0⟩
abbrev Fld.CL_SCHED.LIMIT_EXP : Fld := ⟨.CL_SCHED, 12, 8⟩
abbrev Fld.CL_SCHED.QEXP : Fld := ⟨.CL_SCHED, 3, 0⟩
abbrev Fld.CL_SHARE.VALID : Fld := ⟨.CL_SHARE, 63, 63⟩
abbrev Fld.CL_SHARE.RO : Fld := ⟨.CL_SHARE, 62, 62⟩
abbrev Fld.CL_SHARE.USER_VS : Fld := ⟨.CL_SHARE, 61, 56⟩
abbrev Fld.CL_SHARE.WIN_VS : Fld := ⟨.CL_SHARE, 55, 50⟩
abbrev Fld.CL_SHARE.WIN : Fld := ⟨.CL_SHARE, 49, 36⟩
abbrev Fld.EN_STAT.STATE : Fld := ⟨.EN_STAT, 31, 29⟩
abbrev Fld.EN_STAT.FW : Fld := ⟨.EN_STAT, 28, 28⟩
abbrev Fld.EN_STAT.VS : Fld := ⟨.EN_STAT, 27, 22⟩
abbrev Fld.EN_STAT.FN : Fld := ⟨.EN_STAT, 21, 11⟩
abbrev Fld.EN_PC.SLOT : Fld := ⟨.EN_PC, 31, 24⟩
abbrev Fld.EN_PC.PC : Fld := ⟨.EN_PC, 15, 0⟩
abbrev Fld.EN_FAULT.VALID : Fld := ⟨.EN_FAULT, 31, 31⟩
abbrev Fld.EN_FAULT.CODE : Fld := ⟨.EN_FAULT, 23, 16⟩
abbrev Fld.EN_FAULT.PC : Fld := ⟨.EN_FAULT, 15, 0⟩
abbrev Fld.EN_FAULT_ADDR.ADDR : Fld := ⟨.EN_FAULT_ADDR, 63, 0⟩
abbrev Fld.EN_SMP_CFG.SMP_EN : Fld := ⟨.EN_SMP_CFG, 31, 31⟩
abbrev Fld.EN_SMP_CFG.PERIOD_EXP : Fld := ⟨.EN_SMP_CFG, 13, 8⟩
abbrev Fld.EN_SMP_CFG.EVENT : Fld := ⟨.EN_SMP_CFG, 2, 0⟩
abbrev Fld.EN_SMP_PC.VALID : Fld := ⟨.EN_SMP_PC, 31, 31⟩
abbrev Fld.EN_SMP_PC.MORE : Fld := ⟨.EN_SMP_PC, 30, 30⟩
abbrev Fld.EN_SMP_PC.SLOT : Fld := ⟨.EN_SMP_PC, 23, 16⟩
abbrev Fld.EN_SMP_PC.PC : Fld := ⟨.EN_SMP_PC, 15, 0⟩
abbrev Fld.EN_OP_CNT.OVF : Fld := ⟨.EN_OP_CNT, 63, 63⟩
abbrev Fld.EN_OP_CNT.COUNT : Fld := ⟨.EN_OP_CNT, 47, 0⟩
abbrev Fld.EN_CYC_CNT.OVF : Fld := ⟨.EN_CYC_CNT, 63, 63⟩
abbrev Fld.EN_CYC_CNT.COUNT : Fld := ⟨.EN_CYC_CNT, 47, 0⟩
abbrev Fld.TM_TIME.TIME : Fld := ⟨.TM_TIME, 63, 0⟩
abbrev Fld.TM_STAT.STATE : Fld := ⟨.TM_STAT, 31, 29⟩
abbrev Fld.TM_STAT.TREE : Fld := ⟨.TM_STAT, 28, 28⟩
abbrev Fld.TM_STAT.DIST : Fld := ⟨.TM_STAT, 27, 24⟩
abbrev Fld.TM_STAT.TPORT : Fld := ⟨.TM_STAT, 21, 16⟩
abbrev Fld.TM_STAT.STEPS : Fld := ⟨.TM_STAT, 15, 0⟩
abbrev Fld.TM_CFG.LOSS : Fld := ⟨.TM_CFG, 7, 4⟩
abbrev Fld.TM_CFG.SYNC_EXP : Fld := ⟨.TM_CFG, 2, 0⟩
abbrev Fld.TM_OFFSET.OFFSET : Fld := ⟨.TM_OFFSET, 31, 0⟩
abbrev Fld.TM_DELAY.DELAY : Fld := ⟨.TM_DELAY, 31, 0⟩
abbrev Fld.TM_BW_CFG.WIN : Fld := ⟨.TM_BW_CFG, 23, 0⟩
abbrev Fld.TM_BW_STAT.STEPPED : Fld := ⟨.TM_BW_STAT, 31, 31⟩
abbrev Fld.TM_BW_END.TIME : Fld := ⟨.TM_BW_END, 63, 0⟩
abbrev Fld.TM_REJ_WR_CNT.OVF : Fld := ⟨.TM_REJ_WR_CNT, 63, 63⟩
abbrev Fld.TM_REJ_WR_CNT.COUNT : Fld := ⟨.TM_REJ_WR_CNT, 47, 0⟩
abbrev Fld.TM_CORE_CE_CNT.OVF : Fld := ⟨.TM_CORE_CE_CNT, 63, 63⟩
abbrev Fld.TM_CORE_CE_CNT.COUNT : Fld := ⟨.TM_CORE_CE_CNT, 47, 0⟩
abbrev Fld.TM_WEAR.E : Fld := ⟨.TM_WEAR, 63, 0⟩
abbrev Fld.TM_WEAR_RATE.RATE : Fld := ⟨.TM_WEAR_RATE, 31, 0⟩
abbrev Fld.TM_EVT_PEND.PEND : Fld := ⟨.TM_EVT_PEND, 31, 0⟩
abbrev Fld.TM_MEM_VIOL.VALID : Fld := ⟨.TM_MEM_VIOL, 63, 63⟩
abbrev Fld.TM_MEM_VIOL.MORE : Fld := ⟨.TM_MEM_VIOL, 62, 62⟩
abbrev Fld.TM_MEM_VIOL.PLANE : Fld := ⟨.TM_MEM_VIOL, 61, 60⟩
abbrev Fld.TM_MEM_VIOL.WRITE : Fld := ⟨.TM_MEM_VIOL, 59, 59⟩
abbrev Fld.TM_MEM_VIOL.REGION : Fld := ⟨.TM_MEM_VIOL, 58, 56⟩
abbrev Fld.TM_MEM_VIOL.ADDR : Fld := ⟨.TM_MEM_VIOL, 33, 0⟩
abbrev Fld.TM_PTM_OFF.VALID : Fld := ⟨.TM_PTM_OFF, 63, 63⟩
abbrev Fld.TM_PTM_OFF.OFF : Fld := ⟨.TM_PTM_OFF, 62, 0⟩
abbrev Fld.TM_BW_RX.BYTES : Fld := ⟨.TM_BW_RX, 47, 0⟩
abbrev Fld.TM_BW_TX.BYTES : Fld := ⟨.TM_BW_TX, 47, 0⟩
abbrev Fld.TM_PORT_RXB.OVF : Fld := ⟨.TM_PORT_RXB, 63, 63⟩
abbrev Fld.TM_PORT_RXB.COUNT : Fld := ⟨.TM_PORT_RXB, 47, 0⟩
abbrev Fld.TM_PORT_TXB.OVF : Fld := ⟨.TM_PORT_TXB, 63, 63⟩
abbrev Fld.TM_PORT_TXB.COUNT : Fld := ⟨.TM_PORT_TXB, 47, 0⟩
abbrev Fld.SF_DV_ID.JOINED : Fld := ⟨.SF_DV_ID, 31, 31⟩
abbrev Fld.SF_DV_ID.FSID : Fld := ⟨.SF_DV_ID, 26, 16⟩
abbrev Fld.SF_DV_ID.HOST_PORT : Fld := ⟨.SF_DV_ID, 13, 8⟩
abbrev Fld.SF_DV_ID.VS : Fld := ⟨.SF_DV_ID, 5, 0⟩
abbrev Fld.SF_DV_FW.VERSION : Fld := ⟨.SF_DV_FW, 31, 0⟩
abbrev Fld.SF_DV_EPOCH.EPOCH : Fld := ⟨.SF_DV_EPOCH, 31, 0⟩
abbrev Fld.SF_ID.VF : Fld := ⟨.SF_ID, 31, 31⟩
abbrev Fld.SF_ID.FN : Fld := ⟨.SF_ID, 30, 20⟩
abbrev Fld.SF_ID.VS : Fld := ⟨.SF_ID, 19, 14⟩
abbrev Fld.SF_ID.FLOW : Fld := ⟨.SF_ID, 13, 0⟩
abbrev Fld.SF_RES.ENG : Fld := ⟨.SF_RES, 30, 23⟩
abbrev Fld.SF_RES.QUEUES : Fld := ⟨.SF_RES, 22, 12⟩
abbrev Fld.SF_RES.VECTORS : Fld := ⟨.SF_RES, 11, 0⟩
abbrev Fld.SF_EVT.VFBUS : Fld := ⟨.SF_EVT, 6, 6⟩
abbrev Fld.SF_EVT.QERR : Fld := ⟨.SF_EVT, 5, 5⟩
abbrev Fld.SF_EVT.LATE : Fld := ⟨.SF_EVT, 4, 4⟩
abbrev Fld.SF_EVT.RES : Fld := ⟨.SF_EVT, 3, 3⟩
abbrev Fld.SF_EVT.LG : Fld := ⟨.SF_EVT, 2, 2⟩
abbrev Fld.SF_EVT.PERR : Fld := ⟨.SF_EVT, 1, 1⟩
abbrev Fld.SF_EVT.MB : Fld := ⟨.SF_EVT, 0, 0⟩
abbrev Fld.SF_EVT_MASK.MASK : Fld := ⟨.SF_EVT_MASK, 6, 0⟩
abbrev Fld.SF_LATE_LOG.VALID : Fld := ⟨.SF_LATE_LOG, 63, 63⟩
abbrev Fld.SF_LATE_LOG.MORE : Fld := ⟨.SF_LATE_LOG, 62, 62⟩
abbrev Fld.SF_LATE_LOG.COMPLETER : Fld := ⟨.SF_LATE_LOG, 47, 32⟩
abbrev Fld.SF_LATE_LOG.STATUS : Fld := ⟨.SF_LATE_LOG, 31, 29⟩
abbrev Fld.SF_LATE_LOG.TAG : Fld := ⟨.SF_LATE_LOG, 13, 0⟩
abbrev Fld.SF_LATE_CNT.OVF : Fld := ⟨.SF_LATE_CNT, 63, 63⟩
abbrev Fld.SF_LATE_CNT.COUNT : Fld := ⟨.SF_LATE_CNT, 47, 0⟩
abbrev Fld.SF_Q_BASE.ADDR : Fld := ⟨.SF_Q_BASE, 63, 12⟩
abbrev Fld.SF_Q_CFG.EN : Fld := ⟨.SF_Q_CFG, 31, 31⟩
abbrev Fld.SF_Q_CFG.SIZE_EXP : Fld := ⟨.SF_Q_CFG, 28, 24⟩
abbrev Fld.SF_Q_CFG.VEC : Fld := ⟨.SF_Q_CFG, 10, 0⟩
abbrev Fld.SF_Q_STAT.IDLE : Fld := ⟨.SF_Q_STAT, 31, 31⟩
abbrev Fld.SF_Q_STAT.ERR : Fld := ⟨.SF_Q_STAT, 30, 30⟩
abbrev Fld.SF_Q_STAT.REVOKE_REQ : Fld := ⟨.SF_Q_STAT, 29, 29⟩
abbrev Fld.SF_Q_STAT.CODE : Fld := ⟨.SF_Q_STAT, 28, 26⟩
abbrev Fld.SF_Q_STAT.HEAD : Fld := ⟨.SF_Q_STAT, 15, 0⟩
abbrev Fld.SF_Q_CQ_BASE.ADDR : Fld := ⟨.SF_Q_CQ_BASE, 63, 12⟩
abbrev Fld.SF_Q_CQ_HEAD.HEAD : Fld := ⟨.SF_Q_CQ_HEAD, 15, 0⟩
abbrev Fld.SF_Q_CQ_STAT.PHASE : Fld := ⟨.SF_Q_CQ_STAT, 31, 31⟩
abbrev Fld.SF_Q_CQ_STAT.TAIL : Fld := ⟨.SF_Q_CQ_STAT, 15, 0⟩
abbrev Fld.SF_DB.TAIL : Fld := ⟨.SF_DB, 15, 0⟩
abbrev Fld.SF_PERR_LOG_ADDR.ADDR : Fld := ⟨.SF_PERR_LOG_ADDR, 63, 0⟩
abbrev Fld.SF_PERR_LOG_INFO.VALID : Fld := ⟨.SF_PERR_LOG_INFO, 63, 63⟩
abbrev Fld.SF_PERR_LOG_INFO.DGPA : Fld := ⟨.SF_PERR_LOG_INFO, 56, 40⟩
abbrev Fld.SF_PERR_LOG_INFO.REASON : Fld := ⟨.SF_PERR_LOG_INFO, 39, 32⟩
abbrev Fld.SF_PERR_LOG_INFO.REQID : Fld := ⟨.SF_PERR_LOG_INFO, 15, 0⟩
abbrev Fld.SF_PERR_STAT.OVF_CNT : Fld := ⟨.SF_PERR_STAT, 15, 0⟩
abbrev Fld.SF_CNT_VIS.VIS : Fld := ⟨.SF_CNT_VIS, 31, 0⟩
abbrev Fld.SF_LG_CTRL.EN : Fld := ⟨.SF_LG_CTRL, 31, 31⟩
abbrev Fld.SF_LG_CTRL.SWAP : Fld := ⟨.SF_LG_CTRL, 30, 30⟩
abbrev Fld.SF_LG_CTRL.GRAN : Fld := ⟨.SF_LG_CTRL, 29, 29⟩
abbrev Fld.SF_LG_CTRL.LOC : Fld := ⟨.SF_LG_CTRL, 28, 28⟩
abbrev Fld.SF_LG_CTRL.FN : Fld := ⟨.SF_LG_CTRL, 10, 0⟩
abbrev Fld.SF_LG_STAT.ACTIVE : Fld := ⟨.SF_LG_STAT, 31, 31⟩
abbrev Fld.SF_LG_STAT.BUSY : Fld := ⟨.SF_LG_STAT, 30, 30⟩
abbrev Fld.SF_LG_STAT.DONE : Fld := ⟨.SF_LG_STAT, 29, 29⟩
abbrev Fld.SF_LG_STAT.ERR : Fld := ⟨.SF_LG_STAT, 28, 28⟩
abbrev Fld.SF_LG_STAT.SEQ : Fld := ⟨.SF_LG_STAT, 15, 0⟩
abbrev Fld.SF_LG_RBASE.ADDR : Fld := ⟨.SF_LG_RBASE, 63, 12⟩
abbrev Fld.SF_LG_RPAGES.PAGES : Fld := ⟨.SF_LG_RPAGES, 27, 0⟩
abbrev Fld.SF_LG_BMP_A.ADDR : Fld := ⟨.SF_LG_BMP_A, 63, 12⟩
abbrev Fld.SF_LG_BMP_B.ADDR : Fld := ⟨.SF_LG_BMP_B, 63, 12⟩
abbrev Fld.SF_LG_VDSP.MASK : Fld := ⟨.SF_LG_VDSP, 31, 0⟩
abbrev Fld.SF_MB_CTRL.GO : Fld := ⟨.SF_MB_CTRL, 31, 31⟩
abbrev Fld.SF_MB_CTRL.LEN : Fld := ⟨.SF_MB_CTRL, 10, 0⟩
abbrev Fld.SF_MB_STAT.BUSY : Fld := ⟨.SF_MB_STAT, 31, 31⟩
abbrev Fld.SF_MB_STAT.DONE : Fld := ⟨.SF_MB_STAT, 30, 30⟩
abbrev Fld.SF_MB_STAT.ABORT : Fld := ⟨.SF_MB_STAT, 29, 29⟩
abbrev Fld.SF_MB_STAT.RLEN : Fld := ⟨.SF_MB_STAT, 10, 0⟩
abbrev Fld.SF_CNT_WIN.OVF : Fld := ⟨.SF_CNT_WIN, 63, 63⟩
abbrev Fld.SF_CNT_WIN.COUNT : Fld := ⟨.SF_CNT_WIN, 47, 0⟩

end Sys2Proof.Machine
end

