-- ==== Sys2Proof/Machine/Tbl.lean ====
section
/-! DEFINITION. Sparse tables: lists of key and value pairs in one canonical form (keys strictly rising, no entry equal to
the value an unlisted key reads as), so that equal tables are equal data. -/
namespace Sys2Proof.Machine

/-- The entry of a key, if the table lists one. -/
def tfind {β : Type} : Tbl β → Nat → Option β
  | [], _ => none
  | (k, v) :: t, a => if a = k then some v else tfind t a

/-- What a key reads as: its entry, or the value of every unlisted key. -/
def tget {β : Type} (d : β) (t : Tbl β) (a : Nat) : β := (tfind t a).getD d

/-- The table without a key's entry. -/
def tdel {β : Type} : Tbl β → Nat → Tbl β
  | [], _ => []
  | (k, v) :: t, a => if a = k then t else (k, v) :: tdel t a

/-- The table with an entry listed at its place in the order. -/
def tins {β : Type} : Tbl β → Nat → β → Tbl β
  | [], a, x => [(a, x)]
  | (k, v) :: t, a, x =>
    if a < k then (a, x) :: (k, v) :: t
    else if a = k then (a, x) :: t
    else (k, v) :: tins t a x

/-- A write of a key: the value an unlisted key reads as takes the entry away. -/
def tput {β : Type} [DecidableEq β] (d : β) (t : Tbl β) (a : Nat) (x : β) : Tbl β :=
  if x = d then tdel t a else tins t a x

/-- A change of the value of one key. -/
def tmod {β : Type} [DecidableEq β] (d : β) (t : Tbl β) (a : Nat) (f : β → β) : Tbl β :=
  tput d t a (f (tget d t a))

/-- Every key lies above a bound and the keys rise strictly. -/
def tabove {β : Type} : Nat → Tbl β → Bool
  | _, [] => true
  | b, (k, _) :: t => decide (b ≤ k) && tabove (k + 1) t

/-- The canonical form of a table whose unlisted keys read as `d`. -/
def twf {β : Type} [DecidableEq β] (d : β) (t : Tbl β) : Bool :=
  tabove 0 t && t.all (fun e => decide (e.2 ≠ d))

/-- The keys a table lists. -/
def tkeys {β : Type} (t : Tbl β) : List Nat := t.map (·.1)

end Sys2Proof.Machine
end

