-- ==== Sys2Proof/Machine/State.lean ====
section
/-! DEFINITION. The state of the switch as plain data: the register file, memories, packets and the state of every family
of commands, the queue of waiting commands, the outbox of everything that leaves the module, and the state after reset. -/
namespace Sys2Proof.Machine

/-- A stop with a fault: an access outside the module's memory (safe: a stop proves nothing false). -/
inductive Fault where
  /-- Raised by LPDDR4X_ACCESS at an address past the usable 14 GiB (R30), which does not exist. Safe. [log: DEDUCED 11] -/
  | noSuchAddress (addr : Nat)
  deriving DecidableEq, Repr

/-- A refusal, by name. -/
inductive Refusal where
  /-- Raised by the dispatch for a command without a meaning. Safe: nothing is claimed of the command. -/
  | notModelled (mnemonic : String)
  deriving DecidableEq, Repr

/-- The notice bookkeeping of one event source (R627): raises not yet told, the time of the first of them, and when the
last notice of the source went out. -/
structure EvtNote where
  count : Nat := 0
  first : Nat := 0
  last : Option Nat := none
  deriving DecidableEq, Repr

/-- What a fabric port holds of the time exchange (R609 to R613): the partner's descriptor and its refresh, the times of
the last SYNC each way, the upper time bits told by HIGH, TOP and STATE, and the next flit of the sender's cycle. -/
structure TimePort where
  parts : Nat := 0
  serial : Nat := 0
  dist : Nat := 0
  tree : Bool := false
  locked : Bool := false
  tport : Bool := false
  refreshed : Option Nat := none
  syncLow : Option Nat := none
  syncAt : Nat := 0
  high : Option Nat := none
  highLow : Nat := 0
  highNow : Nat := 0
  top : Option Nat := none
  top4 : Option Nat := none
  sentAt : Option Nat := none
  missed : Nat := 0
  syncSeen : Bool := false
  cycle : Nat := 0
  lastSend : Nat := 0
  wait : Nat := 0
  deriving DecidableEq, Repr

/-- Fabric time, telemetry and wear beside the TM_ registers (R605 to R631). [log: DEDUCED 169] -/
structure Tel where
  slew : Int := 0
  slewAcc : Int := 0
  thermOn : Bool := false
  offs : List Int := []
  delays : List Int := []
  good : Nat := 0
  ports : Tbl TimePort := []
  rootSerial : Nat := 0
  evt : Tbl EvtNote := []
  elogN : Nat := 0
  elogKept : Nat := 0
  stepTo : Option Nat := none
  bwNext : Nat := 8000000
  bwWin : Nat := 1000
  bwStepped : Bool := false
  bwRx : Tbl Nat := []
  bwTx : Tbl Nat := []
  ptmSent : Tbl Nat := []
  wearE : List Nat := [0, 0, 0, 0, 0]
  wearR : List Nat := [4294967296, 4294967296, 4294967296, 4294967296, 4294967296]
  wearStored : List Nat := [0, 0, 0, 0, 0]
  wearAt : Nat := 0
  wearStoreAt : Nat := 0
  wearUsed : Nat := 0
  eol : Nat := 0
  eolAt : List (Option Nat) := [none, none, none, none, none]
  /-- The last readings of the five dies in thousandths of a degree. [log: DESIGN CHOICE 9] -/
  dieTemp : List Int := [25000, 25000, 25000, 25000, 25000]
  /-- The hottest reading of each die in the present second. [log: DESIGN CHOICE 9] -/
  hottest : List Int := [25000, 25000, 25000, 25000, 25000]
  deriving DecidableEq, Repr

/-- How far a packet has come: decoded and waiting for its lookup, its ESEQ or its reservation; queued for its egress
port; held at its destination in ordered mode (R417); or passed the crossbar whole. -/
inductive Stage where
  | decoded | reserve | queued | held | passed
  deriving DecidableEq, Repr

/-- The region of the shared buffer a cell belongs to (R76). -/
inductive Region where
  | npLocal | npToken | completion | management | reserve | pool
  deriving DecidableEq, Repr

/-- A cell of the shared buffer: the flit of its packet it holds, its region, the core cycle of its write (R71). -/
structure Cell where
  idx : Nat
  region : Region
  at_ : Nat
  deriving DecidableEq, Repr

/-- A packet in the switch: the items of its ingress decode (R54), its cells, its lookup and its way out. Of its `nfl` flits `arrived`
have come (`inArr` of the `inFl` in which its bytes entered), `placed` have been written to the buffer or granted on the bypass route,
and the others that have come wait with their cycle of lookup in `fresh` (R70, R88, R89); `own` is the region of its own (R723), `shelved` the
shelf cells its flits stand for (R382). `encoded` of its flits have left the egress bank port. A packet sent on a fabric link stays
until every flit is acknowledged (R318, R421). [log: DESIGN CHOICE 220] -/
structure Pkt where
  port : Nat := 0
  vs : Nat := 0
  typ : PType := .posted
  oc : Nat := 0
  cc : Nat := 0
  par : Nat := 0
  arrEnv : Option Env := none
  content : Content := .ctl []
  nfl : Nat := 1
  arrived : Nat := 1
  inFl : Nat := 1
  inArr : Nat := 1
  placed : Nat := 0
  fresh : List Nat := []
  own : Option Region := none
  shelved : Nat := 0
  unit : Nat := 0
  granted : Nat := 0
  passed : Nat := 0
  encoded : Nat := 0
  cells : List Cell := []
  saf : Bool := false
  decNow : Nat := 0
  decTime : Nat := 0
  stage : Stage := .decoded
  queuedTime : Nat := 0
  ord : Nat := 0
  via : Option Nat := none
  dest : Nat := 0
  egr : Nat := 0
  remote : Bool := false
  outEnv : Option Env := none
  tlpOut : Option Tlp := none
  flow : Option Nat := none
  topen : Bool := false
  tclose : Bool := false
  eseq : Option Nat := none
  kept : Bool := false
  tok : Bool := false
  lockTlp : Bool := false
  first : Bool := false
  poison : Bool := false
  sent : Nat := 0
  acked : Nat := 0
  suffix : Bool := false
  loose : Bool := false
  cut : Bool := false
  idCode : Nat := 256
  srcCode : Nat := 256
  deriving DecidableEq, Repr

/-- A flit in a transmit staging slot (R135). -/
structure StagedFlit where
  pid : Nat
  idx : Nat
  deriving DecidableEq, Repr

/-- A cell that is free from the next core cycle on (R83): the port whose flit it held, the shelf pool its cell goes back to, the source
switch and parity of the token that goes with it (R374). -/
structure Freed where
  cycle : Nat
  region : Option Region
  port : Nat
  shelf : Option Nat
  owe : Option (Nat × Nat)
  deriving DecidableEq, Repr

/-- A stall clock that a link failure has ended (R87): the core cycle, the clock, and the first packet queued for the port. -/
structure StallEnd where
  cycle : Nat
  from_ : Nat
  first : Option Pkt
  deriving DecidableEq, Repr

/-- The forwarding core: packets by number in decode order, staging slots by egress port, when each egress port last sent
a flit or became non-empty (R84), the ports contained (R85), and the TLP each PCI Express port is sending (R74); the requests of this
arbitration phase by crossbar input (R725), the candidates of inputs 12 to 15, the inputs' last grant and last data cycle (R68);
flow-control credits of the partners of PCI Express ports, and the cells' worth that those ports have advertised and their partners
have used (R724). -/
structure Fwd where
  pkts : Tbl Pkt := []
  nextPid : Nat := 0
  nextOrd : Nat := 0
  stg : Tbl (List StagedFlit) := []
  stallFrom : Tbl Nat := []
  contained : Nat := 0
  started : Tbl Nat := []
  freed : List Freed := []
  stallEnd : Tbl StallEnd := []
  phase : Option (Nat × List (Nat × Nat)) := none
  cand : Tbl Nat := []
  inputAt : Tbl Nat := []
  inputData : Tbl Nat := []
  pciCredit : Tbl Nat := []
  pciUsed : Tbl Nat := []
  pciGiven : Tbl Nat := []
  pciTaken : Tbl Nat := []
  deriving DecidableEq, Repr

/-- A tenure in progress (R109, R110): `start` is the core cycle of its grant, so its last permitted data cycle is `start + limit`. -/
structure Tenure where
  input : Nat
  cls : Nat
  start : Nat
  limit : Nat
  deriving DecidableEq, Repr

/-- An open trick (R113 to R116): `opened` is the core cycle of its opening, `hold` its limit in cycles, `rd` the request whose flit opened a
lock's trick (R405). -/
structure Trick where
  port : Nat
  input : Nat
  vs : Nat
  cls : Nat
  flits : Nat
  opened : Nat
  hold : Nat
  lock : Bool
  rd : Option (Nat × Nat) := none
  deriving DecidableEq, Repr

/-- A granted flit that has not had its data phase (R97): `ptr` is the pointer before the grant, `serial` its number, `round` the end of
its round; `counted` a grant that its class's count holds; `bypass` one on the
bypass route (R70); `void` one whose flit has been taken elsewhere (R119). -/
structure GrantRec where
  input : Nat
  cls : Nat
  pid : Nat
  idx : Nat
  egr : Nat
  ptr : Nat
  serial : Nat
  cycle : Nat
  round : Nat
  counted : Bool
  bypass : Bool
  privileged : Bool
  void : Bool := false
  deriving DecidableEq, Repr

/-- One arbiter beside its registers (R96 to R130). -/
structure Arb where
  ptr : Nat := 0
  serial : Nat := 0
  counts : Tbl Nat := []
  parked : Option (Nat × Nat) := none
  last : Option (Nat × Nat) := none
  idle : Nat := 0
  tenure : Option Tenure := none
  tricks : List Trick := []
  pend : List GrantRec := []
  /-- When the hatch in force was closed. [log: DEDUCED 40] -/
  closedAt : Option Nat := none
  /-- The hatch watchdog has judged this closure. [log: DEDUCED 40] -/
  watched : Bool := false
  roundEnd : Nat := 256
  lastPhase : Option Nat := none
  lastGrant : Option Nat := none
  dataAt : Option Nat := none
  deriving DecidableEq, Repr

/-- A gate list armed and waiting for its switch-over time (R154). -/
structure GateList where
  gen : Bool := false
  len : Nat := 1
  base : Nat := 0
  swt : Nat := 0
  ents : List (Nat × Nat) := []
  deriving DecidableEq, Repr

/-- A flow's entry in the calendar (R141 to R144): its slot of the ring of 4,096, and from when it is eligible once moved. -/
structure CalEntry where
  slot : Nat
  ready : Option Nat
  deriving DecidableEq, Repr

/-- What sampling counts for one egress queue in a period (R161). -/
structure QueueSample where
  deq : Nat := 0
  sojMax : Nat := 0
  depthMax : Nat := 0
  deriving DecidableEq, Repr

/-- The egress scheduler beside its registers (R132 to R164): shadow registers written since the last commit; of those written in the
core cycle `wrCycle` the values before it and the ports whose lists were written in it (R124); a commit write that takes effect in the
next core cycle, with the cycle and the fabric time of its arrival (R123, R125); when each class's gate at a port last opened, by
8 × port + class (R152); up to which fabric time the calendar's slots have begun; the flow the sweep visits next (R146). -/
structure Sch where
  dirty : List Nat := []
  gateDirty : Nat := 0
  wrCycle : Option Nat := none
  wrOld : List (Reg × Nat × Nat × Bool) := []
  wrGate : Nat := 0
  commitAt : Option (Nat × Nat) := none
  opened : Tbl Nat := []
  calDone : Nat := 0
  sweep : Nat := 0
  armed : Tbl GateList := []
  cal : Tbl CalEntry := []
  smpNext : Nat := 0
  smpPass : Nat := 0
  smpSkip : Bool := false
  smp : Tbl QueueSample := []
  deriving DecidableEq, Repr

/-- A non-posted request that has entered the fabric and not ended, at its requester-side switch (R392); `expAt` the core cycle in which its
timeout has expired (R393). [log: DEDUCED 228] -/
structure Req where
  reqId : Nat
  tag : Nat
  vs : Nat
  port : Nat
  dgpa : Nat
  par : Nat
  tok : Bool
  shelf : Nat
  deadline : Nat
  fto : Nat
  bytes : Nat
  left : Nat
  addr : Nat
  oc : Nat
  locked : Bool
  eseq : Option Nat
  expAt : Option Nat := none
  deriving DecidableEq, Repr

/-- A requester ID and tag in quarantine (R393, R397). -/
structure Quar where
  reqId : Nat
  tag : Nat
  till : Nat
  deriving DecidableEq, Repr

/-- The rate limit of posted-error reports to one source switch and VS (R399). -/
structure PerrRate where
  last : Nat := 0
  supp : Nat := 0
  sent : Bool := false
  deriving DecidableEq, Repr

/-- A management-window access of this switch that awaits its response (R407): an access of a plane's core, or an access of the
delivery hardware for a stream. -/
inductive MwUse where
  | core (p : Plane)
  | ack (f oc : Nat)
  | fence (f d oc : Nat)
  | poll (f d oc : Nat)
  | skip (d oc : Nat)
  deriving DecidableEq, Repr

structure MwOut where
  id : Nat
  dst : Nat
  op : Nat
  use : MwUse
  deadline : Nat
  deriving DecidableEq, Repr

/-- An access of this switch's registers that waits while another switch holds the lock on its register bus (R409): a request of
the management window (source, ID, OP, address, data), one in a directed packet (port and bytes), a core's own, an Ikiup request.
[log: DESIGN CHOICE 33] -/
inductive BusAcc where
  | mw (src id op addr data : Nat)
  | directed (port : Nat) (b : List Byte)
  | core (p : Plane) (a : RegAddr) (part : RegPart) (v : Nat)
  | coreRead (p : Plane) (a : RegAddr)
  | read (h : ReqHdr) (es : List EntryRef)
  | write (h : ReqHdr) (es : List EntryWrite)
  deriving DecidableEq, Repr

/-- The crossing between PCI Express and the fabric beside its registers (R387 to R410): `farLock` the switch that holds the lock on
this register bus and the end of its time, `held` the switches whose bus this switch's cores have locked, `yields` those to
which the next access ends with RETRY (R410). -/
structure Xing where
  reqs : List Req := []
  quar : List Quar := []
  perr : Tbl PerrRate := []
  mwOut : List MwOut := []
  mwNext : Nat := 0
  farLock : Option (Nat × Nat) := none
  mwWait : List BusAcc := []
  held : List Nat := []
  yields : List Nat := []
  lockRead : Tbl (Nat × Nat) := []
  deriving DecidableEq, Repr

/-- Tokens owed to a source switch and since when (R374). -/
structure Owed where
  c0 : Nat := 0
  c1 : Nat := 0
  since : Nat := 0
  deriving DecidableEq, Repr

/-- A routing register write the host-port switch holds (R362). -/
structure WinHold where
  vs : Nat
  n : Nat
  notice : Nat
  deadline : Nat
  cpl : Option (Nat × Nat) := none
  deriving DecidableEq, Repr

/-- The next hops in use as a core cycle began in which a link entered or left ACTIVE (R358): ACTIVE ports, suspensions, substitutes. -/
structure HopsAt where
  cycle : Nat
  active : Nat
  ports : Nat
  trunks : Nat
  bkt : Tbl Nat
  deriving DecidableEq, Repr

/-- A change of a virtual switch's bus map whose copies at other switches are not all acknowledged (R367), with the configuration write
that completes then. [log: DEDUCED 54] -/
structure BusWait where
  vs : Nat
  left : List Nat
  cpl : Option (Nat × Nat) := none
  deriving DecidableEq, Repr

/-- Routing beside the RT_ registers: both halves of the tables as words (the half of parity p serves deals of parity p),
suspensions, owed tokens, the staging check, bus maps, held writes, directed packets. -/
structure Rt where
  half0 : Tbl Word32 := []
  half1 : Tbl Word32 := []
  suspPorts : Nat := 0
  suspTrunks : Nat := 0
  owed : Tbl Owed := []
  chkAt : Option Nat := none
  noticeNo : Nat := 0
  holds : List WinHold := []
  busMap : Tbl Nat := []
  tags : List Nat := []
  replies : List (List Byte) := []
  auditAt : Option (Nat × Nat) := none
  nbrPend : List (Nat × Nat × Nat × Nat) := []
  hopsAt : Option HopsAt := none
  busOld : Option (Nat × Tbl Nat) := none
  busWait : List BusWait := []
  deriving DecidableEq, Repr

/-- An outgoing stream (R413 to R423). -/
structure OutStream where
  next : Nat := 0
  oldest : Nat := 0
  timer : Option Nat := none
  expiries : Nat := 0
  skip : Option Nat := none
  skipAt : Nat := 0
  lastCycle : Option Nat := none
  deriving DecidableEq, Repr

/-- An incoming stream (R416 to R419); its ND and ordered mode are DL_FENCE_IN. -/
structure InStream where
  mask : Nat := 0
  point : Nat := 0
  acked : Nat := 0
  advAt : Option Nat := none
  ackNow : Bool := false
  deriving DecidableEq, Repr

/-- A reroute fence raised at this switch (R427): `suffix` packets still to send, `ok` once the destination answered. -/
structure Fence where
  f : Nat
  d : Nat
  oc : Nat
  point : Nat
  suffix : List Nat
  ok : Bool
  at_ : Nat
  fails : Nat
  deriving DecidableEq, Repr

/-- Up messages of one kind being combined for the parent (R461, R462): the epoch or cut id and round they name, and the
children that have answered. -/
structure Combine where
  active : Bool := false
  epoch : Nat := 0
  round : Nat := 0
  from_ : List Nat := []
  local_ : Bool := false
  flags : Nat := 0
  worst : Nat := 0
  count1 : Nat := 0
  count2 : Nat := 0
  deadline : Nat := 0
  deriving DecidableEq, Repr

/-- A switch's role as a dealer (R445 to R447): its term, when the next heartbeat is due, the number of the last journal record. -/
structure Dealer where
  active : Bool := false
  term : Nat := 0
  beatAt : Nat := 0
  jn : Nat := 0
  deriving DecidableEq, Repr

/-- Delivery, deals and cuts beside the DL_ registers (R411 to R464). `treeIn`: a fabric tree is in force; `treeReq` the directed
packet of the last tree message of an unjoined switch; `from_` the sender of the last down message followed; `early` up messages
of children for an operation that has not started here; `drainHeard` the last DRAIN marker of each port; `drainPosted` and
`drainSent` the ports whose marker of the round is queued and has been sent; the cut in progress and the cut last latched. -/
structure Dl where
  outs : Tbl OutStream := []
  ins : Tbl InStream := []
  fences : List Fence := []
  treeIn : Bool := false
  treeReq : List Byte := []
  from_ : Option TreeSrc := none
  early : List (Nat × TreeMsg) := []
  vote : Combine := {}
  conf : Combine := {}
  done : Combine := {}
  prepEpoch : Option Nat := none
  prepTerm : Nat := 0
  goT : Option Nat := none
  /-- The core cycle in which a GO came late (R437). -/
  goLate : Option Nat := none
  joinEpoch : Option Nat := none
  drainDue : Nat := 0
  drainHeard : Tbl Nat := []
  drainPosted : Nat := 0
  drainSent : Nat := 0
  /-- A disturbance in DRAINED, kept for the next round. [log: DEDUCED 75] -/
  disturbedNext : Bool := false
  markerTo : Bool := false
  cutId : Option Nat := none
  cutActive : Bool := false
  cutDue : Nat := 0
  cutTime : Nat := 0
  cutEpoch : Nat := 0
  cutSeen : Nat := 0
  inflight : Tbl Nat := []
  resetT : Option Nat := none
  resetLate : Bool := false
  resetCycle : Option Nat := none
  dealer : Dealer := {}
  deriving DecidableEq, Repr

/-- A flit of a Brorna link's sender, a flit of a packet or a marker, with its SEQ once sent (R312, R317) and what it carries. -/
structure TxFlit where
  cc : Nat := 0
  sop : Bool := true
  eop : Bool := true
  topen : Bool := false
  tclose : Bool := false
  pay : List Byte := []
  seq : Nat := 0
  pid : Nat := 0
  idx : Nat := 0
  marker : Option (Nat × Nat) := none
  pool : Nat := 0
  par : Nat := 0
  deriving DecidableEq, Repr

/-- What the last idle flits of the partner told (R297, R340). -/
structure Partner where
  known : Bool := false
  serial : Nat := 0
  fsid : Nat := 0xFFFF
  port : Nat := 0
  rate : Nat := 0
  width : Nat := 0
  mode : Nat := 0
  device : Nat := 0
  rxok : Bool := false
  deriving DecidableEq, Repr

/-- The packet whose flits a link is receiving (R295): the type its envelope names, its length with the envelope, the bytes come so
far; its number once it is decoded; `dead` when it has been discarded and its other flits only draw credit. -/
structure RxPkt where
  typ : Nat := 0
  size : Nat := 0
  got : Nat := 0
  pid : Option Nat := none
  dead : Bool := false
  deriving DecidableEq, Repr

/-- A packet whose first flit a link has accepted and which is not decoded yet (R54): `flits` of its flits have come, `last` the last too. -/
structure RxIn where
  env : Env := {}
  cc : Nat := 0
  par : Nat := 0
  bytes : List Byte := []
  flits : Nat := 1
  last : Bool := true
  deriving DecidableEq, Repr

/-- One Brorna link beside its registers (R287 to R336). [log: DEDUCED 72] -/
structure BlPort where
  next : Nat := 0
  oldest : Nat := 0
  ackValid : Bool := false
  txq : List TxFlit := []
  unacked : List TxFlit := []
  replayFrom : Option Nat := none
  replayAt : Option Nat := none
  replays : Nat := 0
  limits : List Nat := [0, 0, 0, 0]
  used : List Nat := [0, 0, 0, 0]
  rxUsed : List Nat := [0, 0, 0, 0]
  rxLimit : List Nat := [0, 0, 0, 0]
  lanesOk : Nat := 0
  allOkAt : Option Nat := none
  aligned : Bool := false
  goodRun : Nat := 0
  bringAt : Nat := 0
  bringup : Nat := 0
  quietTill : Nat := 0
  waitSig : Option Nat := none
  rankKnown : Bool := false
  serialSeen : Option Nat := none
  partner : Partner := {}
  chkAt : Tbl Nat := []
  rx : Option RxPkt := none
  inbox : List RxIn := []
  idleFrom : Nat := 0
  realignAt : Option Nat := none
  disabling : Bool := false
  credTurn : Nat := 0
  wakeReq : Bool := false
  fsidSeen : Nat := 0xFFFF
  sentAck : Nat := 16383
  sentLimit : List Nat := [0, 0, 0, 0]
  resets : Nat := 0
  replayLeft : Option Nat := none
  expAt : Option Nat := none
  deriving DecidableEq, Repr

/-- The Brorna links and, for each trunk, its reference FSID and the members kept out (R332). -/
structure Bl where
  ports : Tbl BlPort := []
  trunkRef : Tbl Nat := []
  trunkOut : Nat := 0
  joinDue : List Nat := []
  /-- Substitutes of trunk buckets until the next deal. [log: DEDUCED 81] -/
  bktSub : Tbl Nat := []
  deriving DecidableEq, Repr

/-- The configuration space of a USP or a vDSP: the registers the spec's rules name, by their PCI Express names, and the
other writable words of the space by their dword number. -/
structure PortFn where
  cmd : Nat := 0
  status : Nat := 0x10
  pri : Nat := 0
  sec : Nat := 0
  sub : Nat := 0
  memBase : Nat := 0
  memLimit : Nat := 0
  pfBase : Nat := 1
  pfLimit : Nat := 1
  pfBaseHi : Nat := 0
  pfLimitHi : Nat := 0
  bridgeCtl : Nat := 0
  pmcsr : Nat := 0
  devCtl : Nat := 0x2810
  devStat : Nat := 0
  linkCtl : Nat := 0
  linkStat : Nat := 0
  linkCtl2 : Nat := 7
  slotCtl : Nat := 0
  slotStat : Nat := 0
  uncStat : Nat := 0
  uncMask : Nat := 0x400000
  uncSev : Nat := 0x462030
  corStat : Nat := 0
  corMask : Nat := 0xE000
  firstErr : Nat := 0
  hdrLog : HdrLog := {}
  dpcCtl : Nat := 0
  dpcStat : Nat := 0
  dpcSrc : Nat := 0
  acsCtl : Nat := 0
  acsVec : Nat := 0
  ptmCtl : Nat := 0
  msiCtl : Nat := 0
  msiMask : Nat := 0
  msiPend : Nat := 0
  other : Tbl Nat := []
  deriving DecidableEq, Repr

/-- A vDSP's containment and slot command in progress: when DPC triggered, whether software has asked for the release,
the Slot Control write being performed, and the core cycle of the last hot-plug interrupt (R196, R198, R211, R212, R215); what the
device port's switch said last of the port, and whether Power Controller Control was written since its reset (R214). -/
structure VdspSt where
  trigAt : Option Nat := none
  relReq : Bool := false
  cmdAt : Option Nat := none
  hpAt : Option Nat := none
  far : PortNotice := {}
  pccSet : Bool := false
  deriving DecidableEq, Repr

/-- A PCI Express port beside its registers: the trained width and rate, L1, an L0p request in progress, permissions from
the bound vDSP, the link's state of service; `l0pFrom` the widths that direction had before L0p changed them in a core cycle, `recAt`
the core cycle of the last entry into Recovery (R179); `slotOff` a slot whose power controller keeps the link off (R211). -/
structure PciPort where
  up : Bool := false
  width : Nat := 0
  l0pAt : Option Nat := none
  l0pFrom : Option (Nat × Nat × Nat) := none
  recAt : Option Nat := none
  l1 : Bool := false
  aspm : Nat := 0
  target : Nat := 6
  disabled : Bool := false
  slotOff : Bool := false
  hotReset : Bool := false
  winAt : Nat := 0
  perst : Bool := false
  detect : Bool := false
  deriving DecidableEq, Repr

/-- PCI Express ports and virtual switch ports (R165 to R217): port functions keyed by VS × 512 + vDSP, the USP at 511; `told` the
controls of functions held at another switch, as that switch has told of them (R190, R196, R200, R395); `blink` when the wave of an
indicator began, by channel × 2 with 1 for the power indicator (R209). -/
structure Pci where
  fns : Tbl PortFn := []
  vd : Tbl VdspSt := []
  ports : Tbl PciPort := []
  perst : Nat := 0xFF
  perstAt : Tbl Nat := []
  slotInd : Tbl Nat := []
  told : Tbl PortFn := []
  blink : Tbl Nat := []
  driven : Tbl Bool := []
  deriving DecidableEq, Repr

/-- A lane beside its LN_ registers: its transmitter's coefficients and DFE taps h2 to h12 (R172, R264), the values of LN_WATCH and
LN_STRESS its interval began with (R285), whether its settings come from a provisional entry, when its watch interval began and ends,
the lowest bank temperature in the interval (1/16 °C), what the Brorna link counted in it, a PRBS test's end, the bring-up check window's end.
[log: DESIGN CHOICE 65] -/
structure Lane where
  fir : List Int := []
  dfe : List Int := []
  watch : Nat := 0
  stress : Nat := 0
  applied : Bool := false
  from_ : Nat := 0
  till : Option Nat := none
  tmin : Int := 0
  irx : Nat := 0
  isym : Nat := 0
  iunc : Nat := 0
  prbsEnd : Option Nat := none
  window : Option Nat := none
  ended : Option (Nat × Nat × Nat × Nat × Nat) := none
  drifted : Bool := false
  deriving DecidableEq, Repr

/-- The lanes and the two copies of the equalisation table (R260, R261), the margining runs of fabric ports. -/
structure Lanes where
  lane : Tbl Lane := []
  eqA : List Byte := []
  eqB : List Byte := []
  margin : Tbl (Nat × Nat) := []
  deriving DecidableEq, Repr

/-- What a non-posted request of a service function is for (R238): a descriptor fetch of queue `q`, an access of an engine
by its number, a flush read of a system barrier to the GPA `dgpa`, or a read of a COPY or COLL descriptor of queue `q`. -/
inductive SfUse where
  | fetch (q : Nat)
  | access (e seq : Nat)
  | flush (e dgpa : Nat)
  | firmware (q idx : Nat)
  deriving DecidableEq, Repr

/-- An outstanding request of a service function. -/
structure SfReq where
  vs : Nat
  fn : Nat
  tag : Nat
  use : SfUse
  deadline : Nat
  got : List Byte := []
  bad : Bool := false
  expAt : Option Nat := none
  deriving DecidableEq, Repr

/-- A tag in quarantine (R239, R242, R246): `silent` after an abandoned read, `seen` once its late completion has come. -/
structure SfQuar where
  vs : Nat
  fn : Nat
  tag : Nat
  till : Nat
  silent : Bool
  deriving DecidableEq, Repr

/-- A function of a service function: its configuration space, MSI-X table words (the mask bits are 1 after reset), pending
bits, the interrupt line, and a Function Level Reset in progress since when. -/
structure SfFn where
  cfg : PortFn := {}
  devCtl2 : Nat := 0
  msixCtl : Nat := 0
  sriov : Nat := 0
  numVfs : Nat := 0
  sysPage : Nat := 1
  bars : Tbl Nat := []
  msix : Tbl Nat := []
  pba : Nat := 0
  intx : Bool := false
  flrAt : Option Nat := none
  bmOff : Option Nat := none
  mailReq : List Byte := []
  mailRsp : List Byte := []
  deriving DecidableEq, Repr

/-- A descriptor fetched from a submission ring (R511). -/
structure Desc where
  idx : Nat := 0
  kind : Nat := 0
  cc : Nat := 0
  oc : Nat := 0
  flags : Nat := 0
  tag : Nat := 0
  prog : Nat := 0
  neng : Nat := 0
  body : List Byte := []
  started : Bool := false
  deriving DecidableEq, Repr

/-- How a descriptor's traffic travels (R513): its ordering class and core class, SAF, and for the writes of a COPY TRICK.
[log: DEDUCED 238] -/
structure Way where
  oc : Nat
  cc : Nat
  saf : Bool
  trick : Bool
  deriving DecidableEq, Repr

/-- An engine queue of the device: its owner (VS, function, local index), its submission tail, the fetch outstanding, the
fetched descriptors that have not completed, oldest first, records that wait for Bus Master Enable (their bytes after PHASE, and
whether the vector follows), and the end of its revoke grace. -/
structure SfQueue where
  owner : Option (Nat × Nat × Nat) := none
  tail : Nat := 0
  bells : List Nat := []
  fetching : Bool := false
  descs : List Desc := []
  due : List (List Byte × Bool × Option Way) := []
  graceAt : Option Nat := none
  deriving DecidableEq, Repr

/-- A ledger mark not yet written to its bitmap (R249 to R253): VS, context, bitmap (true B), address of its byte, bit.
[log: DESIGN CHOICE 59] -/
structure LgMark where
  vs : Nat
  ctx : Nat
  b : Bool
  loc : Nat
  addr : Nat
  bit : Nat
  at_ : Nat := 0
  deriving DecidableEq, Repr

/-- The service functions beside their SF_ registers (R217 to R258): functions keyed VS × 1,025 + number. -/
structure Sf where
  fns : Tbl SfFn := []
  qs : Tbl SfQueue := []
  reqs : List SfReq := []
  quar : List SfQuar := []
  marks : List LgMark := []
  swapAt : Tbl Nat := []
  deriving DecidableEq, Repr

/-- Where an engine access goes (R492): cluster SRAM by offset, LPDDR4X by address, or a destination through a window, with
its VS, address at the destination, and memory type (device when ATTR is 0), its PF bit and whether it came through a share. -/
inductive EngTgt where
  | sram (off : Nat)
  | mem (addr : Nat)
  | win (dgpa vs addr : Nat) (dev pf : Bool)
  deriving DecidableEq, Repr

/-- A store in an engine's store buffer. -/
structure StoreE where
  seq : Nat
  tgt : EngTgt
  data : List Byte
  deriving DecidableEq, Repr

/-- What an outstanding access does when it completes: a scalar load into gD (size, sign extension), a pair, a vector, a
prefetch, an atomic (operation code, gD, operands), a copy between two engine addresses, a fill. -/
inductive AccKind where
  | load (d size : Nat) (sext : Bool)
  | pair (d : Nat)
  | vec (d : Nat)
  | prefetch
  | atomic (op d : Nat) (cmp val : Nat)
  | copy (src dst : Nat)
  | fill (b : Byte)
  deriving DecidableEq, Repr

/-- An access that has issued and not completed; `fwd` are the bytes forwarded from the store buffer (R524), `tag` the
request of the function it waits for. [log: DEDUCED 239] -/
structure Access where
  seq : Nat
  kind : AccKind
  tgt : EngTgt
  len : Nat
  vaddr : Nat := 0
  fwd : List (Option Byte) := []
  tag : Option Nat := none
  /-- What it brings fills no prefetch entry (R544). -/
  noFill : Bool := false
  deriving DecidableEq, Repr

/-- An entry of the prefetch buffer (R544): 64 bytes of a destination's address. -/
structure PfEntry where
  dgpa : Nat
  vs : Nat := 0
  addr : Nat
  data : List Byte
  filledAt : Nat
  used : Nat
  deriving DecidableEq, Repr

/-- A barrier in progress: its scope and its destination register. -/
structure Barrier where
  scope : Nat
  d : Nat
  failed : Bool := false
  sent : Bool := false
  deriving DecidableEq, Repr

/-- A WAIT in progress: address, bound, destination register, end of its limit. -/
structure WaitSt where
  tgt : EngTgt
  bound : Nat
  d : Nat
  till : Option Nat
  deriving DecidableEq, Repr

/-- An engine beside its EN_ registers (R490): general and vector registers, its run, buffers and what it waits for; `smpFrom` since when engine
cycles are counted for samples, `devAt` since when it waits on a device read (R520). -/
structure Eng where
  g : List Nat := List.replicate 16 0
  v : List Nat := List.replicate 8 0
  run : Option Nat := none
  busySince : Nat := 0
  nextSeq : Nat := 0
  sb : List StoreE := []
  acc : List Access := []
  hold : Option Nat := none
  wait : Option WaitSt := none
  bar : Option Barrier := none
  flush : List (Nat × Nat) := []
  pf : List PfEntry := []
  smp : Nat := 0
  smpPcs : List Nat := []
  smpFrom : Nat := 0
  devAt : Nat := 0
  ended : Bool := false
  deriving DecidableEq, Repr

/-- A run of a program (R491, R505, R516 to R519). -/
structure Run where
  vs : Nat
  fn : Nat
  q : Nat
  desc : Desc
  slot : Nat
  cluster : Nat
  engines : List Nat
  startAt : Nat
  limitAt : Nat
  result : Nat := 0
  flags : Nat := 0
  status : Nat := 0
  fpc : Nat := 0
  fcode : Nat := 0
  faddr : Nat := 0
  deriving DecidableEq, Repr

/-- One accumulator with its flags (R476 to R478). -/
structure AccV where
  sum : Int := 0
  n : Nat := 0
  nan : Bool := false
  pinf : Bool := false
  ninf : Bool := false
  nz : Bool := true
  deriving DecidableEq, Repr

/-- A slot of an exact-accumulation unit (R502): its type and its accumulators; the engine cycle of the last addition, the engines that
added in it and the accumulators before it (R504); the engine cycle and the engine of the last clear (R523). -/
structure AccSlot where
  typ : Nat := 0
  vals : List AccV := []
  cyc : Nat := 0
  by_ : List Nat := []
  before : List AccV := []
  zeroed : Option (Nat × Nat) := none
  deriving DecidableEq, Repr

/-- A program resident in a cluster's code area (R510): slot, words, last use. -/
structure Resident where
  slot : Nat
  words : Nat
  last : Nat
  deriving DecidableEq, Repr

/-- A program slot (R506): state 0 EMPTY, 1 LOADING, 2 MEASURING, 3 ACTIVE, 4 RETIRING; generation, VS, image and digest;
`retireAt` the engine cycle of its RETIRE (R509). -/
structure Prog where
  state : Nat := 0
  gen : Nat := 0
  vs : Nat := 0
  image : List Byte := []
  expect : List Byte := []
  digest : List Byte := []
  retireAt : Nat := 0
  deriving DecidableEq, Repr

/-- An access of an engine that has taken effect in cluster SRAM or LPDDR4X: its engine cycle, and the bytes it touched (R523). -/
structure Turn where
  cyc : Nat
  e : Nat
  space : Nat
  lo : Nat
  len : Nat
  deriving DecidableEq, Repr

/-- The programmable engines beside their registers (R488 to R552): SRAM keyed cluster × 2^21 + offset, slots of the
accumulation units keyed cluster × 256 + slot; the quantum's limits; the accesses of the present engine cycle; engine cycles used, weights in force and the last sample of its runs
keyed by function. -/
structure Engs where
  eng : Tbl Eng := []
  sram : Tbl Byte := []
  slots : Tbl AccSlot := []
  runs : Tbl Run := []
  nextRun : Nat := 0
  res : Tbl (List Resident) := []
  progs : Tbl Prog := []
  used : Tbl Nat := []
  weights : Tbl Nat := []
  quantumEnd : Nat := 128000
  quantumStart : Nat := 0
  turns : List Turn := []
  sample : Tbl Nat := []
  allocBase : Tbl Nat := []
  deriving DecidableEq, Repr

/-- A local request of a collective (R469): its queue and descriptor, the data read from SRC (none while it is awaited),
its destination; `bad` after a failed read, `gone` once its queue has left. -/
structure CollReq where
  q : Nat
  idx : Nat
  op : Nat := 0
  typ : Nat := 0
  red : Nat := 0
  rnd : Nat := 0
  count : Nat := 0
  src : Nat := 0
  dst : Nat := 0
  data : Option (List Byte) := some []
  bad : Bool := false
  gone : Bool := false
  /-- How its writes travel (R513). -/
  way : Option Way := none
  deriving DecidableEq, Repr

/-- A chunk being combined: its accumulators, the children that have contributed. -/
structure Chunk where
  vals : List AccV := []
  from_ : List Nat := []
  deriving DecidableEq, Repr

/-- An instance in progress (R470 to R474): its local requests, its chunks, the next chunk to send up, the next chunk due
down, the children heard without chunks, the flags of its results. -/
structure CollInst where
  startAt : Nat := 0
  reqs : List CollReq := []
  chunks : Tbl Chunk := []
  upNext : Nat := 0
  downNext : Nat := 0
  ready : List Nat := []
  flags : Nat := 0
  deriving DecidableEq, Repr

/-- A group beside its registers (R465 to R487): waiting requests, the instance, held messages of the next instance by
sender, chunk credits from the parent, credits owed to each child and since when, ABORTs of the present core cycle (R487). -/
structure Grp where
  waiting : List CollReq := []
  inst : Option CollInst := none
  held : List (Nat × CollMsg) := []
  credits : Nat := 0
  owed : Tbl (Nat × Nat) := []
  aborts : List (Nat × Nat × CollMsg) := []
  deriving DecidableEq, Repr

/-- A notice of a session that waits for its acknowledgement (R587, R588). -/
structure Notice where
  nseq : Nat
  cls : Nat
  source : Nat
  time : Nat
  lost : Nat
  data : List Byte
  deriving DecidableEq, Repr

/-- An Ikiup session (R576 to R585): its role (0 OBSERVER to 3 SECURITY), key slot and source of a UDP session, whether it is
open or still in its exchange, its idle timeout, the last SEQ answered with the stored answer (service, status, body), its notices, reg_sel, and the
read-window offsets it has set. -/
structure Sess where
  key : SessKey
  role : Nat := 1
  slot : Nat := 0
  src : Nat := 0
  opened : Bool := true
  at_ : Nat := 0
  idle : Nat := 0
  last : Nat := 0
  stored : Nat × Nat × List Byte := (0, 0, [])
  mask : Nat := 0
  notes : List Notice := []
  nseq : Nat := 0
  lost : Nat := 0
  noteAt : Nat := 0
  regSel : Nat := 0
  offs : Tbl Nat := []
  transcript : List Byte := []
  deriving DecidableEq, Repr

/-- A CMD entry (R568 to R571): its RSEQ, whether its action runs, and its last result. -/
structure CmdSt where
  rseq : Nat := 0
  running : Bool := false
  status : Nat := 0
  data : List Byte := []
  arg : Nat := 0
  at_ : Nat := 0
  deriving DecidableEq, Repr

/-- A load target's staging area (R591, R592): its holder, offset and bytes. -/
structure Load where
  holder : Option SessKey := none
  off : Nat := 0
  bytes : List Byte := []
  deriving DecidableEq, Repr

/-- A key slot (R580, R582, 0xA100): 0 empty, 1 loading, 2 enrolled, 3 locked; its role and key, the times of its failures and
the end of its lock. -/
structure KeySlot where
  state : Nat := 0
  role : Nat := 0
  key : List Byte := []
  fails : List Nat := []
  till : Option Nat := none
  deriving DecidableEq, Repr

/-- A CMD entry's action that has been accepted and not begun: its entry, its value, the image its COMMIT takes. -/
structure CmdAct where
  idx : Nat
  sub : Nat
  val : OVal
  image : List Byte := []
  deriving DecidableEq, Repr

/-- RWS values on their way to the configuration flash, the response that follows their commit (R558), and the actions of the CMD entries
of the same WRITE, which begin after it; `live` while the session that awaits the response is the one that sent the request. -/
structure Commit where
  sess : SessKey
  seq : Nat
  body : List Byte
  vals : Tbl OVal
  acts : List CmdAct := []
  live : Bool := true
  deriving DecidableEq, Repr

/-- What an Ikiup request asks for (R575); `open_` and `proof` are the steps of R580. -/
inductive SvcReq where
  | read (es : List EntryRef)
  | write (es : List EntryWrite)
  | describe (r : EntryRef)
  | subscribe (mask : Nat)
  | notifyAck (nseq : Nat)
  | keepalive
  | close
  | open_ (slot : Nat) (body : List Byte)
  | proof (sig : List Byte)
  deriving DecidableEq, Repr

/-- A request that has been received whole and waits for the management complex (R577). -/
structure InReq where
  hdr : ReqHdr
  req : SvcReq
  deriving DecidableEq, Repr

/-- The management services (R553 to R604): device state (0 OFF to 7 FAULT), fault cause, sessions, commands by entry key, load
targets by index, key slots, the counters of bad tags and lost notices, a MAINTAIN in progress with its start, its quiet time and the end of its wait, when the last data
flit crossed a fabric port, the RWS values on their way to flash, the requests received in the present core cycle (R577), whether BOOT's
images are measured. -/
structure Svc where
  state : Nat := 1
  cause : Nat := 0
  sess : List Sess := []
  cmds : Tbl CmdSt := []
  loads : Tbl Load := []
  keys : Tbl KeySlot := []
  badTag : Nat := 0
  noticeLost : Nat := 0
  maintain : Option (Nat × Nat × Nat) := none
  flitAt : Nat := 0
  commits : List Commit := []
  inbox : List InReq := []
  resetCause : Nat := 1
  resetCount : Nat := 1
  rrsDone : Bool := false
  rstLow : Option Nat := none
  eccReady : Bool := false
  deriving DecidableEq, Repr

/-- A firmware image in use (R636, R637): its copy, version, security version, digest, and the digest of its code (R643). -/
structure ImgUse where
  copy : Nat := 0
  version : Nat := 0
  svn : Nat := 0
  digest : List Byte := []
  deriving DecidableEq, Repr

/-- Measured start (R633 to R652): the measurement slots, the log (records of 96 bytes, oldest first) with the number written in
BOOT, BASE and FOLDED, the commands whose measurements wait (R642), the next LSEQ, firmware copies written (keyed 2 × kind + copy), the current copy of each kind as a bit, images
in use, fused minima, the image being updated, the report and one being signed, and the last remeasurement. -/
structure Trust where
  slots : List (List Byte) := List.replicate 8 (List.replicate 32 0)
  log : List (List Byte) := []
  bootRecs : Nat := 0
  base : List (List Byte) := List.replicate 8 (List.replicate 32 0)
  folded : Nat := 0
  lseq : Nat := 0
  copies : Tbl (List Byte) := []
  cur : Nat := 0
  inUse : Tbl ImgUse := []
  minSvn : List Nat := [0, 0, 0, 0, 0]
  bank4 : List Byte := []
  pend4 : Option (List Byte) := none
  report : List Byte := []
  pendReport : Option (List Byte) := none
  measured : Nat := 0
  retain : Nat := 0
  jobs : List CmdAct := []
  remAt : List Nat := [0, 0]
  deriving DecidableEq, Repr

/-- A slot channel (R678 to R687): its state (0 OFF to 5 LATCHED), trips in its count, trips since the controller started, last
cause, when it entered its state, the end of its retry timer, whether its warning is asserted, what Power Controller
Control says where software has written it, when a commanded turn-off ends, its last trip, and a loss of presence that the present
sample brings (R686). -/
structure SlotCh where
  state : Nat := 0
  count : Nat := 0
  trips : Nat := 0
  cause : Nat := 0
  at_ : Nat := 0
  retryAt : Option Nat := none
  pfw : Bool := true
  ctl : Option Bool := none
  offAt : Option Nat := none
  tripAt : Option Nat := none
  goneAt : Option Nat := none
  deriving DecidableEq, Repr

/-- The power-entry controller (R653 to R677, R688): its state (0 OFF to 5 LATCHED), the conducting feed (2 none), the incoming feed
of a ramp or transfer, usable feeds, flags, counters, the times its limits run from, its own copy of the policy (R654), and what the
present sample of 1 µs brings: feeds lost and a bus below sag_reset (R671, R675). -/
structure Pe where
  state : Nat := 3
  feed : Nat := 0
  next : Nat := 2
  usable : Nat := 1
  usableAt : List Nat := [0, 0]
  pfw : Bool := false
  sagged : Bool := false
  flags : Nat := 0
  trips : Nat := 0
  /-- The count of trips that the last start of the management complex saw. [log: DEDUCED 182] -/
  told : Nat := 0
  lastTrip : Nat := 0
  transfers : Nat := 0
  sags : Nat := 0
  at_ : Nat := 0
  breakTill : Option Nat := none
  regulating : Bool := false
  revertAt : Nat := 0
  railAt : Option Nat := none
  pgood : Bool := true
  energy : List Nat := [0, 0]
  stored : List Nat := [0, 0]
  storeAt : Nat := 0
  why : Nat := 1
  pol : Tbl OVal := []
  slots : Tbl SlotCh := []
  lost : List (Nat × FeedLoss × PeSample) := []
  sagDue : Bool := false
  deriving DecidableEq, Repr
/-- What leaves the switch, oldest first in the outbox: TLPs at host and device ports, Brorna flits, packets delivered to
an internal port, packets that port 52 or an engine group originates, management frames and notices, values read, levels of
contacts. [log: DESIGN CHOICE 4, DEDUCED 238] -/
inductive Out where
  | tlp (port : Nat) (t : Tlp)
  | flit (port : Nat) (b : List Byte)
  | deliver (port : Nat) (e : Option Env) (c : Content)
  | packet (src : Nat) (dgpa vs oc : Nat) (typ : PType) (c : Content)
  | toPort (port : Nat) (b : List Byte)
  | trickCut (input port : Nat)
  | regRead (v : Nat)
  | memRead (b : List Byte)
  | mwData (status data : Nat)
  | cpl (vs : Nat) (reqId tag status data : Nat)
  | msg (vs : Nat) (fn code : Nat) (b : List Byte)
  | hostWrite (vs fn addr : Nat) (b : List Byte) (w : Option Way := none)
  | hostRead (vs fn tag addr len : Nat) (w : Option Way := none)
  | hostMark (vs addr bit : Nat)
  | flushRead (e dgpa addr : Nat) (w : Option Way := none)
  | response (k : SessKey) (seq status : Nat) (b : List Byte)
  | notify (k : SessKey) (b : List Byte)
  | errNotice (dgpa vs n : Nat) (e : Option PcieErr) (hdr : HdrLog) (trig : Option (Nat × Nat))
  | portNotice (dgpa vs n st : Nat) (x : PortNotice)
  | train (port : Nat) (flit l0p : Bool)
  | contain (dgpa vs n : Nat)
  | vdsp (dgpa vs n kind val : Nat)
  | fc (port cells : Nat)
  | driver (lane : Nat) (on : Bool)
  | busMap (fsid vs : Nat) (codes : List Nat)
  | busAck (vs : Nat)
  | eqReply (lane : Nat) (accept : Bool)
  | eqPreset (lane preset : Nat)
  | ptm (port : Nat) (time : Option Nat)
  | ptmSf (vs : Nat) (time : Option Nat)
  | ptmReq (port : Nat)
  | coll (dst : Nat) (m : CollMsg)
  | pin (name : String) (i : Nat) (level : Bool)
  | highZ (name : String) (i : Nat)
  | engineAccess (e seq : Nat) (dgpa : Option Nat) (addr len : Nat) (write : Bool) (b : List Byte) (w : Option Way := none)
  | engineAtomic (e seq op : Nat) (dgpa : Option Nat) (addr : Nat) (b : List Byte) (w : Option Way := none)
  deriving DecidableEq, Repr

/-- What hardware has set in the present core cycle (R14, R722): the RW1C bits it set, by register, and the event that met a first-event
record already held, by that record. -/
structure Cyc where
  set : Tbl Nat := []
  evts : Tbl (List (Fld × Nat)) := []
  deriving DecidableEq, Repr

/-- The switch: everything the spec gives it but the queue of waiting commands. Time is counted in units of 125 ps. -/
structure Dev where
  now : Nat := 0
  cyc : Cyc := {}
  bootAt : Nat := 0
  ftime : Nat := 0
  /-- Fabric time as sampled at the start of the present core cycle (R605). -/
  sampled : Nat := 0
  /-- The counter of free values: the model's own. [log: DESIGN CHOICE 5] -/
  free : Nat := 0
  regs : Tbl Word64 := []
  mem : Tbl Byte := []
  objs : Tbl OVal := []
  flash : Tbl OVal := []
  /-- What has left the module, oldest first: the model's own. [log: DESIGN CHOICE 4, DESIGN CHOICE 200] -/
  out : List Out := []
  tel : Tel := {}
  fwd : Fwd := {}
  arb : Tbl Arb := []
  sch : Sch := {}
  xing : Xing := {}
  rt : Rt := {}
  dl : Dl := {}
  pci : Pci := {}
  bl : Bl := {}
  ln : Lanes := {}
  sf : Sf := {}
  eng : Engs := {}
  coll : Tbl Grp := []
  svc : Svc := {}
  trust : Trust := {}
  pe : Pe := {}
  deriving DecidableEq, Repr

/-- The machine: the queue of waiting commands, first in first out, and the switch. -/
structure State where
  /-- The commands that wait. [log: DESIGN CHOICE 2] -/
  pending : List Instr := []
  dev : Dev := {}
  deriving DecidableEq, Repr

/-- The state right after reset: the entry to BOOT of a cold start (R693). [log: DESIGN CHOICE 7] -/
def State.reset : State := {}

end Sys2Proof.Machine
end

