-- ==== Sys2Proof/Machine/Ops.lean ====
section
/-! DEFINITION. The named operations over the register file, LPDDR4X, counters, event sources, the error log, objects, the
outbox and the free values. Every register-visible value has its one home in the register file. -/
namespace Sys2Proof.Machine

/-- A command's effect on the switch; the queue is the step's. While the device is OFF its dies are unpowered and nothing but the
power-entry controller acts (R25, R560). [log: DEDUCED 6] -/
def State.act (s : State) (f : Dev → Dev) : Host.Outcome State Fault Refusal :=
  .next { s with dev := if s.dev.svc.state = 0 then s.dev else f s.dev }

/-- A command of the power-entry controller, which runs whenever a feed is above 4.0 V (R25). [log: DEDUCED 6] -/
def State.actPe (s : State) (f : Dev → Dev) : Host.Outcome State Fault Refusal :=
  .next { s with dev := f s.dev }

/-- Units of 125 ps in a nanosecond, microsecond, millisecond and second (R605). -/
abbrev tNs : Nat := 8
abbrev tUs : Nat := 8000
abbrev tMs : Nat := 8000000
abbrev tSec : Nat := 8000000000

/-- Fold of a state change over a list. -/
def each {α σ : Type} (l : List α) (s : σ) (f : σ → α → σ) : σ := l.foldl f s

/-- A change made only when a condition holds. -/
def whenS (c : Bool) (f : Dev → Dev) (s : Dev) : Dev := if c then f s else s

/-! Registers -/

/-- The key of a register instance in the register file. -/
def regKey (r : Reg) (inst : Nat) : Nat := regCode r * 1048576 + inst

/-- The reset value of a register as its field table states it. -/
def tableReset (fs : List Field) : Nat := fs.foldl (fun v f => v + f.reset * 2 ^ f.lo) 0

/-- The reset value of a register instance: the field table's, and the values that depend on the instance (R100, R105,
ARB_CLASS; firmware clusters and engines; the numbers a service function's registers name; the free shared pool).
[log: DESIGN CHOICE 22] -/
def regDefault (r : Reg) (inst : Nat) : Word64 :=
  let base := tableReset (regInfo r).fields
  BitVec.ofNat 64 <| match r with
  | .ARB_CLASS_S | .ARB_CLASS_W =>
    let c := inst % 8
    setBitsOf (setBitsOf base 26 24 c) 31 31 (b2n (c == 6 || c == 7))
  | .EN_STAT => setBitsOf base 28 28 (b2n (decide (inst < 64)))
  | .CL_STAT => setBitsOf base 31 31 (b2n (decide (inst < 4)))
  | .SF_ID => setBitsOf (setBitsOf (setBitsOf base 31 31 (b2n (inst % 1025 != 0))) 30 20 (inst % 1025)) 19 14 (inst / 1025)
  | .SF_DV_ID => setBitsOf base 5 0 inst
  | .XB_BUF_LOW => 169984
  | _ => base

/-- The stored value of a register instance. -/
def Dev.rget (s : Dev) (r : Reg) (inst : Nat) : Nat :=
  (tget (regDefault r inst) s.regs (regKey r inst)).toNat

/-- The store of a register instance. -/
def Dev.rset (s : Dev) (r : Reg) (inst v : Nat) : Dev :=
  { s with regs := tput (regDefault r inst) s.regs (regKey r inst) (BitVec.ofNat 64 v) }

/-- A field of a register instance. -/
def Dev.fget (s : Dev) (f : Fld) (inst : Nat) : Nat := bitsOf (s.rget f.reg inst) f.hi f.lo

/-- A field's bits that a write of 1 clears. -/
def Fld.isW1c (f : Fld) : Bool := (regInfo f.reg).fields.any fun g => g.acc == .RW1C && decide (g.lo ≤ f.lo) && decide (f.hi ≤ g.hi)

/-- Bits of a register that hardware sets: a write of 1 in the same core cycle does not clear them (R14). -/
def Dev.mark (s : Dev) (r : Reg) (inst bits : Nat) : Dev :=
  { s with cyc.set := if bits = 0 then s.cyc.set else tmod 0 s.cyc.set (regKey r inst) fun m => m ||| bits }

/-- The bits of a register instance that hardware has set in the present core cycle. -/
def Dev.marked (s : Dev) (r : Reg) (inst : Nat) : Nat := tget 0 s.cyc.set (regKey r inst)

/-- The store of one field of a register instance. -/
def Dev.fset (s : Dev) (f : Fld) (inst v : Nat) : Dev :=
  (s.rset f.reg inst (setBitsOf (s.rget f.reg inst) f.hi f.lo v)).mark f.reg inst (if f.isW1c then v * 2 ^ f.lo else 0)

/-- A one-bit field as a truth value. -/
def Dev.fbit (s : Dev) (f : Fld) (inst : Nat) : Bool := s.fget f inst == 1

/-- The register instance back at its reset value. -/
def Dev.rclear (s : Dev) (r : Reg) (inst : Nat) : Dev :=
  { s with regs := tdel s.regs (regKey r inst) }

/-- Several fields of one register instance. -/
def Dev.fsets (s : Dev) (inst : Nat) (l : List (Fld × Nat)) : Dev := each l s fun s p => s.fset p.1 inst p.2

/-- A counter of the layout of R621: COUNT wraps to 0 and sets OVF. -/
def Dev.count (s : Dev) (r : Reg) (inst n : Nat) : Dev :=
  let v := s.rget r inst
  let c := bitsOf v 47 0 + n
  (s.rset r inst (setBitsOf (if c < 2 ^ 48 then v else setBit v 63 true) 47 0 c)).mark r inst (if c < 2 ^ 48 then 0 else 2 ^ 63)

/-! Memory -/

/-- What an unlisted byte of LPDDR4X or SRAM reads as. [log: DESIGN CHOICE 8] -/
abbrev memEmpty : Byte := 0

/-- One byte of LPDDR4X at a usable address (R30). [log: DESIGN CHOICE 8] -/
def Dev.memByte (s : Dev) (a : Nat) : Byte := tget memEmpty s.mem a

/-- The bytes of LPDDR4X from an address. -/
def Dev.memRead (s : Dev) (a : Nat) : Nat → List Byte
  | 0 => []
  | n + 1 => s.memByte a :: s.memRead (a + 1) n

/-- A store of bytes in a table of bytes. -/
def bytesPut (m : Tbl Byte) (a : Nat) : List Byte → Tbl Byte
  | [] => m
  | b :: t => bytesPut (tput memEmpty m a b) (a + 1) t

/-- A store of bytes in LPDDR4X. -/
def Dev.memWrite (s : Dev) (a : Nat) (l : List Byte) : Dev := { s with mem := bytesPut s.mem a l }

/-! Free values -/

/-- A free number, and the switch with the counter advanced. [log: DESIGN CHOICE 5] -/
def Dev.freeNat (s : Dev) : Nat × Dev := (Config.freeNat s.free, { s with free := s.free + 1 })

/-! The outbox -/

/-- Something leaves the switch. [log: DESIGN CHOICE 4, DESIGN CHOICE 15] -/
def Dev.emit (s : Dev) (o : Out) : Dev := { s with out := s.out ++ [o] }

/-- A level of a contact changes. [log: DESIGN CHOICE 4, DESIGN CHOICE 202] -/
def Dev.pin (s : Dev) (name : String) (i : Nat) (level : Bool) : Dev := s.emit (.pin name i level)

/-! Objects -/

/-- The key of an object entry. -/
def objKey (idx sub : Nat) : Nat := idx * 256 + sub

/-- The number an object entry holds, or its default. -/
def Dev.onum (s : Dev) (idx sub dflt : Nat) : Nat :=
  match tfind s.objs (objKey idx sub) with
  | some (.num n) => n
  | _ => dflt

/-- The bytes an object entry holds, or its default. -/
def Dev.obytes (s : Dev) (idx sub : Nat) (dflt : List Byte) : List Byte :=
  match tfind s.objs (objKey idx sub) with
  | some (.bytes b) => b
  | _ => dflt

/-- The store of a number in an object entry. -/
def Dev.oset (s : Dev) (idx sub n : Nat) : Dev := { s with objs := tins s.objs (objKey idx sub) (.num n) }

/-- The store of bytes in an object entry. -/
def Dev.osetb (s : Dev) (idx sub : Nat) (b : List Byte) : Dev := { s with objs := tins s.objs (objKey idx sub) (.bytes b) }

/-! Events and the error log -/

/-- The event sources of R626. -/
abbrev evPort (n : Nat) : Nat := n
abbrev evArb (a : Nat) : Nat := 48 + a
abbrev evSched : Nat := 105
abbrev evControl : Nat := 106
abbrev evMgmt : Nat := 107
abbrev evTime : Nat := 108
abbrev evPower : Nat := 109
abbrev evSec : Nat := 110
abbrev evWear : Nat := 111
abbrev evCluster (c : Nat) : Nat := 112 + c
abbrev evEngine (e : Nat) : Nat := 128 + e
abbrev evSlot (k : Nat) : Nat := 384 + k
abbrev evMem (c : Nat) : Nat := 392 + c
/-- [log: DEDUCED 61] -/
abbrev evVs (v : Nat) : Nat := 396 + v
/-- [log: DEDUCED 61] -/
abbrev evGroup (g : Nat) : Nat := 768 + g
abbrev evProg (p : Nat) : Nat := 1024 + p
/-- [log: DEDUCED 61] -/
abbrev evVf (n : Nat) : Nat := 1279 + n

/-- The class of an event source (event_class, 0x9100 + j:i + 1). -/
def Dev.evtClass (s : Dev) (src : Nat) : Nat := s.onum (0x9100 + src / 128) (src % 128 + 1) 0

/-- The raise of an event source: its bit in TM_EVT_PEND (R626), and a raise to tell of where it has a class (R627). -/
def Dev.raise (s : Dev) (src : Nat) : Dev :=
  let w := s.rget .TM_EVT_PEND (src / 32)
  let s1 := (s.rset .TM_EVT_PEND (src / 32) (setBit w (src % 32) true)).mark .TM_EVT_PEND (src / 32) (2 ^ (src % 32))
  if 8 ≤ s.evtClass src ∧ s.evtClass src ≤ 63 then
    { s1 with tel.evt := tmod ({} : EvtNote) s1.tel.evt src fun e =>
        { e with count := e.count + 1, first := if e.count = 0 then s.ftime else e.first } }
  else s1

/-- Where the error log stands in LPDDR4X: the base of its region (R30, R628). [log: DESIGN CHOICE 21] -/
abbrev elogBase : Nat := 0xC0000000

/-- A record of the error log (R628). [log: DESIGN CHOICE 21, DEDUCED 207] -/
def Dev.logError (s : Dev) (code source data0 data1 : Nat) : Dev :=
  let rec_ := leBytes 8 s.ftime ++ leBytes 4 s.tel.elogN ++ leBytes 2 source ++ leBytes 2 code
    ++ leBytes 8 data0 ++ leBytes 8 data1
  let s1 := s.memWrite (elogBase + 32 * (s.tel.elogN % 4096)) rec_
  { s1 with tel.elogN := s.tel.elogN + 1, tel.elogKept := min 4096 (s.tel.elogKept + 1) }

/-! First-event records (R722) -/

/-- An event at a first-event record: its details when none is held, else MORE where the record has one; the details are kept for the
rest of the core cycle, in case the record is cleared in it. -/
def Dev.firstEvent (s : Dev) (valid : Fld) (more : Option Fld) (inst : Nat) (details : List (Fld × Nat)) : Dev :=
  if s.fbit valid inst then
    let s := { s with cyc.evts := tins s.cyc.evts (regKey valid.reg inst) ((valid, 1) :: details) }
    match more with
    | some m => s.fset m inst 1
    | none => s
  else (s.fset valid inst 1).fsets inst details

/-! Regions of LPDDR4X (R29, R30) -/

/-- [log: DEDUCED 11] -/
abbrev memTop : Nat := 0x380000000

/-- The regions of R30: base, end, owner, the planes that may read beside the owner. -/
def memRegions : List (Nat × Nat × Plane × List Plane) :=
  [(0, 0x40000000, .management, [.control, .data]), (0x40000000, 0x60000000, .data, [.management]),
   (0x60000000, 0x80000000, .data, [.management]), (0x80000000, 0xC0000000, .data, [.management]),
   (0xC0000000, 0xE0000000, .management, [.control]), (0xE0000000, 0xF0000000, .control, [.management]),
   (0xF0000000, memTop, .data, [.management])]

/-- Whether a plane may access a region (R29). -/
def regionOpen (p : Plane) (write : Bool) (g : Nat × Nat × Plane × List Plane) : Bool :=
  g.2.2.1 == p || (!write && g.2.2.2.contains p)

/-- The code of the first region an access touches and may not, and the first address in it. [log: DEDUCED 28] -/
def memBlocked (p : Plane) (write : Bool) (addr n : Nat) : Option (Nat × Nat) :=
  (List.range 7).findSome? fun k => match memRegions[k]? with
    | some g => if addr < g.2.1 ∧ g.1 < addr + n ∧ ¬ regionOpen p write g then some (k, max addr g.1) else none
    | none => none

/-- The plane codes of TM_MEM_VIOL (R632). -/
def planeCode : Plane → Nat
  | .data => 0
  | .control => 1
  | .management => 2

/-- A blocked access, recorded at the channel concerned; which channel an address belongs to the spec does not state: a free value.
[log: DEDUCED 28] -/
def Dev.memViolation (s : Dev) (p : Plane) (write : Bool) (region addr : Nat) : Dev :=
  let (x, s1) := s.freeNat
  s1.firstEvent Fld.TM_MEM_VIOL.VALID (some Fld.TM_MEM_VIOL.MORE) (x % 4)
    [(Fld.TM_MEM_VIOL.PLANE, planeCode p), (Fld.TM_MEM_VIOL.WRITE, b2n write), (Fld.TM_MEM_VIOL.REGION, region), (Fld.TM_MEM_VIOL.ADDR, addr)]

/-- A write by a plane's own hardware: blocked and recorded outside the regions it may write (R29). -/
def Dev.planeMemWrite (s : Dev) (p : Plane) (addr : Nat) (b : List Byte) : Dev :=
  match memBlocked p true addr b.length with
  | some (k, a) => s.memViolation p true k a
  | none => s.memWrite addr b

/-! Cut records -/

/-- The counters of a cut record, in increasing counter ID (R623). [log: DEDUCED 177] -/
def cutCounters : List (Reg × Nat) :=
  let one : List Reg → List (Reg × Nat) := fun l => l.map fun r => (r, 0)
  let insts : Nat → List Reg → List (Reg × Nat) := fun n l => (List.range n).flatMap fun i => l.map fun r => (r, i)
  insts 8 [.XB_DROP_CNT]
    ++ one [.XB_SYNTH_CNT, .XB_FLATE_CNT, .XB_EXPIRE_CNT, .XB_PERR_LOST_CNT, .XB_LOCK_BRK_CNT, .XB_MW_RETRY_CNT, .XB_QREL_CNT]
    ++ insts 57 [.ARB_DEAD_CNT] ++ insts 57 [.ARB_CUT_CNT]
    ++ one [.SCH_SMP_SKIP_CNT, .SCH_SMP_LOST_CNT] ++ insts 48 [.SCH_GATE_OVR_CNT]
    ++ insts 192 [.LN_FEC_RX, .LN_FEC_SYM, .LN_FEC_UNC]
    ++ insts 48 [.BL_REPLAY_CNT, .BL_BAD_CNT, .BL_GAP_CNT, .BL_DUP_CNT, .BL_RESET_CNT, .BL_PROTO_CNT]
    ++ one [.RT_LEAK_CNT, .RT_UNTOK_CNT, .RT_OVERRUN_CNT, .RT_DIR_DROP]
    ++ one [.DL_DUP_CNT, .DL_WIN_CNT, .DL_RESEND_CNT, .DL_GIVEUP_CNT, .DL_LIFE_CNT, .DL_FENCE_CNT, .DL_LATE_CNT, .DL_DISTURB_CNT,
            .DL_STALE_EP_CNT, .DL_TREE_DROP_CNT]
    ++ one [.CL_COLL_DONE_CNT, .CL_COLL_ABORT_CNT, .CL_COLL_STALE_CNT]
    ++ insts 16 [.CL_ACC_CNT, .CL_HEADROOM_CNT] ++ insts 256 [.EN_OP_CNT, .EN_CYC_CNT] ++ insts 48 [.TM_PORT_RXB, .TM_PORT_TXB]
    ++ one [.TM_REJ_WR_CNT, .TM_CORE_CE_CNT]

/-- The latch records of a list of counters from an ID on (R623). [log: DEDUCED 177] -/
def Dev.latchRecords (s : Dev) (id : Nat) : List (Reg × Nat) → List Byte
  | [] => []
  | c :: t => leBytes 8 (s.rget c.1 c.2) ++ leBytes 2 id ++ [0, 0] ++ leBytes 4 (s.fget Fld.DL_DEAL_EPOCH.EPOCH 0)
      ++ s.latchRecords (id + 1) t

/-- Where this switch's last cut record stands: after the journal in region 5 (R30). [log: PRESUMED 96] -/
abbrev cutBase : Nat := 0xE0200000
/-- A counter of the cut record latched anew when the cut's marker passes its counting point behind flits that were queued ahead of it
(R35, R448). [log: DEDUCED 221] -/
def Dev.relatch (s : Dev) (r : Reg) (inst : Nat) : Dev :=
  if s.dl.cutActive then
    let k := cutCounters.findIdx fun c => c.1 == r && c.2 == inst
    s.memWrite (cutBase + 256 + 16 * k) (leBytes 8 (s.rget r inst))
  else s

/-! Ports, roles and clocks -/

/-- The core cycle number counted from the last entry to BOOT (R104). -/
def Dev.cycle (s : Dev) : Nat := (s.now - s.bootAt) / 4

/-- A fabric reset has been performed in the present core cycle: a narrower reset that begins in it is discarded (R691).
[log: DEDUCED 235] -/
def Dev.resetNow (s : Dev) : Bool := s.dl.resetCycle == some s.cycle

/-- A port's role: 0 host, 1 device, 2 fabric, 3 none (port_role, 0x4000 + n:02). -/
def Dev.role (s : Dev) (n : Nat) : Nat := s.onum (0x4000 + n) 2 3

/-- A port's enable (port_enable, 0x4000 + n:01). -/
def Dev.enabled (s : Dev) (n : Nat) : Bool := decide (n < 48) && s.onum (0x4000 + n) 1 0 == 1

/-- A port's configured width (port_width, 0x4000 + n:03). -/
def Dev.width (s : Dev) (n : Nat) : Nat := s.onum (0x4000 + n) 3 (if n % 4 = 0 then 16 else 0)

/-- The ports 0 to 47. -/
def extPorts : List Nat := List.range 48

def Dev.isHost (s : Dev) (n : Nat) : Bool := decide (n < 48) && s.role n == 0
def Dev.isDevice (s : Dev) (n : Nat) : Bool := decide (n < 48) && s.role n == 1
def Dev.isFabric (s : Dev) (n : Nat) : Bool := decide (n < 48) && s.role n == 2

/-- Whether a virtual switch exists: its host port is named and has the role of one (R181). -/
def Dev.vsExists (s : Dev) (v : Nat) : Bool :=
  decide (v < 48) && s.fbit Fld.PCI_VS_CFG.HPV v && s.role (s.fget Fld.PCI_VS_CFG.HOST_PORT v) == 0

/-- The host port of a virtual switch that exists. -/
def Dev.hostPort (s : Dev) (v : Nat) : Nat := s.fget Fld.PCI_VS_CFG.HOST_PORT v

/-- The virtual switch whose host port a port is (R49, R181). -/
def Dev.vsOfHost (s : Dev) (n : Nat) : Option Nat :=
  (List.range 48).find? fun v => s.vsExists v && s.hostPort v == n

/-- Whether the switch has joined a fabric (R338), and its FSID. -/
def Dev.joined (s : Dev) : Bool := s.fbit Fld.RT_ID.JOINED 0
def Dev.fsid (s : Dev) : Nat := s.fget Fld.RT_ID.FSID 0

/-- The GPA of a port of this switch (R337). -/
def Dev.gpa (s : Dev) (n : Nat) : Nat := s.fsid * 64 + n

/-- The FSID and port of a GPA. -/
abbrev gpaFsid (g : Nat) : Nat := g / 64
abbrev gpaPort (g : Nat) : Nat := g % 64

/-- Whether the link of a Brorna port is ACTIVE (R299): state code 5. -/
def Dev.blActive (s : Dev) (n : Nat) : Bool := s.isFabric n && s.fget Fld.BL_STAT.STATE n == 5

/-- The active parity (R434). -/
def Dev.ap (s : Dev) : Nat := s.fget Fld.DL_DEAL_STAT.AP 0

/-- A control packet sent from port 52 (R387, TYPE 0b11), left in the outbox. [log: DESIGN CHOICE 15] -/
def Dev.ctlPacket (s : Dev) (dgpa : Nat) (b : List Byte) : Dev :=
  s.emit (.packet 52 dgpa 0 0 .control (.ctl b))

/-- A field of BL_BRINGUP as a port's bring-up began with it (R336). -/
def BlPort.bring (b : BlPort) (f : Fld) : Nat := bitsOf b.bringup f.hi f.lo

/-! Packets -/

/-- A packet of the core by its number. -/
def Dev.pkt? (s : Dev) (pid : Nat) : Option Pkt := tfind s.fwd.pkts pid

/-- The store of a packet. -/
def Dev.putPkt (s : Dev) (pid : Nat) (p : Pkt) : Dev := { s with fwd.pkts := tins s.fwd.pkts pid p }

/-- Cells returned to a requester port's shelf pool (R384). -/
def Dev.shelfReturn (s : Dev) (port n : Nat) : Dev :=
  s.fset Fld.RT_SHELF_USE.RESV port (s.fget Fld.RT_SHELF_USE.RESV port - n)

/-- The packet leaves the tables; the shelf cells of flits that have not passed the crossbar return to their pool. -/
def Dev.delPkt (s : Dev) (pid : Nat) : Dev :=
  let s1 := { s with fwd.pkts := tdel s.fwd.pkts pid }
  match s.pkt? pid with
  | some p => if p.passed < p.shelved then s1.shelfReturn p.egr (p.shelved - p.passed) else s1
  | none => s1

/-- Whether an egress port is contained (R85). -/
def Dev.isContained (s : Dev) (n : Nat) : Bool := s.fwd.contained.testBit n

end Sys2Proof.Machine
end

