-- ==== Sys2Proof/Machine/Halves.lean ====
section
/-! DEFINITION. The two halves of the tables (RT_, layout of a half): their words, and the route, hand, trunk, binding and
window entries and the deal parameters read from them; the next-hop hash and choice (R355, R356). -/
namespace Sys2Proof.Machine

/-- What an unwritten word of a half reads as: SEED is 0xFFFF (RT_HALF_CTRL), every other word 0. -/
def halfDefault (off : Nat) : Word32 := if off = 0 then 0xFFFF0000 else 0

/-- The words of the half of parity p. -/
def Dev.half (s : Dev) (p : Nat) : Tbl Word32 := if p % 2 = 0 then s.rt.half0 else s.rt.half1

/-- The word at a byte offset of the half of parity p. -/
def Dev.hword (s : Dev) (p off : Nat) : Nat := (tget (halfDefault (off / 4 * 4)) (s.half p) (off / 4 * 4)).toNat

/-- The store of a word of the half of parity p. -/
def Dev.setHword (s : Dev) (p off v : Nat) : Dev :=
  let o := off / 4 * 4
  if p % 2 = 0 then { s with rt.half0 := tput (halfDefault o) s.rt.half0 o (BitVec.ofNat 32 v) }
  else { s with rt.half1 := tput (halfDefault o) s.rt.half1 o (BitVec.ofNat 32 v) }

/-- `n` words of a half as one little-endian number. -/
def Dev.hwords (s : Dev) (p off : Nat) : Nat → Nat
  | 0 => 0
  | n + 1 => s.hword p off + 2 ^ 32 * s.hwords p (off + 4) n

/-- A list without the elements equal to their successor. -/
def dedupAdj (l : List Nat) : List Nat :=
  l.foldr (fun x acc => if acc.head? = some x then acc else x :: acc) []

/-- The entries of a table of which a half lists a word; every other entry is all zero, so not VALID. -/
def listedEntries (t : Tbl Word32) (base size count : Nat) : List Nat :=
  dedupAdj (t.filterMap fun e => if base ≤ e.1 ∧ e.1 < base + size * count then some ((e.1 - base) / size) else none)

abbrev offShelf : Nat := 0x100
abbrev offRoute : Nat := 0x4000
abbrev offHand : Nat := 0x8000
abbrev offTrunk : Nat := 0xA000
abbrev offBind : Nat := 0x10000
abbrev offWin : Nat := 0x20000
abbrev offDeal : Nat := 0xA0000

/-- RT_HALF_CTRL: SEED, NOTICE_ACK, TURN and a port's turn class (0 EDGE for ports that are not fabric ports, R349). -/
def Dev.seed (s : Dev) (p : Nat) : Nat := bitsOf (s.hword p 0) 31 16
def Dev.noticeAck (s : Dev) (p : Nat) : Nat := bitsOf (s.hword p 0) 15 0
def Dev.turn (s : Dev) (p : Nat) : Nat := bitsOf (s.hword p 0x10) 15 0
def Dev.turnClass (s : Dev) (p n : Nat) : Nat :=
  if s.isFabric n then bitsOf (s.hword p (4 + 4 * (n / 16))) (2 * (n % 16) + 1) (2 * (n % 16)) else 0

/-- Whether a turn from an ingress class to an egress class is forbidden (R349, R350): 1 is UP, 3 LATERAL. -/
def turnForbidden (turn i e : Nat) : Bool :=
  ((i == 1 || i == 3) && (e == 1 || e == 3)) || turn.testBit (4 * i + e)

/-- The shelf pool of a requester port, and the hand entry's HELD and GRANT (R369, R383). -/
def Dev.shelfSize (s : Dev) (p n : Nat) : Nat := bitsOf (s.hword p (offShelf + 4 * n)) 13 0
def Dev.handHeld (s : Dev) (p f : Nat) : Nat := bitsOf (s.hword p (offHand + 4 * f)) 15 8
def Dev.handGrant (s : Dev) (p f : Nat) : Nat := bitsOf (s.hword p (offHand + 4 * f)) 7 0

/-- A window entry (R359). -/
structure Window where
  base : Nat
  limit : Nat
  tbase : Nat
  dgpa : Nat
  vs : Nat
  valid : Bool
  attr : Nat
  pf : Bool
  dflt : Bool
  deriving DecidableEq, Repr

def Dev.window (s : Dev) (p i : Nat) : Window :=
  let w := s.hwords p (offWin + 32 * i) 8
  { base := bitsOf w 255 204, limit := bitsOf w 203 152, tbase := bitsOf w 151 100, dgpa := bitsOf w 99 83,
    vs := bitsOf w 82 77, valid := bitOf w 76, attr := bitsOf w 75 75, pf := bitOf w 74, dflt := bitOf w 73 }

/-- The valid windows of a half. -/
def Dev.windows (s : Dev) (p : Nat) : List Window :=
  ((listedEntries (s.half p) offWin 32 16384).map (s.window p)).filter (·.valid)

/-- A function binding entry (R364). -/
structure Binding where
  valid : Bool
  vs : Nat
  vdsp : Nat
  dgpa : Nat
  hgpa : Nat
  deriving DecidableEq, Repr

def Dev.binding (s : Dev) (p i : Nat) : Binding :=
  let w := s.hwords p (offBind + 16 * i) 4
  { valid := bitOf w 127, vs := bitsOf w 126 121, vdsp := bitsOf w 120 113, dgpa := bitsOf w 112 96, hgpa := bitsOf w 95 79 }

/-- The valid bindings of a half. -/
def Dev.bindings (s : Dev) (p : Nat) : List Binding :=
  ((listedEntries (s.half p) offBind 16 4096).map (s.binding p)).filter (·.valid)

/-- The binding of a vDSP of a VS; the binding of a device port of this switch; some binding of a VS (its HGPA). -/
def Dev.bindOf (s : Dev) (p vs n : Nat) : Option Binding := (s.bindings p).find? fun b => b.vs == vs && b.vdsp == n
def Dev.bindAt (s : Dev) (p port : Nat) : Option Binding := (s.bindings p).find? fun b => b.dgpa == s.gpa port
def Dev.bindVs (s : Dev) (p vs : Nat) : Option Binding := (s.bindings p).find? fun b => b.vs == vs

/-- The GPA of the host port of a VS: this switch's own port where it carries it, else the HGPA of a binding (R364). -/
def Dev.hgpa (s : Dev) (p vs : Nat) : Option Nat :=
  if s.vsExists vs then some (s.gpa (s.hostPort vs)) else (s.bindVs p vs).map (·.hgpa)

/-- A route entry's next hop: the FROM mask, whether it is a trunk, and its number (R353). -/
structure NextHop where
  from_ : Nat
  trunk : Bool
  num : Nat
  deriving DecidableEq, Repr

def nextHopOf (x : Nat) : NextHop := { from_ := bitsOf x 10 7, trunk := bitOf x 6, num := bitsOf x 5 0 }

/-- A route entry: VALID and its configured next hops in order. -/
def Dev.route (s : Dev) (p f : Nat) : Bool × List NextHop :=
  let w := s.hwords p (offRoute + 8 * f) 2
  (bitOf w 63, (List.range (bitsOf w 57 56 + 1)).map fun k => nextHopOf (bitsOf w (11 * k + 10) (11 * k)))

/-- A trunk entry: VALID, its present members as pairs of member index and port, and its buckets' member indices. -/
def Dev.trunkWord (s : Dev) (p t : Nat) : Nat := s.hwords p (offTrunk + 32 * t) 8
def trunkValid (w : Nat) : Bool := bitOf w 255
def trunkMembers (w : Nat) : List (Nat × Nat) :=
  (List.range 8).filterMap fun m =>
    if bitOf w (7 * m + 198) then some (m, bitsOf w (7 * m + 197) (7 * m + 192)) else none
def trunkBucket (w j : Nat) : Nat := bitsOf w (3 * j + 2) (3 * j)

/-- One step of the CRC-16 with polynomial x^16 + x^12 + x^5 + 1, most significant bit first (R355). -/
def crc16Bit (crc : Nat) (b : Bool) : Nat :=
  let top := crc.testBit 15 != b
  let sh := crc * 2 % 65536
  if top then sh ^^^ 0x1021 else sh

/-- The CRC-16 over the `n` low bits of a key, most significant first. -/
def crc16 (crc key : Nat) : Nat → Nat
  | 0 => crc
  | n + 1 => crc16 (crc16Bit crc (key.testBit n)) key n

/-- The next-hop hash of R355. [log: DEDUCED 81] -/
def hopHash (seed oc sgpa dgpa : Nat) : Nat := crc16 seed ((oc * 131072 + sgpa) * 131072 + dgpa) 40

/-- An admitted member of a trunk is ACTIVE and was not kept out (R332). -/
def Dev.memberUp (s : Dev) (port : Nat) : Bool := s.blActive port && !s.bl.trunkOut.testBit port

/-- The next hops as they are now. [log: DEDUCED 81, DEDUCED 233] -/
def Dev.hopsNow (s : Dev) : HopsAt :=
  { cycle := s.cycle, active := extPorts.foldl (fun m n => setBit m n (s.blActive n)) 0, ports := s.rt.suspPorts,
    trunks := s.rt.suspTrunks, bkt := s.bl.bktSub }

/-- The next hops as the present core cycle began with them (R358). -/
def Dev.hopsStart (s : Dev) : HopsAt :=
  match s.rt.hopsAt with
  | some u => if u.cycle = s.cycle then u else s.hopsNow
  | none => s.hopsNow

/-- The next hops noted before a link enters or leaves ACTIVE. -/
def Dev.noteHops (s : Dev) : Dev := { s with rt.hopsAt := some s.hopsStart }

/-- A member that carries traffic of its trunk. -/
def Dev.memberIn (s : Dev) (u : HopsAt) (port : Nat) : Bool := u.active.testBit port && !s.bl.trunkOut.testBit port

/-- A usable next hop (R356, R357). -/
def Dev.usable (s : Dev) (u : HopsAt) (p : Nat) (h : NextHop) : Bool :=
  if h.trunk then !u.trunks.testBit h.num && (trunkMembers (s.trunkWord p h.num)).any fun m => s.memberIn u m.2
  else u.active.testBit h.num && !u.ports.testBit h.num

/-- The first list element from position i on, cyclically, that a test accepts. [log: DEDUCED 81] -/
def pickFrom {α : Type} (l : List α) (i : Nat) (ok : α → Bool) : Option α := (l.drop i ++ l.take i).find? ok

/-- The member a bucket of a trunk uses: its own while that is ACTIVE and it has no substitute, else the next ACTIVE member
in member order (R333, R334); a substitute stays until the next deal (`bktSub`, keyed trunk × 64 + bucket). [log: DEDUCED 81] -/
def Dev.trunkPort (s : Dev) (u : HopsAt) (p t bkt : Nat) : Option Nat :=
  let w := s.trunkWord p t
  let ms := trunkMembers w
  let own := (tfind u.bkt (t * 64 + bkt)).getD (trunkBucket w bkt)
  let rot := (ms.filter fun m => m.1 ≥ own) ++ ms.filter fun m => m.1 < own
  (rot.find? fun m => s.memberIn u m.2).map (·.2)

/-- The egress port the route entry of a destination gives a packet of an ingress class (R356), by the next hops given; none: reason
0x03. [log: DEDUCED 81] -/
def Dev.pickHop (s : Dev) (u : HopsAt) (p icls oc sgpa dgpa : Nat) : Option Nat :=
  let (valid, hops) := s.route p (gpaFsid dgpa)
  let l := hops.filter fun h => h.from_.testBit icls
  if !valid || l.isEmpty then none else
  let h := hopHash (s.seed p) oc sgpa dgpa
  let i := (h % 256) * l.length / 256
  match pickFrom l i (s.usable u p) with
  | none => none
  | some nh => if nh.trunk then s.trunkPort u p nh.num (bitsOf h 13 8) else some nh.num

/-- The deal parameters of a half (R728). -/
def Dev.dealWord (s : Dev) (p off : Nat) : Nat := s.hword p (offDeal + off)
def Dev.dealFsv (s : Dev) (p : Nat) : Bool := bitOf (s.dealWord p 0) 31
def Dev.dealFsid (s : Dev) (p : Nat) : Nat := bitsOf (s.dealWord p 0) 10 0
def Dev.dealDlc (s : Dev) (p : Nat) : Bool := bitOf (s.dealWord p 4) 0
def Dev.dealTree (s : Dev) (p : Nat) : Bool := bitOf (s.dealWord p 4) 1
def Dev.dealCount (s : Dev) (p : Nat) : Nat := s.dealWord p 0x100
def Dev.dealEntry (s : Dev) (p i : Nat) : Nat × Nat := (s.dealWord p (0x108 + 8 * i), s.dealWord p (0x10C + 8 * i))

end Sys2Proof.Machine
end

