-- ==== Sys2Proof/Machine/Buffer.lean ====
section
/-! DEFINITION. The shared buffer: regions and their sizes (R76 to R83), the cells packets hold, placement of arriving flits
(R81, R723), queue depths, and the computed register values that follow from them. -/
namespace Sys2Proof.Machine

/-- Cells of the shared buffer (R76). -/
abbrev bufCells : Nat := 196608

/-- A sum over a list. -/
def sumOf {α : Type} (l : List α) (f : α → Nat) : Nat := l.foldl (fun n x => n + f x) 0

/-- Whether old-parity traffic may still be in the switch: the deal state is DRAINING or DRAINED (R373). -/
def Dev.inTransition (s : Dev) : Bool := decide (2 ≤ s.fget Fld.DL_DEAL_STAT.STATE 0)

/-- The FSIDs whose hand entry some half lists. -/
def Dev.handFsids (s : Dev) (p : Nat) : List Nat := listedEntries (s.half p) offHand 4 2048

/-- Tokens granted under one half, and under both at the larger value of each source (R373). -/
def Dev.grantSum (s : Dev) (p : Nat) : Nat := sumOf (s.handFsids p) (s.handGrant p)
def Dev.grantMax (s : Dev) : Nat :=
  sumOf (s.handFsids 0) (fun f => max (s.handGrant 0 f) (s.handGrant 1 f)) +
    sumOf ((s.handFsids 1).filter fun f => !(s.handFsids 0).contains f) (s.handGrant 1)

/-- The shelf pools of one half together (R383). -/
def Dev.shelfSum (s : Dev) (p : Nat) : Nat := sumOf (List.range 53) (s.shelfSize p)
def Dev.shelfMax (s : Dev) : Nat := sumOf (List.range 53) fun n => max (s.shelfSize 0 n) (s.shelfSize 1 n)

/-- The token cells of the non-posted staging region, and the completion region, now. -/
def Dev.npTokenSize (s : Dev) : Nat := if s.inTransition then s.grantMax else s.grantSum s.ap
def Dev.completionSize (s : Dev) : Nat := if s.inTransition then s.shelfMax else s.shelfSum s.ap

/-- The port reserves together. -/
def Dev.reserveSum (s : Dev) : Nat := sumOf extPorts fun n => s.fget Fld.XB_PORT_CTRL.RSV n

/-- The size the shared pool has under given staging and completion sizes: the remainder of R76. -/
def Dev.poolUnder (s : Dev) (np cpl : Nat) : Nat := bufCells - (np + 1024 + cpl + 1024 + s.reserveSum)
def Dev.poolSize (s : Dev) : Nat := s.poolUnder s.npTokenSize s.completionSize

/-- The cells of one region that flits hold, freed ones until the next core cycle (R83). -/
def cellsIn (p : Pkt) (r : Region) : Nat := (p.cells.filter fun c => c.region == r).length
def Dev.used (s : Dev) (r : Region) : Nat :=
  (sumOf s.fwd.pkts fun e => cellsIn e.2 r) + (s.fwd.freed.filter fun f => f.region == some r).length
def Dev.usedBy (s : Dev) (r : Region) (port : Nat) : Nat :=
  (sumOf (s.fwd.pkts.filter fun e => e.2.port == port) fun e => cellsIn e.2 r) +
    (s.fwd.freed.filter fun f => f.region == some r && f.port == port).length

/-- Flits of a packet that have no cell and may need one: those still to be granted or written, and those granted on the bypass route
until their data phase (R88, R89, R119). The flits of a packet sent again come from the replay buffer (R426).
[log: DEDUCED 14] -/
def Pkt.homeless (p : Pkt) : Nat := if p.suffix then p.fresh.length else p.arrived - p.passed - p.cells.length

/-- Flits within a port's credit that hold no cell: of packets of which decode or lookup is to come, and those of packets placed under
R81. A flit of a region of its own returns its credit once that is known (R724). -/
def Dev.arriving (s : Dev) (n : Nat) : Nat :=
  sumOf (tget {} s.bl.ports n).inbox (fun x => x.flits) +
    sumOf (s.fwd.pkts.filter fun e => e.2.port == n && (e.2.stage == .decoded || e.2.own.isNone)) fun e => e.2.homeless

/-- Credit a port has advertised and its partner has not used: in the data pools of a fabric port, in cells at a PCI Express port
(R724). [log: PRESUMED 39] -/
def Dev.creditGiven (s : Dev) (n : Nat) : Nat :=
  if s.isFabric n then
    sumOf [0, 1, 2] fun i => ((tget {} s.bl.ports n).rxLimit.getD i 0 + 65536 - (tget {} s.bl.ports n).rxUsed.getD i 0) % 65536
  else tget 0 s.fwd.pciGiven n - tget 0 s.fwd.pciTaken n

/-- The cells that a port's outstanding credit stands for. [log: PRESUMED 39] -/
def Dev.creditOut (s : Dev) (n : Nat) : Nat := s.arriving n + s.creditGiven n

/-- The free cells of a port's reserve, and the pool cells its outstanding credit stands for. -/
def Dev.reserveFree (s : Dev) (n : Nat) : Nat := s.fget Fld.XB_PORT_CTRL.RSV n - s.usedBy .reserve n
def Dev.poolCredit (s : Dev) (n : Nat) : Nat := s.creditOut n - s.reserveFree n

/-- The ports that may have credit outstanding. -/
def Dev.creditPorts (s : Dev) : List Nat :=
  extPorts.filter fun n => (tfind s.bl.ports n).isSome || (tfind s.fwd.pciGiven n).isSome

/-- Pool cells no flit holds, and pool cells that are free in the sense of R724. -/
def Dev.poolOpen (s : Dev) : Nat := s.poolSize - s.used .pool
def Dev.poolFree (s : Dev) : Nat := s.poolOpen - sumOf s.creditPorts s.poolCredit

/-- XB_BUF_LOW follows the least number of free shared-pool cells. [log: DESIGN CHOICE 22] -/
def Dev.lowWater (s : Dev) : Dev :=
  if s.poolFree < s.fget Fld.XB_BUF_LOW.CELLS 0 then s.fset Fld.XB_BUF_LOW.CELLS 0 s.poolFree else s

/-- The depth in cells of the egress queue of a port and core class (R135). -/
def Dev.qdepth (s : Dev) (n c : Nat) : Nat :=
  sumOf (s.fwd.pkts.filter fun e => e.2.egr == n && e.2.cc == c && e.2.stage == .queued) fun e => e.2.cells.length

/-- The largest depth of a queue in the sampling period follows its depth (R161). -/
def Dev.sampleDepth (s : Dev) (n c : Nat) : Dev :=
  if n < 48 ∧ s.fbit Fld.SCH_SMP_CTRL.EN 0 then
    { s with sch.smp := tmod {} s.sch.smp (8 * n + c) fun q => { q with depthMax := max q.depthMax (s.qdepth n c) } }
  else s

/-- The cells queued for an egress port. -/
def Dev.egrCells (s : Dev) (n : Nat) : Nat :=
  sumOf (s.fwd.pkts.filter fun e => e.2.egr == n && e.2.stage == .queued) fun e => e.2.cells.length

/-- The region of its own that a packet's flits wait for (R723), or none: placed under R81. -/
def ownRegion (p : Pkt) (here completionShelf : Bool) : Option Region :=
  if p.port == 52 then some .management else
  match p.typ with
  | .marker => some .management
  | .nonPosted =>
    if here && p.arrEnv.isNone then some .npLocal
    else if here && ((p.arrEnv.map (·.tok)).getD false) then some .npToken
    else none
  | .completion => if completionShelf then some .completion else none
  | _ => none

/-- Whether a region has a free cell. -/
def Dev.regionOpen (s : Dev) : Region → Bool
  | .npLocal => decide (s.used .npLocal < 1024)
  | .npToken => decide (s.used .npToken < s.npTokenSize)
  | .completion => decide (s.used .completion < s.completionSize)
  | .management => decide (s.used .management < 1024)
  | .reserve => false
  | .pool => decide (0 < s.poolOpen)

/-- Some bank of the buffer may be written: the hatch of its write port is open (R96, R128). -/
def Dev.writeOpen (s : Dev) : Bool :=
  (List.range 32).any fun b => !(s.fbit Fld.ARB_HATCH.MGMT (17 + b) || s.fbit Fld.ARB_HATCH.CTRL (17 + b))

/-- The cell an arriving flit takes: of its own region, else its port's reserve, else the pool (R81, R723). [log: DEDUCED 14] -/
def Dev.cellFor (s : Dev) (p : Pkt) (own : Option Region) : Option Region :=
  match own with
  | some r => if s.regionOpen r then some r else none
  | none => if 0 < s.reserveFree p.port ∧ p.port < 48 then some .reserve else if 0 < s.poolOpen then some .pool else none

/-- A cell for the next flit of a packet, written in a core cycle; a tokened request that finds the staging region full is a hand
overrun and takes a cell as a posted flit would (R378). None free: the flit waits (R723). [log: DEDUCED 14] -/
def Dev.writeFlit (s : Dev) (pid : Nat) (p : Pkt) (at_ : Nat) : Option Dev :=
  let put := fun (s : Dev) (own : Option Region) =>
    (s.cellFor p own).map fun r => s.putPkt pid
      { p with placed := p.placed + 1, fresh := p.fresh.drop 1, own := own, cells := p.cells ++ [{ idx := p.placed, region := r, at_ := at_ }] }
  if ¬ s.writeOpen then none
  else if p.own = some .npToken ∧ ¬ s.regionOpen .npToken then
    put (((s.count .RT_OVERRUN_CNT 0 1).fset Fld.RT_STAT.OVERRUN 0 1).raise evControl) none
  else put s p.own

/-- The flits of a packet whose time on the bypass route is over are written to the buffer: in the third core cycle after their lookup,
in which the write port reserved for them stands (R88, R89), or as soon as a cell is free. [log: DEDUCED 14] -/
def Dev.writePkt (s : Dev) (pid : Nat) : Nat → Dev
  | 0 => s
  | n + 1 =>
    match s.pkt? pid with
    | none => s
    | some p =>
      match p.fresh with
      | f :: _ =>
        if s.cycle < f + 3 ∨ p.stage = .decoded then s
        else match s.writeFlit pid p s.cycle with
          | some s1 => (s1.sampleDepth p.egr p.cc).writePkt pid n
          | none => s
      | [] => s

/-- Every flit whose time on the bypass route is over. -/
def Dev.writeFresh (s : Dev) : Dev := each s.fwd.pkts s fun s e => s.writePkt e.1 e.2.fresh.length

end Sys2Proof.Machine
end

