-- ==== Sys2Proof/Machine/Lanes.lean ====
section
/-! DEFINITION. Lanes (R259 to R285): the equalisation table and its entries, application points, the watch, temperature
shifts, PRBS31 tests. -/
namespace Sys2Proof.Machine

def Dev.lane (s : Dev) (i : Nat) : Lane := tget {} s.ln.lane i
def Dev.modLane (s : Dev) (i : Nat) (f : Lane → Lane) : Dev := { s with ln.lane := tmod {} s.ln.lane i f }

/-- The lanes of a port by its width: 16 to a bank, four to a port number of the bank (R43 to R46). -/
def Dev.lanesOf (s : Dev) (n : Nat) : List Nat := (List.range (s.width n)).map fun l => 16 * (n / 4) + 4 * (n % 4) + l

/-- The port a lane belongs to: the highest port number of its bank at or below the lane whose width reaches it. -/
def Dev.portOfLane (s : Dev) (i : Nat) : Option Nat := extPorts.find? fun n => (s.lanesOf n).contains i

/-! The table -/

/-- The copy in force (R261). -/
def Dev.eqImage (s : Dev) : List Byte :=
  if s.fbit Fld.LN_TBL_STAT.VALID 0 then (if s.fbit Fld.LN_TBL_STAT.COPY 0 then s.ln.eqB else s.ln.eqA) else []

/-- The slot of a rate code (table "Rate slots"), and the rate code of a slot. -/
def slotOfRate (rate : Nat) : Option Nat :=
  if 2 ≤ rate ∧ rate ≤ 6 then some (rate - 2) else if rate = 0x15 then some 5 else if rate = 0x16 then some 6 else none

/-- The 64 bytes of an entry of an image (R260). -/
def entryBytes (img : List Byte) (bank lane slot : Nat) : List Byte := (img.drop (256 + 64 * (112 * bank + 7 * lane + slot))).take 64

def byteN (l : List Byte) (i : Nat) : Nat := ((l[i]?).map (·.toNat)).getD 0
def byteS (l : List Byte) (i : Nat) : Int := signedOf 8 (byteN l i)
def wordN (l : List Byte) (i : Nat) : Nat := byteN l i + 256 * byteN l (i + 1)

/-- An entry is usable (R262). -/
def entryUsable (e : List Byte) (bank lane rate : Nat) : Bool :=
  bitOf (byteN e 3) 7 && byteN e 7 == bank && byteN e 6 == lane && byteN e 5 == rate && decide (0 < byteS e 29) &&
    decide ((byteS e 30).natAbs + (byteS e 29).natAbs + (byteS e 28).natAbs + (byteS e 27).natAbs ≤ 64) &&
    decide (byteN e 31 ≤ 31) && decide (byteN e 32 ≤ 15) && decide (byteN e 33 ≤ 63)

/-- The usable entry of a lane at a rate in the copy in force. -/
def Dev.eqEntry (s : Dev) (i rate : Nat) : Option (List Byte) :=
  match slotOfRate rate with
  | none => none
  | some sl =>
    let e := entryBytes s.eqImage (i / 16) (i % 16) sl
    if entryUsable e (i / 16) (i % 16) rate then some e else none

/-- A quotient rounded half away from zero. -/
def roundAway (num den : Int) : Int :=
  if 0 ≤ num then (2 * num + den) / (2 * den) else -((2 * (-num) + den) / (2 * den))

/-- A value kept in a range. -/
def clampI (x lo hi : Int) : Int := max lo (min x hi)

/-- The bank temperature in 1/16 °C. [log: DESIGN CHOICE 9] -/
def Dev.bankTemp (s : Dev) (b : Nat) : Int := signedOf 16 (s.fget Fld.LN_TEMP.TEMP b)

/-- A code with its temperature term: tc per °C in 1/256, the temperature difference in 1/16 °C (R264). -/
def tempTerm (code tc dt16 : Int) : Int := code + roundAway (tc * dt16) 4096

/-- A watch interval of a lane begins, with the values LN_WATCH and LN_STRESS have then (R270, R285). [log: DESIGN CHOICE 65] -/
def Dev.watchBegins (s : Dev) (i : Nat) : Dev :=
  s.modLane i fun l =>
    { l with irx := 0, isym := 0, iunc := 0, ended := none, from_ := s.now, tmin := s.bankTemp (i / 16), watch := s.rget .LN_WATCH 0,
             stress := s.rget .LN_STRESS 0, till := if l.applied then some (s.now + tMs * 2 ^ s.fget Fld.LN_WATCH.INT_EXP 0) else none }

/-- A field of LN_WATCH or LN_STRESS as a lane's interval began with it. -/
def Lane.par (l : Lane) (f : Fld) : Nat := bitsOf (if f.reg = .LN_WATCH then l.watch else l.stress) f.hi f.lo

/-- A new application point of a lane (R270, R276, R278): the interval starts anew, RUN, QRUN and STRESS_OK are cleared. -/
def Dev.pointBegins (s : Dev) (i src qual rate : Nat) : Dev :=
  let t := s.bankTemp (i / 16)
  let s1 := s.fsets i [(Fld.LN_LANE_APPLIED.SRC, src), (Fld.LN_LANE_APPLIED.QUAL, qual), (Fld.LN_LANE_APPLIED.RATE, rate),
    (Fld.LN_LANE_APPLIED.ATEMP, unsignedOf 16 t), (Fld.LN_LANE_STAT.RUN, 0), (Fld.LN_LANE_STAT.QRUN, 0),
    (Fld.LN_LANE_STAT.STRESS_OK, 0)]
  (s1.modLane i fun l => { l with applied := true, drifted := false }).watchBegins i

/-- A lane set from its table entry (R264). -/
def Dev.applyEntry (s : Dev) (i rate : Nat) (e : List Byte) : Dev :=
  let dt := s.bankTemp (i / 16) - 16 * byteS e 47
  let pk := clampI (tempTerm (byteN e 31) (signedOf 16 (wordN e 50)) dt) 0 31
  let vga := clampI (tempTerm (byteN e 33) (signedOf 16 (wordN e 54)) dt) 0 63
  let h1 := clampI (tempTerm (byteS e 34) (signedOf 16 (wordN e 52)) dt) (-128) 127
  let s1 := s.fsets i [(Fld.LN_LANE_EQ.H1, unsignedOf 8 h1), (Fld.LN_LANE_EQ.VGA, vga.toNat),
    (Fld.LN_LANE_EQ.CTLE_DC, byteN e 32), (Fld.LN_LANE_EQ.CTLE_PK, pk.toNat)]
  let s2 := s1.modLane i fun l =>
    { l with fir := (List.range 4).map fun k => byteS e (30 - k), dfe := (List.range 11).map fun k => byteS e (35 + k) }
  s2.pointBegins i 1 (bitsOf (byteN e 3) 6 6) rate

/-- A lane equalised in forced mode (R172): its own settings from its entry, every request of the partner rejected, the preset in
FPRESET asked of the partner once. -/
def Dev.applyForced (s : Dev) (n i rate : Nat) (e : List Byte) (f : EqFound) : Dev :=
  ((each f.reqs s fun s _ => s.emit (.eqReply i false)).emit (.eqPreset i (s.fget Fld.PCI_PORT_CTRL.FPRESET n))).applyEntry i rate e

/-- A lane set by the standard procedure with what it found (R171); each legal coefficient request of the partner is accepted. -/
def Dev.applyStandard (s0 : Dev) (i rate : Nat) (f : EqFound) : Dev :=
  let s := each f.reqs s0 fun s r =>
    let s1 := s.emit (.eqReply i r.legal)
    if r.legal then s1.modLane i fun l => { l with fir := r.fir } else s1
  (s.fsets i [(Fld.LN_LANE_EQ.H1, f.h1), (Fld.LN_LANE_EQ.VGA, f.vga), (Fld.LN_LANE_EQ.CTLE_DC, f.ctleDc),
    (Fld.LN_LANE_EQ.CTLE_PK, f.ctlePk)]).pointBegins i 2 0 rate

/-- An interval ended without evaluation (R276): by a link reset or a Recovery. -/
def Dev.watchBreak (s : Dev) (i : Nat) : Dev :=
  ((s.fset Fld.LN_LANE_STAT.RUN i 0).modLane i fun l => { l with drifted := false }).watchBegins i

/-! The watch -/

/-- The event source of a lane's port. -/
def Dev.raiseLane (s : Dev) (i : Nat) : Dev :=
  match s.portOfLane i with
  | some n => s.raise (evPort n)
  | none => s

/-- A lane over threshold once more (R272): at CONSEC intervals DRIFT is set, raised once and logged. -/
def Dev.overThreshold (s : Dev) (i : Nat) : Dev :=
  let run := min 15 (s.fget Fld.LN_LANE_STAT.RUN i + 1)
  let s1 := s.fset Fld.LN_LANE_STAT.RUN i run
  if (s.lane i).par Fld.LN_WATCH.CONSEC ≤ run ∧ ¬ (s.lane i).drifted then
    (((s1.modLane i fun l => { l with drifted := true }).fset Fld.LN_LANE_STAT.DRIFT i 1).raiseLane i).logError 1
      ((s.portOfLane i).getD 0) i 0
  else s1

/-- A stress interval held (R278). -/
def Dev.stressHeld (s : Dev) (i : Nat) : Dev :=
  let n := min 255 (s.fget Fld.LN_LANE_STAT.QRUN i + 1)
  let s1 := s.fset Fld.LN_LANE_STAT.QRUN i n
  let q := (s.lane i).par Fld.LN_STRESS.QUALIFY
  if n = q ∨ (q < n ∧ ¬ s.fbit Fld.LN_LANE_STAT.STRESS_OK i) then (s1.fset Fld.LN_LANE_STAT.STRESS_OK i 1).raiseLane i else s1

/-- The evaluation of an interval (R271 to R273, R277, R278): `rx` symbols received, `sym` corrected, `unc` codewords not correctable,
`util` the port's receive utilisation in per cent. -/
def Dev.watchEval (s : Dev) (i rx sym unc util : Nat) : Dev :=
  let l := s.lane i
  let prov := s.fget Fld.LN_LANE_APPLIED.SRC i = 1 ∧ s.fget Fld.LN_LANE_APPLIED.QUAL i = 0
  let k := if prov then l.par Fld.LN_WATCH.PTHR_EXP else l.par Fld.LN_WATCH.THR_EXP
  let many := decide (rx < sym * 2 ^ k)
  let s2 := if many then s.overThreshold i else (s.fset Fld.LN_LANE_STAT.RUN i 0).modLane i fun l => { l with drifted := false }
  let s3 := if 0 < unc then
      ((s2.fset Fld.LN_LANE_STAT.UNCOR i 1).raiseLane i).logError 2 ((s.portOfLane i).getD 0) i 0
    else s2
  let stress := decide (l.par Fld.LN_STRESS.LOAD_PCT ≤ util) && decide (16 * Int.ofNat (l.par Fld.LN_STRESS.TEMP_HI) ≤ l.tmin)
  let s4 := if prov then (if many then s3.fset Fld.LN_LANE_STAT.QRUN i 0 else if stress then s3.stressHeld i else s3) else s3
  s4.watchBegins i

/-- The intervals that ended in the core cycle that is over, unless an application point, a link reset or a Recovery of that cycle
ended them without evaluation (R276). -/
def Dev.watchCycle (s : Dev) : Dev :=
  each s.ln.lane s fun s e => match (s.lane e.1).ended with
    | some (c, rx, sym, unc, util) => if c = s.cycle then s else s.watchEval e.1 rx sym unc util
    | none => s

/-- WATCH_INTERVAL_END (R270 to R278): `rx` symbols received, `sym` corrected, `unc` codewords not correctable, `util` the
port's receive utilisation in per cent, over the interval; what a Brorna link counted at its flits comes to it. The watch runs with the
values its interval began with (R285) and evaluates the interval when the core cycle is over (R276). [log: DESIGN CHOICE 65] -/
def watchIntervalEnd (i rx sym unc util : Nat) (s : Dev) : Dev :=
  match (s.lane i).till with
  | none => s
  | some t =>
    let l := s.lane i
    if s.now < t ∨ 192 ≤ i ∨ l.ended.isSome then s
    else
      let s1 := ((s.count .LN_FEC_RX i rx).count .LN_FEC_SYM i sym).count .LN_FEC_UNC i unc
      if l.par Fld.LN_WATCH.EN = 0 then s1.watchBegins i
      else s1.modLane i fun l => { l with ended := some (s.cycle, rx + l.irx, sym + l.isym, unc + l.iunc, util) }

def execWatchIntervalEnd (i rx sym unc util : Nat) (s : State) : Host.Outcome State Fault Refusal :=
  s.act (watchIntervalEnd i rx sym unc util)

/-- BANK_TEMP_UPDATE (R274): TEMP in 1/16 °C, two's complement; lanes far from their application point set TSHIFT. -/
def bankTempUpdate (b temp : Nat) (s : Dev) : Dev :=
  if 12 ≤ b then s
  else
    let s1 := s.fset Fld.LN_TEMP.TEMP b temp
    let t := s1.bankTemp b
    each ((List.range 16).map (· + 16 * b)) s1 fun s i =>
      let l := s.lane i
      if !l.applied then s
      else
        let s2 := s.modLane i fun l => { l with tmin := min l.tmin t }
        let d := t - signedOf 16 (s.fget Fld.LN_LANE_APPLIED.ATEMP i)
        if 16 * l.par Fld.LN_STRESS.TDELTA < d.natAbs then s2.fset Fld.LN_LANE_STAT.TSHIFT i 1 else s2

def execBankTempUpdate (b temp : Nat) (s : State) : Host.Outcome State Fault Refusal := s.act (bankTempUpdate b temp)

/-! PRBS31 -/

/-- Whether a test of a lane includes its transmitter. -/
def Dev.testsTx (s : Dev) (i : Nat) : Bool := (s.fget Fld.LN_PRBS_CTRL.DIR i).testBit 0

/-- A test in progress ends: DONE, the counts kept (R281, R282); the driver it used is off again (R280). -/
def Dev.prbsStop (s : Dev) (i : Nat) : Dev :=
  if s.fbit Fld.LN_PRBS_CTRL.BUSY i then
    ((if s.testsTx i then s.emit (.driver i false) else s).fsets i [(Fld.LN_PRBS_CTRL.BUSY, 0), (Fld.LN_PRBS_CTRL.DONE, 1), (Fld.LN_PRBS_CTRL.LOCK, 0)]).modLane i fun l =>
      { l with prbsEnd := none }
  else s

/-- PRBS_START (R280): only while the lane's port is disabled or its fabric link is in HELD; a lane of no port is powered down (R45).
The driver is on for a test that includes the transmitter. -/
def prbsStart (i : Nat) (s : Dev) : Dev :=
  let ok : Bool := match s.portOfLane i with
    | none => false
    | some n => !s.enabled n || (s.isFabric n && s.fget Fld.BL_STAT.STATE n == 6)
  if 192 ≤ i ∨ ¬ ok then s
  else
    let s1 := ((s.rclear .LN_PRBS_BITS i).rclear .LN_PRBS_ERR i).fsets i
      [(Fld.LN_PRBS_CTRL.DONE, 0), (Fld.LN_PRBS_CTRL.LOSS, 0), (Fld.LN_PRBS_CTRL.LOCK, 0), (Fld.LN_PRBS_CTRL.BUSY, 1)]
    (if s.testsTx i then s1.emit (.driver i true) else s1).modLane i fun l =>
      { l with prbsEnd := some (s.now + tUs * 2 ^ s.fget Fld.LN_PRBS_CTRL.DUR_EXP i) }

def execPrbsStart (i : Nat) (s : State) : Host.Outcome State Fault Refusal := s.act (prbsStart i)

/-- Whether the checker of a lane takes part in its test. -/
def Dev.checks (s : Dev) (i : Nat) : Bool := (s.fget Fld.LN_PRBS_CTRL.DIR i).testBit 1

/-- The length of a port's bring-up check window (R300). -/
def Dev.checkWindow (s : Dev) (n : Nat) : Nat := tUs * 2 ^ (tget {} s.bl.ports n).bring Fld.BL_BRINGUP.CHK_EXP

/-- PRBS_CHECKER_LOCK (R281): counting begins; in TRAIN it opens the bring-up check window of a lane that has not passed (R300). -/
def prbsCheckerLock (i : Nat) (s : Dev) : Dev :=
  let s1 := if s.fbit Fld.LN_PRBS_CTRL.BUSY i && s.checks i then s.fset Fld.LN_PRBS_CTRL.LOCK i 1 else s
  match s.portOfLane i with
  | none => s1
  | some n =>
    if s.isFabric n ∧ s.fget Fld.BL_STAT.STATE n = 3 ∧ (s.lane i).window.isNone ∧
        ¬ (tget {} s.bl.ports n).lanesOk.testBit (i - (16 * (n / 4) + 4 * (n % 4))) then
      s1.modLane i fun l => { l with window := some (s.now + s.checkWindow n) }
    else s1

def execPrbsCheckerLock (i : Nat) (s : State) : Host.Outcome State Fault Refusal := s.act (prbsCheckerLock i)

/-- A bring-up check window that loses lock fails; it starts again with the next lock (R300). -/
def Dev.windowLost (s : Dev) (i errs : Nat) : Dev :=
  match s.portOfLane i with
  | none => s
  | some n =>
    if (s.lane i).window.isNone ∨ s.fget Fld.BL_STAT.STATE n ≠ 3 then s
    else { s.modLane i fun l => { l with window := none } with
             bl.ports := tmod {} s.bl.ports n fun b => { b with chkAt := tput 0 b.chkAt (i - (16 * (n / 4) + 4 * (n % 4))) errs } }

/-- PRBS_LOCK_LOSS (R281, R300): what was counted since the last lock is kept; LOSS; the checker locks again by itself. -/
def prbsLockLoss (i bits errs : Nat) (s : Dev) : Dev :=
  if s.fbit Fld.LN_PRBS_CTRL.BUSY i && s.fbit Fld.LN_PRBS_CTRL.LOCK i then
    ((s.count .LN_PRBS_BITS i bits).count .LN_PRBS_ERR i errs).fsets i [(Fld.LN_PRBS_CTRL.LOSS, 1), (Fld.LN_PRBS_CTRL.LOCK, 0)]
  else s.windowLost i errs

def execPrbsLockLoss (i bits errs : Nat) (s : State) : Host.Outcome State Fault Refusal := s.act (prbsLockLoss i bits errs)

/-- PRBS_TEST_END (R281): at the test's duration, with what the checker counted since its last lock. [log: DESIGN CHOICE 65] -/
def prbsTestEnd (i bits errs : Nat) (s : Dev) : Dev :=
  match (s.lane i).prbsEnd with
  | none => s
  | some t =>
    if s.now < t then s
    else
      let s1 := if s.fbit Fld.LN_PRBS_CTRL.LOCK i then (s.count .LN_PRBS_BITS i bits).count .LN_PRBS_ERR i errs else s
      s1.prbsStop i

def execPrbsTestEnd (i bits errs : Nat) (s : State) : Host.Outcome State Fault Refusal := s.act (prbsTestEnd i bits errs)

end Sys2Proof.Machine
end

