-- ==== Sys2Proof/Machine/Vdsp.lean ====
section
/-! DEFINITION. The functions of a virtual switch: its ports' configuration, error logs (R191, R192, R218), the functions of its service
function (R217 to R222), and a virtual downstream port's tie to its device port (R185, R186, R204 to R215): what that port's switch
tells of it, Link Status, presence and the other hot-plug events. -/
namespace Sys2Proof.Machine

/-! Port functions -/

/-- The number of the USP among the port functions of a VS; vDSP n is n. -/
abbrev uspNo : Nat := 511
def fnKey (vs n : Nat) : Nat := vs * 512 + n
def Dev.pfn (s : Dev) (vs n : Nat) : PortFn := tget {} s.pci.fns (fnKey vs n)
def Dev.setPfn (s : Dev) (vs n : Nat) (f : PortFn) : Dev := { s with pci.fns := tput {} s.pci.fns (fnKey vs n) f }
def Dev.modPfn (s : Dev) (vs n : Nat) (g : PortFn → PortFn) : Dev := s.setPfn vs n (g (s.pfn vs n))
def Dev.vd (s : Dev) (vs n : Nat) : VdspSt := tget {} s.pci.vd (fnKey vs n)
def Dev.modVd (s : Dev) (vs n : Nat) (g : VdspSt → VdspSt) : Dev :=
  { s with pci.vd := tmod {} s.pci.vd (fnKey vs n) g }
def Dev.pport (s : Dev) (n : Nat) : PciPort := tget {} s.pci.ports n
def Dev.modPport (s : Dev) (n : Nat) (g : PciPort → PciPort) : Dev := { s with pci.ports := tmod {} s.pci.ports n g }

/-- The controls of a function of a VS as this switch knows them: its registers where it holds them (R183), else what that switch told.
[log: DEDUCED 47, DEDUCED 223] -/
def Dev.ctlOf (s : Dev) (vs n : Nat) : PortFn := if s.vsExists vs then s.pfn vs n else tget {} s.pci.told (fnKey vs n)
def Dev.modTold (s : Dev) (vs n : Nat) (g : PortFn → PortFn) : Dev := { s with pci.told := tmod {} s.pci.told (fnKey vs n) g }

/-- LTSSM state numbers (PCI_PORT_STAT.LTSSM), in the order PCI Express gives the states. [log: PRESUMED 18] -/
abbrev lDetect : Nat := 0
/-- [log: PRESUMED 18] -/
abbrev lRecovery : Nat := 3
/-- [log: PRESUMED 18] -/
abbrev lL0 : Nat := 4
/-- [log: PRESUMED 18] -/
abbrev lL1 : Nat := 6
abbrev lDisabled : Nat := 8
abbrev lHotReset : Nat := 10

/-- The error messages of PCI Express: correctable, non-fatal, fatal. -/
abbrev msgCor : Nat := 0x30
abbrev msgNonfatal : Nat := 0x31
abbrev msgFatal : Nat := 0x33

/-! Advanced error reporting -/

/-- Where an AER status bit stands: correctable or not, and its bit (PCI Express). [log: PRESUMED 18] -/
def aerBit : PcieErr → Bool × Nat
  | .receiverError => (true, 0) | .badTlp => (true, 6) | .badDllp => (true, 7)
  | .replayRollover => (true, 8) | .replayTimeout => (true, 12)
  | .dlProtocol => (false, 4) | .surpriseDown => (false, 5) | .poisonedTlp => (false, 12) | .fcProtocol => (false, 13)
  | .completionTimeout => (false, 14) | .completerAbort => (false, 15) | .unexpectedCompletion => (false, 16)
  | .receiverOverflow => (false, 17) | .malformedTlp => (false, 18) | .unsupportedRequest => (false, 20)
  | .acsViolation => (false, 21) | .internalError => (false, 22)

/-- An uncorrectable status bit set; the first that is not masked with its header (R192). -/
def PortFn.logUnc (f : PortFn) (b : Nat) (hdr : HdrLog) : PortFn :=
  let f1 := { f with uncStat := setBit f.uncStat b true }
  if !f.uncMask.testBit b && (f.uncStat &&& (4294967295 ^^^ f.uncMask)) == 0 then { f1 with firstErr := b, hdrLog := hdr } else f1

/-- The log of an error in one function's AER capability and the message its masks, severity and enables ask for (R191); Device Status
shows it, an unsupported request in a bit of its own. [log: PRESUMED 18, PRESUMED 42] -/
def PortFn.logErr (f : PortFn) (e : PcieErr) (hdr : HdrLog) : PortFn × Option Nat :=
  let (cor, b) := aerBit e
  if cor then
    ({ f with corStat := setBit f.corStat b true, devStat := setBit f.devStat 0 true },
      if !f.corMask.testBit b && f.devCtl.testBit 0 then some msgCor else none)
  else
    let fatal := f.uncSev.testBit b
    let ur := e == .unsupportedRequest
    let st := setBit f.devStat (if fatal then 2 else 1) true
    let f1 := { f.logUnc b hdr with devStat := if ur then setBit st 3 true else st }
    let tell := (f.devCtl.testBit (if fatal then 2 else 1) && (!ur || f.devCtl.testBit 3)) || f.cmd.testBit 8
    (f1, if f.uncMask.testBit b || !tell then none else some (if fatal then msgFatal else msgNonfatal))

/-- The cases that PCI Express reports as advisory: a completer's refusal of a non-posted request, an unexpected completion, a poisoned
completion that its requester handles. -/
def advisoryCase : PcieErr → Bool
  | .unsupportedRequest | .completerAbort | .unexpectedCompletion | .poisonedTlp => true
  | _ => false

/-- The log of an error at a function of the service function (R218): as an Advisory Non-Fatal Error where it is such a case and its
severity is non-fatal. [log: PRESUMED 18, PRESUMED 225] -/
def PortFn.logAdvisory (f : PortFn) (e : PcieErr) (posted : Bool) (hdr : HdrLog) : PortFn × Option Nat :=
  let b := (aerBit e).2
  if advisoryCase e ∧ ¬ posted ∧ ¬ f.uncSev.testBit b then
    let st := setBit f.devStat 0 true
    let f1 := { f with corStat := setBit f.corStat 13 true, devStat := if e = .unsupportedRequest then setBit st 3 true else st }
    if f.corMask.testBit 13 then (f1, none)
    else (f1.logUnc b hdr, if f.devCtl.testBit 0 && (e != .unsupportedRequest || f.devCtl.testBit 3) then some msgCor else none)
  else f.logErr e hdr

/-! Functions of the service function -/

/-- The key of a function: 0 is the PF of a VS, 1 to 1,024 a VF. -/
def sfKey (vs fn : Nat) : Nat := vs * 1025 + fn
/-- The counter of a function (R622), slot `i` of its counter window. -/
def Dev.fcount (s : Dev) (vs fn i n : Nat) : Dev := s.count .SF_CNT_WIN (12 * sfKey vs fn + i) n
def Dev.sfn (s : Dev) (vs fn : Nat) : SfFn := tget {} s.sf.fns (sfKey vs fn)
def Dev.modSfn (s : Dev) (vs fn : Nat) (g : SfFn → SfFn) : Dev := { s with sf.fns := tmod {} s.sf.fns (sfKey vs fn) g }

/-- A function exists: the PF of a VS that exists, a VF up to NumVFs while VF Enable is 1 (R220, R222). -/
def Dev.sfExists (s : Dev) (vs fn : Nat) : Bool :=
  s.vsExists vs && (fn == 0 || (let p := s.sfn vs 0
    p.sriov.testBit 0 && decide (fn ≤ p.numVfs) && decide (fn ≤ 1024)))

/-- The requester ID of a function (R222): the PF is function 1 of the host's bus, VF n lies 255 + (n − 1) above it. -/
def Dev.sfRid (s : Dev) (vs fn : Nat) : Nat :=
  ((s.pfn vs uspNo).pri * 256 + 1 + (if fn = 0 then 0 else 254 + fn)) % 65536

/-- A Function Level Reset of a function is in progress (R244). -/
def Dev.inFlr (s : Dev) (vs fn : Nat) : Bool := (s.sfn vs fn).flrAt.isSome

/-- The function of a requester ID. -/
def Dev.sfOfRid (s : Dev) (vs rid : Nat) : Option Nat :=
  let d := (rid % 65536 + 65536 - s.sfRid vs 0) % 65536
  if (d = 0 ∨ 255 ≤ d) ∧ s.sfExists vs (d - 254) then some (d - 254) else none

/-- An error at a function's own AER capability, and the message it asks for (R218). [log: PRESUMED 225] -/
def Dev.sfAer (s : Dev) (vs fn : Nat) (e : PcieErr) (posted : Bool) (hdr : HdrLog) : Dev :=
  let (c, m) := (s.sfn vs fn).cfg.logAdvisory e posted hdr
  let s1 := s.modSfn vs fn fun f => { f with cfg := c }
  match m with
  | some code => s1.emit (.msg vs (fn + 1) code [])
  | none => s1

/-! Ports and bindings -/

/-- A port is a host or device port in service. -/
def Dev.pcieOn (s : Dev) (n : Nat) : Bool := s.enabled n && (s.role n == 0 || s.role n == 1)

/-- A vDSP exists: its VS does at this switch, and its number lies below NDSP (R180, R181). -/
def Dev.vdspExists (s : Dev) (vs n : Nat) : Bool := s.vsExists vs && decide (n < s.fget Fld.PCI_VS_CFG.NDSP vs)

/-- The device port a vDSP is bound to, where it is a port of this switch. -/
def Dev.boundPort (s : Dev) (vs n : Nat) : Option Nat :=
  (s.bindOf s.ap vs n).bind fun b => if gpaFsid b.dgpa == s.fsid then some (gpaPort b.dgpa) else none

/-- The GPA of the device port of a vDSP on another switch. -/
def Dev.boundFar (s : Dev) (vs n : Nat) : Option Nat :=
  (s.bindOf s.ap vs n).bind fun b => if gpaFsid b.dgpa == s.fsid then none else some b.dgpa

/-- An action of a vDSP's control at its bound device port: here, or told to the switch that carries it (R185). -/
def Dev.atDevice (s : Dev) (vs n kind val : Nat) (f : Dev → Nat → Dev) : Dev :=
  match s.boundPort vs n with
  | some p => f s p
  | none => match s.boundFar vs n with
    | some g => s.emit (.vdsp g vs n kind val)
    | none => s

/-- The controls of a vDSP that its remote device port's switch applies (R190, R194, R196, R395), as it is told of them: ACS (kind 11), DPC
Control (12), the uncorrectable error mask (13). [log: DEDUCED 223] -/
def Dev.tellControl (s : Dev) (vs n kind : Nat) : Dev :=
  let f := s.pfn vs n
  match s.boundFar vs n with
  | some g => s.emit (.vdsp g vs n kind (if kind = 11 then f.acsCtl + 65536 * f.acsVec else if kind = 12 then f.dpcCtl else f.uncMask))
  | none => s
/-- [log: DEDUCED 223] -/
def Dev.tellControls (s : Dev) (vs n : Nat) : Dev := each [11, 12, 13] s fun s k => s.tellControl vs n k

/-! Slots -/

/-- The slot channel tied to a device port (R204). -/
def Dev.slotOf (s : Dev) (port : Nat) : Option Nat :=
  (List.range 8).find? fun k => s.fbit Fld.PCI_SLOT_MAP.EN k && s.fget Fld.PCI_SLOT_MAP.PORT k == port

/-- A slot channel of the power-entry stage. -/
def Dev.slot (s : Dev) (k : Nat) : SlotCh := tget {} s.pe.slots k
def Dev.modSlot (s : Dev) (k : Nat) (f : SlotCh → SlotCh) : Dev := { s with pe.slots := tmod {} s.pe.slots k f }

/-- Power Controller Control of a slot is on: as software wrote it, else as AUTO_ON has it reset (R214). -/
def Dev.slotCtl (s : Dev) (k : Nat) : Bool := ((s.slot k).ctl).getD (s.fbit Fld.PCI_SLOT_MAP.AUTO_ON k)

/-- Power Controller Control as it reads (R214). -/
def Dev.powerCtl (s : Dev) (vs n : Nat) : Bool :=
  match (s.boundPort vs n).bind s.slotOf with
  | some k => !s.slotCtl k
  | none =>
    match s.boundFar vs n, (s.vd vs n).far.slot with
    | some _, some x => if (s.vd vs n).pccSet then (s.pfn vs n).slotCtl.testBit 10 else x.2.1
    | _, _ => (s.pfn vs n).slotCtl.testBit 10

/-! Hot-plug events (R206 to R215) -/

/-- A function's interrupt enable: MSI, or INTx where it is not disabled. -/
def PortFn.intOn (f : PortFn) : Bool := f.msiCtl.testBit 0 || !f.cmd.testBit 10

/-- An interrupt of a vDSP by its one vector: pending while MSI is in use and its mask bit is set. -/
def Dev.vdspInt (s : Dev) (vs n : Nat) : Dev :=
  let f := s.pfn vs n
  if ¬ f.intOn then s
  else if f.msiCtl.testBit 0 ∧ f.msiMask.testBit 0 then s.modPfn vs n fun f => { f with msiPend := 1 }
  else s.emit (.msg vs n 0 [])

/-- The enables of the hot-plug status bits in Slot Control. -/
def slotEnable (bit : Nat) : Nat := if bit = 8 then 12 else bit

/-- A hot-plug status bit of a vDSP set; one interrupt in a core cycle (R215), where the bit's enable and the interrupt enable allow it. -/
def Dev.hotplug (s : Dev) (vs n bit : Nat) : Dev :=
  let f := s.pfn vs n
  let s1 := s.setPfn vs n { f with slotStat := setBit f.slotStat bit true }
  if f.slotCtl.testBit (slotEnable bit) ∧ f.slotCtl.testBit 5 ∧ f.intOn ∧ (s.vd vs n).hpAt ≠ some s.cycle then
    (s1.vdspInt vs n).modVd vs n fun v => { v with hpAt := some s.cycle }
  else s1

/-- A bound port detects presence (R206): by its contact where it has a slot, in-band unless that is disabled there.
[log: DEDUCED 45] -/
def Dev.presence (s : Dev) (port : Nat) (inbandOff : Bool) : Bool :=
  match s.slotOf port with
  | some k => s.fbit Fld.PCI_SLOT_STAT.PRSNT k || (!inbandOff && (s.pport port).detect)
  | none => (s.pport port).detect

/-- What a remote device port's switch said of presence. -/
def farPresence (x : PortNotice) (inbandOff : Bool) : Bool :=
  if x.slot.isSome then x.contact || (!inbandOff && x.inband) else x.inband

/-- In-Band PD Disable of a vDSP: Slot Control bit 14. -/
def Dev.inbandOff (s : Dev) (vs n : Nat) : Bool := (s.pfn vs n).slotCtl.testBit 14

/-- A vDSP is bound and its port detects presence (R206). -/
def Dev.vdspPresence (s : Dev) (vs n : Nat) : Bool :=
  match s.boundPort vs n, s.boundFar vs n with
  | some p, _ => s.presence p (s.inbandOff vs n)
  | none, some _ => farPresence (s.vd vs n).far (s.inbandOff vs n)
  | none, none => false

/-- Presence Detect State of a vDSP brought up to date; Presence Detect Changed where it changes (R206). [log: DEDUCED 44] -/
def Dev.syncPresence (s : Dev) (vs n : Nat) : Dev :=
  let f := s.pfn vs n
  let present := s.vdspPresence vs n
  if f.slotStat.testBit 6 == present then s
  else (s.setPfn vs n { f with slotStat := setBit f.slotStat 6 present }).hotplug vs n 3

/-- A Link Status word (R186): speed, width, Link Training, Data Link Layer Link Active. -/
def linkStatWord (speed width : Nat) (training dlActive : Bool) : Nat :=
  speed % 16 + width % 64 * 16 + b2n training * 2 ^ 11 + b2n dlActive * 2 ^ 13

/-- The present state of a device port as Link Status has it (R186). -/
def Dev.linkWord (s : Dev) (p : Nat) : Nat :=
  if (s.pport p).up then
    linkStatWord (s.fget Fld.PCI_PORT_STAT.RATE p + 1) (s.pport p).width (s.fget Fld.PCI_PORT_STAT.LTSSM p == lRecovery) true
  else 0

/-- The bound device port's present state in a vDSP's Link Status; Data Link Layer State Changed where the data link came up or went down,
with ERR_COR where DL_Active ERR_COR Enable asks for it (R186, R194). -/
def Dev.noteLink (s : Dev) (vs n st : Nat) : Dev :=
  let f := s.pfn vs n
  let was := f.linkStat.testBit 13
  let act := st.testBit 13
  let s1 := s.setPfn vs n { f with linkStat := st }
  let s2 := if was == act then s1 else s1.hotplug vs n 8
  if act && !was && f.dpcCtl.testBit 7 && f.devCtl.testBit 0 then s2.emit (.msg vs n msgCor []) else s2

/-- The end of a vDSP's containment (R198). -/
def Dev.dpcFree (s : Dev) (vs n : Nat) : Dev :=
  let s1 := s.modVd vs n fun v => { v with trigAt := none, relReq := false }
  if s.vsExists vs then s1.modPfn vs n fun f => { f with dpcStat := setBit f.dpcStat 0 false } else s1

/-- A device port's state and events at its vDSP: Link Status, presence, Attention Button Pressed, Power Fault Detected, a release of its
containment (R186, R198, R206, R208, R213). [log: DEDUCED 44, DEDUCED 45] -/
def Dev.portSays (s : Dev) (vs n st : Nat) (x : PortNotice) : Dev :=
  let s1 := s.modVd vs n fun v => { v with far := { x with button := false, fault := false, released := false } }
  let s2 := (s1.noteLink vs n st).syncPresence vs n
  let s3 := if x.button then s2.hotplug vs n 0 else s2
  let s4 := if x.fault then s3.hotplug vs n 1 else s3
  if x.released then s4.dpcFree vs n else s4

/-- What this switch says of a device port. [log: DEDUCED 45] -/
def Dev.portNotice (s : Dev) (p : Nat) (x : PortNotice) : PortNotice :=
  { x with contact := ((s.slotOf p).map fun k => s.fbit Fld.PCI_SLOT_STAT.PRSNT k).getD false
           inband := (s.pport p).detect
           slot := (s.slotOf p).map fun k => (s.fget Fld.PCI_SLOT_MAP.PWR_LIM k, !s.slotCtl k, s.fbit Fld.PCI_SLOT_MAP.AUTO_ON k)
           caps := some (s.fget Fld.PCI_PORT_CTRL.MAXRATE p + b2n (s.fbit Fld.PCI_PORT_CTRL.FLIT_EN p) * 8 +
             b2n (s.fbit Fld.PCI_PORT_CTRL.L0P_EN p) * 16) }

/-- A device port's state and events told to its vDSP: here, or to the switch of the VS's host port (R186, R192); an
unpowered die says nothing. [log: DEDUCED 45] -/
def Dev.tellHost (s : Dev) (p : Nat) (x : PortNotice) : Dev :=
  match if s.svc.state = 0 then none else s.bindAt s.ap p with
  | none => s
  | some b =>
    let y := s.portNotice p x
    if s.vsExists b.vs then s.portSays b.vs b.vdsp (s.linkWord p) y
    else s.emit (.portNotice (gpaFsid b.hgpa * 64 + 52) b.vs b.vdsp (s.linkWord p) y)

/-- A port's link out of L0: the present width and rate are gone. -/
def Dev.linkDown (s0 : Dev) (n ltssm : Nat) : Dev :=
  let s := each (s0.lanesOf n) s0 fun s i => s.watchBreak i
  let s1 := s.fsets n [(Fld.PCI_PORT_STAT.FLIT, 0), (Fld.PCI_PORT_STAT.TXW, 0), (Fld.PCI_PORT_STAT.RXW, 0),
    (Fld.PCI_PORT_STAT.RATE, 0), (Fld.PCI_PORT_STAT.LTSSM, ltssm)]
  (s1.modPport n fun q => { q with up := false, l0pAt := none, l1 := false }).tellHost n {}

/-- A port whose link is down enters Detect unless a control still holds the link off: Link Disable, a slot's power controller, a hot
reset, containment (R185, R196, R198, R211). -/
def Dev.linkFree (s : Dev) (p : Nat) : Dev :=
  let q := s.pport p
  if q.up ∨ q.disabled ∨ q.slotOff ∨ q.hotReset ∨ (s.isDevice p ∧ s.isContained p) then s else s.fset Fld.PCI_PORT_STAT.LTSSM p lDetect

end Sys2Proof.Machine
end

