-- ==== Sys2Proof/Machine/Errors.lean ====
section
/-! DEFINITION. What becomes of packets that cannot be forwarded (R60): drop counters and the error log, advanced error
reporting (R191), posted-error reports (R399), synthesized completions (R394, R395), returned tokens (R376), containment
(R85, R196) and broken locks (R406). -/
namespace Sys2Proof.Machine

/-! Tokens and reports -/

/-- A token of destination D owed to source S (R374, R376), keyed S × 2,048 + D. -/
def Dev.oweToken (s : Dev) (src dst par : Nat) : Dev :=
  { s with rt.owed := tmod {} s.rt.owed (src * 2048 + dst) fun o =>
      let o1 := if o.c0 + o.c1 = 0 then { o with since := s.now } else o
      if par % 2 = 0 then { o1 with c0 := o1.c0 + 1 } else { o1 with c1 := o1.c1 + 1 } }

/-- The cells freed in earlier core cycles are free now (R83): a shelf's cell returns to its pool (R384), a token is owed to its source
(R374). [log: DEDUCED 233] -/
def Dev.freeCells (s : Dev) : Dev :=
  let due := s.fwd.freed.filter fun f => decide (f.cycle < s.cycle)
  each due { s with fwd.freed := s.fwd.freed.filter fun f => !decide (f.cycle < s.cycle) } fun s f =>
    let s1 := match f.shelf with
      | some n => s.shelfReturn n 1
      | none => s
    match f.owe with
    | some (src, par) => s1.oweToken src s1.fsid par
    | none => s1

/-- The GPA at which a packet entered the fabric or this switch (SGPA, R388). -/
def Dev.sourceGpa (s : Dev) (p : Pkt) : Nat :=
  match p.arrEnv with
  | some e => e.sgpa
  | none => s.gpa p.port

/-- The TLP a packet carries, as it stands after window translation. -/
def Pkt.tlp? (p : Pkt) : Option Tlp :=
  match p.tlpOut, p.content with
  | some t, _ => some t
  | none, .tlp t => some t
  | _, _ => none

/-- A posted-error report for a lost write, at most one per source FSID and VS each microsecond (R399, R401). -/
def Dev.perrReport (s : Dev) (p : Pkt) (reason : Nat) : Dev :=
  let src := s.sourceGpa p
  let key := gpaFsid src * 64 + p.vs % 64
  let r := tget {} s.xing.perr key
  let t := (p.tlp?).getD {}
  if r.sent ∧ s.now < r.last + tUs then
    { s with xing.perr := tput {} s.xing.perr key { r with supp := min 65535 (r.supp + 1) } }
  else
    let b := [(0x10 : Byte), BitVec.ofNat 8 reason, BitVec.ofNat 8 (p.vs % 64), 0] ++ leBytes 2 r.supp ++ leBytes 2 t.reqId
      ++ leBytes 4 p.dest ++ leBytes 8 t.addr
    ({ s with xing.perr := tput {} s.xing.perr key { last := s.now, supp := 0, sent := true } }).ctlPacket
      (gpaFsid src * 64 + 52) b

/-! Completions the switch builds -/

/-- The completion statuses of PCI Express. -/
abbrev cplOk : Nat := 0
abbrev cplUr : Nat := 1
abbrev cplRrs : Nat := 2
abbrev cplCa : Nat := 4

/-- A completion without data for a request, of `left` bytes not yet delivered; 16 bytes of header. [log: PRESUMED 16] -/
def cplFor (t : Tlp) (status completer left : Nat) : Tlp :=
  let locked := t.kind == .memRdLk
  let c : Tlp := { kind := if locked then .cplLk else .cpl, reqId := t.reqId, tag := t.tag, target := t.reqId, status := status,
                   cplId := completer, byteCount := left, lowerAddr := (t.addr + (t.bytes - left)) % 128, tc := t.tc, len := 16 }
  { c with raw := Config.tlpBytes c }

/-- Whether a TLP is a non-posted request. -/
def tlpNonPosted : TlpKind → Bool
  | .memRd | .memRdLk | .ioRd | .ioWr | .cfgRd | .cfgWr | .fetchAdd | .swap | .cas => true
  | _ => false
def tlpCompletion : TlpKind → Bool
  | .cpl | .cplD | .cplLk | .cplDLk => true
  | _ => false

/-- A completion from port 52 toward the port at which a request entered. [log: DESIGN CHOICE 17] -/
def Dev.answer (s : Dev) (p : Pkt) (t : Tlp) (status completer : Nat) : Dev :=
  s.emit (.packet 52 (s.sourceGpa p) p.vs p.oc .completion (.tlp (cplFor t status completer t.bytes)))

/-- The status of a synthesized completion: Unsupported Request for a request toward a device port whose vDSP has DPC
Completion Control 1, as this switch knows it; Completer Abort otherwise (R395). -/
def Dev.synthStatus (s : Dev) (par vs dgpa : Nat) : Nat :=
  if (s.bindings par).any fun b => b.vs == vs && b.dgpa == dgpa && (s.ctlOf vs b.vdsp).dpcCtl.testBit 2 then cplUr else cplCa

/-- A synthesized error completion for a request the switch discards (R394); its Completer ID is open.
[log: PRESUMED 16, DESIGN CHOICE 17] -/
def Dev.synthesize (s : Dev) (p : Pkt) (t : Tlp) : Dev :=
  let (x, s1) := s.freeNat
  s1.answer p t (s.synthStatus p.par p.vs p.dest) (x % 65536)

/-! The error log of the core -/

/-- [log: DESIGN CHOICE 209] -/
def ptypeCode : PType → Nat
  | .posted => 0 | .nonPosted => 1 | .completion => 2 | .control => 0 | .marker => 3

/-- The entry of XB_ERR_LOG0 and XB_ERR_LOG1 (R94, R722). -/
def Dev.errLog (s : Dev) (reason gpa port oc typ vs : Nat) : Dev :=
  s.firstEvent Fld.XB_ERR_LOG0.VALID (some Fld.XB_ERR_LOG0.MORE) 0
    [(Fld.XB_ERR_LOG0.GPA, gpa), (Fld.XB_ERR_LOG0.REASON, reason), (Fld.XB_ERR_LOG1.ING_PORT, port),
     (Fld.XB_ERR_LOG1.OC, oc), (Fld.XB_ERR_LOG1.TYPE, typ), (Fld.XB_ERR_LOG1.VS, vs)]

/-- The packet counted and recorded under its reason code (R60). [log: DESIGN CHOICE 209] -/
def Dev.dropLog (s : Dev) (p : Pkt) (reason : Nat) : Dev :=
  (s.count .XB_DROP_CNT (reason - 1) 1).errLog reason
    (if reason = 7 ∨ reason = 8 then s.gpa p.egr else p.dest) p.port p.oc (ptypeCode p.typ) p.vs

/-- A packet out of the core: a sequenced packet at its source stays retained (R421), any other leaves. -/
def Dev.drop (s : Dev) (pid : Nat) (p : Pkt) : Dev :=
  if p.kept then s.putPkt pid { p with stage := .passed, cells := [], fresh := [], loose := true, arrived := p.nfl, granted := p.nfl,
                                       placed := p.nfl, passed := p.nfl, suffix := true }
  else s.delPkt pid

/-- Whether a packet is a posted-error report (R401). -/
def Pkt.isPerr (p : Pkt) : Bool :=
  match p.content with
  | .ctl (b :: _) => b == 0x10
  | _ => false

/-- The discard of a packet with a reason code from 0x03 to 0x08 but 0x06, which a link has its own way with (R60, R86, R376): reported or answered to its source. -/
def Dev.discardFar (s : Dev) (pid reason : Nat) : Dev :=
  match s.pkt? pid with
  | none => s
  | some p =>
    let s1 := s.dropLog p reason
    let tokened := (p.arrEnv.map (·.tok)).getD p.tok
    let s2 := if tokened then s1.oweToken (gpaFsid (s.sourceGpa p)) (gpaFsid p.dest) p.par else s1
    let s3 := match p.typ, p.tlp? with
      | .posted, _ => s2.perrReport p reason
      | .nonPosted, some t => s2.synthesize p t
      | .control, _ => if p.isPerr then s2.count .XB_PERR_LOST_CNT 0 1 else s2
      | _, _ => s2
    s3.drop pid p

/-! Containment -/

/-- The packets queued for an egress port, by number. -/
def Dev.queuedFor (s : Dev) (n : Nat) : List Nat :=
  (s.fwd.pkts.filter fun e => e.2.egr == n && e.2.stage == .queued).map (·.1)

/-- Whether an egress port still holds flits for transmission. -/
def Dev.portHolds (s : Dev) (n : Nat) : Bool := !(tget [] s.fwd.stg n).isEmpty || !(s.queuedFor n).isEmpty

/-- The packets of which a port has flits queued or in staging slots, in the order of their numbers. -/
def Dev.heldFor (s : Dev) (n : Nat) : List Nat :=
  (s.fwd.pkts.filter fun e => e.2.egr == n &&
    (e.2.stage == .queued || (e.2.stage == .passed && (tget [] s.fwd.stg n).any fun f => f.pid == e.1))).map (·.1)

/-- Every flit queued for a port, in the buffer or in its staging slots, discarded with reason code 0x07 (R85, R86). -/
def Dev.flushPort (s : Dev) (n : Nat) : Dev :=
  let s1 := each (s.heldFor n) s fun s pid => s.discardFar pid 7
  { s1 with fwd.stg := tdel s1.fwd.stg n, fwd.started := tdel s1.fwd.started n, fwd.stallFrom := tdel s1.fwd.stallFrom n }

/-- The lock-broken notice to the switch of the VS's host port (R406). -/
def Dev.lockNotice (s : Dev) (vs : Nat) : Dev :=
  match s.hgpa s.ap vs with
  | some g => s.ctlPacket (gpaFsid g * 64 + 52) [0x13, BitVec.ofNat 8 vs]
  | none => s

/-- The message that ends a locked sequence. -/
def unlockTlp : Tlp := { kind := .unlock, route := .toRoot, len := 16 }

/-- The tricks of locked traffic on an egress port. -/
def Dev.lockTricks (s : Dev) (port : Nat) : List Trick :=
  s.arb.flatMap fun e => e.2.tricks.filter fun t => t.port == port && t.lock

/-- The trick of the lock whose first read has completed unsuccessfully closed at that read's device port (R405). -/
def Dev.dropTrickOf (s : Dev) (n reqId tag : Nat) : Dev :=
  let close : Arb → Arb := fun a => { a with tricks := a.tricks.filter fun t => !(t.port == n && t.rd == some (reqId, tag)) }
  each (tkeys s.arb) s fun s k => { s with arb := tmod {} s.arb k close }

/-- The tricks of locked traffic on a port closed. -/
def Dev.dropLockTricks (s : Dev) (n : Nat) : Dev :=
  let close : Arb → Arb := fun a => { a with tricks := a.tricks.filter fun t => !(t.port == n && t.lock) }
  each (tkeys s.arb) s fun s k => { s with arb := tmod {} s.arb k close }

/-- An error logged at a function whose registers this switch holds (R183, R191). -/
def Dev.aerLog (s : Dev) (vs n : Nat) (e : PcieErr) (hdr : HdrLog) : Dev :=
  let (f1, m) := (s.pfn vs n).logErr e hdr
  let s1 := s.setPfn vs n f1
  match m with
  | some c => s1.emit (.msg vs n c [])
  | none => s1

/-- What a device port's switch has detected, told to the switch of the VS's host port (R192). -/
def Dev.errNotice (s : Dev) (vs n : Nat) (e : Option PcieErr) (hdr : HdrLog) (trig : Option (Nat × Nat)) : Dev :=
  match s.hgpa s.ap vs with
  | some g => s.emit (.errNotice (gpaFsid g * 64 + 52) vs n e hdr trig)
  | none => s

/-- A lock broken (R406): Uncorrectable Internal Error at the bound vDSP, a notice to the host port's switch. -/
def Dev.lockLost (s : Dev) (t : Trick) : Dev :=
  let s1 := match s.bindAt s.ap t.port with
    | some b => if s.vsExists b.vs then s.aerLog b.vs b.vdsp .internalError {} else s.errNotice b.vs b.vdsp (some .internalError) {} none
    | none => s
  s1.lockNotice t.vs

/-- A device port contained: the link disabled and every queued flit discarded (R85, R196, R197); a lock held on it is
broken, without an Unlock toward the contained port (R406). -/
def Dev.containPort (s : Dev) (n : Nat) : Dev :=
  let s1 := { s with fwd.contained := s.fwd.contained ||| 2 ^ n }
  let s2 := s1.linkDown n lDisabled
  let s3 := each (s2.lockTricks n) s2 fun s t => s.lockLost t
  (s3.dropLockTricks n).flushPort n

/-- DPC Trigger Status of a vDSP set with its reason and Error Source ID, the interrupt and ERR_COR that its controls ask for (R194). -/
def Dev.dpcStatus (s : Dev) (vs n reason src : Nat) : Dev :=
  let f := s.pfn vs n
  let s1 := s.setPfn vs n { f with dpcStat := setBitsOf (setBit (setBit f.dpcStat 0 true) 3 (f.dpcCtl.testBit 3)) 2 1 reason,
                                   dpcSrc := if reason = 1 ∨ reason = 2 then src else f.dpcSrc }
  let s2 := s1.modVd vs n fun v => { v with trigAt := some s.now, relReq := false }
  let s3 := if f.dpcCtl.testBit 3 then s2.vdspInt vs n else s2
  if f.dpcCtl.testBit 4 ∧ f.devCtl.testBit 0 then s3.emit (.msg vs n msgCor []) else s3

/-- A DPC trigger at a vDSP: status and reason at the host-port switch, containment where the device port sits (R194 to
R196), which the host-port switch tells of it. [log: PRESUMED 42] -/
def Dev.dpcTrigger (s : Dev) (vs n reason src : Nat) : Dev :=
  let s1 := if s.vsExists vs ∧ ¬ (s.pfn vs n).dpcStat.testBit 0 then s.dpcStatus vs n reason src else s
  match s1.bindOf s1.ap vs n with
  | none => s1
  | some b =>
    if gpaFsid b.dgpa == s1.fsid then
      let s2 := s1.modVd vs n fun v => { v with trigAt := if v.trigAt.isSome then v.trigAt else some s.now }
      if s2.isContained (gpaPort b.dgpa) then s2 else s2.containPort (gpaPort b.dgpa)
    else s1.emit (.contain b.dgpa vs n)

/-- An error triggers DPC at a vDSP (R194): an uncorrectable error that is not masked, with Trigger Enable 01 or 10.
[log: PRESUMED 18, PRESUMED 42, DEDUCED 223] -/
def PortFn.triggers (f : PortFn) (e : PcieErr) : Bool :=
  let (cor, b) := aerBit e
  !cor && !f.uncMask.testBit b && (bitsOf f.dpcCtl 1 0 == 1 || bitsOf f.dpcCtl 1 0 == 2)

/-- An error of a function of a VS (R191): logged here where this switch holds the function's registers, told to the switch that does
otherwise (R192); where the error triggers DPC, the port is contained here and now if this switch carries it (R194, R196).
[log: PRESUMED 42] -/
def Dev.aer (s : Dev) (vs n : Nat) (e : PcieErr) (hdr : HdrLog) : Dev :=
  let trig := n != uspNo && (s.ctlOf vs n).triggers e
  let s1 := if s.vsExists vs then s.aerLog vs n e hdr else s.errNotice vs n (some e) hdr (if trig then some (0, 0) else none)
  if trig then s1.dpcTrigger vs n 0 0 else s1

/-- An error that sets DPC Trigger Status whatever Trigger Enable is (R195). -/
def Dev.aerContain (s : Dev) (vs n : Nat) (e : PcieErr) : Dev :=
  (if s.vsExists vs then s.aerLog vs n e {} else s.errNotice vs n (some e) {} (some (0, 0))).dpcTrigger vs n 0 0

/-- A trigger by a message from below (R194), at the device port's switch; the switch of the host port is told. -/
def Dev.dpcMessage (s : Dev) (vs n reason src : Nat) : Dev :=
  (if s.vsExists vs then s else s.errNotice vs n none {} (some (reason, src))).dpcTrigger vs n reason src

/-- The header log of a TLP as a port received it, in the format of its link's mode (R192); the core carries the flit-mode form. -/
def Dev.hdrLogOf (s : Dev) (port : Nat) (t : Tlp) : HdrLog :=
  if s.fbit Fld.PCI_PORT_STAT.FLIT port then { flit := true, bytes := (Config.headerOf true t.raw).take 32 }
  else { flit := false, bytes := (Config.headerOf false (Config.fromFlitMode t.raw)).take 16 }

/-- The function at which a packet entered its VS: the USP for traffic from the host port, the bound vDSP for traffic from
a device port (R191). -/
def Dev.entryFn (s : Dev) (p : Pkt) : Option Nat :=
  let src := s.sourceGpa p
  if s.hgpa p.par p.vs == some src then some uspNo
  else ((s.bindings p.par).find? fun b => b.vs == p.vs && b.dgpa == src).map (·.vdsp)

/-- An error of a packet at the function at which it entered its VS (R191), or at the function of the service function that sent it
(R218). -/
def Dev.aerAtEntry (s : Dev) (p : Pkt) (e : PcieErr) : Dev :=
  match s.entryFn p with
  | some n => s.aer p.vs n e (((p.tlp?).map fun t => s.hdrLogOf p.port t).getD {})
  | none =>
    match p.arrEnv, p.tlp? with
    | none, some t =>
      (match s.sfOfRid p.vs t.reqId with
        | some fn => s.sfAer p.vs fn e (p.typ == .posted) { flit := true, bytes := (Config.headerOf true t.raw).take 32 }
        | none => s)
    | _, _ => s

/-- The Completer ID of the VS's own answers: the USP's bus, device 0, function 0. -/
def Dev.uspId (s : Dev) (vs : Nat) : Nat := (s.pfn vs uspNo).pri * 256

/-- The discard of a packet under its reason code (R60). -/
def Dev.discard (s : Dev) (pid reason : Nat) : Dev :=
  match s.pkt? pid with
  | none => s
  | some p =>
    if reason = 1 ∨ reason = 2 then
      let s1 := s.dropLog p reason
      let s2 := match p.typ, p.tlp? with
        | .nonPosted, some t => (s1.aerAtEntry p .unsupportedRequest).answer p t cplUr (s.uspId p.vs)
        | .completion, _ => s1.aerAtEntry p .unexpectedCompletion
        | _, _ => s1.aerAtEntry p .unsupportedRequest
      s2.delPkt pid
    else if reason = 5 then (s.discardFar pid 5).aerAtEntry p .internalError
    else s.discardFar pid reason

/-- A lock broken by the cut of its trick (R406): Unlock to the endpoint, Uncorrectable Internal Error at the bound vDSP, a
notice to the host port's switch. -/
def Dev.lockBreak (s : Dev) (t : Trick) : Dev :=
  let s1 := if s.isContained t.port then s else s.emit (.tlp t.port unlockTlp)
  let s2 := match s1.bindAt s1.ap t.port with
    | some b => s1.aer b.vs b.vdsp .internalError {}
    | none => s1
  s2.lockNotice t.vs

end Sys2Proof.Machine
end

