-- ==== Sys2Proof/Machine/SfBase.lean ====
section
/-! DEFINITION. The service function's shared operations (R217 to R258): functions and routing IDs, interrupts (R230 to R233),
tags and requests (R238 to R242, R246), descriptor fetches (R226), completion records (R514, R515), queue errors (R228),
ledger marks (R249 to R251). -/
namespace Sys2Proof.Machine

/-! Functions -/

/-- Bus Master Enable of a function; a clear takes effect in the core cycle after its write (R247). -/
def Dev.bme (s : Dev) (vs fn : Nat) : Bool := (s.sfn vs fn).cfg.cmd.testBit 2 || (s.sfn vs fn).bmOff == some s.cycle

/-! Interrupts -/

/-- The mechanism a function signals by (R230): 3 MSI-X, 2 MSI, 1 INTx, 0 none. -/
def Dev.intMode (s : Dev) (vs fn : Nat) : Nat :=
  let f := s.sfn vs fn
  if f.msixCtl.testBit 15 then 3
  else if fn = 0 ∧ f.cfg.msiCtl.testBit 0 then 2
  else if fn = 0 ∧ ¬ f.cfg.cmd.testBit 10 then 1 else 0

/-- Words of the MSI-X table: word w of entry v is key 4 v + w; the vector control word of an unwritten entry is masked. -/
def msixDefault (k : Nat) : Nat := if k % 4 = 3 then 1 else 0
def SfFn.msixWord (f : SfFn) (k : Nat) : Nat := tget (msixDefault k) f.msix k
def SfFn.setMsix (f : SfFn) (k v : Nat) : SfFn := { f with msix := tput (msixDefault k) f.msix k v }

/-- A vector is masked by its function or by itself. -/
def SfFn.vecMasked (f : SfFn) (v : Nat) : Bool := f.msixCtl.testBit 14 || (f.msixWord (4 * v + 3)).testBit 0

/-- The address and data of the MSI capability's message v mod m (R231), from its dwords at 0x94, 0x98 and 0x9C. -/
def SfFn.msiMsg (f : SfFn) (v : Nat) : Nat × Nat :=
  let m := 2 ^ bitsOf f.cfg.msiCtl 6 4
  (tget 0 f.cfg.other 0x25 + 2 ^ 32 * tget 0 f.cfg.other 0x26, tget 0 f.cfg.other 0x27 / m * m + v % m)

/-- The message of a vector, or its pending bit while it is masked or Bus Master Enable is 0 (R233). -/
def Dev.signal (s : Dev) (vs fn v : Nat) (w : Option Way := none) : Dev :=
  let f := s.sfn vs fn
  match s.intMode vs fn with
  | 3 =>
    if f.vecMasked v || !s.bme vs fn then s.modSfn vs fn fun f => { f with pba := f.pba ||| 2 ^ v }
    else (s.emit (.hostWrite vs fn (f.msixWord (4 * v) + 2 ^ 32 * f.msixWord (4 * v + 1)) (leBytes 4 (f.msixWord (4 * v + 2))) w)).fcount vs fn 10 1
  | 2 =>
    let m := v % 2 ^ bitsOf f.cfg.msiCtl 6 4
    if f.cfg.msiMask.testBit m || !s.bme vs fn then
      s.modSfn vs fn fun f => { f with cfg := { f.cfg with msiPend := f.cfg.msiPend ||| 2 ^ m } }
    else (s.emit (.hostWrite vs fn (f.msiMsg v).1 (leBytes 4 (f.msiMsg v).2) w)).fcount vs fn 10 1
  | _ => s

/-- The queues of a function. -/
def Dev.queuesOf (s : Dev) (vs fn : Nat) : List Nat :=
  s.sf.qs.filterMap fun e => match e.2.owner with
    | some (v, f, _) => if v = vs ∧ f = fn then some e.1 else none
    | none => none

/-- Records a queue's driver has not consumed (R514). -/
def Dev.ringSize (s : Dev) (q : Nat) : Nat := 2 ^ s.fget Fld.SF_Q_CFG.SIZE_EXP q
def Dev.unread (s : Dev) (q : Nat) : Nat :=
  (s.fget Fld.SF_Q_CQ_STAT.TAIL q + s.ringSize q - s.fget Fld.SF_Q_CQ_HEAD.HEAD q % s.ringSize q) % s.ringSize q

/-- INTA of a PF follows its unmasked events and unread records (R231). -/
def Dev.intxSync (s : Dev) (vs : Nat) : Dev :=
  let f := s.sfn vs 0
  let ev := s.rget .SF_EVT (sfKey vs 0)
  let mask := s.rget .SF_EVT_MASK (sfKey vs 0)
  let want := s.intMode vs 0 == 1 && ((List.range 7).any (fun i => ev.testBit i && !mask.testBit i) ||
    (s.queuesOf vs 0).any fun q => s.unread q != 0)
  if want == f.intx then s
  else ((s.modSfn vs 0 fun f => { f with intx := want }).emit (.msg vs 0 (if want then 0x20 else 0x24) [])).fcount vs 0 10 1

/-- An event in SF_EVT of a function: signalled on vector 0 unless masked (R231); its event
source is the VS's or the VF's (R626). [log: DEDUCED 61] -/
def Dev.sfEvent (s : Dev) (vs fn : Nat) (f : Fld) : Dev :=
  let s1 := s.fset f (sfKey vs fn) 1
  let s2 := if (s1.rget .SF_EVT_MASK (sfKey vs fn)).testBit f.lo then s1 else s1.signal vs fn 0
  if fn = 0 then (s2.intxSync vs).raise (evVs vs) else s2.raise (evVf fn)

/-! Requests and tags -/

/-- The completion timeout of a function in units of 125 ps, by its PF's Completion Timeout Value (R238). -/
def ctoOf : Nat → Nat
  | 0 => 40 * tMs | 1 => 80 * tUs | 2 => 8 * tMs | 5 => 40 * tMs | 6 => 160 * tMs | 9 => 640 * tMs
  | 10 => 2500 * tMs | 13 => 10 * tSec | 14 => 40 * tSec | _ => 40 * tMs
def Dev.cto (s : Dev) (vs : Nat) : Nat := ctoOf (bitsOf (s.sfn vs 0).devCtl2 3 0)

/-- The tags a function holds (R242): 768 under 10-Bit Tag Requester Enable, those whose upper two bits are not 0, else 256.
[log: DEDUCED 56] -/
def Dev.tagsOf (s : Dev) (vs fn : Nat) : List Nat :=
  if (s.sfn vs fn).devCtl2.testBit 12 then (List.range 768).map (· + 256) else List.range 256

/-- The lowest tag neither in use nor in quarantine. [log: DEDUCED 56] -/
def Dev.freeTag (s : Dev) (vs fn : Nat) : Option Nat :=
  let busy := (s.sf.reqs.filter fun r => r.vs == vs && r.fn == fn).map (·.tag) ++
    (s.sf.quar.filter fun r => r.vs == vs && r.fn == fn).map (·.tag)
  (s.tagsOf vs fn).find? fun t => !busy.contains t

/-- A request takes its tag and its timer. [log: DESIGN CHOICE 55] -/
def Dev.sfSend (s : Dev) (vs fn tag : Nat) (use : SfUse) : Dev :=
  { s with sf.reqs := s.sf.reqs ++ [{ vs := vs, fn := fn, tag := tag, use := use, deadline := s.ftime + s.cto vs }] }

/-- [log: DESIGN CHOICE 55] -/
def Dev.sfReq? (s : Dev) (vs fn tag : Nat) : Option SfReq := s.sf.reqs.find? fun r => r.vs == vs && r.fn == fn && r.tag == tag

/-- A request ends. [log: DESIGN CHOICE 55] -/
def Dev.sfDone (s : Dev) (r : SfReq) : Dev :=
  { s with sf.reqs := s.sf.reqs.filter fun x => !(x.vs == r.vs && x.fn == r.fn && x.tag == r.tag) }

/-- A request ends with its tag in quarantine for four timeouts (R239, R246). -/
def Dev.sfQuarantine (s : Dev) (r : SfReq) (silent : Bool) : Dev :=
  let s1 := s.sfDone r
  { s1 with sf.quar := s1.sf.quar ++ [{ vs := r.vs, fn := r.fn, tag := r.tag, till := s.ftime + 4 * s.cto r.vs, silent := silent }] }

/-! Queues -/

def Dev.sfq (s : Dev) (q : Nat) : SfQueue := tget {} s.sf.qs q
def Dev.modQ (s : Dev) (q : Nat) (g : SfQueue → SfQueue) : Dev := { s with sf.qs := tmod {} s.sf.qs q g }

/-- The queue of a function's local index. -/
def Dev.localQ (s : Dev) (vs fn l : Nat) : Option Nat := (s.sf.qs.find? fun e => e.2.owner == some (vs, fn, l)).map (·.1)

/-- A fetch of the next descriptor, while the queue runs, has one to fetch, and a tag is free (R226, R242, R247).
[log: DEDUCED 57] -/
def Dev.fetchMore (s : Dev) (q : Nat) : Dev :=
  let x := s.sfq q
  match x.owner with
  | none => s
  | some (vs, fn, _) =>
    let head := s.fget Fld.SF_Q_STAT.HEAD q
    if s.fbit Fld.SF_Q_CFG.EN q && !s.fbit Fld.SF_Q_STAT.ERR q && !x.fetching && x.tail != head && s.bme vs fn && !s.inFlr vs fn then
      match s.freeTag vs fn with
      | none => s
      | some t => ((s.sfSend vs fn t (.fetch q)).modQ q fun x => { x with fetching := true }).emit
          (.hostRead vs fn t (s.fget Fld.SF_Q_BASE.ADDR q * 4096 + 128 * head) 128)
    else s

/-- A queue error (R228). [log: DESIGN CHOICE 210] -/
def Dev.queueErr (s : Dev) (q code : Nat) : Dev :=
  match (s.sfq q).owner with
  | none => s
  | some (vs, fn, _) => (s.fsets q [(Fld.SF_Q_STAT.ERR, 1), (Fld.SF_Q_STAT.CODE, code)]).sfEvent vs fn Fld.SF_EVT.QERR

/-- The host port of a VS is contained or its link down: nothing reaches the host (R228 code 0b100). -/
def Dev.hostCut (s : Dev) (vs : Nat) : Bool := s.isContained (s.hostPort vs)

/-- A record written at the completion tail with the present phase; the phase inverts when the tail wraps (R515).
[log: DEDUCED 57] -/
def Dev.pushRecord (s : Dev) (q : Nat) (body : List Byte) (irq : Bool) (w : Option Way) : Dev :=
  match (s.sfq q).owner with
  | none => s
  | some (vs, fn, _) =>
    if !s.bme vs fn then s.modQ q fun x => { x with due := x.due ++ [(body, irq, w)] }
    else if s.hostCut vs then s.queueErr q 4
    else
      let tail := s.fget Fld.SF_Q_CQ_STAT.TAIL q
      let ph := s.fget Fld.SF_Q_CQ_STAT.PHASE q
      let s1 := (s.emit (.hostWrite vs fn (s.fget Fld.SF_Q_CQ_BASE.ADDR q * 4096 + 32 * tail) (BitVec.ofNat 8 ph :: body) w)).fcount vs fn 4 32
      let wrap := tail + 1 = s.ringSize q
      let s2 := s1.fsets q [(Fld.SF_Q_CQ_STAT.TAIL, if wrap then 0 else tail + 1),
        (Fld.SF_Q_CQ_STAT.PHASE, if wrap then 1 - ph else ph)]
      let s3 := if irq then s2.signal vs fn (s.fget Fld.SF_Q_CFG.VEC q) w else s2
      if fn = 0 then s3.intxSync vs else s3

/-- What a completion record reports beside its descriptor (R511). -/
structure RecInfo where
  status : Nat := 0
  flags : Nat := 0
  fcode : Nat := 0
  fpc : Nat := 0
  faddr : Nat := 0
  result : Nat := 0
  deriving DecidableEq, Repr

/-- The bytes of a record after PHASE. -/
def recBytes (d : Desc) (r : RecInfo) : List Byte :=
  [BitVec.ofNat 8 r.status, BitVec.ofNat 8 r.flags, BitVec.ofNat 8 r.fcode] ++ leBytes 2 d.idx ++ leBytes 2 r.fpc
    ++ leBytes 8 r.faddr ++ leBytes 8 d.tag ++ leBytes 8 r.result

/-- How the traffic of a descriptor travels (R513). TRICK is a COPY's. [log: DEDUCED 238] -/
def Desc.way (d : Desc) : Way := { oc := d.oc, cc := d.cc, saf := d.flags.testBit 2, trick := d.kind == 2 && d.flags.testBit 3 }

/-- A descriptor completes: its record, its vector where IRQ asks for it (R513, R515). -/
def Dev.complete (s : Dev) (q idx : Nat) (r : RecInfo) : Dev :=
  match (s.sfq q).descs.find? fun d => d.idx == idx with
  | none => s
  | some d =>
    let s1 := (s.modQ q fun x => { x with descs := x.descs.filter fun e => e.idx != idx }).pushRecord q (recBytes d r) (d.flags.testBit 0) (some d.way)
    match (s.sfq q).owner with
    | some (vs, fn, _) => s1.fcount vs fn (if r.status = 0 then 1 else 2) 1
    | none => s1

/-- The next descriptor of a queue to start, when R514 and ORDER (R513) let it. -/
def Dev.startable (s : Dev) (q : Nat) : Option Desc :=
  let x := s.sfq q
  match x.descs.find? fun d => !d.started with
  | none => none
  | some d =>
    let n := (x.descs.filter (·.started)).length
    if s.ringSize q ≤ n + s.unread q + x.due.length ∨ (d.flags.testBit 1 ∧ n ≠ 0) then none else some d

/-- A descriptor starts. -/
def Dev.startDesc (s : Dev) (q idx : Nat) : Dev :=
  s.modQ q fun x => { x with descs := x.descs.map fun d => if d.idx == idx then { d with started := true } else d }

/-! The ledger -/

/-- The instance of a ledger context's registers. -/
def lgKey (vs ctx : Nat) : Nat := vs * 8 + ctx

/-- Whether a write is one that a context marks (R249): by its requester. -/
def Dev.lgSource (s : Dev) (vs ctx : Nat) (p : Pkt) (t : Tlp) : Bool :=
  (decide (48 ≤ p.port ∧ p.port ≤ 52) && t.reqId == s.sfRid vs (s.fget Fld.SF_LG_CTRL.FN (lgKey vs ctx))) ||
    match s.entryFn p with
    | some n => decide (n < 256) && (s.fget Fld.SF_LG_VDSP.MASK (lgKey vs ctx * 8 + n / 32)).testBit (n % 32)
    | none => false

/-- The marks of one context for a write of `len` bytes at `a` (R249, R250). -/
def Dev.lgMarks (s : Dev) (vs ctx a len : Nat) : List LgMark :=
  let k := lgKey vs ctx
  let g := if s.fbit Fld.SF_LG_CTRL.GRAN k then 2097152 else 4096
  let base := s.fget Fld.SF_LG_RBASE.ADDR k * 4096
  let top := base + s.fget Fld.SF_LG_RPAGES.PAGES k * g
  let lo := max a base
  let hi := min (a + len) top
  let b := s.fbit Fld.SF_LG_STAT.ACTIVE k
  let bmp := (if b then s.fget Fld.SF_LG_BMP_B.ADDR k else s.fget Fld.SF_LG_BMP_A.ADDR k) * 4096
  if hi ≤ lo then [] else
    (List.range ((hi - 1 - base) / g - (lo - base) / g + 1)).map fun i =>
      let p := (lo - base) / g + i
      { vs := vs, ctx := ctx, b := b, loc := s.fget Fld.SF_LG_CTRL.LOC k, addr := bmp + p / 8, bit := p % 8, at_ := s.cycle }

/-- The ledger's marks as a packet's first flit leaves toward the host (R251). [log: DESIGN CHOICE 59] -/
def Dev.ledgerMark (s : Dev) (p : Pkt) : Dev :=
  match s.vsOfHost p.egr, p.tlp? with
  | some vs, some t =>
    if t.kind = .memWr then
      let l := ((List.range 8).filter fun c => s.fbit Fld.SF_LG_CTRL.EN (lgKey vs c) && s.lgSource vs c p t).flatMap fun c =>
        s.lgMarks vs c t.addr t.data.length
      ({ s with sf.marks := s.sf.marks ++ l }).fcount vs 0 11 l.length
    else s
  | _, _ => s

/-- One mark written to its bitmap: set in LPDDR4X, or sent to the host as a write of the PF (R253, R255). -/
def Dev.writeMark (s : Dev) (m : LgMark) : Dev :=
  if m.loc = 0 then s.memWrite m.addr [BitVec.ofNat 8 ((s.memByte m.addr).toNat ||| 2 ^ m.bit)] else s.emit (.hostMark m.vs m.addr m.bit)

/-- The oldest mark is written, one a tick, while its bitmap can be reached; not in its own core cycle, whose swap point would
move it (R252). [log: DESIGN CHOICE 59] -/
def Dev.drainMark (s : Dev) : Dev :=
  match s.sf.marks with
  | [] => s
  | m :: rest => if m.at_ ≠ s.cycle ∧ (m.loc = 0 ∨ ¬ s.hostCut m.vs) then ({ s with sf.marks := rest }).writeMark m else s

end Sys2Proof.Machine
end

