-- ==== Sys2Proof/Machine/SvcBase.lean ====
section
/-! DEFINITION. The management services' shared operations: sessions and answers (R555, R573 to R576), notices (R587, R588), results
of CMD entries (R568 to R571), load targets (R591, R592), read windows (R593), device states (R560, R567). -/
namespace Sys2Proof.Machine

/-! Device states -/

/-- [log: DEDUCED 6] -/
abbrev stOff : Nat := 0
abbrev stBoot : Nat := 1
abbrev stMeasured : Nat := 2
abbrev stStandby : Nat := 3
abbrev stActive : Nat := 4
abbrev stDraining : Nat := 5
abbrev stMaintenance : Nat := 6
abbrev stFault : Nat := 7

/-- The dictionary is reachable in the states from MEASURED on (R560). -/
def Dev.reachable (s : Dev) : Bool := decide (stMeasured ≤ s.svc.state)

/-! Sessions -/

/-- The role codes. -/
abbrev roleOperator : Nat := 1
abbrev roleDealer : Nat := 2
abbrev roleSecurity : Nat := 3

/-- A session: a UDP session that has opened, or the endpoint or mailbox that needs no opening (R580, R584, R585). -/
def Dev.sess? (s : Dev) (k : SessKey) : Option Sess :=
  match s.svc.sess.find? fun x => x.key == k with
  | some x => some x
  | none => match k with
    | .udp _ => none
    | _ => some { key := k }

/-- The store of a session. -/
def Dev.putSess (s : Dev) (x : Sess) : Dev :=
  if s.svc.sess.any fun y => y.key == x.key then
    { s with svc.sess := s.svc.sess.map fun y => if y.key == x.key then x else y }
  else { s with svc.sess := s.svc.sess ++ [x] }
def Dev.modSess (s : Dev) (k : SessKey) (f : Sess → Sess) : Dev :=
  match s.sess? k with
  | some x => s.putSess (f x)
  | none => s

/-- A frame leaves for a session, or for the sender of a frame without one: its service's answer with its status (R573).
[log: DEDUCED 207] -/
def Dev.respond (s : Dev) (k : SessKey) (seq status : Nat) (body : List Byte) : Dev := s.emit (.response k seq status body)

/-! Notices -/

/-- The body of a NOTIFY frame (R587). [log: DEDUCED 161] -/
def noticeBytes (n : Notice) : List Byte :=
  leBytes 4 n.nseq ++ [0, BitVec.ofNat 8 n.cls] ++ leBytes 2 n.source ++ leBytes 8 n.time ++ leBytes 2 n.lost
    ++ leBytes 2 n.data.length ++ n.data

/-- A notice to one session: the oldest of 64 unacknowledged gives way and is counted as lost (R588). -/
def Dev.noticeTo (s : Dev) (x : Sess) (cls source time : Nat) (data : List Byte) : Dev :=
  let full := decide (64 ≤ x.notes.length)
  let lost := if full then min 65535 (x.lost + 1) else x.lost
  let n : Notice := { nseq := (x.nseq + 1) % 2 ^ 32, cls := cls, source := source, time := time, lost := lost, data := data.take 256 }
  let x1 := { x with notes := (if full then x.notes.drop 1 else x.notes) ++ [n], nseq := n.nseq, lost := 0,
                     noteAt := if x.notes.isEmpty then s.now else x.noteAt }
  (s.putSess x1).emit (.notify x.key (noticeBytes n))

/-- The sessions a class goes to. -/
def Dev.noticeSess (s : Dev) (cls : Nat) : List Sess :=
  s.svc.sess.filter fun x => x.opened && x.mask.testBit cls && (cls != 1 || x.role == roleDealer)

/-- A notice of a class to every session that has it in its mask; a class-1 notice that none receives is counted (R587). -/
def Dev.notice (s : Dev) (cls source time : Nat) (data : List Byte) : Dev :=
  let l := s.noticeSess cls
  if cls = 1 ∧ l.isEmpty then { s with svc.noticeLost := s.svc.noticeLost + 1 }
  else each l s fun s x => match s.sess? x.key with
    | some y => s.noticeTo y cls source time data
    | none => s

/-- Dealer traffic: a control packet to port 52 of the dealer's switch, or a notice of class 1 to an external dealer (R341, R587).
Which switch the dealer's is, a switch learns from the down messages it has from the dealer itself; the spec states no other
way, so that the destination is a free value until then. [log: DESIGN CHOICE 38, DESIGN CHOICE 95, DEDUCED 98] -/
def Dev.toDealer (s : Dev) (b : List Byte) : Dev :=
  if s.dl.dealer.active then s.ctlPacket (s.gpa 52) b
  else match s.dl.from_ with
    | some (.fsid f) => s.ctlPacket (f * 64 + 52) b
    | some .external => s.notice 1 0xFFFF s.ftime b
    | some .directed => let (x, s1) := s.freeNat
                        s1.ctlPacket (x % 2048 * 64 + 52) b
    | none => let (x, s1) := s.freeNat
              (s1.notice 1 0xFFFF s.ftime b).ctlPacket (x % 2048 * 64 + 52) b

/-! Commands and results -/

def Dev.cmdSt (s : Dev) (idx sub : Nat) : CmdSt := tget {} s.svc.cmds (objKey idx sub)
def Dev.modCmd (s : Dev) (idx sub : Nat) (f : CmdSt → CmdSt) : Dev :=
  { s with svc.cmds := tmod {} s.svc.cmds (objKey idx sub) f }

/-- A command accepted on a CMD entry: its RSEQ advances and its action runs (R568, R571). -/
def Dev.cmdStart (s : Dev) (idx sub arg : Nat) : Dev :=
  s.modCmd idx sub fun c => { rseq := if c.rseq = 0xFFFFFFFF then 1 else c.rseq + 1, running := true, arg := arg, at_ := s.now }

/-- The action of a CMD entry ends: its result stands, and a notice of class 2 names its result entry (R570, R587).
[log: DEDUCED 161] -/
def Dev.cmdDone (s : Dev) (idx sub status : Nat) (data : List Byte) : Dev :=
  if (s.cmdSt idx sub).running then
    (s.modCmd idx sub fun c => { c with running := false, status := status, data := data }).notice 2 0xFFFF s.ftime
      (leBytes 2 idx ++ leBytes 1 (sub + 1))
  else s

/-- The result record of a CMD entry (R568). -/
def CmdSt.record (c : CmdSt) : List Byte := leBytes 4 c.rseq ++ leBytes 2 c.status ++ [0, 0] ++ c.data

/-! Load targets -/

def Dev.load (s : Dev) (idx : Nat) : Load := tget {} s.svc.loads idx
def Dev.modLoad (s : Dev) (idx : Nat) (f : Load → Load) : Dev := { s with svc.loads := tmod {} s.svc.loads idx f }

/-- The capacity of a load target by its index (R591). -/
def loadCap (idx : Nat) : Nat :=
  if idx = 0x3000 then 86272 else if idx = 0xA200 then 4194304 else if 0xA100 ≤ idx ∧ idx < 0xA110 then 1952 else 262208

/-- OPEN of a load target: the staging area filled with 0, the offset 0, the session its holder (R591). -/
def Dev.loadOpen (s : Dev) (idx : Nat) (k : SessKey) : Dev := s.modLoad idx fun _ => { holder := some k }

/-- A target's staging area discarded (R592). [log: DEDUCED 139] -/
def Dev.loadDrop (s : Dev) (idx : Nat) : Dev := { s with svc.loads := tdel s.svc.loads idx }

/-- Bytes written into a list of bytes at an offset, zeros filling a gap. -/
def patch (l : List Byte) (off : Nat) (b : List Byte) : List Byte :=
  l.take off ++ List.replicate (off - l.length) 0 ++ b ++ l.drop (off + b.length)

/-- Data stored at a target's offset, which advances (R591). -/
def Dev.loadData (s : Dev) (idx : Nat) (b : List Byte) : Dev :=
  s.modLoad idx fun x => { x with bytes := patch x.bytes x.off b, off := x.off + b.length }

/-- The image of a target: bytes 0 to offset − 1. -/
def Load.image (x : Load) : List Byte := (x.bytes ++ List.replicate (x.off - x.bytes.length) 0).take x.off

/-! State changes -/

/-- The device states an action runs in: those its CMD entry is writable in (R563, R589); MAINTAIN, the one action of state_cmd that
waits, has its own. -/
def actionStates (idx : Nat) : Nat := if idx = 0x2001 ∨ idx / 4096 = 0xA ∧ idx ≠ 0xA200 then 0xFC else if idx = 0x7200 then 0x38 else 0x78

/-- The running actions that a new device state leaves behind end with 0x0405 (R567). [log: DEDUCED 195] -/
def Dev.endActions (s : Dev) (st : Nat) : Dev :=
  each (s.svc.cmds.filter fun e => e.2.running && !(actionStates (e.1 / 256)).testBit st) s fun s e =>
    s.cmdDone (e.1 / 256) (e.1 % 256) 0x0405 []

/-- The device state changes: a notice of class 0 tells the new state (R560, R587); a MAINTAIN that another transition leaves behind
ends (R567). [log: DEDUCED 161, DEDUCED 195] -/
def Dev.setDevState (s : Dev) (st : Nat) : Dev :=
  if s.svc.state = st then s
  else
    let s0 := { s with svc.state := st }
    let s0 := s0.endActions st
    let s1 := if s.svc.maintain.isSome ∧ st ≠ stMaintenance then ({ s0 with svc.maintain := none }).cmdDone 0x2001 1 0x0405 (leBytes 1 st) else s0
    s1.notice 0 0xFFFF s.ftime (leBytes 1 st)

/-! Ends of sessions -/

/-- A load target goes back to what it was before OPEN (R592). [log: DEDUCED 240] -/
def Dev.loadEnd (s : Dev) (idx : Nat) : Dev :=
  let s1 := s.loadDrop idx
  if 0xA100 ≤ idx ∧ idx < 0xA110 then
    { s1 with svc.keys := tmod {} s1.svc.keys (idx - 0xA100) fun k => if k.state = 1 then { k with state := 0 } else k }
  else if 0xB100 ≤ idx ∧ idx < 0xB200 then
    { s1 with eng.progs := tmod {} s1.eng.progs (idx - 0xB100) fun p =>
        if p.state = 1 then { p with state := 0, vs := 0, image := [], digest := [] } else p }
  else s1

/-- A waiting access is a session's request. -/
def BusAcc.ofSess (a : BusAcc) (k : SessKey) : Bool :=
  match a with
  | .read h _ => h.sess == k
  | .write h _ => h.sess == k
  | _ => false

/-- A session closes: its notices go with it, the targets it holds are given up (R583, R588, R592). -/
def Dev.dropSess (s : Dev) (k : SessKey) : Dev :=
  let held := (s.svc.loads.filter fun e => e.2.holder == some k).map (·.1)
  let s1 := each held s fun s i => s.loadEnd i
  { s1 with svc.sess := s1.svc.sess.filter fun x => x.key != k,
            svc.commits := s1.svc.commits.map fun c => if c.sess == k then { c with live := false } else c,
            xing.mwWait := s1.xing.mwWait.filter fun a => !a.ofSess k }

end Sys2Proof.Machine
end

