-- ==== Sys2Proof/Machine/EngBase.lean ====
section
/-! DEFINITION. Engines' shared operations (R488 to R519): registers, addresses and their targets (R492 to R495), cluster
SRAM, halts, faults and the end of a run (R505, R515, R519), loads with forwarding (R524), the flush set (R548). -/
namespace Sys2Proof.Machine

/-- An engine cycle, 0.625 ns, in units. -/
abbrev engCycle : Nat := 5
abbrev mask64 : Nat := 2 ^ 64
abbrev mask256 : Nat := 2 ^ 256

/-! Registers -/

def Dev.en (s : Dev) (e : Nat) : Eng := tget {} s.eng.eng e
def Dev.modEn (s : Dev) (e : Nat) (f : Eng → Eng) : Dev := { s with eng.eng := tmod {} s.eng.eng e f }
def clusterOf (e : Nat) : Nat := e / 16

/-- A general register: g0 reads 0 and ignores writes (R490). -/
def Eng.gr (x : Eng) (i : Nat) : Nat := if i = 0 then 0 else x.g.getD i 0
def Dev.gr (s : Dev) (e i : Nat) : Nat := (s.en e).gr i
def Dev.setG (s : Dev) (e i v : Nat) : Dev :=
  if i = 0 then s else s.modEn e fun x => { x with g := x.g.set i (v % mask64) }
def Dev.vr (s : Dev) (e i : Nat) : Nat := (s.en e).v.getD i 0
def Dev.setV (s : Dev) (e i v : Nat) : Dev := s.modEn e fun x => { x with v := x.v.set i (v % mask256) }
def Dev.pc (s : Dev) (e : Nat) : Nat := s.fget Fld.EN_PC.PC e
def Dev.setPc (s : Dev) (e v : Nat) : Dev := s.fset Fld.EN_PC.PC e (v % 65536)


/-- The states of EN_STAT.STATE. -/
abbrev enIdle : Nat := 0
abbrev enRun : Nat := 1
abbrev enDev : Nat := 2
abbrev enWait : Nat := 3
abbrev enHalt : Nat := 4
abbrev enFw : Nat := 5
def Dev.enState (s : Dev) (e : Nat) : Nat := s.fget Fld.EN_STAT.STATE e
def Dev.setEnState (s : Dev) (e v : Nat) : Dev := s.fset Fld.EN_STAT.STATE e v

/-! Memory of a cluster -/

def sramKey (c off : Nat) : Nat := c * 2097152 + off
/-- [log: DESIGN CHOICE 8] -/
def Dev.sramByte (s : Dev) (c off : Nat) : Byte := tget memEmpty s.eng.sram (sramKey c off)
def Dev.sramRead (s : Dev) (c off : Nat) : Nat → List Byte
  | 0 => []
  | n + 1 => s.sramByte c off :: s.sramRead c (off + 1) n
def Dev.sramWrite (s : Dev) (c off : Nat) (l : List Byte) : Dev :=
  { s with eng.sram := bytesPut s.eng.sram (sramKey c off) l }

/-! Addresses -/

/-- The LPDDR4X allocation of a function: its base and its bytes (R492, R604). -/
def Dev.allocOf (s : Dev) (vs fn : Nat) : Option (Nat × Nat) :=
  match (tkeys s.eng.allocBase).find? fun k =>
      s.onum (0xB400 + k) 1 0 == vs && s.onum (0xB400 + k) 2 0 == fn && s.onum (0xB400 + k) 3 0 != 0 with
  | none => none
  | some k => some (tget 0 s.eng.allocBase k, s.onum (0xB400 + k) 3 0 * 1048576)

/-- A window of the active half as a target: destination, address there, device memory when ATTR is 0, PF (R360, R521). -/
def winTgt (w : Window) (a : Nat) : EngTgt := .win w.dgpa w.vs (a - w.base * 4096 + w.tbase * 4096) (w.attr == 0) w.pf

/-- The target of an address through the windows of a VS, as a request entering at a device port resolves (R493, R361). -/
def Dev.winOf (s : Dev) (vs a : Nat) : Option EngTgt :=
  let ws := (s.windows s.ap).filter fun w => w.vs == vs
  match ws.find? fun w => !w.dflt && decide (w.base * 4096 ≤ a) && decide (a < (w.limit + 1) * 4096) with
  | some w => some (winTgt w a)
  | none => (ws.find? (·.dflt)).map fun w => .win w.dgpa w.vs a (w.attr == 0) w.pf

/-- The target of an access of `len` bytes at an engine address for a function, or a fault code (R492 to R495).
[log: DEDUCED 126] -/
def Dev.target (s : Dev) (vs fn a len : Nat) (store : Bool) : EngTgt ⊕ Nat :=
  let last := a + len
  if last ≤ 0x80000 then (if store then .inr 4 else .inl (.sram a))
  else if 0x80000 ≤ a ∧ last ≤ 0x200000 then .inl (.sram a)
  else if a < 0x80000 then (if store then .inr 4 else if last ≤ 0x200000 then .inl (.sram a) else .inr 3)
  else if 0x100000000 ≤ a ∧ a < 0x4000000000000000 then
    match s.allocOf vs fn with
    | some (b, n) => if last ≤ 0x100000000 + n then .inl (.mem (b + (a - 0x100000000))) else .inr 3
    | none => .inr 3
  else if 0x4000000000000000 ≤ a ∧ a < 0x4000000000000000 + 256 * 2 ^ 48 then
    let sh := (a - 0x4000000000000000) / 2 ^ 48
    let o := (a - 0x4000000000000000) % 2 ^ 48
    let w := s.window s.ap (s.fget Fld.CL_SHARE.WIN sh)
    if !s.fbit Fld.CL_SHARE.VALID sh || s.fget Fld.CL_SHARE.USER_VS sh != vs || !w.valid || w.vs != s.fget Fld.CL_SHARE.WIN_VS sh
        || decide ((w.limit + 1 - w.base) * 4096 < o + len) then .inr 3
    else if store && s.fbit Fld.CL_SHARE.RO sh then .inr 4
    else .inl (winTgt w (w.base * 4096 + o))
  else if 0x8000000000000000 ≤ a ∧ last ≤ 2 ^ 64 then
    match s.winOf vs (a - 0x8000000000000000) with
    | some t => .inl t
    | none => .inr 3
  else .inr 3

def EngTgt.isWin : EngTgt → Bool
  | .win _ _ _ _ _ => true
  | _ => false
def EngTgt.isDev : EngTgt → Bool
  | .win _ _ _ d _ => d
  | _ => false
/-- The destination a window leads to. -/
def EngTgt.dest (t : EngTgt) : Option Nat :=
  match t with
  | .win g _ _ _ _ => some g
  | _ => none
/-- A number that orders targets' bytes: the space and the address. -/
def EngTgt.space (t : EngTgt) : Nat × Nat :=
  match t with
  | .sram o => (0, o)
  | .mem a => (1, a)
  | .win g v a _ _ => (2 + g * 64 + v, a)

/-- Two accesses touch some byte in common. -/
def overlap (t1 : EngTgt) (n1 : Nat) (t2 : EngTgt) (n2 : Nat) : Bool :=
  t1.space.1 == t2.space.1 && decide (t1.space.2 < t2.space.2 + n2) && decide (t2.space.2 < t1.space.2 + n1)

/-- Bytes of SRAM or LPDDR4X at a target now. -/
def Dev.readTgt (s : Dev) (e : Nat) (t : EngTgt) (n : Nat) : List Byte :=
  match t with
  | .sram o => s.sramRead (clusterOf e) o n
  | .mem a => s.memRead a n
  | .win _ _ _ _ _ => []

/-- The engine cycle that runs. -/
def Dev.engCyc (s : Dev) : Nat := s.now / engCycle

/-- The bytes of cluster SRAM or LPDDR4X that a target names, as a space and an address. -/
def turnAt (e : Nat) : EngTgt → Option (Nat × Nat)
  | .sram o => some (2 + clusterOf e, o)
  | .mem a => some (1, a)
  | .win _ _ _ _ _ => none

/-- An access may take effect now (R523): no engine of a higher number has accessed the same bytes in this engine cycle.
[log: DEDUCED 231] -/
def Dev.turnOk (s : Dev) (e : Nat) (l : List (EngTgt × Nat)) : Bool :=
  l.all fun t => match turnAt e t.1 with
    | none => true
    | some (k, a) => !s.eng.turns.any fun x =>
        x.cyc == s.engCyc && decide (e < x.e) && x.space == k && decide (x.lo < a + t.2) && decide (a < x.lo + x.len)

/-- The access is one of this engine cycle. -/
def Dev.takeTurn (s : Dev) (e : Nat) (l : List (EngTgt × Nat)) : Dev :=
  { s with eng.turns := (s.eng.turns.filter fun x => x.cyc == s.engCyc) ++ l.filterMap fun t =>
      (turnAt e t.1).map fun k => { cyc := s.engCyc, e := e, space := k.1, lo := k.2, len := t.2 } }

/-- A byte of an engine's latest buffered store to it (R524); device stores do not forward (R528). -/
def Eng.fwdByte (x : Eng) (t : EngTgt) (i : Nat) : Option Byte :=
  if t.isDev then none else
  match x.sb.reverse.find? fun e => e.tgt.space.1 == t.space.1 && decide (e.tgt.space.2 ≤ t.space.2 + i) &&
      decide (t.space.2 + i < e.tgt.space.2 + e.data.length) with
  | some e => e.data[t.space.2 + i - e.tgt.space.2]?
  | none => none
def Eng.fwdBytes (x : Eng) (t : EngTgt) (n : Nat) : List (Option Byte) := (List.range n).map (x.fwdByte t)

/-- Memory's bytes with the forwarded ones in their places. -/
def mergeFwd (fwd : List (Option Byte)) (l : List Byte) : List Byte :=
  match fwd, l with
  | _, [] => []
  | [], l => l
  | f :: fs, b :: t => f.getD b :: mergeFwd fs t

/-! The end of a run -/

def Dev.runOf (s : Dev) (e : Nat) : Option (Nat × Run) := (s.en e).run.bind fun r => (tfind s.eng.runs r).map fun x => (r, x)

/-- How what an engine sends travels: as its run's descriptor (R513). [log: DEDUCED 238] -/
def Dev.wayOf (s : Dev) (e : Nat) : Option Way := (s.runOf e).map fun r => r.2.desc.way

/-- An access's request is abandoned or forgotten: its tag in silent quarantine (R246, R519). [log: DEDUCED 128] -/
def Dev.dropAccess (s : Dev) (e : Nat) : Dev :=
  let rs := s.sf.reqs.filter fun r => match r.use with
    | .access x _ => x == e
    | .flush x _ => x == e
    | _ => false
  each rs s fun s r => s.sfQuarantine r true

/-- The engine cycles not idle until now are in EN_CYC_CNT. [log: DESIGN CHOICE 230] -/
def Dev.cycSync (s : Dev) (e : Nat) : Dev :=
  let x := s.en e
  if x.run.isNone then s
  else
    let n := (s.now - x.busySince) / engCycle
    (s.count .EN_CYC_CNT e n).modEn e fun x => { x with busySince := x.busySince + n * engCycle }

/-- A store reaches its point of visibility (R522). -/
def Dev.writeStore (s : Dev) (e : Nat) (x : StoreE) (vs fn : Nat) : Dev :=
  match x.tgt with
  | .sram o => s.sramWrite (clusterOf e) o x.data
  | .mem a => s.memWrite a x.data
  | .win g _ a _ _ => (if s.bme vs fn then s.emit (.engineAccess e x.seq (some g) a x.data.length true x.data (s.wayOf e)) else s)

/-- An engine leaves its run: idle, its buffers empty. -/
def Dev.freeEngine (s : Dev) (vs fn e : Nat) : Dev :=
  let x := s.en e
  let s1 := each x.sb s fun s st => s.writeStore e st vs fn
  let s2 := (s1.dropAccess e).cycSync e
  let s3 := s2.modEn e fun x => { ({} : Eng) with nextSeq := x.nextSeq, smp := x.smp, smpFrom := x.smpFrom }
  let c := clusterOf e
  (s3.fsets e [(Fld.EN_STAT.STATE, enIdle), (Fld.EN_STAT.VS, 0), (Fld.EN_STAT.FN, 0)]).fset Fld.CL_STAT.BUSY c
    (s3.fget Fld.CL_STAT.BUSY c - 1)

/-- The code words of the residents as they lie in the code area, one after the other. [log: DEDUCED 134] -/
def Dev.codeBytes (s : Dev) (l : List Resident) : List Byte :=
  l.flatMap fun r => ((tget {} s.eng.progs r.slot).image.drop 64).take (8 * r.words)

/-- The residency of a cluster as its registers and its code area show it. [log: DEDUCED 134] -/
def Dev.setResidents (s : Dev) (c : Nat) (l : List Resident) : Dev :=
  let old := tget [] s.eng.res c
  let s1 := { s with eng.res := tput [] s.eng.res c l }
  if old.map (fun r => (r.slot, r.words)) = l.map (fun r => (r.slot, r.words)) then s1
  else
    (s1.sramWrite c 0 (s.codeBytes l)).fsets c [(Fld.CL_STAT.CODE_KIB, ceilDiv ((l.map (·.words)).sum) 128),
      (Fld.CL_STAT.RESIDENT, min 15 l.length)]

/-- A program slot becomes EMPTY: the program leaves the code areas, its generation and prog_expect stay (R506, R508).
[log: DEDUCED 240] -/
def Dev.emptySlot (s : Dev) (slot : Nat) : Dev :=
  let s1 := { s with eng.progs := tmod {} s.eng.progs slot fun p => { ({} : Prog) with gen := p.gen, expect := p.expect } }
  each (tkeys s1.eng.res) s1 fun s c =>
    let l := tget [] s.eng.res c
    if l.any fun r => r.slot == slot then s.setResidents c (l.filter fun r => r.slot != slot) else s

/-- A RETIRING program with no run left becomes EMPTY once the engine cycle of its RETIRE is over, in which it can still be dispatched, and
the result of its RETIRE is written (R506, R509, R603). -/
def Dev.retireCheck (s : Dev) (slot : Nat) : Dev :=
  if (tget {} s.eng.progs slot).state = 4 ∧ (tget {} s.eng.progs slot).retireAt < s.engCyc ∧ ¬ (s.eng.runs.any fun e => e.2.slot == slot) then
    (s.emptySlot slot).cmdDone (0xB100 + slot) 1 0 []
  else s

/-- The RETIRING programs, as an engine cycle ends. -/
def Dev.retireTick (s : Dev) : Dev :=
  each ((s.eng.progs.filter fun e => e.2.state == 4).map (·.1)) s fun s slot => s.retireCheck slot

/-- A run ends: its engines are free, its cycles are charged to its function (R516), its record is written (R511, R515). -/
def Dev.endRun (s : Dev) (r : Nat) : Dev :=
  match tfind s.eng.runs r with
  | none => s
  | some x =>
    let s1 := each x.engines s fun s e => s.freeEngine x.vs x.fn e
    let k := sfKey x.vs x.fn
    let cyc := (s.now - max x.startAt s.eng.quantumStart) / engCycle * x.engines.length
    let s2 := { s1 with eng.runs := tdel s1.eng.runs r, eng.used := tmod 0 s1.eng.used k (· + cyc) }
    let info : RecInfo := { status := x.status, flags := x.flags, fcode := x.fcode, fpc := x.fpc, faddr := x.faddr,
                            result := if x.status = 0 then x.result else 0 }
    ((s2.complete x.q x.desc.idx info).fcount x.vs x.fn 5 ((s.now - x.startAt) / engCycle * x.engines.length)).retireCheck x.slot

/-- A run stops with a status at the operation boundary (R519). [log: DEDUCED 129] -/
def Dev.stopRun (s : Dev) (r status : Nat) : Dev :=
  match tfind s.eng.runs r with
  | none => s
  | some x => ({ s with eng.runs := tins s.eng.runs r { x with status := status } }).endRun r

/-- A fault (R505): the first of a run is recorded at its engine and in its completion record; the run ends.
[log: DESIGN CHOICE 124] -/
def Dev.engFault (s : Dev) (e code addr : Nat) : Dev :=
  match s.runOf e with
  | none => s
  | some (r, x) =>
    let pc := s.pc e
    let s1 := if s.fbit Fld.EN_FAULT.VALID e then s else
      (s.fsets e [(Fld.EN_FAULT.VALID, 1), (Fld.EN_FAULT.CODE, code), (Fld.EN_FAULT.PC, pc)]).rset .EN_FAULT_ADDR e addr
    let s2 := { s1 with eng.runs := tins s1.eng.runs r { x with status := 1, fcode := code, fpc := pc, faddr := addr } }
    (s2.endRun r).setEnState e enHalt

/-- A run that needs a new request while Bus Master Enable is 0 ends with status BMDISABLED (R247). [log: DEDUCED 58] -/
def Dev.bmEnd (s : Dev) (e : Nat) : Dev :=
  match s.runOf e with
  | some (r, _) => s.stopRun r 5
  | none => s

/-! Window requests -/

/-- A read request of an engine through a window takes a tag of its function and leaves (R242, R493). -/
def Dev.sendRead (s : Dev) (e : Nat) (vs fn tag seq : Nat) (g : Option Nat) (addr len : Nat) : Dev :=
  (s.sfSend vs fn tag (.access e seq)).emit (.engineAccess e seq g addr len false [] (s.wayOf e))

/-- The tags of a function suffice for the flush reads of an engine. -/
def Dev.flushTags (s : Dev) (e vs fn : Nat) : Bool :=
  let busy := (s.sf.reqs.filter fun r => r.vs == vs && r.fn == fn).length + (s.sf.quar.filter fun r => r.vs == vs && r.fn == fn).length
  decide ((s.en e).flush.length + busy ≤ (s.tagsOf vs fn).length)

/-- The reads of a system barrier or of a full flush set (R548, R549). [log: DEDUCED 128] -/
def Dev.flushReads (s : Dev) (e vs fn : Nat) : Dev :=
  each (s.en e).flush s fun s g =>
    match s.freeTag vs fn with
    | some t => (s.sfSend vs fn t (.flush e g.1)).emit (.flushRead e g.1 g.2 (s.wayOf e))
    | none => s

/-- Whether a flush read of an engine is outstanding. -/
def Dev.flushing (s : Dev) (e : Nat) : Bool :=
  s.sf.reqs.any fun r => match r.use with
    | .flush x _ => x == e
    | _ => false

/-- The program's code words. -/
def Dev.progWords (s : Dev) (slot : Nat) : Nat := leNat (((tget {} s.eng.progs slot).image.drop 8).take 4)

/-- An operation word of its code and fields (R496). -/
def opWord (op : Nat) (w : OpWord) : Nat :=
  ((((((op * 16 + w.d) * 16 + w.a) * 16 + w.b) * 16 + w.m) * 256) + w.resv) * 2 ^ 32 + w.imm

/-- The code and the fields of an operation word (R496). [log: DEDUCED 118] -/
def opWordOf (x : Nat) : Nat × OpWord :=
  (x / 2 ^ 56 % 256, ⟨x / 2 ^ 52 % 16, x / 2 ^ 48 % 16, x / 2 ^ 44 % 16, x / 2 ^ 40 % 16, x / 2 ^ 32 % 256, x % 2 ^ 32⟩)

/-- The assigned operation codes, by class: load and store, atomic, move, vector, reduce, wait and signal, branch, barrier (R497).
[log: DEDUCED 118] -/
def opAssigned (op : Nat) : Bool :=
  (1 ≤ op && op ≤ 7) || (0x10 ≤ op && op ≤ 0x15) || (0x20 ≤ op && op ≤ 0x2E) || (0x40 ≤ op && op ≤ 0x46) ||
  (0x50 ≤ op && op ≤ 0x52) || (0x60 ≤ op && op ≤ 0x62) || (0x70 ≤ op && op ≤ 0x75) || op == 0x78

/-- The word of a program at a PC: its image's words follow the header of 64 bytes, little-endian (R506). -/
def Dev.codeWord (s : Dev) (slot pc : Nat) : Nat := leNat (((tget {} s.eng.progs slot).image.drop (64 + 8 * pc)).take 8)

/-- The word at an engine's PC, none past the last word of its run's program. [log: DEDUCED 118] -/
def Dev.wordAt (s : Dev) (e : Nat) : Option Nat := match s.runOf e with
  | some (_, r) => if s.pc e < s.progWords r.slot then some (s.codeWord r.slot (s.pc e)) else none
  | none => none

/-- The prefetch buffer is emptied, and what is on its way fills no entry (R532, R544). [log: DEDUCED 239] -/
def Eng.pfClear (x : Eng) : Eng := { x with pf := [], acc := x.acc.map fun a => { a with noFill := true } }

/-- The clusters' prefetch buffers lose what a deal's apply instant discards (R544). -/
def Dev.pfFlushAll (s : Dev) : Dev := each (tkeys s.eng.eng) s fun s e => s.modEn e Eng.pfClear

end Sys2Proof.Machine
end

