-- ==== Sys2Proof/Machine/Ingress.lean ====
section
/-! DEFINITION. Ingress decode (R54), resolution of destinations (windows, bindings, bus map, messages; R56, R360, R361,
R365, R368), access control services (R190), locks (R402 to R405), end-to-end sequence numbers at the source (R413) and at
the destination (R417), the lookup of the first flit and the reservation of a non-posted request (R371). -/
namespace Sys2Proof.Machine

abbrev seqMod : Nat := 16777216
abbrev noVs : Nat := 0x1FFF

/-- The request type of a TLP. -/
def tlpType (k : TlpKind) : PType :=
  if tlpNonPosted k then .nonPosted else if tlpCompletion k then .completion else .posted

/-- The ordering class of a traffic class and the core class of an ordering class under a VS's maps (R63). -/
def Dev.ocOf (s : Dev) (vs tc : Nat) : Nat := bitsOf (s.fget Fld.XB_VS_TCMAP.OC_FOR_TC vs) (3 * tc + 2) (3 * tc)
def Dev.ccOf (s : Dev) (vs oc : Nat) : Nat := bitsOf (s.fget Fld.XB_VS_OCMAP.CC_FOR_OC vs) (3 * oc + 2) (3 * oc)

/-- The flits of `b` bytes (R52). -/
def flitsOf (b : Nat) : Nat := max 1 (ceilDiv b 236)

/-- A packet enters the tables with the next number. [log: DESIGN CHOICE 13] -/
def Dev.enter (s : Dev) (p : Pkt) : Dev :=
  let s1 := s.putPkt s.fwd.nextPid { p with decNow := s.now, decTime := s.ftime }
  { s1 with fwd.nextPid := s.fwd.nextPid + 1 }

/-- The present core cycle is that of a prepared deal's apply instant, or a later one: the first that starts at or after T, or the one
after that in which a late GO came (R437). [log: DEDUCED 90] -/
def Dev.dealDue (s : Dev) : Bool :=
  match s.dl.goLate, s.dl.goT with
  | some c, _ => decide (c < s.cycle)
  | none, some t => decide (t ≤ s.sampled)
  | none, none => false

/-- The epoch parity of a packet decoded now (R55): the new deal's from the core cycle of its apply instant on, whichever of the
two comes first in that cycle. -/
def Dev.decodeParity (s : Dev) : Nat :=
  match s.dl.prepEpoch with
  | some e => if s.dealDue then e % 2 else s.ap
  | none => s.ap

/-- The error of a TLP at the port it entered by (R191): logged at the USP of a host port's VS, or at the vDSP bound to a device
port. -/
def Dev.aerAtPort (s : Dev) (n : Nat) (e : PcieErr) (hdr : HdrLog) : Dev :=
  match s.vsOfHost n with
  | some v => s.aer v uspNo e hdr
  | none => match s.bindAt s.ap n with
    | some b => s.aer b.vs b.vdsp e hdr
    | none => s

/-- The bus map's code of a bus of a VS (R366): upstream where no other source claims the bus. [log: DEDUCED 23] -/
def Dev.busCode (s : Dev) (vs bus : Nat) : Nat := tget 256 s.rt.busMap (vs * 256 + bus)

/-- The code that a TLP decoded now uses: the one before an update of this core cycle (R367). -/
def Dev.busAt (s : Dev) (vs bus : Nat) : Nat :=
  match s.rt.busOld with
  | some (c, t) => if c = s.cycle then tget 256 t (vs * 256 + bus) else s.busCode vs bus
  | none => s.busCode vs bus

/-- A TLP as the core carries it: in the flit-mode format, whatever the mode of the link it came by (R390).
[log: DESIGN CHOICE 12] -/
def Dev.tlpIn (s : Dev) (port : Nat) (t : Tlp) : Tlp :=
  if s.fbit Fld.PCI_PORT_STAT.FLIT port then t
  else { t with raw := Config.toFlitMode t.raw, len := (Config.toFlitMode t.raw).length }

/-- An error message that enters at a device port and triggers DPC at its vDSP (R194), with the trigger reason: it goes no further.
[log: PRESUMED 42] -/
def Dev.errTrigger (s : Dev) (port : Nat) (t : Tlp) : Option (Binding × Nat) :=
  if s.isDevice port ∧ t.kind = .msg then
    (s.bindAt s.ap port).bind fun b =>
      let en := bitsOf (s.ctlOf b.vs b.vdsp).dpcCtl 1 0
      if en = 2 ∧ t.code = msgNonfatal then some (b, 1)
      else if (en = 1 ∨ en = 2) ∧ t.code = msgFatal then some (b, 2)
      else none
  else none

/-- The decode of a TLP at a host or device port (R54, R64), of which `arrived` core flits have come: all of them where the link runs
without flit mode (R72). One beyond the credit advertised is discarded (R60, R80); a malformed one is the receiver's error (R191).
[log: DESIGN CHOICE 13, PRESUMED 39, DEDUCED 237] -/
def Dev.ingressPcie (s : Dev) (port : Nat) (x : Tlp) (arrived : Nat) : Dev :=
  if s.enabled port ∧ (s.role port = 0 ∨ s.role port = 1) ∧ (s.pport port).up then
    let t := s.tlpIn port x
    let vs := if s.role port = 0 then (s.vsOfHost port).getD noVs else ((s.bindAt s.ap port).map (·.vs)).getD noVs
    let oc := if vs = noVs then t.tc else s.ocOf vs t.tc
    let n := flitsOf t.len
    let k := if s.fbit Fld.PCI_PORT_STAT.FLIT port then max 1 (min arrived n) else n
    let p : Pkt := { port := port, vs := vs, typ := tlpType t.kind, oc := oc, cc := if vs = noVs then oc else s.ccOf vs oc,
                     par := s.decodeParity, content := .tlp t, nfl := n, arrived := k, inFl := n, inArr := k,
                     saf := s.fbit Fld.XB_PORT_CTRL.SAF port || !s.fbit Fld.PCI_PORT_STAT.FLIT port,
                     idCode := s.busAt vs (t.target / 256 % 256), srcCode := s.busAt vs (t.reqId / 256) }
    let s1 := s.count .TM_PORT_RXB port x.len
    if s.creditGiven port < n then
      let s2 := (s1.dropLog p 6).aerAtPort port .receiverOverflow (s.hdrLogOf port t)
      if p.typ = .posted then s2.perrReport p 6 else s2
    else
      let s2 := { s1 with fwd.pciTaken := tmod 0 s1.fwd.pciTaken port (· + n) }
      if t.malformed then s2.aerAtPort port .malformedTlp (s.hdrLogOf port t)
      else match s.errTrigger port t with
        | some (b, r) => s2.dpcMessage b.vs b.vdsp r t.reqId
        | none => s2.enter p
  else s

/-- More flits of a packet have come: those of its flits that are whole now, with their cycle of lookup once it has had its own (R72,
R90). [log: DESIGN CHOICE 13] -/
def Dev.flitsCome (s : Dev) (pid inArr : Nat) : Dev :=
  match s.pkt? pid with
  | none => s
  | some p =>
    let k := if p.inFl ≤ inArr then p.nfl else min inArr (p.nfl - 1)
    let base := max (s.cycle + 2) ((p.fresh.getLast?.map (· + 1)).getD 0)
    let new := if p.stage = .decoded then [] else (List.range (k - p.arrived)).map (base + ·)
    s.putPkt pid { p with inArr := max p.inArr inArr, arrived := max p.arrived k, fresh := p.fresh ++ new }

/-- More flits of a TLP at a host or device port (R72). [log: DESIGN CHOICE 13] -/
def Dev.ingressMore (s : Dev) (port pid n : Nat) : Dev :=
  match s.pkt? pid with
  | some p => if p.port = port ∧ port < 48 ∧ p.arrEnv.isNone ∧ p.inArr < p.inFl then s.flitsCome pid (min p.inFl (p.inArr + n)) else s
  | none => s

/-- The bytes of a packet's content. -/
def contentLen : Content → Nat
  | .tlp t => t.len
  | .ctl b => b.length
  | .marker _ _ => 0

/-- A packet of an engine group or of port 52 (R54). [log: DESIGN CHOICE 15] -/
def Dev.ingressInternal (s : Dev) (port : Nat) (p : IntPkt) : Dev :=
  if 48 ≤ port ∧ port ≤ 52 then
    let n := flitsOf (contentLen p.content)
    s.enter { port := port, vs := p.vs, typ := p.typ, oc := p.oc, cc := p.cc, par := s.decodeParity, content := p.content, nfl := n,
              arrived := n, inFl := n, inArr := n, saf := p.saf, dest := p.dgpa, topen := p.topen, tclose := p.tclose, via := p.via,
              unit := p.unit }
  else s

/-- The request type an envelope names (R387). -/
def envType : Nat → PType
  | 0 => .posted | 1 => .nonPosted | 2 => .completion | _ => .control

/-- The next packet of which a fabric port's link has accepted the first flit (R72, R389). [log: DESIGN CHOICE 13] -/
def Dev.ingressFabric (s : Dev) (port : Nat) (t : Option Tlp) : Dev :=
  if s.isFabric port then
    let b := tget {} s.bl.ports port
    match b.inbox with
    | [] => s
    | x :: rest =>
      let e := x.env
      let rx := if x.last then b.rx else b.rx.map fun r => { r with pid := some s.fwd.nextPid }
      let s1 := { s with bl.ports := tput {} s.bl.ports port { b with inbox := rest, rx := rx } }
      let n := flitsOf (16 + e.tlen)
      let k := if x.last then n else min x.flits (n - 1)
      let c : Content := if e.typ = 3 then .ctl x.bytes else .tlp { (t.getD {}) with raw := x.bytes, len := e.tlen }
      s1.enter { port := port, vs := e.vs, typ := envType e.typ, oc := e.oc, cc := x.cc, par := e.ep, arrEnv := some e, content := c,
                 nfl := n, arrived := k, inFl := n, inArr := k, dest := e.dgpa, saf := s.fbit Fld.XB_PORT_CTRL.SAF port,
                 eseq := if e.typ = 3 then none else some e.eseq, lockTlp := e.lock, tok := e.tok }
  else s

/-! Destinations -/

/-- Where a packet goes: a drop with a reason code, the answer of an unbound port, a silent end, the completion of a locked
read by the VS (R404), or a destination with the TLP as sent on. -/
inductive Dest where
  | drop (reason : Nat)
  | unbound
  | silent
  | lockUr
  | acs
  | to (dgpa : Nat) (t : Option Tlp)
  | all (dgpas : List Nat)
  deriving DecidableEq, Repr

/-- The port of what issued a request of a service function (R368, R488): the engine group of its engine, group 0 for what firmware
reads, and else port 52. [log: DEDUCED 206] -/
def Dev.issuerPort (s : Dev) (vs rid tag : Nat) : Nat :=
  match s.sf.reqs.find? fun r => r.vs == vs && r.tag == tag && s.sfRid vs r.fn == rid with
  | some r => match r.use with
    | .access e _ => 48 + e / 64
    | .flush e _ => 48 + e / 64
    | .firmware _ _ => 48
    | .fetch _ => 52
  | none => 52

/-- The destination of an ID-routed TLP whose bus has a code (R368). [log: DEDUCED 206] -/
def Dev.byId (s : Dev) (par vs code t tag : Nat) : Dest :=
  let hp := s.hgpa par vs
  if code < 256 then
    match s.bindOf par vs code with
    | some b => .to b.dgpa none
    | none => .drop 2
  else match hp with
    | none => .drop 2
    | some h =>
      if code = 256 then .to h none
      else if (code = 257 ∧ t % 8 = 0) ∨ code = 258 then .to (gpaFsid h * 64 + 52) none
      else .to (gpaFsid h * 64 + s.issuerPort vs t tag) none

/-- The destination of an address-routed TLP (R360, R361). -/
def Dev.byAddress (s : Dev) (par vs : Nat) (fromDevice : Bool) (t : Tlp) : Dest :=
  let ws := (s.windows par).filter fun w => w.vs == vs
  match ws.find? fun w => !w.dflt && decide (w.base * 4096 ≤ t.addr) && decide (t.addr < (w.limit + 1) * 4096) with
  | some w =>
    let a := t.addr - w.base * 4096 + w.tbase * 4096
    .to w.dgpa (if a = t.addr then none else some { t with addr := a, raw := Config.tlpEdit t.raw { t with addr := a } })
  | none =>
    match if fromDevice then ws.find? (·.dflt) else none with
    | some w => .to w.dgpa none
    | none => .drop 1

/-- The ACS controls of the vDSP applied to what enters at its bound device port (R189, R190), with PCI Express's meaning of
each control: source validation, translation blocking, upstream forwarding of what is addressed to the port it entered by, request and
completion redirect, egress control, direct translated peer-to-peer. [log: PRESUMED 224] -/
def Dev.acsApply (s : Dev) (p : Pkt) (t : Tlp) (n : Nat) (d : Dest) : Dest :=
  let ctl := (s.ctlOf p.vs n).acsCtl
  let vec := (s.ctlOf p.vs n).acsVec
  let req := !tlpCompletion t.kind
  if req ∧ ctl.testBit 0 ∧ p.srcCode ≠ n then .acs
  else if req ∧ ctl.testBit 1 ∧ (t.translated ∨ t.transReq) then .acs
  else match d with
    | .to g x =>
      match (s.bindings p.par).find? fun b => b.vs == p.vs && b.dgpa == g with
      | none => d
      | some b =>
        let up := match s.hgpa p.par p.vs with
          | some h => Dest.to h none
          | none => d
        if g = s.gpa p.port then (if ctl.testBit 4 then up else .drop (if req then 1 else 2))
        else if req then
          if t.translated ∧ ctl.testBit 6 then d
          else if ctl.testBit 5 ∧ vec.testBit b.vdsp then (if ctl.testBit 2 then up else .acs)
          else if ctl.testBit 2 then up else .to g x
        else if ctl.testBit 3 ∧ ¬ t.ro then up else d
    | _ => d

/-- The lock of a VS (XB_LOCK). -/
def Dev.lockHeld (s : Dev) (vs : Nat) : Bool := s.fbit Fld.XB_LOCK.HELD vs

/-- The destination of a TLP that entered at a host or device port. -/
def Dev.resolveTlp (s : Dev) (p : Pkt) (t : Tlp) : Dest :=
  if p.vs = noVs then .unbound else
  let host := s.isHost p.port
  let hg := s.hgpa p.par p.vs
  let up : Dest := match hg with
    | some h => .to h none
    | none => .drop 2
  let base : Dest := match t.kind with
    | .memRd | .memWr | .ioRd | .ioWr | .fetchAdd | .swap | .cas => s.byAddress p.par p.vs (!host) t
    | .memRdLk =>
      if !host then .lockUr else
        match s.byAddress p.par p.vs false t with
        | .to g x =>
          if s.lockHeld p.vs ∧ (s.fget Fld.XB_LOCK.DGPA p.vs ≠ g ∨ s.fbit Fld.XB_LOCK.BROKEN p.vs) then .lockUr else .to g x
        | d => d
    | .cfgRd | .cfgWr | .cpl | .cplD | .cplLk | .cplDLk => s.byId p.par p.vs p.idCode t.target t.tag
    | .unlock => if host ∧ s.lockHeld p.vs then .to (s.fget Fld.XB_LOCK.DGPA p.vs) none else if host then .silent else up
    | .msg | .vdm =>
      match t.route with
      | .toRoot | .gather => up
      | .byAddress => s.byAddress p.par p.vs (!host) t
      | .byId => s.byId p.par p.vs p.idCode t.target t.tag
      | .broadcast => .all (((s.bindings p.par).filter fun b => b.vs == p.vs).map (·.dgpa))
      | .local => .to (s.gpa 52) none
  if host then base
  else match s.bindAt p.par p.port with
    | some b => s.acsApply p t b.vdsp base
    | none => base

/-- The destination of a packet (pseudocode of *Lookup*; R343 for a switch that has not joined). -/
def Dev.resolve (s : Dev) (p : Pkt) : Dest :=
  match p.arrEnv with
  | some e => if !s.joined then (if gpaPort e.dgpa = 52 then .to (s.gpa 52) none else .drop 3) else .to e.dgpa none
  | none =>
    if p.port ≥ 48 then .to p.dest none
    else match p.content with
      | .tlp t => s.resolveTlp p t
      | _ => .silent

/-- Whether a destination is on another switch. -/
def Dev.isRemote (s : Dev) (p : Pkt) (g : Nat) : Bool := p.via.isSome || (gpaFsid g != s.fsid)

/-! End-to-end sequence numbers -/

def strKey (f oc : Nat) : Nat := 8 * f + oc
def Dev.outS (s : Dev) (d oc : Nat) : OutStream := tget {} s.dl.outs (strKey d oc)
def Dev.modOut (s : Dev) (d oc : Nat) (g : OutStream → OutStream) : Dev := { s with dl.outs := tmod {} s.dl.outs (strKey d oc) g }
def Dev.inS (s : Dev) (f oc : Nat) : InStream := tget {} s.dl.ins (strKey f oc)
def Dev.modIn (s : Dev) (f oc : Nat) (g : InStream → InStream) : Dev := { s with dl.ins := tmod {} s.dl.ins (strKey f oc) g }
def Dev.nd (s : Dev) (f oc : Nat) : Nat := s.fget Fld.DL_FENCE_IN.VALUE (strKey f oc)
def Dev.ordered (s : Dev) (f oc : Nat) : Bool := s.fbit Fld.DL_FENCE_IN.ORDERED (strKey f oc)
def seqSub (a b : Nat) : Nat := (a + seqMod - b % seqMod) % seqMod

/-- The cells of a request's shelf (R382). -/
def shelfOf (t : Tlp) : Nat :=
  if (t.kind = .memRd ∨ t.kind = .memRdLk) ∧ 1 ≤ t.bytes then (t.addr + t.bytes - 1) / 64 - t.addr / 64 + 1 else 1

/-- Whether a packet of this switch takes an ESEQ toward a destination, and which destination FSID (R413). -/
def Dev.seqDest (s : Dev) (p : Pkt) : Option Nat :=
  if p.arrEnv.isSome ∨ p.typ = .control ∨ p.typ = .marker then none
  else match s.resolve p with
    | .to g _ => if s.isRemote p g then some (gpaFsid g) else none
    | _ => none

/-- A request whose shelf exceeds its whole pool never enters the fabric (R383). -/
def Dev.overShelf (s : Dev) (p : Pkt) : Bool :=
  match p.typ, p.tlp? with
  | .nonPosted, some t => decide (s.shelfSize p.par p.port < shelfOf t)
  | _, _ => false

/-- ESEQ_ASSIGN (R413 to R415): the next ESEQ of the stream in decode order, one a core cycle, while fewer than 1,024 are
unacknowledged and no SKIP is awaited (R423). -/
def eseqAssign (pid : Nat) (s : Dev) : Dev :=
  match s.pkt? pid with
  | none => s
  | some p =>
    match s.seqDest p with
    | none => s
    | some d =>
      let o := s.outS d p.oc
      let earlier := s.fwd.pkts.any fun e =>
        decide (e.1 < pid) && e.2.oc == p.oc && e.2.stage == .decoded && e.2.eseq.isNone && !s.overShelf e.2 &&
          s.seqDest e.2 == some d
      if p.stage = .decoded ∧ p.eseq.isNone ∧ ¬ s.overShelf p ∧ ¬ earlier ∧ o.skip.isNone ∧ seqSub o.next o.oldest < 1024
          ∧ o.lastCycle ≠ some s.cycle then
        (s.putPkt pid { p with eseq := some o.next }).modOut d p.oc fun o =>
          { o with next := (o.next + 1) % seqMod, lastCycle := some s.cycle,
                   timer := if o.timer.isNone then some (s.now + s.fget Fld.DL_CFG.E2E_TO 0 * tUs) else o.timer }
      else s

def execEseqAssign (pid : Nat) (s : State) : Host.Outcome State Fault Refusal := s.act (eseqAssign pid)

/-- A packet into its egress queue, behind those queued before it; a port that held none starts its stall clock (R84). -/
def Dev.enqueue (s : Dev) (pid : Nat) : Dev :=
  match s.pkt? pid with
  | none => s
  | some p =>
    let s1 := s.putPkt pid { p with stage := .queued, ord := s.fwd.nextOrd, queuedTime := s.ftime }
    let s2 := { s1 with fwd.nextOrd := s.fwd.nextOrd + 1 }
    let s3 := if (tfind s2.fwd.stallFrom p.egr).isNone ∨ ¬ s.portHolds p.egr then { s2 with fwd.stallFrom := tins s2.fwd.stallFrom p.egr s.now } else s2
    s3.sampleDepth p.egr p.cc

/-- A packet into its egress queue, or discarded where its port is contained (R85). -/
def Dev.enqueueAt (s : Dev) (pid : Nat) : Dev :=
  match s.pkt? pid with
  | some p => if s.isContained p.egr then s.discard pid 8 else s.enqueue pid
  | none => s

/-- The packets of a stream held in ordered mode, in ESEQ order from ND (R417). -/
def insertBy (key : Nat → Nat) (x : Nat) : List Nat → List Nat
  | [] => [x]
  | y :: t => if key x < key y then x :: y :: t else y :: insertBy key x t
def sortBy (key : Nat → Nat) (l : List Nat) : List Nat := l.foldr (insertBy key) []

def Dev.heldOf (s : Dev) (f oc : Nat) : List Nat :=
  let l := (s.fwd.pkts.filter fun e =>
    e.2.stage == .held && e.2.oc == oc && ((e.2.arrEnv.map fun v => gpaFsid v.sgpa) == some f)).map (·.1)
  sortBy (fun pid => seqSub (((s.pkt? pid).bind (·.eseq)).getD 0) (s.nd f oc)) l

/-- Held packets released into their egress queues in ESEQ order. -/
def Dev.releaseHeld (s : Dev) (l : List Nat) : Dev := each l s fun s pid => s.enqueueAt pid

/-- How many consecutive bits of a mask are set from bit 0 (at most 1,024). -/
def onesFrom (m : Nat) : Nat → Nat
  | 0 => 0
  | n + 1 => if m.testBit 0 then 1 + onesFrom (m / 2) n else 0

/-- ND past the fence point (R427 step 5). -/
def pastPoint (nd point : Nat) : Bool := decide (seqSub nd (point + 1) < seqMod / 2)

/-- Ordered mode ends once ND passes the fence point: every packet still held is released (R428). -/
def Dev.orderedExit (s : Dev) (f oc : Nat) : Dev :=
  if s.ordered f oc ∧ pastPoint (s.nd f oc) (s.inS f oc).point then
    (s.releaseHeld (s.heldOf f oc)).fset Fld.DL_FENCE_IN.ORDERED (strKey f oc) 0
  else s

/-- ND advances over the packet just received and every following set bit; held packets it passes are released (R417). -/
def Dev.advance (s : Dev) (f oc : Nat) : Dev :=
  let i := s.inS f oc
  let k := 1 + onesFrom (i.mask / 2) 1024
  let nd := s.nd f oc
  let rel := (s.heldOf f oc).filter fun pid => decide (seqSub (((s.pkt? pid).bind (·.eseq)).getD 0) nd < k)
  let s1 := (s.releaseHeld rel).fset Fld.DL_FENCE_IN.VALUE (strKey f oc) ((nd + k) % seqMod)
  (s1.modIn f oc fun i => { i with mask := i.mask / 2 ^ k, advAt := if i.advAt.isNone then some s.now else i.advAt }).orderedExit f oc

/-- The destination's classification of a sequenced packet (R417, R418). -/
inductive SeqCase where
  | next | ahead | duplicate | outside
  deriving DecidableEq, Repr

def Dev.classify (s : Dev) (f oc eseq : Nat) : SeqCase :=
  let d := seqSub eseq (s.nd f oc)
  if d = 0 then .next
  else if d < 1024 then (if (s.inS f oc).mask.testBit d then .duplicate else .ahead)
  else if d < 8388608 then .outside else .duplicate

/-! Completions at the requester's switch -/

def Dev.findReq (s : Dev) (reqId tag : Nat) : Option Req := s.xing.reqs.find? fun r => r.reqId == reqId && r.tag == tag

/-- Cells reserved in a shelf pool, the peak following. -/
def Dev.shelfTake (s : Dev) (port n : Nat) : Dev :=
  let r := s.fget Fld.RT_SHELF_USE.RESV port + n
  let s1 := s.fset Fld.RT_SHELF_USE.RESV port r
  if s1.fget Fld.RT_SHELF_USE.PEAK port < r then s1.fset Fld.RT_SHELF_USE.PEAK port r else s1

/-- A request ends: the unused rest of its shelf returns (R384). -/
def Dev.endReq (s : Dev) (r : Req) : Dev :=
  let s1 := s.shelfReturn r.port r.shelf
  { s1 with xing.reqs := s1.xing.reqs.filter fun q => !(q.reqId == r.reqId && q.tag == r.tag) }

/-- Whether a completion is the last of its request: it carries all bytes left, or none. -/
def lastCpl (t : Tlp) (left : Nat) : Bool := t.data.isEmpty || t.status != 0 || decide (left ≤ t.data.length)

/-- An unsuccessful completion of a lock's first read ends the lock (R402). -/
def Dev.lockReadFails (s : Dev) (vs : Nat) (t : Tlp) : Dev :=
  if t.status ≠ 0 ∧ tfind s.xing.lockRead vs = some (t.reqId, t.tag) then s.fset Fld.XB_LOCK.HELD vs 0 else s

/-- A completion for a request of this switch: its flits take cells of the shelf, the last ends the request. -/
def Dev.acceptCpl (s : Dev) (r : Req) (t : Tlp) (cells : Nat) : Dev :=
  let used := min cells r.shelf
  let r1 := { r with shelf := r.shelf - used, left := r.left - t.data.length, expAt := none }
  let s1 := { s with xing.reqs := s.xing.reqs.map fun q => if q.reqId == r.reqId && q.tag == r.tag then r1 else q }
  let s2 := if lastCpl t r.left then s1.endReq r1 else s1
  if r.locked then s2.lockReadFails r.vs t else s2

/-- A late completion: discarded, counted, and its quarantine ended (R396). -/
def Dev.lateCpl (s : Dev) (t : Tlp) : Dev :=
  let s1 := s.count .XB_FLATE_CNT 0 1
  { s1 with xing.quar := s1.xing.quar.filter fun q => !(q.reqId == t.reqId && q.tag == t.tag) }

/-! Lookup -/

/-- The shaped flow of a packet (R136). [log: DESIGN CHOICE 211] -/
def Dev.flowOf (s : Dev) (egr vs cc : Nat) : Option Nat :=
  let i := 48 * egr + vs
  if egr < 48 ∧ vs < 48 ∧ s.fbit Fld.SCH_FSEL_W.EN i then
    some (s.fget Fld.SCH_FSEL_W.BASE i + (if s.fbit Fld.SCH_FSEL_W.MODE i then cc else 0))
  else none

/-- The crossbar input of an ingress port, and the crossbar output of an egress port (R43, R69). -/
def xbarOf (port : Nat) : Nat := if port < 48 then port / 4 else port - 36

/-- Whether a lock's trick, or an opening flit of it, stands for a port, input and VS (R405). -/
def Dev.lockOpen (s : Dev) (egr input vs : Nat) : Bool :=
  (s.lockTricks egr).any (fun t => t.input == input && t.vs == vs) ||
    s.fwd.pkts.any fun e => e.2.egr == egr && e.2.topen && e.2.vs == vs && xbarOf e.2.port == input && e.2.stage == .queued

/-- The answer of an unbound device port (R365). -/
def Dev.unboundAnswer (s : Dev) (pid : Nat) (p : Pkt) : Dev :=
  let s1 := ((s.dropLog { p with vs := noVs } 2).raise (evPort p.port)).delPkt pid
  match p.typ, p.tlp? with
  | .nonPosted, some t => s1.emit (.tlp p.port (cplFor t cplUr 0 t.bytes))
  | _, _ => s1

/-- The completion of a locked read by the VS with CplLk (R404). -/
def Dev.lockedUr (s : Dev) (pid : Nat) (p : Pkt) : Dev :=
  let s1 := s.delPkt pid
  match p.tlp? with
  | some t => s1.answer p t cplUr (s.uspId p.vs)
  | none => s1

/-- An ACS violation (R189, R191): logged where the TLP entered; a non-posted request is completed with Completer Abort. -/
def Dev.acsViolation (s : Dev) (pid : Nat) (p : Pkt) : Dev :=
  let s1 := (s.aerAtEntry p .acsViolation).delPkt pid
  match p.typ, p.tlp? with
  | .nonPosted, some t => s1.answer p t cplCa (s.uspId p.vs)
  | _, _ => s1

/-- A locked sequence begins: its VS, its destination and its first request (R402). -/
def Dev.lockTake (s : Dev) (vs g : Nat) (t : Tlp) : Dev :=
  let s1 := s.fsets vs [(Fld.XB_LOCK.HELD, 1), (Fld.XB_LOCK.BROKEN, 0), (Fld.XB_LOCK.DGPA, g)]
  { s1 with xing.lockRead := tins s1.xing.lockRead vs (t.reqId, t.tag) }

/-- The lock of the VS begins, travels on, or ends with a TLP from the host port (R402, R403). -/
def Dev.lockStep (s : Dev) (p : Pkt) (g : Nat) : Dev × Bool :=
  if !s.isHost p.port then (s, p.lockTlp) else
  match p.content with
  | .tlp t =>
    match t.kind with
    | .memRdLk =>
      if s.lockHeld p.vs then (s, true)
      else
        (s.lockTake p.vs g t, true)
    | .unlock =>
      let broken := s.fbit Fld.XB_LOCK.BROKEN p.vs
      (s.fsets p.vs [(Fld.XB_LOCK.HELD, 0), (Fld.XB_LOCK.BROKEN, 0)], !broken)
    | _ => (s, s.lockHeld p.vs && !s.fbit Fld.XB_LOCK.BROKEN p.vs && s.fget Fld.XB_LOCK.DGPA p.vs == g)
  | _ => (s, p.lockTlp)

/-- An error message from below may pass the vDSP and the USP of its VS at the host port (R193): by Bridge Control SERR# Enable of both, and by
Command SERR# Enable for non-fatal and fatal errors. [log: PRESUMED 42] -/
def Dev.errPass (s : Dev) (p : Pkt) : Bool :=
  match p.tlp?, s.entryFn p with
  | some t, some n =>
    if t.kind = .msg ∧ (t.code = msgCor ∨ t.code = msgNonfatal ∨ t.code = msgFatal) ∧ n ≠ uspNo ∧ s.vsExists p.vs ∧
        s.hostPort p.vs = p.egr then
      [n, uspNo].all fun k => (s.pfn p.vs k).bridgeCtl.testBit 1 && (t.code == msgCor || (s.pfn p.vs k).cmd.testBit 8)
    else true
  | _, _ => true

/-- A packet whose egress port is known: classified end to end at its destination (R417), a completion matched to its
request (R396), discarded at a contained port (R85), its flits ready for the bypass route or the buffer (R70, R89), and queued. -/
def Dev.settle (s : Dev) (pid : Nat) (p : Pkt) : Dev :=
  let here := !p.remote
  let seqIn : Option Nat := if here then (match p.arrEnv, p.eseq with
    | some _, some q => some q
    | _, _ => none) else none
  let f := (p.arrEnv.map fun e => gpaFsid e.sgpa).getD 0
  match seqIn.map (s.classify f p.oc) with
  | some .duplicate => ((s.count .DL_DUP_CNT 0 1).modIn f p.oc fun i => { i with ackNow := true }).delPkt pid
  | some .outside => ((s.count .DL_WIN_CNT 0 1).raise evControl).delPkt pid
  | cls =>
    let d := match seqIn with
      | some q => seqSub q (s.nd f p.oc)
      | none => 0
    let req := if here && p.typ == .completion then (match p.tlp? with
      | some t => s.findReq t.reqId t.tag
      | none => none) else none
    let late := here && p.typ == .completion && p.arrEnv.isSome && req.isNone
    let s0 := match cls with
      | some .ahead => s.modIn f p.oc fun i => { i with mask := i.mask ||| 2 ^ d }
      | _ => s
    let hold := cls = some .ahead ∧ s.ordered f p.oc
    let s1 := match req, p.tlp? with
      | some r, some t => s0.acceptCpl r t p.nfl
      | none, some t => if here ∧ p.typ = PType.completion ∧ p.arrEnv.isNone then s0.lockReadFails p.vs t else s0
      | _, _ => s0
    let done : Dev :=
      if late then (match p.tlp? with
        | some t => (s1.lateCpl t).delPkt pid
        | none => s1.delPkt pid)
      else if s.isContained p.egr ∧ here then (s1.putPkt pid p).discard pid 8
      else if here ∧ ¬ s.errPass p then s1.delPkt pid
      else
        let needs := p.typ = .nonPosted ∧ p.remote ∧ p.arrEnv.isNone
        let p1 := { p with stage := if hold then .held else if needs then .reserve else p.stage,
                           kept := p.arrEnv.isNone && p.remote && p.eseq.isSome,
                           own := ownRegion p here req.isSome, fresh := (List.range p.arrived).map (s.cycle + ·),
                           shelved := min p.nfl ((req.map (·.shelf)).getD 0), flow := s.flowOf p.egr p.vs p.cc }
        let s2 := s1.putPkt pid p1
        if hold ∨ needs then s2 else s2.enqueue pid
    if cls = some .next then done.advance f p.oc else done

/-- The egress port and envelope of a packet toward a destination GPA (R57, R59, R343), by the next hops of the core cycle's start
(R358); an unsuccessful completion of a lock's first read closes the lock's trick at its device port (R405). -/
def Dev.forward (s : Dev) (pid : Nat) (p : Pkt) (g : Nat) (t : Option Tlp) : Dev :=
  let (s1, lk) := s.lockStep p g
  let p1 := { p with dest := g, tlpOut := t, lockTlp := lk }
  let s1 := match p1.tlp? with
    | some c => if s.isDevice p.port ∧ tlpCompletion c.kind ∧ c.status ≠ 0 then s1.dropTrickOf p.port c.reqId c.tag else s1
    | none => s1
  if p.via.isNone ∧ 52 < gpaPort g then (s1.putPkt pid p1).discard pid 4
  else if p.via.isNone ∧ gpaFsid g = s.fsid then
    let egr := gpaPort g
    let inp := xbarOf p.port
    let dev := s.isDevice egr
    let unlock := (p1.tlp?.map (·.kind)) = some .unlock
    s1.settle pid { p1 with egr := egr, remote := false,
                            topen := p.topen || (dev && lk && !s.lockOpen egr inp p.vs),
                            tclose := p.tclose || (dev && lk && unlock) }
  else
    let sg := s.sourceGpa p
    let icls := s.turnClass p.par p.port
    let hop := match p.via with
      | some v => if s.blActive v then some v else none
      | none => s.pickHop s.hopsStart p.par icls p.oc sg g
    match hop with
    | none => if p.via.isSome then (s1.count .RT_DIR_DROP 0 1).delPkt pid else (s1.putPkt pid p1).discard pid 3
    | some e =>
      let len := contentLen (match t, p.content with
        | some x, _ => .tlp x
        | none, c => c)
      let env : Env := match p.arrEnv with
        | some v => v
        | none => { dgpa := g, sgpa := sg, vs := p.vs % 64, oc := p.oc, typ := if p.typ = .control then 3 else ptypeCode p.typ,
                    ep := p.par, lock := lk, tok := false, eseq := p.eseq.getD 0, tlen := len, dlv := false, dl := 0 }
      let n := if p.arrEnv.isSome then p.nfl else flitsOf (16 + len)
      s1.settle pid { p1 with egr := e, remote := true, outEnv := some env, nfl := n, arrived := if p.inArr = p.inFl then n else p.arrived }

/-- Whether a packet's parity names a released half (R31, R444): the other half serves only while the deal state is not
IDLE. -/
def Dev.staleParity (s : Dev) (par : Nat) : Bool := par != s.ap && s.fget Fld.DL_DEAL_STAT.STATE 0 == 0

/-- A copy of a broadcast message for each bound device port of the VS. -/
def Dev.copies (s : Dev) (pid : Nat) (p : Pkt) (l : List Nat) : Dev :=
  each l (s.delPkt pid) fun s g =>
    let q := s.fwd.nextPid
    (s.enter p).forward q { p with decNow := s.now, decTime := s.ftime } g none

/-- The egress port that the lookup of a packet would give now, with the destination it resolves to. -/
def Dev.wouldGo (s : Dev) (p : Pkt) : Option Nat :=
  match s.resolve p with
  | .to g _ =>
    if p.via.isSome then p.via
    else if gpaFsid g = s.fsid then some (gpaPort g)
    else s.pickHop s.hopsStart p.par (s.turnClass p.par p.port) p.oc (s.sourceGpa p) g
  | _ => none

/-- A packet decoded earlier, of the same ingress port and ordering class and toward the same egress port, must be looked up first
(R66): any but a non-posted request that waits for its ESEQ, which a posted request or a completion may pass.
[log: DEDUCED 212] -/
def Dev.lookedUpFirst (s : Dev) (pid : Nat) (p : Pkt) : Bool :=
  s.fwd.pkts.any fun e =>
    decide (e.1 < pid) && e.2.port == p.port && e.2.oc == p.oc && e.2.stage == .decoded && !s.overShelf e.2 &&
      (s.wouldGo e.2).isSome && s.wouldGo e.2 == s.wouldGo p &&
      !(e.2.typ == .nonPosted && p.typ != .nonPosted && (s.seqDest e.2).isSome && e.2.eseq.isNone)

/-- CORE_LOOKUP (R56): the half by parity, the destination and the egress port, or the handling of R60. -/
def coreLookup (pid : Nat) (chk : CoreCheck) (s : Dev) : Dev :=
  match s.pkt? pid with
  | none => s
  | some p =>
    if p.stage ≠ .decoded ∨ s.lookedUpFirst pid p then s
    else
      let s1 := if chk = .corrected then s.count .TM_CORE_CE_CNT 0 1 else s
      if chk = .headerBad ∨ chk = .unreadable then s1.discard pid 5
      else if s.staleParity p.par then (s1.count .DL_STALE_EP_CNT 0 1).discard pid 5
      else match s.seqDest p with
        | some _ =>
          if s.overShelf p then s1.discard pid 1
          else if p.eseq.isNone then s
          else match s.resolve p with
            | .to g t => s1.forward pid p g t
            | _ => s1
        | none =>
          match s.resolve p with
          | .drop r => s1.discard pid r
          | .unbound => s1.unboundAnswer pid p
          | .silent => s1.delPkt pid
          | .lockUr => s1.lockedUr pid p
          | .acs => s1.acsViolation pid p
          | .to g t => s1.forward pid p g t
          | .all l => s1.copies pid p l

def execCoreLookup (pid : Nat) (chk : CoreCheck) (s : State) : Host.Outcome State Fault Refusal := s.act (coreLookup pid chk)

/-- A management-window request of a core as it enters at port 52 (R407, R409, R410): its record, unless the delivery hardware has
made it; after a yield the next access to that switch ends with RETRY and does not leave. -/
def Dev.coreMw (s : Dev) (p : IntPkt) : Option (Dev × Bool) :=
  match p.content with
  | .ctl b =>
    let op := leNat ((b.drop 1).take 1)
    let id := leNat ((b.drop 2).take 2)
    let dst := gpaFsid p.dgpa
    if leNat (b.take 1) ≠ 0x11 ∨ 3 < op ∨ p.typ ≠ .control ∨ p.via.isSome ∨ (s.xing.mwOut.any fun o => o.id == id && o.dst == dst) then none
    else if s.xing.yields.contains dst then
      some (({ s with xing.yields := s.xing.yields.filter (· != dst) }).emit (.mwData 1 0), false)
    else
      let o : MwOut := { id := id, dst := dst, op := op, use := .core p.plane, deadline := s.now + s.fget Fld.XB_FTO.US 48 * 8000 }
      some ({ s with xing.mwOut := s.xing.mwOut ++ [o] }, true)
  | _ => none

/-- PACKET_INGRESS (R54). [log: DESIGN CHOICE 13] -/
def packetIngress (port : Nat) (x : Ingress) (s : Dev) : Dev :=
  match x with
  | .pcie t k => s.ingressPcie port t k
  | .more pid k => s.ingressMore port pid k
  | .fabric t => s.ingressFabric port t
  | .internal p =>
    match (if port = 52 then s.coreMw p else none) with
    | some (s1, true) => s1.ingressInternal port p
    | some (s1, false) => s1
    | none => s.ingressInternal port p

def execPacketIngress (port : Nat) (x : Ingress) (s : State) : Host.Outcome State Fault Refusal := s.act (packetIngress port x)

/-- The fabric timeout of a requester in microseconds: of its VS, or instance 48 for port 52 (R392). -/
def Dev.ftoOf (s : Dev) (p : Pkt) : Nat := s.fget Fld.XB_FTO.US (if p.port = 52 then 48 else p.vs % 64)

/-- Tokens outstanding at a destination, both parities. -/
def Dev.outTokens (s : Dev) (d : Nat) : Nat := s.fget Fld.RT_HAND_HOLD.OUT_P0 d + s.fget Fld.RT_HAND_HOLD.OUT_P1 d
def handFld (par : Nat) : Fld := if par % 2 = 0 then Fld.RT_HAND_HOLD.OUT_P0 else Fld.RT_HAND_HOLD.OUT_P1

/-- NP_RESERVATION (R66, R371, R373, R383, R388, R397): token and shelf in one cycle, then into the egress queue.
[log: DEDUCED 212] -/
def npReservation (pid : Nat) (s : Dev) : Dev :=
  match s.pkt? pid with
  | none => s
  | some p =>
    match p.stage, p.tlp?, p.outEnv with
    | .reserve, some t, some env =>
      let d := gpaFsid p.dest
      let held := s.handHeld p.par d
      let n := shelfOf t
      let quarantined := s.xing.quar.any fun q => q.reqId == t.reqId && q.tag == t.tag
      let earlier := s.fwd.pkts.any fun e =>
        decide (e.1 < pid) && e.2.port == p.port && e.2.oc == p.oc && e.2.egr == p.egr && e.2.stage == .reserve
      if quarantined ∨ earlier ∨ (held ≠ 0 ∧ held ≤ s.outTokens d)
          ∨ s.shelfSize p.par p.port < s.fget Fld.RT_SHELF_USE.RESV p.port + n then s
      else
        let tok := held != 0
        let fto := s.ftoOf p
        let s1 := if tok then s.fset (handFld p.par) d (s.fget (handFld p.par) d + 1) else s
        let s2 := s1.shelfTake p.port n
        let r : Req := { reqId := t.reqId, tag := t.tag, vs := p.vs, port := p.port, dgpa := p.dest, par := p.par, tok := tok, shelf := n,
                         deadline := s.now + fto * tUs, fto := fto, bytes := t.bytes, left := t.bytes, addr := t.addr, oc := p.oc,
                         locked := t.kind == .memRdLk, eseq := p.eseq }
        let env1 := { env with tok := tok, dlv := true, dl := (s.ftime / 8 + fto * 1000) % 2 ^ 32 }
        (({ s2 with xing.reqs := s2.xing.reqs ++ [r] }).putPkt pid { p with tok := tok, outEnv := some env1 }).enqueue pid
    | _, _, _ => s

def execNpReservation (pid : Nat) (s : State) : Host.Outcome State Fault Refusal := s.act (npReservation pid)

end Sys2Proof.Machine
end

