-- ==== Sys2Proof/Machine/Sched.lean ====
section
/-! DEFINITION. Egress scheduling (R132 to R164): eligibility, shaped flows and their calendar, time gates with arming and
switch-over, the commit of shadow registers, depth and delay sampling. -/
namespace Sys2Proof.Machine

/-! Shaped flows -/

abbrev tatMod : Nat := 2 ^ 64

/-- The bytes a packet has as transmitted: the envelope and TLP at a fabric port, the TLP elsewhere (R137). -/
def txLen (p : Pkt) : Nat :=
  let body := match p.arrEnv, p.tlpOut with
    | some e, none => e.tlen
    | _, some t => t.len
    | none, none => contentLen p.content
  if p.remote then body + 16 else body

/-- The charged length of a packet (R137). -/
def Dev.charged (s : Dev) (p : Pkt) : Nat :=
  (max 1 (Int.ofNat (txLen p) + signedOf 9 (s.fget Fld.SCH_PORT_W.OVH p.egr))).toNat

/-- A flow's TAT, increment and burst tolerance, in 125 ps units with 16 fraction bits (R138). -/
def Dev.tat (s : Dev) (f : Nat) : Nat := s.rget .SCH_FLOW_TAT f
def Dev.inc (s : Dev) (f : Nat) : Nat := s.fget Fld.SCH_FLOW_INC_W.INC f
def Dev.tau (s : Dev) (f : Nat) : Nat := s.fget Fld.SCH_FLOW_CFG_W.BURST f * s.inc f
def Dev.setTat (s : Dev) (f v : Nat) : Dev := s.rset .SCH_FLOW_TAT f (v % tatMod)

/-- Fabric time at the start of the core cycle, in the format of TAT (R138). -/
def Dev.now16 (s : Dev) : Nat := (s.sampled * 65536) % tatMod

/-- a at or after b, modulo 2^48 units. -/
def tatGe (a b : Nat) : Bool := decide ((a + tatMod - b % tatMod) % tatMod < tatMod / 2)

/-- The slot width in units (R141). -/
def Dev.slotW (s : Dev) : Nat := 16 * 2 ^ s.fget Fld.SCH_CAL.SLOT_EXP 0

/-- The test of R138 alone. -/
def Dev.tatOk (s : Dev) (f : Nat) : Bool :=
  !s.fbit Fld.SCH_CAL.EN 0 || s.inc f == 0 || tatGe (s.now16 + s.tau f) (s.tat f)

/-- A flow is eligible: not waiting in the calendar for its slot, and past its eligibility time (R138, R142, R147).
[log: DEDUCED 171] -/
def Dev.flowOk (s : Dev) (f : Nat) : Bool :=
  !s.fbit Fld.SCH_CAL.EN 0 || s.inc f == 0 ||
    match tfind s.sch.cal f with
    | none => s.tatOk f
    | some e => match e.ready with
      | some t => decide (t ≤ s.sampled) && s.tatOk f
      | none => false

/-- A flow with a waiting packet that fails the test enters the calendar (R142, R143). [log: DEDUCED 171] -/
def Dev.enterCal (s : Dev) (f : Nat) : Dev :=
  let waiting : Bool := match tfind s.sch.cal f with
    | some e => e.ready.isNone
    | none => false
  if waiting || s.tatOk f then s
  else
    let ahead := ceilDiv ((s.tat f + 2 * tatMod - s.tau f - s.now16) % tatMod) 65536
    let slot := ceilDiv (s.sampled + ahead) s.slotW
    let cur := s.sampled / s.slotW
    { s with sch.cal := tins s.sch.cal f { slot := (if cur + 4096 ≤ slot then cur + 4095 else slot) % 4096, ready := none } }

/-- The charge of a packet at its first flit's passage (R139). -/
def Dev.charge (s : Dev) (p : Pkt) : Dev :=
  match p.flow with
  | none => s
  | some f =>
    if !s.fbit Fld.SCH_CAL.EN 0 then s
    else
      let base := if tatGe (s.tat f) s.now16 then s.tat f else s.now16
      let s1 := s.setTat f (base + s.charged p * s.inc f)
      { s1 with sch.cal := tdel s1.sch.cal f }

/-- The flows with a waiting packet. -/
def Dev.waitingFlows (s : Dev) : List Nat :=
  s.fwd.pkts.filterMap fun e => if e.2.stage == .queued && e.2.granted == 0 then e.2.flow else none

/-- The fabric time at which the last slot of a ring number at or before now began (R141). -/
def Dev.slotBegan (s : Dev) (slot : Nat) : Nat :=
  let cur := s.sampled / s.slotW
  (cur - (cur + 4096 - slot % 4096) % 4096) * s.slotW

/-- One slot of the ring begins: its flows become eligible, four a core cycle; those put in the slot 4,095 ahead are tested again. -/
def Dev.beginSlot (s : Dev) (slot : Nat) : Dev :=
  let due := s.sch.cal.filter fun e => e.2.ready.isNone && e.2.slot == slot
  let m := due.length
  let go := fun (s : Dev) (x : Nat × Nat) =>
    if s.tatOk x.2 then
      { s with sch.cal := tins s.sch.cal x.2 { slot := slot, ready := some (s.slotBegan slot + 4 * (x.1 / 4)) } }
    else ({ s with sch.cal := tdel s.sch.cal x.2 }).enterCal x.2
  let s1 := each ((List.range m).zip (due.map (·.1))) s go
  let lag := ceilDiv (m - 4) 4
  if s1.fget Fld.SCH_CAL_STAT.LAGMAX 0 < lag then s1.fset Fld.SCH_CAL_STAT.LAGMAX 0 (min 65535 lag) else s1

/-- The slots of the ring that have begun since the calendar was last moved on, oldest first. -/
def Dev.slotsBegun (s : Dev) : List Nat :=
  let cur := s.sampled / s.slotW
  let n := min 4096 (cur - s.sch.calDone / s.slotW)
  (List.range n).map fun i => (cur + 4097 - n + i) % 4096

/-- CALENDAR_SLOT_BEGIN (R143, R144): the slots that have begun. [log: DEDUCED 171] -/
def calendarSlotBegin (s : Dev) : Dev :=
  each (s.slotsBegun.filter fun k => s.sch.cal.any fun e => e.2.ready.isNone && e.2.slot == k)
    { s with sch.calDone := s.sampled } fun s k => s.beginSlot k

def execCalendarSlotBegin (s : State) : Host.Outcome State Fault Refusal := s.act calendarSlotBegin

/-- FLOW_SWEEP_VISIT (R146): the flow at which the sweep stands is visited, and the sweep goes on to the next; a TAT more than 1 s in
the past becomes now. -/
def flowSweepVisit (f : Nat) (s : Dev) : Dev :=
  if f ≠ s.sch.sweep then s
  else
    let s1 := { s with sch.sweep := (f + 1) % 16384 }
    if s.fbit Fld.SCH_CAL.EN 0 ∧ ¬ tatGe (s.tat f + tSec * 65536) s.now16 then s1.setTat f s.now16 else s1

def execFlowSweepVisit (f : Nat) (s : State) : Host.Outcome State Fault Refusal := s.act (flowSweepVisit f)

/-- The scheduler's act in the first core cycle whose sampled fabric time shows a change by more than a slot (R145): every flow's TAT is
the new time, but that no TAT changes while EN is 0 (R147); every flow is out of the calendar; the step is counted.
[log: DEDUCED 170] -/
def Dev.schedTimeStep (s : Dev) : Dev :=
  let s1 := if s.fbit Fld.SCH_CAL.EN 0 then each (List.range 16384) s fun s f => s.setTat f s.now16 else s
  ({ s1 with sch.cal := [], sch.calDone := s.sampled }).fset Fld.SCH_CAL_STAT.STEP 0 ((s1.fget Fld.SCH_CAL_STAT.STEP 0 + 1) % 65536)

/-- A core cycle begins (R605): fabric time is sampled; a change since the last sample by more than a slot beside the four units of a
cycle is a step (R145). -/
def Dev.sampleTime (s : Dev) : Dev :=
  let d : Int := Int.ofNat s.ftime - Int.ofNat (s.sampled + 4)
  let s1 := { s with sampled := s.ftime }
  if d.natAbs ≤ s.slotW then s1 else s1.schedTimeStep

/-! Time gates -/

/-- The active gate list of a port: open classes and durations in ns (SCH_GATE_ENT_W). -/
def Dev.activeList (s : Dev) (n : Nat) : List (Nat × Nat) :=
  (List.range (s.fget Fld.SCH_PORT_W.LEN n)).map fun i =>
    (s.fget Fld.SCH_GATE_ENT_W.GATES (n * 256 + i), s.fget Fld.SCH_GATE_ENT_W.DUR (n * 256 + i))

/-- The cycle time of a list in units of 125 ps (R148). -/
def cycleOf (l : List (Nat × Nat)) : Nat := sumOf l fun e => e.2 * 8

/-- The entry of a list at an offset into its cycle: its number, its gates, its start offset. -/
def entryIn : List (Nat × Nat) → Nat → Nat → Nat → Nat × Nat × Nat
  | [], i, start, _ => (i, 0xFF, start)
  | [(g, _)], i, start, _ => (i, g, start)
  | (g, d) :: t, i, start, off => if off < start + d * 8 then (i, g, start) else entryIn t (i + 1) (start + d * 8) off

/-- The offset of a time in a list's cycle (R149: m is any integer). -/
def offsetAt (l : List (Nat × Nat)) (base time : Nat) : Nat :=
  if cycleOf l = 0 then 0 else ((Int.ofNat time - Int.ofNat base) % Int.ofNat (cycleOf l)).toNat

def entryAt (l : List (Nat × Nat)) (base time : Nat) : Nat × Nat × Nat := entryIn l 0 0 (offsetAt l base time)

/-- Units from an offset to the next entry that closes a class, within two cycles; none when the class never closes. -/
def closeFrom (c : Nat) : List (Nat × Nat) → Nat → Nat → Option Nat
  | [], _, _ => none
  | (g, d) :: t, start, off =>
    if !g.testBit c && off ≤ start then some (start - off)
    else if !g.testBit c && off < start + d * 8 then some 0
    else closeFrom c t (start + d * 8) off

/-- The longest open interval of a class in a cycle, wrap joined (R152). -/
def longestOpen (c : Nat) (l : List (Nat × Nat)) : Nat :=
  let run := fun (acc : Nat × Nat) (e : Nat × Nat) =>
    if e.1.testBit c then (acc.1 + e.2 * 8, max acc.2 (acc.1 + e.2 * 8)) else (0, acc.2)
  ((l ++ l).foldl run (0, 0)).2

/-- Twice the rate of a port in GT/s and its transmit width now (R151, R177). -/
def rate2 : Nat → Nat
  | 0 => 5 | 1 => 10 | 2 => 16 | 3 => 32 | 4 => 64 | 5 => 128 | _ => 256
def Dev.lineRate2 (s : Dev) (n : Nat) : Nat :=
  if s.isFabric n then (if s.fget Fld.BL_CTRL.RATE n = 1 then 256 else 128) * s.width n
  else rate2 (s.fget Fld.PCI_PORT_STAT.RATE n) * s.fget Fld.PCI_PORT_STAT.TXW n

/-- Units until a class next closes at a port (R151): in the active list, or, from the switch-over on, in the armed one; none when it
never does. -/
def Dev.nextClose (s : Dev) (n c : Nat) : Option Nat :=
  let l := s.activeList n
  let d1 := if s.fbit Fld.SCH_PORT_W.GEN n then closeFrom c (l ++ l) 0 (offsetAt l (s.fget Fld.SCH_GATE_BASE_W.TIME n) s.sampled) else none
  match tfind s.sch.armed n with
  | none => d1
  | some a =>
    let w := a.swt - s.sampled
    let d2 := (closeFrom c (a.ents ++ a.ents) 0 (offsetAt a.ents a.base a.swt)).map (w + ·)
    match d1 with
    | some d => if d < w then some d else d2
    | none => d2

/-- A packet's transmission time is longer than any open interval its class has in the cycle of the active list (R152). -/
def Dev.oversize (s : Dev) (p : Pkt) : Bool :=
  let l := s.activeList p.egr
  let longest := longestOpen p.cc l
  s.fbit Fld.SCH_PORT_W.GEN p.egr && longest != 2 * cycleOf l && decide (s.lineRate2 p.egr * longest < s.charged p * 128)

/-- Whether the gate of a class at a port is open (R150): all are while the port's gate list is disabled (R153). -/
def Dev.gateOpen (s : Dev) (n c : Nat) : Bool := !s.fbit Fld.SCH_PORT_W.GEN n || (s.fget Fld.SCH_GATE_STAT.GATES n).testBit c

/-- Whether the time gate of its class permits a packet (R150 to R153), and whether R152 is what permits it: a packet longer than any
open interval goes in an interval that began while it was queued, and, with GUARD 0 too, waits for the next one otherwise.
[log: DESIGN CHOICE 213] -/
def Dev.gateOk (s : Dev) (p : Pkt) : Bool × Bool :=
  let n := p.egr
  if !s.gateOpen n p.cc then (false, false)
  else if s.oversize p then (decide (p.queuedTime ≤ tget 0 s.sch.opened (8 * n + p.cc)), true)
  else if !s.fbit Fld.SCH_PORT_W.GUARD n then (true, false)
  else match s.nextClose n p.cc with
    | none => (true, false)
    | some d => (decide (8 ≤ d) && decide (s.charged p * 128 ≤ (d - 8) * s.lineRate2 n), false)

/-- The gate states of a port from now on; a class that opens begins an open interval (R152). -/
def Dev.setGates (s : Dev) (n g idx : Nat) : Dev :=
  let old := s.fget Fld.SCH_GATE_STAT.GATES n
  let s1 := each (List.range 8) s fun s c =>
    if g.testBit c && !old.testBit c then { s with sch.opened := tput 0 s.sch.opened (8 * n + c) s.sampled } else s
  s1.fsets n [(Fld.SCH_GATE_STAT.GATES, g), (Fld.SCH_GATE_STAT.IDX, idx)]

/-- The gate state and entry of the active list at the present time into SCH_GATE_STAT; all open while the list is disabled (R153). -/
def Dev.gateRefresh (s : Dev) (n : Nat) : Dev :=
  if s.fbit Fld.SCH_PORT_W.GEN n then
    let (i, g, _) := entryAt (s.activeList n) (s.fget Fld.SCH_GATE_BASE_W.TIME n) s.sampled
    s.setGates n g i
  else s.setGates n 0xFF 0

/-- GATE_ENTRY_BEGIN (R149): the entry of the present time takes effect. -/
def gateEntryBegin (n : Nat) (s : Dev) : Dev := if n < 48 then s.gateRefresh n else s

def execGateEntryBegin (n : Nat) (s : State) : Host.Outcome State Fault Refusal := s.act (gateEntryBegin n)

/-- GATE_SWITCHOVER (R155): at SWT the armed list becomes active. -/
def gateSwitchover (n : Nat) (s : Dev) : Dev :=
  match tfind s.sch.armed n with
  | none => s
  | some a =>
    if s.sampled < a.swt then s
    else
      let s1 := s.fsets n [(Fld.SCH_PORT_W.GEN, b2n a.gen), (Fld.SCH_PORT_W.LEN, a.len), (Fld.SCH_GATE_BASE_W.TIME, a.base),
        (Fld.SCH_GATE_SWT_W.TIME, a.swt), (Fld.SCH_GATE_STAT.ARMED, 0)]
      let s2 := each ((List.range a.len).zip a.ents) s1 fun s x =>
        s.fsets (n * 256 + x.1) [(Fld.SCH_GATE_ENT_W.GATES, x.2.1), (Fld.SCH_GATE_ENT_W.DUR, x.2.2)]
      ({ s2 with sch.armed := tdel s2.sch.armed n }).gateRefresh n

def execGateSwitchover (n : Nat) (s : State) : Host.Outcome State Fault Refusal := s.act (gateSwitchover n)

/-- The shadow gate list of a port (R154). -/
def Dev.shadowList (s : Dev) (n : Nat) : GateList :=
  let len := s.fget Fld.SCH_PORT_S.LEN n
  { gen := s.fbit Fld.SCH_PORT_S.GEN n, len := len, base := s.fget Fld.SCH_GATE_BASE_S.TIME n,
    swt := s.fget Fld.SCH_GATE_SWT_S.TIME n,
    ents := (List.range (min 256 len)).map fun i =>
      (s.fget Fld.SCH_GATE_ENT_S.GATES (n * 256 + i), s.fget Fld.SCH_GATE_ENT_S.DUR (n * 256 + i)) }

/-- The rejection code of a newly armed list, 0 for none (R158); `at_` is the commit or apply instant. -/
def gateCheck (g : GateList) (at_ : Nat) : Nat :=
  if g.len = 0 ∨ 256 < g.len ∨ g.ents.any (fun e => decide (e.2 < 8) || decide (1000000000 < e.2)) then 1
  else if tSec < cycleOf g.ents then 2
  else if g.swt < g.base then 3
  else if g.swt < at_ + tUs then 4 else 0

/-- The arming of a port's list from its shadow, with the check (R154, R156 to R158); GEN 0 disables the gates at once, and its
list is not checked. [log: DESIGN CHOICE 214] -/
def Dev.armGate (s : Dev) (n at_ : Nat) : Dev :=
  let g := s.shadowList n
  if !g.gen then
    (({ s with sch.armed := tdel s.sch.armed n }).fsets n [(Fld.SCH_PORT_W.GEN, 0), (Fld.SCH_GATE_STAT.ARMED, 0)]).gateRefresh n
  else
    let code := gateCheck g at_
    if code = 0 then ({ s with sch.armed := tins s.sch.armed n g }).fset Fld.SCH_GATE_STAT.ARMED n 1
    else (({ s with sch.armed := tdel s.sch.armed n }).fsets n
      [(Fld.SCH_GATE_STAT.ERR, 1), (Fld.SCH_GATE_STAT.CODE, code), (Fld.SCH_GATE_STAT.ARMED, 0)]).raise evSched

/-! The commit write -/

/-- The shadow registers and their working copies that a commit copies whole (R123). -/
def shadowPairs : List (Reg × Reg) :=
  [(.ARB_CFG_S, .ARB_CFG_W), (.ARB_PRIV_S, .ARB_PRIV_W), (.ARB_CLASS_S, .ARB_CLASS_W), (.SCH_FSEL_S, .SCH_FSEL_W),
   (.SCH_FLOW_INC_S, .SCH_FLOW_INC_W), (.SCH_FLOW_CFG_S, .SCH_FLOW_CFG_W)]

/-- The listed instances of a register. -/
def Dev.instances (s : Dev) (r : Reg) : List Nat :=
  s.regs.filterMap fun e => if e.1 / 1048576 = regCode r then some (e.1 % 1048576) else none

/-- A shadow register copied into its working copy, every instance. -/
def Dev.copyPair (s : Dev) (pr : Reg × Reg) : Dev :=
  each (s.instances pr.1 ++ s.instances pr.2) s fun s i => s.rset pr.2 i (s.rget pr.1 i)

/-- GUARD and OVH of a port into the working copy (R154). -/
def Dev.copyPort (s : Dev) (n : Nat) : Dev :=
  s.fsets n [(Fld.SCH_PORT_W.GUARD, s.fget Fld.SCH_PORT_S.GUARD n), (Fld.SCH_PORT_W.OVH, s.fget Fld.SCH_PORT_S.OVH n)]

def Dev.arbOf (s : Dev) (a : Nat) : Arb := tget {} s.arb a
def Dev.modArb (s : Dev) (a : Nat) (g : Arb → Arb) : Dev := { s with arb := tmod {} s.arb a g }

/-- Which arbiters have levels and quotas (R96). -/
def arbQuota (a : Nat) : Bool := decide (a ≤ 16) || decide (49 ≤ a)

/-- The classes masked by quota: those whose count has reached the working quota (R105, R127). -/
def Dev.maskOf (s : Dev) (a : Nat) : Nat :=
  (List.range 8).foldl (fun m c =>
    if s.fbit Fld.ARB_CLASS_W.QEN (a * 8 + c) && decide (s.fget Fld.ARB_CLASS_W.QUOTA (a * 8 + c) ≤ tget 0 (s.arbOf a).counts c)
    then m + 2 ^ c else m) 0

/-- New working values at an arbiter: a class whose count already reaches its new quota is masked for the rest of the round (R127), a
parked grant is released when PARK is 0 (R122). -/
def Dev.arbAfterWrite (s : Dev) (a : Nat) : Dev :=
  let s1 := if arbQuota a then s.fset Fld.ARB_STAT.MASKED a (s.fget Fld.ARB_STAT.MASKED a ||| s.maskOf a) else s
  if s1.fbit Fld.ARB_CFG_W.PARK a then s1 else s1.modArb a fun x => { x with parked := none }

/-- The last shadow writes are of a core cycle or a later one. -/
def Dev.wroteSince (s : Dev) (c : Nat) : Bool := match s.sch.wrCycle with
  | some w => decide (c ≤ w)
  | none => false

/-- The shadow registers written from the core cycle of a commit write on, with their values before it and whether they were dirty. -/
def Dev.wroteIn (s : Dev) (c : Nat) : List (Reg × Nat × Nat × Bool) := if s.wroteSince c then s.sch.wrOld else []

/-- The commit of every shadow register (R32, R123 to R127, R154 to R158) as the registers stood before the core cycle `c` of the commit
write, which came at fabric time `at_`; what that cycle wrote stays for the next commit (R124). -/
def Dev.commitNow (s : Dev) (c at_ : Nat) : Dev :=
  let seq := (s.fget Fld.ARB_COMMIT.SEQ 0 + 1) % 65536
  let late := s.wroteIn c
  let gates := if s.wroteSince c then s.sch.gateDirty else s.sch.gateDirty ||| s.sch.wrGate
  let s0 := each late s fun s w => s.rset w.1 w.2.1 w.2.2.1
  let s1 := each shadowPairs s0 Dev.copyPair
  let s2 := each extPorts s1 Dev.copyPort
  let s3 := each (extPorts.filter fun n => gates.testBit n) s2 fun s n => s.armGate n at_
  let s4 := each late s3 fun t w => t.rset w.1 w.2.1 (s.rget w.1 w.2.1)
  let s5 := s4.fsets 0 [(Fld.ARB_COMMIT.SEQ, seq), (Fld.ARB_COMMIT.DIRTY, b2n (!late.isEmpty))]
  let s6 := { s5 with sch.dirty := late.map fun w => regKey w.1 w.2.1,
                      sch.gateDirty := 0, sch.wrGate := if s.wroteSince c then s.sch.wrGate else 0,
                      sch.wrOld := late.map fun w => (w.1, w.2.1, w.2.2.1, false), sch.commitAt := none }
  each (List.range 57) s6 fun s a => (s.fset Fld.ARB_STAT.SEQ_W a seq).arbAfterWrite a

/-- A commit write reaches the switch core: it takes effect in the next core cycle; a second one in the same cycle adds nothing (R33,
R125). -/
def Dev.commitWrite (s : Dev) : Dev :=
  if s.sch.commitAt.isSome then s else { s with sch.commitAt := some (s.cycle, s.ftime) }

/-- The commit of an earlier core cycle takes effect, one cycle later where a deal takes effect in its own (R33).
[log: DEDUCED 233] -/
def Dev.commitDue (s : Dev) : Dev :=
  match s.sch.commitAt with
  | some (c, t) => if s.cycle ≤ c ∨ (s.cycle = c + 1 ∧ s.dl.prepEpoch.isSome ∧ s.dealDue) then s else s.commitNow c t
  | none => s

/-- COMMIT (R123): a write of 1 to ARB_COMMIT.COMMIT by the management or control plane. -/
def commit (p : Plane) (s : Dev) : Dev :=
  match p with
  | .data => s
  | _ => s.commitWrite

def execCommit (p : Plane) (s : State) : Host.Outcome State Fault Refusal := s.act (commit p)

/-! Sampling -/

/-- What a queue's counts become when one of its packets is granted its first flit (R161): a bypassed packet has a sojourn of 4 core
cycles. -/
def Dev.sampleGrant (s : Dev) (p : Pkt) (bypass : Bool) : Dev :=
  let soj := if bypass then 16 else min 0xFFFFFFFF ((s.ftime + 2 ^ 64 - p.decTime) % 2 ^ 64)
  if s.fbit Fld.SCH_SMP_CTRL.EN 0 then
    { s with sch.smp := tmod {} s.sch.smp (8 * p.egr + p.cc) fun q =>
        { q with deq := min 0xFFFFFFFF (q.deq + 1), sojMax := max q.sojMax soj } }
  else s

/-- The present sojourn of the oldest queued packet of an egress queue. -/
def Dev.headSojourn (s : Dev) (n c : Nat) : Nat :=
  match s.fwd.pkts.find? fun e => e.2.egr == n && e.2.cc == c && e.2.stage == .queued with
  | some e => min 0xFFFFFFFF ((s.ftime + 2 ^ 64 - e.2.decTime) % 2 ^ 64)
  | none => 0

/-- One sampling record into the ring (R160, R163). [log: DEDUCED 20] -/
def Dev.sampleRecord (s : Dev) (pass q : Nat) : Dev :=
  let n := q / 8
  let c := q % 8
  let x := tget {} s.sch.smp q
  let size := 2 ^ s.fget Fld.SCH_SMP_CTRL.RING_EXP 0
  let wp := s.fget Fld.SCH_SMP_WP.IDX 0
  let full := (wp + 1) % size == s.fget Fld.SCH_SMP_RP.IDX 0
  let depth := n * 2 ^ 26 + c * 2 ^ 23 + s.qdepth n c
  let b := leBytes 8 s.ftime ++ leBytes 4 depth ++ leBytes 4 (max x.depthMax (s.qdepth n c)) ++ leBytes 4 (s.headSojourn n c)
    ++ leBytes 4 x.sojMax ++ leBytes 4 x.deq ++ leBytes 4 pass
  let s1 := if full then s.count .SCH_SMP_LOST_CNT 0 1 else s
  if full ∧ s.fbit Fld.SCH_SMP_CTRL.MODE 0 then s1
  else
    let s2 := (s1.planeMemWrite .data (s.fget Fld.SCH_SMP_BASE.ADDR 0 * 4096 + 32 * wp) b).fset Fld.SCH_SMP_WP.IDX 0 ((wp + 1) % size)
    if full then s2.fset Fld.SCH_SMP_RP.IDX 0 ((s.fget Fld.SCH_SMP_RP.IDX 0 + 1) % size) else s2

/-- The queues selected in SCH_SMP_SEL. -/
def Dev.selected (s : Dev) : List Nat :=
  (List.range 384).filter fun q => (s.fget Fld.SCH_SMP_SEL.SEL (q / 32)).testBit (q % 32)

/-- The counts of a new period: a queue's largest depth begins with its present one. [log: DESIGN CHOICE 215] -/
def Dev.freshSamples (s : Dev) : Dev :=
  each s.selected { s with sch.smp := [] } fun s q => s.sampleDepth (q / 8) (q % 8)

/-- SAMPLING_PASS (R160 to R163) at each period; `late`: this pass does not finish before the next period. A skipped pass writes no
record and takes no number, and the counts of its period run on into the next record. [log: DEDUCED 20, DESIGN CHOICE 215] -/
def samplingPass (late : Bool) (s : Dev) : Dev :=
  if !s.fbit Fld.SCH_SMP_CTRL.EN 0 ∨ s.now < s.sch.smpNext then s
  else
    let next := s.sch.smpNext + tUs * 2 ^ s.fget Fld.SCH_SMP_CTRL.EXP 0
    if s.sch.smpSkip then ({ s with sch.smpSkip := false, sch.smpNext := next }).count .SCH_SMP_SKIP_CNT 0 1
    else
      let s1 := each s.selected s fun s q => s.sampleRecord s.sch.smpPass q
      { s1 with sch.smpPass := (s.sch.smpPass + 1) % 2 ^ 32, sch.smpSkip := late, sch.smpNext := next }.freshSamples

def execSamplingPass (late : Bool) (s : State) : Host.Outcome State Fault Refusal := s.act (samplingPass late)

/-! Eligibility -/

/-- Transmit staging slots of an egress port by its width (R135), that of a PCI Express port as trained (R177). -/
def Dev.slots (s : Dev) (n : Nat) : Nat :=
  let w := if s.isFabric n then s.width n else (s.pport n).width
  if w = 16 then 16 else if w = 8 then 8 else 4

/-- Flits of an egress port granted and not yet in a staging slot. -/
def Dev.pendingTo (s : Dev) (n : Nat) : Nat := sumOf s.arb fun e => (e.2.pend.filter fun g => g.egr == n).length

def Dev.slotFree (s : Dev) (n : Nat) : Bool :=
  decide (48 ≤ n) || decide ((tget [] s.fwd.stg n).length + s.pendingTo n < s.slots n)

/-- The source and destination FSIDs of a sequenced packet on its way to another switch. -/
def Dev.streamOf (s : Dev) (p : Pkt) : Option (Nat × Nat) :=
  if p.remote ∧ p.eseq.isSome then some (gpaFsid (s.sourceGpa p), gpaFsid p.dest) else none

/-- A reroute fence holds a packet: new packets after F, and the suffix until the destination has answered (R427). -/
def Dev.fenced (s : Dev) (pid : Nat) (p : Pkt) : Bool :=
  match s.streamOf p with
  | none => false
  | some (f, d) =>
    s.dl.fences.any fun x => x.f == f && x.d == d && x.oc == p.oc &&
      (if x.suffix.contains pid then !x.ok || (x.suffix.find? fun q => (s.pkt? q).isSome) != some pid
       else decide (seqSub (p.eseq.getD 0) (x.point + 1) < seqMod / 2))

/-- The share of a fabric port in its bank's replay buffer (R314). -/
def Dev.share (s : Dev) (n : Nat) : Nat := if s.width n = 16 then 4096 else if s.width n = 8 then 2048 else 1024

/-- Flits that hold a place in a port's share: unacknowledged, or retained end to end (R421). -/
def Dev.occupied (s : Dev) (n : Nat) : Nat :=
  sumOf (s.fwd.pkts.filter fun e => e.2.egr == n && e.2.remote) fun e =>
    if e.2.kept then e.2.sent else e.2.sent - e.2.acked

/-- The credit pool a packet's flits draw on (R324 to R326). -/
def Dev.poolOf (s : Dev) (n : Nat) (t : PType) : Nat :=
  match t with
  | .marker => 3
  | .completion => if s.fbit Fld.BL_STAT.FB n then 2 else 0
  | _ => if s.fbit Fld.BL_STAT.FB n then 1 else 0

/-- Flits of the packets of one credit pool, or of all, granted toward a fabric port and not yet transmitted (R132), and markers on
their way out with them. -/
def Dev.committed (s : Dev) (n : Nat) (pool : Option Nat) : Nat :=
  (sumOf (s.fwd.pkts.filter fun e => e.2.egr == n && e.2.remote && decide (0 < e.2.granted) && !e.2.loose &&
      (pool.isNone || pool == some (s.poolOf n e.2.typ))) fun e => e.2.nfl - e.2.sent) +
    ((tget {} s.bl.ports n).txq.filter fun x => x.marker.isSome && (pool.isNone || pool == some x.pool)).length

/-- Credits the partner has given in a pool and this side has not consumed (R321). -/
def Dev.blCredit (s : Dev) (n pool : Nat) : Nat :=
  let b := tget {} s.bl.ports n
  (b.limits.getD pool 0 + 65536 - b.used.getD pool 0 % 65536) % 65536

/-- The header and data credits a TLP takes at a PCI Express partner. -/
def dataCredits (t : Tlp) : Nat := ceilDiv t.data.length 16
def creditKind (t : PType) : Nat := match t with
  | .nonPosted => 1 | .completion => 2 | _ => 0

/-- Credit at the link partner for every flit of a packet (R132). -/
def Dev.creditOk (s : Dev) (p : Pkt) : Bool :=
  if s.isFabric p.egr then
    let n := p.nfl + s.committed p.egr none
    let q := s.poolOf p.egr p.typ
    decide (p.nfl + s.committed p.egr (some q) ≤ s.blCredit p.egr q) &&
      decide (s.occupied p.egr + n ≤ s.share p.egr) &&
      decide ((tget {} s.bl.ports p.egr).unacked.length + n ≤ s.fget Fld.BL_LINK.WIN p.egr)
  else match p.tlp? with
    | none => true
    | some t =>
      let k := 8 * p.egr + 2 * creditKind p.typ
      decide (tget 0 s.fwd.pciUsed k + 1 ≤ tget 0 s.fwd.pciCredit k) &&
        decide (tget 0 s.fwd.pciUsed (k + 1) + dataCredits t ≤ tget 0 s.fwd.pciCredit (k + 1))

/-- A packet's next flit may cross now: on the bypass route in the second core cycle after its lookup (R70, R88), from its cell from the
second core cycle after its write on (R71), or, for a packet sent again, from the replay buffer (R426). A flit held to the buffer
(R72) takes no bypass, nor does the first of them request before all are there. [log: DEDUCED 14] -/
def Dev.flitReady (s : Dev) (p : Pkt) : Bool :=
  if p.granted < p.placed then
    (!p.saf || p.placed == p.nfl) && match p.cells.find? fun c => c.idx == p.granted with
      | some c => decide (c.at_ + 2 ≤ s.cycle)
      | none => p.suffix
  else !p.saf && p.granted == p.placed && match p.fresh with
    | f :: _ => f + 2 == s.cycle
    | [] => false

/-- A packet, but for the order among packets, may have its first flit granted (R70, R132 to R134). -/
def Dev.firstOk (s : Dev) (pid : Nat) (p : Pkt) : Bool :=
  p.stage == .queued && p.granted == 0 && s.flitReady p && !s.fenced pid p &&
  if 48 ≤ p.egr then true
  else if p.typ = .marker then
    s.slotFree p.egr && !(s.fwd.pkts.any fun e => e.2.egr == p.egr && e.2.stage == .queued && decide (e.2.ord < p.ord))
  else s.slotFree p.egr && ((p.flow.map s.flowOk).getD true) && (s.gateOk p).1 && s.creditOk p

/-- Whether an earlier packet of the same ingress port, ordering class and egress port holds a packet back (R66).
[log: DEDUCED 212] -/
def Dev.overtakes (s : Dev) (pid : Nat) (p : Pkt) (eid : Nat) (e : Pkt) : Bool :=
  let same := e.port == p.port && e.oc == p.oc && e.egr == p.egr && eid != pid
  let earlier := (e.stage == .queued && decide (e.ord < p.ord) && decide (e.granted < e.nfl)) ||
    (e.stage == .reserve && decide (eid < pid))
  same && earlier && match p.typ, e.typ with
    | .nonPosted, _ => true
    | .completion, .nonPosted => s.firstOk eid e
    | .completion, _ => true
    | _, .nonPosted => s.firstOk eid e
    | _, .completion => s.firstOk eid e
    | _, _ => true

/-- Another packet in progress toward the same egress port: its flits leave together (R73). -/
def Dev.portBusy (s : Dev) (pid : Nat) (egr : Nat) : Bool :=
  s.fwd.pkts.any fun e => e.1 != pid && e.2.egr == egr && e.2.stage == .queued && decide (0 < e.2.granted) &&
    decide (e.2.granted < e.2.nfl)

/-- A packet may present its next flit to its crossbar output now (R132, R133). -/
def Dev.mayRequest (s : Dev) (pid : Nat) (p : Pkt) : Bool :=
  if p.stage != .queued || decide (p.nfl ≤ p.granted) then false
  else if 0 < p.granted then s.flitReady p && s.slotFree p.egr
  else s.firstOk pid p && !s.portBusy pid p.egr && !(s.fwd.pkts.any fun e => s.overtakes pid p e.1 e.2)

/-- PCIE_CREDIT_UPDATE (R132): flow-control credits a partner gives, by kind (0 posted, 1 non-posted, 2 completion).
[log: PRESUMED 39] -/
def pcieCreditUpdate (n kind hdr data : Nat) (s : Dev) : Dev :=
  if (s.isHost n ∨ s.isDevice n) ∧ kind < 3 then
    let k := 8 * n + 2 * kind
    { s with fwd.pciCredit := tmod 0 (tmod 0 s.fwd.pciCredit k (· + hdr)) (k + 1) (· + data) }
  else s

def execPcieCreditUpdate (n kind hdr data : Nat) (s : State) : Host.Outcome State Fault Refusal :=
  s.act (pcieCreditUpdate n kind hdr data)

end Sys2Proof.Machine
end

