-- ==== Sys2Proof/Machine/Arbiter.lean ====
section
/-! DEFINITION. The 57 arbiters (R96 to R131): requests of the crossbar inputs, choice of the winner, quotas and rounds,
tenures, tricks and their cuts, parking, the hatch and its watchdog. -/
namespace Sys2Proof.Machine

/-- Which features an arbiter has (R96): parking; the number of requesters. -/
def arbParks (a : Nat) : Bool := decide (a ≤ 16) || (decide (49 ≤ a) && decide (a ≤ 52))
def arbInputs (a : Nat) : Nat := if a ≤ 48 then 17 else if a ≤ 52 then 68 else 8

/-- A request in an arbitration phase; `pid` is the packet whose next flit it is at a crossbar output. -/
structure Request where
  input : Nat
  cls : Nat
  level : Nat
  pid : Nat
  egr : Nat
  vs : Nat
  opens : Bool
  marker : Bool
  deriving DecidableEq, Repr

/-- The level of a class at an arbiter (R100), a marker's above level 7 (R103). -/
def Dev.levelOf (s : Dev) (a c : Nat) (marker : Bool) : Nat :=
  if marker then 8 else if arbQuota a then s.fget Fld.ARB_CLASS_W.LEVEL (a * 8 + c) else 0

/-- The hatch of an arbiter is closed (R128). -/
def Dev.hatchClosed (s : Dev) (a : Nat) : Bool := s.fbit Fld.ARB_HATCH.MGMT a || s.fbit Fld.ARB_HATCH.CTRL a

/-- A trick that still locks its port: one at its 64th flit is open to all from the next phase (R116). [log: DEDUCED 41] -/
def Trick.locks (t : Trick) : Bool := decide (t.flits < 64)

/-- An arbiter's open tricks that lock their ports, by port. -/
def Arb.trickPorts (x : Arb) : List Nat := sortBy id ((x.tricks.filter (·.locks)).map (·.port))

/-- The data phase of an arbiter's last grant is over: at a crossbar output no grant waits for it; elsewhere the core cycle after the
grant's has passed. -/
def Dev.dataDone (s : Dev) (a : Nat) : Bool :=
  let x := s.arbOf a
  if a ≤ 16 then x.pend.isEmpty
  else match x.lastGrant with
    | some c => decide (c + 1 < s.cycle)
    | none => true

/-- A tenure still runs: its last permitted data cycle is not past (R110, R111). -/
def Dev.tenureRuns (s : Dev) (a : Nat) : Option Tenure := (s.arbOf a).tenure.filter fun h => decide (s.cycle < h.start + h.limit)

/-- ARB_HATCH.IDLE (R129): the hatch closed, no tenure or trick in progress, the last grant's data phase complete. -/
def Dev.arbIdle (s : Dev) (a : Nat) : Bool :=
  s.hatchClosed a && (s.arbOf a).tenure.isNone && (s.arbOf a).trickPorts.isEmpty && s.dataDone a

/-- A packet's request of its crossbar output. -/
def Dev.requestOf (s : Dev) (pid : Nat) (p : Pkt) : Request :=
  let a := xbarOf p.egr
  let marker := p.typ == .marker
  { input := xbarOf p.port, cls := p.cc, level := s.levelOf a p.cc marker, pid := pid, egr := p.egr, vs := p.vs,
    opens := p.topen && p.granted == 0, marker := marker }

/-- Whether request x goes before request y in an input's choice: level, then earlier decode, then lower egress port (R725). -/
def before (dec : Nat → Nat) (x y : Request) : Bool :=
  if x.level ≠ y.level then decide (y.level < x.level)
  else if dec x.pid ≠ dec y.pid then decide (dec x.pid < dec y.pid)
  else decide (x.egr < y.egr)

/-- The engine group whose packets a crossbar input carries, if one does (R96). -/
def groupOf (i : Nat) : Option Nat := if 12 ≤ i ∧ i ≤ 15 then some (i - 12) else none

/-- The packets of which a crossbar input may present the next flit: at inputs 12 to 15 that of the requester which the group's
arbiter has chosen. -/
def Dev.candidates (s : Dev) (i : Nat) : List (Nat × Pkt) :=
  let mine := s.fwd.pkts.filter fun e => xbarOf e.2.port == i && s.mayRequest e.1 e.2
  match groupOf i with
  | some g => mine.filter fun e => tfind s.fwd.cand g == some e.1
  | none => mine

/-- A crossbar input's choice among its queues (R725). -/
def Dev.inputChoice (s : Dev) (i : Nat) : Option Nat :=
  let dec := fun pid => ((s.pkt? pid).map (·.decNow)).getD 0
  (((s.candidates i).map fun e => s.requestOf e.1 e.2).foldl (fun (best : Option Request) r =>
    match best with
    | none => some r
    | some b => if before dec r b then some r else some b) none).map (·.pid)

/-- The choices of all inputs, made once in an arbitration phase: the grants of the outputs' arbiters in one core cycle all answer the
same requests (R97, R725). -/
def Dev.inputChoices (s : Dev) : List (Nat × Nat) :=
  match s.fwd.phase with
  | some (c, l) => if c = s.cycle then l else (List.range 17).filterMap fun i => (s.inputChoice i).map (i, ·)
  | none => (List.range 17).filterMap fun i => (s.inputChoice i).map (i, ·)

/-- The choices kept for the rest of the phase. -/
def Dev.keepPhase (s : Dev) : Dev := { s with fwd.phase := some (s.cycle, s.inputChoices) }

/-- The one request a crossbar input presents in this phase (R725), while its flit still may request. [log: DEDUCED 216] -/
def Dev.inputRequest (s : Dev) (i : Nat) : Option Request :=
  if tfind s.fwd.inputAt i = some s.cycle then none
  else
    match s.inputChoices.find? fun x => x.1 == i with
    | none => none
    | some (_, pid) => match s.pkt? pid with
      | some p => if s.mayRequest pid p then some (s.requestOf pid p) else none
      | none => none

/-- The requests at the arbiter of an engine group's crossbar input: its engines and reduction units, each under the core class of
its packet (R96). [log: DEDUCED 216] -/
def Dev.groupRequests (s : Dev) (a : Nat) : List Request :=
  (s.fwd.pkts.filter fun e => e.2.port + 1 == a && s.mayRequest e.1 e.2).map fun e =>
    { s.requestOf e.1 e.2 with input := e.2.unit, level := s.levelOf a e.2.cc false, opens := false, marker := false }

/-- The requests at an arbiter: of the crossbar inputs at outputs 0 to 16, of a group's units at 49 to 52, as the command names them
elsewhere. -/
def Dev.requests (s : Dev) (a : Nat) (reqs : List ArbReq) : List Request :=
  if a ≤ 16 then (List.range 17).filterMap fun i => (s.inputRequest i).filter fun r => xbarOf r.egr == a
  else if 49 ≤ a ∧ a ≤ 52 then s.groupRequests a
  else (reqs.filter fun r => decide (r.input < (if 53 ≤ a then 7 else 17)) && decide (r.cls < 8)).map fun r =>
    let c := if 53 ≤ a then r.input else r.cls
    { input := r.input, cls := c, level := s.levelOf a c false, pid := 0, egr := 0, vs := 0, opens := false, marker := false }

/-- A trick on a request's egress port permits it (R114, R115), and whether it is the owner's of an open trick. -/
def Dev.trickOk (s : Dev) (a : Nat) (r : Request) : Bool × Bool :=
  match (s.arbOf a).tricks.find? fun t => t.locks && t.port == r.egr with
  | none => (true, false)
  | some t => (t.input == r.input && t.vs == r.vs && !r.opens, t.input == r.input && t.vs == r.vs)

/-- A request is eligible (R101): while a tenure runs only its holder's, behind a closed hatch and past its class's quota too (R34, R109);
otherwise by trick, quota and hatch. [log: DEDUCED 41] -/
def Dev.eligible (s : Dev) (a : Nat) (r : Request) : Bool :=
  if 16 < a then (r.marker || !(arbQuota a && (s.fget Fld.ARB_STAT.MASKED a).testBit r.cls)) && !s.hatchClosed a
  else
    let (ok, own) := s.trickOk a r
    match s.tenureRuns a with
    | some h => ok && h.input == r.input && h.cls == r.cls
    | none => ok && (r.marker || !(s.fget Fld.ARB_STAT.MASKED a).testBit r.cls) && (!s.hatchClosed a || own)

/-- The place of a requester in round-robin order: by input, then by core class (R102). -/
def Request.place (r : Request) : Nat := r.input * 8 + r.cls

/-- The winner: the highest level; a parked requester at that level; else the first at or after the pointer (R101, R102,
R121). -/
def chooseWinner (x : Arb) (n : Nat) (l : List Request) : Option Request :=
  let top := l.foldl (fun m r => max m r.level) 0
  let c := l.filter fun r => r.level == top
  match c.find? fun r => x.parked == some (r.input, r.cls) with
  | some r => some r
  | none =>
    let dist := fun (r : Request) => (r.place + 8 * n - x.ptr) % (8 * n)
    c.foldl (fun best r => match best with
      | none => some r
      | some b => if dist r < dist b then some r else some b) none

/-- A deadline that has passed, modulo 2^32 ns (R387, R398). -/
def Dev.deadlinePast (s : Dev) (dl : Nat) : Bool := decide ((s.ftime / 8 + 2 ^ 32 - dl % 2 ^ 32) % 2 ^ 32 < 2 ^ 31)

/-- A request whose deadline has passed at its egress host or device port is discarded without completion (R398). -/
def Dev.deadlineDiscard (s : Dev) (pid : Nat) (p : Pkt) : Dev :=
  let s1 := s.count .XB_EXPIRE_CNT 0 1
  let s2 := if (p.arrEnv.map (·.tok)).getD false then s1.oweToken (gpaFsid (s.sourceGpa p)) s.fsid p.par else s1
  s2.delPkt pid

def Dev.dlExpired (s : Dev) (p : Pkt) : Bool :=
  match p.arrEnv with
  | some e => e.dlv && !p.remote && decide (p.egr < 48) && p.granted == 0 && s.deadlinePast e.dl
  | none => false

/-- The limit of a tenure in data cycles (R110); a trick's owner at inputs 0 to 11 gets the bound of a trick's flits.
[log: DESIGN CHOICE 217] -/
def Dev.tenureLimit (s : Dev) (a input : Nat) : Nat :=
  if input = 16 then s.fget Fld.ARB_PRIV_W.MGMT_LIMIT a
  else if 12 ≤ input then s.fget Fld.ARB_PRIV_W.ENG_LIMIT a else 64

/-- A data cycle given to a request: by a grant, with its effects on pointer, count and quota mask, last requester and tenure (R102,
R105, R109, R110), or within a tenure already granted. -/
def Dev.grantTo (s : Dev) (a : Nat) (r : Request) (ask priv bypass : Bool) : Dev :=
  let x := s.arbOf a
  let n := arbInputs a
  let runs := decide (a ≤ 16) && (s.tenureRuns a).isSome
  let counted := arbQuota a && !r.marker && !runs
  let g : GrantRec := { input := r.input, cls := r.cls, pid := r.pid, idx := ((s.pkt? r.pid).map (·.granted)).getD 0,
                        egr := r.egr, ptr := x.ptr, serial := x.serial + 1, cycle := s.cycle, round := x.roundEnd, counted := counted,
                        bypass := bypass, privileged := priv }
  let x1 := { x with ptr := if runs then x.ptr else (r.place + 1) % (8 * n), serial := if runs then x.serial else x.serial + 1,
                     counts := if counted then tmod 0 x.counts r.cls (· + 1) else x.counts,
                     last := some (r.input, r.cls), idle := 0, lastGrant := some s.cycle,
                     tenure := if runs then x.tenure
                       else if ask && priv && !r.marker && decide (a ≤ 16) then
                         some { input := r.input, cls := r.cls, start := s.cycle, limit := s.tenureLimit a r.input }
                       else x.tenure,
                     parked := if x.parked == some (r.input, r.cls) then x.parked else none,
                     pend := if a ≤ 16 then x.pend ++ [g] else x.pend }
  let s1 := s.modArb a fun _ => x1
  if arbQuota a then s1.fset Fld.ARB_STAT.MASKED a (s1.fget Fld.ARB_STAT.MASKED a ||| s1.maskOf a) else s1

/-- A trick opened, counted on or closed by the granted flit (R113, R114). [log: DEDUCED 41] -/
def Dev.trickStep (s : Dev) (a : Nat) (r : Request) (p : Pkt) : Dev :=
  let closes := p.tclose && p.granted + 1 == p.nfl
  let isOwn := fun (t : Trick) => t.port == r.egr && t.input == r.input && t.vs == r.vs && t.locks
  let x := s.arbOf a
  if x.tricks.any isOwn then
    s.modArb a fun x => { x with tricks :=
      (if closes then x.tricks.filter (fun t => !isOwn t)
      else x.tricks.map (fun t => if isOwn t then { t with flits := t.flits + 1 } else t)) }
  else if r.opens ∧ ¬ closes then
    let t : Trick := { port := r.egr, input := r.input, vs := r.vs, cls := r.cls, flits := 1, opened := s.cycle,
                       hold := 2 ^ s.fget Fld.ARB_CFG_W.TRICK_HOLD a, lock := p.lockTlp,
                       rd := if p.lockTlp then p.tlp?.map fun x => (x.reqId, x.tag) else none }
    s.modArb a fun x => { x with tricks := x.tricks ++ [t] }
  else s

/-- Credit at a PCI Express partner committed to a packet at the grant of its first flit (R132). -/
def Dev.pciCommit (s : Dev) (p : Pkt) : Dev :=
  match p.tlp? with
  | some t =>
    let k := 8 * p.egr + 2 * creditKind p.typ
    { s with fwd.pciUsed := tmod 0 (tmod 0 s.fwd.pciUsed k (· + 1)) (k + 1) (· + dataCredits t) }
  | none => s

/-- What the grant of a packet's first flit toward a port 0 to 47 does beside: the sample (R161), a packet sent under R152 counted, credit
at a PCI Express partner. -/
def Dev.firstGrant (s : Dev) (p : Pkt) (bypass : Bool) : Dev :=
  if 48 ≤ p.egr then s
  else
    let s1 := s.sampleGrant p bypass
    let s2 := if p.typ ≠ .marker ∧ (s.gateOk p).2 then s1.count .SCH_GATE_OVR_CNT p.egr 1 else s1
    if s.isFabric p.egr ∨ p.typ = .marker then s2 else s2.pciCommit p

/-- The grant of a packet's next flit, on the bypass route where it has no cell (R70). The flit that brings a trick to its bound of 64 is an
ordinary one of inputs 0 to 11 from then on (R117). -/
def Dev.grantFlit (s : Dev) (a : Nat) (r : Request) (ask : Bool) : Dev :=
  match s.pkt? r.pid with
  | none => s
  | some p =>
    let owner := (s.arbOf a).tricks.any fun t => t.port == r.egr && t.input == r.input && t.vs == r.vs && t.locks &&
      (decide (t.flits < 63) || (p.tclose && p.granted + 1 == p.nfl))
    let bypass := p.placed == p.granted
    let s1 := (s.grantTo a r ask (decide (12 ≤ r.input) || owner) bypass).trickStep a r p
    let s2 := { s1 with fwd.inputAt := tput 0 s1.fwd.inputAt r.input s.cycle,
                        fwd.cand := match groupOf r.input with
                          | some g => tdel s1.fwd.cand g
                          | none => s1.fwd.cand }
    let s3 := if p.granted = 0 then s2.firstGrant p bypass else s2
    s3.putPkt r.pid { p with granted := p.granted + 1, placed := if bypass then p.placed + 1 else p.placed,
                             fresh := if bypass then p.fresh.drop 1 else p.fresh }

/-- Flows of waiting packets that fail their test enter the calendar (R142). -/
def Dev.enterAll (s : Dev) : Dev := each s.waitingFlows s fun s f => s.enterCal f

/-- An event in ARB_FLAG (R131). -/
def Dev.arbFlag (s : Dev) (a kind input port cls : Nat) : Dev :=
  s.firstEvent Fld.ARB_FLAG.VALID (some Fld.ARB_FLAG.MORE) a
    [(Fld.ARB_FLAG.KIND, kind), (Fld.ARB_FLAG.INPUT, input), (Fld.ARB_FLAG.PORT, port), (Fld.ARB_FLAG.CLASS, cls)]

/-- A tenure still held in the arbitration phase of its last permitted data cycle is cut off (R111). -/
def Dev.cutTenure (s : Dev) (a : Nat) : Dev :=
  match (s.arbOf a).tenure with
  | none => s
  | some h =>
    if s.cycle < h.start + h.limit then s
    else ((((s.modArb a fun x => { x with tenure := none }).arbFlag a 0 h.input 0 h.cls).count .ARB_CUT_CNT a 1).raise (evArb a))

/-- A phase without a request: the grant parks, or has been parked for one phase more (R121, R122). -/
def Dev.parkPhase (s : Dev) (a : Nat) : Dev :=
  if arbParks a ∧ s.fbit Fld.ARB_CFG_W.PARK a ∧ ¬ s.hatchClosed a ∧ (s.arbOf a).last.isSome then
    s.modArb a fun x => { x with parked := x.last, idle := if x.parked.isSome then x.idle + 1 else 1 }
  else s

/-- What a grant to a request does at an arbiter: at a crossbar output its flit is granted, or its packet discarded whose deadline has
passed; at a group's arbiter its packet becomes the input's candidate. -/
def Dev.grantWinner (s : Dev) (a : Nat) (r : Request) (ask : Bool) : Dev :=
  if a ≤ 16 then
    match s.pkt? r.pid with
    | some p => if s.dlExpired p then s.deadlineDiscard r.pid p else s.grantFlit a r ask
    | none => s
  else
    let s1 := s.grantTo a r false false false
    if 49 ≤ a ∧ a ≤ 52 then { s1 with fwd.cand := tins s1.fwd.cand (a - 49) r.pid } else s1

/-- GRANT (R97 to R103, R121): one arbitration phase of an arbiter, at most one in a core cycle; `ask`: the winner asks for a
tenure; `release`: the holder of a tenure releases it in this phase. -/
def grant (a : Nat) (reqs : List ArbReq) (ask release : Bool) (s : Dev) : Dev :=
  if 57 ≤ a ∨ (s.arbOf a).lastPhase = some s.cycle then s
  else
    let s0 := ((s.modArb a fun x => { x with lastPhase := some s.cycle, tenure := if release then none else x.tenure }).enterAll).cutTenure a
    let s1 := if a ≤ 16 then s0.keepPhase else s0
    let l := s1.requests a reqs
    if l.isEmpty then s1.parkPhase a
    else
      let s2 := s1.modArb a fun x => { x with idle := 0 }
      match chooseWinner (s2.arbOf a) (arbInputs a) (l.filter (s2.eligible a)) with
      | none => s2
      | some r => s2.grantWinner a r ask

def execGrant (a : Nat) (reqs : List ArbReq) (ask release : Bool) (s : State) : Host.Outcome State Fault Refusal :=
  s.act (grant a reqs ask release)

/-- ROUND_BOUNDARY (R104, R106, R127): counts and masks cleared; a new ROUND_EXP takes effect. -/
def roundBoundary (a : Nat) (s : Dev) : Dev :=
  let x := s.arbOf a
  if 57 ≤ a ∨ s.cycle < x.roundEnd then s
  else
    let n := s.fget Fld.ARB_CFG_W.ROUND_EXP a
    (s.modArb a fun x => { x with counts := [], roundEnd := (s.cycle / 2 ^ n + 1) * 2 ^ n }).fset
      Fld.ARB_STAT.MASKED a 0

def execRoundBoundary (a : Nat) (s : State) : Host.Outcome State Fault Refusal := s.act (roundBoundary a)

/-- TENURE_CUT (R111): a tenure still held at its last permitted data cycle. -/
def tenureCut (a : Nat) (s : Dev) : Dev := s.cutTenure a

def execTenureCut (a : Nat) (s : State) : Host.Outcome State Fault Refusal := s.act (tenureCut a)

/-- A trick cut (R117, R406): logged, counted, its owner signalled, a lock broken. -/
def Dev.cutTrick (s : Dev) (a kind : Nat) (t : Trick) : Dev :=
  let s1 := s.modArb a fun x => { x with tricks := x.tricks.filter fun u => u != t }
  let s2 := (((s1.arbFlag a kind t.input t.port t.cls).count .ARB_CUT_CNT a 1).emit (.trickCut t.input t.port)).raise (evArb a)
  if t.lock then s2.lockBreak t else s2

/-- TRICK_CUT_64 (R116): a trick whose 64th flit did not close it. [log: DEDUCED 41] -/
def trickCut64 (a port : Nat) (s : Dev) : Dev :=
  match (s.arbOf a).tricks.find? fun t => t.port == port && !t.locks with
  | some t => s.cutTrick a 1 t
  | none => s

def execTrickCut64 (a port : Nat) (s : State) : Host.Outcome State Fault Refusal := s.act (trickCut64 a port)

/-- TRICK_HOLD_CUT (R116): a trick open for its hold limit. [log: DEDUCED 41] -/
def trickHoldCut (a port : Nat) (s : Dev) : Dev :=
  match (s.arbOf a).tricks.find? fun t => t.port == port && t.locks && decide (t.opened + t.hold ≤ s.cycle) with
  | some t => s.cutTrick a 2 t
  | none => s

def execTrickHoldCut (a port : Nat) (s : State) : Host.Outcome State Fault Refusal := s.act (trickHoldCut a port)

/-- PARK_RELEASE_IDLE (R122). -/
def parkReleaseIdle (a : Nat) (s : Dev) : Dev :=
  let x := s.arbOf a
  if x.parked.isSome ∧ s.fget Fld.ARB_CFG_W.PARK_IDLE a ≤ x.idle then
    s.modArb a fun x => { x with parked := none, idle := 0 }
  else s

def execParkReleaseIdle (a : Nat) (s : State) : Host.Outcome State Fault Refusal := s.act (parkReleaseIdle a)

/-- HATCH_WRITE (R128, R122): the management and control planes each write their own bit; the data plane has none.
[log: DEDUCED 40] -/
def hatchWrite (a : Nat) (p : Plane) (close : Bool) (s : Dev) : Dev :=
  if 57 ≤ a then s else
  match p with
  | .data => s
  | _ =>
    let f := match p with
      | .control => Fld.ARB_HATCH.CTRL
      | _ => Fld.ARB_HATCH.MGMT
    let was := s.hatchClosed a
    let s1 := s.fset f a (b2n close)
    let is := s1.hatchClosed a
    s1.modArb a fun x =>
      { x with closedAt := if is then (if was then x.closedAt else some s.now) else none,
               watched := if is && was then x.watched else false, parked := if is then none else x.parked }

def execHatchWrite (a : Nat) (p : Plane) (close : Bool) (s : State) : Host.Outcome State Fault Refusal :=
  s.act (hatchWrite a p close)

/-- HATCH_WATCHDOG (R130): the hatch closed for the watchdog interval. [log: DEDUCED 40] -/
def hatchWatchdog (a : Nat) (s : Dev) : Dev :=
  match (s.arbOf a).closedAt with
  | none => s
  | some t =>
    if (s.arbOf a).watched ∨ s.now < t + tUs * 2 ^ s.fget Fld.ARB_HATCH_WD.EXP 0 then s
    else ((s.modArb a fun x => { x with watched := true }).arbFlag a 3 0 0 0).raise (evArb a)

def execHatchWatchdog (a : Nat) (s : State) : Host.Outcome State Fault Refusal := s.act (hatchWatchdog a)

end Sys2Proof.Machine
end

