-- ==== Sys2Proof/Machine/Xbar.lean ====
section
/-! DEFINITION. The data phase of a granted flit (R97, R119, R120) with what follows it (R83, R139, R251, R374, R384), egress
encode (R61, R73 to R75, R135) and the start of a TLP (R74). -/
namespace Sys2Proof.Machine

/-- Credit at a PCI Express partner given back with the grant of a packet's first flit. -/
def Dev.pciUncommit (s : Dev) (p : Pkt) : Dev :=
  match p.tlp? with
  | some t =>
    let k := 8 * p.egr + 2 * creditKind p.typ
    { s with fwd.pciUsed := tmod 0 (tmod 0 s.fwd.pciUsed k (· - 1)) (k + 1) (· - dataCredits t) }
  | none => s

/-- A flit granted on the bypass route and withdrawn goes to the buffer by the write port reserved for it (R89, R120).
[log: DEDUCED 14] -/
def Dev.fallBack (s : Dev) (pid : Nat) (g : GrantRec) : Dev :=
  match s.pkt? pid with
  | some p =>
    if g.bypass ∧ ¬ p.suffix ∧ ¬ p.cells.any (fun c => c.idx == g.idx) then
      s.putPkt pid { p with cells := p.cells ++ [{ idx := g.idx, region := (s.cellFor p p.own).getD (p.own.getD .pool), at_ := s.cycle }] }
    else s
  | none => s

/-- The arbiter takes a withdrawn grant back (R119, R120): the lost cycle is counted; the grant counts no more in its own round, and the
pointer goes back unless a later grant has moved it. A trick that the flit opened stays open. [log: DESIGN CHOICE 218] -/
def Dev.ungrant (s : Dev) (a : Nat) (g : GrantRec) : Dev :=
  let s1 := (s.count .ARB_DEAD_CNT a 1).modArb a fun x =>
    { x with counts := if g.counted && g.round == x.roundEnd then tmod 0 x.counts g.cls (· - 1) else x.counts,
             ptr := if x.serial = g.serial then g.ptr else x.ptr }
  let m := s1.fget Fld.ARB_STAT.MASKED a
  let s2 := if m.testBit g.cls && !(s1.maskOf a).testBit g.cls then s1.fset Fld.ARB_STAT.MASKED a (setBit m g.cls false) else s1
  s2.fallBack g.pid g

/-- A packet's grants from one flit on are taken from it: those of its later flits are void. -/
def Dev.recall (s : Dev) (a : Nat) (g : GrantRec) (p : Pkt) : Dev :=
  let s1 := (s.modArb a fun x => { x with pend := x.pend.map fun h => if h.pid == g.pid then { h with void := true } else h }).putPkt g.pid
    { p with granted := g.idx }
  if g.idx = 0 ∧ p.egr < 48 ∧ ¬ s.isFabric p.egr then s1.pciUncommit p else s1

/-- A packet of a fence's suffix is on its way (R427 step 3). -/
def Dev.suffixSent (s : Dev) (pid : Nat) : Dev :=
  if s.dl.fences.isEmpty then s
  else { s with dl.fences := s.dl.fences.map fun f => { f with suffix := f.suffix.filter (· != pid) } }

/-- The effects of the first flit's passage: the charge, ledger marks, the count of untokened requests (R139, R251, R371). -/
def Dev.firstPass (s : Dev) (pid : Nat) (p : Pkt) : Dev :=
  let s1 := ((s.charge p).ledgerMark p).suffixSent pid
  if p.typ = .nonPosted ∧ s.isFabric p.egr ∧ ¬ s.fbit Fld.BL_STAT.FB p.egr ∧ ¬ ((p.outEnv.map (·.tok)).getD false) then
    s1.count .RT_UNTOK_CNT 0 1 else s1

/-- What a flit's passage frees in the core cycle after it (R83): its cell where it had one, the shelf cell it stood for, the token of a
request that has reached its destination (R374, R384). -/
def Dev.cellFreed (s : Dev) (p : Pkt) (idx : Nat) : Dev :=
  let token := match p.arrEnv with
    | some e => if e.tok && !p.remote && p.typ == .nonPosted && idx + 1 == p.nfl then some (gpaFsid e.sgpa, p.par) else none
    | none => none
  let f : Freed := { cycle := s.cycle, region := (p.cells.find? fun c => c.idx == idx).map (·.region), port := p.port,
                     shelf := if idx < p.shelved then some p.egr else none, owe := token }
  { s with fwd.freed := s.fwd.freed ++ [f] }

/-- A tree or collective message that its port does not accept: not from port 48 or 52 of another switch (R456), or of a KIND that
no tree message has (R463). -/
def Dev.badMessage (s : Dev) (p : Pkt) : Bool :=
  match p.tlp? with
  | none => false
  | some t =>
    let src := s.sourceGpa p
    t.kind == .vdm && t.code == 0x7F && t.vendor == 0x1F2D && (p.egr == 48 || p.egr == 52) &&
      (gpaFsid src == s.fsid || (gpaPort src != 48 && gpaPort src != 52) ||
        (p.egr == 52 && !(decide (0x10 ≤ byteN t.data 0) && decide (byteN t.data 0 ≤ 0x19))))

/-- A packet wholly delivered at an internal port, or discarded there (R456). -/
def Dev.deliver (s : Dev) (pid : Nat) (p : Pkt) : Dev :=
  if s.badMessage p then s.discard pid 5 else (s.emit (.deliver p.egr p.arrEnv p.content)).delPkt pid

/-- A flit passes the crossbar. An error in its payload words sets the packet's poisoned bit (R61) while none of its flits has left
the egress bank port. [log: DESIGN CHOICE 219] -/
def Dev.passFlit (s : Dev) (g : GrantRec) (p : Pkt) (chk : CoreCheck) : Dev :=
  let bad := chk = .payloadBad ∨ chk = .unreadable ∨ chk = .headerBad
  let s1 := if chk = .corrected ∨ bad then s.count .TM_CORE_CE_CNT 0 1 else s
  let s2 := if bad then s1.errLog 5 p.dest p.port p.oc (ptypeCode p.typ) p.vs else match p.content with
    | .marker 2 _ => s1.relatch .SCH_GATE_OVR_CNT p.egr
    | _ => s1
  let last := p.passed + 1 = p.nfl
  let p1 := { p with passed := p.passed + 1, cells := p.cells.filter fun c => c.idx != g.idx,
                     poison := p.poison || (decide bad && p.encoded == 0),
                     stage := if last then .passed else p.stage }
  let s3 := (if g.idx = 0 then s2.firstPass g.pid p else s2).cellFreed p g.idx
  let s4 := s3.putPkt g.pid p1
  if p.egr < 48 then { s4 with fwd.stg := tmod [] s4.fwd.stg p.egr fun l => l ++ [{ pid := g.pid, idx := g.idx }] }
  else if last then s4.deliver g.pid p1 else s4

/-- The data cycle of a granted flit (R119): lost to an ordinary requester whose flit a fence holds, whose header is bad, or which is gone
with its egress port or elsewhere. -/
def Dev.dataCycle (s : Dev) (a : Nat) (g : GrantRec) (chk : CoreCheck) : Dev :=
  match s.pkt? g.pid with
  | none => if g.privileged then s else s.ungrant a g
  | some p =>
    if g.void then (if g.privileged then s.fallBack g.pid g else s.ungrant a g)
    else if g.idx = 0 ∧ (chk = .headerBad ∨ chk = .unreadable) then (if g.privileged then s else s.ungrant a g).discard g.pid 5
    else if g.idx = 0 ∧ ¬ g.privileged ∧ s.fenced g.pid p then (s.recall a g p).ungrant a g
    else s.passFlit g p chk

/-- CROSSBAR_DATA_PHASE (R97): the oldest grant of an earlier cycle has its data cycle, one at an output and one at an input in each core
cycle (R68). -/
def crossbarDataPhase (a : Nat) (chk : CoreCheck) (s : Dev) : Dev :=
  match (s.arbOf a).pend with
  | [] => s
  | g :: rest =>
    if s.cycle ≤ g.cycle ∨ (s.arbOf a).dataAt = some s.cycle ∨ tfind s.fwd.inputData g.input = some s.cycle then s
    else
      let s1 := s.modArb a fun x => { x with pend := rest, dataAt := some s.cycle }
      { s1 with fwd.inputData := tins s1.fwd.inputData g.input s.cycle }.dataCycle a g chk

def execCrossbarDataPhase (a : Nat) (chk : CoreCheck) (s : State) : Host.Outcome State Fault Refusal :=
  s.act (crossbarDataPhase a chk)

/-- The stall clock of a port starts anew with each flit it sends (R84). -/
def Dev.portSent (s : Dev) (n : Nat) : Dev :=
  { s with fwd.stallFrom := if s.portHolds n then tins s.fwd.stallFrom n s.now else tdel s.fwd.stallFrom n }

/-- The TLP of a packet as it leaves a host or device port: with EP set where its payload had an error (R61).
[log: DESIGN CHOICE 12] -/
def Pkt.outTlp (p : Pkt) (t : Tlp) : Tlp :=
  if p.poison && !t.ep then
    { t with ep := true, raw := Config.tlpEdit t.raw { t with ep := true } }
  else t

/-- Poisoned TLP Received, logged where a TLP forwarded poisoned under R61 leaves the VS (R191). -/
def Dev.poisonLog (s : Dev) (n : Nat) (p : Pkt) : Dev :=
  if !p.poison then s
  else match s.vsOfHost n with
    | some v => s.aer v uspNo .poisonedTlp {}
    | none => match s.bindAt p.par n with
      | some b => s.aer b.vs b.vdsp .poisonedTlp {}
      | none => s

/-- A TLP as a host or device port's link carries it: converted where the link runs without flit mode (R390).
[log: DESIGN CHOICE 12] -/
def Dev.tlpOnLink (s : Dev) (n : Nat) (t : Tlp) : Tlp :=
  if s.fbit Fld.PCI_PORT_STAT.FLIT n then t
  else { t with raw := Config.fromFlitMode t.raw, len := (Config.fromFlitMode t.raw).length }

/-- A flit of a host or device port is encoded: with the last, the TLP has left (R61, R74, R75). -/
def Dev.encodePcie (s : Dev) (n : Nat) (f : StagedFlit) (rest : List StagedFlit) : Dev :=
  let s1 := { s with fwd.stg := tput [] s.fwd.stg n rest }
  match s1.pkt? f.pid with
  | none => s1.portSent n
  | some p =>
    if f.idx + 1 = p.nfl then
      let s2 := { s1 with fwd.started := tdel s1.fwd.started n }
      match p.tlp? with
      | some t =>
        if p.poison ∧ t.ide then (s2.discard f.pid 5).portSent n
        else
          let x := s.tlpOnLink n (p.outTlp t)
          ((((s2.poisonLog n p).emit (.tlp n x)).count .TM_PORT_TXB n x.len).delPkt f.pid).portSent n
      | none => (s2.delPkt f.pid).portSent n
    else s1.portSent n

/-! The envelope as bytes (R387, R389) -/

def envWord (e : Env) : Nat :=
  e.dgpa % 131072 * 2 ^ 111 + e.sgpa % 131072 * 2 ^ 94 + e.vs % 64 * 2 ^ 88 + e.oc % 8 * 2 ^ 85 + e.typ % 4 * 2 ^ 83
    + e.ep % 2 * 2 ^ 82 + b2n e.lock * 2 ^ 81 + b2n e.tok * 2 ^ 80 + e.eseq % 2 ^ 24 * 2 ^ 56 + e.tlen % 8192 * 2 ^ 43
    + b2n e.dlv * 2 ^ 42 + e.dl % 2 ^ 32 * 2 ^ 10

def envBytes (e : Env) : List Byte := beBytes 16 (envWord e)

/-- The envelope of a packet's first 16 bytes. -/
def envOf (l : List Byte) : Env :=
  let w := beNat (l.take 16)
  { dgpa := bitsOf w 127 111, sgpa := bitsOf w 110 94, vs := bitsOf w 93 88, oc := bitsOf w 87 85, typ := bitsOf w 84 83,
    ep := bitsOf w 82 82, lock := bitOf w 81, tok := bitOf w 80, eseq := bitsOf w 79 56, tlen := bitsOf w 55 43, dlv := bitOf w 42,
    dl := bitsOf w 41 10 }

/-- The bytes of a packet on a fabric link: the envelope, then the TLP or the control payload. [log: DESIGN CHOICE 12] -/
def Pkt.wire (p : Pkt) : List Byte :=
  let body := match p.content, p.tlp? with
    | .ctl b, _ => b
    | _, some t => (p.outTlp t).raw
    | _, none => []
  (match p.outEnv with
    | some e => envBytes e
    | none => envBytes (p.arrEnv.getD {})) ++ body

/-- The flit of a packet or of a marker as its link's sender holds it (R293, R389). -/
def Dev.txFlit (s : Dev) (n : Nat) (f : StagedFlit) (p : Pkt) : TxFlit :=
  let last := f.idx + 1 == p.nfl
  let x : TxFlit := { pid := f.pid, idx := f.idx, pool := s.poolOf n p.typ, par := p.par, cc := p.cc }
  match p.content with
  | .marker sub info => { x with marker := some (sub, info) }
  | _ => { x with sop := f.idx == 0, eop := last, topen := f.idx == 0 && p.topen && !p.lockTlp, tclose := last && p.tclose && !p.lockTlp,
                  pay := (p.wire.drop (236 * f.idx)).take 236 }

/-- A flit of a fabric port goes to its link's sender; an IDE TLP with an error in its payload is discarded (R203). -/
def Dev.encodeFabric (s : Dev) (n : Nat) (f : StagedFlit) (rest : List StagedFlit) : Dev :=
  let s1 := { s with fwd.stg := tput [] s.fwd.stg n rest }
  match s1.pkt? f.pid with
  | none => s1.portSent n
  | some p =>
    if p.poison ∧ p.encoded = 0 ∧ ((p.tlp?.map (·.ide)).getD false) then (s1.discard f.pid 5).portSent n
    else
      let s2 := { s1 with bl.ports := tmod {} s1.bl.ports n fun b => { b with txq := b.txq ++ [s.txFlit n f p] } }
      (if p.typ = .marker then s2.delPkt f.pid else s2.putPkt f.pid { p with encoded := p.encoded + 1 }).portSent n

/-- EGRESS_ENCODE (R135): the flit of the first staging slot; a TLP of several flits must have been started (R74). -/
def egressEncode (n : Nat) (s : Dev) : Dev :=
  match tget [] s.fwd.stg n with
  | [] => s
  | f :: rest =>
    if s.isFabric n then s.encodeFabric n f rest
    else
      let many : Bool := match s.pkt? f.pid with
        | some p => decide (1 < p.nfl)
        | none => false
      if s.fget Fld.PCI_PORT_STAT.LTSSM n ≠ lL0 ∨ (many ∧ tfind s.fwd.started n ≠ some f.pid) then s
      else s.encodePcie n f rest

def execEgressEncode (n : Nat) (s : State) : Host.Outcome State Fault Refusal := s.act (egressEncode n)

/-- EGRESS_TLP_START (R74): every flit of the TLP is in staging slots or in the buffer. -/
def egressTlpStart (n : Nat) (s : Dev) : Dev :=
  match tget [] s.fwd.stg n with
  | [] => s
  | f :: _ =>
    match s.pkt? f.pid with
    | some p =>
      if (s.isHost n ∨ s.isDevice n) ∧ f.idx = 0 ∧ p.passed + p.cells.length = p.nfl ∧ (tfind s.fwd.started n).isNone then
        { s with fwd.started := tins s.fwd.started n f.pid }
      else s
    | none => s

def execEgressTlpStart (n : Nat) (s : State) : Host.Outcome State Fault Refusal := s.act (egressTlpStart n)

end Sys2Proof.Machine
end

