-- ==== Sys2Proof/Machine/Dlv.lean ====
section
/-! DEFINITION. Delivery (R413 to R431, R454): the switch's own management-window accesses (R407), acknowledgements, end-to-end
timers, give-ups, lifetimes, failover and the reroute fence at both ends. -/
namespace Sys2Proof.Machine

/-- A quarter of a microsecond, the unit of DL_FENCE_CFG and ACK_WAIT. -/
abbrev tQuarter : Nat := 2000

/-! Management-window requests -/

/-- A management-window request to the switch with an FSID (R407, R729): its control packet and its record.
[log: DESIGN CHOICE 36, DEDUCED 107] -/
def Dev.mwSend (s : Dev) (dst op addr data : Nat) (use : MwUse) : Dev :=
  let id := s.xing.mwNext
  let s1 := s.ctlPacket (dst * 64 + 52) ([(0x11 : Byte), BitVec.ofNat 8 op] ++ leBytes 2 id ++ leBytes 4 addr ++ leBytes 4 data)
  let o : MwOut := { id := id, dst := dst, op := op, use := use, deadline := s.now + s.fget Fld.XB_FTO.US 48 * tUs }
  { s1 with xing.mwOut := s1.xing.mwOut ++ [o], xing.mwNext := (id + 1) % 65536 }

/-- The management-window addresses of an entry of DL_ACK_IN and DL_FENCE_IN: block 0x08 and the entry's offset. -/
def ackInAddr (f oc : Nat) : Nat := 0x08010000 + 4 * strKey f oc
def fenceInAddr (f oc : Nat) : Nat := 0x08020000 + 4 * strKey f oc

/-! Packets on their way again -/

/-- Whether a packet is one of a stream of this switch still retained. -/
def Pkt.retained (p : Pkt) (d oc : Nat) : Bool := p.kept && p.oc == oc && gpaFsid p.dest == d

/-- A packet looked up again under its own parity and recorded ingress class (R426), its flits coming from the replay
buffer; without a usable next hop it is discarded under R60. [log: DEDUCED 104] -/
def Dev.reroute (s : Dev) (pid : Nat) : Dev :=
  match s.pkt? pid with
  | none => s
  | some p =>
    let k := if p.inArr < p.inFl then p.arrived else p.nfl
    let p1 := { p with granted := 0, passed := 0, encoded := 0, sent := 0, acked := 0, placed := k, arrived := k, fresh := [], cells := [],
                       loose := false, suffix := true, stage := .queued }
    if p.via.isSome then (s.count .RT_DIR_DROP 0 1).delPkt pid
    else match s.pickHop s.hopsNow p.par (s.turnClass p.par p.port) p.oc (s.sourceGpa p) p.dest with
      | none => (s.putPkt pid p1).discard pid 3
      | some e => (s.putPkt pid { p1 with egr := e }).enqueue pid

/-- The stream of a packet: its source FSID, destination FSID and ordering class. -/
def Dev.streamKey (s : Dev) (p : Pkt) : Nat × Nat × Nat := (gpaFsid (s.sourceGpa p), gpaFsid p.dest, p.oc)

/-- ESEQ order among packets less than half the sequence space apart. [log: DEDUCED 106] -/
def Dev.byEseq (s : Dev) (l : List Nat) : List Nat :=
  let e := fun pid => ((s.pkt? pid).bind (·.eseq)).getD 0
  let base := (l.head?.map e).getD 0
  sortBy (fun pid => (e pid + seqMod + seqMod / 2 - base) % seqMod) l

/-- The later of two numbers of a sequence. [log: DEDUCED 106] -/
def seqLater (a b : Nat) : Nat := if seqSub a b < seqMod / 2 then a else b

/-- Step 1 of R427: the FENCE write. -/
def Dev.fenceStep1 (s : Dev) (f d oc point : Nat) : Dev :=
  s.mwSend d 1 (fenceInAddr f oc) (2 ^ 30 + point) (.fence f d oc)

/-- A fence raised for a stream, or the running one replaced (R427, R431). [log: DEDUCED 105] -/
def Dev.raiseFence (s : Dev) (f d oc point : Nat) (suffix : List Nat) : Dev :=
  let isIt := fun (x : Fence) => x.f == f && x.d == d && x.oc == oc
  match s.dl.fences.find? isIt with
  | some x =>
    let pt := seqLater point x.point
    let l := s.byEseq ((x.suffix ++ suffix.filter fun q => !x.suffix.contains q).filter fun q => (s.pkt? q).isSome)
    let x1 : Fence := { x with point := pt, suffix := l, ok := false, at_ := s.now, fails := 0 }
    ({ s with dl.fences := s.dl.fences.map fun y => if isIt y then x1 else y }).fenceStep1 f d oc pt
  | none =>
    let x : Fence := { f := f, d := d, oc := oc, point := point, suffix := s.byEseq suffix, ok := false, at_ := s.now, fails := 0 }
    (({ s with dl.fences := s.dl.fences ++ [x] }).count .DL_FENCE_CNT 0 1).fenceStep1 f d oc point

/-- The highest ESEQ of packets in ESEQ order. -/
def Dev.lastEseq (s : Dev) (l : List Nat) : Nat := ((l.getLast?.bind s.pkt?).bind (·.eseq)).getD 0

/-- A packet queued for a port of which no flit has been granted keeps its cells and looks for another port.
[log: DEDUCED 104] -/
def Dev.requeue (s : Dev) (pid : Nat) : Dev :=
  match s.pkt? pid with
  | none => s
  | some p =>
    if 0 < p.granted ∨ p.stage ≠ .queued ∨ p.via.isSome then s.reroute pid
    else match s.pickHop s.hopsNow p.par (s.turnClass p.par p.port) p.oc (s.sourceGpa p) p.dest with
      | none => s.discard pid 3
      | some e => (s.putPkt pid { p with egr := e }).enqueue pid

/-- A request that waits for its token and its shelf looks for another port in place of a failed one. [log: DEDUCED 104] -/
def Dev.repick (s : Dev) (pid : Nat) : Dev :=
  match s.pkt? pid with
  | none => s
  | some p =>
    if p.via.isSome then s.requeue pid
    else match s.pickHop s.hopsNow p.par (s.turnClass p.par p.port) p.oc (s.sourceGpa p) p.dest with
      | none => s.discard pid 3
      | some e => s.putPkt pid { p with egr := e, flow := s.flowOf e p.vs p.cc }

/-- Failover of a fabric port (R426, R726): its queued, unacknowledged and retained packets move to other next hops, the
sequenced ones of each stream under a fence; a packet whose tail will not come is gone; markers queued for the port are not sent;
grants toward it are void (R119). [log: DEDUCED 104, DESIGN CHOICE 220] -/
def Dev.failover (s : Dev) (n : Nat) : Dev :=
  let part := (s.fwd.pkts.filter fun e => e.2.egr == n && e.2.cut).map (·.1)
  let s := each part s fun s pid => s.delPkt pid
  let all := s.fwd.pkts.filter fun e => e.2.egr == n && (e.2.stage == .queued || e.2.stage == .passed)
  let marks := (all.filter fun e => e.2.typ == .marker).map (·.1)
  let moved := (all.filter fun e => e.2.typ != .marker && e.2.remote).map (·.1)
  let s1 := each marks s fun s pid => s.delPkt pid
  let s2 := { s1 with fwd.stg := tdel s1.fwd.stg n, fwd.stallFrom := tdel s1.fwd.stallFrom n,
                      bl.ports := tmod {} s1.bl.ports n fun b => { b with txq := [], unacked := [], replayFrom := none, replayAt := none },
                      arb := each (tkeys s1.arb) s1.arb fun t k => tmod {} t k fun a =>
                        { a with pend := a.pend.map fun g => if g.egr == n then { g with void := true } else g } }
  let waits := (s2.fwd.pkts.filter fun e => e.2.egr == n && e.2.stage == .reserve).map (·.1)
  let s3 := each waits (each moved s2 fun s pid => s.requeue pid) fun s pid => s.repick pid
  let sequenced := moved.filter fun pid => ((s3.pkt? pid).bind (·.eseq)).isSome
  let streams := (sequenced.map fun pid => s3.streamKey ((s3.pkt? pid).getD {})).eraseDups
  each streams s3 fun s k =>
    let l := s.byEseq (sequenced.filter fun pid => s.streamKey ((s.pkt? pid).getD {}) == k)
    s.raiseFence k.1 k.2.1 k.2.2 (s.lastEseq l) l

/-! Giving up -/

/-- The fence of a stream taken away. -/
def Dev.dropFence (s : Dev) (f d oc : Nat) : Dev :=
  { s with dl.fences := s.dl.fences.filter fun x => !(x.f == f && x.d == d && x.oc == oc) }

/-- The SKIP write to the destination (R423). -/
def Dev.skipStep (s : Dev) (d oc value : Nat) : Dev :=
  (s.mwSend d 1 (fenceInAddr s.fsid oc) (2 ^ 31 + value) (.skip d oc)).modOut d oc fun o => { o with skipAt := s.now }

/-- A stream of this switch given up (R423). [log: DEDUCED 105] -/
def Dev.giveUp (s : Dev) (d oc : Nat) : Dev :=
  let l := (s.fwd.pkts.filter fun e => e.2.retained d oc).map (·.1)
  let s1 := each l s fun s pid =>
    match s.pkt? pid with
    | none => s
    | some p =>
      let s1 := match p.typ, p.tlp? with
        | .nonPosted, some t => if (s.findReq t.reqId t.tag).isSome then s.synthesize p t else s
        | .posted, _ => s.perrReport p 3
        | _, _ => s
      s1.delPkt pid
  let next := (s1.outS d oc).next
  let s2 := (s1.modOut d oc fun o => { o with oldest := o.next, timer := none, expiries := 0, skip := some o.next }).dropFence s1.fsid d oc
  ((s2.skipStep d oc next).count .DL_GIVEUP_CNT 0 1).raise evControl

/-- A fence given up (R430): at the source the stream; at a transit switch the suffix and the held packets.
[log: DEDUCED 105] -/
def Dev.fenceGiveUp (s : Dev) (x : Fence) : Dev :=
  if x.f = s.fsid then s.giveUp x.d x.oc
  else
    let l := (s.fwd.pkts.filter fun e => e.2.stage == .queued && e.2.granted == 0 && s.streamKey e.2 == (x.f, x.d, x.oc) &&
      (x.suffix.contains e.1 || s.fenced e.1 e.2)).map (·.1)
    let s1 := each l s fun s pid => s.delPkt pid
    (s1.dropFence x.f x.d x.oc).count .DL_GIVEUP_CNT 0 l.length

/-- One failure of step 1 or step 4 (R429, R430); step 1 is repeated. -/
def Dev.fenceFail (s : Dev) (f d oc : Nat) : Dev :=
  match s.dl.fences.find? fun x => x.f == f && x.d == d && x.oc == oc with
  | none => s
  | some x =>
    let x1 := { x with fails := x.fails + 1, at_ := s.now }
    if s.fget Fld.DL_FENCE_CFG.FENCE_MAX 0 ≤ x1.fails then s.fenceGiveUp x
    else
      let s1 := { s with dl.fences := s.dl.fences.map fun y => if y.f == f && y.d == d && y.oc == oc then x1 else y }
      if x.ok then s1 else s1.fenceStep1 f d oc x.point

/-- A change of a stream's fence. -/
def Dev.modFence (s : Dev) (f d oc : Nat) (g : Fence → Fence) : Dev :=
  { s with dl.fences := s.dl.fences.map fun y => if y.f == f && y.d == d && y.oc == oc then g y else y }

/-! The commands -/

/-- E2E_ACK_SEND (R418, R419). -/
def e2eAckSend (f oc : Nat) (s : Dev) : Dev :=
  let i := s.inS f oc
  let nd := s.nd f oc
  let due := i.ackNow || decide (s.fget Fld.DL_CFG.ACK_BATCH 0 ≤ seqSub nd i.acked) ||
    match i.advAt with
    | some t => decide (t + tQuarter * s.fget Fld.DL_CFG.ACK_WAIT 0 ≤ s.now)
    | none => false
  if s.joined ∧ oc < 8 ∧ due then
    (s.mwSend f 1 (ackInAddr s.fsid oc) nd (.ack f oc)).modIn f oc fun i => { i with acked := nd, advAt := none, ackNow := false }
  else s

def execE2eAckSend (f oc : Nat) (s : State) : Host.Outcome State Fault Refusal := s.act (e2eAckSend f oc)

/-- A retained packet released (R420): gone unless the link still holds flits of it unacknowledged. -/
def Dev.releasePkt (s : Dev) (pid : Nat) (p : Pkt) : Dev :=
  if p.stage == .passed && !p.loose && decide (p.acked < p.nfl) then s.putPkt pid { p with kept := false } else s.delPkt pid

/-- E2E_ACK_RECEIVE (R420): the acknowledgement of a stream toward a destination switch. -/
def e2eAckReceive (d oc a : Nat) (s : Dev) : Dev :=
  let o := s.outS d oc
  if seqSub o.next o.oldest < seqSub a o.oldest then s.count .DL_WIN_CNT 0 1
  else
    let s0 := s.fsets (strKey d oc) [(Fld.DL_ACK_IN.VALID, 1), (Fld.DL_ACK_IN.ND, a)]
    if a = o.oldest then s0
    else
      let l := s.fwd.pkts.filter fun e => e.2.retained d oc && decide (seqSub (e.2.eseq.getD 0) o.oldest < seqSub a o.oldest)
      let s1 := each l s0 fun s e => s.releasePkt e.1 e.2
      s1.modOut d oc fun o => { o with oldest := a, expiries := 0,
                                       timer := if a = o.next then none else some (s.now + s.fget Fld.DL_CFG.E2E_TO 0 * tUs) }

def execE2eAckReceive (d oc a : Nat) (s : State) : Host.Outcome State Fault Refusal := s.act (e2eAckReceive d oc a)

/-- E2E_TIMER_EXPIRY (R422, R423): the retained packets are sent again under a fence, the stream is given up, or an
unanswered SKIP is repeated. -/
def e2eTimerExpiry (d oc : Nat) (s : Dev) : Dev :=
  let o := s.outS d oc
  let period := s.fget Fld.DL_CFG.E2E_TO 0 * tUs
  match o.skip, o.timer with
  | some v, _ => if o.skipAt + period ≤ s.now then s.skipStep d oc v else s
  | none, some t =>
    if s.now < t then s
    else if s.fget Fld.DL_CFG.E2E_MAX 0 ≤ o.expiries then s.giveUp d oc
    else
      let l := (s.fwd.pkts.filter fun e => e.2.retained d oc).map (·.1)
      let again := l.filter fun pid => ((s.pkt? pid).map fun p => p.stage == .passed).getD false
      let s1 := (each again s fun s pid => s.reroute pid).modOut d oc fun o => { o with expiries := o.expiries + 1, timer := some (s.now + period) }
      (s1.count .DL_RESEND_CNT 0 1).raiseFence s.fsid d oc ((o.next + seqMod - 1) % seqMod) l
  | none, none => s

def execE2eTimerExpiry (d oc : Nat) (s : State) : Host.Outcome State Fault Refusal := s.act (e2eTimerExpiry d oc)

/-- FENCE_WRITE (R427, R428) at the destination: ordered mode with the later fence point. [log: DEDUCED 106] -/
def fenceWrite (f oc _src val : Nat) (s : Dev) : Dev :=
  let pt := if s.ordered f oc then seqLater (val % seqMod) (s.inS f oc).point else val % seqMod
  ((s.fset Fld.DL_FENCE_IN.ORDERED (strKey f oc) 1).modIn f oc fun i => { i with point := pt }).orderedExit f oc

def execFenceWrite (f oc src val : Nat) (s : State) : Host.Outcome State Fault Refusal := s.act (fenceWrite f oc src val)

/-- SKIP_WRITE (R454). -/
def skipWrite (f oc _src val : Nat) (s : Dev) : Dev :=
  ((s.releaseHeld (s.heldOf f oc)).fsets (strKey f oc)
    [(Fld.DL_FENCE_IN.VALUE, val % seqMod), (Fld.DL_FENCE_IN.ORDERED, 0)]).modIn f oc fun i =>
      { i with mask := 0, acked := val % seqMod, advAt := none }

def execSkipWrite (f oc src val : Nat) (s : State) : Host.Outcome State Fault Refusal := s.act (skipWrite f oc src val)

/-- FENCE_POLL (R427 step 4). -/
def fencePoll (f d oc : Nat) (s : Dev) : Dev :=
  match s.dl.fences.find? fun x => x.f == f && x.d == d && x.oc == oc with
  | none => s
  | some x =>
    if x.ok ∧ x.at_ + tQuarter * s.fget Fld.DL_FENCE_CFG.POLL 0 ≤ s.now then
      (s.modFence f d oc fun y => { y with at_ := s.now }).mwSend d 0 (fenceInAddr f oc) 0 (.poll f d oc)
    else s

def execFencePoll (f d oc : Nat) (s : State) : Host.Outcome State Fault Refusal := s.act (fencePoll f d oc)

/-- FENCE_TIMEOUT (R429): no OK within FENCE_TO. -/
def fenceTimeout (f d oc : Nat) (s : Dev) : Dev :=
  match s.dl.fences.find? fun x => x.f == f && x.d == d && x.oc == oc with
  | none => s
  | some x =>
    if ¬ x.ok ∧ x.at_ + tQuarter * s.fget Fld.DL_FENCE_CFG.FENCE_TO 0 ≤ s.now then s.fenceFail f d oc else s

def execFenceTimeout (f d oc : Nat) (s : State) : Host.Outcome State Fault Refusal := s.act (fenceTimeout f d oc)

/-- LIFETIME_EXPIRY (R424): a waiting sequenced packet at a switch other than its destination, or held at it in ordered
mode. -/
def lifetimeExpiry (pid : Nat) (s : Dev) : Dev :=
  match s.pkt? pid with
  | none => s
  | some p =>
    if p.eseq.isNone ∨ s.now < p.decNow + s.fget Fld.DL_CFG.LIFE 0 * 10 * tUs then s
    else if p.stage = .held then
      let f := gpaFsid (s.sourceGpa p)
      let d := seqSub (p.eseq.getD 0) (s.nd f p.oc)
      ((s.modIn f p.oc fun i => { i with mask := if i.mask.testBit d then i.mask - 2 ^ d else i.mask }).count .DL_LIFE_CNT 0 1).delPkt pid
    else if p.remote ∧ p.granted = 0 ∧ (p.stage = .queued ∨ p.stage = .reserve) then (s.count .DL_LIFE_CNT 0 1).drop pid p
    else if p.stage = .decoded ∧ p.arrEnv.any fun e => gpaFsid e.dgpa != s.fsid then (s.count .DL_LIFE_CNT 0 1).delPkt pid
    else s

def execLifetimeExpiry (pid : Nat) (s : State) : Host.Outcome State Fault Refusal := s.act (lifetimeExpiry pid)

/-- What the answer to an access of this switch does (R407, R410, R420, R423, R427, R429): a lock-read answered OK withdraws the lock
that the answering switch held here as the one that yields. [log: DEDUCED 107] -/
def Dev.mwAnswer (s : Dev) (o : MwOut) (status data : Nat) : Dev :=
  match o.use with
  | .core _ =>
    let s1 := s.emit (.mwData status data)
    if o.op = 2 ∧ status = 0 then
      let past := s1.xing.farLock.any fun l => l.1 == o.dst && decide (o.dst < s.fsid)
      { s1 with xing.held := s1.xing.held ++ [o.dst], xing.farLock := if past then none else s1.xing.farLock }
    else if o.op = 2 ∧ status = 1 then s1.count .XB_MW_RETRY_CNT 0 1
    else if o.op = 3 then { s1 with xing.held := s1.xing.held.filter (· != o.dst) }
    else s1
  | .ack f oc => if status = 0 then s else s.modIn f oc fun i => { i with ackNow := true }
  | .fence f d oc => if status = 0 then s.modFence f d oc fun x => { x with ok := true, at_ := s.now, fails := 0 } else s.fenceFail f d oc
  | .poll f d oc =>
    if status ≠ 0 then s.fenceFail f d oc
    else match s.dl.fences.find? fun x => x.f == f && x.d == d && x.oc == oc with
      | none => s
      | some x => if pastPoint (data % seqMod) x.point then s.dropFence f d oc else s.modFence f d oc fun x => { x with fails := 0 }
  | .skip d oc => if status = 0 then s.modOut d oc fun o => { o with skip := none } else s

/-- MW_RESPONSE (R407): the waiting access of this switch with that ID ends. [log: DESIGN CHOICE 36, DEDUCED 107] -/
def mwResponse (src id status data : Nat) (s : Dev) : Dev :=
  match s.xing.mwOut.find? fun o => o.id == id && o.dst == src with
  | none => s
  | some o => ({ s with xing.mwOut := s.xing.mwOut.filter fun x => x.id != id }).mwAnswer o status data

def execMwResponse (src id status data : Nat) (s : State) : Host.Outcome State Fault Refusal := s.act (mwResponse src id status data)

/-- MW_READ_TIMEOUT (R407): status TIMEOUT and data 0. [log: DESIGN CHOICE 36, DEDUCED 107] -/
def mwReadTimeout (id : Nat) (s : Dev) : Dev :=
  match s.xing.mwOut.find? fun o => o.id == id with
  | none => s
  | some o => if s.now < o.deadline then s else ({ s with xing.mwOut := s.xing.mwOut.filter fun x => x.id != id }).mwAnswer o 2 0

def execMwReadTimeout (id : Nat) (s : State) : Host.Outcome State Fault Refusal := s.act (mwReadTimeout id)

end Sys2Proof.Machine
end

