-- ==== Sys2Proof/Machine/LinkBase.lean ====
section
/-! DEFINITION. The Brorna link (R286 to R336): its CRC and flits, the envelope as bytes, link states, rank, the neighbour
record, trunk admission, link failure and bring-up failure. -/
namespace Sys2Proof.Machine

/-! CRC-64 (R289, R290) -/

def crcPoly : Nat := 0x42F0E1EBA9EA3693

/-- One bit of the CRC, most significant bit first. -/
def crcBit (c : Nat) (b : Bool) : Nat :=
  let top := c.testBit 63 != b
  let sh := c * 2 % 2 ^ 64
  if top then sh ^^^ crcPoly else sh

/-- The bits of a byte, bit 7 first. -/
def crcByte (c x : Nat) : Nat :=
  crcBit (crcBit (crcBit (crcBit (crcBit (crcBit (crcBit (crcBit c (x.testBit 7)) (x.testBit 6)) (x.testBit 5)) (x.testBit 4))
    (x.testBit 3)) (x.testBit 2)) (x.testBit 1)) (x.testBit 0)

def crcRun (c : Nat) (l : List Byte) : Nat := l.foldl (fun c b => crcByte c b.toNat) c

/-- The CRC-64 of a flit's first 248 bytes. -/
def crc64 (l : List Byte) : Nat := 2 ^ 64 - 1 - crcRun (2 ^ 64 - 1) l

/-- The syndrome of a flit: 0 where its CRC agrees. -/
def syndrome (b : List Byte) : Nat := crc64 (b.take 248) ^^^ beNat (b.drop 248)

/-- The syndromes of the 255 errors in one byte that stands `k` bytes before the CRC, from those of the byte before it. -/
def findByte (target : Nat) : List (Nat × Nat) → Option Nat
  | [] => none
  | (x, y) :: t => if y = target then some x else findByte target t

/-- The single-byte error of a syndrome: the byte's position and the pattern (R290). Errors in the CRC's own bytes show as
themselves; an error in byte 247 - k shows as its pattern run through k further bytes of zero. -/
def searchByte (target : Nat) (l : List (Nat × Nat)) : Nat → Option (Nat × Nat)
  | 0 => none
  | k + 1 =>
    match findByte target l with
    | some x => some (k, x)
    | none => searchByte target (l.map fun e => (e.1, crcByte e.2 0)) k

def patterns : List Nat := (List.range 255).map (· + 1)

def errorOf (syn : Nat) : Option (Nat × Nat) :=
  match (List.range 8).find? fun j => syn % 256 ^ (8 - j) == syn && syn % 256 ^ (7 - j) == 0 with
  | some j => some (248 + j, syn / 256 ^ (7 - j))
  | none => searchByte syn (patterns.map fun x => (x, crcByte 0 x)) 248

/-- What the receiver makes of 256 bytes (R290): good, corrected at a byte, or bad. -/
inductive FlitCheck where
  | good
  | corrected (k : Nat)
  | bad
  deriving DecidableEq, Repr

def checkFlit (b : List Byte) : FlitCheck × List Byte :=
  let syn := syndrome b
  if syn = 0 then (.good, b)
  else match errorOf syn with
    | some (k, x) => (.corrected k, b.set k (BitVec.ofNat 8 (byteN b k ^^^ x)))
    | none => (.bad, b)

/-! The flit header (R293) -/

structure FlitHdr where
  typ : Nat := 0
  seq : Nat := 0
  ack : Nat := 0
  ackv : Bool := false
  ep : Nat := 0
  cc : Nat := 0
  sop : Bool := false
  eop : Bool := false
  topen : Bool := false
  tclose : Bool := false
  len : Nat := 0
  cpool : Nat := 0
  cred : Nat := 0
  sub : Nat := 0
  info : Nat := 0
  deriving DecidableEq, Repr

/-- The header as a 96-bit number. -/
def FlitHdr.word (h : FlitHdr) : Nat :=
  h.typ % 16 * 2 ^ 92 + h.seq % 16384 * 2 ^ 78 + h.ack % 16384 * 2 ^ 64 + b2n h.ackv * 2 ^ 63 + h.ep % 2 * 2 ^ 62 + h.cc % 8 * 2 ^ 59
    + b2n h.sop * 2 ^ 58 + b2n h.eop * 2 ^ 57 + b2n h.topen * 2 ^ 56 + b2n h.tclose * 2 ^ 55 + h.len % 256 * 2 ^ 47
    + h.cpool % 4 * 2 ^ 45 + h.cred % 65536 * 2 ^ 29 + h.sub % 32 * 2 ^ 24 + h.info % 2 ^ 24

/-- The header read from a 96-bit number. -/
def flitHdr (w : Nat) : FlitHdr :=
  { typ := bitsOf w 95 92, seq := bitsOf w 91 78, ack := bitsOf w 77 64, ackv := bitOf w 63, ep := bitsOf w 62 62,
    cc := bitsOf w 61 59, sop := bitOf w 58, eop := bitOf w 57, topen := bitOf w 56, tclose := bitOf w 55, len := bitsOf w 54 47,
    cpool := bitsOf w 46 45, cred := bitsOf w 44 29, sub := bitsOf w 28 24, info := bitsOf w 23 0 }

/-- The bytes of a list padded with zeros to a length. -/
def padTo (n : Nat) (l : List Byte) : List Byte := (l ++ List.replicate (n - l.length) 0).take n

/-- A flit of 256 bytes from its header and payload (R288, R289). -/
def flitBytes (h : FlitHdr) (payload : List Byte) : List Byte :=
  let b := beBytes 12 h.word ++ padTo 236 payload
  b ++ beBytes 8 (crc64 b)

/-! Link states -/

abbrev blDisabled : Nat := 0
abbrev blReset : Nat := 1
abbrev blQuiet : Nat := 2
abbrev blTrain : Nat := 3
abbrev blAlign : Nat := 4
abbrev blUp : Nat := 5
abbrev blHeld : Nat := 6

def Dev.bl! (s : Dev) (n : Nat) : BlPort := tget {} s.bl.ports n
def Dev.modBl (s : Dev) (n : Nat) (f : BlPort → BlPort) : Dev := { s with bl.ports := tmod {} s.bl.ports n f }
def Dev.blState (s : Dev) (n : Nat) : Nat := s.fget Fld.BL_STAT.STATE n

/-- The drivers of a port's lanes go on or off (R283, R299). -/
def Dev.drivers (s : Dev) (n : Nat) (on : Bool) : Dev := each (s.lanesOf n) s fun s i => s.emit (.driver i on)

/-- The states in which a port transmits (R299). -/
def drives (st : Nat) : Bool := st == blReset || st == blTrain || st == blAlign || st == blUp

/-- A link state entered (R299); the drivers follow it; the neighbour record holds the present state (R340). -/
def Dev.blEnter (s : Dev) (n st : Nat) : Dev :=
  let on := drives st
  let s1 := if on == (drives (s.blState n) && !s.fbit Fld.BL_STAT.TXSLEEP n) then s else s.drivers n on
  (s1.fset Fld.BL_STAT.STATE n st).fset Fld.RT_NBR_LINK.STATE n st

/-- A notice of a neighbour event waits for its sending while the switch is joined (R341). -/
def Dev.linkEvent (s : Dev) (n ev reason : Nat) : Dev :=
  if s.joined then { s with rt.nbrPend := s.rt.nbrPend ++ [(n, ev, reason, s.ftime)] } else s

/-- The rate code of a fabric port's setting (R286). -/
def Dev.blRateCode (s : Dev) (n : Nat) : Nat := if s.fbit Fld.BL_CTRL.RATE n then 0x16 else 0x15

def Dev.serial (_s : Dev) : Nat := Config.serial % 2 ^ 64

/-- This side outranks its partner (R298). -/
def Dev.outranks (s : Dev) (p : Partner) : Bool :=
  let pj := p.fsid != 0xFFFF
  if s.joined && !pj then true
  else if !s.joined && pj then false
  else if s.joined then decide (p.fsid % 2048 < s.fsid) else decide (p.serial < s.serial)

/-- An idle flit's payload (R297 table). -/
def Dev.idlePayload (s : Dev) (n : Nat) : List Byte :=
  ((List.range 64).map fun k => BitVec.ofNat 8 (0xA0 + (k + 12) % 16)) ++ leBytes 8 s.serial
    ++ leBytes 2 (if s.joined then s.fsid else 0xFFFF) ++ leBytes 1 n ++ leBytes 1 (s.blRateCode n) ++ leBytes 1 (s.width n)
    ++ leBytes 1 (s.fget Fld.BL_CTRL.TWOCLASS n + 2 * b2n (s.bl! n).aligned) ++ leBytes 2 0x5192

/-- The partner a good idle flit tells of. [log: DEDUCED 73] -/
def partnerOf (b : List Byte) : Partner :=
  { known := true, serial := leNat ((b.drop 76).take 8), fsid := wordN b 84, port := byteN b 86, rate := byteN b 87,
    width := byteN b 88, mode := byteN b 89, device := wordN b 90, rxok := bitOf (byteN b 89) 1 }

/-- The LTAG bytes are those of the pattern (R297). -/
def ltagOk (b : List Byte) : Bool := (List.range 64).all fun k => byteN b (12 + k) == 0xA0 + (12 + k) % 16

/-! Failover of trunk buckets (R332, R334) -/

/-- The trunks of the active half that name a port. -/
def Dev.trunksOf (s : Dev) (n : Nat) : List Nat :=
  (listedEntries (s.half s.ap) offTrunk 32 64).filter fun t =>
    trunkValid (s.trunkWord s.ap t) && (trunkMembers (s.trunkWord s.ap t)).any fun m => m.2 == n

/-- A member leaves ACTIVE: each of its buckets moves to the next ACTIVE member; the reference goes with the last one. -/
def Dev.trunkLeave (s : Dev) (n : Nat) : Dev :=
  each (s.trunksOf n) s fun s t =>
    let w := s.trunkWord s.ap t
    let ms := trunkMembers w
    let s1 := each (List.range 64) s fun s j =>
      let own := trunkBucket w j
      let cur := (tfind s.bl.bktSub (t * 64 + j)).getD own
      if ms.any fun m => m.1 == cur && m.2 == n then
        let o := if ms.any fun m => m.1 == own && s.memberUp m.2 then cur else own
        let rot := (ms.filter fun m => m.1 > o) ++ ms.filter fun m => m.1 < o
        match rot.find? fun m => s.memberUp m.2 with
        | some m => { s with bl.bktSub := tins s.bl.bktSub (t * 64 + j) m.1 }
        | none => s
      else s
    if ms.any fun m => s1.memberUp m.2 then s1 else { s1 with bl.trunkRef := tdel s1.bl.trunkRef t }

/-- An ACTIVE member sets the reference FSID of its trunk or is held against it (R332); `told` where the port's event source has been
raised for it already. -/
def Dev.trunkJoin (s : Dev) (n : Nat) (told : Bool) : Dev :=
  let out := fun (s : Dev) (b : Bool) => { s with bl.trunkOut := setBit s.bl.trunkOut n b }
  each (s.trunksOf n) (out s false) fun s t =>
    let others := (trunkMembers (s.trunkWord s.ap t)).any fun m => m.2 != n && s.memberUp m.2
    let f := (s.bl! n).partner.fsid
    match tfind s.bl.trunkRef t with
    | some r => if others && r != f then (if told then out s true else (out s true).raise (evPort n))
                else { s with bl.trunkRef := tins s.bl.trunkRef t f }
    | none => { s with bl.trunkRef := tins s.bl.trunkRef t f }

/-- Ports in the member order of the trunks of the active half, those of no trunk after them. -/
def Dev.memberOrder (s : Dev) (ps : List Nat) : List Nat :=
  let l := ((listedEntries (s.half s.ap) offTrunk 32 64).filter fun t => trunkValid (s.trunkWord s.ap t)).flatMap fun t =>
    ((trunkMembers (s.trunkWord s.ap t)).map (·.2)).filter ps.contains
  l ++ ps.filter fun n => !l.contains n

/-- A member enters ACTIVE; it is admitted when the core cycle is over, with those of the same cycle in member order (R332). -/
def Dev.trunkArrive (s : Dev) (n : Nat) : Dev :=
  { s with bl.joinDue := s.bl.joinDue ++ [n], bl.trunkOut := setBit s.bl.trunkOut n !(s.trunksOf n).isEmpty }

/-- The members that entered ACTIVE in the core cycle that is over. -/
def Dev.trunkAdmit (s : Dev) : Dev :=
  each (s.memberOrder s.bl.joinDue) { s with bl.joinDue := [] } fun s n => if s.blActive n then s.trunkJoin n false else s

/-! Failures (R303, R307) -/

/-- A port that leaves ACTIVE is suspended as a next hop until the next apply instant, and with it each trunk of which no member is
usable any more (R357). [log: DEDUCED 81] -/
def Dev.suspend (s : Dev) (n : Nat) : Dev :=
  let s1 := { s with rt.suspPorts := setBit s.rt.suspPorts n true }
  each (s1.trunksOf n) s1 fun s t =>
    if (trunkMembers (s.trunkWord s.ap t)).any fun m => s.memberUp m.2 then s
    else { s with rt.suspTrunks := setBit s.rt.suspTrunks t true }

/-- The packet whose flits were arriving on a link that ends: its tail will not come. It is dropped, unless a fabric port has begun to
send it. [log: DESIGN CHOICE 220] -/
def Dev.dropArriving (s : Dev) (n : Nat) : Dev :=
  let b := s.bl! n
  let s1 := s.modBl n fun b => { b with rx := none, realignAt := none, inbox := b.inbox.filter (·.last) }
  match b.rx.bind (·.pid) with
  | none => s1
  | some pid => match s1.pkt? pid with
    | some p =>
      if p.nfl ≤ p.arrived then s1
      else if s.isFabric p.egr ∧ 0 < p.granted then s1.putPkt pid { p with cut := true }
      else { s1.delPkt pid with fwd.stg := s1.fwd.stg.map fun e => (e.1, e.2.filter fun f => f.pid != pid) }
    | none => s1

/-- The stall clock that a link failure ends, with the first packet of the port, for a stall of the same core cycle (R87). -/
def Dev.keepStall (s : Dev) (n : Nat) : Dev :=
  match tfind s.fwd.stallFrom n with
  | some t => { s with fwd.stallEnd := tins s.fwd.stallEnd n { cycle := s.cycle, from_ := t, first := (s.heldFor n).head?.bind s.pkt? } }
  | none => s

/-- A link leaves ACTIVE for RESET, a sleeping transmitter awake again; the watch intervals of its lanes end (R276). -/
def Dev.leaveActive (s : Dev) (n : Nat) (asleep : Bool) : Dev :=
  let s1 := if asleep then s.drivers n true else s
  each (s.lanesOf n) ((s1.blEnter n blReset).modBl n fun b => { b with resets := 0, expAt := none, replayLeft := none }) fun s i => s.watchBreak i

/-- A link failure (R307): an ACTIVE link records its reason, hands its flits to failover and enters RESET. [log: DEDUCED 75] -/
def Dev.linkFail (s : Dev) (n reason : Nat) : Dev :=
  if s.blState n ≠ blUp then s
  else
    let s1 := s.noteHops.fsets n [(Fld.BL_STAT.REASON, reason), (Fld.BL_STAT.FAIL, 1), (Fld.BL_STAT.TXSLEEP, 0), (Fld.BL_STAT.RXSLEEP, 0),
      (Fld.BL_STAT.FB, 0)]
    let s2 := ((((s1.count .BL_RESET_CNT n 1).raise (evPort n)).logError 3 n reason 0).leaveActive n (s.fbit Fld.BL_STAT.TXSLEEP n))
    let s3 := (s2.trunkLeave n).linkEvent n 3 reason
    (((s3.suspend n).keepStall n).dropArriving n).failover n

/-- A protocol error of a link (R292, R294, R295, R308, R315, R316, R322). -/
def Dev.protoError (s : Dev) (n : Nat) : Dev := (s.count .BL_PROTO_CNT n 1).linkFail n 3

/-- The lane of a port with the most errors in its last check window, and those errors. -/
def worstLane (l : Tbl Nat) : Nat × Nat := l.foldl (fun w e => if w.2 < e.2 then e else w) (0, 0)

/-- A bring-up failure (R303): reason, worst lane, count, event, QUIET for RETRY ms. -/
def Dev.bringFail (s : Dev) (n reason : Nat) : Dev :=
  let b := s.bl! n
  let w := worstLane b.chkAt
  let allOk := decide (b.lanesOk = 2 ^ s.width n - 1)
  let s1 := s.fsets n [(Fld.BL_STAT.REASON, reason), (Fld.BL_STAT.FAIL, 1)]
  let s2 := s1.fsets n [(Fld.BL_BU_LOG.PASS, b2n allOk), (Fld.BL_BU_LOG.LANE, w.1), (Fld.BL_BU_LOG.ERR, min 65535 w.2)]
  ((((s2.count .BL_RESET_CNT n 1).raise (evPort n)).logError 3 n reason 0).blEnter n blQuiet).modBl n fun b =>
    { b with quietTill := s.now + s.fget Fld.BL_BRINGUP.RETRY 0 * tMs, waitSig := none, aligned := false }

/-- The start of a bring-up (R266, R299): every lane set from its usable entry, or the port stays in DISABLED. -/
def Dev.enterTrain (s : Dev) (n : Nat) : Dev :=
  let rate := s.blRateCode n
  let ls := s.lanesOf n
  let bad := ls.filter fun i => (s.eqEntry i rate).isNone
  if bad.isEmpty then
    let s1 := each ls s fun s i => (match s.eqEntry i rate with
      | some e => (s.prbsStop i).applyEntry i rate e
      | none => s)
    (each ls (s1.blEnter n blTrain) fun s i => s.modLane i fun l => { l with window := none }).modBl n fun b =>
      { b with lanesOk := 0, allOkAt := none, aligned := false, goodRun := 0, bringAt := s.now, bringup := s.rget .BL_BRINGUP 0, waitSig := none, chkAt := [],
               partner := { b.partner with known := false } }
  else
    let s1 := each bad s fun s i => s.fset Fld.LN_LANE_APPLIED.SRC i 3
    (s1.raise (evPort n)).blEnter n blDisabled

/-- The neighbour record filled from the partner's idle flits at ALIGN (R340), a change of the neighbour reported (R306), an
identity of this switch's own FSID with another serial found (R348). [log: DEDUCED 73] -/
def Dev.fillNbr (s : Dev) (n : Nat) : Dev :=
  let b := s.bl! n
  let p := b.partner
  let s1 := s.fsets n [(Fld.RT_NBR_SERIAL.SERIAL, p.serial), (Fld.RT_NBR_LINK.RATE, p.rate), (Fld.RT_NBR_LINK.WIDTH, p.width),
    (Fld.RT_NBR_LINK.MODE, p.mode), (Fld.RT_NBR_ADDR.FSID, p.fsid), (Fld.RT_NBR_ADDR.PORT, p.port), (Fld.RT_NBR_DEV.DEVICE, p.device)]
  let changed : Bool := match b.serialSeen with
    | some x => x != p.serial || b.fsidSeen != p.fsid
    | none => false
  let s2 := if changed then s1.linkEvent n 1 0 else s1
  let s3 := if s.joined ∧ p.fsid = s.fsid ∧ p.serial ≠ s.serial then (s2.fset Fld.RT_STAT.DUPFSID 0 1).raise evControl else s2
  s3.modBl n fun b => { b with serialSeen := some p.serial, fsidSeen := p.fsid }

/-- Entry to ACTIVE (R305, R326, R327, R332, R358). -/
def Dev.enterActive (s : Dev) (n : Nat) : Dev :=
  let p := (s.bl! n).partner
  let s96 := p.device == 0x5096
  let fb := s.fbit Fld.BL_CTRL.TWOCLASS n || p.mode.testBit 0 || s96
  let s1 := (s.noteHops.blEnter n blUp).fsets n [(Fld.BL_STAT.FB, b2n fb), (Fld.BL_STAT.S96, b2n s96), (Fld.BL_STAT.DRIVE, b2n (s.outranks p))]
  let s2 := s1.fsets n [(Fld.BL_SEQ.TXO, 0), (Fld.BL_SEQ.RXNE, 0), (Fld.BL_BU_LOG.PASS, 1)]
  let s3 := s2.modBl n fun b =>
    { b with next := 0, oldest := 0, ackValid := false, txq := [], unacked := [], replayFrom := none, replayAt := none, replays := 0,
             limits := [0, 0, 0, 0], used := [0, 0, 0, 0], rxUsed := [0, 0, 0, 0], rxLimit := [0, 0, 0, 0], rx := none,
             idleFrom := s.now, sentAck := 16383, sentLimit := [0, 0, 0, 0], credTurn := 0, wakeReq := false,
             expAt := none, replayLeft := none }
  let w := worstLane (s.bl! n).chkAt
  let s4 := s3.fsets n [(Fld.BL_BU_LOG.LANE, w.1), (Fld.BL_BU_LOG.ERR, min 65535 w.2)]
  let s5 := if fb then s4.raise (evPort n) else s4
  (s5.linkEvent n 2 0).trunkArrive n

/-! Credits advertised (R323, R724) -/

/-- Whether a flit of the port in the shared pool waits for an egress port at its cap (R724). -/
def Dev.capBlocked (s : Dev) (n : Nat) : Bool :=
  s.fwd.pkts.any fun e => e.2.port == n && e.2.cells.any (fun c => c.region == .pool) && e.2.stage == .queued && decide (e.2.egr < 48) &&
    decide (s.fget Fld.XB_PORT_EGR.CAP e.2.egr * 16 ≤ s.egrCells e.2.egr)

/-- The shared-pool credits a port may add to those outstanding (R81, R724): while occupancy with credit < α × free.
[log: DEDUCED 68, DEDUCED 74] -/
def Dev.poolAllow (s : Dev) (n : Nat) : Nat :=
  if s.capBlocked n then 0
  else
    let f := s.poolFree
    let occ := s.usedBy .pool n + s.poolCredit n
    let k := 2 ^ s.fget Fld.XB_PORT_CTRL.ALPHA n
    min f (ceilDiv (k * f - 16 * occ) (16 + k))

/-- The credits outstanding in a pool. -/
def BlPort.outstanding (b : BlPort) (q : Nat) : Nat := (b.rxLimit.getD q 0 + 65536 - b.rxUsed.getD q 0 % 65536) % 65536

/-- The limit of a pool as a flit stamps it now: the marker pool keeps 16 cells (R324), a data pool what the reserve and the
shared pool can accept, half of it at most in two-class mode, 32,767 outstanding at most (R322). [log: DEDUCED 74] -/
def Dev.creditLimit (s : Dev) (n q : Nat) : Nat :=
  let b := s.bl! n
  if q = 3 then
    (b.rxUsed.getD 3 0 + 16) % 65536
  else
    let out := b.outstanding q
    let total := s.creditOut n
    let add := (s.reserveFree n - total) + s.poolAllow n
    let cap := if s.fbit Fld.BL_STAT.FB n then (total + add) / 2 else total + add
    (b.rxUsed.getD q 0 + max out (min (min (out + add) cap) 32767)) % 65536

/-- The pools in use (R325, R326). [log: DEDUCED 74] -/
def Dev.poolsInUse (s : Dev) (n : Nat) : List Nat := if s.fbit Fld.BL_STAT.FB n then [1, 2, 3] else [0, 3]

/-- The fields every transmitted flit carries afresh: ACK, ACKV, CPOOL, CRED (R312, R313, R323). -/
def Dev.stampHdr (s : Dev) (n : Nat) (h : FlitHdr) : FlitHdr :=
  let b := s.bl! n
  let ps := s.poolsInUse n
  let q := ps.getD (b.credTurn % ps.length) 0
  { h with ack := (s.fget Fld.BL_SEQ.RXNE n + 16383) % 16384, ackv := b.ackValid, cpool := q, cred := s.creditLimit n q }

/-- A flit leaves on the line: its stamps become what the partner has been told. -/
def Dev.sendFlit (s : Dev) (n : Nat) (h : FlitHdr) (payload : List Byte) : Dev :=
  let h1 := if s.blState n = blUp then s.stampHdr n h else h
  let s1 := s.emit (.flit n (flitBytes h1 payload))
  if s.blState n = blUp then
    s1.modBl n fun b =>
      { b with credTurn := b.credTurn + 1, sentAck := h1.ack, rxLimit := b.rxLimit.set h1.cpool h1.cred,
               sentLimit := b.sentLimit.set h1.cpool h1.cred,
               idleFrom := if b.sentAck = h1.ack ∧ b.sentLimit.getD h1.cpool 0 = h1.cred then b.idleFrom else s.now }
  else s1

/-- An idle flit, and a control flit. -/
def Dev.sendIdle (s : Dev) (n : Nat) : Dev := s.sendFlit n {} (s.idlePayload n)
def Dev.sendCtl (s : Dev) (n sub info : Nat) : Dev := s.sendFlit n { typ := 3, sub := sub, info := info } []

end Sys2Proof.Machine
end

