-- ==== Sys2Proof/Machine/Link.lean ====
section
/-! DEFINITION. The commands of the Brorna link (R299 to R334) but flit reception: port enable and disable, bring-up, the
restart after a reset, flit transmission, the replay timer, sleep, and the egress stall timeout (R84, R85). -/
namespace Sys2Proof.Machine

/-! Ports in and out of service -/

/-- PORT_ENABLE (R48, R181, R299): a host port that no VS names is not enabled; a test on its lanes ends (R282). -/
def portEnable (n : Nat) (s : Dev) : Dev :=
  if 48 ≤ n ∨ s.enabled n ∨ (s.role n = 0 ∧ (s.vsOfHost n).isNone) then s
  else if s.width n = 0 ∨ 2 < s.role n then s.oset (0x4000 + n) 1 1
  else
    let s1 := each (s.lanesOf n) (s.oset (0x4000 + n) 1 1) fun s i => s.prbsStop i
    if s1.isFabric n then
      if s1.blState n = blReset then s1 else (s1.modBl n fun b => { b with disabling := false, rankKnown := false }).enterTrain n
    else s1.linkFree n

def execPortEnable (n : Nat) (s : State) : Host.Outcome State Fault Refusal := s.act (portEnable n)

/-- The device port of a VS loses its link: Surprise Down at the bound vDSP (R191). -/
def Dev.deviceDown (s : Dev) (n : Nat) : Dev :=
  match s.bindAt s.ap n with
  | some b => s.aer b.vs b.vdsp .surpriseDown {}
  | none => s

/-- PORT_DISABLE (R48, R726): an ACTIVE fabric port hands its flits to failover and sends RESET flits without a failure. -/
def portDisable (n : Nat) (s : Dev) : Dev :=
  if 48 ≤ n ∨ ¬ s.enabled n then s
  else
    let s1 := s.oset (0x4000 + n) 1 0
    if s.role n = 2 then
      if s.blState n = blUp then
        let s2 := ((s1.noteHops.leaveActive n (s.fbit Fld.BL_STAT.TXSLEEP n)).trunkLeave n).linkEvent n 3 0
        let s3 := s2.fsets n [(Fld.BL_STAT.TXSLEEP, 0), (Fld.BL_STAT.RXSLEEP, 0), (Fld.BL_STAT.FB, 0)]
        (((s3.modBl n fun b => { b with disabling := true }).suspend n).dropArriving n).failover n
      else (s1.blEnter n blDisabled).modBl n fun b => { b with disabling := false }
    else ((s1.modPport n fun q => { q with detect := false }).linkDown n lDetect)

def execPortDisable (n : Nat) (s : State) : Host.Outcome State Fault Refusal := s.act (portDisable n)

/-! Bring-up -/

/-- BRINGUP_CHECK_WINDOW_END (R300, R301): a lane's window of `bits` compared bits with `errs` errors ends in TRAIN; when
every lane has passed, 4 µs run to ALIGN. A window that fails starts again. [log: DESIGN CHOICE 65] -/
def bringupCheckWindowEnd (n lane bits errs : Nat) (s : Dev) : Dev :=
  let i := 16 * (n / 4) + 4 * (n % 4) + lane
  if s.blState n ≠ blTrain ∨ s.width n ≤ lane ∨ ¬ (s.lane i).window.any (fun t => decide (t ≤ s.now)) then s
  else
    let pass := decide (errs * 2 ^ (s.bl! n).bring Fld.BL_BRINGUP.BER_EXP ≤ bits)
    (s.modLane i fun l => { l with window := if pass then none else some (s.now + s.checkWindow n) }).modBl n fun b =>
      let ok := if pass then setBit b.lanesOk lane true else b.lanesOk
      { b with chkAt := tput 0 b.chkAt lane errs, lanesOk := ok,
               allOkAt := if b.allOkAt.isNone && ok == 2 ^ s.width n - 1 then some s.now else b.allOkAt }

def execBringupCheckWindowEnd (n lane bits errs : Nat) (s : State) : Host.Outcome State Fault Refusal :=
  s.act (bringupCheckWindowEnd n lane bits errs)

/-- ALIGN_ENTRY (R299): 4 µs after the last lane passed; the check's result is logged. [log: DEDUCED 71] -/
def alignEntry (n : Nat) (s : Dev) : Dev :=
  let b := s.bl! n
  match b.allOkAt with
  | none => s
  | some t =>
    if s.blState n ≠ blTrain ∨ s.now < t + 4 * tUs then s
    else
      let w := worstLane b.chkAt
      let s1 := s.fsets n [(Fld.BL_BU_LOG.PASS, 1), (Fld.BL_BU_LOG.LANE, w.1), (Fld.BL_BU_LOG.ERR, min 65535 w.2)]
      let s2 := (s1.blEnter n blAlign).modBl n fun b => { b with goodRun := 0 }
      if b.partner.known then s2.fillNbr n else s2

def execAlignEntry (n : Nat) (s : State) : Host.Outcome State Fault Refusal := s.act (alignEntry n)

/-- RECEIVER_ALIGNED (R297, R299): the receiver has found the flit boundary and the lane order from the idle flits; after a
wake it has regained alignment (R331). [log: DEDUCED 71] -/
def receiverAligned (n : Nat) (s : Dev) : Dev :=
  if s.blState n = blAlign then s.modBl n fun b => { b with aligned := true }
  else if s.blState n = blUp ∧ s.fbit Fld.BL_STAT.RXSLEEP n then
    (s.fset Fld.BL_STAT.RXSLEEP n 0).modBl n fun b =>
      { b with realignAt := none,
               replayLeft := none,
               replayAt := if b.unacked.isEmpty then none
                 else some (s.now + b.replayLeft.getD (s.fget Fld.BL_LINK.REPLAY_TO n * 500 * tNs)) }
  else s

def execReceiverAligned (n : Nat) (s : State) : Host.Outcome State Fault Refusal := s.act (receiverAligned n)

/-- BRINGUP_TIMEOUT (R302, R336): the bring-up has not reached ACTIVE in the time it began with. -/
def bringupTimeout (n : Nat) (s : Dev) : Dev :=
  if (s.blState n = blTrain ∨ s.blState n = blAlign) ∧ (s.bl! n).bringAt + tMs * 2 ^ (s.bl! n).bring Fld.BL_BRINGUP.TO_EXP ≤ s.now then
    s.bringFail n 6
  else s

def execBringupTimeout (n : Nat) (s : State) : Host.Outcome State Fault Refusal := s.act (bringupTimeout n)

/-! Restart -/

/-- RESET_FLITS_SENT (R299, R726): the 64 RESET flits are out; QUIET for 2 µs, or DISABLED where the port is disabled; a port enabled
again meanwhile starts anew from there. [log: DEDUCED 72] -/
def resetFlitsSent (n : Nat) (s : Dev) : Dev :=
  if s.blState n ≠ blReset ∨ (s.bl! n).resets < 64 then s
  else if (s.bl! n).disabling then
    let s1 := (s.blEnter n blDisabled).modBl n fun b => { b with disabling := false, rankKnown := false }
    if s1.enabled n then s1.enterTrain n else s1
  else (s.blEnter n blQuiet).modBl n fun b => { b with quietTill := s.now + 2 * tUs, waitSig := none, aligned := false }

def execResetFlitsSent (n : Nat) (s : State) : Host.Outcome State Fault Refusal := s.act (resetFlitsSent n)

/-- QUIET_END (R299, R304): HELD without AUTO; else TRAIN at once for the side that ranks higher or has no rank yet, and a
wait of at most 20 µs for the other. [log: DEDUCED 72] -/
def quietEnd (n : Nat) (s : Dev) : Dev :=
  let b := s.bl! n
  if s.blState n ≠ blQuiet ∨ s.now < b.quietTill ∨ b.waitSig.isSome then s
  else if ¬ s.fbit Fld.BL_CTRL.AUTO n then s.blEnter n blHeld
  else if b.rankKnown ∧ ¬ s.outranks b.partner then s.modBl n fun b => { b with waitSig := some (s.now + 20 * tUs) }
  else s.enterTrain n

def execQuietEnd (n : Nat) (s : State) : Host.Outcome State Fault Refusal := s.act (quietEnd n)

/-- SIGNAL_DETECT (R304, R331): signal on every lane. The lower-ranked side that waits starts TRAIN; a sleeping receive
direction begins to realign. -/
def signalDetect (n : Nat) (s : Dev) : Dev :=
  if s.blState n = blQuiet ∧ (s.bl! n).waitSig.isSome then s.enterTrain n
  else if s.blState n = blUp ∧ s.fbit Fld.BL_STAT.RXSLEEP n then
    s.modBl n fun b => { b with realignAt := some (s.now + 4 * tUs) }
  else s

def execSignalDetect (n : Nat) (s : State) : Host.Outcome State Fault Refusal := s.act (signalDetect n)

/-- LOWER_RANK_WAIT_EXPIRY (R304). -/
def lowerRankWaitExpiry (n : Nat) (s : Dev) : Dev :=
  match (s.bl! n).waitSig with
  | none => s
  | some t => if s.blState n = blQuiet ∧ t ≤ s.now then s.enterTrain n else s

def execLowerRankWaitExpiry (n : Nat) (s : State) : Host.Outcome State Fault Refusal := s.act (lowerRankWaitExpiry n)

/-- The resets of both ends taken as one (R310). [log: DEDUCED 72] -/
def Dev.mergeReset (s : Dev) (n : Nat) : Dev := s.fset Fld.BL_STAT.MERGED n 1

/-- SIGNAL_LOSS (R307, R310): signal or receiver lock lost on a lane for more than 1 µs; no loss while the partner's
transmitter sleeps (R329). -/
def signalLoss (n _lane : Nat) (s : Dev) : Dev :=
  if s.blState n = blUp then (if s.fbit Fld.BL_STAT.RXSLEEP n then s else s.linkFail n 1)
  else if s.blState n = blReset ∨ s.blState n = blQuiet then s.mergeReset n
  else s

def execSignalLoss (n lane : Nat) (s : State) : Host.Outcome State Fault Refusal := s.act (signalLoss n lane)

/-! Transmission -/

/-- The replay timer's end from now (R317); the timer does not run while the receive direction sleeps or wakes. -/
def Dev.replayEnd (s : Dev) (n : Nat) : Option Nat :=
  if s.fbit Fld.BL_STAT.RXSLEEP n then none else some (s.now + s.fget Fld.BL_LINK.REPLAY_TO n * 500 * tNs)

/-- The flit of a packet or of a marker as the link sends it (R293, R312, R389). -/
def Dev.linkFlit (s : Dev) (n : Nat) (x : TxFlit) : Dev :=
  match x.marker with
  | some (sub, info) => s.sendFlit n { typ := 2, seq := x.seq, ep := x.par, sop := true, eop := true, sub := sub, info := info } []
  | none =>
    ({ s with svc.flitAt := s.now }).sendFlit n
      { typ := 1, seq := x.seq, ep := x.par, cc := x.cc, sop := x.sop, eop := x.eop, len := x.pay.length, topen := x.topen, tclose := x.tclose }
      x.pay

/-- The next unacknowledged flit at or after a SEQ, and the SEQ after it. -/
def replayNext (l : List TxFlit) (oldest seq : Nat) : Option TxFlit :=
  l.find? fun x => decide ((seq + 16384 - oldest) % 16384 ≤ (x.seq + 16384 - oldest) % 16384)

/-- An old-parity flit sent where the round's marker has been sent (R441). [log: DEDUCED 75] -/
def Dev.disturb (s : Dev) (n par : Nat) : Dev :=
  if s.dl.drainSent.testBit n ∧ 2 ≤ s.fget Fld.DL_DEAL_STAT.STATE 0 ∧ par ≠ s.ap then
    let s1 := (s.count .DL_DISTURB_CNT 0 1).fset Fld.DL_DRAIN_STAT.DISTURBED 0 1
    if s.fget Fld.DL_DEAL_STAT.STATE 0 = 3 then { s1 with dl.disturbedNext := true } else s1
  else s

/-- The first transmission of the flit at the head of the sender's queue (R312, R317, R321). -/
def Dev.sendNew (s : Dev) (n : Nat) (x : TxFlit) (rest : List TxFlit) : Dev :=
  let seq := (s.bl! n).next
  let y := { x with seq := seq }
  let s1 := s.modBl n fun b =>
    { b with txq := rest, unacked := b.unacked ++ [y], next := (seq + 1) % 16384,
             used := b.used.set x.pool ((b.used.getD x.pool 0 + 1) % 65536), idleFrom := s.now,
             replayAt := if b.replayAt.isSome then b.replayAt else s.replayEnd n }
  let s2 := match s1.pkt? x.pid, x.marker with
    | some p, none => (s1.count .TM_PORT_TXB n 256).putPkt x.pid { p with sent := p.sent + 1 }
    | _, _ => s1.count .TM_PORT_TXB n 256
  let s3 := match x.marker with
    | some (1, _) => { s2 with dl.drainSent := setBit s2.dl.drainSent n true }
    | some (2, _) => s1.relatch .TM_PORT_TXB n |>.count .TM_PORT_TXB n 256
    | some _ => s2
    | none => s2.disturb n x.par
  s3.linkFlit n y

/-- FLIT_SEND (R299, R313, R314, R318, R319): the flit a port's transmitter sends next: a replayed flit, then a new flit for
which there is window, share and credit, then an idle flit; 64 RESET flits in RESET, idle flits in ALIGN. -/
def flitSend (n : Nat) (s : Dev) : Dev :=
  let b := s.bl! n
  if s.blState n = blReset then
    if b.resets < 64 then (s.sendCtl n 2 0).modBl n fun b => { b with resets := b.resets + 1 } else s
  else if s.blState n = blAlign then s.sendIdle n
  else if s.blState n ≠ blUp ∨ s.fbit Fld.BL_STAT.TXSLEEP n then s
  else
    match b.replayFrom.bind (replayNext b.unacked b.oldest) with
    | some x =>
      let nx := (x.seq + 1) % 16384
      let s1 := s.modBl n fun b => { b with replayFrom := if nx = b.next then none else some nx }
      s1.linkFlit n x
    | none =>
      let s0 := s.modBl n fun b => { b with replayFrom := none }
      match b.txq with
      | x :: rest =>
        if b.unacked.length < min (s.fget Fld.BL_LINK.WIN n) (s.share n) ∧ 1 ≤ s.blCredit n x.pool then s0.sendNew n x rest
        else s0.sendIdle n
      | [] => s0.sendIdle n

def execFlitSend (n : Nat) (s : State) : Host.Outcome State Fault Refusal := s.act (flitSend n)

/-- The replay timer has expired (R318): the replay limit fails the link, else every unacknowledged flit is sent again. -/
def Dev.replayExpired (s : Dev) (n : Nat) : Dev :=
  if (s.bl! n).replays = s.fget Fld.BL_LINK.REPLAY_MAX n then s.linkFail n 2
  else (s.count .BL_REPLAY_CNT n 1).modBl n fun b =>
    { b with replays := b.replays + 1, replayAt := s.replayEnd n, replayFrom := some b.oldest }

/-- REPLAY_TIMER_EXPIRY (R318, R320): the timer expires in this core cycle; the link acts on it when the cycle is over, unless an
acknowledgement made progress in it or the link failed. -/
def replayTimerExpiry (n : Nat) (s : Dev) : Dev :=
  let b := s.bl! n
  match b.replayAt with
  | none => s
  | some t =>
    if s.blState n ≠ blUp ∨ s.now < t ∨ b.unacked.isEmpty ∨ s.fbit Fld.BL_STAT.RXSLEEP n then s
    else s.modBl n fun b => { b with expAt := some s.cycle }

/-- The packets that lookups of a core cycle gave to a link that left ACTIVE in it: failover takes them too (R358). -/
def Dev.lateFailover (s : Dev) : Dev :=
  match s.rt.hopsAt with
  | none => s
  | some u =>
    if u.cycle = s.cycle then s
    else each (extPorts.filter fun n => u.active.testBit n && !s.blActive n && (s.isFabric n) && s.portHolds n)
      { s with rt.hopsAt := none } fun s n => s.failover n

/-- What the core cycle that is over leaves to the links: lookups (R358), expired replay timers (R320), members of trunks (R332). -/
def Dev.linkCycle (s0 : Dev) : Dev :=
  let s := s0.lateFailover
  let s1 := each (s.bl.ports.filter fun e => e.2.expAt.any fun c => c != s.cycle) s fun s e =>
    let s1 := s.modBl e.1 fun b => { b with expAt := none }
    if s1.blState e.1 = blUp then s1.replayExpired e.1 else s1
  s1.trunkAdmit

def execReplayTimerExpiry (n : Nat) (s : State) : Host.Outcome State Fault Refusal := s.act (replayTimerExpiry n)

/-! Sleep (R329 to R331) -/

/-- The switch uses the link as its time port, or the partner says that it does (R329). -/
def Dev.isTimePort (s : Dev) (n : Nat) : Bool :=
  ((s.fget Fld.TM_STAT.STATE 0 == 1 || s.fget Fld.TM_STAT.STATE 0 == 2) && s.fget Fld.TM_STAT.TPORT 0 == n) ||
    (tget {} s.tel.ports n).tport

/-- Every condition of R329 has held for the idle time. -/
def Dev.maySleep (s : Dev) (n : Nat) : Bool :=
  let b := s.bl! n
  s.blState n == blUp && s.fbit Fld.BL_SLEEP.EN n && !s.fbit Fld.BL_STAT.TXSLEEP n && b.txq.isEmpty && b.unacked.isEmpty &&
    (tget [] s.fwd.stg n).isEmpty && b.sentAck == (s.fget Fld.BL_SEQ.RXNE n + 16383) % 16384 &&
    (s.poolsInUse n).all (fun q => b.sentLimit.getD q 0 == s.creditLimit n q) && !s.isTimePort n &&
    decide (b.idleFrom + s.fget Fld.BL_SLEEP.IDLE n * tNs ≤ s.now)

/-- BL_SLEEP_ENTRY: four SLEEP flits, then the driver off. -/
def blSleepEntry (n : Nat) (s : Dev) : Dev :=
  if s.maySleep n then ((each (List.range 4) s fun s _ => s.sendCtl n 1 0).drivers n false).fset Fld.BL_STAT.TXSLEEP n 1 else s

def execBlSleepEntry (n : Nat) (s : State) : Host.Outcome State Fault Refusal := s.act (blSleepEntry n)

/-- A sleeping transmit direction has a reason to wake (R330). -/
def Dev.wakeDue (s : Dev) (n : Nat) : Bool :=
  let b := s.bl! n
  !b.txq.isEmpty || !(tget [] s.fwd.stg n).isEmpty || b.wakeReq ||
    (s.poolsInUse n).any fun q => decide (64 ≤ (s.creditLimit n q + 65536 - b.sentLimit.getD q 0) % 65536)

/-- BL_WAKE: the transmitter is ready again; 16 idle flits. -/
def blWake (n : Nat) (s : Dev) : Dev :=
  if s.blState n = blUp ∧ s.fbit Fld.BL_STAT.TXSLEEP n ∧ s.wakeDue n then
    let s1 := ((s.drivers n true).fset Fld.BL_STAT.TXSLEEP n 0).modBl n fun b => { b with wakeReq := false, idleFrom := s.now }
    each (List.range 16) s1 fun s _ => s.sendIdle n
  else s

def execBlWake (n : Nat) (s : State) : Host.Outcome State Fault Refusal := s.act (blWake n)

/-- BL_REALIGN_TIMEOUT (R331). -/
def blRealignTimeout (n : Nat) (s : Dev) : Dev :=
  match (s.bl! n).realignAt with
  | none => s
  | some t => if s.blState n = blUp ∧ t ≤ s.now then s.linkFail n 1 else s

def execBlRealignTimeout (n : Nat) (s : State) : Host.Outcome State Fault Refusal := s.act (blRealignTimeout n)

/-! Egress stall -/

/-- A VS in the state of a surprise link down at its host port (R85): every device port bound to it is contained. -/
def Dev.vsSurpriseDown (s : Dev) (v : Nat) : Dev :=
  let s1 := s.aer v uspNo .surpriseDown {}
  each ((s1.bindings s1.ap).filter fun b => b.vs == v) s1 fun s b => s.dpcTrigger b.vs b.vdsp 0 0

/-- The log entry of a stalled fabric port (R87, R94): counted once, with the details of the first packet of the port. -/
def Dev.stallLog (s : Dev) (n : Nat) (first : Option Pkt) : Dev :=
  let p := first.getD { port := n }
  (s.count .XB_DROP_CNT 6 1).errLog 7 (s.gpa n) p.port p.oc (ptypeCode p.typ) p.vs

/-- A port whose stall timeout has expired (R85). -/
def Dev.stalled (s : Dev) (n limit : Nat) : Dev :=
  match tfind s.fwd.stallFrom n with
  | none => s
  | some t =>
    if s.now < t + limit ∨ ¬ s.portHolds n then s
    else if s.isFabric n then
      let s1 := (s.stallLog n ((s.heldFor n).head?.bind s.pkt?)).linkFail n 5
      { s1 with fwd.stallFrom := tdel s1.fwd.stallFrom n, fwd.stallEnd := tdel s1.fwd.stallEnd n }
    else
      let s1 := match s.vsOfHost n with
        | some v => (s.vsSurpriseDown v).linkDown n lDetect
        | none => match s.bindAt s.ap n with
          | some b => s.aerContain b.vs b.vdsp .internalError
          | none => s.containPort n
      let s2 := { s1 with fwd.contained := s1.fwd.contained ||| 2 ^ n }
      (s2.raise (evPort n)).flushPort n

/-- EGRESS_STALL_TIMEOUT (R84 to R87): a port that has sent none of its flits for its stall timeout is contained by role; a stall in the
core cycle of a failure of the same link is counted and starts no second failover. -/
def egressStallTimeout (n : Nat) (s : Dev) : Dev :=
  let limit := 10 * tUs * 2 ^ s.fget Fld.XB_PORT_EGR.STALL_TO n
  match tfind s.fwd.stallEnd n with
  | some e =>
    if e.cycle = s.cycle ∧ e.from_ + limit ≤ s.now ∧ s.isFabric n then
      { s.stallLog n e.first with fwd.stallEnd := tdel s.fwd.stallEnd n }
    else s.stalled n limit
  | none => s.stalled n limit

def execEgressStallTimeout (n : Nat) (s : State) : Host.Outcome State Fault Refusal := s.act (egressStallTimeout n)

end Sys2Proof.Machine
end

