-- ==== Sys2Proof/Machine/Pci.lean ====
section
/-! DEFINITION. PCI Express ports and virtual downstream ports (R165 to R215): training, Recovery, equalisation, L0p, L1, a
vDSP's link controls, DPC, PTM, hot-plug slots. -/
namespace Sys2Proof.Machine

/-! Training (R166 to R169) -/

/-- The widest width of PCI Express within a bound. -/
def widest (b : Nat) : Nat := if 16 ≤ b then 16 else if 8 ≤ b then 8 else if 4 ≤ b then 4 else if 2 ≤ b then 2 else 1

/-- The rate a port trains to: within its cap, its target and the partner's rate, and 32.0 GT/s without flit mode. -/
def trainRate (cap target rate : Nat) (flit : Bool) : Nat :=
  let r := min cap (min target rate)
  if flit then r else min 4 r

/-- The flow-control credits of a port and its partner back at none. -/
def Dev.clearCredits (s : Dev) (n : Nat) : Dev :=
  each (List.range 6) s fun s k =>
    { s with fwd.pciCredit := tdel s.fwd.pciCredit (8 * n + k), fwd.pciUsed := tdel s.fwd.pciUsed (8 * n + k),
             fwd.pciGiven := tdel s.fwd.pciGiven n, fwd.pciTaken := tdel s.fwd.pciTaken n }

/-- The most flow-control credit, in cells, that a PCI Express port leaves outstanding. [log: PRESUMED 39] -/
abbrev pciCreditMax : Nat := 4096

/-- A PCI Express port whose link is up advertises flow-control credit for the cells it can accept: of its reserve, and of the shared
pool as R81 and R724 let it (R80, R82). [log: PRESUMED 39] -/
def Dev.advertise (s : Dev) (n : Nat) : Dev :=
  if ¬ s.pcieOn n ∨ ¬ (s.pport n).up then s
  else
    let k := min (s.reserveFree n - s.creditOut n + s.poolAllow n) (pciCreditMax - s.creditGiven n)
    if k = 0 then s else { s.emit (.fc n k) with fwd.pciGiven := tmod 0 s.fwd.pciGiven n (· + k) }

/-- PCIE_LINK_UP (R166 to R168, R174): the link of a port in service reaches L0, having advertised flit mode and L0p as its controls say;
a host port's containment ends (R85), a device port's vDSP is told (R186). -/
def pcieLinkUp (n : Nat) (x : PciePartner) (s : Dev) : Dev :=
  let p := s.pport n
  if ¬ s.pcieOn n ∨ p.up ∨ p.disabled ∨ p.slotOff ∨ p.perst ∨ p.hotReset ∨ (s.isDevice n ∧ s.isContained n) then s
  else
    let flit := s.fbit Fld.PCI_PORT_CTRL.FLIT_EN n && x.flit
    let rate := trainRate (s.fget Fld.PCI_PORT_CTRL.MAXRATE n) p.target x.rate flit
    let w := widest (min (s.width n) x.width)
    let s1 := s.fsets n [(Fld.PCI_PORT_STAT.FLIT, b2n flit), (Fld.PCI_PORT_STAT.TXW, w), (Fld.PCI_PORT_STAT.RXW, w),
      (Fld.PCI_PORT_STAT.RATE, rate), (Fld.PCI_PORT_STAT.LTSSM, lL0)]
    let s2 := s1.modPport n fun q => { q with up := true, width := w, l0pAt := none, l1 := false, winAt := s.now,
                                              detect := true }
    let s3 := if s.isHost n then { s2 with fwd.contained := s2.fwd.contained &&& (2 ^ 48 - 1 - 2 ^ n) } else s2
    ((((s3.clearCredits n).advertise n).emit (.train n (s.fbit Fld.PCI_PORT_CTRL.FLIT_EN n) (flit && s.fbit Fld.PCI_PORT_CTRL.L0P_EN n)))).tellHost n {}

def execPcieLinkUp (n : Nat) (x : PciePartner) (s : State) : Host.Outcome State Fault Refusal := s.act (pcieLinkUp n x)

/-- The data link of a port goes down (R191, R194); Surprise Down at the vDSP bound to a device port unless the link was
reset or disabled from this side. -/
def Dev.dataDown (s : Dev) (n : Nat) (hotReset : Bool) : Dev :=
  if ¬ (s.pport n).up then s
  else
    let s1 := (s.modPport n fun q => { q with detect := false }).linkDown n lDetect
    if s.isDevice n ∧ ¬ hotReset then s1.deviceDown n else s1

/-- An entry into Recovery drops the L0p request of the same core cycle, in either order: the widths are those before it (R179). -/
def Dev.dropL0p (s : Dev) (n : Nat) : Dev :=
  let s1 := match (s.pport n).l0pFrom with
    | some (c, tx, rx) => if c = s.cycle then s.fsets n [(Fld.PCI_PORT_STAT.TXW, tx), (Fld.PCI_PORT_STAT.RXW, rx)] else s
    | none => s
  s1.modPport n fun q => { q with l1 := false, recAt := some s.cycle, l0pFrom := none,
                                  l0pAt := if q.l0pAt.map (· / 4) = some (s.now / 4) then none else q.l0pAt }

/-- PCIE_RECOVERY (R169, R179): the link comes back from Recovery at its previous width and rate, at a narrower width where a
lane failed, at another rate where one was directed; an L0p request of the same core cycle is dropped. -/
def pcieRecovery (n : Nat) (failedTo rate : Option Nat) (s : Dev) : Dev :=
  let p := s.pport n
  if ¬ p.up then s
  else
    let s0 := each (s.lanesOf n) s fun s i => s.watchBreak i
    let s1 := s0.dropL0p n
    let s2 := match rate with
      | some r => if r ≤ s.fget Fld.PCI_PORT_CTRL.MAXRATE n ∧ r ≤ p.target ∧ (r < 5 ∨ s.fbit Fld.PCI_PORT_STAT.FLIT n) then
          s1.fset Fld.PCI_PORT_STAT.RATE n r else s1
      | none => s1
    let s3 := s2.fset Fld.PCI_PORT_STAT.LTSSM n lL0
    let s4 := match failedTo with
      | none => s3
      | some w =>
        if w < p.width ∧ 0 < w then
          let v := widest w
          let s4 := s3.fsets n [(Fld.PCI_PORT_STAT.DOWNGR, 1), (Fld.PCI_PORT_STAT.TXW, min v (s1.fget Fld.PCI_PORT_STAT.TXW n)),
            (Fld.PCI_PORT_STAT.RXW, min v (s1.fget Fld.PCI_PORT_STAT.RXW n))]
          (s4.modPport n fun q => { q with width := v }).raise (evPort n)
        else s3
    s4.tellHost n {}

def execPcieRecovery (n : Nat) (failedTo rate : Option Nat) (s : State) : Host.Outcome State Fault Refusal :=
  s.act (pcieRecovery n failedTo rate)

/-- PCIE_EQUALISATION (R170 to R173, R264): each lane from its table entry in forced mode, by the standard procedure in
standard mode; the standard procedure too where some lane has no usable entry, with EQFB set. [log: DESIGN CHOICE 65] -/
def pcieEqualisation (n rate : Nat) (found : List EqFound) (s : Dev) : Dev :=
  if ¬ s.pcieOn n ∨ rate < 2 ∨ s.fget Fld.PCI_PORT_CTRL.MAXRATE n < rate then s
  else
    let ls := s.lanesOf n
    let std := fun (s : Dev) => each (ls.zip (List.range ls.length)) s fun s e => s.applyStandard e.1 rate (found.getD e.2 {})
    if ¬ s.fbit Fld.PCI_PORT_CTRL.EQ_MODE n then std s
    else if ls.all fun i => (s.eqEntry i rate).isSome then
      each ls s fun s i => (match s.eqEntry i rate with
        | some e => s.applyForced n i rate e (found.getD ((ls.findIdx? (· == i)).getD 0) {})
        | none => s)
    else
      (std (s.fsets n [(Fld.PCI_PORT_STAT.EQFB, 1), (Fld.PCI_PORT_STAT.EQFB_RATE, rate)])).raise (evPort n)

def execPcieEqualisation (n rate : Nat) (found : List EqFound) (s : State) : Host.Outcome State Fault Refusal :=
  s.act (pcieEqualisation n rate found)

/-! Link power (R174 to R179) -/

/-- L0p is in use on a link, which has not entered Recovery in this core cycle (R174, R179). -/
def Dev.l0pOn (s : Dev) (n : Nat) : Bool :=
  s.pcieOn n && (s.pport n).up && s.fbit Fld.PCI_PORT_CTRL.L0P_EN n && s.fbit Fld.PCI_PORT_STAT.FLIT n && (s.pport n).recAt != some s.cycle

/-- The narrowest transmit width set (PCI_L0P.MINW). -/
def Dev.minWidth (s : Dev) (n : Nat) : Nat := 2 ^ s.fget Fld.PCI_L0P.MINW n

/-- The widths before L0p changes one in this core cycle (R179). -/
def Dev.noteWidths (s : Dev) (n : Nat) : Dev :=
  s.modPport n fun q => { q with l0pFrom := match q.l0pFrom with
    | some x => if x.1 = s.cycle then some x else some (s.cycle, s.fget Fld.PCI_PORT_STAT.TXW n, s.fget Fld.PCI_PORT_STAT.RXW n)
    | none => some (s.cycle, s.fget Fld.PCI_PORT_STAT.TXW n, s.fget Fld.PCI_PORT_STAT.RXW n) }

/-- Full transmit width is asked for (R176). -/
def Dev.askFull (s : Dev) (n : Nat) : Dev :=
  if s.fget Fld.PCI_PORT_STAT.TXW n < (s.pport n).width ∧ (s.pport n).l0pAt.isNone then
    s.modPport n fun q => { q with l0pAt := some s.now }
  else s

/-- More than 64 cells queued for a port ask for full transmit width, whenever they are (R176). -/
def Dev.backlogFull (s : Dev) (n : Nat) : Dev := if s.l0pOn n ∧ 64 < s.egrCells n then s.askFull n else s

/-- L0P_WINDOW_END (R175, R176): `used` of `cap` bytes of the present width's capacity were sent in the window. -/
def l0pWindowEnd (n used cap : Nat) (s : Dev) : Dev :=
  let p := s.pport n
  if ¬ s.l0pOn n ∨ s.now < p.winAt + tUs * 2 ^ s.fget Fld.PCI_L0P.WIN_EXP n then s
  else
    let s1 := s.modPport n fun q => { q with winAt := s.now }
    let w := s.fget Fld.PCI_PORT_STAT.TXW n
    if s.fget Fld.PCI_L0P.HI_PCT n * cap < 100 * used ∨ 64 < s.egrCells n then s1.askFull n
    else if 100 * used < s.fget Fld.PCI_L0P.LO_PCT n * cap ∧ s.minWidth n < w ∧ p.l0pAt.isNone then
      (s1.noteWidths n).fset Fld.PCI_PORT_STAT.TXW n (w / 2)
    else s1

def execL0pWindowEnd (n used cap : Nat) (s : State) : Host.Outcome State Fault Refusal := s.act (l0pWindowEnd n used cap)

/-- L0P_WIDEN_COMPLETE (R176): full transmit width is in force after a request. -/
def l0pWidenComplete (n : Nat) (s : Dev) : Dev :=
  let p := s.pport n
  if s.l0pOn n ∧ (p.l0pAt.isSome ∨ 64 < s.egrCells n) then
    ((s.noteWidths n).fset Fld.PCI_PORT_STAT.TXW n p.width).modPport n fun q => { q with l0pAt := none }
  else s

def execL0pWidenComplete (n : Nat) (s : State) : Host.Outcome State Fault Refusal := s.act (l0pWidenComplete n)

/-- L0P_PARTNER_REQUEST (R174): the partner's request sets the width of the receive direction. -/
def l0pPartnerRequest (n w : Nat) (s : Dev) : Dev :=
  if s.l0pOn n ∧ w ≤ (s.pport n).width ∧ (w = 1 ∨ w = 2 ∨ w = 4 ∨ w = 8 ∨ w = 16) then
    (s.noteWidths n).fset Fld.PCI_PORT_STAT.RXW n w
  else s

def execL0pPartnerRequest (n w : Nat) (s : State) : Host.Outcome State Fault Refusal := s.act (l0pPartnerRequest n w)

/-- The permission for ASPM L1 of a port: the host's in the USP's Link Control, or the bound vDSP's (R178, R185). -/
def Dev.l1Allowed (s : Dev) (n : Nat) : Bool :=
  match s.vsOfHost n with
  | some v => (s.pfn v uspNo).linkCtl.testBit 1
  | none => s.isDevice n && (s.pport n).aspm.testBit 1

/-- ASPM_L1_ENTRY (R178): both ends agree and the port has the permission. -/
def aspmL1Entry (n : Nat) (s : Dev) : Dev :=
  if s.pcieOn n ∧ (s.pport n).up ∧ s.fget Fld.PCI_PORT_STAT.LTSSM n = lL0 ∧ s.l1Allowed n then
    (s.fset Fld.PCI_PORT_STAT.LTSSM n lL1).modPport n fun q => { q with l1 := true }
  else s

def execAspmL1Entry (n : Nat) (s : State) : Host.Outcome State Fault Refusal := s.act (aspmL1Entry n)

/-- L1_EXIT (R178): the link is in L0 again. -/
def l1Exit (n : Nat) (s : Dev) : Dev :=
  if (s.pport n).up ∧ (s.pport n).l1 then
    (s.fset Fld.PCI_PORT_STAT.LTSSM n lL0).modPport n fun q => { q with l1 := false }
  else s

def execL1Exit (n : Nat) (s : State) : Host.Outcome State Fault Refusal := s.act (l1Exit n)

/-! A vDSP's link controls (R185, R186) -/

/-- The device port's link disabled, or enabled again unless something else holds it off. -/
def Dev.setLinkDisable (s : Dev) (p : Nat) (dis : Bool) : Dev :=
  let s1 := s.modPport p fun q => { q with disabled := dis }
  if dis then s1.linkDown p lDisabled else s1.linkFree p

/-- VDSP_LINK_DISABLE: Link Disable at a vDSP, or its notice at the switch of the device port. -/
def vdspLinkDisable (vs n : Nat) (dis : Bool) (s : Dev) : Dev := s.atDevice vs n 0 (b2n dis) fun s p => s.setLinkDisable p dis

def execVdspLinkDisable (vs n : Nat) (dis : Bool) (s : State) : Host.Outcome State Fault Refusal := s.act (vdspLinkDisable vs n dis)

/-- VDSP_RETRAIN_LINK: the device port's link enters Recovery. -/
def vdspRetrainLink (vs n : Nat) (s : Dev) : Dev :=
  s.atDevice vs n 1 0 fun s p =>
    if (s.pport p).up then ((s.dropL0p p).fset Fld.PCI_PORT_STAT.LTSSM p lRecovery).tellHost p {} else s

def execVdspRetrainLink (vs n : Nat) (s : State) : Host.Outcome State Fault Refusal := s.act (vdspRetrainLink vs n)

/-- VDSP_TARGET_LINK_SPEED: the target rate by its PCI Express encoding (1 for 2.5 GT/s), no higher than MAXRATE. -/
def vdspTargetLinkSpeed (vs n speed : Nat) (s : Dev) : Dev :=
  if 1 ≤ speed ∧ speed ≤ 7 then
    s.atDevice vs n 2 speed fun s p => s.modPport p fun q => { q with target := min (speed - 1) (s.fget Fld.PCI_PORT_CTRL.MAXRATE p) }
  else s

def execVdspTargetLinkSpeed (vs n speed : Nat) (s : State) : Host.Outcome State Fault Refusal := s.act (vdspTargetLinkSpeed vs n speed)

/-- VDSP_ASPM_CONTROL: the device port's permission for ASPM L1. -/
def vdspAspmControl (vs n ctl : Nat) (s : Dev) : Dev :=
  s.atDevice vs n 3 ctl fun s p => s.modPport p fun q => { q with aspm := ctl % 4 }

def execVdspAspmControl (vs n ctl : Nat) (s : State) : Host.Outcome State Fault Refusal := s.act (vdspAspmControl vs n ctl)

/-- SECONDARY_BUS_RESET: a hot reset on the device port's link while the bit is set. [log: PRESUMED 52] -/
def secondaryBusReset (vs n : Nat) (set : Bool) (s : Dev) : Dev :=
  s.atDevice vs n 4 (b2n set) fun s p =>
    if set then (s.modPport p fun q => { q with hotReset := true }).linkDown p lHotReset
    else if (s.pport p).hotReset then (s.modPport p fun q => { q with hotReset := false }).linkFree p
    else s

def execSecondaryBusReset (vs n : Nat) (set : Bool) (s : State) : Host.Outcome State Fault Refusal := s.act (secondaryBusReset vs n set)

/-! Hot-plug events (R206 to R215) -/

/-- VDSP_LINK_STATUS_UPDATE (R186): the bound device port's present state in the vDSP's Link Status, with its presence and events: as it
is for a port of this switch, as its switch says for a remote one. [log: DEDUCED 45] -/
def vdspLinkStatusUpdate (vs n speed width : Nat) (training dlActive : Bool) (note : PortNotice) (s : Dev) : Dev :=
  if ¬ s.vdspExists vs n then s
  else match s.boundPort vs n, s.boundFar vs n with
    | some p, _ => s.portSays vs n (s.linkWord p) (s.portNotice p {})
    | none, some _ => s.portSays vs n (linkStatWord speed width training dlActive) note
    | none, none => s.portSays vs n 0 {}

def execVdspLinkStatusUpdate (vs n speed width : Nat) (training : Bool) (told : LinkTold) (s : State) :
    Host.Outcome State Fault Refusal := s.act (vdspLinkStatusUpdate vs n speed width training told.dlActive told.note)

/-- PRESENCE_DEBOUNCED (R206): the debounced state of a slot's presence contact. [log: DEDUCED 45] -/
def presenceDebounced (k : Nat) (present : Bool) (s : Dev) : Dev :=
  if 8 ≤ k then s
  else
    let s1 := s.fset Fld.PCI_SLOT_STAT.PRSNT k (b2n present)
    if s.fbit Fld.PCI_SLOT_MAP.EN k then s1.tellHost (s.fget Fld.PCI_SLOT_MAP.PORT k) {} else s1

def execPresenceDebounced (k : Nat) (present : Bool) (s : State) : Host.Outcome State Fault Refusal := s.act (presenceDebounced k present)

/-- An attention-button press at a device port: Attention Button Pressed at the bound vDSP (R208). -/
def Dev.pressAt (s : Dev) (port : Nat) : Dev := s.tellHost port { button := true }

/-- ATTENTION_BUTTON_PRESS (R208): a debounced press; counted where the channel is bound to no vDSP. -/
def attentionButtonPress (k : Nat) (s : Dev) : Dev :=
  if 8 ≤ k then s
  else if s.fbit Fld.PCI_SLOT_MAP.EN k ∧ (s.bindAt s.ap (s.fget Fld.PCI_SLOT_MAP.PORT k)).isSome then
    s.pressAt (s.fget Fld.PCI_SLOT_MAP.PORT k)
  else s.fset Fld.PCI_SLOT_STAT.UNBOUND_PRESS k (min 255 (s.fget Fld.PCI_SLOT_STAT.UNBOUND_PRESS k + 1))

def execAttentionButtonPress (k : Nat) (s : State) : Host.Outcome State Fault Refusal := s.act (attentionButtonPress k)

/-- The wave of a blinking indicator, in its place among channels and kinds: 1.5 Hz at 50 % duty, high first (R209).
[log: DEDUCED 43] -/
def blinkHigh (t start : Nat) : Bool := 3 * (t - start) / tSec % 2 == 0

/-- The level an indicator state drives: on high, off low, blink the wave from now on (R209). [log: DEDUCED 43] -/
def Dev.drive (s : Dev) (name : String) (k which st : Nat) : Dev :=
  let s1 := { s with pci.blink := if st = 2 then tins s.pci.blink (2 * k + which) s.now else tdel s.pci.blink (2 * k + which) }
  s1.pin name k (st != 0)

/-- The levels of blinking indicators as time passes (R209). [log: DEDUCED 43] -/
def Dev.blinkTick (s : Dev) : Dev :=
  each s.pci.blink s fun s e =>
    if blinkHigh s.now e.2 == blinkHigh (s.now - 1) e.2 then s
    else s.pin (if e.1 % 2 = 0 then "ATN_IND" else "PWR_IND") (e.1 / 2) (blinkHigh s.now e.2)

/-- The level the switch drives PERST_N[n] to: none where the contact is an input or high-impedance (R712, R713).
[log: DESIGN CHOICE 236] -/
def Dev.perstLevel (s : Dev) (n : Nat) : Option Bool :=
  if s.svc.state < stStandby ∨ ¬ s.isDevice n then none
  else match s.slotOf n with
    | some k => some (!s.pci.perst.testBit k)
    | none => some (s.enabled n)

/-- The contacts PERST_N follow what drives them (R712). [log: DESIGN CHOICE 236] -/
def Dev.perstTick (s : Dev) : Dev :=
  each extPorts s fun s n =>
    let was := tfind s.pci.driven n
    let now_ := s.perstLevel n
    if was = now_ then s
    else match now_ with
      | some b => { s with pci.driven := tins s.pci.driven n b }.pin "PERST_N" n b
      | none => { s with pci.driven := tdel s.pci.driven n }.emit (.highZ "PERST_N" n)

/-- An indicator state as Slot Control encodes it (01 on, 10 blink, 11 off) in the encoding of PCI_SLOT_STAT. -/
def indState (x : Nat) : Nat := if x = 1 then 1 else if x = 2 then 2 else 0

/-- A Slot Control write that changes an indicator or the power controller waits for Command Completed (R212). -/
def Dev.slotCommand (s : Dev) (vs n : Nat) : Dev :=
  s.modVd vs n fun v => { v with cmdAt := if v.cmdAt.isSome then v.cmdAt else some s.now }

/-- SLOT_INDICATOR_WRITE (R209): the indicators written in Slot Control; 00 leaves one unchanged. [log: DEDUCED 43] -/
def slotIndicatorWrite (vs n atn pwr : Nat) (s : Dev) : Dev :=
  let s0 := if s.vdspExists vs n then s.slotCommand vs n else s
  s0.atDevice vs n 5 (atn % 4 * 4 + pwr % 4) fun s p =>
    match s.slotOf p with
    | some k =>
      let s1 := if atn % 4 = 0 then s else (s.fset Fld.PCI_SLOT_STAT.ATN_IND k (indState (atn % 4))).drive "ATN_IND" k 0 (indState (atn % 4))
      if pwr % 4 = 0 then s1 else (s1.fset Fld.PCI_SLOT_STAT.PWR_IND k (indState (pwr % 4))).drive "PWR_IND" k 1 (indState (pwr % 4))
    | none =>
      let old := tget 0 s.pci.slotInd p
      let a := if atn % 4 = 0 then old % 4 else indState (atn % 4)
      let w := if pwr % 4 = 0 then old / 4 else indState (pwr % 4)
      { s with pci.slotInd := tput 0 s.pci.slotInd p (w * 4 + a) }

def execSlotIndicatorWrite (vs n atn pwr : Nat) (s : State) : Host.Outcome State Fault Refusal := s.act (slotIndicatorWrite vs n atn pwr)

/-- A slot's power controller keeps the device port's link off, or no longer does (R211). -/
def Dev.setSlotOff (s : Dev) (p : Nat) (off : Bool) : Dev :=
  let s1 := s.modPport p fun q => { q with slotOff := off }
  if off then s1.linkDown p lDisabled else s1.linkFree p

/-- SLOT_POWER_OFF (R211): the link disabled, SLOT_PERST_N asserted, after 10 µs the channel off; a virtual slot's link is
disabled. -/
def slotPowerOff (vs n : Nat) (s : Dev) : Dev :=
  let s0 := if s.vdspExists vs n then s.slotCommand vs n else s
  s0.atDevice vs n 7 1 fun s p =>
    let s1 := s.setSlotOff p true
    match s.slotOf p with
    | some k =>
      let s2 := { s1 with pci.perst := setBit s1.pci.perst k true, pci.perstAt := tdel s1.pci.perstAt k }.pin "SLOT_PERST_N" k false
      ((s2.modPport p fun q => { q with perst := true }).modSlot k fun c =>
        { c with ctl := some false, retryAt := none, pfw := true,
                 offAt := if c.offAt.isSome then c.offAt else some (s.now + 10 * tUs) }).pin "SLOT_PFW_N" k false
    | none => s1

def execSlotPowerOff (vs n : Nat) (s : State) : Host.Outcome State Fault Refusal := s.act (slotPowerOff vs n)

/-- SLOT_PERST_RELEASE (R210): 100 ms after the channel reported power good; link training starts. -/
def slotPerstRelease (k : Nat) (s : Dev) : Dev :=
  match tfind s.pci.perstAt k with
  | none => s
  | some t =>
    if s.now < t + 100 * tMs ∨ ¬ s.fbit Fld.PCI_SLOT_STAT.POWERED k then s
    else
      let s1 := ({ s with pci.perst := setBit s.pci.perst k false, pci.perstAt := tdel s.pci.perstAt k }).pin "SLOT_PERST_N" k true
      if s.fbit Fld.PCI_SLOT_MAP.EN k then
        let p := s.fget Fld.PCI_SLOT_MAP.PORT k
        (s1.modPport p fun q => { q with perst := false }).linkFree p
      else s1

def execSlotPerstRelease (k : Nat) (s : State) : Host.Outcome State Fault Refusal := s.act (slotPerstRelease k)

/-- A turn-off of the slot of a vDSP's port is in progress (R211). -/
def Dev.turningOff (s : Dev) (vs n : Nat) : Bool :=
  match (s.boundPort vs n).bind s.slotOf with
  | some k => (s.slot k).offAt.isSome
  | none => false

/-- SLOT_COMMAND_COMPLETED (R212): once for the Slot Control writes made before it, when both have been performed. -/
def slotCommandCompleted (vs n : Nat) (s : Dev) : Dev :=
  if s.vdspExists vs n ∧ (s.vd vs n).cmdAt.isSome ∧ ¬ s.turningOff vs n then (s.modVd vs n fun v => { v with cmdAt := none }).hotplug vs n 4 else s

def execSlotCommandCompleted (vs n : Nat) (s : State) : Host.Outcome State Fault Refusal := s.act (slotCommandCompleted vs n)

/-! Errors and containment (R192 to R198) -/

/-- REMOTE_ERROR_NOTICE (R191, R192, R195): an error a port's switch has detected, logged at the USP or at the vDSP bound to the port, and a
DPC trigger that it has acted on, with its reason and Error Source ID; at the device port's switch, what its link has found. -/
def remoteErrorNotice (vs n : Nat) (err : Option PcieErr) (hdr : HdrLog) (trig : Option (Nat × Nat)) (s : Dev) : Dev :=
  if s.vdspExists vs n ∨ (s.vsExists vs ∧ n = uspNo) ∨ (s.boundPort vs n).isSome then
    let s1 := match err with
      | some e => s.aer vs n e hdr
      | none => s
    match trig with
    | some t => if n = uspNo then s1 else s1.dpcTrigger vs n t.1 t.2
    | none => s1
  else s

def execRemoteErrorNotice (vs n : Nat) (err : ErrTold) (hdr : HdrLog) (s : State) :
    Host.Outcome State Fault Refusal := s.act (remoteErrorNotice vs n err.err hdr err.trig)

/-- DPC_SOFTWARE_TRIGGER (R194, R196): the software trigger while DPC is enabled at the vDSP; its reason has an extension.
[log: PRESUMED 42] -/
def dpcSoftwareTrigger (vs n : Nat) (s : Dev) : Dev :=
  if s.vsExists vs then
    let f := s.pfn vs n
    if s.vdspExists vs n ∧ ¬ f.dpcStat.testBit 0 ∧ (bitsOf f.dpcCtl 1 0 = 1 ∨ bitsOf f.dpcCtl 1 0 = 2) then
      (s.dpcTrigger vs n 3 0).modPfn vs n fun f => { f with dpcStat := setBitsOf f.dpcStat 6 5 1 }
    else s
  else s.dpcTrigger vs n 3 0

def execDpcSoftwareTrigger (vs n : Nat) (s : State) : Host.Outcome State Fault Refusal := s.act (dpcSoftwareTrigger vs n)

/-- A vDSP's port is contained as this switch sees it. -/
def Dev.dpcHeld (s : Dev) (vs n : Nat) : Bool :=
  if s.vsExists vs then (s.pfn vs n).dpcStat.testBit 0 else (s.vd vs n).trigAt.isSome

/-- DPC_TRIGGER_STATUS_WRITE (R198): a write of 1 to DPC Trigger Status asks for the release. -/
def dpcTriggerStatusWrite (vs n : Nat) (s : Dev) : Dev :=
  if ¬ s.dpcHeld vs n then s
  else
    let s1 := s.modVd vs n fun v => { v with relReq := true }
    match s.boundFar vs n with
    | some g => if s.vsExists vs then s1.emit (.vdsp g vs n 10 0) else s1
    | none => s1

def execDpcTriggerStatusWrite (vs n : Nat) (s : State) : Host.Outcome State Fault Refusal := s.act (dpcTriggerStatusWrite vs n)

/-- DPC_RELEASE (R198): asked for, 1 ms after the trigger, and with every flit queued for the port discarded; the link leaves
Disabled and enters Detect. The device port's switch releases and tells the switch of the host port, where Trigger Status reads 1 until
then. -/
def dpcRelease (vs n : Nat) (s : Dev) : Dev :=
  let v := s.vd vs n
  match v.trigAt with
  | none => s
  | some t =>
    if ¬ s.dpcHeld vs n ∨ ¬ v.relReq ∨ s.now < t + tMs then s
    else match s.boundPort vs n, s.boundFar vs n with
      | some p, _ =>
        if s.portHolds p then s
        else
          let s1 := s.dpcFree vs n
          let s2 := ({ s1 with fwd.contained := s1.fwd.contained &&& (2 ^ 48 - 1 - 2 ^ p) }).linkFree p
          (s2.tellHost p { released := true }).cmdDone (0x4000 + p) 5 0 [1]
      | none, some _ => s
      | none, none => s.dpcFree vs n

def execDpcRelease (vs n : Nat) (s : State) : Host.Outcome State Fault Refusal := s.act (dpcRelease vs n)

/-! PTM (R199, R200, R620) -/

/-- The host time of a VS as this switch knows it: fabric time with Root Select 1, else with the offset once it is valid; the switch of the
host port tells both to the switches of the VS's device ports. [log: DEDUCED 47] -/
def Dev.hostTime (s : Dev) (vs : Nat) : Option Nat :=
  if (s.ctlOf vs uspNo).ptmCtl.testBit 1 then some (s.ftime / 8)
  else if s.fbit Fld.TM_PTM_OFF.VALID vs then
    some (unsignedOf 64 (Int.ofNat (s.ftime / 8) + signedOf 63 (s.fget Fld.TM_PTM_OFF.OFF vs)))
  else none

/-- PTM_REQUEST (R200, R219, R620): an endpoint's request is answered from fabric time by the switch of its device port, a service
function's by its own switch. [log: DEDUCED 47] -/
def ptmRequest (src : PtmReqr) (s : Dev) : Dev :=
  match src with
  | .port n =>
    if ¬ s.isDevice n ∨ ¬ (s.pport n).up then s
    else (match s.bindAt s.ap n with
      | some b => s.emit (.ptm n (s.hostTime b.vs))
      | none => s)
  | .sf vs => if s.vsExists vs ∧ (s.sfn vs 0).cfg.ptmCtl.testBit 0 then s.emit (.ptmSf vs (s.hostTime vs)) else s

def execPtmRequest (src : PtmReqr) (s : State) : Host.Outcome State Fault Refusal := s.act (ptmRequest src)

end Sys2Proof.Machine
end

