-- ==== Sys2Proof/Machine/Time.lean ====
section
/-! DEFINITION. Fabric time (R605 to R619), host time (R620), bandwidth windows (R625), event notices (R627) and wear (R629 to
R631). Offsets and delays are kept doubled, in half units of 125 ps. -/
namespace Sys2Proof.Machine

/-! The root and the time port (R607, R608, R613) -/

abbrev tsFree : Nat := 0
abbrev tsAcquire : Nat := 1
abbrev tsLocked : Nat := 2
abbrev tsHoldover : Nat := 3
abbrev tsRoot : Nat := 4

def Dev.tstate (s : Dev) : Nat := s.fget Fld.TM_STAT.STATE 0
def Dev.tport (s : Dev) : Nat := s.fget Fld.TM_STAT.TPORT 0
def Dev.tp (s : Dev) (n : Nat) : TimePort := tget {} s.tel.ports n
def Dev.modTp (s : Dev) (n : Nat) (f : TimePort → TimePort) : Dev := { s with tel.ports := tmod {} s.tel.ports n f }

/-- The switch is the root of the fabric tree in force. -/
def Dev.isRoot (s : Dev) : Bool := s.dl.treeIn && s.fbit Fld.DL_TREE.ROOT 0

/-- The descriptor of a port takes part in the comparison: complete, fresh, locked, near enough, of a tree where one is in force.
[log: DEDUCED 167] -/
def Dev.candidate (s : Dev) (n : Nat) : Bool :=
  let p := s.tp n
  s.blActive n && p.refreshed.isSome && p.parts == 31 && p.locked && p.dist != 15 && (!s.dl.treeIn || p.tree)

/-- Whether descriptor x ranks above y: TREE, root SERIAL, DIST (R608). -/
def descAbove (x y : TimePort) : Bool :=
  if x.tree != y.tree then x.tree
  else if x.serial ≠ y.serial then decide (x.serial < y.serial)
  else decide (x.dist < y.dist)

/-- This switch's own claim to be a root: none with a fabric tree in force (R607, R608). -/
def Dev.ownClaim (s : Dev) : TimePort := { serial := s.serial }

/-- The port with the best descriptor, where one ranks above the switch's own. -/
def Dev.bestPort (s : Dev) : Option Nat :=
  (extPorts.filter fun n => s.candidate n && (s.dl.treeIn || descAbove (s.tp n) s.ownClaim)).foldl (fun b n =>
    match b with
    | none => some n
    | some m => if descAbove (s.tp n) (s.tp m) then some n else some m) none

/-- A time port adopted in a state; the exchanges before count no longer, and the idle times of R329 start anew at the ports concerned.
[log: DEDUCED 167] -/
def Dev.adoptTime (s : Dev) (n st : Nat) : Dev :=
  let p := s.tp n
  let s1 := s.fsets 0 [(Fld.TM_STAT.STATE, st), (Fld.TM_STAT.TPORT, n), (Fld.TM_STAT.TREE, b2n p.tree), (Fld.TM_STAT.DIST, min 15 (p.dist + 1))]
  let idle := fun (s : Dev) (m : Nat) => { s with bl.ports := tmod {} s.bl.ports m fun b => { b with idleFrom := s.now } }
  { (idle (idle s1 s.tport) n) with tel.rootSerial := p.serial, tel.good := 0, tel.offs := [], tel.delays := [] }.modTp n fun p => { p with missed := 0 }

/-- Entry to HOLDOVER (R614). -/
def Dev.holdover (s : Dev) : Dev :=
  ((s.fset Fld.TM_STAT.STATE 0 tsHoldover).raise evTime).logError 4 evTime s.tport 0

/-- The time state follows the tree and the descriptors (R608, R613); `lost`: the time port has been lost. [log: DEDUCED 167] -/
def Dev.timeElect (s : Dev) (lost : Bool) : Dev :=
  let st := s.tstate
  if s.isRoot then
    if st = tsRoot then s
    else { s.fsets 0 [(Fld.TM_STAT.STATE, tsRoot), (Fld.TM_STAT.TREE, 1), (Fld.TM_STAT.DIST, 0)] with tel.rootSerial := s.serial, tel.good := 0 }
  else
    match s.bestPort with
    | some n =>
      let same := (s.tp n).serial = s.tel.rootSerial ∧ (s.tp n).tree = s.fbit Fld.TM_STAT.TREE 0
      if (st = tsAcquire ∨ st = tsLocked) ∧ ¬ lost ∧ n = s.tport then
        s.fset Fld.TM_STAT.DIST 0 (min 15 ((s.tp n).dist + 1))
      else if st = tsLocked then
        (if same then s.adoptTime n tsLocked
         else if lost then s.holdover.adoptTime n tsAcquire
         else s.adoptTime n tsAcquire)
      else s.adoptTime n tsAcquire
    | none =>
      if st = tsLocked ∧ lost then s.holdover
      else if st = tsRoot then
        { s.fsets 0 [(Fld.TM_STAT.STATE, tsFree), (Fld.TM_STAT.TREE, 0), (Fld.TM_STAT.DIST, 15)] with tel.slew := 0 }
      else s

/-- The descriptor this switch advertises: TREE, SERIAL, DIST, LOCKED (R607). -/
def Dev.ownDesc (s : Dev) : TimePort :=
  let st := s.tstate
  if s.isRoot then { tree := true, serial := s.serial, dist := 0, locked := true }
  else if !s.dl.treeIn && !(st == tsAcquire || st == tsLocked || st == tsHoldover) then { serial := s.serial, locked := true }
  else { tree := s.fbit Fld.TM_STAT.TREE 0, serial := s.tel.rootSerial, dist := s.fget Fld.TM_STAT.DIST 0, locked := st == tsLocked }

/-! The exchange (R609 to R613) -/

/-- The value nearest to a time with the given low 20 bits (R612). [log: DEDUCED 168] -/
def nearest20 (ref low : Nat) : Nat :=
  let d := (low + 2 ^ 20 - ref % 2 ^ 20) % 2 ^ 20
  if d < 2 ^ 19 then (ref + d) % 2 ^ 64 else (ref + 2 ^ 64 + d - 2 ^ 20) % 2 ^ 64

/-- The signed difference of two times. -/
def timeDiff (a b : Nat) : Int := signedOf 64 ((a + 2 ^ 64 - b % 2 ^ 64) % 2 ^ 64)

/-- The parent's time of its last SYNC: nearest to this switch's own time, but in ACQUIRE built on the upper bits it has told.
[log: DEDUCED 168] -/
def Dev.parentSync (s : Dev) (p : TimePort) (low : Nat) : Option Nat :=
  if s.tstate = tsAcquire then
    match p.high, p.top, p.top4 with
    | some h, some t, some t4 =>
      some (nearest20 ((t4 * 2 ^ 60 + t * 2 ^ 40 + h * 2 ^ 20 + p.highLow + (s.now - p.highNow)) % 2 ^ 64) low)
    | _, _, _ => none
  else some (nearest20 p.syncAt low)

/-- TIME_SYNC (R609, R611): a good SYNC on a port. [log: DESIGN CHOICE 70] -/
def timeSync (port val : Nat) (s : Dev) : Dev :=
  if s.blActive port then
    s.modTp port fun p => { p with syncLow := some (val % 2 ^ 20), syncAt := s.ftime, syncSeen := true, missed := 0 }
  else s

def execTimeSync (port val : Nat) (s : State) : Host.Outcome State Fault Refusal := s.act (timeSync port val)

/-- The mean of a list of doubled values in ps (R613). [log: DEDUCED 169] -/
def meanPs (l : List Int) : Int := if l.isEmpty then 0 else l.foldl (· + ·) 0 * 125 / (2 * Int.ofNat l.length)

/-- A step of fabric time (R618, R619), in the core cycle after the exchange that asks for it.
[log: DEDUCED 169, DEDUCED 170] -/
def Dev.timeStep (s : Dev) (t : Nat) : Dev :=
  let w := s.tel.bwWin * tUs
  let old := s.ftime
  let next := if t < old then (t / w + 1) * w else s.tel.bwNext
  let s1 := { s with ftime := t % 2 ^ 64, tel.good := 0, tel.offs := [], tel.delays := [], tel.bwStepped := true, tel.bwNext := next }
  let s2 := s1.fset Fld.TM_STAT.STEPS 0 ((s1.fget Fld.TM_STAT.STEPS 0 + 1) % 65536)
  (each (tkeys s2.tel.ports) s2 fun s n => s.modTp n fun p => { p with syncLow := none, sentAt := none }).raise evTime

/-- The step that the cycle before asked for: in ACQUIRE alone (R618). -/
def Dev.stepDue (s : Dev) : Dev :=
  match s.tel.stepTo with
  | none => s
  | some t => let s1 := { s with tel.stepTo := none }
              if s.tstate = tsAcquire then s1.timeStep t else s1

/-- What the servo makes of an exchange: a rate within 50 ppm of the oscillator's own, in parts per 10⁹; the spec leaves it open (R606).
[log: DESIGN CHOICE 166] -/
def Dev.servo (s : Dev) : Dev :=
  let (x, s1) := s.freeNat
  { s1 with tel.slew := Int.ofNat (x % 100001) - 50000 }

/-- A completed exchange on the time port: doubled offset and delay, t1 (R613, R618). [log: DEDUCED 169] -/
def Dev.exchange (s : Dev) (off2 del2 : Int) (t1 : Nat) : Dev :=
  if s.tstate = tsAcquire ∧ 1600 < off2.natAbs then { s with tel.stepTo := some (t1 + (del2 / 2).toNat) }
  else
    let offs := (s.tel.offs ++ [off2]).drop (s.tel.offs.length + 1 - 16)
    let dels := (s.tel.delays ++ [del2]).drop (s.tel.delays.length + 1 - 16)
    let good := if off2.natAbs ≤ 16 then s.tel.good + 1 else 0
    let s1 := (({ s with tel.offs := offs, tel.delays := dels, tel.good := good }).fsets 0
      [(Fld.TM_OFFSET.OFFSET, unsignedOf 32 (meanPs offs)), (Fld.TM_DELAY.DELAY, unsignedOf 32 (meanPs dels))]).servo
    if s.tstate = tsAcquire ∧ 16 ≤ good then
      let s2 := s1.fset Fld.TM_STAT.STATE 0 tsLocked
      if 5 < s.fget Fld.TM_STAT.DIST 0 then s2.raise evTime else s2
    else s1

/-- TIME_REPORT (R613): a REPORT on the time port completes an exchange. -/
def timeReport (port val : Nat) (s : Dev) : Dev :=
  let p := s.tp port
  if s.blActive port ∧ (s.tstate = tsAcquire ∨ s.tstate = tsLocked) ∧ port = s.tport then
    match p.syncLow, p.sentAt with
    | some low, some t3 =>
      (match s.parentSync p low with
       | some t1 =>
         let t4 := nearest20 (if s.tstate = tsAcquire then t1 else s.ftime) (val % 2 ^ 20)
         let a := timeDiff p.syncAt t1
         let b := timeDiff t4 t3
         s.exchange (a - b) (a + b) t1
       | none => s)
    | _, _ => s
  else s

def execTimeReport (port val : Nat) (s : State) : Host.Outcome State Fault Refusal := s.act (timeReport port val)

/-- TIME_HIGH (R609): bits [39:20] of the time in the last SYNC. -/
def timeHigh (port val : Nat) (s : Dev) : Dev :=
  if s.blActive port then
    s.modTp port fun p =>
      { p with high := some (val % 2 ^ 20), highLow := p.syncLow.getD 0, highNow := s.now - timeSpan p s.ftime }
  else s
where
  /-- Own time since the last SYNC's arrival. -/
  timeSpan (p : TimePort) (t : Nat) : Nat := if p.syncLow.isSome then t - p.syncAt else 0

def execTimeHigh (port val : Nat) (s : State) : Host.Outcome State Fault Refusal := s.act (timeHigh port val)

/-- TIME_TOP (R609): bits [59:40] of that time. -/
def timeTop (port val : Nat) (s : Dev) : Dev :=
  if s.blActive port then s.modTp port fun p => { p with top := some (val % 2 ^ 20) } else s

def execTimeTop (port val : Nat) (s : State) : Host.Outcome State Fault Refusal := s.act (timeTop port val)

/-- TIME_STATE (R609, R611): the top bits, DIST, TREE, LOCKED and TPORT; the descriptor is refreshed. -/
def timeState (port val : Nat) (s : Dev) : Dev :=
  if s.blActive port then
    (s.modTp port fun p =>
      { p with top4 := some (bitsOf val 19 16), dist := bitsOf val 15 12, tree := bitOf val 11, locked := bitOf val 10,
               tport := bitOf val 9, refreshed := some s.now, parts := p.parts ||| 16 }).timeElect false
  else s

def execTimeState (port val : Nat) (s : State) : Host.Outcome State Fault Refusal := s.act (timeState port val)

/-- TIME_ROOT (R609): part q of the root's SERIAL. -/
def timeRoot (port q val : Nat) (s : Dev) : Dev :=
  if s.blActive port ∧ q < 4 then
    (s.modTp port fun p =>
      { p with serial := setBitsOf p.serial (16 * q + 15) (16 * q) (val % 65536), parts := p.parts ||| 2 ^ q }).timeElect false
  else s

def execTimeRoot (port q val : Nat) (s : State) : Host.Outcome State Fault Refusal := s.act (timeRoot port q val)

/-- One TIME flit. -/
def Dev.sendTime (s : Dev) (n kind val : Nat) : Dev := s.sendCtl n 3 (kind * 2 ^ 20 + val % 2 ^ 20)

/-- The time in the last SYNC sent on a port; on a link without SYNCs the spec gives the upper bits no value.
[log: DEDUCED 168] -/
def Dev.syncTime (s : Dev) (n : Nat) : Nat × Dev :=
  match (s.tp n).sentAt with
  | some t => (t, s)
  | none => s.freeNat

/-- Descriptor flit i of the cycle HIGH, TOP, STATE, ROOT0 to ROOT3 (R609, R610). -/
def Dev.sendDesc (s : Dev) (n i : Nat) : Dev :=
  let (t, s1) := s.syncTime n
  let d := s.ownDesc
  if i = 0 then s1.sendTime n 3 (t / 2 ^ 20)
  else if i = 1 then s1.sendTime n 4 (t / 2 ^ 40)
  else if i = 2 then
    let up := (s.tstate == tsAcquire || s.tstate == tsLocked) && s.tport == n
    s.sendTime n 5 (t / 2 ^ 60 % 16 * 65536 + d.dist * 4096 + b2n d.tree * 2048 + b2n d.locked * 1024 + b2n up * 512)
  else s.sendTime n (6 + (i - 3)) (d.serial / 2 ^ (16 * (i - 3)) % 65536)

/-- The exchange interval (R610). -/
def Dev.syncInterval (s : Dev) : Nat := tUs * 2 ^ s.fget Fld.TM_CFG.SYNC_EXP 0

/-- TIME_EXCHANGE_INTERVAL (R610, R611): on a time-port link SYNC, REPORT and the next descriptor flit; on another ACTIVE link the
seven descriptor flits once every 1 ms; an interval has the length it began with (R27). -/
def timeExchangeInterval (port : Nat) (s : Dev) : Dev :=
  let p := s.tp port
  if ¬ s.blActive port ∨ s.fbit Fld.BL_STAT.TXSLEEP port then s
  else if s.isTimePort port then
    if s.now < p.lastSend + p.wait then s
    else
      let mine := (s.tstate = tsAcquire ∨ s.tstate = tsLocked) ∧ s.tport = port
      let s1 := (s.sendTime port 1 s.ftime).modTp port fun p =>
        { p with sentAt := some s.ftime, lastSend := s.now, wait := s.syncInterval, cycle := (p.cycle + 1) % 7, syncSeen := false,
                 missed := if mine ∧ ¬ p.syncSeen then p.missed + 1 else p.missed }
      let (x, s2) := if p.syncLow.isSome then (p.syncAt, s1) else s1.freeNat
      (s2.sendTime port 2 x).sendDesc port (p.cycle % 7)
  else if s.now < p.lastSend + tMs then s
  else (each (List.range 7) s fun s i => s.sendDesc port i).modTp port fun p => { p with lastSend := s.now }

def execTimeExchangeInterval (port : Nat) (s : State) : Host.Outcome State Fault Refusal := s.act (timeExchangeInterval port)

/-- TIME_DESCRIPTOR_EXPIRY (R611): a descriptor not refreshed for 4 ms. -/
def timeDescriptorExpiry (port : Nat) (s : Dev) : Dev :=
  match (s.tp port).refreshed with
  | some t =>
    if s.now < t + 4 * tMs then s
    else
      let up := (s.tstate == tsAcquire || s.tstate == tsLocked) && s.tport == port
      (s.modTp port fun p => { p with refreshed := none, parts := 0, tport := false }).timeElect up
  | none => s

def execTimeDescriptorExpiry (port : Nat) (s : State) : Host.Outcome State Fault Refusal := s.act (timeDescriptorExpiry port)

/-- TIME_PORT_LOSS (R611, R613): LOSS consecutive intervals without a good SYNC. -/
def timePortLoss (port : Nat) (s : Dev) : Dev :=
  if (s.tstate = tsAcquire ∨ s.tstate = tsLocked) ∧ port = s.tport ∧ s.fget Fld.TM_CFG.LOSS 0 ≤ (s.tp port).missed then
    (s.modTp port fun p => { p with refreshed := none, parts := 0, missed := 0 }).timeElect true
  else s

def execTimePortLoss (port : Nat) (s : State) : Host.Outcome State Fault Refusal := s.act (timePortLoss port)

/-! Host time (R620) -/

/-- A VS's USP has PTM Enable 1 and Root Select 0. -/
def Dev.ptmAsks (s : Dev) (vs : Nat) : Bool :=
  s.vsExists vs && (s.pfn vs uspNo).ptmCtl.testBit 0 && !(s.pfn vs uspNo).ptmCtl.testBit 1

/-- PTM_HOST_REQUEST (R620): every 1 ms. [log: DEDUCED 47] -/
def ptmHostRequest (vs : Nat) (s : Dev) : Dev :=
  let due : Bool := match tfind s.tel.ptmSent vs with
    | some t => decide (t + tMs ≤ s.now)
    | none => true
  if s.ptmAsks vs && due then { s.emit (.ptmReq (s.hostPort vs)) with tel.ptmSent := tins s.tel.ptmSent vs s.now } else s

def execPtmHostRequest (vs : Nat) (s : State) : Host.Outcome State Fault Refusal := s.act (ptmHostRequest vs)

/-- What the switches of a VS's remote device ports need to answer PTM requests (R200): the USP's PTM Control (kind 15), the offset (16). -/
def Dev.tellPtm (s : Dev) (vs kind val : Nat) : Dev :=
  let fs := (((s.bindings s.ap).filter fun b => b.vs == vs && gpaFsid b.dgpa != s.fsid).map fun b => gpaFsid b.dgpa).eraseDups
  each fs s fun s f => s.emit (.vdsp (f * 64 + 52) vs uspNo kind val)

/-- PTM_HOST_RESPONSE (R620): host time minus ⌊fabric time / 8⌋ ns; at a switch that does not carry the host port, the offset that the switch
that does has told. [log: DEDUCED 47] -/
def ptmHostResponse (vs host : Nat) (s : Dev) : Dev :=
  if s.ptmAsks vs then
    let off := unsignedOf 63 (Int.ofNat host - Int.ofNat (s.ftime / 8))
    (s.fsets vs [(Fld.TM_PTM_OFF.VALID, 1), (Fld.TM_PTM_OFF.OFF, off)]).tellPtm vs 16 off
  else if s.vsExists vs then s
  else s.fsets vs [(Fld.TM_PTM_OFF.VALID, 1), (Fld.TM_PTM_OFF.OFF, host % 2 ^ 63)]

def execPtmHostResponse (vs host : Nat) (s : State) : Host.Outcome State Fault Refusal := s.act (ptmHostResponse vs host)

/-! Bandwidth windows (R625) -/

/-- A new window width takes effect at its first boundary. [log: DEDUCED 176] -/
def Dev.bwSet (s : Dev) : Dev :=
  let w := s.fget Fld.TM_BW_CFG.WIN 0
  if w = s.tel.bwWin then s else { s with tel.bwWin := w, tel.bwNext := (s.ftime / (w * tUs) + 1) * (w * tUs) }

/-- BW_WINDOW_END (R625). [log: DEDUCED 176] -/
def bwWindowEnd (s : Dev) : Dev :=
  if s.ftime < s.tel.bwNext then s
  else
    let w := s.tel.bwWin * tUs
    let s1 := each extPorts s fun s n =>
      let rx := s.fget Fld.TM_PORT_RXB.COUNT n
      let tx := s.fget Fld.TM_PORT_TXB.COUNT n
      let s1 := (s.fset Fld.TM_BW_RX.BYTES n ((rx + 2 ^ 48 - tget 0 s.tel.bwRx n) % 2 ^ 48)).fset Fld.TM_BW_TX.BYTES n
        ((tx + 2 ^ 48 - tget 0 s.tel.bwTx n) % 2 ^ 48)
      { s1 with tel.bwRx := tput 0 s1.tel.bwRx n rx, tel.bwTx := tput 0 s1.tel.bwTx n tx }
    let s2 := (s1.rset .TM_BW_END 0 s.tel.bwNext).fset Fld.TM_BW_STAT.STEPPED 0 (b2n s.tel.bwStepped)
    { s2 with tel.bwStepped := false, tel.bwNext := (s.ftime / w + 1) * w }

def execBwWindowEnd (s : State) : Host.Outcome State Fault Refusal := s.act bwWindowEnd

/-! Event notices (R627) -/

/-- EVENT_NOTICE_SEND (R627): at most one notice of a source in 1 ms. [log: DEDUCED 175] -/
def eventNoticeSend (src : Nat) (s : Dev) : Dev :=
  match tfind s.tel.evt src with
  | none => s
  | some e =>
    let due : Bool := match e.last with
      | some t => decide (t + tMs ≤ s.now)
      | none => true
    let cls := s.evtClass src
    if e.count = 0 ∨ ¬ due ∨ cls < 8 ∨ 63 < cls then s
    else
      let s1 := { s with tel.evt := tput ({} : EvtNote) s.tel.evt src { count := 0, first := 0, last := some s.now } }
      s1.notice cls src e.first (leBytes 2 (min 65535 e.count))

def execEventNoticeSend (src : Nat) (s : State) : Host.Outcome State Fault Refusal := s.act (eventNoticeSend src)

/-! Wear (R629 to R631) -/

/-- e^x of a fixed-point number with 64 fraction bits: 16 terms of the series of x/64, and six squarings. [log: DEDUCED 172] -/
def expFix (x : Int) : Int :=
  let one : Int := 2 ^ 64
  let y := x / 64
  let series := (List.range 16).foldl (fun (a : Int × Int) i =>
    let t := a.2 * y / one / Int.ofNat (i + 1)
    (a.1 + t, t)) (one, one)
  (List.range 6).foldl (fun v _ => v * v / one) series.1

/-- The acceleration factor at a temperature in thousandths of a degree, in units of 2⁻³² (R629). [log: DEDUCED 172] -/
def accel (milliC : Int) : Nat :=
  (expFix (8123000 * (milliC - 85000) * 2 ^ 64 / (358150 * (milliC + 273150))) / 2 ^ 32).toNat

/-- The design life in equivalent seconds (R630). -/
abbrev designLife : Nat := 1262400000

/-- wear_used of the ages (R630). [log: DEDUCED 172] -/
def wearUsedOf (l : List Nat) : Nat := min 65535 (10000 * (l.foldl max 0) / (designLife * 2 ^ 32))

/-- TM_WEAR and TM_WEAR_RATE follow the ages. -/
def Dev.wearRegs (s : Dev) : Dev :=
  each (List.range 5) s fun s d =>
    (s.rset .TM_WEAR d (s.tel.wearE.getD d 0 / 2 ^ 32)).rset .TM_WEAR_RATE d (min (2 ^ 32 - 1) (s.tel.wearR.getD d 0 / 65536))

/-- eol_predicted of the ages and rates (R631). [log: DEDUCED 172, DEDUCED 173] -/
def Dev.eolOf (s : Dev) : Nat :=
  let life := designLife * 2 ^ 32
  match (s.tel.eolAt.filterMap id) with
  | t :: rest => rest.foldl min t
  | [] =>
    let left := (s.tel.wearE.zip s.tel.wearR).map fun e => 8000000000 * (life - e.1) / max 1 e.2
    (s.ftime + left.foldl min (left.headD 0)) % 2 ^ 64

/-- WEAR_TICK (R629 to R631): once each second of powered time. [log: DEDUCED 172] -/
def wearTick (s : Dev) : Dev :=
  if s.now < s.tel.wearAt + tSec then s
  else
    let af := s.tel.hottest.map accel
    let es := (s.tel.wearE.zip af).map fun e => e.1 + e.2
    let rs := (s.tel.wearR.zip af).map fun r => (Int.ofNat r.1 + (Int.ofNat r.2 - Int.ofNat r.1) / 2592000).toNat
    let eolAt := (es.zip s.tel.eolAt).map fun e => if e.2.isSome then e.2 else if designLife * 2 ^ 32 ≤ e.1 then some s.ftime else none
    let used := wearUsedOf es
    let s1 := { s with tel.wearE := es, tel.wearR := rs, tel.eolAt := eolAt, tel.hottest := s.tel.dieTemp, tel.wearAt := s.now,
                       tel.wearUsed := used }
    let s2 := { s1 with tel.eol := s1.eolOf }.wearRegs
    if used / 1000 ≠ s.tel.wearUsed / 1000 then (s2.raise evWear).logError 7 evWear used 0 else s2

def execWearTick (s : State) : Host.Outcome State Fault Refusal := s.act wearTick

/-- The ages stored in the configuration flash (R629). -/
def Dev.storeWear (s : Dev) : Dev := { s with tel.wearStored := s.tel.wearE, tel.wearStoreAt := s.now }

/-- WEAR_STORE (R629): every hour. -/
def wearStore (s : Dev) : Dev := if s.now < s.tel.wearStoreAt + 3600 * tSec then s else s.storeWear
def execWearStore (s : State) : Host.Outcome State Fault Refusal := s.act wearStore

end Sys2Proof.Machine
end

