-- ==== Sys2Proof/Machine/Power.lean ====
section
/-! DEFINITION. The power-entry controller (R653 to R677, R688): feeds, ramps, transfers, trips and sags; the slot channels (R678 to R687,
R210, R211); FAULT (R560, R566, R719). Voltages are in mV, currents in mA, powers in mW. -/
namespace Sys2Proof.Machine

/-! Policy (R654) -/

/-- An entry of index 0x8000 or 0x8200 + k as the controller holds it. -/
def Dev.pol (s : Dev) (idx sub dflt : Nat) : Nat :=
  match tfind s.pe.pol (objKey idx sub) with
  | some (.num n) => n
  | _ => dflt

def Dev.breakUs (s : Dev) : Nat := s.pol 0x8000 2 10
def Dev.inrushMa (s : Dev) : Nat := s.pol 0x8000 3 100 * 100
def Dev.inrushTime (s : Dev) : Nat := s.pol 0x8000 4 10 * tMs
def Dev.sagWarnMv (s : Dev) : Nat := s.pol 0x8000 6 4400
def Dev.sagResetMv (s : Dev) : Nat := s.pol 0x8000 7 4100
def Dev.preferred (s : Dev) : Nat := s.pol 0x8000 1 0

/-- The factory breaker curve: currents in 0.1 A, times in µs (R664). -/
def factoryCurve : List (Nat × Nat) :=
  [(620, 10000000), (660, 1000000), (720, 200000), (780, 50000), (860, 10000), (960, 2000), (1080, 500), (1200, 100)]

/-- The bytes of a curve (R662), and a curve of its bytes. -/
def curveBytes (l : List (Nat × Nat)) : List Byte := l.flatMap fun p => leBytes 2 p.1 ++ leBytes 4 p.2
def curveOf (b : List Byte) : List (Nat × Nat) :=
  (List.range 8).map fun j => (leNat ((b.drop (6 * j)).take 2), leNat ((b.drop (6 * j + 2)).take 4))

/-- Each element is related to the next. -/
def chain (r : Nat → Nat → Bool) : List Nat → Bool
  | a :: b :: t => r a b && chain r (b :: t)
  | _ => true

/-- A curve that R663 lets be stored. -/
def curveOk (b : List Byte) : Bool :=
  let l := curveOf b
  let i : List Nat := l.map (·.1)
  let t : List Nat := l.map (·.2)
  b.length == 48 && decide (20 ≤ i.headD 0) && decide (i.headD 0 ≤ 640) && chain (fun x y => decide (x < y)) i &&
    decide (i.getLastD 0 ≤ 2 * i.headD 0) && t.all (fun x => decide (10 ≤ x) && decide (x ≤ 60000000)) && chain (fun x y => decide (y < x)) t

/-- The breaker curve in force. -/
def Dev.curve (s : Dev) : List (Nat × Nat) :=
  match tfind s.pe.pol (objKey 0x8000 5) with
  | some (.bytes b) => curveOf b
  | _ => factoryCurve

/-- I₀ of the curve, in mA. -/
def Dev.curveI0 (s : Dev) : Nat := (s.curve.headD (0, 0)).1 * 100

/-! Controller states (R675) -/

abbrev peOff : Nat := 0
abbrev peWait : Nat := 1
abbrev peRamp : Nat := 2
abbrev peOn : Nat := 3
abbrev peTransfer : Nat := 4
abbrev peLatched : Nat := 5

def feedMv (x : PeSample) (f : Nat) : Nat := if f = 0 then x.va else x.vb
def otherFeed (f : Nat) : Nat := 1 - f
/-- [log: DESIGN CHOICE 178] -/
def Dev.usableFeed (s : Dev) (f : Nat) : Bool := decide (f < 2) && s.pe.usable.testBit f

/-- A supply loss or a reset before an RWS write has answered: flash holds the old value or the new one (R558).
[log: DESIGN CHOICE 147] -/
def Dev.settleFlash (s : Dev) : Dev :=
  let s1 := each s.svc.commits s fun s c =>
    let (x, s1) := s.freeNat
    if x % 2 = 1 then each c.vals s1 fun s e => { s with flash := tins s.flash e.1 e.2 } else s1
  { s1 with svc.commits := [] }

/-- The dies lose power: the device is OFF (R560); `why` will be the cause of its next start (R692).
[log: DEDUCED 184, DEDUCED 241] -/
def Dev.powerLost (s : Dev) (why : Nat) : Dev :=
  { s.settleFlash with
    pe.pgood := false, pe.railAt := none, pe.feed := 2, pe.next := 2, pe.breakTill := none, pe.regulating := false, pe.why := why,
    svc.state := stOff }

/-- A ramp of a feed begins (R657). -/
def Dev.ramp (s : Dev) (f : Nat) : Dev :=
  { s with pe.state := peRamp, pe.feed := f, pe.next := 2, pe.at_ := s.now, pe.regulating := true, pe.railAt := none }

/-- WAIT, left at once for a ramp where a feed is usable (R657, R675). -/
def Dev.waitRamp (s : Dev) : Dev :=
  let s1 := { s with pe.state := peWait, pe.feed := 2, pe.regulating := false }
  if s1.usableFeed s.preferred then s1.ramp s.preferred
  else if s1.usableFeed (otherFeed s.preferred) then s1.ramp (otherFeed s.preferred)
  else s1

/-- Event source 109 (it is raised in the core die, while that has power). -/
def Dev.raisePower (s : Dev) : Dev := if s.svc.state = stOff then s else s.raise evPower

/-- The flags of a feed's loss: usable no more, and an overvoltage told of (R655, R688). -/
def Dev.markLost (s : Dev) (f : Nat) (why : FeedLoss) : Dev :=
  { s with pe.usable := setBit s.pe.usable f false, pe.flags := if why = .overvoltage then setBit s.pe.flags (5 + f) true else s.pe.flags }

/-- A module trip (R665): what the same sample brought besides, a lost feed or a bus below sag_reset, starts nothing (R671, R675). -/
def Dev.moduleTrip (s : Dev) (cause : Nat) : Dev :=
  let s1 := { (each s.pe.lost s fun s l => s.markLost l.1 l.2.1).powerLost 3 with pe.lost := [], pe.sagDue := false }
  { s1 with pe.state := peLatched, pe.lastTrip := cause, pe.trips := (s.pe.trips + 1) % 2 ^ 32, pe.flags := setBit s1.pe.flags 7 true }

/-- CONTROLLER_START (R675, R688, R694): a feed reaches 4.0 V; volatile counters are 0, the stored energies come back, the bank that
waits becomes the running one. What becomes of the sticky flags the spec leaves open. [log: DESIGN CHOICE 180] -/
def controllerStart (x : PeSample) (s : Dev) : Dev :=
  if s.pe.state ≠ peOff ∨ (x.va < 4000 ∧ x.vb < 4000) then s
  else
    let (fl, s1) := s.freeNat
    { s1 with pe.state := peWait, pe.feed := 2, pe.next := 2, pe.usable := 0, pe.transfers := 0, pe.sags := 0, pe.slots := [],
              pe.energy := s.pe.stored, pe.flags := fl % 32 * 8, pe.pfw := true, pe.storeAt := s.now, pe.why := 1,
              trust.bank4 := (s.trust.pend4).getD s.trust.bank4, trust.pend4 := none }

def execControllerStart (x : PeSample) (s : State) : Host.Outcome State Fault Refusal := s.actPe (controllerStart x)

/-- FEED_USABLE (R655, R657): a feed has passed the usable test. -/
def feedUsable (f : Nat) (x : PeSample) (s : Dev) : Dev :=
  if s.pe.state = peOff ∨ 2 ≤ f ∨ s.usableFeed f ∨ feedMv x f < max 4500 (s.sagWarnMv + 100) ∨ 18000 < feedMv x f then s
  else
    let s1 := { s with pe.usable := setBit s.pe.usable f true, pe.usableAt := s.pe.usableAt.set f s.now }
    if s1.pe.state = peWait then s1.waitRamp else s1

def execFeedUsable (f : Nat) (x : PeSample) (s : State) : Host.Outcome State Fault Refusal := s.actPe (feedUsable f x)

/-- t_safe in nanoseconds (R668); none when the module draws nothing. -/
def Dev.tSafe (s : Dev) (x : PeSample) : Option Nat :=
  let v := s.sagResetMv + 100
  if x.power = 0 then none else some (1100 * (x.bus * x.bus - v * v) / x.power)

/-- A transfer to a feed begins with its break (R667, R668). [log: DEDUCED 181] -/
def Dev.transfer (s : Dev) (f : Nat) (x : PeSample) : Dev :=
  let want := s.breakUs * 1000
  let safe := (s.tSafe x).getD want
  let b := max 5000 (min want safe)
  ({ s with pe.state := peTransfer, pe.feed := 2, pe.next := f, pe.breakTill := some (s.now + b * tNs), pe.regulating := false,
            pe.transfers := (s.pe.transfers + 1) % 2 ^ 32, pe.flags := if b < want then setBit s.pe.flags 3 true else s.pe.flags }).raisePower

/-- The gate of the conducting feed after its loss (R656, R667). -/
def Dev.lostOn (s : Dev) (f : Nat) (why : FeedLoss) (x : PeSample) : Dev :=
  if s.usableFeed (otherFeed f) then s.transfer (otherFeed f) x
  else if why = .overvoltage ∨ why = .reverse then { s with pe.feed := 2, pe.regulating := false }
  else s

/-- What the loss of a feed does at the end of its sample (R655, R656, R667, R671). [log: DEDUCED 181, DEDUCED 234] -/
def Dev.takeLoss (s : Dev) (f : Nat) (why : FeedLoss) (x : PeSample) : Dev :=
  if s.pe.state = peOff ∨ ¬ s.usableFeed f then s
  else
    let s1 := s.markLost f why
    if s.pe.state = peRamp ∧ s.pe.feed = f then s1.waitRamp
    else if (s.pe.state = peOn ∨ s.pe.state = peTransfer) ∧ s.pe.feed = f then s1.lostOn f why x
    else if s.pe.state = peTransfer ∧ s.pe.next = f ∧ s.pe.breakTill.isSome then { s1 with pe.next := 2, pe.breakTill := none }
    else s1

/-- FEED_LOST (R655): a sample finds a feed lost; a trip of the same sample goes first (R671).
[log: DEDUCED 181, DEDUCED 234] -/
def feedLost (f : Nat) (why : FeedLoss) (x : PeSample) (s : Dev) : Dev :=
  if s.pe.state = peOff ∨ ¬ s.usableFeed f then s else { s with pe.lost := s.pe.lost ++ [(f, why, x)] }

def execFeedLost (f : Nat) (why : FeedLoss) (x : PeSample) (s : State) : Host.Outcome State Fault Refusal := s.actPe (feedLost f why x)

/-- TRANSFER_BREAK_END (R667, R669): the incoming gate turns on, regulated. -/
def transferBreakEnd (s : Dev) : Dev :=
  match s.pe.breakTill with
  | some t =>
    if s.pe.state = peTransfer ∧ t ≤ s.now then
      { s with pe.feed := s.pe.next, pe.next := 2, pe.breakTill := none, pe.regulating := true, pe.at_ := s.now }
    else s
  | none => s

def execTransferBreakEnd (s : State) : Host.Outcome State Fault Refusal := s.actPe transferBreakEnd

/-- The bus is within 0.2 V of the conducting feed. -/
def Dev.busNear (s : Dev) (x : PeSample) : Bool := decide (s.pe.feed < 2) && decide (feedMv x s.pe.feed ≤ x.bus + 200)

/-- TRANSFER_END (R669). -/
def transferEnd (x : PeSample) (s : Dev) : Dev :=
  if s.pe.state = peTransfer ∧ s.pe.regulating ∧ s.busNear x then
    { s with pe.state := peOn, pe.regulating := false, pe.at_ := s.now, pe.revertAt := s.now + 10 * tSec }
  else s

def execTransferEnd (x : PeSample) (s : State) : Host.Outcome State Fault Refusal := s.actPe (transferEnd x)

/-- FEED_REVERT (R670): the preferred feed has been usable for 10 s while the other conducts. [log: DEDUCED 181] -/
def feedRevert (x : PeSample) (s : Dev) : Dev :=
  let f := s.preferred
  if s.pe.state = peOn ∧ s.pe.feed = otherFeed f ∧ s.usableFeed f ∧ s.pe.usableAt.getD f 0 + 10 * tSec ≤ s.now ∧ s.pe.revertAt ≤ s.now then
    let want := s.breakUs * 1000
    if want ≤ (s.tSafe x).getD want then s.transfer f x
    else { s with pe.flags := setBit s.pe.flags 4 true, pe.revertAt := s.now + tSec }
  else s

def execFeedRevert (x : PeSample) (s : State) : Host.Outcome State Fault Refusal := s.actPe (feedRevert x)

/-- RAMP_END (R657, R659): the bus is within 0.2 V of the feed; the rails are enabled. -/
def rampEnd (x : PeSample) (s : Dev) : Dev :=
  if s.pe.state = peRamp ∧ s.busNear x then
    { s with pe.state := peOn, pe.regulating := false, pe.at_ := s.now, pe.revertAt := s.now + 10 * tSec, pe.railAt := some s.now }
  else s

def execRampEnd (x : PeSample) (s : State) : Host.Outcome State Fault Refusal := s.actPe (rampEnd x)

/-- INRUSH_FAULT_TIMEOUT (R658, R669). -/
def inrushFaultTimeout (s : Dev) : Dev :=
  if (s.pe.state = peRamp ∨ s.pe.state = peTransfer) ∧ s.pe.regulating ∧ s.pe.at_ + s.inrushTime ≤ s.now then s.moduleTrip 2 else s

def execInrushFaultTimeout (s : State) : Host.Outcome State Fault Refusal := s.actPe inrushFaultTimeout

/-- RAIL_FAULT_TIMEOUT (R659). -/
def railFaultTimeout (s : Dev) : Dev :=
  match s.pe.railAt with
  | some t => if s.pe.state = peOn ∧ t + 5 * tMs ≤ s.now then s.moduleTrip 3 else s
  | none => s

def execRailFaultTimeout (s : State) : Host.Outcome State Fault Refusal := s.actPe railFaultTimeout

/-- The gate of a feed conducts. -/
def Dev.conducts (s : Dev) (f : Nat) : Bool :=
  decide (f < 2) && s.pe.feed == f && (s.pe.state == peRamp || s.pe.state == peOn || s.pe.state == peTransfer)

/-- FAST_TRIP (R661). [log: DESIGN CHOICE 178] -/
def fastTrip (f ma : Nat) (s : Dev) : Dev :=
  let limit := if s.pe.state = peRamp then 2 * s.inrushMa else 2 * s.curveI0
  if s.conducts f ∧ limit < ma then s.moduleTrip 1 else s

def execFastTrip (f ma : Nat) (s : State) : Host.Outcome State Fault Refusal := s.actPe (fastTrip f ma)

/-- BREAKER_TRIP (R664): the timer of a point reaches its time. [log: DESIGN CHOICE 178] -/
def breakerTrip (f pt ma : Nat) (s : Dev) : Dev :=
  if s.conducts f ∧ pt < 8 ∧ (s.curve.getD pt (0, 0)).1 * 100 < ma then s.moduleTrip (0x10 + pt) else s

def execBreakerTrip (f pt ma : Nat) (s : State) : Host.Outcome State Fault Refusal := s.actPe (breakerTrip f pt ma)

/-- LATCH_RELEASE (R666): RST_N held low for 10 ms. -/
def latchRelease (s : Dev) : Dev := if s.pe.state = peLatched then s.waitRamp else s
def execLatchRelease (s : State) : Host.Outcome State Fault Refusal := s.actPe latchRelease

/-- Energy used since it was last counted: a measurement, left free (R677). [log: DESIGN CHOICE 179] -/
def Dev.meterEnergy (s : Dev) : Dev :=
  let (a, s1) := s.freeNat
  let (b, s2) := s1.freeNat
  { s2 with pe.energy := [(s.pe.energy.getD 0 0 + a) % 2 ^ 64, (s.pe.energy.getD 1 0 + b) % 2 ^ 64] }

/-- The energy counters into the controller's own memory (R677). [log: DESIGN CHOICE 179] -/
def Dev.storeEnergy (s : Dev) : Dev :=
  let s1 := s.meterEnergy
  { s1 with pe.stored := s1.pe.energy, pe.storeAt := s.now }

/-- SAG_WARN (R673): the bus falls below sag_warn. -/
def sagWarn (x : PeSample) (s : Dev) : Dev :=
  if s.pe.state = peOff ∨ s.pe.pfw ∨ s.sagWarnMv ≤ x.bus then s
  else
    let s1 := if s.pe.sagged ∨ s.svc.state = stOff then s else { s.storeWear with pe.sagged := true }
    ((({ s1 with pe.pfw := true, pe.sags := (s.pe.sags + 1) % 2 ^ 32 }).pin "PFW_N" 0 false).storeEnergy).raisePower

def execSagWarn (x : PeSample) (s : State) : Host.Outcome State Fault Refusal := s.actPe (sagWarn x)

/-- PFW_RELEASE (R673): the bus has stayed at or above sag_warn + 100 mV for 1 ms. -/
def pfwRelease (x : PeSample) (s : Dev) : Dev :=
  if s.pe.state ≠ peOff ∧ s.pe.pfw ∧ s.sagWarnMv + 100 ≤ x.bus then ({ s with pe.pfw := false }).pin "PFW_N" 0 true else s

def execPfwRelease (x : PeSample) (s : State) : Host.Outcome State Fault Refusal := s.actPe (pfwRelease x)

/-- SAG_RESET (R674): a sample finds the bus below sag_reset; a trip of the same sample goes first (R675). [log: DEDUCED 234] -/
def sagReset (x : PeSample) (s : Dev) : Dev :=
  if (s.pe.state = peOn ∨ s.pe.state = peTransfer) ∧ x.bus < s.sagResetMv then { s with pe.sagDue := true } else s

/-- What a bus below sag_reset does at the end of its sample (R674). [log: DEDUCED 241] -/
def Dev.takeSag (s : Dev) : Dev := if s.pe.state = peOn ∨ s.pe.state = peTransfer then (s.powerLost 2).waitRamp else s

def execSagReset (x : PeSample) (s : State) : Host.Outcome State Fault Refusal := s.actPe (sagReset x)

/-- ENERGY_STORE (R677): every 60 s. -/
def energyStore (s : Dev) : Dev := if s.pe.state = peOff ∨ s.now < s.pe.storeAt + 60 * tSec then s else s.storeEnergy
def execEnergyStore (s : State) : Host.Outcome State Fault Refusal := s.actPe energyStore

/-! Slot channels (R678 to R687) -/

abbrev slOff : Nat := 0
abbrev slWait : Nat := 1
abbrev slRamp : Nat := 2
abbrev slOn : Nat := 3
abbrev slRetry : Nat := 4
abbrev slLatched : Nat := 5

def Dev.slotLimitMa (s : Dev) (k : Nat) : Nat := s.pol (0x8200 + k) 2 60 * 100
def Dev.slotFaultTime (s : Dev) (k : Nat) : Nat := s.pol (0x8200 + k) 3 10 * tMs
def Dev.slotRetryCfg (s : Dev) (k : Nat) : Nat := s.pol (0x8200 + k) 4 0x0364
def Dev.slotSagMv (s : Dev) (k : Nat) : Nat := s.pol (0x8200 + k) 5 10800

/-- slot_state (R678, R679): a channel that is on and has nothing to start with waits. -/
def Dev.slotState (s : Dev) (k : Nat) : Nat :=
  if !s.fbit Fld.PCI_SLOT_MAP.EN k then slOff
  else if (s.slot k).state = slOff ∧ s.slotCtl k ∧ stStandby ≤ s.svc.state ∧ (s.slot k).offAt.isNone then slWait
  else (s.slot k).state

def Dev.gateOn (s : Dev) (k : Nat) : Bool := (s.slot k).state == slRamp || (s.slot k).state == slOn

/-- The gate of a channel off, its warning and its PERST asserted, the slot's link down (R681, R683). -/
def Dev.slotDown (s : Dev) (k st : Nat) : Dev :=
  let s1 := (s.modSlot k fun c => { c with state := st, pfw := true, offAt := none }).fset Fld.PCI_SLOT_STAT.POWERED k 0
  let s2 := { s1 with pci.perst := setBit s1.pci.perst k true, pci.perstAt := tdel s1.pci.perstAt k }
  let s3 := ((s2.pin "SLOT_GATE" k false).pin "SLOT_PFW_N" k false).pin "SLOT_PERST_N" k false
  if s.fbit Fld.PCI_SLOT_MAP.EN k then
    let p := s.fget Fld.PCI_SLOT_MAP.PORT k
    (s3.modPport p fun q => { q with perst := true }).dataDown p false
  else s3

/-- CONTROLLER_STOP (R666, R675): both feeds below 4.0 V; no gate of a slot channel stays on. -/
def controllerStop (x : PeSample) (s : Dev) : Dev :=
  if s.pe.state = peOff ∨ 4000 ≤ x.va ∨ 4000 ≤ x.vb then s
  else
    let s1 := { s.powerLost 1 with pe.state := peOff, pe.usable := 0 }
    each ((tkeys s1.pe.slots).filter s1.gateOn) s1 fun s k => s.slotDown k slOff

def execControllerStop (x : PeSample) (s : State) : Host.Outcome State Fault Refusal := s.actPe (controllerStop x)

/-- A trip of a slot channel (R681, R682, R213); with a turn-off in progress it ends in OFF without a retry, with a loss of presence in the
same sample it starts the retry timer and its count anew (R686). [log: DEDUCED 183] -/
def Dev.slotTrip (s : Dev) (k cause : Nat) : Dev :=
  let cfg := s.slotRetryCfg k
  let n := (s.slot k).count + 1
  let off := (s.slot k).offAt.isSome
  let gone := (s.slot k).goneAt.isSome
  let again := ¬ off ∧ (gone ∨ cfg / 256 = 255 ∨ n ≤ cfg / 256)
  let s1 := (s.slotDown k (if off then slOff else if again then slRetry else slLatched)).modSlot k fun c =>
    { c with count := if gone then 0 else n, tripAt := some s.now, goneAt := none, trips := (c.trips + 1) % 2 ^ 32, cause := cause, at_ := s.now,
             retryAt := if again then some (s.now + cfg % 256 * 10 * tMs) else none }
  let s2 := if s.fbit Fld.PCI_SLOT_MAP.EN k then s1.tellHost (s.fget Fld.PCI_SLOT_MAP.PORT k) { fault := true } else s1
  if s2.svc.state = stOff then s2 else s2.raise (evSlot k)

/-- SLOT_POWER_ON (R210, R211): Power Controller Control written 0; a virtual slot's link is enabled. A turn-off in progress is performed
first (R212). -/
def slotPowerOn (vs n : Nat) (s : Dev) : Dev :=
  let s0 := if s.vdspExists vs n then s.slotCommand vs n else s
  s0.atDevice vs n 7 0 fun s p =>
    let s1 := s.setSlotOff p false
    match s.slotOf p with
    | some k => s1.modSlot k fun c => { c with ctl := some true, state := if c.state = slOff ∧ c.offAt.isNone then slWait else c.state }
    | none => s1

def execSlotPowerOn (vs n : Nat) (s : State) : Host.Outcome State Fault Refusal := s.act (slotPowerOn vs n)

/-- The channels whose commanded turn-off has run its 10 µs (R211); a channel that is already off, or waits, is off at once.
[log: DEDUCED 183] -/
def Dev.slotTurnOff (s : Dev) : Dev :=
  each (tkeys s.pe.slots) s fun s k =>
    match (s.slot k).offAt with
    | some t =>
      if t ≤ s.now then s.slotDown k slOff
      else if s.gateOn k then s
      else s.modSlot k fun c => { c with state := slOff, offAt := none }
    | none => s

/-- SLOT_SOFT_START (R679): control on, presence, no retry timer. -/
def slotSoftStart (k : Nat) (s : Dev) : Dev :=
  let c := s.slot k
  if k < 8 ∧ s.fbit Fld.PCI_SLOT_MAP.EN k ∧ s.slotCtl k ∧ s.fbit Fld.PCI_SLOT_STAT.PRSNT k ∧ c.retryAt.isNone ∧ c.offAt.isNone ∧
      (c.state = slOff ∨ c.state = slWait) ∧ stStandby ≤ s.svc.state ∧ s.svc.state ≠ stFault then
    (s.modSlot k fun c => { c with state := slRamp, at_ := s.now }).pin "SLOT_GATE" k true
  else s

def execSlotSoftStart (k : Nat) (s : State) : Host.Outcome State Fault Refusal := s.act (slotSoftStart k)

/-- SLOT_POWER_GOOD (R679, R210): the output is at 95 % of the rail. -/
def slotPowerGood (k _mv : Nat) (s : Dev) : Dev :=
  if k < 8 ∧ (s.slot k).state = slRamp then
    let s1 := (s.modSlot k fun c => { c with state := slOn, at_ := s.now }).fset Fld.PCI_SLOT_STAT.POWERED k 1
    { s1 with pci.perstAt := tins s1.pci.perstAt k s.now }
  else s

def execSlotPowerGood (k mv : Nat) (s : State) : Host.Outcome State Fault Refusal := s.actPe (slotPowerGood k mv)

/-- SLOT_START_TIMEOUT (R679). -/
def slotStartTimeout (k : Nat) (s : Dev) : Dev :=
  if k < 8 ∧ (s.slot k).state = slRamp ∧ (s.slot k).at_ + s.slotFaultTime k ≤ s.now then s.slotTrip k 2 else s

def execSlotStartTimeout (k : Nat) (s : State) : Host.Outcome State Fault Refusal := s.actPe (slotStartTimeout k)

/-- SLOT_FAST_TRIP (R680). -/
def slotFastTrip (k ma : Nat) (s : Dev) : Dev := if k < 8 ∧ s.gateOn k ∧ 2 * s.slotLimitMa k < ma then s.slotTrip k 1 else s
def execSlotFastTrip (k ma : Nat) (s : State) : Host.Outcome State Fault Refusal := s.actPe (slotFastTrip k ma)

/-- SLOT_FAULT_TIME_TRIP (R680): the current has stayed above the limit for the fault time. -/
def slotFaultTimeTrip (k ma : Nat) (s : Dev) : Dev :=
  if k < 8 ∧ (s.slot k).state = slOn ∧ s.slotLimitMa k < ma then s.slotTrip k 3 else s

def execSlotFaultTimeTrip (k ma : Nat) (s : State) : Host.Outcome State Fault Refusal := s.actPe (slotFaultTimeTrip k ma)

/-- SLOT_VOUT_TRIP (R680): the output has stayed below 90 % of the rail for 10 µs. [log: DESIGN CHOICE 178] -/
def slotVoutTrip (k _mv : Nat) (s : Dev) : Dev := if k < 8 ∧ (s.slot k).state = slOn then s.slotTrip k 4 else s
def execSlotVoutTrip (k mv : Nat) (s : State) : Host.Outcome State Fault Refusal := s.actPe (slotVoutTrip k mv)

/-- SLOT_RETRY_END (R682, R684). [log: DEDUCED 183] -/
def slotRetryEnd (k : Nat) (s : Dev) : Dev :=
  match (s.slot k).retryAt with
  | some t =>
    if k < 8 ∧ t ≤ s.now then s.modSlot k fun c => { c with retryAt := none, state := if c.state = slRetry then slWait else c.state } else s
  | none => s

def execSlotRetryEnd (k : Nat) (s : State) : Host.Outcome State Fault Refusal := s.actPe (slotRetryEnd k)

/-- SLOT_COUNT_RESTART (R682): 10 s in ON. [log: DEDUCED 183] -/
def slotCountRestart (k : Nat) (s : Dev) : Dev :=
  if k < 8 ∧ (s.slot k).state = slOn ∧ (s.slot k).at_ + 10 * tSec ≤ s.now then s.modSlot k fun c => { c with count := 0 } else s

def execSlotCountRestart (k : Nat) (s : State) : Host.Outcome State Fault Refusal := s.actPe (slotCountRestart k)

/-- SLOT_PRESENCE_LOSS (R682 to R684, R686): with the gate on it takes effect at the end of its sample, a trip of which goes first.
[log: DEDUCED 183, DEDUCED 234] -/
def slotPresenceLoss (k : Nat) (s : Dev) : Dev :=
  if 8 ≤ k then s
  else
    let c := s.slot k
    let now_ : Bool := match c.tripAt with
      | some t => t / tUs == s.now / tUs
      | none => false
    if s.gateOn k then s.modSlot k fun c => { c with goneAt := some s.now }
    else s.modSlot k fun c =>
      { c with count := 0, state := if c.state = slLatched then (if now_ then slRetry else slWait) else c.state,
               retryAt := if c.state = slLatched ∧ now_ then some (s.now + s.slotRetryCfg k % 256 * 10 * tMs) else c.retryAt }

def execSlotPresenceLoss (k : Nat) (s : State) : Host.Outcome State Fault Refusal := s.actPe (slotPresenceLoss k)

/-- The gate of a channel whose board is gone turns off, and the channel waits (R683). [log: DEDUCED 183] -/
def Dev.takeGone (s : Dev) (k : Nat) : Dev :=
  let s1 := if s.gateOn k then s.slotDown k slWait else s
  s1.modSlot k fun c => { c with count := 0, goneAt := none }

/-- The end of a sample of 1 µs (R664, R671, R675, R686): lost feeds, a bus below sag_reset and boards that are gone have their effect.
[log: DEDUCED 234] -/
def Dev.sampleEnd (s : Dev) : Dev :=
  if s.now % tUs ≠ 0 then s
  else
    let s1 := each s.pe.lost { s with pe.lost := [] } fun s l => s.takeLoss l.1 l.2.1 l.2.2
    let s2 := if s1.pe.sagDue then { s1 with pe.sagDue := false }.takeSag else s1
    each ((tkeys s2.pe.slots).filter fun k => (s2.slot k).goneAt.isSome) s2 fun s k => s.takeGone k

/-- SLOT_SAG (R685). -/
def slotSag (k mv : Nat) (s : Dev) : Dev :=
  if k < 8 ∧ s.gateOn k ∧ mv < s.slotSagMv k ∧ ¬ (s.slot k).pfw then
    (s.modSlot k fun c => { c with pfw := true }).pin "SLOT_PFW_N" k false
  else s

def execSlotSag (k mv : Nat) (s : State) : Host.Outcome State Fault Refusal := s.actPe (slotSag k mv)

/-- SLOT_PFW_RELEASE (R685): the output has stayed at or above slot_sag + 100 mV for 1 ms. -/
def slotPfwRelease (k mv : Nat) (s : Dev) : Dev :=
  if k < 8 ∧ s.gateOn k ∧ s.slotSagMv k + 100 ≤ mv ∧ (s.slot k).pfw ∧ (s.slot k).offAt.isNone then
    (s.modSlot k fun c => { c with pfw := false }).pin "SLOT_PFW_N" k true
  else s

def execSlotPfwRelease (k mv : Nat) (s : State) : Host.Outcome State Fault Refusal := s.actPe (slotPfwRelease k mv)

/-! FAULT (R560, R566, R719) -/

/-- The device enters FAULT: its cause, a record, every port contained, every lane off and every engine halted; the action that waits
for MAINTENANCE ends (R567). [log: DEDUCED 195] -/
def Dev.enterFault (s : Dev) (cause : Nat) : Dev :=
  if s.svc.state = stFault ∨ s.svc.state = stOff then s
  else
    let s1 := (({ s with svc.cause := cause }).logError 5 evMgmt cause 0).setDevState stFault
    let s2 := each extPorts s1 fun s n => s.containPort n
    let s3 := each extPorts s2 fun s n => if s.isFabric n then (s.blEnter n blDisabled).failover n else s.linkDown n lDisabled
    each (tkeys s3.eng.runs) s3 fun s r => s.stopRun r 3

/-- The die temperatures judged against 105 °C, 100 °C and 115 °C (R719).
[log: DESIGN CHOICE 174, DEDUCED 197, DESIGN CHOICE 202] -/
def Dev.thermal (s : Dev) : Dev :=
  let hot := s.tel.dieTemp.any fun t => decide (105000 ≤ t)
  let cool := s.tel.dieTemp.all fun t => decide (t < 100000)
  let s1 := if hot && !s.tel.thermOn then ({ s with tel.thermOn := true }).pin "THERM_N" 0 false
    else if cool && s.tel.thermOn then ({ s with tel.thermOn := false }).pin "THERM_N" 0 true
    else s
  if (s.tel.dieTemp.any fun t => decide (115000 ≤ t)) && s.svc.state != stBoot then s1.enterFault 4 else s1

/-- DIE_TEMP_READING (R719, R629). [log: DESIGN CHOICE 174, DEDUCED 197] -/
def dieTempReading (die : Nat) (milliC : Int) (s : Dev) : Dev :=
  if 5 ≤ die then s
  else ({ s with tel.dieTemp := s.tel.dieTemp.set die milliC, tel.hottest := s.tel.hottest.set die (max milliC (s.tel.hottest.getD die milliC)) }).thermal

def execDieTempReading (die : Nat) (milliC : Int) (s : State) : Host.Outcome State Fault Refusal := s.act (dieTempReading die milliC)

/-- DEVICE_FAULT (R566): an uncorrectable error in the management complex's memory or an active table half, or a failed measurement. -/
def deviceFault (cause : Nat) (s : Dev) : Dev := s.enterFault cause
def execDeviceFault (cause : Nat) (s : State) : Host.Outcome State Fault Refusal := s.act (deviceFault cause)

end Sys2Proof.Machine
end

