-- ==== Sys2Proof/Machine/RegAddr.lean ====
section
/-! DEFINITION. Register addresses (R598, R729): the register and instance a block code and an offset name. -/
namespace Sys2Proof.Machine

/-- The first and last instance of the outer count that a block code shows of a register's block. -/
def blkSpan (code : Nat) (i : RegInfo) : Option (Nat × Nat) :=
  let all := some (0, i.n1)
  match i.blk with
  | .ARB => if code = 1 then all else none
  | .SCH => if code = 2 then all else none
  | .XB => if code = 3 then all else none
  | .PCI => if code = 4 then all else none
  | .LN => if code = 5 then all else none
  | .BL => if code = 6 then all else none
  | .RT => if code = 7 then all else none
  | .DL => if code = 8 then all else none
  | .CL => if code = 9 then all else none
  | .CLU => if 9 ≤ code ∧ code ≤ 12 then some (4 * (code - 9), 4) else none
  | .CL1 => if code = 10 then all else none
  | .EN => if code = 13 then all else none
  | .TM => if code = 14 then all else none
  | .SF => none

/-- The instance and the byte in the register of an offset from the register's first instance. -/
def instAt (i : RegInfo) (n1 d : Nat) : Option (Nat × Nat) :=
  let i1 := if n1 = 1 then 0 else d / i.s1
  let r := d - i1 * i.s1
  let i2 := if i.n2 = 1 then 0 else r / i.s2
  let b := r - i2 * i.s2
  if i1 < n1 ∧ i2 < i.n2 ∧ b < i.width / 8 ∧ (b = 0 ∨ b = 4) then some (i1 * i.n2 + i2, b) else none

/-- The register, its instance and the byte in it that an address names. [log: DEDUCED 24] -/
def regAt (code off : Nat) : Option (Reg × Nat × Nat) :=
  allRegs.findSome? fun r =>
    let i := regInfo r
    match blkSpan code i with
    | some (base, n) => if off < i.off then none else (instAt i n (off - i.off)).map fun p => (r, base * i.n2 + p.1, p.2)
    | none => none

/-- A 32-bit word of a register: the register whole, or its low or high word. -/
def wordOf (v byte : Nat) : Nat := v / 2 ^ (8 * byte) % 2 ^ 32

/-- A register's value with one 32-bit word replaced. -/
def withWord (old width byte w : Nat) : Nat :=
  if width ≤ 32 then w % 2 ^ width else setBitsOf old (8 * byte + 31) (8 * byte) w

/-- A value lies in a field's ranges (R13). -/
def Field.allows (f : Field) (x : Nat) : Bool := f.lims.isEmpty || f.lims.any fun l => decide (l.1 ≤ x) && decide (x ≤ l.2)

/-- One field of a write: stored where it is RW and in range, its bits cleared where RW1C and written 1 (R13, R14). -/
def Field.store (f : Field) (v new ones : Nat) : Nat :=
  match f.acc with
  | .RW | .RWS => if f.allows (bitsOf new f.hi f.lo) then setBitsOf v f.hi f.lo (bitsOf new f.hi f.lo) else v
  | .RW1C => let o := bitsOf v f.hi f.lo
             setBitsOf v f.hi f.lo (o ^^^ (o &&& bitsOf ones f.hi f.lo))
  | _ => v

/-- A register's value after a write of one of its words, field by field; the write is the low or the only word when `byte` is 0. -/
def storedWord (i : RegInfo) (old byte w : Nat) : Nat :=
  let ones := if i.width ≤ 32 then w else w * 2 ^ (8 * byte)
  i.fields.foldl (fun v f => f.store v (withWord old i.width byte w) ones) old

/-- Fields kept at their previous value. [log: DEDUCED 26] -/
def keepFields (old st : Nat) (l : List Fld) : Nat := l.foldl (fun v f => setBitsOf v f.hi f.lo (bitsOf old f.hi f.lo)) st

/-- A field of a value. -/
def valOf (v : Nat) (f : Fld) : Nat := bitsOf v f.hi f.lo

/-- The limit that ties BASE to MODE in a flow selection (R13, R136), its shadow and its working copy being of one layout. -/
def fselLimit (r : Reg) (old st : Nat) : Nat :=
  if (r = .SCH_FSEL_S ∨ r = .SCH_FSEL_W) ∧ 16376 < valOf st Fld.SCH_FSEL_S.BASE ∧ valOf st Fld.SCH_FSEL_S.MODE = 1 then
    keepFields old st [Fld.SCH_FSEL_S.BASE, Fld.SCH_FSEL_S.MODE]
  else st

end Sys2Proof.Machine
end

