-- ==== Sys2Proof/Machine/Routing.lean ====
section
/-! DEFINITION. Discovery and routing commands (R340 to R386): neighbour notices, directed packets, held window writes, the bus map,
hands and their audit, the staging check; and the fabric timeout of requests (R393, R397), lock-broken notices (R406). -/
namespace Sys2Proof.Machine

/-! Neighbour notices -/

/-- The neighbour record of a port (R345): all zero at a port that is not a fabric port. [log: DEDUCED 76] -/
def Dev.nbrRecord (s : Dev) (n : Nat) : List Byte :=
  if ¬ s.isFabric n then List.replicate 24 0
  else leBytes 8 (s.fget Fld.RT_NBR_SERIAL.SERIAL n) ++ leBytes 2 (s.fget Fld.RT_NBR_ADDR.FSID n) ++ leBytes 1 (s.fget Fld.RT_NBR_ADDR.PORT n)
    ++ leBytes 1 (s.fget Fld.RT_NBR_LINK.RATE n) ++ leBytes 1 (s.fget Fld.RT_NBR_LINK.WIDTH n) ++ leBytes 1 (s.fget Fld.RT_NBR_LINK.MODE n)
    ++ leBytes 2 (s.fget Fld.RT_NBR_DEV.DEVICE n) ++ leBytes 1 (s.fget Fld.RT_NBR_LINK.STATE n) ++ List.replicate 7 0

/-- NEIGHBOUR_NOTICE_SEND (R341, R342): the oldest notice of a port leaves for the active dealer. [log: DEDUCED 73] -/
def neighbourNoticeSend (port : Nat) (s : Dev) : Dev :=
  match s.rt.nbrPend.find? fun p => p.1 == port with
  | none => s
  | some (n, ev, reason, time) =>
    if ¬ s.joined then s
    else
      let b := [(0x05 : Byte), BitVec.ofNat 8 ev, 0, 0, BitVec.ofNat 8 n, BitVec.ofNat 8 (if ev = 3 then reason else 0)] ++ leBytes 2 s.fsid
        ++ leBytes 8 time ++ s.nbrRecord n
      ({ s with rt.nbrPend := s.rt.nbrPend.erase (n, ev, reason, time) }).toDealer b

def execNeighbourNoticeSend (port : Nat) (s : State) : Host.Outcome State Fault Refusal := s.act (neighbourNoticeSend port)

/-! Directed packets (R344 to R346) -/

/-- The bytes of a list from one place on, with one byte replaced. -/
def setByteAt (l : List Byte) (i x : Nat) : List Byte := l.set i (BitVec.ofNat 8 x)

/-- The packet after this hop: RPATH and IDX written; none where it is discarded for its HOPS or IDX (R344). -/
def directedHop (port : Nat) (b : List Byte) : Option (List Byte) :=
  let hops := byteN b 1
  let idx := byteN b 2
  if b.length < 40 ∨ hops = 0 ∨ 16 < hops ∨ hops ≤ idx then none
  else some (setByteAt (setByteAt b (24 + idx) port) 2 (idx + 1))

/-- A directed packet leaves through a port, or is discarded where that port is not ACTIVE. -/
def Dev.directedOut (s : Dev) (port : Nat) (b : List Byte) : Dev :=
  if s.blActive port then s.emit (.toPort port b) else s.count .RT_DIR_DROP 0 1

/-- The reply to a directed packet that has arrived: the path reversed, the same HOPS and TAG (R344). -/
def directedReply (b : List Byte) (kind : Nat) (content : List Byte) : List Byte :=
  let hops := byteN b 1
  [BitVec.ofNat 8 kind, BitVec.ofNat 8 hops, 0, 0] ++ (b.drop 4).take 4
    ++ ((List.range 16).map fun i => if i < hops then BitVec.ofNat 8 (byteN b (24 + (hops - 1 - i))) else (0 : Byte))
    ++ List.replicate 16 0 ++ content

def Dev.sendReply (s : Dev) (b : List Byte) (kind : Nat) (content : List Byte) : Dev :=
  let r := directedReply b kind content
  s.directedOut (byteN r 8) r

/-- A directed packet of a KIND that ends here: what it does at its destination; anything else is discarded and counted.
[log: DEDUCED 79] -/
def Dev.directedEnd (s : Dev) (port kind : Nat) (b : List Byte) (f : Dev → List Byte → Dev) : Dev :=
  if ¬ s.isFabric port then s
  else match directedHop port b with
    | none => s.count .RT_DIR_DROP 0 1
    | some c => if byteN c 0 = kind ∧ byteN c 2 = byteN c 1 then f s c else s

/-- The KINDs of directed packets (R344); any other is discarded. -/
def directedKind (k : Nat) : Bool := [1, 2, 3, 8, 9, 0x0A, 0x0B].contains k

/-- DIRECTED_PACKET_RELAY (R344): a packet for a switch further on leaves through the port its path names. -/
def directedPacketRelay (port : Nat) (b : List Byte) (s : Dev) : Dev :=
  if ¬ s.isFabric port then s
  else match directedHop port b with
    | none => s.count .RT_DIR_DROP 0 1
    | some c => if byteN c 2 < byteN c 1 ∧ directedKind (byteN c 0) then s.directedOut (byteN c (8 + byteN c 2)) c else s

def execDirectedPacketRelay (port : Nat) (b : List Byte) (s : State) : Host.Outcome State Fault Refusal := s.act (directedPacketRelay port b)

/-- NEIGHBOUR_QUERY (R345): answered with this switch's identity, its request, and its 48 records. [log: DEDUCED 76] -/
def neighbourQuery (port : Nat) (b : List Byte) (s : Dev) : Dev :=
  s.directedEnd port 1 b fun s c =>
    s.sendReply c 2 (leBytes 8 s.serial ++ leBytes 2 (if s.joined then s.fsid else 0xFFFF) ++ leBytes 2 (s.onum 0x7000 1 0xFFFF)
      ++ leBytes 4 0 ++ extPorts.flatMap s.nbrRecord)

def execNeighbourQuery (port : Nat) (b : List Byte) (s : State) : Host.Outcome State Fault Refusal := s.act (neighbourQuery port b)

/-- A directed reply that ends here: kept where it carries a TAG of directed_send, given to this switch's own dealer while it is
one, discarded otherwise (R346). [log: DEDUCED 79, DEDUCED 108] -/
def Dev.keepReply (s : Dev) (c : List Byte) : Dev :=
  let tag := leNat ((c.drop 4).take 4)
  if s.rt.tags.contains tag then
    let l := s.rt.replies ++ [c]
    ({ s with rt.replies := l.drop (l.length - 64) }).notice 1 0xFFFF s.ftime (leBytes 4 tag ++ leBytes 2 c.length)
  else if s.onum 0x7100 1 0 = 1 ∨ s.onum 0x7100 1 0 = 2 then s.emit (.deliver 52 none (.ctl c))
  else s.count .RT_DIR_DROP 0 1

/-- NEIGHBOUR_REPLY (R346): a neighbour reply ends here. -/
def neighbourReply (port : Nat) (b : List Byte) (s : Dev) : Dev := s.directedEnd port 2 b fun s c => s.keepReply c
def execNeighbourReply (port : Nat) (b : List Byte) (s : State) : Host.Outcome State Fault Refusal := s.act (neighbourReply port b)

/-- DIRECTED_MW_RESPONSE (R346): a management-window response over a directed path ends here. [log: DESIGN CHOICE 37] -/
def directedMwResponse (port : Nat) (b : List Byte) (s : Dev) : Dev := s.directedEnd port 9 b fun s c => s.keepReply c
def execDirectedMwResponse (port : Nat) (b : List Byte) (s : State) : Host.Outcome State Fault Refusal := s.act (directedMwResponse port b)

/-- DIRECTED_UP_TREE (R346): an up message over a directed path ends here. -/
def directedUpTree (port : Nat) (b : List Byte) (s : Dev) : Dev := s.directedEnd port 0x0B b fun s c => s.keepReply c
def execDirectedUpTree (port : Nat) (b : List Byte) (s : State) : Host.Outcome State Fault Refusal := s.act (directedUpTree port b)

/-- The classes at the two ends of a link that R351 asks for: UP with DOWN, or LATERAL at both. [log: DEDUCED 77] -/
def classPair (a b : Nat) : Bool := (a == 1 && b == 2) || (a == 2 && b == 1) || (a == 3 && b == 3)

/-- CLASS_CHECK (R352): the partner's class of a link compared with this switch's. [log: DEDUCED 77] -/
def classCheck (port : Nat) (b : List Byte) (s : Dev) : Dev :=
  s.directedEnd port 3 b fun s c =>
    if classPair (byteN c 40 % 4) (s.turnClass s.ap port) then s
    else (s.fsets 0 [(Fld.RT_STAT.CLASSMIS, 1), (Fld.RT_STAT.CM_PORT, port)]).raise evControl

def execClassCheck (port : Nat) (b : List Byte) (s : State) : Host.Outcome State Fault Refusal := s.act (classCheck port b)

/-- The one-hop class checks that follow an apply instant (R352). [log: DEDUCED 77, DESIGN CHOICE 78] -/
def Dev.sendClassChecks (s : Dev) : Dev :=
  each (extPorts.filter s.blActive) s fun s n =>
    let (x, s1) := s.freeNat
    s1.emit (.toPort n ([(0x03 : Byte), 1, 0, 0] ++ leBytes 4 x ++ [BitVec.ofNat 8 n] ++ List.replicate 31 0 ++ [BitVec.ofNat 8 (s.turnClass s.ap n)]
      ++ List.replicate 7 0))

/-! Windows of vDSPs (R362, R363) -/

/-- A write of a routing register of a vDSP, as PCI Express stores it. -/
def PortFn.setWin (f : PortFn) (r : VdspWinReg) (v : Nat) : PortFn :=
  match r with
  | .memBase => { f with memBase := v % 65536 / 16 * 16 }
  | .memLimit => { f with memLimit := v % 65536 / 16 * 16 }
  | .pfBase => { f with pfBase := v % 65536 / 16 * 16 + 1 }
  | .pfLimit => { f with pfLimit := v % 65536 / 16 * 16 + 1 }
  | .pfBaseHi => { f with pfBaseHi := v % 2 ^ 32 }
  | .pfLimitHi => { f with pfLimitHi := v % 2 ^ 32 }

/-- The window notice of a vDSP's routing registers as they stand (R363). -/
def Dev.windowNotice (s : Dev) (vs n no : Nat) : List Byte :=
  let f := s.pfn vs n
  [(0x06 : Byte), 0] ++ leBytes 2 no ++ [BitVec.ofNat 8 (vs % 64), BitVec.ofNat 8 n] ++ leBytes 2 s.fsid
    ++ leBytes 8 (f.memBase / 16 * 2 ^ 20) ++ leBytes 8 (f.memLimit / 16 * 2 ^ 20 + 0xFFFFF)
    ++ leBytes 8 (f.pfBaseHi * 2 ^ 32 + f.pfBase / 16 * 2 ^ 20) ++ leBytes 8 (f.pfLimitHi * 2 ^ 32 + f.pfLimit / 16 * 2 ^ 20 + 0xFFFFF)

/-- A window notice of a vDSP leaves, with the next number. -/
def Dev.sendWindowNotice (s : Dev) (vs n : Nat) : Dev :=
  let no := (s.rt.noticeNo + 1) % 65536
  ({ s with rt.noticeNo := no }).toDealer (s.windowNotice vs n no)

/-- VDSP_WINDOW_REGISTER_WRITE (R362): the host's write of a vDSP's routing register: the dealer is told, the write held.
[log: DEDUCED 80] -/
def vdspWindowRegisterWrite (vs n : Nat) (r : VdspWinReg) (v : Nat) (s : Dev) : Dev :=
  if ¬ s.vdspExists vs n then s
  else
    let s1 := (s.modPfn vs n fun f => f.setWin r v).sendWindowNotice vs n
    { s1 with rt.holds := s1.rt.holds ++ [{ vs := vs, n := n, notice := s1.rt.noticeNo, deadline := s.now + tMs }] }

def execVdspWindowRegisterWrite (vs n : Nat) (r : VdspWinReg) (v : Nat) (s : State) : Host.Outcome State Fault Refusal :=
  s.act (vdspWindowRegisterWrite vs n r v)

/-- A held write completes toward its host. [log: DEDUCED 80] -/
def Dev.holdEnd (s : Dev) (h : WinHold) : Dev :=
  let s1 := { s with rt.holds := s.rt.holds.erase h }
  match h.cpl with
  | some (rid, tag) => s1.emit (.cpl h.vs rid tag 0 0)
  | none => s1

/-- The held writes that an apply instant completes: the now-active half reflects their notices (R362). [log: DEDUCED 80] -/
def Dev.releaseHolds (s : Dev) : Dev :=
  each (s.rt.holds.filter fun h => decide ((s.noticeAck s.ap + 65536 - h.notice) % 65536 ≤ 32767)) s fun s h => s.holdEnd h

/-- WINDOW_HOLD_TIMEOUT (R362): 1 ms has passed without such an apply instant. [log: DEDUCED 80] -/
def windowHoldTimeout (vs n : Nat) (s : Dev) : Dev :=
  match s.rt.holds.find? fun h => h.vs == vs && h.n == n && decide (h.deadline ≤ s.now) with
  | none => s
  | some h => ((s.holdEnd h).fset Fld.RT_STAT.HOLDTO 0 1).raise evControl

def execWindowHoldTimeout (vs n : Nat) (s : State) : Host.Outcome State Fault Refusal := s.act (windowHoldTimeout vs n)

/-! The bus map (R366, R367) -/

/-- The code of a bus of a VS at its host-port switch: the USP's own bus, the internal bus, a VF bus, a bus below a vDSP, or
upstream. -/
def Dev.busCodeNow (s : Dev) (vs bus : Nat) : Nat :=
  let u := s.pfn vs uspNo
  let p := s.sfn vs 0
  let vfs := if p.sriov.testBit 0 then p.numVfs else 0
  let first := u.pri * 256 + 1 + 255
  let vf := decide (vfs ≠ 0) && decide (first / 256 ≤ bus) && decide (bus ≤ (first + vfs - 1) / 256) && bus != u.pri
  if bus = u.pri then 257
  else if bus = u.sec ∧ u.sec ≠ 0 then 258
  else if vf then 259
  else match (List.range (s.fget Fld.PCI_VS_CFG.NDSP vs)).find? fun n =>
      let f := s.pfn vs n
      f.sec != 0 && decide (f.sec ≤ bus) && decide (bus ≤ f.sub) with
    | some n => n
    | none => 256

/-- The other switches that hold a binding of a VS in a half. -/
def Dev.farSwitches (s : Dev) (p vs : Nat) : List Nat :=
  (((s.bindings p).filter fun b => b.vs == vs && gpaFsid b.dgpa != s.fsid).map fun b => gpaFsid b.dgpa).eraseDups

/-- The map of a VS put in force; the map that this core cycle began with is kept for the TLPs decoded in it.
[log: DEDUCED 54] -/
def Dev.putBusMap (s : Dev) (vs : Nat) (codes : List Nat) : Dev :=
  let old := match s.rt.busOld with
    | some (c, t) => if c = s.cycle then t else s.rt.busMap
    | none => s.rt.busMap
  { s with rt.busOld := some (s.cycle, old),
           rt.busMap := (codes.zip (List.range 256)).foldl (fun t e => tput 256 t (vs * 256 + e.2) e.1) s.rt.busMap }

/-- The bus map of a VS follows its inputs (R366); a change goes to every switch that holds a binding of the VS (R367).
[log: DEDUCED 23, DEDUCED 54] -/
def Dev.syncBusMap (s : Dev) (vs : Nat) : Dev :=
  let codes := (List.range 256).map (s.busCodeNow vs)
  if (List.range 256).map (s.busCode vs) = codes then s
  else
    let far := s.farSwitches s.ap vs
    let s1 := each far (s.putBusMap vs codes) fun s f => s.emit (.busMap f vs codes)
    if far.isEmpty then s1 else { s1 with rt.busWait := s1.rt.busWait ++ [{ vs := vs, left := far }] }

/-- A configuration write completes; one that has changed the bus map, where `waits` changes waited before it, completes when the last
copy of its own is acknowledged (R367). [log: DEDUCED 54] -/
def Dev.cfgDone (s : Dev) (waits vs reqId tag : Nat) : Dev :=
  match s.rt.busWait.drop waits with
  | [] => s.emit (.cpl vs reqId tag 0 0)
  | l => { s with rt.busWait := s.rt.busWait.take waits ++ (l.dropLast ++ (l.drop (l.length - 1)).map fun w => { w with cpl := some (reqId, tag) }) }

/-- A switch has acknowledged its copy of the map of a VS. [log: DEDUCED 54] -/
def Dev.busAcked (s : Dev) (vs fsid : Nat) : Dev :=
  match s.rt.busWait.find? fun w => w.vs == vs && w.left.contains fsid with
  | none => s
  | some w =>
    let w1 := { w with left := w.left.filter (· != fsid) }
    if ¬ w1.left.isEmpty then { s with rt.busWait := s.rt.busWait.map fun x => if x = w then w1 else x }
    else
      let s1 := { s with rt.busWait := s.rt.busWait.erase w }
      match w.cpl with
      | some (r, t) => s1.emit (.cpl vs r t 0 0)
      | none => s1

/-- BUS_MAP_UPDATE (R367): the host-port switch's map follows a configuration write; at a switch that holds a binding of the VS the
copy follows and is acknowledged; an acknowledgement comes back. [log: DEDUCED 54] -/
def busMapUpdate (vs : Nat) (part : BusMapPart) (s : Dev) : Dev :=
  match part with
  | .here => if s.vsExists vs then s.syncBusMap vs else s
  | .copy codes => if s.vsExists vs ∨ (s.bindVs s.ap vs).isNone then s else (s.putBusMap vs codes).emit (.busAck vs)
  | .ack f => if s.vsExists vs then s.busAcked vs f else s

def execBusMapUpdate (m : BusMapMsg) (s : State) : Host.Outcome State Fault Refusal := s.act (busMapUpdate m.vs m.part)

/-! Hands (R374 to R380) -/

/-- HAND_RETURN_SEND (R374 to R376): the tokens owed to switch `f` for destination `d` are returned. -/
def handReturnSend (f d : Nat) (s : Dev) : Dev :=
  let o := tget {} s.rt.owed (f * 2048 + d)
  if o.c0 + o.c1 = 0 ∨ (o.c0 + o.c1 < s.fget Fld.RT_HAND_CFG.RET_BATCH 0 ∧ s.now < o.since + s.fget Fld.RT_HAND_CFG.RET_WAIT 0 * tQuarter) then s
  else
    let a := min 255 o.c0
    let b := min 255 o.c1
    let s1 := { s with rt.owed := tput {} s.rt.owed (f * 2048 + d) { c0 := o.c0 - a, c1 := o.c1 - b, since := if o.c0 - a + (o.c1 - b) = 0 then 0 else s.now } }
    s1.ctlPacket (f * 64 + 52) ([(0x04 : Byte), 0] ++ leBytes 2 (d % 2048) ++ [BitVec.ofNat 8 a, BitVec.ofNat 8 b, 0, 0])

def execHandReturnSend (f d : Nat) (s : State) : Host.Outcome State Fault Refusal := s.act (handReturnSend f d)

/-- HAND_RETURN_RECEIVE (R377): counts returned by destination `f`; an excess is discarded. -/
def handReturnReceive (f count0 count1 : Nat) (s : Dev) : Dev :=
  if 2048 ≤ f then s
  else s.fsets f [(Fld.RT_HAND_HOLD.OUT_P0, s.fget Fld.RT_HAND_HOLD.OUT_P0 f - count0), (Fld.RT_HAND_HOLD.OUT_P1, s.fget Fld.RT_HAND_HOLD.OUT_P1 f - count1)]

def execHandReturnReceive (f count0 count1 : Nat) (s : State) : Host.Outcome State Fault Refusal := s.act (handReturnReceive f count0 count1)

/-- HAND_AUDIT (R380): one fabric timeout after the drain of an old epoch is confirmed, tokens of its parity still out are
reclaimed. -/
def handAudit (s : Dev) : Dev :=
  match s.rt.auditAt with
  | none => s
  | some (t, par) =>
    if s.now < t then s
    else
      each ((List.range 2048).filter fun f => s.fget (handFld par) f != 0) { s with rt.auditAt := none } fun s f =>
        let n := s.fget (handFld par) f
        (((s.count .RT_LEAK_CNT 0 n).fset Fld.RT_STAT.LEAK 0 1).raise evControl).fsets f [(handFld par, 0), (Fld.RT_HAND_HOLD.DOUBT, 0)]

def execHandAudit (s : State) : Host.Outcome State Fault Refusal := s.act handAudit

/-! The staging check (R385, R386) -/

/-- The staged half: the half of the parity that is not active. -/
def Dev.staged (s : Dev) : Nat := (s.ap + 1) % 2

/-- The route entries with VALID 1 of a half, with their next hops. -/
def Dev.routes (s : Dev) (p : Nat) : List (Nat × List NextHop) :=
  (listedEntries (s.half p) offRoute 8 2048).filterMap fun f => if (s.route p f).1 then some (f, (s.route p f).2) else none

/-- The defined trunks of a half. -/
def Dev.trunks (s : Dev) (p : Nat) : List Nat := (List.range 24).filter fun t => trunkValid (s.trunkWord p t)

/-- The class of a next hop under a half: its port's, or its trunk's. -/
def Dev.hopClass (s : Dev) (p : Nat) (h : NextHop) : Nat :=
  if h.trunk then (match trunkMembers (s.trunkWord p h.num) with
    | m :: _ => s.turnClass p m.2
    | [] => 0)
  else s.turnClass p h.num

def Dev.badHop (s : Dev) (p : Nat) (h : NextHop) : Bool :=
  if h.trunk then !(s.trunks p).contains h.num else !s.isFabric h.num

/-- Some ingress class of FROM takes a forbidden turn. -/
def Dev.badTurn (s : Dev) (p : Nat) (h : NextHop) : Bool :=
  (List.range 4).any fun c => h.from_.testBit c && turnForbidden (s.turn p) c (s.hopClass p h)

/-- A trunk breaks the rules of the check. -/
def Dev.badTrunk (s : Dev) (p t : Nat) : Bool :=
  let ports := (trunkMembers (s.trunkWord p t)).map (·.2)
  let others := ((s.trunks p).filter (· != t)).flatMap fun u => (trunkMembers (s.trunkWord p u)).map (·.2)
  decide (ports.length < 2) || ports.any (fun n => !s.isFabric n || others.contains n) || ports.eraseDups.length != ports.length ||
    ports.any fun n => s.turnClass p n != s.turnClass p (ports.headD 0)

/-- The indices of the valid windows and bindings of a half. -/
def Dev.windowIdx (s : Dev) (p : Nat) : List Nat := (listedEntries (s.half p) offWin 32 16384).filter fun i => (s.window p i).valid
def Dev.bindIdx (s : Dev) (p : Nat) : List Nat := (listedEntries (s.half p) offBind 16 4096).filter fun i => (s.binding p i).valid

/-- A window that is empty, overlaps an earlier one of its VS, or is a second default. -/
def Dev.badWindow (s : Dev) (p i : Nat) : Bool :=
  let w := s.window p i
  let before := ((s.windowIdx p).filter fun j => decide (j < i)).map (s.window p)
  decide (w.limit < w.base) || before.any fun x => x.vs == w.vs && x.dflt == w.dflt && (w.dflt || (decide (x.base ≤ w.limit) && decide (w.base ≤ x.limit)))

def badGpa (g : Nat) : Bool := decide (53 ≤ gpaPort g)

/-- The shadow registers of the ports' gate lists (R154). -/
def gateShadow (r : Reg) : Bool := r == .SCH_PORT_S || r == .SCH_GATE_BASE_S || r == .SCH_GATE_SWT_S || r == .SCH_GATE_ENT_S

/-- The port whose gate list a register's instance belongs to. [log: DEDUCED 92] -/
def gatePortOf (r : Reg) (inst : Nat) : Option Nat :=
  if r = .SCH_GATE_ENT_S then some (inst / 256) else if gateShadow r then some inst else none

/-- Whether a write of a shadow register's word arms the gate list of its port (R154): of its base, switch-over time or entries in any
case, of SCH_PORT_S where it changes GEN or LEN. -/
def Dev.armsGate (s : Dev) (r : Reg) (inst new : Nat) : Bool :=
  if r = .SCH_PORT_S then
    bitsOf new Fld.SCH_PORT_S.GEN.hi Fld.SCH_PORT_S.GEN.lo != s.fget Fld.SCH_PORT_S.GEN inst ||
      bitsOf new Fld.SCH_PORT_S.LEN.hi Fld.SCH_PORT_S.LEN.lo != s.fget Fld.SCH_PORT_S.LEN inst
  else gateShadow r

/-- Whether an address names a shadow register of the ARB_ or SCH_ block (R728). -/
def isShadow (addr : Nat) : Bool :=
  match regAt (addr / 2 ^ 24) (addr % 2 ^ 24) with
  | some (r, _, _) => shadowPairs.any (fun p => p.1 == r) || gateShadow r
  | none => false

/-- The first failure of the deal parameters under code 0x0B. -/
def Dev.badDealList (s : Dev) (p : Nat) : Option Nat :=
  let n := s.dealCount p
  let resv := ((List.range 51).any fun i => s.dealWord p (0x34 + 4 * i) != 0) || s.dealWord p 0x104 != 0
  if 49119 < n ∨ resv then some 0 else (List.range n).find? fun i => !isShadow (s.dealEntry p i).1

/-- The result of a check of the staged half: the first failure, in the order of the codes (R385). [log: DEDUCED 82] -/
def Dev.stageCheck (s : Dev) : Nat × Nat :=
  let p := s.staged
  let rs := s.routes p
  let code : Nat → Option Nat → Option (Nat × Nat) := fun c i => i.map fun x => (c, x)
  (((code 1 ((rs.find? fun r => r.2.any (s.badHop p)).map (·.1))).or
    (code 2 ((rs.find? fun r => r.2.any (s.badTurn p)).map (·.1)))).or
   ((code 3 ((s.trunks p).find? (s.badTrunk p))).or
    ((code 4 ((s.windowIdx p).find? (s.badWindow p))).or
     ((code 5 (((s.windowIdx p).find? fun i => badGpa (s.window p i).dgpa).or
        ((s.bindIdx p).find? fun i => badGpa (s.binding p i).dgpa || badGpa (s.binding p i).hgpa))).or
      ((code 6 ((s.bindIdx p).find? fun i => (s.bindIdx p).any fun j => decide (j < i) && (s.binding p j).dgpa == (s.binding p i).dgpa)).or
       ((if 1024 < ((s.handFsids p).filter fun f => s.handGrant p f != 0).length then some (7, 0) else none).or
        ((if s.poolUnder s.grantMax s.shelfMax < 8192 then some (8, 0) else none).or
         ((code 9 ((s.trunks p).find? fun t => (List.range 64).any fun j =>
            !((trunkMembers (s.trunkWord p t)).any fun m => m.1 == trunkBucket (s.trunkWord p t) j))).or
          ((if s.joined ∧ s.dealFsv p ∧ s.dealFsid p ≠ s.fsid then some (10, 0) else none).or
           (code 11 (s.badDealList p))))))))))).getD (0, 0)

/-- STAGING_CHECK_START (R385, R386): a write of 1 to START. [log: DEDUCED 82] -/
def stagingCheckStart (s : Dev) : Dev :=
  { s.fsets 0 [(Fld.RT_STAGE_STAT.BUSY, 1), (Fld.RT_STAGE_STAT.DONE, 0), (Fld.RT_STAGE_STAT.STALE, 0)] with rt.chkAt := some s.now }

def execStagingCheckStart (s : State) : Host.Outcome State Fault Refusal := s.act stagingCheckStart

/-- STAGING_CHECK_DONE (R385): the running check ends with its result. [log: DEDUCED 83] -/
def stagingCheckDone (s : Dev) : Dev :=
  match s.rt.chkAt with
  | none => s
  | some _ =>
    let (c, i) := s.stageCheck
    { s.fsets 0 [(Fld.RT_STAGE_STAT.BUSY, 0), (Fld.RT_STAGE_STAT.DONE, 1), (Fld.RT_STAGE_STAT.CODE, c), (Fld.RT_STAGE_STAT.INDEX, i)] with
      rt.chkAt := none }

def execStagingCheckDone (s : State) : Host.Outcome State Fault Refusal := s.act stagingCheckDone

/-! Fabric timeouts (R393, R397) and broken locks (R406) -/

/-- A pair placed in quarantine; with 4,096 held, the pair nearest its end is released early (R397). [log: DESIGN CHOICE 84] -/
def Dev.quarantine (s : Dev) (q : Quar) : Dev :=
  if s.xing.quar.length < 4096 then { s with xing.quar := s.xing.quar ++ [q] }
  else
    let l := s.xing.quar
    let near := l.foldl (fun m x => if x.till < m.till then x else m) (l.headD q)
    ({ s with xing.quar := l.erase near ++ [q] }).count .XB_QREL_CNT 0 1

/-- The synthesized completion of an outstanding request reaches its requester here (R393, R395). -/
def Dev.failReq (s : Dev) (r : Req) : Dev :=
  let (x, s1) := s.freeNat
  let t : Tlp := { kind := if r.locked then .memRdLk else .memRd, reqId := r.reqId, tag := r.tag, addr := r.addr, bytes := r.bytes }
  let c := cplFor t (s.synthStatus r.par r.vs r.dgpa) (x % 65536) r.left
  if r.port < 48 then s1.emit (.tlp r.port c) else s1.emit (.deliver r.port none (.tlp c))

/-- A completion of a request has arrived and waits for its lookup. -/
def Dev.cplHere (s : Dev) (r : Req) : Bool :=
  s.fwd.pkts.any fun e => e.2.stage == .decoded && e.2.typ == .completion && e.2.arrEnv.isSome &&
    (e.2.tlp?).any fun t => t.reqId == r.reqId && t.tag == r.tag

/-- FABRIC_TIMEOUT (R393): the fabric timeout of a request expires; what follows is done as the next core cycle begins, since a completion
whose first flit arrives in this one is accepted in its place. [log: DEDUCED 228] -/
def fabricTimeout (reqId tag : Nat) (s : Dev) : Dev :=
  match s.findReq reqId tag with
  | none => s
  | some r =>
    if s.now < r.deadline then s
    else { s with xing.reqs := s.xing.reqs.map fun q =>
      if q.reqId == reqId && q.tag == tag && q.expAt.isNone then { q with expAt := some s.cycle } else q }

/-- What the expiry of a request's fabric timeout does (R379, R393). -/
def Dev.reqExpires (s : Dev) (r : Req) : Dev :=
  let s1 := ((s.failReq r).count .XB_SYNTH_CNT 0 1).endReq r
  let d := gpaFsid r.dgpa
  let s2 := if r.tok then s1.fset Fld.RT_HAND_HOLD.DOUBT d (min 255 (s.fget Fld.RT_HAND_HOLD.DOUBT d + 1)) else s1
  let s3 := if r.locked ∧ tfind s2.xing.lockRead r.vs = some (r.reqId, r.tag) then s2.fset Fld.XB_LOCK.HELD r.vs 0 else s2
  s3.quarantine { reqId := r.reqId, tag := r.tag, till := s.now + 4 * r.fto * tUs }

/-- The expiries of the core cycle that ended, but for requests of which a completion has come (R393). [log: DEDUCED 228] -/
def Dev.reqCycle (s : Dev) : Dev :=
  each (s.xing.reqs.filter fun r => r.expAt.any fun c => decide (c < s.cycle)) s fun s r =>
    if s.cplHere r then { s with xing.reqs := s.xing.reqs.map fun q => if q = r then { q with expAt := none } else q } else s.reqExpires r

def execFabricTimeout (reqId tag : Nat) (s : State) : Host.Outcome State Fault Refusal := s.act (fabricTimeout reqId tag)

/-- FABRIC_QUARANTINE_END (R393, R397): four fabric timeouts have passed. -/
def fabricQuarantineEnd (reqId tag : Nat) (s : Dev) : Dev :=
  { s with xing.quar := s.xing.quar.filter fun q => !(q.reqId == reqId && q.tag == tag && decide (q.till ≤ s.now)) }

def execFabricQuarantineEnd (reqId tag : Nat) (s : State) : Host.Outcome State Fault Refusal := s.act (fabricQuarantineEnd reqId tag)

/-- LOCK_BROKEN_NOTICE (R406): the host port's switch learns of a broken lock. -/
def lockBrokenNotice (vs : Nat) (s : Dev) : Dev :=
  if ¬ s.vsExists vs ∨ ¬ s.lockHeld vs then s
  else (s.fset Fld.XB_LOCK.BROKEN vs 1).count .XB_LOCK_BRK_CNT 0 1

def execLockBrokenNotice (vs : Nat) (s : State) : Host.Outcome State Fault Refusal := s.act (lockBrokenNotice vs)

end Sys2Proof.Machine
end

