-- ==== Sys2Proof/Machine/Flags.lean ====
section
/-! DEFINITION. Exact accumulation and its flags (R476 to R481): contributions, partials, the rounded result with NAN, INF,
RANGE and HEADROOM as completion records report them. -/
namespace Sys2Proof.Machine

/-- The exponent of an accumulator's least significant bit: BF16 and FP32 2^-149, FP64 2^-1074, integers 1 (R476). -/
def accLsb (t : Nat) : Int := if t = 4 then -1074 else if typInt t then 0 else -149

/-- The most additions an accumulator accepts (R477). -/
abbrev accMax : Nat := 4294967295

/-- One contribution added to an accumulator, its flags and its count (R476 to R478). -/
def AccV.add (a : AccV) (t x : Nat) : AccV :=
  let b := { a with n := min (accMax + 1) (a.n + 1) }
  if typInt t then { b with sum := b.sum + signedOf (typWidth t) x, nz := false }
  else match fdecode t x with
    | .nan => { b with nan := true, nz := false }
    | .inf true => { b with ninf := true, nz := false }
    | .inf false => { b with pinf := true, nz := false }
    | .zero true => b
    | .zero false => { b with nz := false }
    | .fin m e => { b with sum := b.sum + m * Int.ofNat (2 ^ (e - accLsb t).toNat), nz := false }

/-- Two partials combined (R478). -/
def AccV.join (a b : AccV) : AccV :=
  { sum := a.sum + b.sum, n := min (accMax + 1) (a.n + b.n), nan := a.nan || b.nan, pinf := a.pinf || b.pinf,
    ninf := a.ninf || b.ninf, nz := a.nz && b.nz }

/-- HEADROOM of an accumulator (R477). -/
def AccV.headroom (a : AccV) : Bool := decide (accMax < a.n)

/-- The flags of a completion record: bit 0 NAN, 1 INF, 2 RANGE, 3 HEADROOM (R511, R515). -/
def flagNan : Nat := 1
def flagInf : Nat := 2
def flagRange : Nat := 4
def flagHeadroom : Nat := 8

/-- An integer accumulator's result: saturated at the type's range with RANGE (R480); with HEADROOM the spec states none. -/
def intResult (t : Nat) (a : AccV) : Nat × Nat :=
  let w := typWidth t
  let hi : Int := Int.ofNat (2 ^ (w - 1)) - 1
  let lo : Int := -Int.ofNat (2 ^ (w - 1))
  if a.headroom then (Config.intHeadroom t a.n % 2 ^ w, flagHeadroom)
  else if hi < a.sum then (unsignedOf w hi, flagRange)
  else if a.sum < lo then (unsignedOf w lo, flagRange)
  else (unsignedOf w a.sum, 0)

/-- A floating-point accumulator's result by a rounding mode, in the order of the table of R479. -/
def fltResult (t mode : Nat) (a : AccV) : Nat × Nat :=
  if a.headroom then (fnan t, flagHeadroom + flagNan)
  else if a.nan ∨ (a.pinf ∧ a.ninf) then (fnan t, flagNan)
  else if a.pinf then (finf t false, flagInf)
  else if a.ninf then (finf t true, flagInf)
  else if a.sum = 0 then (if a.nz then signBit t true else if mode = 3 then signBit t true else 0, 0)
  else
    let r := fround t mode a.sum (accLsb t)
    (r, if r = finf t false ∨ r = finf t true then flagInf else 0)

/-- The result of an accumulator and its flags. -/
def AccV.result (a : AccV) (t mode : Nat) : Nat × Nat := if typInt t then intResult t a else fltResult t mode a

/-- MIN and MAX of a collective (R481): exact values, −0 below +0, the canonical NaN where an input is NaN. -/
def collPick (hi : Bool) (t x y : Nat) : Nat :=
  if isNan t x || isNan t y then fnan t
  else if hi then (if torder t x < torder t y then y else x)
  else (if torder t y < torder t x then y else x)

end Sys2Proof.Machine
end

