-- ==== Sys2Proof/Machine/EngMem.lean ====
section
/-! DEFINITION. The issue of engine operations (R496, R520), and memory accesses of engines: loads, stores, atomics, copies and
fills, prefetches, their completion and visibility (R498 to R501, R521 to R529, R543 to R548). -/
namespace Sys2Proof.Machine

/-! Issue -/

/-- The fault address of a fault that has none: the spec states no value (R505). [log: DESIGN CHOICE 124] -/
def Dev.engFaultOpen (s : Dev) (e code : Nat) : Dev :=
  let (x, s1) := s.freeNat
  s1.engFault e code (x % mask64)

/-- An engine can issue its next operation: it runs, holds no device load, and waits for no barrier, WAIT or flush.
[log: DEDUCED 118] -/
def Dev.canIssue (s : Dev) (e : Nat) : Bool :=
  let x := s.en e
  (s.runOf e).isSome && s.enState e == enRun && x.hold.isNone && x.wait.isNone && x.bar.isNone && !x.ended && !s.flushing e

/-- The registers that outstanding accesses still have to write. -/
def AccKind.gs : AccKind → List Nat
  | .load d _ _ => [d]
  | .pair d => [d, d + 1]
  | .atomic op d _ _ => if op = 0x15 then [d, d + 1] else [d]
  | _ => []
def AccKind.vs : AccKind → List Nat
  | .vec d => [d]
  | _ => []
def AccKind.isPrefetch : AccKind → Bool
  | .prefetch => true
  | _ => false
def AccKind.writes : AccKind → Bool
  | .atomic _ _ _ _ => true
  | .copy _ _ => true
  | .fill _ => true
  | _ => false
/-- [log: DEDUCED 118] -/
def Eng.regsFree (x : Eng) (gs vs : List Nat) : Bool :=
  x.acc.all fun a => (a.kind.gs.all fun r => r == 0 || !gs.contains r) && a.kind.vs.all fun r => !vs.contains r

/-- `n` counted events of an engine at a PC (R520): with the last one of a period the count restarts, and a sample is due. -/
def Dev.sampleAdd (s : Dev) (e pc n : Nat) : Dev :=
  let per := 2 ^ s.fget Fld.EN_SMP_CFG.PERIOD_EXP e
  s.modEn e fun x => { x with smp := (x.smp + n) % per, smpPcs := if x.smp + n < per ∨ ¬ x.smpPcs.isEmpty then x.smpPcs else [pc] }

/-- The operations issued and the memory accesses that EN_SMP_CFG counts; the PCs that a sample may carry are those of the completing
operation and of the next six (R520). [log: DEDUCED 137] -/
def Dev.sampleCount (s : Dev) (e pc : Nat) (mem : Bool) : Dev :=
  if ¬ s.fbit Fld.EN_SMP_CFG.SMP_EN e then s
  else
    let ev := s.fget Fld.EN_SMP_CFG.EVENT e
    let x := s.en e
    let s0 := if ¬ x.smpPcs.isEmpty ∧ ¬ mem ∧ x.smpPcs.length < 7 then s.modEn e fun x => { x with smpPcs := x.smpPcs ++ [pc] } else s
    if (ev = 0 ∧ ¬ mem) ∨ (ev = 4 ∧ mem) then s0.sampleAdd e pc 1 else s0

/-- A wait on a device read is over: its engine cycles are counted where EN_SMP_CFG counts those (R520). -/
def Dev.sampleWait (s : Dev) (e : Nat) : Dev :=
  if s.fbit Fld.EN_SMP_CFG.SMP_EN e ∧ s.fget Fld.EN_SMP_CFG.EVENT e = 2 then
    s.sampleAdd e ((s.pc e + 65535) % 65536) ((s.now - (s.en e).devAt) / engCycle)
  else s

/-- An operation issues (EN_OP_CNT, slot 6 of the function's window). [log: DESIGN CHOICE 230] -/
def Dev.issued (s : Dev) (e : Nat) : Dev :=
  let s1 := (s.count .EN_OP_CNT e 1).sampleCount e (s.pc e) false
  match s.runOf e with
  | some (_, r) => s1.fcount r.vs r.fn 6 1
  | none => s1

/-- The next word. -/
def Dev.nextPc (s : Dev) (e : Nat) : Dev := s.setPc e (s.pc e + 1)

/-- The frame of every operation: the engine runs the word at its PC, so the command of another operation, or of other fields, has
no effect; past the last word, and at a word with an unassigned code, the operation that comes faults with code 0x01, as an
illegal word does (R496, R497). An operation whose operands wait for earlier loads waits (R526). [log: DEDUCED 118] -/
def Dev.runOp (s : Dev) (op e : Nat) (w : OpWord) (legal : Bool) (gs vs : List Nat) (f : Dev → Dev) : Dev :=
  if ¬ s.canIssue e then s
  else match (s.wordAt e).map opWordOf with
    | none => (s.issued e).engFaultOpen e 1
    | some x =>
      if opAssigned x.1 = false then (s.issued e).engFaultOpen e 1
      else if x ≠ (op, w) ∨ (s.en e).regsFree gs vs = false then s
      else if w.resv ≠ 0 ∨ legal = false then (s.issued e).engFaultOpen e 1
      else f s

/-- An operation on registers alone. -/
def Dev.regOp (s : Dev) (op e : Nat) (w : OpWord) (legal : Bool) (gs vs : List Nat) (f : Dev → Dev) : Dev :=
  s.runOp op e w legal gs vs fun s => (f (s.issued e)).nextPc e

/-- The function of an engine's run. -/
def Dev.fnOf (s : Dev) (e : Nat) : Nat × Nat := match s.runOf e with
  | some (_, r) => (r.vs, r.fn)
  | none => (0, 0)

/-! Pieces of long ranges -/

/-- A range cut at 4 KiB boundaries: the addresses and lengths of its pieces. -/
def piecesN (a n : Nat) : Nat → List (Nat × Nat)
  | 0 => []
  | k + 1 =>
    if n = 0 then [] else
      let m := min n (4096 - a % 4096)
      (a, m) :: piecesN (a + m) (n - m) k
/-- [log: DEDUCED 126] -/
def pieces (a n : Nat) : List (Nat × Nat) := piecesN a n (n / 4096 + 2)

/-- The first fault a range meets, with its address. [log: DEDUCED 126] -/
def Dev.rangeFault (s : Dev) (vs fn a n : Nat) (store : Bool) : Option (Nat × Nat) :=
  (pieces a n).findSome? fun p => match s.target vs fn p.1 p.2 store with
    | .inr c => some (c, p.1)
    | .inl _ => none

/-- Whether a range has a part reached through a window, and a part of device memory. -/
def Dev.rangeHas (s : Dev) (vs fn a n : Nat) (f : EngTgt → Bool) : Bool :=
  (pieces a n).any fun p => match s.target vs fn p.1 p.2 false with
    | .inl t => f t
    | .inr _ => false

/-- The bytes of a range: from SRAM and LPDDR4X as they stand, through windows from what the requests brought. -/
def Dev.rangeRead (s : Dev) (e vs fn : Nat) (l : List (Nat × Nat)) (got : List Byte) : List Byte :=
  match l with
  | [] => []
  | (a, n) :: t =>
    match s.target vs fn a n false with
    | .inl (.win _ _ _ _ _) => padTo' n (got.take n) ++ s.rangeRead e vs fn t (got.drop n)
    | .inl x => s.readTgt e x n ++ s.rangeRead e vs fn t got
    | .inr _ => padTo' n [] ++ s.rangeRead e vs fn t got
where
  padTo' (n : Nat) (l : List Byte) : List Byte := l ++ List.replicate (n - l.length) 0

/-- A range of bytes written piece by piece. -/
def Dev.rangeWrite (s : Dev) (e seq vs fn : Nat) (w : Option Way) (l : List (Nat × Nat)) (b : List Byte) : Dev :=
  match l with
  | [] => s
  | (a, n) :: t =>
    let s1 := match s.target vs fn a n true with
      | .inl (.sram o) => s.sramWrite (clusterOf e) o (b.take n)
      | .inl (.mem m) => s.memWrite m (b.take n)
      | .inl (.win g _ x _ _) => (s.emit (.engineAccess e seq (some g) x n true (b.take n) w)).fcount vs fn 4 n
      | .inr _ => s
    s1.rangeWrite e seq vs fn w t (b.drop n)

/-! The prefetch buffer (R544) -/

/-- The entry that covers an access wholly. -/
def Eng.pfHit (x : Eng) (t : EngTgt) (n now : Nat) : Option PfEntry :=
  match t with
  | .win g v a false _ => x.pf.find? fun p => p.dgpa == g && p.vs == v && decide (p.addr ≤ a) && decide (a + n ≤ p.addr + 64) &&
      decide (now < p.filledAt + 2 * tUs)
  | _ => none

/-- An entry filled, the least recently used of four replaced. -/
def Eng.pfFill (x : Eng) (p : PfEntry) : Eng :=
  let l := x.pf.filter fun q => !(q.dgpa == p.dgpa && q.vs == p.vs && q.addr == p.addr)
  let oldest := l.foldl (fun m q => min m q.used) p.used
  let l1 := if l.length < 4 then l else l.filter fun q => q.used != oldest
  { x with pf := l1 ++ [p] }

/-- `n` bytes at a target lie among the 64 at an address of a destination. [log: DEDUCED 239] -/
def EngTgt.near (t : EngTgt) (n g a : Nat) : Bool :=
  match t with
  | .win d _ x _ _ => d == g && decide (x < a + 64) && decide (a < x + n)
  | _ => false

/-- The entries a store overlaps are discarded, and what is on its way to such an entry fills none. [log: DEDUCED 239] -/
def Eng.pfDrop (x : Eng) (t : EngTgt) (n : Nat) : Eng :=
  { x with
    pf := x.pf.filter fun p => !t.near n p.dgpa p.addr
    acc := x.acc.map fun b => match b.tgt with
      | .win g _ a _ _ => { b with noFill := b.noFill || t.near n g a || t.near n g (a / 64 * 64) }
      | _ => b }

/-- A store or an atomic of the engine that is still to take effect touches the 64 bytes at an address: a read of them now may miss it.
[log: DEDUCED 239] -/
def Eng.pfBusy (x : Eng) (g a : Nat) : Bool :=
  (x.sb.any fun u => u.tgt.near u.data.length g a) || x.acc.any fun b => match b.kind with
    | .copy _ _ => true
    | .fill _ => true
    | k => k.writes && b.tgt.near b.len g a

/-! Completion -/

/-- The memory operation of an atomic: the value stored for an old value, operands compare and val (R497). -/
def atomicNew (op old cmp val : Nat) : Nat :=
  if op = 0x10 then (old + val) % mask64
  else if op = 0x11 then old &&& val
  else if op = 0x12 then old ||| val
  else if op = 0x13 then val
  else if old = cmp then val else old

/-- The registers an access writes as it completes with its data. -/
def Dev.accWrite (s : Dev) (e : Nat) (k : AccKind) (v : Nat) : Dev :=
  match k with
  | .load d size sx => s.setG e d (loadExt size v sx)
  | .pair d => (s.setG e d (v % mask64)).setG e (d + 1) (v / mask64)
  | .vec d => s.setV e d v
  | .atomic op d _ _ => if op = 0x15 then (s.setG e d (v % mask64)).setG e (d + 1) (v / mask64) else s.setG e d v
  | _ => s

/-- An access leaves the outstanding ones; the engine runs on where it was held. -/
def Dev.accGone (s : Dev) (e seq : Nat) : Dev :=
  let s1 := s.modEn e fun x => { x with acc := x.acc.filter (·.seq != seq), hold := if x.hold = some seq then none else x.hold }
  if (s.en e).hold = some seq ∧ s.enState e = enDev then (s1.sampleWait e).setEnState e enRun else s1

/-- The request an access waited for ends. -/
def Dev.accReq (s : Dev) (e seq : Nat) : Dev :=
  { s with sf.reqs := s.sf.reqs.filter fun r => r.use != .access e seq }

/-- An access completes with the bytes its requests brought: a load merges what was forwarded (R524), an atomic on SRAM or
LPDDR4X is performed there, a copy or fill moves its bytes, a prefetch or a widened load fills an entry. -/
def Dev.accFinish (s : Dev) (e : Nat) (a : Access) (got : List Byte) : Dev :=
  let (vs, fn) := s.fnOf e
  let s0 := (s.accReq e a.seq).accGone e a.seq
  match a.kind with
  | .copy src dst =>
    let b := s.rangeRead e vs fn (pieces src a.len) got
    s0.rangeWrite e a.seq vs fn (s.wayOf e) (pieces dst a.len) b
  | .fill b => s0.rangeWrite e a.seq vs fn (s.wayOf e) (pieces a.vaddr a.len) (List.replicate a.len b)
  | .prefetch =>
    match a.tgt with
    | .win g v x _ _ =>
      if a.noFill then s0
      else s0.modEn e fun y => y.pfFill { dgpa := g, vs := v, addr := x, data := got.take 64, filledAt := s.now, used := s.now }
    | _ => s0
  | .atomic op d cmp val =>
    match a.tgt with
    | .win _ _ _ _ _ => s0.accWrite e (.atomic op d cmp val) (leNat (got.take a.len))
    | t =>
      let old := leNat (s.readTgt e t a.len)
      let nw := leBytes a.len (atomicNew op old cmp val)
      let s1 := match t with
        | .sram o => s0.sramWrite (clusterOf e) o nw
        | .mem m => s0.memWrite m nw
        | _ => s0
      s1.accWrite e (.atomic op d cmp val) old
  | k =>
    match a.tgt with
    | .win g v x false true =>
      let blk := x / 64 * 64
      let b := if got.length = 64 then (got.drop (x - blk)).take a.len else got.take a.len
      let s1 := if got.length = 64 ∧ ¬ a.noFill then
          s0.modEn e fun y => y.pfFill { dgpa := g, vs := v, addr := blk, data := got, filledAt := s.now, used := s.now }
        else s0
      s1.accWrite e k (leNat (mergeFwd a.fwd b))
    | .win _ _ _ _ _ => s0.accWrite e k (leNat (mergeFwd a.fwd (got.take a.len)))
    | t => s0.accWrite e k (leNat (mergeFwd a.fwd (s.readTgt e t a.len)))

/-- An access ends in an error (R501, R545): a prefetch fills no entry; any other faults with code 0x05 at its first byte.
[log: DEDUCED 125] -/
def Dev.accError (s : Dev) (e : Nat) (a : Access) : Dev :=
  let s1 := (s.accReq e a.seq).accGone e a.seq
  if a.kind.isPrefetch then s1 else s1.engFault e 5 a.vaddr

/-- Earlier accesses and stores of the engine let an access take effect: those to the same bytes have (R525); a copy or fill
waits for every earlier one. [log: DEDUCED 116, DEDUCED 117] -/
def Eng.accReady (x : Eng) (a : Access) : Bool :=
  let wide := match a.kind with
    | .copy _ _ => true
    | .fill _ => true
    | _ => false
  let wideAcc := fun (b : Access) => match b.kind with
    | .copy _ _ => true
    | .fill _ => true
    | _ => false
  (x.acc.all fun b => decide (a.seq ≤ b.seq) || (!wide && !wideAcc b && !overlap b.tgt b.len a.tgt a.len)) &&
    (x.sb.all fun t => decide (a.seq < t.seq) || (!wide && (!a.kind.writes || !overlap t.tgt t.data.length a.tgt a.len)))

/-- The targets of an access, those of a copy or a fill piece by piece. -/
def Dev.accTgts (s : Dev) (e : Nat) (a : Access) : List (EngTgt × Nat) :=
  let (vs, fn) := s.fnOf e
  let at_ := fun x n store => (pieces x n).filterMap fun p => match s.target vs fn p.1 p.2 store with
    | .inl t => some (t, p.2)
    | .inr _ => none
  match a.kind with
  | .copy src dst => at_ src a.len false ++ at_ dst a.len true
  | .fill _ => at_ a.vaddr a.len true
  | _ => [(a.tgt, a.len)]

/-! Issue of accesses -/

/-- The next sequence number of an engine's accesses. -/
def Dev.takeSeq (s : Dev) (e : Nat) : Nat × Dev := ((s.en e).nextSeq, s.modEn e fun x => { x with nextSeq := x.nextSeq + 1 })

/-- An access issues: it is outstanding, and holds the engine where it is one of device memory (R529). -/
def Dev.accStart (s : Dev) (e : Nat) (a : Access) (dev : Bool) : Dev :=
  let s1 := (s.sampleCount e (s.pc e) true).modEn e fun x => { x with acc := x.acc ++ [a], hold := if dev then some a.seq else x.hold,
                                                                           devAt := if dev then s.now else x.devAt }
  let s2 := if dev then s1.setEnState e enDev else s1
  s2.nextPc e

/-- A load of `len` bytes at an address (R497, R498, R524, R529, R543, R544). -/
def Dev.loadAt (s : Dev) (e a len align : Nat) (kind : AccKind) : Dev :=
  let (vs, fn) := s.fnOf e
  if a % align ≠ 0 then (s.issued e).engFault e 2 a
  else match s.target vs fn a len false with
    | .inr c => (s.issued e).engFault e c a
    | .inl t =>
      let x := s.en e
      if x.acc.any fun b => b.kind.writes && (overlap b.tgt b.len t len || (match b.kind with
          | .copy _ _ => true
          | .fill _ => true
          | _ => false)) then s
      else if ¬ t.isWin then
        let (seq, s1) := (s.issued e).takeSeq e
        s1.accStart e { seq := seq, kind := kind, tgt := t, len := len, vaddr := a, fwd := x.fwdBytes t len } false
      else if ¬ s.bme vs fn then s.bmEnd e
      else if t.isDev ∧ ¬ x.sb.isEmpty then s
      else match x.pfHit t len s.now with
        | some p =>
          let off := t.space.2 - p.addr
          let v := leNat (mergeFwd (x.fwdBytes t len) ((p.data.drop off).take len))
          let s1 := (s.issued e).modEn e fun y => { y with pf := y.pf.map fun q => if q = p then { q with used := s.now } else q }
          ((s1.sampleCount e (s.pc e) true).accWrite e kind v).nextPc e
        | none =>
          match s.freeTag vs fn with
          | none => s
          | some tag =>
            let wide := match t with
              | .win _ _ _ false true => true
              | _ => false
            let (seq, s1) := (s.issued e).takeSeq e
            let adr := t.space.2
            let acc : Access := { seq := seq, kind := kind, tgt := t, len := len, vaddr := a, fwd := x.fwdBytes t len, tag := some tag,
                                  noFill := t.dest.any fun g => x.pfBusy g (adr / 64 * 64) }
            (s1.accStart e acc t.isDev).sendRead e vs fn tag seq t.dest (if wide then adr / 64 * 64 else adr) (if wide then 64 else len)

/-- A destination enters an engine's flush set (R548). [log: DEDUCED 127] -/
def Eng.flushAdd (x : Eng) (t : EngTgt) : Eng :=
  match t with
  | .win g _ a _ _ => { x with flush := (x.flush.filter (·.1 != g)) ++ [(g, a)] }
  | _ => x

/-- Whether a store to a target would be the 17th destination of the flush set. [log: DEDUCED 127] -/
def Eng.flushFull (x : Eng) (t : EngTgt) : Bool :=
  match t with
  | .win g _ _ _ _ => !(x.flush.any (·.1 == g)) && decide (16 ≤ x.flush.length)
  | _ => false

/-- The flush for a full set, as a system barrier would but without a register: scope 3 (R548). [log: DEDUCED 127] -/
def Dev.flushFirst (s : Dev) (e vs fn : Nat) : Dev :=
  let x := s.en e
  if ¬ x.sb.isEmpty ∨ ¬ x.acc.isEmpty ∨ ¬ s.flushTags e vs fn then s
  else (s.modEn e fun x => { x with bar := some { scope := 3, d := 0, sent := true } }).flushReads e vs fn

/-- A store of bytes at an address: into the store buffer, which a store that finds it full waits for (R498, R521, R548). -/
def Dev.storeAt (s : Dev) (e a align : Nat) (b : List Byte) : Dev :=
  let (vs, fn) := s.fnOf e
  if a % align ≠ 0 then (s.issued e).engFault e 2 a
  else match s.target vs fn a b.length true with
    | .inr c => (s.issued e).engFault e c a
    | .inl t =>
      let x := s.en e
      if 16 ≤ x.sb.length then s
      else if t.isWin ∧ ¬ s.bme vs fn then s.bmEnd e
      else if x.flushFull t then s.flushFirst e vs fn
      else
        let (seq, s1) := (s.issued e).takeSeq e
        let s2 := s1.modEn e fun x =>
          ({ x with sb := x.sb ++ [{ seq := seq, tgt := t, data := b }] } : Eng).flushAdd t |>.pfDrop t b.length
        (s2.sampleCount e (s.pc e) true).nextPc e

/-- An atomic of 8 or 16 bytes: performed at the memory, or sent as an AtomicOp (R499); AAND and AOR not through a window. -/
def Dev.atomicAt (s : Dev) (e op a len d cmp val : Nat) : Dev :=
  let (vs, fn) := s.fnOf e
  if a % len ≠ 0 then (s.issued e).engFault e 2 a
  else match s.target vs fn a len true with
    | .inr c => (s.issued e).engFault e c a
    | .inl t =>
      let x := s.en e
      if t.isWin ∧ (op = 0x11 ∨ op = 0x12) then (s.issued e).engFault e 4 a
      else if ¬ t.isWin then
        let (seq, s1) := (s.issued e).takeSeq e
        s1.accStart e { seq := seq, kind := .atomic op d cmp val, tgt := t, len := len, vaddr := a } false
      else if ¬ s.bme vs fn then s.bmEnd e
      else if t.isDev ∧ ¬ x.sb.isEmpty then s
      else match s.freeTag vs fn with
        | none => s
        | some tag =>
          let (seq, s1) := (s.issued e).takeSeq e
          let acc : Access := { seq := seq, kind := .atomic op d cmp val, tgt := t, len := len, vaddr := a, tag := some tag }
          let opnd := if op = 0x14 ∨ op = 0x15 then leBytes len cmp ++ leBytes len val else leBytes len val
          let s2 := (s1.accStart e acc t.isDev).modEn e fun x => x.pfDrop t len
          (s2.sfSend vs fn tag (.access e seq)).emit (.engineAtomic e seq op t.dest t.space.2 opnd (s.wayOf e))

/-- A prefetch of 64 bytes (R500, R543): from SRAM and LPDDR4X it moves nothing that can be seen; through a window only where
ATTR and PF are 1; discarded otherwise, without a fault. -/
def Dev.prefetchAt (s : Dev) (e a : Nat) : Dev :=
  let (vs, fn) := s.fnOf e
  let s1 := (s.issued e).nextPc e
  match s.target vs fn a 64 false with
  | .inl (.win g v x false true) =>
    match s.freeTag vs fn with
    | some tag =>
      if s.bme vs fn then
        let (seq, s2) := s1.takeSeq e
        let acc : Access := { seq := seq, kind := .prefetch, tgt := .win g v x false true, len := 64, vaddr := a, tag := some tag,
                              noFill := (s.en e).pfBusy g x }
        ((s2.modEn e fun y => { y with acc := y.acc ++ [acc] })).sendRead e vs fn tag seq (some g) x 64
      else s1
    | none => s1
  | _ => s1

/-- MCPY and MFILL (R498, R501, R543): any alignment, up to 2^32 − 1 bytes; device memory holds the engine. -/
def Dev.moveAt (s : Dev) (e : Nat) (src : Option Nat) (dst n : Nat) (kind : AccKind) : Dev :=
  let (vs, fn) := s.fnOf e
  if 4294967296 ≤ n then (s.issued e).engFaultOpen e 1
  else
    let bad := (src.bind fun a => s.rangeFault vs fn a n false).or (s.rangeFault vs fn dst n true)
    match bad with
    | some (c, a) => (s.issued e).engFault e c a
    | none =>
      let has := fun f => (src.any fun a => s.rangeHas vs fn a n f) || s.rangeHas vs fn dst n f
      let win := has EngTgt.isWin
      let dev := has EngTgt.isDev
      if win ∧ ¬ s.bme vs fn then s.bmEnd e
      else if dev ∧ ¬ (s.en e).sb.isEmpty then s
      else
        let dsts := (pieces dst n).filterMap fun p => match s.target vs fn p.1 p.2 true with
          | .inl (.win g v x d f) => some (EngTgt.win g v x d f)
          | _ => none
        if decide (16 < (each dsts (s.en e) Eng.flushAdd).flush.length) && !(s.en e).flush.isEmpty then s.flushFirst e vs fn
        else
          let (seq, s1) := (s.issued e).takeSeq e
          let acc : Access := { seq := seq, kind := kind, tgt := .mem 0, len := n, vaddr := match src with
            | some a => a
            | none => dst }
          let s2 := s1.modEn e fun x => each dsts x fun x t => (x.flushAdd t).pfDrop t 4096
          let srcWin := src.any fun a => s.rangeHas vs fn a n EngTgt.isWin
          if srcWin then
            match s.freeTag vs fn with
            | none => s
            | some tag => (s2.accStart e { acc with tag := some tag } dev).sendRead e vs fn tag seq none (src.getD 0) n
          else s2.accStart e acc dev

end Sys2Proof.Machine
end

