-- ==== Sys2Proof/Machine/Eng.lean ====
section
/-! DEFINITION. The operations of the engines (R496 to R504, R531 to R534, R548, R549): one definition for each operation of
the table of R497, and what ends them: completions, visibility of stores, WAIT, barriers, samples. -/
namespace Sys2Proof.Machine

/-- The address gA + IMM (R497). -/
def Dev.addrOf (s : Dev) (e : Nat) (w : OpWord) : Nat := (s.gr e w.a + immOf w.imm) % mask64

/-- The access size of M, and the modifiers a load and a store may carry (R496). -/
def sizeOf' (m : Nat) : Nat := 2 ^ (m % 4)
def loadMod (m : Nat) : Bool := decide (m < 16) && !m.testBit 2
def storeMod (m : Nat) : Bool := decide (m < 4)

/-! Load and store -/

/-- LD: gD := memory at gA + IMM, size and extension by M. -/
def ld (e : Nat) (w : OpWord) (s : Dev) : Dev :=
  s.runOp 0x01 e w (loadMod w.m) [w.a, w.d] [] fun s =>
    s.loadAt e (s.addrOf e w) (sizeOf' w.m) (sizeOf' w.m) (.load w.d (sizeOf' w.m) (w.m.testBit 3))

def execLd (e : Nat) (w : OpWord) (s : State) : Host.Outcome State Fault Refusal := s.act (ld e w)

/-- ST: memory at gA + IMM := the low bytes of gB, size by M. -/
def st (e : Nat) (w : OpWord) (s : Dev) : Dev :=
  s.runOp 0x02 e w (storeMod w.m) [w.a, w.b] [] fun s => s.storeAt e (s.addrOf e w) (sizeOf' w.m) (leBytes (sizeOf' w.m) (s.gr e w.b))

def execSt (e : Nat) (w : OpWord) (s : State) : Host.Outcome State Fault Refusal := s.act (st e w)

/-- LDP: gD, gD+1 := 16 bytes; D even. -/
def ldp (e : Nat) (w : OpWord) (s : Dev) : Dev :=
  s.runOp 0x03 e w (w.m == 0 && w.d % 2 == 0) [w.a, w.d, w.d + 1] [] fun s => s.loadAt e (s.addrOf e w) 16 16 (.pair w.d)

def execLdp (e : Nat) (w : OpWord) (s : State) : Host.Outcome State Fault Refusal := s.act (ldp e w)

/-- STP: 16 bytes := gB, gB+1; B even. -/
def stp (e : Nat) (w : OpWord) (s : Dev) : Dev :=
  s.runOp 0x04 e w (w.m == 0 && w.b % 2 == 0) [w.a, w.b, w.b + 1] [] fun s =>
    s.storeAt e (s.addrOf e w) 16 (leBytes 8 (s.gr e w.b) ++ leBytes 8 (s.gr e (w.b + 1)))

def execStp (e : Nat) (w : OpWord) (s : State) : Host.Outcome State Fault Refusal := s.act (stp e w)

/-- VLD: vD := 32 bytes. -/
def vld (e : Nat) (w : OpWord) (s : Dev) : Dev :=
  s.runOp 0x05 e w (w.m == 0 && decide (w.d < 8)) [w.a] [w.d] fun s => s.loadAt e (s.addrOf e w) 32 32 (.vec w.d)

def execVld (e : Nat) (w : OpWord) (s : State) : Host.Outcome State Fault Refusal := s.act (vld e w)

/-- VST: 32 bytes := vB. -/
def vst (e : Nat) (w : OpWord) (s : Dev) : Dev :=
  s.runOp 0x06 e w (w.m == 0 && decide (w.b < 8)) [w.a] [w.b] fun s => s.storeAt e (s.addrOf e w) 32 (leBytes 32 (s.vr e w.b))

def execVst (e : Nat) (w : OpWord) (s : State) : Host.Outcome State Fault Refusal := s.act (vst e w)

/-- PRF: prefetch 64 bytes at gA + IMM; never faults on its address (R500). -/
def prf (e : Nat) (w : OpWord) (s : Dev) : Dev :=
  s.runOp 0x07 e w (w.m == 0) [w.a] [] fun s => s.prefetchAt e (s.addrOf e w)

def execPrf (e : Nat) (w : OpWord) (s : State) : Host.Outcome State Fault Refusal := s.act (prf e w)

/-! Atomics (R499) -/

/-- AADD: gD := old; memory := old + gB; 8 bytes. -/
def aadd (e : Nat) (w : OpWord) (s : Dev) : Dev :=
  s.runOp 0x10 e w (w.m == 0) [w.a, w.b, w.d] [] fun s => s.atomicAt e 0x10 (s.addrOf e w) 8 w.d 0 (s.gr e w.b)

def execAadd (e : Nat) (w : OpWord) (s : State) : Host.Outcome State Fault Refusal := s.act (aadd e w)

/-- AAND: gD := old; memory := old and gB; 8 bytes. -/
def aand (e : Nat) (w : OpWord) (s : Dev) : Dev :=
  s.runOp 0x11 e w (w.m == 0) [w.a, w.b, w.d] [] fun s => s.atomicAt e 0x11 (s.addrOf e w) 8 w.d 0 (s.gr e w.b)

def execAand (e : Nat) (w : OpWord) (s : State) : Host.Outcome State Fault Refusal := s.act (aand e w)

/-- AOR: gD := old; memory := old or gB; 8 bytes. -/
def aor (e : Nat) (w : OpWord) (s : Dev) : Dev :=
  s.runOp 0x12 e w (w.m == 0) [w.a, w.b, w.d] [] fun s => s.atomicAt e 0x12 (s.addrOf e w) 8 w.d 0 (s.gr e w.b)

def execAor (e : Nat) (w : OpWord) (s : State) : Host.Outcome State Fault Refusal := s.act (aor e w)

/-- ASWP: gD := old; memory := gB; 8 bytes. -/
def aswp (e : Nat) (w : OpWord) (s : Dev) : Dev :=
  s.runOp 0x13 e w (w.m == 0) [w.a, w.b, w.d] [] fun s => s.atomicAt e 0x13 (s.addrOf e w) 8 w.d 0 (s.gr e w.b)

def execAswp (e : Nat) (w : OpWord) (s : State) : Host.Outcome State Fault Refusal := s.act (aswp e w)

/-- ACAS: if old = gD then memory := gB; gD := old. -/
def acas (e : Nat) (w : OpWord) (s : Dev) : Dev :=
  s.runOp 0x14 e w (w.m == 0) [w.a, w.b, w.d] [] fun s => s.atomicAt e 0x14 (s.addrOf e w) 8 w.d (s.gr e w.d) (s.gr e w.b)

def execAcas (e : Nat) (w : OpWord) (s : State) : Host.Outcome State Fault Refusal := s.act (acas e w)

/-- ACASP: 16-byte compare-and-swap of gD, gD+1 and gB, gB+1; D and B even. -/
def acasp (e : Nat) (w : OpWord) (s : Dev) : Dev :=
  s.runOp 0x15 e w (w.m == 0 && w.d % 2 == 0 && w.b % 2 == 0) [w.a, w.b, w.b + 1, w.d, w.d + 1] [] fun s =>
    s.atomicAt e 0x15 (s.addrOf e w) 16 w.d (s.gr e w.d + mask64 * s.gr e (w.d + 1)) (s.gr e w.b + mask64 * s.gr e (w.b + 1))

def execAcasp (e : Nat) (w : OpWord) (s : State) : Host.Outcome State Fault Refusal := s.act (acasp e w)

/-! Move -/

/-- MOV: gD := gA. -/
def mov (e : Nat) (w : OpWord) (s : Dev) : Dev :=
  s.regOp 0x20 e w (w.m == 0) [w.a, w.d] [] fun s => s.setG e w.d (s.gr e w.a)

def execMov (e : Nat) (w : OpWord) (s : State) : Host.Outcome State Fault Refusal := s.act (mov e w)

/-- MOVI: gD := IMM, sign-extended. -/
def movi (e : Nat) (w : OpWord) (s : Dev) : Dev :=
  s.regOp 0x21 e w (w.m == 0) [w.d] [] fun s => s.setG e w.d (immOf w.imm)

def execMovi (e : Nat) (w : OpWord) (s : State) : Host.Outcome State Fault Refusal := s.act (movi e w)

/-- MOVH: gD[63:32] := IMM; gD[31:0] unchanged. -/
def movh (e : Nat) (w : OpWord) (s : Dev) : Dev :=
  s.regOp 0x22 e w (w.m == 0) [w.d] [] fun s => s.setG e w.d (w.imm % 2 ^ 32 * 2 ^ 32 + s.gr e w.d % 2 ^ 32)

def execMovh (e : Nat) (w : OpWord) (s : State) : Host.Outcome State Fault Refusal := s.act (movh e w)

/-- ADD: gD := gA + gB, modulo 2^64. -/
def add (e : Nat) (w : OpWord) (s : Dev) : Dev :=
  s.regOp 0x23 e w (w.m == 0) [w.a, w.b, w.d] [] fun s => s.setG e w.d (s.gr e w.a + s.gr e w.b)

def execAdd (e : Nat) (w : OpWord) (s : State) : Host.Outcome State Fault Refusal := s.act (add e w)

/-- ADDI: gD := gA + IMM. -/
def addi (e : Nat) (w : OpWord) (s : Dev) : Dev :=
  s.regOp 0x24 e w (w.m == 0) [w.a, w.d] [] fun s => s.setG e w.d (s.gr e w.a + immOf w.imm)

def execAddi (e : Nat) (w : OpWord) (s : State) : Host.Outcome State Fault Refusal := s.act (addi e w)

/-- SUB: gD := gA − gB. -/
def sub (e : Nat) (w : OpWord) (s : Dev) : Dev :=
  s.regOp 0x25 e w (w.m == 0) [w.a, w.b, w.d] [] fun s => s.setG e w.d (s.gr e w.a + mask64 - s.gr e w.b)

def execSub (e : Nat) (w : OpWord) (s : State) : Host.Outcome State Fault Refusal := s.act (sub e w)

/-- MUL: gD := the low 64 bits of gA × gB. -/
def mul (e : Nat) (w : OpWord) (s : Dev) : Dev :=
  s.regOp 0x26 e w (w.m == 0) [w.a, w.b, w.d] [] fun s => s.setG e w.d (s.gr e w.a * s.gr e w.b)

def execMul (e : Nat) (w : OpWord) (s : State) : Host.Outcome State Fault Refusal := s.act (mul e w)

/-- AND: gD := gA and gB. -/
def andOp (e : Nat) (w : OpWord) (s : Dev) : Dev :=
  s.regOp 0x27 e w (w.m == 0) [w.a, w.b, w.d] [] fun s => s.setG e w.d (s.gr e w.a &&& s.gr e w.b)

def execAndOp (e : Nat) (w : OpWord) (s : State) : Host.Outcome State Fault Refusal := s.act (andOp e w)

/-- OR: gD := gA or gB. -/
def orOp (e : Nat) (w : OpWord) (s : Dev) : Dev :=
  s.regOp 0x28 e w (w.m == 0) [w.a, w.b, w.d] [] fun s => s.setG e w.d (s.gr e w.a ||| s.gr e w.b)

def execOrOp (e : Nat) (w : OpWord) (s : State) : Host.Outcome State Fault Refusal := s.act (orOp e w)

/-- XOR: gD := gA xor gB. -/
def xorOp (e : Nat) (w : OpWord) (s : Dev) : Dev :=
  s.regOp 0x29 e w (w.m == 0) [w.a, w.b, w.d] [] fun s => s.setG e w.d (s.gr e w.a ^^^ s.gr e w.b)

def execXorOp (e : Nat) (w : OpWord) (s : State) : Host.Outcome State Fault Refusal := s.act (xorOp e w)

/-- SHL: gD := gA shifted left by gB mod 64. -/
def shl (e : Nat) (w : OpWord) (s : Dev) : Dev :=
  s.regOp 0x2A e w (w.m == 0) [w.a, w.b, w.d] [] fun s => s.setG e w.d (s.gr e w.a <<< (s.gr e w.b % 64))

def execShl (e : Nat) (w : OpWord) (s : State) : Host.Outcome State Fault Refusal := s.act (shl e w)

/-- SHR: gD := gA shifted right, logical, by gB mod 64. -/
def shr (e : Nat) (w : OpWord) (s : Dev) : Dev :=
  s.regOp 0x2B e w (w.m == 0) [w.a, w.b, w.d] [] fun s => s.setG e w.d (s.gr e w.a >>> (s.gr e w.b % 64))

def execShr (e : Nat) (w : OpWord) (s : State) : Host.Outcome State Fault Refusal := s.act (shr e w)

/-- SLT: gD := 1 if gA < gB as signed, else 0. -/
def slt (e : Nat) (w : OpWord) (s : Dev) : Dev :=
  s.regOp 0x2C e w (w.m == 0) [w.a, w.b, w.d] [] fun s => s.setG e w.d (b2n (decide (signedOf 64 (s.gr e w.a) < signedOf 64 (s.gr e w.b))))

def execSlt (e : Nat) (w : OpWord) (s : State) : Host.Outcome State Fault Refusal := s.act (slt e w)

/-- MCPY: copy gB bytes from address gA to address gD. -/
def mcpy (e : Nat) (w : OpWord) (s : Dev) : Dev :=
  s.runOp 0x2D e w (w.m == 0) [w.a, w.b, w.d] [] fun s =>
    s.moveAt e (some (s.gr e w.a)) (s.gr e w.d) (s.gr e w.b) (.copy (s.gr e w.a) (s.gr e w.d))

def execMcpy (e : Nat) (w : OpWord) (s : State) : Host.Outcome State Fault Refusal := s.act (mcpy e w)

/-- MFILL: fill gB bytes at address gD with IMM[7:0]. -/
def mfill (e : Nat) (w : OpWord) (s : Dev) : Dev :=
  s.runOp 0x2E e w (w.m == 0) [w.b, w.d] [] fun s => s.moveAt e none (s.gr e w.d) (s.gr e w.b) (.fill (BitVec.ofNat 8 w.imm))

def execMfill (e : Nat) (w : OpWord) (s : State) : Host.Outcome State Fault Refusal := s.act (mfill e w)

/-! Vector -/

/-- A vector operation names an element type in M and vector registers below 8 (R496). -/
def vecOk (w : OpWord) (l : List Nat) : Bool := decide (w.m < 5) && l.all fun r => decide (r < 8)

/-- VADD: vD := vA + vB, lane by lane, type by M. -/
def vadd (e : Nat) (w : OpWord) (s : Dev) : Dev :=
  s.regOp 0x40 e w (vecOk w [w.a, w.b, w.d]) [] [w.a, w.b, w.d] fun s => s.setV e w.d (vmap2 w.m (laneAdd w.m) (s.vr e w.a) (s.vr e w.b))

def execVadd (e : Nat) (w : OpWord) (s : State) : Host.Outcome State Fault Refusal := s.act (vadd e w)

/-- VMUL: vD := vA × vB, lane by lane, type by M. -/
def vmul (e : Nat) (w : OpWord) (s : Dev) : Dev :=
  s.regOp 0x41 e w (vecOk w [w.a, w.b, w.d]) [] [w.a, w.b, w.d] fun s => s.setV e w.d (vmap2 w.m (laneMul w.m) (s.vr e w.a) (s.vr e w.b))

def execVmul (e : Nat) (w : OpWord) (s : State) : Host.Outcome State Fault Refusal := s.act (vmul e w)

/-- VMIN: vD := minimum of vA and vB, lane by lane, type by M. -/
def vmin (e : Nat) (w : OpWord) (s : Dev) : Dev :=
  s.regOp 0x43 e w (vecOk w [w.a, w.b, w.d]) [] [w.a, w.b, w.d] fun s => s.setV e w.d (vmap2 w.m (tpick false w.m) (s.vr e w.a) (s.vr e w.b))

/-- [log: DEDUCED 120] -/
def execVmin (e : Nat) (w : OpWord) (s : State) : Host.Outcome State Fault Refusal := s.act (vmin e w)

/-- VMAX: vD := maximum of vA and vB, lane by lane, type by M. -/
def vmax (e : Nat) (w : OpWord) (s : Dev) : Dev :=
  s.regOp 0x44 e w (vecOk w [w.a, w.b, w.d]) [] [w.a, w.b, w.d] fun s => s.setV e w.d (vmap2 w.m (tpick true w.m) (s.vr e w.a) (s.vr e w.b))

/-- [log: DEDUCED 120] -/
def execVmax (e : Nat) (w : OpWord) (s : State) : Host.Outcome State Fault Refusal := s.act (vmax e w)

/-- VFMA: vD := vD + vA × vB, each lane rounded once. -/
def vfma (e : Nat) (w : OpWord) (s : Dev) : Dev :=
  s.regOp 0x42 e w (vecOk w [w.a, w.b, w.d]) [] [w.a, w.b, w.d] fun s =>
    s.setV e w.d (lanesVec w.m ((List.range (typLanes w.m)).map fun i =>
      laneFma w.m (laneOf w.m (s.vr e w.d) i) (laneOf w.m (s.vr e w.a) i) (laneOf w.m (s.vr e w.b) i)))

def execVfma (e : Nat) (w : OpWord) (s : State) : Host.Outcome State Fault Refusal := s.act (vfma e w)

/-- VBC: every lane of vD := the low lane bits of gA. -/
def vbc (e : Nat) (w : OpWord) (s : Dev) : Dev :=
  s.regOp 0x45 e w (vecOk w [w.d]) [w.a] [w.d] fun s => s.setV e w.d (lanesVec w.m (List.replicate (typLanes w.m) (s.gr e w.a)))

def execVbc (e : Nat) (w : OpWord) (s : State) : Host.Outcome State Fault Refusal := s.act (vbc e w)

/-- VEXT: gD := lane IMM of vA, zero-extended; a lane the vector does not have is an operand out of range. -/
def vext (e : Nat) (w : OpWord) (s : Dev) : Dev :=
  s.regOp 0x46 e w (vecOk w [w.a] && decide (w.imm < typLanes w.m)) [w.d] [w.a] fun s => s.setG e w.d (laneOf w.m (s.vr e w.a) w.imm)

def execVext (e : Nat) (w : OpWord) (s : State) : Host.Outcome State Fault Refusal := s.act (vext e w)

/-! Reduce (R502 to R504) -/

/-- The key of slot IMM of an engine's run, where the run has it: slots are numbered in the order of its engines. -/
def Dev.slotKey (s : Dev) (e i : Nat) : Option Nat :=
  match s.runOf e with
  | some (_, r) => if i < 16 * r.engines.length then
      (r.engines[i / 16]?).map fun x => clusterOf x * 256 + 16 * (x % 16) + i % 16 else none
  | none => none
def Dev.accSlot (s : Dev) (k : Nat) : AccSlot := tget {} s.eng.slots k
def Dev.setSlot (s : Dev) (k : Nat) (x : AccSlot) : Dev := { s with eng.slots := tput {} s.eng.slots k x }

/-- The operation of an engine on a slot may take effect now (R523): no engine of a higher number has cleared the slot in this engine
cycle. [log: DEDUCED 231] -/
def Dev.slotTurn (s : Dev) (k e : Nat) : Bool := !(s.accSlot k).zeroed.any fun z => z.1 == s.engCyc && decide (e < z.2)
/-- An engine of a higher number has added to a slot in this engine cycle. -/
def Dev.slotUsed (s : Dev) (k e : Nat) : Bool := (s.accSlot k).cyc == s.engCyc && (s.accSlot k).by_.any fun x => decide (e < x)

/-- The accumulators an ACR of an engine reads: those before the additions of other engines in this engine cycle (R504). -/
def Dev.slotVals (s : Dev) (k e : Nat) : List AccV :=
  let x := s.accSlot k
  if x.cyc = s.engCyc ∧ ¬ x.by_.isEmpty ∧ ¬ x.by_.contains e then x.before else x.vals

/-- The type code of a slot whose storage another slot's type has taken (an FP64 slot occupies two). [log: DEDUCED 122] -/
abbrev slotTaken : Nat := 5

/-- ACZ: clear slot IMM and set its type to M; FP64 takes the even slot named and the next. [log: DEDUCED 122] -/
def acz (e : Nat) (w : OpWord) (s : Dev) : Dev :=
  let late := (s.slotKey e w.imm).any fun k => !s.slotTurn k e || s.slotUsed k e
  if late then s
  else s.regOp 0x50 e w (decide (w.m < 5) && (s.slotKey e w.imm).isSome && (w.m != 4 || w.imm % 2 == 0)) [] [] fun s =>
    match s.slotKey e w.imm with
    | none => s
    | some k =>
      let s1 := s.setSlot k { typ := w.m, vals := List.replicate 16 {}, zeroed := some (s.engCyc, e) }
      if w.m = 4 then s1.setSlot (k + 1) { typ := slotTaken, vals := [] }
      else if w.imm % 2 = 1 ∧ (s.accSlot (k - 1)).typ = 4 then s1.setSlot (k - 1) { typ := slotTaken, vals := [] }
      else if w.imm % 2 = 0 ∧ (s.accSlot k).typ = 4 then s1.setSlot (k + 1) {}
      else s1

def execAcz (e : Nat) (w : OpWord) (s : State) : Host.Outcome State Fault Refusal := s.act (acz e w)

/-- ACA: add the lanes of vA exactly into slot IMM, whose type M must be (R503); the elements added and those that reach
HEADROOM are counted by the cluster. [log: DEDUCED 122] -/
def aca (e : Nat) (w : OpWord) (s : Dev) : Dev :=
  let ok : Bool := match s.slotKey e w.imm with
    | some k => (s.accSlot k).typ == w.m
    | none => false
  if (s.slotKey e w.imm).any fun k => !s.slotTurn k e then s
  else s.regOp 0x51 e w (vecOk w [w.a] && ok) [] [w.a] fun s =>
    match s.slotKey e w.imm with
    | none => s
    | some k =>
      let x := s.accSlot k
      let n := typLanes w.m
      let old := (List.range 16).map fun i => x.vals.getD i {}
      let new := (old.zip (List.range 16)).map fun p => if p.2 < n then p.1.add w.m (laneOf w.m (s.vr e w.a) p.2) else p.1
      let hr := ((old.zip new).filter fun (p : AccV × AccV) => !p.1.headroom && p.2.headroom).length
      let again := x.cyc = s.engCyc ∧ ¬ x.by_.isEmpty
      let x1 := { x with vals := new, cyc := s.engCyc, by_ := if again then e :: x.by_ else [e], before := if again then x.before else x.vals }
      ((s.setSlot k x1).count .CL_ACC_CNT (clusterOf e) n).count .CL_HEADROOM_CNT (clusterOf e) hr

def execAca (e : Nat) (w : OpWord) (s : State) : Host.Outcome State Fault Refusal := s.act (aca e w)

/-- ACR: vD := slot IMM rounded by M, saturated for integers; its flags are the run's (R504). A slot whose storage another
slot's FP64 type has taken holds no value the spec states. [log: DEDUCED 122] -/
def acr (e : Nat) (w : OpWord) (s : Dev) : Dev :=
  if (s.slotKey e w.imm).any fun k => !s.slotTurn k e then s
  else s.regOp 0x52 e w (decide (w.m < 4) && decide (w.d < 8) && (s.slotKey e w.imm).isSome) [] [w.d] fun s =>
    match s.slotKey e w.imm, s.runOf e with
    | some k, some (r, run) =>
      let x := s.accSlot k
      if x.typ = slotTaken then
        let (v, s1) := s.freeNat
        s1.setV e w.d v
      else
        let rs : List (Nat × Nat) := (List.range (typLanes x.typ)).map fun i => ((s.slotVals k e).getD i {}).result x.typ w.m
        let fl := rs.foldl (fun f p => f ||| p.2) run.flags
        ({ s with eng.runs := tins s.eng.runs r { run with flags := fl } }).setV e w.d (lanesVec x.typ (rs.map Prod.fst))
    | _, _ => s

def execAcr (e : Nat) (w : OpWord) (s : State) : Host.Outcome State Fault Refusal := s.act (acr e w)

/-! Wait and signal -/

/-- WAIT: until the 8 bytes at gA, unsigned, are at least gB, or IMM µs pass (IMM 0: no limit). [log: DEDUCED 123] -/
def waitOp (e : Nat) (w : OpWord) (s : Dev) : Dev :=
  s.runOp 0x60 e w (w.m == 0) [w.a, w.b, w.d] [] fun s =>
    let a := s.gr e w.a
    let (vs, fn) := s.fnOf e
    if a % 8 ≠ 0 then (s.issued e).engFault e 2 a
    else match s.target vs fn a 8 false with
      | .inr c => (s.issued e).engFault e c a
      | .inl t =>
        if t.isWin ∧ ¬ s.bme vs fn then s.bmEnd e
        else if t.isDev ∧ ¬ (s.en e).sb.isEmpty then s
        else
          let lim := signedOf 32 w.imm
          let till := if lim = 0 then none else some (s.now + lim.toNat * tUs)
          let s1 := (s.issued e).modEn e fun x => { x with wait := some { tgt := t, bound := s.gr e w.b, d := w.d, till := till } }
          s1.setEnState e enWait

def execWaitOp (e : Nat) (w : OpWord) (s : State) : Host.Outcome State Fault Refusal := s.act (waitOp e w)

/-- A WAIT ends with a value in gD. -/
def Dev.waitEnd (s : Dev) (e d v : Nat) : Dev :=
  ((((s.modEn e fun x => { x with wait := none }).setG e d v).setEnState e enRun).nextPc e)

/-- WAIT_MET: the awaited bytes, as SRAM and LPDDR4X hold them or as a read through a window returned them, are at least gB. -/
def waitMet (e : Nat) (data : List Byte) (s : Dev) : Dev :=
  match (s.en e).wait with
  | none => s
  | some x =>
    let b := if x.tgt.isWin then data else s.readTgt e x.tgt 8
    if s.turnOk e [(x.tgt, 8)] ∧ x.bound ≤ leNat (mergeFwd ((s.en e).fwdBytes x.tgt 8) (b.take 8)) then
      (s.takeTurn e [(x.tgt, 8)]).waitEnd e x.d 0
    else s

def execWaitMet (e : Nat) (data : List Byte) (s : State) : Host.Outcome State Fault Refusal := s.act (waitMet e data)

/-- WAIT_TIMEOUT: the limit has passed; the run limit prevails in the same engine cycle (R518). [log: DEDUCED 123] -/
def waitTimeout (e : Nat) (s : Dev) : Dev :=
  match (s.en e).wait, s.runOf e with
  | some x, some (_, r) =>
    match x.till with
    | some t => if t ≤ s.now ∧ t / engCycle < r.limitAt / engCycle then s.waitEnd e x.d 1 else s
    | none => s
  | _, _ => s

def execWaitTimeout (e : Nat) (s : State) : Host.Outcome State Fault Refusal := s.act (waitTimeout e)

/-- SIG: atomic add of IMM to the 8 bytes at gA. -/
def sig (e : Nat) (w : OpWord) (s : Dev) : Dev :=
  s.runOp 0x61 e w (w.m == 0) [w.a] [] fun s => s.atomicAt e 0x10 (s.gr e w.a) 8 0 0 (immOf w.imm)

def execSig (e : Nat) (w : OpWord) (s : State) : Host.Outcome State Fault Refusal := s.act (sig e w)

/-- IRQ: send the message of the RUN's queue vector. -/
def irq (e : Nat) (w : OpWord) (s : Dev) : Dev :=
  s.regOp 0x62 e w (w.m == 0) [] [] fun s =>
    match s.runOf e with
    | some (_, r) => s.signal r.vs r.fn (s.fget Fld.SF_Q_CFG.VEC r.q) (some r.desc.way)
    | none => s

def execIrq (e : Nat) (w : OpWord) (s : State) : Host.Outcome State Fault Refusal := s.act (irq e w)

/-! Branch -/

/-- PC + IMM, modulo 2^16. -/
def Dev.jump (s : Dev) (e : Nat) (w : OpWord) : Dev := s.setPc e ((s.pc e + immOf w.imm) % 65536)

/-- B: PC := PC + IMM. -/
def b (e : Nat) (w : OpWord) (s : Dev) : Dev :=
  s.runOp 0x70 e w (w.m == 0) [] [] fun s =>
    let s1 := s.issued e
    s1.jump e w

def execB (e : Nat) (w : OpWord) (s : State) : Host.Outcome State Fault Refusal := s.act (b e w)

/-- BZ: if gA = 0 then PC := PC + IMM. -/
def bz (e : Nat) (w : OpWord) (s : Dev) : Dev :=
  s.runOp 0x71 e w (w.m == 0) [w.a] [] fun s =>
    let s1 := s.issued e
    if s.gr e w.a = 0 then s1.jump e w else s1.nextPc e

def execBz (e : Nat) (w : OpWord) (s : State) : Host.Outcome State Fault Refusal := s.act (bz e w)

/-- BNZ: if gA ≠ 0 then PC := PC + IMM. -/
def bnz (e : Nat) (w : OpWord) (s : Dev) : Dev :=
  s.runOp 0x72 e w (w.m == 0) [w.a] [] fun s =>
    let s1 := s.issued e
    if s.gr e w.a = 0 then s1.nextPc e else s1.jump e w

def execBnz (e : Nat) (w : OpWord) (s : State) : Host.Outcome State Fault Refusal := s.act (bnz e w)

/-- CALL: g15 := PC + 1; PC := PC + IMM. -/
def call (e : Nat) (w : OpWord) (s : Dev) : Dev :=
  s.runOp 0x73 e w (w.m == 0) [15] [] fun s =>
    let s1 := s.issued e
    (s1.setG e 15 (s.pc e + 1)).jump e w

def execCall (e : Nat) (w : OpWord) (s : State) : Host.Outcome State Fault Refusal := s.act (call e w)

/-- RET: PC := g15[15:0]. -/
def ret (e : Nat) (w : OpWord) (s : Dev) : Dev :=
  s.runOp 0x74 e w (w.m == 0) [15] [] fun s =>
    let s1 := s.issued e
    s1.setPc e (s.gr e 15)

def execRet (e : Nat) (w : OpWord) (s : State) : Host.Outcome State Fault Refusal := s.act (ret e w)

/-- END: the engine ends its part of the run once its accesses have completed; g1 of engine 0 is the result; the run ends
with its last engine (R491, R515). -/
def endOp (e : Nat) (w : OpWord) (s : Dev) : Dev :=
  s.runOp 0x75 e w (w.m == 0) [] [] fun s =>
    match s.runOf e with
    | none => s
    | some (r, run) =>
      if (s.en e).acc.any fun a => !a.kind.isPrefetch then s
      else
        let s1 := (s.issued e).modEn e fun x => { x with ended := true }
        let run1 := if run.engines.head? = some e then { run with result := s.gr e 1 } else run
        let s2 := { s1 with eng.runs := tins s1.eng.runs r run1 }
        if run.engines.all fun i => (s2.en i).ended then s2.endRun r else s2

def execEndOp (e : Nat) (w : OpWord) (s : State) : Host.Outcome State Fault Refusal := s.act (endOp e w)

/-! Barriers (R531 to R534) -/

/-- Every earlier load, copy, fill and atomic has completed (R531). -/
def Eng.loadsDone (x : Eng) : Bool := x.acc.all fun a => a.kind.isPrefetch

/-- Every earlier store to SRAM and to LPDDR4X has left the store buffer (R532). -/
def Eng.localStoresDone (x : Eng) : Bool := x.sb.all fun t => t.tgt.isWin

/-- BAR with M = 0: completes once R531 holds, with 0 in gD. [log: DEDUCED 118] -/
def barEngine (e : Nat) (w : OpWord) (s : Dev) : Dev :=
  if w.m = 1 ∨ w.m = 2 then s else
  s.runOp 0x78 e w (w.m == 0) [w.d] [] fun s =>
    if (s.en e).loadsDone then ((s.issued e).setG e w.d 0).nextPc e else s

def execBarEngine (e : Nat) (w : OpWord) (s : State) : Host.Outcome State Fault Refusal := s.act (barEngine e w)

/-- BAR with M = 1: R532 as well; the prefetch buffer is emptied. [log: DEDUCED 118] -/
def barCluster (e : Nat) (w : OpWord) (s : Dev) : Dev :=
  if w.m = 0 ∨ w.m = 2 then s else
  s.runOp 0x78 e w (w.m == 1) [w.d] [] fun s =>
    if (s.en e).loadsDone && (s.en e).localStoresDone then
      (((s.issued e).modEn e Eng.pfClear).setG e w.d 0).nextPc e
    else s

def execBarCluster (e : Nat) (w : OpWord) (s : State) : Host.Outcome State Fault Refusal := s.act (barCluster e w)

/-- BAR with M = 2: waits until every earlier store has left the store buffer, then sends one flush read to each destination
of the flush set (R533, R549); with an empty set it completes at once. [log: DEDUCED 118] -/
def barSystem (e : Nat) (w : OpWord) (s : Dev) : Dev :=
  if w.m = 0 ∨ w.m = 1 then s else
  s.runOp 0x78 e w (w.m == 2) [w.d] [] fun s =>
    let x := s.en e
    let (vs, fn) := s.fnOf e
    if ¬ x.loadsDone ∨ ¬ x.sb.isEmpty ∨ ¬ s.flushTags e vs fn then s
    else if x.flush.isEmpty then (((s.issued e).modEn e Eng.pfClear).setG e w.d 0).nextPc e
    else if ¬ s.bme vs fn then s.bmEnd e
    else
      let s1 := (s.issued e).modEn e fun x => { x with bar := some { scope := 2, d := w.d, sent := true } }
      s1.flushReads e vs fn

def execBarSystem (e : Nat) (w : OpWord) (s : State) : Host.Outcome State Fault Refusal := s.act (barSystem e w)

/-- The flush reads of an engine end. -/
def Dev.flushDone (s : Dev) (e : Nat) : Dev :=
  { s with sf.reqs := s.sf.reqs.filter fun r => match r.use with
    | .flush x _ => x != e
    | _ => true }

/-- A barrier's flush is over (R534, R548): the set is empty; a system barrier writes 0 where every read completed
successfully and 1 otherwise. -/
def Dev.barrierDone (s : Dev) (e : Nat) (b : Barrier) (bad : Bool) : Dev :=
  let s1 := (s.flushDone e).modEn e fun x => let y := { x with bar := none, flush := [] }; if b.scope = 2 then y.pfClear else y
  if b.scope = 2 then (s1.setG e b.d (b2n bad)).nextPc e else s1

/-- SYSTEM_BARRIER_COMPLETE (R549): every flush read has completed or expired, each successfully or not; the run limit of the same
engine cycle prevails (R552). [log: DEDUCED 128] -/
def systemBarrierComplete (e : Nat) (oks : List Bool) (s : Dev) : Dev :=
  match (s.en e).bar with
  | none => s
  | some b =>
    let past := (s.runOf e).any fun r => decide (r.2.limitAt / engCycle ≤ s.engCyc)
    if b.sent ∧ ¬ past then s.barrierDone e b (b.failed || oks.any (!·)) else s

def execSystemBarrierComplete (e : Nat) (oks : List Bool) (s : State) : Host.Outcome State Fault Refusal :=
  s.act (systemBarrierComplete e oks)

/-! What the memory system does -/

/-- A store may become visible: no earlier access or store to the same bytes is behind (R525), a device store leaves after every
earlier device access (R528), and no earlier copy or fill is outstanding. [log: DEDUCED 116, DEDUCED 117] -/
def Eng.storeReady (x : Eng) (t : StoreE) : Bool :=
  (x.sb.all fun u => decide (t.seq ≤ u.seq) || (!overlap u.tgt u.data.length t.tgt t.data.length && !(u.tgt.isDev && t.tgt.isDev))) &&
    (x.acc.all fun a => decide (t.seq < a.seq) || (!overlap a.tgt a.len t.tgt t.data.length && (match a.kind with
      | .copy _ _ => false
      | .fill _ => false
      | _ => true)))

/-- STORE_VISIBLE (R522, R523): a store leaves the buffer and reaches its point of visibility. [log: DEDUCED 116] -/
def storeVisible (e seq : Nat) (s : Dev) : Dev :=
  match (s.en e).sb.find? fun t => t.seq == seq with
  | none => s
  | some t =>
    if ¬ (s.en e).storeReady t ∨ ¬ s.turnOk e [(t.tgt, t.data.length)] then s
    else
      let (vs, fn) := s.fnOf e
      let s1 := ((s.takeTurn e [(t.tgt, t.data.length)]).modEn e fun x => { x with sb := x.sb.filter (·.seq != seq) }).writeStore e t vs fn
      if t.tgt.isWin then s1.fcount vs fn 4 t.data.length else s1

def execStoreVisible (e seq : Nat) (s : State) : Host.Outcome State Fault Refusal := s.act (storeVisible e seq)

/-- An outstanding access ends as its data or an error comes back. -/
def Dev.accessEnd (s : Dev) (e : Nat) (a : Access) (r : AccEnd) : Dev :=
  match r with
  | .error => if a.tag.isSome then s.accError e a else s
  | .ok data =>
    let (vs, fn) := s.fnOf e
    let s1 := s.accFinish e a data
    if a.tag.isSome then s1.fcount vs fn 3 a.len else s1

/-- ACCESS_COMPLETE (R523, R525, R531): an access of normal memory takes effect. [log: DEDUCED 116] -/
def accessComplete (e seq : Nat) (r : AccEnd) (s : Dev) : Dev :=
  let x := s.en e
  match x.acc.find? fun a => a.seq == seq with
  | none => s
  | some a => if x.hold = some seq ∨ ¬ x.accReady a ∨ ¬ s.turnOk e (s.accTgts e a) then s else (s.takeTurn e (s.accTgts e a)).accessEnd e a r

def execAccessComplete (e seq : Nat) (r : AccEnd) (s : State) : Host.Outcome State Fault Refusal := s.act (accessComplete e seq r)

/-- DEVICE_LOAD_RETURN (R529): what the engine is held for comes back. [log: DEDUCED 116] -/
def deviceLoadReturn (e : Nat) (r : AccEnd) (s : Dev) : Dev :=
  let x := s.en e
  match x.hold.bind fun h => x.acc.find? fun a => a.seq == h with
  | none => s
  | some a => s.accessEnd e a r

def execDeviceLoadReturn (e : Nat) (r : AccEnd) (s : State) : Host.Outcome State Fault Refusal := s.act (deviceLoadReturn e r)

/-- PREFETCH_ENTRY_EXPIRY (R544): an entry filled 2 µs ago. -/
def prefetchEntryExpiry (e addr : Nat) (s : Dev) : Dev :=
  s.modEn e fun x => { x with pf := x.pf.filter fun p => !(p.addr == addr && decide (p.filledAt + 2 * tUs ≤ s.now)) }

def execPrefetchEntryExpiry (e addr : Nat) (s : State) : Host.Outcome State Fault Refusal := s.act (prefetchEntryExpiry e addr)

/-- ENGINE_SAMPLE (R520): the PC of the operation that completed the count, or of one `ahead` operations after it, at most six.
[log: DEDUCED 137] -/
def engineSample (e ahead : Nat) (s : Dev) : Dev :=
  let x := s.en e
  let ev := s.fget Fld.EN_SMP_CFG.EVENT e
  let per := 2 ^ s.fget Fld.EN_SMP_CFG.PERIOD_EXP e * engCycle
  let pcs := if ev = 1 then (if x.smpFrom + per ≤ s.now then [s.pc e] else []) else if ev = 3 then [s.pc e] else x.smpPcs
  match s.runOf e, pcs[ahead]? with
  | some (_, r), some pc =>
    if ¬ s.fbit Fld.EN_SMP_CFG.SMP_EN e then s
    else
      let s0 := { s with eng.sample := tput 0 s.eng.sample (sfKey r.vs r.fn) (r.slot * 2 ^ 32 + pc) }
      let s1 := (s0.modEn e fun x => { x with smpPcs := [], smpFrom := if ev = 1 then x.smpFrom + per else x.smpFrom }).raise (evEngine e)
      if s.fbit Fld.EN_SMP_PC.VALID e then s1.fset Fld.EN_SMP_PC.MORE e 1
      else s1.fsets e [(Fld.EN_SMP_PC.VALID, 1), (Fld.EN_SMP_PC.SLOT, r.slot), (Fld.EN_SMP_PC.PC, pc)]
  | _, _ => s

def execEngineSample (e ahead : Nat) (s : State) : Host.Outcome State Fault Refusal := s.act (engineSample e ahead)

end Sys2Proof.Machine
end

