-- ==== Sys2Proof/Machine/Run.lean ====
section
/-! DEFINITION. The dispatch of queue descriptors to engines (R491, R506 to R519): RUN, its quantum and its limit, COPY and NOP. -/
namespace Sys2Proof.Machine

/-! RUN -/

/-- The ARG number i of a RUN's body. -/
def Desc.arg (d : Desc) (i : Nat) : Nat := leNat ((d.body.drop (8 * i)).take 8)

/-- The slot of an ACTIVE program of a VS that a handle names (R508, R509); in the engine cycle of a RETIRE it still serves. -/
def Dev.progOf (s : Dev) (vs handle : Nat) : Option Nat :=
  let slot := handle % 256
  let p := tget {} s.eng.progs slot
  if (p.state = 3 ∨ (p.state = 4 ∧ p.retireAt = s.engCyc)) ∧ p.vs = vs ∧ p.gen % 2 ^ 24 = handle / 256 then some slot else none

/-- A waiting RUN: its queue, descriptor and function. -/
structure WaitRun where
  q : Nat
  desc : Desc
  vs : Nat
  fn : Nat
  deriving DecidableEq, Repr

/-- The RUN descriptors that R514 and R513 let start, of functions with a weight in force (R516). [log: DEDUCED 135] -/
def Dev.waitingRuns (s : Dev) : List WaitRun :=
  s.sf.qs.filterMap fun e => match e.2.owner, s.startable e.1 with
    | some (vs, fn, _), some d =>
      if d.kind = 1 ∧ ¬ s.inFlr vs fn ∧ tget 0 s.eng.weights (sfKey vs fn) ≠ 0 then some { q := e.1, desc := d, vs := vs, fn := fn } else none
    | _, _ => none

/-- The engine cycles a function has used in the present quantum, those of its runs in progress among them. -/
def Dev.cyclesUsed (s : Dev) (k : Nat) : Nat :=
  let q0 := s.eng.quantumStart
  tget 0 s.eng.used k + s.eng.runs.foldl (fun n e =>
    if sfKey e.2.vs e.2.fn = k then n + (s.now - max e.2.startAt q0) / engCycle * e.2.engines.length else n) 0

/-- The first of two waiting RUNs is dispatched before the second: less use for its weight, then the lower function.
[log: DEDUCED 136] -/
def Dev.runBefore (s : Dev) (a b : WaitRun) : Bool :=
  let ka := sfKey a.vs a.fn
  let kb := sfKey b.vs b.fn
  let ua := s.cyclesUsed ka * tget 0 s.eng.weights kb
  let ub := s.cyclesUsed kb * tget 0 s.eng.weights ka
  decide (ua < ub) || (ua == ub && decide (ka < kb))

/-- The idle engines of a cluster. -/
def Dev.freeEngines (s : Dev) (c : Nat) : List Nat := ((List.range 16).map (16 * c + ·)).filter fun e => (s.en e).run.isNone

/-- A program has a run on a cluster. -/
def Dev.runsOn (s : Dev) (c slot : Nat) : Bool := s.eng.runs.any fun e => e.2.cluster == c && e.2.slot == slot

/-- Programs leave a code area, least recently used first and none with a run, until `need` words more fit in 65,536 (R510).
[log: DEDUCED 134] -/
def Dev.evict (s : Dev) (c need : Nat) : Nat → List Resident → Option (List Resident)
  | 0, l => if (l.map (·.words)).sum + need ≤ 65536 then some l else none
  | n + 1, l =>
    if (l.map (·.words)).sum + need ≤ 65536 then some l
    else
      let out := l.filter fun r => !s.runsOn c r.slot
      match out with
      | [] => none
      | r :: t =>
        let o := t.foldl (fun m x => if x.last < m.last then x else m) r
        s.evict c need n (l.filter fun x => x != o)

/-- The residents of a cluster once a program is placed there, or none while it cannot be. [log: DEDUCED 134] -/
def Dev.placed (s : Dev) (c slot : Nat) : Option (List Resident) :=
  let l := tget [] s.eng.res c
  let w := s.progWords slot
  let l0 := l.filter fun r => r.slot != slot
  if l.any (fun r => r.slot == slot && r.words == w) then
    some (l.map fun r => if r.slot = slot then { r with last := s.now } else r)
  else (s.evict c w l0.length l0).map fun k => k ++ [{ slot := slot, words := w, last := s.now }]

/-- The registers of engine `e`, index `i` of `n`, at the start of a RUN (R491). -/
def startRegs (d : Desc) (e i n : Nat) : List Nat :=
  (0 :: (List.range 8).map d.arg) ++ [i, n, 0, 0, 0, 0x84000 + 0x4000 * (e % 16), 0]

/-- A RUN starts on engines of a cluster. -/
def Dev.startRun (s : Dev) (c slot : Nat) (w : WaitRun) (es : List Nat) : Dev :=
  let r := s.eng.nextRun
  let d := w.desc
  let entry := leNat (((tget {} s.eng.progs slot).image.drop 6).take 2)
  let run : Run := { vs := w.vs, fn := w.fn, q := w.q, desc := d, slot := slot, cluster := c, engines := es, startAt := s.now,
                     limitAt := s.now + tUs * 2 ^ s.fget Fld.CL_SCHED.LIMIT_EXP 0 }
  let s1 := (s.startDesc w.q d.idx).fset Fld.CL_STAT.BUSY c (s.fget Fld.CL_STAT.BUSY c + es.length)
  let s2 := { s1 with eng.runs := tins s1.eng.runs r run, eng.nextRun := r + 1 }
  each (es.zip (List.range es.length)) s2 fun s p =>
    let s3 := s.modEn p.1 fun x => { ({} : Eng) with g := startRegs d p.1 p.2 es.length, run := some r, busySince := s.now, nextSeq := x.nextSeq, smp := x.smp, smpFrom := x.smpFrom }
    s3.fsets p.1 [(Fld.EN_STAT.STATE, enRun), (Fld.EN_STAT.VS, w.vs), (Fld.EN_STAT.FN, w.fn), (Fld.EN_PC.SLOT, slot), (Fld.EN_PC.PC, entry)]

/-- RUN_DISPATCH (R509, R510, R516): the dispatcher looks at one customer cluster. A RUN that names no ACTIVE program completes;
otherwise the best function whose RUN fits the cluster's free engines, and whose code can be placed, gets them.
[log: DEDUCED 135] -/
def runDispatch (cluster : Nat) (s : Dev) : Dev :=
  if cluster < 4 ∨ 15 < cluster then s
  else
    let ws := s.waitingRuns
    match ws.find? fun w => (s.progOf w.vs w.desc.prog).isNone with
    | some w => s.complete w.q w.desc.idx { status := 6 }
    | none =>
      let free := s.freeEngines cluster
      let fit := ws.filter fun w => decide (w.desc.neng ≤ free.length) && ((s.progOf w.vs w.desc.prog).bind (s.placed cluster)).isSome
      match fit with
      | [] => s
      | w0 :: t =>
        let w := t.foldl (fun m x => if s.runBefore x m then x else m) w0
        match s.progOf w.vs w.desc.prog with
        | none => s
        | some slot => match s.placed cluster slot with
          | none => s
          | some l => (s.setResidents cluster l).startRun cluster slot w (free.take w.desc.neng)

def execRunDispatch (cluster : Nat) (s : State) : Host.Outcome State Fault Refusal := s.act (runDispatch cluster)

/-- QUANTUM_BOUNDARY (R236, R517): the cycles used start again, and the weights SF_RES.ENG take effect. [log: DEDUCED 135] -/
def quantumBoundary (s : Dev) : Dev :=
  if s.now < s.eng.quantumEnd then s
  else
    let keys := (s.sf.qs.filterMap fun e => e.2.owner.map fun o => sfKey o.1 o.2.1)
    let ws := keys.foldl (fun (t : Tbl Nat) k => tput 0 t k (s.fget Fld.SF_RES.ENG k)) []
    { s with eng.used := [], eng.weights := ws, eng.quantumStart := s.now, eng.quantumEnd := s.now + tUs * 2 ^ s.fget Fld.CL_SCHED.QEXP 0 }

def execQuantumBoundary (s : State) : Host.Outcome State Fault Refusal := s.act quantumBoundary

/-- RUN_LIMIT_EXPIRY (R518): a run that has not ended within its limit faults. -/
def runLimitExpiry (run : Nat) (s : Dev) : Dev :=
  match tfind s.eng.runs run with
  | none => s
  | some x =>
    if s.now < x.limitAt then s
    else match x.engines.find? fun e => !(s.en e).ended with
      | some e => s.engFaultOpen e 6
      | none => s

def execRunLimitExpiry (run : Nat) (s : State) : Host.Outcome State Fault Refusal := s.act (runLimitExpiry run)

/-! COPY and NOP -/

/-- Where a COPY descriptor of a queue reads, writes, and how much. -/
def Desc.copySrc (d : Desc) : Nat := d.arg 0
def Desc.copyDst (d : Desc) : Nat := d.arg 1
def Desc.copyLen (d : Desc) : Nat := d.arg 2

/-- The first fault of a COPY's ranges: cluster SRAM is in no region of a descriptor that no customer cluster runs (R492, R513).
[log: DEDUCED 132] -/
def Dev.copyFault (s : Dev) (vs fn : Nat) (d : Desc) : Option (Nat × Nat) :=
  if d.copySrc < 0x200000 then some (3, d.copySrc) else if d.copyDst < 0x200000 then some (3, d.copyDst)
  else (s.rangeFault vs fn d.copySrc d.copyLen false).or (s.rangeFault vs fn d.copyDst d.copyLen true)

/-- A firmware descriptor's read through a window ends. [log: DEDUCED 133] -/
def Dev.firmDone (s : Dev) (q idx : Nat) : Dev := { s with sf.reqs := s.sf.reqs.filter fun r => r.use != SfUse.firmware q idx }

/-- The move of a COPY and its completion, with the bytes that its reads through windows brought. [log: DEDUCED 131] -/
def Dev.copyFinish (s : Dev) (q vs fn : Nat) (d : Desc) (data : List Byte) : Dev :=
  let s0 := s.firmDone q d.idx
  let b := s.rangeRead 0 vs fn (pieces d.copySrc d.copyLen) data
  (s0.rangeWrite 0 d.idx vs fn (some d.way) (pieces d.copyDst d.copyLen) b).complete q d.idx { result := d.copyLen }

/-- COPY_DESCRIPTOR (R513): a queue's next descriptor, a COPY, starts: its addresses resolve for its function, and what it reads
through a window is asked for; a fault of its addresses completes it. [log: DEDUCED 133] -/
def copyDescriptor (q : Nat) (s : Dev) : Dev :=
  match (s.sfq q).owner, s.startable q with
  | some (vs, fn, _), some d =>
    if d.kind ≠ 2 ∨ s.inFlr vs fn then s
    else
      let win := s.rangeHas vs fn d.copySrc d.copyLen EngTgt.isWin
      let wout := s.rangeHas vs fn d.copyDst d.copyLen EngTgt.isWin
      match s.copyFault vs fn d with
      | some (c, a) => (s.startDesc q d.idx).complete q d.idx { status := 1, fcode := c, faddr := a }
      | none =>
        if (win || wout) && !s.bme vs fn then (s.startDesc q d.idx).complete q d.idx { status := 5 }
        else if win then
          match s.freeTag vs fn with
          | none => s
          | some t => ((s.startDesc q d.idx).sfSend vs fn t (.firmware q d.idx)).emit (.hostRead vs fn t d.copySrc d.copyLen (some d.way))
        else s.startDesc q d.idx
  | _, _ => s

def execCopyDescriptor (q : Nat) (s : State) : Host.Outcome State Fault Refusal := s.act (copyDescriptor q)

/-- COPY_COMPLETE (R514, R515): the oldest COPY in progress of a queue has moved all its bytes; `data` are those read through windows.
[log: DEDUCED 131] -/
def copyComplete (q moved : Nat) (data : List Byte) (s : Dev) : Dev :=
  match (s.sfq q).owner, (s.sfq q).descs.find? fun d => d.started && d.kind == 2 with
  | some (vs, fn, _), some d => if moved ≠ d.copyLen then s else s.copyFinish q vs fn d data
  | _, _ => s

def execCopyComplete (q moved : Nat) (data : List Byte) (s : State) : Host.Outcome State Fault Refusal := s.act (copyComplete q moved data)

/-- NOP_DESCRIPTOR (R513): a queue's next descriptor, a NOP, starts and completes. -/
def nopDescriptor (q : Nat) (s : Dev) : Dev :=
  match (s.sfq q).owner, s.startable q with
  | some (vs, fn, _), some d => if d.kind ≠ 4 ∨ s.inFlr vs fn then s else (s.startDesc q d.idx).complete q d.idx {}
  | _, _ => s

def execNopDescriptor (q : Nat) (s : State) : Host.Outcome State Fault Refusal := s.act (nopDescriptor q)

end Sys2Proof.Machine
end

