-- ==== Sys2Proof/Machine/Coll.lean ====
section
/-! DEFINITION. Collectives (R455, R456, R465 to R487): requests, instances, chunks and credits, packed partials, aborts. A group's
instance goes on as each message or request comes; every up, down, credit and abort message it sends is in the outbox. -/
namespace Sys2Proof.Machine

/-! Groups -/

/-- [log: DEDUCED 31] -/
def Dev.grp (s : Dev) (g : Nat) : Grp := tget {} s.coll g
def Dev.modGrp (s : Dev) (g : Nat) (f : Grp → Grp) : Dev := { s with coll := tmod {} s.coll g f }
def Dev.modInst (s : Dev) (g : Nat) (f : CollInst → CollInst) : Dev := s.modGrp g fun x => { x with inst := x.inst.map f }
def Dev.iseq (s : Dev) (g : Nat) : Nat := s.fget Fld.CL_GRP_STAT.ISEQ g

/-- The children of this member: place and FSID. -/
def Dev.collKids (s : Dev) (g : Nat) : List (Nat × Nat) :=
  (List.range 16).filterMap fun i => if s.fbit Fld.CL_GRP_CHILD.VALID (16 * g + i) then
    some (i, s.fget Fld.CL_GRP_CHILD.FSID (16 * g + i)) else none

/-- The member's parent, none at the root. -/
def Dev.collParent (s : Dev) (g : Nat) : Option Nat :=
  if s.fbit Fld.CL_GRP_PARENT.PV g then some (s.fget Fld.CL_GRP_PARENT.PARENT g) else none

/-- The child whose message comes from a switch. -/
def Dev.kidOf (s : Dev) (g src : Nat) : Option Nat := ((s.collKids g).find? fun k => k.2 == src).map (·.1)

/-- Elements of a chunk, and bytes of an element (R473, R476). -/
def chunkElems (t : Nat) : Nat := if t = 4 then 8 else 64
def elemBytes (t : Nat) : Nat := typWidth t / 8
def chunkCount (t count : Nat) : Nat := ceilDiv count (chunkElems t)

/-- Chunks of a down message: as many as fit in 4,080 bytes of elements, up to 15 (R473). -/
def downChunks (t : Nat) : Nat := min 15 (4080 / (chunkElems t * elemBytes t))

/-! Combining (R476 to R482) -/

/-- The elements of chunk `k` in a member's data. -/
def chunkOf (t count k : Nat) (data : List Byte) : List Nat :=
  let w := elemBytes t
  (List.range (min (chunkElems t) (count - k * chunkElems t))).map fun i => leNat ((data.drop ((k * chunkElems t + i) * w)).take w)

/-- The first of two partials comes before the second in exact order, −0 below +0 (R481). [log: DEDUCED 111] -/
def AccV.before (a b : AccV) : Bool :=
  if a.ninf then !b.ninf else if b.ninf then false
  else if b.pinf then !a.pinf else if a.pinf then false
  else decide (a.sum < b.sum) || (decide (a.sum = b.sum) && a.nz && !b.nz)

/-- Two partials of an operation combined: a sum, or the lesser or greater with NaN kept (R478, R481). [log: DEDUCED 111] -/
def AccV.combine (red : Nat) (a b : AccV) : AccV :=
  if red = 0 then a.join b
  else if a.n = 0 then b else if b.n = 0 then a
  else if a.nan ∨ b.nan then { a with nan := true }
  else if red = 1 then (if b.before a then b else a) else (if a.before b then b else a)

/-- Lists of partials combined element by element. -/
def combineAll (red : Nat) (a b : List AccV) : List AccV :=
  (List.range (max a.length b.length)).map fun i => (a.getD i {}).combine red (b.getD i {})

/-- The partials of one request's chunk. -/
def elemAccs (t : Nat) (l : List Nat) : List AccV := l.map fun x => ({} : AccV).add t x

/-! Packed partials (R483) -/

def limbsOf (t : Nat) : Nat := if t = 0 then 2 else if t = 1 then 4 else if t = 4 then 68 else 10
def blockElems (t : Nat) : Nat := if t = 4 then 8 else 16

/-- The flags of a partial: NAN, PINF, NINF and NZ from bit 3 down. -/
def AccV.flagBits (a : AccV) : Nat := 8 * b2n a.nan + 4 * b2n a.pinf + 2 * b2n a.ninf + b2n a.nz

/-- The lowest limb with a bit of an accumulator that is not 0. -/
def lowLimb (limbs x : Nat) : Nat := ((List.range limbs).find? fun j => x / 2 ^ (32 * j) % 2 ^ 32 != 0).getD limbs

/-- One block: the smallest L with its BASE. -/
def packBlock (t : Nat) (l : List AccV) : List Byte :=
  let n := limbsOf t
  let w := 32 * n
  let enc := l.map fun a => unsignedOf w a.sum
  let base := enc.foldl (fun m x => min m (lowLimb n x)) n
  let need := ((List.range (n + 1)).find? fun k => enc.all fun x =>
    unsignedOf w (signedOf (32 * k) (x / 2 ^ (32 * base)) * Int.ofNat (2 ^ (32 * base))) == x && (k != 0 || x == 0)).getD n
  let fp := l.any fun a => a.flagBits != 0
  let base' := if need = 0 then 0 else base
  leBytes 8 (base' * 2 ^ 56 + need * 2 ^ 48 + b2n fp * 2 ^ 47) ++
    (if fp then leBytes 8 ((l.zip (List.range l.length)).foldl (fun v p => v + p.1.flagBits * 16 ^ p.2) 0) else []) ++
    enc.flatMap fun x => leBytes (4 * need) (x / 2 ^ (32 * base) % 2 ^ (32 * need))

/-- A list cut into pieces of `k`. -/
def splitN {α : Type} (k : Nat) : Nat → List α → List (List α)
  | 0, _ => []
  | n + 1, l => if l.isEmpty then [] else l.take k :: splitN k n (l.drop k)

/-- A chunk in packed form. -/
def packChunk (t : Nat) (l : List AccV) : List Byte := (splitN (blockElems t) l.length l).flatMap (packBlock t)

/-- A block of `n` elements read back, with the bytes after it; none where it cannot be one. -/
def unpackBlock (t n : Nat) (b : List Byte) : Option (List AccV × List Byte) :=
  let h := leNat (b.take 8)
  let base := h / 2 ^ 56
  let l := h / 2 ^ 48 % 256
  let fp := h.testBit 47
  let b1 := b.drop 8
  let fl := if fp then leNat (b1.take 8) else 0
  let b2 := if fp then b1.drop 8 else b1
  if b.length < 8 ∨ limbsOf t < base + l ∨ h % 2 ^ 47 ≠ 0 ∨ b2.length < 4 * l * n ∨ (fp ∧ b1.length < 8) then none
  else
    let v := (List.range n).map fun i =>
      let x := leNat ((b2.drop (4 * l * i)).take (4 * l))
      let f := fl / 16 ^ i % 16
      ({ sum := if l = 0 then 0 else signedOf (32 * l) x * Int.ofNat (2 ^ (32 * base)), n := 1, nan := f.testBit 3, pinf := f.testBit 2,
         ninf := f.testBit 1, nz := f.testBit 0 } : AccV)
    some (v, b2.drop (4 * l * n))

/-- A chunk of `n` elements read back from packed form. -/
def unpackChunk (t : Nat) : Nat → Nat → List Byte → Option (List AccV)
  | 0, n, b => if n = 0 ∧ b.isEmpty then some [] else none
  | fuel + 1, n, b =>
    if n = 0 then (if b.isEmpty then some [] else none)
    else (unpackBlock t (min n (blockElems t)) b).bind fun p =>
      (unpackChunk t fuel (n - min n (blockElems t)) p.2).map fun r => p.1 ++ r

/-! Messages -/

/-- The header of a message of a group's present instance. [log: DESIGN CHOICE 110] -/
def Dev.collHdr (s : Dev) (g kind : Nat) (r : CollReq) : CollMsg :=
  { kind := kind, op := r.op, typ := r.typ, red := r.red, rnd := r.rnd, nch := 1, group := g, gen := s.fget Fld.CL_GRP_CTL.GEN g,
    iseq := s.iseq g, count := r.count, chunk := 0, status := 0, payload := [] }

/-- A firmware descriptor's read that is still awaited is abandoned (R246). -/
def Dev.firmDrop (s : Dev) (q idx : Nat) : Dev :=
  each (s.sf.reqs.filter fun r => r.use == SfUse.firmware q idx) s fun s r => s.sfQuarantine r true

/-- The operation of an instance, as its first request names it. -/
def CollInst.head (i : CollInst) : CollReq := i.reqs.headD { q := 0, idx := 0 }

/-- A message agrees with a member's instance (R471). [log: DEDUCED 112] -/
def Dev.collAgrees (s : Dev) (g : Nat) (i : CollInst) (m : CollMsg) : Bool :=
  let r := i.head
  m.gen == s.fget Fld.CL_GRP_CTL.GEN g && m.op == r.op && m.typ == r.typ && m.red == r.red && m.rnd == r.rnd && m.count == r.count

/-- The same message to each of a list of switches. [log: DESIGN CHOICE 110] -/
def Dev.collSend (s : Dev) (dst : List Nat) (m : CollMsg) : Dev := each dst s fun s d => s.emit (.coll d m)

/-- The tree neighbours of a member. -/
def Dev.collNbrs (s : Dev) (g : Nat) : List Nat := (s.collParent g).toList ++ (s.collKids g).map (·.2)

/-! The end of an instance -/

/-- A group's instance ends with a status: its requests complete, ISEQ advances (R470, R485, R486). [log: DEDUCED 113] -/
def Dev.collEnd (s : Dev) (g : Nat) (reqs : List CollReq) (status flags : Nat) : Dev :=
  let s1 := each reqs s fun s r => if r.gone then s else (s.firmDrop r.q r.idx).complete r.q r.idx { status := status, flags := flags }
  let s2 := s1.count (if status = 0 then .CL_COLL_DONE_CNT else .CL_COLL_ABORT_CNT) 0 1
  let s3 := s2.fsets g [(Fld.CL_GRP_STAT.LAST, status), (Fld.CL_GRP_STAT.ISEQ, (s.iseq g + 1) % 65536), (Fld.CL_GRP_STAT.BUSY, 0)]
  s3.modGrp g fun x => { x with inst := none, owed := [], credits := 0 }

/-- The local requests of the present instance: those of the instance in progress, or those that wait for it to start. -/
def Dev.collLocal (s : Dev) (g : Nat) : List CollReq :=
  match (s.grp g).inst with
  | some i => i.reqs
  | none => (s.grp g).waiting

/-- An abort of the present instance: `said` is the status its ABORT carries, sent to every neighbour but `except` (R485, R486).
[log: DEDUCED 113] -/
def Dev.collAbortAs (s : Dev) (g status said : Nat) (except : Option Nat) : Dev :=
  let reqs := s.collLocal g
  let m : CollMsg := { s.collHdr g 4 (reqs.headD { q := 0, idx := 0 }) with status := said }
  let s1 := s.collSend ((s.collNbrs g).filter fun f => some f != except) m
  let s2 := if (s.grp g).inst.isNone then s1.modGrp g fun x => { x with waiting := [] } else s1
  s2.collEnd g reqs status 0

/-- This member aborts the instance (R485). [log: DEDUCED 113] -/
def Dev.collFail (s : Dev) (g status : Nat) : Dev := s.collAbortAs g status status none

/-! Progress -/

/-- A child is owed a credit, and eight owed are sent (R474). -/
def Dev.owe (s : Dev) (g kid : Nat) : Dev :=
  let o := tget (0, 0) (s.grp g).owed kid
  let n := o.1 + 1
  let since := if o.1 = 0 then s.now else o.2
  if n < 8 then s.modGrp g fun x => { x with owed := tput (0, 0) x.owed kid (n, since) }
  else
    let r : CollReq := match (s.grp g).inst with
      | some i => i.head
      | none => { q := 0, idx := 0 }
    let s1 := s.modGrp g fun x => { x with owed := tdel x.owed kid }
    s1.emit (.coll (s.fget Fld.CL_GRP_CHILD.FSID (16 * g + kid)) { s.collHdr g 3 r with chunk := n })

/-- Every local request has its data. -/
def CollInst.dataHere (i : CollInst) : Bool := i.reqs.all fun r => r.data.isSome

/-- The partials of chunk `k` at this member, once every child and every local request has contributed. -/
def Dev.chunkReady (s : Dev) (g : Nat) (i : CollInst) (k : Nat) : Option (List AccV) :=
  let c := tget {} i.chunks k
  let h := i.head
  if i.dataHere && (s.collKids g).all (fun d => c.from_.contains d.1) then
    some (i.reqs.foldl (fun a r => combineAll h.red a (elemAccs h.typ (chunkOf h.typ h.count k (r.data.getD [])))) c.vals)
  else none

/-- A chunk is consumed: counted at its cluster, its buffers' credits owed to the children (R473, R474). -/
def Dev.chunkUsed (s : Dev) (g k n : Nat) (i : CollInst) : Dev :=
  let kids := s.collKids g
  let s1 := s.count .CL_ACC_CNT (k % 4) (n * (i.reqs.length + kids.length))
  (each kids s1 fun s d => s.owe g d.1).modInst g fun i => { i with chunks := tdel i.chunks k }

/-- A member that has its data, and its children's, for the next chunk sends it up while it holds a credit.
[log: DEDUCED 109] -/
def Dev.sendUps (s : Dev) (g parent : Nat) : Nat → Dev
  | 0 => s
  | fuel + 1 =>
    match (s.grp g).inst with
    | none => s
    | some i =>
      let h := i.head
      let k := i.upNext
      if chunkCount h.typ h.count ≤ k ∨ (s.grp g).credits = 0 then s
      else match s.chunkReady g i k with
        | none => s
        | some v =>
          let s1 := (s.chunkUsed g k v.length i).emit (.coll parent { s.collHdr g 1 h with chunk := k, payload := packChunk h.typ v })
          let s2 := (s1.modInst g fun i => { i with upNext := k + 1 }).modGrp g fun x => { x with credits := x.credits - 1 }
          s2.sendUps g parent fuel

/-- Results written at the destinations of the local requests, from byte `off` of the vector on. -/
def Dev.collWrite (s : Dev) (i : CollInst) (off : Nat) (b : List Byte) : Dev :=
  each i.reqs s fun s r =>
    if r.gone then s
    else match (s.sfq r.q).owner with
      | some (vs, fn, _) => s.rangeWrite 0 r.idx vs fn r.way (pieces (r.dst + off) b.length) b
      | none => s

/-- NAN and INF of result elements, as records report them. [log: DEDUCED 111] -/
def elemFlags (t : Nat) (l : List Nat) : Nat :=
  if typInt t then 0 else l.foldl (fun f x => f ||| (match fdecode t x with
    | .nan => flagNan
    | .inf _ => flagInf
    | _ => 0)) 0

/-- The root's next results: chunks `k` to `k + n − 1` rounded once (R479 to R481). -/
def Dev.rootChunks (s : Dev) (g : Nat) (i : CollInst) (k : Nat) : Nat → Option (List (List (Nat × Nat)))
  | 0 => some []
  | n + 1 =>
    match s.chunkReady g i k with
    | none => none
    | some v =>
      let h := i.head
      (s.rootChunks g i (k + 1) n).map fun t => (v.map fun a => a.result h.typ h.rnd) :: t

/-- The root finishes the chunks of its next down message when all are here, writes them, and sends them where the operation
does (R469, R473). [log: DEDUCED 109] -/
def Dev.rootDown (s : Dev) (g : Nat) : Nat → Dev
  | 0 => s
  | fuel + 1 =>
    match (s.grp g).inst with
    | none => s
    | some i =>
      let h := i.head
      let nc := chunkCount h.typ h.count
      let k := i.downNext
      let n := min (downChunks h.typ) (nc - k)
      if nc ≤ k then s
      else match s.rootChunks g i k n with
        | none => s
        | some cs =>
          let s1 := each (cs.zip (List.range n)) s fun s p => s.chunkUsed g (k + p.2) p.1.length i
          let el := cs.flatMap fun c => c.map Prod.fst
          let fl := cs.foldl (fun f c => c.foldl (fun f p => f ||| p.2) f) i.flags
          let b := el.flatMap fun x => leBytes (elemBytes h.typ) x
          let s2 := s1.collWrite i (k * chunkElems h.typ * elemBytes h.typ) b
          let s3 := if h.op = 3 then
              s2.collSend ((s.collKids g).map (·.2)) { s.collHdr g 2 h with chunk := k, nch := n, payload := b }
            else s2
          (s3.modInst g fun i => { i with downNext := k + n, flags := fl }).rootDown g fuel

/-- The root's source elements sent down and written, all of them (BROADCAST). -/
def Dev.rootCast (s : Dev) (g : Nat) : Nat → Dev
  | 0 => s
  | fuel + 1 =>
    match (s.grp g).inst with
    | none => s
    | some i =>
      let h := i.head
      let nc := chunkCount h.typ h.count
      let k := i.downNext
      let n := min (downChunks h.typ) (nc - k)
      if nc ≤ k then s
      else
        let off := k * chunkElems h.typ * elemBytes h.typ
        let b := (((h.data.getD []).take (h.count * elemBytes h.typ)).drop off).take (n * chunkElems h.typ * elemBytes h.typ)
        let s1 := (s.collWrite i off b).collSend ((s.collKids g).map (·.2)) { s.collHdr g 2 h with chunk := k, nch := n, payload := b }
        (s1.modInst g fun i => { i with downNext := k + n }).rootCast g fuel

/-- What an instance can now do: send its next chunks or its notice up, or at the root finish and send down.
[log: DEDUCED 109] -/
def Dev.collAdvance (s : Dev) (g : Nat) : Dev :=
  match (s.grp g).inst with
  | none => s
  | some i =>
    let h := i.head
    let nc := chunkCount h.typ h.count
    let kids := s.collKids g
    let heard := kids.all fun d => i.ready.contains d.1
    match s.collParent g with
    | some p =>
      if h.op = 2 ∨ h.op = 3 then s.sendUps g p (nc + 1)
      else if heard ∧ i.upNext = 0 ∧ (s.grp g).credits ≠ 0 then
        ((s.emit (.coll p (s.collHdr g 1 h))).modInst g fun i => { i with upNext := 1 }).modGrp g fun x => { x with credits := x.credits - 1 }
      else s
    | none =>
      if h.op = 2 ∨ h.op = 3 then
        let s1 := s.rootDown g (nc + 1)
        match (s1.grp g).inst with
        | some j =>
          if j.downNext < nc then s1
          else (if h.op = 2 then s1.collSend (kids.map (·.2)) (s1.collHdr g 2 h) else s1).collEnd g j.reqs 0 j.flags
        | none => s1
      else if ¬ heard ∨ ¬ i.dataHere then s
      else if h.op = 1 then (s.rootCast g (nc + 1)).collEnd g i.reqs 0 0
      else (s.collSend (kids.map (·.2)) (s.collHdr g 2 h)).collEnd g i.reqs 0 0

/-- An up message of a child for the instance in progress. -/
def Dev.useUp (s : Dev) (g kid : Nat) (m : CollMsg) : Dev :=
  match (s.grp g).inst with
  | none => s
  | some i =>
    let h := i.head
    if ¬ s.collAgrees g i m then s.collFail g 0x42
    else if h.op = 1 ∨ h.op = 4 then
      (s.modInst g fun i => { i with ready := if i.ready.contains kid then i.ready else kid :: i.ready }).collAdvance g
    else
      let n := min (chunkElems h.typ) (h.count - m.chunk * chunkElems h.typ)
      let c := tget {} i.chunks m.chunk
      if chunkCount h.typ h.count ≤ m.chunk ∨ c.from_.contains kid then s.collFail g 0x42
      else match unpackChunk h.typ n n m.payload with
        | none => s.collFail g 0x42
        | some v =>
          let nw : Chunk := { vals := combineAll h.red c.vals v, from_ := kid :: c.from_ }
          (s.modInst g fun i => { i with chunks := tins i.chunks m.chunk nw }).collAdvance g

/-- A down message of the parent for the instance in progress: passed to every child, written, and at its last chunk the end. -/
def Dev.useDown (s : Dev) (g : Nat) (m : CollMsg) : Dev :=
  match (s.grp g).inst with
  | none => s
  | some i =>
    let h := i.head
    let nc := chunkCount h.typ h.count
    if ¬ s.collAgrees g i m ∨ ((h.op = 1 ∨ h.op = 3) ∧ (m.chunk ≠ i.downNext ∨ nc < m.chunk + m.nch ∨ m.nch = 0)) then s.collFail g 0x42
    else
      let s1 := s.collSend ((s.collKids g).map (·.2)) m
      if h.op = 2 ∨ h.op = 4 then s1.collEnd g i.reqs 0 i.flags
      else
        let ce := chunkElems h.typ * elemBytes h.typ
        let len := min (m.nch * ce) (h.count * elemBytes h.typ - m.chunk * ce)
        let b := m.payload.take len
        let el := splitN (elemBytes h.typ) b.length b
        let fl := if h.op = 3 then i.flags ||| elemFlags h.typ (el.map leNat) else 0
        let s2 := (s1.collWrite i (m.chunk * ce) b).modInst g fun i => { i with downNext := m.chunk + m.nch, flags := fl }
        if m.chunk + m.nch < nc then s2 else s2.collEnd g i.reqs 0 fl

/-- A message for the instance in progress. -/
def Dev.collUse (s : Dev) (g src : Nat) (m : CollMsg) : Dev :=
  if m.kind = 1 then (match s.kidOf g src with
    | some k => s.useUp g k m
    | none => s)
  else if m.kind = 2 then (if s.collParent g = some src then s.useDown g m else s)
  else if m.kind = 3 then
    (if s.collParent g ≠ some src then s
     else if m.gen ≠ s.fget Fld.CL_GRP_CTL.GEN g then s.collFail g 0x42
     else (s.modGrp g fun x => { x with credits := x.credits + m.chunk }).collAdvance g)
  else s.collAbortAs g 0x44 m.status (some src)

/-! The start of an instance (R470, R472) -/

/-- The requests an instance needs. -/
def Dev.collNeed (s : Dev) (g : Nat) : Nat := s.fget Fld.CL_GRP_CTL.LOCM1 g + 1

/-- The instance starts with the first LOCAL requests; a member's requests that differ are a mismatch, a failed read fails it. -/
def Dev.collStart (s : Dev) (g : Nat) : Dev :=
  let x := s.grp g
  let n := s.collNeed g
  let rs := x.waiting.take n
  let i : CollInst := { startAt := s.now, reqs := rs }
  let win := s.fget Fld.CL_COLL_CFG.WIN 0
  let s1 := (s.fset Fld.CL_GRP_STAT.BUSY g 1).modGrp g fun y =>
    { y with waiting := x.waiting.drop n, credits := win, owed := [], inst := some i }
  let r0 := rs.headD { q := 0, idx := 0 }
  if rs.any fun r => r.op != r0.op || r.typ != r0.typ || r.red != r0.red || r.rnd != r0.rnd || r.count != r0.count then s1.collFail g 0x42
  else if rs.any (·.bad) then s1.collFail g 0x45
  else s1.collAdvance g

/-- Instances start while their requests are here, and take the messages held for them. [log: DEDUCED 109] -/
def Dev.collPump (s : Dev) (g : Nat) : Nat → Dev
  | 0 => s
  | fuel + 1 =>
    let x := s.grp g
    match x.held.find? fun p => p.2.iseq == s.iseq g && (x.inst.isSome || p.2.kind == 4) with
    | some p => ((s.modGrp g fun y => { y with held := y.held.filter fun r => r != p }).collUse g p.1 p.2).collPump g fuel
    | none =>
      if x.inst.isNone && s.fbit Fld.CL_GRP_CTL.EN g && decide (s.collNeed g ≤ x.waiting.length) then (s.collStart g).collPump g fuel
      else s
def Dev.collGo (s : Dev) (g : Nat) : Dev := s.collPump g ((s.grp g).held.length + (s.grp g).waiting.length + 1)

/-- A message by its instance number (R472): of the present instance used, or held until it starts; of the next one held; of an
ended one discarded and counted; of any other a mismatch. A message of no neighbour, or of a group not enabled, is discarded. An ABORT
of an instance in progress acts as the next core cycle begins, so that a final down message of this one is handled first (R487).
[log: DEDUCED 112] -/
def Dev.collArrive (s : Dev) (src : Nat) (m : CollMsg) : Dev :=
  let g := m.group % 256
  let d := (m.iseq + 65536 - s.iseq g) % 65536
  if src = s.fsid then (s.count .XB_DROP_CNT 4 1).errLog 5 (s.gpa 48) 48 (s.fget Fld.CL_COLL_CFG.CLASS 0) 0 0
  else if ¬ s.fbit Fld.CL_GRP_CTL.EN g ∨ ¬ (s.collNbrs g).contains src ∨ 32768 ≤ d then s.count .CL_COLL_STALE_CNT 0 1
  else if d = 0 ∧ (s.grp g).inst.isSome ∧ m.kind = 4 then s.modGrp g fun x => { x with aborts := x.aborts ++ [(s.cycle, src, m)] }
  else if d = 0 ∧ ((s.grp g).inst.isSome ∨ m.kind = 4) then (s.collUse g src m).collGo g
  else if d ≤ 1 then s.modGrp g fun x => { x with held := x.held ++ [(src, m)] }
  else (s.collFail g 0x42).collGo g

/-- An ABORT that came in the core cycle before: it ends the instance it names, or comes too late (R486, R487).
[log: DEDUCED 112] -/
def Dev.abortArrive (s : Dev) (g src : Nat) (m : CollMsg) : Dev :=
  if m.iseq = s.iseq g then (s.collUse g src m).collGo g else s.count .CL_COLL_STALE_CNT 0 1

/-- The ABORTs of the core cycle that ended (R487). -/
def Dev.collCycle (s : Dev) : Dev :=
  each (tkeys s.coll) s fun s g =>
    let due := (s.grp g).aborts.filter fun a => decide (a.1 < s.cycle)
    each due (s.modGrp g fun x => { x with aborts := x.aborts.filter fun a => !decide (a.1 < s.cycle) }) fun s a => s.abortArrive g a.2.1 a.2.2

/-! Commands -/

/-- The request of a COLL descriptor's body (R469). -/
def Desc.collReq (d : Desc) (q : Nat) : CollReq :=
  let f := fun a n => leNat ((d.body.drop a).take n)
  { q := q, idx := d.idx, op := f 22 1, typ := f 23 1, red := f 25 1, rnd := f 24 1, count := f 28 4, src := f 32 8, dst := f 40 8, way := some d.way }

/-- A request with a value outside its field's range (R469). [log: DEDUCED 115] -/
def Desc.collBad (d : Desc) (r : CollReq) : Bool :=
  let zero : List Byte → Bool := fun l => l.all (· == 0)
  !zero (d.body.take 22) || !zero ((d.body.drop 27).take 1) || !zero (d.body.drop 48) || decide (r.op = 0 ∨ 4 < r.op ∨ 4 < r.typ ∨ 3 < r.rnd ∨ 2 < r.red) ||
    (if r.op = 4 then r.count != 0 else r.count == 0)

/-- This member reads SRC for the request: for a reduction, or at the root of a broadcast. [log: DEDUCED 133] -/
def Dev.collReads (s : Dev) (g : Nat) (r : CollReq) : Bool := r.op == 2 || r.op == 3 || (r.op == 1 && (s.collParent g).isNone)
/-- This member writes DST for the request. -/
def Dev.collWrites (s : Dev) (g : Nat) (r : CollReq) : Bool := r.op == 1 || r.op == 3 || (r.op == 2 && (s.collParent g).isNone)

/-- COLL_DESCRIPTOR (R467, R469, R470): a queue's next descriptor, a collective request: completed with BADREQ, DENIED or a fault
of its destination, or accepted into its group, its SRC read; `data` are the bytes read through windows, asked for where none come.
[log: DEDUCED 115, DEDUCED 132] -/
def collDescriptor (q : Nat) (data : List Byte) (s : Dev) : Dev :=
  match (s.sfq q).owner, s.startable q with
  | some (vs, fn, _), some d =>
    if d.kind ≠ 3 ∨ s.inFlr vs fn then s
    else
      let r := d.collReq q
      let g := leNat ((d.body.drop 26).take 1)
      let n := r.count * elemBytes r.typ
      let s1 := s.startDesc q d.idx
      let fault := if s.collWrites g r then (if r.dst < 0x200000 then some (3, r.dst) else s.rangeFault vs fn r.dst n true) else none
      let win := s.collReads g r && s.rangeHas vs fn r.src n EngTgt.isWin
      let wout := s.collWrites g r && s.rangeHas vs fn r.dst n EngTgt.isWin
      if d.collBad r then s1.complete q d.idx { status := 0x41 }
      else if ¬ s.fbit Fld.CL_GRP_CTL.EN g ∨ ¬ (s.fget Fld.CL_GRP_VSMASK.VSMASK g).testBit vs then s1.complete q d.idx { status := 0x40 }
      else if (win || wout) && !s.bme vs fn then s1.complete q d.idx { status := 5 }
      else match fault with
        | some (c, a) => s1.complete q d.idx { status := 1, fcode := c, faddr := a }
        | none =>
          let bad := s.collReads g r && (decide (r.src < 0x200000) || (s.rangeFault vs fn r.src n false).isSome)
          let put := fun (s : Dev) (x : CollReq) => (s.modGrp g fun y => { y with waiting := y.waiting ++ [x] }).collGo g
          if bad then put s1 { r with bad := true }
          else if ¬ s.collReads g r then put s1 r
          else if win ∧ data = [] then
            match s.freeTag vs fn with
            | none => s
            | some t => put ((s1.sfSend vs fn t (.firmware q d.idx)).emit (.hostRead vs fn t r.src n (some d.way))) { r with data := none }
          else put s1 { r with data := some (s.rangeRead 0 vs fn (pieces r.src n) data) }
  | _, _ => s

def execCollDescriptor (q : Nat) (data : List Byte) (s : State) : Host.Outcome State Fault Refusal := s.act (collDescriptor q data)

/-- A change of one local request of a group. -/
def Dev.collReqSet (s : Dev) (g q idx : Nat) (f : CollReq → CollReq) : Dev :=
  let h := fun (r : CollReq) => if r.q = q ∧ r.idx = idx ∧ ¬ r.gone then f r else r
  s.modGrp g fun x => { x with waiting := x.waiting.map h, inst := x.inst.map (fun i => { i with reqs := i.reqs.map h }) }

/-- The read of SRC of a request ends: its data come, or it fails its instance (R485). [log: DEDUCED 113] -/
def Dev.collData (s : Dev) (q vs fn : Nat) (d : Desc) (got : Option (List Byte)) : Dev :=
  let r := d.collReq q
  let g := leNat ((d.body.drop 26).take 1)
  let s0 := s.firmDone q d.idx
  match got with
  | some b =>
    let v := s.rangeRead 0 vs fn (pieces r.src (r.count * elemBytes r.typ)) b
    ((s0.collReqSet g q d.idx fun x => { x with data := some v }).collAdvance g).collGo g
  | none =>
    let s1 := s0.collReqSet g q d.idx fun x => { x with bad := true }
    match (s1.grp g).inst with
    | some i => if i.reqs.any (·.bad) then (s1.collFail g 0x45).collGo g else s1
    | none => s1

/-- The read of a firmware descriptor ends, with its bytes or in an error (R501, R511, R485). -/
def Dev.firmwareEnd (s : Dev) (q idx : Nat) (got : Option (List Byte)) : Dev :=
  match (s.sfq q).owner, (s.sfq q).descs.find? fun d => d.idx == idx with
  | some (vs, fn, _), some d =>
    if d.kind = 3 then s.collData q vs fn d got
    else match got with
      | some b => s.copyFinish q vs fn d b
      | none => s.complete q idx { status := 1, fcode := 5, faddr := d.copySrc }
  | _, _ => s

/-- A request whose descriptor has completed by itself no longer answers or writes. [log: DEDUCED 114] -/
def Dev.collGone (s : Dev) (q idx : Nat) : Dev :=
  each (tkeys s.coll) s fun s g => s.collReqSet g q idx fun r => { r with gone := true }

/-- A queue's requests leave its groups: those that wait go, those of an instance in progress no longer answer or write.
[log: DEDUCED 114] -/
def Dev.collDrop (s : Dev) (q : Nat) : Dev :=
  let h := fun (r : CollReq) => if r.q = q then { r with gone := true } else r
  each (tkeys s.coll) s fun s g => s.modGrp g fun x =>
    { x with waiting := x.waiting.filter (fun r => r.q != q), inst := x.inst.map (fun i => { i with reqs := i.reqs.map h }) }

/-- COLL_UP (R472 to R474): an up message of a member. -/
def collUp (src : Nat) (m : CollMsg) (s : Dev) : Dev := if m.kind = 1 then s.collArrive src m else s
def execCollUp (src : Nat) (m : CollMsg) (s : State) : Host.Outcome State Fault Refusal := s.act (collUp src m)

/-- COLL_DOWN (R469, R472, R487): a down message. -/
def collDown (src : Nat) (m : CollMsg) (s : Dev) : Dev := if m.kind = 2 then s.collArrive src m else s
def execCollDown (src : Nat) (m : CollMsg) (s : State) : Host.Outcome State Fault Refusal := s.act (collDown src m)

/-- COLL_CREDIT (R474): chunk credits from the parent. -/
def collCredit (src : Nat) (m : CollMsg) (s : Dev) : Dev := if m.kind = 3 then s.collArrive src m else s
def execCollCredit (src : Nat) (m : CollMsg) (s : State) : Host.Outcome State Fault Refusal := s.act (collCredit src m)

/-- COLL_CREDIT_SEND (R474): credits first owed to a child 1 µs ago are sent. -/
def collCreditSend (g child : Nat) (s : Dev) : Dev :=
  let o := tget (0, 0) (s.grp g).owed child
  if o.1 = 0 ∨ s.now < o.2 + tUs then s
  else
    let r : CollReq := match (s.grp g).inst with
      | some i => i.head
      | none => { q := 0, idx := 0 }
    (s.modGrp g fun x => { x with owed := tdel x.owed child }).emit
      (.coll (s.fget Fld.CL_GRP_CHILD.FSID (16 * g + child)) { s.collHdr g 3 r with chunk := o.1 })
def execCollCreditSend (g child : Nat) (s : State) : Host.Outcome State Fault Refusal := s.act (collCreditSend g child)

/-- COLL_ABORT (R486): an ABORT of a tree neighbour. -/
def collAbort (src : Nat) (m : CollMsg) (s : Dev) : Dev := if m.kind = 4 then s.collArrive src m else s
def execCollAbort (src : Nat) (m : CollMsg) (s : State) : Host.Outcome State Fault Refusal := s.act (collAbort src m)

/-- COLL_TIMEOUT (R484, R485). -/
def collTimeout (g : Nat) (s : Dev) : Dev :=
  match (s.grp g).inst with
  | none => s
  | some i => if s.now < i.startAt + 10 * tUs * 2 ^ s.fget Fld.CL_COLL_CFG.TO_EXP 0 then s else (s.collFail g 0x43).collGo g
def execCollTimeout (g : Nat) (s : State) : Host.Outcome State Fault Refusal := s.act (collTimeout g)

/-- GROUP_DISABLE (R468): a write of 0 to EN. -/
def groupDisable (g : Nat) (s : Dev) : Dev :=
  if 256 ≤ g ∨ ¬ s.fbit Fld.CL_GRP_CTL.EN g then s
  else
    let s1 := s.fset Fld.CL_GRP_CTL.EN g 0
    let s2 := if (s.grp g).inst.isSome then s1.collFail g 0x44 else s1
    let s3 := each (s2.grp g).waiting s2 fun s r => (s.firmDrop r.q r.idx).complete r.q r.idx { status := 0x44 }
    s3.modGrp g fun x => { x with waiting := [], held := [] }
def execGroupDisable (g : Nat) (s : State) : Host.Outcome State Fault Refusal := s.act (groupDisable g)

end Sys2Proof.Machine
end

