-- ==== Sys2Proof/Machine/Sf.lean ====
section
/-! DEFINITION. The commands of the service functions (R225 to R257): doorbells, descriptor fetches, queues, vectors, timeouts
and completions, Function Level Reset, Bus Master Enable, the ledger's swaps, the mailbox, posted-error reports. -/
namespace Sys2Proof.Machine

/-! Queues -/

/-- The new tail of a queue's submission ring (R226, R228). -/
def Dev.bell (s : Dev) (q tail : Nat) : Dev :=
  if s.ringSize q ≤ tail then s.queueErr q 1 else (s.modQ q fun x => { x with tail := tail }).fetchMore q

/-- DOORBELL_WRITE (R226, R227): the new tail of the submission ring of a function's local queue; it is taken when the core cycle
is over, so that a revocation or a reset of that cycle discards it. -/
def doorbellWrite (vs fn q tail : Nat) (s : Dev) : Dev :=
  match s.localQ vs fn q with
  | none => s
  | some k =>
    if ¬ s.sfExists vs fn ∨ s.inFlr vs fn ∨ ¬ s.fbit Fld.SF_Q_CFG.EN k ∨ s.fbit Fld.SF_Q_STAT.ERR k then s
    else s.modQ k fun x => { x with bells := x.bells ++ [tail] }

def execDoorbellWrite (vs fn q tail : Nat) (s : State) : Host.Outcome State Fault Refusal := s.act (doorbellWrite vs fn q tail)

/-- The descriptor of 128 bytes at a ring index (R511). -/
def descOf (idx : Nat) (b : List Byte) : Desc :=
  { idx := idx, kind := byteOf b 0 / 16, cc := byteOf b 0 % 8, oc := byteOf b 2 % 8, flags := byteOf b 1,
    tag := leNat ((b.drop 32).take 8), prog := leNat ((b.drop 28).take 4), neng := leNat ((b.drop 26).take 2), body := (b.drop 64).take 64 }
where
  byteOf (b : List Byte) (i : Nat) : Nat := ((b[i]?).map (·.toNat)).getD 0

/-- A descriptor is malformed (R512). -/
def badDesc (b : List Byte) : Bool :=
  let d := descOf 0 b
  let byte : Nat → Nat := fun i => ((b[i]?).map (·.toNat)).getD 0
  let zero : List Byte → Bool := fun l => l.all (· == 0)
  decide (b.length < 128) || decide (d.kind = 0 ∨ 4 < d.kind) || (byte 0).testBit 3 || decide (15 < byte 1) || decide (7 < byte 2) ||
    !zero ((b.drop 3).take 23) || !zero ((b.drop 40).take 24) ||
    (if d.kind = 1 then decide (d.neng = 0 ∨ 16 < d.neng) else decide (d.neng ≠ 0 ∨ d.prog ≠ 0)) ||
    (d.kind == 2 && (let n := leNat ((d.body.drop 16).take 8); decide (n = 0 ∨ 2 ^ 40 < n) || !zero (d.body.drop 24))) ||
    (d.kind == 4 && !zero d.body)

/-- The fetch of a queue is over. -/
def Dev.fetchOver (s : Dev) (q : Nat) : Dev :=
  ({ s with sf.reqs := s.sf.reqs.filter (fun r => r.use != SfUse.fetch q) } : Dev).modQ q fun x => { x with fetching := false }

/-- DESCRIPTOR_FETCH_COMPLETE (R226, R228, R512): the next descriptor of a queue has come. [log: DEDUCED 57, DEDUCED 130] -/
def descriptorFetchComplete (q : Nat) (cpl : CplIn) (s : Dev) : Dev :=
  match (s.sfq q).owner with
  | none => s
  | some (vs, fn, _) =>
    if ¬ (s.sfq q).fetching then s
    else
      let s1 := s.fetchOver q
      if cpl.status ≠ 0 ∨ cpl.poisoned then s1.queueErr q 2
      else if badDesc cpl.data then s1.queueErr q 3
      else
        let h := s.fget Fld.SF_Q_STAT.HEAD q
        let s2 := s1.modQ q fun x => { x with descs := x.descs ++ [descOf h cpl.data] }
        let s3 := s2.fsets q [(Fld.SF_Q_STAT.HEAD, (h + 1) % s.ringSize q), (Fld.SF_Q_STAT.IDLE, 0)]
        ((s3.fcount vs fn 0 1).fcount vs fn 3 128).fetchMore q

def execDescriptorFetchComplete (q : Nat) (cpl : CplIn) (s : State) : Host.Outcome State Fault Refusal :=
  s.act (descriptorFetchComplete q cpl)

/-- QUEUE_ENABLE (R225): a write of 1 to EN. [log: DEDUCED 130] -/
def queueEnable (q : Nat) (s : Dev) : Dev :=
  if (s.sfq q).owner.isNone ∨ s.fbit Fld.SF_Q_CFG.EN q then s
  else
    let s1 := s.fsets q [(Fld.SF_Q_CFG.EN, 1), (Fld.SF_Q_STAT.HEAD, 0), (Fld.SF_Q_STAT.IDLE, 0), (Fld.SF_Q_CQ_STAT.TAIL, 0),
      (Fld.SF_Q_CQ_STAT.PHASE, 1)]
    s1.modQ q fun x => { x with tail := 0 }

def execQueueEnable (q : Nat) (s : State) : Host.Outcome State Fault Refusal := s.act (queueEnable q)

/-- QUEUE_DISABLE (R229): a write of 0 to EN stops the fetch. -/
def queueDisable (q : Nat) (s : Dev) : Dev := if (s.sfq q).owner.isNone then s else s.fset Fld.SF_Q_CFG.EN q 0

def execQueueDisable (q : Nat) (s : State) : Host.Outcome State Fault Refusal := s.act (queueDisable q)

/-- A queue leaves its function (R235); the result of the revocation is written when the last has left (R597). -/
def Dev.queueLeave (s : Dev) (q vs fn : Nat) : Dev :=
  let s1 := s.fsets q [(Fld.SF_Q_STAT.REVOKE_REQ, 0), (Fld.SF_Q_CFG.EN, 0), (Fld.SF_Q_STAT.IDLE, 1)]
  let s2 := (s1.collDrop q).modQ q fun _ => {}
  let n := s.fget Fld.SF_RES.QUEUES (sfKey vs fn) - 1
  let s3 := (s2.fset Fld.SF_RES.QUEUES (sfKey vs fn) n).sfEvent vs fn Fld.SF_EVT.RES
  let arg := (s3.cmdSt 0x5100 1).arg
  if arg / 2 ^ 56 = 2 ∧ arg / 2 ^ 48 % 256 = vs ∧ arg / 2 ^ 32 % 65536 = fn ∧ (s3.queuesOf vs fn).all fun p => !s3.fbit Fld.SF_Q_STAT.REVOKE_REQ p then
    s3.cmdDone 0x5100 1 0 (leBytes 4 n)
  else s3

/-- QUEUE_IDLE (R229, R235): EN is 0 and every fetched descriptor has written its record; a queue asked back leaves. -/
def queueIdle (q : Nat) (s : Dev) : Dev :=
  let x := s.sfq q
  match x.owner with
  | none => s
  | some (vs, fn, _) =>
    if s.fbit Fld.SF_Q_CFG.EN q ∨ ¬ x.descs.isEmpty ∨ ¬ x.due.isEmpty ∨ x.fetching then s
    else
      let s1 := s.fset Fld.SF_Q_STAT.IDLE q 1
      if s.fbit Fld.SF_Q_STAT.REVOKE_REQ q then s1.queueLeave q vs fn else s1

def execQueueIdle (q : Nat) (s : State) : Host.Outcome State Fault Refusal := s.act (queueIdle q)

/-! Vectors -/

/-- A pending vector of a function that may now be sent is sent (R233). -/
def Dev.flushVector (s : Dev) (vs fn v : Nat) : Dev :=
  let f := s.sfn vs fn
  if s.intMode vs fn = 3 ∧ f.pba.testBit v ∧ ¬ f.vecMasked v ∧ s.bme vs fn then
    (s.modSfn vs fn fun f => { f with pba := setBit f.pba v false }).signal vs fn v
  else if s.intMode vs fn = 2 ∧ f.cfg.msiPend.testBit v ∧ ¬ f.cfg.msiMask.testBit v ∧ s.bme vs fn then
    (s.modSfn vs fn fun f => { f with cfg := { f.cfg with msiPend := setBit f.cfg.msiPend v false } }).signal vs fn v
  else s

/-- VECTOR_UNMASK (R233): a vector's mask bit is cleared. -/
def vectorUnmask (vs fn vec : Nat) (s : Dev) : Dev :=
  if ¬ s.sfExists vs fn ∨ s.inFlr vs fn then s
  else
    let s1 := if s.intMode vs fn = 2 then s.modSfn vs fn fun f => { f with cfg := { f.cfg with msiMask := setBit f.cfg.msiMask vec false } }
      else s.modSfn vs fn fun f => f.setMsix (4 * vec + 3) (setBit (f.msixWord (4 * vec + 3)) 0 false)
    s1.flushVector vs fn vec

def execVectorUnmask (vs fn vec : Nat) (s : State) : Host.Outcome State Fault Refusal := s.act (vectorUnmask vs fn vec)

/-! Abandoned reads (R246) -/

/-- A descriptor of a queue completes with a status, its run ended first where it has one. -/
def Dev.endDesc (s : Dev) (q idx status : Nat) : Dev :=
  match s.eng.runs.find? fun e => e.2.q == q && e.2.desc.idx == idx with
  | some (r, _) => s.stopRun r status
  | none => s.complete q idx { status := status }

/-- A descriptor of a queue is a collective. -/
def Dev.isColl (s : Dev) (q idx : Nat) : Bool := (s.sfq q).descs.any fun d => d.idx == idx && d.kind == 3

/-- A request abandoned: no record of its completion, its tag in quarantine, its operation ended with "aborted". -/
def Dev.abandon (s : Dev) (r : SfReq) : Dev :=
  let s1 := s.sfQuarantine r true
  match r.use with
  | .fetch q => s1.modQ q fun x => { x with fetching := false }
  | .access e _ => match s1.runOf e with
    | some (n, _) => s1.stopRun n 3
    | none => s1
  | .flush e _ => match s1.runOf e with
    | some (n, _) => s1.stopRun n 3
    | none => s1
  | .firmware q idx => if s1.isColl q idx then ((s1.firmwareEnd q idx none).endDesc q idx 3).collGone q idx else s1.endDesc q idx 3

/-- The outstanding reads of a function that a test names, abandoned. -/
def Dev.abandonAll (s : Dev) (vs fn : Nat) (sel : SfUse → Bool) : Dev :=
  each (s.sf.reqs.filter fun r => r.vs == vs && r.fn == fn && sel r.use) s fun s r =>
    if s.sf.reqs.any fun x => x == r then s.abandon r else s

/-- REVOKE_GRACE_EXPIRY (R235, R519): the queue leaves its function: descriptors not started complete as revoked, runs are
halted, outstanding reads abandoned. [log: DEDUCED 129] -/
def revokeGraceExpiry (q : Nat) (s : Dev) : Dev :=
  let x := s.sfq q
  match x.owner, x.graceAt with
  | some (vs, fn, _), some t =>
    if s.now < t ∨ ¬ s.fbit Fld.SF_Q_STAT.REVOKE_REQ q then s
    else
      let s1 := s.fset Fld.SF_Q_CFG.EN q 0
      let mine : SfUse → Bool := fun u => match u with
        | .fetch p => p == q
        | .access e _ => (s.runOf e).any fun r => r.2.q == q
        | .flush e _ => (s.runOf e).any fun r => r.2.q == q
        | .firmware p _ => p == q
      let s2 := s1.abandonAll vs fn mine
      let s3 := each ((s2.sfq q).descs) s2 fun s d => s.endDesc q d.idx 4
      s3.queueLeave q vs fn
  | _, _ => s

def execRevokeGraceExpiry (q : Nat) (s : State) : Host.Outcome State Fault Refusal := s.act (revokeGraceExpiry q)

/-! Completions and timeouts -/

/-- A request's timeout: logged at the function, the tag in quarantine, the operation ended with a timeout (R239). -/
def Dev.timeoutEnd (s : Dev) (r : SfReq) : Dev :=
  let s1 := ((s.sfAer r.vs r.fn .completionTimeout false {}).sfQuarantine r false).fcount r.vs r.fn 7 1
  match r.use with
  | .fetch q => (s1.modQ q fun x => { x with fetching := false }).queueErr q 2
  | .access e seq =>
    match (s1.en e).acc.find? fun a => a.seq == seq, s1.runOf e with
    | some a, some (n, _) => if a.kind.isPrefetch then s1.accGone e seq else s1.stopRun n 2
    | _, _ => s1
  | .flush e _ => s1.modEn e fun x => { x with bar := x.bar.map fun b => { b with failed := true } }
  | .firmware q idx => if s1.isColl q idx then s1.firmwareEnd q idx none else s1.endDesc q idx 2

/-- A flush read to another switch, which the fabric timeout times instead (R550). -/
def Dev.flushFar (s : Dev) (r : SfReq) : Bool :=
  match r.use with
  | .flush _ g => gpaFsid g != s.fsid
  | _ => false

/-- COMPLETION_TIMEOUT (R239, R240, R248, R550): the request's timeout expires in this core cycle; it is reported when the cycle is over,
unless a completion, a reset or a clear of Bus Master Enable came in it. -/
def completionTimeout (vs fn tag : Nat) (s : Dev) : Dev :=
  match s.sfReq? vs fn tag with
  | none => s
  | some r =>
    if s.ftime < r.deadline ∨ s.inFlr vs fn ∨ ¬ s.bme vs fn ∨ s.flushFar r then s
    else { s with sf.reqs := s.sf.reqs.map fun x => if x = r then { x with expAt := some s.cycle } else x }

def execCompletionTimeout (vs fn tag : Nat) (s : State) : Host.Outcome State Fault Refusal := s.act (completionTimeout vs fn tag)

/-- A late completion (R241). -/
def Dev.lateArrival (s : Dev) (vs fn tag : Nat) (cpl : CplIn) : Dev :=
  let k := sfKey vs fn
  let s1 := (s.count .SF_LATE_CNT k 1).fcount vs fn 8 1
  let new := !s.fbit Fld.SF_LATE_LOG.VALID k
  let s2 := s1.firstEvent Fld.SF_LATE_LOG.VALID (some Fld.SF_LATE_LOG.MORE) k
    [(Fld.SF_LATE_LOG.COMPLETER, cpl.completer), (Fld.SF_LATE_LOG.STATUS, cpl.status), (Fld.SF_LATE_LOG.TAG, tag)]
  if new then s2.sfEvent vs fn Fld.SF_EVT.LATE else s2

/-- A function's waiting work goes on: fetches of its queues. -/
def Dev.resumeFn (s : Dev) (vs fn : Nat) : Dev := each (s.queuesOf vs fn) s fun s q => s.fetchMore q

/-- The operation of a whole completion takes the data or the error. -/
def Dev.useTakes (s1 : Dev) (r : SfReq) : Dev :=
  match r.use with
  | .fetch q => descriptorFetchComplete q { status := if r.bad then 1 else 0, data := r.got } s1
  | .access e seq =>
    match (s1.en e).acc.find? fun a => a.seq == seq with
    | none => s1
    | some a => if (s1.en e).accReady a then s1.accessEnd e a (if r.bad then .error else .ok r.got) else s1
  | .flush e _ => if r.bad then s1.modEn e fun x => { x with bar := x.bar.map fun b => { b with failed := true } } else s1
  | .firmware q idx => s1.firmwareEnd q idx (if r.bad then none else some r.got)

/-- A request's completion is whole: its operation ends, and a request that waited for its tag goes out (R242). -/
def Dev.useEnd (s : Dev) (r : SfReq) : Dev := ((s.sfDone r).useTakes r).resumeFn r.vs r.fn

/-- What a completion's status and its poisoned bit leave in a function's Status register and AER log (R218).
[log: PRESUMED 225] -/
def Dev.cplStatus (s : Dev) (vs fn : Nat) (cpl : CplIn) : Dev :=
  let set := fun (b : Nat) (s : Dev) => s.modSfn vs fn fun f => { f with cfg := { f.cfg with status := setBit f.cfg.status b true } }
  let s1 := if cpl.status = 1 then set 13 s else if cpl.status = 4 then set 12 s else s
  if cpl.poisoned then (set 15 s1).sfAer vs fn .poisonedTlp false {} else s1

/-- SF_COMPLETION_ARRIVAL (R240, R241, R246): a completion for a request of a function, which takes back a timeout of the same core
cycle; for a quarantined tag it is late, or silent after an abandoned read; otherwise unexpected. [log: DESIGN CHOICE 55] -/
def sfCompletionArrival (vs fn tag : Nat) (cpl : CplIn) (s : Dev) : Dev :=
  if ¬ s.sfExists vs fn then s
  else match s.sfReq? vs fn tag with
  | some r =>
    let r1 := { r with got := r.got ++ cpl.data, bad := r.bad || cpl.poisoned || cpl.status != 0, expAt := none }
    let s1 := s.cplStatus vs fn cpl
    if cpl.last ∨ cpl.status ≠ 0 then s1.useEnd r1
    else { s1 with sf.reqs := s1.sf.reqs.map fun x => if x = r then r1 else x }
  | none =>
    match s.sf.quar.find? fun x => x.vs == vs && x.fn == fn && x.tag == tag with
    | some x => if x.silent then s else s.lateArrival vs fn tag cpl
    | none => s.sfAer vs fn .unexpectedCompletion false {}

def execSfCompletionArrival (vs fn tag : Nat) (cpl : CplIn) (s : State) : Host.Outcome State Fault Refusal :=
  s.act (sfCompletionArrival vs fn tag cpl)

/-- TAG_QUARANTINE_END (R242). -/
def tagQuarantineEnd (vs fn tag : Nat) (s : Dev) : Dev :=
  if s.sf.quar.any fun x => x.vs == vs && x.fn == fn && x.tag == tag && decide (x.till ≤ s.ftime) then
    ({ s with sf.quar := s.sf.quar.filter fun x => !(x.vs == vs && x.fn == fn && x.tag == tag && decide (x.till ≤ s.ftime)) }).resumeFn vs fn
  else s

def execTagQuarantineEnd (vs fn tag : Nat) (s : State) : Host.Outcome State Fault Refusal := s.act (tagQuarantineEnd vs fn tag)

/-! Function Level Reset and Bus Master Enable -/

/-- The runs of a function. -/
def Dev.runsOf (s : Dev) (vs fn : Nat) : List Nat := (s.eng.runs.filter fun e => e.2.vs == vs && e.2.fn == fn).map (·.1)

/-- Steps 1 to 3 of a Function Level Reset for one function (R244, R246, R519); the mailbox's session of a PF begins anew (R576). -/
def Dev.flrStart (s : Dev) (vs fn : Nat) : Dev :=
  let s1 := s.modSfn vs fn fun f => { f with flrAt := some s.now }
  let s2 := s1.abandonAll vs fn fun _ => true
  let s3 := each (s2.runsOf vs fn) s2 fun s r => s.stopRun r 3
  let s4 := each (s3.queuesOf vs fn) s3 fun s q => ((s.collDrop q).fset Fld.SF_Q_CFG.EN q 0).modQ q fun x => { x with bells := [] }
  if fn = 0 then
    let s5 := s4.dropSess (.mailbox vs)
    if s.fbit Fld.SF_MB_STAT.BUSY vs then s5.fsets vs [(Fld.SF_MB_STAT.ABORT, 1), (Fld.SF_MB_STAT.BUSY, 0)] else s5
  else s4

/-- The VFs of a PF that exist. -/
def Dev.vfsOf (s : Dev) (vs : Nat) : List Nat :=
  if (s.sfn vs 0).sriov.testBit 0 then (List.range (s.sfn vs 0).numVfs).map (· + 1) else []

/-- FUNCTION_LEVEL_RESET (R243): of a PF with every VF of it, VF Enable cleared; of a VF alone. -/
def functionLevelReset (vs fn : Nat) (s : Dev) : Dev :=
  if ¬ s.sfExists vs fn ∨ s.inFlr vs fn ∨ s.resetNow then s
  else if fn = 0 then
    let s1 := each (s.vfsOf vs) s fun s v => s.flrStart vs v
    (s1.flrStart vs 0).modSfn vs 0 fun f => { f with sriov := setBit f.sriov 0 false }
  else s.flrStart vs fn

def execFunctionLevelReset (vs fn : Nat) (s : State) : Host.Outcome State Fault Refusal := s.act (functionLevelReset vs fn)

/-- A queue's registers back at their reset values; the allocation stays (R245). -/
def Dev.queueReset (s : Dev) (q : Nat) : Dev :=
  let s1 := ((((s.rclear .SF_Q_BASE q).rclear .SF_Q_CFG q).rclear .SF_Q_STAT q).rclear .SF_Q_CQ_BASE q).rclear .SF_Q_CQ_HEAD q
  (s1.rclear .SF_Q_CQ_STAT q).modQ q fun x => { ({} : SfQueue) with owner := x.owner }

/-- The registers of a function at reset, its allocations and shares kept (R245). -/
def Dev.fnReset (s : Dev) (vs fn : Nat) : Dev :=
  let k := sfKey vs fn
  let s1 := ((s.rclear .SF_EVT k).rclear .SF_EVT_MASK k).rclear .SF_LATE_LOG k
  let s2 := each (s1.queuesOf vs fn) s1 fun s q => s.queueReset q
  let s3 := s2.modSfn vs fn fun f => { ({} : SfFn) with msixCtl := f.msixCtl % 2048, intx := false }
  if fn = 0 then
    let s4 := each (List.range 4) s3 fun s i => (s.rclear .SF_PERR_LOG_ADDR (4 * vs + i)).rclear .SF_PERR_LOG_INFO (4 * vs + i)
    let s5 := each (List.range 8) s4 fun s c =>
      let g := lgKey vs c
      let s1 := ((((s.rclear .SF_LG_CTRL g).rclear .SF_LG_STAT g).rclear .SF_LG_RBASE g).rclear .SF_LG_RPAGES g).rclear .SF_LG_BMP_A g
      each (List.range 8) (s1.rclear .SF_LG_BMP_B g) fun s j => s.rclear .SF_LG_VDSP (8 * g + j)
    let s6 := each (List.range 32) (s5.rclear .SF_PERR_STAT vs) fun s j => s.rclear .SF_CNT_VIS (32 * vs + j)
    let s7 := { s6 with sf.swapAt := s6.sf.swapAt.filter fun e => e.1 / 8 != vs, sf.marks := s6.sf.marks.filter fun m => m.vs != vs }
    (s7.rclear .SF_MB_CTRL vs).fset Fld.SF_MB_STAT.RLEN vs 0
  else s3

/-- FLR_COMPLETE (R244): registers at reset values; configuration requests are accepted again. A PF's reset completes that of
its VFs (R243). -/
def flrComplete (vs fn : Nat) (s : Dev) : Dev :=
  if ¬ s.inFlr vs fn then s
  else if fn = 0 then
    let vfs := (s.sf.fns.filter fun e => e.1 / 1025 == vs && e.1 % 1025 != 0 && e.2.flrAt.isSome).map fun e => e.1 % 1025
    let s1 := each vfs s fun s v => s.fnReset vs v
    s1.fnReset vs 0
  else s.fnReset vs fn

def execFlrComplete (vs fn : Nat) (s : State) : Host.Outcome State Fault Refusal := s.act (flrComplete vs fn)

/-- BUS_MASTER_DISABLE (R247, R248): Bus Master Enable cleared; the clear takes effect when the core cycle is over.
[log: DEDUCED 58] -/
def busMasterDisable (vs fn : Nat) (s : Dev) : Dev :=
  if ¬ s.sfExists vs fn ∨ s.inFlr vs fn then s
  else
    s.modSfn vs fn fun f => { f with cfg := { f.cfg with cmd := setBit f.cfg.cmd 2 false }, bmOff := some s.cycle }

def execBusMasterDisable (vs fn : Nat) (s : State) : Host.Outcome State Fault Refusal := s.act (busMasterDisable vs fn)

/-- The records held while Bus Master Enable was 0 are written. [log: DEDUCED 58] -/
def Dev.flushDue (s : Dev) (q : Nat) : Dev :=
  let l := (s.sfq q).due
  each l (s.modQ q fun x => { x with due := [] }) fun s e => s.pushRecord q e.1 e.2.1 e.2.2

/-- BUS_MASTER_ENABLE (R233, R247): records and fetches go on, pending messages are sent. [log: DEDUCED 58] -/
def busMasterEnable (vs fn : Nat) (s : Dev) : Dev :=
  if ¬ s.sfExists vs fn ∨ s.inFlr vs fn then s
  else
    let s1 := s.modSfn vs fn fun f => { f with cfg := { f.cfg with cmd := setBit f.cfg.cmd 2 true } }
    let s2 := each (s1.queuesOf vs fn) s1 fun s q => s.flushDue q
    let pend := (s2.sfn vs fn).pba ||| (s2.sfn vs fn).cfg.msiPend
    let s3 := each ((List.range (bitLen pend)).filter pend.testBit) s2 fun s v => s.flushVector vs fn v
    s3.resumeFn vs fn

def execBusMasterEnable (vs fn : Nat) (s : State) : Host.Outcome State Fault Refusal := s.act (busMasterEnable vs fn)

/-! The ledger's swaps -/

/-- Marks of a context's retired bitmap not yet written. -/
def Dev.marksLeft (s : Dev) (vs ctx : Nat) : Bool :=
  s.sf.marks.any fun m => m.vs == vs && m.ctx == ctx && m.b != s.fbit Fld.SF_LG_STAT.ACTIVE (lgKey vs ctx)

/-- A mark of the swap point's core cycle belongs to the other bitmap (R252). -/
def Dev.swapMark (s : Dev) (vs ctx : Nat) (m : LgMark) : LgMark :=
  let k := lgKey vs ctx
  let a := s.fget Fld.SF_LG_BMP_A.ADDR k * 4096
  let b := s.fget Fld.SF_LG_BMP_B.ADDR k * 4096
  if m.vs = vs ∧ m.ctx = ctx ∧ m.at_ = s.cycle then
    { m with b := !m.b, addr := if m.b then m.addr - b + a else m.addr - a + b }
  else m

/-- LEDGER_SWAP (R252, R254): the swap point; a swap while BUSY is 1 is discarded. -/
def ledgerSwap (vs ctx : Nat) (s : Dev) : Dev :=
  let k := lgKey vs ctx
  if ¬ s.sfExists vs 0 ∨ 8 ≤ ctx ∨ s.inFlr vs 0 ∨ s.fbit Fld.SF_LG_STAT.BUSY k then s
  else
    let s1 := s.fsets k [(Fld.SF_LG_STAT.ACTIVE, 1 - s.fget Fld.SF_LG_STAT.ACTIVE k), (Fld.SF_LG_STAT.BUSY, 1)]
    { s1 with sf.swapAt := tins s1.sf.swapAt k s.now, sf.marks := s1.sf.marks.map (s1.swapMark vs ctx) }

def execLedgerSwap (vs ctx : Nat) (s : State) : Host.Outcome State Fault Refusal := s.act (ledgerSwap vs ctx)

/-- LEDGER_SWAP_DONE (R252): every mark from before the swap point is written. [log: DESIGN CHOICE 59] -/
def ledgerSwapDone (vs ctx : Nat) (s : Dev) : Dev :=
  let k := lgKey vs ctx
  if ¬ s.fbit Fld.SF_LG_STAT.BUSY k ∨ s.marksLeft vs ctx then s
  else
    let s1 := s.fsets k [(Fld.SF_LG_STAT.DONE, 1), (Fld.SF_LG_STAT.BUSY, 0), (Fld.SF_LG_STAT.SEQ, (s.fget Fld.SF_LG_STAT.SEQ k + 1) % 65536)]
    ({ s1 with sf.swapAt := tdel s1.sf.swapAt k }).sfEvent vs 0 Fld.SF_EVT.LG

def execLedgerSwapDone (vs ctx : Nat) (s : State) : Host.Outcome State Fault Refusal := s.act (ledgerSwapDone vs ctx)

/-- LEDGER_SWAP_TIMEOUT (R254): marks from before the swap point are still unwritten after 1 ms. [log: DEDUCED 60] -/
def ledgerSwapTimeout (vs ctx : Nat) (s : Dev) : Dev :=
  let k := lgKey vs ctx
  match tfind s.sf.swapAt k with
  | none => s
  | some t =>
    if s.now < t + tMs ∨ ¬ s.marksLeft vs ctx then s
    else
      let s1 := (s.fset Fld.SF_LG_STAT.ERR k 1).fset Fld.SF_LG_CTRL.EN k 0
      ({ s1 with sf.swapAt := tdel s1.sf.swapAt k }).sfEvent vs 0 Fld.SF_EVT.LG

def execLedgerSwapTimeout (vs ctx : Nat) (s : State) : Host.Outcome State Fault Refusal := s.act (ledgerSwapTimeout vs ctx)

/-! Mailbox and posted-error log -/

/-- MAILBOX_GO (R257): the request buffer goes to the Ikiup service; a GO while BUSY is 1 is discarded. -/
def mailboxGo (vs : Nat) (req : List Byte) (s : Dev) : Dev :=
  if ¬ s.sfExists vs 0 ∨ s.inFlr vs 0 ∨ s.fbit Fld.SF_MB_STAT.BUSY vs ∨ req.isEmpty ∨ 2047 < req.length then s
  else
    let s1 := s.fsets vs [(Fld.SF_MB_CTRL.LEN, req.length), (Fld.SF_MB_STAT.BUSY, 1)]
    s1.modSfn vs 0 fun f => { f with mailReq := req }

def execMailboxGo (vs : Nat) (req : List Byte) (s : State) : Host.Outcome State Fault Refusal := s.act (mailboxGo vs req)

/-- The function a requester ID names. -/
def Dev.fnOfRid (s : Dev) (vs rid : Nat) : Option Nat := (0 :: s.vfsOf vs).find? fun f => s.sfRid vs f == rid

/-- The report at the switch that carries the VS's host port (R256, R400): the first free entry of the posted-error log, or the
overflow count; a lost completion record stops its queue (R228). [log: DEDUCED 227] -/
def Dev.perrRecord (s : Dev) (r : PerrReport) : Dev :=
  let vs := r.vs
  let s0 := match s.fnOfRid vs r.reqId with
    | some f => s.fcount vs f 9 1
    | none => s
  let addOvf := fun (s : Dev) n => s.fset Fld.SF_PERR_STAT.OVF_CNT vs (min 65535 (s.fget Fld.SF_PERR_STAT.OVF_CNT vs + n))
  let s1 := if r.supp = 0 then s0 else addOvf s0 r.supp
  let s2 := match (List.range 4).find? fun i => !s1.fbit Fld.SF_PERR_LOG_INFO.VALID (4 * vs + i) with
    | some i =>
      ((s1.rset .SF_PERR_LOG_ADDR (4 * vs + i) r.addr).fsets (4 * vs + i) [(Fld.SF_PERR_LOG_INFO.VALID, 1),
        (Fld.SF_PERR_LOG_INFO.DGPA, r.dgpa), (Fld.SF_PERR_LOG_INFO.REASON, r.reason), (Fld.SF_PERR_LOG_INFO.REQID, r.reqId)]).sfEvent
          vs 0 Fld.SF_EVT.PERR
    | none => (addOvf s1 1).sfEvent vs 0 Fld.SF_EVT.PERR
  match s2.fnOfRid vs r.reqId with
  | some f => each ((s2.queuesOf vs f).filter fun q => decide (s.fget Fld.SF_Q_CQ_BASE.ADDR q * 4096 ≤ r.addr) &&
      decide (r.addr < s.fget Fld.SF_Q_CQ_BASE.ADDR q * 4096 + 32 * s.ringSize q)) s2 fun s q => s.queueErr q 4
  | none => s2

/-- POSTED_ERROR_REPORT_RECEIVE (R400, R401): recorded at the switch of the VS's host port, sent on to it from any other, lost
where it cannot be sent. -/
def postedErrorReportReceive (r : PerrReport) (s : Dev) : Dev :=
  if s.vsExists r.vs then s.perrRecord r
  else match s.bindVs s.ap r.vs with
    | some b =>
      s.ctlPacket (gpaFsid b.hgpa * 64 + 52) ([(0x10 : Byte), BitVec.ofNat 8 r.reason, BitVec.ofNat 8 (r.vs % 64), 0] ++ leBytes 2 r.supp
        ++ leBytes 2 r.reqId ++ leBytes 4 r.dgpa ++ leBytes 8 r.addr)
    | none => s.count .XB_PERR_LOST_CNT 0 1

def execPostedErrorReportReceive (r : PerrReport) (s : State) : Host.Outcome State Fault Refusal := s.act (postedErrorReportReceive r)

/-! The end of a core cycle -/

/-- What the core cycle that is over leaves to the service functions: the clears of Bus Master Enable (R247), then the timeouts that
nothing prevailed over (R240, R248), then the doorbells (R227). -/
def Dev.sfCycle (s : Dev) : Dev :=
  let offs := s.sf.fns.filter fun e => e.2.bmOff.any fun c => c != s.cycle
  let s1 := each offs s fun s e =>
    (s.modSfn (e.1 / 1025) (e.1 % 1025) fun f => { f with bmOff := none }).abandonAll (e.1 / 1025) (e.1 % 1025) fun _ => true
  let s2 := each (s1.sf.reqs.filter fun r => r.expAt.any fun c => c != s.cycle) s1 fun s r =>
    if s.sf.reqs.any fun x => x == r then s.timeoutEnd r else s
  each (s2.sf.qs.filter fun e => !e.2.bells.isEmpty) s2 fun s e =>
    each e.2.bells (s.modQ e.1 fun x => { x with bells := [] }) fun s t => s.bell e.1 t

end Sys2Proof.Machine
end

