-- ==== Sys2Proof/Machine/RegWrite.lean ====
section
/-! DEFINITION. Register reads and writes (R10 to R14, R28, R224, R598, R722): what a register reads as, what a write of it stores and
what it starts, the tables of the two halves, the regions of a service function's BARs. -/
namespace Sys2Proof.Machine

/-! Blocks -/

/-- The first offset past a block's registers as a block code shows them. [log: DEDUCED 24] -/
def blkEnd (code : Nat) : Nat :=
  allRegs.foldl (fun m r =>
    let i := regInfo r
    match blkSpan code i with
    | some (_, n) => max m (i.off + (n - 1) * (if n = 1 then 0 else i.s1) + (i.n2 - 1) * i.s2 + i.width / 8)
    | none => m) 0

/-- The halves of the routing tables in the RT_ block. -/
abbrev offStaged : Nat := 0x100000
abbrev offActive : Nat := 0x200000
abbrev halfSize : Nat := 0x100000

/-- An address lies in its block's map (R598, R729): a register, a word of a half, or a reserved offset among them.
[log: DEDUCED 24] -/
def inMap (code off : Nat) : Bool :=
  off % 4 == 0 && decide (1 ≤ code) && decide (code ≤ 14) &&
    (decide (off < blkEnd code) || (code == 7 && decide (offStaged ≤ off) && decide (off < offActive + halfSize)))

/-- The bits of a word of a half that are not reserved (R10, R12): RT_HALF_CTRL, shelf sizes, routes, hands, trunks, bindings, windows. The
staging check reads every word of the deal parameters, reserved ones too (R385, code 0x0B). [log: DEDUCED 222] -/
def halfMask (o : Nat) : Nat :=
  if o < 0x10 then 0xFFFFFFFF else if o < 0x14 then 0xFFFF
  else if offShelf ≤ o ∧ o < offShelf + 212 then 0x3FFF
  else if offRoute ≤ o ∧ o < offHand then (if o % 8 < 4 then 0xFFFFFFFF else 0x83000FFF)
  else if offHand ≤ o ∧ o < offTrunk then 0xFFFF
  else if offTrunk ≤ o ∧ o < offTrunk + 768 then (if o % 32 < 28 then 0xFFFFFFFF else 0x80FFFFFF)
  else if offBind ≤ o ∧ o < offWin then (if o % 16 < 8 then 0 else if o % 16 < 12 then 0xFFFF8000 else 0xFFFFFFFF)
  else if offWin ≤ o ∧ o < offDeal then (if o % 32 < 8 then 0 else if o % 32 < 12 then 0xFFFFFE00 else 0xFFFFFFFF)
  else if offDeal ≤ o then 0xFFFFFFFF else 0

/-! Reads -/

/-- BL_PARTNER (R340): the identity last received. -/
def Dev.partnerWord (s : Dev) (n : Nat) : Nat :=
  let p := (s.bl! n).partner
  if (s.bl! n).rankKnown then
    2147483648 + (if p.fsid = 0xFFFF then 0 else 1073741824 + p.fsid % 2048 * 65536) + p.port % 64 * 256
  else 0

/-- Whether a lane's transmitter and its receiver sleep (R283): those of a Brorna direction that sleeps (R329), and those of a PCI
Express direction past its present width (R174 to R176). A lane of no port is powered down (R45). [log: DEDUCED 203] -/
def Dev.laneSleep (s : Dev) (i : Nat) : Bool × Bool :=
  match s.portOfLane i with
  | none => (true, true)
  | some n =>
    if s.isFabric n then (s.fbit Fld.BL_STAT.TXSLEEP n, s.fbit Fld.BL_STAT.RXSLEEP n)
    else if (s.pport n).up then
      let l := i - (16 * (n / 4) + 4 * (n % 4))
      (decide (s.fget Fld.PCI_PORT_STAT.TXW n ≤ l) && decide (l < (s.pport n).width),
       decide (s.fget Fld.PCI_PORT_STAT.RXW n ≤ l) && decide (l < (s.pport n).width))
    else (false, false)

/-- EN_STAT: the engines of clusters 0 to 3 read as firmware while the module's firmware runs (R489, R560).
[log: DEDUCED 204] -/
def Dev.enStatWord (s : Dev) (e v : Nat) : Nat :=
  if e < 64 ∧ s.reachable ∧ s.svc.state ≠ stFault then setBitsOf v 31 29 enFw else v

/-- ARB_STAT as read: the parked grant and the open tricks of the arbiter. -/
def Dev.arbStatWord (s : Dev) (a v : Nat) : Nat :=
  let t := (s.arbOf a).trickPorts
  setBitsOf (setBitsOf (setBitsOf v 31 31 (b2n (s.arbOf a).parked.isSome)) 30 30 (b2n (!t.isEmpty))) 29 24 (t.headD 0)

/-- The value a register reads as (R14): what the register file holds, or the state a status field shows; write-only fields read 0.
[log: DEDUCED 203] -/
def Dev.regRead (s : Dev) (r : Reg) (inst : Nat) : Nat :=
  let v := s.rget r inst
  match r with
  | .XB_BUF_FREE => s.poolFree
  | .XB_BUF_NP => s.npTokenSize + 1024
  | .XB_BUF_LOW => min v s.poolFree
  | .ARB_STAT => s.arbStatWord inst v
  | .ARB_HATCH => setBitsOf v 31 31 (b2n (s.arbIdle inst))
  | .XB_BUF_CPL => s.completionSize
  | .SCH_QDEPTH => s.qdepth (inst / 8) (inst % 8)
  | .BL_PARTNER => s.partnerWord inst
  | .BL_STAT => setBitsOf v 25 25 (b2n ((s.bl! inst).rankKnown && s.outranks (s.bl! inst).partner))
  | .LN_LANE_STAT => setBitsOf (setBitsOf v 27 27 (b2n (s.laneSleep inst).1)) 26 26 (b2n (s.laneSleep inst).2)
  | .EN_STAT => s.enStatWord inst v
  | .EN_CYC_CNT => (s.cycSync inst).rget .EN_CYC_CNT inst
  | .TM_TIME => s.ftime
  | .SF_DV_FW => ((tfind s.trust.inUse 1).map (·.version)).getD 0
  | .SF_DV_ID => setBitsOf v 13 8 (s.fget Fld.PCI_VS_CFG.HOST_PORT inst)
  | .PCI_SLOT_STAT =>
    let b := if s.fbit Fld.PCI_SLOT_MAP.EN inst then s.bindAt s.ap (s.fget Fld.PCI_SLOT_MAP.PORT inst) else none
    setBitsOf v 14 8 ((b.map (·.vs)).getD 0x7F)
  | .DL_FENCE_IN => setBitsOf v 30 24 0
  | _ => (regInfo r).fields.foldl (fun v f => if f.acc = .WO then setBitsOf v f.hi f.lo 0 else v) v

/-- A read of a register clears or reloads its RC fields (R14). -/
def Dev.regAfterRead (s : Dev) (r : Reg) (inst : Nat) : Dev :=
  match r with
  | .XB_BUF_LOW => s.rset r inst s.poolFree
  | .RT_SHELF_USE => s.fset Fld.RT_SHELF_USE.PEAK inst (s.fget Fld.RT_SHELF_USE.RESV inst)
  | _ =>
    if (regInfo r).fields.any fun f => f.acc == .RC then
      s.rset r inst ((regInfo r).fields.foldl (fun v f => if f.acc = .RC then setBitsOf v f.hi f.lo 0 else v) (s.rget r inst))
    else s

/-- The registers of 16 bits, of which a word holds two instances. -/
def halfReg (r : Reg) : Bool := r == .CL_GRP_CHILD || r == .DL_TREE_CHILD

/-- A read of a register word at a block address: the 32-bit word at an offset, two instances of a register of 16 bits. -/
def Dev.blkRead (s : Dev) (code off : Nat) : Nat × Dev :=
  if code = 7 ∧ offStaged ≤ off then
    let o := off % halfSize
    (if halfMask o = 0 then 0 else s.hword (if off < offActive then s.staged else s.ap) o, s)
  else match regAt code off with
    | none => (0, s)
    | some (r, inst, byte) =>
      if halfReg r then (s.rget r inst + 65536 * s.rget r (inst + 1), s) else (wordOf (s.regRead r inst) byte, s.regAfterRead r inst)

/-- The whole register at a block address. -/
def Dev.blkReadWhole (s : Dev) (code off : Nat) : Nat × Dev :=
  match regAt code off with
  | some (r, inst, 0) => if (regInfo r).width = 64 then (s.regRead r inst, s.regAfterRead r inst) else s.blkRead code off
  | _ => s.blkRead code off

/-! Writes -/

/-- What a write presents to a register: the value it would leave, and the 1s it writes to RW1C bits. -/
structure RegWr where
  new : Nat
  ones : Nat

/-- A write of one word of a register, or of all of it. -/
def wrWord (old width byte w : Nat) : RegWr := ⟨withWord old width byte w, if width ≤ 32 then w else w * 2 ^ (8 * byte)⟩
def wrWhole (width v : Nat) : RegWr := ⟨v % 2 ^ width, v % 2 ^ width⟩

/-- The register after a write, field by field (R13, R14). [log: DEDUCED 25] -/
def RegWr.stored (x : RegWr) (i : RegInfo) (old : Nat) : Nat := i.fields.foldl (fun v f => f.store v x.new x.ones) old

/-- The control-plane registers of RT_ and DL_ (R598), and CL_SHARE, which the management plane writes through no register access of
its own. -/
def mgmtBarred (r : Reg) : Bool :=
  [Reg.RT_STAGE_CHK, .RT_STAGE_STAT, .RT_HAND_CFG, .DL_CFG, .DL_FENCE_CFG, .DL_ACK_IN, .DL_FENCE_IN, .DL_DRAIN_STAT, .CL_SHARE].contains r

/-- The first-event records of one register (R722). -/
def eventRecord (r : Reg) : Bool := [Reg.XB_ERR_LOG0, .ARB_FLAG, .SF_LATE_LOG, .EN_FAULT, .EN_SMP_PC, .TM_MEM_VIOL].contains r

/-- The second register of a first-event record. [log: DEDUCED 29] -/
def eventTwin (r : Reg) : Option Reg :=
  match r with
  | .XB_ERR_LOG0 => some .XB_ERR_LOG1
  | .EN_FAULT => some .EN_FAULT_ADDR
  | _ => none

/-- The record and its second register at their reset values. [log: DEDUCED 29] -/
def Dev.wipeRecord (s : Dev) (r : Reg) (inst : Nat) : Dev :=
  match eventTwin r with
  | some t => (s.rclear r inst).rclear t inst
  | none => s.rclear r inst

/-- A first-event record cleared (R722): an event of the same core cycle is recorded after the clear, with MORE 0.
[log: DEDUCED 29] -/
def Dev.clearRecord (s : Dev) (r : Reg) (inst : Nat) : Dev :=
  let w := (regInfo r).width
  if (s.marked r inst).testBit (w - 1) then (if r = .EN_FAULT then s else s.rset r inst (setBit (s.rget r inst) (w - 2) false))
  else (s.wipeRecord r inst).fsets inst (tget [] s.cyc.evts (regKey r inst))

/-- The 1s of a write spare the RW1C bits that hardware has set in the same core cycle (R14, R621, R626). -/
def Dev.spare (s : Dev) (r : Reg) (inst : Nat) (x : RegWr) : RegWr := { x with ones := x.ones ^^^ (x.ones &&& s.marked r inst) }

/-- Whether R28 or a register's own rule keeps a write out: the port, VS, ring or block it governs is enabled.
[log: DEDUCED 26, DEDUCED 32] -/
def Dev.regBlocked (s : Dev) (r : Reg) (inst : Nat) : Bool :=
  match r with
  | .XB_PORT_CTRL | .XB_PORT_EGR | .PCI_PORT_CTRL | .PCI_L0P | .BL_CTRL | .BL_LINK | .BL_SLEEP => s.enabled inst
  | .XB_VS_TCMAP | .XB_VS_OCMAP => s.vsExists inst && s.enabled (s.hostPort inst)
  | .SCH_SMP_BASE | .SCH_SMP_SEL => s.fbit Fld.SCH_SMP_CTRL.EN 0
  | .DL_CFG | .DL_FENCE_CFG => s.joined
  | .CL_COLL_CFG => (s.instances .CL_GRP_CTL).any fun g => s.fbit Fld.CL_GRP_CTL.EN g
  | .CL_GRP_N | .CL_GRP_PARENT | .CL_GRP_VSMASK => s.fbit Fld.CL_GRP_CTL.EN inst
  | .CL_GRP_CHILD => s.fbit Fld.CL_GRP_CTL.EN (inst / 16)
  | .EN_SMP_CFG => s.fbit Fld.EN_SMP_CFG.SMP_EN inst
  | .LN_PRBS_CTRL => match s.portOfLane inst with
    | none => false
    | some n => s.enabled n && !(s.isFabric n && s.blState n == blHeld)
  | _ => false

/-- The value of a register whose write reaches fields that R28 keeps while the calendar or the sampling runs (R147, R164). -/
def Dev.keepRunning (s : Dev) (r : Reg) (old st : Nat) : Nat :=
  match r with
  | .SCH_CAL => if s.fbit Fld.SCH_CAL.EN 0 then keepFields old st [Fld.SCH_CAL.SLOT_EXP] else st
  | .SCH_SMP_CTRL =>
    if valOf old Fld.SCH_SMP_CTRL.EN = 1 then keepFields old st [Fld.SCH_SMP_CTRL.MODE, Fld.SCH_SMP_CTRL.RING_EXP, Fld.SCH_SMP_CTRL.EXP] else st
  | _ => st

/-- The limits of R13 that tie a field to another field or to state elsewhere: the fields of one that fails keep their value; and the
fields that clear with another. [log: DEDUCED 25, DEDUCED 32] -/
def Dev.regLimits (s : Dev) (r : Reg) (inst old st : Nat) : Nat :=
  let keep := fun (bad : Bool) (l : List Fld) => if bad then keepFields old st l else st
  match r with
  | .XB_PORT_CTRL => keep (decide ((s.rset r inst st).poolSize < 8192)) [Fld.XB_PORT_CTRL.RSV]
  | .PCI_L0P => keep (decide (valOf st Fld.PCI_L0P.HI_PCT ≤ valOf st Fld.PCI_L0P.LO_PCT)) [Fld.PCI_L0P.HI_PCT, Fld.PCI_L0P.LO_PCT]
  | .LN_WATCH => keep (decide (valOf st Fld.LN_WATCH.PTHR_EXP < valOf st Fld.LN_WATCH.THR_EXP))
      [Fld.LN_WATCH.PTHR_EXP, Fld.LN_WATCH.THR_EXP]
  | .SCH_FSEL_S => fselLimit r old st
  | .SCH_SMP_BASE =>
    let a := valOf st Fld.SCH_SMP_BASE.ADDR * 4096
    keep (decide (a < 0x60000000) || decide (0x80000000 < a + 32 * 2 ^ s.fget Fld.SCH_SMP_CTRL.RING_EXP 0)) [Fld.SCH_SMP_BASE.ADDR]
  | .SCH_SMP_RP => keep (decide (2 ^ s.fget Fld.SCH_SMP_CTRL.RING_EXP 0 ≤ valOf st Fld.SCH_SMP_RP.IDX)) [Fld.SCH_SMP_RP.IDX]
  | .SCH_SMP_CTRL =>
    let a := s.fget Fld.SCH_SMP_BASE.ADDR 0 * 4096
    keep (decide (a < 0x60000000) || decide (0x80000000 < a + 32 * 2 ^ valOf st Fld.SCH_SMP_CTRL.RING_EXP)) [Fld.SCH_SMP_CTRL.RING_EXP]
  | .CL_GRP_N => keep (decide (valOf st Fld.CL_GRP_N.N ≤ valOf st Fld.CL_GRP_N.RANK)) [Fld.CL_GRP_N.N, Fld.CL_GRP_N.RANK]
  | .SCH_GATE_STAT => if valOf st Fld.SCH_GATE_STAT.ERR = 0 then setBitsOf st Fld.SCH_GATE_STAT.CODE.hi Fld.SCH_GATE_STAT.CODE.lo 0 else st
  | .PCI_PORT_STAT =>
    if valOf st Fld.PCI_PORT_STAT.EQFB = 0 then setBitsOf st Fld.PCI_PORT_STAT.EQFB_RATE.hi Fld.PCI_PORT_STAT.EQFB_RATE.lo 0 else st
  | .BL_BRINGUP =>
    if 1000 * 2 ^ valOf st Fld.BL_BRINGUP.TO_EXP < 2 * 2 ^ valOf st Fld.BL_BRINGUP.CHK_EXP then old else st
  | _ => st

/-- A shadow register written: dirty until the next commit (R123, R126), to which no write of the commit write's own core cycle or a
later one belongs (R124): what it held before is kept. The commit arms the gate list that the write bears on (R154). -/
def Dev.shadowPut (s : Dev) (r : Reg) (inst v : Nat) : Dev :=
  let key := regKey r inst
  let same := s.sch.wrCycle = some s.cycle ∨ ((s.sch.commitAt.map fun c => s.wroteSince c.1).getD false)
  let olds := if same then s.sch.wrOld else []
  let entry := (r, inst, s.rget r inst, s.sch.dirty.contains key)
  let arms := if same then s.sch.wrGate else 0
  let arms1 := match gatePortOf r inst with
    | some n => if s.armsGate r inst v then setBit arms n true else arms
    | none => arms
  let s1 := { s with sch.wrCycle := some s.cycle, sch.wrOld := if olds.any (fun w => w.1 == r && w.2.1 == inst) then olds else olds ++ [entry],
                     sch.wrGate := arms1, sch.gateDirty := if same then s.sch.gateDirty else s.sch.gateDirty ||| s.sch.wrGate,
                     sch.dirty := if s.sch.dirty.contains key then s.sch.dirty else s.sch.dirty ++ [key] }
  (s1.rset r inst v).fset Fld.ARB_COMMIT.DIRTY 0 1

/-- The shadow registers (suffix _S). -/
def shadowReg (r : Reg) : Bool := gateShadow r || shadowPairs.any fun p => p.1 == r

/-- A write not stored under R28, counted (R632). [log: DEDUCED 26] -/
def Dev.rejected (s : Dev) : Dev := s.count .TM_REJ_WR_CNT 0 1

/-- PCI_VS_CFG (R180, R181): NDSP while the host port is disabled; HOST_PORT and HPV while the port named before and the one named
by the write are disabled and no other VS names it. -/
def Dev.vsCfgPut (s : Dev) (v st : Nat) : Dev :=
  let old := s.rget .PCI_VS_CFG v
  let port := valOf st Fld.PCI_VS_CFG.HOST_PORT
  let hpv := valOf st Fld.PCI_VS_CFG.HPV
  let hostOn := s.fbit Fld.PCI_VS_CFG.HPV v && s.enabled (s.hostPort v)
  let moves := port ≠ valOf old Fld.PCI_VS_CFG.HOST_PORT ∨ hpv ≠ valOf old Fld.PCI_VS_CFG.HPV
  let taken := hpv == 1 && (List.range 48).any fun w => w != v && s.fbit Fld.PCI_VS_CFG.HPV w && s.hostPort w == port
  let stopN := hostOn ∧ valOf st Fld.PCI_VS_CFG.NDSP ≠ valOf old Fld.PCI_VS_CFG.NDSP
  let stopP := moves ∧ (hostOn ∨ (hpv = 1 ∧ s.enabled port))
  let st1 := if stopN then keepFields old st [Fld.PCI_VS_CFG.NDSP] else st
  let st2 := if stopP ∨ taken then keepFields old st1 [Fld.PCI_VS_CFG.HOST_PORT, Fld.PCI_VS_CFG.HPV] else st1
  let s1 := s.rset .PCI_VS_CFG v st2
  if stopN ∨ stopP then s1.rejected else s1

/-- PCI_SLOT_MAP (R204): stored while the port named before and the one named by the write are disabled; no port by two channels. A
channel no longer tied to a port is off; the port named follows the channel's SLOT_PERST_N (R712). -/
def Dev.slotMapPut (s : Dev) (k st : Nat) : Dev :=
  let old := s.rget .PCI_SLOT_MAP k
  let on := valOf st Fld.PCI_SLOT_MAP.EN
  let port := valOf st Fld.PCI_SLOT_MAP.PORT
  if (valOf old Fld.PCI_SLOT_MAP.EN = 1 ∧ s.enabled (valOf old Fld.PCI_SLOT_MAP.PORT)) ∨ s.enabled port then s.rejected
  else if on = 1 ∧ (List.range 8).any fun j => j != k && s.fbit Fld.PCI_SLOT_MAP.EN j && s.fget Fld.PCI_SLOT_MAP.PORT j == port then s
  else
    let s1 := if valOf old Fld.PCI_SLOT_MAP.EN = 1 ∧ on = 0 ∧ s.gateOn k then s.slotDown k slOff else s
    let free : Dev → Dev := fun s => if valOf old Fld.PCI_SLOT_MAP.EN = 1 then
      s.modPport (valOf old Fld.PCI_SLOT_MAP.PORT) fun q => { q with perst := false } else s
    let s2 := free (s1.rset .PCI_SLOT_MAP k st)
    if on = 1 then s2.modPport port fun q => { q with perst := s.pci.perst.testBit k } else s2

/-- CL_GRP_CTL (R465, R468): EN at any time, the rest while EN is 0 or by the write that sets it so. [log: DEDUCED 31] -/
def Dev.grpCtlPut (s : Dev) (g st : Nat) : Dev :=
  let old := s.rget .CL_GRP_CTL g
  if ¬ s.fbit Fld.CL_GRP_CTL.EN g then s.rset .CL_GRP_CTL g st
  else if valOf st Fld.CL_GRP_CTL.EN = 0 then 
    let s1 := (groupDisable g s).rset .CL_GRP_CTL g (setBitsOf old 31 31 0)
    if setBitsOf st 31 31 0 = setBitsOf old 31 31 0 then s1 else s1.rejected
  else if st = old then s
  else s.rejected

/-- What a write that R28 does not keep out stores and starts (R14, R27). -/
def Dev.regStore (s : Dev) (p : Plane) (r : Reg) (inst : Nat) (x : RegWr) (st : Nat) : Dev :=
  let i := regInfo r
  if eventRecord r then (if x.ones.testBit (i.width - 1) then s.clearRecord r inst else s)
  else match r with
    | .ARB_COMMIT => if x.new.testBit 31 then s.commitWrite else s
    | .ARB_HATCH => hatchWrite inst p (x.new.testBit (match p with
        | .control => 1
        | _ => 0)) s
    | .RT_STAGE_CHK => if x.new.testBit 31 then stagingCheckStart s else s
    | .LN_PRBS_CTRL => if x.new.testBit 31 then prbsStart inst (s.rset r inst st) else s.rset r inst st
    | .DL_ACK_IN => s
    | .DL_FENCE_IN => s
    | .CL_SHARE => s
    | .PCI_VS_CFG => s.vsCfgPut inst st
    | .PCI_SLOT_MAP => s.slotMapPut inst st
    | .CL_GRP_CTL => s.grpCtlPut inst st
    | .TM_BW_CFG => (s.rset r inst st).bwSet
    | .EN_SMP_CFG =>
      let s1 := s.rset r inst st
      if !s.fbit Fld.EN_SMP_CFG.SMP_EN inst && s1.fbit Fld.EN_SMP_CFG.SMP_EN inst then
        s1.modEn inst fun x => { x with smp := 0, smpPcs := [], smpFrom := s.now }
      else s1
    | .SCH_SMP_CTRL =>
      let s1 := s.rset r inst st
      if !s.fbit Fld.SCH_SMP_CTRL.EN 0 && s1.fbit Fld.SCH_SMP_CTRL.EN 0 then
        { s1 with sch.smpNext := s1.now + tUs * 2 ^ s1.fget Fld.SCH_SMP_CTRL.EXP 0, sch.smpSkip := false }.freshSamples
      else s1
    | _ => if shadowReg r then s.shadowPut r inst st else s.rset r inst st

/-- A write of a register of the blocks by a plane (R14, R27, R28, R598): what is stored and what the write starts.
[log: DEDUCED 25] -/
def Dev.regPut (s : Dev) (p : Plane) (r : Reg) (inst : Nat) (x : RegWr) : Dev :=
  let i := regInfo r
  let old := s.rget r inst
  let asked := (s.spare r inst x).stored i old
  let open_ := s.keepRunning r old asked
  let st := s.regLimits r inst old open_
  if p = .data ∨ (p = .management ∧ mgmtBarred r) then s
  else if s.regBlocked r inst then s.rejected
  else if open_ = asked then s.regStore p r inst x st else (s.regStore p r inst x st).rejected

/-- A write of a word of the staged half: by the control plane, while the deal state is IDLE (R31, R386, R435).
[log: DEDUCED 222] -/
def Dev.stagedPut (s : Dev) (p : Plane) (o w : Nat) : Dev :=
  if p ≠ .control ∨ halfMask o = 0 then s
  else if s.fget Fld.DL_DEAL_STAT.STATE 0 ≠ 0 then s.rejected
  else
    let s1 := s.setHword s.staged o (w &&& halfMask o)
    if s.rt.chkAt.isSome then s1.fset Fld.RT_STAGE_STAT.STALE 0 1 else s1

/-- A write of a 32-bit word at a block address. -/
def Dev.blkWrite (s : Dev) (p : Plane) (code off w : Nat) : Dev :=
  if code = 7 ∧ offStaged ≤ off then (if off < offActive then s.stagedPut p (off % halfSize) w else s)
  else match regAt code off with
    | none => s
    | some (r, inst, byte) =>
      if halfReg r then (s.regPut p r inst (wrWhole 16 w)).regPut p r (inst + 1) (wrWhole 16 (w / 65536))
      else s.regPut p r inst (wrWord (s.rget r inst) (regInfo r).width byte w)

/-- A write of a whole register at a block address. -/
def Dev.blkWriteWhole (s : Dev) (p : Plane) (code off v : Nat) : Dev :=
  match regAt code off with
  | some (r, inst, 0) => if (regInfo r).width = 64 then s.regPut p r inst (wrWhole 64 v) else s.blkWrite p code off (v % 2 ^ 32)
  | _ => s.blkWrite p code off (v % 2 ^ 32)

/-! The BARs of a service function (R224) -/

/-- What an offset in a BAR names: a word of a register, of the MSI-X table or of the PBA, a byte of a mailbox buffer, a counter. -/
inductive BarTgt where
  | none
  | reg (r : Reg) (inst byte : Nat)
  | db (l : Nat)
  | msix (k : Nat)
  | pba (w : Nat)
  | mbReq (o : Nat)
  | mbRsp (o : Nat)
  | cnt (i byte : Nat)

/-- The queue registers of a local queue. -/
def Dev.barQueue (s : Dev) (vs fn l d : Nat) : BarTgt :=
  match s.localQ vs fn l with
  | Option.none => .none
  | some q =>
    if d < 8 then .reg .SF_Q_BASE q d else if d = 8 then .reg .SF_Q_CFG q 0 else if d = 12 then .reg .SF_Q_STAT q 0
    else if d < 24 then .reg .SF_Q_CQ_BASE q (d - 16) else if d = 24 then .reg .SF_Q_CQ_HEAD q 0 else .reg .SF_Q_CQ_STAT q 0

/-- The registers of a ledger context. -/
def barLedger (g d : Nat) : BarTgt :=
  if d = 0 then .reg .SF_LG_CTRL g 0 else if d = 4 then .reg .SF_LG_STAT g 0 else if d < 16 then .reg .SF_LG_RBASE g (d - 8)
  else if d = 16 then .reg .SF_LG_RPAGES g 0
  else if 24 ≤ d ∧ d < 32 then .reg .SF_LG_BMP_A g (d - 24) else if 32 ≤ d ∧ d < 40 then .reg .SF_LG_BMP_B g (d - 32)
  else if 64 ≤ d ∧ d < 96 then .reg .SF_LG_VDSP (8 * g + (d - 64) / 4) 0 else .none

/-- The first registers of a function. -/
def barFirst (k off : Nat) : BarTgt :=
  if off = 0 then .reg .SF_ID k 0 else if off = 4 then .reg .SF_RES k 0 else if off = 8 then .reg .SF_EVT k 0
  else if off = 12 then .reg .SF_EVT_MASK k 0 else if off < 24 then .reg .SF_LATE_LOG k (off - 16) else .reg .SF_LATE_CNT k (off - 24)

/-- A word of the MSI-X table or PBA of a function, in the size its allocation gives them. -/
def Dev.barMsix (s : Dev) (vs fn o : Nat) (pba : Bool) : BarTgt :=
  let n := s.fget Fld.SF_RES.VECTORS (sfKey vs fn)
  if pba then (if o / 4 * 32 < n then .pba (o / 4) else .none) else if o / 16 < n then .msix (o / 4) else .none

/-- What an offset of a PF's BAR0 names. -/
def Dev.barPf0 (s : Dev) (vs off : Nat) : BarTgt :=
  if off < 0x20 then barFirst (sfKey vs 0) off
  else if 0x100 ≤ off ∧ off < 0x140 then
    (if off % 16 < 8 then .reg .SF_PERR_LOG_ADDR (4 * vs + (off - 0x100) / 16) (off % 8)
     else .reg .SF_PERR_LOG_INFO (4 * vs + (off - 0x100) / 16) (off % 8))
  else if off = 0x140 then .reg .SF_PERR_STAT vs 0
  else if 0x200 ≤ off ∧ off < 0x280 then .reg .SF_CNT_VIS (32 * vs + (off - 0x200) / 4) 0
  else if 0x400 ≤ off ∧ off < 0x800 then barLedger (lgKey vs ((off - 0x400) / 0x80)) (off % 0x80)
  else if 0x10000 ≤ off ∧ off < 0x18000 then s.barQueue vs 0 ((off - 0x10000) / 0x20) (off % 0x20)
  else if 0x20000 ≤ off ∧ off < 0x22000 then (if off % 8 = 0 then .db ((off - 0x20000) / 8) else .none)
  else if 0x40000 ≤ off ∧ off < 0x48000 then s.barMsix vs 0 (off - 0x40000) false
  else if 0x48000 ≤ off ∧ off < 0x48100 then s.barMsix vs 0 (off - 0x48000) true
  else .none

/-- What an offset of a PF's BAR2 names. -/
def barPf2 (vs off : Nat) : BarTgt :=
  if off = 0 then .reg .SF_MB_CTRL vs 0 else if off = 4 then .reg .SF_MB_STAT vs 0
  else if 0x1000 ≤ off ∧ off < 0x1800 then .mbReq (off - 0x1000)
  else if 0x1800 ≤ off ∧ off < 0x2000 then .mbRsp (off - 0x1800)
  else if 0x8000 ≤ off ∧ off < 0x8800 then .cnt ((off - 0x8000) / 8) (off % 8)
  else .none

/-- What an offset of a VF's BAR0 names. -/
def Dev.barVf0 (s : Dev) (vs fn off : Nat) : BarTgt :=
  if off < 0x20 then barFirst (sfKey vs fn) off
  else if 0x1000 ≤ off ∧ off < 0x1800 then s.barQueue vs fn ((off - 0x1000) / 0x20) (off % 0x20)
  else if 0x3000 ≤ off ∧ off < 0x3200 then (if off % 8 = 0 then .db ((off - 0x3000) / 8) else .none)
  else if 0x8000 ≤ off ∧ off < 0x8400 then s.barMsix vs fn (off - 0x8000) false
  else if 0xC000 ≤ off ∧ off < 0xC008 then s.barMsix vs fn (off - 0xC000) true
  else .none

def Dev.barAt (s : Dev) (vs fn b off : Nat) : BarTgt :=
  if off % 4 ≠ 0 then .none
  else if fn = 0 then (if b = 0 then s.barPf0 vs off else if b = 2 then barPf2 vs off else .none)
  else if b = 0 then s.barVf0 vs fn off
  else if b = 2 ∧ off < 0x800 then .cnt (off / 8) (off % 8)
  else .none

/-- The counter a window slot shows (R258). -/
def Dev.counterSlot (s : Dev) (vs fn i : Nat) : Nat :=
  let seen := fn = 0 ∨ (s.rget .SF_CNT_VIS (32 * vs + (fn - 1) / 32)).testBit ((fn - 1) % 32)
  if ¬ seen then 0
  else if i < 12 then s.rget .SF_CNT_WIN (12 * sfKey vs fn + i)
  else if i = 12 then tget 0 s.eng.sample (sfKey vs fn) else 0

/-- A function claims memory accesses to its BARs: it exists, is in no reset, and has Memory Space Enable (of a VF, its PF's).
[log: DEDUCED 30] -/
def Dev.barOpen (s : Dev) (vs fn : Nat) : Bool :=
  s.sfExists vs fn && !s.inFlr vs fn && (if fn = 0 then (s.sfn vs 0).cfg.cmd.testBit 1 else (s.sfn vs 0).sriov.testBit 3)

/-- A request to a BAR of a function whose memory space is closed is unsupported (R218). [log: PRESUMED 225] -/
def Dev.barClosed (s : Dev) (vs fn : Nat) (posted : Bool) : Dev :=
  if s.sfExists vs fn ∧ ¬ s.inFlr vs fn then s.sfAer vs fn .unsupportedRequest posted {} else s

/-- A read of a 32-bit word of a BAR. [log: DEDUCED 30] -/
def Dev.barRead (s : Dev) (vs fn b off : Nat) : Nat × Dev :=
  if ¬ s.barOpen vs fn then (0xFFFFFFFF, s.barClosed vs fn false)
  else match s.barAt vs fn b off with
    | .reg r inst byte => (wordOf (s.regRead r inst) byte, s.regAfterRead r inst)
    | .msix k => ((s.sfn vs fn).msixWord k, s)
    | .pba w => ((s.sfn vs fn).pba / 2 ^ (32 * w) % 2 ^ 32, s)
    | .mbReq o => (leNat (((s.sfn vs fn).mailReq.drop o).take 4), s)
    | .mbRsp o => (leNat (((s.sfn vs fn).mailRsp.drop o).take 4), s)
    | .cnt i byte => (wordOf (s.counterSlot vs fn i) byte, s)
    | .db _ => (0, s)
    | .none => (0, s)

/-- SF_Q_CFG (R225, R229): SIZE_EXP while EN is 0 and IDLE is 1; VEC below the function's Table Size; EN starts or stops the queue. -/
def Dev.queueCfgPut (s : Dev) (vs fn q st0 : Nat) : Dev :=
  let old := s.rget .SF_Q_CFG q
  let st := if s.fget Fld.SF_RES.VECTORS (sfKey vs fn) ≤ valOf st0 Fld.SF_Q_CFG.VEC then keepFields old st0 [Fld.SF_Q_CFG.VEC] else st0
  let still := !s.fbit Fld.SF_Q_CFG.EN q && s.fbit Fld.SF_Q_STAT.IDLE q
  let st1 := if still then st else keepFields old st [Fld.SF_Q_CFG.SIZE_EXP]
  let s1 := s.rset .SF_Q_CFG q (keepFields old st1 [Fld.SF_Q_CFG.EN])
  if valOf st Fld.SF_Q_CFG.EN = valOf old Fld.SF_Q_CFG.EN then s1
  else if valOf st Fld.SF_Q_CFG.EN = 1 then queueEnable q s1 else queueDisable q s1

/-- SF_Q_STAT (R228): ERR is cleared only while EN is 0, and CODE with it. -/
def Dev.queueStatPut (s : Dev) (q st : Nat) : Dev :=
  if s.fbit Fld.SF_Q_CFG.EN q ∨ valOf st Fld.SF_Q_STAT.ERR = 1 then s
  else s.rset .SF_Q_STAT q (setBitsOf st Fld.SF_Q_STAT.CODE.hi Fld.SF_Q_STAT.CODE.lo 0)

/-- Whether a ledger bitmap in LPDDR4X would leave the ledger area (R30). -/
def Dev.bitmapOut (s : Dev) (g addr : Nat) : Bool :=
  decide (addr < 0x80000000) || decide (0xC0000000 < addr + ceilDiv (s.fget Fld.SF_LG_RPAGES.PAGES g) 8)

/-- SF_LG_CTRL (R30, R250 to R255): GRAN, LOC and FN while EN is 0; nothing of a write that sets EN while a bitmap lies outside the area;
SWAP. -/
def Dev.ledgerCtlPut (s : Dev) (g st : Nat) (swap : Bool) : Dev :=
  let old := s.rget .SF_LG_CTRL g
  let vs := g / 8
  let st1 := if s.fbit Fld.SF_LG_CTRL.EN g then keepFields old st [Fld.SF_LG_CTRL.GRAN, Fld.SF_LG_CTRL.LOC, Fld.SF_LG_CTRL.FN] else st
  let st2 := if (s.sfn vs 0).numVfs < valOf st1 Fld.SF_LG_CTRL.FN then keepFields old st1 [Fld.SF_LG_CTRL.FN] else st1
  let st3 := if valOf st2 Fld.SF_LG_CTRL.GRAN = 1 ∧ bitsOf (s.rget .SF_LG_RBASE g) 20 12 ≠ 0 then keepFields old st2 [Fld.SF_LG_CTRL.GRAN] else st2
  let out := valOf st3 Fld.SF_LG_CTRL.LOC == 0 &&
    (s.bitmapOut g (s.rget .SF_LG_BMP_A g) || s.bitmapOut g (s.rget .SF_LG_BMP_B g))
  if out ∧ valOf old Fld.SF_LG_CTRL.EN = 0 ∧ valOf st3 Fld.SF_LG_CTRL.EN = 1 then s
  else
    let s1 := s.rset .SF_LG_CTRL g st3
    if swap then ledgerSwap vs (g % 8) s1 else s1

/-- A bitmap address (R255, R30). -/
def Dev.bitmapPut (s : Dev) (r : Reg) (g st : Nat) : Dev :=
  if s.fbit Fld.SF_LG_CTRL.EN g ∨ (s.fget Fld.SF_LG_CTRL.LOC g = 0 ∧ s.bitmapOut g st) then s else s.rset r g st

/-- A write of a register of a service function by its driver. -/
def Dev.sfPut (s : Dev) (vs fn : Nat) (r : Reg) (inst : Nat) (x : RegWr) : Dev :=
  let i := regInfo r
  let st := (s.spare r inst x).stored i (s.rget r inst)
  match r with
  | .SF_EVT => if fn = 0 then (s.rset r inst st).intxSync vs else s.rset r inst st
  | .SF_EVT_MASK => if fn = 0 then (s.rset r inst st).intxSync vs else s.rset r inst st
  | .SF_LATE_LOG => if x.ones.testBit 63 then s.clearRecord r inst else s
  | .SF_Q_BASE => if s.fbit Fld.SF_Q_CFG.EN inst ∨ ¬ s.fbit Fld.SF_Q_STAT.IDLE inst then s else s.rset r inst st
  | .SF_Q_CQ_BASE => if s.fbit Fld.SF_Q_CFG.EN inst ∨ ¬ s.fbit Fld.SF_Q_STAT.IDLE inst then s else s.rset r inst st
  | .SF_Q_CFG => s.queueCfgPut vs fn inst st
  | .SF_Q_STAT => s.queueStatPut inst st
  | .SF_Q_CQ_HEAD => if fn = 0 then (s.rset r inst st).intxSync vs else s.rset r inst st
  | .SF_LG_CTRL => s.ledgerCtlPut inst st (x.new.testBit 30)
  | .SF_LG_RBASE =>
    if s.fbit Fld.SF_LG_CTRL.EN inst ∨ (s.fbit Fld.SF_LG_CTRL.GRAN inst ∧ bitsOf st 20 12 ≠ 0) then s else s.rset r inst st
  | .SF_LG_RPAGES => if s.fbit Fld.SF_LG_CTRL.EN inst then s else s.rset r inst st
  | .SF_LG_BMP_A => s.bitmapPut .SF_LG_BMP_A inst st
  | .SF_LG_BMP_B => s.bitmapPut .SF_LG_BMP_B inst st
  | .SF_LG_VDSP => if s.fbit Fld.SF_LG_CTRL.EN (inst / 8) then s else s.rset r inst st
  | .SF_MB_CTRL =>
    let s1 := s.rset r inst st
    if x.new.testBit 31 then mailboxGo vs ((s1.sfn vs 0).mailReq.take (s1.fget Fld.SF_MB_CTRL.LEN vs)) s1 else s1
  | _ => s.rset r inst st

/-- A write of a 32-bit word of a BAR. [log: DEDUCED 30] -/
def Dev.barWrite (s : Dev) (vs fn b off w : Nat) : Dev :=
  if ¬ s.barOpen vs fn then s.barClosed vs fn true
  else match s.barAt vs fn b off with
    | .reg r inst byte => s.sfPut vs fn r inst (wrWord (s.rget r inst) (regInfo r).width byte w)
    | .db l => doorbellWrite vs fn l (w % 65536) s
    | .msix k =>
      let was := (s.sfn vs fn).vecMasked (k / 4)
      let s1 := s.modSfn vs fn fun f => f.setMsix k (if k % 4 = 3 then w % 2 else w % 2 ^ 32)
      if k % 4 = 3 ∧ was ∧ w % 2 = 0 then s1.flushVector vs fn (k / 4) else s1
    | .mbReq o => s.modSfn vs fn fun f => { f with mailReq := (patch f.mailReq o (leBytes 4 w)).take 2048 }
    | _ => s

end Sys2Proof.Machine
end

