-- ==== Sys2Proof/Machine/Shake.lean ====
section
/-! DEFINITION. SHAKE256 (FIPS 202), which the measurement slots, image and program digests and the session transcript are defined
by (R507, R580, R633). -/
namespace Sys2Proof.Machine

/-- The state's lanes stand in one list, the lane of column x and row y at 5 y + x; coordinates count modulo 5. -/
def laneAt (a : List Word64) (x y : Nat) : Word64 := a.getD (y % 5 * 5 + x % 5) 0

/-- The state whose lane at each place is given by its coordinates. -/
def eachLane (f : Nat → Nat → Word64) : List Word64 := (List.range 25).map fun i => f (i % 5) (i / 5)

/-- The walk of ρ from (1, 0): place t has the offset of the triangular number of t + 1, and (y, 2x + 3y) follows (x, y). -/
def rhoWalk : Nat → Nat → Nat → Nat → List (Nat × Nat)
  | 0, _, _, _ => []
  | n + 1, t, x, y => (5 * y + x, (t + 1) * (t + 2) / 2 % 64) :: rhoWalk n (t + 1) y ((2 * x + 3 * y) % 5)

/-- The rotation of the lane at a place; the lane at the origin, which the walk does not pass, stays. -/
def rhoOffset (x y : Nat) : Nat := (((rhoWalk 24 0 1 0).find? fun e => e.1 == 5 * y + x).map (·.2)).getD 0

/-- One step of the register that makes the constants of ι, with the polynomial x⁸ + x⁶ + x⁵ + x⁴ + 1. -/
def iotaStep (r : Nat) : Nat := if 128 ≤ r then (2 * r) % 256 ^^^ 0x71 else 2 * r

/-- The constant of ι that seven steps of the register give: bit j of the seven at place 2ʲ − 1. -/
def iotaWord : Nat → Nat → Nat → Nat
  | 0, _, _ => 0
  | n + 1, j, r => (if r % 2 = 1 then 2 ^ (2 ^ j - 1) else 0) + iotaWord n (j + 1) (iotaStep r)

/-- The parity of a column. -/
def column (a : List Word64) (x : Nat) : Word64 := (List.range 5).foldl (fun w y => w ^^^ laneAt a x y) 0

/-- θ: each lane with the parities of the column before its own and of the one after it, the latter moved by one place. -/
def theta (a : List Word64) : List Word64 :=
  let par := (List.range 5).map (column a)
  eachLane fun x y => laneAt a x y ^^^ par.getD ((x + 4) % 5) 0 ^^^ (par.getD ((x + 1) % 5) 0).rotateLeft 1

/-- ρ and π: the lane at (x, y) is the one of (x + 3y, x), rotated by the offset of that place. -/
def rhoPi (a : List Word64) : List Word64 :=
  eachLane fun x y => (laneAt a (x + 3 * y) x).rotateLeft (rhoOffset ((x + 3 * y) % 5) x)

/-- χ, and ι at the origin. -/
def chiIota (k : Nat) (a : List Word64) : List Word64 :=
  eachLane fun x y =>
    laneAt a x y ^^^ (laneAt a (x + 2) y &&& ~~~ laneAt a (x + 1) y) ^^^ (if x = 0 ∧ y = 0 then BitVec.ofNat 64 k else 0)

/-- The rounds that are left, with the register of ι as it stands. -/
def rounds : Nat → Nat → List Word64 → List Word64
  | 0, _, a => a
  | n + 1, r, a => rounds n ((List.range 7).foldl (fun r _ => iotaStep r) r) (chiIota (iotaWord 7 0 r) (rhoPi (theta a)))

/-- The permutation Keccak-f[1600]. -/
def keccakF (a : List Word64) : List Word64 := rounds 24 1 a

/-- The rate of SHAKE256 in bytes. -/
abbrev shakeRate : Nat := 136

/-- A block of the rate, as 17 lanes, added to the state. -/
def absorbBlock (a : List Word64) (b : List Byte) : List Word64 :=
  keccakF ((List.range 25).map fun i =>
    if i < 17 then a.getD i 0 ^^^ BitVec.ofNat 64 (leNat ((b.drop (8 * i)).take 8)) else a.getD i 0)

/-- The message padded by the bits 1111, the rule pad10*1. -/
def shakePad (m : List Byte) : List Byte :=
  let z := shakeRate - 1 - m.length % shakeRate
  if z = 0 then m ++ [0x9F] else m ++ [0x1F] ++ List.replicate (z - 1) 0 ++ [0x80]

def absorb : Nat → List Word64 → List Byte → List Word64
  | 0, a, _ => a
  | n + 1, a, b => absorb n (absorbBlock a (b.take shakeRate)) (b.drop shakeRate)

/-- The bytes of the rate of a state. -/
def squeezeBytes (a : List Word64) : List Byte := (a.take 17).flatMap fun w => leBytes 8 w.toNat

/-- SHAKE256 of a message with an output of `n` bytes, at most one rate (the spec uses 32 and 64). -/
def shake256 (m : List Byte) (n : Nat) : List Byte :=
  let p := shakePad m
  (squeezeBytes (absorb (p.length / shakeRate) (List.replicate 25 0) p)).take n

end Sys2Proof.Machine
end

