-- ==== Sys2Proof/Machine/Trust.lean ====
section
/-! DEFINITION. Measured start and attestation (R633 to R652): the log and its slots, firmware images, the remeasurement, reports,
the equalisation table's copies at start-up (R261). -/
namespace Sys2Proof.Machine

/-! The log (R633, R638 to R641) -/

/-- A list of bytes filled with zeros to a length. -/
def zeroPad (n : Nat) (l : List Byte) : List Byte := (l ++ List.replicate (n - l.length) 0).take n

/-- Records the log holds (R640). [log: DEDUCED 194] -/
abbrev logCap : Nat := 4096

/-- The slot of a record and its AFTER (R638). -/
def recSlot (r : List Byte) : Nat := byteN r 1
def recAfter (r : List Byte) : List Byte := r.drop 64

/-- The log with a record entered: when it is full the oldest record written after BOOT gives way, its AFTER goes to BASE (R640).
[log: DEDUCED 194] -/
def Trust.append (t : Trust) (r : List Byte) : Trust :=
  if t.log.length < logCap then { t with log := t.log ++ [r] }
  else match t.log[t.bootRecs]? with
    | some old => { t with log := t.log.take t.bootRecs ++ t.log.drop (t.bootRecs + 1) ++ [r], folded := t.folded + 1,
                           base := t.base.set (recSlot old) (recAfter old) }
    | none => t

/-- A measurement (R633, R638, R642): a record extends its slot and enters the log. -/
def Dev.measure (s : Dev) (kind slot component : Nat) (detail digest : List Byte) : Dev :=
  let body := [BitVec.ofNat 8 kind, BitVec.ofNat 8 slot] ++ leBytes 2 component ++ leBytes 4 s.trust.lseq ++ leBytes 8 s.ftime
    ++ zeroPad 16 detail ++ zeroPad 32 digest
  let after := shake256 (s.trust.slots.getD slot [] ++ body) 32
  let t := { s.trust with slots := s.trust.slots.set slot after, lseq := s.trust.lseq + 1 }
  let t1 := t.append (body ++ after)
  { s with trust := if s.svc.state = stBoot then { t1 with bootRecs := t1.log.length } else t1 }

/-- The value behind meas_read_data (R641). -/
def Trust.logValue (t : Trust) : List Byte := t.base.flatten ++ t.log.flatten

/-- LSEQ of the newest record; 0 before the first. -/
def Trust.newest (t : Trust) : Nat := t.lseq - 1

/-! Firmware images (R636) -/

abbrev imgVersion (b : List Byte) : Nat := leNat ((b.drop 8).take 4)
abbrev imgSvn (b : List Byte) : Nat := leNat ((b.drop 12).take 4)
abbrev imgBody (b : List Byte) : Nat := leNat ((b.drop 16).take 4)

/-- The image without its trailer: header and body. [log: DEDUCED 191] -/
def imgMeasured (b : List Byte) : List Byte := b.take (64 + imgBody b)

/-- A well-formed header of a kind, and a length that fits it. -/
def imgFormed (kind : Nat) (b : List Byte) : Bool :=
  leNat (b.take 4) == 0x5A46574D && leNat ((b.drop 4).take 2) == 1 && leNat ((b.drop 6).take 2) == kind && decide (imgSvn b ≤ 63) &&
    decide (1 ≤ imgBody b) && decide (imgBody b ≤ 4188979) && ((b.drop 20).take 44).all (· == 0) &&
    b.length == 64 + imgBody b + 1952 + 3309

/-- A valid copy (R636). -/
def Dev.imgValid (s : Dev) (kind : Nat) (b : List Byte) : Bool :=
  let pub := (b.drop (64 + imgBody b)).take 1952
  imgFormed kind b && shake256 pub 32 == Config.romKeyDigest && Config.mldsaVerify pub (imgMeasured b) [] (b.drop (64 + imgBody b + 1952)) &&
    decide (s.trust.minSvn.getD kind 0 ≤ imgSvn b)

/-- A flash copy of an image, and which copy is current. -/
def Dev.imgCopy (s : Dev) (kind copy : Nat) : List Byte :=
  (tfind s.trust.copies (2 * kind + copy)).getD (Config.factoryImage kind copy)
def Dev.imgCurrent (s : Dev) (kind : Nat) : Nat := b2n (s.trust.cur.testBit kind)

/-- The copy the boot ROM uses: the current one when valid, else the other (R636). -/
def Dev.bootCopy (s : Dev) (kind : Nat) : Option Nat :=
  let c := s.imgCurrent kind
  if s.imgValid kind (s.imgCopy kind c) then some c
  else if s.imgValid kind (s.imgCopy kind (1 - c)) then some (1 - c)
  else none

/-- The KIND 0x01 record of an image in use (R639). -/
def Dev.measureImage (s : Dev) (kind : Nat) (u : ImgUse) (retained : Bool) : Dev :=
  ({ s with trust.inUse := tins s.trust.inUse kind u }).measure 1 kind kind
    (leBytes 4 u.version ++ leBytes 4 u.svn ++ [BitVec.ofNat 8 u.copy, BitVec.ofNat 8 (b2n retained)]) u.digest

def imgUse (copy : Nat) (b : List Byte) : ImgUse :=
  { copy := copy, version := imgVersion b, svn := imgSvn b, digest := shake256 (imgMeasured b) 32 }

/-- The bank the controller runs (R694), and the flash copy it is; which one, when neither copy holds it any more, is open.
[log: DEDUCED 189] -/
def Dev.runningBank (s : Dev) : List Byte := if s.trust.bank4.isEmpty then Config.factoryBank else s.trust.bank4
/-- [log: DEDUCED 189] -/
def Dev.bankCopy (s : Dev) : Nat × Dev :=
  if s.imgCopy 4 0 = s.runningBank then (0, s) else if s.imgCopy 4 1 = s.runningBank then (1, s)
  else let (x, s1) := s.freeNat
       (x % 2, s1)

/-- Image 4 read back, measured and, where flash holds another valid current copy, that copy written to the pending bank (R694).
[log: DEDUCED 189] -/
def Dev.readBack (s : Dev) : Dev :=
  let (c, s1) := s.bankCopy
  let s2 := s1.measureImage 4 (imgUse c s1.runningBank) true
  let b := s2.imgCopy 4 (s2.imgCurrent 4)
  if s2.imgValid 4 b && b != s2.runningBank then { s2 with trust.pend4 := some b } else s2

/-- IMAGE_MEASURE (R635 to R637, R694): the images in the order of their slots; a module without a valid copy of one stays in BOOT.
[log: DEDUCED 189] -/
def imageMeasure (slot : Nat) (s : Dev) : Dev :=
  if s.svc.state ≠ stBoot ∨ s.svc.rstLow.isSome ∨ slot ≠ s.trust.measured ∨ 5 ≤ slot then s
  else
    let done : Dev → Dev := fun s => { s with trust.measured := slot + 1 }
    if slot < 4 ∧ s.trust.retain.testBit slot then
      match tfind s.trust.inUse slot with
      | some u => done (s.measureImage slot u true)
      | none => s
    else match s.bootCopy slot with
      | none => s
      | some c => if slot = 4 then done s.readBack else done (s.measureImage slot (imgUse c (s.imgCopy slot c)) false)

def execImageMeasure (slot : Nat) (s : State) : Host.Outcome State Fault Refusal := s.act (imageMeasure slot)

/-- remeasure_interval in units of 125 ps. -/
def Dev.remeasureTime (s : Dev) : Nat := s.onum 0xA200 5 60 * tSec

/-- REMEASURE (R643): the code regions of slots 1 and 2 hashed again; a mismatch is FAULT with cause 3. [log: DEDUCED 191] -/
def remeasure (slot : Nat) (code : List Byte) (s : Dev) : Dev :=
  if (slot ≠ 1 ∧ slot ≠ 2) ∨ ¬ s.reachable ∨ s.now < s.trust.remAt.getD (slot - 1) 0 + s.remeasureTime then s
  else
    let s1 := { s with trust.remAt := s.trust.remAt.set (slot - 1) s.now }
    if ((tfind s1.trust.inUse slot).map (·.digest)) = some (shake256 code 32) then s1 else s1.enterFault 3

def execRemeasure (slot : Nat) (code : List Byte) (s : State) : Host.Outcome State Fault Refusal := s.act (remeasure slot code)

/-! The equalisation table (R261, R263) -/

abbrev eqSeq (b : List Byte) : Nat := leNat ((b.drop 4).take 4)
abbrev eqDigest (b : List Byte) : List Byte := (b.drop 96).take 32

/-- A valid copy of the table. -/
def eqValid (b : List Byte) : Bool :=
  b.length == 86272 && leNat (b.take 2) == 1 && leNat ((b.drop 2).take 2) == 1344 &&
    shake256 (b.take 96 ++ b.drop 256) 32 == eqDigest b

/-- The rate code of a slot of the table. -/
def rateOfSlot (sl : Nat) : Nat := if sl < 5 then sl + 2 else 0x10 + sl

/-- The entries that have VALID set and fail another check (R262). -/
def eqBad (b : List Byte) : Nat :=
  ((List.range 1344).filter fun k =>
    let e := entryBytes b (k / 112) (k / 7 % 16) (k % 7)
    bitOf (byteN e 3) 7 && !entryUsable e (k / 112) (k / 7 % 16) (rateOfSlot (k % 7))).length

/-- LN_TBL_STAT with a copy in force. -/
def Dev.eqInForce (s : Dev) (copy : Nat) (other : Bool) : Dev :=
  let b := if copy = 0 then s.ln.eqA else s.ln.eqB
  s.fsets 0 [(Fld.LN_TBL_STAT.VALID, 1), (Fld.LN_TBL_STAT.COPY, copy), (Fld.LN_TBL_STAT.OTHER, b2n other),
    (Fld.LN_TBL_STAT.BADENT, eqBad b), (Fld.LN_TBL_STAT.SEQ, eqSeq b)]

/-- The KIND 0x02 record of the copy in force (R263, R639). [log: DEDUCED 190] -/
def Dev.measureEq (s : Dev) : Dev :=
  let c := s.fget Fld.LN_TBL_STAT.COPY 0
  s.measure 2 5 0 (leBytes 4 (eqSeq s.eqImage) ++ [BitVec.ofNat 8 c]) (eqDigest s.eqImage)

/-- Start-up checks both copies and puts the valid one of the higher SEQ in force (R261); its record follows, where there is one.
[log: DEDUCED 190] -/
def Dev.eqStart (s : Dev) : Dev :=
  let va := eqValid s.ln.eqA
  let vb := eqValid s.ln.eqB
  if va && (!vb || decide (eqSeq s.ln.eqB ≤ eqSeq s.ln.eqA)) then (s.eqInForce 0 vb).measureEq
  else if vb then (s.eqInForce 1 va).measureEq
  else s.rset .LN_TBL_STAT 0 0

/-! Reports (R648, R649) -/

/-- A report's bytes 0 to 647. -/
def Dev.reportBody (s : Dev) (nonce : List Byte) : List Byte :=
  leBytes 4 0x5A525054 ++ leBytes 2 1 ++ [0, 0] ++ leBytes 4 3957 ++ leBytes 4 s.trust.newest ++ leBytes 4 s.trust.folded
    ++ leBytes 4 (s.fget Fld.DL_DEAL_EPOCH.EPOCH 0) ++ leBytes 8 s.serial ++ leBytes 8 s.ftime
    ++ leBytes 2 (if s.joined then s.fsid else 0xFFFF) ++ leBytes 1 s.svc.state ++ [0xA1] ++ leBytes 4 Config.romVersion
    ++ (List.range 5).flatMap (fun k => leBytes 4 (((tfind s.trust.inUse k).map (·.version)).getD 0)) ++ [0, 0, 0, 0]
    ++ zeroPad 32 nonce ++ shake256 Config.devicePub 32 ++ s.trust.slots.flatten ++ s.trust.base.flatten

/-- "Spasan report v1" in ASCII. -/
def reportContext : List Byte := "Spasan report v1".toUTF8.toList.map fun x => BitVec.ofNat 8 x.toNat

def Dev.reportOf (s : Dev) (nonce : List Byte) : List Byte :=
  let b := s.reportBody nonce
  b ++ zeroPad 3309 (Config.deviceSign b reportContext)

/-- REPORT_READY (R649): the signed report can be read, its result is written. [log: DEDUCED 159] -/
def reportReady (s : Dev) : Dev :=
  match s.trust.pendReport with
  | none => s
  | some b => ({ s with trust.report := b, trust.pendReport := none }).cmdDone 0xA000 4 0 (leBytes 4 3957)

def execReportReady (s : State) : Host.Outcome State Fault Refusal := s.act reportReady

end Sys2Proof.Machine
end

