-- ==== Sys2Proof/Machine/ObjAct.lean ====
section
/-! DEFINITION. What a stored value of an object does when it comes into force (R558, R589 to R604): the ports, the registers an
entry mirrors, the dealer's role, the power policy, the allocations in LPDDR4X; the restoring of the RWS values (R701). -/
namespace Sys2Proof.Machine

/-! Ports -/

/-- port_maxrate: PCI_PORT_CTRL.MAXRATE, or BL_CTRL.RATE + 5 for a fabric port. -/
def Dev.maxrate (s : Dev) (n : Nat) : Nat :=
  if s.isFabric n then 5 + s.fget Fld.BL_CTRL.RATE n else s.fget Fld.PCI_PORT_CTRL.MAXRATE n

/-- The register of port_maxrate under the port's present role. -/
def Dev.setMaxrate (s : Dev) (n v : Nat) : Dev :=
  if s.isFabric n then s.fset Fld.BL_CTRL.RATE n (v - 5) else s.fset Fld.PCI_PORT_CTRL.MAXRATE n v

/-- A new role of a port: its rate goes with it (R596). -/
def Dev.setRole (s : Dev) (n v : Nat) : Dev :=
  let rate := s.maxrate n
  let s1 := s.oset (0x4000 + n) 2 v
  if s.isFabric n == s1.isFabric n then s1 else s1.setMaxrate n rate

/-- An entry of a port comes into force. [log: DEDUCED 142] -/
def Dev.portObj (s : Dev) (n sub v : Nat) : Dev :=
  if sub = 1 then (if v = 1 then portEnable n s else portDisable n s)
  else if sub = 2 then s.setRole n v
  else if sub = 4 then s.setMaxrate n v
  else s.oset (0x4000 + n) sub v

/-! Allocations in LPDDR4X (R492, R604) -/

/-- The engine area (R30). -/
abbrev engArea : Nat := 0xF0000000

/-- The bytes of an allocation record. -/
def Dev.allocBytes (s : Dev) (k : Nat) : Nat := s.onum (0xB400 + k) 3 0 * 1048576

/-- The allocations that stand, by base: base, bytes, record. -/
def Dev.allocList (s : Dev) : List (Nat × Nat × Nat) :=
  (s.eng.allocBase.map fun e => (e.2, s.allocBytes e.1, e.1)).mergeSort fun a b => decide (a.1 ≤ b.1)

/-- The first hole of a size. [log: DEDUCED 138] -/
def firstHole (need : Nat) : Nat → List (Nat × Nat × Nat) → Option Nat
  | a, [] => if a + need ≤ memTop then some a else none
  | a, (b, n, _) :: t => if a + need ≤ b then some a else firstHole need (b + n) t

/-- Every allocation moved down to close the holes, its bytes with it. [log: DEDUCED 138] -/
def Dev.packAllocs (s : Dev) : Dev :=
  let l := s.allocList
  let (_, moves) := l.foldl (fun (x : Nat × List (Nat × Nat × Nat × Nat)) e => (x.1 + e.2.1, x.2 ++ [(e.1, e.2.1, e.2.2, x.1)])) (engArea, [])
  let at_ := fun a => (moves.find? fun m => decide (m.1 ≤ a) && decide (a < m.1 + m.2.1)).map fun m => m.2.2.2 + (a - m.1)
  let mem := s.mem.foldl (fun t e => if e.1 < engArea then tins t e.1 e.2 else match at_ e.1 with
    | some a => tins t a e.2
    | none => t) []
  { s with mem := mem, eng.allocBase := moves.foldl (fun t m => tins t m.2.2.1 m.2.2.2) [] }

/-- An allocation record with its new size: freed, then placed in the first hole, the others packed where none fits.
[log: DEDUCED 138] -/
def Dev.setAlloc (s : Dev) (k mib : Nat) : Dev :=
  let s1 := { s with eng.allocBase := tdel s.eng.allocBase k }
  let s2 := s1.oset (0xB400 + k) 3 mib
  if mib = 0 then s2
  else
    let s3 := if (firstHole (mib * 1048576) engArea s1.allocList).isSome then s2 else s1.packAllocs.oset (0xB400 + k) 3 mib
    match firstHole (mib * 1048576) engArea s3.allocList with
    | some a => { s3 with eng.allocBase := tins s3.eng.allocBase k a }
    | none => s3

/-! The entries -/

/-- PCI_VS_CFG.HOST_PORT and HPV together (R181). -/
def Dev.setHostPort (s : Dev) (v p : Nat) : Dev :=
  if p = 0xFF then s.fset Fld.PCI_VS_CFG.HPV v 0 else s.fsets v [(Fld.PCI_VS_CFG.HOST_PORT, p), (Fld.PCI_VS_CFG.HPV, 1)]

/-- The fields of a share's register. -/
def shareFld (sub : Nat) : Fld :=
  if sub = 1 then Fld.CL_SHARE.VALID else if sub = 2 then Fld.CL_SHARE.RO else if sub = 3 then Fld.CL_SHARE.USER_VS
  else if sub = 4 then Fld.CL_SHARE.WIN_VS else Fld.CL_SHARE.WIN

/-- A number stored in a writable entry comes into force; an entry of a register stores there. -/
def Dev.putNum (s : Dev) (idx sub v : Nat) : Dev :=
  if 0x4000 ≤ idx ∧ idx < 0x4030 then s.portObj (idx - 0x4000) sub v
  else if 0x5000 ≤ idx ∧ idx < 0x5030 ∧ sub = 2 then s.fset Fld.PCI_VS_CFG.NDSP (idx - 0x5000) v
  else if 0x5000 ≤ idx ∧ idx < 0x5030 ∧ sub = 4 then s.fset Fld.XB_FTO.US (idx - 0x5000) v
  else if 0x5000 ≤ idx ∧ idx < 0x5030 ∧ sub = 5 then s.setHostPort (idx - 0x5000) v
  else if idx = 0x7100 ∧ sub = 1 then
    { s.oset idx sub v with dl.dealer.active := if v = 1 then true else if v = s.onum 0x7100 1 0 then s.dl.dealer.active else false }
  else if idx = 0x8000 ∨ (0x8200 ≤ idx ∧ idx < 0x8208) then
    { s.oset idx sub v with pe.pol := tins s.pe.pol (objKey idx sub) (.num v) }
  else if 0xB200 ≤ idx ∧ idx < 0xB300 then
    let g := idx - 0xB200
    if sub = 1 then
      (if v = 1 then s.fset Fld.CL_GRP_CTL.EN g 1 else (groupDisable g s).fset Fld.CL_GRP_CTL.EN g 0)
    else if sub = 2 then s.fset Fld.CL_GRP_CTL.GEN g v
    else if sub = 3 then s.fset Fld.CL_GRP_N.N g v
    else if sub = 4 then s.fset Fld.CL_GRP_N.RANK g v
    else if sub = 5 then s.fset Fld.CL_GRP_CTL.FANM1 g (v - 1)
    else if sub = 6 then s.fset Fld.CL_GRP_CTL.LOCM1 g (v - 1)
    else if sub = 7 then s.fsets g [(Fld.CL_GRP_PARENT.PV, b2n (decide (v ≠ 0xFFFF))), (Fld.CL_GRP_PARENT.PARENT, if v = 0xFFFF then 0 else v)]
    else s.rset .CL_GRP_VSMASK g v
  else if 0xB300 ≤ idx ∧ idx < 0xB400 then s.fset (shareFld sub) (idx - 0xB300) v
  else if 0xB400 ≤ idx ∧ idx < 0xB830 ∧ sub = 3 then s.setAlloc (idx - 0xB400) v
  else s.oset idx sub v

/-- Bytes stored in a writable entry come into force. -/
def Dev.putBytes (s : Dev) (idx sub : Nat) (b : List Byte) : Dev :=
  if idx = 0x8000 then { s.osetb idx sub b with pe.pol := tins s.pe.pol (objKey idx sub) (.bytes b) }
  else if 0xB200 ≤ idx ∧ idx < 0xB300 then
    each (List.range 16) s fun s j =>
      let f := leNat ((b.drop (2 * j)).take 2)
      s.fsets (16 * (idx - 0xB200) + j) [(Fld.CL_GRP_CHILD.VALID, b2n (decide (f ≠ 0xFFFF))), (Fld.CL_GRP_CHILD.FSID, if f = 0xFFFF then 0 else f)]
  else s.osetb idx sub b

/-- A value stored in a writable entry comes into force. -/
def Dev.objPut (s : Dev) (idx sub : Nat) (v : OVal) : Dev :=
  match v with
  | .num n => s.putNum idx sub n
  | .bytes b => s.putBytes idx sub b

/-! Restoring (R561, R639, R701) -/

/-- The RWS values of flash come into force: their record, the values but port_enable, then the enabled ports. A value written since
the entry to BOOT stands. [log: DEDUCED 188] -/
def Dev.restoreRws (s : Dev) : Dev :=
  let s1 := s.measure 3 5 0 (leBytes 4 s.flash.length) (shake256 (Config.storedBlock s.flash) 32)
  let isEn := fun k => decide (objKey 0x4000 0 ≤ k) && decide (k < objKey 0x4030 0) && k % 256 == 1
  let l := s.flash.filter fun e => (tfind s.objs e.1).isNone && !isEn e.1
  let on := s.flash.filter fun e => isEn e.1 && decide (e.2 = .num 1)
  let s2 := each l s1 fun s e => s.objPut (e.1 / 256) (e.1 % 256) e.2
  each on s2 fun s e => portEnable (e.1 / 256 - 0x4000) s

end Sys2Proof.Machine
end

