-- ==== Sys2Proof/Machine/Boot.lean ====
section
/-! DEFINITION. Resets and start-up (R689 to R706, R712): the entry to BOOT and what each reset leaves, the start of the management
firmware, the hot reset of a virtual switch, PERST_N of a host port, the reset of an engine cluster. -/
namespace Sys2Proof.Machine

/-! The entry to BOOT -/

/-- The always-running counters (R621): COUNT in [47:0] and OVF in [63]. [log: DEDUCED 177] -/
def runningCounter (r : Reg) : Bool :=
  (regInfo r).fields.any (fun f => f.hi == 63 && f.lo == 63 && f.acc == .RW1C) && (regInfo r).fields.any fun f => f.hi == 47 && f.lo == 0 && f.acc == .RO

/-- The registers a warm or management reset keeps: the always-running counters. [log: DEDUCED 177] -/
def keptRegs (t : Tbl Word64) : Tbl Word64 := t.filter fun e => allRegs.any fun r => regCode r == e.1 / 1048576 && runningCounter r

/-- LPDDR4X after a warm or management reset: the ledger and engine areas zeroed (R693). [log: DESIGN CHOICE 8, DEDUCED 187] -/
def keptMem (t : Tbl Byte) : Tbl Byte := t.filter fun e => decide (e.1 < 0x80000000) || (decide (0xC0000000 ≤ e.1) && decide (e.1 < 0xF0000000))

/-- The key slots: a slot being loaded is empty again, failures and locks are forgotten. [log: DEDUCED 193] -/
def keptKeys (t : Tbl KeySlot) : Tbl KeySlot :=
  (tkeys t).foldl (fun u k => tmod {} u k fun x => if x.state = 1 then {} else { x with fails := [], till := none }) t

/-- The slot channels: gates off, the counts of the controller kept (R695). [log: DEDUCED 241] -/
def offSlots (t : Tbl SlotCh) : Tbl SlotCh :=
  (tkeys t).foldl (fun u k => tmod {} u k fun x => { ({} : SlotCh) with trips := x.trips, cause := x.cause }) t

/-- The contacts of host ports, which no reset changes. -/
def Dev.keptPorts (s : Dev) : Tbl PciPort :=
  (tkeys s.pci.ports).foldl (fun u n => tput {} u n { perst := (s.pport n).perst && s.isHost n }) []

/-- Wear and sensors after a restart: the stored ages stand again (R629). -/
def Tel.restart (t : Tel) (now : Nat) (cold : Bool) : Tel :=
  { wearE := t.wearStored, wearStored := t.wearStored, wearAt := now, wearStoreAt := now, wearUsed := wearUsedOf t.wearStored,
    dieTemp := t.dieTemp, hottest := t.hottest, thermOn := t.thermOn, bwNext := now + tMs,
    elogN := if cold then 0 else t.elogN, elogKept := if cold then 0 else t.elogKept }

/-- Measured start after a restart: slots, log and report from nothing; flash copies, banks, minima and retained images kept. -/
def Trust.restart (t : Trust) (now retain : Nat) : Trust :=
  { copies := t.copies, cur := t.cur, minSvn := t.minSvn, bank4 := t.bank4, pend4 := t.pend4, retain := retain,
    inUse := t.inUse.filter fun e => retain.testBit e.1, remAt := [now, now] }

/-- The entry to BOOT (R689 to R695): `cause` 1 to 3 for a cold start, 4 for a warm reset, 5 for a management reset, which retains
images 0 and 3. [log: DESIGN CHOICE 8, DEDUCED 184, DEDUCED 185, DEDUCED 187] -/
def Dev.bootEntry (s : Dev) (cause : Nat) : Dev :=
  let s1 := each (List.range 8) s.settleFlash fun s k => ((s.pin "SLOT_GATE" k false).pin "SLOT_PFW_N" k false).pin "SLOT_PERST_N" k false
  let cold := decide (cause ≤ 3)
  let hold := objKey 0xA000 1
  let d : Dev :=
    { now := s1.now, bootAt := s1.now, ftime := if cold then 0 else s1.ftime, free := s1.free, flash := s1.flash, out := s1.out,
      regs := if cold then [] else keptRegs s1.regs, mem := if cold then [] else keptMem s1.mem,
      objs := s1.flash.filter fun e => e.1 == hold,
      tel := s1.tel.restart s1.now cold, ln := { eqA := s1.ln.eqA, eqB := s1.ln.eqB }, pci := { ports := s1.keptPorts },
      dl := { dealer := { jn := if cold then 0 else s1.dl.dealer.jn } }, eng := { quantumStart := s1.now, quantumEnd := s1.now + 128000 },
      svc := { keys := keptKeys s1.svc.keys, resetCause := cause, resetCount := (s1.svc.resetCount + 1) % 2 ^ 32, eccReady := !cold && s1.svc.eccReady },
      trust := s1.trust.restart s1.now (if cause = 5 then 9 else 0),
      pe := { s1.pe with slots := offSlots s1.pe.slots, sagged := false } }
  let d1 := { d with tel.eol := d.eolOf }.wearRegs
  if cold then d1 else d1.fset Fld.TM_STAT.STATE 0 tsHoldover

/-- POWER_GOOD (R659, R694): every rail is in regulation; a cold start enters BOOT. -/
def powerGood (s : Dev) : Dev :=
  if s.pe.state = peOn ∧ s.pe.railAt.isSome ∧ ¬ s.pe.pgood then
    ({ s with pe.pgood := true, pe.railAt := none }).bootEntry s.pe.why
  else s

def execPowerGood (s : State) : Host.Outcome State Fault Refusal := s.actPe powerGood

/-- The warm reset, held at the entry to BOOT while RST_N is low (R690). [log: DEDUCED 185] -/
def Dev.warmStart (s : Dev) : Dev := let s1 := s.bootEntry 4
                                     { s1 with svc.rstLow := some s1.now }

/-- WARM_RESET (R690): RST_N low for a number of nanoseconds; of 1 to 10 µs the spec leaves open whether a reset starts.
[log: DEDUCED 185, DESIGN CHOICE 186] -/
def warmReset (held : Nat) (s : Dev) : Dev :=
  if held < 1000 then s
  else if held < 10000 then
    let (x, s1) := s.freeNat
    if x % 2 = 1 then s1.warmStart else s1
  else s.warmStart

def execWarmReset (held : Nat) (s : State) : Host.Outcome State Fault Refusal := s.act (warmReset held)

/-- RST_N_RELEASE (R690): BOOT begins. [log: DESIGN CHOICE 202] -/
def rstNRelease (s : Dev) : Dev :=
  if s.svc.rstLow.isSome then { s with svc.rstLow := none, bootAt := s.now, trust.remAt := [s.now, s.now] } else s

def execRstNRelease (s : State) : Host.Outcome State Fault Refusal := s.act rstNRelease

/-! Start-up -/

/-- boot_hold (R561). [log: DEDUCED 188] -/
def Dev.bootHold (s : Dev) : Bool := s.onum 0xA000 1 0 == 1

/-- The RWS values restored and STANDBY entered (R560, R701). [log: DEDUCED 156] -/
def Dev.toStandby (s : Dev) : Dev := (s.restoreRws).setDevState stStandby

/-- A start of the management complex tells of module trips since its last one (R666). [log: DEDUCED 182] -/
def Dev.tellTrips (s : Dev) : Dev :=
  if s.pe.trips = s.pe.told then s else ({ s with pe.told := s.pe.trips }).raise evPower

/-- BOOT_COMPLETE (R560, R261, R635, R701): every image is measured and the management firmware has started.
[log: DEDUCED 197] -/
def bootComplete (s : Dev) : Dev :=
  if s.svc.state ≠ stBoot ∨ s.trust.measured ≠ 5 ∨ s.svc.rstLow.isSome then s
  else
    let s1 := ((s.eqStart).setDevState stMeasured).thermal.tellTrips
    if s1.svc.state ≠ stMeasured ∨ s1.bootHold then s1 else s1.toStandby

def execBootComplete (s : State) : Host.Outcome State Fault Refusal := s.act bootComplete

/-- ECC_INIT_COMPLETE (R704). [log: DEDUCED 198] -/
def eccInitComplete (s : Dev) : Dev := { s with svc.eccReady := true }
def execEccInitComplete (s : State) : Host.Outcome State Fault Refusal := s.act eccInitComplete

/-- RRS_LIMIT_EXPIRY (R703): rrs_limit has passed since BOOT began and the switch has not joined. [log: DEDUCED 198] -/
def rrsLimitExpiry (s : Dev) : Dev :=
  if s.joined ∨ s.svc.rrsDone ∨ ¬ s.reachable ∨ s.now < s.bootAt + s.onum 0x2003 3 2000 * tMs then s
  else ({ s with svc.rrsDone := true }).raise evMgmt

def execRrsLimitExpiry (s : State) : Host.Outcome State Fault Refusal := s.act rrsLimitExpiry

/-! Hot reset of a virtual switch (R699) -/

/-- A port function's registers at their defaults; those that PCI Express keeps over a hot reset, and the state that status
bits show, stay. [log: PRESUMED 52, DEDUCED 53, DEDUCED 196] -/
def PortFn.hotReset (f : PortFn) : PortFn :=
  { linkStat := f.linkStat, linkCtl2 := f.linkCtl2, slotStat := f.slotStat &&& 0x40, uncStat := f.uncStat, uncMask := f.uncMask,
    uncSev := f.uncSev, corStat := f.corStat, corMask := f.corMask, firstErr := f.firstErr, hdrLog := f.hdrLog, dpcStat := f.dpcStat,
    dpcSrc := f.dpcSrc }

/-- The routing registers of two port functions agree (R362). -/
def PortFn.sameWindow (f g : PortFn) : Bool :=
  f.memBase == g.memBase && f.memLimit == g.memLimit && f.pfBase == g.pfBase && f.pfLimit == g.pfLimit && f.pfBaseHi == g.pfBaseHi &&
    f.pfLimitHi == g.pfLimitHi

/-- A Function Level Reset of the service function, one in progress being completed first (R691).
[log: DEDUCED 53, DEDUCED 196] -/
def Dev.sfHotReset (s : Dev) (vs : Nat) : Dev :=
  let going := (0 :: s.vfsOf vs).filter fun f => s.inFlr vs f
  functionLevelReset vs 0 (each going s fun s f => flrComplete vs f s)

/-- Power Controller Control of a vDSP's slot at its reset value (R214), which acts as a write of it does. -/
def Dev.slotReset (s : Dev) (vs n : Nat) : Dev :=
  match (s.boundPort vs n).bind s.slotOf with
  | some k =>
    let s1 := if s.fbit Fld.PCI_SLOT_MAP.AUTO_ON k == s.slotCtl k then s
      else if s.slotCtl k then slotPowerOff vs n s else slotPowerOn vs n s
    s1.modSlot k fun c => { c with ctl := none }
  | none =>
    let auto : Bool := match s.boundFar vs n, (s.vd vs n).far.slot with
      | some _, some x => x.2.2
      | _, _ => true
    let s1 := if auto then (if s.powerCtl vs n then slotPowerOn vs n s else s) else if s.powerCtl vs n then s else slotPowerOff vs n s
    s1.modVd vs n fun v => { v with pccSet := false, far := { v.far with slot := v.far.slot.map fun x => (x.1, !auto, x.2.2) } }

/-- A vDSP back at its defaults by a reset from above (R699): its slot's power controller, its registers, its remote port's controls.
[log: PRESUMED 52] -/
def Dev.vdspReset (s : Dev) (vs n : Nat) : Dev :=
  let was := s.pfn vs n
  let s1 := ((s.slotReset vs n).modPfn vs n PortFn.hotReset).modVd vs n fun v => { v with cmdAt := none }
  let s2 := if was.linkCtl.testBit 4 then vdspLinkDisable vs n false s1 else s1
  let s3 := if was.linkCtl % 4 = 0 then s2 else vdspAspmControl vs n 0 s2
  (s3.tellControls vs n).syncPresence vs n

/-- VS_HOT_RESET (R699): a hot reset on the host port of a VS, or its data link going down. [log: DEDUCED 53, DEDUCED 196] -/
def vsHotReset (vs : Nat) (s : Dev) : Dev :=
  if ¬ s.vsExists vs ∨ s.resetNow then s
  else
    let ns := List.range (s.fget Fld.PCI_VS_CFG.NDSP vs)
    let p := s.hostPort vs
    let s1 := (s.modPfn vs uspNo PortFn.hotReset)
    let s2 := (each ns s1 fun s n => s.vdspReset vs n).tellPtm vs 15 0
    let s2b := (s2.sfHotReset vs).rclear .XB_LOCK vs
    let s3 := { s2b with xing.lockRead := tdel s2b.xing.lockRead vs }
    let s4 := each (ns.filter fun n => (s.bindOf s.ap vs n).isSome) s3 fun s n =>
      secondaryBusReset vs n false (secondaryBusReset vs n true s)
    let s5 := each (ns.filter fun n => !(s.pfn vs n).sameWindow (s.pfn vs n).hotReset) s4 fun s n => s.sendWindowNotice vs n
    let s6 := (s5.syncBusMap vs).linkDown p lDetect
    ({ s6 with fwd.contained := s6.fwd.contained ||| 2 ^ p }).flushPort p

def execVsHotReset (vs : Nat) (s : State) : Host.Outcome State Fault Refusal := s.act (vsHotReset vs)

/-- PCIE_LINK_DOWN (R191, R194, R689): the data link of a port goes down; that of a host port starts a hot reset of its VS. -/
def pcieLinkDown (n : Nat) (hotReset : Bool) (s : Dev) : Dev :=
  let s1 := s.dataDown n hotReset
  match s.vsOfHost n with
  | some v => if (s.pport n).up then vsHotReset v s1 else s1
  | none => s1

def execPcieLinkDown (n : Nat) (hotReset : Bool) (s : State) : Host.Outcome State Fault Refusal := s.act (pcieLinkDown n hotReset)

/-- HOST_PERST_ASSERT (R712): the contact of a host port is low: its link stays in Detect. [log: DESIGN CHOICE 202] -/
def hostPerstAssert (n : Nat) (s : Dev) : Dev :=
  if s.isHost n then (pcieLinkDown n false s).modPport n fun q => { q with perst := true } else s

def execHostPerstAssert (n : Nat) (s : State) : Host.Outcome State Fault Refusal := s.act (hostPerstAssert n)

/-- HOST_PERST_RELEASE (R713): the link may train. -/
def hostPerstRelease (n : Nat) (s : Dev) : Dev := if s.isHost n then s.modPport n fun q => { q with perst := false } else s
def execHostPerstRelease (n : Nat) (s : State) : Host.Outcome State Fault Refusal := s.act (hostPerstRelease n)

/-! Engine clusters (R700) -/

/-- A customer cluster reset: its runs end ABORTED; SRAM, code area, slots and EN_ status registers are at their reset values; the
number of runs aborted. -/
def Dev.clusterReset (s : Dev) (c : Nat) : Nat × Dev :=
  let rs := (s.eng.runs.filter fun e => e.2.cluster == c).map (·.1)
  let s1 := each rs s fun s r => s.stopRun r 3
  let s2 := s1.setResidents c []
  let s3 := { s2 with eng.sram := s2.eng.sram.filter fun e => e.1 / 2097152 != c, eng.slots := s2.eng.slots.filter fun e => e.1 / 256 != c }
  let s4 := each ((List.range 16).map (16 * c + ·)) s3 fun s e =>
    (((s.rclear .EN_STAT e).rclear .EN_PC e).rclear .EN_FAULT e).rclear .EN_FAULT_ADDR e
  (rs.length, s4)

end Sys2Proof.Machine
end

