-- ==== Sys2Proof/Machine/Deal.lean ====
section
/-! DEFINITION. Tree messages (R455 to R463), deals (R434 to R444, R727, R728), drains and their markers (R440 to R442, R451), cuts
and their records (R448 to R450, R623), the dealer (R445 to R447, R599, R600) and the fabric reset (R696 to R698). -/
namespace Sys2Proof.Machine

/-! Tree messages on their way -/

/-- The 32 bytes of a tree message (R463). -/
def treeBytes (m : TreeMsg) : List Byte :=
  [BitVec.ofNat 8 m.kind, BitVec.ofNat 8 m.flags] ++ leBytes 2 m.term ++ leBytes 4 m.epoch ++ leBytes 8 m.t ++ leBytes 2 m.count1
    ++ leBytes 2 m.count2 ++ List.replicate 12 0

/-- A tree message read from its bytes. -/
def treeOf (b : List Byte) : TreeMsg :=
  { kind := byteN b 0, flags := byteN b 1, term := leNat ((b.drop 2).take 2), epoch := leNat ((b.drop 4).take 4),
    t := leNat ((b.drop 8).take 8), count1 := leNat ((b.drop 16).take 2), count2 := leNat ((b.drop 18).take 2) }

/-- A tree message to port 52 of a switch: a Vendor-Defined message in ordering class and core class 7 (R455). -/
def Dev.treeTo (s : Dev) (f : Nat) (m : TreeMsg) : Dev :=
  let t : Tlp := { kind := .vdm, code := 0x7F, vendor := 0x1F2D, tc := 7, len := 48, data := treeBytes m }
  s.emit (.packet 52 (f * 64 + 52) 0 7 .posted (.tlp { t with raw := Config.tlpBytes t }))

/-- The children of this switch in the fabric tree in force, by index and FSID (R457). -/
def Dev.treeKids (s : Dev) : List (Nat × Nat) :=
  if s.dl.treeIn then
    (List.range 16).filterMap fun i => if s.fbit Fld.DL_TREE_CHILD.VALID i then some (i, s.fget Fld.DL_TREE_CHILD.FSID i) else none
  else []

/-- This switch acts as the root: it is the root of the tree in force, or has joined without one (R460). [log: DEDUCED 85] -/
def Dev.treeRoot (s : Dev) : Bool := !s.dl.treeIn || s.fbit Fld.DL_TREE.ROOT 0

/-- Whether a down message is acted on (R460). [log: DEDUCED 85] -/
def Dev.treeAccept (s : Dev) (src : TreeSrc) : Bool :=
  if !s.joined then src == .directed
  else if !s.dl.treeIn then true
  else if s.fbit Fld.DL_TREE.ROOT 0 then src != .directed
  else src == .fsid (s.fget Fld.DL_TREE.PARENT 0)

/-- A down message (R460, R445): sent to each child and acted on, with whether its term is the highest seen; one from another source
is discarded and counted. [log: DEDUCED 85, DEDUCED 86] -/
def Dev.downMsg (s : Dev) (src : TreeSrc) (m : TreeMsg) (act : Dev → Bool → Dev) : Dev :=
  if s.treeAccept src then
    let s1 := if s.joined then each s.treeKids s fun s k => s.treeTo k.2 m else s
    if m.term < s.fget Fld.DL_DEAL_STAT.TERM 0 then act (s1.fset Fld.DL_DEAL_STAT.CODE 0 4) false
    else act { s1.fset Fld.DL_DEAL_STAT.TERM 0 m.term with
                 dl.from_ := if s.joined && !s.treeRoot then s.dl.from_ else some src } true
  else s.count .DL_TREE_DROP_CNT 0 1

/-- The result of cut_cmd when the CUT_DONE of its cut reaches this switch's dealer (R449); other up messages go to the dealer itself.
[log: DEDUCED 87, DEDUCED 205] -/
def Dev.dealerHears (s : Dev) (m : TreeMsg) : Dev :=
  let run := m.kind = 0x18 ∧ (s.cmdSt 0x7200 1).running ∧ (s.cmdSt 0x7200 1).arg = m.epoch
  if run then s.cmdDone 0x7200 1 0 (leBytes 2 m.epoch ++ leBytes 2 m.count1 ++ leBytes 2 m.count2)
  else if s.dl.dealer.active then s.emit (.deliver 52 none (.ctl (treeBytes m)))
  else s.count .DL_TREE_DROP_CNT 0 1

/-- A combined up message on its way: to the parent; at the root to the sender of the last down message followed; over the reversed
path from a switch that has not joined; straight to the dealer for the drain of the deal by which the switch joined (R461, R346).
[log: DESIGN CHOICE 95] -/
def Dev.sendUp (s : Dev) (m : TreeMsg) : Dev :=
  let dealer := match s.dl.from_ with
    | some (.fsid f) => if f = s.fsid then s.dealerHears m else s.treeTo f m
    | some .external => s.notice 1 0xFFFF s.ftime (treeBytes m)
    | some .directed => s.sendReply s.dl.treeReq 0x0B (treeBytes m)
    | none => s
  if !s.joined then (if s.dl.treeReq.isEmpty then s.dealerHears m else s.sendReply s.dl.treeReq 0x0B (treeBytes m))
  else if m.kind = 0x15 ∧ s.dl.joinEpoch = some m.epoch then
    (match s.dl.from_ with
     | some .directed => let (x, s1) := s.freeNat
                         s1.treeTo (x % 2048) m
     | _ => dealer)
  else if s.treeRoot then dealer
  else s.treeTo (s.fget Fld.DL_TREE.PARENT 0) m

/-! Combining (R461 to R463) -/

/-- The combining in progress of an up message by its KIND. -/
def Dev.comb (s : Dev) (kind : Nat) : Combine := if kind = 0x11 then s.dl.vote else if kind = 0x15 then s.dl.conf else s.dl.done
def Dev.setComb (s : Dev) (kind : Nat) (c : Combine) : Dev :=
  if kind = 0x11 then { s with dl.vote := c } else if kind = 0x15 then { s with dl.conf := c } else { s with dl.done := c }

/-- The combined message. [log: DEDUCED 88] -/
def Combine.msg (c : Combine) (kind : Nat) : TreeMsg :=
  { kind := kind, flags := if kind = 0x11 then c.worst else if kind = 0x15 then c.flags else 0, epoch := c.epoch,
    t := if kind = 0x15 then c.round else 0, count1 := c.count1, count2 := c.count2 }

/-- One message of a child combined (R461). -/
def Combine.take (c : Combine) (f : Nat) (m : TreeMsg) : Combine :=
  { c with from_ := c.from_ ++ [f], worst := max c.worst (m.flags % 16), flags := c.flags ||| (m.flags % 4),
           count1 := c.count1 + m.count1, count2 := c.count2 + m.count2 }

/-- Whether a message is for the operation being combined. -/
def Combine.isFor (c : Combine) (kind : Nat) (m : TreeMsg) : Bool :=
  c.epoch == m.epoch && (kind != 0x15 || c.round == m.t % 65536)

/-- The combined message leaves once the local result and every child's message are there. [log: DEDUCED 88] -/
def Dev.combTry (s : Dev) (kind : Nat) : Dev :=
  let c := s.comb kind
  if c.active ∧ c.local_ ∧ (s.treeKids.all fun k => c.from_.contains k.2) then
    (s.setComb kind { c with active := false }).sendUp (c.msg kind)
  else s

/-- The marker timeout (R442). -/
def Dev.markerTime (s : Dev) : Nat := tUs * 2 ^ s.fget Fld.DL_MARK_CFG.EXP 0

/-- An operation starts here: its combining begins, with the messages of children that came before it (R461, R462).
[log: DEDUCED 87] -/
def Dev.combStart (s : Dev) (kind epoch round : Nat) : Dev :=
  let c0 : Combine := { active := true, epoch := epoch, round := round, deadline := s.now + s.markerTime }
  let c := s.dl.early.foldl (fun c x => if x.2.kind = kind ∧ c.isFor kind x.2 then c.take x.1 x.2 else c) c0
  { s.setComb kind c with dl.early := s.dl.early.filter fun x => x.2.kind != kind }

/-- An early message of a child is held: its operation is still to start at this switch. [log: DEDUCED 87] -/
def Dev.isEarly (s : Dev) (kind : Nat) (m : TreeMsg) : Bool :=
  if kind = 0x15 then
    (s.fget Fld.DL_DEAL_STAT.STATE 0 == 1 && s.dl.prepEpoch == some m.epoch) ||
      (decide (2 ≤ s.fget Fld.DL_DEAL_STAT.STATE 0) && s.dl.conf.epoch == m.epoch && decide (s.dl.conf.round < m.t % 65536))
  else kind == 0x18 && s.dl.cutId != some m.epoch

/-- An up message arrives at port 52 (R461, R462): combined, held, or given to this switch's dealer when no child sent it; a message
that is late is discarded and counted. [log: DEDUCED 87] -/
def Dev.upMsg (s : Dev) (src : TreeSrc) (kind : Nat) (m : TreeMsg) : Dev :=
  match src with
  | .fsid f =>
    if s.treeKids.any fun k => k.2 == f then
      let c := s.comb kind
      if c.active ∧ c.isFor kind m ∧ ¬ c.from_.contains f then (s.setComb kind (c.take f m)).combTry kind
      else if s.isEarly kind m ∧ ¬ (s.dl.early.any fun x => x.1 == f && x.2 == m) then { s with dl.early := s.dl.early ++ [(f, m)] }
      else s.count .DL_TREE_DROP_CNT 0 1
    else s.dealerHears { m with kind := kind }
  | _ => s.count .DL_TREE_DROP_CNT 0 1

/-- VOTE (R461): a VOTE of a child. -/
def vote (m : TreeMsg) (src : TreeSrc) (s : Dev) : Dev := s.upMsg src 0x11 { m with kind := 0x11 }
def execVote (m : TreeMsg) (src : TreeSrc) (s : State) : Host.Outcome State Fault Refusal := s.act (vote m src)

/-- CONFIRM (R461): a CONFIRM of a child. -/
def confirm (src : TreeSrc) (m : TreeMsg) (s : Dev) : Dev := s.upMsg src 0x15 { m with kind := 0x15 }
def execConfirm (src : TreeSrc) (m : TreeMsg) (s : State) : Host.Outcome State Fault Refusal := s.act (confirm src m)

/-- CUT_DONE (R449, R461): a CUT_DONE of a child, or of the root for a cut this switch started. -/
def cutDone (src : TreeSrc) (m : TreeMsg) (s : Dev) : Dev := s.upMsg src 0x18 { m with kind := 0x18 }
def execCutDone (src : TreeSrc) (m : TreeMsg) (s : State) : Host.Outcome State Fault Refusal := s.act (cutDone src m)

/-- TREE_CHILD_TIMEOUT (R462): children that lack at the marker timeout are left out, marked in MISS, and reported.
[log: DEDUCED 88] -/
def treeChildTimeout (kind : Nat) (s : Dev) : Dev :=
  let c := s.comb kind
  let miss := s.treeKids.filter fun k => !c.from_.contains k.2
  if ¬ (kind = 0x11 ∨ kind = 0x15 ∨ kind = 0x18) ∨ ¬ c.active ∨ s.now < c.deadline ∨ miss.isEmpty then s
  else
    let bits := miss.foldl (fun m k => setBit m k.1 true) (s.fget Fld.DL_TREE_STAT.MISS 0)
    let c1 := { c with from_ := c.from_ ++ miss.map (·.2), flags := c.flags ||| (if kind = 0x15 then 2 else 0) }
    (((s.fset Fld.DL_TREE_STAT.MISS 0 bits).setComb kind c1).raise evControl).combTry kind

def execTreeChildTimeout (kind : Nat) (s : State) : Host.Outcome State Fault Refusal := s.act (treeChildTimeout kind)

/-! Markers (R451) -/

/-- The ACTIVE fabric ports. -/
def Dev.activePorts (s : Dev) : List Nat := extPorts.filter s.blActive

/-- A marker into the egress queue of a port, behind the packets queued there (R37). [log: DEDUCED 102] -/
def Dev.markerSend (s : Dev) (p sub info : Nat) : Dev :=
  (s.enter { port := 52, typ := .marker, oc := 7, cc := 7, par := s.ap, content := .marker sub info, nfl := 1, arrived := 1,
             own := some .management, fresh := [s.cycle], egr := p, remote := true }).enqueue s.fwd.nextPid

/-- The parity of the old half during a transition. -/
def Dev.oldPar (s : Dev) : Nat := (s.ap + 1) % 2

/-- The present round's DRAIN marker, or one of a later round, has arrived on a port. [log: DEDUCED 91] -/
def Dev.drainHas (s : Dev) (p : Nat) : Bool :=
  match tfind s.dl.drainHeard p with
  | some info => info / 65536 % 2 == s.oldPar && decide (s.fget Fld.DL_DRAIN_STAT.ROUND 0 ≤ info % 65536)
  | none => false

/-- The ACTIVE ports on which the round's marker has not arrived. -/
def Dev.drainMissing (s : Dev) : List Nat := s.activePorts.filter fun p => !s.drainHas p

/-- A packet on its way to an egress port: queued for it, waiting for its reservations, or before its lookup. -/
def Dev.boundFor (s : Dev) (p : Nat) (q : Pkt) : Bool :=
  match q.stage with
  | .queued | .reserve => q.egr == p
  | .decoded => s.wouldGo q == some p
  | _ => false

/-- The two conditions for the round's marker on a port (R440). [log: DEDUCED 91] -/
def Dev.drainReady (s : Dev) (p : Nat) : Bool :=
  let old := s.oldPar
  !(s.fwd.pkts.any fun e => e.2.par == old && e.2.typ != .marker && s.boundFor p e.2) &&
    s.drainMissing.all fun q => turnForbidden (s.turn old) (s.turnClass old q) (s.turnClass old p)

/-- The round's markers leave on every port whose conditions hold. [log: DEDUCED 91] -/
def Dev.postDrain (s : Dev) : Dev :=
  if s.fget Fld.DL_DEAL_STAT.STATE 0 < 2 then s
  else each s.activePorts s fun s p =>
    if s.dl.drainPosted.testBit p ∨ ¬ s.drainReady p then s
    else ({ s with dl.drainPosted := setBit s.dl.drainPosted p true }).markerSend p 1 (s.oldPar * 65536 + s.fget Fld.DL_DRAIN_STAT.ROUND 0)

/-- A drain round starts (R438, R440). [log: DEDUCED 91] -/
def Dev.startDrain (s : Dev) (round : Nat) : Dev :=
  let s1 := s.fsets 0 [(Fld.DL_DEAL_STAT.STATE, 2), (Fld.DL_DRAIN_STAT.ROUND, round), (Fld.DL_DRAIN_STAT.DONE, 0),
    (Fld.DL_DRAIN_STAT.DISTURBED, b2n s.dl.disturbedNext)]
  let s2 := { s1 with dl.drainDue := s.now + s.markerTime, dl.drainPosted := 0, dl.drainSent := 0, dl.disturbedNext := false, dl.markerTo := false }
  ((s2.combStart 0x15 (s.fget Fld.DL_DEAL_EPOCH.EPOCH 0) round).postDrain).combTry 0x15

/-! Deals -/

/-- An ACTIVE port admitted to a trunk of the half before, which is its member in the half now in force too: the trunk keeps its
reference and the port stays admitted (R332). -/
def Dev.staysIn (s : Dev) (t n : Nat) : Bool :=
  let named := fun p => trunkValid (s.trunkWord p t) && (trunkMembers (s.trunkWord p t)).any fun m => m.2 == n
  s.memberUp n && (tfind s.bl.trunkRef t).isSome && named s.ap && named (1 - s.ap)

/-- Unsuspended next hops and the trunks of the new half: references and substitutes from the links ACTIVE now (R357, R332, R333).
[log: DEDUCED 93] -/
def Dev.retrunk (s : Dev) : Dev :=
  let kept := s.activePorts.filter fun n => (List.range 64).any fun t => s.staysIn t n
  let news := s.activePorts.filter fun n => !kept.contains n
  let refs := s.bl.trunkRef.filter fun e => s.activePorts.any fun n => s.staysIn e.1 n
  let s1 := { s with rt.suspPorts := 0, rt.suspTrunks := 0, bl.bktSub := [], bl.trunkRef := refs, bl.joinDue := [],
                     rt.hopsAt := none, bl.trunkOut := news.foldl (fun m n => setBit m n true) 0 }
  let s2 := each (s1.memberOrder news) s1 fun s' n => s'.trunkJoin n (s.bl.trunkOut.testBit n)
  each (extPorts.filter fun n => s2.isFabric n && !s2.blActive n) s2 fun s n => s.trunkLeave n

/-- One entry of the scheduling list (R728, R126): the working copy takes the word, the shadow too unless it is dirty; a shadow made
dirty since a commit write that is still to take effect was not, and takes the word as its value for that commit (R33, R124). Of a gate
list the shadow takes it here; the arming of the port follows. [log: DEDUCED 92] -/
def Dev.dealEntryWrite (s : Dev) (r : Reg) (inst byte v : Nat) : Dev :=
  let word := fun old => fselLimit r old (storedWord (regInfo r) old byte v)
  let late := fun (w : Reg × Nat × Nat × Bool) => w.1 == r && w.2.1 == inst && !w.2.2.2
  let s1 := if s.sch.dirty.contains (regKey r inst) then
      { s with sch.wrOld := s.sch.wrOld.map fun w => if late w then (w.1, w.2.1, word w.2.2.1, w.2.2.2) else w }
    else s.rset r inst (word (s.rget r inst))
  match shadowPairs.find? fun p => p.1 == r with
  | some p => s1.rset p.2 inst (word (s1.rget p.2 inst))
  | none => s1

/-- A register and word of the scheduling list, with its value. -/
abbrev ListWord : Type := Reg × Nat × Nat × Nat

/-- The ports whose gate lists the entries of a scheduling list arm, each entry seen where it stands in the list (R154, R159). -/
def Dev.armedBy (s : Dev) : List ListWord → Nat
  | [] => 0
  | e :: t =>
    let v := storedWord (regInfo e.1) (s.rget e.1 e.2.1) e.2.2.1 e.2.2.2
    let rest := (if gateShadow e.1 then s.rset e.1 e.2.1 v else s).armedBy t
    match gatePortOf e.1 e.2.1 with
    | some n => if s.armsGate e.1 e.2.1 v then setBit rest n true else rest
    | none => rest

/-- The scheduling list put in force (R126, R127, R154, R159): entries in order, then the gate lists so written armed.
[log: DEDUCED 92] -/
def Dev.dealList (s : Dev) (par : Nat) : Dev :=
  let es := (List.range (s.dealCount par)).filterMap fun i =>
    let e := s.dealEntry par i
    (regAt (e.1 / 2 ^ 24) (e.1 % 2 ^ 24)).map fun a => (a.1, a.2.1, a.2.2, e.2)
  let s1 := each es s fun s e => s.dealEntryWrite e.1 e.2.1 e.2.2.1 e.2.2.2
  let arms := s.armedBy es
  let kept := es.filter fun e => gateShadow e.1 && s.sch.dirty.contains (regKey e.1 e.2.1)
  let s2 := each kept s1 fun s e => s.rset e.1 e.2.1 (storedWord (regInfo e.1) (s.rget e.1 e.2.1) e.2.2.1 e.2.2.2)
  let s3 := each (es.filterMap fun e => if e.1 = .SCH_PORT_S then some e.2.1 else none) s2 fun s n => s.copyPort n
  let s4 := each (extPorts.filter fun n => arms.testBit n) s3 fun s n => s.armGate n s.ftime
  let s5 := each kept s4 fun t e => t.rset e.1 e.2.1 (s1.rget e.1 e.2.1)
  each (List.range 57) s5 Dev.arbAfterWrite

/-- The fabric tree of a half's deal parameters put in force (R458). -/
def Dev.installTree (s : Dev) (par : Nat) : Dev :=
  let t := s.dealWord par 0x10
  let s1 := s.fsets 0 [(Fld.DL_TREE.ROOT, bitsOf t 31 31), (Fld.DL_TREE.PARENT, bitsOf t 10 0)]
  let s2 := each (List.range 16) s1 fun s i =>
    let w := s.dealWord par (0x14 + 4 * (i / 2)) / 2 ^ (16 * (i % 2))
    s.fsets i [(Fld.DL_TREE_CHILD.VALID, bitsOf w 15 15), (Fld.DL_TREE_CHILD.FSID, bitsOf w 10 0)]
  ({ s2 with dl.treeIn := true }).timeElect false

/-- The switch joins under a deal (R338, R458, R560). -/
def Dev.join (s : Dev) (par e : Nat) : Dev :=
  let f := s.dealFsid par
  let s1 := s.fsets 0 [(Fld.RT_ID.JOINED, 1), (Fld.RT_ID.FSID, f)]
  let s2 := each (List.range 48) s1 fun s v => s.fsets v [(Fld.SF_DV_ID.JOINED, 1), (Fld.SF_DV_ID.FSID, f)]
  let s3 := if s.dealTree par then s2.installTree par else s2
  let s4 := if s.svc.state = stStandby then s3.setDevState stActive else s3
  { s4 with dl.joinEpoch := some e }

/-- The streams from and to some switches restart (R416): sequence numbers, acknowledgements and ordered mode.
[log: DEDUCED 229] -/
def Dev.restartStreams (s : Dev) (who : Nat → Bool) : Dev :=
  let s1 := { s with dl.outs := s.dl.outs.filter fun e => !who (e.1 / 8), dl.ins := s.dl.ins.filter fun e => !who (e.1 / 8),
                     dl.fences := s.dl.fences.filter fun x => !(x.f == s.fsid && who x.d) }
  let s2 := each ((s1.instances .DL_ACK_IN).filter fun i => who (i / 8)) s1 fun s i => s.rclear .DL_ACK_IN i
  each ((s2.instances .DL_FENCE_IN).filter fun i => who (i / 8)) s2 fun s i => s.rclear .DL_FENCE_IN i

/-- The streams that restart at an apply instant (R416): all of a switch that joins; elsewhere those of the switches to which the new
half has a route and the old one none. [log: DEDUCED 229] -/
def Dev.streamsAtApply (s : Dev) (old new : Nat) : Dev :=
  if s.dealFsv new ∧ ¬ s.joined then s.restartStreams fun _ => true
  else s.restartStreams fun f => f != s.fsid && (s.route new f).1 && !(s.route old f).1

/-- The deal parameters act (R728). -/
def Dev.dealParams (s : Dev) (par e : Nat) : Dev :=
  let s1 := if s.dealFsv par && !s.joined then s.join par e else s
  let s2 := if s.dealDlc par then
      (s1.rset .DL_CFG 0 (storedWord (regInfo .DL_CFG) (s1.rget .DL_CFG 0) 0 (s.dealWord par 8))).rset .DL_FENCE_CFG 0
        (storedWord (regInfo .DL_FENCE_CFG) (s1.rget .DL_FENCE_CFG 0) 0 (s.dealWord par 0xC))
    else s1
  s2.dealList par

/-- A device port that a deal takes from its vDSP: that vDSP's controls no longer act on it, and a containment of it ends.
[log: DEDUCED 226] -/
def Dev.freePort (s : Dev) (p : Nat) (b : Binding) : Dev :=
  let s1 := s.modPport p fun q => { q with aspm := 0, target := 6, disabled := false, hotReset := false,
                                           slotOff := q.slotOff && (s.slotOf p).isSome }
  let s2 := { s1 with fwd.contained := s1.fwd.contained &&& (2 ^ 48 - 1 - 2 ^ p) }.linkFree p
  if s2.vsExists b.vs then s2
  else { s2 with pci.told := tdel s2.pci.told (fnKey b.vs b.vdsp), pci.vd := tdel s2.pci.vd (fnKey b.vs b.vdsp) }

/-- The bindings of this switch's own ports that differ between the halves: the port, its old binding and its new one. -/
def Dev.movedPorts (s : Dev) (old new : Nat) : List (Nat × Option Binding × Option Binding) :=
  ((List.range 48).map fun p => (p, s.bindAt old p, s.bindAt new p)).filter fun x =>
    x.2.1.map (fun b => (b.vs, b.vdsp)) != x.2.2.map fun b => (b.vs, b.vdsp)

/-- The link controls of a vDSP act on its new device port (R185), whose switch is told of its other controls.
[log: DEDUCED 94] -/
def Dev.bindControls (s : Dev) (vs n : Nat) : Dev :=
  let f := s.pfn vs n
  let s1 := if f.linkCtl.testBit 4 then vdspLinkDisable vs n true s else s
  let s2 := if f.linkCtl % 4 = 0 then s1 else vdspAspmControl vs n (f.linkCtl % 4) s1
  (vdspTargetLinkSpeed vs n (f.linkCtl2 % 16) s2).tellControls vs n

/-- A vDSP whose binding a deal changes (R207): Data Link Layer State Changed and Surprise Down where the link of the port it loses was
active; Presence Detect State follows the new binding, for a port of another switch by that switch's first notice.
[log: DEDUCED 44, DEDUCED 94] -/
def Dev.rebind (s : Dev) (old new vs n : Nat) : Dev :=
  let a := (s.bindOf old vs n).map (·.dgpa)
  let b := (s.bindOf new vs n).map (·.dgpa)
  if a = b then s
  else
    let was : Bool := match a with
      | some g => if gpaFsid g == s.fsid then (s.pport (gpaPort g)).up else (s.pfn vs n).linkStat.testBit 13
      | none => false
    let s1 := (s.modPfn vs n fun f => { f with linkStat := 0 }).modVd vs n fun v => { v with far := {}, pccSet := false }
    let s2 := if was then (s1.hotplug vs n 8).aer vs n .surpriseDown {} else s1
    match s2.boundPort vs n, s2.boundFar vs n with
    | some p, _ => (s2.portSays vs n (s2.linkWord p) (s2.portNotice p {})).bindControls vs n
    | none, some _ => s2.bindControls vs n
    | none, none => s2.syncPresence vs n

/-- R207 at every vDSP of the virtual switches here that the halves bind differently; the ports of this switch that change hands are free
of their old vDSP's controls, and a switch elsewhere is told of those that its vDSPs gain, and of the bus map where it holds a binding
for the first time (R367). [log: DEDUCED 44, DEDUCED 94, DEDUCED 226] -/
def Dev.rebindAll (s : Dev) (old new : Nat) : Dev :=
  let l := ((s.bindings old ++ s.bindings new).map fun b => (b.vs, b.vdsp)).eraseDups
  let moved := s.movedPorts old new
  let s1 := each moved s fun s x => (match x.2.1 with
    | some b => s.freePort x.1 b
    | none => s)
  let s2 := each (l.filter fun k => s.vdspExists k.1 k.2) s1 fun s k => s.rebind old new k.1 k.2
  let s3 := each moved s2 fun s x => (match x.2.2 with
    | some b => if s.vsExists b.vs then s else s.tellHost x.1 {}
    | none => s)
  let gone := s3.rt.busWait.flatMap fun w => (w.left.filter fun f => !(s3.farSwitches new w.vs).contains f).map fun f => (w.vs, f)
  let s4 := each gone s3 fun s x => s.busAcked x.1 x.2
  each ((List.range 48).filter s4.vsExists) s4 fun s v =>
    each ((s.farSwitches new v).filter fun f => !(s.farSwitches old v).contains f) s fun s f =>
      s.emit (.busMap f v ((List.range 256).map (s.busCode v)))

/-- The apply instant of the prepared deal (R434, R437, R438, R357, R362, R352, R416). [log: DEDUCED 93] -/
def Dev.applyDeal (s : Dev) (late : Bool) : Dev :=
  match s.dl.prepEpoch with
  | none => s
  | some e =>
    let par := e % 2
    let s1 := s.fsets 0 [(Fld.DL_DEAL_EPOCH.EPOCH, e), (Fld.DL_DEAL_STAT.AP, par), (Fld.DL_DEAL_STAT.STATE, 2)]
    let s2 := if late then (s1.fset Fld.DL_DEAL_STAT.LATE 0 1).count .DL_LATE_CNT 0 1 else s1
    let s3 := each (List.range 48) { s2 with dl.prepEpoch := none, dl.goT := none, dl.goLate := none } fun s v =>
      s.fset Fld.SF_DV_EPOCH.EPOCH v e
    let s4 := (((s3.streamsAtApply ((par + 1) % 2) par).retrunk.pfFlushAll.dealParams par e).rebindAll ((par + 1) % 2) par).releaseHolds
    let s5 := each s4.activePorts s4 fun s p => s.markerSend p 3 (e % 2 ^ 24)
    (s5.startDrain 1).sendClassChecks

/-- The answer to a PREPARE (R436). [log: DEDUCED 86] -/
def Dev.voteNow (s : Dev) (e code : Nat) : Dev :=
  let s1 := s.combStart 0x11 e 0
  (s1.setComb 0x11 { s1.dl.vote with local_ := true, worst := max s1.dl.vote.worst code, count1 := s1.dl.vote.count1 + 1 }).combTry 0x11

/-- The first rejection code that applies to a PREPARE; 0 for none (R436, R727). -/
def Dev.prepCode (s : Dev) (m : TreeMsg) (termOk : Bool) : Nat :=
  let again := s.fget Fld.DL_DEAL_STAT.STATE 0 = 1 ∧ s.dl.prepEpoch = some m.epoch ∧ s.dl.prepTerm = m.term
  if s.joined ∧ m.epoch ≠ (s.fget Fld.DL_DEAL_EPOCH.EPOCH 0 + 1) % 2 ^ 32 then 1
  else if again then 0
  else if s.fget Fld.DL_DEAL_STAT.STATE 0 ≠ 0 then 2
  else if ¬ (s.fbit Fld.RT_STAGE_STAT.DONE 0 ∧ s.fget Fld.RT_STAGE_STAT.CODE 0 = 0 ∧ ¬ s.fbit Fld.RT_STAGE_STAT.STALE 0) then 3
  else if ¬ termOk then 4
  else if s.poolUnder s.grantMax s.shelfMax < 8192 then 5
  else 0

/-- The parities a switch that has not joined gives its halves for a deal: the staged half takes that of the epoch (R727).
[log: DEDUCED 89] -/
def Dev.parityFor (s : Dev) (e : Nat) : Dev :=
  if !s.joined && e % 2 == s.ap then
    { s.fset Fld.DL_DEAL_STAT.AP 0 ((s.ap + 1) % 2) with rt.half0 := s.rt.half1, rt.half1 := s.rt.half0 }
  else s

/-- PREPARE (R436). [log: DEDUCED 89, DEDUCED 205] -/
def prepare (src : TreeSrc) (m : TreeMsg) (s : Dev) : Dev :=
  s.downMsg src { m with kind := 0x10 } fun s ok =>
    let code := s.prepCode m ok
    if code ≠ 0 then (s.fset Fld.DL_DEAL_STAT.CODE 0 code).voteNow m.epoch code
    else if s.fget Fld.DL_DEAL_STAT.STATE 0 = 1 then s.voteNow m.epoch 0
    else
      let s1 := (s.parityFor m.epoch).fset Fld.DL_DEAL_STAT.STATE 0 1
      ({ s1 with dl.prepEpoch := some m.epoch, dl.prepTerm := m.term, dl.goT := none, dl.goLate := none }).voteNow m.epoch 0

def execPrepare (src : TreeSrc) (m : TreeMsg) (s : State) : Host.Outcome State Fault Refusal := s.act (prepare src m)

/-- A PREPARED switch whose epoch a message names. -/
def Dev.preparedFor (s : Dev) (e : Nat) : Bool := s.fget Fld.DL_DEAL_STAT.STATE 0 == 1 && s.dl.prepEpoch == some e

/-- GO (R437): the apply instant; one already past applies the deal late, in the next core cycle. [log: DEDUCED 90] -/
def goDeal (src : TreeSrc) (m : TreeMsg) (s : Dev) : Dev :=
  s.downMsg src { m with kind := 0x12 } fun s ok =>
    if ok && s.preparedFor m.epoch then
      { s.rset .DL_DEAL_T 0 m.t with dl.goT := some m.t, dl.goLate := if m.t ≤ s.ftime then some s.cycle else none }
    else s

def execGoDeal (src : TreeSrc) (m : TreeMsg) (s : State) : Host.Outcome State Fault Refusal := s.act (goDeal src m)

/-- DEAL_APPLY (R437, R438): the first core cycle at or after T, or the one after a GO that came late. [log: DEDUCED 90] -/
def dealApply (s : Dev) : Dev :=
  if s.fget Fld.DL_DEAL_STAT.STATE 0 = 1 ∧ s.dealDue then s.applyDeal s.dl.goLate.isSome else s

def execDealApply (s : State) : Host.Outcome State Fault Refusal := s.act dealApply

/-- CANCEL (R439): a PREPARED switch returns to IDLE. -/
def cancel (src : TreeSrc) (m : TreeMsg) (s : Dev) : Dev :=
  s.downMsg src { m with kind := 0x13 } fun s ok =>
    if ok && s.preparedFor m.epoch then { s.fset Fld.DL_DEAL_STAT.STATE 0 0 with dl.prepEpoch := none, dl.goT := none, dl.goLate := none } else s

def execCancel (src : TreeSrc) (m : TreeMsg) (s : State) : Host.Outcome State Fault Refusal := s.act (cancel src m)

/-- DRAIN_MESSAGE (R440): a round later than the present one begins. -/
def drainMessage (src : TreeSrc) (m : TreeMsg) (s : Dev) : Dev :=
  s.downMsg src { m with kind := 0x14 } fun s ok =>
    if ok && decide (2 ≤ s.fget Fld.DL_DEAL_STAT.STATE 0) && m.epoch == s.fget Fld.DL_DEAL_EPOCH.EPOCH 0 &&
       decide (s.fget Fld.DL_DRAIN_STAT.ROUND 0 < m.t % 65536) then s.startDrain (m.t % 65536)
    else s

def execDrainMessage (src : TreeSrc) (m : TreeMsg) (s : State) : Host.Outcome State Fault Refusal := s.act (drainMessage src m)

/-- Nothing of the old parity is held: no packet, retained or not, and none arriving (R440). -/
def Dev.oldGone (s : Dev) : Bool :=
  let old := s.oldPar
  !(s.fwd.pkts.any fun e => e.2.par == old && e.2.typ != .marker) &&
    !(s.bl.ports.any fun e => e.2.inbox.any fun x => x.env.ep == old)

/-- DRAIN_LOCAL_CONFIRM (R440, R441): local drain of the present round. -/
def drainLocalConfirm (s : Dev) : Dev :=
  if s.fget Fld.DL_DEAL_STAT.STATE 0 = 2 ∧ s.drainMissing.isEmpty ∧ s.oldGone then
    let s1 := (s.postDrain).fsets 0 [(Fld.DL_DEAL_STAT.STATE, 3), (Fld.DL_DRAIN_STAT.DONE, 1)]
    let fl := b2n (s.fbit Fld.DL_DRAIN_STAT.DISTURBED 0) + 2 * b2n s.dl.markerTo
    ({ s1 with dl.conf := { s1.dl.conf with local_ := true, flags := s1.dl.conf.flags ||| fl } }).combTry 0x15
  else s

def execDrainLocalConfirm (s : State) : Host.Outcome State Fault Refusal := s.act drainLocalConfirm

/-- The longest fabric timeout in force (R380). -/
def Dev.longestFto (s : Dev) : Nat := (List.range 49).foldl (fun m i => max m (s.fget Fld.XB_FTO.US i)) 0

/-- RELEASE (R443, R458): a DRAINED switch returns to IDLE; the audit is due one fabric timeout later; a new tree is in force. -/
def release (src : TreeSrc) (m : TreeMsg) (s : Dev) : Dev :=
  s.downMsg src { m with kind := 0x16 } fun s ok =>
    if ok && s.fget Fld.DL_DEAL_STAT.STATE 0 == 3 && m.epoch == s.fget Fld.DL_DEAL_EPOCH.EPOCH 0 then
      let old := s.oldPar
      let s1 := if s.dealTree s.ap then s.installTree s.ap else s
      let s2 := s1.fset Fld.DL_DEAL_STAT.STATE 0 0
      { s2 with rt.auditAt := some (s.now + s.longestFto * tUs, old), dl.joinEpoch := none,
                dl.drainHeard := s2.dl.drainHeard.filter fun e => e.2 / 65536 % 2 != old }
    else s

def execRelease (src : TreeSrc) (m : TreeMsg) (s : State) : Host.Outcome State Fault Refusal := s.act (release src m)

/-! Cuts -/

/-- The bytes of a cut record (R623). [log: DEDUCED 101] -/
abbrev cutBytes : Nat := 27488

/-- The ACTIVE ports on which the cut's marker has not arrived. -/
def Dev.cutMissing (s : Dev) : List Nat := s.activePorts.filter fun p => !s.dl.cutSeen.testBit p

/-- The header of the cut record (R450); `status` 1 complete, 2 timeout, 4 hatch. -/
def Dev.cutHeader (s : Dev) (status arb miss : Nat) : List Byte :=
  leBytes 8 s.dl.cutTime ++ leBytes 4 s.dl.cutEpoch ++ leBytes 2 (s.dl.cutId.getD 0) ++ leBytes 2 s.fsid ++ leBytes 1 status
    ++ leBytes 1 arb ++ leBytes 6 0 ++ leBytes 8 miss ++ (extPorts.flatMap fun n => leBytes 4 (min (2 ^ 32 - 1) (tget 0 s.dl.inflight n)))
    ++ List.replicate 32 0

/-- The latch of a cut (R448, R450): a cut in progress ends incomplete; header, counters and markers.
[log: DEDUCED 69, DEDUCED 100, DEDUCED 101, DEDUCED 221] -/
def Dev.cutLatch (s : Dev) (id : Nat) : Dev :=
  let s0 := if s.dl.cutActive then s.memWrite cutBase (s.cutHeader 0 0 0) else s
  let s1 := { s0 with dl.cutId := some id, dl.cutActive := true, dl.cutDue := s.now + s.markerTime, dl.cutTime := s.ftime,
                      dl.cutEpoch := s.fget Fld.DL_DEAL_EPOCH.EPOCH 0, dl.cutSeen := 0, dl.inflight := [] }
  let s2 := s1.fsets 0 [(Fld.DL_CUT_STAT.CUT_ID, id), (Fld.DL_CUT_STAT.DONE, 0)]
  let s2 := each (tkeys s2.eng.eng) s2 fun s e => s.cycSync e
  let s3 := s2.memWrite cutBase (s2.cutHeader 0 0 0 ++ s2.latchRecords 0 cutCounters)
  (each s3.activePorts s3 fun s p => s.markerSend p 2 id).combStart 0x18 id 0

/-- CUT (R448). [log: DEDUCED 100] -/
def cut (src : TreeSrc) (m : TreeMsg) (s : Dev) : Dev :=
  s.downMsg src { m with kind := 0x17 } fun s ok =>
    if ok && s.dl.cutId != some (m.epoch % 65536) then s.cutLatch (m.epoch % 65536) else s

def execCut (src : TreeSrc) (m : TreeMsg) (s : State) : Host.Outcome State Fault Refusal := s.act (cut src m)

/-- A cut's record ends, complete or not, and is reported (R449). [log: DEDUCED 100] -/
def Dev.cutFinish (s : Dev) (status arb miss : Nat) : Dev :=
  let good := status % 2 = 1
  let s1 := (s.memWrite cutBase (s.cutHeader status arb miss)).fset Fld.DL_CUT_STAT.DONE 0 (if good then 1 else 0)
  let c := s1.dl.done
  ({ s1 with dl.cutActive := false,
             dl.done := { c with local_ := true, count1 := c.count1 + (if good then 1 else 0), count2 := c.count2 + (if good then 0 else 1) } }).combTry 0x18

/-- CUT_RECORD_COMPLETE (R449): the marker has arrived on every ACTIVE ingress port. -/
def cutRecordComplete (s : Dev) : Dev :=
  if s.dl.cutActive ∧ s.cutMissing.isEmpty then s.cutFinish 1 0 0 else s

def execCutRecordComplete (s : State) : Host.Outcome State Fault Refusal := s.act cutRecordComplete

/-- The arbiter whose closed hatch holds a marker of this switch of the subtype (R442). -/
def Dev.hatchHolding (s : Dev) (sub : Nat) : Option Nat :=
  (s.fwd.pkts.find? fun e => (match e.2.content with
    | .marker x _ => x == sub
    | _ => false) && e.2.stage == .queued && s.hatchClosed (xbarOf e.2.egr)).map fun e => xbarOf e.2.egr

def portBits (l : List Nat) : Nat := l.foldl (fun m p => setBit m p true) 0

/-- MARKER_TIMEOUT (R442, R449), in the time the round or cut began with (R453). -/
def markerTimeout (isCut : Bool) (s : Dev) : Dev :=
  if isCut then
    let miss := s.cutMissing
    if ¬ s.dl.cutActive ∨ s.now < s.dl.cutDue ∨ miss.isEmpty then s
    else
      let h := s.hatchHolding 2
      let s1 := (s.fset Fld.DL_CUT_STAT.TIMEOUT 0 1).rset .DL_MISS 0 (portBits miss)
      let s2 := if h.isSome then s1.fsets 0 [(Fld.DL_CUT_STAT.HATCH, 1), (Fld.DL_CUT_STAT.ARB, h.getD 0)] else s1
      (s2.raise evControl).cutFinish (2 + 4 * b2n h.isSome) (h.getD 0) (portBits miss)
  else
    let miss := s.drainMissing
    if s.fget Fld.DL_DEAL_STAT.STATE 0 ≠ 2 ∨ s.dl.markerTo ∨ s.now < s.dl.drainDue ∨ miss.isEmpty then s
    else
      let h := s.hatchHolding 1
      let s1 := ({ s with dl.markerTo := true }.fset Fld.DL_DRAIN_STAT.TIMEOUT 0 1).rset .DL_MISS 0 (portBits miss)
      let s2 := if h.isSome then s1.fsets 0 [(Fld.DL_DRAIN_STAT.HATCH, 1), (Fld.DL_DRAIN_STAT.ARB, h.getD 0)] else s1
      s2.raise evControl

def execMarkerTimeout (isCut : Bool) (s : State) : Host.Outcome State Fault Refusal := s.act (markerTimeout isCut)

/-- A good marker flit acts (R437, R440, R448, R451). -/
def Dev.marker (s : Dev) (port sub info : Nat) : Dev :=
  match sub with
  | 1 => ({ s with dl.drainHeard := tins s.dl.drainHeard port (info % 2 ^ 17) }).postDrain
  | 2 =>
    let id := info % 65536
    let s1 := if s.dl.cutId = some id then s else s.cutLatch id
    { s1 with dl.cutSeen := setBit s1.dl.cutSeen port true }
  | 3 =>
    let mine : Bool := match s.dl.prepEpoch with
      | some e => s.fget Fld.DL_DEAL_STAT.STATE 0 == 1 && e % 2 ^ 24 == info && decide ((s.dl.goT.getD 0) ≤ s.sampled)
      | none => false
    if mine then s.applyDeal (match s.dl.goT with
      | some t => s.dl.goLate.isSome || decide (t + 4 ≤ s.sampled)
      | none => true) else s
  | _ => s.protoError port

/-- MARKER_RECEIVE (R451). [log: DESIGN CHOICE 70] -/
def markerReceive (port sub info : Nat) (s : Dev) : Dev := if s.blActive port then s.marker port sub info else s
def execMarkerReceive (port sub info : Nat) (s : State) : Host.Outcome State Fault Refusal := s.act (markerReceive port sub info)

/-! The fabric reset -/

/-- A half without routes, windows, bindings, trunks, hands and shelves (R697). [log: DEDUCED 103] -/
def clearHalf (t : Tbl Word32) : Tbl Word32 :=
  t.filterMap fun e =>
    let a := e.1
    let drop : Bool := (decide (offShelf ≤ a) && decide (a < offShelf + 4 * 53)) || (decide (offHand ≤ a) && decide (a < offHand + 8192))
    let top : Bool := (decide (offRoute ≤ a) && decide (a < offRoute + 16384) && a % 8 == 4)
      || (decide (offTrunk ≤ a) && decide (a < offTrunk + 768) && a % 32 == 28)
    if drop then none
    else if top then (let w := e.2.toNat % 2 ^ 31
                      if w = 0 then none else some (a, BitVec.ofNat 32 w))
    else some e

/-- The windows and bindings of a half without VALID. -/
def Dev.clearValid (s : Dev) (p : Nat) : Dev :=
  let s1 := each (s.windowIdx p) s fun s i => s.setHword p (offWin + 32 * i + 8) (setBit (s.hword p (offWin + 32 * i + 8)) 12 false)
  each (s1.bindIdx p) s1 fun s i => s.setHword p (offBind + 16 * i + 12) (s.hword p (offBind + 16 * i + 12) % 2 ^ 31)

/-- The packets and requests of the fabric end (R698). [log: DEDUCED 103] -/
def Dev.resetTraffic (s : Dev) : Dev :=
  let s1 := each s.xing.reqs s fun s r => (s.failReq r).endReq r
  let mine := fun (s : Dev) (p : Pkt) => gpaFsid (s.sourceGpa p) == s.fsid
  let s2 := each ((s1.fwd.pkts.filter fun e => e.2.kept && e.2.typ == .posted && mine s1 e.2).map (·.2)) s1 fun s p => s.perrReport p 3
  let env := s2.fwd.pkts.filter fun e => e.2.remote || e.2.arrEnv.isSome
  each env s2 fun s e => (if mine s e.2 then s.dropLog e.2 3 else s.count .XB_DROP_CNT 2 1).delPkt e.1

/-- What the end of every binding, `mine` of this switch's own ports, means to the vDSPs and the device ports (R206, R367): no presence, no controls, no copy of a bus map to
wait for. [log: DEDUCED 226] -/
def Dev.unbound (s : Dev) (old mine : List Binding) : Dev :=
  let s1 := each mine s fun s b => s.freePort (gpaPort b.dgpa) b
  let s2 := each (old.filter fun b => s1.vdspExists b.vs b.vdsp) s1 fun s b => s.syncPresence b.vs b.vdsp
  each (s2.rt.busWait.flatMap fun w => w.left.map fun f => (w.vs, f)) s2 fun s x => s.busAcked x.1 x.2

/-- The fabric reset (R697, R698). [log: DEDUCED 103] -/
def Dev.fabricReset (s : Dev) : Dev :=
  let old := s.bindings s.ap
  let mine := old.filter fun b => gpaFsid b.dgpa == s.fsid
  let s1 := s.resetTraffic
  let s2 := (s1.rclear .RT_ID 0).fsets 0 [(Fld.DL_DEAL_EPOCH.EPOCH, 0), (Fld.DL_DEAL_STAT.AP, 0), (Fld.DL_DEAL_STAT.STATE, 0)]
  let s3 := each (List.range 48) s2 fun s v => (s.fsets v [(Fld.SF_DV_ID.JOINED, 0), (Fld.SF_DV_ID.FSID, 0)]).rclear .SF_DV_EPOCH v
  let s4 := (s3.clearValid 0).clearValid 1
  let s5 := { s4 with rt.half0 := clearHalf s4.rt.half0, rt.half1 := clearHalf s4.rt.half1, rt.owed := [], rt.holds := s4.rt.holds,
                      rt.auditAt := none, xing.quar := s4.xing.quar, xing.mwOut := s4.xing.mwOut.filter (fun o => match o.use with
                        | .core _ => true
                        | _ => false),
                      dl.outs := [], dl.ins := [], dl.fences := [], dl.treeIn := false, dl.prepEpoch := none, dl.goT := none, dl.goLate := none,
                      dl.joinEpoch := none, dl.resetT := none, dl.resetLate := false, dl.resetCycle := some s.cycle, dl.early := [], dl.vote := {}, dl.conf := {}, dl.drainHeard := [],
                      dl.drainPosted := 0, dl.drainSent := 0, dl.disturbedNext := false }
  let s6 := (each (List.range 16) (s5.rclear .DL_TREE 0) fun s i => s.rclear .DL_TREE_CHILD i)
  let s7 := each (s6.instances .DL_ACK_IN) s6 fun s i => s.rclear .DL_ACK_IN i
  let s8 := each (s7.instances .DL_FENCE_IN) s7 fun s i => s.rclear .DL_FENCE_IN i
  let s9 := each (s8.instances .RT_HAND_HOLD) s8 fun s i => s.rclear .RT_HAND_HOLD i
  let s10 := each (List.range 53) s9 fun s i => s.fset Fld.RT_SHELF_USE.RESV i 0
  let s11 := each (tkeys s10.coll) s10 fun s g => if (s.grp g).inst.isSome then s.collFail g 0x44 else s
  let s12 := (s11.unbound old mine).retrunk.timeElect false
  if s12.svc.state = stActive ∨ s12.svc.state = stDraining then s12.setDevState stStandby else s12

/-- RESET_MESSAGE (R696). [log: DEDUCED 90] -/
def resetMessage (src : TreeSrc) (m : TreeMsg) (s : Dev) : Dev :=
  s.downMsg src { m with kind := 0x19 } fun s ok =>
    if ok then { s with dl.resetT := some m.t, dl.resetLate := decide (m.t ≤ s.sampled) } else s

def execResetMessage (src : TreeSrc) (m : TreeMsg) (s : State) : Host.Outcome State Fault Refusal := s.act (resetMessage src m)

/-- FABRIC_RESET (R696): the first core cycle at or after T. [log: DEDUCED 90] -/
def fabricResetAt (s : Dev) : Dev :=
  match s.dl.resetT with
  | some t => if t ≤ s.sampled ∧ ¬ s.dl.resetLate then s.fabricReset else s
  | none => s

def execFabricReset (s : State) : Host.Outcome State Fault Refusal := s.act fabricResetAt

/-! Tree messages in directed packets (R346) -/

/-- A down message acts by its KIND. -/
def Dev.treeAct (s : Dev) (src : TreeSrc) (m : TreeMsg) : Dev :=
  if m.kind = 0x10 then prepare src m s
  else if m.kind = 0x12 then goDeal src m s
  else if m.kind = 0x13 then cancel src m s
  else if m.kind = 0x14 then drainMessage src m s
  else if m.kind = 0x16 then release src m s
  else if m.kind = 0x17 then cut src m s
  else if m.kind = 0x19 then resetMessage src m s
  else s

/-- DIRECTED_DOWN_TREE (R346): the path is kept for the up message the down message calls for. -/
def directedDownTree (port : Nat) (b : List Byte) (s : Dev) : Dev :=
  s.directedEnd port 0x0A b fun s c =>
    ({ s with dl.treeReq := if s.joined then s.dl.treeReq else c }).treeAct .directed (treeOf (c.drop 40))

def execDirectedDownTree (port : Nat) (b : List Byte) (s : State) : Host.Outcome State Fault Refusal := s.act (directedDownTree port b)

/-! The dealer -/

/-- A switch acts as dealer while dealer_role is 1 or 2 (R599). -/
def Dev.mayDeal (s : Dev) : Bool := s.onum 0x7100 1 0 == 1 || s.onum 0x7100 1 0 == 2

/-- The base of the journal: region 5 (R30). [log: PRESUMED 96] -/
abbrev journalBase : Nat := 0xE0000000

/-- A record into the journal and to the other dealer (R447, R600). [log: PRESUMED 96, DEDUCED 98] -/
def Dev.journal (s : Dev) (kind t epoch round : Nat) : Dev :=
  let n := (s.dl.dealer.jn + 1) % 2 ^ 32
  let b := leBytes 1 kind ++ List.replicate 11 0 ++ leBytes 2 round ++ leBytes 2 s.dl.dealer.term ++ leBytes 4 epoch ++ leBytes 4 n ++ leBytes 8 t
  let s1 := { s.memWrite (journalBase + 32 * (n % 65536)) b with dl.dealer.jn := n }
  let peer := s.onum 0x7100 3 0xFFFF
  if peer = 0xFFFF then s1.notice 1 0xFFFF s.ftime b else s1.ctlPacket (peer * 64 + 52) b

/-- The last journal record. [log: PRESUMED 96] -/
def Dev.lastRecord (s : Dev) : List Byte := s.memRead (journalBase + 32 * (s.dl.dealer.jn % 65536)) 32

/-- DEALER_HEARTBEAT (R447). [log: DESIGN CHOICE 97, DEDUCED 205] -/
def dealerHeartbeat (s : Dev) : Dev :=
  if s.mayDeal && s.dl.dealer.active && decide (s.dl.dealer.beatAt ≤ s.now) then
    let (x, s1) := s.freeNat
    let s2 := s1.journal 6 (x % 2 ^ 64) (s.fget Fld.DL_DEAL_EPOCH.EPOCH 0) (s.fget Fld.DL_DRAIN_STAT.ROUND 0)
    { s2 with dl.dealer.beatAt := s.now + s.onum 0x7100 4 100 * tUs }
  else s

def execDealerHeartbeat (s : State) : Host.Outcome State Fault Refusal := s.act dealerHeartbeat

/-- A down message of this switch's dealer: to port 52 of the root's switch, this one where it acts as the root.
[log: DESIGN CHOICE 95] -/
def Dev.dealDown (s : Dev) (m : TreeMsg) : Dev :=
  if s.treeRoot then s.treeAct (if s.joined then .fsid s.fsid else .directed) m
  else let (x, s1) := s.freeNat
       s1.treeTo (x % 2048) m

/-- The step a new dealer resumes with: its journal kind, its round and its message, none for staging (R447).
[log: DEDUCED 99] -/
def resumeStep (kind term epoch round t : Nat) : Nat × Nat × Option TreeMsg :=
  let m : TreeMsg := { term := term, epoch := epoch, t := t }
  if kind = 2 then (2, 0, some { m with kind := 0x10, t := 0 })
  else if kind = 3 then (3, 0, some { m with kind := 0x12 })
  else if kind = 4 then (4, (round + 1) % 65536, some { m with kind := 0x14, t := (round + 1) % 65536 })
  else if kind = 5 then (5, 0, some { m with kind := 0x16, t := 0 })
  else if kind = 7 then (7, 0, some { m with kind := 0x13, t := 0 })
  else (1, 0, none)

/-- DEALER_TAKEOVER (R447, R599): the standby that misses three heartbeats becomes active and resumes.
[log: DEDUCED 99, DEDUCED 205] -/
def dealerTakeover (s : Dev) : Dev :=
  if s.onum 0x7100 1 0 == 2 && !s.dl.dealer.active then
    let b := s.lastRecord
    let term := (s.dl.dealer.term + 1) % 65536
    let s1 := { s with dl.dealer.active := true, dl.dealer.term := term, dl.dealer.beatAt := s.now }
    let e := leNat ((b.drop 16).take 4)
    let t := leNat ((b.drop 24).take 8)
    let r := resumeStep (byteN b 0) term e (leNat ((b.drop 12).take 2)) t
    let s2 := s1.journal r.1 t e r.2.1
    match r.2.2 with
    | some m => s2.dealDown m
    | none => s2
  else s

def execDealerTakeover (s : State) : Host.Outcome State Fault Refusal := s.act dealerTakeover

end Sys2Proof.Machine
end

