-- ==== Sys2Proof/Machine/Dict.lean ====
section
/-! DEFINITION. The object dictionary (R553 to R604): types and encodings, the index with each entry's descriptor, what every entry
reads as. -/
namespace Sys2Proof.Machine

/-! Types and descriptors (R15, R554) -/

inductive ObjTyp where
  | bool | u8 | u16 | u32 | u64 | i32 | i64 | f32 | time | str | octets
  deriving DecidableEq, Repr

inductive ObjAcc where
  | const | ro | rw | rws | wo | cmd
  deriving DecidableEq, Repr

/-- The type codes of R554. -/
def ObjTyp.code : ObjTyp → Nat
  | .bool => 1 | .u8 => 2 | .u16 => 3 | .u32 => 4 | .u64 => 5 | .i32 => 6 | .i64 => 7 | .f32 => 8 | .time => 9 | .str => 10 | .octets => 11

/-- The bytes of a number of a type; none for STR and OCTETS. -/
def ObjTyp.size : ObjTyp → Option Nat
  | .bool => some 1 | .u8 => some 1 | .u16 => some 2 | .u32 => some 4 | .u64 => some 8 | .i32 => some 4 | .i64 => some 8 | .f32 => some 4
  | .time => some 8 | .str => none | .octets => none

def ObjAcc.code : ObjAcc → Nat
  | .const => 0 | .ro => 1 | .rw => 2 | .rws => 3 | .wo => 4 | .cmd => 5

/-- A value as Ikiup carries it (R572). -/
def encodeVal (t : ObjTyp) (v : OVal) : List Byte :=
  match t.size, v with
  | some n, .num x => leBytes n x
  | none, .bytes b => (if t = .str then leBytes 1 b.length else leBytes 2 b.length) ++ b
  | some n, .bytes b => padTo n b
  | none, .num _ => []

/-- The first type and length check (R556, step 4): the type named and the value's shape and length. -/
def fitsTyp (t : ObjTyp) (typ : Nat) (v : OVal) : Bool :=
  typ == t.code && match t.size, v with
    | some n, .num x => decide (x < 2 ^ (8 * n))
    | none, .bytes b => decide (b.length ≤ (if t = .str then 255 else 1024))
    | _, _ => false

/-- One row of the index: `n` indices from `base` hold it at subindex `sub`. -/
structure ObjRow where
  base : Nat
  n : Nat
  sub : Nat
  name : String
  typ : ObjTyp
  acc : ObjAcc
  states : Nat
  rights : Nat
  dflt : Option OVal
  lim : Option (Nat × Nat)

/-- The state shorthands of R563, and the states of cut_cmd. -/
abbrev wAll : Nat := 0xFC
abbrev wRun : Nat := 0x78
abbrev wCfg : Nat := 0x4C
abbrev wCut : Nat := 0x38
/-- The rights of R589 by area, and those that entries state for themselves. -/
abbrev rtA : Nat := 0xFD
abbrev rtB : Nat := 0xDD
abbrev rtC : Nat := 0xF5
abbrev rtD : Nat := 0xD5
abbrev rtEvery : Nat := 0xFF
abbrev rtWrite : Nat := 0xAA
abbrev rtRead : Nat := 0x55

def num (n : Nat) : Option OVal := some (.num n)
def ent (base n sub : Nat) (name : String) (typ : ObjTyp) (acc : ObjAcc) (states rights : Nat) (dflt : Option OVal)
    (lim : Option (Nat × Nat)) : ObjRow := ⟨base, n, sub, name, typ, acc, states, rights, dflt, lim⟩

/-! The index -/

/-- The entries of area 0x1000 to 0x2003. -/
def objIdent : List ObjRow := [
  ent 0x1000 1 1 "vendor_name" .str .const 0 rtA none none,
  ent 0x1000 1 2 "device_name" .str .const 0 rtA none none,
  ent 0x1000 1 3 "ordering_code" .str .const 0 rtA none none,
  ent 0x1000 1 4 "serial" .u64 .const 0 rtA none none,
  ent 0x1000 1 5 "silicon_rev" .u8 .const 0 rtA (num 161) none,
  ent 0x1000 1 6 "doc_issue" .u8 .const 0 rtA (num 1) none,
  ent 0x1000 1 7 "fw_version" .u32 .ro 0 rtA none none,
  ent 0x1001 1 1 "mac_addr" .octets .const 0 rtA none none,
  ent 0x1001 1 2 "slaac_en" .bool .rws wAll rtA (num 0) none,
  ent 0x1001 1 3 "ipv6_static_0" .octets .rws wAll rtA (some (.bytes [])) none,
  ent 0x1001 1 4 "ipv6_static_1" .octets .rws wAll rtA (some (.bytes [])) none,
  ent 0x1001 1 5 "ipv6_static_2" .octets .rws wAll rtA (some (.bytes [])) none,
  ent 0x1001 1 6 "ipv6_static_3" .octets .rws wAll rtA (some (.bytes [])) none,
  ent 0x1001 1 7 "session_idle" .u16 .rws wAll rtA (num 60) (some (10, 3600)),
  ent 0x1001 1 8 "ikiup_bad_tag" .u64 .ro 0 rtA (num 0) none,
  ent 0x1001 1 9 "ikiup_notice_lost" .u64 .ro 0 rtA (num 0) none,
  ent 0x2000 1 1 "device_state" .u8 .ro 0 rtA none none,
  ent 0x2000 1 2 "fault_cause" .u8 .ro 0 rtA (num 0) none,
  ent 0x2001 1 1 "state_cmd" .u16 .cmd wAll rtA none none,
  ent 0x2001 1 2 "state_result" .octets .ro 0 rtA none none,
  ent 0x2002 1 1 "drain_quiet" .u32 .rws wAll rtA (num 1000) (some (10, 1000000)),
  ent 0x2002 1 2 "maint_wait" .u16 .rws wAll rtA (num 10) (some (1, 600)),
  ent 0x2003 1 1 "reset_cause" .u8 .ro 0 rtA none none,
  ent 0x2003 1 2 "reset_count" .u32 .ro 0 rtA (num 0) none,
  ent 0x2003 1 3 "rrs_limit" .u16 .rws wAll rtA (num 2000) (some (100, 60000))]

/-- The entries of area 0x3000 and 0x3100. -/
def objLanes : List ObjRow := [
  ent 0x3000 1 1 "eq_cmd" .u8 .cmd wRun rtB none (some (1, 2)),
  ent 0x3000 1 2 "eq_result" .octets .ro 0 rtB none none,
  ent 0x3000 1 3 "eq_load_off" .u32 .rw wRun rtB (num 0) (some (0, 86272)),
  ent 0x3000 1 4 "eq_load_data" .octets .wo wRun rtB none none,
  ent 0x3000 1 5 "eq_status" .u32 .ro 0 rtB none none,
  ent 0x3000 1 6 "eq_read_off" .u32 .rw wAll rtB (num 0) none,
  ent 0x3000 1 7 "eq_read_data" .octets .ro 0 rtB none none,
  ent 0x3100 48 1 "margin_cmd" .u32 .cmd wRun rtB none none,
  ent 0x3100 48 2 "margin_result" .octets .ro 0 rtB none none]

/-- The entries of area 0x4000. -/
def objPorts : List ObjRow := [
  ent 0x4000 48 1 "port_enable" .bool .rws wRun rtB (num 0) none,
  ent 0x4000 48 2 "port_role" .u8 .rws wCfg rtB (num 3) (some (0, 3)),
  ent 0x4000 48 3 "port_width" .u8 .rws wCfg rtB none none,
  ent 0x4000 48 4 "port_maxrate" .u8 .rws wCfg rtB (num 6) (some (0, 6)),
  ent 0x4000 48 5 "dpc_cmd" .u8 .cmd wRun rtB none (some (1, 1)),
  ent 0x4000 48 6 "dpc_result" .octets .ro 0 rtB none none,
  ent 0x4000 48 7 "atn_cmd" .u8 .cmd wRun rtB none (some (1, 1)),
  ent 0x4000 48 8 "atn_result" .octets .ro 0 rtB none none,
  ent 0x4000 48 9 "slot_ind" .u8 .ro 0 rtB (num 0) none]

/-- The entries of area 0x5000 to 0x6000. -/
def objVs : List ObjRow := [
  ent 0x5000 48 1 "vf_alloc" .u16 .rws wRun rtA (num 0) (some (0, 1024)),
  ent 0x5000 48 2 "ndsp" .u16 .rws wRun rtA (num 8) (some (1, 256)),
  ent 0x5000 48 3 "revoke_grace" .u16 .rws wAll rtA (num 100) (some (1, 10000)),
  ent 0x5000 48 4 "fabric_timeout" .u32 .rws wAll rtA (num 20) none,
  ent 0x5000 48 5 "vs_host_port" .u8 .rws wCfg rtA (num 255) none,
  ent 0x5100 1 1 "res_cmd" .u64 .cmd wRun rtA none none,
  ent 0x5100 1 2 "res_result" .octets .ro 0 rtA none none,
  ent 0x6000 1 1 "reg_sel" .u32 .rw wAll rtA (num 0) none,
  ent 0x6000 1 2 "reg_val" .u64 .rw wRun rtA none none,
  ent 0x6000 1 3 "sched_commit" .u8 .cmd wRun rtA none (some (1, 1)),
  ent 0x6000 1 4 "sched_result" .octets .ro 0 rtA none none]

/-- The entries of area 0x7000. [log: DESIGN CHOICE 208] -/
def objFabric : List ObjRow := [
  ent 0x7000 1 1 "fsid_request" .u16 .rws wCfg rtA (num 65535) none,
  ent 0x7000 1 2 "fsid" .u16 .ro 0 rtC (num 65535) none,
  ent 0x7000 1 3 "deal_apply_margin" .u32 .rws wAll rtC (num 4000) (some (2000, 1000000)),
  ent 0x7000 1 4 "deal_epoch" .u32 .ro 0 rtC (num 0) none,
  ent 0x7000 1 5 "deal_state" .u8 .ro 0 rtC (num 0) none,
  ent 0x7001 1 1 "fabric_time" .time .ro 0 rtC none none,
  ent 0x7100 1 1 "dealer_role" .u8 .rws wCfg rtC (num 0) (some (0, 2)),
  ent 0x7100 1 2 "dealer_term" .u16 .ro 0 rtC (num 0) none,
  ent 0x7100 1 3 "dealer_peer" .u16 .rws wCfg rtC (num 65535) none,
  ent 0x7100 1 4 "heartbeat" .u32 .rws wAll rtC (num 100) (some (10, 100000)),
  ent 0x7100 1 5 "journal_seq" .u32 .ro 0 rtC (num 0) none,
  ent 0x7100 1 6 "journal_last" .octets .ro 0 rtC none none,
  ent 0x7100 1 7 "journal_read_off" .u32 .rw wAll rtC (num 0) none,
  ent 0x7100 1 8 "journal_read_data" .octets .ro 0 rtC none none,
  ent 0x7200 1 1 "cut_cmd" .u16 .cmd wCut rtC none none,
  ent 0x7200 1 2 "cut_result" .octets .ro 0 rtC none none,
  ent 0x7200 1 3 "cut_read_off" .u32 .rw wAll rtC (num 0) none,
  ent 0x7200 1 4 "cut_read_data" .octets .ro 0 rtC none none,
  ent 0x7300 1 1 "directed_send" .octets .wo wRun 0xA5 none none,
  ent 0x7300 1 2 "directed_reply_off" .u32 .rw wAll rtC (num 0) none,
  ent 0x7300 1 3 "directed_reply_data" .octets .ro 0 rtC none none]

/-- The entries of area 0x8000. -/
def objPower : List ObjRow := [
  ent 0x8000 1 1 "feed_priority" .u8 .rws wAll rtB (num 0) (some (0, 1)),
  ent 0x8000 1 2 "break_interval" .u8 .rws wAll rtB (num 10) (some (5, 50)),
  ent 0x8000 1 3 "inrush_limit" .u16 .rws wCfg rtB (num 100) (some (20, 200)),
  ent 0x8000 1 4 "inrush_fault_time" .u8 .rws wCfg rtB (num 10) (some (1, 50)),
  ent 0x8000 1 5 "breaker_curve" .octets .rws wCfg rtB none none,
  ent 0x8000 1 6 "sag_warn" .u16 .rws wAll rtB (num 4400) (some (4000, 17000)),
  ent 0x8000 1 7 "sag_reset" .u16 .rws wAll rtB (num 4100) (some (4000, 16900)),
  ent 0x8100 1 1 "feed_a_v" .f32 .ro 0 rtB none none,
  ent 0x8100 1 2 "feed_a_i" .f32 .ro 0 rtB none none,
  ent 0x8100 1 3 "feed_a_p" .f32 .ro 0 rtB none none,
  ent 0x8100 1 4 "feed_a_e" .u64 .ro 0 rtB none none,
  ent 0x8100 1 5 "feed_b_v" .f32 .ro 0 rtB none none,
  ent 0x8100 1 6 "feed_b_i" .f32 .ro 0 rtB none none,
  ent 0x8100 1 7 "feed_b_p" .f32 .ro 0 rtB none none,
  ent 0x8100 1 8 "feed_b_e" .u64 .ro 0 rtB none none,
  ent 0x8200 8 1 "slot_shunt" .u16 .rws wAll rtB (num 2000) (some (250, 20000)),
  ent 0x8200 8 2 "slot_limit" .u16 .rws wAll rtB (num 60) (some (5, 250)),
  ent 0x8200 8 3 "slot_fault_time" .u8 .rws wAll rtB (num 10) (some (1, 50)),
  ent 0x8200 8 4 "slot_retry" .u16 .rws wAll rtB (num 868) none,
  ent 0x8200 8 5 "slot_sag" .u16 .rws wAll rtB (num 10800) (some (1000, 16000)),
  ent 0x8200 8 6 "slot_i" .f32 .ro 0 rtB none none,
  ent 0x8200 8 7 "slot_v" .f32 .ro 0 rtB none none,
  ent 0x8200 8 8 "slot_e" .u64 .ro 0 rtB (num 0) none,
  ent 0x8200 8 9 "slot_state" .u8 .ro 0 rtB (num 0) none,
  ent 0x8200 8 10 "slot_trips" .u32 .ro 0 rtB (num 0) none,
  ent 0x8200 8 11 "slot_last_trip" .u8 .ro 0 rtB (num 0) none,
  ent 0x8300 1 1 "pe_state" .u8 .ro 0 rtB none none,
  ent 0x8300 1 2 "pe_active_feed" .u8 .ro 0 rtB none none,
  ent 0x8300 1 3 "pe_flags" .u16 .ro 0 rtB (num 0) none,
  ent 0x8300 1 4 "pe_trips" .u32 .ro 0 rtB (num 0) none,
  ent 0x8300 1 5 "pe_last_trip" .u8 .ro 0 rtB (num 0) none,
  ent 0x8300 1 6 "pe_transfers" .u32 .ro 0 rtB (num 0) none,
  ent 0x8300 1 7 "pe_sag_count" .u32 .ro 0 rtB (num 0) none,
  ent 0x8300 1 8 "pe_clear" .u8 .cmd wRun rtB none (some (1, 1)),
  ent 0x8300 1 9 "pe_clear_result" .octets .ro 0 rtB none none]

/-- The entries of area 0x9000. -/
def objHealth : List ObjRow := [
  ent 0x9000 1 1 "eol_predicted" .time .ro 0 rtB none none,
  ent 0x9000 1 2 "wear_used" .u16 .ro 0 rtB (num 0) none,
  ent 0x9000 1 3 "tj_max_now" .f32 .ro 0 rtB none none,
  ent 0x9000 1 4 "error_log_read_off" .u32 .rw wAll rtB (num 0) none,
  ent 0x9000 1 5 "error_log_read_data" .octets .ro 0 rtB none none]

/-- The entries of area 0xA000. -/
def objSec : List ObjRow := [
  ent 0xA000 1 1 "boot_hold" .bool .rws wAll rtD (num 0) none,
  ent 0xA000 1 2 "meas_read_off" .u32 .rw wAll rtEvery (num 0) none,
  ent 0xA000 1 3 "meas_read_data" .octets .ro 0 rtD none none,
  ent 0xA000 1 4 "report_cmd" .octets .cmd wAll rtWrite none none,
  ent 0xA000 1 5 "report_result" .octets .ro 0 rtRead none none,
  ent 0xA000 1 6 "report_read_off" .u32 .rw wAll rtEvery (num 0) none,
  ent 0xA000 1 7 "report_read_data" .octets .ro 0 rtRead none none,
  ent 0xA100 16 1 "key_cmd" .u16 .cmd wAll rtD none none,
  ent 0xA100 16 2 "key_result" .octets .ro 0 rtD none none,
  ent 0xA100 16 3 "key_state" .u8 .ro 0 rtD (num 0) none,
  ent 0xA100 16 4 "key_role" .u8 .ro 0 rtD (num 0) none,
  ent 0xA100 16 5 "key_load_off" .u32 .rw wAll rtD (num 0) (some (0, 1952)),
  ent 0xA100 16 6 "key_load_data" .octets .wo wAll rtD none none,
  ent 0xA100 16 7 "key_digest" .octets .ro 0 rtD (some (.bytes [])) none,
  ent 0xA200 1 1 "fw_cmd" .u16 .cmd wRun rtD none none,
  ent 0xA200 1 2 "fw_result" .octets .ro 0 rtD none none,
  ent 0xA200 1 3 "fw_load_off" .u32 .rw wRun rtD (num 0) (some (0, 4194304)),
  ent 0xA200 1 4 "fw_load_data" .octets .wo wRun rtD none none,
  ent 0xA200 1 5 "remeasure_interval" .u16 .rws wAll rtD (num 60) (some (1, 3600)),
  ent 0xA200 1 6 "cert_read_off" .u32 .rw wAll rtEvery (num 0) none,
  ent 0xA200 1 7 "cert_read_data" .octets .ro 0 rtRead none none,
  ent 0xA200 1 8 "log_lseq" .u32 .ro 0 rtRead (num 0) none,
  ent 0xA200 1 9 "fw_info_0" .octets .ro 0 rtD none none,
  ent 0xA200 1 10 "fw_info_1" .octets .ro 0 rtD none none,
  ent 0xA200 1 11 "fw_info_2" .octets .ro 0 rtD none none,
  ent 0xA200 1 12 "fw_info_3" .octets .ro 0 rtD none none,
  ent 0xA200 1 13 "fw_info_4" .octets .ro 0 rtD none none]

/-- The entries of area 0xB000. [log: DESIGN CHOICE 208] -/
def objEng : List ObjRow := [
  ent 0xB100 256 1 "prog_cmd" .u16 .cmd wRun rtA none none,
  ent 0xB100 256 2 "prog_result" .octets .ro 0 rtA none none,
  ent 0xB100 256 3 "prog_state" .u8 .ro 0 rtA (num 0) none,
  ent 0xB100 256 4 "prog_vs" .u8 .ro 0 rtA (num 0) none,
  ent 0xB100 256 5 "prog_handle" .u32 .ro 0 rtA (num 0) none,
  ent 0xB100 256 6 "prog_expect" .octets .rw wRun rtA (some (.bytes [])) none,
  ent 0xB100 256 7 "prog_load_off" .u32 .rw wRun rtA (num 0) (some (0, 262208)),
  ent 0xB100 256 8 "prog_load_data" .octets .wo wRun rtA none none,
  ent 0xB100 256 9 "prog_digest" .octets .ro 0 rtA (some (.bytes [])) none,
  ent 0xB200 256 1 "grp_en" .bool .rw wRun rtA (num 0) none,
  ent 0xB200 256 2 "grp_gen" .u16 .rw wRun rtA (num 0) none,
  ent 0xB200 256 3 "grp_n" .u16 .rw wRun rtA (num 1) (some (1, 2048)),
  ent 0xB200 256 4 "grp_rank" .u16 .rw wRun rtA (num 0) (some (0, 2047)),
  ent 0xB200 256 5 "grp_fan" .u8 .rw wRun rtA (num 16) (some (2, 16)),
  ent 0xB200 256 6 "grp_local" .u8 .rw wRun rtA (num 1) (some (1, 16)),
  ent 0xB200 256 7 "grp_parent" .u16 .rw wRun rtA (num 65535) none,
  ent 0xB200 256 8 "grp_children" .octets .rw wRun rtA none none,
  ent 0xB200 256 9 "grp_vsmask" .u64 .rw wRun rtA (num 0) (some (0, 281474976710655)),
  ent 0xB200 256 10 "grp_status" .u32 .ro 0 rtA (num 0) none,
  ent 0xB300 256 1 "share_valid" .bool .rw wRun rtC (num 0) none,
  ent 0xB300 256 2 "share_ro" .bool .rw wRun rtC (num 1) none,
  ent 0xB300 256 3 "share_user_vs" .u8 .rw wRun rtC (num 0) (some (0, 47)),
  ent 0xB300 256 4 "share_win_vs" .u8 .rw wRun rtC (num 0) (some (0, 47)),
  ent 0xB300 256 5 "share_win" .u16 .rw wRun rtC (num 0) (some (0, 16383)),
  ent 0xB400 1072 1 "alloc_vs" .u8 .rws wRun rtA (num 0) (some (0, 47)),
  ent 0xB400 1072 2 "alloc_fn" .u16 .rws wRun rtA (num 0) (some (0, 1024)),
  ent 0xB400 1072 3 "alloc_mib" .u32 .rws wRun rtA (num 0) none,
  ent 0xB900 1 1 "cluster_cmd" .u8 .cmd wRun rtA none (some (4, 15)),
  ent 0xB900 1 2 "cluster_result" .octets .ro 0 rtA none none]

/-- The whole index but event_class, whose 18 indices fill their subindices. -/
def objRows : List ObjRow := objIdent ++ objLanes ++ objPorts ++ objVs ++ objFabric ++ objPower ++ objHealth ++ objSec ++ objEng

/-- The default rights of an area (R589). -/
def areaRights (idx : Nat) : Nat :=
  let a := idx / 4096
  if a = 1 ∨ a = 2 ∨ a = 5 ∨ a = 6 ∨ a = 11 then rtA else if a = 3 ∨ a = 4 ∨ a = 8 ∨ a = 9 then rtB else if a = 7 then rtC else rtD

/-- event_class, one index for 128 sources. -/
def isEvtClass (idx : Nat) : Bool := decide (0x9100 ≤ idx) && decide (idx < 0x9112)
def evtRow (idx sub : Nat) : ObjRow := ent idx 1 sub "event_class" .u8 .rws wAll rtB (num 0) (some (0, 63))

/-- The rows of an index. -/
def rowsOf (idx : Nat) : List ObjRow := objRows.filter fun r => decide (r.base ≤ idx) && decide (idx < r.base + r.n)

/-- An index exists; its highest subindex (R553). -/
def indexExists (idx : Nat) : Bool := isEvtClass idx || !(rowsOf idx).isEmpty
def topSub (idx : Nat) : Nat := if isEvtClass idx then 128 else (rowsOf idx).foldl (fun m r => max m r.sub) 0

/-- The row of an entry: subindex 0 of every index is a constant. -/
def objRow (idx sub : Nat) : Option ObjRow :=
  if ¬ indexExists idx then none
  else if sub = 0 then some (ent idx 1 0 "" .u8 .const 0 (areaRights idx) (num (topSub idx)) none)
  else if isEvtClass idx then (if sub ≤ 128 then some (evtRow idx sub) else none)
  else (rowsOf idx).find? fun r => r.sub == sub

/-- The result entry of a CMD entry follows it (R568). -/
def isResult (idx sub : Nat) : Bool := decide (1 ≤ sub) && ((objRow idx (sub - 1)).map fun r => r.acc == .cmd).getD false

/-- ASCII text as bytes. -/
def ascii (t : String) : List Byte := t.toUTF8.toList.map fun x => BitVec.ofNat 8 x.toNat

/-- The value a constant entry of the module holds. -/
def constVal (idx sub : Nat) : Option OVal :=
  if idx = 0x1000 ∧ sub = 1 then some (.bytes (ascii "Zilyxel"))
  else if idx = 0x1000 ∧ sub = 2 then some (.bytes (ascii "Spasan S192"))
  else if idx = 0x1000 ∧ sub = 3 then some (.bytes (ascii (if Config.orderingCode then "SPS192-ME" else "SPS192-MC")))
  else if idx = 0x1000 ∧ sub = 4 then some (.num (Config.serial % 2 ^ 64))
  else if idx = 0x1001 ∧ sub = 1 then some (.bytes (padTo 6 Config.macAddr))
  else none

/-- The default of an entry (R554). -/
def dfltOf (idx sub : Nat) (r : ObjRow) : Option OVal :=
  if 0x4000 ≤ idx ∧ idx < 0x4030 ∧ sub = 3 then num (if (idx - 0x4000) % 4 = 0 then 16 else 0)
  else if idx = 0x8000 ∧ sub = 5 then some (.bytes (curveBytes factoryCurve))
  else if 0xB200 ≤ idx ∧ idx < 0xB300 ∧ sub = 8 then some (.bytes (List.replicate 32 0xFF))
  else match constVal idx sub with
    | some v => some v
    | none => r.dflt

/-- The descriptor of an entry (R554). [log: DEDUCED 162] -/
def describeBytes (idx sub : Nat) (r : ObjRow) : List Byte :=
  let name := if sub = 0 then Config.zeroName idx else ascii r.name
  [0] ++ leBytes 2 idx ++ leBytes 1 sub ++ [0] ++ leBytes 1 r.typ.code ++ leBytes 1 r.acc.code ++ leBytes 1 r.rights ++ leBytes 1 r.states
    ++ (match dfltOf idx sub r with
        | some v => encodeVal r.typ v
        | none => Config.noDefault idx sub)
    ++ leBytes 1 name.length ++ name

/-! Values -/

/-- The load targets and their offset and data entries (R591). -/
def isLoadOff (idx sub : Nat) : Bool :=
  ((idx == 0x3000 || idx == 0xA200) && sub == 3) || (decide (0xA100 ≤ idx) && decide (idx < 0xA110) && sub == 5) ||
    (decide (0xB100 ≤ idx) && decide (idx < 0xB200) && sub == 7)
def isLoadData (idx sub : Nat) : Bool := decide (1 ≤ sub) && isLoadOff idx (sub - 1)

/-- The offset and data entries of the read windows (R593). -/
def isWinOff (idx sub : Nat) : Bool :=
  (idx == 0x3000 && sub == 6) || (idx == 0x7100 && sub == 7) || (idx == 0x7200 && sub == 3) || (idx == 0x7300 && sub == 2) ||
    (idx == 0x9000 && sub == 4) || (idx == 0xA000 && (sub == 2 || sub == 6)) || (idx == 0xA200 && sub == 6)
def isWinData (idx sub : Nat) : Bool := decide (1 ≤ sub) && isWinOff idx (sub - 1)

/-- Bytes of a ring of LPDDR4X from its oldest on: `len` bytes in all, up to 1,024 of them from an offset. [log: DEDUCED 164] -/
def Dev.ringBytes (s : Dev) (base size start len off : Nat) : List Byte :=
  (List.range (min 1024 (len - off))).map fun i => s.memByte (base + (start + off + i) % size)

/-- Up to 1,024 bytes of a list from an offset. -/
def sliceAt (l : List Byte) (off : Nat) : List Byte := (l.drop off).take 1024

/-- What a read window returns from an offset (R593). [log: DEDUCED 164] -/
def Dev.windowRead (s : Dev) (idx sub off : Nat) : List Byte :=
  if idx = 0x3000 then sliceAt s.eqImage off
  else if idx = 0x7100 then
    let n := min s.dl.dealer.jn 65536
    s.ringBytes journalBase (32 * 65536) (32 * ((s.dl.dealer.jn + 1 - n) % 65536)) (32 * n) off
  else if idx = 0x7200 then (if s.dl.cutId.isSome then s.ringBytes cutBase cutBytes 0 cutBytes off else [])
  else if idx = 0x7300 then sliceAt (s.rt.replies.flatMap fun r => leBytes 2 r.length ++ r) off
  else if idx = 0x9000 then
    s.ringBytes elogBase (32 * 4096) (32 * ((s.tel.elogN - s.tel.elogKept) % 4096)) (32 * s.tel.elogKept) off
  else if idx = 0xA000 ∧ sub = 3 then sliceAt s.trust.logValue off
  else if idx = 0xA000 then sliceAt s.trust.report off
  else sliceAt Config.certChain off

/-- A measurement that a read returns (a sensor or a meter of the power-entry stage): free at each read.
[log: DESIGN CHOICE 163, DESIGN CHOICE 174] -/
def Dev.measured (s : Dev) (idx sub : Nat) : Nat × Dev := (Config.reading (objKey idx sub) s.free % 2 ^ 32, { s with free := s.free + 1 })

/-- fw_info (chapter on measured start): VERSION in use, of a valid current copy not in use, the fused minimum, SVN in use. -/
def Dev.fwInfo (s : Dev) (kind : Nat) : List Byte :=
  let u := (tfind s.trust.inUse kind).getD {}
  let b := s.imgCopy kind (s.imgCurrent kind)
  let next := if s.imgValid kind b ∧ shake256 (imgMeasured b) 32 ≠ u.digest then imgVersion b else 0
  leBytes 4 u.svn ++ leBytes 4 (s.trust.minSvn.getD kind 0) ++ leBytes 4 next ++ leBytes 4 u.version

/-- A bit of pe_flags (R688). -/
def Dev.peFlags (s : Dev) : Nat := s.pe.usable % 4 + 4 * b2n s.pe.pfw + s.pe.flags / 8 % 32 * 8

/-- slot_ind of a port, encoded as PCI_SLOT_STAT. -/
def Dev.slotInd (s : Dev) (n : Nat) : Nat :=
  match s.slotOf n with
  | some k => 4 * s.fget Fld.PCI_SLOT_STAT.PWR_IND k + s.fget Fld.PCI_SLOT_STAT.ATN_IND k
  | none => tget 0 s.pci.slotInd n

def Dev.prog (s : Dev) (p : Nat) : Prog := tget {} s.eng.progs p
def Dev.keySlot (s : Dev) (k : Nat) : KeySlot := tget {} s.svc.keys k

/-- The group entries (0xB200). -/
def Dev.grpVal (s : Dev) (g sub : Nat) : OVal :=
  if sub = 1 then .num (s.fget Fld.CL_GRP_CTL.EN g)
  else if sub = 2 then .num (s.fget Fld.CL_GRP_CTL.GEN g)
  else if sub = 3 then .num (s.fget Fld.CL_GRP_N.N g)
  else if sub = 4 then .num (s.fget Fld.CL_GRP_N.RANK g)
  else if sub = 5 then .num (s.fget Fld.CL_GRP_CTL.FANM1 g + 1)
  else if sub = 6 then .num (s.fget Fld.CL_GRP_CTL.LOCM1 g + 1)
  else if sub = 7 then .num (if s.fbit Fld.CL_GRP_PARENT.PV g then s.fget Fld.CL_GRP_PARENT.PARENT g else 0xFFFF)
  else if sub = 8 then .bytes ((List.range 16).flatMap fun j =>
    leBytes 2 (if s.fbit Fld.CL_GRP_CHILD.VALID (16 * g + j) then s.fget Fld.CL_GRP_CHILD.FSID (16 * g + j) else 0xFFFF))
  else if sub = 9 then .num (s.rget .CL_GRP_VSMASK g)
  else .num (s.rget .CL_GRP_STAT g)

/-- The security entries that are no load target, read window or result. -/
def Dev.secVal (s : Dev) (idx sub : Nat) : Option OVal :=
  if 0xA100 ≤ idx ∧ idx < 0xA110 then
    let k := s.keySlot (idx - 0xA100)
    if sub = 3 then some (.num (if k.till.isSome then 3 else k.state))
    else if sub = 4 then some (.num k.role)
    else if sub = 7 then some (.bytes (if k.state = 2 then shake256 k.key 32 else []))
    else none
  else if idx = 0xA200 ∧ sub = 8 then some (.num s.trust.newest)
  else if idx = 0xA200 ∧ 9 ≤ sub then some (.bytes (s.fwInfo (sub - 9)))
  else none

/-- The entries of a program slot (0xB100). -/
def Dev.progVal (s : Dev) (p sub : Nat) : Option OVal :=
  let x := s.prog p
  if sub = 3 then some (.num x.state)
  else if sub = 4 then some (.num x.vs)
  else if sub = 5 then some (.num (if x.state = 3 then p + 256 * x.gen else 0))
  else if sub = 6 then some (.bytes x.expect)
  else if sub = 9 then some (.bytes x.digest)
  else none

/-- The entries of power entry (0x8100 to 0x8300); measurements are free. [log: DESIGN CHOICE 178] -/
def Dev.powerVal (s : Dev) (idx sub : Nat) : Option OVal × Dev :=
  if idx = 0x8100 then
    (if sub = 4 ∨ sub = 8 then let s1 := s.meterEnergy
                               (some (.num (s1.pe.energy.getD (sub / 8) 0)), s1)
     else let (v, s1) := s.measured idx sub
          (some (.num v), s1))
  else if 0x8200 ≤ idx ∧ idx < 0x8208 then
    let k := idx - 0x8200
    if sub = 6 ∨ sub = 7 then let (v, s1) := s.measured idx sub
                              (some (.num v), s1)
    else if sub = 8 then (some (.num (Config.meter (objKey idx sub) s.free % 2 ^ 64)), { s with free := s.free + 1 })
    else if sub = 9 then (some (.num (s.slotState k)), s)
    else if sub = 10 then (some (.num (s.slot k).trips), s)
    else if sub = 11 then (some (.num (s.slot k).cause), s)
    else (none, s)
  else if idx = 0x8300 then
    (some (.num (if sub = 1 then s.pe.state else if sub = 2 then s.pe.feed else if sub = 3 then s.peFlags else if sub = 4 then s.pe.trips
       else if sub = 5 then s.pe.lastTrip else if sub = 6 then s.pe.transfers else s.pe.sags)), s)
  else (none, s)

/-- The entries of identity, device state, fabric and health that show state elsewhere. -/
def Dev.liveVal (s : Dev) (idx sub : Nat) : Option OVal :=
  if idx = 0x1000 ∧ sub = 7 then num (s.regRead .SF_DV_FW 0)
  else if idx = 0x1001 ∧ sub = 8 then num s.svc.badTag
  else if idx = 0x1001 ∧ sub = 9 then num s.svc.noticeLost
  else if idx = 0x2000 ∧ sub = 1 then num s.svc.state
  else if idx = 0x2000 ∧ sub = 2 then num s.svc.cause
  else if idx = 0x2003 ∧ sub = 1 then num s.svc.resetCause
  else if idx = 0x2003 ∧ sub = 2 then num s.svc.resetCount
  else if idx = 0x3000 ∧ sub = 5 then num (s.rget .LN_TBL_STAT 0)
  else if 0x4000 ≤ idx ∧ idx < 0x4030 ∧ sub = 4 then num (s.maxrate (idx - 0x4000))
  else if 0x4000 ≤ idx ∧ idx < 0x4030 ∧ sub = 9 then num (s.slotInd (idx - 0x4000))
  else if 0x5000 ≤ idx ∧ idx < 0x5030 ∧ sub = 2 then num (s.fget Fld.PCI_VS_CFG.NDSP (idx - 0x5000))
  else if 0x5000 ≤ idx ∧ idx < 0x5030 ∧ sub = 4 then num (s.fget Fld.XB_FTO.US (idx - 0x5000))
  else if 0x5000 ≤ idx ∧ idx < 0x5030 ∧ sub = 5 then
    num (if s.fbit Fld.PCI_VS_CFG.HPV (idx - 0x5000) then s.fget Fld.PCI_VS_CFG.HOST_PORT (idx - 0x5000) else 0xFF)
  else if idx = 0x7000 ∧ sub = 2 then num (if s.joined then s.fsid else 0xFFFF)
  else if idx = 0x7000 ∧ sub = 4 then num (s.fget Fld.DL_DEAL_EPOCH.EPOCH 0)
  else if idx = 0x7000 ∧ sub = 5 then num (s.fget Fld.DL_DEAL_STAT.STATE 0)
  else if idx = 0x7001 then num s.ftime
  else if idx = 0x7100 ∧ sub = 2 then num s.dl.dealer.term
  else if idx = 0x7100 ∧ sub = 5 then num s.dl.dealer.jn
  else if idx = 0x7100 ∧ sub = 6 then some (.bytes (if s.dl.dealer.jn = 0 then [] else s.lastRecord))
  else if idx = 0x9000 ∧ sub = 1 then num s.tel.eol
  else if idx = 0x9000 ∧ sub = 2 then num s.tel.wearUsed
  else none

/-- The register behind reg_sel, read (R598). [log: DEDUCED 165] -/
def Dev.regValRead (s : Dev) (x : Sess) : Nat × Dev := s.blkReadWhole (x.regSel / 2 ^ 24) (x.regSel % 2 ^ 24)

/-- An entry's value as a session reads it, past the checks of R556: its status and its value. -/
def Dev.entryRead (s : Dev) (x : Sess) (idx sub : Nat) (r : ObjRow) : Nat × OVal × Dev :=
  let ok := fun (v : OVal) (s : Dev) => (0, v, s)
  if sub = 0 then ok (.num (topSub idx)) s
  else if isResult idx sub then
    let c := s.cmdSt idx (sub - 1)
    if c.running then (0x0402, .num 0, s) else if c.rseq = 0 then (0x0404, .num 0, s) else ok (.bytes c.record) s
  else if isLoadOff idx sub then ok (.num (s.load idx).off) s
  else if isWinOff idx sub then ok (.num (tget 0 x.offs (objKey idx sub))) s
  else if isWinData idx sub then ok (.bytes (s.windowRead idx sub (tget 0 x.offs (objKey idx (sub - 1))))) s
  else if idx = 0x6000 ∧ sub = 1 then ok (.num x.regSel) s
  else if idx = 0x6000 ∧ sub = 2 then
    (if inMap (x.regSel / 2 ^ 24) (x.regSel % 2 ^ 24) then let (v, s1) := s.regValRead x
                                                          ok (.num v) s1
     else (0x0504, .num 0, s))
  else if idx = 0x9000 ∧ sub = 3 then let (v, s1) := s.measured idx sub
                                      ok (.num v) s1
  else if 0xB200 ≤ idx ∧ idx < 0xB300 then ok (s.grpVal (idx - 0xB200) sub) s
  else if 0xB300 ≤ idx ∧ idx < 0xB400 then ok (.num (s.fget (shareFld sub) (idx - 0xB300))) s
  else if 0xB100 ≤ idx ∧ idx < 0xB200 then ok ((s.progVal (idx - 0xB100) sub).getD (.num 0)) s
  else match s.liveVal idx sub, s.secVal idx sub, s.powerVal idx sub with
    | some v, _, _ => ok v s
    | none, some v, _ => ok v s
    | none, none, (some v, s1) => ok v s1
    | none, none, (none, _) =>
      match tfind s.objs (objKey idx sub) with
      | some v => ok v s
      | none => ok ((dfltOf idx sub r).getD (.num 0)) s

end Sys2Proof.Machine
end

