-- ==== Sys2Proof/Machine/Session.lean ====
section
/-! DEFINITION. Ikiup sessions (R572 to R588): the handling of a request by its SEQ, answers over each transport, the opening and the
end of UDP sessions, notices sent again. A request command lays the request before the management complex; the complex serves what a
core cycle brought in R577's order at its end (`Dev.serveRequests`). -/
namespace Sys2Proof.Machine

/-! Service codes (R575) -/

abbrev svRead : Nat := 0x01
abbrev svWrite : Nat := 0x02
abbrev svDescribe : Nat := 0x03
abbrev svSubscribe : Nat := 0x04
abbrev svNotifyAck : Nat := 0x05
abbrev svKeepalive : Nat := 0x06
abbrev svClose : Nat := 0x12

/-! Answers -/

/-- The body bytes of an untagged frame (R573). [log: DESIGN CHOICE 153] -/
abbrev frameBody : Nat := 1212

/-- The frames of a response in a mailbox, one after the other (R573, R574): `fuel` bounds their number.
[log: DEDUCED 63, DESIGN CHOICE 153] -/
def mailFrames (svc seq status : Nat) : Nat → Nat → List Byte → List Byte
  | 0, _, _ => []
  | fuel + 1, off, b =>
    let more := decide (frameBody < b.length)
    let part := b.take frameBody
    [(1 : Byte), BitVec.ofNat 8 (svc + 128)] ++ leBytes 2 (b2n more) ++ leBytes 4 0 ++ leBytes 4 seq ++ leBytes 2 off ++ leBytes 2 part.length
      ++ leBytes 2 status ++ [0, 0] ++ part
      ++ (if more then mailFrames svc seq status fuel (off + frameBody) (b.drop frameBody) else [])

/-- The response of a mailbox (R257): the response buffer, DONE, and SF_EVT.MB; discarded where a reset has ended the request.
[log: DEDUCED 63] -/
def Dev.mailReply (s : Dev) (vs svc seq status : Nat) (body : List Byte) : Dev :=
  if ¬ s.fbit Fld.SF_MB_STAT.BUSY vs then s
  else
    let b := (mailFrames svc seq status (body.length / frameBody + 1) 0 body).take 2047
    let s1 := s.fsets vs [(Fld.SF_MB_STAT.BUSY, 0), (Fld.SF_MB_STAT.DONE, 1), (Fld.SF_MB_STAT.RLEN, b.length)]
    (s1.modSfn vs 0 fun f => { f with mailRsp := b }).sfEvent vs 0 Fld.SF_EVT.MB

/-- A response over the session's transport. [log: DESIGN CHOICE 153] -/
def Dev.reply (s : Dev) (k : SessKey) (svc seq status : Nat) (body : List Byte) : Dev :=
  match k with
  | .mailbox vs => s.mailReply vs svc seq status body
  | _ => s.respond k seq status body

/-- An answer stored and sent: it sets L (R576). -/
def Dev.answerReq (s : Dev) (k : SessKey) (svc seq status : Nat) (body : List Byte) : Dev :=
  (s.modSess k fun x => { x with last := seq, stored := (svc, status, body) }).reply k svc seq status body

/-! Requests -/

/-- A request of the session that has been received and not answered. -/
def Dev.reqPending (s : Dev) (k : SessKey) : Bool :=
  (s.svc.commits.any fun c => c.live && c.sess == k) || s.xing.mwWait.any fun a => a.ofSess k

/-- A mailbox sends only a request that its GO has started (R257). -/
def Dev.mayAsk (s : Dev) (k : SessKey) : Bool :=
  match k with
  | .mailbox vs => s.sfExists vs 0 && s.fbit Fld.SF_MB_STAT.BUSY vs
  | _ => true

/-- A request received whole (R560, R577): it waits for the management complex. [log: DEDUCED 232] -/
def Dev.receive (s : Dev) (h : ReqHdr) (r : SvcReq) : Dev :=
  if ¬ s.reachable ∨ ¬ s.mayAsk h.sess then s else { s with svc.inbox := s.svc.inbox ++ [{ hdr := h, req := r }] }

/-- A frame comes from where its UDP session was opened (R579). -/
def Sess.from? (x : Sess) (h : ReqHdr) : Bool :=
  match x.key with
  | .udp _ => x.src == h.src
  | _ => true

/-- A UDP frame without the right tag (R581). [log: DESIGN CHOICE 153] -/
def badTag (h : ReqHdr) : Bool :=
  match h.sess with
  | .udp _ => !h.tagOk
  | _ => false

/-- Whether a session is open. -/
def Dev.open? (s : Dev) (k : SessKey) : Option Sess := (s.sess? k).bind fun x => if x.opened then some x else none

/-- A request after its SEQ (R576): `serve` carries it out and answers. Before the first answer there is none to send again.
[log: DEDUCED 149] -/
def Dev.bySeq (s : Dev) (h : ReqHdr) (x : Sess) (svc : Nat) (serve : Dev → Sess → Dev) : Dev :=
  if h.seq = (x.last + 1) % 2 ^ 32 then
    if h.fault ≠ 0 then s.answerReq h.sess svc h.seq h.fault []
    else if h.version ≠ 1 then s.answerReq h.sess svc h.seq 0x0103 []
    else serve s x
  else if h.seq = x.last ∧ x.stored.1 ≠ 0 then s.reply h.sess x.stored.1 h.seq x.stored.2.1 x.stored.2.2
  else s.reply h.sess svc h.seq 0x0104 []

/-- A request frame, after reassembly (R560, R576, R579, R581, R583): a closed session's is answered 0x0202; a frame from elsewhere or
without its tag is discarded; a valid one restarts the idle timeout. -/
def Dev.request (s : Dev) (h : ReqHdr) (svc : Nat) (serve : Dev → Sess → Dev) : Dev :=
  if ¬ s.reachable ∨ ¬ s.mayAsk h.sess then s
  else match s.open? h.sess with
    | none => s.reply h.sess svc h.seq 0x0202 []
    | some x =>
      if ¬ x.from? h then s
      else if badTag h then { s with svc.badTag := s.svc.badTag + 1 }
      else if s.reqPending h.sess then s
      else (s.modSess h.sess fun y => { y with at_ := s.now }).bySeq h { x with at_ := s.now } svc serve

/-! Simple services -/

/-- KEEPALIVE (R583). -/
def Dev.serveKeepalive (s : Dev) (h : ReqHdr) : Dev := s.request h svKeepalive fun s _ => s.answerReq h.sess svKeepalive h.seq 0 []
def keepalive (h : ReqHdr) (s : Dev) : Dev := s.receive h .keepalive
def execKeepalive (h : ReqHdr) (s : State) : Host.Outcome State Fault Refusal := s.act (keepalive h)

/-- The mask in force of a session (R587): the reserved classes 0, class 1 for a dealer alone. -/
def maskFor (role mask : Nat) : Nat :=
  let m := (List.range 8).foldl (fun m i => if i = 0 ∨ i = 2 ∨ (i = 1 ∧ role = roleDealer) then m else setBit m i false) (mask % 2 ^ 64)
  m

/-- SUBSCRIBE (R587); through a mailbox it is not allowed (R585). -/
def Dev.serveSubscribe (s : Dev) (h : ReqHdr) (mask : Nat) : Dev :=
  s.request h svSubscribe fun s x => match h.sess with
    | .mailbox _ => s.answerReq h.sess svSubscribe h.seq 0x0301 []
    | k => let m := maskFor x.role mask
           (s.modSess k fun y => { y with mask := m }).answerReq k svSubscribe h.seq 0 (leBytes 8 m)
def subscribe (h : ReqHdr) (mask : Nat) (s : Dev) : Dev := s.receive h (.subscribe mask)
def execSubscribe (h : ReqHdr) (mask : Nat) (s : State) : Host.Outcome State Fault Refusal := s.act (subscribe h mask)

/-- A notice is at or before an NSEQ, modulo 2^32 (R588). -/
def acked (nseq : Nat) (n : Notice) : Bool := decide ((nseq % 2 ^ 32 + 2 ^ 32 - n.nseq % 2 ^ 32) % 2 ^ 32 < 2 ^ 31)

/-- NOTIFY_ACK (R588). -/
def Dev.serveNotifyAck (s : Dev) (h : ReqHdr) (nseq : Nat) : Dev :=
  s.request h svNotifyAck fun s _ =>
    (s.modSess h.sess fun y => { y with notes := y.notes.filter fun n => !acked nseq n }).answerReq h.sess svNotifyAck h.seq 0 []
def notifyAck (h : ReqHdr) (nseq : Nat) (s : Dev) : Dev := s.receive h (.notifyAck nseq)
def execNotifyAck (h : ReqHdr) (nseq : Nat) (s : State) : Host.Outcome State Fault Refusal := s.act (notifyAck h nseq)

/-- NOTIFY_RETRANSMIT (R588): 100 ms after they were last sent, a session's unacknowledged notices are sent again. -/
def notifyRetransmit (k : SessKey) (s : Dev) : Dev :=
  match s.open? k with
  | none => s
  | some x =>
    if ¬ s.reachable ∨ x.notes.isEmpty ∨ s.now < x.noteAt + 100 * tMs then s
    else each x.notes (s.modSess k fun y => { y with noteAt := s.now }) fun s n => s.emit (.notify k (noticeBytes n))
def execNotifyRetransmit (k : SessKey) (s : State) : Host.Outcome State Fault Refusal := s.act (notifyRetransmit k)

/-- The end of a session by CLOSE (R583, R592): an endpoint's or mailbox's SEQ count goes on (R576). [log: DEDUCED 149] -/
def Dev.closeSess (s : Dev) (k : SessKey) : Dev :=
  match k, s.sess? k with
  | .udp _, _ => s.dropSess k
  | _, some x => (s.dropSess k).putSess { key := k, last := x.last, stored := x.stored, nseq := x.nseq }
  | _, none => s

/-- CLOSE (R583). -/
def Dev.serveClose (s : Dev) (h : ReqHdr) : Dev :=
  s.request h svClose fun s _ => (s.answerReq h.sess svClose h.seq 0 []).closeSess h.sess
def closeSession (h : ReqHdr) (s : Dev) : Dev := s.receive h .close
def execCloseSession (h : ReqHdr) (s : State) : Host.Outcome State Fault Refusal := s.act (closeSession h)

/-- DESCRIBE (R554). -/
def Dev.serveDescribe (s : Dev) (h : ReqHdr) (r : EntryRef) : Dev :=
  s.request h svDescribe fun s _ =>
    if ¬ indexExists r.index then s.answerReq h.sess svDescribe h.seq 0x0501 []
    else match objRow r.index r.sub with
      | none => s.answerReq h.sess svDescribe h.seq 0x0502 []
      | some row => s.answerReq h.sess svDescribe h.seq 0 (describeBytes r.index r.sub row)
/-- [log: DEDUCED 162] -/
def describe (h : ReqHdr) (r : EntryRef) (s : Dev) : Dev := s.receive h (.describe r)
def execDescribe (h : ReqHdr) (r : EntryRef) (s : State) : Host.Outcome State Fault Refusal := s.act (describe h r)

/-- SESSION_IDLE_TIMEOUT (R583): no frame of the session has arrived for its idle timeout. -/
def sessionIdleTimeout (k : SessKey) (s : Dev) : Dev :=
  match k, s.open? k with
  | .udp _, some x => if x.at_ + x.idle ≤ s.now ∧ ¬ s.svc.inbox.any (fun q => q.hdr.sess == k) then s.dropSess k else s
  | _, _ => s
def execSessionIdleTimeout (k : SessKey) (s : State) : Host.Outcome State Fault Refusal := s.act (sessionIdleTimeout k)

/-! The opening of a UDP session (R580 to R582) -/

/-- Free bytes: a fresh value for each. [log: DESIGN CHOICE 5, DESIGN CHOICE 151] -/
def Dev.freeBytes (s : Dev) (n : Nat) : List Byte × Dev :=
  ((List.range n).map fun i => Config.freeByte (s.free + i), { s with free := s.free + n })

/-- A session identifier not in use, not 0, drawn by the switch. [log: DESIGN CHOICE 151] -/
def Dev.drawId (s : Dev) : Nat × Dev :=
  let (x, s1) := s.freeNat
  let ids := (List.range (s.svc.sess.length + 1)).map fun i => (x + i) % (2 ^ 32 - 1) + 1
  ((ids.find? fun i => !(s.svc.sess.any fun y => y.key == .udp i)).getD 1, s1)

/-- "Ikiup-v1", the serial number, the OPEN body and the CHALLENGE body, hashed to 512 bits (R580). -/
def Dev.transcript (s : Dev) (openBody challenge : List Byte) : List Byte :=
  shake256 (ascii "Ikiup-v1" ++ leBytes 8 s.serial ++ openBody ++ challenge) 64

/-- UDP sessions that are open (R579). -/
def Dev.udpOpen (s : Dev) : Nat := (s.svc.sess.filter fun x => x.opened && (match x.key with
  | .udp _ => true
  | _ => false)).length

/-- The body of CHALLENGE: the switch's nonce and the ciphertext; the switch draws both. [log: DESIGN CHOICE 151] -/
def Dev.challenge (s : Dev) (kem : List Byte) : List Byte × Dev :=
  let (nonce, s1) := s.freeBytes 32
  (nonce ++ padTo 1088 (Config.encapsulate kem s1.free).1, { s1 with free := s1.free + 1 })

/-- OPEN (R579, R580, R582): outside the SEQ rule; over UDP alone. -/
def Dev.serveOpen (s : Dev) (h : ReqHdr) (slot : Nat) (body : List Byte) : Dev :=
  if ¬ s.reachable ∨ ¬ s.mayAsk h.sess then s
  else match h.sess with
    | .udp _ =>
      if h.fault ≠ 0 then s.respond h.sess h.seq h.fault []
      else if h.version ≠ 1 then s.respond h.sess h.seq 0x0103 []
      else if body.length ≠ 1216 then s.respond h.sess h.seq 0x0101 []
      else if (s.keySlot slot).till.isSome then s.respond h.sess h.seq 0x0203 []
      else if 8 ≤ s.udpOpen then s.respond h.sess h.seq 0x0601 []
      else
        let (id, s1) := s.drawId
        let (c, s2) := s1.challenge (body.drop 32)
        let x : Sess := { key := .udp id, role := 0, slot := slot, src := h.src, opened := false, at_ := s.now,
                          transcript := s.transcript (leBytes 1 slot ++ body) c }
        (s2.putSess x).respond (.udp id) h.seq 0 c
    | k => s.reply k 0x10 h.seq 0x0102 []
/-- [log: DEDUCED 150] -/
def openSession (h : ReqHdr) (slot : Nat) (body : List Byte) (s : Dev) : Dev := s.receive h (.open_ slot body)
def execOpenSession (h : ReqHdr) (slot : Nat) (body : List Byte) (s : State) : Host.Outcome State Fault Refusal := s.act (openSession h slot body)

/-- A failure on a key slot: five within 60 s lock it for 60 s (R582). [log: DEDUCED 193] -/
def Dev.keyFail (s : Dev) (slot : Nat) : Dev :=
  if 16 ≤ slot then s
  else { s with svc.keys := tmod {} s.svc.keys slot fun k =>
    let l := (k.fails.filter fun t => decide (s.now < t + 60 * tSec)) ++ [s.now]
    if 5 ≤ l.length then { k with fails := [], till := some (s.now + 60 * tSec) } else { k with fails := l } }

/-- The signature of a PROOF verifies under the slot's enrolled key (R580, R582). [log: DESIGN CHOICE 152] -/
def Dev.proofOk (s : Dev) (x : Sess) (sig : List Byte) : Bool :=
  let k := s.keySlot x.slot
  k.state == 2 && Config.mldsaVerify k.key x.transcript [] sig

/-- The session opens in its slot's role: ACCEPT (R580). [log: DEDUCED 150] -/
def Dev.accept (s : Dev) (x : Sess) (seq : Nat) : Dev :=
  let role := (s.keySlot x.slot).role
  let idle := s.onum 0x1001 7 60
  let y := { x with role := role, opened := true, at_ := s.now, idle := idle * tSec }
  (s.putSess y).respond x.key seq 0 (leBytes 1 role ++ leBytes 2 idle ++ padTo 3309 (Config.deviceSign (x.transcript ++ leBytes 1 role) []))

/-- PROOF (R580 to R582). -/
def Dev.serveProof (s : Dev) (h : ReqHdr) (sig : List Byte) : Dev :=
  if ¬ s.reachable ∨ ¬ s.mayAsk h.sess then s
  else match h.sess with
    | .udp _ => match s.sess? h.sess with
      | none => s.respond h.sess h.seq 0x0202 []
      | some x =>
        if ¬ x.from? h then s
        else if ¬ h.tagOk then { s with svc.badTag := s.svc.badTag + 1 }
        else if x.opened then s.respond h.sess h.seq 0x0202 []
        else if x.at_ + 5 * tSec < s.now then s.dropSess h.sess
        else if h.fault ≠ 0 then s.respond h.sess h.seq h.fault []
        else if h.version ≠ 1 then s.respond h.sess h.seq 0x0103 []
        else if ¬ s.proofOk x sig then ((s.dropSess h.sess).keyFail x.slot).respond h.sess h.seq 0x0201 []
        else if 8 ≤ s.udpOpen then (s.dropSess h.sess).respond h.sess h.seq 0x0601 []
        else s.accept x h.seq
    | k => s.reply k 0x11 h.seq 0x0102 []
/-- [log: DEDUCED 150] -/
def proof (h : ReqHdr) (sig : List Byte) (s : Dev) : Dev := s.receive h (.proof sig)
def execProof (h : ReqHdr) (sig : List Byte) (s : State) : Host.Outcome State Fault Refusal := s.act (proof h sig)

/-- PROOF_TIMEOUT (R582): 5 s after the CHALLENGE. -/
def proofTimeout (k : SessKey) (s : Dev) : Dev :=
  match s.sess? k with
  | some x => if ¬ x.opened ∧ x.at_ + 5 * tSec ≤ s.now then s.dropSess k else s
  | none => s
def execProofTimeout (k : SessKey) (s : State) : Host.Outcome State Fault Refusal := s.act (proofTimeout k)

/-- KEY_SLOT_UNLOCK (R582): 60 s after the slot was locked. [log: DEDUCED 193] -/
def keySlotUnlock (slot : Nat) (s : Dev) : Dev :=
  match (s.keySlot slot).till with
  | some t => if slot < 16 ∧ t ≤ s.now then { s with svc.keys := tmod {} s.svc.keys slot fun k => { k with till := none } } else s
  | none => s
def execKeySlotUnlock (slot : Nat) (s : State) : Host.Outcome State Fault Refusal := s.act (keySlotUnlock slot)

end Sys2Proof.Machine
end

