-- ==== Sys2Proof/Machine/EntryCheck.lean ====
section
/-! DEFINITION. The check of each entry of a READ or WRITE (R555, R556, R585, R592, R596 to R604) in its order: existence, right, access
code, type and length, range, device state, running action. Every entry of a WRITE is judged before anything is stored (R557):
against the state before it, the load targets and commands as the entries before it leave them, and, where the spec asks for
it, the values the whole WRITE would leave. -/
namespace Sys2Proof.Machine

/-- The number and the bytes of a value. -/
def valNum : OVal → Nat
  | .num n => n
  | .bytes _ => 0
def valBytes : OVal → List Byte
  | .num _ => []
  | .bytes b => b

/-- The status of the first failing test; 0 when none fails. -/
def firstBad (l : List (Bool × Nat)) : Nat := ((l.find? fun x => x.1).map fun x => x.2).getD 0

/-! Rights (R555, R585, R594, R650) -/

/-- A key of the SECURITY role is enrolled. -/
def Dev.securityKey (s : Dev) : Bool := s.svc.keys.any fun e => e.2.state == 2 && e.2.role == roleSecurity

/-- The role a session has for an index: MCTP holds SECURITY rights in area 0xA000 until a key of that role is enrolled (R594). -/
def Dev.roleFor (s : Dev) (x : Sess) (idx : Nat) : Nat :=
  match x.key with
  | .mctp _ => if idx / 4096 = 0xA ∧ ¬ s.securityKey then roleSecurity else x.role
  | _ => x.role

/-- The right of a role in a descriptor's RIGHTS: bit 0 read, bit 1 write. -/
def rightOf (rights role : Nat) (wr : Bool) : Bool := rights.testBit (2 * role + b2n wr)

/-- The entries a mailbox reaches (R585, R650); `open_` is the VS that an OPEN of a program slot names. -/
def Dev.mailEntry (s : Dev) (vs idx sub : Nat) (open_ : Option Nat) : Bool :=
  let slot := s.prog (idx - 0xB100)
  idx == 0x5000 + vs || (idx == 0xA000 && decide (2 ≤ sub) && decide (sub ≤ 7)) || (idx == 0xA200 && decide (6 ≤ sub) && decide (sub ≤ 8)) ||
    (decide (0xB100 ≤ idx) && decide (idx < 0xB200) &&
      ((slot.state != 0 && slot.vs == vs && (open_ == none || open_ == some vs)) || (slot.state == 0 && open_ == some vs)))

/-- A session may reach an entry at all. -/
def Dev.inScope (s : Dev) (k : SessKey) (idx sub : Nat) (open_ : Option Nat) : Bool :=
  match k with
  | .mailbox vs => s.mailEntry vs idx sub open_
  | _ => true

/-! Reads -/

/-- The check of an entry of a READ (R555, R556): its row, or the status. -/
def Dev.readCheck (s : Dev) (x : Sess) (e : EntryRef) : ObjRow ⊕ Nat :=
  if ¬ indexExists e.index then .inr 0x0501
  else match objRow e.index e.sub with
    | none => .inr 0x0502
    | some r =>
      let st := firstBad [
        (!(rightOf r.rights (s.roleFor x e.index) false && s.inScope x.key e.index e.sub none), 0x0301),
        (r.acc == .wo || r.acc == .cmd, 0x0302), (e.typ != r.typ.code, 0x0503)]
      if st = 0 then .inl r else .inr st

/-! What a WRITE would leave -/

/-- The number a WRITE leaves in an entry: its last occurrence in the frame, or what stands there. [log: DEDUCED 144] -/
def finNum (es : List EntryWrite) (idx sub cur : Nat) : Nat :=
  match es.reverse.find? fun e => e.ref.index == idx && e.ref.sub == sub with
  | some e => valNum e.val
  | none => cur

def Dev.finRole (s : Dev) (es : List EntryWrite) (n : Nat) : Nat := finNum es (0x4000 + n) 2 (s.role n)
def Dev.finWidth (s : Dev) (es : List EntryWrite) (n : Nat) : Nat := finNum es (0x4000 + n) 3 (s.width n)
def Dev.finRate (s : Dev) (es : List EntryWrite) (n : Nat) : Nat := finNum es (0x4000 + n) 4 (s.maxrate n)
/-- The port a WRITE leaves a VS, 0xFF for none. -/
def Dev.finHost (s : Dev) (es : List EntryWrite) (v : Nat) : Nat :=
  finNum es (0x5000 + v) 5 (if s.fbit Fld.PCI_VS_CFG.HPV v then s.hostPort v else 0xFF)

/-- A half of a bank: one x8 port in its lower position, or two x4 positions of width 4, 2, 1 or 0 for none (R44, R45).
[log: DEDUCED 142] -/
def halfOk (a b : Nat) : Bool := (a == 8 && b == 0) || ([0, 1, 2, 4].contains a && [0, 1, 2, 4].contains b)

/-- The bank of a port forms a configuration, and its roles fit the widths (R44 to R46, R596). [log: DEDUCED 142] -/
def Dev.bankOk (s : Dev) (es : List EntryWrite) (n : Nat) : Bool :=
  let w := fun p => s.finWidth es (n / 4 * 4 + p)
  let form := (w 0 == 16 && w 1 == 0 && w 2 == 0 && w 3 == 0) || (halfOk (w 0) (w 1) && halfOk (w 2) (w 3))
  form && (List.range 4).all fun p =>
    let r := s.finRole es (n / 4 * 4 + p)
    r == 3 || (w p != 0 && (r != 2 || decide (4 ≤ w p)))

/-- A fabric port keeps a rate of 64 or 128 GT/s (R596). -/
def Dev.rateOk (s : Dev) (es : List EntryWrite) (n : Nat) : Bool := s.finRole es n != 2 || decide (5 ≤ s.finRate es n)

/-- The records of R604 as a WRITE leaves them: record, VS, function, MiB; those of size 0 left out. [log: DEDUCED 144] -/
def Dev.finAllocs (s : Dev) (es : List EntryWrite) : List (Nat × Nat × Nat × Nat) :=
  let touched := (s.objs.map fun e => e.1 / 256) ++ es.map fun e => e.ref.index
  let ks := (List.range 1072).filter fun k => touched.contains (0xB400 + k)
  (ks.map fun k => (k, finNum es (0xB400 + k) 1 (s.onum (0xB400 + k) 1 0), finNum es (0xB400 + k) 2 (s.onum (0xB400 + k) 2 0),
    finNum es (0xB400 + k) 3 (s.onum (0xB400 + k) 3 0))).filter fun r => r.2.2.2 != 0

/-- Two records name one function, or the sum exceeds the engine area (R30, R604). -/
def Dev.allocBad (s : Dev) (es : List EntryWrite) : Bool :=
  let l := s.finAllocs es
  (l.any fun a => l.any fun b => a.1 != b.1 && a.2.1 == b.2.1 && a.2.2.1 == b.2.2.1) ||
    decide (memTop - engArea < sumOf l fun a => a.2.2.2 * 1048576)

/-- A run of the function a record names, before or after the WRITE (R604). -/
def Dev.allocRuns (s : Dev) (es : List EntryWrite) (k : Nat) : Bool :=
  let now_ := if s.onum (0xB400 + k) 3 0 = 0 then [] else [(s.onum (0xB400 + k) 1 0, s.onum (0xB400 + k) 2 0)]
  let new := ((s.finAllocs es).filter fun a => a.1 == k).map fun a => (a.2.1, a.2.2.1)
  (now_ ++ new).any fun f => !(s.runsOf f.1 f.2).isEmpty

/-! Lengths, ranges and states -/

/-- The lengths an OCTETS entry takes (R556, step 4). -/
def lengthBad (idx sub len : Nat) : Bool :=
  if idx = 0x1001 ∧ 3 ≤ sub ∧ sub ≤ 6 then len != 0 && len != 17
  else if idx = 0x7300 ∧ sub = 1 then decide (len < 40)
  else if idx = 0x8000 ∧ sub = 5 then len != 48
  else if idx = 0xA000 ∧ sub = 4 then len != 32
  else if 0xB100 ≤ idx ∧ idx < 0xB200 ∧ sub = 6 then len != 0 && len != 32
  else if 0xB200 ≤ idx ∧ idx < 0xB300 ∧ sub = 8 then len != 32
  else false

/-- An FSID or 0xFFFF for none. -/
def fsidBad (v : Nat) : Bool := decide (2048 ≤ v) && v != 0xFFFF

/-- The parts of a res_cmd value (R597). -/
abbrev resOp (v : Nat) : Nat := v / 2 ^ 56
abbrev resVs (v : Nat) : Nat := v / 2 ^ 48 % 256
abbrev resFn (v : Nat) : Nat := v / 2 ^ 32 % 65536
abbrev resVal (v : Nat) : Nat := v % 2 ^ 32

/-- Every function the switch presents: the PFs of the virtual switches that exist, and the VFs allocated to them.
[log: DEDUCED 62] -/
def Dev.allFns (s : Dev) : List Nat :=
  ((List.range 48).filter s.vsExists).flatMap fun v => (List.range (s.onum (0x5000 + v) 1 0 + 1)).map fun f => sfKey v f

/-- res_cmd beyond the free pool or a function's limits (R231, R597). [log: DEDUCED 62] -/
def Dev.resBad (s : Dev) (v : Nat) : Bool :=
  let op := resOp v
  let k := sfKey (resVs v) (resFn v)
  let n := resVal v
  if op = 0 ∨ 5 < op ∨ 48 ≤ resVs v ∨ 1024 < resFn v then true
  else if op = 1 then
    let held := s.fget Fld.SF_RES.QUEUES k
    decide ((if resFn v = 0 then 1024 else 64) < held + n) || decide (4096 < (s.sf.qs.filter fun e => e.2.owner.isSome).length + n)
  else if op = 2 then decide (((s.queuesOf (resVs v) (resFn v)).filter fun q => !s.fbit Fld.SF_Q_STAT.REVOKE_REQ q).length < n)
  else if op = 3 then
    n == 0 || decide ((if resFn v = 0 then 2048 else 64) < n) ||
      decide (4096 < (sumOf (s.allFns.filter fun j => j != k) fun j => s.fget Fld.SF_RES.VECTORS j) + n)
  else if op = 4 then decide (255 < n)
  else decide (16383 < n)

/-- margin_cmd outside the values of R268. [log: DEDUCED 46] -/
def Dev.marginBad (s : Dev) (n v : Nat) : Bool :=
  let dir := v / 256 % 256
  v / 2 ^ 24 == 0 || dir == 0 || decide (4 < dir) || decide ((if dir ≤ 2 then 32 else 64) < v / 65536 % 256) || decide (15 < v % 256) ||
    (s.isFabric n && decide (s.width n ≤ v % 256))

/-- The holder of a target lets a write of `len` more bytes pass (R591). -/
def Dev.loadOver (s : Dev) (idx len : Nat) : Bool := decide (loadCap idx < (s.load idx).off + len)

/-- A register value that reg_val writes: the status of R598, 0 where it is stored. [log: DEDUCED 165] -/
def Dev.regValStatus (s : Dev) (x : Sess) (v : Nat) : Nat :=
  let code := x.regSel / 2 ^ 24
  let off := x.regSel % 2 ^ 24
  let stuck : Bool := bitsOf ((s.blkWriteWhole .management code off v).rget .TM_REJ_WR_CNT 0) 47 0 != bitsOf (s.rget .TM_REJ_WR_CNT 0) 47 0
  if ¬ inMap code off then 0x0504
  else if code = 7 ∧ offStaged ≤ off then 0x0301
  else match regAt code off with
    | none => 0
    | some (.CL_SHARE, _, _) => if x.role = roleDealer ∨ x.role = roleSecurity then 0 else 0x0301
    | some (.ARB_HATCH, a, _) => if v.testBit Fld.ARB_HATCH.CTRL.lo = s.fbit Fld.ARB_HATCH.CTRL a then 0 else 0x0301
    | some (r, _, byte) =>
      if r = .RT_STAGE_STAT ∨ r = .DL_DRAIN_STAT then
        (if (regInfo r).fields.any fun f => f.acc == .RW1C && bitsOf (v * 2 ^ (8 * byte)) f.hi f.lo != 0 then 0x0301 else 0)
      else if mgmtBarred r then 0x0301
      else if stuck then 0x0401
      else 0

/-- A value out of the range of its entry (R556, step 5). [log: DEDUCED 143] -/
def Dev.rangeBad (s : Dev) (es : List EntryWrite) (x : Sess) (r : ObjRow) (idx sub : Nat) (v : OVal) : Bool :=
  let n := valNum v
  let b := valBytes v
  let low := n % 256
  let lim : Bool := match r.lim with
    | some l => decide (n < l.1) || decide (l.2 < n)
    | none => r.typ == .bool && decide (1 < n)
  lim ||
  (if idx = 0x2001 ∧ sub = 1 then low == 0 || decide (6 < low) || decide ((if low = 3 then 1 else 0) < n / 256)
   else if isLoadOff idx sub then decide (loadCap idx < n)
   else if isLoadData idx sub then s.loadOver idx b.length
   else if 0x3100 ≤ idx ∧ idx < 0x3130 then s.marginBad (idx - 0x3100) n
   else if 0x4000 ≤ idx ∧ idx < 0x4030 then
     let p := idx - 0x4000
     (if sub = 1 then n == 1 && s.finRole es p == 0 && !((List.range 48).any fun w => s.finHost es w == p)
      else if sub = 2 then !s.bankOk es p || !s.rateOk es p
      else if sub = 3 then !([0, 1, 2, 4, 8, 16] : List Nat).contains n || !s.bankOk es p
      else if sub = 4 then !s.rateOk es p
      else if sub = 7 then (s.slotOf p).isSome
      else false)
   else if 0x5000 ≤ idx ∧ idx < 0x5030 ∧ sub = 4 then n == 0 || decide (1000000 < n)
   else if 0x5000 ≤ idx ∧ idx < 0x5030 ∧ sub = 5 then
     n != 0xFF && (decide (48 ≤ n) || (List.range 48).any fun w => w != idx - 0x5000 && s.finHost es w == n)
   else if idx = 0x5100 then s.resBad n
   else if idx = 0x6000 ∧ sub = 1 then !inMap (n / 2 ^ 24) (n % 2 ^ 24)
   else if idx = 0x6000 ∧ sub = 2 then s.regValStatus x n == 0x0504
   else if (idx = 0x7000 ∧ sub = 1) ∨ (idx = 0x7100 ∧ sub = 3) then fsidBad n
   else if idx = 0x8000 ∧ sub = 5 then !curveOk b
   else if idx = 0x8000 ∧ (sub = 6 ∨ sub = 7) then
     decide (finNum es 0x8000 6 (s.onum 0x8000 6 4400) < finNum es 0x8000 7 (s.onum 0x8000 7 4100) + 100)
   else if 0x8200 ≤ idx ∧ idx < 0x8208 ∧ sub = 4 then low == 0
   else if isEvtClass idx then decide (1 ≤ n) && decide (n < 8)
   else if 0xA100 ≤ idx ∧ idx < 0xA110 ∧ sub = 1 then low == 0 || decide (3 < low) || (low == 2 && decide (3 < n / 256))
   else if idx = 0xA200 ∧ sub = 1 then low == 0 || decide (3 < low) || decide (4 < n / 256)
   else if 0xB100 ≤ idx ∧ idx < 0xB200 ∧ sub = 1 then low == 0 || decide (3 < low) || (low == 1 && decide (47 < n / 256))
   else if 0xB200 ≤ idx ∧ idx < 0xB300 ∧ (sub = 3 ∨ sub = 4) then
     let g := idx - 0xB200
     decide (finNum es idx 3 (s.fget Fld.CL_GRP_N.N g) ≤ finNum es idx 4 (s.fget Fld.CL_GRP_N.RANK g))
   else if 0xB200 ≤ idx ∧ idx < 0xB300 ∧ sub = 7 then fsidBad n
   else if 0xB200 ≤ idx ∧ idx < 0xB300 ∧ sub = 8 then (List.range 16).any fun j => fsidBad (leNat ((b.drop (2 * j)).take 2))
   else if 0xB400 ≤ idx ∧ idx < 0xB830 then s.allocBad es
   else false)

/-! State -/

/-- Whether a state command is legal (R564). [log: DEDUCED 154] -/
def Dev.stateLegal (s : Dev) (cmd : Nat) : Bool :=
  let st := s.svc.state
  if cmd = 1 then st == stMeasured && s.bootHold
  else if cmd = 2 then st == stActive
  else if cmd = 3 then st == stStandby || st == stDraining
  else if cmd = 4 then st == stMaintenance
  else if cmd = 5 then st == stDraining
  else true

/-- The write reaches a field that R28 keeps while its port, VS or group is enabled: it is counted (R632).
[log: DEDUCED 26, DEDUCED 199] -/
def Dev.keptByR28 (s : Dev) (es : List EntryWrite) (x : Sess) (idx sub n : Nat) : Bool :=
  if 0x4000 ≤ idx ∧ idx < 0x4030 ∧ 2 ≤ sub ∧ sub ≤ 4 then s.enabled (idx - 0x4000)
  else if 0x5000 ≤ idx ∧ idx < 0x5030 ∧ (sub = 1 ∨ sub = 2) then s.vsExists (idx - 0x5000) && s.enabled (s.hostPort (idx - 0x5000))
  else if 0x5000 ≤ idx ∧ idx < 0x5030 ∧ sub = 5 then
    let old := s.finHost [] (idx - 0x5000)
    old != n && (s.enabled old || s.enabled n)
  else if idx = 0x6000 ∧ sub = 2 then s.regValStatus x n == 0x0401
  else if 0xB200 ≤ idx ∧ idx < 0xB300 ∧ 2 ≤ sub then
    s.fbit Fld.CL_GRP_CTL.EN (idx - 0xB200) && !(es.any fun e => e.ref.index == idx && e.ref.sub == 1 && valNum e.val == 0)
  else false

/-- Who holds a load target: 0 the session, 0x0401 none, 0x0403 another session (R592). -/
def Dev.heldBy (s : Dev) (k : SessKey) (idx : Nat) : Nat :=
  match (s.load idx).holder with
  | none => 0x0401
  | some y => if y = k then 0 else 0x0403

/-- The load target of a CMD entry and the command's code: 1 OPEN, 2 COMMIT. -/
def loadCmd (idx sub n : Nat) : Option Nat :=
  if sub = 1 ∧ (idx = 0x3000 ∨ idx = 0xA200 ∨ (0xA100 ≤ idx ∧ idx < 0xA110) ∨ (0xB100 ≤ idx ∧ idx < 0xB200)) then some (n % 256) else none

/-- What the holding of a target says of a write of one of its entries: 0 it may pass. -/
def Dev.loadStatus (s : Dev) (k : SessKey) (idx sub n : Nat) : Nat :=
  if isLoadOff idx sub ∨ isLoadData idx sub then s.heldBy k idx
  else match loadCmd idx sub n with
    | some 1 => if s.heldBy k idx = 0x0403 then 0x0403 else 0
    | some 2 => s.heldBy k idx
    | _ => 0

/-- A command or store not legal in the present state, beyond the device states its entry lists (R556, step 6).
[log: DEDUCED 46, DEDUCED 141, DEDUCED 143, DEDUCED 199] -/
def Dev.stateBad (s : Dev) (es : List EntryWrite) (x : Sess) (idx sub : Nat) (v : OVal) : Bool :=
  let n := valNum v
  let low := n % 256
  s.keptByR28 es x idx sub n || s.loadStatus x.key idx sub n == 0x0401 ||
  (if idx = 0x2001 ∧ sub = 1 then !s.stateLegal low
   else if 0x3100 ≤ idx ∧ idx < 0x3130 then !s.blActive (idx - 0x3100)
   else if 0x4000 ≤ idx ∧ idx < 0x4030 then
     let p := idx - 0x4000
     (if sub = 5 then !s.isDevice p || (s.bindAt s.ap p).isNone
      else if sub = 7 then !s.isDevice p
      else false)
   else if 0x5000 ≤ idx ∧ idx < 0x5030 ∧ sub = 1 then
     decide (1024 < sumOf (List.range 48) fun w => finNum es (0x5000 + w) 1 (s.onum (0x5000 + w) 1 0))
   else if idx = 0x5100 then
     resOp n == 3 && (if resFn n = 0 then (s.sfn (resVs n) 0).msixCtl.testBit 15 else (s.sfn (resVs n) 0).sriov.testBit 0)
   else if 0x8200 ≤ idx ∧ idx < 0x8208 then s.slotState (idx - 0x8200) != 0
   else if 0xA100 ≤ idx ∧ idx < 0xA110 ∧ sub = 1 then low == 1 && (s.keySlot (idx - 0xA100)).state == 2
   else if idx = 0xA200 ∧ sub = 1 then
     low == 3 && some (s.imgCurrent (n / 256)) != (tfind s.trust.inUse (n / 256)).map fun u => u.copy
   else if 0xB100 ≤ idx ∧ idx < 0xB200 ∧ sub = 1 then
     let st := (s.prog (idx - 0xB100)).state
     (low == 1 && st != 0) || (low == 2 && st != 1) || (low == 3 && st != 1 && st != 3)
   else if 0xB400 ≤ idx ∧ idx < 0xB830 then s.allocRuns es (idx - 0xB400)
   else false)

/-- In FAULT only SECURITY writes, and MGMT_RESET (R566). -/
def Dev.faultBars (s : Dev) (x : Sess) (idx sub n : Nat) : Bool :=
  s.svc.state == stFault && s.roleFor x idx != roleSecurity && !(idx == 0x2001 && sub == 1 && n % 256 == 6)

/-! The check of a WRITE's entry -/

/-- The VS an OPEN of a program slot names. -/
def openVs (e : EntryWrite) : Option Nat :=
  if 0xB100 ≤ e.ref.index ∧ e.ref.index < 0xB200 ∧ e.ref.sub = 1 ∧ valNum e.val % 256 = 1 then some (valNum e.val / 256) else none

/-- The status of an entry of the WRITE `es`, `before` its entries in front of it (R556, R557); 0 when it passes. -/
def Dev.writeCheck (s : Dev) (es before : List EntryWrite) (x : Sess) (e : EntryWrite) : Nat :=
  let idx := e.ref.index
  let sub := e.ref.sub
  let n := valNum e.val
  if ¬ indexExists idx then 0x0501
  else match objRow idx sub with
    | none => 0x0502
    | some r =>
      let may := rightOf r.rights (s.roleFor x idx) true && s.inScope x.key idx sub (openVs e)
      let again := r.acc == .cmd && before.any fun f => f.ref.index == idx && f.ref.sub == sub
      let isReg := idx == 0x6000 && sub == 2
      firstBad [
        (!may || (isReg && s.regValStatus x n == 0x0301), 0x0301), (r.acc == .const || r.acc == .ro, 0x0303), (again, 0x0403),
        (!fitsTyp r.typ e.ref.typ e.val || lengthBad idx sub (valBytes e.val).length, 0x0503),
        (s.rangeBad es x r idx sub e.val, 0x0504),
        (!r.states.testBit s.svc.state || s.faultBars x idx sub n || s.stateBad es x idx sub e.val, 0x0401),
        ((r.acc == .cmd && (s.cmdSt idx sub).running) || s.loadStatus x.key idx sub n == 0x0403, 0x0403)]

end Sys2Proof.Machine
end

