-- ==== Sys2Proof/Machine/CmdAct.lean ====
section
/-! DEFINITION. What the entries of an accepted WRITE do (R558, R564 to R571, R591 to R604): the stores in frame order, the start of its
commands, and the action of each command. -/
namespace Sys2Proof.Machine

/-! Stores -/

/-- OPEN of a load target (R591): its staging area is the session's; a key slot or a program slot is LOADING (R506). -/
def Dev.openTarget (s : Dev) (k : SessKey) (idx n : Nat) : Dev :=
  let s1 := s.loadOpen idx k
  if 0xA100 ≤ idx ∧ idx < 0xA110 then { s1 with svc.keys := tmod {} s1.svc.keys (idx - 0xA100) fun y => { y with state := 1 } }
  else if 0xB100 ≤ idx ∧ idx < 0xB200 then
    { s1 with eng.progs := tmod {} s1.eng.progs (idx - 0xB100) fun p =>
        { p with state := 1, gen := (p.gen + 1) % 2 ^ 24, vs := n / 256, image := [], digest := [] } }
  else s1

/-- COMMIT of a load target takes its image and ends the holding; a program slot is MEASURING (R506, R591).
[log: DEDUCED 139] -/
def Dev.commitTarget (s : Dev) (idx : Nat) : Dev :=
  let b := (s.load idx).image
  let s1 := s.loadDrop idx
  if 0xB100 ≤ idx ∧ idx < 0xB200 then
    { s1 with eng.progs := tmod {} s1.eng.progs (idx - 0xB100) fun p => { p with state := 2, image := b } }
  else if 0xA100 ≤ idx ∧ idx < 0xA110 then { s1 with svc.keys := tmod {} s1.svc.keys (idx - 0xA100) fun y => { y with state := 0 } }
  else s1

/-- A command accepted (R568, R571): its RSEQ, what its OPEN or COMMIT does to its target, a report's snapshot (R649); and its action.
[log: DEDUCED 159] -/
def Dev.cmdStore (s : Dev) (k : SessKey) (idx sub : Nat) (v : OVal) : Dev × CmdAct :=
  let n := valNum v
  let s1 := s.cmdStart idx sub n
  match loadCmd idx sub n with
  | some 1 => (s1.openTarget k idx n, { idx := idx, sub := sub, val := v })
  | some 2 => (s1.commitTarget idx, { idx := idx, sub := sub, val := v, image := (s1.load idx).image })
  | _ => if idx = 0xA000 then ({ s1 with trust.pendReport := some (s1.reportOf (valBytes v)), trust.report := [] },
                               { idx := idx, sub := sub, val := v })
         else (s1, { idx := idx, sub := sub, val := v })

/-- A write of directed_send (R346): the packet leaves through the port its path names first, its TAG is remembered.
[log: DEDUCED 108] -/
def Dev.directedSend (s : Dev) (b : List Byte) : Dev :=
  let hops := byteN b 1
  let tags := s.rt.tags ++ [leNat ((b.drop 4).take 4)]
  let s1 := { s with rt.tags := tags.drop (tags.length - 64) }
  if hops = 0 ∨ 16 < hops then s1.count .RT_DIR_DROP 0 1 else s1.directedOut (byteN b 8) b

/-- A write of reg_val (R598). [log: DEDUCED 165] -/
def Dev.regValPut (s : Dev) (x : Sess) (v : Nat) : Dev :=
  let code := x.regSel / 2 ^ 24
  let off := x.regSel % 2 ^ 24
  match regAt code off with
  | some (.CL_SHARE, i, byte) =>
    let w := if byte = 0 then wrWhole 64 v else wrWord (s.rget .CL_SHARE i) 64 byte (v % 2 ^ 32)
    s.rset .CL_SHARE i (w.stored (regInfo .CL_SHARE) (s.rget .CL_SHARE i))
  | _ => s.blkWriteWhole .management code off v

/-- The stores that later entries of the same WRITE are judged by: load targets and reg_sel. -/
def Dev.putStaged (s : Dev) (k : SessKey) (idx sub : Nat) (v : OVal) : Option Dev :=
  if isLoadOff idx sub then some (s.modLoad idx fun l => { l with off := valNum v })
  else if isLoadData idx sub then some (s.loadData idx (valBytes v))
  else if idx = 0x6000 ∧ sub = 1 then some (s.modSess k fun y => { y with regSel := valNum v })
  else none

/-- A value stored (R557); the action of a CMD entry is returned. -/
def Dev.putEntry (s : Dev) (k : SessKey) (e : EntryWrite) : Dev × List CmdAct :=
  let idx := e.ref.index
  let sub := e.ref.sub
  if (objRow idx sub).map (·.acc) = some .cmd then let (s1, a) := s.cmdStore k idx sub e.val
                                                  (s1, [a])
  else match s.putStaged k idx sub e.val with
    | some s1 => (s1, [])
    | none =>
      if isWinOff idx sub then (s.modSess k fun y => { y with offs := tput 0 y.offs (objKey idx sub) (valNum e.val) }, [])
      else if idx = 0x6000 ∧ sub = 2 then
        (match s.sess? k with
         | some x => s.regValPut x (valNum e.val)
         | none => s, [])
      else if idx = 0x7300 then (s.directedSend (valBytes e.val), [])
      else if 0xB100 ≤ idx ∧ idx < 0xB200 then
        ({ s with eng.progs := tmod {} s.eng.progs (idx - 0xB100) fun p => { p with expect := valBytes e.val } }, [])
      else (s.objPut idx sub e.val, [])

/-- The state by which the next entry of a WRITE is judged. [log: DEDUCED 144] -/
def Dev.preview (s : Dev) (k : SessKey) (e : EntryWrite) : Dev :=
  if (objRow e.ref.index e.ref.sub).map (·.acc) = some .cmd then (s.cmdStore k e.ref.index e.ref.sub e.val).1
  else (s.putStaged k e.ref.index e.ref.sub e.val).getD s

/-- The entries in the order of their stores: frame order, but a port or group disabled first and enabled last. -/
def isSwitch (e : EntryWrite) (v : Nat) : Bool :=
  ((decide (0x4000 ≤ e.ref.index) && decide (e.ref.index < 0x4030)) || (decide (0xB200 ≤ e.ref.index) && decide (e.ref.index < 0xB300))) &&
    e.ref.sub == 1 && valNum e.val == v
/-- [log: DEDUCED 145] -/
def storeOrder (es : List EntryWrite) : List EntryWrite :=
  (es.filter fun e => isSwitch e 0) ++ (es.filter fun e => !isSwitch e 0 && !isSwitch e 1) ++ es.filter fun e => isSwitch e 1

/-! Device states (R564, R565) -/

/-- A state command ends with the state it has left. -/
def Dev.stateDone (s : Dev) (status : Nat) : Dev := s.cmdDone 0x2001 1 status (leBytes 1 s.svc.state)

/-- Every port disabled, MAINTENANCE entered. -/
def Dev.toMaintenance (s : Dev) : Dev :=
  let s1 := each extPorts s fun s n => portDisable n s
  (({ s1 with svc.maintain := none }).setDevState stMaintenance).stateDone 0

/-- The drain notice to the dealer (R564, KIND 0x07 of R387's table). -/
def Dev.drainNotice (s : Dev) : Dev :=
  s.toDealer ([(7 : Byte), 0] ++ leBytes 2 (if s.joined then s.fsid else 0xFFFF) ++ leBytes 8 s.serial ++ leBytes 8 s.ftime)

/-- MAINTAIN (R565): at once in STANDBY or when forced, queued flits then being discarded; else after the drain condition.
[log: DEDUCED 155] -/
def Dev.maintainAct (s : Dev) (force : Bool) : Dev :=
  if force then
    (each (tkeys s.fwd.pkts) s fun s pid => match s.pkt? pid with
      | some p => if p.sent < p.nfl then s.discard pid 8 else s
      | none => s).toMaintenance
  else if s.svc.state = stStandby then s.toMaintenance
  else { s with svc.maintain := some (s.now, s.onum 0x2002 1 1000 * tUs, s.now + s.onum 0x2002 2 10 * tSec) }

/-- The action of state_cmd. [log: DEDUCED 154, DEDUCED 156] -/
def Dev.stateAct (s : Dev) (n : Nat) : Dev :=
  let cmd := n % 256
  if ¬ s.stateLegal cmd then s.stateDone 0x0405
  else if cmd = 1 then (s.toStandby).stateDone 0
  else if cmd = 2 then ((s.setDevState stDraining).drainNotice).stateDone 0
  else if cmd = 3 then s.maintainAct (n / 256 == 1)
  else if cmd = 4 then (s.setDevState (if s.joined then stActive else stStandby)).stateDone 0
  else if cmd = 5 then (s.setDevState stActive).stateDone 0
  else s.bootEntry 5

/-! Load targets -/

/-- COMMIT of the equalisation table (R267, R595): into the copy not in force, then checked. -/
def Dev.eqCommitAct (s : Dev) (b : List Byte) : Dev :=
  let valid := s.fbit Fld.LN_TBL_STAT.VALID 0
  let old := s.fget Fld.LN_TBL_STAT.COPY 0
  let c := if valid then 1 - old else 0
  let s1 := if c = 0 then { s with ln.eqA := b } else { s with ln.eqB := b }
  if eqValid b ∧ (¬ valid ∨ s.fget Fld.LN_TBL_STAT.SEQ 0 < eqSeq b) then
    ((s1.eqInForce c valid).measureEq).cmdDone 0x3000 1 0 (leBytes 4 (eqSeq b))
  else (if valid then s1.fset Fld.LN_TBL_STAT.OTHER 0 (b2n (eqValid b)) else s1).cmdDone 0x3000 1 0x0504 []

/-- COMMIT and ERASE of a key slot (R602, R639). [log: DEDUCED 158] -/
def Dev.keyAct (s : Dev) (slot n : Nat) (b : List Byte) : Dev :=
  let idx := 0xA100 + slot
  let op := n % 256
  if op = 1 then s.cmdDone idx 1 0 []
  else if op = 2 then
    (if b.length ≠ 1952 then s.cmdDone idx 1 0x0503 []
     else
       let s1 := s.measure 4 6 slot (leBytes 1 slot ++ leBytes 1 (n / 256) ++ [1]) (shake256 b 32)
       ({ s1 with svc.keys := tmod {} s1.svc.keys slot fun k => { k with state := 2, role := n / 256, key := b } }).cmdDone idx 1 0 [])
  else
    let k := s.keySlot slot
    let s1 := if k.state = 2 then s.measure 4 6 slot (leBytes 1 slot ++ leBytes 1 k.role ++ [2]) [] else s.loadDrop idx
    let s2 := { s1 with svc.keys := tmod {} s1.svc.keys slot fun y => { ({} : KeySlot) with fails := y.fails, till := y.till } }
    let own := (s2.svc.sess.filter fun x => x.slot == slot && match x.key with
      | .udp _ => true
      | _ => false).map (·.key)
    (each own s2 fun s y => s.dropSess y).cmdDone idx 1 0 []

/-- COMMIT and RAISE_SVN of a firmware image (R651, R652). -/
def Dev.fwAct (s : Dev) (n : Nat) (b : List Byte) : Dev :=
  let kind := n / 256
  let op := n % 256
  if op = 1 then s.cmdDone 0xA200 1 0 []
  else if op = 2 then
    (if ¬ s.imgValid kind b then s.cmdDone 0xA200 1 0x0201 []
     else
       let c := 1 - ((tfind s.trust.inUse kind).map fun u => u.copy).getD (s.imgCurrent kind)
       let d := shake256 (imgMeasured b) 32
       let s1 := { s with trust.copies := tins s.trust.copies (2 * kind + c) b, trust.cur := setBit s.trust.cur kind (c == 1) }
       (s1.measure 6 6 kind (leBytes 4 (imgVersion b) ++ leBytes 4 (imgSvn b) ++ leBytes 1 c) d).cmdDone 0xA200 1 0
         (d ++ leBytes 4 (imgVersion b)))
  else
    let svn := ((tfind s.trust.inUse kind).map fun u => u.svn).getD 0
    let old := s.trust.minSvn.getD kind 0
    if svn ≤ old then s.cmdDone 0xA200 1 0 (leBytes 4 old)
    else (({ s with trust.minSvn := s.trust.minSvn.set kind svn }).measure 7 6 kind (leBytes 1 kind ++ leBytes 4 svn) []).cmdDone 0xA200 1 0
      (leBytes 4 svn)

/-- OPEN and RETIRE of a program slot (R506, R603); a COMMIT waits for its measurement. -/
def Dev.progAct (s : Dev) (slot n : Nat) : Dev :=
  let op := n % 256
  if op = 1 then s.cmdDone (0xB100 + slot) 1 0 []
  else if op = 2 then s
  else if (s.prog slot).state = 1 then ((s.loadDrop (0xB100 + slot)).emptySlot slot).cmdDone (0xB100 + slot) 1 0 []
  else { s with eng.progs := tmod {} s.eng.progs slot fun p => { p with state := 4, retireAt := s.engCyc } }

/-- A program image's header (R506) and its length. [log: DEDUCED 157] -/
def progFormed (b : List Byte) : Bool :=
  let words := leNat ((b.drop 8).take 4)
  decide (64 ≤ b.length) && leNat (b.take 4) == 0x5A50524D && leNat ((b.drop 4).take 2) == 1 && decide (leNat ((b.drop 6).take 2) < words) &&
    decide (words ≤ 32768) && decide (leNat ((b.drop 12).take 4) ≤ 1310720) && ((b.drop 16).take 16).all (· == 0) && b.length == 64 + 8 * words

/-! Resources (R232 to R237, R597) -/

/-- The lowest number below a bound that a test leaves free. -/
def lowest (n : Nat) (taken : Nat → Bool) : Nat := ((List.range n).find? fun i => !taken i).getD 0

/-- One queue added (R234): the lowest free local index, EN 0. -/
def Dev.addQueue (s : Dev) (vs fn : Nat) : Dev :=
  let q := lowest 4096 fun q => (s.sfq q).owner.isSome
  let l := lowest 1024 fun l => (s.localQ vs fn l).isSome
  let s1 := (s.modQ q fun x => { x with owner := some (vs, fn, l) }).queueReset q
  s1.fset Fld.SF_RES.QUEUES (sfKey vs fn) (s1.fget Fld.SF_RES.QUEUES (sfKey vs fn) + 1)

/-- The local index of a queue. -/
def Dev.localOf (s : Dev) (q : Nat) : Nat := ((s.sfq q).owner.map fun o => o.2.2).getD 0

/-- A queue asked back (R235): REVOKE_REQ and the grace; a queue that is already idle leaves. [log: DEDUCED 129] -/
def Dev.revokeQueue (s : Dev) (q vs : Nat) : Dev :=
  queueIdle q ((s.fset Fld.SF_Q_STAT.REVOKE_REQ q 1).modQ q fun x => { x with graceAt := some (s.now + s.onum (0x5000 + vs) 3 100 * tMs) })

/-- The action of res_cmd. [log: DEDUCED 61] -/
def Dev.resAct (s : Dev) (n : Nat) : Dev :=
  let vs := resVs n
  let fn := resFn n
  let k := sfKey vs fn
  let v := resVal n
  let done : Nat → Dev → Dev := fun x s => s.cmdDone 0x5100 1 0 (leBytes 4 x)
  if resOp n = 1 then
    let s1 := (each (List.range v) s fun s _ => s.addQueue vs fn).sfEvent vs fn Fld.SF_EVT.RES
    done (s1.fget Fld.SF_RES.QUEUES k) s1
  else if resOp n = 2 then
    let free := (s.queuesOf vs fn).filter fun q => !s.fbit Fld.SF_Q_STAT.REVOKE_REQ q
    let qs := ((free.mergeSort fun a b => decide (s.localOf b ≤ s.localOf a)).take v)
    if qs.isEmpty then done (s.fget Fld.SF_RES.QUEUES k) s
    else
      let s0 := s.sfEvent vs fn Fld.SF_EVT.RES
      each qs (each qs s0 fun s q => s.fset Fld.SF_Q_STAT.REVOKE_REQ q 1) fun s q => s.revokeQueue q vs
  else if resOp n = 3 then done v (s.fset Fld.SF_RES.VECTORS k v)
  else if resOp n = 4 then done v (s.fset Fld.SF_RES.ENG k v)
  else done v (s.fset Fld.SF_ID.FLOW k v)

/-! The action of a command -/

/-- dpc_cmd (R198, R596): 1 written to DPC Trigger Status of the bound vDSP; a port that is not contained is released already.
[log: DEDUCED 46] -/
def Dev.dpcAct (s : Dev) (n : Nat) : Dev :=
  match s.bindAt s.ap n with
  | some b => if s.dpcHeld b.vs b.vdsp then dpcTriggerStatusWrite b.vs b.vdsp s else s.cmdDone (0x4000 + n) 5 0 [1]
  | none => s.cmdDone (0x4000 + n) 5 0 [1]

/-- cut_cmd (R448): CUT with this id on the tree. [log: DEDUCED 160] -/
def Dev.cutAct (s : Dev) (id : Nat) : Dev :=
  s.dealDown { kind := 0x17, term := max s.dl.dealer.term (s.fget Fld.DL_DEAL_STAT.TERM 0), epoch := id }

/-- What an accepted command does. -/
def Dev.cmdDo (s : Dev) (a : CmdAct) : Dev :=
  let n := valNum a.val
  if ¬ (s.cmdSt a.idx a.sub).running then s
  else if a.idx = 0x2001 then s.stateAct n
  else if a.idx = 0x3000 then (if n = 1 then s.cmdDone 0x3000 1 0 [] else s.eqCommitAct a.image)
  else if 0x3100 ≤ a.idx ∧ a.idx < 0x3130 then { s with ln.margin := tins s.ln.margin (a.idx - 0x3100) (s.now, s.now + n / 2 ^ 24 * tMs) }
  else if 0x4000 ≤ a.idx ∧ a.idx < 0x4030 then
    (if a.sub = 5 then s.dpcAct (a.idx - 0x4000) else (s.pressAt (a.idx - 0x4000)).cmdDone a.idx 7 0 [])
  else if a.idx = 0x5100 then s.resAct n
  else if a.idx = 0x6000 then 
    s.commitWrite.cmdDone 0x6000 3 0 (leBytes 2 ((s.fget Fld.ARB_COMMIT.SEQ 0 + 1) % 65536))
  else if a.idx = 0x7200 then s.cutAct n
  else if a.idx = 0x8300 then ({ s with pe.flags := 0, pe.lastTrip := 0 }).cmdDone 0x8300 8 0 []
  else if a.idx = 0xA000 then s
  else if 0xA100 ≤ a.idx ∧ a.idx < 0xA110 then s.keyAct (a.idx - 0xA100) n a.image
  else if a.idx = 0xA200 then s.fwAct n a.image
  else if 0xB100 ≤ a.idx ∧ a.idx < 0xB200 then s.progAct (a.idx - 0xB100) n
  else
    let (k, s1) := s.clusterReset n
    s1.cmdDone 0xB900 1 0 (leBytes 2 k)

/-! Measurements in their order (R642) -/

/-- The program slot whose COMMIT a command is. -/
def CmdAct.program (a : CmdAct) : Option Nat :=
  if 0xB100 ≤ a.idx ∧ a.idx < 0xB200 ∧ valNum a.val % 256 = 2 then some (a.idx - 0xB100) else none

/-- The security island measures for a command: COMMIT of a table, a key, an image or a program, ERASE, RAISE_SVN. -/
def CmdAct.measures (a : CmdAct) : Bool :=
  let op := valNum a.val % 256
  a.program.isSome || (a.idx == 0x3000 && op == 2) || (((decide (0xA100 ≤ a.idx) && decide (a.idx < 0xA110)) || a.idx == 0xA200) && decide (2 ≤ op))

/-- The action of an accepted command: the measurements are made one at a time, in the order of acceptance (R642), and that of a program
takes until PROGRAM_MEASURED. -/
def Dev.cmdAct (s : Dev) (a : CmdAct) : Dev :=
  if a.measures && (a.program.isSome || !s.trust.jobs.isEmpty) then { s with trust.jobs := s.trust.jobs ++ [a] } else s.cmdDo a

/-- The measurements that wait, up to the next program's; `fuel` bounds their number. [log: DEDUCED 157] -/
def Dev.runJobs (s : Dev) : Nat → Dev
  | 0 => s
  | fuel + 1 => match s.trust.jobs with
    | [] => s
    | a :: t => if a.program.isSome then s else ({ s with trust.jobs := t }.cmdDo a).runJobs fuel

/-- What the measurement of a program ends in (R506 to R508, R603): ACTIVE once its digest is in the log, or EMPTY; EMPTY too where a
change of the device state has ended the COMMIT (R567). -/
def Dev.measureProgram (s : Dev) (slot : Nat) : Dev :=
  let p := s.prog slot
  let idx := 0xB100 + slot
  let d := shake256 p.image 32
  if ¬ (s.cmdSt idx 1).running then s.emptySlot slot
  else if ¬ progFormed p.image then (s.emptySlot slot).cmdDone idx 1 0x0101 []
  else if p.expect ≠ [] ∧ p.expect ≠ d then (s.emptySlot slot).cmdDone idx 1 0x0201 []
  else
    let handle := slot + 256 * p.gen
    let s1 := s.measure 5 7 slot (leBytes 4 handle ++ leBytes 1 p.vs ++ leBytes 4 (s.progWords slot)) d
    ({ s1 with eng.progs := tmod {} s1.eng.progs slot fun y => { y with state := 3, digest := d } }).cmdDone idx 1 0 (leBytes 4 handle ++ d)

/-- PROGRAM_MEASURED (R507, R642, R644): the program whose turn it is has been hashed; the measurements behind it follow.
[log: DEDUCED 157] -/
def programMeasured (slot : Nat) (s : Dev) : Dev :=
  match s.trust.jobs with
  | [] => s
  | a :: t =>
    if a.program = some slot ∧ (s.prog slot).state = 2 then ({ s with trust.jobs := t }.measureProgram slot).runJobs t.length else s

def execProgramMeasured (slot : Nat) (s : State) : Host.Outcome State Fault Refusal := s.act (programMeasured slot)

end Sys2Proof.Machine
end

