-- ==== Sys2Proof/Machine/Ikiup.lean ====
section
/-! DEFINITION. READ and WRITE (R555 to R559, R575), the commit of RWS values (R558), the commands of the dictionary, the events that
end their actions. -/
namespace Sys2Proof.Machine

/-! READ -/

/-- An entry shows or reaches registers, so that an access waits while another switch holds this register bus (R409). -/
def onBus (idx sub : Nat) : Bool :=
  (idx == 0x6000 && (sub == 2 || sub == 3)) || (decide (0x4000 ≤ idx) && decide (idx < 0x4030) && sub == 4) ||
    (decide (0x5000 ≤ idx) && decide (idx < 0x5030) && (sub == 2 || sub == 4 || sub == 5)) ||
    (decide (0xB200 ≤ idx) && decide (idx < 0xB400)) || (idx == 0x3000 && sub == 5) || (idx == 0x7000 && (sub == 4 || sub == 5))

/-- One pass over the entries of a READ (R559): the first failing status, the values, and what the reads do. -/
def Dev.readAll (s : Dev) (x : Sess) : List EntryRef → Nat × List Byte × Dev
  | [] => (0, [], s)
  | e :: t => match s.readCheck x e with
    | .inr st => (st, [], s)
    | .inl r =>
      let (st, v, s1) := s.entryRead x e.index e.sub r
      if st ≠ 0 then (st, [], s)
      else
        let (st2, b, s2) := s1.readAll x t
        (st2, encodeVal r.typ v ++ b, s2)

/-- The most bytes of a message (R574). [log: DEDUCED 148] -/
abbrev messageMax : Nat := 16384

/-- A READ is carried out and answered; one that fails has no effect. [log: DEDUCED 148] -/
def Dev.doRead (s : Dev) (h : ReqHdr) (es : List EntryRef) : Dev :=
  match s.open? h.sess with
  | none => s
  | some x =>
    if es.isEmpty ∨ 32 < es.length then s.answerReq h.sess svRead h.seq 0x0101 []
    else
      let (st, b, s1) := s.readAll x es
      if st ≠ 0 then s.answerReq h.sess svRead h.seq st []
      else if messageMax < b.length then s.answerReq h.sess svRead h.seq 0x0105 []
      else s1.answerReq h.sess svRead h.seq 0 b

/-- READ. -/
def Dev.serveRead (s : Dev) (h : ReqHdr) (es : List EntryRef) : Dev :=
  s.request h svRead fun s _ =>
    if s.xing.farLock.isSome ∧ es.any fun e => onBus e.index e.sub then { s with xing.mwWait := s.xing.mwWait ++ [.read h es] }
    else s.doRead h es
def read (h : ReqHdr) (es : List EntryRef) (s : Dev) : Dev := s.receive h (.read es)
def execRead (h : ReqHdr) (es : List EntryRef) (s : State) : Host.Outcome State Fault Refusal := s.act (read h es)

/-! WRITE -/

/-- The first failing entry of a WRITE and its status: each is judged after those before it have been staged (R557, R591).
[log: DEDUCED 140, DEDUCED 144] -/
def Dev.checkAll (s : Dev) (k : SessKey) (es before : List EntryWrite) : List EntryWrite → Option (Nat × EntryWrite × Nat)
  | [] => none
  | e :: t => match s.sess? k with
    | none => none
    | some x =>
      let st := s.writeCheck es before x e
      if st = 0 then (s.preview k e).checkAll k es (before ++ [e]) t else some (before.length + 1, e, st)

/-- The entries of a WRITE stored; the actions of its commands in frame order. [log: DEDUCED 145] -/
def Dev.storeAll (s : Dev) (k : SessKey) (es : List EntryWrite) : Dev × List CmdAct :=
  (storeOrder es).foldl (fun (a : Dev × List CmdAct) e =>
    let (s1, l) := a.1.putEntry k e
    (s1, a.2 ++ l)) (s, [])

/-- The RWS values of a WRITE, as flash will hold them. -/
def rwsVals (es : List EntryWrite) : Tbl OVal :=
  es.foldl (fun t e => if (objRow e.ref.index e.ref.sub).map (·.acc) = some .rws then tins t (objKey e.ref.index e.ref.sub) e.val else t) []

/-- The response body of an accepted WRITE: 0xFF, then the RSEQ of each command (R575). -/
def Dev.writeBody (s : Dev) (l : List CmdAct) : List Byte := (255 : Byte) :: l.flatMap fun a => leBytes 4 (s.cmdSt a.idx a.sub).rseq

/-- A WRITE is carried out: all of it or nothing (R557). Its response, and the actions of its commands, follow the commit of its RWS
values (R558); without such values they follow at once. [log: DEDUCED 140, DEDUCED 145, DEDUCED 146] -/
def Dev.doWrite (s : Dev) (h : ReqHdr) (es : List EntryWrite) : Dev :=
  let k := h.sess
  match s.open? k with
  | none => s
  | some x =>
    if es.isEmpty ∨ 32 < es.length then s.answerReq k svWrite h.seq 0x0101 []
    else match s.checkAll k es [] es with
      | some (pos, e, st) =>
        let kept := st == 0x0401 && s.keptByR28 es x e.ref.index e.ref.sub (valNum e.val)
        (if kept then s.rejected else s).answerReq k svWrite h.seq st (leBytes 1 pos)
      | none =>
        let (s1, acts) := s.storeAll k es
        let body := s1.writeBody acts
        let vals := rwsVals es
        if vals.isEmpty then each acts (s1.answerReq k svWrite h.seq 0 body) fun s a => s.cmdAct a
        else { s1 with svc.commits := s1.svc.commits ++ [{ sess := k, seq := h.seq, body := body, vals := vals, acts := acts }] }

/-- WRITE. -/
def Dev.serveWrite (s : Dev) (h : ReqHdr) (es : List EntryWrite) : Dev :=
  s.request h svWrite fun s _ =>
    if s.xing.farLock.isSome ∧ es.any fun e => onBus e.ref.index e.ref.sub then { s with xing.mwWait := s.xing.mwWait ++ [.write h es] }
    else s.doWrite h es
def write (h : ReqHdr) (es : List EntryWrite) (s : Dev) : Dev := s.receive h (.write es)
def execWrite (h : ReqHdr) (es : List EntryWrite) (s : State) : Host.Outcome State Fault Refusal := s.act (write h es)

/-! The management complex (R577) -/

/-- The service a request asks for. -/
def Dev.serve (s : Dev) (q : InReq) : Dev :=
  match q.req with
  | .read es => s.serveRead q.hdr es
  | .write es => s.serveWrite q.hdr es
  | .describe r => s.serveDescribe q.hdr r
  | .subscribe mask => s.serveSubscribe q.hdr mask
  | .notifyAck nseq => s.serveNotifyAck q.hdr nseq
  | .keepalive => s.serveKeepalive q.hdr
  | .close => s.serveClose q.hdr
  | .open_ slot body => s.serveOpen q.hdr slot body
  | .proof sig => s.serveProof q.hdr sig

/-- The place of a session among the requests of one core cycle: UDP, MCTP, mailbox, then its number (R577). -/
def sessRank (k : SessKey) : Nat × Nat :=
  match k with
  | .udp i => (0, i)
  | .mctp e => (1, e)
  | .mailbox v => (2, v)

/-- A request is taken no later than another of the same core cycle. -/
def InReq.first (a b : InReq) : Bool :=
  let x := sessRank a.hdr.sess
  let y := sessRank b.hdr.sess
  decide (x.1 < y.1) || (x.1 == y.1 && decide (x.2 ≤ y.2))

/-- A request put in its place behind those taken no later than it. -/
def InReq.insert (q : InReq) : List InReq → List InReq
  | [] => [q]
  | a :: t => if a.first q then a :: q.insert t else q :: a :: t

/-- The requests that a core cycle completed are carried out one at a time (R577), after the transitions of that cycle (R567).
[log: DEDUCED 232] -/
def Dev.serveRequests (s : Dev) : Dev :=
  if s.svc.inbox.isEmpty then s else each (s.svc.inbox.foldl (fun l q => q.insert l) []) { s with svc.inbox := [] } fun s q => s.serve q

/-- The values of the first commits, up to one, put into flash in their order. [log: DEDUCED 146] -/
def flashAll (flash : Tbl OVal) (l : List Commit) : Tbl OVal := l.foldl (fun t c => c.vals.foldl (fun t e => tins t e.1 e.2) t) flash

/-- RWS_FLASH_COMMIT (R558): a session's values are in flash, and those of every WRITE before it; its response, then its actions.
[log: DEDUCED 146] -/
def rwsFlashCommit (k : SessKey) (s : Dev) : Dev :=
  let l := s.svc.commits
  match l.findIdx? fun c => c.sess == k with
  | none => s
  | some i => match l[i]? with
    | none => s
    | some c =>
      let s1 := { s with flash := flashAll s.flash (l.take (i + 1)),
                         svc.commits := (l.take i).map (fun (c : Commit) => { c with vals := [] }) ++ l.drop (i + 1) }
      each c.acts (if c.live then s1.answerReq k svWrite c.seq 0 c.body else s1) fun s a => s.cmdAct a
def execRwsFlashCommit (k : SessKey) (s : State) : Host.Outcome State Fault Refusal := s.act (rwsFlashCommit k)

/-! The commands of the dictionary: a WRITE of one entry -/

/-- A WRITE of one number, or of bytes. -/
def writeNum (h : ReqHdr) (idx sub : Nat) (t : ObjTyp) (v : Nat) (s : Dev) : Dev :=
  write h [{ ref := { index := idx, sub := sub, typ := t.code }, val := .num v }] s
def writeBytes (h : ReqHdr) (idx sub : Nat) (b : List Byte) (s : Dev) : Dev :=
  write h [{ ref := { index := idx, sub := sub, typ := ObjTyp.octets.code }, val := .bytes b }] s

/-- CONTINUE (R564). -/
def continueCmd (h : ReqHdr) (s : Dev) : Dev := writeNum h 0x2001 1 .u16 1 s
def execContinueCmd (h : ReqHdr) (s : State) : Host.Outcome State Fault Refusal := s.act (continueCmd h)

/-- DRAIN (R564). -/
def drain (h : ReqHdr) (s : Dev) : Dev := writeNum h 0x2001 1 .u16 2 s
def execDrain (h : ReqHdr) (s : State) : Host.Outcome State Fault Refusal := s.act (drain h)

/-- MAINTAIN (R564, R565). -/
def maintain (h : ReqHdr) (force : Bool) (s : Dev) : Dev := writeNum h 0x2001 1 .u16 (if force then 0x0103 else 3) s
def execMaintain (h : ReqHdr) (force : Bool) (s : State) : Host.Outcome State Fault Refusal := s.act (maintain h force)

/-- RESUME (R564). -/
def resume (h : ReqHdr) (s : Dev) : Dev := writeNum h 0x2001 1 .u16 4 s
def execResume (h : ReqHdr) (s : State) : Host.Outcome State Fault Refusal := s.act (resume h)

/-- ABORT_DRAIN (R564). -/
def abortDrain (h : ReqHdr) (s : Dev) : Dev := writeNum h 0x2001 1 .u16 5 s
def execAbortDrain (h : ReqHdr) (s : State) : Host.Outcome State Fault Refusal := s.act (abortDrain h)

/-- MGMT_RESET (R564, R689). [log: DEDUCED 185] -/
def mgmtReset (h : ReqHdr) (s : Dev) : Dev := writeNum h 0x2001 1 .u16 6 s
def execMgmtReset (h : ReqHdr) (s : State) : Host.Outcome State Fault Refusal := s.act (mgmtReset h)

/-- The drain condition of R565. -/
def Dev.drained (s : Dev) (quiet : Nat) : Bool :=
  (extPorts.all fun n => !(s.enabled n && (s.isHost n || s.isDevice n))) && decide (s.svc.flitAt + quiet ≤ s.now)

/-- MAINTAIN_COMPLETE (R565). -/
def maintainComplete (s : Dev) : Dev :=
  match s.svc.maintain with
  | some (_, quiet, _) => if s.svc.state = stDraining ∧ s.drained quiet then s.toMaintenance else s
  | none => s
def execMaintainComplete (s : State) : Host.Outcome State Fault Refusal := s.act maintainComplete

/-- MAINTAIN_TIMEOUT (R565): maint_wait has passed first. -/
def maintainTimeout (s : Dev) : Dev :=
  match s.svc.maintain with
  | some (_, _, till) => if s.svc.state = stDraining ∧ till ≤ s.now then ({ s with svc.maintain := none }).stateDone 0x0406 else s
  | none => s
def execMaintainTimeout (s : State) : Host.Outcome State Fault Refusal := s.act maintainTimeout

/-- The subindex of a target's data entry; its offset entry lies before it (R591). -/
def loadSub (idx : Nat) : Nat := if 0xA100 ≤ idx ∧ idx < 0xA110 then 6 else if 0xB100 ≤ idx ∧ idx < 0xB200 then 8 else 4

/-- LOAD_DATA_WRITE (R591, R592). -/
def loadDataWrite (h : ReqHdr) (idx : Nat) (data : List Byte) (s : Dev) : Dev := writeBytes h idx (loadSub idx) data s
def execLoadDataWrite (h : ReqHdr) (idx : Nat) (data : List Byte) (s : State) : Host.Outcome State Fault Refusal :=
  s.act (loadDataWrite h idx data)

/-- LOAD_OFFSET_WRITE (R591, R592). -/
def loadOffsetWrite (h : ReqHdr) (idx off : Nat) (s : Dev) : Dev := writeNum h idx (loadSub idx - 1) .u32 off s
def execLoadOffsetWrite (h : ReqHdr) (idx off : Nat) (s : State) : Host.Outcome State Fault Refusal := s.act (loadOffsetWrite h idx off)

/-- EQ_OPEN and EQ_COMMIT (R267, R591, R595). -/
def eqOpen (h : ReqHdr) (s : Dev) : Dev := writeNum h 0x3000 1 .u8 1 s
def execEqOpen (h : ReqHdr) (s : State) : Host.Outcome State Fault Refusal := s.act (eqOpen h)
def eqCommit (h : ReqHdr) (s : Dev) : Dev := writeNum h 0x3000 1 .u8 2 s
def execEqCommit (h : ReqHdr) (s : State) : Host.Outcome State Fault Refusal := s.act (eqCommit h)

/-- MARGIN_CMD (R268). -/
def marginCmd (h : ReqHdr) (port v : Nat) (s : Dev) : Dev := writeNum h (0x3100 + port) 1 .u32 v s
def execMarginCmd (h : ReqHdr) (port v : Nat) (s : State) : Host.Outcome State Fault Refusal := s.act (marginCmd h port v)

/-- MARGIN_DONE (R268, R269): the dwell has passed; the bits sampled and the errors found. [log: DESIGN CHOICE 65] -/
def marginDone (port bits errs : Nat) (s : Dev) : Dev :=
  match tfind s.ln.margin port with
  | some (_, till) =>
    if s.now < till then s
    else ({ s with ln.margin := tdel s.ln.margin port }).cmdDone (0x3100 + port) 1 0 (leBytes 8 bits ++ leBytes 8 errs)
  | none => s
def execMarginDone (port bits errs : Nat) (s : State) : Host.Outcome State Fault Refusal := s.act (marginDone port bits errs)

/-- DPC_CMD and ATN_CMD (R198, R208). -/
def dpcCmd (h : ReqHdr) (port : Nat) (s : Dev) : Dev := writeNum h (0x4000 + port) 5 .u8 1 s
def execDpcCmd (h : ReqHdr) (port : Nat) (s : State) : Host.Outcome State Fault Refusal := s.act (dpcCmd h port)
def atnCmd (h : ReqHdr) (port : Nat) (s : Dev) : Dev := writeNum h (0x4000 + port) 7 .u8 1 s
def execAtnCmd (h : ReqHdr) (port : Nat) (s : State) : Host.Outcome State Fault Refusal := s.act (atnCmd h port)

/-- A res_cmd value of its parts (R597). -/
def resWord (op vs fn v : Nat) : Nat := op * 2 ^ 56 + vs * 2 ^ 48 + fn * 2 ^ 32 + v

/-- RES_ADD_QUEUES (R234). -/
def resAddQueues (h : ReqHdr) (vs fn v : Nat) (s : Dev) : Dev := writeNum h 0x5100 1 .u64 (resWord 1 vs fn v) s
def execResAddQueues (h : ReqHdr) (vs fn v : Nat) (s : State) : Host.Outcome State Fault Refusal := s.act (resAddQueues h vs fn v)

/-- RES_REVOKE_QUEUES (R235). -/
def resRevokeQueues (h : ReqHdr) (vs fn v : Nat) (s : Dev) : Dev := writeNum h 0x5100 1 .u64 (resWord 2 vs fn v) s
def execResRevokeQueues (h : ReqHdr) (vs fn v : Nat) (s : State) : Host.Outcome State Fault Refusal := s.act (resRevokeQueues h vs fn v)

/-- RES_SET_VECTORS (R232). -/
def resSetVectors (h : ReqHdr) (vs fn v : Nat) (s : Dev) : Dev := writeNum h 0x5100 1 .u64 (resWord 3 vs fn v) s
def execResSetVectors (h : ReqHdr) (vs fn v : Nat) (s : State) : Host.Outcome State Fault Refusal := s.act (resSetVectors h vs fn v)

/-- RES_SET_ENGINE_WEIGHT (R236). -/
def resSetEngineWeight (h : ReqHdr) (vs fn v : Nat) (s : Dev) : Dev := writeNum h 0x5100 1 .u64 (resWord 4 vs fn v) s
def execResSetEngineWeight (h : ReqHdr) (vs fn v : Nat) (s : State) : Host.Outcome State Fault Refusal := s.act (resSetEngineWeight h vs fn v)

/-- RES_SET_FLOW (R237). -/
def resSetFlow (h : ReqHdr) (vs fn v : Nat) (s : Dev) : Dev := writeNum h 0x5100 1 .u64 (resWord 5 vs fn v) s
def execResSetFlow (h : ReqHdr) (vs fn v : Nat) (s : State) : Host.Outcome State Fault Refusal := s.act (resSetFlow h vs fn v)

/-- SCHED_COMMIT (R123). -/
def schedCommit (h : ReqHdr) (s : Dev) : Dev := writeNum h 0x6000 3 .u8 1 s
def execSchedCommit (h : ReqHdr) (s : State) : Host.Outcome State Fault Refusal := s.act (schedCommit h)

/-- REG_VAL_WRITE (R598). -/
def regValWrite (h : ReqHdr) (v : Nat) (s : Dev) : Dev := writeNum h 0x6000 2 .u64 v s
def execRegValWrite (h : ReqHdr) (v : Nat) (s : State) : Host.Outcome State Fault Refusal := s.act (regValWrite h v)

/-- CUT_CMD (R448). -/
def cutCmd (h : ReqHdr) (id : Nat) (s : Dev) : Dev := writeNum h 0x7200 1 .u16 id s
def execCutCmd (h : ReqHdr) (id : Nat) (s : State) : Host.Outcome State Fault Refusal := s.act (cutCmd h id)

/-- DIRECTED_SEND (R346). -/
def directedSend (h : ReqHdr) (b : List Byte) (s : Dev) : Dev := writeBytes h 0x7300 1 b s
def execDirectedSend (h : ReqHdr) (b : List Byte) (s : State) : Host.Outcome State Fault Refusal := s.act (directedSend h b)

/-- KEY_OPEN, KEY_COMMIT and KEY_ERASE (R602, R639). -/
def keyOpen (h : ReqHdr) (slot : Nat) (s : Dev) : Dev := writeNum h (0xA100 + slot) 1 .u16 1 s
def execKeyOpen (h : ReqHdr) (slot : Nat) (s : State) : Host.Outcome State Fault Refusal := s.act (keyOpen h slot)
def keyCommit (h : ReqHdr) (slot role : Nat) (s : Dev) : Dev := writeNum h (0xA100 + slot) 1 .u16 (2 + 256 * role) s
def execKeyCommit (h : ReqHdr) (slot role : Nat) (s : State) : Host.Outcome State Fault Refusal := s.act (keyCommit h slot role)
def keyErase (h : ReqHdr) (slot : Nat) (s : Dev) : Dev := writeNum h (0xA100 + slot) 1 .u16 3 s
def execKeyErase (h : ReqHdr) (slot : Nat) (s : State) : Host.Outcome State Fault Refusal := s.act (keyErase h slot)

/-- REPORT_CMD (R649). -/
def reportCmd (h : ReqHdr) (nonce : List Byte) (s : Dev) : Dev := writeBytes h 0xA000 4 nonce s
def execReportCmd (h : ReqHdr) (nonce : List Byte) (s : State) : Host.Outcome State Fault Refusal := s.act (reportCmd h nonce)

/-- PROG_OPEN, PROG_COMMIT and PROG_RETIRE (R506, R603). -/
def progOpen (h : ReqHdr) (slot vs : Nat) (s : Dev) : Dev := writeNum h (0xB100 + slot) 1 .u16 (1 + 256 * vs) s
def execProgOpen (h : ReqHdr) (slot vs : Nat) (s : State) : Host.Outcome State Fault Refusal := s.act (progOpen h slot vs)
def progCommit (h : ReqHdr) (slot : Nat) (s : Dev) : Dev := writeNum h (0xB100 + slot) 1 .u16 2 s
def execProgCommit (h : ReqHdr) (slot : Nat) (s : State) : Host.Outcome State Fault Refusal := s.act (progCommit h slot)
def progRetire (h : ReqHdr) (slot : Nat) (s : Dev) : Dev := writeNum h (0xB100 + slot) 1 .u16 3 s
def execProgRetire (h : ReqHdr) (slot : Nat) (s : State) : Host.Outcome State Fault Refusal := s.act (progRetire h slot)

/-- FW_OPEN, FW_COMMIT and RAISE_SVN (R651, R652). -/
def fwOpen (h : ReqHdr) (kind : Nat) (s : Dev) : Dev := writeNum h 0xA200 1 .u16 (1 + 256 * kind) s
def execFwOpen (h : ReqHdr) (kind : Nat) (s : State) : Host.Outcome State Fault Refusal := s.act (fwOpen h kind)
def fwCommit (h : ReqHdr) (kind : Nat) (s : Dev) : Dev := writeNum h 0xA200 1 .u16 (2 + 256 * kind) s
def execFwCommit (h : ReqHdr) (kind : Nat) (s : State) : Host.Outcome State Fault Refusal := s.act (fwCommit h kind)
def raiseSvn (h : ReqHdr) (kind : Nat) (s : Dev) : Dev := writeNum h 0xA200 1 .u16 (3 + 256 * kind) s
def execRaiseSvn (h : ReqHdr) (kind : Nat) (s : State) : Host.Outcome State Fault Refusal := s.act (raiseSvn h kind)

/-- PE_CLEAR (R688). -/
def peClear (h : ReqHdr) (s : Dev) : Dev := writeNum h 0x8300 8 .u8 1 s
def execPeClear (h : ReqHdr) (s : State) : Host.Outcome State Fault Refusal := s.act (peClear h)

/-- CLUSTER_RESET (R700). -/
def clusterReset (h : ReqHdr) (c : Nat) (s : Dev) : Dev := writeNum h 0xB900 1 .u8 c s
def execClusterReset (h : ReqHdr) (c : Nat) (s : State) : Host.Outcome State Fault Refusal := s.act (clusterReset h c)

end Sys2Proof.Machine
end

