-- ==== Sys2Proof/Machine/Access.lean ====
section
/-! DEFINITION. Accesses to registers and LPDDR4X: by a plane (R14, R29, R30, R722), through the management window and its locks (R407
to R410, R419, R420, R427, R729), in directed packets (R345, R346). -/
namespace Sys2Proof.Machine

/-! Registers -/

/-- A write of a register or of one of its words; the data plane's writes are those of drivers through the BARs, the other planes'
go by block and offset (R26, R224, R598). -/
def Dev.planeWrite (s : Dev) (p : Plane) (a : RegAddr) (part : RegPart) (v : Nat) : Dev :=
  match a with
  | .blk code off =>
    if p = .data then s
    else match part with
      | .whole => s.blkWriteWhole p code off v
      | .low => s.blkWrite p code off (v % 2 ^ 32)
      | .high => s.blkWrite p code (off + 4) (v % 2 ^ 32)
  | .bar vs fn b off =>
    if p ≠ .data then s
    else match part with
      | .low => s.barWrite vs fn b off (v % 2 ^ 32)
      | .high => s.barWrite vs fn b (off + 4) (v % 2 ^ 32)
      | .whole =>
        match s.barAt vs fn b off with
        | .reg r inst 0 =>
          if s.barOpen vs fn ∧ (regInfo r).width = 64 then s.sfPut vs fn r inst (wrWhole 64 v) else s.barWrite vs fn b off (v % 2 ^ 32)
        | _ => s.barWrite vs fn b off (v % 2 ^ 32)

/-- A read of a register: its value, and what the read does (R14). -/
def Dev.planeRead (s : Dev) (p : Plane) (a : RegAddr) : Nat × Dev :=
  match a with
  | .blk code off => if p = .data then (0, s) else s.blkReadWhole code off
  | .bar vs fn b off =>
    if p ≠ .data then (0, s)
    else match s.barAt vs fn b off with
      | .reg r inst 0 =>
        if s.barOpen vs fn ∧ (regInfo r).width = 64 then (s.regRead r inst, s.regAfterRead r inst) else s.barRead vs fn b off
      | _ => s.barRead vs fn b off

def Dev.doCoreRead (s : Dev) (p : Plane) (a : RegAddr) : Dev :=
  let (v, s1) := s.planeRead p a
  s1.emit (.regRead v)

/-- Whether an access goes over the register bus that a lock of R409 holds: a core's, not a driver's through a BAR. -/
def RegAddr.onRegBus : RegAddr → Bool
  | .blk _ _ => true
  | .bar _ _ _ _ => false

/-- An access waits while another switch holds the lock on this register bus (R409). [log: DESIGN CHOICE 33] -/
def Dev.park (s : Dev) (x : BusAcc) : Dev := { s with xing.mwWait := s.xing.mwWait ++ [x] }

/-- The plane whose core an access waits for. -/
def BusAcc.plane? : BusAcc → Option Plane
  | .core p _ _ _ => some p
  | .coreRead p _ => some p
  | _ => none

/-- A core's near bus is held: a read of its own through the management window has no response yet (R407). -/
def Dev.nearHeld (s : Dev) (p : Plane) : Bool := s.xing.mwOut.any fun o => o.use == .core p && (o.op == 0 || o.op == 2)

/-- A core's access waits: for the lock on the register bus (R409), for its near bus (R407), or behind its own accesses that wait. -/
def Dev.portHeld (s : Dev) (p : Plane) (a : RegAddr) : Bool :=
  RegAddr.onRegBus a && (s.xing.farLock.isSome || s.nearHeld p || s.xing.mwWait.any fun x => x.plane? == some p)

/-- REGISTER_WRITE (R10 to R14, R28). -/
def registerWrite (p : Plane) (a : RegAddr) (part : RegPart) (v : Nat) (s : Dev) : Dev :=
  if s.portHeld p a then s.park (.core p a part v) else s.planeWrite p a part v

def execRegisterWrite (p : Plane) (a : RegAddr) (part : RegPart) (v : Nat) (s : State) : Host.Outcome State Fault Refusal :=
  s.act (registerWrite p a part v)

/-- RC_READ (R14): the value as it was, then what the read clears or reloads. -/
def rcRead (p : Plane) (a : RegAddr) (s : Dev) : Dev :=
  if s.portHeld p a then s.park (.coreRead p a) else s.doCoreRead p a

def execRcRead (p : Plane) (a : RegAddr) (s : State) : Host.Outcome State Fault Refusal := s.act (rcRead p a)

/-- The record of an event in a first-event record that has just been cleared: VALID 1, MORE 0, the event's details (R722). The EN_FAULT
record has no MORE bit. -/
def recordWord (r : Reg) (v : Nat) : Nat :=
  let w := (regInfo r).width
  let v1 := (regInfo r).fields.foldl (fun x f => setBitsOf x f.hi f.lo (bitsOf v f.hi f.lo)) 0
  let v2 := setBit v1 (w - 1) true
  if r = .EN_FAULT then v2 else setBit v2 (w - 2) false

/-- FIRST_EVENT_RECORD_CLEAR (R722): the record cleared; an event of the same cycle, with the details it brings for the record's first
and second register, is recorded after the clear. [log: DEDUCED 29] -/
def firstEventRecordClear (r : Reg) (inst : Nat) (ev : Option (Nat × Nat)) (s : Dev) : Dev :=
  let n := (regInfo r).n1 * (regInfo r).n2
  if eventRecord r ∧ inst < n then
    let s1 := s.clearRecord r inst
    match ev with
    | none => s1
    | some (a, b) =>
      let s2 := s1.rset r inst (recordWord r a)
      match eventTwin r with
      | some t => s2.rset t inst ((regInfo t).fields.foldl (fun x f => setBitsOf x f.hi f.lo (bitsOf b f.hi f.lo)) 0)
      | none => s2
  else s

def execFirstEventRecordClear (r : Reg) (inst : Nat) (ev : Option (Nat × Nat)) (s : State) : Host.Outcome State Fault Refusal :=
  s.act (firstEventRecordClear r inst ev)

/-! LPDDR4X (R29, R30) -/

/-- LPDDR4X_ACCESS (R29): the bytes written, or read; a blocked write writes nothing, a blocked read returns 0.
[log: DEDUCED 28] -/
def lpddr4xAccess (p : Plane) (write : Bool) (addr len : Nat) (data : List Byte) (s : Dev) : Dev :=
  let n := if write then data.length else len
  match memBlocked p write addr n with
  | some (k, a) =>
    let s1 := s.memViolation p write k a
    if write then s1 else s1.emit (.memRead (List.replicate n 0))
  | none => if write then s.memWrite addr data else s.emit (.memRead (s.memRead addr n))

/-- [log: DEDUCED 11] -/
def execLpddr4xAccess (p : Plane) (write : Bool) (addr len : Nat) (data : List Byte) (s : State) : Host.Outcome State Fault Refusal :=
  if s.dev.svc.state ≠ 0 ∧ memTop < addr + (if write then data.length else len) then .fault (.noSuchAddress addr)
  else s.act (lpddr4xAccess p write addr len data)

/-! The management window -/

/-- The requester of a directed request, which no FSID names. [log: DESIGN CHOICE 37] -/
abbrev dirSrc : Nat := 2048

/-- The answer to a request: a control packet of KIND 0x12 (R407). -/
def mwAnswerBytes (id status data : Nat) : List Byte :=
  [(0x12 : Byte), BitVec.ofNat 8 status] ++ leBytes 2 id ++ leBytes 4 0 ++ leBytes 4 data
def Dev.mwRespond (s : Dev) (src id status data : Nat) : Dev := s.ctlPacket (src * 64 + 52) (mwAnswerBytes id status data)

/-- A write of one word by the register responder (R408): an acknowledgement of the stream toward the requester, a FENCE or SKIP
write, or a register's word. [log: DEDUCED 27] -/
def Dev.mwStore (s : Dev) (src code off data : Nat) : Nat × Dev :=
  if code = 8 ∧ 0x10000 ≤ off ∧ off < 0x20000 then
    let k := (off - 0x10000) / 4
    if k / 8 ≠ src then (3, s) else (0, e2eAckReceive (k / 8) (k % 8) (data % seqMod) s)
  else if code = 8 ∧ 0x20000 ≤ off ∧ off < 0x30000 then
    let k := (off - 0x20000) / 4
    let kind := bitsOf data 31 30
    (0, if kind = 1 then fenceWrite (k / 8) (k % 8) src (data % seqMod) s
        else if kind = 2 then skipWrite (k / 8) (k % 8) src (data % seqMod) s else s)
  else (0, s.blkWrite .control code off data)

/-- One access of the register responder: its status, its data, and what it does. [log: DEDUCED 27] -/
def Dev.mwAccess (s : Dev) (src op addr data : Nat) : Nat × Nat × Dev :=
  let code := addr / 2 ^ 24 % 256
  let off := addr % 2 ^ 24
  if ¬ inMap code off then (3, 0, s)
  else if op = 1 ∨ op = 3 then
    let (st, s1) := s.mwStore src code off (data % 2 ^ 32)
    (st, 0, s1)
  else
    let (v, s1) := s.blkRead code off
    (0, v, s1)

/-- An access whose turn it is, with the lock it takes or gives back (R409): an unlock-write of a requester that holds no lock ends with
RETRY. [log: DEDUCED 34] -/
def Dev.mwServe (s : Dev) (src op addr data : Nat) : Nat × Nat × Dev :=
  if op = 3 then
    if s.xing.farLock.any fun l => l.1 == src then ({ s with xing.farLock := none }).mwAccess src op addr data else (1, 0, s)
  else
    let (st, v, s1) := s.mwAccess src op addr data
    if op = 2 ∧ st = 0 then
      (st, v, { s1 with xing.farLock := some (src, s.now + s.fget Fld.XB_FTO.US 48 * tUs) })
    else (st, v, s1)

/-- A request served and answered. -/
def Dev.mwDo (s : Dev) (src id op addr data : Nat) : Dev :=
  let (st, v, s1) := s.mwServe src op addr data
  s1.mwRespond src id st v

/-- A directed request served and answered along the reversed path (R346). -/
def Dev.directedDo (s : Dev) (c : List Byte) : Dev :=
  let (st, v, s1) := s.mwServe dirSrc (byteN c 41) (leNat ((c.drop 44).take 4)) (leNat ((c.drop 48).take 4))
  s1.sendReply c 9 (mwAnswerBytes (leNat ((c.drop 42).take 2)) st v)

/-- A waiting access carried out. [log: DESIGN CHOICE 33] -/
def Dev.busServe (s : Dev) (x : BusAcc) : Dev :=
  match x with
  | .mw src id op addr data => s.mwDo src id op addr data
  | .directed _ c => s.directedDo c
  | .core p a part v => s.planeWrite p a part v
  | .coreRead p a => s.doCoreRead p a
  | .read h es => s.doRead h es
  | .write h es => s.doWrite h es

/-- The waiting accesses in their order, but for those of a core whose near bus is held, until one takes the lock again.
[log: DESIGN CHOICE 33] -/
def Dev.busDrain (s : Dev) : Nat → Dev
  | 0 => s
  | n + 1 =>
    if s.xing.farLock.isSome then s
    else
      let stays := fun (x : BusAcc) => x.plane?.any s.nearHeld
      match s.xing.mwWait.dropWhile stays with
      | [] => s
      | x :: t => (({ s with xing.mwWait := s.xing.mwWait.takeWhile stays ++ t }).busServe x).busDrain n

/-- [log: DESIGN CHOICE 33] -/
def Dev.busFree (s : Dev) : Dev := s.busDrain s.xing.mwWait.length

/-- Whether an access of a requester must wait (R409): another holds the lock. -/
def Dev.busHeld (s : Dev) (src : Nat) : Bool := s.xing.farLock.any fun l => l.1 != src

/-- A request of the management window arrives. -/
def Dev.mwRequest (s : Dev) (src id op addr data : Nat) : Dev :=
  if s.busHeld src then s.park (.mw src id op addr data) else (s.mwDo src id op addr data).busFree

/-- MW_READ and MW_WRITE (R408, R729). -/
def mwRead (src id addr : Nat) (s : Dev) : Dev := s.mwRequest src id 0 addr 0
def execMwRead (src id addr : Nat) (s : State) : Host.Outcome State Fault Refusal := s.act (mwRead src id addr)
def mwWrite (src id addr data : Nat) (s : Dev) : Dev := s.mwRequest src id 1 addr data
def execMwWrite (src id addr data : Nat) (s : State) : Host.Outcome State Fault Refusal := s.act (mwWrite src id addr data)

/-- This switch holds, or has requested, the lock on a switch's register bus (R410). [log: DEDUCED 35] -/
def Dev.lockOn (s : Dev) (f : Nat) : Bool :=
  s.xing.held.contains f || s.xing.mwOut.any fun o => o.dst == f && o.op == 2

/-- This switch yields to another (R410): its pending lock-read ends with RETRY; a lock it holds is withdrawn, and the next access of
the sequence ends with RETRY. [log: DEDUCED 35] -/
def Dev.yieldTo (s : Dev) (f : Nat) : Dev :=
  let waiting := s.xing.mwOut.filter fun o => o.dst == f && o.op == 2
  let held := s.xing.held.contains f
  let s1 := { s with xing.mwOut := s.xing.mwOut.filter fun o => !(o.dst == f && o.op == 2),
                     xing.held := s.xing.held.filter (· != f),
                     xing.yields := if held then s.xing.yields ++ [f] else s.xing.yields }
  let s2 := each waiting s1 fun s _ => s.emit (.mwData 1 0)
  s2.count .XB_MW_RETRY_CNT 0 (waiting.length + b2n held)

/-- MW_LOCK_READ (R409, R410). [log: DEDUCED 34, DEDUCED 35] -/
def mwLockRead (src id addr : Nat) (s : Dev) : Dev :=
  if s.lockOn src then
    if s.fsid < src then (s.yieldTo src).mwRequest src id 2 addr 0 else s.mwRespond src id 1 0
  else s.mwRequest src id 2 addr 0
def execMwLockRead (src id addr : Nat) (s : State) : Host.Outcome State Fault Refusal := s.act (mwLockRead src id addr)

/-- MW_UNLOCK_WRITE (R409). [log: DEDUCED 34] -/
def mwUnlockWrite (src id addr data : Nat) (s : Dev) : Dev := s.mwRequest src id 3 addr data
def execMwUnlockWrite (src id addr data : Nat) (s : State) : Host.Outcome State Fault Refusal := s.act (mwUnlockWrite src id addr data)

/-- MW_LOCK_TIMEOUT (R409): the unlock-write has not arrived in time, the lock is withdrawn. -/
def mwLockTimeout (s : Dev) : Dev :=
  match s.xing.farLock with
  | some (_, till) =>
    if s.now < till then s else (({ s with xing.farLock := none }).count .XB_LOCK_BRK_CNT 0 1).busFree
  | none => s
def execMwLockTimeout (s : State) : Host.Outcome State Fault Refusal := s.act mwLockTimeout

/-- DIRECTED_MW_REQUEST (R346): served as a routed request is, answered along the reversed path. [log: DESIGN CHOICE 37] -/
def directedMwRequest (port : Nat) (b : List Byte) (s : Dev) : Dev :=
  s.directedEnd port 8 b fun s c =>
    if byteN c 40 ≠ 0x11 ∨ 3 < byteN c 41 then s
    else if s.busHeld dirSrc then s.park (.directed port c)
    else (s.directedDo c).busFree
def execDirectedMwRequest (port : Nat) (b : List Byte) (s : State) : Host.Outcome State Fault Refusal := s.act (directedMwRequest port b)

end Sys2Proof.Machine
end

