-- ==== Sys2Proof/Machine/Cfg.lean ====
section
/-! DEFINITION. Configuration requests (R182 to R186, R189, R194, R199, R203, R205, R217 to R223, R244, R362, R367, R703): the configuration
space of the USP, of the vDSPs, of the service function and its VFs, and what a write of it starts. Fields the spec does not list
stand as PCI Express places them; those PCI Express leaves to an implementation are free constants of Config. -/
namespace Sys2Proof.Machine

/-! Words and writes -/

/-- A write of a configuration dword: the dword it would leave, the bits it writes 1, the bits it covers. -/
structure CfgWr where
  new : Nat
  ones : Nat
  mask : Nat

/-- The bits of the bytes that are enabled. -/
def beMask (be : Nat) : Nat := (List.range 4).foldl (fun m i => if be.testBit i then m + 255 * 256 ^ i else m) 0

/-- A write with byte enables over the present dword. [log: PRESUMED 48] -/
def cfgWr (old v be : Nat) : CfgWr :=
  let m := beMask be
  ⟨(old &&& (0xFFFFFFFF ^^^ m)) ||| (v &&& m), v &&& m, m⟩

/-- Writable bits stored, bits cleared by 1s. -/
def rwBits (old new w : Nat) : Nat := (old &&& (0xFFFFFFFF ^^^ w)) ||| (new &&& w)
/-- [log: PRESUMED 48] -/
def w1c (old ones w : Nat) : Nat := old ^^^ (old &&& ones &&& w)

def CfgWr.lo (x : CfgWr) : Nat := x.new % 65536
def CfgWr.hi (x : CfgWr) : Nat := x.new / 65536
def CfgWr.onesHi (x : CfgWr) : Nat := x.ones / 65536
def CfgWr.hasLo (x : CfgWr) : Bool := x.mask % 65536 != 0
def CfgWr.hasHi (x : CfgWr) : Bool := x.mask / 65536 != 0

/-- A dword of two words. -/
def dw (hi lo : Nat) : Nat := hi % 65536 * 65536 + lo % 65536

/-- The other writable words of a function. -/
def PortFn.oth (f : PortFn) (off : Nat) : Nat := tget 0 f.other (off / 4)
def PortFn.setOth (f : PortFn) (off v : Nat) : PortFn := { f with other := tput 0 f.other (off / 4) (v % 2 ^ 32) }

/-- An extended capability header. -/
def extHdr (id ver next : Nat) : Nat := next * 2 ^ 20 + ver * 65536 + id

/-- The implementation's own bits of a word with the bits the spec fixes in their places. [log: DESIGN CHOICE 19] -/
def romWith (kind off fixed value : Nat) : Nat := rwBits (Config.cfgRom kind off % 2 ^ 32) value fixed

/-! Advanced error reporting: the same registers in every function, from 0x100 -/

/-- The header log's words: the first byte of the header in bits [31:24]. [log: PRESUMED 18, DEDUCED 49] -/
def PortFn.hdrWord (f : PortFn) (k : Nat) : Nat :=
  let l := (f.hdrLog.bytes.drop (4 * k)).take 4
  beNat (l ++ List.replicate (4 - l.length) 0)

/-- The log of a flit-mode header goes on where the prefix log stands otherwise; bit 18 of the control word and its size field say so (R192).
[log: PRESUMED 18] -/
def PortFn.aerWord (f : PortFn) (kind off : Nat) : Nat :=
  if off = 0x104 then f.uncStat else if off = 0x108 then f.uncMask else if off = 0x10C then f.uncSev
  else if off = 0x110 then f.corStat else if off = 0x114 then f.corMask
  else if off = 0x118 then
    romWith kind off 0xFC001F (f.firstErr + (if f.hdrLog.flit then 2 ^ 18 + f.hdrLog.bytes.length / 4 % 32 * 2 ^ 19 else 0))
  else if 0x11C ≤ off ∧ off < 0x12C then f.hdrWord ((off - 0x11C) / 4)
  else if off < 0x138 then 0
  else if f.hdrLog.flit then f.hdrWord ((off - 0x138) / 4 + 4)
  else Config.cfgRom kind off % 2 ^ 32

def PortFn.aerWrite (f : PortFn) (off : Nat) (x : CfgWr) : PortFn :=
  if off = 0x104 then { f with uncStat := w1c f.uncStat x.ones 0xFFFFFFFF }
  else if off = 0x108 then { f with uncMask := rwBits f.uncMask x.new 0x7FF030 }
  else if off = 0x10C then { f with uncSev := rwBits f.uncSev x.new 0x7FF030 }
  else if off = 0x110 then { f with corStat := w1c f.corStat x.ones 0xFFFFFFFF }
  else if off = 0x114 then { f with corMask := rwBits f.corMask x.new 0xF1C1 }
  else f

/-! The USP and the vDSPs -/

/-- Header Type (R182). -/
def Dev.headerType (s : Dev) (vs n : Nat) : Nat :=
  if n = uspNo then 0x81
  else if n % 8 = 0 ∧ n + 1 < s.fget Fld.PCI_VS_CFG.NDSP vs then 0x81 else 0x01

/-- Slot Capabilities (R205). -/
def Dev.slotCap (s : Dev) (vs n : Nat) : Nat :=
  let watts : Nat := match s.boundPort vs n, s.boundFar vs n with
    | some p, _ => ((s.slotOf p).map fun k => s.fget Fld.PCI_SLOT_MAP.PWR_LIM k).getD 0
    | none, some _ => ((s.vd vs n).far.slot.map (·.1)).getD 0
    | none, none => 0
  0x5B + watts % 256 * 128 + (n + 1) % 8192 * 2 ^ 19

/-- MAXRATE, FLIT_EN and L0P_EN of the port a function shows, as PortNotice.caps packs them (R166, R167, R174); none of an unbound vDSP. -/
def Dev.capsOf (s : Dev) (vs n : Nat) : Option Nat :=
  if n = uspNo then (s.portNotice (s.hostPort vs) {}).caps
  else match s.boundPort vs n, s.boundFar vs n with
    | some p, _ => (s.portNotice p {}).caps
    | none, some _ => (s.vd vs n).far.caps
    | none, none => none

/-- Link Capabilities (R165, R178, R182): the highest rate, the width, ASPM L1 and no L0s, an L1 exit latency of 8 µs to less than 16 µs;
a vDSP reports Surprise Down and Data Link Layer Link Active. -/
def Dev.linkCap (s : Dev) (vs n : Nat) : Nat :=
  let usp := n == uspNo
  let width := if usp then s.width (s.hostPort vs) else 16
  let x := romWith (if usp then 0 else 1) 0x5C (if usp then 0x38FF0 else 0x1B8FF0)
    (width % 64 * 16 + 2 * 2 ^ 10 + 4 * 2 ^ 15 + (if usp then 0 else 3 * 2 ^ 19))
  match s.capsOf vs n with
  | some c => rwBits x (c % 8 + 1) 0xF
  | none => x

/-- Link Capabilities 2 (R165, R166): every rate up to MAXRATE, no crosslink. -/
def Dev.linkCap2 (s : Dev) (vs n : Nat) : Nat :=
  let x := romWith (if n = uspNo then 0 else 1) 0x7C 0x100 0
  match s.capsOf vs n with
  | some c => rwBits x (2 ^ (c % 8 + 2) - 2) 0xFE
  | none => x

/-- Flit Mode Supported (R167), in the PCI Express Capabilities register. -/
def Dev.flitSupported (s : Dev) (vs n : Nat) : Bool :=
  match s.capsOf vs n with
  | some c => c.testBit 3
  | none => (Config.cfgRom 1 0x50).testBit 31

/-- Link Status: of the USP, the host link's; of a vDSP, what its device port reported (R186). -/
def Dev.linkStatus (s : Dev) (vs n : Nat) : Nat :=
  if n = uspNo then
    let p := s.hostPort vs
    if (s.pport p).up then s.fget Fld.PCI_PORT_STAT.RATE p + 1 + (s.pport p).width % 64 * 16 else 0
  else (s.pfn vs n).linkStat

/-- A dword of the first 256 bytes of the USP or a vDSP. [log: PRESUMED 18] -/
def Dev.portLow (s : Dev) (vs n off : Nat) : Nat :=
  let f := s.pfn vs n
  let usp := n == uspNo
  let k := if usp then 0 else 1
  if off = 0x00 then dw (if usp then 0x5191 else 0x5192) 0x1F2D
  else if off = 0x04 then dw f.status f.cmd
  else if off = 0x08 then 0x060400A1
  else if off = 0x0C then s.headerType vs n * 65536 + f.oth off % 256
  else if off = 0x10 ∨ off = 0x14 ∨ off = 0x1C ∨ off = 0x30 ∨ off = 0x38 then 0
  else if off = 0x18 then f.sub % 256 * 65536 + f.sec % 256 * 256 + f.pri % 256
  else if off = 0x20 then dw f.memLimit f.memBase
  else if off = 0x24 then dw f.pfLimit f.pfBase
  else if off = 0x28 then f.pfBaseHi
  else if off = 0x2C then f.pfLimitHi
  else if off = 0x34 then 0x40
  else if off = 0x3C then dw f.bridgeCtl ((if usp then 0 else 256) + f.oth off % 256)
  else if off = 0x40 then 0x00035001
  else if off = 0x44 then romWith k off 0xFFFF0003 f.pmcsr
  else if off = 0x50 then setBit (if usp then 0x00520010 else 0x01629010) 31 (s.flitSupported vs n)
  else if off = 0x54 then romWith k off 7 5
  else if off = 0x58 then dw f.devStat f.devCtl
  else if off = 0x5C then s.linkCap vs n
  else if off = 0x60 then dw (s.linkStatus vs n) f.linkCtl
  else if off = 0x64 then (if usp then 0 else s.slotCap vs n)
  else if off = 0x68 then (if usp then 0 else dw f.slotStat (setBit f.slotCtl 10 (s.powerCtl vs n)))
  else if off = 0x78 then f.oth off
  else if off = 0x7C then s.linkCap2 vs n
  else if off = 0x80 then romWith k off 0xFFFF f.linkCtl2
  else if off = 0x84 then (if usp then 0 else romWith k off 1 1)
  else if usp then Config.cfgRom k off % 2 ^ 32
  else if off = 0x90 then dw (0x180 + rwBits 0 f.msiCtl 0x71) 0x0005
  else if off = 0x94 ∨ off = 0x98 ∨ off = 0x9C then f.oth off
  else if off = 0xA0 then f.msiMask % 2
  else if off = 0xA4 then f.msiPend % 2
  else Config.cfgRom k off % 2 ^ 32

/-- The extended capabilities of the USP and of a vDSP, in the order of their chain (R165, R182): the capability's ID and its offset. The
rates from 16.0 GT/s have a Physical Layer capability each; a feature that is absent has no capability. -/
def extChain (usp : Bool) : List (Nat × Nat) :=
  let k := if usp then 0 else 1
  let own := [0x19, 0x25, 0x26, 0x2A, 0x31, Config.phy128Id, 0x32].map fun id => (id, Config.extCap k id)
  if usp then (1, 0x100) :: own ++ [(0x1F, Config.uspPtm), (3, Config.uspDsn)]
  else [(1, 0x100), (0x0D, Config.vdspAcs), (0x1D, Config.vdspDpc)] ++ own

/-- The capability that begins at an offset of a chain, and the next one's offset, 0 after the last. -/
def chainAt : List (Nat × Nat) → Nat → Option (Nat × Nat)
  | [], _ => none
  | (id, o) :: rest, off => if o = off then some (id, ((rest.head?).map (·.2)).getD 0) else chainAt rest off

/-- A dword of the extended space of the USP or a vDSP. [log: PRESUMED 18] -/
def Dev.portHigh (s : Dev) (vs n off : Nat) : Nat :=
  let f := s.pfn vs n
  let k := if n = uspNo then 0 else 1
  match chainAt (extChain (n == uspNo)) off with
  | some (id, next) => romWith k off 0xFFF0FFFF (extHdr id 0 (next % 4096))
  | none =>
    if 0x100 < off ∧ off < 0x148 then f.aerWord k off
    else if n = uspNo then
      if off = Config.uspPtm + 4 then 7 + (if f.ptmCtl.testBit 1 then 256 else 0)
      else if off = Config.uspPtm + 8 then f.ptmCtl
      else if off = Config.uspDsn + 4 then s.serial % 2 ^ 32
      else if off = Config.uspDsn + 8 then s.serial / 2 ^ 32
      else Config.cfgRom 0 off % 2 ^ 32
    else if off = Config.vdspAcs + 4 then dw f.acsCtl 0x007F
    else if Config.vdspAcs + 8 ≤ off ∧ off < Config.vdspAcs + 40 then f.acsVec / 2 ^ (8 * (off - Config.vdspAcs - 8)) % 2 ^ 32
    else if off = Config.vdspDpc + 4 then dw (f.dpcCtl &&& 0x9F) (romWith 1 off 0x1FE0 0x1080)
    else if off = Config.vdspDpc + 8 then dw f.dpcSrc f.dpcStat
    else Config.cfgRom 1 off % 2 ^ 32

def Dev.portWord (s : Dev) (vs n off : Nat) : Nat := if off < 0x100 then s.portLow vs n off else s.portHigh vs n off

/-- The routing registers of a vDSP written by one request: one notice, and the write held (R362). [log: DEDUCED 49] -/
def Dev.windowsPut (s : Dev) (vs n reqId tag : Nat) (g : PortFn → PortFn) : Dev :=
  let s1 := (s.modPfn vs n g).sendWindowNotice vs n
  { s1 with rt.holds := s1.rt.holds ++ [{ vs := vs, n := n, notice := s1.rt.noticeNo, deadline := s.now + tMs, cpl := some (reqId, tag) }] }

/-- The routing registers a dword holds. -/
def PortFn.winDword (f : PortFn) (off : Nat) (x : CfgWr) : PortFn :=
  if off = 0x20 then (f.setWin .memBase x.lo).setWin .memLimit x.hi
  else if off = 0x24 then (f.setWin .pfBase x.lo).setWin .pfLimit x.hi
  else if off = 0x28 then f.setWin .pfBaseHi x.new
  else f.setWin .pfLimitHi x.new

/-- Secondary Bus Reset of the USP, as PCI Express defines it for a switch: every vDSP at its defaults, a hot reset below each.
[log: PRESUMED 52] -/
def Dev.uspBusReset (s : Dev) (vs : Nat) (set : Bool) : Dev :=
  let ns := List.range (s.fget Fld.PCI_VS_CFG.NDSP vs)
  let s1 := if set then each ns s fun s n => s.vdspReset vs n else s
  let s2 := each (ns.filter fun n => (s.bindOf s.ap vs n).isSome) s1 fun s n => secondaryBusReset vs n set s
  let s3 := each (ns.filter fun n => set && !(s.pfn vs n).sameWindow (s.pfn vs n).hotReset) s2 fun s n => s.sendWindowNotice vs n
  s3.syncBusMap vs

/-- Bridge Control. [log: DEDUCED 49] -/
def Dev.bridgePut (s : Dev) (vs n new : Nat) : Dev :=
  let was := (s.pfn vs n).bridgeCtl.testBit 6
  let s1 := s.modPfn vs n fun f => { f with bridgeCtl := rwBits f.bridgeCtl new 0x5F }
  let now_ := (s1.pfn vs n).bridgeCtl.testBit 6
  if was == now_ then s1 else if n = uspNo then s1.uspBusReset vs now_ else secondaryBusReset vs n now_ s1

/-- Link Control (R178, R185). -/
def Dev.linkCtlPut (s : Dev) (vs n : Nat) (x : CfgWr) : Dev :=
  let old := (s.pfn vs n).linkCtl
  let new := rwBits old x.lo (if n = uspNo then 0x3C3 else 0xFD3)
  let s1 := s.modPfn vs n fun f => { f with linkCtl := new, linkStat := w1c f.linkStat x.onesHi 0xC000 }
  if n = uspNo then s1
  else
    let s2 := if old % 4 = new % 4 then s1 else vdspAspmControl vs n (new % 4) s1
    let s3 := if old.testBit 4 == new.testBit 4 then s2 else vdspLinkDisable vs n (new.testBit 4) s2
    if x.ones.testBit 5 then vdspRetrainLink vs n s3 else s3

/-- Slot Control and Slot Status (R206, R209 to R212). -/
def Dev.slotPut (s : Dev) (vs n : Nat) (x : CfgWr) : Dev :=
  let s0 := s.modPfn vs n fun f => { f with slotStat := w1c f.slotStat x.onesHi 0x11F }
  if ¬ x.hasLo then s0
  else
    let old := (s.pfn vs n).slotCtl
    let wasOff := s.powerCtl vs n
    let new := rwBits old x.lo 0x77FF
    let s1 := (s0.modPfn vs n fun f => { f with slotCtl := new }).modVd vs n fun v => { v with pccSet := true }
    let atn := if bitsOf old 7 6 = bitsOf new 7 6 then 0 else bitsOf new 7 6
    let pwr := if bitsOf old 9 8 = bitsOf new 9 8 then 0 else bitsOf new 9 8
    let s2 := if atn = 0 ∧ pwr = 0 then s1 else slotIndicatorWrite vs n atn pwr s1
    let s3 := if new.testBit 10 == wasOff then s2 else if new.testBit 10 then slotPowerOff vs n s2 else slotPowerOn vs n s2
    s3.syncPresence vs n

/-- The new value of a 32-bit word of the egress control vector. -/
def setVecWord (vec k w : Nat) : Nat := setBitsOf vec (32 * k + 31) (32 * k) w

/-- Extended space of a vDSP. -/
def Dev.vdspHighPut (s : Dev) (vs n off : Nat) (x : CfgWr) : Dev :=
  if off = Config.vdspAcs + 4 then (s.modPfn vs n fun f => { f with acsCtl := rwBits f.acsCtl x.hi 0x7F }).tellControl vs n 11
  else if Config.vdspAcs + 8 ≤ off ∧ off < Config.vdspAcs + 40 then
    (s.modPfn vs n fun f => { f with acsVec := setVecWord f.acsVec ((off - Config.vdspAcs - 8) / 4) x.new }).tellControl vs n 11
  else if off = Config.vdspDpc + 4 then
    let s1 := (s.modPfn vs n fun f => { f with dpcCtl := rwBits f.dpcCtl x.hi 0x9F }).tellControl vs n 12
    if x.onesHi.testBit 6 then dpcSoftwareTrigger vs n s1 else s1
  else if off = Config.vdspDpc + 8 then
    let s1 := s.modPfn vs n fun f => { f with dpcStat := w1c f.dpcStat x.ones 8 }
    if x.ones.testBit 0 then dpcTriggerStatusWrite vs n s1 else s1
  else s

/-- A write of a dword of the USP or a vDSP but its routing registers. -/
def Dev.portWrite (s : Dev) (vs n off : Nat) (x : CfgWr) : Dev :=
  let f := s.pfn vs n
  let put := fun (g : PortFn) => s.setPfn vs n g
  if off = 0x04 then put { f with cmd := rwBits f.cmd x.lo 0x547, status := w1c f.status x.onesHi 0xF900 }
  else if off = 0x0C then put (f.setOth off (x.new % 256))
  else if off = 0x18 then
    (put { f with pri := x.new % 256, sec := x.new / 256 % 256, sub := x.new / 65536 % 256 }).syncBusMap vs
  else if off = 0x20 ∨ off = 0x24 ∨ off = 0x28 ∨ off = 0x2C then put (f.winDword off x)
  else if off = 0x3C then (put (f.setOth off (x.new % 256))).bridgePut vs n x.hi
  else if off = 0x44 then (if x.new % 4 = 0 ∨ x.new % 4 = 3 then put { f with pmcsr := x.new % 4 } else s)
  else if off = 0x58 then put { f with devCtl := rwBits f.devCtl x.lo 0x79FF, devStat := w1c f.devStat x.onesHi 0xF }
  else if off = 0x60 then s.linkCtlPut vs n x
  else if off = 0x78 then put (f.setOth off x.lo)
  else if off = 0x80 then
    let s1 := put { f with linkCtl2 := x.lo }
    if n = uspNo ∨ f.linkCtl2 % 16 = x.lo % 16 then s1 else vdspTargetLinkSpeed vs n (x.lo % 16) s1
  else if 0x100 < off ∧ off < 0x148 then
    (if n ≠ uspNo ∧ off = 0x108 then (put (f.aerWrite off x)).tellControl vs n 13 else put (f.aerWrite off x))
  else if n = uspNo then
    (if off = Config.uspPtm + 8 then (put { f with ptmCtl := rwBits f.ptmCtl x.new 3 }).tellPtm vs 15 (rwBits f.ptmCtl x.new 3) else s)
  else if off = 0x68 then s.slotPut vs n x
  else if off = 0x90 then put { f with msiCtl := rwBits f.msiCtl x.hi 0x71 }
  else if off = 0x94 then put (f.setOth off (x.new / 4 * 4))
  else if off = 0x98 ∨ off = 0x9C then put (f.setOth off x.new)
  else if off = 0xA0 then
    (if f.msiPend = 1 ∧ x.new % 2 = 0 then (put { f with msiMask := 0, msiPend := 0 }).vdspInt vs n else put { f with msiMask := x.new % 2 })
  else if 0x148 ≤ off then s.vdspHighPut vs n off x
  else s

/-! The service function -/

/-- The VF allocation of a VS (R220). -/
def Dev.vfAlloc (s : Dev) (vs : Nat) : Nat := s.onum (0x5000 + vs) 1 0

/-- The MSI-X Table Size of a function (R231), as its field encodes it. -/
def Dev.msixSize (s : Dev) (vs fn : Nat) : Nat := s.fget Fld.SF_RES.VECTORS (sfKey vs fn) - 1

/-- The capabilities a PF and a VF both have; a dword that none holds reads 0. [log: PRESUMED 18] -/
def Dev.sfCommon (s : Dev) (vs fn off : Nat) : Nat :=
  let x := s.sfn vs fn
  let f := x.cfg
  let k := if fn = 0 then 2 else 3
  if off = 0x04 then dw (setBit f.status 3 x.intx) f.cmd
  else if off = 0x08 then 0x120000A1
  else if off = 0x0C then f.oth off % 256
  else if off = 0x2C then 0x01921F2D
  else if off = 0x50 then (if fn = 0 then 0x00029010 else 0x0002B010)
  else if off = 0x54 then romWith k off 0x10000027 0x10000025
  else if off = 0x58 then dw f.devStat f.devCtl
  else if off = 0x60 then romWith k off 0xFFFF f.linkCtl
  else if off = 0x74 then romWith k off 0x3001F 0x3000F
  else if off = 0x78 then x.devCtl2
  else if off = 0xB0 then dw ((x.msixCtl &&& 0xC000) + s.msixSize vs fn % 2048) 0x0011
  else if 0x100 < off ∧ off < 0x148 then f.aerWord k off
  else if off = 0x5C ∨ off = 0x7C ∨ off = 0x80 then Config.cfgRom k off % 2 ^ 32
  else 0

/-- A dword of a PF. [log: PRESUMED 18] -/
def Dev.pfWord (s : Dev) (vs off : Nat) : Nat :=
  let x := s.sfn vs 0
  let f := x.cfg
  if off = 0x00 then 0x51931F2D
  else if off = 0x10 ∨ off = 0x18 then tget 0 x.bars (off / 4) + 4
  else if off = 0x14 ∨ off = 0x1C then tget 0 x.bars (off / 4)
  else if off = 0x20 ∨ off = 0x24 ∨ off = 0x30 then 0
  else if off = 0x34 then 0x40
  else if off = 0x3C then 256 + f.oth off % 256
  else if off = 0x40 then 0x00035001
  else if off = 0x44 then 8 + f.pmcsr % 4
  else if off = 0x90 then dw (0x18A + rwBits 0 f.msiCtl 0x71) 0xB005
  else if off = 0x94 ∨ off = 0x98 ∨ off = 0x9C then f.oth off
  else if off = 0xA0 then f.msiMask
  else if off = 0xA4 then f.msiPend
  else if off = 0xB4 then 0x40000
  else if off = 0xB8 then 0x48000
  else if off = 0x100 then romWith 2 off 0xFFF0FFFF (extHdr 1 0 0x148)
  else if off = 0x148 then romWith 2 off 0xFFF0FFFF (extHdr 0x0D 0 0x160)
  else if off = 0x14C then 0
  else if off = 0x160 then romWith 2 off 0xFFF0FFFF (extHdr 0x10 0 0x1A0)
  else if off = 0x164 then romWith 2 off 1 0
  else if off = 0x168 then x.sriov
  else if off = 0x16C then dw (s.vfAlloc vs) (s.vfAlloc vs)
  else if off = 0x170 then dw 1 x.numVfs
  else if off = 0x174 then 0x000100FF
  else if off = 0x178 then 0x51940000
  else if off = 0x17C then 0x15
  else if off = 0x180 then x.sysPage
  else if off = 0x184 ∨ off = 0x18C then tget 0 x.bars (off / 4) + 4
  else if off = 0x188 ∨ off = 0x190 then tget 0 x.bars (off / 4)
  else if off = 0x194 ∨ off = 0x198 ∨ off = 0x19C then 0
  else if off = 0x1A0 then romWith 2 off 0xFFF0FFFF (extHdr 0x1F 0 0x1B0)
  else if off = 0x1A4 then 1
  else if off = 0x1A8 then f.ptmCtl
  else if off = 0x1B0 then romWith 2 off 0xFFF0FFFF (extHdr 3 0 0x1C0)
  else if off = 0x1B4 then s.serial % 2 ^ 32
  else if off = 0x1B8 then s.serial / 2 ^ 32
  else if off = 0x1C0 then extHdr 0x23 1 0
  else if off = 0x1C4 then 0x02001F2D
  else if off = 0x1C8 then 1
  else if off = 0x1CC then s.regRead .SF_DV_ID vs
  else if off = 0x1D0 then s.regRead .SF_DV_FW vs
  else if off = 0x1D4 then s.regRead .SF_DV_EPOCH vs
  else if off = 0x1D8 ∨ off = 0x1DC then 0
  else s.sfCommon vs 0 off

/-- A dword of a VF. [log: PRESUMED 18, PRESUMED 48] -/
def Dev.vfWord (s : Dev) (vs fn off : Nat) : Nat :=
  if off = 0x00 then 0xFFFFFFFF
  else if 0x10 ≤ off ∧ off < 0x28 ∨ off = 0x30 then 0
  else if off = 0x34 then 0x50
  else if off = 0x3C then 0
  else if off = 0xB4 then 0x8000
  else if off = 0xB8 then 0xC000
  else if off = 0x100 then romWith 3 off 0xFFF0FFFF (extHdr 1 0 0)
  else s.sfCommon vs fn off

def Dev.sfWord (s : Dev) (vs fn off : Nat) : Nat := if fn = 0 then s.pfWord vs off else s.vfWord vs fn off

/-- Command of a function: Bus Master Enable starts or stops its requests (R247). -/
def Dev.sfCmdPut (s : Dev) (vs fn : Nat) (x : CfgWr) : Dev :=
  let old := (s.sfn vs fn).cfg.cmd
  let new := rwBits old x.lo (if fn = 0 then 0x546 else 4)
  let s1 := s.modSfn vs fn fun f =>
    { f with cfg := { f.cfg with cmd := setBit new 2 (old.testBit 2), status := w1c f.cfg.status x.onesHi 0xF900 } }
  let s2 := if fn = 0 then s1.intxSync vs else s1
  if old.testBit 2 == new.testBit 2 then s2 else if new.testBit 2 then busMasterEnable vs fn s2 else busMasterDisable vs fn s2

/-- Every pending vector that may now be sent (R233). -/
def Dev.flushPending (s : Dev) (vs fn : Nat) : Dev :=
  let pend := (s.sfn vs fn).pba ||| (s.sfn vs fn).cfg.msiPend
  each ((List.range (bitLen pend)).filter pend.testBit) s fun s v => s.flushVector vs fn v

/-- After a change of a function's interrupt mechanism or masks. -/
def Dev.intChanged (s : Dev) (vs fn : Nat) : Dev :=
  let s1 := s.flushPending vs fn
  if fn = 0 then s1.intxSync vs else s1

/-- The completion timeout values of R238. -/
def ctoValid (x : Nat) : Bool := [0, 1, 2, 5, 6, 9, 10, 13, 14].contains x

/-- Device Control 2: a reserved timeout encoding is not stored (R238). [log: PRESUMED 48] -/
def devCtl2Put (old new : Nat) : Nat :=
  let v := rwBits old new 0x134F
  if ctoValid (v % 16) then v else setBitsOf v 3 0 (old % 16)

/-- SR-IOV Control (R220, R222, R243): VF Enable cleared takes the VFs away, each at its reset values. [log: PRESUMED 48] -/
def Dev.sriovPut (s : Dev) (vs new : Nat) : Dev :=
  let old := (s.sfn vs 0).sriov
  let v := rwBits old new 0x39
  if old.testBit 0 ∧ ¬ v.testBit 0 then
    let s1 := each (s.vfsOf vs) s fun s n => (s.flrStart vs n).fnReset vs n
    (s1.modSfn vs 0 fun f => { f with sriov := v }).syncBusMap vs
  else (s.modSfn vs 0 fun f => { f with sriov := v }).syncBusMap vs

/-- The low dword of a BAR keeps the bits above its size. -/
def barLow (new size : Nat) : Nat := new / size * size

/-- Bytes of a System Page Size. -/
def pageBytes (x : Nat) : Nat := if x = 1 then 4096 else if x = 4 then 16384 else 65536

/-- A write of a PF's words that a VF does not have. -/
def Dev.pfPut (s : Dev) (vs off : Nat) (x : CfgWr) : Dev :=
  let y := s.sfn vs 0
  let put := fun (g : SfFn) => s.modSfn vs 0 fun _ => g
  let bar := fun (v : Nat) => put { y with bars := tput 0 y.bars (off / 4) v }
  if off = 0x10 then bar (barLow x.new 1048576)
  else if off = 0x18 then bar (barLow x.new 65536)
  else if off = 0x14 ∨ off = 0x1C ∨ off = 0x188 ∨ off = 0x190 then bar x.new
  else if off = 0x184 then bar (barLow x.new 65536)
  else if off = 0x18C then bar (barLow x.new (max 16384 (pageBytes y.sysPage)))
  else if off = 0x3C then put { y with cfg := y.cfg.setOth off (x.new % 256) }
  else if off = 0x44 then (if x.new % 4 = 0 ∨ x.new % 4 = 3 then put { y with cfg := { y.cfg with pmcsr := x.new % 4 } } else s)
  else if off = 0x90 then (put { y with cfg := { y.cfg with msiCtl := rwBits y.cfg.msiCtl x.hi 0x71 } }).intChanged vs 0
  else if off = 0x94 then put { y with cfg := y.cfg.setOth off (x.new / 4 * 4) }
  else if off = 0x98 ∨ off = 0x9C then put { y with cfg := y.cfg.setOth off x.new }
  else if off = 0xA0 then (put { y with cfg := { y.cfg with msiMask := x.new } }).flushPending vs 0
  else if off = 0x168 then s.sriovPut vs x.lo
  else if off = 0x170 then
    (if y.sriov.testBit 0 ∨ s.vfAlloc vs < x.lo then s else put { y with numVfs := x.lo })
  else if off = 0x180 then (if x.new = 1 ∨ x.new = 4 ∨ x.new = 16 then put { y with sysPage := x.new } else s)
  else if off = 0x1A8 then put { y with cfg := { y.cfg with ptmCtl := rwBits y.cfg.ptmCtl x.new 0xFF01 } }
  else s

/-- A write of a dword of a function; Initiate Function Level Reset starts one (R243). -/
def Dev.sfWrite (s : Dev) (vs fn off : Nat) (x : CfgWr) : Dev :=
  let y := s.sfn vs fn
  let put := fun (g : SfFn) => s.modSfn vs fn fun _ => g
  if off = 0x04 then s.sfCmdPut vs fn x
  else if off = 0x0C then (if fn = 0 then put { y with cfg := y.cfg.setOth off (x.new % 256) } else s)
  else if off = 0x58 then
    let s1 := put { y with cfg := { y.cfg with devCtl := if fn = 0 then rwBits y.cfg.devCtl x.lo 0x79FF else y.cfg.devCtl,
                                               devStat := w1c y.cfg.devStat x.onesHi 0xF } }
    if x.ones.testBit 15 then functionLevelReset vs fn s1 else s1
  else if off = 0x60 then (if fn = 0 then put { y with cfg := { y.cfg with linkCtl := rwBits y.cfg.linkCtl x.lo 0x3C3 } } else s)
  else if off = 0x78 then put { y with devCtl2 := devCtl2Put y.devCtl2 x.lo }
  else if off = 0xB0 then (put { y with msixCtl := rwBits y.msixCtl x.hi 0xC000 }).intChanged vs fn
  else if 0x100 < off ∧ off < 0x148 then put { y with cfg := y.cfg.aerWrite off x }
  else if fn = 0 then s.pfPut vs off x
  else s

/-! Requests -/

/-- A completion of a configuration request from this switch. -/
def Dev.cfgCpl (s : Dev) (vs reqId tag status data : Nat) : Dev := s.emit (.cpl vs reqId tag status data)

/-- Unsupported Request, logged at the USP, where the request entered the VS (R191). [log: DEDUCED 50] -/
def Dev.cfgUr (s : Dev) (vs reqId tag : Nat) : Dev := (s.aer vs uspNo .unsupportedRequest {}).cfgCpl vs reqId tag cplUr 0

/-- A request to the USP or a vDSP (R183, R362, R367). [log: DEDUCED 50] -/
def Dev.cfgPort (s : Dev) (vs n off : Nat) (write : Option (Nat × Nat)) (reqId tag : Nat) : Dev :=
  let old := s.portWord vs n off
  match write with
  | none => s.cfgCpl vs reqId tag 0 old
  | some (v, be) =>
    let x := cfgWr old v be
    if n ≠ uspNo ∧ (off = 0x20 ∨ off = 0x24 ∨ off = 0x28 ∨ off = 0x2C) ∧ x.mask ≠ 0 then
      s.windowsPut vs n reqId tag fun f => f.winDword off x
    else (s.portWrite vs n off x).cfgDone s.rt.busWait.length vs reqId tag

/-- A request to a function of the service function (R217, R244, R367). -/
def Dev.cfgSf (s : Dev) (vs fn off : Nat) (write : Option (Nat × Nat)) (reqId tag : Nat) : Dev :=
  if ¬ s.sfExists vs fn then s.cfgUr vs reqId tag
  else if s.inFlr vs fn then s.cfgCpl vs reqId tag cplRrs 0
  else
    let old := s.sfWord vs fn off
    match write with
    | none => s.cfgCpl vs reqId tag 0 old
    | some (v, be) => (s.sfWrite vs fn off (cfgWr old v be)).cfgDone s.rt.busWait.length vs reqId tag

/-- The device port's link of a vDSP is up. [log: DEDUCED 51] -/
def Dev.belowUp (s : Dev) (vs n : Nat) : Bool :=
  match s.boundPort vs n with
  | some p => (s.pport p).up
  | none => (s.bindOf s.ap vs n).isSome && (s.pfn vs n).linkStat.testBit 13

/-- The TLP of a request that goes on, with its byte enables, as the host's link brought it. [log: DEDUCED 51] -/
def Dev.cfgTlp (s : Dev) (vs rid off : Nat) (write : Option (Nat × Nat)) (reqId tag : Nat) : Tlp :=
  let t : Tlp := match write with
    | none => { kind := .cfgRd, reqId := reqId, tag := tag, target := rid, addr := off, bytes := 4, be := 0xF, len := 16 }
    | some (v, be) =>
      { kind := .cfgWr, reqId := reqId, tag := tag, target := rid, addr := off, bytes := 4, be := be % 16, len := 20, data := leBytes 4 v }
  s.tlpOnLink (s.hostPort vs) { t with raw := Config.tlpBytes t }

/-- A request to a function below a vDSP (R184, R703). [log: DEDUCED 51] -/
def Dev.cfgBelow (s : Dev) (vs n rid off : Nat) (write : Option (Nat × Nat)) (reqId tag : Nat) : Dev :=
  if ¬ s.joined ∧ ¬ s.svc.rrsDone then s.cfgCpl vs reqId tag cplRrs 0
  else if ¬ s.belowUp vs n then s.cfgUr vs reqId tag
  else
    let t := s.cfgTlp vs rid off write reqId tag
    s.ingressPcie (s.hostPort vs) t (flitsOf (max t.len (s.tlpIn (s.hostPort vs) t).len))

/-- What the switch of a VS's host port tells another of its functions' controls (R190, R194, R196, R200, R395), as a write of the register
that changed: at a device port's switch its vDSP's, at any switch PTM Control of the USP. [log: DEDUCED 223] -/
def Dev.cfgTold (s : Dev) (vs : Nat) (tgt : CfgTarget) (off v be : Nat) : Dev :=
  match tgt with
  | .usp => if off = Config.uspPtm + 8 then s.modTold vs uspNo fun f => { f with ptmCtl := rwBits f.ptmCtl (cfgWr f.ptmCtl v be).new 3 } else s
  | .vdsp n =>
    if (s.boundPort vs n).isNone then s
    else s.modTold vs n fun f =>
      if off = Config.vdspAcs + 4 then { f with acsCtl := rwBits f.acsCtl (cfgWr (f.acsCtl * 65536) v be).hi 0x7F }
      else if Config.vdspAcs + 8 ≤ off ∧ off < Config.vdspAcs + 40 then
        let k := (off - Config.vdspAcs - 8) / 4
        { f with acsVec := setVecWord f.acsVec k (cfgWr (f.acsVec / 2 ^ (32 * k) % 2 ^ 32) v be).new }
      else if off = Config.vdspDpc + 4 then { f with dpcCtl := rwBits f.dpcCtl (cfgWr (f.dpcCtl * 65536) v be).hi 0x9F }
      else if off = 0x108 then f.aerWrite off (cfgWr f.uncMask v be)
      else f
  | _ => s

/-- The vDSP whose buses hold a bus. -/
def Dev.vdspOfBus (s : Dev) (vs bus : Nat) : Option Nat :=
  (List.range (s.fget Fld.PCI_VS_CFG.NDSP vs)).find? fun n =>
    let f := s.pfn vs n
    f.sec != 0 && decide (f.sec ≤ bus) && decide (bus ≤ f.sub)

/-- A request to a VF bus inside the USP's range goes on through the USP (R223): to a vDSP on the internal bus, below the vDSP that
claims the bus, or to nothing. -/
def Dev.cfgVfBus (s : Dev) (vs fn off : Nat) (write : Option (Nat × Nat)) (reqId tag : Nat) : Dev :=
  let rid := s.sfRid vs fn
  let s1 := s.sfEvent vs 0 Fld.SF_EVT.VFBUS
  if rid / 256 = (s.pfn vs uspNo).sec then
    (if s.vdspExists vs (rid % 256) then s1.cfgPort vs (rid % 256) off write reqId tag else s1.cfgUr vs reqId tag)
  else match s.vdspOfBus vs (rid / 256) with
    | some n => s1.cfgBelow vs n rid off write reqId tag
    | none => s1.cfgUr vs reqId tag

/-- A request to a VF (R222, R223): claimed by the service function where the VF's bus falls outside the USP's range. -/
def Dev.cfgVf (s : Dev) (vs fn off : Nat) (write : Option (Nat × Nat)) (reqId tag : Nat) : Dev :=
  let u := s.pfn vs uspNo
  let bus := s.sfRid vs fn / 256
  if ¬ s.sfExists vs fn then s.cfgUr vs reqId tag
  else if u.sec ≤ bus ∧ bus ≤ u.sub then s.cfgVfBus vs fn off write reqId tag
  else s.cfgSf vs fn off write reqId tag

/-- CONFIG_REQUEST: a read, or a write of a dword with its byte enables, at a dword's offset. At a switch that does not carry the host
port of the VS, a write is what that port's switch tells of the controls of a vDSP bound here. [log: DEDUCED 198] -/
def configRequest (vs : Nat) (tgt : CfgTarget) (off : Nat) (write : Option (Nat × Nat)) (reqId tag : Nat) (s : Dev) : Dev :=
  if off % 4 ≠ 0 ∨ 4096 ≤ off then s
  else if ¬ s.vsExists vs then
    match write with
    | some (v, be) => s.cfgTold vs tgt off v be
    | none => s
  else match tgt with
    | .usp => s.cfgPort vs uspNo off write reqId tag
    | .vdsp n => if s.vdspExists vs n then s.cfgPort vs n off write reqId tag else s.cfgUr vs reqId tag
    | .sf fn => if fn = 0 then s.cfgSf vs fn off write reqId tag else s.cfgVf vs fn off write reqId tag
    | .below n rid => if s.vdspExists vs n then s.cfgBelow vs n rid off write reqId tag else s.cfgUr vs reqId tag
    | .vfBusInside fn =>
      if fn ≠ 0 then s.cfgVf vs fn off write reqId tag else s.cfgUr vs reqId tag

def execConfigRequest (vs : Nat) (tgt : CfgTarget) (off : Nat) (write : Option (Nat × Nat)) (reqId tag : Nat) (s : State) :
    Host.Outcome State Fault Refusal := s.act (configRequest vs tgt off write reqId tag)

end Sys2Proof.Machine
end

