-- ==== Sys2Proof/Machine/Flit.lean ====
section
/-! DEFINITION. Reception of a Brorna flit (R287, R290 to R297, R299, R301, R305, R308, R310, R311, R315, R316, R321, R322, R328 to R330,
R391, R451, R624). -/
namespace Sys2Proof.Machine

/-! Lanes -/

/-- The lane that carried a byte of a flit (R287). -/
def Dev.laneOfByte (s : Dev) (n k : Nat) : Option Nat := (s.lanesOf n)[k % max 1 (s.width n)]?

/-- What the error correction counts at a lane: in its counter, and in its watch interval. -/
def Dev.laneRx (s : Dev) (i k : Nat) : Dev := (s.count .LN_FEC_RX i k).modLane i fun l => { l with irx := l.irx + k }
def Dev.laneSym (s : Dev) (i : Nat) : Dev := (s.count .LN_FEC_SYM i 1).modLane i fun l => { l with isym := l.isym + 1 }
def Dev.laneUnc (s : Dev) (i : Nat) : Dev := (s.count .LN_FEC_UNC i 1).modLane i fun l => { l with iunc := l.iunc + 1 }

/-- The counts of one received flit (R290). [log: DEDUCED 64] -/
def Dev.flitCounts (s : Dev) (n : Nat) (c : FlitCheck) : Dev :=
  let ls := s.lanesOf n
  let s1 := each ls s fun s i => s.laneRx i (256 / max 1 (s.width n))
  match c with
  | .good => s1
  | .corrected k => match s1.laneOfByte n k with
    | some i => s1.laneSym i
    | none => s1
  | .bad => (each ls s1 fun s i => s.laneUnc i).count .BL_BAD_CNT n 1

/-! Acknowledgements and credits -/

/-- A flit acknowledged: its packet leaves when it was the last and the packet is not retained. -/
def Dev.flitAcked (s : Dev) (x : TxFlit) : Dev :=
  if x.marker.isSome then s
  else match s.pkt? x.pid with
    | none => s
    | some p => if p.acked + 1 = p.nfl ∧ ¬ p.kept then s.delPkt x.pid else s.putPkt x.pid { p with acked := p.acked + 1 }

/-- ACK_PROCESS (R316 to R319). [log: DEDUCED 66] -/
def Dev.ackProcess (s : Dev) (n ack : Nat) : Dev :=
  let b := s.bl! n
  if ack = (b.oldest + 16383) % 16384 then s
  else
    let d := (ack + 16384 - b.oldest) % 16384
    if d < (b.next + 16384 - b.oldest) % 16384 then
      let freed := b.unacked.take (d + 1)
      let rest := b.unacked.drop (d + 1)
      let s1 := s.modBl n fun b =>
        { b with unacked := rest, oldest := (ack + 1) % 16384, replays := 0, idleFrom := s.now, expAt := none,
                 replayAt := if rest.isEmpty then none else s.replayEnd n,
                 replayFrom := if rest.isEmpty then none else b.replayFrom }
      each freed (s1.fset Fld.BL_SEQ.TXO n ((ack + 1) % 16384)) fun s x => s.flitAcked x
    else s.protoError n

/-- A received limit (R321, R322). [log: DEDUCED 66] -/
def Dev.creditIn (s : Dev) (n q lim : Nat) : Dev :=
  let b := s.bl! n
  if 32768 ≤ (lim + 65536 - b.used.getD q 0 % 65536) % 65536 then s.protoError n
  else s.modBl n fun b => { b with limits := b.limits.set q lim }

/-! Packets -/

/-- A packet on a link as the tables hold it, for a discard. -/
def linkPkt (port : Nat) (e : Env) (cc par : Nat) (t : Option Tlp) (body : List Byte) : Pkt :=
  { port := port, vs := e.vs, typ := envType e.typ, oc := e.oc, cc := cc, par := par, arrEnv := some e,
    content := if e.typ = 3 then .ctl body else .tlp { (t.getD {}) with raw := body, len := e.tlen }, dest := e.dgpa, tok := e.tok }

/-- A packet that its link gives up with a reason code. [log: DEDUCED 67] -/
def Dev.linkDiscard (s : Dev) (p : Pkt) (reason : Nat) : Dev := (s.enter p).discard s.fwd.nextPid reason

/-- The pool a flit of a packet draws on at its receiver (R325, R326). [log: DEDUCED 68] -/
def Dev.rxPool (s : Dev) (n typ : Nat) : Nat := if s.fbit Fld.BL_STAT.FB n then (if typ = 2 then 2 else 1) else 0

/-- A flit accepted in order (R315): its number, its credit, its acknowledgement, its bytes (R624).
[log: DESIGN CHOICE 13, DEDUCED 68] -/
def Dev.acceptFlit (s : Dev) (n pool : Nat) : Dev :=
  let ne := (s.fget Fld.BL_SEQ.RXNE n + 1) % 16384
  ((s.fset Fld.BL_SEQ.RXNE n ne).count .TM_PORT_RXB n 256).modBl n fun b =>
    { b with ackValid := true, rxUsed := b.rxUsed.set pool ((b.rxUsed.getD pool 0 + 1) % 65536), idleFrom := s.now,
             wakeReq := b.wakeReq || s.fbit Fld.BL_STAT.TXSLEEP n }

/-- What a first flit shows of a packet that a switch discards (R391). -/
def headBad (e : Env) (par : Nat) : Bool := e.tlen == 0 || decide (4224 < e.tlen) || e.ep != par

/-- The first flit of a packet (R295, R391): it waits for its decode, or is discarded. [log: DEDUCED 67] -/
def Dev.firstFlit (s : Dev) (n : Nat) (h : FlitHdr) (pay : List Byte) (t : Option Tlp) : Dev :=
  let e := envOf pay
  let size := 16 + e.tlen
  let rx : RxPkt := { typ := e.typ, size := size, got := pay.length }
  let bad := headBad e h.ep || decide (size < pay.length) || (h.eop && pay.length != size)
  let next : Option RxPkt → Dev → Dev := fun r s => s.modBl n fun b => { b with rx := if h.eop then none else r }
  if bad then next (some { rx with dead := true }) (s.linkDiscard (linkPkt n e h.cc h.ep t (pay.drop 16)) 5)
  else next (some rx) (s.modBl n fun b =>
    { b with inbox := b.inbox ++ [{ env := e, cc := h.cc, par := h.ep, bytes := pay.drop 16, flits := 1, last := h.eop }] })

/-- The bytes of a later flit at the end of a content. -/
def addBytes (c : Content) (l : List Byte) : Content :=
  match c with
  | .tlp t => .tlp { t with raw := t.raw ++ l }
  | .ctl b => .ctl (b ++ l)
  | .marker sub info => .marker sub info

/-- A decoded packet found bad with a later flit (R391): discarded with reason code 0x05; one that a fabric port has begun to send
keeps the port until its stall timeout. [log: DESIGN CHOICE 220] -/
def Dev.lateBad (s : Dev) (pid : Nat) (p : Pkt) : Dev :=
  if s.isFabric p.egr ∧ 0 < p.granted then
    ((s.putPkt pid { p with cut := true }).enter { p with cells := [], shelved := 0 }).discard s.fwd.nextPid 5
  else { s with fwd.stg := s.fwd.stg.map fun (e : Nat × List StagedFlit) => (e.1, e.2.filter fun f => f.pid != pid) }.discard pid 5

/-- A later flit of the packet in progress (R295, R391): its bytes join those that wait, or those of the packet already decoded (R72).
[log: DEDUCED 67] -/
def Dev.laterFlit (s : Dev) (n : Nat) (h : FlitHdr) (pay : List Byte) (x : RxPkt) : Dev :=
  let got := x.got + pay.length
  let bad := decide (x.size < got) || (h.eop && got != x.size)
  let s1 := s.modBl n fun b => { b with rx := if h.eop then none else some { x with got := got, dead := x.dead || bad } }
  if x.dead then s1
  else match x.pid with
    | some pid => match s1.pkt? pid with
      | none => s1
      | some p =>
        if bad then s1.lateBad pid p
        else (s1.putPkt pid { p with content := addBytes p.content pay }).flitsCome pid (if h.eop then p.inFl else got / 236)
    | none =>
      match (s.bl! n).inbox.getLast? with
      | none => s1
      | some y =>
        if bad then (s1.modBl n fun b => { b with inbox := b.inbox.dropLast }).linkDiscard (linkPkt n y.env y.cc y.par none (y.bytes ++ pay)) 5
        else s1.modBl n fun b =>
          { b with inbox := b.inbox.dropLast ++ [{ y with bytes := y.bytes ++ pay, flits := y.flits + 1, last := h.eop }] }

/-- The packet of a data flit beyond the credit advertised, as the error log shows it (R60): the one in progress, else the flit's own.
[log: DEDUCED 237] -/
def Dev.flitPkt (s : Dev) (n : Nat) (h : FlitHdr) (body : List Byte) (t : Option Tlp) : Pkt :=
  match (s.bl! n).rx with
  | none => linkPkt n (envOf body) h.cc h.ep t (body.drop 16)
  | some x =>
    match x.dead, x.pid.bind s.pkt?, (s.bl! n).inbox.getLast? with
    | false, some p, _ => p
    | false, none, some y => linkPkt n y.env y.cc y.par none y.bytes
    | _, _, _ => { port := n, cc := h.cc, par := h.ep }

/-- A data flit in order (R295, R308, R448); one beyond the credit advertised is counted, logged and left to the link, whose sender still
holds it (R60). [log: DEDUCED 67, DEDUCED 69, DEDUCED 237] -/
def Dev.dataFlit (s : Dev) (n : Nat) (h : FlitHdr) (pay : List Byte) (t : Option Tlp) : Dev :=
  let b := s.bl! n
  if h.sop == b.rx.isSome then s.protoError n
  else
    let body := pay.take h.len
    let e := envOf body
    let pool := s.rxPool n ((b.rx.map (·.typ)).getD e.typ)
    if b.outstanding pool = 0 then (s.dropLog (s.flitPkt n h body t) 6).protoError n
    else
      let s1 := s.acceptFlit n pool
      let s2 := if s1.dl.cutActive ∧ ¬ s1.dl.cutSeen.testBit n then { s1 with dl.inflight := tmod 0 s1.dl.inflight n (· + 1) } else s1
      let s3 := { s2 with svc.flitAt := s.now }
      match b.rx with
      | none => s3.firstFlit n h body t
      | some x => s3.laterFlit n h body x

/-- A marker flit in order (R308, R451). [log: DESIGN CHOICE 70, DEDUCED 237] -/
def Dev.markerFlit (s : Dev) (n : Nat) (h : FlitHdr) : Dev :=
  if (s.bl! n).outstanding 3 = 0 then
    (s.dropLog { port := n, typ := .marker, oc := 7, cc := h.cc, par := h.ep, content := .marker h.sub h.info } 6).protoError n
  else (s.acceptFlit n 3).marker n h.sub h.info

/-- A data or marker flit by its sequence number (R315). -/
def Dev.seqFlit (s : Dev) (n : Nat) (h : FlitHdr) (pay : List Byte) (t : Option Tlp) : Dev :=
  let d := (h.seq + 16384 - s.fget Fld.BL_SEQ.RXNE n) % 16384
  if d = 0 then (if h.typ = 1 then s.dataFlit n h pay t else s.markerFlit n h)
  else if d ≤ 4095 then s.count .BL_GAP_CNT n 1
  else if 12288 ≤ d then s.count .BL_DUP_CNT n 1
  else s.protoError n

/-! Control flits -/

/-- A TIME flit (R609). A STATE flit that ends the partner's use of the link as its time port starts the idle time of R329.
[log: DESIGN CHOICE 70] -/
def Dev.timeFlit (s : Dev) (n info : Nat) : Dev :=
  let v := info % 2 ^ 20
  let k := info / 2 ^ 20 % 16
  if k = 1 then timeSync n v s
  else if k = 2 then timeReport n v s
  else if k = 3 then timeHigh n v s
  else if k = 4 then timeTop n v s
  else if k = 5 then
    let was := (s.tp n).tport
    let s1 := timeState n v s
    if was && !(s1.tp n).tport then s1.modBl n fun b => { b with idleFrom := s.now } else s1
  else if 6 ≤ k ∧ k ≤ 9 then timeRoot n (k - 6) v s
  else s.protoError n

/-- A control flit of an ACTIVE link (R294, R311, R329, R317). -/
def Dev.ctlFlit (s : Dev) (n : Nat) (h : FlitHdr) : Dev :=
  if h.sub = 1 then (s.fset Fld.BL_STAT.RXSLEEP n 1).modBl n fun b =>
    { b with replayAt := none, replayLeft := b.replayAt.map fun t => t - s.now, expAt := none }
  else if h.sub = 2 then s.linkFail n 4
  else if h.sub = 3 then s.timeFlit n h.info
  else s.protoError n

/-! Idle flits -/

/-- The partner's identity from a good idle flit (R297, R304, R340). -/
def Dev.idleFlit (s : Dev) (n : Nat) (b : List Byte) : Dev :=
  if ltagOk b then s.modBl n fun x => { x with partner := partnerOf b, rankKnown := true } else s

/-! The link states -/

/-- A good flit in TRAIN (R301, R328): an idle flit before every lane has passed ends the bring-up. -/
def Dev.flitInTrain (s : Dev) (n : Nat) (h : FlitHdr) (b : List Byte) : Dev :=
  if h.typ ≠ 0 ∨ ¬ ltagOk b then s
  else if (s.bl! n).allOkAt.isNone then s.bringFail n 7
  else s.idleFlit n b

/-- An S96 partner of a port set to 128 GT/s (R328). [log: DEDUCED 71] -/
def Dev.wrongS96 (s : Dev) (n : Nat) : Bool :=
  let p := (s.bl! n).partner
  p.known && p.device == 0x5096 && s.blRateCode n == 0x16

/-- A flit in ALIGN (R299, R305, R306): eight consecutive good flits that carry RXOK or are not idle flits make the link ACTIVE, between
ends of one rate and width (R286). [log: DEDUCED 71] -/
def Dev.flitInAlign (s : Dev) (n : Nat) (h : FlitHdr) (b : List Byte) : Dev :=
  if ¬ (s.bl! n).aligned then s
  else
    let first := !(s.bl! n).partner.known
    let s0 := if h.typ = 0 then s.idleFlit n b else s
    let s1 := if first ∧ (s0.bl! n).partner.known then s0.fillNbr n else s0
    if s1.wrongS96 n then s1.bringFail n 7
    else
      let p := (s1.bl! n).partner
      let fits := !p.known || (p.rate == s1.blRateCode n && p.width == s1.width n)
      let ok := fits && (h.typ != 0 || (ltagOk b && p.rxok))
      let run := if ok then (s1.bl! n).goodRun + 1 else 0
      if 8 ≤ run then s1.enterActive n else s1.modBl n fun x => { x with goodRun := run }

/-- A good flit of an ACTIVE link: its ACK and CRED (R296), then what it is. [log: DEDUCED 66] -/
def Dev.flitInActive (s : Dev) (n : Nat) (h : FlitHdr) (b : List Byte) (t : Option Tlp) : Dev :=
  let s1 := if h.ackv then s.ackProcess n h.ack else s
  let s2 := if s1.blState n = blUp then s1.creditIn n h.cpool h.cred else s1
  if s2.blState n ≠ blUp then s2
  else if h.typ = 0 then s2.idleFlit n b
  else if h.typ = 3 then s2.ctlFlit n h
  else if 3 < h.typ ∨ (h.typ = 2 ∧ (h.sub = 0 ∨ 3 < h.sub)) ∨ (h.typ = 1 ∧ (h.len = 0 ∨ 236 < h.len)) then s2.protoError n
  else s2.seqFlit n h ((b.drop 12).take 236) t

/-- FLIT_RECEIVE: 256 bytes from the line of a fabric port whose receiver is awake; a bad flit is discarded whole (R291). `t` reads the
TLP of a packet that ends with the flit, for its discard. [log: DEDUCED 64] -/
def flitReceive (n : Nat) (b : List Byte) (t : Option Tlp) (s : Dev) : Dev :=
  let st := s.blState n
  if ¬ s.isFabric n ∨ b.length ≠ 256 ∨ st = blDisabled ∨ st = blHeld ∨ (st = blUp ∧ s.fbit Fld.BL_STAT.RXSLEEP n) then s
  else
    let (c, g) := checkFlit b
    let s1 := s.flitCounts n c
    if c = .bad then s1.modBl n fun x => { x with goodRun := 0 }
    else
      let h := flitHdr (beNat (g.take 12))
      if st = blTrain then s1.flitInTrain n h g
      else if st = blAlign then s1.flitInAlign n h g
      else if st = blUp then s1.flitInActive n h g t
      else if h.typ = 3 ∧ h.sub = 2 then s1.mergeReset n else s1

def execFlitReceive (n : Nat) (b : List Byte) (t : Option Tlp) (s : State) : Host.Outcome State Fault Refusal :=
  s.act (flitReceive n b t)

end Sys2Proof.Machine
end

