-- ==== Sys2Proof/Machine/Dispatch.lean ====
section
/-! DEFINITION. The dispatch: one arm for each command, a direct call of its meaning. -/
namespace Sys2Proof.Machine

def exec (i : Instr) (s : State) : Host.Outcome State Fault Refusal :=
  match i with
  | .registerWrite p a part v => Sys2Proof.Machine.execRegisterWrite p a part v s
  | .rcRead p a => Sys2Proof.Machine.execRcRead p a s
  | .firstEventRecordClear r inst ev => Sys2Proof.Machine.execFirstEventRecordClear r inst ev s
  | .lpddr4xAccess p write addr len data => Sys2Proof.Machine.execLpddr4xAccess p write addr len data s
  | .packetIngress port x => Sys2Proof.Machine.execPacketIngress port x s
  | .eseqAssign pid => Sys2Proof.Machine.execEseqAssign pid s
  | .coreLookup pid chk => Sys2Proof.Machine.execCoreLookup pid chk s
  | .npReservation pid => Sys2Proof.Machine.execNpReservation pid s
  | .grant a reqs tenure release => Sys2Proof.Machine.execGrant a reqs tenure release s
  | .crossbarDataPhase a chk => Sys2Proof.Machine.execCrossbarDataPhase a chk s
  | .egressEncode port => Sys2Proof.Machine.execEgressEncode port s
  | .egressTlpStart port => Sys2Proof.Machine.execEgressTlpStart port s
  | .egressStallTimeout port => Sys2Proof.Machine.execEgressStallTimeout port s
  | .roundBoundary a => Sys2Proof.Machine.execRoundBoundary a s
  | .tenureCut a => Sys2Proof.Machine.execTenureCut a s
  | .trickCut64 a port => Sys2Proof.Machine.execTrickCut64 a port s
  | .trickHoldCut a port => Sys2Proof.Machine.execTrickHoldCut a port s
  | .parkReleaseIdle a => Sys2Proof.Machine.execParkReleaseIdle a s
  | .commit p => Sys2Proof.Machine.execCommit p s
  | .hatchWrite a p close => Sys2Proof.Machine.execHatchWrite a p close s
  | .hatchWatchdog a => Sys2Proof.Machine.execHatchWatchdog a s
  | .calendarSlotBegin => Sys2Proof.Machine.execCalendarSlotBegin s
  | .flowSweepVisit f => Sys2Proof.Machine.execFlowSweepVisit f s
  | .gateEntryBegin port => Sys2Proof.Machine.execGateEntryBegin port s
  | .gateSwitchover port => Sys2Proof.Machine.execGateSwitchover port s
  | .samplingPass late => Sys2Proof.Machine.execSamplingPass late s
  | .pcieLinkUp port partner => Sys2Proof.Machine.execPcieLinkUp port partner s
  | .pcieLinkDown port hotReset => Sys2Proof.Machine.execPcieLinkDown port hotReset s
  | .pcieRecovery port failedTo rate => Sys2Proof.Machine.execPcieRecovery port failedTo rate s
  | .pcieEqualisation port rate found => Sys2Proof.Machine.execPcieEqualisation port rate found s
  | .l0pWindowEnd port used cap => Sys2Proof.Machine.execL0pWindowEnd port used cap s
  | .l0pWidenComplete port => Sys2Proof.Machine.execL0pWidenComplete port s
  | .l0pPartnerRequest port width => Sys2Proof.Machine.execL0pPartnerRequest port width s
  | .aspmL1Entry port => Sys2Proof.Machine.execAspmL1Entry port s
  | .configRequest vs tgt off write reqId tag => Sys2Proof.Machine.execConfigRequest vs tgt off write reqId tag s
  | .vdspLinkDisable vs n dis => Sys2Proof.Machine.execVdspLinkDisable vs n dis s
  | .vdspRetrainLink vs n => Sys2Proof.Machine.execVdspRetrainLink vs n s
  | .vdspTargetLinkSpeed vs n speed => Sys2Proof.Machine.execVdspTargetLinkSpeed vs n speed s
  | .vdspAspmControl vs n ctl => Sys2Proof.Machine.execVdspAspmControl vs n ctl s
  | .secondaryBusReset vs n set => Sys2Proof.Machine.execSecondaryBusReset vs n set s
  | .vdspLinkStatusUpdate vs n speed width training told => Sys2Proof.Machine.execVdspLinkStatusUpdate vs n speed width training told s
  | .remoteErrorNotice vs n err hdr => Sys2Proof.Machine.execRemoteErrorNotice vs n err hdr s
  | .dpcSoftwareTrigger vs n => Sys2Proof.Machine.execDpcSoftwareTrigger vs n s
  | .dpcTriggerStatusWrite vs n => Sys2Proof.Machine.execDpcTriggerStatusWrite vs n s
  | .dpcRelease vs n => Sys2Proof.Machine.execDpcRelease vs n s
  | .ptmRequest src => Sys2Proof.Machine.execPtmRequest src s
  | .presenceDebounced slot present => Sys2Proof.Machine.execPresenceDebounced slot present s
  | .attentionButtonPress slot => Sys2Proof.Machine.execAttentionButtonPress slot s
  | .slotIndicatorWrite vs n atn pwr => Sys2Proof.Machine.execSlotIndicatorWrite vs n atn pwr s
  | .slotPowerOn vs n => Sys2Proof.Machine.execSlotPowerOn vs n s
  | .slotPowerOff vs n => Sys2Proof.Machine.execSlotPowerOff vs n s
  | .slotPerstRelease slot => Sys2Proof.Machine.execSlotPerstRelease slot s
  | .slotCommandCompleted vs n => Sys2Proof.Machine.execSlotCommandCompleted vs n s
  | .doorbellWrite vs fn q tail => Sys2Proof.Machine.execDoorbellWrite vs fn q tail s
  | .descriptorFetchComplete q cpl => Sys2Proof.Machine.execDescriptorFetchComplete q cpl s
  | .queueEnable q => Sys2Proof.Machine.execQueueEnable q s
  | .queueDisable q => Sys2Proof.Machine.execQueueDisable q s
  | .queueIdle q => Sys2Proof.Machine.execQueueIdle q s
  | .vectorUnmask vs fn vec => Sys2Proof.Machine.execVectorUnmask vs fn vec s
  | .revokeGraceExpiry q => Sys2Proof.Machine.execRevokeGraceExpiry q s
  | .completionTimeout vs fn tag => Sys2Proof.Machine.execCompletionTimeout vs fn tag s
  | .sfCompletionArrival vs fn tag cpl => Sys2Proof.Machine.execSfCompletionArrival vs fn tag cpl s
  | .tagQuarantineEnd vs fn tag => Sys2Proof.Machine.execTagQuarantineEnd vs fn tag s
  | .functionLevelReset vs fn => Sys2Proof.Machine.execFunctionLevelReset vs fn s
  | .flrComplete vs fn => Sys2Proof.Machine.execFlrComplete vs fn s
  | .busMasterDisable vs fn => Sys2Proof.Machine.execBusMasterDisable vs fn s
  | .busMasterEnable vs fn => Sys2Proof.Machine.execBusMasterEnable vs fn s
  | .ledgerSwap vs ctx => Sys2Proof.Machine.execLedgerSwap vs ctx s
  | .ledgerSwapDone vs ctx => Sys2Proof.Machine.execLedgerSwapDone vs ctx s
  | .ledgerSwapTimeout vs ctx => Sys2Proof.Machine.execLedgerSwapTimeout vs ctx s
  | .mailboxGo vs req => Sys2Proof.Machine.execMailboxGo vs req s
  | .postedErrorReportReceive r => Sys2Proof.Machine.execPostedErrorReportReceive r s
  | .watchIntervalEnd lane cw sym unc util => Sys2Proof.Machine.execWatchIntervalEnd lane cw sym unc util s
  | .bankTempUpdate bank temp => Sys2Proof.Machine.execBankTempUpdate bank temp s
  | .prbsStart lane => Sys2Proof.Machine.execPrbsStart lane s
  | .prbsTestEnd lane bits errs => Sys2Proof.Machine.execPrbsTestEnd lane bits errs s
  | .prbsLockLoss lane bits errs => Sys2Proof.Machine.execPrbsLockLoss lane bits errs s
  | .flitReceive port b t => Sys2Proof.Machine.execFlitReceive port b t s
  | .flitSend port => Sys2Proof.Machine.execFlitSend port s
  | .portEnable port => Sys2Proof.Machine.execPortEnable port s
  | .portDisable port => Sys2Proof.Machine.execPortDisable port s
  | .bringupCheckWindowEnd port lane bits errs => Sys2Proof.Machine.execBringupCheckWindowEnd port lane bits errs s
  | .alignEntry port => Sys2Proof.Machine.execAlignEntry port s
  | .bringupTimeout port => Sys2Proof.Machine.execBringupTimeout port s
  | .resetFlitsSent port => Sys2Proof.Machine.execResetFlitsSent port s
  | .quietEnd port => Sys2Proof.Machine.execQuietEnd port s
  | .signalDetect port => Sys2Proof.Machine.execSignalDetect port s
  | .lowerRankWaitExpiry port => Sys2Proof.Machine.execLowerRankWaitExpiry port s
  | .signalLoss port lane => Sys2Proof.Machine.execSignalLoss port lane s
  | .replayTimerExpiry port => Sys2Proof.Machine.execReplayTimerExpiry port s
  | .blSleepEntry port => Sys2Proof.Machine.execBlSleepEntry port s
  | .blWake port => Sys2Proof.Machine.execBlWake port s
  | .blRealignTimeout port => Sys2Proof.Machine.execBlRealignTimeout port s
  | .neighbourNoticeSend port => Sys2Proof.Machine.execNeighbourNoticeSend port s
  | .directedPacketRelay port b => Sys2Proof.Machine.execDirectedPacketRelay port b s
  | .neighbourQuery port b => Sys2Proof.Machine.execNeighbourQuery port b s
  | .neighbourReply port b => Sys2Proof.Machine.execNeighbourReply port b s
  | .classCheck port b => Sys2Proof.Machine.execClassCheck port b s
  | .directedMwRequest port b => Sys2Proof.Machine.execDirectedMwRequest port b s
  | .directedMwResponse port b => Sys2Proof.Machine.execDirectedMwResponse port b s
  | .directedDownTree port b => Sys2Proof.Machine.execDirectedDownTree port b s
  | .directedUpTree port b => Sys2Proof.Machine.execDirectedUpTree port b s
  | .vdspWindowRegisterWrite vs n r v => Sys2Proof.Machine.execVdspWindowRegisterWrite vs n r v s
  | .windowHoldTimeout vs n => Sys2Proof.Machine.execWindowHoldTimeout vs n s
  | .busMapUpdate m => Sys2Proof.Machine.execBusMapUpdate m s
  | .handReturnSend f d => Sys2Proof.Machine.execHandReturnSend f d s
  | .handReturnReceive f count0 count1 => Sys2Proof.Machine.execHandReturnReceive f count0 count1 s
  | .handAudit => Sys2Proof.Machine.execHandAudit s
  | .stagingCheckStart => Sys2Proof.Machine.execStagingCheckStart s
  | .stagingCheckDone => Sys2Proof.Machine.execStagingCheckDone s
  | .fabricTimeout reqId tag => Sys2Proof.Machine.execFabricTimeout reqId tag s
  | .fabricQuarantineEnd reqId tag => Sys2Proof.Machine.execFabricQuarantineEnd reqId tag s
  | .lockBrokenNotice vs => Sys2Proof.Machine.execLockBrokenNotice vs s
  | .mwRead src id addr => Sys2Proof.Machine.execMwRead src id addr s
  | .mwWrite src id addr data => Sys2Proof.Machine.execMwWrite src id addr data s
  | .mwLockRead src id addr => Sys2Proof.Machine.execMwLockRead src id addr s
  | .mwUnlockWrite src id addr data => Sys2Proof.Machine.execMwUnlockWrite src id addr data s
  | .mwResponse src id status data => Sys2Proof.Machine.execMwResponse src id status data s
  | .mwReadTimeout id => Sys2Proof.Machine.execMwReadTimeout id s
  | .mwLockTimeout => Sys2Proof.Machine.execMwLockTimeout s
  | .e2eAckSend f oc => Sys2Proof.Machine.execE2eAckSend f oc s
  | .e2eAckReceive d oc nd => Sys2Proof.Machine.execE2eAckReceive d oc nd s
  | .e2eTimerExpiry d oc => Sys2Proof.Machine.execE2eTimerExpiry d oc s
  | .fenceWrite f oc src val => Sys2Proof.Machine.execFenceWrite f oc src val s
  | .skipWrite f oc src val => Sys2Proof.Machine.execSkipWrite f oc src val s
  | .fencePoll f d oc => Sys2Proof.Machine.execFencePoll f d oc s
  | .fenceTimeout f d oc => Sys2Proof.Machine.execFenceTimeout f d oc s
  | .lifetimeExpiry pid => Sys2Proof.Machine.execLifetimeExpiry pid s
  | .prepare src m => Sys2Proof.Machine.execPrepare src m s
  | .vote m src => Sys2Proof.Machine.execVote m src s
  | .goDeal src m => Sys2Proof.Machine.execGoDeal src m s
  | .dealApply => Sys2Proof.Machine.execDealApply s
  | .cancel src m => Sys2Proof.Machine.execCancel src m s
  | .drainMessage src m => Sys2Proof.Machine.execDrainMessage src m s
  | .drainLocalConfirm => Sys2Proof.Machine.execDrainLocalConfirm s
  | .confirm src m => Sys2Proof.Machine.execConfirm src m s
  | .release src m => Sys2Proof.Machine.execRelease src m s
  | .markerReceive port sub info => Sys2Proof.Machine.execMarkerReceive port sub info s
  | .markerTimeout isCut => Sys2Proof.Machine.execMarkerTimeout isCut s
  | .cut src m => Sys2Proof.Machine.execCut src m s
  | .cutRecordComplete => Sys2Proof.Machine.execCutRecordComplete s
  | .cutDone src m => Sys2Proof.Machine.execCutDone src m s
  | .treeChildTimeout kind => Sys2Proof.Machine.execTreeChildTimeout kind s
  | .dealerHeartbeat => Sys2Proof.Machine.execDealerHeartbeat s
  | .dealerTakeover => Sys2Proof.Machine.execDealerTakeover s
  | .resetMessage src m => Sys2Proof.Machine.execResetMessage src m s
  | .fabricReset => Sys2Proof.Machine.execFabricReset s
  | .collDescriptor q data => Sys2Proof.Machine.execCollDescriptor q data s
  | .collUp src m => Sys2Proof.Machine.execCollUp src m s
  | .collDown src m => Sys2Proof.Machine.execCollDown src m s
  | .collCredit src m => Sys2Proof.Machine.execCollCredit src m s
  | .collCreditSend g child => Sys2Proof.Machine.execCollCreditSend g child s
  | .collAbort src m => Sys2Proof.Machine.execCollAbort src m s
  | .collTimeout g => Sys2Proof.Machine.execCollTimeout g s
  | .groupDisable g => Sys2Proof.Machine.execGroupDisable g s
  | .runDispatch cluster => Sys2Proof.Machine.execRunDispatch cluster s
  | .copyDescriptor q => Sys2Proof.Machine.execCopyDescriptor q s
  | .nopDescriptor q => Sys2Proof.Machine.execNopDescriptor q s
  | .quantumBoundary => Sys2Proof.Machine.execQuantumBoundary s
  | .runLimitExpiry run => Sys2Proof.Machine.execRunLimitExpiry run s
  | .ld e w => Sys2Proof.Machine.execLd e w s
  | .st e w => Sys2Proof.Machine.execSt e w s
  | .ldp e w => Sys2Proof.Machine.execLdp e w s
  | .stp e w => Sys2Proof.Machine.execStp e w s
  | .vld e w => Sys2Proof.Machine.execVld e w s
  | .vst e w => Sys2Proof.Machine.execVst e w s
  | .prf e w => Sys2Proof.Machine.execPrf e w s
  | .aadd e w => Sys2Proof.Machine.execAadd e w s
  | .aand e w => Sys2Proof.Machine.execAand e w s
  | .aor e w => Sys2Proof.Machine.execAor e w s
  | .aswp e w => Sys2Proof.Machine.execAswp e w s
  | .acas e w => Sys2Proof.Machine.execAcas e w s
  | .acasp e w => Sys2Proof.Machine.execAcasp e w s
  | .mov e w => Sys2Proof.Machine.execMov e w s
  | .movi e w => Sys2Proof.Machine.execMovi e w s
  | .movh e w => Sys2Proof.Machine.execMovh e w s
  | .add e w => Sys2Proof.Machine.execAdd e w s
  | .addi e w => Sys2Proof.Machine.execAddi e w s
  | .sub e w => Sys2Proof.Machine.execSub e w s
  | .mul e w => Sys2Proof.Machine.execMul e w s
  | .andOp e w => Sys2Proof.Machine.execAndOp e w s
  | .orOp e w => Sys2Proof.Machine.execOrOp e w s
  | .xorOp e w => Sys2Proof.Machine.execXorOp e w s
  | .shl e w => Sys2Proof.Machine.execShl e w s
  | .shr e w => Sys2Proof.Machine.execShr e w s
  | .slt e w => Sys2Proof.Machine.execSlt e w s
  | .mcpy e w => Sys2Proof.Machine.execMcpy e w s
  | .mfill e w => Sys2Proof.Machine.execMfill e w s
  | .vadd e w => Sys2Proof.Machine.execVadd e w s
  | .vmul e w => Sys2Proof.Machine.execVmul e w s
  | .vfma e w => Sys2Proof.Machine.execVfma e w s
  | .vmin e w => Sys2Proof.Machine.execVmin e w s
  | .vmax e w => Sys2Proof.Machine.execVmax e w s
  | .vbc e w => Sys2Proof.Machine.execVbc e w s
  | .vext e w => Sys2Proof.Machine.execVext e w s
  | .acz e w => Sys2Proof.Machine.execAcz e w s
  | .aca e w => Sys2Proof.Machine.execAca e w s
  | .acr e w => Sys2Proof.Machine.execAcr e w s
  | .waitOp e w => Sys2Proof.Machine.execWaitOp e w s
  | .waitMet e data => Sys2Proof.Machine.execWaitMet e data s
  | .waitTimeout e => Sys2Proof.Machine.execWaitTimeout e s
  | .sig e w => Sys2Proof.Machine.execSig e w s
  | .irq e w => Sys2Proof.Machine.execIrq e w s
  | .b e w => Sys2Proof.Machine.execB e w s
  | .bz e w => Sys2Proof.Machine.execBz e w s
  | .bnz e w => Sys2Proof.Machine.execBnz e w s
  | .call e w => Sys2Proof.Machine.execCall e w s
  | .ret e w => Sys2Proof.Machine.execRet e w s
  | .endOp e w => Sys2Proof.Machine.execEndOp e w s
  | .barEngine e w => Sys2Proof.Machine.execBarEngine e w s
  | .barCluster e w => Sys2Proof.Machine.execBarCluster e w s
  | .barSystem e w => Sys2Proof.Machine.execBarSystem e w s
  | .systemBarrierComplete e oks => Sys2Proof.Machine.execSystemBarrierComplete e oks s
  | .deviceLoadReturn e r => Sys2Proof.Machine.execDeviceLoadReturn e r s
  | .prefetchEntryExpiry e addr => Sys2Proof.Machine.execPrefetchEntryExpiry e addr s
  | .engineSample e ahead => Sys2Proof.Machine.execEngineSample e ahead s
  | .read h es => Sys2Proof.Machine.execRead h es s
  | .write h es => Sys2Proof.Machine.execWrite h es s
  | .describe h r => Sys2Proof.Machine.execDescribe h r s
  | .subscribe h mask => Sys2Proof.Machine.execSubscribe h mask s
  | .notifyAck h nseq => Sys2Proof.Machine.execNotifyAck h nseq s
  | .keepalive h => Sys2Proof.Machine.execKeepalive h s
  | .openSession h slot body => Sys2Proof.Machine.execOpenSession h slot body s
  | .proof h sig => Sys2Proof.Machine.execProof h sig s
  | .closeSession h => Sys2Proof.Machine.execCloseSession h s
  | .sessionIdleTimeout k => Sys2Proof.Machine.execSessionIdleTimeout k s
  | .proofTimeout k => Sys2Proof.Machine.execProofTimeout k s
  | .keySlotUnlock slot => Sys2Proof.Machine.execKeySlotUnlock slot s
  | .rwsFlashCommit k => Sys2Proof.Machine.execRwsFlashCommit k s
  | .notifyRetransmit k => Sys2Proof.Machine.execNotifyRetransmit k s
  | .eventNoticeSend src => Sys2Proof.Machine.execEventNoticeSend src s
  | .continueCmd h => Sys2Proof.Machine.execContinueCmd h s
  | .drain h => Sys2Proof.Machine.execDrain h s
  | .maintain h force => Sys2Proof.Machine.execMaintain h force s
  | .maintainComplete => Sys2Proof.Machine.execMaintainComplete s
  | .maintainTimeout => Sys2Proof.Machine.execMaintainTimeout s
  | .resume h => Sys2Proof.Machine.execResume h s
  | .abortDrain h => Sys2Proof.Machine.execAbortDrain h s
  | .mgmtReset h => Sys2Proof.Machine.execMgmtReset h s
  | .deviceFault cause => Sys2Proof.Machine.execDeviceFault cause s
  | .loadDataWrite h idx data => Sys2Proof.Machine.execLoadDataWrite h idx data s
  | .loadOffsetWrite h idx off => Sys2Proof.Machine.execLoadOffsetWrite h idx off s
  | .eqOpen h => Sys2Proof.Machine.execEqOpen h s
  | .eqCommit h => Sys2Proof.Machine.execEqCommit h s
  | .marginCmd h port v => Sys2Proof.Machine.execMarginCmd h port v s
  | .marginDone port bits errs => Sys2Proof.Machine.execMarginDone port bits errs s
  | .dpcCmd h port => Sys2Proof.Machine.execDpcCmd h port s
  | .atnCmd h port => Sys2Proof.Machine.execAtnCmd h port s
  | .resAddQueues h vs fn v => Sys2Proof.Machine.execResAddQueues h vs fn v s
  | .resRevokeQueues h vs fn v => Sys2Proof.Machine.execResRevokeQueues h vs fn v s
  | .resSetVectors h vs fn v => Sys2Proof.Machine.execResSetVectors h vs fn v s
  | .resSetEngineWeight h vs fn v => Sys2Proof.Machine.execResSetEngineWeight h vs fn v s
  | .resSetFlow h vs fn v => Sys2Proof.Machine.execResSetFlow h vs fn v s
  | .schedCommit h => Sys2Proof.Machine.execSchedCommit h s
  | .regValWrite h v => Sys2Proof.Machine.execRegValWrite h v s
  | .cutCmd h id => Sys2Proof.Machine.execCutCmd h id s
  | .directedSend h b => Sys2Proof.Machine.execDirectedSend h b s
  | .keyOpen h slot => Sys2Proof.Machine.execKeyOpen h slot s
  | .keyCommit h slot role => Sys2Proof.Machine.execKeyCommit h slot role s
  | .keyErase h slot => Sys2Proof.Machine.execKeyErase h slot s
  | .reportCmd h nonce => Sys2Proof.Machine.execReportCmd h nonce s
  | .reportReady => Sys2Proof.Machine.execReportReady s
  | .progOpen h slot vs => Sys2Proof.Machine.execProgOpen h slot vs s
  | .progCommit h slot => Sys2Proof.Machine.execProgCommit h slot s
  | .programMeasured slot => Sys2Proof.Machine.execProgramMeasured slot s
  | .progRetire h slot => Sys2Proof.Machine.execProgRetire h slot s
  | .fwOpen h kind => Sys2Proof.Machine.execFwOpen h kind s
  | .fwCommit h kind => Sys2Proof.Machine.execFwCommit h kind s
  | .raiseSvn h kind => Sys2Proof.Machine.execRaiseSvn h kind s
  | .peClear h => Sys2Proof.Machine.execPeClear h s
  | .clusterReset h c => Sys2Proof.Machine.execClusterReset h c s
  | .timeSync port val => Sys2Proof.Machine.execTimeSync port val s
  | .timeReport port val => Sys2Proof.Machine.execTimeReport port val s
  | .timeHigh port val => Sys2Proof.Machine.execTimeHigh port val s
  | .timeTop port val => Sys2Proof.Machine.execTimeTop port val s
  | .timeState port val => Sys2Proof.Machine.execTimeState port val s
  | .timeRoot port q val => Sys2Proof.Machine.execTimeRoot port q val s
  | .timeExchangeInterval port => Sys2Proof.Machine.execTimeExchangeInterval port s
  | .timeDescriptorExpiry port => Sys2Proof.Machine.execTimeDescriptorExpiry port s
  | .timePortLoss port => Sys2Proof.Machine.execTimePortLoss port s
  | .ptmHostRequest vs => Sys2Proof.Machine.execPtmHostRequest vs s
  | .ptmHostResponse vs host => Sys2Proof.Machine.execPtmHostResponse vs host s
  | .bwWindowEnd => Sys2Proof.Machine.execBwWindowEnd s
  | .wearTick => Sys2Proof.Machine.execWearTick s
  | .wearStore => Sys2Proof.Machine.execWearStore s
  | .dieTempReading die milliC => Sys2Proof.Machine.execDieTempReading die milliC s
  | .remeasure slot code => Sys2Proof.Machine.execRemeasure slot code s
  | .imageMeasure slot => Sys2Proof.Machine.execImageMeasure slot s
  | .bootComplete => Sys2Proof.Machine.execBootComplete s
  | .eccInitComplete => Sys2Proof.Machine.execEccInitComplete s
  | .rrsLimitExpiry => Sys2Proof.Machine.execRrsLimitExpiry s
  | .powerGood => Sys2Proof.Machine.execPowerGood s
  | .warmReset held => Sys2Proof.Machine.execWarmReset held s
  | .vsHotReset vs => Sys2Proof.Machine.execVsHotReset vs s
  | .hostPerstAssert port => Sys2Proof.Machine.execHostPerstAssert port s
  | .hostPerstRelease port => Sys2Proof.Machine.execHostPerstRelease port s
  | .controllerStart x => Sys2Proof.Machine.execControllerStart x s
  | .feedUsable f x => Sys2Proof.Machine.execFeedUsable f x s
  | .feedLost f why x => Sys2Proof.Machine.execFeedLost f why x s
  | .transferBreakEnd => Sys2Proof.Machine.execTransferBreakEnd s
  | .transferEnd x => Sys2Proof.Machine.execTransferEnd x s
  | .feedRevert x => Sys2Proof.Machine.execFeedRevert x s
  | .rampEnd x => Sys2Proof.Machine.execRampEnd x s
  | .inrushFaultTimeout => Sys2Proof.Machine.execInrushFaultTimeout s
  | .railFaultTimeout => Sys2Proof.Machine.execRailFaultTimeout s
  | .fastTrip f ma => Sys2Proof.Machine.execFastTrip f ma s
  | .breakerTrip f pt ma => Sys2Proof.Machine.execBreakerTrip f pt ma s
  | .latchRelease => Sys2Proof.Machine.execLatchRelease s
  | .controllerStop x => Sys2Proof.Machine.execControllerStop x s
  | .sagWarn x => Sys2Proof.Machine.execSagWarn x s
  | .pfwRelease x => Sys2Proof.Machine.execPfwRelease x s
  | .sagReset x => Sys2Proof.Machine.execSagReset x s
  | .energyStore => Sys2Proof.Machine.execEnergyStore s
  | .slotSoftStart k => Sys2Proof.Machine.execSlotSoftStart k s
  | .slotPowerGood k mv => Sys2Proof.Machine.execSlotPowerGood k mv s
  | .slotStartTimeout k => Sys2Proof.Machine.execSlotStartTimeout k s
  | .slotFastTrip k ma => Sys2Proof.Machine.execSlotFastTrip k ma s
  | .slotFaultTimeTrip k ma => Sys2Proof.Machine.execSlotFaultTimeTrip k ma s
  | .slotVoutTrip k mv => Sys2Proof.Machine.execSlotVoutTrip k mv s
  | .slotRetryEnd k => Sys2Proof.Machine.execSlotRetryEnd k s
  | .slotCountRestart k => Sys2Proof.Machine.execSlotCountRestart k s
  | .slotPresenceLoss k => Sys2Proof.Machine.execSlotPresenceLoss k s
  | .slotSag k mv => Sys2Proof.Machine.execSlotSag k mv s
  | .slotPfwRelease k mv => Sys2Proof.Machine.execSlotPfwRelease k mv s
  | .receiverAligned port => Sys2Proof.Machine.execReceiverAligned port s
  | .prbsCheckerLock lane => Sys2Proof.Machine.execPrbsCheckerLock lane s
  | .l1Exit port => Sys2Proof.Machine.execL1Exit port s
  | .pcieCreditUpdate port kind hdr data => Sys2Proof.Machine.execPcieCreditUpdate port kind hdr data s
  | .storeVisible e seq => Sys2Proof.Machine.execStoreVisible e seq s
  | .accessComplete e seq r => Sys2Proof.Machine.execAccessComplete e seq r s
  | .copyComplete q moved data => Sys2Proof.Machine.execCopyComplete q moved data s
  | .rstNRelease => Sys2Proof.Machine.execRstNRelease s

end Sys2Proof.Machine
end

