-- ==== Sys2Proof/Machine/Tick.lean ====
section
/-! DEFINITION. The tick: what a step does when no command waits. Time passes by one unit of 125 ps (R605); fabric time runs with it at
the rate its servo has set (R606); a new core cycle begins every four units, with what begins or ends with it; a ledger mark is written (R253) a drain round's markers leave once their conditions hold
(R440), accesses that no lock holds any longer are served (R409), a slot channel turned off by software cuts its gate after 10 µs (R211), the power-entry controller acts on its samples (R671),
blinking indicators follow their wave (R209), and the contacts PERST_N what drives them (R712). -/
namespace Sys2Proof.Machine

/-- One unit of 125 ps passes; the servo's correction adds up to whole units. [log: DESIGN CHOICE 3, DESIGN CHOICE 166] -/
def Dev.advance1 (s : Dev) : Dev :=
  let acc := s.tel.slewAcc + s.tel.slew
  let billion : Int := 1000000000
  let (n, rest) := if billion ≤ acc then (2, acc - billion) else if acc ≤ -billion then (0, acc + billion) else (1, acc)
  { s with now := s.now + 1, ftime := (s.ftime + n) % 2 ^ 64, tel.slewAcc := rest }

/-- A deal applied late, in the core cycle after its GO (R437). [log: DESIGN CHOICE 3, DEDUCED 90] -/
def Dev.lateDeal (s : Dev) : Dev := if s.fget Fld.DL_DEAL_STAT.STATE 0 = 1 ∧ s.dl.goLate.isSome ∧ s.dealDue then s.applyDeal true else s

/-- A fabric reset whose message arrived at or after T, in the core cycle after its arrival (R696).
[log: DESIGN CHOICE 3, DEDUCED 90] -/
def Dev.lateReset (s : Dev) : Dev := if s.dl.resetLate then s.fabricReset else s

/-- A core cycle begins: a step of fabric time is made (R618), fabric time is sampled (R605), a late deal and the commit of an earlier cycle take effect (R33, R123), freed
cells are free (R83), flits whose time on the bypass route is over are written (R89), PCI Express ports advertise credit (R80) and
ask for full width where their queues need it (R176), what the cycle left to the links, the lanes and the service functions is done, and the Ikiup requests it completed are carried out
(R227, R240, R247, R276, R320, R332, R393, R487, R577). [log: DESIGN CHOICE 3, DEDUCED 233] -/
def Dev.cycleBegins (s : Dev) : Dev :=
  let s1 := { s with cyc := {} }.stepDue.sampleTime.lateReset.lateDeal.commitDue.freeCells.writeFresh
  (each extPorts s1 fun s n => (s.advertise n).backlogFull n).lowWater.linkCycle.watchCycle.reqCycle.collCycle.sfCycle.serveRequests

/-- One tick. [log: DESIGN CHOICE 3, DESIGN CHOICE 201] -/
def Dev.tick (s : Dev) : Dev :=
  let s1 := s.advance1
  (if s1.cycle = s.cycle then s1 else s1.cycleBegins).retireTick.drainMark.postDrain.busFree.slotTurnOff.sampleEnd.blinkTick.perstTick

end Sys2Proof.Machine
end

