-- ==== Sys2Proof/WellFormed.lean ====
section
/-! DEFINITION. The ranges the spec gives the operands of the commands. A command out of range spells no event of this module; the
machine does not rely on these ranges, and a command out of range meets a guard of its meaning and changes nothing, or is
read as the wrapped number. -/
namespace Sys2Proof

/-- The fields of an operation word in their widths (R496). -/
def OpWord.wf (w : OpWord) : Bool :=
  decide (w.d < 16) && decide (w.a < 16) && decide (w.b < 16) && decide (w.m < 16) && decide (w.resv < 256) && decide (w.imm < 4294967296)

/-- The fields of a tree message in their widths (R463). -/
def TreeMsg.wf (m : TreeMsg) : Bool :=
  decide (m.kind < 256) && decide (m.flags < 256) && decide (m.term < 65536) && decide (m.epoch < 4294967296)
    && decide (m.t < 18446744073709551616) && decide (m.count1 < 65536) && decide (m.count2 < 65536)

/-- The fields of a collective message in their widths (R483): 256 groups, chunks of a payload of at most 4,096 bytes. -/
def CollMsg.wf (m : CollMsg) : Bool :=
  decide (m.kind < 16) && decide (m.group < 256) && decide (m.gen < 256) && decide (m.iseq < 65536) && decide (m.payload.length ≤ 4096)

/-- A request header: SEQ is 32 bits (R573). -/
def ReqHdr.wf (h : ReqHdr) : Bool := decide (h.seq < 4294967296)

/-- An object entry's address: index of 16 bits, subindex and type of 8 (R572). -/
def EntryRef.wf (r : EntryRef) : Bool := decide (r.index < 65536) && decide (r.sub < 256) && decide (r.typ < 256)

/-- A requester of an arbiter and its core class (R96). -/
def ArbReq.wf (r : ArbReq) : Bool := decide (r.input < 68) && decide (r.cls < 8)

/-- A TLP: tag of 14 bits, IDs of 16, traffic class of 3, a length of at most 4,224 bytes (R387). -/
def Tlp.wf (t : Tlp) : Bool :=
  decide (t.tc < 8) && decide (t.reqId < 65536) && decide (t.tag < 16384) && decide (t.cplId < 65536) && decide (t.target < 65536)
    && decide (t.addr < 18446744073709551616) && decide (t.be < 256) && decide (1 ≤ t.len) && decide (t.len ≤ 4224) && decide (t.data.length ≤ 4096)

/-- An arriving packet. -/
def Ingress.wf : Ingress → Bool
  | .pcie t n => t.wf && decide (1 ≤ n)
  | .more _ n => decide (1 ≤ n)
  | .fabric none => true
  | .fabric (some t) => t.wf
  | .internal p => decide (p.unit < 68) && decide (p.vs < 48) && decide (p.oc < 8) && decide (p.cc < 8) && decide (p.dgpa < 131072) &&
      decide (p.via.getD 0 < 48)

/-- A PTM requester: a port, or the service function of a VS. -/
def PtmReqr.wf : PtmReqr → Bool
  | .port n => decide (n < 48)
  | .sf vs => decide (vs < 48)

/-- A bus map has 256 codes; a switch is named by its FSID. -/
def BusMapPart.wf : BusMapPart → Bool
  | .here => true
  | .copy l => decide (l.length = 256) && l.all fun c => decide (c < 260)
  | .ack f => decide (f < 2048)

def BusMapMsg.wf (m : BusMapMsg) : Bool := decide (m.vs < 48) && m.part.wf

/-- What is told of a device port: a Slot Power Limit of PCI_SLOT_MAP, capabilities of five bits. -/
def PortNotice.wf (x : PortNotice) : Bool := decide (((x.slot.map (·.1)).getD 1) ≤ 240) && decide (x.caps.getD 0 < 32)

/-- A posted-error report (R401). -/
def PerrReport.wf (r : PerrReport) : Bool :=
  decide (r.reason < 256) && decide (r.vs < 48) && decide (r.supp < 65536) && decide (r.reqId < 65536) && decide (r.dgpa < 131072)

/-- The function a configuration request names: 256 vDSPs, functions 0 to 1,024 of the service function. -/
def CfgTarget.wf : CfgTarget → Bool
  | .usp => true
  | .vdsp n => decide (n < 256)
  | .sf fn => decide (fn < 1025)
  | .below n rid => decide (n < 256) && decide (rid < 65536)
  | .vfBusInside fn => decide (fn < 1025)

/-- A command whose operands lie in their ranges. -/
def Instr.wf : Instr → Bool
  | .registerWrite _ _ _ v => decide (v < 18446744073709551616)
  | .rcRead _ _ => true
  | .firstEventRecordClear _ _ _ => true
  | .lpddr4xAccess _ _ _ _ _ => true
  | .packetIngress port x => decide (port < 53) && x.wf
  | .eseqAssign _ => true
  | .coreLookup _ _ => true
  | .npReservation _ => true
  | .grant a reqs _ _ => decide (a < 57) && reqs.all ArbReq.wf
  | .crossbarDataPhase a _ => decide (a < 57)
  | .egressEncode port => decide (port < 53)
  | .egressTlpStart port => decide (port < 53)
  | .egressStallTimeout port => decide (port < 53)
  | .roundBoundary a => decide (a < 57)
  | .tenureCut a => decide (a < 57)
  | .trickCut64 a port => decide (a < 57) && decide (port < 53)
  | .trickHoldCut a port => decide (a < 57) && decide (port < 53)
  | .parkReleaseIdle a => decide (a < 57)
  | .commit _ => true
  | .hatchWrite a _ _ => decide (a < 57)
  | .hatchWatchdog a => decide (a < 57)
  | .calendarSlotBegin => true
  | .flowSweepVisit f => decide (f < 16384)
  | .gateEntryBegin port => decide (port < 48)
  | .gateSwitchover port => decide (port < 48)
  | .samplingPass _ => true
  | .pcieLinkUp port _ => decide (port < 48)
  | .pcieLinkDown port _ => decide (port < 48)
  | .pcieRecovery port _ _ => decide (port < 48)
  | .pcieEqualisation port _ _ => decide (port < 48)
  | .l0pWindowEnd port _ _ => decide (port < 48)
  | .l0pWidenComplete port => decide (port < 48)
  | .l0pPartnerRequest port _ => decide (port < 48)
  | .aspmL1Entry port => decide (port < 48)
  | .configRequest vs tgt off _ reqId tag => decide (vs < 48) && tgt.wf && decide (off < 4096) && decide (reqId < 65536) && decide (tag < 16384)
  | .vdspLinkDisable vs n _ => decide (vs < 48) && decide (n < 256)
  | .vdspRetrainLink vs n => decide (vs < 48) && decide (n < 256)
  | .vdspTargetLinkSpeed vs n _ => decide (vs < 48) && decide (n < 256)
  | .vdspAspmControl vs n ctl => decide (vs < 48) && decide (n < 256) && decide (ctl < 4)
  | .secondaryBusReset vs n _ => decide (vs < 48) && decide (n < 256)
  | .vdspLinkStatusUpdate vs n _ _ _ x => decide (vs < 48) && decide (n < 256) && x.note.wf
  | .remoteErrorNotice vs n _ _ => decide (vs < 48) && decide (n < 256 ∨ n = 511)
  | .dpcSoftwareTrigger vs n => decide (vs < 48) && decide (n < 256)
  | .dpcTriggerStatusWrite vs n => decide (vs < 48) && decide (n < 256)
  | .dpcRelease vs n => decide (vs < 48) && decide (n < 256)
  | .ptmRequest src => src.wf
  | .presenceDebounced slot _ => decide (slot < 8)
  | .attentionButtonPress slot => decide (slot < 8)
  | .slotIndicatorWrite vs n atn pwr => decide (vs < 48) && decide (n < 256) && decide (atn < 4) && decide (pwr < 4)
  | .slotPowerOn vs n => decide (vs < 48) && decide (n < 256)
  | .slotPowerOff vs n => decide (vs < 48) && decide (n < 256)
  | .slotPerstRelease slot => decide (slot < 8)
  | .slotCommandCompleted vs n => decide (vs < 48) && decide (n < 256)
  | .doorbellWrite vs fn q tail => decide (vs < 48) && decide (fn < 1025) && decide (q < 4096) && decide (tail < 65536)
  | .descriptorFetchComplete q _ => decide (q < 4096)
  | .queueEnable q => decide (q < 4096)
  | .queueDisable q => decide (q < 4096)
  | .queueIdle q => decide (q < 4096)
  | .vectorUnmask vs fn vec => decide (vs < 48) && decide (fn < 1025) && decide (vec < 4096)
  | .revokeGraceExpiry q => decide (q < 4096)
  | .completionTimeout vs fn tag => decide (vs < 48) && decide (fn < 1025) && decide (tag < 16384)
  | .sfCompletionArrival vs fn tag _ => decide (vs < 48) && decide (fn < 1025) && decide (tag < 16384)
  | .tagQuarantineEnd vs fn tag => decide (vs < 48) && decide (fn < 1025) && decide (tag < 16384)
  | .functionLevelReset vs fn => decide (vs < 48) && decide (fn < 1025)
  | .flrComplete vs fn => decide (vs < 48) && decide (fn < 1025)
  | .busMasterDisable vs fn => decide (vs < 48) && decide (fn < 1025)
  | .busMasterEnable vs fn => decide (vs < 48) && decide (fn < 1025)
  | .ledgerSwap vs ctx => decide (vs < 48) && decide (ctx < 8)
  | .ledgerSwapDone vs ctx => decide (vs < 48) && decide (ctx < 8)
  | .ledgerSwapTimeout vs ctx => decide (vs < 48) && decide (ctx < 8)
  | .mailboxGo vs _ => decide (vs < 48)
  | .postedErrorReportReceive r => r.wf
  | .watchIntervalEnd lane _ _ _ _ => decide (lane < 192)
  | .bankTempUpdate bank temp => decide (bank < 12) && decide (temp < 65536)
  | .prbsStart lane => decide (lane < 192)
  | .prbsTestEnd lane _ _ => decide (lane < 192)
  | .prbsLockLoss lane _ _ => decide (lane < 192)
  | .flitReceive port bs _ => decide (port < 48) && decide (bs.length = 256)
  | .flitSend port => decide (port < 48)
  | .portEnable port => decide (port < 48)
  | .portDisable port => decide (port < 48)
  | .bringupCheckWindowEnd port lane _ _ => decide (port < 48) && decide (lane < 16)
  | .alignEntry port => decide (port < 48)
  | .bringupTimeout port => decide (port < 48)
  | .resetFlitsSent port => decide (port < 48)
  | .quietEnd port => decide (port < 48)
  | .signalDetect port => decide (port < 48)
  | .lowerRankWaitExpiry port => decide (port < 48)
  | .signalLoss port lane => decide (port < 48) && decide (lane < 16)
  | .replayTimerExpiry port => decide (port < 48)
  | .blSleepEntry port => decide (port < 48)
  | .blWake port => decide (port < 48)
  | .blRealignTimeout port => decide (port < 48)
  | .neighbourNoticeSend port => decide (port < 48)
  | .directedPacketRelay port _ => decide (port < 48)
  | .neighbourQuery port _ => decide (port < 48)
  | .neighbourReply port _ => decide (port < 48)
  | .classCheck port _ => decide (port < 48)
  | .directedMwRequest port _ => decide (port < 48)
  | .directedMwResponse port _ => decide (port < 48)
  | .directedDownTree port _ => decide (port < 48)
  | .directedUpTree port _ => decide (port < 48)
  | .vdspWindowRegisterWrite vs n _ v => decide (vs < 48) && decide (n < 256) && decide (v < 4294967296)
  | .windowHoldTimeout vs n => decide (vs < 48) && decide (n < 256)
  | .busMapUpdate m => m.wf
  | .handReturnSend f d => decide (f < 2048) && decide (d < 2048)
  | .handReturnReceive f _ _ => decide (f < 2048)
  | .handAudit => true
  | .stagingCheckStart => true
  | .stagingCheckDone => true
  | .fabricTimeout reqId tag => decide (reqId < 65536) && decide (tag < 16384)
  | .fabricQuarantineEnd reqId tag => decide (reqId < 65536) && decide (tag < 16384)
  | .lockBrokenNotice vs => decide (vs < 48)
  | .mwRead src _ _ => decide (src < 2049)
  | .mwWrite src _ _ data => decide (src < 2049) && decide (data < 18446744073709551616)
  | .mwLockRead src _ _ => decide (src < 2049)
  | .mwUnlockWrite src _ _ data => decide (src < 2049) && decide (data < 18446744073709551616)
  | .mwResponse src _ _ data => decide (src < 2049) && decide (data < 18446744073709551616)
  | .mwReadTimeout _ => true
  | .mwLockTimeout => true
  | .e2eAckSend f oc => decide (f < 2048) && decide (oc < 8)
  | .e2eAckReceive d oc nd => decide (d < 2048) && decide (oc < 8) && decide (nd < 16777216)
  | .e2eTimerExpiry d oc => decide (d < 2048) && decide (oc < 8)
  | .fenceWrite f oc src val => decide (f < 2048) && decide (oc < 8) && decide (src < 2048) && decide (val < 18446744073709551616)
  | .skipWrite f oc src val => decide (f < 2048) && decide (oc < 8) && decide (src < 2048) && decide (val < 18446744073709551616)
  | .fencePoll f d oc => decide (f < 2048) && decide (d < 2048) && decide (oc < 8)
  | .fenceTimeout f d oc => decide (f < 2048) && decide (d < 2048) && decide (oc < 8)
  | .lifetimeExpiry _ => true
  | .prepare _ m => m.wf
  | .vote m _ => m.wf
  | .goDeal _ m => m.wf
  | .dealApply => true
  | .cancel _ m => m.wf
  | .drainMessage _ m => m.wf
  | .drainLocalConfirm => true
  | .confirm _ m => m.wf
  | .release _ m => m.wf
  | .markerReceive port _ _ => decide (port < 48)
  | .markerTimeout _ => true
  | .cut _ m => m.wf
  | .cutRecordComplete => true
  | .cutDone _ m => m.wf
  | .treeChildTimeout _ => true
  | .dealerHeartbeat => true
  | .dealerTakeover => true
  | .resetMessage _ m => m.wf
  | .fabricReset => true
  | .collDescriptor q _ => decide (q < 4096)
  | .collUp src m => decide (src < 2048) && m.wf
  | .collDown src m => decide (src < 2048) && m.wf
  | .collCredit src m => decide (src < 2048) && m.wf
  | .collCreditSend g child => decide (g < 256) && decide (child < 16)
  | .collAbort src m => decide (src < 2048) && m.wf
  | .collTimeout g => decide (g < 256)
  | .groupDisable g => decide (g < 256)
  | .runDispatch cluster => decide (cluster < 16)
  | .copyDescriptor q => decide (q < 4096)
  | .nopDescriptor q => decide (q < 4096)
  | .quantumBoundary => true
  | .runLimitExpiry _ => true
  | .ld e w => decide (e < 256) && w.wf
  | .st e w => decide (e < 256) && w.wf
  | .ldp e w => decide (e < 256) && w.wf
  | .stp e w => decide (e < 256) && w.wf
  | .vld e w => decide (e < 256) && w.wf
  | .vst e w => decide (e < 256) && w.wf
  | .prf e w => decide (e < 256) && w.wf
  | .aadd e w => decide (e < 256) && w.wf
  | .aand e w => decide (e < 256) && w.wf
  | .aor e w => decide (e < 256) && w.wf
  | .aswp e w => decide (e < 256) && w.wf
  | .acas e w => decide (e < 256) && w.wf
  | .acasp e w => decide (e < 256) && w.wf
  | .mov e w => decide (e < 256) && w.wf
  | .movi e w => decide (e < 256) && w.wf
  | .movh e w => decide (e < 256) && w.wf
  | .add e w => decide (e < 256) && w.wf
  | .addi e w => decide (e < 256) && w.wf
  | .sub e w => decide (e < 256) && w.wf
  | .mul e w => decide (e < 256) && w.wf
  | .andOp e w => decide (e < 256) && w.wf
  | .orOp e w => decide (e < 256) && w.wf
  | .xorOp e w => decide (e < 256) && w.wf
  | .shl e w => decide (e < 256) && w.wf
  | .shr e w => decide (e < 256) && w.wf
  | .slt e w => decide (e < 256) && w.wf
  | .mcpy e w => decide (e < 256) && w.wf
  | .mfill e w => decide (e < 256) && w.wf
  | .vadd e w => decide (e < 256) && w.wf
  | .vmul e w => decide (e < 256) && w.wf
  | .vfma e w => decide (e < 256) && w.wf
  | .vmin e w => decide (e < 256) && w.wf
  | .vmax e w => decide (e < 256) && w.wf
  | .vbc e w => decide (e < 256) && w.wf
  | .vext e w => decide (e < 256) && w.wf
  | .acz e w => decide (e < 256) && w.wf
  | .aca e w => decide (e < 256) && w.wf
  | .acr e w => decide (e < 256) && w.wf
  | .waitOp e w => decide (e < 256) && w.wf
  | .waitMet e _ => decide (e < 256)
  | .waitTimeout e => decide (e < 256)
  | .sig e w => decide (e < 256) && w.wf
  | .irq e w => decide (e < 256) && w.wf
  | .b e w => decide (e < 256) && w.wf
  | .bz e w => decide (e < 256) && w.wf
  | .bnz e w => decide (e < 256) && w.wf
  | .call e w => decide (e < 256) && w.wf
  | .ret e w => decide (e < 256) && w.wf
  | .endOp e w => decide (e < 256) && w.wf
  | .barEngine e w => decide (e < 256) && w.wf
  | .barCluster e w => decide (e < 256) && w.wf
  | .barSystem e w => decide (e < 256) && w.wf
  | .systemBarrierComplete e _ => decide (e < 256)
  | .deviceLoadReturn e _ => decide (e < 256)
  | .prefetchEntryExpiry e _ => decide (e < 256)
  | .engineSample e _ => decide (e < 256)
  | .read h es => h.wf && es.all EntryRef.wf
  | .write h es => h.wf && es.all fun x => x.ref.wf
  | .describe h r => h.wf && r.wf
  | .subscribe h _ => h.wf
  | .notifyAck h _ => h.wf
  | .keepalive h => h.wf
  | .openSession h slot _ => h.wf && decide (slot < 16)
  | .proof h _ => h.wf
  | .closeSession h => h.wf
  | .sessionIdleTimeout _ => true
  | .proofTimeout _ => true
  | .keySlotUnlock slot => decide (slot < 16)
  | .rwsFlashCommit _ => true
  | .notifyRetransmit _ => true
  | .eventNoticeSend src => decide (src < 2304)
  | .continueCmd h => h.wf
  | .drain h => h.wf
  | .maintain h _ => h.wf
  | .maintainComplete => true
  | .maintainTimeout => true
  | .resume h => h.wf
  | .abortDrain h => h.wf
  | .mgmtReset h => h.wf
  | .deviceFault _ => true
  | .loadDataWrite h _ _ => h.wf
  | .loadOffsetWrite h _ _ => h.wf
  | .eqOpen h => h.wf
  | .eqCommit h => h.wf
  | .marginCmd h port _ => h.wf && decide (port < 48)
  | .marginDone port _ _ => decide (port < 48)
  | .dpcCmd h port => h.wf && decide (port < 48)
  | .atnCmd h port => h.wf && decide (port < 48)
  | .resAddQueues h vs fn _ => h.wf && decide (vs < 48) && decide (fn < 1025)
  | .resRevokeQueues h vs fn _ => h.wf && decide (vs < 48) && decide (fn < 1025)
  | .resSetVectors h vs fn _ => h.wf && decide (vs < 48) && decide (fn < 1025)
  | .resSetEngineWeight h vs fn _ => h.wf && decide (vs < 48) && decide (fn < 1025)
  | .resSetFlow h vs fn _ => h.wf && decide (vs < 48) && decide (fn < 1025)
  | .schedCommit h => h.wf
  | .regValWrite h v => h.wf && decide (v < 18446744073709551616)
  | .cutCmd h _ => h.wf
  | .directedSend h _ => h.wf
  | .keyOpen h slot => h.wf && decide (slot < 16)
  | .keyCommit h slot role => h.wf && decide (slot < 16) && decide (role < 4)
  | .keyErase h slot => h.wf && decide (slot < 16)
  | .reportCmd h nonce => h.wf && decide (nonce.length = 32)
  | .reportReady => true
  | .progOpen h slot vs => h.wf && decide (slot < 256) && decide (vs < 48)
  | .progCommit h slot => h.wf && decide (slot < 256)
  | .programMeasured slot => decide (slot < 256)
  | .progRetire h slot => h.wf && decide (slot < 256)
  | .fwOpen h kind => h.wf && decide (kind < 5)
  | .fwCommit h kind => h.wf && decide (kind < 5)
  | .raiseSvn h kind => h.wf && decide (kind < 5)
  | .peClear h => h.wf
  | .clusterReset h c => h.wf && decide (c < 16)
  | .timeSync port val => decide (port < 48) && decide (val < 4294967296)
  | .timeReport port val => decide (port < 48) && decide (val < 4294967296)
  | .timeHigh port val => decide (port < 48) && decide (val < 4294967296)
  | .timeTop port val => decide (port < 48) && decide (val < 4294967296)
  | .timeState port val => decide (port < 48) && decide (val < 4294967296)
  | .timeRoot port _ val => decide (port < 48) && decide (val < 4294967296)
  | .timeExchangeInterval port => decide (port < 48)
  | .timeDescriptorExpiry port => decide (port < 48)
  | .timePortLoss port => decide (port < 48)
  | .ptmHostRequest vs => decide (vs < 48)
  | .ptmHostResponse vs _ => decide (vs < 48)
  | .bwWindowEnd => true
  | .wearTick => true
  | .wearStore => true
  | .dieTempReading die _ => decide (die < 5)
  | .remeasure slot _ => decide (slot < 8)
  | .imageMeasure slot => decide (slot < 8)
  | .bootComplete => true
  | .eccInitComplete => true
  | .rrsLimitExpiry => true
  | .powerGood => true
  | .warmReset _ => true
  | .vsHotReset vs => decide (vs < 48)
  | .hostPerstAssert port => decide (port < 48)
  | .hostPerstRelease port => decide (port < 48)
  | .controllerStart _ => true
  | .feedUsable f _ => decide (f < 2)
  | .feedLost f _ _ => decide (f < 2)
  | .transferBreakEnd => true
  | .transferEnd _ => true
  | .feedRevert _ => true
  | .rampEnd _ => true
  | .inrushFaultTimeout => true
  | .railFaultTimeout => true
  | .fastTrip f _ => decide (f < 2)
  | .breakerTrip f _ _ => decide (f < 2)
  | .latchRelease => true
  | .controllerStop _ => true
  | .sagWarn _ => true
  | .pfwRelease _ => true
  | .sagReset _ => true
  | .energyStore => true
  | .slotSoftStart k => decide (k < 8)
  | .slotPowerGood k _ => decide (k < 8)
  | .slotStartTimeout k => decide (k < 8)
  | .slotFastTrip k _ => decide (k < 8)
  | .slotFaultTimeTrip k _ => decide (k < 8)
  | .slotVoutTrip k _ => decide (k < 8)
  | .slotRetryEnd k => decide (k < 8)
  | .slotCountRestart k => decide (k < 8)
  | .slotPresenceLoss k => decide (k < 8)
  | .slotSag k _ => decide (k < 8)
  | .slotPfwRelease k _ => decide (k < 8)
  | .receiverAligned port => decide (port < 48)
  | .prbsCheckerLock lane => decide (lane < 192)
  | .l1Exit port => decide (port < 48)
  | .pcieCreditUpdate port kind _ _ => decide (port < 48) && decide (kind < 3)
  | .storeVisible e _ => decide (e < 256)
  | .accessComplete e _ _ => decide (e < 256)
  | .copyComplete q _ _ => decide (q < 4096)
  | .rstNRelease => true

end Sys2Proof
end

