-- ==== Sys2Proof/Safety.lean ====
section
/-! DEFINITION. What a safe run is: the bounds that every step keeps, whatever the command, and the outcome of a step that goes
on. -/
namespace Sys2Proof

/-- The events of the power controller and of its slot channels, which work while the dies are unpowered (R25, R673). -/
def Instr.ofController : Instr → Bool
  | .powerGood
  | .controllerStart _
  | .feedUsable _ _
  | .feedLost _ _ _
  | .transferBreakEnd
  | .transferEnd _
  | .feedRevert _
  | .rampEnd _
  | .inrushFaultTimeout
  | .railFaultTimeout
  | .fastTrip _ _
  | .breakerTrip _ _ _
  | .latchRelease
  | .controllerStop _
  | .sagWarn _
  | .pfwRelease _
  | .sagReset _
  | .energyStore
  | .slotPowerGood _ _
  | .slotStartTimeout _
  | .slotFastTrip _ _
  | .slotFaultTimeTrip _ _
  | .slotVoutTrip _ _
  | .slotRetryEnd _
  | .slotCountRestart _
  | .slotSag _ _
  | .slotPfwRelease _ _
  | .slotPresenceLoss _ => true
  | _ => false

/-- A register whose write stores and does nothing else, from the control or the management plane: no first-event record (R722), no
shadow (R124), nothing that the management plane may not write (R598) and none of the registers whose write starts something. -/
def Reg.plain (r : Reg) : Bool :=
  !Machine.eventRecord r && !Machine.shadowReg r && !Machine.mgmtBarred r &&
    !([Reg.ARB_COMMIT, .ARB_HATCH, .LN_PRBS_CTRL, .PCI_VS_CFG, .PCI_SLOT_MAP, .CL_GRP_CTL, .TM_BW_CFG, .EN_SMP_CFG, .SCH_SMP_CTRL].contains r)

end Sys2Proof

namespace Sys2Proof.Machine

/-- The invariant over the parts of the state it reads: LPDDR4X and the clusters' SRAM in canonical form; the register
file, the object entries and the configuration flash with rising keys; a legal device state (0 OFF to 7 FAULT, R560);
fabric time of 64 bits (R606); eight measurement slots (R633) and a measurement log of at most 4,096 records (R640). -/
def SoundParts (mem sram : Tbl Byte) (regs : Tbl Word64) (objs flash : Tbl OVal) (st ftime slots log : Nat) : Prop :=
  twf memEmpty mem = true ∧ twf memEmpty sram = true ∧ tabove 0 regs = true ∧ tabove 0 objs = true ∧ tabove 0 flash = true ∧
    st ≤ 7 ∧ ftime < 2 ^ 64 ∧ slots = 8 ∧ log ≤ logCap

/-- A sound switch. -/
def Dev.Sound (s : Dev) : Prop :=
  SoundParts s.mem s.eng.sram s.regs s.objs s.flash s.svc.state s.ftime s.trust.slots.length s.trust.log.length

/-- A sound state: a sound switch, and every waiting command within the ranges of the spec. -/
def State.Sound (s : State) : Prop := s.dev.Sound ∧ s.pending.all Instr.wf = true

/-- The switch is not OFF, the one device state in which its dies are unpowered (R560). [log: DESIGN CHOICE 1] -/
abbrev Dev.On (s : Dev) : Prop := s.svc.state ≠ 0

/-- The command completes: whatever waits in the queue, it answers the next state in which the switch `s` has become `t` and
the queue is as it was. -/
def Does (c : Instr) (s t : Dev) : Prop := ∀ q : List Instr, exec c { pending := q, dev := s } = .next { pending := q, dev := t }

/-- The switch once a down tree message of a sender it follows, with a term it follows, has been passed on to its children and its
term and sender noted (R461, R445); what the message itself does comes after. -/
def Dev.followed (s : Dev) (src : TreeSrc) (m : TreeMsg) : Dev :=
  { (if s.joined then each s.treeKids s fun s k => s.treeTo k.2 m else s).fset Fld.DL_DEAL_STAT.TERM 0 m.term with
    dl.from_ := if s.joined && !s.treeRoot then s.dl.from_ else some src }

/-- Engine `e` may issue the word of the operation code `op` and the fields `w`: it stands at the pc of its run's program, the engine runs and
waits for nothing, no earlier access of it still writes one of the general registers `gs` or vector registers `vs` (R496, R526), and
the reserved field is zero. -/
abbrev Dev.MayIssue (s : Dev) (op e : Nat) (w : OpWord) (gs vs : List Nat) : Prop :=
  s.canIssue e = true ∧ (s.en e).regsFree gs vs = true ∧ w.resv = 0 ∧ (s.wordAt e).map opWordOf = some (op, w)

/-- The request `h` of the open session `x` is carried out: the switch answers, the transport has brought it whole from where the
session was opened and with its tag, no request of the session waits for its answer, its SEQ, faults and version are in order
(R560, R576, R579, R581), and no other request of the core cycle waits (R577). -/
abbrev Dev.Asks (s : Dev) (h : ReqHdr) (x : Sess) : Prop :=
  s.reachable = true ∧ s.mayAsk h.sess = true ∧ s.open? h.sess = some x ∧ x.from? h = true ∧ badTag h = false ∧
    s.reqPending h.sess = false ∧ h.seq = (x.last + 1) % 2 ^ 32 ∧ h.fault = 0 ∧ h.version = 1 ∧ s.svc.inbox = []

/-- The switch with one request received and waiting for the end of its core cycle (R577). -/
def Dev.took (s : Dev) (h : ReqHdr) (r : SvcReq) : Dev := { s with svc.inbox := [{ hdr := h, req := r }] }

/-- The command brings the request `r` of the header `h`, which waits for the end of the core cycle, and there, the only one, it is carried
out (R577): the switch `s` becomes `t`. -/
def Serves (c : Instr) (h : ReqHdr) (r : SvcReq) (s t : Dev) : Prop := Does c s (s.took h r) ∧ (s.took h r).serveRequests = t

/-- The switch once it has heard a request: the idle timeout of its session starts again (R583). -/
def Dev.heard (s : Dev) (h : ReqHdr) : Dev := s.modSess h.sess fun y => { y with at_ := s.now }

/-- The request writes the value `v` of type `t` to the one entry (idx, sub), nothing holds the register bus the entry needs, and the
checks of R557 find nothing wrong. -/
abbrev Dev.Orders (s : Dev) (h : ReqHdr) (x : Sess) (idx sub : Nat) (t : ObjTyp) (v : OVal) : Prop :=
  s.Asks h x ∧ (s.xing.farLock.isSome && onBus idx sub) = false ∧
    (s.heard h).checkAll h.sess [{ ref := { index := idx, sub := sub, typ := t.code }, val := v }] []
      [{ ref := { index := idx, sub := sub, typ := t.code }, val := v }] = none

/-- The switch once it has accepted a write of a command entry: the command runs under its RSEQ, its target is opened or committed, and
the response has gone out (R557, R568, R571, R575). -/
def Dev.commanded (s : Dev) (h : ReqHdr) (idx sub : Nat) (v : OVal) : Dev :=
  let t := ((s.heard h).cmdStore h.sess idx sub v).1
  t.answerReq h.sess svWrite h.seq 0 ((255 : Byte) :: leBytes 4 (t.cmdSt idx sub).rseq)

end Sys2Proof.Machine
end

