-- ==== Sys2Proof/Certificates/Slice0/Obligations.lean ====
section
/-! DEFINITION. The statements for the provers, from the numbered rules of spec/. -/
open Sys2Proof Sys2Proof.Machine

/-- With a command at the front of the queue, a step is that command's execution on the switch with the rest of the queue. The block's
step. The queue of waiting commands is the model's own (log entries 1 and 2). -/
def Obligations.StepRunsFrontCommand : Prop :=
  ∀ (c : Instr) (q : List Instr) (s : Dev), step { pending := c :: q, dev := s } = exec c { pending := q, dev := s }

/-- With an empty queue a step answers the next state, in which the switch has ticked and the queue is still empty. What a step does on
an empty queue is the model's choice (log entry 3). -/
def Obligations.IdleStepIsOneTick : Prop :=
  ∀ s : Dev, step { pending := [], dev := s } = .next { pending := [], dev := s.tick }

/-- Whenever a step answers a next state, the queue of that state is the queue before without its first command. No command's effect
reaches the queue, which is the model's own (log entry 2). -/
def Obligations.QueueIsFirstInFirstOut : Prop :=
  ∀ s t : State, step s = .next t → t.pending = s.pending.tail

/-- Every command answers a next state, but for LPDDR4X_ACCESS: past the end of the memory, while the switch is not OFF, it stops
because no such address exists, and otherwise it answers a next state too. LPDDR4X ends at its usable 14 GiB (R30). That an access
past it stops the model is the model's form of an address that does not exist (log entry 11). -/
def Obligations.EveryCommandAnswers : Prop :=
  (∀ (c : Instr) (s : State), (∀ p w a l b, c ≠ .lpddr4xAccess p w a l b) → ∃ t, exec c s = .next t) ∧
   (∀ (p : Plane) (w : Bool) (a l : Nat) (b : List Byte) (s : State), exec (.lpddr4xAccess p w a l b) s =
     if s.dev.On ∧ memTop < a + (if w then b.length else l) then .fault (.noSuchAddress a)
     else .next { s with dev := if s.dev.svc.state = 0 then s.dev else lpddr4xAccess p w a l b s.dev })

/-- In device state OFF every command that is not an event of the power controller leaves the state as it is. In OFF the dies are
unpowered (R560) and only the power controller works (R654, R675); that no other event has an effect then is the model's inference
(log entry 6). -/
def Obligations.OffSwitchIgnoresCommands : Prop :=
  ∀ (c : Instr) (s : State), s.dev.svc.state = stOff → c.ofController = false → exec c s = .next s

/-- From every sound state, one that is not reached from reset included, a step that answers a next state answers a sound one: LPDDR4X
and SRAM in canonical form, registers, objects and flash with rising keys, a legal device state, fabric time below 2^64, eight
measurement slots, a measurement log of at most 4,096 records, and waiting commands in range. The bounds are those of R560, R605,
R633 and R640; the canonical forms are the model's own (log entry 8). -/
def Obligations.SoundnessIsKept : Prop :=
  ∀ s t : State, s.Sound → step s = .next t → t.Sound

/-- State.reset meets the invariant that every step keeps. With SoundnessIsKept: every state reached from reset is sound. -/
def Obligations.ResetIsSound : Prop :=
  State.reset.Sound

/-- After reset the switch is in BOOT with an empty queue; every register instance reads as its reset value; no object, allocation,
session or packet exists; LPDDR4X and SRAM list nothing; fabric time is 0. A cold start (R689, R693). The reset values of registers
are those of their descriptions; what the model adds is in log entries 7, 9, 18, 19 and 22. That unlisted LPDDR4X and SRAM bytes
read 0 is the model's choice (log entry 8). -/
def Obligations.ResetLeavesResetValues : Prop :=
  State.reset.pending = [] ∧ State.reset.dev.svc.state = stBoot ∧ State.reset.dev.ftime = 0 ∧ State.reset.dev.mem = [] ∧
   State.reset.dev.eng.sram = [] ∧ State.reset.dev.fwd.pkts = [] ∧ State.reset.dev.svc.sess = [] ∧ State.reset.dev.eng.runs = [] ∧
   (∀ (r : Reg) (i : Nat), State.reset.dev.rget r i = (regDefault r i).toNat)

/-- A read of an offset that holds no register returns 0 and changes nothing else, and a write to it changes nothing and is not logged;
so at a block's offsets, in the halves of the routing tables, and in the BARs of a service function. R12, for accesses by block and
offset (management and control planes) and through BARs (data plane, whose window must be open). -/
def Obligations.ReservedOffsetsHaveNoEffect : Prop :=
  (∀ (p : Plane) (code off v : Nat) (s : Dev), s.On → p ≠ .data → s.portHeld p (.blk code off) = false →
     (if code = 7 ∧ offStaged ≤ off then halfMask (off % halfSize) = 0 else regAt code off = none) → regAt code off = none →
     Does (.rcRead p (.blk code off)) s (s.emit (.regRead 0)) ∧ Does (.registerWrite p (.blk code off) .low v) s s ∧
     Does (.registerWrite p (.blk code off) .whole v) s s) ∧
   (∀ (vs fn b off v : Nat) (s : Dev), s.On → s.barOpen vs fn = true → s.barAt vs fn b off = .none →
     Does (.rcRead .data (.bar vs fn b off)) s (s.emit (.regRead 0)) ∧ Does (.registerWrite .data (.bar vs fn b off) .low v) s s ∧
     Does (.registerWrite .data (.bar vs fn b off) .whole v) s s)

/-- While GEN of a port is 0, the gate of every class at that port is open, and while no other list is armed there the gates permit
every packet for that port. R153. -/
def Obligations.GatesOpenWhileDisabled : Prop :=
  ∀ (s : Dev) (n c : Nat), s.fbit Fld.SCH_PORT_W.GEN n = false → s.gateOpen n c = true ∧
   ∀ p : Pkt, p.egr = n → p.cc = c → tfind s.sch.armed n = none → s.gateOk p = (true, false)

/-- A hatch write of the management plane sets MGMT and leaves CTRL, one of the control plane sets CTRL and leaves MGMT, one of the data
plane leaves both; the hatch is closed exactly while one of them is 1. R128 for the hatch's own command. -/
def Obligations.HatchBitsBelongToTheirPlanes : Prop :=
  ∀ (a : Nat) (close : Bool) (s : Dev), s.On → a < 57 → tabove 0 s.regs = true → ∃ m c : Dev,
   Does (.hatchWrite a .management close) s m ∧ Does (.hatchWrite a .control close) s c ∧ Does (.hatchWrite a .data close) s s ∧
   m.fbit Fld.ARB_HATCH.MGMT a = close ∧ m.fbit Fld.ARB_HATCH.CTRL a = s.fbit Fld.ARB_HATCH.CTRL a ∧
   c.fbit Fld.ARB_HATCH.CTRL a = close ∧ c.fbit Fld.ARB_HATCH.MGMT a = s.fbit Fld.ARB_HATCH.MGMT a ∧
   m.hatchClosed a = (close || s.fbit Fld.ARB_HATCH.CTRL a) ∧ c.hatchClosed a = (s.fbit Fld.ARB_HATCH.MGMT a || close)

/-- Any order of the children's messages gives the same combined message; and combining the messages that groups of children combined to
gives what combining all the children's messages gives. R463, for the combination a switch starts from and messages of any kind; the
kind is that of the combined message. -/
def Obligations.CombiningIgnoresOrder : Prop :=
  (∀ (kind : Nat) (c : Combine) (l r : List (Nat × TreeMsg)), l.Perm r →
     (l.foldl (fun c x => c.take x.1 x.2) c).msg kind = (r.foldl (fun c x => c.take x.1 x.2) c).msg kind) ∧
   (∀ (kind : Nat) (c : Combine) (ls : List (List (Nat × TreeMsg))),
     (ls.foldl (fun c l => c.take 0 ((l.foldl (fun c x => c.take x.1 x.2) ({} : Combine)).msg kind)) c).msg kind =
       (ls.flatten.foldl (fun c x => c.take x.1 x.2) c).msg kind)

/-- Every envelope whose fields are in their widths reads back from the bytes it is sent as, every field at every value. The layout of
the envelope (R387's table). -/
def Obligations.EnvelopeReadsBack : Prop :=
  ∀ e : Env, e.dgpa < 131072 → e.sgpa < 131072 → e.vs < 64 → e.oc < 8 → e.typ < 4 → e.ep < 2 → e.eseq < 2 ^ 24 → e.tlen < 8192 →
   e.dl < 2 ^ 32 → envOf (envBytes e) = e

/-- Every tree message whose fields are in their widths reads back from its 32 bytes. The table of R463. -/
def Obligations.TreeMessageReadsBack : Prop :=
  ∀ m : TreeMsg, m.wf = true → (treeBytes m).length = 32 ∧ treeOf (treeBytes m) = m

/-- The 256 bytes of a flit, for every header whose fields are in their widths and every payload, pass the receiver's CRC check
unchanged; their first 12 bytes read back as the header, every field at every value, and the next 236 as the payload padded with
zeros. The flit's layout, CRC and header (R288 to R293). -/
def Obligations.FlitsReadBack : Prop :=
  ∀ (h : FlitHdr) (payload : List Byte), h.typ < 16 → h.seq < 16384 → h.ack < 16384 → h.ep < 2 → h.cc < 8 → h.len < 256 → h.cpool < 4 →
   h.cred < 65536 → h.sub < 32 → h.info < 2 ^ 24 →
   (flitBytes h payload).length = 256 ∧ checkFlit (flitBytes h payload) = (.good, flitBytes h payload) ∧
   flitHdr (beNat ((flitBytes h payload).take 12)) = h ∧ ((flitBytes h payload).drop 12).take 236 = padTo 236 payload

/-- For a floating-point type, an accumulator's NAN, PINF and NINF say that a NaN, +∞ or −∞ was among its contributions, NZ that every
contribution was −0; combining two partials ORs the first three and ANDs NZ. R478. -/
def Obligations.FlagsOfContributions : Prop :=
  (∀ (t : Nat) (l : List Nat), typInt t = false →
     (l.foldl (fun a x => a.add t x) ({} : AccV)).nan = (l.any fun x => decide (fdecode t x = .nan)) ∧
     (l.foldl (fun a x => a.add t x) ({} : AccV)).pinf = (l.any fun x => decide (fdecode t x = .inf false)) ∧
     (l.foldl (fun a x => a.add t x) ({} : AccV)).ninf = (l.any fun x => decide (fdecode t x = .inf true)) ∧
     (l.foldl (fun a x => a.add t x) ({} : AccV)).nz = (l.all fun x => decide (fdecode t x = .zero true))) ∧
   (∀ a b : AccV, (a.join b).nan = (a.nan || b.nan) ∧ (a.join b).pinf = (a.pinf || b.pinf) ∧ (a.join b).ninf = (a.ninf || b.ninf) ∧
     (a.join b).nz = (a.nz && b.nz))

/-- The result of an integer accumulator that has not overflowed its count is its exact sum when that lies in the type's range, and else
the nearest end of the range, with RANGE set exactly then. R480. -/
def Obligations.IntegerSumsSaturate : Prop :=
  ∀ (t mode : Nat) (a : AccV), typInt t = true → a.headroom = false →
   signedOf (typWidth t) (a.result t mode).1 = max (-(2 ^ (typWidth t - 1) : Int)) (min (2 ^ (typWidth t - 1) - 1) a.sum) ∧
   ((a.result t mode).2 = flagRange ↔ a.sum < -(2 ^ (typWidth t - 1) : Int) ∨ (2 ^ (typWidth t - 1) : Int) - 1 < a.sum)

/-- For every operation, type and rounding, the result of combining contributions is the same for every order of them, and the same when
they are first combined in groups and the groups' partials then combined. R482 for the combining of this model; the NaN bits of
results are not in the partials (log entry 119). -/
def Obligations.ReductionsIgnoreOrder : Prop :=
  (∀ (red t mode : Nat) (l r : List Nat), l.Perm r →
     ((elemAccs t l).foldl (fun a b => a.combine red b) ({} : AccV)).result t mode =
       ((elemAccs t r).foldl (fun a b => a.combine red b) ({} : AccV)).result t mode) ∧
   (∀ (red t mode : Nat) (ls : List (List Nat)),
     ((ls.map fun l => (elemAccs t l).foldl (fun a b => a.combine red b) ({} : AccV)).foldl (fun a b => a.combine red b) ({} : AccV)).result t mode =
       ((elemAccs t ls.flatten).foldl (fun a b => a.combine red b) ({} : AccV)).result t mode)

/-- For each of the thirteen general register operations, legal and issued: the next state differs from the present one in the register
file and the engines alone; the register file is changed by counting the operation and moving the pc; no other engine's state, no
vector register and no general register but the destination changes; g0 reads 0. The frame of the register operations (R496, R499). -/
def Obligations.RegisterOperationsKeepTheRest : Prop :=
  ∀ (e : Nat) (w : OpWord) (s : Dev), s.On → w.m = 0 →
   ∀ p ∈ [(Instr.mov e w, 0x20, [w.a, w.d]), (.movi e w, 0x21, [w.d]), (.movh e w, 0x22, [w.d]), (.add e w, 0x23, [w.a, w.b, w.d]), (.addi e w, 0x24, [w.a, w.d]),
     (.sub e w, 0x25, [w.a, w.b, w.d]), (.mul e w, 0x26, [w.a, w.b, w.d]), (.andOp e w, 0x27, [w.a, w.b, w.d]), (.orOp e w, 0x28, [w.a, w.b, w.d]),
     (.xorOp e w, 0x29, [w.a, w.b, w.d]), (.shl e w, 0x2A, [w.a, w.b, w.d]), (.shr e w, 0x2B, [w.a, w.b, w.d]), (.slt e w, 0x2C, [w.a, w.b, w.d])],
   s.MayIssue p.2.1 e w p.2.2 [] →
   ∃ t, Does p.1 s t ∧ t = { s with regs := ((s.issued e).nextPc e).regs, eng.eng := t.eng.eng } ∧
     (∀ i, i ≠ w.d → t.gr e i = s.gr e i) ∧ t.gr e 0 = 0 ∧ (∀ i, t.vr e i = s.vr e i) ∧ ∀ j, j ≠ e → tfind t.eng.eng j = tfind s.eng.eng j

/-- For VADD, VMUL, VFMA, VMIN, VMAX and VBC, legal and issued: as for the register operations, with no general register and no vector
register but the destination changed. The frame of the vector operations. -/
def Obligations.VectorOperationsKeepTheRest : Prop :=
  ∀ (e : Nat) (w : OpWord) (s : Dev), s.On → w.m < 5 → w.d < 8 →
   ∀ p ∈ [(Instr.vadd e w, 0x40, ([] : List Nat), [w.a, w.b, w.d]), (.vmul e w, 0x41, [], [w.a, w.b, w.d]), (.vfma e w, 0x42, [], [w.a, w.b, w.d]),
     (.vmin e w, 0x43, [], [w.a, w.b, w.d]), (.vmax e w, 0x44, [], [w.a, w.b, w.d]), (.vbc e w, 0x45, [w.a], [w.d])],
   s.MayIssue p.2.1 e w p.2.2.1 p.2.2.2 → (p.2.2.1 = [] → w.a < 8 ∧ w.b < 8) →
   ∃ t, Does p.1 s t ∧ t = { s with regs := ((s.issued e).nextPc e).regs, eng.eng := t.eng.eng } ∧
     (∀ i, t.gr e i = s.gr e i) ∧ (∀ i, i ≠ w.d → t.vr e i = s.vr e i) ∧ ∀ j, j ≠ e → tfind t.eng.eng j = tfind s.eng.eng j

/-- An operation word's code and fields read back from its 64 bits, and every 64-bit number is the word of what reads back from it. When
an engine may issue, and the word at the pc of its program has an assigned code, a register operation of another code or other
fields changes nothing; past the program's last word, and at a word with an unassigned code, the operation counts and faults with
code 0x01. The operation word (R496) and its codes (R497). That the command of another operation has no effect, and that any
operation's command brings the fault, is the model's choice (log entry 118). -/
def Obligations.EngineRunsTheWordAtItsPc : Prop :=
  (∀ (op : Nat) (w : OpWord), op < 256 → w.wf = true → opWord op w < 2 ^ 64 ∧ opWordOf (opWord op w) = (op, w)) ∧
   (∀ x : Nat, x < 2 ^ 64 → opWord (opWordOf x).1 (opWordOf x).2 = x) ∧
   (∀ (e : Nat) (w : OpWord) (s : Dev), s.On → s.canIssue e = true →
     ∀ p ∈ [(Instr.mov e w, 0x20), (.movi e w, 0x21), (.movh e w, 0x22), (.add e w, 0x23), (.addi e w, 0x24), (.sub e w, 0x25), (.mul e w, 0x26),
       (.andOp e w, 0x27), (.orOp e w, 0x28), (.xorOp e w, 0x29), (.shl e w, 0x2A), (.shr e w, 0x2B), (.slt e w, 0x2C)],
     (∀ x, (s.wordAt e).map opWordOf = some x → opAssigned x.1 = true → x ≠ (p.2, w) → Does p.1 s s) ∧
     ((s.wordAt e = none ∨ ∃ x, (s.wordAt e).map opWordOf = some x ∧ opAssigned x.1 = false) →
       Does p.1 s ((s.issued e).engFaultOpen e 1)))

/-- A write the regions allow leaves the written bytes at their addresses and every other byte as it was; a blocked write, and any read,
leaves every byte as it was; nothing but memory, the violation record and the outgoing answer changes. R29 on the bytes of LPDDR4X.
Which channel's record a blocked access is logged in is a free value, and what a straddling access meets the model's inference (log
entry 28). -/
def Obligations.Lpddr4xAccessTouchesItsBytes : Prop :=
  ∀ (p : Plane) (a l : Nat) (b : List Byte) (s : Dev), s.On → s.Sound → a + b.length ≤ memTop → a + l ≤ memTop →
   ∃ t u : Dev, Does (.lpddr4xAccess p true a l b) s t ∧ Does (.lpddr4xAccess p false a l b) s u ∧
   (∀ c, t.memByte c = if memBlocked p true a b.length = none ∧ a ≤ c ∧ c < a + b.length then b.getD (c - a) 0 else s.memByte c) ∧
   t = { s with mem := t.mem, regs := t.regs, free := t.free } ∧ u = { s with out := u.out, regs := u.regs, free := u.free } ∧
   (memBlocked p false a l = none → u = s.emit (.memRead (s.memRead a l)))

/-- When a buffered store of an engine to its cluster's SRAM or to LPDDR4X becomes visible, its bytes stand at its address, every other
byte of both memories is as it was, and no register changes. The bytes a store writes (R498). The address is the store's own target,
at the engine's cluster. -/
def Obligations.StoresTouchTheirBytes : Prop :=
  (∀ (e seq o : Nat) (t : StoreE) (s : Dev), s.On → s.Sound → (s.en e).sb.find? (fun t => t.seq == seq) = some t → (s.en e).storeReady t = true →
     t.tgt = .sram o → ∃ u : Dev, Does (.storeVisible e seq) s u ∧ u.mem = s.mem ∧ u.regs = s.regs ∧
     ∀ k, tget memEmpty u.eng.sram k = if sramKey (clusterOf e) o ≤ k ∧ k < sramKey (clusterOf e) o + t.data.length
       then t.data.getD (k - sramKey (clusterOf e) o) 0 else tget memEmpty s.eng.sram k) ∧
   (∀ (e seq a : Nat) (t : StoreE) (s : Dev), s.On → s.Sound → (s.en e).sb.find? (fun t => t.seq == seq) = some t → (s.en e).storeReady t = true →
     t.tgt = .mem a → ∃ u : Dev, Does (.storeVisible e seq) s u ∧ u.eng.sram = s.eng.sram ∧ u.regs = s.regs ∧
     ∀ k, u.memByte k = if a ≤ k ∧ k < a + t.data.length then t.data.getD (k - a) 0 else s.memByte k)

/-- When the check finds a failing entry, the WRITE, carried out at the end of its core cycle, is answered with that entry's status and
position, and no object, flash value, memory, engine, measurement, load target, command, key slot or waiting commit has changed. The
first half of R557. That a status 0x0401 for a field of R28 is counted is R632. The position counts from 1 (log entry 140). -/
def Obligations.FailedWritesStoreNothing : Prop :=
  ∀ (h : ReqHdr) (x : Sess) (es : List EntryWrite) (pos st : Nat) (e : EntryWrite) (s : Dev), s.On → s.Asks h x → s.xing.farLock = none → es ≠ [] →
   es.length ≤ 32 → (s.heard h).checkAll h.sess es [] es = some (pos, e, st) →
   ∃ t u : Dev, Serves (.write h es) h (.write es) s t ∧ t = u.answerReq h.sess svWrite h.seq st (leBytes 1 pos) ∧ (u = s.heard h ∨ u = (s.heard h).rejected) ∧
   t.objs = s.objs ∧ t.flash = s.flash ∧ t.mem = s.mem ∧ t.eng = s.eng ∧ t.trust = s.trust ∧ t.svc.loads = s.svc.loads ∧
   t.svc.cmds = s.svc.cmds ∧ t.svc.keys = s.svc.keys ∧ t.svc.commits = s.svc.commits ∧ t.svc.state = s.svc.state

/-- A request whose SEQ is the one last answered gets, at the end of its core cycle, the stored response again, whatever its service and
contents; besides that response, only the start of the session's idle time changes. The repetition case of R576. -/
def Obligations.RepeatedRequestsAreAnsweredAgain : Prop :=
  ∀ (h : ReqHdr) (x : Sess) (s : Dev), s.On → s.reachable = true → s.mayAsk h.sess = true → s.svc.inbox = [] → s.open? h.sess = some x → x.from? h = true →
   badTag h = false → s.reqPending h.sess = false → x.last < 2 ^ 32 → h.seq = x.last → x.stored.1 ≠ 0 →
   ∀ (es : List EntryWrite) (rs : List EntryRef) (r : EntryRef) (m n : Nat),
   ∀ c ∈ [(Instr.write h es, SvcReq.write es), (.read h rs, .read rs), (.describe h r, .describe r), (.subscribe h m, .subscribe m),
     (.notifyAck h n, .notifyAck n), (.keepalive h, .keepalive), (.closeSession h, .close)],
     Serves c.1 h c.2 s ((s.heard h).reply h.sess x.stored.1 h.seq x.stored.2.1 x.stored.2.2)

/-- A failure on a key slot that had four within the last 60 s locks it for 60 s and forgets the failures; with fewer it is added to
them; OPEN on a locked slot is answered 0x0203. The last sentence of R582. -/
def Obligations.FiveFailuresLockAKeySlot : Prop :=
  (∀ (slot : Nat) (s : Dev), slot < 16 →
     let old := (s.keySlot slot).fails.filter fun t => decide (s.now < t + 60 * tSec)
     let k := (s.keyFail slot).keySlot slot
     (4 ≤ old.length → k.fails = [] ∧ k.till = some (s.now + 60 * tSec)) ∧
     (old.length < 4 → k.fails = old ++ [s.now] ∧ k.till = (s.keySlot slot).till)) ∧
   (∀ (h : ReqHdr) (i slot : Nat) (body : List Byte) (s : Dev), s.On → s.reachable = true → s.svc.inbox = [] → s.mayAsk h.sess = true → h.sess = .udp i → h.fault = 0 → h.version = 1 →
     body.length = 1216 → (s.keySlot slot).till.isSome = true → Serves (.openSession h slot body) h (.open_ slot body) s (s.respond h.sess h.seq 0x0203 []))

/-- In every register of the map, a write leaves each RW or RWS field at the written value if the field allows it and else as it was,
clears the bits of an RW1C field that are written 1, and leaves every other field as it was. The write column of R14's table, and
R13, for the value a write stores; what a write starts beside it is each register's own. -/
def Obligations.WritesStoreByAccessCode : Prop :=
  ∀ (r : Reg) (x : RegWr) (old : Nat), old < 2 ^ 64 → ∀ f ∈ (regInfo r).fields,
   bitsOf (x.stored (regInfo r) old) f.hi f.lo =
     match f.acc with
     | .RW | .RWS => if f.allows (bitsOf x.new f.hi f.lo) = true then bitsOf x.new f.hi f.lo else bitsOf old f.hi f.lo
     | .RW1C => bitsOf old f.hi f.lo ^^^ (bitsOf old f.hi f.lo &&& bitsOf x.ones f.hi f.lo)
     | _ => bitsOf old f.hi f.lo

/-- In device state OFF, no command but POWER_GOOD leaves the device in another state. R560: OFF is left on power-good. -/
def Obligations.OnlyPowerGoodLeavesOff : Prop :=
  ∀ (c : Instr) (s t : State), s.dev.svc.state = stOff → c ≠ .powerGood → exec c s = .next t → t.dev.svc.state = stOff

/-- After a module trip the device is OFF, the controller is latched, the trip's cause stands in the record and one more trip is
counted. R665. -/
def Obligations.TripsLatchOff : Prop :=
  ∀ (c : Nat) (s : Dev), (s.moduleTrip c).svc.state = stOff ∧ (s.moduleTrip c).pe.state = peLatched ∧ (s.moduleTrip c).pe.lastTrip = c ∧
   (s.moduleTrip c).pe.trips = (s.pe.trips + 1) % 2 ^ 32 ∧ (s.moduleTrip c).pe.pgood = false

/-- A tick advances the switch's own time by 1 and fabric time by 0, 1 or 2 units of 125 ps modulo 2^64; with no slew pending it is 1.
R605's wrap. How far the servo slews is a free value of the model within the 50 ppm of its rule (log entry 166). -/
def Obligations.FabricTimeAdvancesWithinItsSlew : Prop :=
  ∀ s : Dev, (∃ n ≤ 2, s.advance1.ftime = (s.ftime + n) % 2 ^ 64) ∧ s.advance1.now = s.now + 1 ∧
   (s.tel.slew = 0 → s.tel.slewAcc = 0 → s.advance1.ftime = (s.ftime + 1) % 2 ^ 64)

/-- The action of RAISE_SVN leaves every kind's minimum where it was or higher, and that of the named kind at the greater of its value
and the SVN of the image in use. R652's first and third sentences, for the kinds 0 to 4. -/
def Obligations.MinimumSvnOnlyRises : Prop :=
  ∀ (kind : Nat) (s : Dev), kind < 5 → s.trust.minSvn.length = 5 →
   let svn := ((tfind s.trust.inUse kind).map fun u => u.svn).getD 0
   let t := s.fwAct (3 + 256 * kind) []
   t.trust.minSvn.getD kind 0 = max (s.trust.minSvn.getD kind 0) svn ∧ ∀ k, k ≠ kind → t.trust.minSvn.getD k 0 = s.trust.minSvn.getD k 0

/-- A switch PREPARED for the epoch of a CANCEL message that it follows returns to IDLE with both halves of its routing tables as they
were; one in another state does no more than it does with every down message it follows: it notes the term and the sender and passes
the message on. R439. -/
def Obligations.CancelReturnsToIdle : Prop :=
  ∀ (src : TreeSrc) (m : TreeMsg) (s : Dev), s.On → tabove 0 s.regs = true → m.kind = 0x13 → s.treeAccept src = true →
   s.fget Fld.DL_DEAL_STAT.TERM 0 ≤ m.term →
   (s.preparedFor m.epoch = true → ∃ t : Dev, Does (.cancel src m) s t ∧ t.fget Fld.DL_DEAL_STAT.STATE 0 = 0 ∧ t.rt = s.rt) ∧
   (s.fget Fld.DL_DEAL_STAT.STATE 0 ≠ 1 → Does (.cancel src m) s (s.followed src m))

/-- A READ of a result entry, by a session that may read it, answers status 0x0402 without data while the command's action runs, and
0x0404 without data while no command has been accepted since the start of the management software. R569. RSEQ is 0 exactly until a
command is accepted (R571, R575). -/
def Obligations.ResultsAreReadOnceEnded : Prop :=
  ∀ (h : ReqHdr) (x : Sess) (e : EntryRef) (r : ObjRow) (s : Dev), s.On → s.Asks h x → s.xing.farLock = none → isResult e.index e.sub = true →
   (s.heard h).readCheck { x with at_ := s.now } e = .inl r →
   ((s.cmdSt e.index (e.sub - 1)).running = true → Serves (.read h [e]) h (.read [e]) s ((s.heard h).answerReq h.sess svRead h.seq 0x0402 [])) ∧
   ((s.cmdSt e.index (e.sub - 1)).running = false → (s.cmdSt e.index (e.sub - 1)).rseq = 0 →
     Serves (.read h [e]) h (.read [e]) s ((s.heard h).answerReq h.sess svRead h.seq 0x0404 []))

/-- For every plane, a register write goes to the register its address names (the control and management planes by block and offset,
drivers through the BARs): a plain register that the rules of its state do not keep takes the written value field by field, one that
R28 keeps stays and the write is counted; a read answers the value the register had and performs what the read clears; both wait
their turn while the register bus is held for another, clearing a first-event record resets it or records the event of the same
cycle, and an LPDDR4X access inside the usable range stores or returns its bytes, or is recorded and stores nothing where its plane
may not access the region. For each of these commands a clause concludes the next state that exec answers, under assumptions on the
state and the operands alone: registerWrite, rcRead, firstEventRecordClear, lpddr4xAccess. Register accesses and LPDDR4X accesses
(R13, R14, R26, R28, R29, R30, R409, R722). Log entries the family rests on: 24 to 30 and 33. -/
def Obligations.RegisterAndMemoryAccessCompletes : Prop :=
  (∀ (p : Plane) (code off v inst : Nat) (r : Reg) (s : Dev), s.On → s.portHeld p (.blk code off) = false → p ≠ .data → (regAt code off = some (r, inst, 0)) → (regInfo r).width = 64 → r.plain = true → s.regBlocked r inst = false →
      Does (.registerWrite p (.blk code off) .whole v) s
    (let old := s.rget r inst
     let asked := (s.spare r inst (wrWhole 64 v)).stored (regInfo r) old
     let t := s.rset r inst (s.regLimits r inst old (s.keepRunning r old asked))
     if s.keepRunning r old asked = asked then t else t.rejected)) ∧
    (∀ (p : Plane) (code off v inst byte : Nat) (r : Reg) (s : Dev), s.On → s.portHeld p (.blk code off) = false → p ≠ .data → (¬ (code = 7 ∧ offStaged ≤ off)) → (regAt code off = some (r, inst, byte)) → halfReg r = false → r.plain = true → s.regBlocked r inst = false →
      Does (.registerWrite p (.blk code off) .low v) s
    (let old := s.rget r inst
     let asked := (s.spare r inst (wrWord old (regInfo r).width byte (v % 2 ^ 32))).stored (regInfo r) old
     let t := s.rset r inst (s.regLimits r inst old (s.keepRunning r old asked))
     if s.keepRunning r old asked = asked then t else t.rejected)) ∧
    (∀ (p : Plane) (code off v inst byte : Nat) (r : Reg) (s : Dev), s.On → s.portHeld p (.blk code off) = false → p ≠ .data → (¬ (code = 7 ∧ offStaged ≤ off)) → (regAt code off = some (r, inst, byte)) → halfReg r = false → r.plain = true → s.regBlocked r inst = true →
      Does (.registerWrite p (.blk code off) .low v) s s.rejected) ∧
    (∀ (p : Plane) (code off v : Nat) (s : Dev), s.On → s.portHeld p (.blk code off) = false → p ≠ .data →
      Does (.registerWrite p (.blk code off) .whole v) s (s.blkWriteWhole p code off v)) ∧
    (∀ (p : Plane) (code off v : Nat) (s : Dev), s.On → s.portHeld p (.blk code off) = false → p ≠ .data →
      Does (.registerWrite p (.blk code off) .low v) s (s.blkWrite p code off (v % 2 ^ 32))) ∧
    (∀ (p : Plane) (code off v : Nat) (s : Dev), s.On → s.portHeld p (.blk code off) = false → p ≠ .data →
      Does (.registerWrite p (.blk code off) .high v) s (s.blkWrite p code (off + 4) (v % 2 ^ 32))) ∧
    (∀ (vs fn b off v : Nat) (s : Dev), s.On →
      Does (.registerWrite .data (.bar vs fn b off) .low v) s (s.barWrite vs fn b off (v % 2 ^ 32))) ∧
    (∀ (p : Plane) (code off v : Nat) (part : RegPart) (s : Dev), s.On → s.portHeld p (.blk code off) = true →
      Does (.registerWrite p (.blk code off) part v) s
    { s with xing.mwWait := s.xing.mwWait ++ [.core p (.blk code off) part v] }) ∧
    (∀ (p : Plane) (code off inst : Nat) (r : Reg) (s : Dev), s.On → s.portHeld p (.blk code off) = false → p ≠ .data → (regAt code off = some (r, inst, 0)) → (regInfo r).width = 64 →
      Does (.rcRead p (.blk code off)) s ((s.regAfterRead r inst).emit (.regRead (s.regRead r inst)))) ∧
    (∀ (p : Plane) (code off inst byte : Nat) (r : Reg) (s : Dev), s.On → s.portHeld p (.blk code off) = false → p ≠ .data → (¬ (code = 7 ∧ offStaged ≤ off)) → (regAt code off = some (r, inst, byte)) → (regInfo r).width = 32 → halfReg r = false →
      Does (.rcRead p (.blk code off)) s ((s.regAfterRead r inst).emit (.regRead (wordOf (s.regRead r inst) byte)))) ∧
    (∀ (p : Plane) (code off : Nat) (s : Dev), s.On → s.portHeld p (.blk code off) = false → p ≠ .data →
      Does (.rcRead p (.blk code off)) s ((s.blkReadWhole code off).2.emit (.regRead (s.blkReadWhole code off).1))) ∧
    (∀ (vs fn b off inst : Nat) (r : Reg) (s : Dev), s.On → s.barOpen vs fn = true → s.barAt vs fn b off = .reg r inst 0 → (regInfo r).width = 64 →
      Does (.rcRead .data (.bar vs fn b off)) s ((s.regAfterRead r inst).emit (.regRead (s.regRead r inst)))) ∧
    (∀ (p : Plane) (code off : Nat) (s : Dev), s.On → s.portHeld p (.blk code off) = true →
      Does (.rcRead p (.blk code off)) s { s with xing.mwWait := s.xing.mwWait ++ [.coreRead p (.blk code off)] }) ∧
    (∀ (r : Reg) (inst : Nat) (s : Dev), s.On → eventRecord r = true → inst < (regInfo r).n1 * (regInfo r).n2 →
      Does (.firstEventRecordClear r inst none) s (s.clearRecord r inst)) ∧
    (∀ (r : Reg) (inst a b : Nat) (s : Dev), s.On → eventRecord r = true → eventTwin r = none → inst < (regInfo r).n1 * (regInfo r).n2 →
      Does (.firstEventRecordClear r inst (some (a, b))) s ((s.clearRecord r inst).rset r inst (recordWord r a))) ∧
    (∀ (p : Plane) (addr len : Nat) (data : List Byte) (s : Dev), s.On → addr + data.length ≤ memTop → memBlocked p true addr data.length = none →
      Does (.lpddr4xAccess p true addr len data) s (s.memWrite addr data)) ∧
    (∀ (p : Plane) (addr len : Nat) (data : List Byte) (s : Dev), s.On → addr + len ≤ memTop → memBlocked p false addr len = none →
      Does (.lpddr4xAccess p false addr len data) s (s.emit (.memRead (s.memRead addr len)))) ∧
    (∀ (p : Plane) (addr len k a : Nat) (data : List Byte) (s : Dev), s.On → addr + data.length ≤ memTop → (memBlocked p true addr data.length = some (k, a)) →
      Does (.lpddr4xAccess p true addr len data) s (s.memViolation p true k a))

/-- A packet arriving at an enabled PCI Express port whose link is up, from a fabric port's received flits or from an internal port
enters the switch with its decode, the rest of its flits follow, and one beyond the credit given is discarded with reason 6; the
next ESEQ of an open stream goes to the oldest packet waiting for it; a packet's lookup forwards it, discards it or places its
arrived cells; a non-posted request with a token and a shelf to take is registered and queued. For each of these commands a clause
concludes the next state that exec answers, under assumptions on the state and the operands alone: packetIngress, eseqAssign,
coreLookup, npReservation. Ingress decode, sequence numbers, lookup and reservation (R51 to R66, R366 to R372, R392, R414). Log
entries the family rests on: 13 to 18. -/
def Obligations.IngressCompletes : Prop :=
  (∀ (port k : Nat) (b : Binding) (x t : Tlp) (s : Dev), s.On → s.enabled port = true → s.role port = 1 → (s.pport port).up = true → s.bindAt s.ap port = some b → b.vs ≠ noVs → s.tlpIn port x = t → flitsOf t.len ≤ s.creditGiven port → t.malformed = false → s.errTrigger port t = none →
      Does (.packetIngress port (.pcie x k)) s
    (let n := flitsOf t.len
     let m := if s.fbit Fld.PCI_PORT_STAT.FLIT port then max 1 (min k n) else n
     { s.count .TM_PORT_RXB port x.len with fwd.pciTaken := tmod 0 s.fwd.pciTaken port (· + n) }.enter
       { port := port, vs := b.vs, typ := tlpType t.kind, oc := s.ocOf b.vs t.tc, cc := s.ccOf b.vs (s.ocOf b.vs t.tc),
         par := s.decodeParity, content := .tlp t, nfl := n, arrived := m, inFl := n, inArr := m,
         saf := s.fbit Fld.XB_PORT_CTRL.SAF port || !s.fbit Fld.PCI_PORT_STAT.FLIT port,
         idCode := s.busAt b.vs (t.target / 256 % 256), srcCode := s.busAt b.vs (t.reqId / 256) })) ∧
    (∀ (port k vs : Nat) (x t : Tlp) (s : Dev), s.On → s.enabled port = true → s.role port = 0 → (s.pport port).up = true → s.vsOfHost port = some vs → vs ≠ noVs → s.tlpIn port x = t → flitsOf t.len ≤ s.creditGiven port → t.malformed = false → s.errTrigger port t = none →
      Does (.packetIngress port (.pcie x k)) s
    (let n := flitsOf t.len
     let m := if s.fbit Fld.PCI_PORT_STAT.FLIT port then max 1 (min k n) else n
     { s.count .TM_PORT_RXB port x.len with fwd.pciTaken := tmod 0 s.fwd.pciTaken port (· + n) }.enter
       { port := port, vs := vs, typ := tlpType t.kind, oc := s.ocOf vs t.tc, cc := s.ccOf vs (s.ocOf vs t.tc),
         par := s.decodeParity, content := .tlp t, nfl := n, arrived := m, inFl := n, inArr := m,
         saf := s.fbit Fld.XB_PORT_CTRL.SAF port || !s.fbit Fld.PCI_PORT_STAT.FLIT port,
         idCode := s.busAt vs (t.target / 256 % 256), srcCode := s.busAt vs (t.reqId / 256) })) ∧
    (∀ (port k vs : Nat) (x t : Tlp) (s : Dev), s.On → s.enabled port = true → s.role port = 0 → (s.pport port).up = true → s.vsOfHost port = some vs → vs ≠ noVs → s.tlpIn port x = t → s.creditGiven port < flitsOf t.len →
      Does (.packetIngress port (.pcie x k)) s
    (let n := flitsOf t.len
     let m := if s.fbit Fld.PCI_PORT_STAT.FLIT port then max 1 (min k n) else n
     ((s.count .TM_PORT_RXB port x.len).dropLog
       { port := port, vs := vs, typ := tlpType t.kind, oc := s.ocOf vs t.tc, cc := s.ccOf vs (s.ocOf vs t.tc),
         par := s.decodeParity, content := .tlp t, nfl := n, arrived := m, inFl := n, inArr := m,
         saf := s.fbit Fld.XB_PORT_CTRL.SAF port || !s.fbit Fld.PCI_PORT_STAT.FLIT port,
         idCode := s.busAt vs (t.target / 256 % 256), srcCode := s.busAt vs (t.reqId / 256) } 6).aerAtPort port .receiverOverflow (s.hdrLogOf port t))) ∧
    (∀ (port pid k : Nat) (p : Pkt) (s : Dev), s.On → (s.pkt? pid = some p) → p.port = port → port < 48 → p.arrEnv = none → p.inArr < p.inFl →
      Does (.packetIngress port (.more pid k)) s (s.flitsCome pid (min p.inFl (p.inArr + k)))) ∧
    (∀ (port : Nat) (b : BlPort) (t : Tlp) (x : RxIn) (rest : List RxIn) (s : Dev), s.On → s.isFabric port = true → (tget {} s.bl.ports port = b) → (b.inbox = x :: rest) → x.env.typ ≠ 3 →
      Does (.packetIngress port (.fabric (some t))) s
    (let n := flitsOf (16 + x.env.tlen)
     let m := if x.last then n else min x.flits (n - 1)
     let rx := if x.last then b.rx else b.rx.map fun r => { r with pid := some s.fwd.nextPid }
     { s with bl.ports := tput {} s.bl.ports port { b with inbox := rest, rx := rx } }.enter
      { port := port, vs := x.env.vs, typ := envType x.env.typ, oc := x.env.oc, cc := x.cc, par := x.env.ep, arrEnv := some x.env,
        content := .tlp { t with raw := x.bytes, len := x.env.tlen }, nfl := n, arrived := m, inFl := n, inArr := m,
        dest := x.env.dgpa, saf := s.fbit Fld.XB_PORT_CTRL.SAF port, eseq := some x.env.eseq, lockTlp := x.env.lock, tok := x.env.tok })) ∧
    (∀ (port : Nat) (p : IntPkt) (s : Dev), s.On → 48 ≤ port → port < 52 →
      Does (.packetIngress port (.internal p)) s
    (let n := flitsOf (contentLen p.content)
     s.enter { port := port, vs := p.vs, typ := p.typ, oc := p.oc, cc := p.cc, par := s.decodeParity, content := p.content, nfl := n,
               arrived := n, inFl := n, inArr := n, saf := p.saf, dest := p.dgpa, topen := p.topen, tclose := p.tclose, via := p.via,
               unit := p.unit })) ∧
    (∀ (pid d : Nat) (p : Pkt) (s : Dev), s.On → (s.pkt? pid = some p) → s.seqDest p = some d → p.stage = .decoded → p.eseq = none → s.overShelf p = false → ((s.fwd.pkts.any fun e => decide (e.1 < pid) && e.2.oc == p.oc && e.2.stage == .decoded && e.2.eseq.isNone && !s.overShelf e.2 && s.seqDest e.2 == some d) = false) → (s.outS d p.oc).skip = none → seqSub (s.outS d p.oc).next (s.outS d p.oc).oldest < 1024 → (s.outS d p.oc).lastCycle ≠ some s.cycle →
      Does (.eseqAssign pid) s ((s.putPkt pid { p with eseq := some (s.outS d p.oc).next }).modOut d p.oc fun o =>
    { o with next := (o.next + 1) % seqMod, lastCycle := some s.cycle,
             timer := if o.timer.isNone then some (s.now + s.fget Fld.DL_CFG.E2E_TO 0 * tUs) else o.timer })) ∧
    (∀ (pid g : Nat) (p : Pkt) (t : Option Tlp) (chk : CoreCheck) (s : Dev), s.On → (s.pkt? pid = some p) → p.stage = .decoded → s.lookedUpFirst pid p = false → chk = .good → s.staleParity p.par = false → s.seqDest p = none → s.resolve p = .to g t →
      Does (.coreLookup pid chk) s (s.forward pid p g t)) ∧
    (∀ (pid d g : Nat) (p : Pkt) (t : Option Tlp) (s : Dev), s.On → (s.pkt? pid = some p) → p.stage = .decoded → s.lookedUpFirst pid p = false → s.staleParity p.par = false → s.seqDest p = some d → s.overShelf p = false → p.eseq ≠ none → s.resolve p = .to g t →
      Does (.coreLookup pid .good) s (s.forward pid p g t)) ∧
    (∀ (pid : Nat) (p : Pkt) (s : Dev), s.On → (s.pkt? pid = some p) → p.stage = .decoded → s.lookedUpFirst pid p = false →
      Does (.coreLookup pid .headerBad) s (s.discard pid 5)) ∧
    (∀ (pid : Nat) (p : Pkt) (t : Tlp) (env : Env) (s s1 : Dev), s.On → (s.pkt? pid = some p) → p.stage = .reserve → (p.tlp? = some t) → p.outEnv = some env → ((s.xing.quar.any fun q => q.reqId == t.reqId && q.tag == t.tag) = false) → ((s.fwd.pkts.any fun e => decide (e.1 < pid) && e.2.port == p.port && e.2.oc == p.oc && e.2.egr == p.egr && e.2.stage == .reserve) = false) → s.outTokens (gpaFsid p.dest) < s.handHeld p.par (gpaFsid p.dest) → s.fget Fld.RT_SHELF_USE.RESV p.port + shelfOf t ≤ s.shelfSize p.par p.port → s1 = (s.fset (handFld p.par) (gpaFsid p.dest) (s.fget (handFld p.par) (gpaFsid p.dest) + 1)).shelfTake p.port (shelfOf t) →
      Does (.npReservation pid) s
    ((({ s1 with xing.reqs := s1.xing.reqs ++
          [{ reqId := t.reqId, tag := t.tag, vs := p.vs, port := p.port, dgpa := p.dest, par := p.par, tok := true, shelf := shelfOf t,
             deadline := s.now + s.ftoOf p * tUs, fto := s.ftoOf p, bytes := t.bytes, left := t.bytes, addr := t.addr, oc := p.oc,
             locked := t.kind == .memRdLk, eseq := p.eseq }] } : Dev).putPkt pid
        { p with tok := true,
                 outEnv := some { env with tok := true, dlv := true, dl := (s.ftime / 8 + s.ftoOf p * 1000) % 2 ^ 32 } }).enqueue pid))

/-- In an arbitration phase the arbiter grants the winner of R101's choice among the requests it may grant; the data phase passes the
granted flit one cycle later at the earliest; a staged flit of a PCI Express port in L0, or of a fabric port, leaves the port; a
packet wholly staged starts; a stalled fabric port fails its link; round boundaries, tenure cuts, trick cuts, park release, commit
writes (performed in the next core cycle, several of one cycle once), hatch writes and the hatch watchdog do what their rules say.
For each of these commands a clause concludes the next state that exec answers, under assumptions on the state and the operands
alone: grant, crossbarDataPhase, egressEncode, egressTlpStart, egressStallTimeout, roundBoundary, tenureCut, trickCut64,
trickHoldCut, parkReleaseIdle, commit, hatchWrite, hatchWatchdog. Arbitration, data phases and egress (R74, R84, R97 to R130). Log
entries the family rests on: 39 to 41. -/
def Obligations.ArbitrationAndCrossbarCompletes : Prop :=
  (∀ (a : Nat) (reqs : List ArbReq) (ask rel : Bool) (r : Request) (s s1 s2 : Dev), s.On → 17 ≤ a → a < 57 → (s.arbOf a).lastPhase ≠ some s.cycle → (s1 = ((s.modArb a fun x => { x with lastPhase := some s.cycle, tenure := if rel then none else x.tenure }).enterAll).cutTenure a) → s1.requests a reqs ≠ [] → (s2 = s1.modArb a fun x => { x with idle := 0 }) → chooseWinner (s2.arbOf a) (arbInputs a) ((s1.requests a reqs).filter (s2.eligible a)) = some r →
      Does (.grant a reqs ask rel) s
    (let t := s2.grantTo a r false false false
     if 49 ≤ a ∧ a ≤ 52 then { t with fwd.cand := tins t.fwd.cand (a - 49) r.pid } else t)) ∧
    (∀ (a : Nat) (reqs : List ArbReq) (ask rel : Bool) (r : Request) (p : Pkt) (s s1 s2 : Dev), s.On → a ≤ 16 → (s.arbOf a).lastPhase ≠ some s.cycle → (s1 = (((s.modArb a fun x => { x with lastPhase := some s.cycle, tenure := if rel then none else x.tenure }).enterAll).cutTenure a).keepPhase) → s1.requests a reqs ≠ [] → (s2 = s1.modArb a fun x => { x with idle := 0 }) → chooseWinner (s2.arbOf a) (arbInputs a) ((s1.requests a reqs).filter (s2.eligible a)) = some r → (s2.pkt? r.pid = some p) → s2.dlExpired p = false →
      Does (.grant a reqs ask rel) s (s2.grantFlit a r ask)) ∧
    (∀ (a : Nat) (reqs : List ArbReq) (ask rel : Bool) (s s1 : Dev), s.On → 17 ≤ a → a < 57 → (s.arbOf a).lastPhase ≠ some s.cycle → (s1 = ((s.modArb a fun x => { x with lastPhase := some s.cycle, tenure := if rel then none else x.tenure }).enterAll).cutTenure a) → s1.requests a reqs = [] →
      Does (.grant a reqs ask rel) s (s1.parkPhase a)) ∧
    (∀ (a : Nat) (g : GrantRec) (rest : List GrantRec) (p : Pkt) (s s1 : Dev), s.On → ((s.arbOf a).pend = g :: rest) → g.cycle < s.cycle → (s.arbOf a).dataAt ≠ some s.cycle → tfind s.fwd.inputData g.input ≠ some s.cycle → (s1 = (let t := s.modArb a fun x => { x with pend := rest, dataAt := some s.cycle }; { t with fwd.inputData := tins t.fwd.inputData g.input s.cycle })) → (s1.pkt? g.pid = some p) → g.void = false → (g.idx ≠ 0 ∨ g.privileged = true ∨ s1.fenced g.pid p = false) →
      Does (.crossbarDataPhase a .good) s (s1.passFlit g p .good)) ∧
    (∀ (n : Nat) (f : StagedFlit) (rest : List StagedFlit) (s : Dev), s.On → (tget [] s.fwd.stg n = f :: rest) → s.isFabric n = false → s.fget Fld.PCI_PORT_STAT.LTSSM n = lL0 → tfind s.fwd.started n = some f.pid →
      Does (.egressEncode n) s (s.encodePcie n f rest)) ∧
    (∀ (n : Nat) (f : StagedFlit) (rest : List StagedFlit) (s : Dev), s.On → (tget [] s.fwd.stg n = f :: rest) → s.isFabric n = true →
      Does (.egressEncode n) s (s.encodeFabric n f rest)) ∧
    (∀ (n : Nat) (f : StagedFlit) (rest : List StagedFlit) (p : Pkt) (s : Dev), s.On → (tget [] s.fwd.stg n = f :: rest) → (s.pkt? f.pid = some p) → (s.isHost n = true ∨ s.isDevice n = true) → f.idx = 0 → p.passed + p.cells.length = p.nfl → tfind s.fwd.started n = none →
      Does (.egressTlpStart n) s { s with fwd.started := tins s.fwd.started n f.pid }) ∧
    (∀ (n t : Nat) (s s1 : Dev), s.On → tfind s.fwd.stallEnd n = none → tfind s.fwd.stallFrom n = some t → t + 10 * tUs * 2 ^ s.fget Fld.XB_PORT_EGR.STALL_TO n ≤ s.now → s.portHolds n = true → s.isFabric n = true → (s1 = (let p := ((s.heldFor n).head?.bind s.pkt?).getD { port := n }; ((s.count .XB_DROP_CNT 6 1).errLog 7 (s.gpa n) p.port p.oc (ptypeCode p.typ) p.vs).linkFail n 5)) →
      Does (.egressStallTimeout n) s { s1 with fwd.stallFrom := tdel s1.fwd.stallFrom n, fwd.stallEnd := tdel s1.fwd.stallEnd n }) ∧
    (∀ (a : Nat) (s : Dev), s.On → a < 57 → (s.arbOf a).roundEnd ≤ s.cycle →
      Does (.roundBoundary a) s ((s.modArb a fun x =>
    { x with counts := [],
             roundEnd := (s.cycle / 2 ^ s.fget Fld.ARB_CFG_W.ROUND_EXP a + 1) * 2 ^ s.fget Fld.ARB_CFG_W.ROUND_EXP a }).fset
    Fld.ARB_STAT.MASKED a 0)) ∧
    (∀ (a : Nat) (h : Tenure) (s : Dev), s.On → (s.arbOf a).tenure = some h → h.start + h.limit ≤ s.cycle →
      Does (.tenureCut a) s ((((s.modArb a fun x => { x with tenure := none }).arbFlag a 0 h.input 0 h.cls).count .ARB_CUT_CNT a 1).raise
    (evArb a))) ∧
    (∀ (a port : Nat) (t : Trick) (s : Dev), s.On → ((s.arbOf a).tricks.find? (fun t => t.port == port && !t.locks) = some t) →
      Does (.trickCut64 a port) s (s.cutTrick a 1 t)) ∧
    (∀ (a port : Nat) (t : Trick) (s : Dev), s.On → ((s.arbOf a).tricks.find? (fun t => t.port == port && t.locks && decide (t.opened + t.hold ≤ s.cycle)) = some t) →
      Does (.trickHoldCut a port) s (s.cutTrick a 2 t)) ∧
    (∀ (a : Nat) (s : Dev), s.On → (s.arbOf a).parked ≠ none → s.fget Fld.ARB_CFG_W.PARK_IDLE a ≤ (s.arbOf a).idle →
      Does (.parkReleaseIdle a) s (s.modArb a fun x => { x with parked := none, idle := 0 })) ∧
    (∀ (p : Plane) (s : Dev), s.On → p ≠ .data → s.sch.commitAt = none →
      Does (.commit p) s { s with sch.commitAt := some (s.cycle, s.ftime) }) ∧
    (∀ (p : Plane) (s : Dev), s.On → p ≠ .data → s.sch.commitAt ≠ none →
      Does (.commit p) s s) ∧
    (∀ (a : Nat) (close : Bool) (s : Dev), s.On → a < 57 →
      Does (.hatchWrite a .control close) s
    (let t := s.fset Fld.ARB_HATCH.CTRL a (b2n close)
     t.modArb a fun x =>
       { x with closedAt := if t.hatchClosed a then (if s.hatchClosed a then x.closedAt else some s.now) else none,
                watched := if t.hatchClosed a && s.hatchClosed a then x.watched else false,
                parked := if t.hatchClosed a then none else x.parked })) ∧
    (∀ (a : Nat) (close : Bool) (s : Dev), s.On → a < 57 →
      Does (.hatchWrite a .management close) s
    (let t := s.fset Fld.ARB_HATCH.MGMT a (b2n close)
     t.modArb a fun x =>
       { x with closedAt := if t.hatchClosed a then (if s.hatchClosed a then x.closedAt else some s.now) else none,
                watched := if t.hatchClosed a && s.hatchClosed a then x.watched else false,
                parked := if t.hatchClosed a then none else x.parked })) ∧
    (∀ (a t : Nat) (s : Dev), s.On → (s.arbOf a).closedAt = some t → (s.arbOf a).watched = false → t + tUs * 2 ^ s.fget Fld.ARB_HATCH_WD.EXP 0 ≤ s.now →
      Does (.hatchWatchdog a) s (((s.modArb a fun x => { x with watched := true }).arbFlag a 3 0 0 0).raise (evArb a)))

/-- At a slot's beginning every flow due leaves the calendar or is entered again and LAGMAX follows; the sweep pulls up a TAT that fell
too far behind; a gate entry's beginning refreshes the gate states, a switch-over makes the armed list the active one; a sampling
pass writes one record for each selected queue, or is skipped and counted. For each of these commands a clause concludes the next
state that exec answers, under assumptions on the state and the operands alone: calendarSlotBegin, flowSweepVisit, gateEntryBegin,
gateSwitchover, samplingPass. The egress scheduler's own events (R138 to R163). Log entries the family rests on: 171, 20 and 32. -/
def Obligations.SchedulingCompletes : Prop :=
  (∀ (s : Dev), s.On →
      Does .calendarSlotBegin s
    (each (s.slotsBegun.filter fun k => s.sch.cal.any fun e => e.2.ready.isNone && e.2.slot == k) { s with sch.calDone := s.sampled }
      fun s k =>
        let due := s.sch.cal.filter fun e => e.2.ready.isNone && e.2.slot == k
        let s1 := each ((List.range due.length).zip (due.map (·.1))) s fun s x =>
          if s.tatOk x.2 then { s with sch.cal := tins s.sch.cal x.2 { slot := k, ready := some (s.slotBegan k + 4 * (x.1 / 4)) } }
          else ({ s with sch.cal := tdel s.sch.cal x.2 } : Dev).enterCal x.2
        let lag := ceilDiv (due.length - 4) 4
        if s1.fget Fld.SCH_CAL_STAT.LAGMAX 0 < lag then s1.fset Fld.SCH_CAL_STAT.LAGMAX 0 (min 65535 lag) else s1)) ∧
    (∀ (f : Nat) (s : Dev), s.On → f = s.sch.sweep → s.fbit Fld.SCH_CAL.EN 0 = true → tatGe (s.tat f + tSec * 65536) s.now16 = false →
      Does (.flowSweepVisit f) s (({ s with sch.sweep := (f + 1) % 16384 } : Dev).setTat f s.now16)) ∧
    (∀ (n : Nat) (s : Dev), s.On → n < 48 →
      Does (.gateEntryBegin n) s (s.gateRefresh n)) ∧
    (∀ (n : Nat) (a : GateList) (s s1 s2 : Dev), s.On → tfind s.sch.armed n = some a → a.swt ≤ s.sampled → (s1 = s.fsets n [(Fld.SCH_PORT_W.GEN, b2n a.gen), (Fld.SCH_PORT_W.LEN, a.len), (Fld.SCH_GATE_BASE_W.TIME, a.base), (Fld.SCH_GATE_SWT_W.TIME, a.swt), (Fld.SCH_GATE_STAT.ARMED, 0)]) → (s2 = each ((List.range a.len).zip a.ents) s1 fun s x => s.fsets (n * 256 + x.1) [(Fld.SCH_GATE_ENT_W.GATES, x.2.1), (Fld.SCH_GATE_ENT_W.DUR, x.2.2)]) →
      Does (.gateSwitchover n) s (({ s2 with sch.armed := tdel s2.sch.armed n } : Dev).gateRefresh n)) ∧
    (∀ (late : Bool) (s s1 : Dev), s.On → s.fbit Fld.SCH_SMP_CTRL.EN 0 = true → s.sch.smpNext ≤ s.now → s.sch.smpSkip = false → (s1 = each s.selected s fun s q => s.sampleRecord s.sch.smpPass q) →
      Does (.samplingPass late) s
    ({ s1 with sch.smpPass := (s.sch.smpPass + 1) % 2 ^ 32, sch.smpSkip := late,
               sch.smpNext := s.sch.smpNext + tUs * 2 ^ s.fget Fld.SCH_SMP_CTRL.EXP 0 } : Dev).freshSamples) ∧
    (∀ (late : Bool) (s : Dev), s.On → s.fbit Fld.SCH_SMP_CTRL.EN 0 = true → s.sch.smpNext ≤ s.now → s.sch.smpSkip = true →
      Does (.samplingPass late) s
    ((({ s with sch.smpSkip := false, sch.smpNext := s.sch.smpNext + tUs * 2 ^ s.fget Fld.SCH_SMP_CTRL.EXP 0 } : Dev)).count
      .SCH_SMP_SKIP_CNT 0 1))

/-- Training ends in L0 at the rate and width both partners allow, a link going down is recorded and reported, Recovery and equalisation
leave the state their rules give, L0p windows, widening and partner requests change the width, L1 entry changes the LTSSM state, and
a configuration request reads or writes the register space it names and is completed. For each of these commands a clause concludes
the next state that exec answers, under assumptions on the state and the operands alone: pcieLinkUp, pcieLinkDown, pcieRecovery,
pcieEqualisation, l0pWindowEnd, l0pWidenComplete, l0pPartnerRequest, aspmL1Entry, configRequest. The events of a PCI Express port
and configuration requests (R165 to R184). Log entries the family rests on: 18, 19, 49 to 51. -/
def Obligations.PciePortCommandsComplete : Prop :=
  (∀ (n : Nat) (x : PciePartner) (s : Dev), s.On → s.pcieOn n = true → (s.pport n).up = false → (s.pport n).disabled = false → (s.pport n).slotOff = false → (s.pport n).perst = false → (s.pport n).hotReset = false → s.isHost n = true →
      Does (.pcieLinkUp n x) s
    (let flit := s.fbit Fld.PCI_PORT_CTRL.FLIT_EN n && x.flit
     let rate := trainRate (s.fget Fld.PCI_PORT_CTRL.MAXRATE n) (s.pport n).target x.rate flit
     let w := widest (min (s.width n) x.width)
     let s2 := (s.fsets n [(Fld.PCI_PORT_STAT.FLIT, b2n flit), (Fld.PCI_PORT_STAT.TXW, w), (Fld.PCI_PORT_STAT.RXW, w),
       (Fld.PCI_PORT_STAT.RATE, rate), (Fld.PCI_PORT_STAT.LTSSM, lL0)]).modPport n fun q =>
         { q with up := true, width := w, l0pAt := none, l1 := false, winAt := s.now, detect := true }
     (((({ s2 with fwd.contained := s2.fwd.contained &&& (2 ^ 48 - 1 - 2 ^ n) } : Dev).clearCredits n).advertise n).emit
       (.train n (s.fbit Fld.PCI_PORT_CTRL.FLIT_EN n) (flit && s.fbit Fld.PCI_PORT_CTRL.L0P_EN n))).tellHost n {})) ∧
    (∀ (n : Nat) (x : PciePartner) (s : Dev), s.On → s.pcieOn n = true → (s.pport n).up = false → (s.pport n).disabled = false → (s.pport n).slotOff = false → (s.pport n).perst = false → (s.pport n).hotReset = false → s.isDevice n = true → s.isContained n = false →
      Does (.pcieLinkUp n x) s
    (let flit := s.fbit Fld.PCI_PORT_CTRL.FLIT_EN n && x.flit
     let rate := trainRate (s.fget Fld.PCI_PORT_CTRL.MAXRATE n) (s.pport n).target x.rate flit
     let w := widest (min (s.width n) x.width)
     (((((s.fsets n [(Fld.PCI_PORT_STAT.FLIT, b2n flit), (Fld.PCI_PORT_STAT.TXW, w), (Fld.PCI_PORT_STAT.RXW, w),
       (Fld.PCI_PORT_STAT.RATE, rate), (Fld.PCI_PORT_STAT.LTSSM, lL0)]).modPport n fun q =>
         { q with up := true, width := w, l0pAt := none, l1 := false, winAt := s.now, detect := true }).clearCredits n).advertise n).emit
       (.train n (s.fbit Fld.PCI_PORT_CTRL.FLIT_EN n) (flit && s.fbit Fld.PCI_PORT_CTRL.L0P_EN n))).tellHost n {})) ∧
    (∀ (n : Nat) (hot : Bool) (s : Dev), s.On → (s.pport n).up = true → s.vsOfHost n = none →
      Does (.pcieLinkDown n hot) s
    (let t := (s.modPport n fun q => { q with detect := false }).linkDown n lDetect
     if s.isDevice n ∧ ¬ hot then t.deviceDown n else t)) ∧
    (∀ (n vs : Nat) (hot : Bool) (s : Dev), s.On → (s.pport n).up = true → s.vsOfHost n = some vs → s.isDevice n = false →
      Does (.pcieLinkDown n hot) s (vsHotReset vs ((s.modPport n fun q => { q with detect := false }).linkDown n lDetect))) ∧
    (∀ (n : Nat) (s : Dev), s.On → (s.pport n).up = true →
      Does (.pcieRecovery n none none) s
    ((((each (s.lanesOf n) s fun s i => s.watchBreak i).dropL0p n).fset Fld.PCI_PORT_STAT.LTSSM n lL0).tellHost n {})) ∧
    (∀ (n rate : Nat) (found : List EqFound) (s : Dev), s.On → s.pcieOn n = true → 2 ≤ rate → rate ≤ s.fget Fld.PCI_PORT_CTRL.MAXRATE n → s.fbit Fld.PCI_PORT_CTRL.EQ_MODE n = false →
      Does (.pcieEqualisation n rate found) s
    (each ((s.lanesOf n).zip (List.range (s.lanesOf n).length)) s fun s e => s.applyStandard e.1 rate (found.getD e.2 {}))) ∧
    (∀ (n rate : Nat) (found : List EqFound) (s : Dev), s.On → s.pcieOn n = true → 2 ≤ rate → rate ≤ s.fget Fld.PCI_PORT_CTRL.MAXRATE n → s.fbit Fld.PCI_PORT_CTRL.EQ_MODE n = true → (((s.lanesOf n).all fun i => (s.eqEntry i rate).isSome) = false) →
      Does (.pcieEqualisation n rate found) s
    ((each ((s.lanesOf n).zip (List.range (s.lanesOf n).length))
        (s.fsets n [(Fld.PCI_PORT_STAT.EQFB, 1), (Fld.PCI_PORT_STAT.EQFB_RATE, rate)])
        fun s e => s.applyStandard e.1 rate (found.getD e.2 {})).raise (evPort n))) ∧
    (∀ (n used cap : Nat) (s : Dev), s.On → s.l0pOn n = true → (s.pport n).winAt + tUs * 2 ^ s.fget Fld.PCI_L0P.WIN_EXP n ≤ s.now → s.fget Fld.PCI_L0P.HI_PCT n * cap < 100 * used →
      Does (.l0pWindowEnd n used cap) s ((s.modPport n fun q => { q with winAt := s.now }).askFull n)) ∧
    (∀ (n used cap : Nat) (s : Dev), s.On → s.l0pOn n = true → (s.pport n).winAt + tUs * 2 ^ s.fget Fld.PCI_L0P.WIN_EXP n ≤ s.now → 100 * used < s.fget Fld.PCI_L0P.LO_PCT n * cap → 100 * used ≤ s.fget Fld.PCI_L0P.HI_PCT n * cap → s.egrCells n ≤ 64 → s.minWidth n < s.fget Fld.PCI_PORT_STAT.TXW n → (s.pport n).l0pAt = none →
      Does (.l0pWindowEnd n used cap) s
    (((s.modPport n fun q => { q with winAt := s.now }).noteWidths n).fset Fld.PCI_PORT_STAT.TXW n (s.fget Fld.PCI_PORT_STAT.TXW n / 2))) ∧
    (∀ (n : Nat) (s : Dev), s.On → s.l0pOn n = true → ((s.pport n).l0pAt ≠ none ∨ 64 < s.egrCells n) →
      Does (.l0pWidenComplete n) s
    (((s.noteWidths n).fset Fld.PCI_PORT_STAT.TXW n (s.pport n).width).modPport n fun q => { q with l0pAt := none })) ∧
    (∀ (n w : Nat) (s : Dev), s.On → s.l0pOn n = true → w ≤ (s.pport n).width → (w = 1 ∨ w = 2 ∨ w = 4 ∨ w = 8 ∨ w = 16) →
      Does (.l0pPartnerRequest n w) s ((s.noteWidths n).fset Fld.PCI_PORT_STAT.RXW n w)) ∧
    (∀ (n : Nat) (s : Dev), s.On → s.pcieOn n = true → (s.pport n).up = true → s.fget Fld.PCI_PORT_STAT.LTSSM n = lL0 → s.l1Allowed n = true →
      Does (.aspmL1Entry n) s ((s.fset Fld.PCI_PORT_STAT.LTSSM n lL1).modPport n fun q => { q with l1 := true })) ∧
    (∀ (vs off reqId tag : Nat) (s : Dev), s.On → s.vsExists vs = true → off % 4 = 0 → off < 4096 →
      Does (.configRequest vs .usp off none reqId tag) s (s.emit (.cpl vs reqId tag 0 (s.portWord vs uspNo off)))) ∧
    (∀ (vs n off v be reqId tag : Nat) (s : Dev), s.On → s.vsExists vs = true → s.vdspExists vs n = true → off % 4 = 0 → off < 0x20 → (s.portWrite vs n off (cfgWr (s.portWord vs n off) v be)).rt.busWait.drop s.rt.busWait.length = [] →
      Does (.configRequest vs (.vdsp n) off (some (v, be)) reqId tag) s
    ((s.portWrite vs n off (cfgWr (s.portWord vs n off) v be)).emit (.cpl vs reqId tag 0 0))) ∧
    (∀ (vs n off reqId tag : Nat) (s : Dev), s.On → s.vsExists vs = true → s.vdspExists vs n = false → off % 4 = 0 → off < 4096 →
      Does (.configRequest vs (.vdsp n) off none reqId tag) s (s.cfgUr vs reqId tag))

/-- A host's writes of a vDSP's link, speed, ASPM, reset and slot registers reach the bound device port or travel to its switch; a link
status update sets the vDSP's Link Status; remote errors are logged at the bound vDSP; containment is triggered, asked to end and
released; PTM answers carry the host's time; presence, button and slot events set the states the rules name. For each of these
commands a clause concludes the next state that exec answers, under assumptions on the state and the operands alone:
vdspLinkDisable, vdspRetrainLink, vdspTargetLinkSpeed, vdspAspmControl, secondaryBusReset, vdspLinkStatusUpdate, remoteErrorNotice,
dpcSoftwareTrigger, dpcTriggerStatusWrite, dpcRelease, ptmRequest, presenceDebounced, attentionButtonPress, slotIndicatorWrite,
slotPowerOn, slotPowerOff, slotPerstRelease, slotCommandCompleted. Virtual switch ports: link control, containment, PTM and hot-plug
(R186 to R217). Log entries the family rests on: 42 to 47 and 52. -/
def Obligations.VirtualPortCommandsComplete : Prop :=
  (∀ (vs n p : Nat) (dis : Bool) (s : Dev), s.On → s.boundPort vs n = some p →
      Does (.vdspLinkDisable vs n dis) s (s.setLinkDisable p dis)) ∧
    (∀ (vs n g : Nat) (dis : Bool) (s : Dev), s.On → s.boundPort vs n = none → s.boundFar vs n = some g →
      Does (.vdspLinkDisable vs n dis) s (s.emit (.vdsp g vs n 0 (b2n dis)))) ∧
    (∀ (vs n p : Nat) (s : Dev), s.On → s.boundPort vs n = some p → (s.pport p).up = true →
      Does (.vdspRetrainLink vs n) s (((s.dropL0p p).fset Fld.PCI_PORT_STAT.LTSSM p lRecovery).tellHost p {})) ∧
    (∀ (vs n speed p : Nat) (s : Dev), s.On → s.boundPort vs n = some p → 1 ≤ speed → speed ≤ 7 →
      Does (.vdspTargetLinkSpeed vs n speed) s
    (s.modPport p fun q => { q with target := min (speed - 1) (s.fget Fld.PCI_PORT_CTRL.MAXRATE p) })) ∧
    (∀ (vs n ctl p : Nat) (s : Dev), s.On → s.boundPort vs n = some p →
      Does (.vdspAspmControl vs n ctl) s (s.modPport p fun q => { q with aspm := ctl % 4 })) ∧
    (∀ (vs n p : Nat) (s : Dev), s.On → s.boundPort vs n = some p →
      Does (.secondaryBusReset vs n true) s ((s.modPport p fun q => { q with hotReset := true }).linkDown p lHotReset)) ∧
    (∀ (vs n p : Nat) (s : Dev), s.On → s.boundPort vs n = some p → (s.pport p).hotReset = true →
      Does (.secondaryBusReset vs n false) s
    ((s.modPport p fun q => { q with hotReset := false }).linkFree p)) ∧
    (∀ (vs n speed width g : Nat) (training dl : Bool) (note : PortNotice) (s : Dev), s.On → s.vdspExists vs n = true → s.boundPort vs n = none → s.boundFar vs n = some g →
      Does (.vdspLinkStatusUpdate vs n speed width training ⟨dl, note⟩) s (s.portSays vs n (linkStatWord speed width training dl) note)) ∧
    (∀ (vs n speed width p : Nat) (training dl : Bool) (note : PortNotice) (s : Dev), s.On → s.vdspExists vs n = true → s.boundPort vs n = some p →
      Does (.vdspLinkStatusUpdate vs n speed width training ⟨dl, note⟩) s (s.portSays vs n (s.linkWord p) (s.portNotice p {}))) ∧
    (∀ (vs n : Nat) (err : PcieErr) (hdr : HdrLog) (s : Dev), s.On → s.vdspExists vs n = true →
      Does (.remoteErrorNotice vs n ⟨some err, none⟩ hdr) s (s.aer vs n err hdr)) ∧
    (∀ (vs n reason src : Nat) (hdr : HdrLog) (s : Dev), s.On → s.vdspExists vs n = true → n ≠ uspNo →
      Does (.remoteErrorNotice vs n ⟨none, some (reason, src)⟩ hdr) s (s.dpcTrigger vs n reason src)) ∧
    (∀ (vs n : Nat) (s : Dev), s.On → s.vdspExists vs n = true → (s.pfn vs n).dpcStat.testBit 0 = false → (bitsOf (s.pfn vs n).dpcCtl 1 0 = 1 ∨ bitsOf (s.pfn vs n).dpcCtl 1 0 = 2) →
      Does (.dpcSoftwareTrigger vs n) s
    ((s.dpcTrigger vs n 3 0).modPfn vs n fun f => { f with dpcStat := setBitsOf f.dpcStat 6 5 1 })) ∧
    (∀ (vs n : Nat) (s : Dev), s.On → s.dpcHeld vs n = true → s.boundFar vs n = none →
      Does (.dpcTriggerStatusWrite vs n) s (s.modVd vs n fun v => { v with relReq := true })) ∧
    (∀ (vs n t p : Nat) (s : Dev), s.On → (s.vd vs n).trigAt = some t → s.dpcHeld vs n = true → (s.vd vs n).relReq = true → t + tMs ≤ s.now → s.boundPort vs n = some p → s.portHolds p = false → s.vsExists vs = true →
      Does (.dpcRelease vs n) s
    (let s1 := (s.modVd vs n fun v => { v with trigAt := none, relReq := false }).modPfn vs n fun f => { f with dpcStat := setBit f.dpcStat 0 false }
     (((({ s1 with fwd.contained := s1.fwd.contained &&& (2 ^ 48 - 1 - 2 ^ p) } : Dev).linkFree p).tellHost p { released := true }).cmdDone
       (0x4000 + p) 5 0 [1]))) ∧
    (∀ (n : Nat) (b : Binding) (s : Dev), s.On → s.isDevice n = true → (s.pport n).up = true → s.bindAt s.ap n = some b →
      Does (.ptmRequest (.port n)) s (s.emit (.ptm n (s.hostTime b.vs)))) ∧
    (∀ (vs : Nat) (s : Dev), s.On → s.vsExists vs = true → (s.sfn vs 0).cfg.ptmCtl.testBit 0 = true →
      Does (.ptmRequest (.sf vs)) s (s.emit (.ptmSf vs (s.hostTime vs)))) ∧
    (∀ (k : Nat) (present : Bool) (s : Dev), s.On → k < 8 → s.fbit Fld.PCI_SLOT_MAP.EN k = false →
      Does (.presenceDebounced k present) s (s.fset Fld.PCI_SLOT_STAT.PRSNT k (b2n present))) ∧
    (∀ (k : Nat) (present : Bool) (s : Dev), s.On → k < 8 → s.fbit Fld.PCI_SLOT_MAP.EN k = true →
      Does (.presenceDebounced k present) s
    ((s.fset Fld.PCI_SLOT_STAT.PRSNT k (b2n present)).tellHost (s.fget Fld.PCI_SLOT_MAP.PORT k) {})) ∧
    (∀ (k : Nat) (s : Dev), s.On → k < 8 → s.fbit Fld.PCI_SLOT_MAP.EN k = true → s.bindAt s.ap (s.fget Fld.PCI_SLOT_MAP.PORT k) ≠ none →
      Does (.attentionButtonPress k) s (s.pressAt (s.fget Fld.PCI_SLOT_MAP.PORT k))) ∧
    (∀ (k : Nat) (s : Dev), s.On → k < 8 → s.fbit Fld.PCI_SLOT_MAP.EN k = false →
      Does (.attentionButtonPress k) s
    (s.fset Fld.PCI_SLOT_STAT.UNBOUND_PRESS k (min 255 (s.fget Fld.PCI_SLOT_STAT.UNBOUND_PRESS k + 1)))) ∧
    (∀ (vs n atn pwr p : Nat) (s : Dev), s.On → s.vdspExists vs n = true → (s.slotCommand vs n).boundPort vs n = some p → (s.slotCommand vs n).slotOf p = none →
      Does (.slotIndicatorWrite vs n atn pwr) s
    (let t := s.slotCommand vs n
     { t with pci.slotInd := tput 0 t.pci.slotInd p
                 ((if pwr % 4 = 0 then tget 0 t.pci.slotInd p / 4 else indState (pwr % 4)) * 4 +
                   (if atn % 4 = 0 then tget 0 t.pci.slotInd p % 4 else indState (atn % 4))) })) ∧
    (∀ (vs n p k : Nat) (s : Dev), s.On → s.vdspExists vs n = true → (s.slotCommand vs n).boundPort vs n = some p → (s.slotCommand vs n).slotOf p = some k →
      Does (.slotPowerOn vs n) s (((s.slotCommand vs n).setSlotOff p false).modSlot k fun c =>
    { c with ctl := some true, state := if c.state = slOff ∧ c.offAt.isNone then slWait else c.state })) ∧
    (∀ (vs n p : Nat) (s : Dev), s.On → s.vdspExists vs n = true → (s.slotCommand vs n).boundPort vs n = some p → (s.slotCommand vs n).slotOf p = none →
      Does (.slotPowerOff vs n) s ((s.slotCommand vs n).setSlotOff p true)) ∧
    (∀ (vs n p k : Nat) (s : Dev), s.On → s.vdspExists vs n = true → (s.slotCommand vs n).boundPort vs n = some p → (s.slotCommand vs n).slotOf p = some k →
      Does (.slotPowerOff vs n) s
    (let t := s.slotCommand vs n
     let u := t.setSlotOff p true
     let v := ({ u with pci.perst := setBit u.pci.perst k true, pci.perstAt := tdel u.pci.perstAt k } : Dev).pin "SLOT_PERST_N" k false
     ((v.modPport p fun q => { q with perst := true }).modSlot k fun c =>
        { c with ctl := some false, retryAt := none, pfw := true,
                 offAt := if c.offAt.isSome then c.offAt else some (t.now + 10 * tUs) }).pin "SLOT_PFW_N" k false)) ∧
    (∀ (k t : Nat) (s : Dev), s.On → tfind s.pci.perstAt k = some t → t + 100 * tMs ≤ s.now → s.fbit Fld.PCI_SLOT_STAT.POWERED k = true → s.fbit Fld.PCI_SLOT_MAP.EN k = false →
      Does (.slotPerstRelease k) s
    (({ s with pci.perst := setBit s.pci.perst k false, pci.perstAt := tdel s.pci.perstAt k } : Dev).pin "SLOT_PERST_N" k true)) ∧
    (∀ (vs n : Nat) (s : Dev), s.On → s.vdspExists vs n = true → (s.vd vs n).cmdAt ≠ none → s.turningOff vs n = false →
      Does (.slotCommandCompleted vs n) s ((s.modVd vs n fun v => { v with cmdAt := none }).hotplug vs n 4))

/-- A doorbell of an enabled queue is taken, and at the end of its core cycle starts the fetch, or marks the queue in error where the
tail is out of range; a fetched descriptor is taken or its error recorded; enable, disable, idle, revocation, unmasking, completion
timeouts and bus master disabling (judged when taken, carried out at the end of the core cycle), completions, quarantine ends,
function level resets and bus master enabling do what their rules say. For each of these commands a clause concludes the next state
that exec answers, under assumptions on the state and the operands alone: doorbellWrite, descriptorFetchComplete, queueEnable,
queueDisable, queueIdle, vectorUnmask, revokeGraceExpiry, completionTimeout, sfCompletionArrival, tagQuarantineEnd,
functionLevelReset, flrComplete, busMasterDisable, busMasterEnable. The service function's queues, requests and resets (R224 to
R248). Log entries the family rests on: 55 to 58. -/
def Obligations.ServiceFunctionCommandsComplete : Prop :=
  (∀ (vs fn q k tail : Nat) (s : Dev), s.On → s.localQ vs fn q = some k → s.sfExists vs fn = true → s.inFlr vs fn = false → s.fbit Fld.SF_Q_CFG.EN k = true → s.fbit Fld.SF_Q_STAT.ERR k = false →
      Does (.doorbellWrite vs fn q tail) s (s.modQ k fun x => { x with bells := x.bells ++ [tail] })) ∧
    (∀ (k tail : Nat) (x : SfQueue) (s : Dev), ((s.sf.fns.filter fun e => e.2.bmOff.any fun c => c != s.cycle) = []) → ((s.sf.reqs.filter fun r => r.expAt.any fun c => c != s.cycle) = []) → ((s.sf.qs.filter fun e => !e.2.bells.isEmpty) = [(k, x)]) → x.bells = [tail] →
      s.sfCycle = (let t := s.modQ k fun x => { x with bells := [] }
     if t.ringSize k ≤ tail then t.queueErr k 1 else (t.modQ k fun x => { x with tail := tail }).fetchMore k)) ∧
    (∀ (q vs fn l : Nat) (cpl : CplIn) (s : Dev), s.On → ((s.sfq q).owner = some (vs, fn, l)) → (s.sfq q).fetching = true → cpl.status = 0 → cpl.poisoned = false → badDesc cpl.data = false →
      Does (.descriptorFetchComplete q cpl) s
    (let h := s.fget Fld.SF_Q_STAT.HEAD q
     let t := ((s.fetchOver q).modQ q fun x => { x with descs := x.descs ++ [descOf h cpl.data] }).fsets q
       [(Fld.SF_Q_STAT.HEAD, (h + 1) % s.ringSize q), (Fld.SF_Q_STAT.IDLE, 0)]
     ((t.fcount vs fn 0 1).fcount vs fn 3 128).fetchMore q)) ∧
    (∀ (q vs fn l : Nat) (cpl : CplIn) (s : Dev), s.On → ((s.sfq q).owner = some (vs, fn, l)) → (s.sfq q).fetching = true → cpl.status ≠ 0 →
      Does (.descriptorFetchComplete q cpl) s ((s.fetchOver q).queueErr q 2)) ∧
    (∀ (q : Nat) (s : Dev), s.On → (s.sfq q).owner ≠ none → s.fbit Fld.SF_Q_CFG.EN q = false →
      Does (.queueEnable q) s ((s.fsets q [(Fld.SF_Q_CFG.EN, 1), (Fld.SF_Q_STAT.HEAD, 0), (Fld.SF_Q_STAT.IDLE, 0),
    (Fld.SF_Q_CQ_STAT.TAIL, 0), (Fld.SF_Q_CQ_STAT.PHASE, 1)]).modQ q fun x => { x with tail := 0 })) ∧
    (∀ (q : Nat) (s : Dev), s.On → (s.sfq q).owner ≠ none →
      Does (.queueDisable q) s (s.fset Fld.SF_Q_CFG.EN q 0)) ∧
    (∀ (q vs fn l : Nat) (s : Dev), s.On → ((s.sfq q).owner = some (vs, fn, l)) → s.fbit Fld.SF_Q_CFG.EN q = false → (s.sfq q).descs = [] → (s.sfq q).due = [] → (s.sfq q).fetching = false →
      Does (.queueIdle q) s
    (if s.fbit Fld.SF_Q_STAT.REVOKE_REQ q then (s.fset Fld.SF_Q_STAT.IDLE q 1).queueLeave q vs fn else s.fset Fld.SF_Q_STAT.IDLE q 1)) ∧
    (∀ (vs fn vec : Nat) (s : Dev), s.On → s.sfExists vs fn = true → s.inFlr vs fn = false → s.intMode vs fn = 3 →
      Does (.vectorUnmask vs fn vec) s
    ((s.modSfn vs fn fun f => f.setMsix (4 * vec + 3) (setBit (f.msixWord (4 * vec + 3)) 0 false)).flushVector vs fn vec)) ∧
    (∀ (q vs fn l t : Nat) (s : Dev), s.On → ((s.sfq q).owner = some (vs, fn, l)) → (s.sfq q).graceAt = some t → t ≤ s.now → s.fbit Fld.SF_Q_STAT.REVOKE_REQ q = true →
      Does (.revokeGraceExpiry q) s
    (let mine : SfUse → Bool := fun u => match u with
       | .fetch p => p == q
       | .access e _ => (s.runOf e).any fun r => r.2.q == q
       | .flush e _ => (s.runOf e).any fun r => r.2.q == q
       | .firmware p _ => p == q
     let s2 := (s.fset Fld.SF_Q_CFG.EN q 0).abandonAll vs fn mine
     (each ((s2.sfq q).descs) s2 fun s d => s.endDesc q d.idx 4).queueLeave q vs fn)) ∧
    (∀ (vs fn tag : Nat) (r : SfReq) (s : Dev), s.On → (s.sfReq? vs fn tag = some r) → r.deadline ≤ s.ftime → s.inFlr vs fn = false → s.bme vs fn = true → s.flushFar r = false →
      Does (.completionTimeout vs fn tag) s { s with sf.reqs := s.sf.reqs.map fun x => if x = r then { x with expAt := some s.cycle } else x }) ∧
    (∀ (q : Nat) (r : SfReq) (s : Dev), ((s.sf.fns.filter fun e => e.2.bmOff.any fun c => c != s.cycle) = []) → ((s.sf.reqs.filter fun r => r.expAt.any fun c => c != s.cycle) = [r]) → ((s.timeoutEnd r).sf.qs.all (fun e => e.2.bells.isEmpty) = true) → r.use = .fetch q →
      s.sfCycle = (((((s.sfAer r.vs r.fn .completionTimeout false {}).sfQuarantine r false).fcount r.vs r.fn 7 1).modQ q
     fun x => { x with fetching := false }).queueErr q 2)) ∧
    (∀ (vs fn tag : Nat) (cpl : CplIn) (r : SfReq) (s : Dev), s.On → s.sfExists vs fn = true → (s.sfReq? vs fn tag = some r) → (cpl.last = true ∨ cpl.status ≠ 0) →
      Does (.sfCompletionArrival vs fn tag cpl) s
    (let x := { r with got := r.got ++ cpl.data, bad := r.bad || cpl.poisoned || cpl.status != 0, expAt := none }
     (((s.cplStatus vs fn cpl).sfDone x).useTakes x).resumeFn x.vs x.fn)) ∧
    (∀ (vs fn tag : Nat) (cpl : CplIn) (x : SfQuar) (s : Dev), s.On → s.sfExists vs fn = true → (s.sfReq? vs fn tag = none) → ((s.sf.quar.find? fun x => x.vs == vs && x.fn == fn && x.tag == tag) = some x) → x.silent = false →
      Does (.sfCompletionArrival vs fn tag cpl) s (s.lateArrival vs fn tag cpl)) ∧
    (∀ (vs fn tag : Nat) (s : Dev), s.On → ((s.sf.quar.any fun x => x.vs == vs && x.fn == fn && x.tag == tag && decide (x.till ≤ s.ftime)) = true) →
      Does (.tagQuarantineEnd vs fn tag) s
    (({ s with sf.quar := s.sf.quar.filter fun x => !(x.vs == vs && x.fn == fn && x.tag == tag && decide (x.till ≤ s.ftime)) } : Dev).resumeFn
      vs fn)) ∧
    (∀ (vs : Nat) (s : Dev), s.On → s.sfExists vs 0 = true → s.inFlr vs 0 = false → s.resetNow = false →
      Does (.functionLevelReset vs 0) s
    (((each (s.vfsOf vs) s fun s v => s.flrStart vs v).flrStart vs 0).modSfn vs 0 fun f => { f with sriov := setBit f.sriov 0 false })) ∧
    (∀ (vs fn : Nat) (s : Dev), s.On → s.sfExists vs fn = true → s.inFlr vs fn = false → fn ≠ 0 → s.resetNow = false →
      Does (.functionLevelReset vs fn) s (s.flrStart vs fn)) ∧
    (∀ (vs fn : Nat) (s : Dev), s.On → s.inFlr vs fn = true → fn ≠ 0 →
      Does (.flrComplete vs fn) s (s.fnReset vs fn)) ∧
    (∀ (vs fn : Nat) (s : Dev), s.On → s.sfExists vs fn = true → s.inFlr vs fn = false →
      Does (.busMasterDisable vs fn) s
    (s.modSfn vs fn fun f => { f with cfg := { f.cfg with cmd := setBit f.cfg.cmd 2 false }, bmOff := some s.cycle })) ∧
    (∀ (k : Nat) (x : SfFn) (s t : Dev), ((s.sf.fns.filter fun e => e.2.bmOff.any fun c => c != s.cycle) = [(k, x)]) → (t = (s.modSfn (k / 1025) (k % 1025) fun f => { f with bmOff := none }).abandonAll (k / 1025) (k % 1025) fun _ => true) → ((t.sf.reqs.filter fun r => r.expAt.any fun c => c != s.cycle) = []) → ((t.sf.qs.filter fun e => !e.2.bells.isEmpty) = []) →
      s.sfCycle = t) ∧
    (∀ (vs fn : Nat) (s : Dev), s.On → s.sfExists vs fn = true → s.inFlr vs fn = false →
      Does (.busMasterEnable vs fn) s
    (let s1 := s.modSfn vs fn fun f => { f with cfg := { f.cfg with cmd := setBit f.cfg.cmd 2 true } }
     let s2 := each (s1.queuesOf vs fn) s1 fun s q => s.flushDue q
     let pend := (s2.sfn vs fn).pba ||| (s2.sfn vs fn).cfg.msiPend
     (each ((List.range (bitLen pend)).filter pend.testBit) s2 fun s v => s.flushVector vs fn v).resumeFn vs fn))

/-- A ledger swap of an idle context exchanges its bitmaps and marks it busy, its end counts it and raises the event, its timeout marks
the error; a mailbox request of 1 to 2,047 bytes is taken; a posted-error report is recorded at the VS it names or sent on to the
switch that carries it. For each of these commands a clause concludes the next state that exec answers, under assumptions on the
state and the operands alone: ledgerSwap, ledgerSwapDone, ledgerSwapTimeout, mailboxGo, postedErrorReportReceive. The ledger, the
mailbox and posted-error reports (R249 to R258, R399 to R401). Log entries the family rests on: 59 to 63. -/
def Obligations.LedgerMailboxAndErrorReportsComplete : Prop :=
  (∀ (vs ctx : Nat) (s : Dev), s.On → s.sfExists vs 0 = true → ctx < 8 → s.inFlr vs 0 = false → s.fbit Fld.SF_LG_STAT.BUSY (lgKey vs ctx) = false →
      Does (.ledgerSwap vs ctx) s
    (let t := s.fsets (lgKey vs ctx) [(Fld.SF_LG_STAT.ACTIVE, 1 - s.fget Fld.SF_LG_STAT.ACTIVE (lgKey vs ctx)), (Fld.SF_LG_STAT.BUSY, 1)]
     { t with sf.swapAt := tins t.sf.swapAt (lgKey vs ctx) s.now, sf.marks := t.sf.marks.map (t.swapMark vs ctx) })) ∧
    (∀ (vs ctx : Nat) (s : Dev), s.On → s.fbit Fld.SF_LG_STAT.BUSY (lgKey vs ctx) = true → s.marksLeft vs ctx = false →
      Does (.ledgerSwapDone vs ctx) s
    (let t := s.fsets (lgKey vs ctx) [(Fld.SF_LG_STAT.DONE, 1), (Fld.SF_LG_STAT.BUSY, 0),
       (Fld.SF_LG_STAT.SEQ, (s.fget Fld.SF_LG_STAT.SEQ (lgKey vs ctx) + 1) % 65536)]
     ({ t with sf.swapAt := tdel t.sf.swapAt (lgKey vs ctx) } : Dev).sfEvent vs 0 Fld.SF_EVT.LG)) ∧
    (∀ (vs ctx t : Nat) (s : Dev), s.On → tfind s.sf.swapAt (lgKey vs ctx) = some t → t + tMs ≤ s.now → s.marksLeft vs ctx = true →
      Does (.ledgerSwapTimeout vs ctx) s
    (let x := (s.fset Fld.SF_LG_STAT.ERR (lgKey vs ctx) 1).fset Fld.SF_LG_CTRL.EN (lgKey vs ctx) 0
     ({ x with sf.swapAt := tdel x.sf.swapAt (lgKey vs ctx) } : Dev).sfEvent vs 0 Fld.SF_EVT.LG)) ∧
    (∀ (vs : Nat) (req : List Byte) (s : Dev), s.On → s.sfExists vs 0 = true → s.inFlr vs 0 = false → s.fbit Fld.SF_MB_STAT.BUSY vs = false → 1 ≤ req.length → req.length ≤ 2047 →
      Does (.mailboxGo vs req) s
    ((s.fsets vs [(Fld.SF_MB_CTRL.LEN, req.length), (Fld.SF_MB_STAT.BUSY, 1)]).modSfn vs 0 fun f => { f with mailReq := req })) ∧
    (∀ (r : PerrReport) (s : Dev), s.On → s.vsExists r.vs = true →
      Does (.postedErrorReportReceive r) s (s.perrRecord r)) ∧
    (∀ (r : PerrReport) (s : Dev), s.On → s.vsExists r.vs = false → s.bindVs s.ap r.vs = none →
      Does (.postedErrorReportReceive r) s (s.count .XB_PERR_LOST_CNT 0 1))

/-- The end of a watch interval counts its codewords, symbols and uncorrectables, counts the run of intervals over the threshold and
starts the next interval; a bank temperature is stored and compared with each lane's application point; a PRBS test starts, ends
after its duration and records a loss of lock. For each of these commands a clause concludes the next state that exec answers, under
assumptions on the state and the operands alone: watchIntervalEnd, bankTempUpdate, prbsStart, prbsTestEnd, prbsLockLoss. Lane
supervision and PRBS tests (R259 to R285). Log entries the family rests on: 64 and 65. -/
def Obligations.LaneCommandsComplete : Prop :=
  (∀ (i rx sym unc util t : Nat) (s : Dev), s.On → i < 192 → (s.lane i).till = some t → t ≤ s.now → (s.lane i).ended = none → (s.lane i).par Fld.LN_WATCH.EN ≠ 0 →
      Does (.watchIntervalEnd i rx sym unc util) s
    ((((s.count .LN_FEC_RX i rx).count .LN_FEC_SYM i sym).count .LN_FEC_UNC i unc).modLane i fun l =>
      { l with ended := some (s.cycle, rx + l.irx, sym + l.isym, unc + l.iunc, util) })) ∧
    (∀ (i rx sym util : Nat) (s : Dev), s.fget Fld.LN_LANE_APPLIED.SRC i ≠ 1 → sym * 2 ^ (s.lane i).par Fld.LN_WATCH.THR_EXP ≤ rx →
      s.watchEval i rx sym 0 util =
    ((s.fset Fld.LN_LANE_STAT.RUN i 0).modLane i fun l => { l with drifted := false }).watchBegins i) ∧
    (∀ (i rx sym util : Nat) (s : Dev), s.fget Fld.LN_LANE_APPLIED.SRC i ≠ 1 → rx < sym * 2 ^ (s.lane i).par Fld.LN_WATCH.THR_EXP →
      s.watchEval i rx sym 0 util = (s.overThreshold i).watchBegins i) ∧
    (∀ (i rx sym unc util : Nat) (s : Dev), s.fget Fld.LN_LANE_APPLIED.SRC i ≠ 1 → 0 < unc → sym * 2 ^ (s.lane i).par Fld.LN_WATCH.THR_EXP ≤ rx →
      s.watchEval i rx sym unc util =
    ((((((s.fset Fld.LN_LANE_STAT.RUN i 0).modLane i fun l => { l with drifted := false }).fset
      Fld.LN_LANE_STAT.UNCOR i 1).raiseLane i).logError 2 ((s.portOfLane i).getD 0) i 0).watchBegins i)) ∧
    (∀ (s : Dev),
      s.watchCycle = each s.ln.lane s fun s e => match (s.lane e.1).ended with
      | some (c, rx, sym, unc, util) => if c = s.cycle then s else s.watchEval e.1 rx sym unc util
      | none => s) ∧
    (∀ (b temp : Nat) (s : Dev), s.On → b < 12 →
      Does (.bankTempUpdate b temp) s
    (let t := s.fset Fld.LN_TEMP.TEMP b temp
     each ((List.range 16).map (· + 16 * b)) t fun s i =>
       if (s.lane i).applied = false then s
       else
         let u := s.modLane i fun l => { l with tmin := min l.tmin (t.bankTemp b) }
         if 16 * (s.lane i).par Fld.LN_STRESS.TDELTA < (t.bankTemp b - signedOf 16 (s.fget Fld.LN_LANE_APPLIED.ATEMP i)).natAbs
         then u.fset Fld.LN_LANE_STAT.TSHIFT i 1 else u)) ∧
    (∀ (i n : Nat) (s : Dev), s.On → i < 192 → s.portOfLane i = some n → s.enabled n = false → s.testsTx i = false →
      Does (.prbsStart i) s
    ((((s.rclear .LN_PRBS_BITS i).rclear .LN_PRBS_ERR i).fsets i
      [(Fld.LN_PRBS_CTRL.DONE, 0), (Fld.LN_PRBS_CTRL.LOSS, 0), (Fld.LN_PRBS_CTRL.LOCK, 0), (Fld.LN_PRBS_CTRL.BUSY, 1)]).modLane i fun l =>
        { l with prbsEnd := some (s.now + tUs * 2 ^ s.fget Fld.LN_PRBS_CTRL.DUR_EXP i) })) ∧
    (∀ (i bits errs t : Nat) (s : Dev), s.On → (s.lane i).prbsEnd = some t → t ≤ s.now → s.fbit Fld.LN_PRBS_CTRL.LOCK i = true →
      Does (.prbsTestEnd i bits errs) s (((s.count .LN_PRBS_BITS i bits).count .LN_PRBS_ERR i errs).prbsStop i)) ∧
    (∀ (i bits errs : Nat) (s : Dev), s.On → s.fbit Fld.LN_PRBS_CTRL.BUSY i = true → s.fbit Fld.LN_PRBS_CTRL.LOCK i = true →
      Does (.prbsLockLoss i bits errs) s
    (((s.count .LN_PRBS_BITS i bits).count .LN_PRBS_ERR i errs).fsets i [(Fld.LN_PRBS_CTRL.LOSS, 1), (Fld.LN_PRBS_CTRL.LOCK, 0)]))

/-- A received flit is counted and, where its check is good, acts in the state the link is in; a sender sends what its state gives it;
enabling and disabling a port, the bring-up check windows, ALIGN, timeouts, RESET, QUIET, the lower rank's wait, signal loss, the
replay timer, sleep, wake and realignment change the link state as their rules say. For each of these commands a clause concludes
the next state that exec answers, under assumptions on the state and the operands alone: flitReceive, flitSend, portEnable,
portDisable, bringupCheckWindowEnd, alignEntry, bringupTimeout, resetFlitsSent, quietEnd, signalDetect, lowerRankWaitExpiry,
signalLoss, replayTimerExpiry, blSleepEntry, blWake, blRealignTimeout. The Brorna link layer (R286 to R331) and port enable and
disable (R48, R287). Log entries the family rests on: 66 to 75. -/
def Obligations.BrornaLinkCommandsComplete : Prop :=
  (∀ (n : Nat) (b : List Byte) (t : Option Tlp) (s : Dev), s.On → s.isFabric n = true → b.length = 256 → s.blState n = blUp → s.fbit Fld.BL_STAT.RXSLEEP n = false → (checkFlit b).1 = .good →
      Does (.flitReceive n b t) s
    ((s.flitCounts n .good).flitInActive n (flitHdr (beNat (((checkFlit b).2).take 12))) (checkFlit b).2 t)) ∧
    (∀ (n : Nat) (s : Dev), s.On → s.blState n = blReset → ((s.bl! n).resets < 64) →
      Does (.flitSend n) s ((s.sendCtl n 2 0).modBl n fun b => { b with resets := b.resets + 1 })) ∧
    (∀ (n : Nat) (x : TxFlit) (rest : List TxFlit) (s : Dev), s.On → s.blState n = blUp → s.fbit Fld.BL_STAT.TXSLEEP n = false → ((s.bl! n).replayFrom = none) → ((s.bl! n).txq = x :: rest) → ((s.bl! n).unacked.length < min (s.fget Fld.BL_LINK.WIN n) (s.share n)) → 1 ≤ s.blCredit n x.pool →
      Does (.flitSend n) s ((s.modBl n fun b => { b with replayFrom := none }).sendNew n x rest)) ∧
    (∀ (n : Nat) (s : Dev), s.On → s.blState n = blUp → s.fbit Fld.BL_STAT.TXSLEEP n = false → ((s.bl! n).replayFrom = none) → ((s.bl! n).txq = []) →
      Does (.flitSend n) s ((s.modBl n fun b => { b with replayFrom := none }).sendIdle n)) ∧
    (∀ (n : Nat) (s t : Dev), s.On → n < 48 → s.enabled n = false → s.role n = 1 → s.width n ≠ 0 → (t = each (s.lanesOf n) (s.oset (0x4000 + n) 1 1) fun s i => s.prbsStop i) → t.isFabric n = false →
      Does (.portEnable n) s (t.linkFree n)) ∧
    (∀ (n : Nat) (s t : Dev), s.On → n < 48 → s.enabled n = false → s.role n = 2 → s.width n ≠ 0 → (t = each (s.lanesOf n) (s.oset (0x4000 + n) 1 1) fun s i => s.prbsStop i) → t.isFabric n = true → t.blState n ≠ blReset →
      Does (.portEnable n) s ((t.modBl n fun b => { b with disabling := false, rankKnown := false }).enterTrain n)) ∧
    (∀ (n : Nat) (s : Dev), s.On → s.enabled n = true → s.role n = 1 →
      Does (.portDisable n) s
    (((s.oset (0x4000 + n) 1 0).modPport n fun p => { p with detect := false }).linkDown n lDetect)) ∧
    (∀ (n : Nat) (s : Dev), s.On → s.enabled n = true → s.role n = 2 → s.blState n = blUp →
      Does (.portDisable n) s
    (let t := ((((s.oset (0x4000 + n) 1 0).noteHops.leaveActive n (s.fbit Fld.BL_STAT.TXSLEEP n)).trunkLeave n).linkEvent n 3 0).fsets n
       [(Fld.BL_STAT.TXSLEEP, 0), (Fld.BL_STAT.RXSLEEP, 0), (Fld.BL_STAT.FB, 0)]
     (((t.modBl n fun b => { b with disabling := true }).suspend n).dropArriving n).failover n)) ∧
    (∀ (n lane bits errs t : Nat) (s : Dev), s.On → s.blState n = blTrain → lane < s.width n → (s.lane (16 * (n / 4) + 4 * (n % 4) + lane)).window = some t → t ≤ s.now → (errs * 2 ^ (s.bl! n).bring Fld.BL_BRINGUP.BER_EXP ≤ bits) →
      Does (.bringupCheckWindowEnd n lane bits errs) s
    ((s.modLane (16 * (n / 4) + 4 * (n % 4) + lane) fun l => { l with window := none }).modBl n fun b =>
    { b with chkAt := tput 0 b.chkAt lane errs, lanesOk := setBit b.lanesOk lane true,
             allOkAt := if b.allOkAt.isNone && setBit b.lanesOk lane true == 2 ^ s.width n - 1 then some s.now else b.allOkAt })) ∧
    (∀ (n lane bits errs t : Nat) (s : Dev), s.On → s.blState n = blTrain → lane < s.width n → (s.lane (16 * (n / 4) + 4 * (n % 4) + lane)).window = some t → t ≤ s.now → (bits < errs * 2 ^ (s.bl! n).bring Fld.BL_BRINGUP.BER_EXP) →
      Does (.bringupCheckWindowEnd n lane bits errs) s
    ((s.modLane (16 * (n / 4) + 4 * (n % 4) + lane) fun l => { l with window := some (s.now + s.checkWindow n) }).modBl n fun b =>
    { b with chkAt := tput 0 b.chkAt lane errs,
             allOkAt := if b.allOkAt.isNone && b.lanesOk == 2 ^ s.width n - 1 then some s.now else b.allOkAt })) ∧
    (∀ (n t : Nat) (s : Dev), s.On → ((s.bl! n).allOkAt = some t) → s.blState n = blTrain → t + 4 * tUs ≤ s.now → ((s.bl! n).partner.known = false) →
      Does (.alignEntry n) s
    (((s.fsets n [(Fld.BL_BU_LOG.PASS, 1), (Fld.BL_BU_LOG.LANE, (worstLane (s.bl! n).chkAt).1),
        (Fld.BL_BU_LOG.ERR, min 65535 (worstLane (s.bl! n).chkAt).2)]).blEnter n blAlign).modBl n fun b => { b with goodRun := 0 })) ∧
    (∀ (n : Nat) (s : Dev), s.On → (s.blState n = blTrain ∨ s.blState n = blAlign) → ((s.bl! n).bringAt + tMs * 2 ^ (s.bl! n).bring Fld.BL_BRINGUP.TO_EXP ≤ s.now) →
      Does (.bringupTimeout n) s (s.bringFail n 6)) ∧
    (∀ (n : Nat) (s : Dev), s.On → s.blState n = blReset → (64 ≤ (s.bl! n).resets) → ((s.bl! n).disabling = false) →
      Does (.resetFlitsSent n) s
    ((s.blEnter n blQuiet).modBl n fun b => { b with quietTill := s.now + 2 * tUs, waitSig := none, aligned := false })) ∧
    (∀ (n : Nat) (s t : Dev), s.On → s.blState n = blReset → (64 ≤ (s.bl! n).resets) → ((s.bl! n).disabling = true) → (t = (s.blEnter n blDisabled).modBl n fun b => { b with disabling := false, rankKnown := false }) → t.enabled n = false →
      Does (.resetFlitsSent n) s t) ∧
    (∀ (n : Nat) (s t : Dev), s.On → s.blState n = blReset → (64 ≤ (s.bl! n).resets) → ((s.bl! n).disabling = true) → (t = (s.blEnter n blDisabled).modBl n fun b => { b with disabling := false, rankKnown := false }) → t.enabled n = true →
      Does (.resetFlitsSent n) s (t.enterTrain n)) ∧
    (∀ (n : Nat) (s : Dev), s.On → s.blState n = blQuiet → ((s.bl! n).quietTill ≤ s.now) → ((s.bl! n).waitSig = none) → s.fbit Fld.BL_CTRL.AUTO n = true → ((s.bl! n).rankKnown = false ∨ s.outranks (s.bl! n).partner = true) →
      Does (.quietEnd n) s (s.enterTrain n)) ∧
    (∀ (n : Nat) (s : Dev), s.On → s.blState n = blQuiet → ((s.bl! n).waitSig ≠ none) →
      Does (.signalDetect n) s (s.enterTrain n)) ∧
    (∀ (n t : Nat) (s : Dev), s.On → ((s.bl! n).waitSig = some t) → s.blState n = blQuiet → t ≤ s.now →
      Does (.lowerRankWaitExpiry n) s (s.enterTrain n)) ∧
    (∀ (n lane : Nat) (s : Dev), s.On → s.blState n = blUp → s.fbit Fld.BL_STAT.RXSLEEP n = false →
      Does (.signalLoss n lane) s (s.linkFail n 1)) ∧
    (∀ (n t : Nat) (s : Dev), s.On → ((s.bl! n).replayAt = some t) → s.blState n = blUp → t ≤ s.now → ((s.bl! n).unacked ≠ []) → s.fbit Fld.BL_STAT.RXSLEEP n = false →
      Does (.replayTimerExpiry n) s (s.modBl n fun b => { b with expAt := some s.cycle })) ∧
    (∀ (n : Nat) (s : Dev), ((s.bl! n).replays ≠ s.fget Fld.BL_LINK.REPLAY_MAX n) →
      s.replayExpired n = (s.count .BL_REPLAY_CNT n 1).modBl n fun b =>
    { b with replays := b.replays + 1, replayAt := s.replayEnd n, replayFrom := some b.oldest }) ∧
    (∀ (n : Nat) (s : Dev), ((s.bl! n).replays = s.fget Fld.BL_LINK.REPLAY_MAX n) →
      s.replayExpired n = s.linkFail n 2) ∧
    (∀ (s : Dev),
      s.linkCycle =
    (each (s.lateFailover.bl.ports.filter fun e => e.2.expAt.any fun c => c != s.lateFailover.cycle) s.lateFailover fun s e =>
      let t := s.modBl e.1 fun b => { b with expAt := none }
      if t.blState e.1 = blUp then t.replayExpired e.1 else t).trunkAdmit) ∧
    (∀ (n : Nat) (s : Dev), s.On → s.maySleep n = true →
      Does (.blSleepEntry n) s ((each (List.range 4) s fun s _ => s.sendCtl n 1 0).drivers n false |>.fset Fld.BL_STAT.TXSLEEP n 1)) ∧
    (∀ (n : Nat) (s : Dev), s.On → s.blState n = blUp → s.fbit Fld.BL_STAT.TXSLEEP n = true → s.wakeDue n = true →
      Does (.blWake n) s
    (each (List.range 16) (((s.drivers n true).fset Fld.BL_STAT.TXSLEEP n 0).modBl n fun b => { b with wakeReq := false, idleFrom := s.now }) fun s _ => s.sendIdle n)) ∧
    (∀ (n t : Nat) (s : Dev), s.On → ((s.bl! n).realignAt = some t) → s.blState n = blUp → t ≤ s.now →
      Does (.blRealignTimeout n) s (s.linkFail n 1))

/-- A joined switch sends a pending neighbour notice to its dealer; a directed packet with hops left goes on through the port it names;
at its last hop a query is answered, a class check compares the link's classes, a management-window request is served and answered,
a tree message acts or is kept as a reply. For each of these commands a clause concludes the next state that exec answers, under
assumptions on the state and the operands alone: neighbourNoticeSend, directedPacketRelay, neighbourQuery, neighbourReply,
classCheck, directedMwRequest, directedMwResponse, directedDownTree, directedUpTree. Directed packets and neighbour notices (R337 to
R353). Log entries the family rests on: 76 to 79. -/
def Obligations.DirectedPacketCommandsComplete : Prop :=
  (∀ (port n ev reason time : Nat) (s : Dev), s.On → (s.rt.nbrPend.find? (fun p => p.1 == port) = some (n, ev, reason, time)) → s.joined = true →
      Does (.neighbourNoticeSend port) s
    (({ s with rt.nbrPend := s.rt.nbrPend.erase (n, ev, reason, time) } : Dev).toDealer
      ([(0x05 : Byte), BitVec.ofNat 8 ev, 0, 0, BitVec.ofNat 8 n, BitVec.ofNat 8 (if ev = 3 then reason else 0)] ++ leBytes 2 s.fsid
        ++ leBytes 8 time ++ s.nbrRecord n))) ∧
    (∀ (port : Nat) (b c : List Byte) (s : Dev), s.On → s.isFabric port = true → directedHop port b = some c → byteN c 2 < byteN c 1 → directedKind (byteN c 0) = true →
      Does (.directedPacketRelay port b) s (s.directedOut (byteN c (8 + byteN c 2)) c)) ∧
    (∀ (port : Nat) (b : List Byte) (s : Dev), s.On → s.isFabric port = true → directedHop port b = none →
      Does (.directedPacketRelay port b) s (s.count .RT_DIR_DROP 0 1)) ∧
    (∀ (port : Nat) (b c : List Byte) (s : Dev), s.On → s.isFabric port = true → directedHop port b = some c → byteN c 0 = 1 → byteN c 2 = byteN c 1 →
      Does (.neighbourQuery port b) s
    (s.sendReply c 2 (leBytes 8 s.serial ++ leBytes 2 (if s.joined then s.fsid else 0xFFFF) ++ leBytes 2 (s.onum 0x7000 1 0xFFFF)
      ++ leBytes 4 0 ++ extPorts.flatMap s.nbrRecord))) ∧
    (∀ (port : Nat) (b c : List Byte) (s : Dev), s.On → s.isFabric port = true → directedHop port b = some c → byteN c 0 = 2 → byteN c 2 = byteN c 1 →
      Does (.neighbourReply port b) s (s.keepReply c)) ∧
    (∀ (port : Nat) (b c : List Byte) (s : Dev), s.On → s.isFabric port = true → directedHop port b = some c → byteN c 0 = 3 → byteN c 2 = byteN c 1 → classPair (byteN c 40 % 4) (s.turnClass s.ap port) = false →
      Does (.classCheck port b) s ((s.fsets 0 [(Fld.RT_STAT.CLASSMIS, 1), (Fld.RT_STAT.CM_PORT, port)]).raise evControl)) ∧
    (∀ (port : Nat) (b c : List Byte) (s : Dev), s.On → s.isFabric port = true → directedHop port b = some c → byteN c 0 = 8 → byteN c 2 = byteN c 1 → byteN c 40 = 0x11 → byteN c 41 ≤ 3 → s.busHeld dirSrc = false →
      Does (.directedMwRequest port b) s (s.directedDo c).busFree) ∧
    (∀ (port : Nat) (b c : List Byte) (s : Dev), s.On → s.isFabric port = true → directedHop port b = some c → byteN c 0 = 9 → byteN c 2 = byteN c 1 →
      Does (.directedMwResponse port b) s (s.keepReply c)) ∧
    (∀ (port : Nat) (b c : List Byte) (s : Dev), s.On → s.isFabric port = true → s.joined = false → directedHop port b = some c → byteN c 0 = 0x0A → byteN c 2 = byteN c 1 →
      Does (.directedDownTree port b) s (({ s with dl.treeReq := c } : Dev).treeAct .directed (treeOf (c.drop 40)))) ∧
    (∀ (port : Nat) (b c : List Byte) (s : Dev), s.On → s.isFabric port = true → directedHop port b = some c → byteN c 0 = 0x0B → byteN c 2 = byteN c 1 →
      Does (.directedUpTree port b) s (s.keepReply c))

/-- A vDSP's routing register write is stored, told to the dealer and held; a hold that times out is reported; the bus map follows; hand
returns are batched and taken back; the audit frees leaked tokens; a staging check runs and ends with its code; a fabric timeout
answers and quarantines the request; management-window accesses are served in turn, and locks are taken, given up and broken as R407
to R410 say. For each of these commands a clause concludes the next state that exec answers, under assumptions on the state and the
operands alone: vdspWindowRegisterWrite, windowHoldTimeout, busMapUpdate, handReturnSend, handReturnReceive, handAudit,
stagingCheckStart, stagingCheckDone, fabricTimeout, fabricQuarantineEnd, lockBrokenNotice, mwRead, mwWrite, mwLockRead,
mwUnlockWrite, mwResponse, mwReadTimeout, mwLockTimeout. Routing, hands, the crossing and the management window (R354 to R410). Log
entries the family rests on: 80 to 84 and 33 to 36. -/
def Obligations.RoutingAndCrossingCommandsComplete : Prop :=
  (∀ (vs n v : Nat) (r : VdspWinReg) (s : Dev), s.On → s.vdspExists vs n = true →
      Does (.vdspWindowRegisterWrite vs n r v) s
    (let t := (s.modPfn vs n fun f => f.setWin r v).sendWindowNotice vs n
     { t with rt.holds := t.rt.holds ++ [{ vs := vs, n := n, notice := t.rt.noticeNo, deadline := s.now + tMs }] })) ∧
    (∀ (vs n : Nat) (h : WinHold) (s : Dev), s.On → (s.rt.holds.find? (fun h => h.vs == vs && h.n == n && decide (h.deadline ≤ s.now)) = some h) →
      Does (.windowHoldTimeout vs n) s (((s.holdEnd h).fset Fld.RT_STAT.HOLDTO 0 1).raise evControl)) ∧
    (∀ (vs : Nat) (s : Dev), s.On → s.vsExists vs = true →
      Does (.busMapUpdate ⟨vs, .here⟩) s (s.syncBusMap vs)) ∧
    (∀ (vs : Nat) (codes : List Nat) (s : Dev), s.On → s.vsExists vs = false → s.bindVs s.ap vs ≠ none →
      Does (.busMapUpdate ⟨vs, .copy codes⟩) s ((s.putBusMap vs codes).emit (.busAck vs))) ∧
    (∀ (vs f : Nat) (s : Dev), s.On → s.vsExists vs = true →
      Does (.busMapUpdate ⟨vs, .ack f⟩) s (s.busAcked vs f)) ∧
    (∀ (f d : Nat) (o : Owed) (s : Dev), s.On → (tget {} s.rt.owed (f * 2048 + d) = o) → s.fget Fld.RT_HAND_CFG.RET_BATCH 0 ≤ o.c0 + o.c1 → 1 ≤ o.c0 + o.c1 → o.c0 ≤ 255 → o.c1 ≤ 255 →
      Does (.handReturnSend f d) s
    (({ s with rt.owed := tput {} s.rt.owed (f * 2048 + d) {} } : Dev).ctlPacket (f * 64 + 52)
      ([(0x04 : Byte), 0] ++ leBytes 2 (d % 2048) ++ [BitVec.ofNat 8 o.c0, BitVec.ofNat 8 o.c1, 0, 0]))) ∧
    (∀ (f c0 c1 : Nat) (s : Dev), s.On → f < 2048 →
      Does (.handReturnReceive f c0 c1) s
    (s.fsets f [(Fld.RT_HAND_HOLD.OUT_P0, s.fget Fld.RT_HAND_HOLD.OUT_P0 f - c0), (Fld.RT_HAND_HOLD.OUT_P1, s.fget Fld.RT_HAND_HOLD.OUT_P1 f - c1)])) ∧
    (∀ (t par : Nat) (s : Dev), s.On → (s.rt.auditAt = some (t, par)) → t ≤ s.now →
      Does .handAudit s
    (each ((List.range 2048).filter fun f => s.fget (handFld par) f != 0) { s with rt.auditAt := none } fun u f =>
      (((u.count .RT_LEAK_CNT 0 (u.fget (handFld par) f)).fset Fld.RT_STAT.LEAK 0 1).raise evControl).fsets f
        [(handFld par, 0), (Fld.RT_HAND_HOLD.DOUBT, 0)])) ∧
    (∀ (s : Dev), s.On →
      Does .stagingCheckStart s
    { s.fsets 0 [(Fld.RT_STAGE_STAT.BUSY, 1), (Fld.RT_STAGE_STAT.DONE, 0), (Fld.RT_STAGE_STAT.STALE, 0)] with rt.chkAt := some s.now }) ∧
    (∀ (t : Nat) (s : Dev), s.On → s.rt.chkAt = some t →
      Does .stagingCheckDone s
    { s.fsets 0 [(Fld.RT_STAGE_STAT.BUSY, 0), (Fld.RT_STAGE_STAT.DONE, 1), (Fld.RT_STAGE_STAT.CODE, s.stageCheck.1),
        (Fld.RT_STAGE_STAT.INDEX, s.stageCheck.2)] with rt.chkAt := none }) ∧
    (∀ (reqId tag : Nat) (r : Req) (s : Dev), s.On → s.findReq reqId tag = some r → r.deadline ≤ s.now →
      Does (.fabricTimeout reqId tag) s { s with xing.reqs := s.xing.reqs.map fun q =>
      if q.reqId == reqId && q.tag == tag && q.expAt.isNone then { q with expAt := some s.cycle } else q }) ∧
    (∀ (s : Dev),
      s.reqCycle = each (s.xing.reqs.filter fun r => r.expAt.any fun c => decide (c < s.cycle)) s fun s r =>
      if s.cplHere r then { s with xing.reqs := s.xing.reqs.map fun q => if q = r then { q with expAt := none } else q }
      else s.reqExpires r) ∧
    (∀ (r : Req) (s : Dev), r.tok = false → r.locked = false →
      s.reqExpires r =
    (((s.failReq r).count .XB_SYNTH_CNT 0 1).endReq r).quarantine { reqId := r.reqId, tag := r.tag, till := s.now + 4 * r.fto * tUs }) ∧
    (∀ (r : Req) (s : Dev), r.tok = true → r.locked = false →
      s.reqExpires r = ((((s.failReq r).count .XB_SYNTH_CNT 0 1).endReq r).fset Fld.RT_HAND_HOLD.DOUBT (gpaFsid r.dgpa)
      (min 255 (s.fget Fld.RT_HAND_HOLD.DOUBT (gpaFsid r.dgpa) + 1))).quarantine
      { reqId := r.reqId, tag := r.tag, till := s.now + 4 * r.fto * tUs }) ∧
    (∀ (reqId tag : Nat) (s : Dev), s.On →
      Does (.fabricQuarantineEnd reqId tag) s
    { s with xing.quar := s.xing.quar.filter fun q => !(q.reqId == reqId && q.tag == tag && decide (q.till ≤ s.now)) }) ∧
    (∀ (vs : Nat) (s : Dev), s.On → s.vsExists vs = true → s.lockHeld vs = true →
      Does (.lockBrokenNotice vs) s ((s.fset Fld.XB_LOCK.BROKEN vs 1).count .XB_LOCK_BRK_CNT 0 1)) ∧
    (∀ (src id addr : Nat) (s : Dev), s.On → s.busHeld src = false →
      Does (.mwRead src id addr) s (s.mwDo src id 0 addr 0).busFree) ∧
    (∀ (src id addr data : Nat) (s : Dev), s.On → s.busHeld src = false →
      Does (.mwWrite src id addr data) s (s.mwDo src id 1 addr data).busFree) ∧
    (∀ (src id addr data : Nat) (s : Dev), s.On → s.busHeld src = true →
      Does (.mwWrite src id addr data) s { s with xing.mwWait := s.xing.mwWait ++ [.mw src id 1 addr data] }) ∧
    (∀ (src id addr : Nat) (s : Dev), s.On → s.lockOn src = false → s.busHeld src = false →
      Does (.mwLockRead src id addr) s (s.mwDo src id 2 addr 0).busFree) ∧
    (∀ (src id addr : Nat) (s : Dev), s.On → s.lockOn src = true → src ≤ s.fsid →
      Does (.mwLockRead src id addr) s (s.mwRespond src id 1 0)) ∧
    (∀ (src id addr data : Nat) (s : Dev), s.On → s.busHeld src = false →
      Does (.mwUnlockWrite src id addr data) s (s.mwDo src id 3 addr data).busFree) ∧
    (∀ (src id status data : Nat) (o : MwOut) (s : Dev), s.On → (s.xing.mwOut.find? (fun o => o.id == id && o.dst == src) = some o) →
      Does (.mwResponse src id status data) s
    (({ s with xing.mwOut := s.xing.mwOut.filter fun x => x.id != id } : Dev).mwAnswer o status data)) ∧
    (∀ (id : Nat) (o : MwOut) (s : Dev), s.On → (s.xing.mwOut.find? (fun o => o.id == id) = some o) → o.deadline ≤ s.now →
      Does (.mwReadTimeout id) s (({ s with xing.mwOut := s.xing.mwOut.filter fun x => x.id != id } : Dev).mwAnswer o 2 0)) ∧
    (∀ (f till : Nat) (s : Dev), s.On → (s.xing.farLock = some (f, till)) → till ≤ s.now →
      Does .mwLockTimeout s ((({ s with xing.farLock := none } : Dev).count .XB_LOCK_BRK_CNT 0 1).busFree))

/-- A due acknowledgement is sent; an acknowledgement inside the window releases what it covers, one outside it is counted; the
end-to-end timer resends or gives up; fence and skip writes set the incoming stream's ordered mode; polls, fence timeouts and
lifetimes act at their times. For each of these commands a clause concludes the next state that exec answers, under assumptions on
the state and the operands alone: e2eAckSend, e2eAckReceive, e2eTimerExpiry, fenceWrite, skipWrite, fencePoll, fenceTimeout,
lifetimeExpiry. Streams, acknowledgements, fences and lifetimes (R413 to R431). Log entries the family rests on: 104 to 107. -/
def Obligations.DeliveryCommandsComplete : Prop :=
  (∀ (f oc : Nat) (s : Dev), s.On → s.joined = true → oc < 8 → (s.inS f oc).ackNow = true →
      Does (.e2eAckSend f oc) s ((s.mwSend f 1 (ackInAddr s.fsid oc) (s.nd f oc) (.ack f oc)).modIn f oc fun i =>
    { i with acked := s.nd f oc, advAt := none, ackNow := false })) ∧
    (∀ (d oc a : Nat) (s : Dev), s.On → seqSub (s.outS d oc).next (s.outS d oc).oldest < seqSub a (s.outS d oc).oldest →
      Does (.e2eAckReceive d oc a) s (s.count .DL_WIN_CNT 0 1)) ∧
    (∀ (d oc a : Nat) (s : Dev), s.On → seqSub a (s.outS d oc).oldest ≤ seqSub (s.outS d oc).next (s.outS d oc).oldest → a ≠ (s.outS d oc).oldest →
      Does (.e2eAckReceive d oc a) s
    ((each (s.fwd.pkts.filter fun e => e.2.retained d oc && decide (seqSub (e.2.eseq.getD 0) (s.outS d oc).oldest < seqSub a (s.outS d oc).oldest))
        (s.fsets (strKey d oc) [(Fld.DL_ACK_IN.VALID, 1), (Fld.DL_ACK_IN.ND, a)]) fun s e => s.releasePkt e.1 e.2).modOut d oc fun o =>
      { o with oldest := a, expiries := 0,
               timer := if a = o.next then none else some (s.now + s.fget Fld.DL_CFG.E2E_TO 0 * tUs) })) ∧
    (∀ (d oc t : Nat) (s : Dev), s.On → (s.outS d oc).skip = none → (s.outS d oc).timer = some t → t ≤ s.now → s.fget Fld.DL_CFG.E2E_MAX 0 ≤ (s.outS d oc).expiries →
      Does (.e2eTimerExpiry d oc) s (s.giveUp d oc)) ∧
    (∀ (f oc src val : Nat) (s : Dev), s.On → s.ordered f oc = false →
      Does (.fenceWrite f oc src val) s
    (((s.fset Fld.DL_FENCE_IN.ORDERED (strKey f oc) 1).modIn f oc fun i => { i with point := val % seqMod }).orderedExit f oc)) ∧
    (∀ (f oc src val : Nat) (s : Dev), s.On →
      Does (.skipWrite f oc src val) s
    (((s.releaseHeld (s.heldOf f oc)).fsets (strKey f oc) [(Fld.DL_FENCE_IN.VALUE, val % seqMod), (Fld.DL_FENCE_IN.ORDERED, 0)]).modIn f oc
      fun i => { i with mask := 0, acked := val % seqMod, advAt := none })) ∧
    (∀ (f d oc : Nat) (x : Fence) (s : Dev), s.On → (s.dl.fences.find? (fun x => x.f == f && x.d == d && x.oc == oc) = some x) → x.ok = true → x.at_ + tQuarter * s.fget Fld.DL_FENCE_CFG.POLL 0 ≤ s.now →
      Does (.fencePoll f d oc) s ((s.modFence f d oc fun y => { y with at_ := s.now }).mwSend d 0 (fenceInAddr f oc) 0 (.poll f d oc))) ∧
    (∀ (f d oc : Nat) (x : Fence) (s : Dev), s.On → (s.dl.fences.find? (fun x => x.f == f && x.d == d && x.oc == oc) = some x) → x.ok = false → x.at_ + tQuarter * s.fget Fld.DL_FENCE_CFG.FENCE_TO 0 ≤ s.now →
      Does (.fenceTimeout f d oc) s (s.fenceFail f d oc)) ∧
    (∀ (pid : Nat) (p : Pkt) (s : Dev), s.On → (s.pkt? pid = some p) → p.eseq ≠ none → p.decNow + s.fget Fld.DL_CFG.LIFE 0 * 10 * tUs ≤ s.now → p.remote = true → p.granted = 0 → p.stage = .queued →
      Does (.lifetimeExpiry pid) s ((s.count .DL_LIFE_CNT 0 1).drop pid p))

/-- A down message the switch follows is passed on and acts: PREPARE makes it PREPARED and vote, GO arms or makes the apply, CANCEL
returns it to IDLE, DRAIN starts a round, RELEASE ends the deal, CUT latches a cut, RESET arms or makes the fabric reset; up
messages are combined; the drain confirms, markers act, timeouts name what is missing; the dealer's heartbeat and takeover write the
journal. For each of these commands a clause concludes the next state that exec answers, under assumptions on the state and the
operands alone: prepare, vote, goDeal, dealApply, cancel, drainMessage, drainLocalConfirm, confirm, release, markerReceive,
markerTimeout, cut, cutRecordComplete, cutDone, treeChildTimeout, dealerHeartbeat, dealerTakeover, resetMessage, fabricReset. The
deal protocol, cuts and the dealer's own events (R434 to R464). Log entries the family rests on: 85 to 103. -/
def Obligations.DealCommandsComplete : Prop :=
  (∀ (src : TreeSrc) (m : TreeMsg) (s t : Dev), s.On → m.kind = 0x10 → s.treeAccept src = true → s.fget Fld.DL_DEAL_STAT.TERM 0 ≤ m.term → t = s.followed src m → t.prepCode m true = 0 → t.fget Fld.DL_DEAL_STAT.STATE 0 ≠ 1 →
      Does (.prepare src m) s
    (({ (t.parityFor m.epoch).fset Fld.DL_DEAL_STAT.STATE 0 1 with
        dl.prepEpoch := some m.epoch, dl.prepTerm := m.term, dl.goT := none, dl.goLate := none } : Dev).voteNow m.epoch 0)) ∧
    (∀ (src : TreeSrc) (m : TreeMsg) (code : Nat) (s t : Dev), s.On → m.kind = 0x10 → s.treeAccept src = true → s.fget Fld.DL_DEAL_STAT.TERM 0 ≤ m.term → t = s.followed src m → t.prepCode m true = code → code ≠ 0 →
      Does (.prepare src m) s ((t.fset Fld.DL_DEAL_STAT.CODE 0 code).voteNow m.epoch code)) ∧
    (∀ (src : TreeSrc) (m : TreeMsg) (s : Dev), s.On → s.treeAccept src = false →
      Does (.prepare src m) s (s.count .DL_TREE_DROP_CNT 0 1)) ∧
    (∀ (m : TreeMsg) (f : Nat) (s : Dev), s.On → m.kind = 0x11 → ((s.treeKids.any fun k => k.2 == f) = true) → s.dl.vote.active = true → s.dl.vote.isFor 0x11 m = true → s.dl.vote.from_.contains f = false →
      Does (.vote m (.fsid f)) s ((s.setComb 0x11 (s.dl.vote.take f m)).combTry 0x11)) ∧
    (∀ (src : TreeSrc) (m : TreeMsg) (s t : Dev), s.On → m.kind = 0x12 → s.treeAccept src = true → s.fget Fld.DL_DEAL_STAT.TERM 0 ≤ m.term → t = s.followed src m → t.preparedFor m.epoch = true → t.ftime < m.t →
      Does (.goDeal src m) s { t.rset .DL_DEAL_T 0 m.t with dl.goT := some m.t, dl.goLate := none }) ∧
    (∀ (src : TreeSrc) (m : TreeMsg) (s t : Dev), s.On → m.kind = 0x12 → s.treeAccept src = true → s.fget Fld.DL_DEAL_STAT.TERM 0 ≤ m.term → t = s.followed src m → t.preparedFor m.epoch = true → m.t ≤ t.ftime →
      Does (.goDeal src m) s { t.rset .DL_DEAL_T 0 m.t with dl.goT := some m.t, dl.goLate := some t.cycle }) ∧
    (∀ (x : Nat) (s : Dev), s.On → s.dl.goT = some x → s.dl.goLate = none → s.fget Fld.DL_DEAL_STAT.STATE 0 = 1 → x ≤ s.sampled →
      Does .dealApply s (s.applyDeal false)) ∧
    (∀ (c : Nat) (s : Dev), s.On → s.dl.goLate = some c → s.fget Fld.DL_DEAL_STAT.STATE 0 = 1 → c < s.cycle →
      Does .dealApply s (s.applyDeal true)) ∧
    (∀ (src : TreeSrc) (m : TreeMsg) (s t : Dev), s.On → m.kind = 0x13 → s.treeAccept src = true → s.fget Fld.DL_DEAL_STAT.TERM 0 ≤ m.term → t = s.followed src m → t.preparedFor m.epoch = true →
      Does (.cancel src m) s { t.fset Fld.DL_DEAL_STAT.STATE 0 0 with dl.prepEpoch := none, dl.goT := none, dl.goLate := none }) ∧
    (∀ (src : TreeSrc) (m : TreeMsg) (s t : Dev), s.On → m.kind = 0x14 → s.treeAccept src = true → s.fget Fld.DL_DEAL_STAT.TERM 0 ≤ m.term → t = s.followed src m → 2 ≤ t.fget Fld.DL_DEAL_STAT.STATE 0 → m.epoch = t.fget Fld.DL_DEAL_EPOCH.EPOCH 0 → t.fget Fld.DL_DRAIN_STAT.ROUND 0 < m.t % 65536 →
      Does (.drainMessage src m) s (t.startDrain (m.t % 65536))) ∧
    (∀ (s : Dev), s.On → s.fget Fld.DL_DEAL_STAT.STATE 0 = 2 → s.drainMissing = [] → s.oldGone = true →
      Does .drainLocalConfirm s
    (let t := s.postDrain.fsets 0 [(Fld.DL_DEAL_STAT.STATE, 3), (Fld.DL_DRAIN_STAT.DONE, 1)]
     ({ t with dl.conf := { t.dl.conf with local_ := true, flags := t.dl.conf.flags ||| (b2n (s.fbit Fld.DL_DRAIN_STAT.DISTURBED 0) + 2 * b2n s.dl.markerTo) } } : Dev).combTry 0x15)) ∧
    (∀ (src : TreeSrc) (m : TreeMsg) (f : Nat) (s : Dev), s.On → src = .fsid f → m.kind = 0x15 → ((s.treeKids.any fun k => k.2 == f) = false) → s.dl.dealer.active = true →
      Does (.confirm src m) s (s.emit (.deliver 52 none (.ctl (treeBytes m))))) ∧
    (∀ (src : TreeSrc) (m : TreeMsg) (s t u : Dev), s.On → m.kind = 0x16 → s.treeAccept src = true → s.fget Fld.DL_DEAL_STAT.TERM 0 ≤ m.term → t = s.followed src m → t.fget Fld.DL_DEAL_STAT.STATE 0 = 3 → m.epoch = t.fget Fld.DL_DEAL_EPOCH.EPOCH 0 → u = (if t.dealTree t.ap then t.installTree t.ap else t).fset Fld.DL_DEAL_STAT.STATE 0 0 →
      Does (.release src m) s
    { u with rt.auditAt := some (t.now + t.longestFto * tUs, t.oldPar), dl.joinEpoch := none,
             dl.drainHeard := u.dl.drainHeard.filter fun e => e.2 / 65536 % 2 != t.oldPar }) ∧
    (∀ (port info : Nat) (s : Dev), s.On → s.blActive port = true →
      Does (.markerReceive port 1 info) s (({ s with dl.drainHeard := tins s.dl.drainHeard port (info % 2 ^ 17) } : Dev).postDrain)) ∧
    (∀ (port id : Nat) (s : Dev), s.On → s.blActive port = true → s.dl.cutId = some (id % 65536) →
      Does (.markerReceive port 2 id) s { s with dl.cutSeen := setBit s.dl.cutSeen port true }) ∧
    (∀ (s : Dev), s.On → s.fget Fld.DL_DEAL_STAT.STATE 0 = 2 → s.dl.markerTo = false → s.dl.drainDue ≤ s.now → s.drainMissing ≠ [] → s.hatchHolding 1 = none →
      Does (.markerTimeout false) s
    ((((({ s with dl.markerTo := true } : Dev).fset Fld.DL_DRAIN_STAT.TIMEOUT 0 1).rset .DL_MISS 0 (portBits s.drainMissing)).raise evControl))) ∧
    (∀ (s : Dev), s.On → s.dl.cutActive = true → s.dl.cutDue ≤ s.now → s.cutMissing ≠ [] → s.hatchHolding 2 = none →
      Does (.markerTimeout true) s
    (((((s.fset Fld.DL_CUT_STAT.TIMEOUT 0 1).rset .DL_MISS 0 (portBits s.cutMissing)).raise evControl).cutFinish 2 0 (portBits s.cutMissing)))) ∧
    (∀ (src : TreeSrc) (m : TreeMsg) (s t : Dev), s.On → m.kind = 0x17 → s.treeAccept src = true → s.fget Fld.DL_DEAL_STAT.TERM 0 ≤ m.term → t = s.followed src m → t.dl.cutId ≠ some (m.epoch % 65536) →
      Does (.cut src m) s (t.cutLatch (m.epoch % 65536))) ∧
    (∀ (s : Dev), s.On → s.dl.cutActive = true → s.cutMissing = [] →
      Does .cutRecordComplete s (s.cutFinish 1 0 0)) ∧
    (∀ (src : TreeSrc) (m : TreeMsg) (f : Nat) (s : Dev), s.On → src = .fsid f → m.kind = 0x18 → ((s.treeKids.any fun k => k.2 == f) = true) → s.dl.done.active = true → s.dl.done.epoch = m.epoch → s.dl.done.from_.contains f = false →
      Does (.cutDone src m) s ((s.setComb 0x18 (s.dl.done.take f m)).combTry 0x18)) ∧
    (∀ (miss : List (Nat × Nat)) (s : Dev), s.On → s.dl.vote.active = true → s.dl.vote.deadline ≤ s.now → (miss = s.treeKids.filter fun k => !s.dl.vote.from_.contains k.2) → miss ≠ [] →
      Does (.treeChildTimeout 0x11) s
    ((((s.fset Fld.DL_TREE_STAT.MISS 0 (miss.foldl (fun m k => setBit m k.1 true) (s.fget Fld.DL_TREE_STAT.MISS 0))).setComb 0x11
        { s.dl.vote with from_ := s.dl.vote.from_ ++ miss.map (·.2), flags := s.dl.vote.flags ||| 0 }).raise evControl).combTry 0x11)) ∧
    (∀ (s t : Dev), s.On → s.mayDeal = true → s.dl.dealer.active = true → s.dl.dealer.beatAt ≤ s.now →
      Does .dealerHeartbeat s
    (let t := s.freeNat.2.journal 6 (s.freeNat.1 % 2 ^ 64) (s.fget Fld.DL_DEAL_EPOCH.EPOCH 0) (s.fget Fld.DL_DRAIN_STAT.ROUND 0)
     { t with dl.dealer.beatAt := s.now + s.onum 0x7100 4 100 * tUs })) ∧
    (∀ (s : Dev), s.On → s.onum 0x7100 1 0 = 2 → s.dl.dealer.active = false → byteN s.lastRecord 0 = 6 →
      Does .dealerTakeover s
    (({ s with dl.dealer.active := true, dl.dealer.term := (s.dl.dealer.term + 1) % 65536, dl.dealer.beatAt := s.now } : Dev).journal 1
      (leNat ((s.lastRecord.drop 24).take 8)) (leNat ((s.lastRecord.drop 16).take 4)) 0)) ∧
    (∀ (src : TreeSrc) (m : TreeMsg) (s t : Dev), s.On → m.kind = 0x19 → s.treeAccept src = true → s.fget Fld.DL_DEAL_STAT.TERM 0 ≤ m.term → t = s.followed src m →
      Does (.resetMessage src m) s { t with dl.resetT := some m.t, dl.resetLate := decide (m.t ≤ t.sampled) }) ∧
    (∀ (x : Nat) (s : Dev), s.On → s.dl.resetT = some x → x ≤ s.sampled → s.dl.resetLate = false →
      Does .fabricReset s s.fabricReset)

/-- A collective descriptor of an enabled group that admits its VS joins the group's waiting requests with the data it reads; a message
of a member drives the group's instance, one of another sender or an ended instance is counted as stale; owed credits are sent, an
instance that runs too long fails, and a group being disabled ends its instance and its waiting requests. For each of these commands
a clause concludes the next state that exec answers, under assumptions on the state and the operands alone: collDescriptor, collUp,
collDown, collCredit, collAbort, collCreditSend, collTimeout, groupDisable. Collectives (R465 to R487). Log entries the family rests
on: 109 to 115. -/
def Obligations.CollectiveCommandsComplete : Prop :=
  (∀ (q vs fn l : Nat) (data : List Byte) (d : Desc) (r : CollReq) (g : Nat) (s t : Dev), s.On → ((s.sfq q).owner = some (vs, fn, l)) → s.startable q = some d → d.kind = 3 → s.inFlr vs fn = false → r = d.collReq q → g = leNat ((d.body.drop 26).take 1) → t = s.startDesc q d.idx → d.collBad r = false → s.fbit Fld.CL_GRP_CTL.EN g = true → (s.fget Fld.CL_GRP_VSMASK.VSMASK g).testBit vs = true → r.op = 4 →
      Does (.collDescriptor q data) s ((t.modGrp g fun y => { y with waiting := y.waiting ++ [r] }).collGo g)) ∧
    (∀ (q vs fn l : Nat) (data : List Byte) (d : Desc) (g : Nat) (s : Dev), s.On → ((s.sfq q).owner = some (vs, fn, l)) → s.startable q = some d → d.kind = 3 → s.inFlr vs fn = false → g = leNat ((d.body.drop 26).take 1) → d.collBad (d.collReq q) = false → (s.fbit Fld.CL_GRP_CTL.EN g = false ∨ (s.fget Fld.CL_GRP_VSMASK.VSMASK g).testBit vs = false) →
      Does (.collDescriptor q data) s ((s.startDesc q d.idx).complete q d.idx { status := 0x40 })) ∧
    (∀ (src : Nat) (m : CollMsg) (s : Dev), s.On → m.kind = 1 →
      Does (.collUp src m) s (s.collArrive src m)) ∧
    (∀ (src : Nat) (m : CollMsg) (s : Dev), s.On → m.kind = 2 →
      Does (.collDown src m) s (s.collArrive src m)) ∧
    (∀ (src : Nat) (m : CollMsg) (s : Dev), s.On → m.kind = 3 →
      Does (.collCredit src m) s (s.collArrive src m)) ∧
    (∀ (src : Nat) (m : CollMsg) (s : Dev), s.On → m.kind = 4 →
      Does (.collAbort src m) s (s.collArrive src m)) ∧
    (∀ (src : Nat) (m : CollMsg) (s : Dev), s.On → m.kind = 4 → src ≠ s.fsid → s.fbit Fld.CL_GRP_CTL.EN (m.group % 256) = true → (s.collNbrs (m.group % 256)).contains src = true → ((m.iseq + 65536 - s.iseq (m.group % 256)) % 65536 = 0) → (s.grp (m.group % 256)).inst ≠ none →
      Does (.collAbort src m) s (s.modGrp (m.group % 256) fun x => { x with aborts := x.aborts ++ [(s.cycle, src, m)] })) ∧
    (∀ (g src : Nat) (m : CollMsg) (s : Dev), m.iseq = s.iseq g →
      s.abortArrive g src m = (s.collUse g src m).collGo g) ∧
    (∀ (g src : Nat) (m : CollMsg) (s : Dev), m.iseq ≠ s.iseq g →
      s.abortArrive g src m = s.count .CL_COLL_STALE_CNT 0 1) ∧
    (∀ (src : Nat) (m : CollMsg) (s : Dev), s.On → m.kind = 1 → src ≠ s.fsid → s.fbit Fld.CL_GRP_CTL.EN (m.group % 256) = false →
      Does (.collUp src m) s (s.count .CL_COLL_STALE_CNT 0 1)) ∧
    (∀ (g child n at_ : Nat) (i : CollInst) (s : Dev), s.On → (tget (0, 0) (s.grp g).owed child = (n, at_)) → n ≠ 0 → at_ + tUs ≤ s.now → (s.grp g).inst = some i →
      Does (.collCreditSend g child) s
    ((s.modGrp g fun x => { x with owed := tdel x.owed child }).emit
      (.coll (s.fget Fld.CL_GRP_CHILD.FSID (16 * g + child)) { s.collHdr g 3 i.head with chunk := n }))) ∧
    (∀ (g : Nat) (i : CollInst) (s : Dev), s.On → (s.grp g).inst = some i → i.startAt + 10 * tUs * 2 ^ s.fget Fld.CL_COLL_CFG.TO_EXP 0 ≤ s.now →
      Does (.collTimeout g) s ((s.collFail g 0x43).collGo g)) ∧
    (∀ (g : Nat) (s : Dev), s.On → g < 256 → s.fbit Fld.CL_GRP_CTL.EN g = true → (s.grp g).inst = none →
      Does (.groupDisable g) s
    ((each ((s.fset Fld.CL_GRP_CTL.EN g 0).grp g).waiting (s.fset Fld.CL_GRP_CTL.EN g 0) fun s r =>
        (s.firmDrop r.q r.idx).complete r.q r.idx { status := 0x44 }).modGrp g fun x => { x with waiting := [], held := [] }))

/-- A cluster's dispatcher starts the first run that fits, in the order of the functions' use of their weights, or ends one whose
program is gone with NOPROG; a COPY or NOP descriptor starts and completes; a quantum's end clears the cycles used; a run past its
limit faults. For each of these commands a clause concludes the next state that exec answers, under assumptions on the state and the
operands alone: runDispatch, copyDescriptor, nopDescriptor, quantumBoundary, runLimitExpiry. Runs, copies and scheduling quanta
(R505 to R519). Log entries the family rests on: 131 to 136. -/
def Obligations.EngineRunCommandsComplete : Prop :=
  (∀ (c : Nat) (w : WaitRun) (s : Dev), s.On → 4 ≤ c → c ≤ 15 → (s.waitingRuns.find? (fun w => (s.progOf w.vs w.desc.prog).isNone) = some w) →
      Does (.runDispatch c) s (s.complete w.q w.desc.idx { status := 6 })) ∧
    (∀ (c : Nat) (w0 w : WaitRun) (rest : List WaitRun) (slot : Nat) (l : List Resident) (s : Dev), s.On → 4 ≤ c → c ≤ 15 → (s.waitingRuns.find? (fun w => (s.progOf w.vs w.desc.prog).isNone) = none) → (s.waitingRuns.filter (fun w => decide (w.desc.neng ≤ (s.freeEngines c).length) && ((s.progOf w.vs w.desc.prog).bind (s.placed c)).isSome) = w0 :: rest) → (w = rest.foldl (fun m x => if s.runBefore x m then x else m) w0) → s.progOf w.vs w.desc.prog = some slot → s.placed c slot = some l →
      Does (.runDispatch c) s ((s.setResidents c l).startRun c slot w ((s.freeEngines c).take w.desc.neng))) ∧
    (∀ (q vs fn l : Nat) (d : Desc) (s : Dev), s.On → ((s.sfq q).owner = some (vs, fn, l)) → s.startable q = some d → d.kind = 2 → s.inFlr vs fn = false → s.copyFault vs fn d = none → s.rangeHas vs fn d.copySrc d.copyLen EngTgt.isWin = false → s.rangeHas vs fn d.copyDst d.copyLen EngTgt.isWin = false →
      Does (.copyDescriptor q) s (s.startDesc q d.idx)) ∧
    (∀ (q vs fn l c a : Nat) (d : Desc) (s : Dev), s.On → ((s.sfq q).owner = some (vs, fn, l)) → s.startable q = some d → d.kind = 2 → s.inFlr vs fn = false → (s.copyFault vs fn d = some (c, a)) →
      Does (.copyDescriptor q) s ((s.startDesc q d.idx).complete q d.idx { status := 1, fcode := c, faddr := a })) ∧
    (∀ (q vs fn l : Nat) (d : Desc) (s : Dev), s.On → ((s.sfq q).owner = some (vs, fn, l)) → s.startable q = some d → d.kind = 4 → s.inFlr vs fn = false →
      Does (.nopDescriptor q) s ((s.startDesc q d.idx).complete q d.idx {})) ∧
    (∀ (s : Dev), s.On → s.eng.quantumEnd ≤ s.now →
      Does .quantumBoundary s
    { s with eng.used := [],
             eng.weights := (s.sf.qs.filterMap fun e => e.2.owner.map fun o => sfKey o.1 o.2.1).foldl
               (fun (t : Tbl Nat) k => tput 0 t k (s.fget Fld.SF_RES.ENG k)) [],
             eng.quantumStart := s.now, eng.quantumEnd := s.now + tUs * 2 ^ s.fget Fld.CL_SCHED.QEXP 0 }) ∧
    (∀ (run e : Nat) (x : Run) (s : Dev), s.On → tfind s.eng.runs run = some x → x.limitAt ≤ s.now → (x.engines.find? (fun e => !(s.en e).ended) = some e) →
      Does (.runLimitExpiry run) s (s.engFaultOpen e 6))

/-- A legal register operation that its engine may issue counts as an operation, writes its result to its destination register (a write
of g0 writes nothing), and moves the pc by one; comparing, shifting by the low six bits, vector lanes, broadcasts and extracts are
as the operation table gives them. For each of these commands a clause concludes the next state that exec answers, under assumptions
on the state and the operands alone: mov, movi, movh, add, addi, sub, mul, andOp, orOp, xorOp, shl, shr, slt, vadd, vmul, vfma,
vmin, vmax, vbc, vext. The register and vector operations of the operation table (R490, R496, R497). Log entries the family rests
on: 118, 119 and 120. -/
def Obligations.EngineRegisterOperationsComplete : Prop :=
  (∀ (e : Nat) (w : OpWord) (s : Dev), s.On → (s.MayIssue 0x20 e w [w.a, w.d] []) → w.m = 0 →
      Does (.mov e w) s (((s.issued e).setG e w.d (s.gr e w.a)).nextPc e)) ∧
    (∀ (e : Nat) (w : OpWord) (s : Dev), s.On → s.MayIssue 0x21 e w [w.d] [] → w.m = 0 →
      Does (.movi e w) s (((s.issued e).setG e w.d (immOf w.imm)).nextPc e)) ∧
    (∀ (e : Nat) (w : OpWord) (s : Dev), s.On → s.MayIssue 0x22 e w [w.d] [] → w.m = 0 →
      Does (.movh e w) s (((s.issued e).setG e w.d (w.imm % 2 ^ 32 * 2 ^ 32 + s.gr e w.d % 2 ^ 32)).nextPc e)) ∧
    (∀ (e : Nat) (w : OpWord) (s : Dev), s.On → (s.MayIssue 0x23 e w [w.a, w.b, w.d] []) → w.m = 0 →
      Does (.add e w) s (((s.issued e).setG e w.d (s.gr e w.a + s.gr e w.b)).nextPc e)) ∧
    (∀ (e : Nat) (w : OpWord) (s : Dev), s.On → (s.MayIssue 0x24 e w [w.a, w.d] []) → w.m = 0 →
      Does (.addi e w) s (((s.issued e).setG e w.d (s.gr e w.a + immOf w.imm)).nextPc e)) ∧
    (∀ (e : Nat) (w : OpWord) (s : Dev), s.On → (s.MayIssue 0x25 e w [w.a, w.b, w.d] []) → w.m = 0 →
      Does (.sub e w) s (((s.issued e).setG e w.d (s.gr e w.a + 2 ^ 64 - s.gr e w.b)).nextPc e)) ∧
    (∀ (e : Nat) (w : OpWord) (s : Dev), s.On → (s.MayIssue 0x26 e w [w.a, w.b, w.d] []) → w.m = 0 →
      Does (.mul e w) s (((s.issued e).setG e w.d (s.gr e w.a * s.gr e w.b)).nextPc e)) ∧
    (∀ (e : Nat) (w : OpWord) (s : Dev), s.On → (s.MayIssue 0x27 e w [w.a, w.b, w.d] []) → w.m = 0 →
      Does (.andOp e w) s (((s.issued e).setG e w.d (s.gr e w.a &&& s.gr e w.b)).nextPc e)) ∧
    (∀ (e : Nat) (w : OpWord) (s : Dev), s.On → (s.MayIssue 0x28 e w [w.a, w.b, w.d] []) → w.m = 0 →
      Does (.orOp e w) s (((s.issued e).setG e w.d (s.gr e w.a ||| s.gr e w.b)).nextPc e)) ∧
    (∀ (e : Nat) (w : OpWord) (s : Dev), s.On → (s.MayIssue 0x29 e w [w.a, w.b, w.d] []) → w.m = 0 →
      Does (.xorOp e w) s (((s.issued e).setG e w.d (s.gr e w.a ^^^ s.gr e w.b)).nextPc e)) ∧
    (∀ (e : Nat) (w : OpWord) (s : Dev), s.On → (s.MayIssue 0x2A e w [w.a, w.b, w.d] []) → w.m = 0 →
      Does (.shl e w) s (((s.issued e).setG e w.d (s.gr e w.a <<< (s.gr e w.b % 64))).nextPc e)) ∧
    (∀ (e : Nat) (w : OpWord) (s : Dev), s.On → (s.MayIssue 0x2B e w [w.a, w.b, w.d] []) → w.m = 0 →
      Does (.shr e w) s (((s.issued e).setG e w.d (s.gr e w.a >>> (s.gr e w.b % 64))).nextPc e)) ∧
    (∀ (e : Nat) (w : OpWord) (s : Dev), s.On → (s.MayIssue 0x2C e w [w.a, w.b, w.d] []) → w.m = 0 →
      Does (.slt e w) s (((s.issued e).setG e w.d (if signedOf 64 (s.gr e w.a) < signedOf 64 (s.gr e w.b) then 1 else 0)).nextPc e)) ∧
    (∀ (e : Nat) (w : OpWord) (s : Dev), s.On → (s.MayIssue 0x40 e w [] [w.a, w.b, w.d]) → w.m < 5 → (w.d < 8 ∧ w.a < 8 ∧ w.b < 8) →
      Does (.vadd e w) s (((s.issued e).setV e w.d (vmap2 w.m (laneAdd w.m) (s.vr e w.a) (s.vr e w.b))).nextPc e)) ∧
    (∀ (e : Nat) (w : OpWord) (s : Dev), s.On → (s.MayIssue 0x41 e w [] [w.a, w.b, w.d]) → w.m < 5 → (w.d < 8 ∧ w.a < 8 ∧ w.b < 8) →
      Does (.vmul e w) s (((s.issued e).setV e w.d (vmap2 w.m (laneMul w.m) (s.vr e w.a) (s.vr e w.b))).nextPc e)) ∧
    (∀ (e : Nat) (w : OpWord) (s : Dev), s.On → (s.MayIssue 0x42 e w [] [w.a, w.b, w.d]) → w.m < 5 → (w.d < 8 ∧ w.a < 8 ∧ w.b < 8) →
      Does (.vfma e w) s (((s.issued e).setV e w.d (lanesVec w.m ((List.range (typLanes w.m)).map fun i =>
      laneFma w.m (laneOf w.m (s.vr e w.d) i) (laneOf w.m (s.vr e w.a) i) (laneOf w.m (s.vr e w.b) i)))).nextPc e)) ∧
    (∀ (e : Nat) (w : OpWord) (s : Dev), s.On → (s.MayIssue 0x43 e w [] [w.a, w.b, w.d]) → w.m < 5 → (w.d < 8 ∧ w.a < 8 ∧ w.b < 8) →
      Does (.vmin e w) s (((s.issued e).setV e w.d (vmap2 w.m (tpick false w.m) (s.vr e w.a) (s.vr e w.b))).nextPc e)) ∧
    (∀ (e : Nat) (w : OpWord) (s : Dev), s.On → (s.MayIssue 0x44 e w [] [w.a, w.b, w.d]) → w.m < 5 → (w.d < 8 ∧ w.a < 8 ∧ w.b < 8) →
      Does (.vmax e w) s (((s.issued e).setV e w.d (vmap2 w.m (tpick true w.m) (s.vr e w.a) (s.vr e w.b))).nextPc e)) ∧
    (∀ (e : Nat) (w : OpWord) (s : Dev), s.On → s.MayIssue 0x45 e w [w.a] [w.d] → w.m < 5 → w.d < 8 →
      Does (.vbc e w) s (((s.issued e).setV e w.d (lanesVec w.m (List.replicate (typLanes w.m) (s.gr e w.a)))).nextPc e)) ∧
    (∀ (e : Nat) (w : OpWord) (s : Dev), s.On → s.MayIssue 0x46 e w [w.d] [w.a] → w.m < 5 → w.a < 8 → w.imm < typLanes w.m →
      Does (.vext e w) s (((s.issued e).setG e w.d (laneOf w.m (s.vr e w.a) w.imm)).nextPc e))

/-- A legal memory operation that its engine may issue makes its access: a load, a store of the source register's bytes, an atomic with
its comparand and operand, a prefetch, a copy or a fill, at the address of its base and displacement; a misaligned access or one
with no target faults with its code and address. For each of these commands a clause concludes the next state that exec answers,
under assumptions on the state and the operands alone: ld, st, ldp, stp, vld, vst, prf, aadd, aand, aor, aswp, acas, acasp, mcpy,
mfill, sig. The memory operations of the operation table (R497 to R501). Log entries the family rests on: 116 to 118 and 126. -/
def Obligations.EngineMemoryOperationsComplete : Prop :=
  (∀ (e : Nat) (w : OpWord) (s : Dev), s.On → (s.MayIssue 0x01 e w [w.a, w.d] []) → loadMod w.m = true →
      Does (.ld e w) s (s.loadAt e (s.addrOf e w) (sizeOf' w.m) (sizeOf' w.m) (.load w.d (sizeOf' w.m) (w.m.testBit 3)))) ∧
    (∀ (e : Nat) (w : OpWord) (s : Dev), s.On → (s.MayIssue 0x02 e w [w.a, w.b] []) → storeMod w.m = true →
      Does (.st e w) s (s.storeAt e (s.addrOf e w) (sizeOf' w.m) (leBytes (sizeOf' w.m) (s.gr e w.b)))) ∧
    (∀ (e : Nat) (w : OpWord) (s : Dev), s.On → (s.MayIssue 0x03 e w [w.a, w.d, w.d + 1] []) → (w.m = 0 ∧ w.d % 2 = 0) →
      Does (.ldp e w) s (s.loadAt e (s.addrOf e w) 16 16 (.pair w.d))) ∧
    (∀ (e : Nat) (w : OpWord) (s : Dev), s.On → (s.MayIssue 0x04 e w [w.a, w.b, w.b + 1] []) → (w.m = 0 ∧ w.b % 2 = 0) →
      Does (.stp e w) s (s.storeAt e (s.addrOf e w) 16 (leBytes 8 (s.gr e w.b) ++ leBytes 8 (s.gr e (w.b + 1))))) ∧
    (∀ (e : Nat) (w : OpWord) (s : Dev), s.On → s.MayIssue 0x05 e w [w.a] [w.d] → (w.m = 0 ∧ w.d < 8) →
      Does (.vld e w) s (s.loadAt e (s.addrOf e w) 32 32 (.vec w.d))) ∧
    (∀ (e : Nat) (w : OpWord) (s : Dev), s.On → s.MayIssue 0x06 e w [w.a] [w.b] → (w.m = 0 ∧ w.b < 8) →
      Does (.vst e w) s (s.storeAt e (s.addrOf e w) 32 (leBytes 32 (s.vr e w.b)))) ∧
    (∀ (e : Nat) (w : OpWord) (s : Dev), s.On → s.MayIssue 0x07 e w [w.a] [] → w.m = 0 →
      Does (.prf e w) s (s.prefetchAt e (s.addrOf e w))) ∧
    (∀ (e : Nat) (w : OpWord) (s : Dev), s.On → (s.MayIssue 0x10 e w [w.a, w.b, w.d] []) → w.m = 0 →
      Does (.aadd e w) s (s.atomicAt e 0x10 (s.addrOf e w) 8 w.d 0 (s.gr e w.b))) ∧
    (∀ (e : Nat) (w : OpWord) (s : Dev), s.On → (s.MayIssue 0x11 e w [w.a, w.b, w.d] []) → w.m = 0 →
      Does (.aand e w) s (s.atomicAt e 0x11 (s.addrOf e w) 8 w.d 0 (s.gr e w.b))) ∧
    (∀ (e : Nat) (w : OpWord) (s : Dev), s.On → (s.MayIssue 0x12 e w [w.a, w.b, w.d] []) → w.m = 0 →
      Does (.aor e w) s (s.atomicAt e 0x12 (s.addrOf e w) 8 w.d 0 (s.gr e w.b))) ∧
    (∀ (e : Nat) (w : OpWord) (s : Dev), s.On → (s.MayIssue 0x13 e w [w.a, w.b, w.d] []) → w.m = 0 →
      Does (.aswp e w) s (s.atomicAt e 0x13 (s.addrOf e w) 8 w.d 0 (s.gr e w.b))) ∧
    (∀ (e : Nat) (w : OpWord) (s : Dev), s.On → (s.MayIssue 0x14 e w [w.a, w.b, w.d] []) → w.m = 0 →
      Does (.acas e w) s (s.atomicAt e 0x14 (s.addrOf e w) 8 w.d (s.gr e w.d) (s.gr e w.b))) ∧
    (∀ (e : Nat) (w : OpWord) (s : Dev), s.On → (s.MayIssue 0x15 e w [w.a, w.b, w.b + 1, w.d, w.d + 1] []) → (w.m = 0 ∧ w.d % 2 = 0 ∧ w.b % 2 = 0) →
      Does (.acasp e w) s (s.atomicAt e 0x15 (s.addrOf e w) 16 w.d (s.gr e w.d + 2 ^ 64 * s.gr e (w.d + 1)) (s.gr e w.b + 2 ^ 64 * s.gr e (w.b + 1)))) ∧
    (∀ (e : Nat) (w : OpWord) (s : Dev), s.On → (s.MayIssue 0x2D e w [w.a, w.b, w.d] []) → w.m = 0 →
      Does (.mcpy e w) s (s.moveAt e (some (s.gr e w.a)) (s.gr e w.d) (s.gr e w.b) (.copy (s.gr e w.a) (s.gr e w.d)))) ∧
    (∀ (e : Nat) (w : OpWord) (s : Dev), s.On → (s.MayIssue 0x2E e w [w.b, w.d] []) → w.m = 0 →
      Does (.mfill e w) s (s.moveAt e none (s.gr e w.d) (s.gr e w.b) (.fill (BitVec.ofNat 8 w.imm)))) ∧
    (∀ (e : Nat) (w : OpWord) (s : Dev), s.On → s.MayIssue 0x61 e w [w.a] [] → w.m = 0 →
      Does (.sig e w) s (s.atomicAt e 0x10 (s.gr e w.a) 8 0 0 (immOf w.imm))) ∧
    (∀ (e : Nat) (w : OpWord) (s : Dev), s.On → (s.MayIssue 0x01 e w [w.a, w.d] []) → loadMod w.m = true → s.addrOf e w % sizeOf' w.m ≠ 0 →
      Does (.ld e w) s ((s.issued e).engFault e 2 (s.addrOf e w))) ∧
    (∀ (e t : Nat) (w : OpWord) (s : Dev), s.On → (s.MayIssue 0x02 e w [w.a, w.b] []) → storeMod w.m = true → s.addrOf e w % sizeOf' w.m = 0 → s.target (s.fnOf e).1 (s.fnOf e).2 (s.addrOf e w) (leBytes (sizeOf' w.m) (s.gr e w.b)).length true = .inr t →
      Does (.st e w) s ((s.issued e).engFault e t (s.addrOf e w)))

/-- Accumulator slots are cleared, added to and rounded out; WAIT waits for its bound or its limit; IRQ signals the run's vector;
branches, calls and returns set the pc; END ends the engine and, with the last engine, the run; barriers complete when what they
wait for has; a returned device load, an expired prefetch entry and a due sample do what their rules say. For each of these commands
a clause concludes the next state that exec answers, under assumptions on the state and the operands alone: acz, aca, acr, waitOp,
waitMet, waitTimeout, irq, b, bz, bnz, call, ret, endOp, barEngine, barCluster, barSystem, systemBarrierComplete, deviceLoadReturn,
prefetchEntryExpiry, engineSample. The control operations, barriers and the engine's own events (R491, R497, R502 to R504, R518,
R520, R531 to R534, R544, R548, R549). Log entries the family rests on: 121 to 125, 127, 128 and 137. -/
def Obligations.EngineControlCompletes : Prop :=
  (∀ (e k : Nat) (w : OpWord) (s : Dev), s.On → s.MayIssue 0x50 e w [] [] → w.m < 4 → s.slotKey e w.imm = some k → w.imm % 2 = 1 → ((s.accSlot (k - 1)).typ ≠ 4) → s.slotTurn k e = true → s.slotUsed k e = false →
      Does (.acz e w) s (((s.issued e).setSlot k { typ := w.m, vals := List.replicate 16 {}, zeroed := some (s.engCyc, e) }).nextPc e)) ∧
    (∀ (e k : Nat) (w : OpWord) (x : AccSlot) (new : List AccV) (s : Dev), s.On → s.MayIssue 0x51 e w [] [w.a] → w.m < 5 → w.a < 8 → s.slotKey e w.imm = some k → (s.accSlot k).typ = w.m → x = s.accSlot k → s.slotTurn k e = true → (new = (((List.range 16).map fun i => x.vals.getD i {}).zip (List.range 16)).map fun p => if p.2 < typLanes w.m then p.1.add w.m (laneOf w.m (s.vr e w.a) p.2) else p.1) →
      Does (.aca e w) s (((((s.issued e).setSlot k
      (let again := x.cyc = s.engCyc ∧ ¬ x.by_.isEmpty
       { x with vals := new, cyc := s.engCyc, by_ := if again then e :: x.by_ else [e], before := if again then x.before else x.vals })).count .CL_ACC_CNT (clusterOf e) (typLanes w.m)).count .CL_HEADROOM_CNT
    (clusterOf e) ((((List.range 16).map fun i => x.vals.getD i {}).zip new).filter fun (p : AccV × AccV) =>
      !p.1.headroom && p.2.headroom).length).nextPc e)) ∧
    (∀ (e k r : Nat) (w : OpWord) (x : AccSlot) (run : Run) (rs : List (Nat × Nat)) (s t : Dev), s.On → s.MayIssue 0x52 e w [] [w.d] → w.m < 4 → w.d < 8 → s.slotKey e w.imm = some k → (s.runOf e = some (r, run)) → t = s.issued e → x = s.accSlot k → x.typ ≠ slotTaken → s.slotTurn k e = true → (rs = (List.range (typLanes x.typ)).map fun i => ((s.slotVals k e).getD i {}).result x.typ w.m) →
      Does (.acr e w) s
    ((({ t with eng.runs := tins t.eng.runs r { run with flags := rs.foldl (fun f p => f ||| p.2) run.flags } } : Dev).setV e w.d
      (lanesVec x.typ (rs.map Prod.fst))).nextPc e)) ∧
    (∀ (e : Nat) (w : OpWord) (t : EngTgt) (s : Dev), s.On → (s.MayIssue 0x60 e w [w.a, w.b, w.d] []) → w.m = 0 → s.gr e w.a % 8 = 0 → s.target (s.fnOf e).1 (s.fnOf e).2 (s.gr e w.a) 8 false = .inl t → t.isWin = false → t.isDev = false →
      Does (.waitOp e w) s (let till := if signedOf 32 w.imm = 0 then none else some (s.now + (signedOf 32 w.imm).toNat * tUs)
    ((s.issued e).modEn e fun x => { x with wait := some { tgt := t, bound := s.gr e w.b, d := w.d, till := till } }).setEnState e enWait)) ∧
    (∀ (e : Nat) (data : List Byte) (x : WaitSt) (s : Dev), s.On → (s.en e).wait = some x → x.bound ≤ leNat (mergeFwd ((s.en e).fwdBytes x.tgt 8) ((if x.tgt.isWin then data else s.readTgt e x.tgt 8).take 8)) → (s.turnOk e [(x.tgt, 8)] = true) →
      Does (.waitMet e data) s ((s.takeTurn e [(x.tgt, 8)]).waitEnd e x.d 0)) ∧
    (∀ (e r t : Nat) (run : Run) (x : WaitSt) (s : Dev), s.On → (s.en e).wait = some x → (s.runOf e = some (r, run)) → x.till = some t → t ≤ s.now → t / engCycle < run.limitAt / engCycle →
      Does (.waitTimeout e) s (s.waitEnd e x.d 1)) ∧
    (∀ (e r : Nat) (w : OpWord) (run : Run) (s t : Dev), s.On → s.MayIssue 0x62 e w [] [] → w.m = 0 → (s.runOf e = some (r, run)) → t = s.issued e →
      Does (.irq e w) s ((t.signal run.vs run.fn (t.fget Fld.SF_Q_CFG.VEC run.q) (some run.desc.way)).nextPc e)) ∧
    (∀ (e : Nat) (w : OpWord) (s : Dev), s.On → s.MayIssue 0x70 e w [] [] → w.m = 0 →
      Does (.b e w) s ((s.issued e).jump e w)) ∧
    (∀ (e : Nat) (w : OpWord) (s : Dev), s.On → s.MayIssue 0x71 e w [w.a] [] → w.m = 0 →
      Does (.bz e w) s (if s.gr e w.a = 0 then (s.issued e).jump e w else (s.issued e).nextPc e)) ∧
    (∀ (e : Nat) (w : OpWord) (s : Dev), s.On → s.MayIssue 0x72 e w [w.a] [] → w.m = 0 →
      Does (.bnz e w) s (if s.gr e w.a = 0 then (s.issued e).nextPc e else (s.issued e).jump e w)) ∧
    (∀ (e : Nat) (w : OpWord) (s : Dev), s.On → s.MayIssue 0x73 e w [15] [] → w.m = 0 →
      Does (.call e w) s (((s.issued e).setG e 15 (s.pc e + 1)).jump e w)) ∧
    (∀ (e : Nat) (w : OpWord) (s : Dev), s.On → s.MayIssue 0x74 e w [15] [] → w.m = 0 →
      Does (.ret e w) s ((s.issued e).setPc e (s.gr e 15))) ∧
    (∀ (e r : Nat) (w : OpWord) (run : Run) (s t u : Dev), s.On → s.MayIssue 0x75 e w [] [] → w.m = 0 → (s.runOf e = some (r, run)) → (((s.en e).acc.any fun a => !a.kind.isPrefetch) = false) → (t = (s.issued e).modEn e fun x => { x with ended := true }) → (u = { t with eng.runs := tins t.eng.runs r (if run.engines.head? = some e then { run with result := s.gr e 1 } else run) }) → ((run.engines.all fun i => (u.en i).ended) = true) →
      Does (.endOp e w) s (u.endRun r)) ∧
    (∀ (e : Nat) (w : OpWord) (s : Dev), s.On → s.MayIssue 0x78 e w [w.d] [] → w.m = 0 → (s.en e).loadsDone = true →
      Does (.barEngine e w) s (((s.issued e).setG e w.d 0).nextPc e)) ∧
    (∀ (e : Nat) (w : OpWord) (s : Dev), s.On → s.MayIssue 0x78 e w [w.d] [] → w.m = 1 → (s.en e).loadsDone = true → (s.en e).localStoresDone = true →
      Does (.barCluster e w) s ((((s.issued e).modEn e Eng.pfClear).setG e w.d 0).nextPc e)) ∧
    (∀ (e : Nat) (w : OpWord) (s : Dev), s.On → s.MayIssue 0x78 e w [w.d] [] → w.m = 2 → (s.en e).loadsDone = true → (s.en e).sb = [] → (s.en e).flush = [] → s.flushTags e (s.fnOf e).1 (s.fnOf e).2 = true →
      Does (.barSystem e w) s ((((s.issued e).modEn e Eng.pfClear).setG e w.d 0).nextPc e)) ∧
    (∀ (e : Nat) (oks : List Bool) (b : Barrier) (s : Dev), s.On → (s.en e).bar = some b → b.sent = true → (((s.runOf e).any fun r => decide (r.2.limitAt / engCycle ≤ s.engCyc)) = false) →
      Does (.systemBarrierComplete e oks) s (s.barrierDone e b (b.failed || oks.any (!·)))) ∧
    (∀ (e h : Nat) (r : AccEnd) (a : Access) (s : Dev), s.On → (s.en e).hold = some h → ((s.en e).acc.find? (fun a => a.seq == h) = some a) →
      Does (.deviceLoadReturn e r) s (s.accessEnd e a r)) ∧
    (∀ (e addr : Nat) (s : Dev), s.On →
      Does (.prefetchEntryExpiry e addr) s
    (s.modEn e fun x => { x with pf := x.pf.filter fun p => !(p.addr == addr && decide (p.filledAt + 2 * tUs ≤ s.now)) })) ∧
    (∀ (e r : Nat) (run : Run) (s : Dev), s.On → (s.runOf e = some (r, run)) → s.fget Fld.EN_SMP_CFG.EVENT e = 3 → s.fbit Fld.EN_SMP_CFG.SMP_EN e = true →
      Does (.engineSample e 0) s
    (let t := (({ s with eng.sample := tput 0 s.eng.sample (sfKey run.vs run.fn) (run.slot * 2 ^ 32 + s.pc e) } : Dev).modEn e fun x =>
       { x with smpPcs := [] }).raise (evEngine e)
     if s.fbit Fld.EN_SMP_PC.VALID e then t.fset Fld.EN_SMP_PC.MORE e 1
     else t.fsets e [(Fld.EN_SMP_PC.VALID, 1), (Fld.EN_SMP_PC.SLOT, run.slot), (Fld.EN_SMP_PC.PC, s.pc e)])) ∧
    (∀ (e r : Nat) (run : Run) (s : Dev), s.On → (s.runOf e = some (r, run)) → s.fget Fld.EN_SMP_CFG.EVENT e = 1 → s.fbit Fld.EN_SMP_CFG.SMP_EN e = true → (s.en e).smpFrom + 2 ^ s.fget Fld.EN_SMP_CFG.PERIOD_EXP e * engCycle ≤ s.now → s.fbit Fld.EN_SMP_PC.VALID e = false →
      Does (.engineSample e 0) s
    (((({ s with eng.sample := tput 0 s.eng.sample (sfKey run.vs run.fn) (run.slot * 2 ^ 32 + s.pc e) } : Dev).modEn e fun x =>
       { x with smpPcs := [], smpFrom := x.smpFrom + 2 ^ s.fget Fld.EN_SMP_CFG.PERIOD_EXP e * engCycle }).raise (evEngine e)).fsets e
      [(Fld.EN_SMP_PC.VALID, 1), (Fld.EN_SMP_PC.SLOT, run.slot), (Fld.EN_SMP_PC.PC, s.pc e)]))

/-- A request that is in order is carried out and answered: READ with the values of its entries, WRITE with 0xFF and an RSEQ for each
command, its RWS values waiting for their commit, DESCRIBE, SUBSCRIBE, NOTIFY_ACK, KEEPALIVE and CLOSE with what their rules say;
OPEN is challenged, PROOF accepted; time limits end sessions and unlock key slots; notices are sent and sent again. For each of
these commands a clause concludes the next state that exec answers, under assumptions on the state and the operands alone: read,
write, rwsFlashCommit, describe, subscribe, notifyAck, keepalive, closeSession, openSession, proof, sessionIdleTimeout,
proofTimeout, keySlotUnlock, notifyRetransmit, eventNoticeSend. The services of a session (R554 to R588). That a session's
identifier, nonce and ciphertext are the switch's own draw is a free value of the model (log entry 151). Log entries the family
rests on: 140 to 153. -/
def Obligations.RequestServicesComplete : Prop :=
  (∀ (h : ReqHdr) (x : Sess) (es : List EntryRef) (b : List Byte) (s t : Dev), s.On → s.Asks h x → s.xing.farLock = none → es ≠ [] → es.length ≤ 32 → ((s.heard h).readAll { x with at_ := s.now } es = (0, b, t)) → b.length ≤ messageMax →
      Serves (.read h es) h (.read es) s (t.answerReq h.sess svRead h.seq 0 b)) ∧
    (∀ (h : ReqHdr) (x : Sess) (es : List EntryWrite) (acts : List CmdAct) (s t : Dev), s.On → s.Asks h x → s.xing.farLock = none → es ≠ [] → es.length ≤ 32 → (s.heard h).checkAll h.sess es [] es = none → ((s.heard h).storeAll h.sess es = (t, acts)) →
      Serves (.write h es) h (.write es) s
    (if rwsVals es = [] then each acts (t.answerReq h.sess svWrite h.seq 0 (t.writeBody acts)) fun s a => s.cmdAct a
     else { t with svc.commits := t.svc.commits ++
       [{ sess := h.sess, seq := h.seq, body := t.writeBody acts, vals := rwsVals es, acts := acts }] })) ∧
    (∀ (k : SessKey) (c : Commit) (s : Dev), s.On → (s.svc.commits.findIdx? (fun c => c.sess == k) = some 0) → (s.svc.commits.head? = some c) → c.live = true →
      Does (.rwsFlashCommit k) s
    (let t := { s with flash := flashAll s.flash [c], svc.commits := s.svc.commits.tail }
     each c.acts (t.answerReq k svWrite c.seq 0 c.body) fun s a => s.cmdAct a)) ∧
    (∀ (h : ReqHdr) (x : Sess) (r : EntryRef) (row : ObjRow) (s : Dev), s.On → s.Asks h x → indexExists r.index = true → objRow r.index r.sub = some row →
      Serves (.describe h r) h (.describe r) s ((s.heard h).answerReq h.sess svDescribe h.seq 0 (describeBytes r.index r.sub row))) ∧
    (∀ (h : ReqHdr) (x : Sess) (mask : Nat) (s : Dev), s.On → s.Asks h x → ((match h.sess with | .mailbox _ => true | _ => false) = false) →
      Serves (.subscribe h mask) h (.subscribe mask) s
    (((s.heard h).modSess h.sess fun y => { y with mask := maskFor x.role mask }).answerReq h.sess svSubscribe h.seq 0
      (leBytes 8 (maskFor x.role mask)))) ∧
    (∀ (h : ReqHdr) (x : Sess) (nseq : Nat) (s : Dev), s.On → s.Asks h x →
      Serves (.notifyAck h nseq) h (.notifyAck nseq) s
    (((s.heard h).modSess h.sess fun y => { y with notes := y.notes.filter fun n => !acked nseq n }).answerReq h.sess svNotifyAck h.seq 0 [])) ∧
    (∀ (h : ReqHdr) (x : Sess) (s : Dev), s.On → s.Asks h x →
      Serves (.keepalive h) h (.keepalive) s ((s.heard h).answerReq h.sess svKeepalive h.seq 0 [])) ∧
    (∀ (h : ReqHdr) (x : Sess) (s : Dev), s.On → s.Asks h x →
      Serves (.closeSession h) h (.close) s (((s.heard h).answerReq h.sess svClose h.seq 0 []).closeSess h.sess)) ∧
    (∀ (h : ReqHdr) (id i slot : Nat) (body c : List Byte) (s t u : Dev), s.On → s.reachable = true → s.mayAsk h.sess = true → s.svc.inbox = [] → h.sess = .udp i → h.fault = 0 → h.version = 1 → body.length = 1216 → (s.keySlot slot).till = none → s.udpOpen < 8 → ((id, t) = s.drawId) → ((c, u) = t.challenge (body.drop 32)) →
      Serves (.openSession h slot body) h (.open_ slot body) s
    ((u.putSess { key := .udp id, role := 0, slot := slot, src := h.src, opened := false, at_ := s.now,
                  transcript := s.transcript (leBytes 1 slot ++ body) c }).respond (.udp id) h.seq 0 c)) ∧
    (∀ (h : ReqHdr) (i : Nat) (sig : List Byte) (x : Sess) (s : Dev), s.On → s.reachable = true → s.mayAsk h.sess = true → s.svc.inbox = [] → h.sess = .udp i → (s.sess? h.sess = some x) → (x.from? h = true) → h.tagOk = true → x.opened = false → s.now ≤ x.at_ + 5 * tSec → h.fault = 0 → h.version = 1 → (s.keySlot x.slot).state = 2 → s.udpOpen < 8 →
      Serves (.proof h sig) h (.proof sig) s
    (if Config.mldsaVerify (s.keySlot x.slot).key x.transcript [] sig = true then s.accept x h.seq
     else ((s.dropSess h.sess).keyFail x.slot).respond h.sess h.seq 0x0201 [])) ∧
    (∀ (i : Nat) (x : Sess) (s : Dev), s.On → (s.open? (.udp i) = some x) → x.at_ + x.idle ≤ s.now → ((s.svc.inbox.any fun q => q.hdr.sess == SessKey.udp i) = false) →
      Does (.sessionIdleTimeout (.udp i)) s (s.dropSess (.udp i))) ∧
    (∀ (k : SessKey) (x : Sess) (s : Dev), s.On → (s.sess? k = some x) → x.opened = false → x.at_ + 5 * tSec ≤ s.now →
      Does (.proofTimeout k) s (s.dropSess k)) ∧
    (∀ (slot t : Nat) (s : Dev), s.On → slot < 16 → (s.keySlot slot).till = some t → t ≤ s.now →
      Does (.keySlotUnlock slot) s ({ s with svc.keys := tmod {} s.svc.keys slot fun k => { k with till := none } })) ∧
    (∀ (k : SessKey) (x : Sess) (s : Dev), s.On → s.reachable = true → (s.open? k = some x) → x.notes ≠ [] → x.noteAt + 100 * tMs ≤ s.now →
      Does (.notifyRetransmit k) s
    (each x.notes (s.modSess k fun y => { y with noteAt := s.now }) fun s n => s.emit (.notify k (noticeBytes n)))) ∧
    (∀ (src : Nat) (e : EvtNote) (s : Dev), s.On → tfind s.tel.evt src = some e → e.count ≠ 0 → ((match e.last with | some t => decide (t + tMs ≤ s.now) | none => true) = true) → 8 ≤ s.evtClass src → s.evtClass src ≤ 63 →
      Does (.eventNoticeSend src) s
    (({ s with tel.evt := tput ({} : EvtNote) s.tel.evt src { count := 0, first := 0, last := some s.now } } : Dev).notice (s.evtClass src) src
      e.first (leBytes 2 (min 65535 e.count))))

/-- CONTINUE leads to STANDBY, DRAIN to DRAINING with a notice to the dealer, MAINTAIN to MAINTENANCE at once in STANDBY and otherwise
after its wait, RESUME to ACTIVE or STANDBY, ABORT_DRAIN to ACTIVE, and MGMT_RESET to BOOT; each that has its state answers with its
result; a fault enters FAULT. For each of these commands a clause concludes the next state that exec answers, under assumptions on
the state and the operands alone: continueCmd, drain, maintain, resume, abortDrain, mgmtReset, maintainComplete, maintainTimeout,
deviceFault. The commands of state_cmd and the events that end them (R560 to R568). Log entries the family rests on: 154 to 156 and
195. -/
def Obligations.DeviceStateCommandsComplete : Prop :=
  (∀ (h : ReqHdr) (x : Sess) (s t : Dev), s.On → s.Orders h x (0x2001) 1 .u16 (.num 1) → (s.commanded h 0x2001 1 (.num 1)).stateLegal 1 = true → t = s.commanded h (0x2001) 1 (.num 1) →
      Serves (.continueCmd h) h (.write [⟨⟨(0x2001), 1, ObjTyp.u16.code⟩, (.num 1)⟩]) s (t.toStandby.stateDone 0)) ∧
    (∀ (h : ReqHdr) (x : Sess) (s t : Dev), s.On → s.Orders h x (0x2001) 1 .u16 (.num 2) → (s.commanded h 0x2001 1 (.num 2)).stateLegal 2 = true → t = s.commanded h (0x2001) 1 (.num 2) →
      Serves (.drain h) h (.write [⟨⟨(0x2001), 1, ObjTyp.u16.code⟩, (.num 2)⟩]) s (((t.setDevState stDraining).drainNotice).stateDone 0)) ∧
    (∀ (h : ReqHdr) (x : Sess) (s t : Dev), s.On → s.Orders h x (0x2001) 1 .u16 (.num 259) → (s.commanded h 0x2001 1 (.num 259)).stateLegal 3 = true → t = s.commanded h (0x2001) 1 (.num 259) →
      Serves (.maintain h true) h (.write [⟨⟨(0x2001), 1, ObjTyp.u16.code⟩, (.num 259)⟩]) s ((each (tkeys t.fwd.pkts) t fun s pid => match s.pkt? pid with | some p => if p.sent < p.nfl then s.discard pid 8 else s | none => s).toMaintenance)) ∧
    (∀ (h : ReqHdr) (x : Sess) (s t : Dev), s.On → s.Orders h x (0x2001) 1 .u16 (.num 3) → (s.commanded h 0x2001 1 (.num 3)).stateLegal 3 = true → t = s.commanded h (0x2001) 1 (.num 3) →
      Serves (.maintain h false) h (.write [⟨⟨(0x2001), 1, ObjTyp.u16.code⟩, (.num 3)⟩]) s (if t.svc.state = stStandby then t.toMaintenance else { t with svc.maintain := some (t.now, t.onum 0x2002 1 1000 * tUs, t.now + t.onum 0x2002 2 10 * tSec) })) ∧
    (∀ (h : ReqHdr) (x : Sess) (s t : Dev), s.On → s.Orders h x (0x2001) 1 .u16 (.num 4) → (s.commanded h 0x2001 1 (.num 4)).stateLegal 4 = true → t = s.commanded h (0x2001) 1 (.num 4) →
      Serves (.resume h) h (.write [⟨⟨(0x2001), 1, ObjTyp.u16.code⟩, (.num 4)⟩]) s ((t.setDevState (if t.joined then stActive else stStandby)).stateDone 0)) ∧
    (∀ (h : ReqHdr) (x : Sess) (s t : Dev), s.On → s.Orders h x (0x2001) 1 .u16 (.num 5) → (s.commanded h 0x2001 1 (.num 5)).stateLegal 5 = true → t = s.commanded h (0x2001) 1 (.num 5) →
      Serves (.abortDrain h) h (.write [⟨⟨(0x2001), 1, ObjTyp.u16.code⟩, (.num 5)⟩]) s ((t.setDevState stActive).stateDone 0)) ∧
    (∀ (h : ReqHdr) (x : Sess) (s t : Dev), s.On → s.Orders h x (0x2001) 1 .u16 (.num 6) → (s.commanded h 0x2001 1 (.num 6)).stateLegal 6 = true → t = s.commanded h (0x2001) 1 (.num 6) →
      Serves (.mgmtReset h) h (.write [⟨⟨(0x2001), 1, ObjTyp.u16.code⟩, (.num 6)⟩]) s (t.bootEntry 5)) ∧
    (∀ (a quiet till : Nat) (s : Dev), s.On → (s.svc.maintain = some (a, quiet, till)) → s.svc.state = stDraining → s.drained quiet = true →
      Does .maintainComplete s s.toMaintenance) ∧
    (∀ (a quiet till : Nat) (s : Dev), s.On → (s.svc.maintain = some (a, quiet, till)) → s.svc.state = stDraining → till ≤ s.now →
      Does .maintainTimeout s (({ s with svc.maintain := none } : Dev).stateDone 0x0406)) ∧
    (∀ (cause : Nat) (s : Dev), s.On → s.svc.state ≠ stFault →
      Does (.deviceFault cause) s
    (let a := (({ s with svc.cause := cause } : Dev).logError 5 evMgmt cause 0).setDevState stFault
     let b := each extPorts (each extPorts a fun s n => s.containPort n) fun s n =>
       if s.isFabric n then (s.blEnter n blDisabled).failover n else s.linkDown n lDisabled
     each (tkeys b.eng.runs) b fun s r => s.stopRun r 3))

/-- A write of a load target's data or offset entry changes its staging area; OPEN, COMMIT, ERASE, RETIRE and RAISE_SVN of the
equalisation table, the key slots, the program slots and the firmware images do what their rules say and end with their results; a
report is taken at its command and is ready later; a program is measured. For each of these commands a clause concludes the next
state that exec answers, under assumptions on the state and the operands alone: loadDataWrite, loadOffsetWrite, eqOpen, eqCommit,
keyOpen, keyCommit, keyErase, reportReady, reportCmd, fwOpen, fwCommit, raiseSvn, progOpen, progCommit, progRetire, programMeasured.
The load targets (R591 to R603, R651, R652). Log entries the family rests on: 139, 157 to 159. -/
def Obligations.LoadTargetCommandsComplete : Prop :=
  (∀ (h : ReqHdr) (x : Sess) (idx : Nat) (data : List Byte) (s : Dev), s.On → s.Orders h x idx (loadSub idx) .octets (.bytes data) → ((objRow idx (loadSub idx)).map (·.acc) = some .wo) → isLoadOff idx (loadSub idx) = false → isLoadData idx (loadSub idx) = true →
      Serves (.loadDataWrite h idx data) h (.write [⟨⟨idx, (loadSub idx), ObjTyp.octets.code⟩, (.bytes data)⟩]) s (((s.heard h).loadData idx data).answerReq h.sess svWrite h.seq 0 [255])) ∧
    (∀ (h : ReqHdr) (x : Sess) (idx off : Nat) (s : Dev), s.On → (s.Orders h x idx (loadSub idx - 1) .u32 (.num off)) → ((objRow idx (loadSub idx - 1)).map (·.acc) = some .rw) → (isLoadOff idx (loadSub idx - 1) = true) →
      Serves (.loadOffsetWrite h idx off) h (.write [⟨⟨idx, (loadSub idx - 1), ObjTyp.u32.code⟩, (.num off)⟩]) s (((s.heard h).modLoad idx fun l => { l with off := off }).answerReq h.sess svWrite h.seq 0 [255])) ∧
    (∀ (h : ReqHdr) (x : Sess) (s t : Dev), s.On → s.Orders h x (0x3000) 1 .u8 (.num 1) → t = s.commanded h (0x3000) 1 (.num 1) →
      Serves (.eqOpen h) h (.write [⟨⟨(0x3000), 1, ObjTyp.u8.code⟩, (.num 1)⟩]) s (t.cmdDone 0x3000 1 0 [])) ∧
    (∀ (h : ReqHdr) (x : Sess) (b : List Byte) (s t : Dev), s.On → s.Orders h x (0x3000) 1 .u8 (.num 2) → t = s.commanded h (0x3000) 1 (.num 2) → b = (s.load (0x3000)).image → t.trust.jobs = [] →
      Serves (.eqCommit h ) h (.write [⟨⟨(0x3000), 1, ObjTyp.u8.code⟩, (.num 2)⟩]) s (
    let valid := t.fbit Fld.LN_TBL_STAT.VALID 0
    let c := if valid then 1 - t.fget Fld.LN_TBL_STAT.COPY 0 else 0
    let u := if c = 0 then { t with ln.eqA := b } else { t with ln.eqB := b }
    if eqValid b ∧ (¬ valid ∨ t.fget Fld.LN_TBL_STAT.SEQ 0 < eqSeq b) then
      ((u.eqInForce c valid).measureEq).cmdDone 0x3000 1 0 (leBytes 4 (eqSeq b))
    else (if valid then u.fset Fld.LN_TBL_STAT.OTHER 0 (b2n (eqValid b)) else u).cmdDone 0x3000 1 0x0504 [])) ∧
    (∀ (h : ReqHdr) (x : Sess) (slot : Nat) (s t : Dev), s.On → s.Orders h x (0xA100 + slot) 1 .u16 (.num 1) → slot < 16 → t = s.commanded h (0xA100 + slot) 1 (.num 1) →
      Serves (.keyOpen h slot) h (.write [⟨⟨(0xA100 + slot), 1, ObjTyp.u16.code⟩, (.num 1)⟩]) s (t.cmdDone (0xA100 + slot) 1 0 [])) ∧
    (∀ (h : ReqHdr) (x : Sess) (slot role : Nat) (b : List Byte) (s t : Dev), s.On → s.Orders h x (0xA100 + slot) 1 .u16 (.num (2 + 256 * role)) → slot < 16 → role < 4 → b.length = 1952 → t = s.commanded h (0xA100 + slot) 1 (.num (2 + 256 * role)) → b = (s.load (0xA100 + slot)).image → t.trust.jobs = [] →
      Serves (.keyCommit h slot role) h (.write [⟨⟨(0xA100 + slot), 1, ObjTyp.u16.code⟩, (.num (2 + 256 * role))⟩]) s (
    let u := t.measure 4 6 slot (leBytes 1 slot ++ leBytes 1 role ++ [1]) (shake256 b 32)
    ({ u with svc.keys := tmod {} u.svc.keys slot fun k => { k with state := 2, role := role, key := b } } : Dev).cmdDone (0xA100 + slot) 1 0 [])) ∧
    (∀ (h : ReqHdr) (x : Sess) (slot : Nat) (s t : Dev), s.On → s.Orders h x (0xA100 + slot) 1 .u16 (.num 3) → slot < 16 → t = s.commanded h (0xA100 + slot) 1 (.num 3) → t.trust.jobs = [] →
      Serves (.keyErase h slot) h (.write [⟨⟨(0xA100 + slot), 1, ObjTyp.u16.code⟩, (.num 3)⟩]) s (
    let k := t.keySlot slot
    let u := if k.state = 2 then t.measure 4 6 slot (leBytes 1 slot ++ leBytes 1 k.role ++ [2]) [] else t.loadDrop (0xA100 + slot)
    let v := { u with svc.keys := tmod {} u.svc.keys slot fun y => { ({} : KeySlot) with fails := y.fails, till := y.till } }
    let own := (v.svc.sess.filter fun x => x.slot == slot && match x.key with
      | .udp _ => true
      | _ => false).map (·.key)
    (each own v fun s y => s.dropSess y).cmdDone (0xA100 + slot) 1 0 [])) ∧
    (∀ (b : List Byte) (s : Dev), s.On → s.trust.pendReport = some b →
      Does .reportReady s (({ s with trust.report := b, trust.pendReport := none } : Dev).cmdDone 0xA000 4 0 (leBytes 4 3957))) ∧
    (∀ (h : ReqHdr) (x : Sess) (nonce : List Byte) (s t : Dev), s.On → s.Orders h x (0xA000) 4 .octets (.bytes nonce) → t = s.commanded h (0xA000) 4 (.bytes nonce) →
      Serves (.reportCmd h nonce) h (.write [⟨⟨(0xA000), 4, ObjTyp.octets.code⟩, (.bytes nonce)⟩]) s (t)) ∧
    (∀ (h : ReqHdr) (x : Sess) (kind : Nat) (s t : Dev), s.On → s.Orders h x (0xA200) 1 .u16 (.num (1 + 256 * kind)) → kind < 256 → t = s.commanded h (0xA200) 1 (.num (1 + 256 * kind)) →
      Serves (.fwOpen h kind) h (.write [⟨⟨(0xA200), 1, ObjTyp.u16.code⟩, (.num (1 + 256 * kind))⟩]) s (t.cmdDone 0xA200 1 0 [])) ∧
    (∀ (h : ReqHdr) (x : Sess) (kind : Nat) (b : List Byte) (s t : Dev), s.On → s.Orders h x (0xA200) 1 .u16 (.num (2 + 256 * kind)) → kind < 256 → t = s.commanded h (0xA200) 1 (.num (2 + 256 * kind)) → b = (s.load (0xA200)).image → t.trust.jobs = [] →
      Serves (.fwCommit h kind) h (.write [⟨⟨(0xA200), 1, ObjTyp.u16.code⟩, (.num (2 + 256 * kind))⟩]) s (
    if t.imgValid kind b = true then
      let c := 1 - ((tfind t.trust.inUse kind).map fun u => u.copy).getD (t.imgCurrent kind)
      let d := shake256 (imgMeasured b) 32
      (({ t with trust.copies := tins t.trust.copies (2 * kind + c) b, trust.cur := setBit t.trust.cur kind (c == 1) } : Dev).measure 6 6 kind
        (leBytes 4 (imgVersion b) ++ leBytes 4 (imgSvn b) ++ leBytes 1 c) d).cmdDone 0xA200 1 0 (d ++ leBytes 4 (imgVersion b))
    else t.cmdDone 0xA200 1 0x0201 [])) ∧
    (∀ (h : ReqHdr) (x : Sess) (kind : Nat) (s t : Dev), s.On → s.Orders h x (0xA200) 1 .u16 (.num (3 + 256 * kind)) → kind < 256 → t = s.commanded h (0xA200) 1 (.num (3 + 256 * kind)) → t.trust.jobs = [] →
      Serves (.raiseSvn h kind) h (.write [⟨⟨(0xA200), 1, ObjTyp.u16.code⟩, (.num (3 + 256 * kind))⟩]) s (
    let svn := ((tfind t.trust.inUse kind).map fun u => u.svn).getD 0
    let old := t.trust.minSvn.getD kind 0
    if svn ≤ old then t.cmdDone 0xA200 1 0 (leBytes 4 old)
    else (({ t with trust.minSvn := t.trust.minSvn.set kind svn } : Dev).measure 7 6 kind (leBytes 1 kind ++ leBytes 4 svn) []).cmdDone 0xA200 1 0
      (leBytes 4 svn))) ∧
    (∀ (h : ReqHdr) (x : Sess) (slot vs : Nat) (s t : Dev), s.On → s.Orders h x (0xB100 + slot) 1 .u16 (.num (1 + 256 * vs)) → slot < 256 → vs < 48 → t = s.commanded h (0xB100 + slot) 1 (.num (1 + 256 * vs)) →
      Serves (.progOpen h slot vs) h (.write [⟨⟨(0xB100 + slot), 1, ObjTyp.u16.code⟩, (.num (1 + 256 * vs))⟩]) s (t.cmdDone (0xB100 + slot) 1 0 [])) ∧
    (∀ (h : ReqHdr) (x : Sess) (slot : Nat) (b : List Byte) (s t : Dev), s.On → s.Orders h x (0xB100 + slot) 1 .u16 (.num 2) → slot < 256 → t = s.commanded h (0xB100 + slot) 1 (.num 2) → b = (s.load (0xB100 + slot)).image →
      Serves (.progCommit h slot) h (.write [⟨⟨(0xB100 + slot), 1, ObjTyp.u16.code⟩, (.num 2)⟩]) s { t with trust.jobs := t.trust.jobs ++ [{ idx := 0xB100 + slot, sub := 1, val := .num 2, image := b }] }) ∧
    (∀ (h : ReqHdr) (x : Sess) (slot : Nat) (s t : Dev), s.On → s.Orders h x (0xB100 + slot) 1 .u16 (.num 3) → slot < 256 → (t.prog slot).state ≠ 1 → t = s.commanded h (0xB100 + slot) 1 (.num 3) →
      Serves (.progRetire h slot) h (.write [⟨⟨(0xB100 + slot), 1, ObjTyp.u16.code⟩, (.num 3)⟩]) s ((({ t with eng.progs := tmod {} t.eng.progs slot fun p => { p with state := 4, retireAt := t.engCyc } } : Dev)))) ∧
    (∀ (slot : Nat) (s : Dev), (s.prog slot).state = 4 → (s.prog slot).retireAt < s.engCyc → ((s.eng.runs.any fun e => e.2.slot == slot) = false) →
      s.retireCheck slot = (s.emptySlot slot).cmdDone (0xB100 + slot) 1 0 []) ∧
    (∀ (slot : Nat) (p : Prog) (a : CmdAct) (s t : Dev), s.On → s.trust.jobs = [a] → a.program = some slot → (t = { s with trust.jobs := [] }) → p = t.prog slot → p.state = 2 → (t.cmdSt (0xB100 + slot) 1).running = true → progFormed p.image = true → p.expect = [] →
      Does (.programMeasured slot) s
    (let d := shake256 p.image 32
     let handle := slot + 256 * p.gen
     let u := t.measure 5 7 slot (leBytes 4 handle ++ leBytes 1 p.vs ++ leBytes 4 (t.progWords slot)) d
     ({ u with eng.progs := tmod {} u.eng.progs slot fun y => { y with state := 3, digest := d } } : Dev).cmdDone (0xB100 + slot) 1 0
       (leBytes 4 handle ++ d))) ∧
    (∀ (h : ReqHdr) (x : Sess) (slot role : Nat) (b : List Byte) (s t : Dev), s.On → s.Orders h x (0xA100 + slot) 1 .u16 (.num (2 + 256 * role)) → slot < 16 → t = s.commanded h (0xA100 + slot) 1 (.num (2 + 256 * role)) → b = (s.load (0xA100 + slot)).image → t.trust.jobs ≠ [] →
      Serves (.keyCommit h slot role) h (.write [⟨⟨(0xA100 + slot), 1, ObjTyp.u16.code⟩, (.num (2 + 256 * role))⟩]) s
    { t with trust.jobs := t.trust.jobs ++ [{ idx := 0xA100 + slot, sub := 1, val := .num (2 + 256 * role), image := b }] })

/-- Each starts under its RSEQ, does what its rule says and ends with its result: margin runs for its dwell, contained ports are
released, the attention button is pressed, queues are added and asked back, vectors, weight and flow are set, the shadow schedule is
committed, a register is written, a cut goes out, a directed packet leaves, the trip record is cleared, a cluster is reset. For each
of these commands a clause concludes the next state that exec answers, under assumptions on the state and the operands alone:
marginCmd, marginDone, dpcCmd, atnCmd, resAddQueues, resRevokeQueues, resSetVectors, resSetEngineWeight, resSetFlow, schedCommit,
regValWrite, directedSend, cutCmd, peClear, clusterReset. The dictionary's other commands. The CUT message's term is the model's
choice (log entry 160); log entry 46 is on ports of another role. -/
def Obligations.DictionaryCommandsComplete : Prop :=
  (∀ (h : ReqHdr) (x : Sess) (port v : Nat) (s t : Dev), s.On → s.Orders h x (0x3100 + port) 1 .u32 (.num v) → port < 48 → t = s.commanded h (0x3100 + port) 1 (.num v) →
      Serves (.marginCmd h port v) h (.write [⟨⟨(0x3100 + port), 1, ObjTyp.u32.code⟩, (.num v)⟩]) s ({ t with ln.margin := tins t.ln.margin port (t.now, t.now + v / 2 ^ 24 * tMs) })) ∧
    (∀ (port bits errs a till : Nat) (s : Dev), s.On → (tfind s.ln.margin port = some (a, till)) → till ≤ s.now →
      Does (.marginDone port bits errs) s
    (({ s with ln.margin := tdel s.ln.margin port } : Dev).cmdDone (0x3100 + port) 1 0 (leBytes 8 bits ++ leBytes 8 errs))) ∧
    (∀ (h : ReqHdr) (x : Sess) (port : Nat) (b : Binding) (s t : Dev), s.On → s.Orders h x (0x4000 + port) 5 .u8 (.num 1) → port < 48 → t.bindAt t.ap port = some b → t.dpcHeld b.vs b.vdsp = true → t = s.commanded h (0x4000 + port) 5 (.num 1) →
      Serves (.dpcCmd h port) h (.write [⟨⟨(0x4000 + port), 5, ObjTyp.u8.code⟩, (.num 1)⟩]) s (dpcTriggerStatusWrite b.vs b.vdsp t)) ∧
    (∀ (h : ReqHdr) (x : Sess) (port : Nat) (s t : Dev), s.On → s.Orders h x (0x4000 + port) 7 .u8 (.num 1) → port < 48 → t = s.commanded h (0x4000 + port) 7 (.num 1) →
      Serves (.atnCmd h port) h (.write [⟨⟨(0x4000 + port), 7, ObjTyp.u8.code⟩, (.num 1)⟩]) s ((t.pressAt port).cmdDone (0x4000 + port) 7 0 [])) ∧
    (∀ (h : ReqHdr) (x : Sess) (vs fn v : Nat) (s t : Dev), s.On → s.Orders h x (0x5100) 1 .u64 (.num (resWord 1 vs fn v)) → v < 2 ^ 32 → fn < 65536 → vs < 256 → t = s.commanded h (0x5100) 1 (.num (resWord 1 vs fn v)) →
      Serves (.resAddQueues h vs fn v) h (.write [⟨⟨(0x5100), 1, ObjTyp.u64.code⟩, (.num (resWord 1 vs fn v))⟩]) s (
    let u := (each (List.range v) t fun s _ => s.addQueue vs fn).sfEvent vs fn Fld.SF_EVT.RES
    u.cmdDone 0x5100 1 0 (leBytes 4 (u.fget Fld.SF_RES.QUEUES (sfKey vs fn))))) ∧
    (∀ (h : ReqHdr) (x : Sess) (vs fn v : Nat) (s t : Dev), s.On → s.Orders h x (0x5100) 1 .u64 (.num (resWord 2 vs fn v)) → v < 2 ^ 32 → fn < 65536 → vs < 256 → t = s.commanded h (0x5100) 1 (.num (resWord 2 vs fn v)) →
      Serves (.resRevokeQueues h vs fn v) h (.write [⟨⟨(0x5100), 1, ObjTyp.u64.code⟩, (.num (resWord 2 vs fn v))⟩]) s (
    let free := (t.queuesOf vs fn).filter fun q => !t.fbit Fld.SF_Q_STAT.REVOKE_REQ q
    let qs := ((free.mergeSort fun a b => decide (t.localOf b ≤ t.localOf a)).take v)
    if qs.isEmpty then t.cmdDone 0x5100 1 0 (leBytes 4 (t.fget Fld.SF_RES.QUEUES (sfKey vs fn)))
    else
      each qs (each qs (t.sfEvent vs fn Fld.SF_EVT.RES) fun s q => s.fset Fld.SF_Q_STAT.REVOKE_REQ q 1) fun s q => s.revokeQueue q vs)) ∧
    (∀ (h : ReqHdr) (x : Sess) (vs fn v : Nat) (s t : Dev), s.On → s.Orders h x (0x5100) 1 .u64 (.num (resWord 3 vs fn v)) → v < 2 ^ 32 → fn < 65536 → vs < 256 → t = s.commanded h (0x5100) 1 (.num (resWord 3 vs fn v)) →
      Serves (.resSetVectors h vs fn v) h (.write [⟨⟨(0x5100), 1, ObjTyp.u64.code⟩, (.num (resWord 3 vs fn v))⟩]) s ((t.fset Fld.SF_RES.VECTORS (sfKey vs fn) v).cmdDone 0x5100 1 0 (leBytes 4 v))) ∧
    (∀ (h : ReqHdr) (x : Sess) (vs fn v : Nat) (s t : Dev), s.On → s.Orders h x (0x5100) 1 .u64 (.num (resWord 4 vs fn v)) → v < 2 ^ 32 → fn < 65536 → vs < 256 → t = s.commanded h (0x5100) 1 (.num (resWord 4 vs fn v)) →
      Serves (.resSetEngineWeight h vs fn v) h (.write [⟨⟨(0x5100), 1, ObjTyp.u64.code⟩, (.num (resWord 4 vs fn v))⟩]) s ((t.fset Fld.SF_RES.ENG (sfKey vs fn) v).cmdDone 0x5100 1 0 (leBytes 4 v))) ∧
    (∀ (h : ReqHdr) (x : Sess) (vs fn v : Nat) (s t : Dev), s.On → s.Orders h x (0x5100) 1 .u64 (.num (resWord 5 vs fn v)) → v < 2 ^ 32 → fn < 65536 → vs < 256 → t = s.commanded h (0x5100) 1 (.num (resWord 5 vs fn v)) →
      Serves (.resSetFlow h vs fn v) h (.write [⟨⟨(0x5100), 1, ObjTyp.u64.code⟩, (.num (resWord 5 vs fn v))⟩]) s ((t.fset Fld.SF_ID.FLOW (sfKey vs fn) v).cmdDone 0x5100 1 0 (leBytes 4 v))) ∧
    (∀ (h : ReqHdr) (x : Sess) (s t : Dev), s.On → s.Orders h x (0x6000) 3 .u8 (.num 1) → t = s.commanded h (0x6000) 3 (.num 1) →
      Serves (.schedCommit h) h (.write [⟨⟨(0x6000), 3, ObjTyp.u8.code⟩, (.num 1)⟩]) s (t.commitWrite.cmdDone 0x6000 3 0 (leBytes 2 ((t.fget Fld.ARB_COMMIT.SEQ 0 + 1) % 65536)))) ∧
    (∀ (h : ReqHdr) (x : Sess) (v : Nat) (s : Dev), s.On → s.Orders h x 0x6000 2 .u64 (.num v) →
      Serves (.regValWrite h v) h (.write [⟨⟨0x6000, 2, ObjTyp.u64.code⟩, (.num v)⟩]) s (((s.heard h).regValPut { x with at_ := s.now } v).answerReq h.sess svWrite h.seq 0 [255])) ∧
    (∀ (h : ReqHdr) (x : Sess) (b : List Byte) (s : Dev), s.On → s.Orders h x 0x7300 1 .octets (.bytes b) →
      Serves (.directedSend h b) h (.write [⟨⟨0x7300, 1, ObjTyp.octets.code⟩, (.bytes b)⟩]) s (((s.heard h).directedSend b).answerReq h.sess svWrite h.seq 0 [255])) ∧
    (∀ (h : ReqHdr) (x : Sess) (id : Nat) (s t : Dev), s.On → s.Orders h x (0x7200) 1 .u16 (.num id) → t = s.commanded h (0x7200) 1 (.num id) →
      Serves (.cutCmd h id) h (.write [⟨⟨(0x7200), 1, ObjTyp.u16.code⟩, (.num id)⟩]) s (t.dealDown { kind := 0x17, term := max t.dl.dealer.term (t.fget Fld.DL_DEAL_STAT.TERM 0), epoch := id })) ∧
    (∀ (h : ReqHdr) (x : Sess) (s t : Dev), s.On → s.Orders h x (0x8300) 8 .u8 (.num 1) → t = s.commanded h (0x8300) 8 (.num 1) →
      Serves (.peClear h) h (.write [⟨⟨(0x8300), 8, ObjTyp.u8.code⟩, (.num 1)⟩]) s (({ t with pe.flags := 0, pe.lastTrip := 0 } : Dev).cmdDone 0x8300 8 0 [])) ∧
    (∀ (h : ReqHdr) (x : Sess) (c : Nat) (s t : Dev), s.On → s.Orders h x (0xB900) 1 .u8 (.num c) → t = s.commanded h (0xB900) 1 (.num c) →
      Serves (.clusterReset h c) h (.write [⟨⟨(0xB900), 1, ObjTyp.u8.code⟩, (.num c)⟩]) s ((t.clusterReset c).2.cmdDone 0xB900 1 0 (leBytes 2 (t.clusterReset c).1)))

/-- On an ACTIVE link each time flit leaves its part in the port's record and the descriptors that carry the tree hold an election; a
REPORT closes an exchange; an interval sends what is due; a descriptor that was not refreshed and a parent that stays silent are
given up; a host's PTM answer sets the offset; a window's end latches the bytes of each port. For each of these commands a clause
concludes the next state that exec answers, under assumptions on the state and the operands alone: timeSync, timeReport, timeHigh,
timeTop, timeState, timeRoot, timeExchangeInterval, timeDescriptorExpiry, timePortLoss, ptmHostRequest, ptmHostResponse,
bwWindowEnd. The time plane (R605 to R622, R625). Log entries the family rests on: 166 to 170. -/
def Obligations.TimePlaneCompletes : Prop :=
  (∀ (port val : Nat) (s : Dev), s.On → s.blActive port = true →
      Does (.timeSync port val) s
    (s.modTp port fun p => { p with syncLow := some (val % 2 ^ 20), syncAt := s.ftime, syncSeen := true, missed := 0 })) ∧
    (∀ (port val low t1 t3 : Nat) (s : Dev), s.On → s.blActive port = true → (s.tstate = tsAcquire ∨ s.tstate = tsLocked) → port = s.tport → (s.tp port).syncLow = some low → (s.tp port).sentAt = some t3 → s.parentSync (s.tp port) low = some t1 →
      Does (.timeReport port val) s
    (let t4 := nearest20 (if s.tstate = tsAcquire then t1 else s.ftime) (val % 2 ^ 20)
     s.exchange (timeDiff (s.tp port).syncAt t1 - timeDiff t4 t3) (timeDiff (s.tp port).syncAt t1 + timeDiff t4 t3) t1)) ∧
    (∀ (t : Nat) (s : Dev), s.tel.stepTo = some t → s.tstate = tsAcquire →
      s.stepDue = ({ s with tel.stepTo := none } : Dev).timeStep t) ∧
    (∀ (port val : Nat) (s : Dev), s.On → s.blActive port = true →
      Does (.timeHigh port val) s
    (s.modTp port fun p => { p with
      high := some (val % 2 ^ 20), highLow := p.syncLow.getD 0, highNow := s.now - if p.syncLow.isSome then s.ftime - p.syncAt else 0 })) ∧
    (∀ (port val : Nat) (s : Dev), s.On → s.blActive port = true →
      Does (.timeTop port val) s (s.modTp port fun p => { p with top := some (val % 2 ^ 20) })) ∧
    (∀ (port val : Nat) (s : Dev), s.On → s.blActive port = true →
      Does (.timeState port val) s
    ((s.modTp port fun p => { p with
      top4 := some (bitsOf val 19 16), dist := bitsOf val 15 12, tree := bitOf val 11, locked := bitOf val 10, tport := bitOf val 9,
      refreshed := some s.now, parts := p.parts ||| 16 }).timeElect false)) ∧
    (∀ (port q val : Nat) (s : Dev), s.On → s.blActive port = true → q < 4 →
      Does (.timeRoot port q val) s
    ((s.modTp port fun p => { p with
      serial := setBitsOf p.serial (16 * q + 15) (16 * q) (val % 65536), parts := p.parts ||| 2 ^ q }).timeElect false)) ∧
    (∀ (port : Nat) (s : Dev), s.On → s.blActive port = true → s.fbit Fld.BL_STAT.TXSLEEP port = false → s.isTimePort port = false → (s.tp port).lastSend + tMs ≤ s.now →
      Does (.timeExchangeInterval port) s
    ((each (List.range 7) s fun s i => s.sendDesc port i).modTp port fun p => { p with lastSend := s.now })) ∧
    (∀ (port low : Nat) (s : Dev), s.On → s.blActive port = true → s.fbit Fld.BL_STAT.TXSLEEP port = false → s.isTimePort port = true → (s.tp port).lastSend + (s.tp port).wait ≤ s.now → (s.tp port).syncLow = some low →
      Does (.timeExchangeInterval port) s
    (let p := s.tp port
     let up := (s.tstate = tsAcquire ∨ s.tstate = tsLocked) ∧ s.tport = port
     ((((s.sendTime port 1 s.ftime).modTp port fun p => { p with
       sentAt := some s.ftime, lastSend := s.now, wait := s.syncInterval, cycle := (p.cycle + 1) % 7, syncSeen := false,
       missed := if up ∧ ¬ p.syncSeen then p.missed + 1 else p.missed }).sendTime port 2 p.syncAt).sendDesc port (p.cycle % 7)))) ∧
    (∀ (port t : Nat) (s : Dev), s.On → (s.tp port).refreshed = some t → t + 4 * tMs ≤ s.now →
      Does (.timeDescriptorExpiry port) s
    ((s.modTp port fun p => { p with refreshed := none, parts := 0, tport := false }).timeElect
      ((s.tstate == tsAcquire || s.tstate == tsLocked) && s.tport == port))) ∧
    (∀ (port : Nat) (s : Dev), s.On → (s.tstate = tsAcquire ∨ s.tstate = tsLocked) → port = s.tport → s.fget Fld.TM_CFG.LOSS 0 ≤ (s.tp port).missed →
      Does (.timePortLoss port) s ((s.modTp port fun p => { p with refreshed := none, parts := 0, missed := 0 }).timeElect true)) ∧
    (∀ (vs : Nat) (s : Dev), s.On → s.ptmAsks vs = true → ((match tfind s.tel.ptmSent vs with | some t => decide (t + tMs ≤ s.now) | none => true) = true) →
      Does (.ptmHostRequest vs) s ({ s.emit (.ptmReq (s.hostPort vs)) with tel.ptmSent := tins s.tel.ptmSent vs s.now })) ∧
    (∀ (vs host : Nat) (s : Dev), s.On → s.ptmAsks vs = true →
      Does (.ptmHostResponse vs host) s
    ((s.fsets vs [(Fld.TM_PTM_OFF.VALID, 1), (Fld.TM_PTM_OFF.OFF, unsignedOf 63 (Int.ofNat host - Int.ofNat (s.ftime / 8)))]).tellPtm vs 16
      (unsignedOf 63 (Int.ofNat host - Int.ofNat (s.ftime / 8))))) ∧
    (∀ (s : Dev), s.On → s.tel.bwNext ≤ s.ftime →
      Does .bwWindowEnd s
    (let w := s.tel.bwWin * tUs
     let t := each extPorts s fun s n =>
       let rx := s.fget Fld.TM_PORT_RXB.COUNT n
       let tx := s.fget Fld.TM_PORT_TXB.COUNT n
       let u := (s.fset Fld.TM_BW_RX.BYTES n ((rx + 2 ^ 48 - tget 0 s.tel.bwRx n) % 2 ^ 48)).fset Fld.TM_BW_TX.BYTES n
         ((tx + 2 ^ 48 - tget 0 s.tel.bwTx n) % 2 ^ 48)
       { u with tel.bwRx := tput 0 u.tel.bwRx n rx, tel.bwTx := tput 0 u.tel.bwTx n tx }
     { (t.rset .TM_BW_END 0 s.tel.bwNext).fset Fld.TM_BW_STAT.STEPPED 0 (b2n s.tel.bwStepped) with
       tel.bwStepped := false, tel.bwNext := (s.ftime / w + 1) * w }))

/-- Each second's wear is added at the hottest reading of its second and stored hourly; a reading moves the thermal pins and limits;
running code is measured again; the images of a boot are measured in their order and the boot then ends in MEASURED or STANDBY;
initialisation of ECC and the readiness limit are noted. For each of these commands a clause concludes the next state that exec
answers, under assumptions on the state and the operands alone: wearTick, wearStore, dieTempReading, remeasure, imageMeasure,
bootComplete, eccInitComplete, rrsLimitExpiry. Wear (R629 to R631), die temperatures (R719), measured start (R633 to R650), start-up
(R701 to R704). Log entries the family rests on: 172 to 174 and 185 to 191. -/
def Obligations.WearBootAndMeasurementComplete : Prop :=
  (∀ (s : Dev), s.On → s.tel.wearAt + tSec ≤ s.now →
      Does .wearTick s
    (let af := s.tel.hottest.map accel
     let es := (s.tel.wearE.zip af).map fun e => e.1 + e.2
     let rs := (s.tel.wearR.zip af).map fun r => (Int.ofNat r.1 + (Int.ofNat r.2 - Int.ofNat r.1) / 2592000).toNat
     let eolAt := (es.zip s.tel.eolAt).map fun e => if e.2.isSome then e.2 else if designLife * 2 ^ 32 ≤ e.1 then some s.ftime else none
     let used := wearUsedOf es
     let t := { s with
       tel.wearE := es, tel.wearR := rs, tel.eolAt := eolAt, tel.hottest := s.tel.dieTemp, tel.wearAt := s.now, tel.wearUsed := used }
     let u := { t with tel.eol := t.eolOf }.wearRegs
     if used / 1000 ≠ s.tel.wearUsed / 1000 then (u.raise evWear).logError 7 evWear used 0 else u)) ∧
    (∀ (s : Dev), s.On → s.tel.wearStoreAt + 3600 * tSec ≤ s.now →
      Does .wearStore s ({ s with tel.wearStored := s.tel.wearE, tel.wearStoreAt := s.now })) ∧
    (∀ (die : Nat) (milliC : Int) (s : Dev), s.On → die < 5 →
      Does (.dieTempReading die milliC) s
    (({ s with tel.dieTemp := s.tel.dieTemp.set die milliC, tel.hottest := s.tel.hottest.set die (max milliC (s.tel.hottest.getD die milliC)) } : Dev).thermal)) ∧
    (∀ (slot : Nat) (code : List Byte) (s : Dev), s.On → (slot = 1 ∨ slot = 2) → s.reachable = true → (s.trust.remAt.getD (slot - 1) 0 + s.remeasureTime ≤ s.now) →
      Does (.remeasure slot code) s
    (let t := { s with trust.remAt := s.trust.remAt.set (slot - 1) s.now }
     if ((tfind t.trust.inUse slot).map (·.digest)) = some (shake256 code 32) then t else t.enterFault 3)) ∧
    (∀ (slot : Nat) (u : ImgUse) (s : Dev), s.On → s.svc.state = stBoot → s.svc.rstLow = none → slot = s.trust.measured → slot < 4 → s.trust.retain.testBit slot = true → tfind s.trust.inUse slot = some u →
      Does (.imageMeasure slot) s ({ s.measureImage slot u true with trust.measured := slot + 1 })) ∧
    (∀ (slot : Nat) (s : Dev), s.On → s.svc.state = stBoot → s.svc.rstLow = none → slot = s.trust.measured → slot < 5 → (¬ (slot < 4 ∧ s.trust.retain.testBit slot = true)) →
      Does (.imageMeasure slot) s
    (match s.bootCopy slot with
     | none => s
     | some c =>
       if slot = 4 then { s.readBack with trust.measured := slot + 1 }
       else { s.measureImage slot (imgUse c (s.imgCopy slot c)) false with trust.measured := slot + 1 })) ∧
    (∀ (s : Dev), s.On → s.svc.state = stBoot → s.svc.rstLow = none → s.trust.measured = 5 →
      Does .bootComplete s
    (let t := ((s.eqStart).setDevState stMeasured).thermal.tellTrips
     if t.svc.state ≠ stMeasured ∨ t.bootHold = true then t else t.toStandby)) ∧
    (∀ (s : Dev), s.On →
      Does .eccInitComplete s ({ s with svc.eccReady := true })) ∧
    (∀ (s : Dev), s.On → s.joined = false → s.svc.rrsDone = false → s.reachable = true → s.bootAt + s.onum 0x2003 3 2000 * tMs ≤ s.now →
      Does .rrsLimitExpiry s (({ s with svc.rrsDone := true } : Dev).raise evMgmt))

/-- Start, feeds usable and lost, transfer, revert, ramp, faults and trips, latch release, stop, sag warning, its release, sag reset and
the minutely store of energy do what their rules say; a loss of the bus leads to OFF. For each of these commands a clause concludes
the next state that exec answers, under assumptions on the state and the operands alone: powerGood, controllerStart, feedUsable,
feedLost, transferBreakEnd, transferEnd, feedRevert, rampEnd, inrushFaultTimeout, railFaultTimeout, fastTrip, breakerTrip,
latchRelease, controllerStop, sagWarn, pfwRelease, sagReset, energyStore. The power controller (R653 to R677). It works in every
device state, OFF included. Log entries the family rests on: 178 to 182. -/
def Obligations.PowerControllerCompletes : Prop :=
  (∀ (s : Dev), s.pe.state = peOn → s.pe.railAt.isSome = true → s.pe.pgood = false →
      Does .powerGood s (({ s with pe.pgood := true, pe.railAt := none } : Dev).bootEntry s.pe.why)) ∧
    (∀ (x : PeSample) (s t : Dev) (fl : Nat), s.pe.state = peOff → (4000 ≤ x.va ∨ 4000 ≤ x.vb) → ((fl, t) = s.freeNat) →
      Does (.controllerStart x) s
    ({ t with
       pe.state := peWait, pe.feed := 2, pe.next := 2, pe.usable := 0, pe.transfers := 0, pe.sags := 0, pe.slots := [],
       pe.energy := s.pe.stored, pe.flags := fl % 32 * 8, pe.pfw := true, pe.storeAt := s.now, pe.why := 1,
       trust.bank4 := (s.trust.pend4).getD s.trust.bank4, trust.pend4 := none })) ∧
    (∀ (f : Nat) (x : PeSample) (s : Dev), s.pe.state ≠ peOff → f < 2 → s.usableFeed f = false → 4500 ≤ feedMv x f → s.sagWarnMv + 100 ≤ feedMv x f → feedMv x f ≤ 18000 →
      Does (.feedUsable f x) s
    (let t := { s with pe.usable := setBit s.pe.usable f true, pe.usableAt := s.pe.usableAt.set f s.now }
     if t.pe.state = peWait then t.waitRamp else t)) ∧
    (∀ (f : Nat) (why : FeedLoss) (x : PeSample) (s : Dev), s.pe.state ≠ peOff → s.usableFeed f = true →
      Does (.feedLost f why x) s { s with pe.lost := s.pe.lost ++ [(f, why, x)] }) ∧
    (∀ (f : Nat) (why : FeedLoss) (x : PeSample) (s : Dev), s.pe.state ≠ peOff → s.usableFeed f = true →
      s.takeLoss f why x =
    (if s.pe.state = peRamp ∧ s.pe.feed = f then (s.markLost f why).waitRamp
     else if (s.pe.state = peOn ∨ s.pe.state = peTransfer) ∧ s.pe.feed = f then (s.markLost f why).lostOn f why x
     else if s.pe.state = peTransfer ∧ s.pe.next = f ∧ s.pe.breakTill.isSome = true then { s.markLost f why with pe.next := 2, pe.breakTill := none }
     else s.markLost f why)) ∧
    (∀ (s : Dev), s.now % tUs = 0 →
      s.sampleEnd =
    (let a := each s.pe.lost { s with pe.lost := [] } fun s l => s.takeLoss l.1 l.2.1 l.2.2
     let b := if a.pe.sagDue = true then ({ a with pe.sagDue := false } : Dev).takeSag else a
     each ((tkeys b.pe.slots).filter fun k => (b.slot k).goneAt.isSome) b fun s k => s.takeGone k)) ∧
    (∀ (t : Nat) (s : Dev), s.pe.breakTill = some t → s.pe.state = peTransfer → t ≤ s.now →
      Does .transferBreakEnd s
    ({ s with pe.feed := s.pe.next, pe.next := 2, pe.breakTill := none, pe.regulating := true, pe.at_ := s.now })) ∧
    (∀ (x : PeSample) (s : Dev), s.pe.state = peTransfer → s.pe.regulating = true → s.busNear x = true →
      Does (.transferEnd x) s ({ s with pe.state := peOn, pe.regulating := false, pe.at_ := s.now, pe.revertAt := s.now + 10 * tSec })) ∧
    (∀ (x : PeSample) (s : Dev), s.pe.state = peOn → s.pe.feed = otherFeed s.preferred → s.usableFeed s.preferred = true → s.pe.usableAt.getD s.preferred 0 + 10 * tSec ≤ s.now → s.pe.revertAt ≤ s.now →
      Does (.feedRevert x) s
    (if s.breakUs * 1000 ≤ (s.tSafe x).getD (s.breakUs * 1000) then s.transfer s.preferred x
     else { s with pe.flags := setBit s.pe.flags 4 true, pe.revertAt := s.now + tSec })) ∧
    (∀ (x : PeSample) (s : Dev), s.pe.state = peRamp → s.busNear x = true →
      Does (.rampEnd x) s
    ({ s with pe.state := peOn, pe.regulating := false, pe.at_ := s.now, pe.revertAt := s.now + 10 * tSec, pe.railAt := some s.now })) ∧
    (∀ (s : Dev), (s.pe.state = peRamp ∨ s.pe.state = peTransfer) → s.pe.regulating = true → s.pe.at_ + s.inrushTime ≤ s.now →
      Does .inrushFaultTimeout s (s.moduleTrip 2)) ∧
    (∀ (t : Nat) (s : Dev), s.pe.railAt = some t → s.pe.state = peOn → t + 5 * tMs ≤ s.now →
      Does .railFaultTimeout s (s.moduleTrip 3)) ∧
    (∀ (f ma : Nat) (s : Dev), s.conducts f = true → (if s.pe.state = peRamp then 2 * s.inrushMa else 2 * s.curveI0) < ma →
      Does (.fastTrip f ma) s (s.moduleTrip 1)) ∧
    (∀ (f pt ma : Nat) (s : Dev), s.conducts f = true → pt < 8 → ((s.curve.getD pt (0, 0)).1 * 100 < ma) →
      Does (.breakerTrip f pt ma) s (s.moduleTrip (0x10 + pt))) ∧
    (∀ (s : Dev), s.pe.state = peLatched →
      Does .latchRelease s s.waitRamp) ∧
    (∀ (x : PeSample) (s : Dev), s.pe.state ≠ peOff → x.va < 4000 → x.vb < 4000 →
      Does (.controllerStop x) s
    (let t := { s.powerLost 1 with pe.state := peOff, pe.usable := 0 }
     each ((tkeys t.pe.slots).filter t.gateOn) t fun s k => s.slotDown k slOff)) ∧
    (∀ (x : PeSample) (s : Dev), s.pe.state ≠ peOff → s.pe.pfw = false → x.bus < s.sagWarnMv →
      Does (.sagWarn x) s
    (let t := if s.pe.sagged = true ∨ s.svc.state = stOff then s else { s.storeWear with pe.sagged := true }
     ((({ t with pe.pfw := true, pe.sags := (s.pe.sags + 1) % 2 ^ 32 } : Dev).pin "PFW_N" 0 false).storeEnergy).raisePower)) ∧
    (∀ (x : PeSample) (s : Dev), s.pe.state ≠ peOff → s.pe.pfw = true → s.sagWarnMv + 100 ≤ x.bus →
      Does (.pfwRelease x) s (({ s with pe.pfw := false } : Dev).pin "PFW_N" 0 true)) ∧
    (∀ (x : PeSample) (s : Dev), (s.pe.state = peOn ∨ s.pe.state = peTransfer) → x.bus < s.sagResetMv →
      Does (.sagReset x) s { s with pe.sagDue := true }) ∧
    (∀ (s : Dev), (s.pe.state = peOn ∨ s.pe.state = peTransfer) →
      s.takeSag = (s.powerLost 2).waitRamp) ∧
    (∀ (s : Dev), s.pe.state ≠ peOff → s.pe.storeAt + 60 * tSec ≤ s.now →
      Does .energyStore s s.storeEnergy)

/-- A slot's start, good output, trips, retry, count, presence and sag change its channel as the rules say; warm reset by its length,
hot reset of a VS, PERST# and RST_N act; a receiver aligns, a checker locks, L1 ends, credits return, stores become visible,
accesses and copies complete. For each of these commands a clause concludes the next state that exec answers, under assumptions on
the state and the operands alone: warmReset, vsHotReset, hostPerstAssert, hostPerstRelease, slotSoftStart, slotPowerGood,
slotStartTimeout, slotFastTrip, slotFaultTimeTrip, slotVoutTrip, slotRetryEnd, slotCountRestart, slotPresenceLoss, slotSag,
slotPfwRelease, receiverAligned, prbsCheckerLock, l1Exit, pcieCreditUpdate, storeVisible, accessComplete, copyComplete, rstNRelease.
Slot channels (R678 to R685), resets (R689 to R700, R712, R713), and the events that follow in other families. Log entries the
family rests on: 183, 185 to 187. -/
def Obligations.SlotAndResetCommandsComplete : Prop :=
  (∀ (held : Nat) (s : Dev), s.On → 10000 ≤ held →
      Does (.warmReset held) s s.warmStart) ∧
    (∀ (vs : Nat) (s : Dev), s.On → s.vsExists vs = true → s.resetNow = false →
      Does (.vsHotReset vs) s
    (let ns := List.range (s.fget Fld.PCI_VS_CFG.NDSP vs)
     let p := s.hostPort vs
     let a := (each ns (s.modPfn vs uspNo PortFn.hotReset) fun s n => s.vdspReset vs n).tellPtm vs 15 0
     let b := (a.sfHotReset vs).rclear .XB_LOCK vs
     let c := { b with xing.lockRead := tdel b.xing.lockRead vs }
     let d := each (ns.filter fun n => (s.bindOf s.ap vs n).isSome) c fun s n => secondaryBusReset vs n false (secondaryBusReset vs n true s)
     let e := each (ns.filter fun n => !(s.pfn vs n).sameWindow (s.pfn vs n).hotReset) d fun s n => s.sendWindowNotice vs n
     let f := (e.syncBusMap vs).linkDown p lDetect
     ({ f with fwd.contained := f.fwd.contained ||| 2 ^ p } : Dev).flushPort p)) ∧
    (∀ (n : Nat) (s : Dev), s.On → s.isHost n = true →
      Does (.hostPerstAssert n) s ((pcieLinkDown n false s).modPport n fun q => { q with perst := true })) ∧
    (∀ (n : Nat) (s : Dev), s.On → s.isHost n = true →
      Does (.hostPerstRelease n) s (s.modPport n fun q => { q with perst := false })) ∧
    (∀ (k : Nat) (c : SlotCh) (s : Dev), s.On → k < 8 → c = s.slot k → s.fbit Fld.PCI_SLOT_MAP.EN k = true → s.slotCtl k = true → s.fbit Fld.PCI_SLOT_STAT.PRSNT k = true → c.retryAt = none → c.offAt = none → (c.state = slOff ∨ c.state = slWait) → stStandby ≤ s.svc.state → s.svc.state ≠ stFault →
      Does (.slotSoftStart k) s ((s.modSlot k fun c => { c with state := slRamp, at_ := s.now }).pin "SLOT_GATE" k true)) ∧
    (∀ (k mv : Nat) (s : Dev), k < 8 → (s.slot k).state = slRamp →
      Does (.slotPowerGood k mv) s
    (let t := (s.modSlot k fun c => { c with state := slOn, at_ := s.now }).fset Fld.PCI_SLOT_STAT.POWERED k 1
     { t with pci.perstAt := tins t.pci.perstAt k s.now })) ∧
    (∀ (k : Nat) (s : Dev), k < 8 → (s.slot k).state = slRamp → (s.slot k).at_ + s.slotFaultTime k ≤ s.now →
      Does (.slotStartTimeout k) s (s.slotTrip k 2)) ∧
    (∀ (k ma : Nat) (s : Dev), k < 8 → s.gateOn k = true → 2 * s.slotLimitMa k < ma →
      Does (.slotFastTrip k ma) s (s.slotTrip k 1)) ∧
    (∀ (k ma : Nat) (s : Dev), k < 8 → (s.slot k).state = slOn → s.slotLimitMa k < ma →
      Does (.slotFaultTimeTrip k ma) s (s.slotTrip k 3)) ∧
    (∀ (k mv : Nat) (s : Dev), k < 8 → (s.slot k).state = slOn →
      Does (.slotVoutTrip k mv) s (s.slotTrip k 4)) ∧
    (∀ (k t : Nat) (s : Dev), k < 8 → (s.slot k).retryAt = some t → t ≤ s.now →
      Does (.slotRetryEnd k) s (s.modSlot k fun c => { c with retryAt := none, state := if c.state = slRetry then slWait else c.state })) ∧
    (∀ (k : Nat) (s : Dev), k < 8 → (s.slot k).state = slOn → (s.slot k).at_ + 10 * tSec ≤ s.now →
      Does (.slotCountRestart k) s (s.modSlot k fun c => { c with count := 0 })) ∧
    (∀ (k : Nat) (s : Dev), k < 8 → s.gateOn k = true →
      Does (.slotPresenceLoss k) s (s.modSlot k fun c => { c with goneAt := some s.now })) ∧
    (∀ (k : Nat) (s : Dev), s.gateOn k = true →
      s.takeGone k = (s.slotDown k slWait).modSlot k fun c => { c with count := 0, goneAt := none }) ∧
    (∀ (k : Nat) (s : Dev), k < 8 → s.gateOn k = false → (s.slot k).tripAt = none →
      Does (.slotPresenceLoss k) s
    (s.modSlot k fun c => { c with count := 0, state := if c.state = slLatched then slWait else c.state })) ∧
    (∀ (k t : Nat) (s : Dev), k < 8 → s.gateOn k = false → (s.slot k).tripAt = some t → t / tUs = s.now / tUs →
      Does (.slotPresenceLoss k) s
    (s.modSlot k fun c => { c with
      count := 0, state := if c.state = slLatched then slRetry else c.state,
      retryAt := if c.state = slLatched then some (s.now + s.slotRetryCfg k % 256 * 10 * tMs) else c.retryAt })) ∧
    (∀ (k mv : Nat) (s : Dev), k < 8 → s.gateOn k = true → mv < s.slotSagMv k → (s.slot k).pfw = false →
      Does (.slotSag k mv) s ((s.modSlot k fun c => { c with pfw := true }).pin "SLOT_PFW_N" k false)) ∧
    (∀ (k mv : Nat) (s : Dev), k < 8 → s.gateOn k = true → s.slotSagMv k + 100 ≤ mv → (s.slot k).pfw = true → (s.slot k).offAt = none →
      Does (.slotPfwRelease k mv) s ((s.modSlot k fun c => { c with pfw := false }).pin "SLOT_PFW_N" k true)) ∧
    (∀ (n : Nat) (s : Dev), s.On → s.blState n = blAlign →
      Does (.receiverAligned n) s (s.modBl n fun b => { b with aligned := true })) ∧
    (∀ (i n : Nat) (s : Dev), s.On → ((s.fbit Fld.LN_PRBS_CTRL.BUSY i && s.checks i) = false) → s.portOfLane i = some n → s.isFabric n = true → s.fget Fld.BL_STAT.STATE n = 3 → (s.lane i).window = none → ((tget {} s.bl.ports n).lanesOk.testBit (i - (16 * (n / 4) + 4 * (n % 4))) = false) →
      Does (.prbsCheckerLock i) s (s.modLane i fun l => { l with window := some (s.now + s.checkWindow n) })) ∧
    (∀ (i : Nat) (s : Dev), s.On → ((s.fbit Fld.LN_PRBS_CTRL.BUSY i && s.checks i) = true) → s.portOfLane i = none →
      Does (.prbsCheckerLock i) s (s.fset Fld.LN_PRBS_CTRL.LOCK i 1)) ∧
    (∀ (n : Nat) (s : Dev), s.On → (s.pport n).up = true → (s.pport n).l1 = true →
      Does (.l1Exit n) s ((s.fset Fld.PCI_PORT_STAT.LTSSM n lL0).modPport n fun q => { q with l1 := false })) ∧
    (∀ (n kind hdr data : Nat) (s : Dev), s.On → (s.isHost n = true ∨ s.isDevice n = true) → kind < 3 →
      Does (.pcieCreditUpdate n kind hdr data) s
    ({ s with fwd.pciCredit := tmod 0 (tmod 0 s.fwd.pciCredit (8 * n + 2 * kind) (· + hdr)) (8 * n + 2 * kind + 1) (· + data) })) ∧
    (∀ (e seq : Nat) (t : StoreE) (s : Dev), s.On → ((s.en e).sb.find? (fun t => t.seq == seq) = some t) → (s.en e).storeReady t = true → (s.turnOk e [(t.tgt, t.data.length)] = true) →
      Does (.storeVisible e seq) s
    (let u := ((s.takeTurn e [(t.tgt, t.data.length)]).modEn e fun x => { x with sb := x.sb.filter (·.seq != seq) }).writeStore e t (s.fnOf e).1 (s.fnOf e).2
     if t.tgt.isWin = true then u.fcount (s.fnOf e).1 (s.fnOf e).2 4 t.data.length else u)) ∧
    (∀ (e seq : Nat) (a : Access) (data : List Byte) (s t : Dev), s.On → ((s.en e).acc.find? (fun a => a.seq == seq) = some a) → (s.en e).hold ≠ some seq → (s.en e).accReady a = true → s.turnOk e (s.accTgts e a) = true → t = s.takeTurn e (s.accTgts e a) →
      Does (.accessComplete e seq (.ok data)) s
    (if a.tag.isSome = true then (t.accFinish e a data).fcount (t.fnOf e).1 (t.fnOf e).2 3 a.len else t.accFinish e a data)) ∧
    (∀ (q moved vs fn l : Nat) (data : List Byte) (d : Desc) (s : Dev), s.On → ((s.sfq q).owner = some (vs, fn, l)) → ((s.sfq q).descs.find? (fun d => d.started && d.kind == 2) = some d) → moved = d.copyLen →
      Does (.copyComplete q moved data) s
    (let b := s.rangeRead 0 vs fn (pieces d.copySrc d.copyLen) data
     ((s.firmDone q d.idx).rangeWrite 0 d.idx vs fn (some d.way) (pieces d.copyDst d.copyLen) b).complete q d.idx { result := d.copyLen })) ∧
    (∀ (s : Dev), s.On → s.svc.rstLow.isSome = true →
      Does .rstNRelease s ({ s with svc.rstLow := none, bootAt := s.now, trust.remAt := [s.now, s.now] }))
end

