-- ==== Sys2Proof/Laws/Tables.lean ====
section
/-! SUPPORT. The laws of sparse tables: a read after a write, what a write leaves alone, and that every operation keeps the
canonical form. -/
namespace Sys2Proof.Machine

theorem tabove_mono {β : Type} {b c : Nat} {t : Tbl β} (h : tabove c t = true) (hb : b ≤ c) : tabove b t = true := by
  cases t with
  | nil => rfl
  | cons e t => simp only [tabove, Bool.and_eq_true, decide_eq_true_eq] at *; exact ⟨by omega, h.2⟩

theorem tabove_tins {β : Type} {b a : Nat} {x : β} {t : Tbl β} (h : tabove b t = true) (hb : b ≤ a) :
    tabove b (tins t a x) = true := by
  induction t generalizing b with
  | nil => simp [tins, tabove, hb]
  | cons e t ih =>
    obtain ⟨k, v⟩ := e
    simp only [tabove, Bool.and_eq_true, decide_eq_true_eq] at h
    unfold tins
    split
    · simp only [tabove, Bool.and_eq_true, decide_eq_true_eq]; exact ⟨hb, by omega, h.2⟩
    · split
      · subst_vars; simp only [tabove, Bool.and_eq_true, decide_eq_true_eq]; exact h
      · simp only [tabove, Bool.and_eq_true, decide_eq_true_eq]; exact ⟨h.1, ih h.2 (by omega)⟩

theorem tabove_tdel {β : Type} {b a : Nat} {t : Tbl β} (h : tabove b t = true) : tabove b (tdel t a) = true := by
  induction t generalizing b with
  | nil => rfl
  | cons e t ih =>
    obtain ⟨k, v⟩ := e
    simp only [tabove, Bool.and_eq_true, decide_eq_true_eq] at h
    unfold tdel
    split
    · exact tabove_mono h.2 (by omega)
    · simp only [tabove, Bool.and_eq_true, decide_eq_true_eq]; exact ⟨h.1, ih h.2⟩

theorem tabove_filter {β : Type} {b : Nat} {p : Nat × β → Bool} {t : Tbl β} (h : tabove b t = true) :
    tabove b (t.filter p) = true := by
  induction t generalizing b with
  | nil => rfl
  | cons e t ih =>
    obtain ⟨k, v⟩ := e
    simp only [tabove, Bool.and_eq_true, decide_eq_true_eq] at h
    by_cases hp : p (k, v) = true
    · simp only [List.filter_cons, hp, if_true, tabove, Bool.and_eq_true, decide_eq_true_eq]; exact ⟨h.1, ih h.2⟩
    · simp only [List.filter_cons, hp]; exact tabove_mono (ih h.2) (by omega)

theorem tabove_tput {β : Type} [DecidableEq β] {d : β} {a : Nat} {x : β} {t : Tbl β} (h : tabove 0 t = true) :
    tabove 0 (tput d t a x) = true := by
  unfold tput; split
  · exact tabove_tdel h
  · exact tabove_tins h (Nat.zero_le a)

theorem mem_tins {β : Type} {t : Tbl β} {a : Nat} {x : β} {e : Nat × β} (h : e ∈ tins t a x) : e = (a, x) ∨ e ∈ t := by
  induction t with
  | nil => simp [tins] at h; exact .inl h
  | cons y t ih =>
    obtain ⟨k, v⟩ := y
    unfold tins at h
    split at h
    · exact List.mem_cons.1 h
    · split at h
      · rcases List.mem_cons.1 h with h | h
        · exact .inl h
        · exact .inr (List.mem_cons_of_mem _ h)
      · rcases List.mem_cons.1 h with h | h
        · exact .inr (h ▸ List.mem_cons_self)
        · exact (ih h).imp id (List.mem_cons_of_mem _)

theorem mem_tdel {β : Type} {t : Tbl β} {a : Nat} {e : Nat × β} (h : e ∈ tdel t a) : e ∈ t := by
  induction t with
  | nil => simpa [tdel] using h
  | cons y t ih =>
    obtain ⟨k, v⟩ := y
    unfold tdel at h
    split at h
    · exact List.mem_cons_of_mem _ h
    · rcases List.mem_cons.1 h with h | h
      · exact h ▸ List.mem_cons_self
      · exact List.mem_cons_of_mem _ (ih h)

theorem twf_iff {β : Type} [DecidableEq β] {d : β} {t : Tbl β} :
    twf d t = true ↔ tabove 0 t = true ∧ ∀ e ∈ t, e.2 ≠ d := by
  simp [twf, List.all_eq_true]

theorem twf_tins {β : Type} [DecidableEq β] {d : β} {t : Tbl β} {a : Nat} {x : β} (h : twf d t = true) (hx : x ≠ d) :
    twf d (tins t a x) = true := by
  obtain ⟨h1, h2⟩ := twf_iff.1 h
  exact twf_iff.2 ⟨tabove_tins h1 (Nat.zero_le a), fun e he => (mem_tins he).elim (fun q => q ▸ hx) (h2 e)⟩

theorem twf_tdel {β : Type} [DecidableEq β] {d : β} {t : Tbl β} {a : Nat} (h : twf d t = true) :
    twf d (tdel t a) = true := by
  obtain ⟨h1, h2⟩ := twf_iff.1 h
  exact twf_iff.2 ⟨tabove_tdel h1, fun e he => h2 e (mem_tdel he)⟩

theorem twf_tput {β : Type} [DecidableEq β] {d : β} {t : Tbl β} {a : Nat} {x : β} (h : twf d t = true) :
    twf d (tput d t a x) = true := by
  unfold tput; split
  · exact twf_tdel h
  · exact twf_tins h ‹_›

theorem twf_tmod {β : Type} [DecidableEq β] {d : β} {t : Tbl β} {a : Nat} {f : β → β} (h : twf d t = true) :
    twf d (tmod d t a f) = true := twf_tput h

theorem twf_filter {β : Type} [DecidableEq β] {d : β} {t : Tbl β} {p : Nat × β → Bool} (h : twf d t = true) :
    twf d (t.filter p) = true := by
  obtain ⟨h1, h2⟩ := twf_iff.1 h
  exact twf_iff.2 ⟨tabove_filter h1, fun e he => h2 e (List.mem_filter.1 he).1⟩

/-! Reads after writes -/

theorem tfind_below {β : Type} {b a : Nat} {t : Tbl β} (h : tabove b t = true) (ha : a < b) : tfind t a = none := by
  induction t generalizing b with
  | nil => rfl
  | cons e t ih =>
    obtain ⟨k, v⟩ := e
    simp only [tabove, Bool.and_eq_true, decide_eq_true_eq] at h
    have : a ≠ k := by omega
    simp only [tfind, this, if_false]; exact ih h.2 (by omega)

theorem tfind_tins {β : Type} (t : Tbl β) (a c : Nat) (x : β) :
    tfind (tins t a x) c = if c = a then some x else tfind t c := by
  induction t with
  | nil => simp [tins, tfind]
  | cons e t ih =>
    obtain ⟨k, v⟩ := e
    by_cases h1 : a < k
    · simp [tins, tfind, h1]
    · by_cases h2 : a = k
      · subst h2; by_cases h3 : c = a <;> simp [tins, tfind, h3]
      · by_cases h3 : c = k
        · subst h3; simp [tins, tfind, h1, h2, Ne.symm h2]
        · simp [tins, tfind, h1, h2, h3, ih]

theorem tfind_tdel {β : Type} {t : Tbl β} (h : tabove 0 t = true) (a c : Nat) :
    tfind (tdel t a) c = if c = a then none else tfind t c := by
  suffices ∀ b, tabove b t = true → tfind (tdel t a) c = if c = a then none else tfind t c from this 0 h
  intro b hb
  clear h
  induction t generalizing b with
  | nil => simp [tdel, tfind]
  | cons e t ih =>
    obtain ⟨k, v⟩ := e
    simp only [tabove, Bool.and_eq_true, decide_eq_true_eq] at hb
    by_cases h1 : a = k
    · subst h1
      by_cases h2 : c = a
      · subst h2; simp [tdel, tfind_below hb.2 (Nat.lt_succ_self c)]
      · simp [tdel, tfind, h2]
    · by_cases h2 : c = k
      · subst h2; simp [tdel, tfind, h1, Ne.symm h1]
      · simp [tdel, tfind, h1, h2, ih _ hb.2]

/-- A read after a write: the written key reads as the value, every other key as before. -/
theorem tget_tput {β : Type} [DecidableEq β] {d : β} {t : Tbl β} (h : tabove 0 t = true) (a c : Nat) (x : β) :
    tget d (tput d t a x) c = if c = a then x else tget d t c := by
  unfold tput tget
  split
  · subst_vars; rw [tfind_tdel h]; split <;> simp
  · rw [tfind_tins]; split <;> simp

end Sys2Proof.Machine
end

