-- ==== Sys2Proof/Laws/Registers.lean ====
section
/-! SUPPORT. The laws of bit fields and of the register file: a field read after a store, and what a store leaves alone. -/
namespace Sys2Proof.Machine

/-! Bit fields -/

theorem bitsOf_lt (x hi lo : Nat) : bitsOf x hi lo < 2 ^ (hi + 1 - lo) := Nat.mod_lt _ (by positivity)

theorem setBitsOf_eq {x hi lo v : Nat} (h : lo ≤ hi) :
    setBitsOf x hi lo v = x / 2 ^ (hi + 1) * 2 ^ (hi + 1) + (v % 2 ^ (hi + 1 - lo)) * 2 ^ lo + x % 2 ^ lo := by
  obtain ⟨w, rfl⟩ := Nat.exists_eq_add_of_le h
  have e1 : lo + w + 1 - lo = w + 1 := by omega
  have e2 : (2 : Nat) ^ (lo + w + 1) = 2 ^ lo * 2 ^ (w + 1) := by rw [← Nat.pow_add]; congr 1
  unfold setBitsOf bitsOf
  rw [e1, Nat.shiftRight_eq_div_pow, e2, ← Nat.div_div_eq_div_mul]
  have a := Nat.div_add_mod x (2 ^ lo)
  have b := Nat.div_add_mod (x / 2 ^ lo) (2 ^ (w + 1))
  generalize x / 2 ^ lo = q at *
  generalize x % 2 ^ lo = r at *
  generalize q / 2 ^ (w + 1) = u at *
  generalize q % 2 ^ (w + 1) = t at *
  subst a
  rw [← b]
  have c : t * 2 ^ lo ≤ 2 ^ lo * (2 ^ (w + 1) * u + t) + r := by nlinarith [Nat.zero_le (2 ^ lo * (2 ^ (w + 1) * u))]
  zify [c]
  ring

theorem bitsOf_setBitsOf_self {x hi lo v : Nat} (h : lo ≤ hi) : bitsOf (setBitsOf x hi lo v) hi lo = v % 2 ^ (hi + 1 - lo) := by
  rw [setBitsOf_eq h]
  obtain ⟨w, rfl⟩ := Nat.exists_eq_add_of_le h
  have e1 : lo + w + 1 - lo = w + 1 := by omega
  have e2 : (2 : Nat) ^ (lo + w + 1) = 2 ^ lo * 2 ^ (w + 1) := by rw [← Nat.pow_add]; congr 1
  unfold bitsOf
  rw [e1, e2, Nat.shiftRight_eq_div_pow]
  have hr := Nat.mod_lt x (show 0 < 2 ^ lo by positivity)
  have hv := Nat.mod_lt v (show 0 < 2 ^ (w + 1) by positivity)
  generalize x % 2 ^ lo = r at *
  generalize v % 2 ^ (w + 1) = t at *
  generalize x / (2 ^ lo * 2 ^ (w + 1)) = u at *
  have : u * (2 ^ lo * 2 ^ (w + 1)) + t * 2 ^ lo + r = 2 ^ lo * (u * 2 ^ (w + 1) + t) + r := by ring
  rw [this, Nat.mul_add_div (by positivity), Nat.div_eq_of_lt hr, Nat.add_zero, Nat.mul_comm, Nat.mul_add_mod,
    Nat.mod_eq_of_lt hv]

theorem bitsOf_setBitsOf_below {x hi lo v hi' lo' : Nat} (h : lo ≤ hi) (h' : lo' ≤ hi') (hd : hi' < lo) :
    bitsOf (setBitsOf x hi lo v) hi' lo' = bitsOf x hi' lo' := by
  rw [setBitsOf_eq h]
  unfold bitsOf
  rw [Nat.shiftRight_eq_div_pow, Nat.shiftRight_eq_div_pow]
  have key : ∀ y : Nat, y / 2 ^ lo' % 2 ^ (hi' + 1 - lo') = (y % 2 ^ (hi' + 1)) / 2 ^ lo' := fun y => by
    have : hi' + 1 = lo' + (hi' + 1 - lo') := by omega
    conv_rhs => rw [this, Nat.pow_add, Nat.mod_mul_right_div_self]
  rw [key, key]
  congr 1
  obtain ⟨k, rfl⟩ : ∃ k, lo = hi' + 1 + k := ⟨lo - (hi' + 1), by omega⟩
  obtain ⟨m, rfl⟩ : ∃ m, hi = hi' + 1 + k + m := ⟨hi - (hi' + 1 + k), by omega⟩
  have d1 : 2 ^ (hi' + 1) ∣ 2 ^ (hi' + 1 + k + m + 1) := Nat.pow_dvd_pow _ (by omega)
  have d2 : 2 ^ (hi' + 1) ∣ 2 ^ (hi' + 1 + k) := Nat.pow_dvd_pow _ (by omega)
  rw [Nat.add_mod, Nat.add_mod (x / _ * _), Nat.mod_eq_zero_of_dvd (Dvd.dvd.mul_left d1 _),
    Nat.mod_eq_zero_of_dvd (Dvd.dvd.mul_left d2 _)]
  simp [Nat.mod_mod_of_dvd x d2]

theorem bitsOf_setBitsOf_above {x hi lo v hi' lo' : Nat} (h : lo ≤ hi) (hd : hi < lo') :
    bitsOf (setBitsOf x hi lo v) hi' lo' = bitsOf x hi' lo' := by
  rw [setBitsOf_eq h]
  unfold bitsOf
  rw [Nat.shiftRight_eq_div_pow, Nat.shiftRight_eq_div_pow]
  congr 1
  obtain ⟨k, rfl⟩ : ∃ k, lo' = hi + 1 + k := ⟨lo' - (hi + 1), by omega⟩
  rw [Nat.pow_add 2 (hi + 1) k, ← Nat.div_div_eq_div_mul, ← Nat.div_div_eq_div_mul]
  congr 1
  have hv := Nat.mod_lt v (show 0 < 2 ^ (hi + 1 - lo) by positivity)
  have hr := Nat.mod_lt x (show 0 < 2 ^ lo by positivity)
  have e : (2 : Nat) ^ (hi + 1) = 2 ^ (hi + 1 - lo) * 2 ^ lo := by rw [← Nat.pow_add]; congr 1; omega
  have hlt : (v % 2 ^ (hi + 1 - lo)) * 2 ^ lo + x % 2 ^ lo < 2 ^ (hi + 1) := by
    rw [e]; have := Nat.mul_le_mul_right (2 ^ lo) hv; rw [Nat.succ_mul] at this; omega
  rw [Nat.add_assoc, Nat.mul_comm, Nat.mul_add_div (by positivity), Nat.div_eq_of_lt hlt, Nat.add_zero]

theorem setBitsOf_lt {x hi lo v n : Nat} (h : lo ≤ hi) (hn : hi < n) (hx : x < 2 ^ n) : setBitsOf x hi lo v < 2 ^ n := by
  rw [setBitsOf_eq h]
  obtain ⟨k, rfl⟩ : ∃ k, n = hi + 1 + k := ⟨n - (hi + 1), by omega⟩
  have hv := Nat.mod_lt v (show 0 < 2 ^ (hi + 1 - lo) by positivity)
  have hr := Nat.mod_lt x (show 0 < 2 ^ lo by positivity)
  have e : (2 : Nat) ^ (hi + 1) = 2 ^ (hi + 1 - lo) * 2 ^ lo := by rw [← Nat.pow_add]; congr 1; omega
  have hlt : (v % 2 ^ (hi + 1 - lo)) * 2 ^ lo + x % 2 ^ lo < 2 ^ (hi + 1) := by
    rw [e]; have := Nat.mul_le_mul_right (2 ^ lo) hv; rw [Nat.succ_mul] at this; omega
  have hq : x / 2 ^ (hi + 1) < 2 ^ k := by
    rw [Nat.div_lt_iff_lt_mul (by positivity), ← Nat.pow_add, Nat.add_comm]; exact hx
  rw [Nat.pow_add 2 (hi + 1) k]
  have := Nat.mul_le_mul_right (2 ^ (hi + 1)) hq
  rw [Nat.succ_mul, Nat.mul_comm (2 ^ k)] at this
  omega

/-! Register keys -/

theorem allRegs_regCode (r : Reg) : allRegs[regCode r]? = some r := by cases r <;> rfl

theorem regCode_inj {r q : Reg} (h : regCode r = regCode q) : r = q := by
  have a := allRegs_regCode r
  rw [h, allRegs_regCode q] at a
  exact (Option.some.inj a).symm

theorem regKey_inj {r q : Reg} {i j : Nat} (hi : i < 1048576) (hj : j < 1048576) (h : regKey r i = regKey q j) :
    r = q ∧ i = j := by
  unfold regKey at h
  have : regCode r = regCode q := by omega
  exact ⟨regCode_inj this, by omega⟩

/-! Reads after stores -/

theorem tfind_tput_ne {β : Type} [DecidableEq β] {d : β} {t : Tbl β} (h : tabove 0 t = true) {a c : Nat} {x : β} (hc : c ≠ a) :
    tfind (tput d t a x) c = tfind t c := by
  unfold tput
  split
  · rw [tfind_tdel h]; simp [hc]
  · rw [tfind_tins]; simp [hc]

/-- A register reads as what was stored in it, 64 bits wide. -/
theorem rget_rset_self {s : Dev} (h : tabove 0 s.regs = true) (r : Reg) (i v : Nat) : (s.rset r i v).rget r i = v % 2 ^ 64 := by
  unfold Dev.rget Dev.rset
  dsimp only
  rw [tget_tput h]; simp

theorem rget_rset_ne {s : Dev} (h : tabove 0 s.regs = true) {r q : Reg} {i j v : Nat} (hk : regKey q j ≠ regKey r i) :
    (s.rset r i v).rget q j = s.rget q j := by
  unfold Dev.rget Dev.rset
  dsimp only
  unfold tget
  rw [tfind_tput_ne h hk]

theorem rget_lt (s : Dev) (r : Reg) (i : Nat) : s.rget r i < 2 ^ 64 := BitVec.isLt _

/-- Marking bits as set in the core cycle changes no register. -/
@[simp] theorem rget_mark (s : Dev) (r q : Reg) (i j bits : Nat) : (s.mark r i bits).rget q j = s.rget q j := rfl

theorem rset_regs_up {s : Dev} (h : tabove 0 s.regs = true) (r : Reg) (i v : Nat) : tabove 0 (s.rset r i v).regs = true := tabove_tput h

theorem fget_fset_self {s : Dev} (h : tabove 0 s.regs = true) {f : Fld} (hf : f.lo ≤ f.hi) (h64 : f.hi < 64) (i v : Nat) :
    (s.fset f i v).fget f i = v % 2 ^ (f.hi + 1 - f.lo) := by
  unfold Dev.fget Dev.fset
  rw [rget_mark, rget_rset_self h, Nat.mod_eq_of_lt (setBitsOf_lt hf h64 (rget_lt s _ _)), bitsOf_setBitsOf_self hf]

theorem fget_fset_field {s : Dev} (h : tabove 0 s.regs = true) {f g : Fld} (hr : g.reg = f.reg) (hf : f.lo ≤ f.hi) (hg : g.lo ≤ g.hi)
    (h64 : f.hi < 64) (hd : g.hi < f.lo ∨ f.hi < g.lo) (i v : Nat) : (s.fset f i v).fget g i = s.fget g i := by
  unfold Dev.fget Dev.fset
  rw [rget_mark, hr, rget_rset_self h, Nat.mod_eq_of_lt (setBitsOf_lt hf h64 (rget_lt s _ _))]
  rcases hd with hd | hd
  · exact bitsOf_setBitsOf_below hf hg hd
  · exact bitsOf_setBitsOf_above hf hd

theorem fget_fset_ne {s : Dev} (h : tabove 0 s.regs = true) {f g : Fld} {i j v : Nat} (hk : regKey g.reg j ≠ regKey f.reg i) :
    (s.fset f i v).fget g j = s.fget g j := by
  unfold Dev.fget Dev.fset
  rw [rget_mark, rget_rset_ne h hk]

theorem fset_regs_up {s : Dev} (h : tabove 0 s.regs = true) (f : Fld) (i v : Nat) : tabove 0 (s.fset f i v).regs = true := tabove_tput h

end Sys2Proof.Machine
end

