-- ==== Sys2Proof/Laws/State.lean ====
section
/-! SUPPORT. What the named stores leave alone, field by field, and what a command's arm answers. -/
namespace Sys2Proof.Machine

@[simp] theorem Dev.rset_now (s : Dev) (r : Reg) (i v : Nat) : (s.rset r i v).now = s.now := rfl
@[simp] theorem Dev.rset_cyc (s : Dev) (r : Reg) (i v : Nat) : (s.rset r i v).cyc = s.cyc := rfl
@[simp] theorem Dev.rset_bootAt (s : Dev) (r : Reg) (i v : Nat) : (s.rset r i v).bootAt = s.bootAt := rfl
@[simp] theorem Dev.rset_ftime (s : Dev) (r : Reg) (i v : Nat) : (s.rset r i v).ftime = s.ftime := rfl
@[simp] theorem Dev.rset_sampled (s : Dev) (r : Reg) (i v : Nat) : (s.rset r i v).sampled = s.sampled := rfl
@[simp] theorem Dev.rset_free (s : Dev) (r : Reg) (i v : Nat) : (s.rset r i v).free = s.free := rfl
@[simp] theorem Dev.rset_mem (s : Dev) (r : Reg) (i v : Nat) : (s.rset r i v).mem = s.mem := rfl
@[simp] theorem Dev.rset_objs (s : Dev) (r : Reg) (i v : Nat) : (s.rset r i v).objs = s.objs := rfl
@[simp] theorem Dev.rset_flash (s : Dev) (r : Reg) (i v : Nat) : (s.rset r i v).flash = s.flash := rfl
@[simp] theorem Dev.rset_out (s : Dev) (r : Reg) (i v : Nat) : (s.rset r i v).out = s.out := rfl
@[simp] theorem Dev.rset_tel (s : Dev) (r : Reg) (i v : Nat) : (s.rset r i v).tel = s.tel := rfl
@[simp] theorem Dev.rset_fwd (s : Dev) (r : Reg) (i v : Nat) : (s.rset r i v).fwd = s.fwd := rfl
@[simp] theorem Dev.rset_arb (s : Dev) (r : Reg) (i v : Nat) : (s.rset r i v).arb = s.arb := rfl
@[simp] theorem Dev.rset_sch (s : Dev) (r : Reg) (i v : Nat) : (s.rset r i v).sch = s.sch := rfl
@[simp] theorem Dev.rset_xing (s : Dev) (r : Reg) (i v : Nat) : (s.rset r i v).xing = s.xing := rfl
@[simp] theorem Dev.rset_rt (s : Dev) (r : Reg) (i v : Nat) : (s.rset r i v).rt = s.rt := rfl
@[simp] theorem Dev.rset_dl (s : Dev) (r : Reg) (i v : Nat) : (s.rset r i v).dl = s.dl := rfl
@[simp] theorem Dev.rset_pci (s : Dev) (r : Reg) (i v : Nat) : (s.rset r i v).pci = s.pci := rfl
@[simp] theorem Dev.rset_bl (s : Dev) (r : Reg) (i v : Nat) : (s.rset r i v).bl = s.bl := rfl
@[simp] theorem Dev.rset_ln (s : Dev) (r : Reg) (i v : Nat) : (s.rset r i v).ln = s.ln := rfl
@[simp] theorem Dev.rset_sf (s : Dev) (r : Reg) (i v : Nat) : (s.rset r i v).sf = s.sf := rfl
@[simp] theorem Dev.rset_eng (s : Dev) (r : Reg) (i v : Nat) : (s.rset r i v).eng = s.eng := rfl
@[simp] theorem Dev.rset_coll (s : Dev) (r : Reg) (i v : Nat) : (s.rset r i v).coll = s.coll := rfl
@[simp] theorem Dev.rset_svc (s : Dev) (r : Reg) (i v : Nat) : (s.rset r i v).svc = s.svc := rfl
@[simp] theorem Dev.rset_trust (s : Dev) (r : Reg) (i v : Nat) : (s.rset r i v).trust = s.trust := rfl
@[simp] theorem Dev.rset_pe (s : Dev) (r : Reg) (i v : Nat) : (s.rset r i v).pe = s.pe := rfl

@[simp] theorem Dev.mark_now (s : Dev) (r : Reg) (i bits : Nat) : (s.mark r i bits).now = s.now := rfl
@[simp] theorem Dev.mark_bootAt (s : Dev) (r : Reg) (i bits : Nat) : (s.mark r i bits).bootAt = s.bootAt := rfl
@[simp] theorem Dev.mark_ftime (s : Dev) (r : Reg) (i bits : Nat) : (s.mark r i bits).ftime = s.ftime := rfl
@[simp] theorem Dev.mark_sampled (s : Dev) (r : Reg) (i bits : Nat) : (s.mark r i bits).sampled = s.sampled := rfl
@[simp] theorem Dev.mark_free (s : Dev) (r : Reg) (i bits : Nat) : (s.mark r i bits).free = s.free := rfl
@[simp] theorem Dev.mark_regs (s : Dev) (r : Reg) (i bits : Nat) : (s.mark r i bits).regs = s.regs := rfl
@[simp] theorem Dev.mark_mem (s : Dev) (r : Reg) (i bits : Nat) : (s.mark r i bits).mem = s.mem := rfl
@[simp] theorem Dev.mark_objs (s : Dev) (r : Reg) (i bits : Nat) : (s.mark r i bits).objs = s.objs := rfl
@[simp] theorem Dev.mark_flash (s : Dev) (r : Reg) (i bits : Nat) : (s.mark r i bits).flash = s.flash := rfl
@[simp] theorem Dev.mark_out (s : Dev) (r : Reg) (i bits : Nat) : (s.mark r i bits).out = s.out := rfl
@[simp] theorem Dev.mark_tel (s : Dev) (r : Reg) (i bits : Nat) : (s.mark r i bits).tel = s.tel := rfl
@[simp] theorem Dev.mark_fwd (s : Dev) (r : Reg) (i bits : Nat) : (s.mark r i bits).fwd = s.fwd := rfl
@[simp] theorem Dev.mark_arb (s : Dev) (r : Reg) (i bits : Nat) : (s.mark r i bits).arb = s.arb := rfl
@[simp] theorem Dev.mark_sch (s : Dev) (r : Reg) (i bits : Nat) : (s.mark r i bits).sch = s.sch := rfl
@[simp] theorem Dev.mark_xing (s : Dev) (r : Reg) (i bits : Nat) : (s.mark r i bits).xing = s.xing := rfl
@[simp] theorem Dev.mark_rt (s : Dev) (r : Reg) (i bits : Nat) : (s.mark r i bits).rt = s.rt := rfl
@[simp] theorem Dev.mark_dl (s : Dev) (r : Reg) (i bits : Nat) : (s.mark r i bits).dl = s.dl := rfl
@[simp] theorem Dev.mark_pci (s : Dev) (r : Reg) (i bits : Nat) : (s.mark r i bits).pci = s.pci := rfl
@[simp] theorem Dev.mark_bl (s : Dev) (r : Reg) (i bits : Nat) : (s.mark r i bits).bl = s.bl := rfl
@[simp] theorem Dev.mark_ln (s : Dev) (r : Reg) (i bits : Nat) : (s.mark r i bits).ln = s.ln := rfl
@[simp] theorem Dev.mark_sf (s : Dev) (r : Reg) (i bits : Nat) : (s.mark r i bits).sf = s.sf := rfl
@[simp] theorem Dev.mark_eng (s : Dev) (r : Reg) (i bits : Nat) : (s.mark r i bits).eng = s.eng := rfl
@[simp] theorem Dev.mark_coll (s : Dev) (r : Reg) (i bits : Nat) : (s.mark r i bits).coll = s.coll := rfl
@[simp] theorem Dev.mark_svc (s : Dev) (r : Reg) (i bits : Nat) : (s.mark r i bits).svc = s.svc := rfl
@[simp] theorem Dev.mark_trust (s : Dev) (r : Reg) (i bits : Nat) : (s.mark r i bits).trust = s.trust := rfl
@[simp] theorem Dev.mark_pe (s : Dev) (r : Reg) (i bits : Nat) : (s.mark r i bits).pe = s.pe := rfl

@[simp] theorem Dev.fset_now (s : Dev) (f : Fld) (i v : Nat) : (s.fset f i v).now = s.now := rfl
@[simp] theorem Dev.fset_bootAt (s : Dev) (f : Fld) (i v : Nat) : (s.fset f i v).bootAt = s.bootAt := rfl
@[simp] theorem Dev.fset_ftime (s : Dev) (f : Fld) (i v : Nat) : (s.fset f i v).ftime = s.ftime := rfl
@[simp] theorem Dev.fset_sampled (s : Dev) (f : Fld) (i v : Nat) : (s.fset f i v).sampled = s.sampled := rfl
@[simp] theorem Dev.fset_free (s : Dev) (f : Fld) (i v : Nat) : (s.fset f i v).free = s.free := rfl
@[simp] theorem Dev.fset_mem (s : Dev) (f : Fld) (i v : Nat) : (s.fset f i v).mem = s.mem := rfl
@[simp] theorem Dev.fset_objs (s : Dev) (f : Fld) (i v : Nat) : (s.fset f i v).objs = s.objs := rfl
@[simp] theorem Dev.fset_flash (s : Dev) (f : Fld) (i v : Nat) : (s.fset f i v).flash = s.flash := rfl
@[simp] theorem Dev.fset_out (s : Dev) (f : Fld) (i v : Nat) : (s.fset f i v).out = s.out := rfl
@[simp] theorem Dev.fset_tel (s : Dev) (f : Fld) (i v : Nat) : (s.fset f i v).tel = s.tel := rfl
@[simp] theorem Dev.fset_fwd (s : Dev) (f : Fld) (i v : Nat) : (s.fset f i v).fwd = s.fwd := rfl
@[simp] theorem Dev.fset_arb (s : Dev) (f : Fld) (i v : Nat) : (s.fset f i v).arb = s.arb := rfl
@[simp] theorem Dev.fset_sch (s : Dev) (f : Fld) (i v : Nat) : (s.fset f i v).sch = s.sch := rfl
@[simp] theorem Dev.fset_xing (s : Dev) (f : Fld) (i v : Nat) : (s.fset f i v).xing = s.xing := rfl
@[simp] theorem Dev.fset_rt (s : Dev) (f : Fld) (i v : Nat) : (s.fset f i v).rt = s.rt := rfl
@[simp] theorem Dev.fset_dl (s : Dev) (f : Fld) (i v : Nat) : (s.fset f i v).dl = s.dl := rfl
@[simp] theorem Dev.fset_pci (s : Dev) (f : Fld) (i v : Nat) : (s.fset f i v).pci = s.pci := rfl
@[simp] theorem Dev.fset_bl (s : Dev) (f : Fld) (i v : Nat) : (s.fset f i v).bl = s.bl := rfl
@[simp] theorem Dev.fset_ln (s : Dev) (f : Fld) (i v : Nat) : (s.fset f i v).ln = s.ln := rfl
@[simp] theorem Dev.fset_sf (s : Dev) (f : Fld) (i v : Nat) : (s.fset f i v).sf = s.sf := rfl
@[simp] theorem Dev.fset_eng (s : Dev) (f : Fld) (i v : Nat) : (s.fset f i v).eng = s.eng := rfl
@[simp] theorem Dev.fset_coll (s : Dev) (f : Fld) (i v : Nat) : (s.fset f i v).coll = s.coll := rfl
@[simp] theorem Dev.fset_svc (s : Dev) (f : Fld) (i v : Nat) : (s.fset f i v).svc = s.svc := rfl
@[simp] theorem Dev.fset_trust (s : Dev) (f : Fld) (i v : Nat) : (s.fset f i v).trust = s.trust := rfl
@[simp] theorem Dev.fset_pe (s : Dev) (f : Fld) (i v : Nat) : (s.fset f i v).pe = s.pe := rfl

@[simp] theorem Dev.rclear_now (s : Dev) (r : Reg) (i : Nat) : (s.rclear r i).now = s.now := rfl
@[simp] theorem Dev.rclear_cyc (s : Dev) (r : Reg) (i : Nat) : (s.rclear r i).cyc = s.cyc := rfl
@[simp] theorem Dev.rclear_bootAt (s : Dev) (r : Reg) (i : Nat) : (s.rclear r i).bootAt = s.bootAt := rfl
@[simp] theorem Dev.rclear_ftime (s : Dev) (r : Reg) (i : Nat) : (s.rclear r i).ftime = s.ftime := rfl
@[simp] theorem Dev.rclear_sampled (s : Dev) (r : Reg) (i : Nat) : (s.rclear r i).sampled = s.sampled := rfl
@[simp] theorem Dev.rclear_free (s : Dev) (r : Reg) (i : Nat) : (s.rclear r i).free = s.free := rfl
@[simp] theorem Dev.rclear_mem (s : Dev) (r : Reg) (i : Nat) : (s.rclear r i).mem = s.mem := rfl
@[simp] theorem Dev.rclear_objs (s : Dev) (r : Reg) (i : Nat) : (s.rclear r i).objs = s.objs := rfl
@[simp] theorem Dev.rclear_flash (s : Dev) (r : Reg) (i : Nat) : (s.rclear r i).flash = s.flash := rfl
@[simp] theorem Dev.rclear_out (s : Dev) (r : Reg) (i : Nat) : (s.rclear r i).out = s.out := rfl
@[simp] theorem Dev.rclear_tel (s : Dev) (r : Reg) (i : Nat) : (s.rclear r i).tel = s.tel := rfl
@[simp] theorem Dev.rclear_fwd (s : Dev) (r : Reg) (i : Nat) : (s.rclear r i).fwd = s.fwd := rfl
@[simp] theorem Dev.rclear_arb (s : Dev) (r : Reg) (i : Nat) : (s.rclear r i).arb = s.arb := rfl
@[simp] theorem Dev.rclear_sch (s : Dev) (r : Reg) (i : Nat) : (s.rclear r i).sch = s.sch := rfl
@[simp] theorem Dev.rclear_xing (s : Dev) (r : Reg) (i : Nat) : (s.rclear r i).xing = s.xing := rfl
@[simp] theorem Dev.rclear_rt (s : Dev) (r : Reg) (i : Nat) : (s.rclear r i).rt = s.rt := rfl
@[simp] theorem Dev.rclear_dl (s : Dev) (r : Reg) (i : Nat) : (s.rclear r i).dl = s.dl := rfl
@[simp] theorem Dev.rclear_pci (s : Dev) (r : Reg) (i : Nat) : (s.rclear r i).pci = s.pci := rfl
@[simp] theorem Dev.rclear_bl (s : Dev) (r : Reg) (i : Nat) : (s.rclear r i).bl = s.bl := rfl
@[simp] theorem Dev.rclear_ln (s : Dev) (r : Reg) (i : Nat) : (s.rclear r i).ln = s.ln := rfl
@[simp] theorem Dev.rclear_sf (s : Dev) (r : Reg) (i : Nat) : (s.rclear r i).sf = s.sf := rfl
@[simp] theorem Dev.rclear_eng (s : Dev) (r : Reg) (i : Nat) : (s.rclear r i).eng = s.eng := rfl
@[simp] theorem Dev.rclear_coll (s : Dev) (r : Reg) (i : Nat) : (s.rclear r i).coll = s.coll := rfl
@[simp] theorem Dev.rclear_svc (s : Dev) (r : Reg) (i : Nat) : (s.rclear r i).svc = s.svc := rfl
@[simp] theorem Dev.rclear_trust (s : Dev) (r : Reg) (i : Nat) : (s.rclear r i).trust = s.trust := rfl
@[simp] theorem Dev.rclear_pe (s : Dev) (r : Reg) (i : Nat) : (s.rclear r i).pe = s.pe := rfl

@[simp] theorem Dev.count_now (s : Dev) (r : Reg) (i n : Nat) : (s.count r i n).now = s.now := rfl
@[simp] theorem Dev.count_bootAt (s : Dev) (r : Reg) (i n : Nat) : (s.count r i n).bootAt = s.bootAt := rfl
@[simp] theorem Dev.count_ftime (s : Dev) (r : Reg) (i n : Nat) : (s.count r i n).ftime = s.ftime := rfl
@[simp] theorem Dev.count_sampled (s : Dev) (r : Reg) (i n : Nat) : (s.count r i n).sampled = s.sampled := rfl
@[simp] theorem Dev.count_free (s : Dev) (r : Reg) (i n : Nat) : (s.count r i n).free = s.free := rfl
@[simp] theorem Dev.count_mem (s : Dev) (r : Reg) (i n : Nat) : (s.count r i n).mem = s.mem := rfl
@[simp] theorem Dev.count_objs (s : Dev) (r : Reg) (i n : Nat) : (s.count r i n).objs = s.objs := rfl
@[simp] theorem Dev.count_flash (s : Dev) (r : Reg) (i n : Nat) : (s.count r i n).flash = s.flash := rfl
@[simp] theorem Dev.count_out (s : Dev) (r : Reg) (i n : Nat) : (s.count r i n).out = s.out := rfl
@[simp] theorem Dev.count_tel (s : Dev) (r : Reg) (i n : Nat) : (s.count r i n).tel = s.tel := rfl
@[simp] theorem Dev.count_fwd (s : Dev) (r : Reg) (i n : Nat) : (s.count r i n).fwd = s.fwd := rfl
@[simp] theorem Dev.count_arb (s : Dev) (r : Reg) (i n : Nat) : (s.count r i n).arb = s.arb := rfl
@[simp] theorem Dev.count_sch (s : Dev) (r : Reg) (i n : Nat) : (s.count r i n).sch = s.sch := rfl
@[simp] theorem Dev.count_xing (s : Dev) (r : Reg) (i n : Nat) : (s.count r i n).xing = s.xing := rfl
@[simp] theorem Dev.count_rt (s : Dev) (r : Reg) (i n : Nat) : (s.count r i n).rt = s.rt := rfl
@[simp] theorem Dev.count_dl (s : Dev) (r : Reg) (i n : Nat) : (s.count r i n).dl = s.dl := rfl
@[simp] theorem Dev.count_pci (s : Dev) (r : Reg) (i n : Nat) : (s.count r i n).pci = s.pci := rfl
@[simp] theorem Dev.count_bl (s : Dev) (r : Reg) (i n : Nat) : (s.count r i n).bl = s.bl := rfl
@[simp] theorem Dev.count_ln (s : Dev) (r : Reg) (i n : Nat) : (s.count r i n).ln = s.ln := rfl
@[simp] theorem Dev.count_sf (s : Dev) (r : Reg) (i n : Nat) : (s.count r i n).sf = s.sf := rfl
@[simp] theorem Dev.count_eng (s : Dev) (r : Reg) (i n : Nat) : (s.count r i n).eng = s.eng := rfl
@[simp] theorem Dev.count_coll (s : Dev) (r : Reg) (i n : Nat) : (s.count r i n).coll = s.coll := rfl
@[simp] theorem Dev.count_svc (s : Dev) (r : Reg) (i n : Nat) : (s.count r i n).svc = s.svc := rfl
@[simp] theorem Dev.count_trust (s : Dev) (r : Reg) (i n : Nat) : (s.count r i n).trust = s.trust := rfl
@[simp] theorem Dev.count_pe (s : Dev) (r : Reg) (i n : Nat) : (s.count r i n).pe = s.pe := rfl

@[simp] theorem Dev.memWrite_now (s : Dev) (a : Nat) (l : List Byte) : (s.memWrite a l).now = s.now := rfl
@[simp] theorem Dev.memWrite_cyc (s : Dev) (a : Nat) (l : List Byte) : (s.memWrite a l).cyc = s.cyc := rfl
@[simp] theorem Dev.memWrite_bootAt (s : Dev) (a : Nat) (l : List Byte) : (s.memWrite a l).bootAt = s.bootAt := rfl
@[simp] theorem Dev.memWrite_ftime (s : Dev) (a : Nat) (l : List Byte) : (s.memWrite a l).ftime = s.ftime := rfl
@[simp] theorem Dev.memWrite_sampled (s : Dev) (a : Nat) (l : List Byte) : (s.memWrite a l).sampled = s.sampled := rfl
@[simp] theorem Dev.memWrite_free (s : Dev) (a : Nat) (l : List Byte) : (s.memWrite a l).free = s.free := rfl
@[simp] theorem Dev.memWrite_regs (s : Dev) (a : Nat) (l : List Byte) : (s.memWrite a l).regs = s.regs := rfl
@[simp] theorem Dev.memWrite_objs (s : Dev) (a : Nat) (l : List Byte) : (s.memWrite a l).objs = s.objs := rfl
@[simp] theorem Dev.memWrite_flash (s : Dev) (a : Nat) (l : List Byte) : (s.memWrite a l).flash = s.flash := rfl
@[simp] theorem Dev.memWrite_out (s : Dev) (a : Nat) (l : List Byte) : (s.memWrite a l).out = s.out := rfl
@[simp] theorem Dev.memWrite_tel (s : Dev) (a : Nat) (l : List Byte) : (s.memWrite a l).tel = s.tel := rfl
@[simp] theorem Dev.memWrite_fwd (s : Dev) (a : Nat) (l : List Byte) : (s.memWrite a l).fwd = s.fwd := rfl
@[simp] theorem Dev.memWrite_arb (s : Dev) (a : Nat) (l : List Byte) : (s.memWrite a l).arb = s.arb := rfl
@[simp] theorem Dev.memWrite_sch (s : Dev) (a : Nat) (l : List Byte) : (s.memWrite a l).sch = s.sch := rfl
@[simp] theorem Dev.memWrite_xing (s : Dev) (a : Nat) (l : List Byte) : (s.memWrite a l).xing = s.xing := rfl
@[simp] theorem Dev.memWrite_rt (s : Dev) (a : Nat) (l : List Byte) : (s.memWrite a l).rt = s.rt := rfl
@[simp] theorem Dev.memWrite_dl (s : Dev) (a : Nat) (l : List Byte) : (s.memWrite a l).dl = s.dl := rfl
@[simp] theorem Dev.memWrite_pci (s : Dev) (a : Nat) (l : List Byte) : (s.memWrite a l).pci = s.pci := rfl
@[simp] theorem Dev.memWrite_bl (s : Dev) (a : Nat) (l : List Byte) : (s.memWrite a l).bl = s.bl := rfl
@[simp] theorem Dev.memWrite_ln (s : Dev) (a : Nat) (l : List Byte) : (s.memWrite a l).ln = s.ln := rfl
@[simp] theorem Dev.memWrite_sf (s : Dev) (a : Nat) (l : List Byte) : (s.memWrite a l).sf = s.sf := rfl
@[simp] theorem Dev.memWrite_eng (s : Dev) (a : Nat) (l : List Byte) : (s.memWrite a l).eng = s.eng := rfl
@[simp] theorem Dev.memWrite_coll (s : Dev) (a : Nat) (l : List Byte) : (s.memWrite a l).coll = s.coll := rfl
@[simp] theorem Dev.memWrite_svc (s : Dev) (a : Nat) (l : List Byte) : (s.memWrite a l).svc = s.svc := rfl
@[simp] theorem Dev.memWrite_trust (s : Dev) (a : Nat) (l : List Byte) : (s.memWrite a l).trust = s.trust := rfl
@[simp] theorem Dev.memWrite_pe (s : Dev) (a : Nat) (l : List Byte) : (s.memWrite a l).pe = s.pe := rfl

@[simp] theorem Dev.oset_now (s : Dev) (i j n : Nat) : (s.oset i j n).now = s.now := rfl
@[simp] theorem Dev.oset_cyc (s : Dev) (i j n : Nat) : (s.oset i j n).cyc = s.cyc := rfl
@[simp] theorem Dev.oset_bootAt (s : Dev) (i j n : Nat) : (s.oset i j n).bootAt = s.bootAt := rfl
@[simp] theorem Dev.oset_ftime (s : Dev) (i j n : Nat) : (s.oset i j n).ftime = s.ftime := rfl
@[simp] theorem Dev.oset_sampled (s : Dev) (i j n : Nat) : (s.oset i j n).sampled = s.sampled := rfl
@[simp] theorem Dev.oset_free (s : Dev) (i j n : Nat) : (s.oset i j n).free = s.free := rfl
@[simp] theorem Dev.oset_regs (s : Dev) (i j n : Nat) : (s.oset i j n).regs = s.regs := rfl
@[simp] theorem Dev.oset_mem (s : Dev) (i j n : Nat) : (s.oset i j n).mem = s.mem := rfl
@[simp] theorem Dev.oset_flash (s : Dev) (i j n : Nat) : (s.oset i j n).flash = s.flash := rfl
@[simp] theorem Dev.oset_out (s : Dev) (i j n : Nat) : (s.oset i j n).out = s.out := rfl
@[simp] theorem Dev.oset_tel (s : Dev) (i j n : Nat) : (s.oset i j n).tel = s.tel := rfl
@[simp] theorem Dev.oset_fwd (s : Dev) (i j n : Nat) : (s.oset i j n).fwd = s.fwd := rfl
@[simp] theorem Dev.oset_arb (s : Dev) (i j n : Nat) : (s.oset i j n).arb = s.arb := rfl
@[simp] theorem Dev.oset_sch (s : Dev) (i j n : Nat) : (s.oset i j n).sch = s.sch := rfl
@[simp] theorem Dev.oset_xing (s : Dev) (i j n : Nat) : (s.oset i j n).xing = s.xing := rfl
@[simp] theorem Dev.oset_rt (s : Dev) (i j n : Nat) : (s.oset i j n).rt = s.rt := rfl
@[simp] theorem Dev.oset_dl (s : Dev) (i j n : Nat) : (s.oset i j n).dl = s.dl := rfl
@[simp] theorem Dev.oset_pci (s : Dev) (i j n : Nat) : (s.oset i j n).pci = s.pci := rfl
@[simp] theorem Dev.oset_bl (s : Dev) (i j n : Nat) : (s.oset i j n).bl = s.bl := rfl
@[simp] theorem Dev.oset_ln (s : Dev) (i j n : Nat) : (s.oset i j n).ln = s.ln := rfl
@[simp] theorem Dev.oset_sf (s : Dev) (i j n : Nat) : (s.oset i j n).sf = s.sf := rfl
@[simp] theorem Dev.oset_eng (s : Dev) (i j n : Nat) : (s.oset i j n).eng = s.eng := rfl
@[simp] theorem Dev.oset_coll (s : Dev) (i j n : Nat) : (s.oset i j n).coll = s.coll := rfl
@[simp] theorem Dev.oset_svc (s : Dev) (i j n : Nat) : (s.oset i j n).svc = s.svc := rfl
@[simp] theorem Dev.oset_trust (s : Dev) (i j n : Nat) : (s.oset i j n).trust = s.trust := rfl
@[simp] theorem Dev.oset_pe (s : Dev) (i j n : Nat) : (s.oset i j n).pe = s.pe := rfl

@[simp] theorem Dev.osetb_now (s : Dev) (i j : Nat) (b : List Byte) : (s.osetb i j b).now = s.now := rfl
@[simp] theorem Dev.osetb_cyc (s : Dev) (i j : Nat) (b : List Byte) : (s.osetb i j b).cyc = s.cyc := rfl
@[simp] theorem Dev.osetb_bootAt (s : Dev) (i j : Nat) (b : List Byte) : (s.osetb i j b).bootAt = s.bootAt := rfl
@[simp] theorem Dev.osetb_ftime (s : Dev) (i j : Nat) (b : List Byte) : (s.osetb i j b).ftime = s.ftime := rfl
@[simp] theorem Dev.osetb_sampled (s : Dev) (i j : Nat) (b : List Byte) : (s.osetb i j b).sampled = s.sampled := rfl
@[simp] theorem Dev.osetb_free (s : Dev) (i j : Nat) (b : List Byte) : (s.osetb i j b).free = s.free := rfl
@[simp] theorem Dev.osetb_regs (s : Dev) (i j : Nat) (b : List Byte) : (s.osetb i j b).regs = s.regs := rfl
@[simp] theorem Dev.osetb_mem (s : Dev) (i j : Nat) (b : List Byte) : (s.osetb i j b).mem = s.mem := rfl
@[simp] theorem Dev.osetb_flash (s : Dev) (i j : Nat) (b : List Byte) : (s.osetb i j b).flash = s.flash := rfl
@[simp] theorem Dev.osetb_out (s : Dev) (i j : Nat) (b : List Byte) : (s.osetb i j b).out = s.out := rfl
@[simp] theorem Dev.osetb_tel (s : Dev) (i j : Nat) (b : List Byte) : (s.osetb i j b).tel = s.tel := rfl
@[simp] theorem Dev.osetb_fwd (s : Dev) (i j : Nat) (b : List Byte) : (s.osetb i j b).fwd = s.fwd := rfl
@[simp] theorem Dev.osetb_arb (s : Dev) (i j : Nat) (b : List Byte) : (s.osetb i j b).arb = s.arb := rfl
@[simp] theorem Dev.osetb_sch (s : Dev) (i j : Nat) (b : List Byte) : (s.osetb i j b).sch = s.sch := rfl
@[simp] theorem Dev.osetb_xing (s : Dev) (i j : Nat) (b : List Byte) : (s.osetb i j b).xing = s.xing := rfl
@[simp] theorem Dev.osetb_rt (s : Dev) (i j : Nat) (b : List Byte) : (s.osetb i j b).rt = s.rt := rfl
@[simp] theorem Dev.osetb_dl (s : Dev) (i j : Nat) (b : List Byte) : (s.osetb i j b).dl = s.dl := rfl
@[simp] theorem Dev.osetb_pci (s : Dev) (i j : Nat) (b : List Byte) : (s.osetb i j b).pci = s.pci := rfl
@[simp] theorem Dev.osetb_bl (s : Dev) (i j : Nat) (b : List Byte) : (s.osetb i j b).bl = s.bl := rfl
@[simp] theorem Dev.osetb_ln (s : Dev) (i j : Nat) (b : List Byte) : (s.osetb i j b).ln = s.ln := rfl
@[simp] theorem Dev.osetb_sf (s : Dev) (i j : Nat) (b : List Byte) : (s.osetb i j b).sf = s.sf := rfl
@[simp] theorem Dev.osetb_eng (s : Dev) (i j : Nat) (b : List Byte) : (s.osetb i j b).eng = s.eng := rfl
@[simp] theorem Dev.osetb_coll (s : Dev) (i j : Nat) (b : List Byte) : (s.osetb i j b).coll = s.coll := rfl
@[simp] theorem Dev.osetb_svc (s : Dev) (i j : Nat) (b : List Byte) : (s.osetb i j b).svc = s.svc := rfl
@[simp] theorem Dev.osetb_trust (s : Dev) (i j : Nat) (b : List Byte) : (s.osetb i j b).trust = s.trust := rfl
@[simp] theorem Dev.osetb_pe (s : Dev) (i j : Nat) (b : List Byte) : (s.osetb i j b).pe = s.pe := rfl

@[simp] theorem Dev.emit_now (s : Dev) (o : Out) : (s.emit o).now = s.now := rfl
@[simp] theorem Dev.emit_cyc (s : Dev) (o : Out) : (s.emit o).cyc = s.cyc := rfl
@[simp] theorem Dev.emit_bootAt (s : Dev) (o : Out) : (s.emit o).bootAt = s.bootAt := rfl
@[simp] theorem Dev.emit_ftime (s : Dev) (o : Out) : (s.emit o).ftime = s.ftime := rfl
@[simp] theorem Dev.emit_sampled (s : Dev) (o : Out) : (s.emit o).sampled = s.sampled := rfl
@[simp] theorem Dev.emit_free (s : Dev) (o : Out) : (s.emit o).free = s.free := rfl
@[simp] theorem Dev.emit_regs (s : Dev) (o : Out) : (s.emit o).regs = s.regs := rfl
@[simp] theorem Dev.emit_mem (s : Dev) (o : Out) : (s.emit o).mem = s.mem := rfl
@[simp] theorem Dev.emit_objs (s : Dev) (o : Out) : (s.emit o).objs = s.objs := rfl
@[simp] theorem Dev.emit_flash (s : Dev) (o : Out) : (s.emit o).flash = s.flash := rfl
@[simp] theorem Dev.emit_tel (s : Dev) (o : Out) : (s.emit o).tel = s.tel := rfl
@[simp] theorem Dev.emit_fwd (s : Dev) (o : Out) : (s.emit o).fwd = s.fwd := rfl
@[simp] theorem Dev.emit_arb (s : Dev) (o : Out) : (s.emit o).arb = s.arb := rfl
@[simp] theorem Dev.emit_sch (s : Dev) (o : Out) : (s.emit o).sch = s.sch := rfl
@[simp] theorem Dev.emit_xing (s : Dev) (o : Out) : (s.emit o).xing = s.xing := rfl
@[simp] theorem Dev.emit_rt (s : Dev) (o : Out) : (s.emit o).rt = s.rt := rfl
@[simp] theorem Dev.emit_dl (s : Dev) (o : Out) : (s.emit o).dl = s.dl := rfl
@[simp] theorem Dev.emit_pci (s : Dev) (o : Out) : (s.emit o).pci = s.pci := rfl
@[simp] theorem Dev.emit_bl (s : Dev) (o : Out) : (s.emit o).bl = s.bl := rfl
@[simp] theorem Dev.emit_ln (s : Dev) (o : Out) : (s.emit o).ln = s.ln := rfl
@[simp] theorem Dev.emit_sf (s : Dev) (o : Out) : (s.emit o).sf = s.sf := rfl
@[simp] theorem Dev.emit_eng (s : Dev) (o : Out) : (s.emit o).eng = s.eng := rfl
@[simp] theorem Dev.emit_coll (s : Dev) (o : Out) : (s.emit o).coll = s.coll := rfl
@[simp] theorem Dev.emit_svc (s : Dev) (o : Out) : (s.emit o).svc = s.svc := rfl
@[simp] theorem Dev.emit_trust (s : Dev) (o : Out) : (s.emit o).trust = s.trust := rfl
@[simp] theorem Dev.emit_pe (s : Dev) (o : Out) : (s.emit o).pe = s.pe := rfl

theorem each_keeps {α β : Type} (p : Dev → β) {f : Dev → α → Dev} (h : ∀ s x, p (f s x) = p s) (l : List α) (s : Dev) :
    p (each l s f) = p s := by
  induction l generalizing s with
  | nil => rfl
  | cons x l ih => exact (ih (f s x)).trans (h s x)

@[simp] theorem Dev.fsets_now (s : Dev) (i : Nat) (l : List (Fld × Nat)) : (s.fsets i l).now = s.now :=
  each_keeps (·.now) (f := fun s (p : Fld × Nat) => s.fset p.1 i p.2) (fun s p => Dev.fset_now s p.1 i p.2) l s
@[simp] theorem Dev.fsets_bootAt (s : Dev) (i : Nat) (l : List (Fld × Nat)) : (s.fsets i l).bootAt = s.bootAt :=
  each_keeps (·.bootAt) (f := fun s (p : Fld × Nat) => s.fset p.1 i p.2) (fun s p => Dev.fset_bootAt s p.1 i p.2) l s
@[simp] theorem Dev.fsets_ftime (s : Dev) (i : Nat) (l : List (Fld × Nat)) : (s.fsets i l).ftime = s.ftime :=
  each_keeps (·.ftime) (f := fun s (p : Fld × Nat) => s.fset p.1 i p.2) (fun s p => Dev.fset_ftime s p.1 i p.2) l s
@[simp] theorem Dev.fsets_sampled (s : Dev) (i : Nat) (l : List (Fld × Nat)) : (s.fsets i l).sampled = s.sampled :=
  each_keeps (·.sampled) (f := fun s (p : Fld × Nat) => s.fset p.1 i p.2) (fun s p => Dev.fset_sampled s p.1 i p.2) l s
@[simp] theorem Dev.fsets_free (s : Dev) (i : Nat) (l : List (Fld × Nat)) : (s.fsets i l).free = s.free :=
  each_keeps (·.free) (f := fun s (p : Fld × Nat) => s.fset p.1 i p.2) (fun s p => Dev.fset_free s p.1 i p.2) l s
@[simp] theorem Dev.fsets_mem (s : Dev) (i : Nat) (l : List (Fld × Nat)) : (s.fsets i l).mem = s.mem :=
  each_keeps (·.mem) (f := fun s (p : Fld × Nat) => s.fset p.1 i p.2) (fun s p => Dev.fset_mem s p.1 i p.2) l s
@[simp] theorem Dev.fsets_objs (s : Dev) (i : Nat) (l : List (Fld × Nat)) : (s.fsets i l).objs = s.objs :=
  each_keeps (·.objs) (f := fun s (p : Fld × Nat) => s.fset p.1 i p.2) (fun s p => Dev.fset_objs s p.1 i p.2) l s
@[simp] theorem Dev.fsets_flash (s : Dev) (i : Nat) (l : List (Fld × Nat)) : (s.fsets i l).flash = s.flash :=
  each_keeps (·.flash) (f := fun s (p : Fld × Nat) => s.fset p.1 i p.2) (fun s p => Dev.fset_flash s p.1 i p.2) l s
@[simp] theorem Dev.fsets_out (s : Dev) (i : Nat) (l : List (Fld × Nat)) : (s.fsets i l).out = s.out :=
  each_keeps (·.out) (f := fun s (p : Fld × Nat) => s.fset p.1 i p.2) (fun s p => Dev.fset_out s p.1 i p.2) l s
@[simp] theorem Dev.fsets_tel (s : Dev) (i : Nat) (l : List (Fld × Nat)) : (s.fsets i l).tel = s.tel :=
  each_keeps (·.tel) (f := fun s (p : Fld × Nat) => s.fset p.1 i p.2) (fun s p => Dev.fset_tel s p.1 i p.2) l s
@[simp] theorem Dev.fsets_fwd (s : Dev) (i : Nat) (l : List (Fld × Nat)) : (s.fsets i l).fwd = s.fwd :=
  each_keeps (·.fwd) (f := fun s (p : Fld × Nat) => s.fset p.1 i p.2) (fun s p => Dev.fset_fwd s p.1 i p.2) l s
@[simp] theorem Dev.fsets_arb (s : Dev) (i : Nat) (l : List (Fld × Nat)) : (s.fsets i l).arb = s.arb :=
  each_keeps (·.arb) (f := fun s (p : Fld × Nat) => s.fset p.1 i p.2) (fun s p => Dev.fset_arb s p.1 i p.2) l s
@[simp] theorem Dev.fsets_sch (s : Dev) (i : Nat) (l : List (Fld × Nat)) : (s.fsets i l).sch = s.sch :=
  each_keeps (·.sch) (f := fun s (p : Fld × Nat) => s.fset p.1 i p.2) (fun s p => Dev.fset_sch s p.1 i p.2) l s
@[simp] theorem Dev.fsets_xing (s : Dev) (i : Nat) (l : List (Fld × Nat)) : (s.fsets i l).xing = s.xing :=
  each_keeps (·.xing) (f := fun s (p : Fld × Nat) => s.fset p.1 i p.2) (fun s p => Dev.fset_xing s p.1 i p.2) l s
@[simp] theorem Dev.fsets_rt (s : Dev) (i : Nat) (l : List (Fld × Nat)) : (s.fsets i l).rt = s.rt :=
  each_keeps (·.rt) (f := fun s (p : Fld × Nat) => s.fset p.1 i p.2) (fun s p => Dev.fset_rt s p.1 i p.2) l s
@[simp] theorem Dev.fsets_dl (s : Dev) (i : Nat) (l : List (Fld × Nat)) : (s.fsets i l).dl = s.dl :=
  each_keeps (·.dl) (f := fun s (p : Fld × Nat) => s.fset p.1 i p.2) (fun s p => Dev.fset_dl s p.1 i p.2) l s
@[simp] theorem Dev.fsets_pci (s : Dev) (i : Nat) (l : List (Fld × Nat)) : (s.fsets i l).pci = s.pci :=
  each_keeps (·.pci) (f := fun s (p : Fld × Nat) => s.fset p.1 i p.2) (fun s p => Dev.fset_pci s p.1 i p.2) l s
@[simp] theorem Dev.fsets_bl (s : Dev) (i : Nat) (l : List (Fld × Nat)) : (s.fsets i l).bl = s.bl :=
  each_keeps (·.bl) (f := fun s (p : Fld × Nat) => s.fset p.1 i p.2) (fun s p => Dev.fset_bl s p.1 i p.2) l s
@[simp] theorem Dev.fsets_ln (s : Dev) (i : Nat) (l : List (Fld × Nat)) : (s.fsets i l).ln = s.ln :=
  each_keeps (·.ln) (f := fun s (p : Fld × Nat) => s.fset p.1 i p.2) (fun s p => Dev.fset_ln s p.1 i p.2) l s
@[simp] theorem Dev.fsets_sf (s : Dev) (i : Nat) (l : List (Fld × Nat)) : (s.fsets i l).sf = s.sf :=
  each_keeps (·.sf) (f := fun s (p : Fld × Nat) => s.fset p.1 i p.2) (fun s p => Dev.fset_sf s p.1 i p.2) l s
@[simp] theorem Dev.fsets_eng (s : Dev) (i : Nat) (l : List (Fld × Nat)) : (s.fsets i l).eng = s.eng :=
  each_keeps (·.eng) (f := fun s (p : Fld × Nat) => s.fset p.1 i p.2) (fun s p => Dev.fset_eng s p.1 i p.2) l s
@[simp] theorem Dev.fsets_coll (s : Dev) (i : Nat) (l : List (Fld × Nat)) : (s.fsets i l).coll = s.coll :=
  each_keeps (·.coll) (f := fun s (p : Fld × Nat) => s.fset p.1 i p.2) (fun s p => Dev.fset_coll s p.1 i p.2) l s
@[simp] theorem Dev.fsets_svc (s : Dev) (i : Nat) (l : List (Fld × Nat)) : (s.fsets i l).svc = s.svc :=
  each_keeps (·.svc) (f := fun s (p : Fld × Nat) => s.fset p.1 i p.2) (fun s p => Dev.fset_svc s p.1 i p.2) l s
@[simp] theorem Dev.fsets_trust (s : Dev) (i : Nat) (l : List (Fld × Nat)) : (s.fsets i l).trust = s.trust :=
  each_keeps (·.trust) (f := fun s (p : Fld × Nat) => s.fset p.1 i p.2) (fun s p => Dev.fset_trust s p.1 i p.2) l s
@[simp] theorem Dev.fsets_pe (s : Dev) (i : Nat) (l : List (Fld × Nat)) : (s.fsets i l).pe = s.pe :=
  each_keeps (·.pe) (f := fun s (p : Fld × Nat) => s.fset p.1 i p.2) (fun s p => Dev.fset_pe s p.1 i p.2) l s

@[simp] theorem Dev.emit_out (s : Dev) (o : Out) : (s.emit o).out = s.out ++ [o] := rfl

/-- A command's answer while the device is not OFF. -/
theorem State.act_on {s : State} {f : Dev → Dev} (h : s.dev.On) : s.act f = .next { s with dev := f s.dev } := by
  simp [State.act, h]

/-- A command's answer while the device is OFF. -/
theorem State.act_off {s : State} {f : Dev → Dev} (h : s.dev.svc.state = 0) : s.act f = .next s := by
  simp [State.act, h]

/-- A command whose arm runs `f` completes with what `f` gives. -/
theorem Does.of_act {c : Instr} {f : Dev → Dev} {s t : Dev} (hc : ∀ x : State, exec c x = x.act f) (h : s.On) (e : f s = t) :
    Does c s t := fun q => by rw [hc, State.act_on h, ← e]

/-- The same for the power-entry controller's commands, which run in every device state. -/
theorem Does.of_actPe {c : Instr} {f : Dev → Dev} {s t : Dev} (hc : ∀ x : State, exec c x = x.actPe f) (e : f s = t) :
    Does c s t := fun q => by rw [hc, ← e]; rfl

end Sys2Proof.Machine
end

