-- ==== Sys2Proof/Laws/Shared.lean ====
section
/-! SUPPORT. What the shared steps of a command do, each said once: a tree message down, the end of a directed packet's path, the issue of
an operation word. -/
namespace Sys2Proof.Machine

/-- A down message of a sender and a term the switch follows. -/
theorem Dev.downMsg_followed {s : Dev} {src : TreeSrc} {m : TreeMsg} {act : Dev → Bool → Dev} (ha : s.treeAccept src = true)
    (ht : s.fget Fld.DL_DEAL_STAT.TERM 0 ≤ m.term) : s.downMsg src m act = act (s.followed src m) true := by
  unfold Dev.downMsg Dev.followed
  rw [if_pos ha]
  exact if_neg (Nat.not_lt.2 ht)

/-- A down message of a sender the switch does not follow is counted and dropped. -/
theorem Dev.downMsg_dropped {s : Dev} {src : TreeSrc} {m : TreeMsg} {act : Dev → Bool → Dev} (ha : s.treeAccept src = false) :
    s.downMsg src m act = s.count .DL_TREE_DROP_CNT 0 1 := by
  unfold Dev.downMsg; rw [if_neg (by simp [ha])]

/-- A directed packet of its command's kind at the end of its path. -/
theorem Dev.directedEnd_here {s : Dev} {port kind : Nat} {b c : List Byte} {f : Dev → List Byte → Dev} (hf : s.isFabric port = true)
    (hc : directedHop port b = some c) (hk : byteN c 0 = kind) (hl : byteN c 2 = byteN c 1) : s.directedEnd port kind b f = f s c := by
  unfold Dev.directedEnd; rw [if_neg (by simp [hf]), hc]; exact if_pos ⟨hk, hl⟩

/-- A legal operation word that may issue does what its operation does. -/
theorem Dev.runOp_issued {s : Dev} {op e : Nat} {w : OpWord} {legal : Bool} {gs vs : List Nat} {f : Dev → Dev}
    (h : s.MayIssue op e w gs vs) (hl : legal = true) (ho : opAssigned op = true := by decide) : s.runOp op e w legal gs vs f = f s := by
  obtain ⟨h1, h2, h3, h4⟩ := h
  unfold Dev.runOp
  rw [if_neg (by simp [h1]), h4]
  dsimp only
  rw [if_neg (by simp [ho]), if_neg (by simp [h2]), if_neg (by simp [h3, hl])]

/-- A word that may issue but is not legal raises fault code 1. -/
theorem Dev.runOp_illegal {s : Dev} {op e : Nat} {w : OpWord} {gs vs : List Nat} {f : Dev → Dev} (h1 : s.canIssue e = true)
    (h2 : (s.en e).regsFree gs vs = true) (h3 : (s.wordAt e).map opWordOf = some (op, w)) (ho : opAssigned op = true := by decide) :
    s.runOp op e w false gs vs f = (s.issued e).engFaultOpen e 1 := by
  unfold Dev.runOp
  rw [if_neg (by simp [h1]), h3]
  dsimp only
  rw [if_neg (by simp [ho]), if_neg (by simp [h2]), if_pos (by simp)]

/-- An operation other than the one at the pc has no effect. -/
theorem Dev.runOp_other {s : Dev} {op e : Nat} {w : OpWord} {legal : Bool} {gs vs : List Nat} {f : Dev → Dev} {x : Nat × OpWord}
    (h : (s.wordAt e).map opWordOf = some x) (ha : opAssigned x.1 = true) (hx : x ≠ (op, w)) : s.runOp op e w legal gs vs f = s := by
  unfold Dev.runOp
  by_cases hc : s.canIssue e = true
  · rw [if_neg (by simp [hc]), h]
    dsimp only
    rw [if_neg (by simp [ha]), if_pos (Or.inl hx)]
  · exact if_pos (by simp [hc])

/-- An engine that has a run, after a change that keeps it. -/
theorem Dev.en_modEn {s : Dev} {e : Nat} {f : Eng → Eng} (hr : (s.en e).run ≠ none) (hf : (f (s.en e)).run = (s.en e).run) :
    (s.modEn e f).en e = f (s.en e) := by
  have hn : f (s.en e) ≠ ({} : Eng) := fun h => hr (by rw [← hf, h])
  show tget {} (tput {} s.eng.eng e (f (s.en e))) e = f (s.en e)
  unfold tput tget
  rw [if_neg hn, tfind_tins, if_pos rfl]; rfl

/-- What the sampler never changes: an engine's registers, its run, the slots, the runs and the time. -/
def Eng.Alike (s t : Dev) (e : Nat) : Prop :=
  (t.en e).g = (s.en e).g ∧ (t.en e).v = (s.en e).v ∧ (t.en e).run = (s.en e).run ∧ t.eng.slots = s.eng.slots ∧ t.eng.runs = s.eng.runs ∧
    t.now = s.now

theorem Eng.Alike.trans {s t u : Dev} {e : Nat} (h : Eng.Alike s t e) (k : Eng.Alike t u e) : Eng.Alike s u e :=
  ⟨k.1.trans h.1, k.2.1.trans h.2.1, k.2.2.1.trans h.2.2.1, k.2.2.2.1.trans h.2.2.2.1, k.2.2.2.2.1.trans h.2.2.2.2.1,
    k.2.2.2.2.2.trans h.2.2.2.2.2⟩

theorem Eng.Alike.modEn {s : Dev} {e : Nat} {f : Eng → Eng} (hr : (s.en e).run ≠ none) (hg : (f (s.en e)).g = (s.en e).g)
    (hv : (f (s.en e)).v = (s.en e).v) (hf : (f (s.en e)).run = (s.en e).run) : Eng.Alike s (s.modEn e f) e := by
  have h := Dev.en_modEn hr hf
  exact ⟨by rw [h, hg], by rw [h, hv], by rw [h, hf], rfl, rfl, rfl⟩

theorem Eng.Alike.sampleCount {s : Dev} {e pc : Nat} {mem : Bool} (hr : (s.en e).run ≠ none) :
    Eng.Alike s (s.sampleCount e pc mem) e := by
  have h0 : Eng.Alike s s e := ⟨rfl, rfl, rfl, rfl, rfl, rfl⟩
  unfold Dev.sampleCount
  split
  · exact h0
  · have h1 : Eng.Alike s (if ¬ (s.en e).smpPcs.isEmpty ∧ ¬ mem ∧ (s.en e).smpPcs.length < 7 then
        s.modEn e fun x => { x with smpPcs := x.smpPcs ++ [pc] } else s) e := by
      split
      · exact Eng.Alike.modEn hr rfl rfl rfl
      · exact h0
    revert h1
    dsimp only
    generalize (if ¬ (s.en e).smpPcs.isEmpty ∧ ¬ mem ∧ (s.en e).smpPcs.length < 7 then
        s.modEn e fun x => { x with smpPcs := x.smpPcs ++ [pc] } else s) = t
    intro h1
    have ht : (t.en e).run ≠ none := by rw [h1.2.2.1]; exact hr
    split
    · exact h1.trans (Eng.Alike.modEn ht rfl rfl rfl)
    · exact h1

/-- Counting an operation changes no engine register, no slot and no run. -/
theorem Dev.issued_alike {s : Dev} {e : Nat} (hr : (s.en e).run ≠ none) : Eng.Alike s (s.issued e) e := by
  have h : Eng.Alike s ((s.count .EN_OP_CNT e 1).sampleCount e (s.pc e) false) e :=
    Eng.Alike.sampleCount (s := s.count .EN_OP_CNT e 1) hr
  unfold Dev.issued
  split
  · exact h
  · exact h

/-- An engine whose word may issue has a run. -/
theorem Dev.MayIssue.run {s : Dev} {op e : Nat} {w : OpWord} {gs vs : List Nat} (h : s.MayIssue op e w gs vs) : (s.en e).run ≠ none := by
  intro hn
  have h4 := h.2.2.2
  unfold Dev.wordAt Dev.runOf at h4
  rw [hn] at h4; cases h4

/-- Counting the operation of a word that may issue changes no register, no run and no slot of its engine. -/
theorem Dev.MayIssue.alike {s : Dev} {op e : Nat} {w : OpWord} {gs vs : List Nat} (h : s.MayIssue op e w gs vs) :
    (∀ i, (s.issued e).gr e i = s.gr e i) ∧ (∀ i, (s.issued e).vr e i = s.vr e i) ∧ (s.issued e).runOf e = s.runOf e ∧
    (∀ i, (s.issued e).slotKey e i = s.slotKey e i) ∧ (∀ k, (s.issued e).accSlot k = s.accSlot k) ∧
    (s.issued e).engCyc = s.engCyc ∧ (∀ k, (s.issued e).slotVals k e = s.slotVals k e) := by
  obtain ⟨hg, hv, hr, hs, hq, ht⟩ := Dev.issued_alike h.run
  have hrun : (s.issued e).runOf e = s.runOf e := by unfold Dev.runOf; rw [hr, hq]
  have hc : (s.issued e).engCyc = s.engCyc := by unfold Dev.engCyc; rw [ht]
  have ha : ∀ k, (s.issued e).accSlot k = s.accSlot k := fun k => by unfold Dev.accSlot; rw [hs]
  refine ⟨fun i => ?_, fun i => ?_, hrun, fun i => ?_, ha, hc, fun k => ?_⟩
  · unfold Dev.gr Eng.gr; rw [hg]
  · unfold Dev.vr; rw [hv]
  · unfold Dev.slotKey; rw [hrun]
  · unfold Dev.slotVals; rw [ha, hc]

/-! Register writes -/

/-- A write that a register's state allows stores the fields it may; what it may not is kept and counted. -/
theorem Dev.regPut_plain {s : Dev} {p : Plane} {r : Reg} {inst : Nat} {x : RegWr} (hr : Reg.plain r = true)
    (hb : s.regBlocked r inst = false) (hp : p ≠ .data) : s.regPut p r inst x =
      (let old := s.rget r inst
       let asked := (s.spare r inst x).stored (regInfo r) old
       let t := s.rset r inst (s.regLimits r inst old (s.keepRunning r old asked))
       if s.keepRunning r old asked = asked then t else t.rejected) := by
  have hs : ∀ st, s.regStore p r inst x st = s.rset r inst st := by
    intro st
    have he : eventRecord r = false ∧ shadowReg r = false := by
      unfold Reg.plain at hr; simp only [Bool.and_eq_true] at hr; simpa using hr.1.1
    unfold Dev.regStore
    rw [if_neg (by simp [he.1])]
    split <;> first | exact absurd hr (by decide +kernel) | exact if_neg (by simp [he.2])
  have hm : mgmtBarred r = false := by
    unfold Reg.plain at hr; simp only [Bool.and_eq_true] at hr; simpa using hr.1.2
  unfold Dev.regPut
  dsimp only
  rw [if_neg (by simp [hp, hm]), if_neg (by simp [hb])]
  simp only [hs]

/-- A write of a register that its state keeps is counted and stores nothing (R28). -/
theorem Dev.regPut_blocked {s : Dev} {p : Plane} {r : Reg} {inst : Nat} {x : RegWr} (hr : Reg.plain r = true)
    (hb : s.regBlocked r inst = true) (hp : p ≠ .data) : s.regPut p r inst x = s.rejected := by
  have hm : mgmtBarred r = false := by
    unfold Reg.plain at hr; simp only [Bool.and_eq_true] at hr; simpa using hr.1.2
  unfold Dev.regPut
  dsimp only
  rw [if_neg (by simp [hp, hm]), if_pos hb]

/-! Requests -/

/-- A request alone in its core cycle is carried out at the cycle's end. -/
theorem Dev.took_served {s : Dev} (h : ReqHdr) (r : SvcReq) (hi : s.svc.inbox = []) : (s.took h r).serveRequests = s.serve { hdr := h, req := r } := by
  have e : ({ s with svc.inbox := [] } : Dev) = s := by
    obtain ⟨⟩ := s
    rename_i svc _ _
    obtain ⟨⟩ := svc
    simp only at hi
    subst hi; rfl
  unfold Dev.serveRequests Dev.took
  rw [if_neg (by simp)]
  show ({ s with svc.inbox := [] } : Dev).serve { hdr := h, req := r } = s.serve { hdr := h, req := r }
  rw [e]

/-- A command that brings a request: it is received, and carried out at the end of its core cycle. -/
theorem Serves.of_serve {c : Instr} {h : ReqHdr} {r : SvcReq} {s t : Dev} (hc : ∀ x : State, exec c x = x.act fun d => d.receive h r)
    (h0 : s.On) (hr : s.reachable = true) (hm : s.mayAsk h.sess = true) (hi : s.svc.inbox = []) (e : s.serve { hdr := h, req := r } = t) :
    Serves c h r s t := by
  refine ⟨Does.of_act (f := fun d => d.receive h r) hc h0 ?_, (Dev.took_served h r hi).trans e⟩
  show s.receive h r = s.took h r
  unfold Dev.receive Dev.took
  rw [if_neg (by simp [hr, hm]), hi]
  rfl

/-- A session after a change that keeps its key. -/
theorem Dev.sess?_modSess {s : Dev} {k : SessKey} {x : Sess} {f : Sess → Sess} (h : s.sess? k = some x) (hf : (f x).key = x.key) :
    (s.modSess k f).sess? k = some (f x) := by
  unfold Dev.modSess; rw [h]
  show (s.putSess (f x)).sess? k = some (f x)
  have hk : x.key = k := by
    unfold Dev.sess? at h
    split at h
    · next y hy => cases h; simpa using List.find?_some hy
    · cases k <;> simp at h <;> (subst h; rfl)
  unfold Dev.putSess
  split
  · next ha =>
    have : ∀ l : List Sess, (l.find? fun y => y.key == k) = some x →
        (l.map fun y => if (y.key == (f x).key) = true then f x else y).find? (fun y => y.key == k) = some (f x) := by
      intro l
      induction l with
      | nil => intro h; cases h
      | cons y l ih =>
        intro h
        rw [List.find?_cons] at h
        have hfk : (f x).key = k := hf.trans hk
        simp only [List.map_cons, List.find?_cons, hf, hk] at ih ⊢
        by_cases hy : (y.key == k) = true
        · rw [if_pos hy, hfk]; simp
        · rw [if_neg hy]
          simp only [Bool.not_eq_true] at hy
          rw [hy] at h ⊢
          exact ih h
    unfold Dev.sess?
    have hx : (s.svc.sess.find? fun y => y.key == k) = some x := by
      unfold Dev.sess? at h
      split at h
      · next y hy => cases h; exact hy
      · next hn =>
        rw [hf, hk, List.any_eq_true] at ha
        obtain ⟨z, hz, hzk⟩ := ha
        exact absurd hzk (List.find?_eq_none.1 hn z hz)
    simp only [this _ hx]
  · next ha =>
    unfold Dev.sess?
    have hn : (s.svc.sess.find? fun y => y.key == k) = none := by
      rw [List.find?_eq_none]
      intro y hy hyk
      exact ha (List.any_eq_true.2 ⟨y, hy, by rw [hf, hk]; exact hyk⟩)
    simp only [List.find?_append, hn, List.find?_cons, hf, hk, BEq.rfl, Option.none_or]

/-- A request that is carried out. -/
theorem Dev.request_serves {s : Dev} {h : ReqHdr} {x : Sess} {svc : Nat} {serve : Dev → Sess → Dev} (ha : s.Asks h x) :
    s.request h svc serve = serve (s.heard h) { x with at_ := s.now } := by
  obtain ⟨h1, h2, h3, h4, h5, h6, h7, h8, h9, -⟩ := ha
  unfold Dev.request
  rw [if_neg (by simp [h1, h2]), h3]
  dsimp only
  rw [if_neg (by simp [h4]), if_neg (by simp [h5]), if_neg (by simp [h6])]
  unfold Dev.bySeq
  rw [if_pos h7, if_neg (by simp [h8]), if_neg (by simp [h9])]
  rfl

/-- Hearing a request leaves the register bus as it is. -/
theorem Dev.heard_xing (s : Dev) (h : ReqHdr) : (s.heard h).xing = s.xing := by
  unfold Dev.heard Dev.modSess
  split
  · unfold Dev.putSess; split <;> rfl
  · rfl

/-- The session of a request that is carried out is open. -/
theorem Dev.open_heard {s : Dev} {h : ReqHdr} {x : Sess} (ho : s.open? h.sess = some x) :
    (s.heard h).open? h.sess = some { x with at_ := s.now } := by
  unfold Dev.open? at ho
  obtain ⟨y, hy, hx⟩ := Option.bind_eq_some_iff.1 ho
  by_cases hp : y.opened = true
  · rw [if_pos hp] at hx; cases hx
    unfold Dev.open? Dev.heard
    rw [Dev.sess?_modSess hy rfl]
    simp [hp]
  · rw [if_neg hp] at hx; cases hx

/-- A WRITE of one entry stores that entry. -/
theorem Dev.storeAll_one (s : Dev) (k : SessKey) (e : EntryWrite) : s.storeAll k [e] = s.putEntry k e := by
  have hso : storeOrder [e] = [e] := by
    unfold storeOrder
    cases h0 : isSwitch e 0 <;> cases h1 : isSwitch e 1 <;> simp [h0, h1]
    unfold isSwitch at h0 h1
    simp at h0 h1
    omega
  unfold Dev.storeAll; rw [hso]
  show ((s.putEntry k e).1, [] ++ (s.putEntry k e).2) = s.putEntry k e
  rw [List.nil_append]

/-- A WRITE of one entry that is in order and not kept in flash: the entry is stored, the response goes out, its command acts. -/
theorem Dev.write_one {s : Dev} {h : ReqHdr} {x : Sess} {idx sub : Nat} {t : ObjTyp} {v : OVal} (ho : s.Orders h x idx sub t v)
    (hc : (objRow idx sub).map (·.acc) ≠ some .rws) :
    s.serveWrite h [{ ref := { index := idx, sub := sub, typ := t.code }, val := v }] =
      (let p := (s.heard h).putEntry h.sess { ref := { index := idx, sub := sub, typ := t.code }, val := v }
       each p.2 (p.1.answerReq h.sess svWrite h.seq 0 (p.1.writeBody p.2)) fun s a => s.cmdAct a) := by
  obtain ⟨ha, hl, hk⟩ := ho
  unfold Dev.serveWrite
  rw [Dev.request_serves ha]
  dsimp only
  rw [if_neg (by rw [Dev.heard_xing]; simpa using hl)]
  unfold Dev.doWrite
  dsimp only
  rw [Dev.open_heard ha.2.2.1]
  dsimp only
  rw [if_neg (by simp), hk]
  have hv : rwsVals [{ ref := { index := idx, sub := sub, typ := t.code }, val := v }] = [] := if_neg hc
  dsimp only
  rw [hv, Dev.storeAll_one]
  rfl

/-- A write of a command entry that is in order starts the command and does its action. -/
theorem Dev.write_orders {s : Dev} {h : ReqHdr} {x : Sess} {idx sub : Nat} {t : ObjTyp} {v : OVal} (ho : s.Orders h x idx sub t v)
    (hc : (objRow idx sub).map (·.acc) = some .cmd) :
    s.serveWrite h [{ ref := { index := idx, sub := sub, typ := t.code }, val := v }] =
      (s.commanded h idx sub v).cmdAct ((s.heard h).cmdStore h.sess idx sub v).2 := by
  rw [Dev.write_one ho (by rw [hc]; decide)]
  have hp : (s.heard h).putEntry h.sess { ref := { index := idx, sub := sub, typ := t.code }, val := v } =
      (((s.heard h).cmdStore h.sess idx sub v).1, [((s.heard h).cmdStore h.sess idx sub v).2]) := if_pos hc
  have hb : ∀ u : Dev, u.writeBody [((s.heard h).cmdStore h.sess idx sub v).2] =
      (255 : Byte) :: leBytes 4 (u.cmdSt idx sub).rseq := by
    intro u
    have : ((s.heard h).cmdStore h.sess idx sub v).2.idx = idx ∧ ((s.heard h).cmdStore h.sess idx sub v).2.sub = sub := by
      unfold Dev.cmdStore
      dsimp only
      split <;> first | exact ⟨rfl, rfl⟩ | (split <;> exact ⟨rfl, rfl⟩)
    unfold Dev.writeBody; simp [this]
  rw [hp]
  dsimp only
  rw [hb]
  rfl

/-! What an answer leaves of the management service -/

theorem Dev.signal_svc (s : Dev) (vs fn v : Nat) : (s.signal vs fn v).svc = s.svc := by
  unfold Dev.signal
  dsimp only
  split
  · split <;> rfl
  · split <;> rfl
  · rfl

theorem Dev.raise_svc (s : Dev) (src : Nat) : (s.raise src).svc = s.svc := by
  unfold Dev.raise
  dsimp only
  split <;> rfl

theorem Dev.intxSync_svc (s : Dev) (vs : Nat) : (s.intxSync vs).svc = s.svc := by
  unfold Dev.intxSync
  dsimp only
  repeat' split
  all_goals rfl

theorem Dev.ite_svc {x : Svc} {c : Prop} {_ : Decidable c} {a b : Dev} (ha : a.svc = x) (hb : b.svc = x) : (if c then a else b).svc = x := by
  split <;> assumption

theorem Dev.sfEvent_svc (s : Dev) (vs fn : Nat) (f : Fld) : (s.sfEvent vs fn f).svc = s.svc := by
  unfold Dev.sfEvent
  have h1 : (s.fset f (sfKey vs fn) 1).svc = s.svc := Dev.fset_svc ..
  generalize s.fset f (sfKey vs fn) 1 = s1 at h1 ⊢
  dsimp only
  exact Dev.ite_svc ((Dev.raise_svc ..).trans ((Dev.intxSync_svc ..).trans (Dev.ite_svc h1 ((Dev.signal_svc ..).trans h1))))
    ((Dev.raise_svc ..).trans (Dev.ite_svc h1 ((Dev.signal_svc ..).trans h1)))

theorem Dev.modSfn_svc (s : Dev) (vs fn : Nat) (g : SfFn → SfFn) : (s.modSfn vs fn g).svc = s.svc := rfl

theorem Dev.mailReply_svc (s : Dev) (vs svc seq status : Nat) (body : List Byte) : (s.mailReply vs svc seq status body).svc = s.svc := by
  unfold Dev.mailReply
  dsimp only
  generalize (mailFrames svc seq status (body.length / frameBody + 1) 0 body).take 2047 = b
  exact Dev.ite_svc rfl ((Dev.sfEvent_svc ..).trans ((Dev.modSfn_svc ..).trans (Dev.fsets_svc ..)))

theorem Dev.reply_svc (s : Dev) (k : SessKey) (svc seq status : Nat) (body : List Byte) : (s.reply k svc seq status body).svc = s.svc := by
  cases k with
  | mailbox vs => exact Dev.mailReply_svc ..
  | udp id => rfl
  | mctp e => rfl

theorem Dev.modSess_cmds (s : Dev) (k : SessKey) (f : Sess → Sess) : (s.modSess k f).svc.cmds = s.svc.cmds := by
  unfold Dev.modSess
  split
  · unfold Dev.putSess; split <;> rfl
  · rfl

/-- A command that a write has started runs. -/
theorem Dev.commanded_runs (s : Dev) (h : ReqHdr) (idx sub : Nat) (v : OVal) : ((s.commanded h idx sub v).cmdSt idx sub).running = true := by
  have hs : ∀ t : Dev, ((t.cmdStart idx sub (valNum v)).cmdSt idx sub).running = true := by
    intro t
    have hn : ∀ c : CmdSt, ({ rseq := if c.rseq = 0xFFFFFFFF then 1 else c.rseq + 1, running := true, arg := valNum v, at_ := t.now } :
        CmdSt) ≠ {} := fun c hc => by have := congrArg CmdSt.running hc; cases this
    show (tget {} (tput {} t.svc.cmds (objKey idx sub) _) (objKey idx sub)).running = true
    unfold tput
    rw [if_neg (hn _)]
    unfold tget
    rw [tfind_tins, if_pos rfl]; rfl
  have hst : ∀ (t : Dev) (k : SessKey), (t.cmdStore k idx sub v).1.svc.cmds = (t.cmdStart idx sub (valNum v)).svc.cmds := by
    intro t k
    unfold Dev.cmdStore
    dsimp only
    split
    · unfold Dev.openTarget; dsimp only; split
      · rfl
      · split <;> rfl
    · unfold Dev.commitTarget; dsimp only; split
      · rfl
      · split <;> rfl
    · split <;> rfl
  have h1 := hs (s.heard h)
  unfold Dev.cmdSt at h1 ⊢
  unfold Dev.commanded Dev.answerReq
  dsimp only
  rw [Dev.reply_svc, Dev.modSess_cmds, hst]
  exact h1

/-- The command entries of the ports, the key slots and the program slots. -/
theorem objRow_margin : ∀ p < 48, (objRow (0x3100 + p) 1).map (·.acc) = some .cmd := by decide +kernel
theorem objRow_dpc : ∀ p < 48, (objRow (0x4000 + p) 5).map (·.acc) = some .cmd := by decide +kernel
theorem objRow_atn : ∀ p < 48, (objRow (0x4000 + p) 7).map (·.acc) = some .cmd := by decide +kernel
theorem objRow_key : ∀ i < 16, (objRow (0xA100 + i) 1).map (·.acc) = some .cmd := by decide +kernel
theorem objRow_prog : ∀ i < 256, (objRow (0xB100 + i) 1).map (·.acc) = some .cmd := by decide +kernel

/-- The action of a command that is no OPEN or COMMIT of a load target and no report. -/
theorem Dev.cmdStore_act {s : Dev} {k : SessKey} {idx sub : Nat} {v : OVal} (h : loadCmd idx sub (valNum v) ≠ some 2) :
    (s.cmdStore k idx sub v).2 = { idx := idx, sub := sub, val := v } := by
  unfold Dev.cmdStore
  dsimp only
  split
  · rfl
  · next h2 => exact absurd h2 h
  · split <;> rfl

/-- A write of a command entry that is in order and is no COMMIT. -/
theorem Dev.write_plain {s : Dev} {h : ReqHdr} {x : Sess} {idx sub : Nat} {t : ObjTyp} {v : OVal} (ho : s.Orders h x idx sub t v)
    (hc : (objRow idx sub).map (·.acc) = some .cmd) (hl : loadCmd idx sub (valNum v) ≠ some 2) :
    s.serveWrite h [{ ref := { index := idx, sub := sub, typ := t.code }, val := v }] =
      (s.commanded h idx sub v).cmdAct { idx := idx, sub := sub, val := v } := by
  rw [Dev.write_orders ho hc, Dev.cmdStore_act hl]

/-- A command whose result needs no measurement, or that has no measurement before it and measures no program, acts at once (R652). -/
theorem Dev.cmdAct_now {s : Dev} {a : CmdAct} (h : a.measures = false ∨ (a.program = none ∧ s.trust.jobs = [])) : s.cmdAct a = s.cmdDo a := by
  unfold Dev.cmdAct
  rw [if_neg]
  rcases h with h | ⟨h, k⟩
  · simp [h]
  · simp [h, k]

/-- A command that measures a program, or measures behind another, waits (R652). -/
theorem Dev.cmdAct_waits {s : Dev} {a : CmdAct} (h : a.measures = true) (k : a.program ≠ none ∨ s.trust.jobs ≠ []) :
    s.cmdAct a = { s with trust.jobs := s.trust.jobs ++ [a] } := by
  unfold Dev.cmdAct
  rw [if_pos]
  rw [h, Bool.true_and, Bool.or_eq_true]
  exact k.imp (fun h => Option.isSome_iff_ne_none.2 h) (fun h => by simpa using h)

/-- A res_cmd value holds its parts (R597). -/
theorem resWord_parts {op vs fn v : Nat} (hv : v < 2 ^ 32) (hf : fn < 65536) (hs : vs < 256) :
    resOp (resWord op vs fn v) = op ∧ resVs (resWord op vs fn v) = vs ∧ resFn (resWord op vs fn v) = fn ∧
      resVal (resWord op vs fn v) = v := by
  unfold resOp resVs resFn resVal resWord
  omega

/-- The action of a COMMIT of a load target carries the image that was staged. -/
theorem Dev.cmdStore_commit {s : Dev} {h : ReqHdr} {idx sub : Nat} {v : OVal} (hl : loadCmd idx sub (valNum v) = some 2) :
    ((s.heard h).cmdStore h.sess idx sub v).2 = { idx := idx, sub := sub, val := v, image := (s.load idx).image } := by
  have hk : (s.heard h).load idx = s.load idx := by
    unfold Dev.heard Dev.modSess
    split
    · unfold Dev.putSess; split <;> rfl
    · rfl
  unfold Dev.cmdStore
  dsimp only
  rw [hl]
  show ({ idx := idx, sub := sub, val := v, image := ((s.heard h).load idx).image } : CmdAct) = _
  rw [hk]

end Sys2Proof.Machine
end

