-- ==== Sys2Proof/Laws/SoundBase.lean ====
section
/-! SUPPORT. The shape of the soundness lemmas: what a record update, a fold and a branch need, and the tables' writes. -/
namespace Sys2Proof.Machine

theorem Dev.sound_mk {now cyc bootAt ftime sampled free regs mem objs flash out tel fwd arb sch xing rt dl pci bl ln sf eng coll svc trust pe} :
    Dev.Sound (Dev.mk now cyc bootAt ftime sampled free regs mem objs flash out tel fwd arb sch xing rt dl pci bl ln sf eng coll svc trust pe) =
      SoundParts mem eng.sram regs objs flash svc.state ftime trust.slots.length trust.log.length := propext Iff.rfl

theorem Dev.Sound.parts {s : Dev} (h : s.Sound) :
    SoundParts s.mem s.eng.sram s.regs s.objs s.flash s.svc.state s.ftime s.trust.slots.length s.trust.log.length := h

/-- A state is sound if its switch is and its waiting commands are within their ranges. -/
theorem State.sound_mk {q : List Instr} {d : Dev} (h : d.Sound) (hq : q.all Instr.wf = true) : State.Sound { pending := q, dev := d } :=
  ⟨h, hq⟩

theorem each_sound {α : Type} {l : List α} {s : Dev} {f : Dev → α → Dev} (h : s.Sound)
    (hf : ∀ s x, Dev.Sound s → Dev.Sound (f s x)) : Dev.Sound (each l s f) := by
  unfold each
  induction l generalizing s with
  | nil => exact h
  | cons x l ih => exact ih (hf _ _ h)

theorem foldl_sound {α : Type} {l : List α} {s : Dev} {f : Dev → α → Dev} (h : s.Sound)
    (hf : ∀ s x, Dev.Sound s → Dev.Sound (f s x)) : Dev.Sound (l.foldl f s) := each_sound h hf

theorem ite_sound {c : Prop} [Decidable c] {a b : Dev} (ha : c → a.Sound) (hb : ¬ c → b.Sound) : (if c then a else b).Sound := by
  split
  · exact ha ‹_›
  · exact hb ‹_›

theorem twf_bytesPut {m : Tbl Byte} {a : Nat} {l : List Byte} (h : twf memEmpty m = true) :
    twf memEmpty (bytesPut m a l) = true := by
  induction l generalizing m a with
  | nil => exact h
  | cons b l ih => exact ih (twf_tput h)

end Sys2Proof.Machine
end

