-- ==== Sys2Proof/Laws/SoundOps.lean ====
section
/-! SUPPORT. Every operation of Machine/Ops.lean keeps the switch sound. -/
set_option linter.unusedTactic false
set_option linter.unusedSimpArgs false
set_option linter.unreachableTactic false
namespace Sys2Proof.Machine

theorem whenS_sound {c : Bool} {f : Dev → Dev} {s : Dev} (h0 : s.Sound) (hf : ∀ t, Dev.Sound t → Dev.Sound (f t)) : (whenS c f s).Sound := by
  unfold whenS
  repeat' first
    | with_reducible assumption
    | with_reducible apply hf
    | intro x
    | with_reducible apply ite_sound
    | dsimp -zeta only
    | split

theorem Dev.rset_sound {s : Dev} {r : Reg} {inst v : Nat} (h : s.Sound) : (s.rset r inst v).Sound :=
  ⟨h.1, h.2.1, tabove_tput h.2.2.1, h.2.2.2⟩

theorem Dev.mark_sound {s : Dev} {r : Reg} {inst bits : Nat} (h0 : s.Sound) : (Dev.mark s r inst bits).Sound := by
  unfold Dev.mark
  repeat' first
    | with_reducible assumption
    | (intro x; have hx : Dev.Sound x; (on_goal 2 => clear_value x); (on_goal 1 => unfold x))
    | (intro x; (fail_if_success (have q : Engs := x)); (fail_if_success (have q : Svc := x)); (fail_if_success (have q : Trust := x)); (fail_if_success (have q : _ → _ := x)); clear_value x)
    | intro x
    | lift_lets -underBinder
    | (simp only [↓Dev.sound_mk]; with_reducible apply Dev.Sound.parts)
    | with_reducible apply ite_sound
    | dsimp -zeta only
    | split
    | dsimp -zeta +zetaDelta only

theorem Dev.fset_sound {s : Dev} {f : Fld} {inst v : Nat} (h0 : s.Sound) : (Dev.fset s f inst v).Sound := by
  unfold Dev.fset
  repeat' first
    | with_reducible assumption
    | with_reducible apply Dev.mark_sound
    | with_reducible apply Dev.rset_sound
    | intro x
    | with_reducible apply ite_sound
    | dsimp -zeta only
    | split

theorem Dev.rclear_sound {s : Dev} {r : Reg} {inst : Nat} (h : s.Sound) : (s.rclear r inst).Sound :=
  ⟨h.1, h.2.1, tabove_tdel h.2.2.1, h.2.2.2⟩

theorem Dev.fsets_sound {s : Dev} {inst : Nat} {l : List (Fld × Nat)} (h0 : s.Sound) : (Dev.fsets s inst l).Sound := by
  unfold Dev.fsets
  repeat' first
    | with_reducible assumption
    | with_reducible apply Dev.fset_sound
    | with_reducible apply each_sound
    | intro x
    | dsimp -zeta only

theorem Dev.count_sound {s : Dev} {r : Reg} {inst n : Nat} (h0 : s.Sound) : (Dev.count s r inst n).Sound := by
  unfold Dev.count
  repeat' first
    | with_reducible assumption
    | with_reducible apply Dev.mark_sound
    | with_reducible apply Dev.rset_sound
    | (intro x; have hx : Dev.Sound x; (on_goal 2 => clear_value x); (on_goal 1 => unfold x))
    | (intro x; (fail_if_success (have q : Engs := x)); (fail_if_success (have q : Svc := x)); (fail_if_success (have q : Trust := x)); (fail_if_success (have q : _ → _ := x)); clear_value x)
    | intro x
    | lift_lets -underBinder
    | with_reducible apply ite_sound
    | dsimp -zeta only
    | split
    | dsimp -zeta +zetaDelta only

theorem Dev.memWrite_sound {s : Dev} {a : Nat} {l : List Byte} (h : s.Sound) : (s.memWrite a l).Sound :=
  ⟨twf_bytesPut h.1, h.2⟩

theorem Dev.freeNat_sound {s : Dev} (h0 : s.Sound) : (Dev.freeNat s).2.Sound := by
  unfold Dev.freeNat
  repeat' first
    | with_reducible assumption
    | (intro x; have hx : Dev.Sound x; (on_goal 2 => clear_value x); (on_goal 1 => unfold x))
    | (intro x; (fail_if_success (have q : Engs := x)); (fail_if_success (have q : Svc := x)); (fail_if_success (have q : Trust := x)); (fail_if_success (have q : _ → _ := x)); clear_value x)
    | intro x
    | lift_lets -underBinder
    | (simp only [↓Dev.sound_mk]; with_reducible apply Dev.Sound.parts)
    | dsimp -zeta only
    | dsimp -zeta +zetaDelta only
theorem Dev.freeNat_pair {s : Dev} {x_ t_} (e_ : Dev.freeNat s = (x_, t_)) (h0 : s.Sound) : t_.Sound := by
  have q := Dev.freeNat_sound (s := s) h0; rw [e_] at q; exact q

theorem Dev.emit_sound {s : Dev} {o : Out} (h0 : s.Sound) : (Dev.emit s o).Sound := by
  unfold Dev.emit
  repeat' first
    | with_reducible assumption
    | (intro x; have hx : Dev.Sound x; (on_goal 2 => clear_value x); (on_goal 1 => unfold x))
    | (intro x; (fail_if_success (have q : Engs := x)); (fail_if_success (have q : Svc := x)); (fail_if_success (have q : Trust := x)); (fail_if_success (have q : _ → _ := x)); clear_value x)
    | intro x
    | lift_lets -underBinder
    | (simp only [↓Dev.sound_mk]; with_reducible apply Dev.Sound.parts)
    | dsimp -zeta only
    | dsimp -zeta +zetaDelta only

theorem Dev.pin_sound {s : Dev} {name : String} {i : Nat} {level : Bool} (h0 : s.Sound) : (Dev.pin s name i level).Sound := by
  unfold Dev.pin
  repeat' first
    | with_reducible assumption
    | with_reducible apply Dev.emit_sound
    | intro x
    | dsimp -zeta only

theorem Dev.oset_sound {s : Dev} {idx sub n : Nat} (h : s.Sound) : (s.oset idx sub n).Sound :=
  ⟨h.1, h.2.1, h.2.2.1, tabove_tins h.2.2.2.1 (Nat.zero_le _), h.2.2.2.2⟩

theorem Dev.osetb_sound {s : Dev} {idx sub : Nat} {b : List Byte} (h : s.Sound) : (s.osetb idx sub b).Sound :=
  ⟨h.1, h.2.1, h.2.2.1, tabove_tins h.2.2.2.1 (Nat.zero_le _), h.2.2.2.2⟩

theorem Dev.raise_sound {s : Dev} {src : Nat} (h0 : s.Sound) : (Dev.raise s src).Sound := by
  unfold Dev.raise
  repeat' first
    | with_reducible assumption
    | with_reducible apply Dev.count_sound
    | with_reducible apply Dev.mark_sound
    | with_reducible apply Dev.rset_sound
    | (intro x; have hx : Dev.Sound x; (on_goal 2 => clear_value x); (on_goal 1 => unfold x))
    | (intro x; (fail_if_success (have q : Engs := x)); (fail_if_success (have q : Svc := x)); (fail_if_success (have q : Trust := x)); (fail_if_success (have q : _ → _ := x)); clear_value x)
    | intro x
    | lift_lets -underBinder
    | (simp only [↓Dev.sound_mk]; with_reducible apply Dev.Sound.parts)
    | with_reducible apply ite_sound
    | dsimp -zeta only
    | split
    | dsimp -zeta +zetaDelta only

theorem Dev.logError_sound {s : Dev} {code source data0 data1 : Nat} (h0 : s.Sound) : (Dev.logError s code source data0 data1).Sound := by
  unfold Dev.logError
  repeat' first
    | with_reducible assumption
    | with_reducible apply Dev.memWrite_sound
    | (intro x; have hx : Dev.Sound x; (on_goal 2 => clear_value x); (on_goal 1 => unfold x))
    | (intro x; (fail_if_success (have q : Engs := x)); (fail_if_success (have q : Svc := x)); (fail_if_success (have q : Trust := x)); (fail_if_success (have q : _ → _ := x)); clear_value x)
    | intro x
    | lift_lets -underBinder
    | (simp only [↓Dev.sound_mk]; with_reducible apply Dev.Sound.parts)
    | dsimp -zeta only
    | dsimp -zeta +zetaDelta only

theorem Dev.firstEvent_sound {s : Dev} {valid : Fld} {more : Option Fld} {inst : Nat} {details : List (Fld × Nat)} (h0 : s.Sound) : (Dev.firstEvent s valid more inst details).Sound := by
  unfold Dev.firstEvent
  repeat' first
    | with_reducible assumption
    | with_reducible apply Dev.fset_sound
    | with_reducible apply Dev.fsets_sound
    | (intro x; have hx : Dev.Sound x; (on_goal 2 => clear_value x); (on_goal 1 => unfold x))
    | (intro x; (fail_if_success (have q : Engs := x)); (fail_if_success (have q : Svc := x)); (fail_if_success (have q : Trust := x)); (fail_if_success (have q : _ → _ := x)); clear_value x)
    | intro x
    | lift_lets -underBinder
    | (simp only [↓Dev.sound_mk]; with_reducible apply Dev.Sound.parts)
    | with_reducible apply ite_sound
    | dsimp -zeta only
    | split
    | dsimp -zeta +zetaDelta only

theorem Dev.memViolation_sound {s : Dev} {p : Plane} {write : Bool} {region addr : Nat} (h0 : s.Sound) : (Dev.memViolation s p write region addr).Sound := by
  unfold Dev.memViolation
  repeat' first
    | with_reducible assumption
    | with_reducible apply Dev.firstEvent_sound
    | with_reducible apply Dev.freeNat_sound
    | with_reducible refine Dev.freeNat_pair (by with_reducible assumption) ?_
    | with_reducible apply write_sound
    | (intro x; have hx : Dev.Sound x; (on_goal 2 => clear_value x); (on_goal 1 => unfold x))
    | (intro x; (fail_if_success (have q : Engs := x)); (fail_if_success (have q : Svc := x)); (fail_if_success (have q : Trust := x)); (fail_if_success (have q : _ → _ := x)); clear_value x)
    | intro x
    | lift_lets -underBinder
    | dsimp -zeta only
    | split
    | dsimp -zeta +zetaDelta only

theorem Dev.planeMemWrite_sound {s : Dev} {p : Plane} {addr : Nat} {b : List Byte} (h0 : s.Sound) : (Dev.planeMemWrite s p addr b).Sound := by
  unfold Dev.planeMemWrite
  repeat' first
    | with_reducible assumption
    | with_reducible apply b_sound
    | with_reducible apply Dev.memViolation_sound
    | with_reducible apply Dev.memWrite_sound
    | intro x
    | dsimp -zeta only
    | split

theorem Dev.relatch_sound {s : Dev} {r : Reg} {inst : Nat} (h0 : s.Sound) : (Dev.relatch s r inst).Sound := by
  unfold Dev.relatch
  repeat' first
    | with_reducible assumption
    | with_reducible apply Dev.memWrite_sound
    | (intro x; have hx : Dev.Sound x; (on_goal 2 => clear_value x); (on_goal 1 => unfold x))
    | (intro x; (fail_if_success (have q : Engs := x)); (fail_if_success (have q : Svc := x)); (fail_if_success (have q : Trust := x)); (fail_if_success (have q : _ → _ := x)); clear_value x)
    | intro x
    | lift_lets -underBinder
    | with_reducible apply ite_sound
    | dsimp -zeta only
    | split
    | dsimp -zeta +zetaDelta only

theorem Dev.ctlPacket_sound {s : Dev} {dgpa : Nat} {b : List Byte} (h0 : s.Sound) : (Dev.ctlPacket s dgpa b).Sound := by
  unfold Dev.ctlPacket
  repeat' first
    | with_reducible assumption
    | with_reducible apply b_sound
    | with_reducible apply Dev.emit_sound
    | intro x
    | dsimp -zeta only

theorem Dev.putPkt_sound {s : Dev} {pid : Nat} {p : Pkt} (h0 : s.Sound) : (Dev.putPkt s pid p).Sound := by
  unfold Dev.putPkt
  repeat' first
    | with_reducible assumption
    | (intro x; have hx : Dev.Sound x; (on_goal 2 => clear_value x); (on_goal 1 => unfold x))
    | (intro x; (fail_if_success (have q : Engs := x)); (fail_if_success (have q : Svc := x)); (fail_if_success (have q : Trust := x)); (fail_if_success (have q : _ → _ := x)); clear_value x)
    | intro x
    | lift_lets -underBinder
    | (simp only [↓Dev.sound_mk]; with_reducible apply Dev.Sound.parts)
    | dsimp -zeta only
    | dsimp -zeta +zetaDelta only

theorem Dev.shelfReturn_sound {s : Dev} {port n : Nat} (h0 : s.Sound) : (Dev.shelfReturn s port n).Sound := by
  unfold Dev.shelfReturn
  repeat' first
    | with_reducible assumption
    | with_reducible apply Dev.fset_sound
    | intro x
    | dsimp -zeta only

theorem Dev.delPkt_sound {s : Dev} {pid : Nat} (h0 : s.Sound) : (Dev.delPkt s pid).Sound := by
  unfold Dev.delPkt
  repeat' first
    | with_reducible assumption
    | with_reducible apply Dev.shelfReturn_sound
    | (intro x; have hx : Dev.Sound x; (on_goal 2 => clear_value x); (on_goal 1 => unfold x))
    | (intro x; (fail_if_success (have q : Engs := x)); (fail_if_success (have q : Svc := x)); (fail_if_success (have q : Trust := x)); (fail_if_success (have q : _ → _ := x)); clear_value x)
    | intro x
    | lift_lets -underBinder
    | (simp only [↓Dev.sound_mk]; with_reducible apply Dev.Sound.parts)
    | with_reducible apply ite_sound
    | dsimp -zeta only
    | split
    | dsimp -zeta +zetaDelta only

end Sys2Proof.Machine
end

