-- ==== Sys2Proof/Laws/SoundHalves.lean ====
section
/-! SUPPORT. Every operation of Machine/Halves.lean keeps the switch sound. -/
set_option linter.unusedTactic false
set_option linter.unusedSimpArgs false
set_option linter.unreachableTactic false
namespace Sys2Proof.Machine

theorem Dev.setHword_sound {s : Dev} {p off v : Nat} (h0 : s.Sound) : (Dev.setHword s p off v).Sound := by
  unfold Dev.setHword
  repeat' first
    | with_reducible assumption
    | (intro x; have hx : Dev.Sound x; (on_goal 2 => clear_value x); (on_goal 1 => unfold x))
    | (intro x; (fail_if_success (have q : Engs := x)); (fail_if_success (have q : Svc := x)); (fail_if_success (have q : Trust := x)); (fail_if_success (have q : _ → _ := x)); clear_value x)
    | intro x
    | lift_lets -underBinder
    | (simp only [↓Dev.sound_mk]; with_reducible apply Dev.Sound.parts)
    | with_reducible apply ite_sound
    | dsimp -zeta only
    | split
    | dsimp -zeta +zetaDelta only

theorem Dev.noteHops_sound {s : Dev} (h0 : s.Sound) : (Dev.noteHops s).Sound := by
  unfold Dev.noteHops
  repeat' first
    | with_reducible assumption
    | (intro x; have hx : Dev.Sound x; (on_goal 2 => clear_value x); (on_goal 1 => unfold x))
    | (intro x; (fail_if_success (have q : Engs := x)); (fail_if_success (have q : Svc := x)); (fail_if_success (have q : Trust := x)); (fail_if_success (have q : _ → _ := x)); clear_value x)
    | intro x
    | lift_lets -underBinder
    | (simp only [↓Dev.sound_mk]; with_reducible apply Dev.Sound.parts)
    | dsimp -zeta only
    | dsimp -zeta +zetaDelta only

end Sys2Proof.Machine
end

