-- ==== Sys2Proof/Laws/SoundBuffer.lean ====
section
/-! SUPPORT. Every operation of Machine/Buffer.lean keeps the switch sound. -/
set_option linter.unusedTactic false
set_option linter.unusedSimpArgs false
set_option linter.unreachableTactic false
namespace Sys2Proof.Machine

theorem Dev.lowWater_sound {s : Dev} (h0 : s.Sound) : (Dev.lowWater s).Sound := by
  unfold Dev.lowWater
  repeat' first
    | with_reducible assumption
    | with_reducible apply Dev.fset_sound
    | intro x
    | with_reducible apply ite_sound
    | dsimp -zeta only
    | split

theorem Dev.sampleDepth_sound {s : Dev} {n c : Nat} (h0 : s.Sound) : (Dev.sampleDepth s n c).Sound := by
  unfold Dev.sampleDepth
  repeat' first
    | with_reducible assumption
    | (intro x; have hx : Dev.Sound x; (on_goal 2 => clear_value x); (on_goal 1 => unfold x))
    | (intro x; (fail_if_success (have q : Engs := x)); (fail_if_success (have q : Svc := x)); (fail_if_success (have q : Trust := x)); (fail_if_success (have q : _ → _ := x)); clear_value x)
    | intro x
    | lift_lets -underBinder
    | (simp only [↓Dev.sound_mk]; with_reducible apply Dev.Sound.parts)
    | with_reducible apply ite_sound
    | dsimp -zeta only
    | split
    | dsimp -zeta +zetaDelta only

theorem Dev.writeFlit_pair {s : Dev} {pid : Nat} {p : Pkt} {at_ : Nat} {t : Dev} (e : Dev.writeFlit s pid p at_ = some t) (h0 : s.Sound) : t.Sound := by
  unfold Dev.writeFlit at e
  extract_lets put at e
  have key : ∀ (s : Dev) own, s.Sound → put s own = some t → t.Sound := fun s own h e => by
    unfold put at e
    simp only [Option.map_eq_some_iff] at e
    obtain ⟨r, -, rfl⟩ := e
    exact Dev.putPkt_sound h
  clear_value put
  split at e
  · cases e
  · split at e
    · exact key _ _ (Dev.raise_sound (Dev.fset_sound (Dev.count_sound h0))) e
    · exact key _ _ h0 e

theorem Dev.writePkt_sound {s : Dev} {pid : Nat} {n_ : Nat} (h0 : s.Sound) : (Dev.writePkt s pid n_).Sound := by
  induction n_ generalizing s with
  | zero => exact h0
  | succ n_ ih =>
    unfold Dev.writePkt
    repeat' first
      | with_reducible assumption
      | with_reducible apply ih
      | with_reducible apply Dev.sampleDepth_sound
      | with_reducible refine Dev.writeFlit_pair (by with_reducible assumption) ?_
      | intro x
      | with_reducible apply ite_sound
      | dsimp -zeta only
      | split

theorem Dev.writeFresh_sound {s : Dev} (h0 : s.Sound) : (Dev.writeFresh s).Sound := by
  unfold Dev.writeFresh
  repeat' first
    | with_reducible assumption
    | with_reducible apply Dev.writePkt_sound
    | with_reducible apply each_sound
    | intro x
    | dsimp -zeta only

end Sys2Proof.Machine
end

