-- ==== Sys2Proof/Laws/SoundLanes.lean ====
section
/-! SUPPORT. Every operation of Machine/Lanes.lean keeps the switch sound. -/
set_option linter.unusedTactic false
set_option linter.unusedSimpArgs false
set_option linter.unreachableTactic false
namespace Sys2Proof.Machine

theorem Dev.modLane_sound {s : Dev} {i : Nat} {f : Lane → Lane} (h0 : s.Sound) : (Dev.modLane s i f).Sound := by
  unfold Dev.modLane
  repeat' first
    | with_reducible assumption
    | (intro x; have hx : Dev.Sound x; (on_goal 2 => clear_value x); (on_goal 1 => unfold x))
    | (intro x; (fail_if_success (have q : Engs := x)); (fail_if_success (have q : Svc := x)); (fail_if_success (have q : Trust := x)); (fail_if_success (have q : _ → _ := x)); clear_value x)
    | intro x
    | lift_lets -underBinder
    | (simp only [↓Dev.sound_mk]; with_reducible apply Dev.Sound.parts)
    | dsimp -zeta only
    | dsimp -zeta +zetaDelta only

theorem Dev.watchBegins_sound {s : Dev} {i : Nat} (h0 : s.Sound) : (Dev.watchBegins s i).Sound := by
  unfold Dev.watchBegins
  repeat' first
    | with_reducible assumption
    | with_reducible apply Dev.modLane_sound
    | (intro x; have hx : Dev.Sound x; (on_goal 2 => clear_value x); (on_goal 1 => unfold x))
    | (intro x; (fail_if_success (have q : Engs := x)); (fail_if_success (have q : Svc := x)); (fail_if_success (have q : Trust := x)); (fail_if_success (have q : _ → _ := x)); clear_value x)
    | intro x
    | lift_lets -underBinder
    | (simp only [↓Dev.sound_mk]; with_reducible apply Dev.Sound.parts)
    | with_reducible apply ite_sound
    | dsimp -zeta only
    | split
    | dsimp -zeta +zetaDelta only

theorem Dev.pointBegins_sound {s : Dev} {i src qual rate : Nat} (h0 : s.Sound) : (Dev.pointBegins s i src qual rate).Sound := by
  unfold Dev.pointBegins
  repeat' first
    | with_reducible assumption
    | with_reducible apply Dev.fsets_sound
    | with_reducible apply Dev.modLane_sound
    | with_reducible apply Dev.watchBegins_sound
    | (intro x; have hx : Dev.Sound x; (on_goal 2 => clear_value x); (on_goal 1 => unfold x))
    | (intro x; (fail_if_success (have q : Engs := x)); (fail_if_success (have q : Svc := x)); (fail_if_success (have q : Trust := x)); (fail_if_success (have q : _ → _ := x)); clear_value x)
    | intro x
    | lift_lets -underBinder
    | (simp only [↓Dev.sound_mk]; with_reducible apply Dev.Sound.parts)
    | dsimp -zeta only
    | dsimp -zeta +zetaDelta only

theorem Dev.applyEntry_sound {s : Dev} {i rate : Nat} {e : List Byte} (h0 : s.Sound) : (Dev.applyEntry s i rate e).Sound := by
  unfold Dev.applyEntry
  repeat' first
    | with_reducible assumption
    | with_reducible apply Dev.fsets_sound
    | with_reducible apply Dev.modLane_sound
    | with_reducible apply Dev.pointBegins_sound
    | (intro x; have hx : Dev.Sound x; (on_goal 2 => clear_value x); (on_goal 1 => unfold x))
    | (intro x; (fail_if_success (have q : Engs := x)); (fail_if_success (have q : Svc := x)); (fail_if_success (have q : Trust := x)); (fail_if_success (have q : _ → _ := x)); clear_value x)
    | intro x
    | lift_lets -underBinder
    | (simp only [↓Dev.sound_mk]; with_reducible apply Dev.Sound.parts)
    | dsimp -zeta only
    | dsimp -zeta +zetaDelta only

theorem Dev.applyForced_sound {s : Dev} {n i rate : Nat} {e : List Byte} {f : EqFound} (h0 : s.Sound) : (Dev.applyForced s n i rate e f).Sound := by
  unfold Dev.applyForced
  repeat' first
    | with_reducible assumption
    | with_reducible apply Dev.applyEntry_sound
    | with_reducible apply Dev.emit_sound
    | with_reducible apply each_sound
    | intro x
    | dsimp -zeta only

theorem Dev.applyStandard_sound {s0 : Dev} {i rate : Nat} {f : EqFound} (h0 : s0.Sound) : (Dev.applyStandard s0 i rate f).Sound := by
  unfold Dev.applyStandard
  repeat' first
    | with_reducible assumption
    | with_reducible apply Dev.emit_sound
    | with_reducible apply Dev.fsets_sound
    | with_reducible apply Dev.modLane_sound
    | with_reducible apply Dev.pointBegins_sound
    | with_reducible apply each_sound
    | (intro x; have hx : Dev.Sound x; (on_goal 2 => clear_value x); (on_goal 1 => unfold x))
    | (intro x; (fail_if_success (have q : Engs := x)); (fail_if_success (have q : Svc := x)); (fail_if_success (have q : Trust := x)); (fail_if_success (have q : _ → _ := x)); clear_value x)
    | intro x
    | lift_lets -underBinder
    | (simp only [↓Dev.sound_mk]; with_reducible apply Dev.Sound.parts)
    | with_reducible apply ite_sound
    | dsimp -zeta only
    | split
    | dsimp -zeta +zetaDelta only

theorem Dev.watchBreak_sound {s : Dev} {i : Nat} (h0 : s.Sound) : (Dev.watchBreak s i).Sound := by
  unfold Dev.watchBreak
  repeat' first
    | with_reducible assumption
    | with_reducible apply Dev.fset_sound
    | with_reducible apply Dev.modLane_sound
    | with_reducible apply Dev.watchBegins_sound
    | (intro x; have hx : Dev.Sound x; (on_goal 2 => clear_value x); (on_goal 1 => unfold x))
    | (intro x; (fail_if_success (have q : Engs := x)); (fail_if_success (have q : Svc := x)); (fail_if_success (have q : Trust := x)); (fail_if_success (have q : _ → _ := x)); clear_value x)
    | intro x
    | lift_lets -underBinder
    | (simp only [↓Dev.sound_mk]; with_reducible apply Dev.Sound.parts)
    | dsimp -zeta only
    | dsimp -zeta +zetaDelta only

theorem Dev.raiseLane_sound {s : Dev} {i : Nat} (h0 : s.Sound) : (Dev.raiseLane s i).Sound := by
  unfold Dev.raiseLane
  repeat' first
    | with_reducible assumption
    | with_reducible apply Dev.raise_sound
    | intro x
    | dsimp -zeta only
    | split

theorem Dev.overThreshold_sound {s : Dev} {i : Nat} (h0 : s.Sound) : (Dev.overThreshold s i).Sound := by
  unfold Dev.overThreshold
  repeat' first
    | with_reducible assumption
    | with_reducible apply Dev.fset_sound
    | with_reducible apply Dev.logError_sound
    | with_reducible apply Dev.modLane_sound
    | with_reducible apply Dev.raiseLane_sound
    | (intro x; have hx : Dev.Sound x; (on_goal 2 => clear_value x); (on_goal 1 => unfold x))
    | (intro x; (fail_if_success (have q : Engs := x)); (fail_if_success (have q : Svc := x)); (fail_if_success (have q : Trust := x)); (fail_if_success (have q : _ → _ := x)); clear_value x)
    | intro x
    | lift_lets -underBinder
    | (simp only [↓Dev.sound_mk]; with_reducible apply Dev.Sound.parts)
    | with_reducible apply ite_sound
    | dsimp -zeta only
    | split
    | dsimp -zeta +zetaDelta only

theorem Dev.stressHeld_sound {s : Dev} {i : Nat} (h0 : s.Sound) : (Dev.stressHeld s i).Sound := by
  unfold Dev.stressHeld
  repeat' first
    | with_reducible assumption
    | with_reducible apply Dev.fset_sound
    | with_reducible apply Dev.raiseLane_sound
    | (intro x; have hx : Dev.Sound x; (on_goal 2 => clear_value x); (on_goal 1 => unfold x))
    | (intro x; (fail_if_success (have q : Engs := x)); (fail_if_success (have q : Svc := x)); (fail_if_success (have q : Trust := x)); (fail_if_success (have q : _ → _ := x)); clear_value x)
    | intro x
    | lift_lets -underBinder
    | with_reducible apply ite_sound
    | dsimp -zeta only
    | split
    | dsimp -zeta +zetaDelta only

theorem Dev.watchEval_sound {s : Dev} {i rx sym unc util : Nat} (h0 : s.Sound) : (Dev.watchEval s i rx sym unc util).Sound := by
  unfold Dev.watchEval
  repeat' first
    | with_reducible assumption
    | with_reducible apply Dev.fset_sound
    | with_reducible apply Dev.logError_sound
    | with_reducible apply Dev.modLane_sound
    | with_reducible apply Dev.overThreshold_sound
    | with_reducible apply Dev.raiseLane_sound
    | with_reducible apply Dev.stressHeld_sound
    | with_reducible apply Dev.watchBegins_sound
    | (intro x; have hx : Dev.Sound x; (on_goal 2 => clear_value x); (on_goal 1 => unfold x))
    | (intro x; (fail_if_success (have q : Engs := x)); (fail_if_success (have q : Svc := x)); (fail_if_success (have q : Trust := x)); (fail_if_success (have q : _ → _ := x)); clear_value x)
    | intro x
    | lift_lets -underBinder
    | (simp only [↓Dev.sound_mk]; with_reducible apply Dev.Sound.parts)
    | with_reducible apply ite_sound
    | dsimp -zeta only
    | split
    | dsimp -zeta +zetaDelta only

theorem Dev.watchCycle_sound {s : Dev} (h0 : s.Sound) : (Dev.watchCycle s).Sound := by
  unfold Dev.watchCycle
  repeat' first
    | with_reducible assumption
    | with_reducible apply Dev.watchEval_sound
    | with_reducible apply each_sound
    | intro x
    | with_reducible apply ite_sound
    | dsimp -zeta only
    | split

theorem watchIntervalEnd_sound {i rx sym unc util : Nat} {s : Dev} (h0 : s.Sound) : (watchIntervalEnd i rx sym unc util s).Sound := by
  unfold watchIntervalEnd
  repeat' first
    | with_reducible assumption
    | with_reducible apply Dev.count_sound
    | with_reducible apply Dev.modLane_sound
    | with_reducible apply Dev.watchBegins_sound
    | (intro x; have hx : Dev.Sound x; (on_goal 2 => clear_value x); (on_goal 1 => unfold x))
    | (intro x; (fail_if_success (have q : Engs := x)); (fail_if_success (have q : Svc := x)); (fail_if_success (have q : Trust := x)); (fail_if_success (have q : _ → _ := x)); clear_value x)
    | intro x
    | lift_lets -underBinder
    | (simp only [↓Dev.sound_mk]; with_reducible apply Dev.Sound.parts)
    | with_reducible apply ite_sound
    | dsimp -zeta only
    | split
    | dsimp -zeta +zetaDelta only

theorem bankTempUpdate_sound {b temp : Nat} {s : Dev} (h0 : s.Sound) : (bankTempUpdate b temp s).Sound := by
  unfold bankTempUpdate
  repeat' first
    | with_reducible assumption
    | with_reducible apply b_sound
    | with_reducible apply Dev.fset_sound
    | with_reducible apply Dev.modLane_sound
    | with_reducible apply each_sound
    | (intro x; have hx : Dev.Sound x; (on_goal 2 => clear_value x); (on_goal 1 => unfold x))
    | (intro x; (fail_if_success (have q : Engs := x)); (fail_if_success (have q : Svc := x)); (fail_if_success (have q : Trust := x)); (fail_if_success (have q : _ → _ := x)); clear_value x)
    | intro x
    | lift_lets -underBinder
    | (simp only [↓Dev.sound_mk]; with_reducible apply Dev.Sound.parts)
    | with_reducible apply ite_sound
    | dsimp -zeta only
    | split
    | dsimp -zeta +zetaDelta only

theorem Dev.prbsStop_sound {s : Dev} {i : Nat} (h0 : s.Sound) : (Dev.prbsStop s i).Sound := by
  unfold Dev.prbsStop
  repeat' first
    | with_reducible assumption
    | with_reducible apply Dev.emit_sound
    | with_reducible apply Dev.fsets_sound
    | with_reducible apply Dev.modLane_sound
    | (intro x; have hx : Dev.Sound x; (on_goal 2 => clear_value x); (on_goal 1 => unfold x))
    | (intro x; (fail_if_success (have q : Engs := x)); (fail_if_success (have q : Svc := x)); (fail_if_success (have q : Trust := x)); (fail_if_success (have q : _ → _ := x)); clear_value x)
    | intro x
    | lift_lets -underBinder
    | (simp only [↓Dev.sound_mk]; with_reducible apply Dev.Sound.parts)
    | with_reducible apply ite_sound
    | dsimp -zeta only
    | split
    | dsimp -zeta +zetaDelta only

theorem prbsStart_sound {i : Nat} {s : Dev} (h0 : s.Sound) : (prbsStart i s).Sound := by
  unfold prbsStart
  repeat' first
    | with_reducible assumption
    | with_reducible apply Dev.emit_sound
    | with_reducible apply Dev.fsets_sound
    | with_reducible apply Dev.modLane_sound
    | with_reducible apply Dev.rclear_sound
    | (intro x; have hx : Dev.Sound x; (on_goal 2 => clear_value x); (on_goal 1 => unfold x))
    | (intro x; (fail_if_success (have q : Engs := x)); (fail_if_success (have q : Svc := x)); (fail_if_success (have q : Trust := x)); (fail_if_success (have q : _ → _ := x)); clear_value x)
    | intro x
    | lift_lets -underBinder
    | (simp only [↓Dev.sound_mk]; with_reducible apply Dev.Sound.parts)
    | with_reducible apply ite_sound
    | dsimp -zeta only
    | split
    | dsimp -zeta +zetaDelta only

theorem prbsCheckerLock_sound {i : Nat} {s : Dev} (h0 : s.Sound) : (prbsCheckerLock i s).Sound := by
  unfold prbsCheckerLock
  repeat' first
    | with_reducible assumption
    | with_reducible apply Dev.fset_sound
    | with_reducible apply Dev.modLane_sound
    | (intro x; have hx : Dev.Sound x; (on_goal 2 => clear_value x); (on_goal 1 => unfold x))
    | (intro x; (fail_if_success (have q : Engs := x)); (fail_if_success (have q : Svc := x)); (fail_if_success (have q : Trust := x)); (fail_if_success (have q : _ → _ := x)); clear_value x)
    | intro x
    | lift_lets -underBinder
    | (simp only [↓Dev.sound_mk]; with_reducible apply Dev.Sound.parts)
    | with_reducible apply ite_sound
    | dsimp -zeta only
    | split
    | dsimp -zeta +zetaDelta only

theorem Dev.windowLost_sound {s : Dev} {i errs : Nat} (h0 : s.Sound) : (Dev.windowLost s i errs).Sound := by
  unfold Dev.windowLost
  repeat' first
    | with_reducible assumption
    | with_reducible apply b_sound
    | with_reducible apply Dev.modLane_sound
    | (intro x; have hx : Dev.Sound x; (on_goal 2 => clear_value x); (on_goal 1 => unfold x))
    | (intro x; (fail_if_success (have q : Engs := x)); (fail_if_success (have q : Svc := x)); (fail_if_success (have q : Trust := x)); (fail_if_success (have q : _ → _ := x)); clear_value x)
    | intro x
    | lift_lets -underBinder
    | (simp only [↓Dev.sound_mk]; with_reducible apply Dev.Sound.parts)
    | with_reducible apply ite_sound
    | dsimp -zeta only
    | split
    | dsimp -zeta +zetaDelta only

theorem prbsLockLoss_sound {i bits errs : Nat} {s : Dev} (h0 : s.Sound) : (prbsLockLoss i bits errs s).Sound := by
  unfold prbsLockLoss
  repeat' first
    | with_reducible assumption
    | with_reducible apply Dev.count_sound
    | with_reducible apply Dev.fsets_sound
    | with_reducible apply Dev.windowLost_sound
    | intro x
    | with_reducible apply ite_sound
    | dsimp -zeta only
    | split

theorem prbsTestEnd_sound {i bits errs : Nat} {s : Dev} (h0 : s.Sound) : (prbsTestEnd i bits errs s).Sound := by
  unfold prbsTestEnd
  repeat' first
    | with_reducible assumption
    | with_reducible apply Dev.count_sound
    | with_reducible apply Dev.prbsStop_sound
    | (intro x; have hx : Dev.Sound x; (on_goal 2 => clear_value x); (on_goal 1 => unfold x))
    | (intro x; (fail_if_success (have q : Engs := x)); (fail_if_success (have q : Svc := x)); (fail_if_success (have q : Trust := x)); (fail_if_success (have q : _ → _ := x)); clear_value x)
    | intro x
    | lift_lets -underBinder
    | with_reducible apply ite_sound
    | dsimp -zeta only
    | split
    | dsimp -zeta +zetaDelta only

end Sys2Proof.Machine
end

