-- ==== Sys2Proof/Laws/SoundVdsp.lean ====
section
/-! SUPPORT. Every operation of Machine/Vdsp.lean keeps the switch sound. -/
set_option linter.unusedTactic false
set_option linter.unusedSimpArgs false
set_option linter.unreachableTactic false
namespace Sys2Proof.Machine

theorem Dev.setPfn_sound {s : Dev} {vs n : Nat} {f : PortFn} (h0 : s.Sound) : (Dev.setPfn s vs n f).Sound := by
  unfold Dev.setPfn
  repeat' first
    | with_reducible assumption
    | (intro x; have hx : Dev.Sound x; (on_goal 2 => clear_value x); (on_goal 1 => unfold x))
    | (intro x; (fail_if_success (have q : Engs := x)); (fail_if_success (have q : Svc := x)); (fail_if_success (have q : Trust := x)); (fail_if_success (have q : _ → _ := x)); clear_value x)
    | intro x
    | lift_lets -underBinder
    | (simp only [↓Dev.sound_mk]; with_reducible apply Dev.Sound.parts)
    | dsimp -zeta only
    | dsimp -zeta +zetaDelta only

theorem Dev.modPfn_sound {s : Dev} {vs n : Nat} {g : PortFn → PortFn} (h0 : s.Sound) : (Dev.modPfn s vs n g).Sound := by
  unfold Dev.modPfn
  repeat' first
    | with_reducible assumption
    | with_reducible apply Dev.setPfn_sound
    | intro x
    | dsimp -zeta only

theorem Dev.modVd_sound {s : Dev} {vs n : Nat} {g : VdspSt → VdspSt} (h0 : s.Sound) : (Dev.modVd s vs n g).Sound := by
  unfold Dev.modVd
  repeat' first
    | with_reducible assumption
    | (intro x; have hx : Dev.Sound x; (on_goal 2 => clear_value x); (on_goal 1 => unfold x))
    | (intro x; (fail_if_success (have q : Engs := x)); (fail_if_success (have q : Svc := x)); (fail_if_success (have q : Trust := x)); (fail_if_success (have q : _ → _ := x)); clear_value x)
    | intro x
    | lift_lets -underBinder
    | (simp only [↓Dev.sound_mk]; with_reducible apply Dev.Sound.parts)
    | dsimp -zeta only
    | dsimp -zeta +zetaDelta only

theorem Dev.modPport_sound {s : Dev} {n : Nat} {g : PciPort → PciPort} (h0 : s.Sound) : (Dev.modPport s n g).Sound := by
  unfold Dev.modPport
  repeat' first
    | with_reducible assumption
    | (intro x; have hx : Dev.Sound x; (on_goal 2 => clear_value x); (on_goal 1 => unfold x))
    | (intro x; (fail_if_success (have q : Engs := x)); (fail_if_success (have q : Svc := x)); (fail_if_success (have q : Trust := x)); (fail_if_success (have q : _ → _ := x)); clear_value x)
    | intro x
    | lift_lets -underBinder
    | (simp only [↓Dev.sound_mk]; with_reducible apply Dev.Sound.parts)
    | dsimp -zeta only
    | dsimp -zeta +zetaDelta only

theorem Dev.modTold_sound {s : Dev} {vs n : Nat} {g : PortFn → PortFn} (h0 : s.Sound) : (Dev.modTold s vs n g).Sound := by
  unfold Dev.modTold
  repeat' first
    | with_reducible assumption
    | (intro x; have hx : Dev.Sound x; (on_goal 2 => clear_value x); (on_goal 1 => unfold x))
    | (intro x; (fail_if_success (have q : Engs := x)); (fail_if_success (have q : Svc := x)); (fail_if_success (have q : Trust := x)); (fail_if_success (have q : _ → _ := x)); clear_value x)
    | intro x
    | lift_lets -underBinder
    | (simp only [↓Dev.sound_mk]; with_reducible apply Dev.Sound.parts)
    | dsimp -zeta only
    | dsimp -zeta +zetaDelta only

theorem Dev.fcount_sound {s : Dev} {vs fn i n : Nat} (h0 : s.Sound) : (Dev.fcount s vs fn i n).Sound := by
  unfold Dev.fcount
  repeat' first
    | with_reducible assumption
    | with_reducible apply Dev.count_sound
    | intro x
    | dsimp -zeta only

theorem Dev.modSfn_sound {s : Dev} {vs fn : Nat} {g : SfFn → SfFn} (h0 : s.Sound) : (Dev.modSfn s vs fn g).Sound := by
  unfold Dev.modSfn
  repeat' first
    | with_reducible assumption
    | (intro x; have hx : Dev.Sound x; (on_goal 2 => clear_value x); (on_goal 1 => unfold x))
    | (intro x; (fail_if_success (have q : Engs := x)); (fail_if_success (have q : Svc := x)); (fail_if_success (have q : Trust := x)); (fail_if_success (have q : _ → _ := x)); clear_value x)
    | intro x
    | lift_lets -underBinder
    | (simp only [↓Dev.sound_mk]; with_reducible apply Dev.Sound.parts)
    | dsimp -zeta only
    | dsimp -zeta +zetaDelta only

theorem Dev.sfAer_sound {s : Dev} {vs fn : Nat} {e : PcieErr} {posted : Bool} {hdr : HdrLog} (h0 : s.Sound) : (Dev.sfAer s vs fn e posted hdr).Sound := by
  unfold Dev.sfAer
  repeat' first
    | with_reducible assumption
    | with_reducible apply Dev.emit_sound
    | with_reducible apply Dev.modSfn_sound
    | (intro x; have hx : Dev.Sound x; (on_goal 2 => clear_value x); (on_goal 1 => unfold x))
    | (intro x; (fail_if_success (have q : Engs := x)); (fail_if_success (have q : Svc := x)); (fail_if_success (have q : Trust := x)); (fail_if_success (have q : _ → _ := x)); clear_value x)
    | intro x
    | lift_lets -underBinder
    | (simp only [↓Dev.sound_mk]; with_reducible apply Dev.Sound.parts)
    | dsimp -zeta only
    | split
    | dsimp -zeta +zetaDelta only

theorem Dev.atDevice_sound {s : Dev} {vs n kind val : Nat} {f : Dev → Nat → Dev} (h0 : s.Sound) (hf : ∀ t x1, Dev.Sound t → Dev.Sound (f t x1)) : (Dev.atDevice s vs n kind val f).Sound := by
  unfold Dev.atDevice
  repeat' first
    | with_reducible assumption
    | with_reducible apply Dev.emit_sound
    | with_reducible apply hf
    | intro x
    | dsimp -zeta only
    | split

theorem Dev.tellControl_sound {s : Dev} {vs n kind : Nat} (h0 : s.Sound) : (Dev.tellControl s vs n kind).Sound := by
  unfold Dev.tellControl
  repeat' first
    | with_reducible assumption
    | with_reducible apply Dev.emit_sound
    | (intro x; have hx : Dev.Sound x; (on_goal 2 => clear_value x); (on_goal 1 => unfold x))
    | (intro x; (fail_if_success (have q : Engs := x)); (fail_if_success (have q : Svc := x)); (fail_if_success (have q : Trust := x)); (fail_if_success (have q : _ → _ := x)); clear_value x)
    | intro x
    | lift_lets -underBinder
    | with_reducible apply ite_sound
    | dsimp -zeta only
    | split
    | dsimp -zeta +zetaDelta only

theorem Dev.tellControls_sound {s : Dev} {vs n : Nat} (h0 : s.Sound) : (Dev.tellControls s vs n).Sound := by
  unfold Dev.tellControls
  repeat' first
    | with_reducible assumption
    | with_reducible apply Dev.tellControl_sound
    | with_reducible apply each_sound
    | intro x
    | dsimp -zeta only

theorem Dev.modSlot_sound {s : Dev} {k : Nat} {f : SlotCh → SlotCh} (h0 : s.Sound) : (Dev.modSlot s k f).Sound := by
  unfold Dev.modSlot
  repeat' first
    | with_reducible assumption
    | (intro x; have hx : Dev.Sound x; (on_goal 2 => clear_value x); (on_goal 1 => unfold x))
    | (intro x; (fail_if_success (have q : Engs := x)); (fail_if_success (have q : Svc := x)); (fail_if_success (have q : Trust := x)); (fail_if_success (have q : _ → _ := x)); clear_value x)
    | intro x
    | lift_lets -underBinder
    | (simp only [↓Dev.sound_mk]; with_reducible apply Dev.Sound.parts)
    | dsimp -zeta only
    | dsimp -zeta +zetaDelta only

theorem Dev.vdspInt_sound {s : Dev} {vs n : Nat} (h0 : s.Sound) : (Dev.vdspInt s vs n).Sound := by
  unfold Dev.vdspInt
  repeat' first
    | with_reducible assumption
    | with_reducible apply Dev.emit_sound
    | with_reducible apply Dev.modPfn_sound
    | (intro x; have hx : Dev.Sound x; (on_goal 2 => clear_value x); (on_goal 1 => unfold x))
    | (intro x; (fail_if_success (have q : Engs := x)); (fail_if_success (have q : Svc := x)); (fail_if_success (have q : Trust := x)); (fail_if_success (have q : _ → _ := x)); clear_value x)
    | intro x
    | lift_lets -underBinder
    | (simp only [↓Dev.sound_mk]; with_reducible apply Dev.Sound.parts)
    | with_reducible apply ite_sound
    | dsimp -zeta only
    | split
    | dsimp -zeta +zetaDelta only

theorem Dev.hotplug_sound {s : Dev} {vs n bit : Nat} (h0 : s.Sound) : (Dev.hotplug s vs n bit).Sound := by
  unfold Dev.hotplug
  repeat' first
    | with_reducible assumption
    | with_reducible apply Dev.modVd_sound
    | with_reducible apply Dev.setPfn_sound
    | with_reducible apply Dev.vdspInt_sound
    | (intro x; have hx : Dev.Sound x; (on_goal 2 => clear_value x); (on_goal 1 => unfold x))
    | (intro x; (fail_if_success (have q : Engs := x)); (fail_if_success (have q : Svc := x)); (fail_if_success (have q : Trust := x)); (fail_if_success (have q : _ → _ := x)); clear_value x)
    | intro x
    | lift_lets -underBinder
    | (simp only [↓Dev.sound_mk]; with_reducible apply Dev.Sound.parts)
    | with_reducible apply ite_sound
    | dsimp -zeta only
    | split
    | dsimp -zeta +zetaDelta only

theorem Dev.syncPresence_sound {s : Dev} {vs n : Nat} (h0 : s.Sound) : (Dev.syncPresence s vs n).Sound := by
  unfold Dev.syncPresence
  repeat' first
    | with_reducible assumption
    | with_reducible apply Dev.hotplug_sound
    | with_reducible apply Dev.setPfn_sound
    | (intro x; have hx : Dev.Sound x; (on_goal 2 => clear_value x); (on_goal 1 => unfold x))
    | (intro x; (fail_if_success (have q : Engs := x)); (fail_if_success (have q : Svc := x)); (fail_if_success (have q : Trust := x)); (fail_if_success (have q : _ → _ := x)); clear_value x)
    | intro x
    | lift_lets -underBinder
    | (simp only [↓Dev.sound_mk]; with_reducible apply Dev.Sound.parts)
    | with_reducible apply ite_sound
    | dsimp -zeta only
    | split
    | dsimp -zeta +zetaDelta only

theorem Dev.noteLink_sound {s : Dev} {vs n st : Nat} (h0 : s.Sound) : (Dev.noteLink s vs n st).Sound := by
  unfold Dev.noteLink
  repeat' first
    | with_reducible assumption
    | with_reducible apply Dev.emit_sound
    | with_reducible apply Dev.hotplug_sound
    | with_reducible apply Dev.setPfn_sound
    | with_reducible apply st_sound
    | (intro x; have hx : Dev.Sound x; (on_goal 2 => clear_value x); (on_goal 1 => unfold x))
    | (intro x; (fail_if_success (have q : Engs := x)); (fail_if_success (have q : Svc := x)); (fail_if_success (have q : Trust := x)); (fail_if_success (have q : _ → _ := x)); clear_value x)
    | intro x
    | lift_lets -underBinder
    | (simp only [↓Dev.sound_mk]; with_reducible apply Dev.Sound.parts)
    | with_reducible apply ite_sound
    | dsimp -zeta only
    | split
    | dsimp -zeta +zetaDelta only

theorem Dev.dpcFree_sound {s : Dev} {vs n : Nat} (h0 : s.Sound) : (Dev.dpcFree s vs n).Sound := by
  unfold Dev.dpcFree
  repeat' first
    | with_reducible assumption
    | with_reducible apply Dev.modPfn_sound
    | with_reducible apply Dev.modVd_sound
    | (intro x; have hx : Dev.Sound x; (on_goal 2 => clear_value x); (on_goal 1 => unfold x))
    | (intro x; (fail_if_success (have q : Engs := x)); (fail_if_success (have q : Svc := x)); (fail_if_success (have q : Trust := x)); (fail_if_success (have q : _ → _ := x)); clear_value x)
    | intro x
    | lift_lets -underBinder
    | (simp only [↓Dev.sound_mk]; with_reducible apply Dev.Sound.parts)
    | with_reducible apply ite_sound
    | dsimp -zeta only
    | split
    | dsimp -zeta +zetaDelta only

theorem Dev.portSays_sound {s : Dev} {vs n st : Nat} {x : PortNotice} (h0 : s.Sound) : (Dev.portSays s vs n st x).Sound := by
  unfold Dev.portSays
  repeat' first
    | with_reducible assumption
    | with_reducible apply Dev.dpcFree_sound
    | with_reducible apply Dev.hotplug_sound
    | with_reducible apply Dev.modVd_sound
    | with_reducible apply Dev.noteLink_sound
    | with_reducible apply st_sound
    | with_reducible apply Dev.syncPresence_sound
    | (intro x; have hx : Dev.Sound x; (on_goal 2 => clear_value x); (on_goal 1 => unfold x))
    | (intro x; (fail_if_success (have q : Engs := x)); (fail_if_success (have q : Svc := x)); (fail_if_success (have q : Trust := x)); (fail_if_success (have q : _ → _ := x)); clear_value x)
    | intro x
    | lift_lets -underBinder
    | (simp only [↓Dev.sound_mk]; with_reducible apply Dev.Sound.parts)
    | with_reducible apply ite_sound
    | dsimp -zeta only
    | split
    | dsimp -zeta +zetaDelta only

theorem Dev.tellHost_sound {s : Dev} {p : Nat} {x : PortNotice} (h0 : s.Sound) : (Dev.tellHost s p x).Sound := by
  unfold Dev.tellHost
  repeat' first
    | with_reducible assumption
    | with_reducible apply b_sound
    | with_reducible apply Dev.emit_sound
    | with_reducible apply Dev.portSays_sound
    | (intro x; have hx : Dev.Sound x; (on_goal 2 => clear_value x); (on_goal 1 => unfold x))
    | (intro x; (fail_if_success (have q : Engs := x)); (fail_if_success (have q : Svc := x)); (fail_if_success (have q : Trust := x)); (fail_if_success (have q : _ → _ := x)); clear_value x)
    | intro x
    | lift_lets -underBinder
    | with_reducible apply ite_sound
    | dsimp -zeta only
    | split
    | dsimp -zeta +zetaDelta only

theorem Dev.linkDown_sound {s0 : Dev} {n ltssm : Nat} (h0 : s0.Sound) : (Dev.linkDown s0 n ltssm).Sound := by
  unfold Dev.linkDown
  repeat' first
    | with_reducible assumption
    | with_reducible apply Dev.fsets_sound
    | with_reducible apply Dev.modPport_sound
    | with_reducible apply Dev.tellHost_sound
    | with_reducible apply Dev.watchBreak_sound
    | with_reducible apply each_sound
    | (intro x; have hx : Dev.Sound x; (on_goal 2 => clear_value x); (on_goal 1 => unfold x))
    | (intro x; (fail_if_success (have q : Engs := x)); (fail_if_success (have q : Svc := x)); (fail_if_success (have q : Trust := x)); (fail_if_success (have q : _ → _ := x)); clear_value x)
    | intro x
    | lift_lets -underBinder
    | (simp only [↓Dev.sound_mk]; with_reducible apply Dev.Sound.parts)
    | dsimp -zeta only
    | dsimp -zeta +zetaDelta only

theorem Dev.linkFree_sound {s : Dev} {p : Nat} (h0 : s.Sound) : (Dev.linkFree s p).Sound := by
  unfold Dev.linkFree
  repeat' first
    | with_reducible assumption
    | with_reducible apply Dev.fset_sound
    | (intro x; have hx : Dev.Sound x; (on_goal 2 => clear_value x); (on_goal 1 => unfold x))
    | (intro x; (fail_if_success (have q : Engs := x)); (fail_if_success (have q : Svc := x)); (fail_if_success (have q : Trust := x)); (fail_if_success (have q : _ → _ := x)); clear_value x)
    | intro x
    | lift_lets -underBinder
    | with_reducible apply ite_sound
    | dsimp -zeta only
    | split
    | dsimp -zeta +zetaDelta only

end Sys2Proof.Machine
end

