-- ==== Sys2Proof/Laws/SoundErrors.lean ====
section
/-! SUPPORT. Every operation of Machine/Errors.lean keeps the switch sound. -/
set_option linter.unusedTactic false
set_option linter.unusedSimpArgs false
set_option linter.unreachableTactic false
namespace Sys2Proof.Machine

theorem Dev.oweToken_sound {s : Dev} {src dst par : Nat} (h0 : s.Sound) : (Dev.oweToken s src dst par).Sound := by
  unfold Dev.oweToken
  repeat' first
    | with_reducible assumption
    | (intro x; have hx : Dev.Sound x; (on_goal 2 => clear_value x); (on_goal 1 => unfold x))
    | (intro x; (fail_if_success (have q : Engs := x)); (fail_if_success (have q : Svc := x)); (fail_if_success (have q : Trust := x)); (fail_if_success (have q : _ → _ := x)); clear_value x)
    | intro x
    | lift_lets -underBinder
    | (simp only [↓Dev.sound_mk]; with_reducible apply Dev.Sound.parts)
    | with_reducible apply ite_sound
    | dsimp -zeta only
    | split
    | dsimp -zeta +zetaDelta only

theorem Dev.freeCells_sound {s : Dev} (h0 : s.Sound) : (Dev.freeCells s).Sound := by
  unfold Dev.freeCells
  repeat' first
    | with_reducible assumption
    | with_reducible apply Dev.owe_sound
    | with_reducible apply Dev.oweToken_sound
    | with_reducible apply Dev.shelfReturn_sound
    | with_reducible apply each_sound
    | (intro x; have hx : Dev.Sound x; (on_goal 2 => clear_value x); (on_goal 1 => unfold x))
    | (intro x; (fail_if_success (have q : Engs := x)); (fail_if_success (have q : Svc := x)); (fail_if_success (have q : Trust := x)); (fail_if_success (have q : _ → _ := x)); clear_value x)
    | intro x
    | lift_lets -underBinder
    | (simp only [↓Dev.sound_mk]; with_reducible apply Dev.Sound.parts)
    | dsimp -zeta only
    | split
    | dsimp -zeta +zetaDelta only

theorem Dev.perrReport_sound {s : Dev} {p : Pkt} {reason : Nat} (h0 : s.Sound) : (Dev.perrReport s p reason).Sound := by
  unfold Dev.perrReport
  repeat' first
    | with_reducible assumption
    | with_reducible apply b_sound
    | with_reducible apply Dev.ctlPacket_sound
    | (intro x; have hx : Dev.Sound x; (on_goal 2 => clear_value x); (on_goal 1 => unfold x))
    | (intro x; (fail_if_success (have q : Engs := x)); (fail_if_success (have q : Svc := x)); (fail_if_success (have q : Trust := x)); (fail_if_success (have q : _ → _ := x)); clear_value x)
    | intro x
    | lift_lets -underBinder
    | (simp only [↓Dev.sound_mk]; with_reducible apply Dev.Sound.parts)
    | with_reducible apply ite_sound
    | dsimp -zeta only
    | split
    | dsimp -zeta +zetaDelta only

theorem Dev.answer_sound {s : Dev} {p : Pkt} {t : Tlp} {status completer : Nat} (h0 : s.Sound) : (Dev.answer s p t status completer).Sound := by
  unfold Dev.answer
  repeat' first
    | with_reducible assumption
    | with_reducible apply Dev.emit_sound
    | intro x
    | dsimp -zeta only

theorem Dev.synthesize_sound {s : Dev} {p : Pkt} {t : Tlp} (h0 : s.Sound) : (Dev.synthesize s p t).Sound := by
  unfold Dev.synthesize
  repeat' first
    | with_reducible assumption
    | with_reducible apply Dev.answer_sound
    | with_reducible apply Dev.freeNat_sound
    | with_reducible refine Dev.freeNat_pair (by with_reducible assumption) ?_
    | (intro x; have hx : Dev.Sound x; (on_goal 2 => clear_value x); (on_goal 1 => unfold x))
    | (intro x; (fail_if_success (have q : Engs := x)); (fail_if_success (have q : Svc := x)); (fail_if_success (have q : Trust := x)); (fail_if_success (have q : _ → _ := x)); clear_value x)
    | intro x
    | lift_lets -underBinder
    | dsimp -zeta only
    | split
    | dsimp -zeta +zetaDelta only

theorem Dev.errLog_sound {s : Dev} {reason gpa port oc typ vs : Nat} (h0 : s.Sound) : (Dev.errLog s reason gpa port oc typ vs).Sound := by
  unfold Dev.errLog
  repeat' first
    | with_reducible assumption
    | with_reducible apply Dev.firstEvent_sound
    | intro x
    | dsimp -zeta only

theorem Dev.dropLog_sound {s : Dev} {p : Pkt} {reason : Nat} (h0 : s.Sound) : (Dev.dropLog s p reason).Sound := by
  unfold Dev.dropLog
  repeat' first
    | with_reducible assumption
    | with_reducible apply Dev.count_sound
    | with_reducible apply Dev.errLog_sound
    | intro x
    | with_reducible apply ite_sound
    | dsimp -zeta only
    | split

theorem Dev.drop_sound {s : Dev} {pid : Nat} {p : Pkt} (h0 : s.Sound) : (Dev.drop s pid p).Sound := by
  unfold Dev.drop
  repeat' first
    | with_reducible assumption
    | with_reducible apply Dev.delPkt_sound
    | with_reducible apply Dev.putPkt_sound
    | (intro x; have hx : Dev.Sound x; (on_goal 2 => clear_value x); (on_goal 1 => unfold x))
    | (intro x; (fail_if_success (have q : Engs := x)); (fail_if_success (have q : Svc := x)); (fail_if_success (have q : Trust := x)); (fail_if_success (have q : _ → _ := x)); clear_value x)
    | intro x
    | lift_lets -underBinder
    | (simp only [↓Dev.sound_mk]; with_reducible apply Dev.Sound.parts)
    | with_reducible apply ite_sound
    | dsimp -zeta only
    | split
    | dsimp -zeta +zetaDelta only

theorem Dev.discardFar_sound {s : Dev} {pid reason : Nat} (h0 : s.Sound) : (Dev.discardFar s pid reason).Sound := by
  unfold Dev.discardFar
  repeat' first
    | with_reducible assumption
    | with_reducible apply Dev.count_sound
    | with_reducible apply Dev.drop_sound
    | with_reducible apply Dev.dropLog_sound
    | with_reducible apply Dev.oweToken_sound
    | with_reducible apply Dev.perrReport_sound
    | with_reducible apply Dev.synthesize_sound
    | (intro x; have hx : Dev.Sound x; (on_goal 2 => clear_value x); (on_goal 1 => unfold x))
    | (intro x; (fail_if_success (have q : Engs := x)); (fail_if_success (have q : Svc := x)); (fail_if_success (have q : Trust := x)); (fail_if_success (have q : _ → _ := x)); clear_value x)
    | intro x
    | lift_lets -underBinder
    | with_reducible apply ite_sound
    | dsimp -zeta only
    | split
    | dsimp -zeta +zetaDelta only

theorem Dev.flushPort_sound {s : Dev} {n : Nat} (h0 : s.Sound) : (Dev.flushPort s n).Sound := by
  unfold Dev.flushPort
  repeat' first
    | with_reducible assumption
    | with_reducible apply Dev.discardFar_sound
    | with_reducible apply each_sound
    | (intro x; have hx : Dev.Sound x; (on_goal 2 => clear_value x); (on_goal 1 => unfold x))
    | (intro x; (fail_if_success (have q : Engs := x)); (fail_if_success (have q : Svc := x)); (fail_if_success (have q : Trust := x)); (fail_if_success (have q : _ → _ := x)); clear_value x)
    | intro x
    | lift_lets -underBinder
    | (simp only [↓Dev.sound_mk]; with_reducible apply Dev.Sound.parts)
    | dsimp -zeta only
    | dsimp -zeta +zetaDelta only

theorem Dev.lockNotice_sound {s : Dev} {vs : Nat} (h0 : s.Sound) : (Dev.lockNotice s vs).Sound := by
  unfold Dev.lockNotice
  repeat' first
    | with_reducible assumption
    | with_reducible apply Dev.ctlPacket_sound
    | intro x
    | dsimp -zeta only
    | split

theorem Dev.dropTrickOf_sound {s : Dev} {n reqId tag : Nat} (h0 : s.Sound) : (Dev.dropTrickOf s n reqId tag).Sound := by
  unfold Dev.dropTrickOf
  repeat' first
    | with_reducible assumption
    | with_reducible apply each_sound
    | (intro x; have hx : Dev.Sound x; (on_goal 2 => clear_value x); (on_goal 1 => unfold x))
    | (intro x; (fail_if_success (have q : Engs := x)); (fail_if_success (have q : Svc := x)); (fail_if_success (have q : Trust := x)); (fail_if_success (have q : _ → _ := x)); clear_value x)
    | intro x
    | lift_lets -underBinder
    | (simp only [↓Dev.sound_mk]; with_reducible apply Dev.Sound.parts)
    | dsimp -zeta only
    | dsimp -zeta +zetaDelta only

theorem Dev.dropLockTricks_sound {s : Dev} {n : Nat} (h0 : s.Sound) : (Dev.dropLockTricks s n).Sound := by
  unfold Dev.dropLockTricks
  repeat' first
    | with_reducible assumption
    | with_reducible apply each_sound
    | (intro x; have hx : Dev.Sound x; (on_goal 2 => clear_value x); (on_goal 1 => unfold x))
    | (intro x; (fail_if_success (have q : Engs := x)); (fail_if_success (have q : Svc := x)); (fail_if_success (have q : Trust := x)); (fail_if_success (have q : _ → _ := x)); clear_value x)
    | intro x
    | lift_lets -underBinder
    | (simp only [↓Dev.sound_mk]; with_reducible apply Dev.Sound.parts)
    | dsimp -zeta only
    | dsimp -zeta +zetaDelta only

theorem Dev.aerLog_sound {s : Dev} {vs n : Nat} {e : PcieErr} {hdr : HdrLog} (h0 : s.Sound) : (Dev.aerLog s vs n e hdr).Sound := by
  unfold Dev.aerLog
  repeat' first
    | with_reducible assumption
    | with_reducible apply Dev.emit_sound
    | with_reducible apply Dev.setPfn_sound
    | (intro x; have hx : Dev.Sound x; (on_goal 2 => clear_value x); (on_goal 1 => unfold x))
    | (intro x; (fail_if_success (have q : Engs := x)); (fail_if_success (have q : Svc := x)); (fail_if_success (have q : Trust := x)); (fail_if_success (have q : _ → _ := x)); clear_value x)
    | intro x
    | lift_lets -underBinder
    | dsimp -zeta only
    | split
    | dsimp -zeta +zetaDelta only

theorem Dev.errNotice_sound {s : Dev} {vs n : Nat} {e : Option PcieErr} {hdr : HdrLog} {trig : Option (Nat × Nat)} (h0 : s.Sound) : (Dev.errNotice s vs n e hdr trig).Sound := by
  unfold Dev.errNotice
  repeat' first
    | with_reducible assumption
    | with_reducible apply Dev.emit_sound
    | intro x
    | dsimp -zeta only
    | split

theorem Dev.lockLost_sound {s : Dev} {t : Trick} (h0 : s.Sound) : (Dev.lockLost s t).Sound := by
  unfold Dev.lockLost
  repeat' first
    | with_reducible assumption
    | with_reducible apply Dev.aerLog_sound
    | with_reducible apply b_sound
    | with_reducible apply Dev.errNotice_sound
    | with_reducible apply Dev.lockNotice_sound
    | (intro x; have hx : Dev.Sound x; (on_goal 2 => clear_value x); (on_goal 1 => unfold x))
    | (intro x; (fail_if_success (have q : Engs := x)); (fail_if_success (have q : Svc := x)); (fail_if_success (have q : Trust := x)); (fail_if_success (have q : _ → _ := x)); clear_value x)
    | intro x
    | lift_lets -underBinder
    | (simp only [↓Dev.sound_mk]; with_reducible apply Dev.Sound.parts)
    | with_reducible apply ite_sound
    | dsimp -zeta only
    | split
    | dsimp -zeta +zetaDelta only

theorem Dev.containPort_sound {s : Dev} {n : Nat} (h0 : s.Sound) : (Dev.containPort s n).Sound := by
  unfold Dev.containPort
  repeat' first
    | with_reducible assumption
    | with_reducible apply Dev.dropLockTricks_sound
    | with_reducible apply Dev.flushPort_sound
    | with_reducible apply Dev.linkDown_sound
    | with_reducible apply Dev.lockLost_sound
    | with_reducible apply each_sound
    | (intro x; have hx : Dev.Sound x; (on_goal 2 => clear_value x); (on_goal 1 => unfold x))
    | (intro x; (fail_if_success (have q : Engs := x)); (fail_if_success (have q : Svc := x)); (fail_if_success (have q : Trust := x)); (fail_if_success (have q : _ → _ := x)); clear_value x)
    | intro x
    | lift_lets -underBinder
    | (simp only [↓Dev.sound_mk]; with_reducible apply Dev.Sound.parts)
    | dsimp -zeta only
    | dsimp -zeta +zetaDelta only

theorem Dev.dpcStatus_sound {s : Dev} {vs n reason src : Nat} (h0 : s.Sound) : (Dev.dpcStatus s vs n reason src).Sound := by
  unfold Dev.dpcStatus
  repeat' first
    | with_reducible assumption
    | with_reducible apply Dev.emit_sound
    | with_reducible apply Dev.modVd_sound
    | with_reducible apply Dev.setPfn_sound
    | with_reducible apply Dev.vdspInt_sound
    | (intro x; have hx : Dev.Sound x; (on_goal 2 => clear_value x); (on_goal 1 => unfold x))
    | (intro x; (fail_if_success (have q : Engs := x)); (fail_if_success (have q : Svc := x)); (fail_if_success (have q : Trust := x)); (fail_if_success (have q : _ → _ := x)); clear_value x)
    | intro x
    | lift_lets -underBinder
    | (simp only [↓Dev.sound_mk]; with_reducible apply Dev.Sound.parts)
    | with_reducible apply ite_sound
    | dsimp -zeta only
    | split
    | dsimp -zeta +zetaDelta only

theorem Dev.dpcTrigger_sound {s : Dev} {vs n reason src : Nat} (h0 : s.Sound) : (Dev.dpcTrigger s vs n reason src).Sound := by
  unfold Dev.dpcTrigger
  repeat' first
    | with_reducible assumption
    | with_reducible apply b_sound
    | with_reducible apply Dev.containPort_sound
    | with_reducible apply Dev.dpcStatus_sound
    | with_reducible apply Dev.emit_sound
    | with_reducible apply Dev.modVd_sound
    | (intro x; have hx : Dev.Sound x; (on_goal 2 => clear_value x); (on_goal 1 => unfold x))
    | (intro x; (fail_if_success (have q : Engs := x)); (fail_if_success (have q : Svc := x)); (fail_if_success (have q : Trust := x)); (fail_if_success (have q : _ → _ := x)); clear_value x)
    | intro x
    | lift_lets -underBinder
    | (simp only [↓Dev.sound_mk]; with_reducible apply Dev.Sound.parts)
    | with_reducible apply ite_sound
    | dsimp -zeta only
    | split
    | dsimp -zeta +zetaDelta only

theorem Dev.aer_sound {s : Dev} {vs n : Nat} {e : PcieErr} {hdr : HdrLog} (h0 : s.Sound) : (Dev.aer s vs n e hdr).Sound := by
  unfold Dev.aer
  repeat' first
    | with_reducible assumption
    | with_reducible apply Dev.aerLog_sound
    | with_reducible apply Dev.dpcTrigger_sound
    | with_reducible apply Dev.errNotice_sound
    | (intro x; have hx : Dev.Sound x; (on_goal 2 => clear_value x); (on_goal 1 => unfold x))
    | (intro x; (fail_if_success (have q : Engs := x)); (fail_if_success (have q : Svc := x)); (fail_if_success (have q : Trust := x)); (fail_if_success (have q : _ → _ := x)); clear_value x)
    | intro x
    | lift_lets -underBinder
    | with_reducible apply ite_sound
    | dsimp -zeta only
    | split
    | dsimp -zeta +zetaDelta only

theorem Dev.aerContain_sound {s : Dev} {vs n : Nat} {e : PcieErr} (h0 : s.Sound) : (Dev.aerContain s vs n e).Sound := by
  unfold Dev.aerContain
  repeat' first
    | with_reducible assumption
    | with_reducible apply Dev.aerLog_sound
    | with_reducible apply Dev.dpcTrigger_sound
    | with_reducible apply Dev.errNotice_sound
    | (intro x; have hx : Dev.Sound x; (on_goal 2 => clear_value x); (on_goal 1 => unfold x))
    | (intro x; (fail_if_success (have q : Engs := x)); (fail_if_success (have q : Svc := x)); (fail_if_success (have q : Trust := x)); (fail_if_success (have q : _ → _ := x)); clear_value x)
    | intro x
    | lift_lets -underBinder
    | (simp only [↓Dev.sound_mk]; with_reducible apply Dev.Sound.parts)
    | with_reducible apply ite_sound
    | dsimp -zeta only
    | split
    | dsimp -zeta +zetaDelta only

theorem Dev.dpcMessage_sound {s : Dev} {vs n reason src : Nat} (h0 : s.Sound) : (Dev.dpcMessage s vs n reason src).Sound := by
  unfold Dev.dpcMessage
  repeat' first
    | with_reducible assumption
    | with_reducible apply Dev.dpcTrigger_sound
    | with_reducible apply Dev.errNotice_sound
    | (intro x; have hx : Dev.Sound x; (on_goal 2 => clear_value x); (on_goal 1 => unfold x))
    | (intro x; (fail_if_success (have q : Engs := x)); (fail_if_success (have q : Svc := x)); (fail_if_success (have q : Trust := x)); (fail_if_success (have q : _ → _ := x)); clear_value x)
    | intro x
    | lift_lets -underBinder
    | (simp only [↓Dev.sound_mk]; with_reducible apply Dev.Sound.parts)
    | with_reducible apply ite_sound
    | dsimp -zeta only
    | split
    | dsimp -zeta +zetaDelta only

theorem Dev.aerAtEntry_sound {s : Dev} {p : Pkt} {e : PcieErr} (h0 : s.Sound) : (Dev.aerAtEntry s p e).Sound := by
  unfold Dev.aerAtEntry
  repeat' first
    | with_reducible assumption
    | with_reducible apply Dev.aer_sound
    | with_reducible apply Dev.sfAer_sound
    | (intro x; have hx : Dev.Sound x; (on_goal 2 => clear_value x); (on_goal 1 => unfold x))
    | (intro x; (fail_if_success (have q : Engs := x)); (fail_if_success (have q : Svc := x)); (fail_if_success (have q : Trust := x)); (fail_if_success (have q : _ → _ := x)); clear_value x)
    | intro x
    | lift_lets -underBinder
    | (simp only [↓Dev.sound_mk]; with_reducible apply Dev.Sound.parts)
    | dsimp -zeta only
    | split
    | dsimp -zeta +zetaDelta only

theorem Dev.discard_sound {s : Dev} {pid reason : Nat} (h0 : s.Sound) : (Dev.discard s pid reason).Sound := by
  unfold Dev.discard
  repeat' first
    | with_reducible assumption
    | with_reducible apply Dev.aerAtEntry_sound
    | with_reducible apply Dev.answer_sound
    | with_reducible apply Dev.delPkt_sound
    | with_reducible apply Dev.discardFar_sound
    | with_reducible apply Dev.dropLog_sound
    | (intro x; have hx : Dev.Sound x; (on_goal 2 => clear_value x); (on_goal 1 => unfold x))
    | (intro x; (fail_if_success (have q : Engs := x)); (fail_if_success (have q : Svc := x)); (fail_if_success (have q : Trust := x)); (fail_if_success (have q : _ → _ := x)); clear_value x)
    | intro x
    | lift_lets -underBinder
    | with_reducible apply ite_sound
    | dsimp -zeta only
    | split
    | dsimp -zeta +zetaDelta only

theorem Dev.lockBreak_sound {s : Dev} {t : Trick} (h0 : s.Sound) : (Dev.lockBreak s t).Sound := by
  unfold Dev.lockBreak
  repeat' first
    | with_reducible assumption
    | with_reducible apply Dev.aer_sound
    | with_reducible apply b_sound
    | with_reducible apply Dev.emit_sound
    | with_reducible apply Dev.lockNotice_sound
    | (intro x; have hx : Dev.Sound x; (on_goal 2 => clear_value x); (on_goal 1 => unfold x))
    | (intro x; (fail_if_success (have q : Engs := x)); (fail_if_success (have q : Svc := x)); (fail_if_success (have q : Trust := x)); (fail_if_success (have q : _ → _ := x)); clear_value x)
    | intro x
    | lift_lets -underBinder
    | (simp only [↓Dev.sound_mk]; with_reducible apply Dev.Sound.parts)
    | with_reducible apply ite_sound
    | dsimp -zeta only
    | split
    | dsimp -zeta +zetaDelta only

end Sys2Proof.Machine
end

