-- ==== Sys2Proof/Laws/SoundSfBase.lean ====
section
/-! SUPPORT. Every operation of Machine/SfBase.lean keeps the switch sound. -/
set_option linter.unusedTactic false
set_option linter.unusedSimpArgs false
set_option linter.unreachableTactic false
namespace Sys2Proof.Machine

theorem Dev.signal_sound {s : Dev} {vs fn v : Nat} {w : Option Way} (h0 : s.Sound) : (Dev.signal s vs fn v w).Sound := by
  unfold Dev.signal
  repeat' first
    | with_reducible assumption
    | with_reducible apply Dev.emit_sound
    | with_reducible apply Dev.fcount_sound
    | with_reducible apply Dev.modSfn_sound
    | (intro x; have hx : Dev.Sound x; (on_goal 2 => clear_value x); (on_goal 1 => unfold x))
    | (intro x; (fail_if_success (have q : Engs := x)); (fail_if_success (have q : Svc := x)); (fail_if_success (have q : Trust := x)); (fail_if_success (have q : _ → _ := x)); clear_value x)
    | intro x
    | lift_lets -underBinder
    | (simp only [↓Dev.sound_mk]; with_reducible apply Dev.Sound.parts)
    | with_reducible apply ite_sound
    | dsimp -zeta only
    | split
    | dsimp -zeta +zetaDelta only

theorem Dev.intxSync_sound {s : Dev} {vs : Nat} (h0 : s.Sound) : (Dev.intxSync s vs).Sound := by
  unfold Dev.intxSync
  repeat' first
    | with_reducible assumption
    | with_reducible apply Dev.emit_sound
    | with_reducible apply Dev.fcount_sound
    | with_reducible apply Dev.modSfn_sound
    | (intro x; have hx : Dev.Sound x; (on_goal 2 => clear_value x); (on_goal 1 => unfold x))
    | (intro x; (fail_if_success (have q : Engs := x)); (fail_if_success (have q : Svc := x)); (fail_if_success (have q : Trust := x)); (fail_if_success (have q : _ → _ := x)); clear_value x)
    | intro x
    | lift_lets -underBinder
    | (simp only [↓Dev.sound_mk]; with_reducible apply Dev.Sound.parts)
    | with_reducible apply ite_sound
    | dsimp -zeta only
    | split
    | dsimp -zeta +zetaDelta only

theorem Dev.sfEvent_sound {s : Dev} {vs fn : Nat} {f : Fld} (h0 : s.Sound) : (Dev.sfEvent s vs fn f).Sound := by
  unfold Dev.sfEvent
  repeat' first
    | with_reducible assumption
    | with_reducible apply Dev.fset_sound
    | with_reducible apply Dev.intxSync_sound
    | with_reducible apply Dev.raise_sound
    | with_reducible apply Dev.signal_sound
    | (intro x; have hx : Dev.Sound x; (on_goal 2 => clear_value x); (on_goal 1 => unfold x))
    | (intro x; (fail_if_success (have q : Engs := x)); (fail_if_success (have q : Svc := x)); (fail_if_success (have q : Trust := x)); (fail_if_success (have q : _ → _ := x)); clear_value x)
    | intro x
    | lift_lets -underBinder
    | with_reducible apply ite_sound
    | dsimp -zeta only
    | split
    | dsimp -zeta +zetaDelta only

theorem Dev.sfSend_sound {s : Dev} {vs fn tag : Nat} {use : SfUse} (h0 : s.Sound) : (Dev.sfSend s vs fn tag use).Sound := by
  unfold Dev.sfSend
  repeat' first
    | with_reducible assumption
    | (intro x; have hx : Dev.Sound x; (on_goal 2 => clear_value x); (on_goal 1 => unfold x))
    | (intro x; (fail_if_success (have q : Engs := x)); (fail_if_success (have q : Svc := x)); (fail_if_success (have q : Trust := x)); (fail_if_success (have q : _ → _ := x)); clear_value x)
    | intro x
    | lift_lets -underBinder
    | (simp only [↓Dev.sound_mk]; with_reducible apply Dev.Sound.parts)
    | dsimp -zeta only
    | dsimp -zeta +zetaDelta only

theorem Dev.sfDone_sound {s : Dev} {r : SfReq} (h0 : s.Sound) : (Dev.sfDone s r).Sound := by
  unfold Dev.sfDone
  repeat' first
    | with_reducible assumption
    | (intro x; have hx : Dev.Sound x; (on_goal 2 => clear_value x); (on_goal 1 => unfold x))
    | (intro x; (fail_if_success (have q : Engs := x)); (fail_if_success (have q : Svc := x)); (fail_if_success (have q : Trust := x)); (fail_if_success (have q : _ → _ := x)); clear_value x)
    | intro x
    | lift_lets -underBinder
    | (simp only [↓Dev.sound_mk]; with_reducible apply Dev.Sound.parts)
    | dsimp -zeta only
    | dsimp -zeta +zetaDelta only

theorem Dev.sfQuarantine_sound {s : Dev} {r : SfReq} {silent : Bool} (h0 : s.Sound) : (Dev.sfQuarantine s r silent).Sound := by
  unfold Dev.sfQuarantine
  repeat' first
    | with_reducible assumption
    | with_reducible apply Dev.sfDone_sound
    | (intro x; have hx : Dev.Sound x; (on_goal 2 => clear_value x); (on_goal 1 => unfold x))
    | (intro x; (fail_if_success (have q : Engs := x)); (fail_if_success (have q : Svc := x)); (fail_if_success (have q : Trust := x)); (fail_if_success (have q : _ → _ := x)); clear_value x)
    | intro x
    | lift_lets -underBinder
    | (simp only [↓Dev.sound_mk]; with_reducible apply Dev.Sound.parts)
    | dsimp -zeta only
    | dsimp -zeta +zetaDelta only

theorem Dev.modQ_sound {s : Dev} {q : Nat} {g : SfQueue → SfQueue} (h0 : s.Sound) : (Dev.modQ s q g).Sound := by
  unfold Dev.modQ
  repeat' first
    | with_reducible assumption
    | (intro x; have hx : Dev.Sound x; (on_goal 2 => clear_value x); (on_goal 1 => unfold x))
    | (intro x; (fail_if_success (have q : Engs := x)); (fail_if_success (have q : Svc := x)); (fail_if_success (have q : Trust := x)); (fail_if_success (have q : _ → _ := x)); clear_value x)
    | intro x
    | lift_lets -underBinder
    | (simp only [↓Dev.sound_mk]; with_reducible apply Dev.Sound.parts)
    | dsimp -zeta only
    | dsimp -zeta +zetaDelta only

theorem Dev.fetchMore_sound {s : Dev} {q : Nat} (h0 : s.Sound) : (Dev.fetchMore s q).Sound := by
  unfold Dev.fetchMore
  repeat' first
    | with_reducible assumption
    | with_reducible apply Dev.emit_sound
    | with_reducible apply Dev.modQ_sound
    | with_reducible apply Dev.sfSend_sound
    | (intro x; have hx : Dev.Sound x; (on_goal 2 => clear_value x); (on_goal 1 => unfold x))
    | (intro x; (fail_if_success (have q : Engs := x)); (fail_if_success (have q : Svc := x)); (fail_if_success (have q : Trust := x)); (fail_if_success (have q : _ → _ := x)); clear_value x)
    | intro x
    | lift_lets -underBinder
    | (simp only [↓Dev.sound_mk]; with_reducible apply Dev.Sound.parts)
    | with_reducible apply ite_sound
    | dsimp -zeta only
    | split
    | dsimp -zeta +zetaDelta only

theorem Dev.queueErr_sound {s : Dev} {q code : Nat} (h0 : s.Sound) : (Dev.queueErr s q code).Sound := by
  unfold Dev.queueErr
  repeat' first
    | with_reducible assumption
    | with_reducible apply Dev.fsets_sound
    | with_reducible apply Dev.sfEvent_sound
    | intro x
    | dsimp -zeta only
    | split

theorem Dev.pushRecord_sound {s : Dev} {q : Nat} {body : List Byte} {irq : Bool} {w : Option Way} (h0 : s.Sound) : (Dev.pushRecord s q body irq w).Sound := by
  unfold Dev.pushRecord
  repeat' first
    | with_reducible assumption
    | with_reducible apply Dev.emit_sound
    | with_reducible apply Dev.fcount_sound
    | with_reducible apply Dev.fsets_sound
    | with_reducible apply Dev.intxSync_sound
    | with_reducible apply irq_sound
    | with_reducible apply Dev.modQ_sound
    | with_reducible apply Dev.queueErr_sound
    | with_reducible apply Dev.signal_sound
    | (intro x; have hx : Dev.Sound x; (on_goal 2 => clear_value x); (on_goal 1 => unfold x))
    | (intro x; (fail_if_success (have q : Engs := x)); (fail_if_success (have q : Svc := x)); (fail_if_success (have q : Trust := x)); (fail_if_success (have q : _ → _ := x)); clear_value x)
    | intro x
    | lift_lets -underBinder
    | (simp only [↓Dev.sound_mk]; with_reducible apply Dev.Sound.parts)
    | with_reducible apply ite_sound
    | dsimp -zeta only
    | split
    | dsimp -zeta +zetaDelta only

theorem Dev.complete_sound {s : Dev} {q idx : Nat} {r : RecInfo} (h0 : s.Sound) : (Dev.complete s q idx r).Sound := by
  unfold Dev.complete
  repeat' first
    | with_reducible assumption
    | with_reducible apply Dev.fcount_sound
    | with_reducible apply Dev.modQ_sound
    | with_reducible apply Dev.pushRecord_sound
    | (intro x; have hx : Dev.Sound x; (on_goal 2 => clear_value x); (on_goal 1 => unfold x))
    | (intro x; (fail_if_success (have q : Engs := x)); (fail_if_success (have q : Svc := x)); (fail_if_success (have q : Trust := x)); (fail_if_success (have q : _ → _ := x)); clear_value x)
    | intro x
    | lift_lets -underBinder
    | (simp only [↓Dev.sound_mk]; with_reducible apply Dev.Sound.parts)
    | with_reducible apply ite_sound
    | dsimp -zeta only
    | split
    | dsimp -zeta +zetaDelta only

theorem Dev.startDesc_sound {s : Dev} {q idx : Nat} (h0 : s.Sound) : (Dev.startDesc s q idx).Sound := by
  unfold Dev.startDesc
  repeat' first
    | with_reducible assumption
    | with_reducible apply Dev.modQ_sound
    | (intro x; have hx : Dev.Sound x; (on_goal 2 => clear_value x); (on_goal 1 => unfold x))
    | (intro x; (fail_if_success (have q : Engs := x)); (fail_if_success (have q : Svc := x)); (fail_if_success (have q : Trust := x)); (fail_if_success (have q : _ → _ := x)); clear_value x)
    | intro x
    | lift_lets -underBinder
    | (simp only [↓Dev.sound_mk]; with_reducible apply Dev.Sound.parts)
    | with_reducible apply ite_sound
    | dsimp -zeta only
    | split
    | dsimp -zeta +zetaDelta only

theorem Dev.ledgerMark_sound {s : Dev} {p : Pkt} (h0 : s.Sound) : (Dev.ledgerMark s p).Sound := by
  unfold Dev.ledgerMark
  repeat' first
    | with_reducible assumption
    | with_reducible apply Dev.fcount_sound
    | (intro x; have hx : Dev.Sound x; (on_goal 2 => clear_value x); (on_goal 1 => unfold x))
    | (intro x; (fail_if_success (have q : Engs := x)); (fail_if_success (have q : Svc := x)); (fail_if_success (have q : Trust := x)); (fail_if_success (have q : _ → _ := x)); clear_value x)
    | intro x
    | lift_lets -underBinder
    | (simp only [↓Dev.sound_mk]; with_reducible apply Dev.Sound.parts)
    | with_reducible apply ite_sound
    | dsimp -zeta only
    | split
    | dsimp -zeta +zetaDelta only

theorem Dev.writeMark_sound {s : Dev} {m : LgMark} (h0 : s.Sound) : (Dev.writeMark s m).Sound := by
  unfold Dev.writeMark
  repeat' first
    | with_reducible assumption
    | with_reducible apply Dev.emit_sound
    | with_reducible apply Dev.memWrite_sound
    | intro x
    | with_reducible apply ite_sound
    | dsimp -zeta only
    | split

theorem Dev.drainMark_sound {s : Dev} (h0 : s.Sound) : (Dev.drainMark s).Sound := by
  unfold Dev.drainMark
  repeat' first
    | with_reducible assumption
    | with_reducible apply Dev.writeMark_sound
    | (intro x; have hx : Dev.Sound x; (on_goal 2 => clear_value x); (on_goal 1 => unfold x))
    | (intro x; (fail_if_success (have q : Engs := x)); (fail_if_success (have q : Svc := x)); (fail_if_success (have q : Trust := x)); (fail_if_success (have q : _ → _ := x)); clear_value x)
    | intro x
    | lift_lets -underBinder
    | (simp only [↓Dev.sound_mk]; with_reducible apply Dev.Sound.parts)
    | with_reducible apply ite_sound
    | dsimp -zeta only
    | split
    | dsimp -zeta +zetaDelta only

end Sys2Proof.Machine
end

