-- ==== Sys2Proof/Laws/SoundSvcBase.lean ====
section
/-! SUPPORT. Every operation of Machine/SvcBase.lean keeps the switch sound. -/
set_option linter.unusedTactic false
set_option linter.unusedSimpArgs false
set_option linter.unreachableTactic false
namespace Sys2Proof.Machine

theorem Dev.putSess_sound {s : Dev} {x : Sess} (h0 : s.Sound) : (Dev.putSess s x).Sound := by
  unfold Dev.putSess
  repeat' first
    | with_reducible assumption
    | (intro x; have hx : Dev.Sound x; (on_goal 2 => clear_value x); (on_goal 1 => unfold x))
    | (intro x; (fail_if_success (have q : Engs := x)); (fail_if_success (have q : Svc := x)); (fail_if_success (have q : Trust := x)); (fail_if_success (have q : _ → _ := x)); clear_value x)
    | intro x
    | lift_lets -underBinder
    | (simp only [↓Dev.sound_mk]; with_reducible apply Dev.Sound.parts)
    | with_reducible apply ite_sound
    | dsimp -zeta only
    | split
    | dsimp -zeta +zetaDelta only

theorem Dev.modSess_sound {s : Dev} {k : SessKey} {f : Sess → Sess} (h0 : s.Sound) : (Dev.modSess s k f).Sound := by
  unfold Dev.modSess
  repeat' first
    | with_reducible assumption
    | with_reducible apply Dev.putSess_sound
    | intro x
    | dsimp -zeta only
    | split

theorem Dev.respond_sound {s : Dev} {k : SessKey} {seq status : Nat} {body : List Byte} (h0 : s.Sound) : (Dev.respond s k seq status body).Sound := by
  unfold Dev.respond
  repeat' first
    | with_reducible assumption
    | with_reducible apply Dev.emit_sound
    | intro x
    | dsimp -zeta only

theorem Dev.noticeTo_sound {s : Dev} {x : Sess} {cls source time : Nat} {data : List Byte} (h0 : s.Sound) : (Dev.noticeTo s x cls source time data).Sound := by
  unfold Dev.noticeTo
  repeat' first
    | with_reducible assumption
    | with_reducible apply Dev.drop_sound
    | with_reducible apply Dev.emit_sound
    | with_reducible apply Dev.putSess_sound
    | (intro x; have hx : Dev.Sound x; (on_goal 2 => clear_value x); (on_goal 1 => unfold x))
    | (intro x; (fail_if_success (have q : Engs := x)); (fail_if_success (have q : Svc := x)); (fail_if_success (have q : Trust := x)); (fail_if_success (have q : _ → _ := x)); clear_value x)
    | intro x
    | lift_lets -underBinder
    | (simp only [↓Dev.sound_mk]; with_reducible apply Dev.Sound.parts)
    | with_reducible apply ite_sound
    | dsimp -zeta only
    | split
    | dsimp -zeta +zetaDelta only

theorem Dev.notice_sound {s : Dev} {cls source time : Nat} {data : List Byte} (h0 : s.Sound) : (Dev.notice s cls source time data).Sound := by
  unfold Dev.notice
  repeat' first
    | with_reducible assumption
    | with_reducible apply Dev.noticeTo_sound
    | with_reducible apply each_sound
    | (intro x; have hx : Dev.Sound x; (on_goal 2 => clear_value x); (on_goal 1 => unfold x))
    | (intro x; (fail_if_success (have q : Engs := x)); (fail_if_success (have q : Svc := x)); (fail_if_success (have q : Trust := x)); (fail_if_success (have q : _ → _ := x)); clear_value x)
    | intro x
    | lift_lets -underBinder
    | (simp only [↓Dev.sound_mk]; with_reducible apply Dev.Sound.parts)
    | with_reducible apply ite_sound
    | dsimp -zeta only
    | split
    | dsimp -zeta +zetaDelta only

theorem Dev.toDealer_sound {s : Dev} {b : List Byte} (h0 : s.Sound) : (Dev.toDealer s b).Sound := by
  unfold Dev.toDealer
  repeat' first
    | with_reducible assumption
    | with_reducible apply b_sound
    | with_reducible apply Dev.ctlPacket_sound
    | with_reducible apply Dev.freeNat_sound
    | with_reducible refine Dev.freeNat_pair (by with_reducible assumption) ?_
    | with_reducible apply Dev.notice_sound
    | (intro x; have hx : Dev.Sound x; (on_goal 2 => clear_value x); (on_goal 1 => unfold x))
    | (intro x; (fail_if_success (have q : Engs := x)); (fail_if_success (have q : Svc := x)); (fail_if_success (have q : Trust := x)); (fail_if_success (have q : _ → _ := x)); clear_value x)
    | intro x
    | lift_lets -underBinder
    | with_reducible apply ite_sound
    | dsimp -zeta only
    | split
    | dsimp -zeta +zetaDelta only

theorem Dev.modCmd_sound {s : Dev} {idx sub : Nat} {f : CmdSt → CmdSt} (h0 : s.Sound) : (Dev.modCmd s idx sub f).Sound := by
  unfold Dev.modCmd
  repeat' first
    | with_reducible assumption
    | with_reducible apply sub_sound
    | (intro x; have hx : Dev.Sound x; (on_goal 2 => clear_value x); (on_goal 1 => unfold x))
    | (intro x; (fail_if_success (have q : Engs := x)); (fail_if_success (have q : Svc := x)); (fail_if_success (have q : Trust := x)); (fail_if_success (have q : _ → _ := x)); clear_value x)
    | intro x
    | lift_lets -underBinder
    | (simp only [↓Dev.sound_mk]; with_reducible apply Dev.Sound.parts)
    | dsimp -zeta only
    | dsimp -zeta +zetaDelta only

theorem Dev.cmdStart_sound {s : Dev} {idx sub arg : Nat} (h0 : s.Sound) : (Dev.cmdStart s idx sub arg).Sound := by
  unfold Dev.cmdStart
  repeat' first
    | with_reducible assumption
    | with_reducible apply Dev.modCmd_sound
    | with_reducible apply sub_sound
    | (intro x; have hx : Dev.Sound x; (on_goal 2 => clear_value x); (on_goal 1 => unfold x))
    | (intro x; (fail_if_success (have q : Engs := x)); (fail_if_success (have q : Svc := x)); (fail_if_success (have q : Trust := x)); (fail_if_success (have q : _ → _ := x)); clear_value x)
    | intro x
    | lift_lets -underBinder
    | (simp only [↓Dev.sound_mk]; with_reducible apply Dev.Sound.parts)
    | with_reducible apply ite_sound
    | dsimp -zeta only
    | split
    | dsimp -zeta +zetaDelta only

theorem Dev.cmdDone_sound {s : Dev} {idx sub status : Nat} {data : List Byte} (h0 : s.Sound) : (Dev.cmdDone s idx sub status data).Sound := by
  unfold Dev.cmdDone
  repeat' first
    | with_reducible assumption
    | with_reducible apply Dev.modCmd_sound
    | with_reducible apply Dev.notice_sound
    | with_reducible apply sub_sound
    | (intro x; have hx : Dev.Sound x; (on_goal 2 => clear_value x); (on_goal 1 => unfold x))
    | (intro x; (fail_if_success (have q : Engs := x)); (fail_if_success (have q : Svc := x)); (fail_if_success (have q : Trust := x)); (fail_if_success (have q : _ → _ := x)); clear_value x)
    | intro x
    | lift_lets -underBinder
    | (simp only [↓Dev.sound_mk]; with_reducible apply Dev.Sound.parts)
    | with_reducible apply ite_sound
    | dsimp -zeta only
    | split
    | dsimp -zeta +zetaDelta only

theorem Dev.modLoad_sound {s : Dev} {idx : Nat} {f : Load → Load} (h0 : s.Sound) : (Dev.modLoad s idx f).Sound := by
  unfold Dev.modLoad
  repeat' first
    | with_reducible assumption
    | (intro x; have hx : Dev.Sound x; (on_goal 2 => clear_value x); (on_goal 1 => unfold x))
    | (intro x; (fail_if_success (have q : Engs := x)); (fail_if_success (have q : Svc := x)); (fail_if_success (have q : Trust := x)); (fail_if_success (have q : _ → _ := x)); clear_value x)
    | intro x
    | lift_lets -underBinder
    | (simp only [↓Dev.sound_mk]; with_reducible apply Dev.Sound.parts)
    | dsimp -zeta only
    | dsimp -zeta +zetaDelta only

theorem Dev.loadOpen_sound {s : Dev} {idx : Nat} {k : SessKey} (h0 : s.Sound) : (Dev.loadOpen s idx k).Sound := by
  unfold Dev.loadOpen
  repeat' first
    | with_reducible assumption
    | with_reducible apply Dev.modLoad_sound
    | (intro x; have hx : Dev.Sound x; (on_goal 2 => clear_value x); (on_goal 1 => unfold x))
    | (intro x; (fail_if_success (have q : Engs := x)); (fail_if_success (have q : Svc := x)); (fail_if_success (have q : Trust := x)); (fail_if_success (have q : _ → _ := x)); clear_value x)
    | intro x
    | lift_lets -underBinder
    | (simp only [↓Dev.sound_mk]; with_reducible apply Dev.Sound.parts)
    | dsimp -zeta only
    | dsimp -zeta +zetaDelta only

theorem Dev.loadDrop_sound {s : Dev} {idx : Nat} (h0 : s.Sound) : (Dev.loadDrop s idx).Sound := by
  unfold Dev.loadDrop
  repeat' first
    | with_reducible assumption
    | (intro x; have hx : Dev.Sound x; (on_goal 2 => clear_value x); (on_goal 1 => unfold x))
    | (intro x; (fail_if_success (have q : Engs := x)); (fail_if_success (have q : Svc := x)); (fail_if_success (have q : Trust := x)); (fail_if_success (have q : _ → _ := x)); clear_value x)
    | intro x
    | lift_lets -underBinder
    | (simp only [↓Dev.sound_mk]; with_reducible apply Dev.Sound.parts)
    | dsimp -zeta only
    | dsimp -zeta +zetaDelta only

theorem Dev.loadData_sound {s : Dev} {idx : Nat} {b : List Byte} (h0 : s.Sound) : (Dev.loadData s idx b).Sound := by
  unfold Dev.loadData
  repeat' first
    | with_reducible assumption
    | with_reducible apply b_sound
    | with_reducible apply Dev.modLoad_sound
    | (intro x; have hx : Dev.Sound x; (on_goal 2 => clear_value x); (on_goal 1 => unfold x))
    | (intro x; (fail_if_success (have q : Engs := x)); (fail_if_success (have q : Svc := x)); (fail_if_success (have q : Trust := x)); (fail_if_success (have q : _ → _ := x)); clear_value x)
    | intro x
    | lift_lets -underBinder
    | (simp only [↓Dev.sound_mk]; with_reducible apply Dev.Sound.parts)
    | dsimp -zeta only
    | dsimp -zeta +zetaDelta only

theorem Dev.endActions_sound {s : Dev} {st : Nat} (h0 : s.Sound) : (Dev.endActions s st).Sound := by
  unfold Dev.endActions
  repeat' first
    | with_reducible assumption
    | with_reducible apply Dev.cmdDone_sound
    | with_reducible apply st_sound
    | with_reducible apply each_sound
    | intro x
    | dsimp -zeta only

theorem Dev.setDevState_sound {s : Dev} {st : Nat} (h0 : s.Sound) (hs : st ≤ 7) : (Dev.setDevState s st).Sound := by
  have h1 : Dev.Sound { s with svc.state := st } := ⟨h0.1, h0.2.1, h0.2.2.1, h0.2.2.2.1, h0.2.2.2.2.1, hs, h0.2.2.2.2.2.2⟩
  unfold Dev.setDevState
  extract_lets _ s0 s1 _ s2
  have a1 : Dev.Sound s1 := Dev.endActions_sound h1
  clear_value s1
  split
  · exact h0
  · apply Dev.notice_sound
    unfold s2
    split
    · exact Dev.cmdDone_sound a1
    · exact a1

theorem Dev.loadEnd_sound {s : Dev} {idx : Nat} (h0 : s.Sound) : (Dev.loadEnd s idx).Sound := by
  unfold Dev.loadEnd
  repeat' first
    | with_reducible assumption
    | with_reducible apply Dev.loadDrop_sound
    | (intro x; have hx : Dev.Sound x; (on_goal 2 => clear_value x); (on_goal 1 => unfold x))
    | (intro x; (fail_if_success (have q : Engs := x)); (fail_if_success (have q : Svc := x)); (fail_if_success (have q : Trust := x)); (fail_if_success (have q : _ → _ := x)); clear_value x)
    | intro x
    | lift_lets -underBinder
    | (simp only [↓Dev.sound_mk]; with_reducible apply Dev.Sound.parts)
    | with_reducible apply ite_sound
    | dsimp -zeta only
    | split
    | dsimp -zeta +zetaDelta only

theorem Dev.dropSess_sound {s : Dev} {k : SessKey} (h0 : s.Sound) : (Dev.dropSess s k).Sound := by
  unfold Dev.dropSess
  repeat' first
    | with_reducible assumption
    | with_reducible apply Dev.loadEnd_sound
    | with_reducible apply each_sound
    | (intro x; have hx : Dev.Sound x; (on_goal 2 => clear_value x); (on_goal 1 => unfold x))
    | (intro x; (fail_if_success (have q : Engs := x)); (fail_if_success (have q : Svc := x)); (fail_if_success (have q : Trust := x)); (fail_if_success (have q : _ → _ := x)); clear_value x)
    | intro x
    | lift_lets -underBinder
    | (simp only [↓Dev.sound_mk]; with_reducible apply Dev.Sound.parts)
    | with_reducible apply ite_sound
    | dsimp -zeta only
    | split
    | dsimp -zeta +zetaDelta only

end Sys2Proof.Machine
end

