-- ==== Sys2Proof/Laws/SoundEngBase.lean ====
section
/-! SUPPORT. Every operation of Machine/EngBase.lean keeps the switch sound. -/
set_option linter.unusedTactic false
set_option linter.unusedSimpArgs false
set_option linter.unreachableTactic false
namespace Sys2Proof.Machine

theorem Dev.modEn_sound {s : Dev} {e : Nat} {f : Eng → Eng} (h0 : s.Sound) : (Dev.modEn s e f).Sound := by
  unfold Dev.modEn
  repeat' first
    | with_reducible assumption
    | (intro x; have hx : Dev.Sound x; (on_goal 2 => clear_value x); (on_goal 1 => unfold x))
    | (intro x; (fail_if_success (have q : Engs := x)); (fail_if_success (have q : Svc := x)); (fail_if_success (have q : Trust := x)); (fail_if_success (have q : _ → _ := x)); clear_value x)
    | intro x
    | lift_lets -underBinder
    | (simp only [↓Dev.sound_mk]; with_reducible apply Dev.Sound.parts)
    | dsimp -zeta only
    | dsimp -zeta +zetaDelta only

theorem Dev.setG_sound {s : Dev} {e i v : Nat} (h0 : s.Sound) : (Dev.setG s e i v).Sound := by
  unfold Dev.setG
  repeat' first
    | with_reducible assumption
    | with_reducible apply Dev.modEn_sound
    | (intro x; have hx : Dev.Sound x; (on_goal 2 => clear_value x); (on_goal 1 => unfold x))
    | (intro x; (fail_if_success (have q : Engs := x)); (fail_if_success (have q : Svc := x)); (fail_if_success (have q : Trust := x)); (fail_if_success (have q : _ → _ := x)); clear_value x)
    | intro x
    | lift_lets -underBinder
    | (simp only [↓Dev.sound_mk]; with_reducible apply Dev.Sound.parts)
    | with_reducible apply ite_sound
    | dsimp -zeta only
    | split
    | dsimp -zeta +zetaDelta only

theorem Dev.setV_sound {s : Dev} {e i v : Nat} (h0 : s.Sound) : (Dev.setV s e i v).Sound := by
  unfold Dev.setV
  repeat' first
    | with_reducible assumption
    | with_reducible apply Dev.modEn_sound
    | (intro x; have hx : Dev.Sound x; (on_goal 2 => clear_value x); (on_goal 1 => unfold x))
    | (intro x; (fail_if_success (have q : Engs := x)); (fail_if_success (have q : Svc := x)); (fail_if_success (have q : Trust := x)); (fail_if_success (have q : _ → _ := x)); clear_value x)
    | intro x
    | lift_lets -underBinder
    | (simp only [↓Dev.sound_mk]; with_reducible apply Dev.Sound.parts)
    | dsimp -zeta only
    | dsimp -zeta +zetaDelta only

theorem Dev.setPc_sound {s : Dev} {e v : Nat} (h0 : s.Sound) : (Dev.setPc s e v).Sound := by
  unfold Dev.setPc
  repeat' first
    | with_reducible assumption
    | with_reducible apply Dev.fset_sound
    | intro x
    | dsimp -zeta only

theorem Dev.setEnState_sound {s : Dev} {e v : Nat} (h0 : s.Sound) : (Dev.setEnState s e v).Sound := by
  unfold Dev.setEnState
  repeat' first
    | with_reducible assumption
    | with_reducible apply Dev.fset_sound
    | intro x
    | dsimp -zeta only

theorem Dev.sramWrite_sound {s : Dev} {c off : Nat} {l : List Byte} (h0 : s.Sound) : (Dev.sramWrite s c off l).Sound :=
  ⟨h0.1, twf_bytesPut h0.2.1, h0.2.2⟩

theorem Dev.takeTurn_sound {s : Dev} {e : Nat} {l : List (EngTgt × Nat)} (h0 : s.Sound) : (Dev.takeTurn s e l).Sound := by
  unfold Dev.takeTurn
  repeat' first
    | with_reducible assumption
    | (intro x; have hx : Dev.Sound x; (on_goal 2 => clear_value x); (on_goal 1 => unfold x))
    | (intro x; (fail_if_success (have q : Engs := x)); (fail_if_success (have q : Svc := x)); (fail_if_success (have q : Trust := x)); (fail_if_success (have q : _ → _ := x)); clear_value x)
    | intro x
    | lift_lets -underBinder
    | (simp only [↓Dev.sound_mk]; with_reducible apply Dev.Sound.parts)
    | dsimp -zeta only
    | dsimp -zeta +zetaDelta only

theorem Dev.dropAccess_sound {s : Dev} {e : Nat} (h0 : s.Sound) : (Dev.dropAccess s e).Sound := by
  unfold Dev.dropAccess
  repeat' first
    | with_reducible assumption
    | with_reducible apply Dev.sfQuarantine_sound
    | with_reducible apply each_sound
    | (intro x; have hx : Dev.Sound x; (on_goal 2 => clear_value x); (on_goal 1 => unfold x))
    | (intro x; (fail_if_success (have q : Engs := x)); (fail_if_success (have q : Svc := x)); (fail_if_success (have q : Trust := x)); (fail_if_success (have q : _ → _ := x)); clear_value x)
    | intro x
    | lift_lets -underBinder
    | dsimp -zeta only
    | split
    | dsimp -zeta +zetaDelta only

theorem Dev.cycSync_sound {s : Dev} {e : Nat} (h0 : s.Sound) : (Dev.cycSync s e).Sound := by
  unfold Dev.cycSync
  repeat' first
    | with_reducible assumption
    | with_reducible apply Dev.count_sound
    | with_reducible apply Dev.modEn_sound
    | (intro x; have hx : Dev.Sound x; (on_goal 2 => clear_value x); (on_goal 1 => unfold x))
    | (intro x; (fail_if_success (have q : Engs := x)); (fail_if_success (have q : Svc := x)); (fail_if_success (have q : Trust := x)); (fail_if_success (have q : _ → _ := x)); clear_value x)
    | intro x
    | lift_lets -underBinder
    | (simp only [↓Dev.sound_mk]; with_reducible apply Dev.Sound.parts)
    | with_reducible apply ite_sound
    | dsimp -zeta only
    | split
    | dsimp -zeta +zetaDelta only

theorem Dev.writeStore_sound {s : Dev} {e : Nat} {x : StoreE} {vs fn : Nat} (h0 : s.Sound) : (Dev.writeStore s e x vs fn).Sound := by
  unfold Dev.writeStore
  repeat' first
    | with_reducible assumption
    | with_reducible apply Dev.emit_sound
    | with_reducible apply Dev.memWrite_sound
    | with_reducible apply Dev.sramWrite_sound
    | intro x
    | with_reducible apply ite_sound
    | dsimp -zeta only
    | split

theorem Dev.freeEngine_sound {s : Dev} {vs fn e : Nat} (h0 : s.Sound) : (Dev.freeEngine s vs fn e).Sound := by
  unfold Dev.freeEngine
  repeat' first
    | with_reducible assumption
    | with_reducible apply Dev.cycSync_sound
    | with_reducible apply Dev.dropAccess_sound
    | with_reducible apply Dev.fset_sound
    | with_reducible apply Dev.fsets_sound
    | with_reducible apply Dev.modEn_sound
    | with_reducible apply st_sound
    | with_reducible apply Dev.writeStore_sound
    | with_reducible apply each_sound
    | (intro x; have hx : Dev.Sound x; (on_goal 2 => clear_value x); (on_goal 1 => unfold x))
    | (intro x; (fail_if_success (have q : Engs := x)); (fail_if_success (have q : Svc := x)); (fail_if_success (have q : Trust := x)); (fail_if_success (have q : _ → _ := x)); clear_value x)
    | intro x
    | lift_lets -underBinder
    | (simp only [↓Dev.sound_mk]; with_reducible apply Dev.Sound.parts)
    | dsimp -zeta only
    | dsimp -zeta +zetaDelta only

theorem Dev.setResidents_sound {s : Dev} {c : Nat} {l : List Resident} (h0 : s.Sound) : (Dev.setResidents s c l).Sound := by
  unfold Dev.setResidents
  repeat' first
    | with_reducible assumption
    | with_reducible apply Dev.fsets_sound
    | with_reducible apply Dev.sramWrite_sound
    | (intro x; have hx : Dev.Sound x; (on_goal 2 => clear_value x); (on_goal 1 => unfold x))
    | (intro x; (fail_if_success (have q : Engs := x)); (fail_if_success (have q : Svc := x)); (fail_if_success (have q : Trust := x)); (fail_if_success (have q : _ → _ := x)); clear_value x)
    | intro x
    | lift_lets -underBinder
    | (simp only [↓Dev.sound_mk]; with_reducible apply Dev.Sound.parts)
    | with_reducible apply ite_sound
    | dsimp -zeta only
    | split
    | dsimp -zeta +zetaDelta only

theorem Dev.emptySlot_sound {s : Dev} {slot : Nat} (h0 : s.Sound) : (Dev.emptySlot s slot).Sound := by
  unfold Dev.emptySlot
  repeat' first
    | with_reducible assumption
    | with_reducible apply Dev.setResidents_sound
    | with_reducible apply each_sound
    | (intro x; have hx : Dev.Sound x; (on_goal 2 => clear_value x); (on_goal 1 => unfold x))
    | (intro x; (fail_if_success (have q : Engs := x)); (fail_if_success (have q : Svc := x)); (fail_if_success (have q : Trust := x)); (fail_if_success (have q : _ → _ := x)); clear_value x)
    | intro x
    | lift_lets -underBinder
    | (simp only [↓Dev.sound_mk]; with_reducible apply Dev.Sound.parts)
    | with_reducible apply ite_sound
    | dsimp -zeta only
    | split
    | dsimp -zeta +zetaDelta only

theorem Dev.retireCheck_sound {s : Dev} {slot : Nat} (h0 : s.Sound) : (Dev.retireCheck s slot).Sound := by
  unfold Dev.retireCheck
  repeat' first
    | with_reducible assumption
    | with_reducible apply Dev.cmdDone_sound
    | with_reducible apply Dev.emptySlot_sound
    | (intro x; have hx : Dev.Sound x; (on_goal 2 => clear_value x); (on_goal 1 => unfold x))
    | (intro x; (fail_if_success (have q : Engs := x)); (fail_if_success (have q : Svc := x)); (fail_if_success (have q : Trust := x)); (fail_if_success (have q : _ → _ := x)); clear_value x)
    | intro x
    | lift_lets -underBinder
    | (simp only [↓Dev.sound_mk]; with_reducible apply Dev.Sound.parts)
    | with_reducible apply ite_sound
    | dsimp -zeta only
    | split
    | dsimp -zeta +zetaDelta only

theorem Dev.retireTick_sound {s : Dev} (h0 : s.Sound) : (Dev.retireTick s).Sound := by
  unfold Dev.retireTick
  repeat' first
    | with_reducible assumption
    | with_reducible apply Dev.retireCheck_sound
    | with_reducible apply each_sound
    | intro x
    | dsimp -zeta only

theorem Dev.endRun_sound {s : Dev} {r : Nat} (h0 : s.Sound) : (Dev.endRun s r).Sound := by
  unfold Dev.endRun
  repeat' first
    | with_reducible assumption
    | with_reducible apply Dev.complete_sound
    | with_reducible apply Dev.fcount_sound
    | with_reducible apply Dev.freeEngine_sound
    | with_reducible apply Dev.retireCheck_sound
    | with_reducible apply each_sound
    | (intro x; have hx : Dev.Sound x; (on_goal 2 => clear_value x); (on_goal 1 => unfold x))
    | (intro x; (fail_if_success (have q : Engs := x)); (fail_if_success (have q : Svc := x)); (fail_if_success (have q : Trust := x)); (fail_if_success (have q : _ → _ := x)); clear_value x)
    | intro x
    | lift_lets -underBinder
    | (simp only [↓Dev.sound_mk]; with_reducible apply Dev.Sound.parts)
    | with_reducible apply ite_sound
    | dsimp -zeta only
    | split
    | dsimp -zeta +zetaDelta only

theorem Dev.stopRun_sound {s : Dev} {r status : Nat} (h0 : s.Sound) : (Dev.stopRun s r status).Sound := by
  unfold Dev.stopRun
  repeat' first
    | with_reducible assumption
    | with_reducible apply Dev.endRun_sound
    | (intro x; have hx : Dev.Sound x; (on_goal 2 => clear_value x); (on_goal 1 => unfold x))
    | (intro x; (fail_if_success (have q : Engs := x)); (fail_if_success (have q : Svc := x)); (fail_if_success (have q : Trust := x)); (fail_if_success (have q : _ → _ := x)); clear_value x)
    | intro x
    | lift_lets -underBinder
    | (simp only [↓Dev.sound_mk]; with_reducible apply Dev.Sound.parts)
    | dsimp -zeta only
    | split
    | dsimp -zeta +zetaDelta only

theorem Dev.engFault_sound {s : Dev} {e code addr : Nat} (h0 : s.Sound) : (Dev.engFault s e code addr).Sound := by
  unfold Dev.engFault
  repeat' first
    | with_reducible assumption
    | with_reducible apply Dev.endRun_sound
    | with_reducible apply Dev.fsets_sound
    | with_reducible apply Dev.rset_sound
    | with_reducible apply Dev.setEnState_sound
    | (intro x; have hx : Dev.Sound x; (on_goal 2 => clear_value x); (on_goal 1 => unfold x))
    | (intro x; (fail_if_success (have q : Engs := x)); (fail_if_success (have q : Svc := x)); (fail_if_success (have q : Trust := x)); (fail_if_success (have q : _ → _ := x)); clear_value x)
    | intro x
    | lift_lets -underBinder
    | (simp only [↓Dev.sound_mk]; with_reducible apply Dev.Sound.parts)
    | with_reducible apply ite_sound
    | dsimp -zeta only
    | split
    | dsimp -zeta +zetaDelta only

theorem Dev.bmEnd_sound {s : Dev} {e : Nat} (h0 : s.Sound) : (Dev.bmEnd s e).Sound := by
  unfold Dev.bmEnd
  repeat' first
    | with_reducible assumption
    | with_reducible apply Dev.stopRun_sound
    | intro x
    | dsimp -zeta only
    | split

theorem Dev.sendRead_sound {s : Dev} {e : Nat} {vs fn tag seq : Nat} {g : Option Nat} {addr len : Nat} (h0 : s.Sound) : (Dev.sendRead s e vs fn tag seq g addr len).Sound := by
  unfold Dev.sendRead
  repeat' first
    | with_reducible assumption
    | with_reducible apply Dev.emit_sound
    | with_reducible apply Dev.sfSend_sound
    | intro x
    | dsimp -zeta only

theorem Dev.flushReads_sound {s : Dev} {e vs fn : Nat} (h0 : s.Sound) : (Dev.flushReads s e vs fn).Sound := by
  unfold Dev.flushReads
  repeat' first
    | with_reducible assumption
    | with_reducible apply Dev.emit_sound
    | with_reducible apply Dev.sfSend_sound
    | with_reducible apply each_sound
    | intro x
    | dsimp -zeta only
    | split

theorem Dev.pfFlushAll_sound {s : Dev} (h0 : s.Sound) : (Dev.pfFlushAll s).Sound := by
  unfold Dev.pfFlushAll
  repeat' first
    | with_reducible assumption
    | with_reducible apply Dev.modEn_sound
    | with_reducible apply each_sound
    | intro x
    | dsimp -zeta only

end Sys2Proof.Machine
end

