-- ==== Sys2Proof/Laws/SoundIngress.lean ====
section
/-! SUPPORT. Every operation of Machine/Ingress.lean keeps the switch sound. -/
set_option linter.unusedTactic false
set_option linter.unusedSimpArgs false
set_option linter.unreachableTactic false
namespace Sys2Proof.Machine

theorem Dev.enter_sound {s : Dev} {p : Pkt} (h0 : s.Sound) : (Dev.enter s p).Sound := by
  unfold Dev.enter
  repeat' first
    | with_reducible assumption
    | with_reducible apply Dev.putPkt_sound
    | (intro x; have hx : Dev.Sound x; (on_goal 2 => clear_value x); (on_goal 1 => unfold x))
    | (intro x; (fail_if_success (have q : Engs := x)); (fail_if_success (have q : Svc := x)); (fail_if_success (have q : Trust := x)); (fail_if_success (have q : _ → _ := x)); clear_value x)
    | intro x
    | lift_lets -underBinder
    | (simp only [↓Dev.sound_mk]; with_reducible apply Dev.Sound.parts)
    | dsimp -zeta only
    | dsimp -zeta +zetaDelta only

theorem Dev.aerAtPort_sound {s : Dev} {n : Nat} {e : PcieErr} {hdr : HdrLog} (h0 : s.Sound) : (Dev.aerAtPort s n e hdr).Sound := by
  unfold Dev.aerAtPort
  repeat' first
    | with_reducible assumption
    | with_reducible apply Dev.aer_sound
    | with_reducible apply b_sound
    | intro x
    | dsimp -zeta only
    | split

theorem Dev.ingressPcie_sound {s : Dev} {port : Nat} {x : Tlp} {arrived : Nat} (h0 : s.Sound) : (Dev.ingressPcie s port x arrived).Sound := by
  unfold Dev.ingressPcie
  repeat' first
    | with_reducible assumption
    | with_reducible apply Dev.aerAtPort_sound
    | with_reducible apply b_sound
    | with_reducible apply Dev.count_sound
    | with_reducible apply Dev.dpcMessage_sound
    | with_reducible apply Dev.dropLog_sound
    | with_reducible apply Dev.enter_sound
    | with_reducible apply Dev.perrReport_sound
    | (intro x; have hx : Dev.Sound x; (on_goal 2 => clear_value x); (on_goal 1 => unfold x))
    | (intro x; (fail_if_success (have q : Engs := x)); (fail_if_success (have q : Svc := x)); (fail_if_success (have q : Trust := x)); (fail_if_success (have q : _ → _ := x)); clear_value x)
    | intro x
    | lift_lets -underBinder
    | (simp only [↓Dev.sound_mk]; with_reducible apply Dev.Sound.parts)
    | with_reducible apply ite_sound
    | dsimp -zeta only
    | split
    | dsimp -zeta +zetaDelta only

theorem Dev.flitsCome_sound {s : Dev} {pid inArr : Nat} (h0 : s.Sound) : (Dev.flitsCome s pid inArr).Sound := by
  unfold Dev.flitsCome
  repeat' first
    | with_reducible assumption
    | with_reducible apply Dev.putPkt_sound
    | (intro x; have hx : Dev.Sound x; (on_goal 2 => clear_value x); (on_goal 1 => unfold x))
    | (intro x; (fail_if_success (have q : Engs := x)); (fail_if_success (have q : Svc := x)); (fail_if_success (have q : Trust := x)); (fail_if_success (have q : _ → _ := x)); clear_value x)
    | intro x
    | lift_lets -underBinder
    | (simp only [↓Dev.sound_mk]; with_reducible apply Dev.Sound.parts)
    | with_reducible apply ite_sound
    | dsimp -zeta only
    | split
    | dsimp -zeta +zetaDelta only

theorem Dev.ingressMore_sound {s : Dev} {port pid n : Nat} (h0 : s.Sound) : (Dev.ingressMore s port pid n).Sound := by
  unfold Dev.ingressMore
  repeat' first
    | with_reducible assumption
    | with_reducible apply Dev.flitsCome_sound
    | intro x
    | with_reducible apply ite_sound
    | dsimp -zeta only
    | split

theorem Dev.ingressInternal_sound {s : Dev} {port : Nat} {p : IntPkt} (h0 : s.Sound) : (Dev.ingressInternal s port p).Sound := by
  unfold Dev.ingressInternal
  repeat' first
    | with_reducible assumption
    | with_reducible apply Dev.enter_sound
    | (intro x; have hx : Dev.Sound x; (on_goal 2 => clear_value x); (on_goal 1 => unfold x))
    | (intro x; (fail_if_success (have q : Engs := x)); (fail_if_success (have q : Svc := x)); (fail_if_success (have q : Trust := x)); (fail_if_success (have q : _ → _ := x)); clear_value x)
    | intro x
    | lift_lets -underBinder
    | (simp only [↓Dev.sound_mk]; with_reducible apply Dev.Sound.parts)
    | with_reducible apply ite_sound
    | dsimp -zeta only
    | split
    | dsimp -zeta +zetaDelta only

theorem Dev.ingressFabric_sound {s : Dev} {port : Nat} {t : Option Tlp} (h0 : s.Sound) : (Dev.ingressFabric s port t).Sound := by
  unfold Dev.ingressFabric
  repeat' first
    | with_reducible assumption
    | with_reducible apply b_sound
    | with_reducible apply Dev.enter_sound
    | (intro x; have hx : Dev.Sound x; (on_goal 2 => clear_value x); (on_goal 1 => unfold x))
    | (intro x; (fail_if_success (have q : Engs := x)); (fail_if_success (have q : Svc := x)); (fail_if_success (have q : Trust := x)); (fail_if_success (have q : _ → _ := x)); clear_value x)
    | intro x
    | lift_lets -underBinder
    | (simp only [↓Dev.sound_mk]; with_reducible apply Dev.Sound.parts)
    | with_reducible apply ite_sound
    | dsimp -zeta only
    | split
    | dsimp -zeta +zetaDelta only

theorem Dev.modOut_sound {s : Dev} {d oc : Nat} {g : OutStream → OutStream} (h0 : s.Sound) : (Dev.modOut s d oc g).Sound := by
  unfold Dev.modOut
  repeat' first
    | with_reducible assumption
    | (intro x; have hx : Dev.Sound x; (on_goal 2 => clear_value x); (on_goal 1 => unfold x))
    | (intro x; (fail_if_success (have q : Engs := x)); (fail_if_success (have q : Svc := x)); (fail_if_success (have q : Trust := x)); (fail_if_success (have q : _ → _ := x)); clear_value x)
    | intro x
    | lift_lets -underBinder
    | (simp only [↓Dev.sound_mk]; with_reducible apply Dev.Sound.parts)
    | dsimp -zeta only
    | dsimp -zeta +zetaDelta only

theorem Dev.modIn_sound {s : Dev} {f oc : Nat} {g : InStream → InStream} (h0 : s.Sound) : (Dev.modIn s f oc g).Sound := by
  unfold Dev.modIn
  repeat' first
    | with_reducible assumption
    | (intro x; have hx : Dev.Sound x; (on_goal 2 => clear_value x); (on_goal 1 => unfold x))
    | (intro x; (fail_if_success (have q : Engs := x)); (fail_if_success (have q : Svc := x)); (fail_if_success (have q : Trust := x)); (fail_if_success (have q : _ → _ := x)); clear_value x)
    | intro x
    | lift_lets -underBinder
    | (simp only [↓Dev.sound_mk]; with_reducible apply Dev.Sound.parts)
    | dsimp -zeta only
    | dsimp -zeta +zetaDelta only

theorem eseqAssign_sound {pid : Nat} {s : Dev} (h0 : s.Sound) : (eseqAssign pid s).Sound := by
  unfold eseqAssign
  repeat' first
    | with_reducible assumption
    | with_reducible apply Dev.modOut_sound
    | with_reducible apply Dev.putPkt_sound
    | (intro x; have hx : Dev.Sound x; (on_goal 2 => clear_value x); (on_goal 1 => unfold x))
    | (intro x; (fail_if_success (have q : Engs := x)); (fail_if_success (have q : Svc := x)); (fail_if_success (have q : Trust := x)); (fail_if_success (have q : _ → _ := x)); clear_value x)
    | intro x
    | lift_lets -underBinder
    | (simp only [↓Dev.sound_mk]; with_reducible apply Dev.Sound.parts)
    | with_reducible apply ite_sound
    | dsimp -zeta only
    | split
    | dsimp -zeta +zetaDelta only

theorem Dev.enqueue_sound {s : Dev} {pid : Nat} (h0 : s.Sound) : (Dev.enqueue s pid).Sound := by
  unfold Dev.enqueue
  repeat' first
    | with_reducible assumption
    | with_reducible apply Dev.putPkt_sound
    | with_reducible apply Dev.sampleDepth_sound
    | (intro x; have hx : Dev.Sound x; (on_goal 2 => clear_value x); (on_goal 1 => unfold x))
    | (intro x; (fail_if_success (have q : Engs := x)); (fail_if_success (have q : Svc := x)); (fail_if_success (have q : Trust := x)); (fail_if_success (have q : _ → _ := x)); clear_value x)
    | intro x
    | lift_lets -underBinder
    | (simp only [↓Dev.sound_mk]; with_reducible apply Dev.Sound.parts)
    | with_reducible apply ite_sound
    | dsimp -zeta only
    | split
    | dsimp -zeta +zetaDelta only

theorem Dev.enqueueAt_sound {s : Dev} {pid : Nat} (h0 : s.Sound) : (Dev.enqueueAt s pid).Sound := by
  unfold Dev.enqueueAt
  repeat' first
    | with_reducible assumption
    | with_reducible apply Dev.discard_sound
    | with_reducible apply Dev.enqueue_sound
    | intro x
    | with_reducible apply ite_sound
    | dsimp -zeta only
    | split

theorem Dev.releaseHeld_sound {s : Dev} {l : List Nat} (h0 : s.Sound) : (Dev.releaseHeld s l).Sound := by
  unfold Dev.releaseHeld
  repeat' first
    | with_reducible assumption
    | with_reducible apply Dev.enqueueAt_sound
    | with_reducible apply each_sound
    | intro x
    | dsimp -zeta only

theorem Dev.orderedExit_sound {s : Dev} {f oc : Nat} (h0 : s.Sound) : (Dev.orderedExit s f oc).Sound := by
  unfold Dev.orderedExit
  repeat' first
    | with_reducible assumption
    | with_reducible apply Dev.fset_sound
    | with_reducible apply Dev.releaseHeld_sound
    | intro x
    | with_reducible apply ite_sound
    | dsimp -zeta only
    | split

theorem Dev.advance_sound {s : Dev} {f oc : Nat} (h0 : s.Sound) : (Dev.advance s f oc).Sound := by
  unfold Dev.advance
  repeat' first
    | with_reducible assumption
    | with_reducible apply Dev.fset_sound
    | with_reducible apply Dev.modIn_sound
    | with_reducible apply Dev.orderedExit_sound
    | with_reducible apply Dev.releaseHeld_sound
    | (intro x; have hx : Dev.Sound x; (on_goal 2 => clear_value x); (on_goal 1 => unfold x))
    | (intro x; (fail_if_success (have q : Engs := x)); (fail_if_success (have q : Svc := x)); (fail_if_success (have q : Trust := x)); (fail_if_success (have q : _ → _ := x)); clear_value x)
    | intro x
    | lift_lets -underBinder
    | (simp only [↓Dev.sound_mk]; with_reducible apply Dev.Sound.parts)
    | with_reducible apply ite_sound
    | dsimp -zeta only
    | split
    | dsimp -zeta +zetaDelta only

theorem Dev.shelfTake_sound {s : Dev} {port n : Nat} (h0 : s.Sound) : (Dev.shelfTake s port n).Sound := by
  unfold Dev.shelfTake
  repeat' first
    | with_reducible assumption
    | with_reducible apply Dev.fset_sound
    | (intro x; have hx : Dev.Sound x; (on_goal 2 => clear_value x); (on_goal 1 => unfold x))
    | (intro x; (fail_if_success (have q : Engs := x)); (fail_if_success (have q : Svc := x)); (fail_if_success (have q : Trust := x)); (fail_if_success (have q : _ → _ := x)); clear_value x)
    | intro x
    | lift_lets -underBinder
    | with_reducible apply ite_sound
    | dsimp -zeta only
    | split
    | dsimp -zeta +zetaDelta only

theorem Dev.endReq_sound {s : Dev} {r : Req} (h0 : s.Sound) : (Dev.endReq s r).Sound := by
  unfold Dev.endReq
  repeat' first
    | with_reducible assumption
    | with_reducible apply Dev.shelfReturn_sound
    | (intro x; have hx : Dev.Sound x; (on_goal 2 => clear_value x); (on_goal 1 => unfold x))
    | (intro x; (fail_if_success (have q : Engs := x)); (fail_if_success (have q : Svc := x)); (fail_if_success (have q : Trust := x)); (fail_if_success (have q : _ → _ := x)); clear_value x)
    | intro x
    | lift_lets -underBinder
    | (simp only [↓Dev.sound_mk]; with_reducible apply Dev.Sound.parts)
    | dsimp -zeta only
    | dsimp -zeta +zetaDelta only

theorem Dev.lockReadFails_sound {s : Dev} {vs : Nat} {t : Tlp} (h0 : s.Sound) : (Dev.lockReadFails s vs t).Sound := by
  unfold Dev.lockReadFails
  repeat' first
    | with_reducible assumption
    | with_reducible apply Dev.fset_sound
    | intro x
    | with_reducible apply ite_sound
    | dsimp -zeta only
    | split

theorem Dev.acceptCpl_sound {s : Dev} {r : Req} {t : Tlp} {cells : Nat} (h0 : s.Sound) : (Dev.acceptCpl s r t cells).Sound := by
  unfold Dev.acceptCpl
  repeat' first
    | with_reducible assumption
    | with_reducible apply Dev.endReq_sound
    | with_reducible apply Dev.lockReadFails_sound
    | (intro x; have hx : Dev.Sound x; (on_goal 2 => clear_value x); (on_goal 1 => unfold x))
    | (intro x; (fail_if_success (have q : Engs := x)); (fail_if_success (have q : Svc := x)); (fail_if_success (have q : Trust := x)); (fail_if_success (have q : _ → _ := x)); clear_value x)
    | intro x
    | lift_lets -underBinder
    | (simp only [↓Dev.sound_mk]; with_reducible apply Dev.Sound.parts)
    | with_reducible apply ite_sound
    | dsimp -zeta only
    | split
    | dsimp -zeta +zetaDelta only

theorem Dev.lateCpl_sound {s : Dev} {t : Tlp} (h0 : s.Sound) : (Dev.lateCpl s t).Sound := by
  unfold Dev.lateCpl
  repeat' first
    | with_reducible assumption
    | with_reducible apply Dev.count_sound
    | (intro x; have hx : Dev.Sound x; (on_goal 2 => clear_value x); (on_goal 1 => unfold x))
    | (intro x; (fail_if_success (have q : Engs := x)); (fail_if_success (have q : Svc := x)); (fail_if_success (have q : Trust := x)); (fail_if_success (have q : _ → _ := x)); clear_value x)
    | intro x
    | lift_lets -underBinder
    | (simp only [↓Dev.sound_mk]; with_reducible apply Dev.Sound.parts)
    | dsimp -zeta only
    | dsimp -zeta +zetaDelta only

theorem Dev.unboundAnswer_sound {s : Dev} {pid : Nat} {p : Pkt} (h0 : s.Sound) : (Dev.unboundAnswer s pid p).Sound := by
  unfold Dev.unboundAnswer
  repeat' first
    | with_reducible assumption
    | with_reducible apply Dev.delPkt_sound
    | with_reducible apply Dev.dropLog_sound
    | with_reducible apply Dev.emit_sound
    | with_reducible apply Dev.raise_sound
    | (intro x; have hx : Dev.Sound x; (on_goal 2 => clear_value x); (on_goal 1 => unfold x))
    | (intro x; (fail_if_success (have q : Engs := x)); (fail_if_success (have q : Svc := x)); (fail_if_success (have q : Trust := x)); (fail_if_success (have q : _ → _ := x)); clear_value x)
    | intro x
    | lift_lets -underBinder
    | (simp only [↓Dev.sound_mk]; with_reducible apply Dev.Sound.parts)
    | dsimp -zeta only
    | split
    | dsimp -zeta +zetaDelta only

theorem Dev.lockedUr_sound {s : Dev} {pid : Nat} {p : Pkt} (h0 : s.Sound) : (Dev.lockedUr s pid p).Sound := by
  unfold Dev.lockedUr
  repeat' first
    | with_reducible assumption
    | with_reducible apply Dev.answer_sound
    | with_reducible apply Dev.delPkt_sound
    | (intro x; have hx : Dev.Sound x; (on_goal 2 => clear_value x); (on_goal 1 => unfold x))
    | (intro x; (fail_if_success (have q : Engs := x)); (fail_if_success (have q : Svc := x)); (fail_if_success (have q : Trust := x)); (fail_if_success (have q : _ → _ := x)); clear_value x)
    | intro x
    | lift_lets -underBinder
    | dsimp -zeta only
    | split
    | dsimp -zeta +zetaDelta only

theorem Dev.acsViolation_sound {s : Dev} {pid : Nat} {p : Pkt} (h0 : s.Sound) : (Dev.acsViolation s pid p).Sound := by
  unfold Dev.acsViolation
  repeat' first
    | with_reducible assumption
    | with_reducible apply Dev.aerAtEntry_sound
    | with_reducible apply Dev.answer_sound
    | with_reducible apply Dev.delPkt_sound
    | (intro x; have hx : Dev.Sound x; (on_goal 2 => clear_value x); (on_goal 1 => unfold x))
    | (intro x; (fail_if_success (have q : Engs := x)); (fail_if_success (have q : Svc := x)); (fail_if_success (have q : Trust := x)); (fail_if_success (have q : _ → _ := x)); clear_value x)
    | intro x
    | lift_lets -underBinder
    | dsimp -zeta only
    | split
    | dsimp -zeta +zetaDelta only

theorem Dev.lockTake_sound {s : Dev} {vs g : Nat} {t : Tlp} (h0 : s.Sound) : (Dev.lockTake s vs g t).Sound := by
  unfold Dev.lockTake
  repeat' first
    | with_reducible assumption
    | with_reducible apply Dev.fsets_sound
    | (intro x; have hx : Dev.Sound x; (on_goal 2 => clear_value x); (on_goal 1 => unfold x))
    | (intro x; (fail_if_success (have q : Engs := x)); (fail_if_success (have q : Svc := x)); (fail_if_success (have q : Trust := x)); (fail_if_success (have q : _ → _ := x)); clear_value x)
    | intro x
    | lift_lets -underBinder
    | (simp only [↓Dev.sound_mk]; with_reducible apply Dev.Sound.parts)
    | dsimp -zeta only
    | dsimp -zeta +zetaDelta only

theorem Dev.lockStep_sound {s : Dev} {p : Pkt} {g : Nat} (h0 : s.Sound) : (Dev.lockStep s p g).1.Sound := by
  unfold Dev.lockStep
  split
  · exact h0
  · split
    · split
      · split
        · exact h0
        · exact Dev.lockTake_sound h0
      · exact Dev.fsets_sound h0
      · exact h0
    · exact h0
theorem Dev.lockStep_pair {s : Dev} {p : Pkt} {g : Nat} {t_ x_} (e_ : Dev.lockStep s p g = (t_, x_)) (h0 : s.Sound) : t_.Sound := by
  have q := Dev.lockStep_sound (s := s) (p := p) (g := g) h0; rw [e_] at q; exact q

theorem Dev.settle_sound {s : Dev} {pid : Nat} {p : Pkt} (h0 : s.Sound) : (Dev.settle s pid p).Sound := by
  unfold Dev.settle
  extract_lets here seqIn f d req late needs
  clear_value seqIn
  split
  · exact Dev.delPkt_sound (Dev.modIn_sound (Dev.count_sound h0))
  · exact Dev.delPkt_sound (Dev.raise_sound (Dev.count_sound h0))
  · extract_lets s0 hold s1 p1 s2 done
    have a0 : Dev.Sound s0 := by
      unfold s0; split
      · exact Dev.modIn_sound h0
      · exact h0
    clear_value s0
    have a1 : Dev.Sound s1 := by
      unfold s1
      repeat' first
        | with_reducible assumption
        | with_reducible apply Dev.acceptCpl_sound
        | with_reducible apply Dev.lockReadFails_sound
        | split
    clear_value s1
    have a2 : Dev.Sound done := by
      unfold done s2
      repeat' first
        | with_reducible assumption
        | with_reducible apply Dev.delPkt_sound
        | with_reducible apply Dev.lateCpl_sound
        | with_reducible apply Dev.discard_sound
        | with_reducible apply Dev.putPkt_sound
        | with_reducible apply Dev.enqueue_sound
        | split
    clear_value done
    split
    · exact Dev.advance_sound a2
    · exact a2

theorem Dev.forward_sound {s : Dev} {pid : Nat} {p : Pkt} {g : Nat} {t : Option Tlp} (h0 : s.Sound) : (Dev.forward s pid p g t).Sound := by
  unfold Dev.forward
  repeat' first
    | with_reducible assumption
    | with_reducible apply Dev.count_sound
    | with_reducible apply Dev.delPkt_sound
    | with_reducible apply Dev.discard_sound
    | with_reducible apply Dev.dropTrickOf_sound
    | with_reducible apply Dev.lockStep_sound
    | with_reducible refine Dev.lockStep_pair (by with_reducible assumption) ?_
    | with_reducible apply Dev.putPkt_sound
    | with_reducible apply Dev.settle_sound
    | (intro x; have hx : Dev.Sound x; (on_goal 2 => clear_value x); (on_goal 1 => unfold x))
    | (intro x; (fail_if_success (have q : Engs := x)); (fail_if_success (have q : Svc := x)); (fail_if_success (have q : Trust := x)); (fail_if_success (have q : _ → _ := x)); clear_value x)
    | intro x
    | lift_lets -underBinder
    | (simp only [↓Dev.sound_mk]; with_reducible apply Dev.Sound.parts)
    | with_reducible apply ite_sound
    | dsimp -zeta only
    | split
    | dsimp -zeta +zetaDelta only

theorem Dev.copies_sound {s : Dev} {pid : Nat} {p : Pkt} {l : List Nat} (h0 : s.Sound) : (Dev.copies s pid p l).Sound := by
  unfold Dev.copies
  repeat' first
    | with_reducible assumption
    | with_reducible apply Dev.delPkt_sound
    | with_reducible apply Dev.enter_sound
    | with_reducible apply Dev.forward_sound
    | with_reducible apply each_sound
    | (intro x; have hx : Dev.Sound x; (on_goal 2 => clear_value x); (on_goal 1 => unfold x))
    | (intro x; (fail_if_success (have q : Engs := x)); (fail_if_success (have q : Svc := x)); (fail_if_success (have q : Trust := x)); (fail_if_success (have q : _ → _ := x)); clear_value x)
    | intro x
    | lift_lets -underBinder
    | (simp only [↓Dev.sound_mk]; with_reducible apply Dev.Sound.parts)
    | dsimp -zeta only
    | dsimp -zeta +zetaDelta only

theorem coreLookup_sound {pid : Nat} {chk : CoreCheck} {s : Dev} (h0 : s.Sound) : (coreLookup pid chk s).Sound := by
  unfold coreLookup
  repeat' first
    | with_reducible assumption
    | with_reducible apply Dev.acsViolation_sound
    | with_reducible apply Dev.copies_sound
    | with_reducible apply Dev.count_sound
    | with_reducible apply Dev.delPkt_sound
    | with_reducible apply Dev.discard_sound
    | with_reducible apply Dev.drop_sound
    | with_reducible apply Dev.forward_sound
    | with_reducible apply Dev.lockedUr_sound
    | with_reducible apply Dev.unbound_sound
    | with_reducible apply Dev.unboundAnswer_sound
    | (intro x; have hx : Dev.Sound x; (on_goal 2 => clear_value x); (on_goal 1 => unfold x))
    | (intro x; (fail_if_success (have q : Engs := x)); (fail_if_success (have q : Svc := x)); (fail_if_success (have q : Trust := x)); (fail_if_success (have q : _ → _ := x)); clear_value x)
    | intro x
    | lift_lets -underBinder
    | with_reducible apply ite_sound
    | dsimp -zeta only
    | split
    | dsimp -zeta +zetaDelta only

theorem Dev.coreMw_pair {s : Dev} {p : IntPkt} {t_ x_} (e_ : Dev.coreMw s p = some (t_, x_)) (h0 : s.Sound) : t_.Sound := by
  unfold Dev.coreMw at e_
  split at e_
  · dsimp only at e_
    split at e_
    · simp at e_
    · split at e_
      · simp only [Option.some.injEq, Prod.mk.injEq] at e_
        obtain ⟨rfl, -⟩ := e_; exact Dev.emit_sound h0
      · simp only [Option.some.injEq, Prod.mk.injEq] at e_
        obtain ⟨rfl, -⟩ := e_; exact h0
  · simp at e_

theorem packetIngress_sound {port : Nat} {x : Ingress} {s : Dev} (h0 : s.Sound) : (packetIngress port x s).Sound := by
  unfold packetIngress
  split
  · exact Dev.ingressPcie_sound h0
  · exact Dev.ingressMore_sound h0
  · exact Dev.ingressFabric_sound h0
  · split
    · rename_i h
      split at h
      · exact Dev.ingressInternal_sound (Dev.coreMw_pair h h0)
      · simp at h
    · rename_i h
      split at h
      · exact Dev.coreMw_pair h h0
      · simp at h
    · exact Dev.ingressInternal_sound h0

theorem npReservation_sound {pid : Nat} {s : Dev} (h0 : s.Sound) : (npReservation pid s).Sound := by
  unfold npReservation
  repeat' first
    | with_reducible assumption
    | with_reducible apply Dev.enqueue_sound
    | with_reducible apply Dev.fset_sound
    | with_reducible apply Dev.putPkt_sound
    | with_reducible apply Dev.shelfTake_sound
    | (intro x; have hx : Dev.Sound x; (on_goal 2 => clear_value x); (on_goal 1 => unfold x))
    | (intro x; (fail_if_success (have q : Engs := x)); (fail_if_success (have q : Svc := x)); (fail_if_success (have q : Trust := x)); (fail_if_success (have q : _ → _ := x)); clear_value x)
    | intro x
    | lift_lets -underBinder
    | (simp only [↓Dev.sound_mk]; with_reducible apply Dev.Sound.parts)
    | with_reducible apply ite_sound
    | dsimp -zeta only
    | split
    | dsimp -zeta +zetaDelta only

end Sys2Proof.Machine
end

