-- ==== Sys2Proof/Laws/SoundSched.lean ====
section
/-! SUPPORT. Every operation of Machine/Sched.lean keeps the switch sound. -/
set_option linter.unusedTactic false
set_option linter.unusedSimpArgs false
set_option linter.unreachableTactic false
namespace Sys2Proof.Machine

theorem Dev.setTat_sound {s : Dev} {f v : Nat} (h0 : s.Sound) : (Dev.setTat s f v).Sound := by
  unfold Dev.setTat
  repeat' first
    | with_reducible assumption
    | with_reducible apply Dev.rset_sound
    | intro x
    | dsimp -zeta only

theorem Dev.enterCal_sound {s : Dev} {f : Nat} (h0 : s.Sound) : (Dev.enterCal s f).Sound := by
  unfold Dev.enterCal
  repeat' first
    | with_reducible assumption
    | (intro x; have hx : Dev.Sound x; (on_goal 2 => clear_value x); (on_goal 1 => unfold x))
    | (intro x; (fail_if_success (have q : Engs := x)); (fail_if_success (have q : Svc := x)); (fail_if_success (have q : Trust := x)); (fail_if_success (have q : _ → _ := x)); clear_value x)
    | intro x
    | lift_lets -underBinder
    | (simp only [↓Dev.sound_mk]; with_reducible apply Dev.Sound.parts)
    | with_reducible apply ite_sound
    | dsimp -zeta only
    | split
    | dsimp -zeta +zetaDelta only

theorem Dev.charge_sound {s : Dev} {p : Pkt} (h0 : s.Sound) : (Dev.charge s p).Sound := by
  unfold Dev.charge
  repeat' first
    | with_reducible assumption
    | with_reducible apply Dev.setTat_sound
    | (intro x; have hx : Dev.Sound x; (on_goal 2 => clear_value x); (on_goal 1 => unfold x))
    | (intro x; (fail_if_success (have q : Engs := x)); (fail_if_success (have q : Svc := x)); (fail_if_success (have q : Trust := x)); (fail_if_success (have q : _ → _ := x)); clear_value x)
    | intro x
    | lift_lets -underBinder
    | (simp only [↓Dev.sound_mk]; with_reducible apply Dev.Sound.parts)
    | with_reducible apply ite_sound
    | dsimp -zeta only
    | split
    | dsimp -zeta +zetaDelta only

theorem Dev.beginSlot_sound {s : Dev} {slot : Nat} (h0 : s.Sound) : (Dev.beginSlot s slot).Sound := by
  unfold Dev.beginSlot
  repeat' first
    | with_reducible assumption
    | with_reducible apply Dev.enterCal_sound
    | with_reducible apply Dev.fset_sound
    | with_reducible apply each_sound
    | (intro x; have hx : Dev.Sound x; (on_goal 2 => clear_value x); (on_goal 1 => unfold x))
    | (intro x; (fail_if_success (have q : Engs := x)); (fail_if_success (have q : Svc := x)); (fail_if_success (have q : Trust := x)); (fail_if_success (have q : _ → _ := x)); clear_value x)
    | intro x
    | lift_lets -underBinder
    | (simp only [↓Dev.sound_mk]; with_reducible apply Dev.Sound.parts)
    | with_reducible apply ite_sound
    | dsimp -zeta only
    | split
    | dsimp -zeta +zetaDelta only

theorem calendarSlotBegin_sound {s : Dev} (h0 : s.Sound) : (calendarSlotBegin s).Sound := by
  unfold calendarSlotBegin
  repeat' first
    | with_reducible assumption
    | with_reducible apply Dev.beginSlot_sound
    | with_reducible apply each_sound
    | (intro x; have hx : Dev.Sound x; (on_goal 2 => clear_value x); (on_goal 1 => unfold x))
    | (intro x; (fail_if_success (have q : Engs := x)); (fail_if_success (have q : Svc := x)); (fail_if_success (have q : Trust := x)); (fail_if_success (have q : _ → _ := x)); clear_value x)
    | intro x
    | lift_lets -underBinder
    | (simp only [↓Dev.sound_mk]; with_reducible apply Dev.Sound.parts)
    | dsimp -zeta only
    | dsimp -zeta +zetaDelta only

theorem flowSweepVisit_sound {f : Nat} {s : Dev} (h0 : s.Sound) : (flowSweepVisit f s).Sound := by
  unfold flowSweepVisit
  repeat' first
    | with_reducible assumption
    | with_reducible apply Dev.setTat_sound
    | (intro x; have hx : Dev.Sound x; (on_goal 2 => clear_value x); (on_goal 1 => unfold x))
    | (intro x; (fail_if_success (have q : Engs := x)); (fail_if_success (have q : Svc := x)); (fail_if_success (have q : Trust := x)); (fail_if_success (have q : _ → _ := x)); clear_value x)
    | intro x
    | lift_lets -underBinder
    | (simp only [↓Dev.sound_mk]; with_reducible apply Dev.Sound.parts)
    | with_reducible apply ite_sound
    | dsimp -zeta only
    | split
    | dsimp -zeta +zetaDelta only

theorem Dev.schedTimeStep_sound {s : Dev} (h0 : s.Sound) : (Dev.schedTimeStep s).Sound := by
  unfold Dev.schedTimeStep
  repeat' first
    | with_reducible assumption
    | with_reducible apply Dev.fset_sound
    | with_reducible apply Dev.setTat_sound
    | with_reducible apply each_sound
    | (intro x; have hx : Dev.Sound x; (on_goal 2 => clear_value x); (on_goal 1 => unfold x))
    | (intro x; (fail_if_success (have q : Engs := x)); (fail_if_success (have q : Svc := x)); (fail_if_success (have q : Trust := x)); (fail_if_success (have q : _ → _ := x)); clear_value x)
    | intro x
    | lift_lets -underBinder
    | (simp only [↓Dev.sound_mk]; with_reducible apply Dev.Sound.parts)
    | with_reducible apply ite_sound
    | dsimp -zeta only
    | split
    | dsimp -zeta +zetaDelta only

theorem Dev.sampleTime_sound {s : Dev} (h0 : s.Sound) : (Dev.sampleTime s).Sound := by
  unfold Dev.sampleTime
  repeat' first
    | with_reducible assumption
    | with_reducible apply Dev.schedTimeStep_sound
    | (intro x; have hx : Dev.Sound x; (on_goal 2 => clear_value x); (on_goal 1 => unfold x))
    | (intro x; (fail_if_success (have q : Engs := x)); (fail_if_success (have q : Svc := x)); (fail_if_success (have q : Trust := x)); (fail_if_success (have q : _ → _ := x)); clear_value x)
    | intro x
    | lift_lets -underBinder
    | (simp only [↓Dev.sound_mk]; with_reducible apply Dev.Sound.parts)
    | with_reducible apply ite_sound
    | dsimp -zeta only
    | split
    | dsimp -zeta +zetaDelta only

theorem Dev.setGates_sound {s : Dev} {n g idx : Nat} (h0 : s.Sound) : (Dev.setGates s n g idx).Sound := by
  unfold Dev.setGates
  repeat' first
    | with_reducible assumption
    | with_reducible apply Dev.fsets_sound
    | with_reducible apply each_sound
    | (intro x; have hx : Dev.Sound x; (on_goal 2 => clear_value x); (on_goal 1 => unfold x))
    | (intro x; (fail_if_success (have q : Engs := x)); (fail_if_success (have q : Svc := x)); (fail_if_success (have q : Trust := x)); (fail_if_success (have q : _ → _ := x)); clear_value x)
    | intro x
    | lift_lets -underBinder
    | (simp only [↓Dev.sound_mk]; with_reducible apply Dev.Sound.parts)
    | with_reducible apply ite_sound
    | dsimp -zeta only
    | split
    | dsimp -zeta +zetaDelta only

theorem Dev.gateRefresh_sound {s : Dev} {n : Nat} (h0 : s.Sound) : (Dev.gateRefresh s n).Sound := by
  unfold Dev.gateRefresh
  repeat' first
    | with_reducible assumption
    | with_reducible apply Dev.setGates_sound
    | (intro x; have hx : Dev.Sound x; (on_goal 2 => clear_value x); (on_goal 1 => unfold x))
    | (intro x; (fail_if_success (have q : Engs := x)); (fail_if_success (have q : Svc := x)); (fail_if_success (have q : Trust := x)); (fail_if_success (have q : _ → _ := x)); clear_value x)
    | intro x
    | lift_lets -underBinder
    | with_reducible apply ite_sound
    | dsimp -zeta only
    | split
    | dsimp -zeta +zetaDelta only

theorem gateEntryBegin_sound {n : Nat} {s : Dev} (h0 : s.Sound) : (gateEntryBegin n s).Sound := by
  unfold gateEntryBegin
  repeat' first
    | with_reducible assumption
    | with_reducible apply Dev.gateRefresh_sound
    | intro x
    | with_reducible apply ite_sound
    | dsimp -zeta only
    | split

theorem gateSwitchover_sound {n : Nat} {s : Dev} (h0 : s.Sound) : (gateSwitchover n s).Sound := by
  unfold gateSwitchover
  repeat' first
    | with_reducible assumption
    | with_reducible apply Dev.fsets_sound
    | with_reducible apply Dev.gateRefresh_sound
    | with_reducible apply each_sound
    | (intro x; have hx : Dev.Sound x; (on_goal 2 => clear_value x); (on_goal 1 => unfold x))
    | (intro x; (fail_if_success (have q : Engs := x)); (fail_if_success (have q : Svc := x)); (fail_if_success (have q : Trust := x)); (fail_if_success (have q : _ → _ := x)); clear_value x)
    | intro x
    | lift_lets -underBinder
    | (simp only [↓Dev.sound_mk]; with_reducible apply Dev.Sound.parts)
    | with_reducible apply ite_sound
    | dsimp -zeta only
    | split
    | dsimp -zeta +zetaDelta only

theorem Dev.armGate_sound {s : Dev} {n at_ : Nat} (h0 : s.Sound) : (Dev.armGate s n at_).Sound := by
  unfold Dev.armGate
  repeat' first
    | with_reducible assumption
    | with_reducible apply Dev.fset_sound
    | with_reducible apply Dev.fsets_sound
    | with_reducible apply Dev.gateRefresh_sound
    | with_reducible apply Dev.raise_sound
    | (intro x; have hx : Dev.Sound x; (on_goal 2 => clear_value x); (on_goal 1 => unfold x))
    | (intro x; (fail_if_success (have q : Engs := x)); (fail_if_success (have q : Svc := x)); (fail_if_success (have q : Trust := x)); (fail_if_success (have q : _ → _ := x)); clear_value x)
    | intro x
    | lift_lets -underBinder
    | (simp only [↓Dev.sound_mk]; with_reducible apply Dev.Sound.parts)
    | with_reducible apply ite_sound
    | dsimp -zeta only
    | split
    | dsimp -zeta +zetaDelta only

theorem Dev.copyPair_sound {s : Dev} {pr : Reg × Reg} (h0 : s.Sound) : (Dev.copyPair s pr).Sound := by
  unfold Dev.copyPair
  repeat' first
    | with_reducible assumption
    | with_reducible apply Dev.rset_sound
    | with_reducible apply each_sound
    | intro x
    | dsimp -zeta only

theorem Dev.copyPort_sound {s : Dev} {n : Nat} (h0 : s.Sound) : (Dev.copyPort s n).Sound := by
  unfold Dev.copyPort
  repeat' first
    | with_reducible assumption
    | with_reducible apply Dev.fsets_sound
    | intro x
    | dsimp -zeta only

theorem Dev.modArb_sound {s : Dev} {a : Nat} {g : Arb → Arb} (h0 : s.Sound) : (Dev.modArb s a g).Sound := by
  unfold Dev.modArb
  repeat' first
    | with_reducible assumption
    | (intro x; have hx : Dev.Sound x; (on_goal 2 => clear_value x); (on_goal 1 => unfold x))
    | (intro x; (fail_if_success (have q : Engs := x)); (fail_if_success (have q : Svc := x)); (fail_if_success (have q : Trust := x)); (fail_if_success (have q : _ → _ := x)); clear_value x)
    | intro x
    | lift_lets -underBinder
    | (simp only [↓Dev.sound_mk]; with_reducible apply Dev.Sound.parts)
    | dsimp -zeta only
    | dsimp -zeta +zetaDelta only

theorem Dev.arbAfterWrite_sound {s : Dev} {a : Nat} (h0 : s.Sound) : (Dev.arbAfterWrite s a).Sound := by
  unfold Dev.arbAfterWrite
  repeat' first
    | with_reducible assumption
    | with_reducible apply Dev.fset_sound
    | with_reducible apply Dev.modArb_sound
    | (intro x; have hx : Dev.Sound x; (on_goal 2 => clear_value x); (on_goal 1 => unfold x))
    | (intro x; (fail_if_success (have q : Engs := x)); (fail_if_success (have q : Svc := x)); (fail_if_success (have q : Trust := x)); (fail_if_success (have q : _ → _ := x)); clear_value x)
    | intro x
    | lift_lets -underBinder
    | (simp only [↓Dev.sound_mk]; with_reducible apply Dev.Sound.parts)
    | with_reducible apply ite_sound
    | dsimp -zeta only
    | split
    | dsimp -zeta +zetaDelta only

theorem Dev.commitNow_sound {s : Dev} {c at_ : Nat} (h0 : s.Sound) : (Dev.commitNow s c at_).Sound := by
  unfold Dev.commitNow
  repeat' first
    | with_reducible assumption
    | with_reducible apply Dev.arbAfterWrite_sound
    | with_reducible apply Dev.armGate_sound
    | with_reducible apply Dev.copyPair_sound
    | with_reducible apply Dev.copyPort_sound
    | with_reducible apply Dev.fset_sound
    | with_reducible apply Dev.fsets_sound
    | with_reducible apply Dev.rset_sound
    | with_reducible apply each_sound
    | (intro x; have hx : Dev.Sound x; (on_goal 2 => clear_value x); (on_goal 1 => unfold x))
    | (intro x; (fail_if_success (have q : Engs := x)); (fail_if_success (have q : Svc := x)); (fail_if_success (have q : Trust := x)); (fail_if_success (have q : _ → _ := x)); clear_value x)
    | intro x
    | lift_lets -underBinder
    | (simp only [↓Dev.sound_mk]; with_reducible apply Dev.Sound.parts)
    | with_reducible apply ite_sound
    | dsimp -zeta only
    | split
    | dsimp -zeta +zetaDelta only

theorem Dev.commitWrite_sound {s : Dev} (h0 : s.Sound) : (Dev.commitWrite s).Sound := by
  unfold Dev.commitWrite
  repeat' first
    | with_reducible assumption
    | (intro x; have hx : Dev.Sound x; (on_goal 2 => clear_value x); (on_goal 1 => unfold x))
    | (intro x; (fail_if_success (have q : Engs := x)); (fail_if_success (have q : Svc := x)); (fail_if_success (have q : Trust := x)); (fail_if_success (have q : _ → _ := x)); clear_value x)
    | intro x
    | lift_lets -underBinder
    | (simp only [↓Dev.sound_mk]; with_reducible apply Dev.Sound.parts)
    | with_reducible apply ite_sound
    | dsimp -zeta only
    | split
    | dsimp -zeta +zetaDelta only

theorem Dev.commitDue_sound {s : Dev} (h0 : s.Sound) : (Dev.commitDue s).Sound := by
  unfold Dev.commitDue
  repeat' first
    | with_reducible assumption
    | with_reducible apply Dev.commitNow_sound
    | intro x
    | with_reducible apply ite_sound
    | dsimp -zeta only
    | split

theorem commit_sound {p : Plane} {s : Dev} (h0 : s.Sound) : (commit p s).Sound := by
  unfold commit
  repeat' first
    | with_reducible assumption
    | with_reducible apply Dev.commitWrite_sound
    | intro x
    | dsimp -zeta only
    | split

theorem Dev.sampleGrant_sound {s : Dev} {p : Pkt} {bypass : Bool} (h0 : s.Sound) : (Dev.sampleGrant s p bypass).Sound := by
  unfold Dev.sampleGrant
  repeat' first
    | with_reducible assumption
    | (intro x; have hx : Dev.Sound x; (on_goal 2 => clear_value x); (on_goal 1 => unfold x))
    | (intro x; (fail_if_success (have q : Engs := x)); (fail_if_success (have q : Svc := x)); (fail_if_success (have q : Trust := x)); (fail_if_success (have q : _ → _ := x)); clear_value x)
    | intro x
    | lift_lets -underBinder
    | (simp only [↓Dev.sound_mk]; with_reducible apply Dev.Sound.parts)
    | with_reducible apply ite_sound
    | dsimp -zeta only
    | split
    | dsimp -zeta +zetaDelta only

theorem Dev.sampleRecord_sound {s : Dev} {pass q : Nat} (h0 : s.Sound) : (Dev.sampleRecord s pass q).Sound := by
  unfold Dev.sampleRecord
  repeat' first
    | with_reducible assumption
    | with_reducible apply b_sound
    | with_reducible apply Dev.count_sound
    | with_reducible apply Dev.fset_sound
    | with_reducible apply Dev.planeMemWrite_sound
    | (intro x; have hx : Dev.Sound x; (on_goal 2 => clear_value x); (on_goal 1 => unfold x))
    | (intro x; (fail_if_success (have q : Engs := x)); (fail_if_success (have q : Svc := x)); (fail_if_success (have q : Trust := x)); (fail_if_success (have q : _ → _ := x)); clear_value x)
    | intro x
    | lift_lets -underBinder
    | (simp only [↓Dev.sound_mk]; with_reducible apply Dev.Sound.parts)
    | with_reducible apply ite_sound
    | dsimp -zeta only
    | split
    | dsimp -zeta +zetaDelta only

theorem Dev.freshSamples_sound {s : Dev} (h0 : s.Sound) : (Dev.freshSamples s).Sound := by
  unfold Dev.freshSamples
  repeat' first
    | with_reducible assumption
    | with_reducible apply Dev.sampleDepth_sound
    | with_reducible apply each_sound
    | (intro x; have hx : Dev.Sound x; (on_goal 2 => clear_value x); (on_goal 1 => unfold x))
    | (intro x; (fail_if_success (have q : Engs := x)); (fail_if_success (have q : Svc := x)); (fail_if_success (have q : Trust := x)); (fail_if_success (have q : _ → _ := x)); clear_value x)
    | intro x
    | lift_lets -underBinder
    | (simp only [↓Dev.sound_mk]; with_reducible apply Dev.Sound.parts)
    | dsimp -zeta only
    | dsimp -zeta +zetaDelta only

theorem samplingPass_sound {late : Bool} {s : Dev} (h0 : s.Sound) : (samplingPass late s).Sound := by
  unfold samplingPass
  repeat' first
    | with_reducible assumption
    | with_reducible apply Dev.count_sound
    | with_reducible apply Dev.freshSamples_sound
    | with_reducible apply Dev.sampleRecord_sound
    | with_reducible apply each_sound
    | (intro x; have hx : Dev.Sound x; (on_goal 2 => clear_value x); (on_goal 1 => unfold x))
    | (intro x; (fail_if_success (have q : Engs := x)); (fail_if_success (have q : Svc := x)); (fail_if_success (have q : Trust := x)); (fail_if_success (have q : _ → _ := x)); clear_value x)
    | intro x
    | lift_lets -underBinder
    | (simp only [↓Dev.sound_mk]; with_reducible apply Dev.Sound.parts)
    | with_reducible apply ite_sound
    | dsimp -zeta only
    | split
    | dsimp -zeta +zetaDelta only

theorem pcieCreditUpdate_sound {n kind hdr data : Nat} {s : Dev} (h0 : s.Sound) : (pcieCreditUpdate n kind hdr data s).Sound := by
  unfold pcieCreditUpdate
  repeat' first
    | with_reducible assumption
    | (intro x; have hx : Dev.Sound x; (on_goal 2 => clear_value x); (on_goal 1 => unfold x))
    | (intro x; (fail_if_success (have q : Engs := x)); (fail_if_success (have q : Svc := x)); (fail_if_success (have q : Trust := x)); (fail_if_success (have q : _ → _ := x)); clear_value x)
    | intro x
    | lift_lets -underBinder
    | (simp only [↓Dev.sound_mk]; with_reducible apply Dev.Sound.parts)
    | with_reducible apply ite_sound
    | dsimp -zeta only
    | split
    | dsimp -zeta +zetaDelta only

end Sys2Proof.Machine
end

