-- ==== Sys2Proof/Laws/SoundArbiter.lean ====
section
/-! SUPPORT. Every operation of Machine/Arbiter.lean keeps the switch sound. -/
set_option linter.unusedTactic false
set_option linter.unusedSimpArgs false
set_option linter.unreachableTactic false
namespace Sys2Proof.Machine

theorem Dev.keepPhase_sound {s : Dev} (h0 : s.Sound) : (Dev.keepPhase s).Sound := by
  unfold Dev.keepPhase
  repeat' first
    | with_reducible assumption
    | (intro x; have hx : Dev.Sound x; (on_goal 2 => clear_value x); (on_goal 1 => unfold x))
    | (intro x; (fail_if_success (have q : Engs := x)); (fail_if_success (have q : Svc := x)); (fail_if_success (have q : Trust := x)); (fail_if_success (have q : _ → _ := x)); clear_value x)
    | intro x
    | lift_lets -underBinder
    | (simp only [↓Dev.sound_mk]; with_reducible apply Dev.Sound.parts)
    | dsimp -zeta only
    | dsimp -zeta +zetaDelta only

theorem Dev.deadlineDiscard_sound {s : Dev} {pid : Nat} {p : Pkt} (h0 : s.Sound) : (Dev.deadlineDiscard s pid p).Sound := by
  unfold Dev.deadlineDiscard
  repeat' first
    | with_reducible assumption
    | with_reducible apply Dev.count_sound
    | with_reducible apply Dev.delPkt_sound
    | with_reducible apply Dev.oweToken_sound
    | (intro x; have hx : Dev.Sound x; (on_goal 2 => clear_value x); (on_goal 1 => unfold x))
    | (intro x; (fail_if_success (have q : Engs := x)); (fail_if_success (have q : Svc := x)); (fail_if_success (have q : Trust := x)); (fail_if_success (have q : _ → _ := x)); clear_value x)
    | intro x
    | lift_lets -underBinder
    | with_reducible apply ite_sound
    | dsimp -zeta only
    | split
    | dsimp -zeta +zetaDelta only

theorem Dev.grantTo_sound {s : Dev} {a : Nat} {r : Request} {ask priv bypass : Bool} (h0 : s.Sound) : (Dev.grantTo s a r ask priv bypass).Sound := by
  unfold Dev.grantTo
  repeat' first
    | with_reducible assumption
    | with_reducible apply Dev.fset_sound
    | with_reducible apply Dev.marker_sound
    | with_reducible apply Dev.modArb_sound
    | (intro x; have hx : Dev.Sound x; (on_goal 2 => clear_value x); (on_goal 1 => unfold x))
    | (intro x; (fail_if_success (have q : Engs := x)); (fail_if_success (have q : Svc := x)); (fail_if_success (have q : Trust := x)); (fail_if_success (have q : _ → _ := x)); clear_value x)
    | intro x
    | lift_lets -underBinder
    | (simp only [↓Dev.sound_mk]; with_reducible apply Dev.Sound.parts)
    | with_reducible apply ite_sound
    | dsimp -zeta only
    | split
    | dsimp -zeta +zetaDelta only

theorem Dev.trickStep_sound {s : Dev} {a : Nat} {r : Request} {p : Pkt} (h0 : s.Sound) : (Dev.trickStep s a r p).Sound := by
  unfold Dev.trickStep
  repeat' first
    | with_reducible assumption
    | with_reducible apply Dev.modArb_sound
    | (intro x; have hx : Dev.Sound x; (on_goal 2 => clear_value x); (on_goal 1 => unfold x))
    | (intro x; (fail_if_success (have q : Engs := x)); (fail_if_success (have q : Svc := x)); (fail_if_success (have q : Trust := x)); (fail_if_success (have q : _ → _ := x)); clear_value x)
    | intro x
    | lift_lets -underBinder
    | (simp only [↓Dev.sound_mk]; with_reducible apply Dev.Sound.parts)
    | with_reducible apply ite_sound
    | dsimp -zeta only
    | split
    | dsimp -zeta +zetaDelta only

theorem Dev.pciCommit_sound {s : Dev} {p : Pkt} (h0 : s.Sound) : (Dev.pciCommit s p).Sound := by
  unfold Dev.pciCommit
  repeat' first
    | with_reducible assumption
    | (intro x; have hx : Dev.Sound x; (on_goal 2 => clear_value x); (on_goal 1 => unfold x))
    | (intro x; (fail_if_success (have q : Engs := x)); (fail_if_success (have q : Svc := x)); (fail_if_success (have q : Trust := x)); (fail_if_success (have q : _ → _ := x)); clear_value x)
    | intro x
    | lift_lets -underBinder
    | (simp only [↓Dev.sound_mk]; with_reducible apply Dev.Sound.parts)
    | dsimp -zeta only
    | split
    | dsimp -zeta +zetaDelta only

theorem Dev.firstGrant_sound {s : Dev} {p : Pkt} {bypass : Bool} (h0 : s.Sound) : (Dev.firstGrant s p bypass).Sound := by
  unfold Dev.firstGrant
  repeat' first
    | with_reducible assumption
    | with_reducible apply Dev.count_sound
    | with_reducible apply Dev.marker_sound
    | with_reducible apply Dev.pciCommit_sound
    | with_reducible apply Dev.sampleGrant_sound
    | (intro x; have hx : Dev.Sound x; (on_goal 2 => clear_value x); (on_goal 1 => unfold x))
    | (intro x; (fail_if_success (have q : Engs := x)); (fail_if_success (have q : Svc := x)); (fail_if_success (have q : Trust := x)); (fail_if_success (have q : _ → _ := x)); clear_value x)
    | intro x
    | lift_lets -underBinder
    | with_reducible apply ite_sound
    | dsimp -zeta only
    | split
    | dsimp -zeta +zetaDelta only

theorem Dev.grantFlit_sound {s : Dev} {a : Nat} {r : Request} {ask : Bool} (h0 : s.Sound) : (Dev.grantFlit s a r ask).Sound := by
  unfold Dev.grantFlit
  repeat' first
    | with_reducible assumption
    | with_reducible apply Dev.drop_sound
    | with_reducible apply Dev.firstGrant_sound
    | with_reducible apply Dev.grantTo_sound
    | with_reducible apply Dev.putPkt_sound
    | with_reducible apply Dev.trickStep_sound
    | (intro x; have hx : Dev.Sound x; (on_goal 2 => clear_value x); (on_goal 1 => unfold x))
    | (intro x; (fail_if_success (have q : Engs := x)); (fail_if_success (have q : Svc := x)); (fail_if_success (have q : Trust := x)); (fail_if_success (have q : _ → _ := x)); clear_value x)
    | intro x
    | lift_lets -underBinder
    | (simp only [↓Dev.sound_mk]; with_reducible apply Dev.Sound.parts)
    | with_reducible apply ite_sound
    | dsimp -zeta only
    | split
    | dsimp -zeta +zetaDelta only

theorem Dev.enterAll_sound {s : Dev} (h0 : s.Sound) : (Dev.enterAll s).Sound := by
  unfold Dev.enterAll
  repeat' first
    | with_reducible assumption
    | with_reducible apply Dev.enterCal_sound
    | with_reducible apply each_sound
    | intro x
    | dsimp -zeta only

theorem Dev.arbFlag_sound {s : Dev} {a kind input port cls : Nat} (h0 : s.Sound) : (Dev.arbFlag s a kind input port cls).Sound := by
  unfold Dev.arbFlag
  repeat' first
    | with_reducible assumption
    | with_reducible apply Dev.firstEvent_sound
    | intro x
    | dsimp -zeta only

theorem Dev.cutTenure_sound {s : Dev} {a : Nat} (h0 : s.Sound) : (Dev.cutTenure s a).Sound := by
  unfold Dev.cutTenure
  repeat' first
    | with_reducible assumption
    | with_reducible apply Dev.arbFlag_sound
    | with_reducible apply Dev.count_sound
    | with_reducible apply Dev.modArb_sound
    | with_reducible apply Dev.raise_sound
    | (intro x; have hx : Dev.Sound x; (on_goal 2 => clear_value x); (on_goal 1 => unfold x))
    | (intro x; (fail_if_success (have q : Engs := x)); (fail_if_success (have q : Svc := x)); (fail_if_success (have q : Trust := x)); (fail_if_success (have q : _ → _ := x)); clear_value x)
    | intro x
    | lift_lets -underBinder
    | (simp only [↓Dev.sound_mk]; with_reducible apply Dev.Sound.parts)
    | with_reducible apply ite_sound
    | dsimp -zeta only
    | split
    | dsimp -zeta +zetaDelta only

theorem Dev.parkPhase_sound {s : Dev} {a : Nat} (h0 : s.Sound) : (Dev.parkPhase s a).Sound := by
  unfold Dev.parkPhase
  repeat' first
    | with_reducible assumption
    | with_reducible apply Dev.modArb_sound
    | (intro x; have hx : Dev.Sound x; (on_goal 2 => clear_value x); (on_goal 1 => unfold x))
    | (intro x; (fail_if_success (have q : Engs := x)); (fail_if_success (have q : Svc := x)); (fail_if_success (have q : Trust := x)); (fail_if_success (have q : _ → _ := x)); clear_value x)
    | intro x
    | lift_lets -underBinder
    | (simp only [↓Dev.sound_mk]; with_reducible apply Dev.Sound.parts)
    | with_reducible apply ite_sound
    | dsimp -zeta only
    | split
    | dsimp -zeta +zetaDelta only

theorem Dev.grantWinner_sound {s : Dev} {a : Nat} {r : Request} {ask : Bool} (h0 : s.Sound) : (Dev.grantWinner s a r ask).Sound := by
  unfold Dev.grantWinner
  repeat' first
    | with_reducible assumption
    | with_reducible apply Dev.deadlineDiscard_sound
    | with_reducible apply Dev.grantFlit_sound
    | with_reducible apply Dev.grantTo_sound
    | (intro x; have hx : Dev.Sound x; (on_goal 2 => clear_value x); (on_goal 1 => unfold x))
    | (intro x; (fail_if_success (have q : Engs := x)); (fail_if_success (have q : Svc := x)); (fail_if_success (have q : Trust := x)); (fail_if_success (have q : _ → _ := x)); clear_value x)
    | intro x
    | lift_lets -underBinder
    | (simp only [↓Dev.sound_mk]; with_reducible apply Dev.Sound.parts)
    | with_reducible apply ite_sound
    | dsimp -zeta only
    | split
    | dsimp -zeta +zetaDelta only

theorem grant_sound {a : Nat} {reqs : List ArbReq} {ask release : Bool} {s : Dev} (h0 : s.Sound) : (grant a reqs ask release s).Sound := by
  unfold grant
  repeat' first
    | with_reducible assumption
    | with_reducible apply Dev.cutTenure_sound
    | with_reducible apply Dev.enterAll_sound
    | with_reducible apply Dev.grantWinner_sound
    | with_reducible apply Dev.keepPhase_sound
    | with_reducible apply Dev.modArb_sound
    | with_reducible apply Dev.parkPhase_sound
    | with_reducible apply release_sound
    | (intro x; have hx : Dev.Sound x; (on_goal 2 => clear_value x); (on_goal 1 => unfold x))
    | (intro x; (fail_if_success (have q : Engs := x)); (fail_if_success (have q : Svc := x)); (fail_if_success (have q : Trust := x)); (fail_if_success (have q : _ → _ := x)); clear_value x)
    | intro x
    | lift_lets -underBinder
    | (simp only [↓Dev.sound_mk]; with_reducible apply Dev.Sound.parts)
    | with_reducible apply ite_sound
    | dsimp -zeta only
    | split
    | dsimp -zeta +zetaDelta only

theorem roundBoundary_sound {a : Nat} {s : Dev} (h0 : s.Sound) : (roundBoundary a s).Sound := by
  unfold roundBoundary
  repeat' first
    | with_reducible assumption
    | with_reducible apply Dev.fset_sound
    | with_reducible apply Dev.modArb_sound
    | (intro x; have hx : Dev.Sound x; (on_goal 2 => clear_value x); (on_goal 1 => unfold x))
    | (intro x; (fail_if_success (have q : Engs := x)); (fail_if_success (have q : Svc := x)); (fail_if_success (have q : Trust := x)); (fail_if_success (have q : _ → _ := x)); clear_value x)
    | intro x
    | lift_lets -underBinder
    | (simp only [↓Dev.sound_mk]; with_reducible apply Dev.Sound.parts)
    | with_reducible apply ite_sound
    | dsimp -zeta only
    | split
    | dsimp -zeta +zetaDelta only

theorem tenureCut_sound {a : Nat} {s : Dev} (h0 : s.Sound) : (tenureCut a s).Sound := by
  unfold tenureCut
  repeat' first
    | with_reducible assumption
    | with_reducible apply Dev.cutTenure_sound
    | intro x
    | dsimp -zeta only

theorem Dev.cutTrick_sound {s : Dev} {a kind : Nat} {t : Trick} (h0 : s.Sound) : (Dev.cutTrick s a kind t).Sound := by
  unfold Dev.cutTrick
  repeat' first
    | with_reducible assumption
    | with_reducible apply Dev.arbFlag_sound
    | with_reducible apply Dev.count_sound
    | with_reducible apply Dev.emit_sound
    | with_reducible apply Dev.lockBreak_sound
    | with_reducible apply Dev.modArb_sound
    | with_reducible apply Dev.raise_sound
    | (intro x; have hx : Dev.Sound x; (on_goal 2 => clear_value x); (on_goal 1 => unfold x))
    | (intro x; (fail_if_success (have q : Engs := x)); (fail_if_success (have q : Svc := x)); (fail_if_success (have q : Trust := x)); (fail_if_success (have q : _ → _ := x)); clear_value x)
    | intro x
    | lift_lets -underBinder
    | (simp only [↓Dev.sound_mk]; with_reducible apply Dev.Sound.parts)
    | with_reducible apply ite_sound
    | dsimp -zeta only
    | split
    | dsimp -zeta +zetaDelta only

theorem trickCut64_sound {a port : Nat} {s : Dev} (h0 : s.Sound) : (trickCut64 a port s).Sound := by
  unfold trickCut64
  repeat' first
    | with_reducible assumption
    | with_reducible apply Dev.cutTrick_sound
    | intro x
    | dsimp -zeta only
    | split

theorem trickHoldCut_sound {a port : Nat} {s : Dev} (h0 : s.Sound) : (trickHoldCut a port s).Sound := by
  unfold trickHoldCut
  repeat' first
    | with_reducible assumption
    | with_reducible apply Dev.cutTrick_sound
    | intro x
    | dsimp -zeta only
    | split

theorem parkReleaseIdle_sound {a : Nat} {s : Dev} (h0 : s.Sound) : (parkReleaseIdle a s).Sound := by
  unfold parkReleaseIdle
  repeat' first
    | with_reducible assumption
    | with_reducible apply Dev.modArb_sound
    | (intro x; have hx : Dev.Sound x; (on_goal 2 => clear_value x); (on_goal 1 => unfold x))
    | (intro x; (fail_if_success (have q : Engs := x)); (fail_if_success (have q : Svc := x)); (fail_if_success (have q : Trust := x)); (fail_if_success (have q : _ → _ := x)); clear_value x)
    | intro x
    | lift_lets -underBinder
    | (simp only [↓Dev.sound_mk]; with_reducible apply Dev.Sound.parts)
    | with_reducible apply ite_sound
    | dsimp -zeta only
    | split
    | dsimp -zeta +zetaDelta only

theorem hatchWrite_sound {a : Nat} {p : Plane} {close : Bool} {s : Dev} (h0 : s.Sound) : (hatchWrite a p close s).Sound := by
  unfold hatchWrite
  repeat' first
    | with_reducible assumption
    | with_reducible apply Dev.fset_sound
    | with_reducible apply Dev.modArb_sound
    | (intro x; have hx : Dev.Sound x; (on_goal 2 => clear_value x); (on_goal 1 => unfold x))
    | (intro x; (fail_if_success (have q : Engs := x)); (fail_if_success (have q : Svc := x)); (fail_if_success (have q : Trust := x)); (fail_if_success (have q : _ → _ := x)); clear_value x)
    | intro x
    | lift_lets -underBinder
    | (simp only [↓Dev.sound_mk]; with_reducible apply Dev.Sound.parts)
    | with_reducible apply ite_sound
    | dsimp -zeta only
    | split
    | dsimp -zeta +zetaDelta only

theorem hatchWatchdog_sound {a : Nat} {s : Dev} (h0 : s.Sound) : (hatchWatchdog a s).Sound := by
  unfold hatchWatchdog
  repeat' first
    | with_reducible assumption
    | with_reducible apply Dev.arbFlag_sound
    | with_reducible apply Dev.modArb_sound
    | with_reducible apply Dev.raise_sound
    | (intro x; have hx : Dev.Sound x; (on_goal 2 => clear_value x); (on_goal 1 => unfold x))
    | (intro x; (fail_if_success (have q : Engs := x)); (fail_if_success (have q : Svc := x)); (fail_if_success (have q : Trust := x)); (fail_if_success (have q : _ → _ := x)); clear_value x)
    | intro x
    | lift_lets -underBinder
    | (simp only [↓Dev.sound_mk]; with_reducible apply Dev.Sound.parts)
    | with_reducible apply ite_sound
    | dsimp -zeta only
    | split
    | dsimp -zeta +zetaDelta only

end Sys2Proof.Machine
end

