-- ==== Sys2Proof/Laws/SoundXbar.lean ====
section
/-! SUPPORT. Every operation of Machine/Xbar.lean keeps the switch sound. -/
set_option linter.unusedTactic false
set_option linter.unusedSimpArgs false
set_option linter.unreachableTactic false
namespace Sys2Proof.Machine

theorem Dev.pciUncommit_sound {s : Dev} {p : Pkt} (h0 : s.Sound) : (Dev.pciUncommit s p).Sound := by
  unfold Dev.pciUncommit
  repeat' first
    | with_reducible assumption
    | (intro x; have hx : Dev.Sound x; (on_goal 2 => clear_value x); (on_goal 1 => unfold x))
    | (intro x; (fail_if_success (have q : Engs := x)); (fail_if_success (have q : Svc := x)); (fail_if_success (have q : Trust := x)); (fail_if_success (have q : _ → _ := x)); clear_value x)
    | intro x
    | lift_lets -underBinder
    | (simp only [↓Dev.sound_mk]; with_reducible apply Dev.Sound.parts)
    | dsimp -zeta only
    | split
    | dsimp -zeta +zetaDelta only

theorem Dev.fallBack_sound {s : Dev} {pid : Nat} {g : GrantRec} (h0 : s.Sound) : (Dev.fallBack s pid g).Sound := by
  unfold Dev.fallBack
  repeat' first
    | with_reducible assumption
    | with_reducible apply Dev.putPkt_sound
    | (intro x; have hx : Dev.Sound x; (on_goal 2 => clear_value x); (on_goal 1 => unfold x))
    | (intro x; (fail_if_success (have q : Engs := x)); (fail_if_success (have q : Svc := x)); (fail_if_success (have q : Trust := x)); (fail_if_success (have q : _ → _ := x)); clear_value x)
    | intro x
    | lift_lets -underBinder
    | (simp only [↓Dev.sound_mk]; with_reducible apply Dev.Sound.parts)
    | with_reducible apply ite_sound
    | dsimp -zeta only
    | split
    | dsimp -zeta +zetaDelta only

theorem Dev.ungrant_sound {s : Dev} {a : Nat} {g : GrantRec} (h0 : s.Sound) : (Dev.ungrant s a g).Sound := by
  unfold Dev.ungrant
  repeat' first
    | with_reducible assumption
    | with_reducible apply Dev.count_sound
    | with_reducible apply Dev.fallBack_sound
    | with_reducible apply Dev.fset_sound
    | with_reducible apply Dev.modArb_sound
    | (intro x; have hx : Dev.Sound x; (on_goal 2 => clear_value x); (on_goal 1 => unfold x))
    | (intro x; (fail_if_success (have q : Engs := x)); (fail_if_success (have q : Svc := x)); (fail_if_success (have q : Trust := x)); (fail_if_success (have q : _ → _ := x)); clear_value x)
    | intro x
    | lift_lets -underBinder
    | (simp only [↓Dev.sound_mk]; with_reducible apply Dev.Sound.parts)
    | with_reducible apply ite_sound
    | dsimp -zeta only
    | split
    | dsimp -zeta +zetaDelta only

theorem Dev.recall_sound {s : Dev} {a : Nat} {g : GrantRec} {p : Pkt} (h0 : s.Sound) : (Dev.recall s a g p).Sound := by
  unfold Dev.recall
  repeat' first
    | with_reducible assumption
    | with_reducible apply Dev.modArb_sound
    | with_reducible apply Dev.pciUncommit_sound
    | with_reducible apply Dev.putPkt_sound
    | (intro x; have hx : Dev.Sound x; (on_goal 2 => clear_value x); (on_goal 1 => unfold x))
    | (intro x; (fail_if_success (have q : Engs := x)); (fail_if_success (have q : Svc := x)); (fail_if_success (have q : Trust := x)); (fail_if_success (have q : _ → _ := x)); clear_value x)
    | intro x
    | lift_lets -underBinder
    | (simp only [↓Dev.sound_mk]; with_reducible apply Dev.Sound.parts)
    | with_reducible apply ite_sound
    | dsimp -zeta only
    | split
    | dsimp -zeta +zetaDelta only

theorem Dev.suffixSent_sound {s : Dev} {pid : Nat} (h0 : s.Sound) : (Dev.suffixSent s pid).Sound := by
  unfold Dev.suffixSent
  repeat' first
    | with_reducible assumption
    | (intro x; have hx : Dev.Sound x; (on_goal 2 => clear_value x); (on_goal 1 => unfold x))
    | (intro x; (fail_if_success (have q : Engs := x)); (fail_if_success (have q : Svc := x)); (fail_if_success (have q : Trust := x)); (fail_if_success (have q : _ → _ := x)); clear_value x)
    | intro x
    | lift_lets -underBinder
    | (simp only [↓Dev.sound_mk]; with_reducible apply Dev.Sound.parts)
    | with_reducible apply ite_sound
    | dsimp -zeta only
    | split
    | dsimp -zeta +zetaDelta only

theorem Dev.firstPass_sound {s : Dev} {pid : Nat} {p : Pkt} (h0 : s.Sound) : (Dev.firstPass s pid p).Sound := by
  unfold Dev.firstPass
  repeat' first
    | with_reducible assumption
    | with_reducible apply Dev.charge_sound
    | with_reducible apply Dev.count_sound
    | with_reducible apply Dev.ledgerMark_sound
    | with_reducible apply Dev.suffixSent_sound
    | (intro x; have hx : Dev.Sound x; (on_goal 2 => clear_value x); (on_goal 1 => unfold x))
    | (intro x; (fail_if_success (have q : Engs := x)); (fail_if_success (have q : Svc := x)); (fail_if_success (have q : Trust := x)); (fail_if_success (have q : _ → _ := x)); clear_value x)
    | intro x
    | lift_lets -underBinder
    | with_reducible apply ite_sound
    | dsimp -zeta only
    | split
    | dsimp -zeta +zetaDelta only

theorem Dev.cellFreed_sound {s : Dev} {p : Pkt} {idx : Nat} (h0 : s.Sound) : (Dev.cellFreed s p idx).Sound := by
  unfold Dev.cellFreed
  repeat' first
    | with_reducible assumption
    | with_reducible apply Dev.owe_sound
    | (intro x; have hx : Dev.Sound x; (on_goal 2 => clear_value x); (on_goal 1 => unfold x))
    | (intro x; (fail_if_success (have q : Engs := x)); (fail_if_success (have q : Svc := x)); (fail_if_success (have q : Trust := x)); (fail_if_success (have q : _ → _ := x)); clear_value x)
    | intro x
    | lift_lets -underBinder
    | (simp only [↓Dev.sound_mk]; with_reducible apply Dev.Sound.parts)
    | with_reducible apply ite_sound
    | dsimp -zeta only
    | split
    | dsimp -zeta +zetaDelta only

theorem Dev.deliver_sound {s : Dev} {pid : Nat} {p : Pkt} (h0 : s.Sound) : (Dev.deliver s pid p).Sound := by
  unfold Dev.deliver
  repeat' first
    | with_reducible assumption
    | with_reducible apply Dev.delPkt_sound
    | with_reducible apply Dev.discard_sound
    | with_reducible apply Dev.emit_sound
    | intro x
    | with_reducible apply ite_sound
    | dsimp -zeta only
    | split

theorem Dev.passFlit_sound {s : Dev} {g : GrantRec} {p : Pkt} {chk : CoreCheck} (h0 : s.Sound) : (Dev.passFlit s g p chk).Sound := by
  unfold Dev.passFlit
  repeat' first
    | with_reducible assumption
    | with_reducible apply Dev.cellFreed_sound
    | with_reducible apply Dev.count_sound
    | with_reducible apply Dev.deliver_sound
    | with_reducible apply Dev.errLog_sound
    | with_reducible apply Dev.firstPass_sound
    | with_reducible apply Dev.marker_sound
    | with_reducible apply Dev.putPkt_sound
    | with_reducible apply Dev.relatch_sound
    | (intro x; have hx : Dev.Sound x; (on_goal 2 => clear_value x); (on_goal 1 => unfold x))
    | (intro x; (fail_if_success (have q : Engs := x)); (fail_if_success (have q : Svc := x)); (fail_if_success (have q : Trust := x)); (fail_if_success (have q : _ → _ := x)); clear_value x)
    | intro x
    | lift_lets -underBinder
    | (simp only [↓Dev.sound_mk]; with_reducible apply Dev.Sound.parts)
    | with_reducible apply ite_sound
    | dsimp -zeta only
    | split
    | dsimp -zeta +zetaDelta only

theorem Dev.dataCycle_sound {s : Dev} {a : Nat} {g : GrantRec} {chk : CoreCheck} (h0 : s.Sound) : (Dev.dataCycle s a g chk).Sound := by
  unfold Dev.dataCycle
  repeat' first
    | with_reducible assumption
    | with_reducible apply Dev.discard_sound
    | with_reducible apply Dev.fallBack_sound
    | with_reducible apply Dev.passFlit_sound
    | with_reducible apply Dev.recall_sound
    | with_reducible apply Dev.ungrant_sound
    | intro x
    | with_reducible apply ite_sound
    | dsimp -zeta only
    | split

theorem crossbarDataPhase_sound {a : Nat} {chk : CoreCheck} {s : Dev} (h0 : s.Sound) : (crossbarDataPhase a chk s).Sound := by
  unfold crossbarDataPhase
  repeat' first
    | with_reducible assumption
    | with_reducible apply Dev.dataCycle_sound
    | with_reducible apply Dev.modArb_sound
    | (intro x; have hx : Dev.Sound x; (on_goal 2 => clear_value x); (on_goal 1 => unfold x))
    | (intro x; (fail_if_success (have q : Engs := x)); (fail_if_success (have q : Svc := x)); (fail_if_success (have q : Trust := x)); (fail_if_success (have q : _ → _ := x)); clear_value x)
    | intro x
    | lift_lets -underBinder
    | (simp only [↓Dev.sound_mk]; with_reducible apply Dev.Sound.parts)
    | with_reducible apply ite_sound
    | dsimp -zeta only
    | split
    | dsimp -zeta +zetaDelta only

theorem Dev.portSent_sound {s : Dev} {n : Nat} (h0 : s.Sound) : (Dev.portSent s n).Sound := by
  unfold Dev.portSent
  repeat' first
    | with_reducible assumption
    | (intro x; have hx : Dev.Sound x; (on_goal 2 => clear_value x); (on_goal 1 => unfold x))
    | (intro x; (fail_if_success (have q : Engs := x)); (fail_if_success (have q : Svc := x)); (fail_if_success (have q : Trust := x)); (fail_if_success (have q : _ → _ := x)); clear_value x)
    | intro x
    | lift_lets -underBinder
    | (simp only [↓Dev.sound_mk]; with_reducible apply Dev.Sound.parts)
    | with_reducible apply ite_sound
    | dsimp -zeta only
    | split
    | dsimp -zeta +zetaDelta only

theorem Dev.poisonLog_sound {s : Dev} {n : Nat} {p : Pkt} (h0 : s.Sound) : (Dev.poisonLog s n p).Sound := by
  unfold Dev.poisonLog
  repeat' first
    | with_reducible assumption
    | with_reducible apply Dev.aer_sound
    | with_reducible apply b_sound
    | (intro x; have hx : Dev.Sound x; (on_goal 2 => clear_value x); (on_goal 1 => unfold x))
    | (intro x; (fail_if_success (have q : Engs := x)); (fail_if_success (have q : Svc := x)); (fail_if_success (have q : Trust := x)); (fail_if_success (have q : _ → _ := x)); clear_value x)
    | intro x
    | lift_lets -underBinder
    | (simp only [↓Dev.sound_mk]; with_reducible apply Dev.Sound.parts)
    | with_reducible apply ite_sound
    | dsimp -zeta only
    | split
    | dsimp -zeta +zetaDelta only

theorem Dev.encodePcie_sound {s : Dev} {n : Nat} {f : StagedFlit} {rest : List StagedFlit} (h0 : s.Sound) : (Dev.encodePcie s n f rest).Sound := by
  unfold Dev.encodePcie
  repeat' first
    | with_reducible assumption
    | with_reducible apply Dev.count_sound
    | with_reducible apply Dev.delPkt_sound
    | with_reducible apply Dev.discard_sound
    | with_reducible apply Dev.emit_sound
    | with_reducible apply Dev.poisonLog_sound
    | with_reducible apply Dev.portSent_sound
    | (intro x; have hx : Dev.Sound x; (on_goal 2 => clear_value x); (on_goal 1 => unfold x))
    | (intro x; (fail_if_success (have q : Engs := x)); (fail_if_success (have q : Svc := x)); (fail_if_success (have q : Trust := x)); (fail_if_success (have q : _ → _ := x)); clear_value x)
    | intro x
    | lift_lets -underBinder
    | (simp only [↓Dev.sound_mk]; with_reducible apply Dev.Sound.parts)
    | with_reducible apply ite_sound
    | dsimp -zeta only
    | split
    | dsimp -zeta +zetaDelta only

theorem Dev.encodeFabric_sound {s : Dev} {n : Nat} {f : StagedFlit} {rest : List StagedFlit} (h0 : s.Sound) : (Dev.encodeFabric s n f rest).Sound := by
  unfold Dev.encodeFabric
  repeat' first
    | with_reducible assumption
    | with_reducible apply b_sound
    | with_reducible apply Dev.delPkt_sound
    | with_reducible apply Dev.discard_sound
    | with_reducible apply Dev.marker_sound
    | with_reducible apply Dev.portSent_sound
    | with_reducible apply Dev.putPkt_sound
    | (intro x; have hx : Dev.Sound x; (on_goal 2 => clear_value x); (on_goal 1 => unfold x))
    | (intro x; (fail_if_success (have q : Engs := x)); (fail_if_success (have q : Svc := x)); (fail_if_success (have q : Trust := x)); (fail_if_success (have q : _ → _ := x)); clear_value x)
    | intro x
    | lift_lets -underBinder
    | (simp only [↓Dev.sound_mk]; with_reducible apply Dev.Sound.parts)
    | with_reducible apply ite_sound
    | dsimp -zeta only
    | split
    | dsimp -zeta +zetaDelta only

theorem egressEncode_sound {n : Nat} {s : Dev} (h0 : s.Sound) : (egressEncode n s).Sound := by
  unfold egressEncode
  repeat' first
    | with_reducible assumption
    | with_reducible apply Dev.encodeFabric_sound
    | with_reducible apply Dev.encodePcie_sound
    | (intro x; have hx : Dev.Sound x; (on_goal 2 => clear_value x); (on_goal 1 => unfold x))
    | (intro x; (fail_if_success (have q : Engs := x)); (fail_if_success (have q : Svc := x)); (fail_if_success (have q : Trust := x)); (fail_if_success (have q : _ → _ := x)); clear_value x)
    | intro x
    | lift_lets -underBinder
    | with_reducible apply ite_sound
    | dsimp -zeta only
    | split
    | dsimp -zeta +zetaDelta only

theorem egressTlpStart_sound {n : Nat} {s : Dev} (h0 : s.Sound) : (egressTlpStart n s).Sound := by
  unfold egressTlpStart
  repeat' first
    | with_reducible assumption
    | (intro x; have hx : Dev.Sound x; (on_goal 2 => clear_value x); (on_goal 1 => unfold x))
    | (intro x; (fail_if_success (have q : Engs := x)); (fail_if_success (have q : Svc := x)); (fail_if_success (have q : Trust := x)); (fail_if_success (have q : _ → _ := x)); clear_value x)
    | intro x
    | lift_lets -underBinder
    | (simp only [↓Dev.sound_mk]; with_reducible apply Dev.Sound.parts)
    | with_reducible apply ite_sound
    | dsimp -zeta only
    | split
    | dsimp -zeta +zetaDelta only

end Sys2Proof.Machine
end

