-- ==== Sys2Proof/Laws/SoundDlv.lean ====
section
/-! SUPPORT. Every operation of Machine/Dlv.lean keeps the switch sound. -/
set_option linter.unusedTactic false
set_option linter.unusedSimpArgs false
set_option linter.unreachableTactic false
namespace Sys2Proof.Machine

theorem Dev.mwSend_sound {s : Dev} {dst op addr data : Nat} {use : MwUse} (h0 : s.Sound) : (Dev.mwSend s dst op addr data use).Sound := by
  unfold Dev.mwSend
  repeat' first
    | with_reducible assumption
    | with_reducible apply Dev.ctlPacket_sound
    | (intro x; have hx : Dev.Sound x; (on_goal 2 => clear_value x); (on_goal 1 => unfold x))
    | (intro x; (fail_if_success (have q : Engs := x)); (fail_if_success (have q : Svc := x)); (fail_if_success (have q : Trust := x)); (fail_if_success (have q : _ → _ := x)); clear_value x)
    | intro x
    | lift_lets -underBinder
    | (simp only [↓Dev.sound_mk]; with_reducible apply Dev.Sound.parts)
    | dsimp -zeta only
    | dsimp -zeta +zetaDelta only

theorem Dev.reroute_sound {s : Dev} {pid : Nat} (h0 : s.Sound) : (Dev.reroute s pid).Sound := by
  unfold Dev.reroute
  repeat' first
    | with_reducible assumption
    | with_reducible apply Dev.count_sound
    | with_reducible apply Dev.delPkt_sound
    | with_reducible apply Dev.discard_sound
    | with_reducible apply Dev.enqueue_sound
    | with_reducible apply Dev.putPkt_sound
    | (intro x; have hx : Dev.Sound x; (on_goal 2 => clear_value x); (on_goal 1 => unfold x))
    | (intro x; (fail_if_success (have q : Engs := x)); (fail_if_success (have q : Svc := x)); (fail_if_success (have q : Trust := x)); (fail_if_success (have q : _ → _ := x)); clear_value x)
    | intro x
    | lift_lets -underBinder
    | (simp only [↓Dev.sound_mk]; with_reducible apply Dev.Sound.parts)
    | with_reducible apply ite_sound
    | dsimp -zeta only
    | split
    | dsimp -zeta +zetaDelta only

theorem Dev.fenceStep1_sound {s : Dev} {f d oc point : Nat} (h0 : s.Sound) : (Dev.fenceStep1 s f d oc point).Sound := by
  unfold Dev.fenceStep1
  repeat' first
    | with_reducible assumption
    | with_reducible apply Dev.mwSend_sound
    | intro x
    | dsimp -zeta only

theorem Dev.raiseFence_sound {s : Dev} {f d oc point : Nat} {suffix : List Nat} (h0 : s.Sound) : (Dev.raiseFence s f d oc point suffix).Sound := by
  unfold Dev.raiseFence
  repeat' first
    | with_reducible assumption
    | with_reducible apply Dev.count_sound
    | with_reducible apply Dev.fenceStep1_sound
    | (intro x; have hx : Dev.Sound x; (on_goal 2 => clear_value x); (on_goal 1 => unfold x))
    | (intro x; (fail_if_success (have q : Engs := x)); (fail_if_success (have q : Svc := x)); (fail_if_success (have q : Trust := x)); (fail_if_success (have q : _ → _ := x)); clear_value x)
    | intro x
    | lift_lets -underBinder
    | (simp only [↓Dev.sound_mk]; with_reducible apply Dev.Sound.parts)
    | with_reducible apply ite_sound
    | dsimp -zeta only
    | split
    | dsimp -zeta +zetaDelta only

theorem Dev.requeue_sound {s : Dev} {pid : Nat} (h0 : s.Sound) : (Dev.requeue s pid).Sound := by
  unfold Dev.requeue
  repeat' first
    | with_reducible assumption
    | with_reducible apply Dev.discard_sound
    | with_reducible apply Dev.enqueue_sound
    | with_reducible apply Dev.putPkt_sound
    | with_reducible apply Dev.reroute_sound
    | (intro x; have hx : Dev.Sound x; (on_goal 2 => clear_value x); (on_goal 1 => unfold x))
    | (intro x; (fail_if_success (have q : Engs := x)); (fail_if_success (have q : Svc := x)); (fail_if_success (have q : Trust := x)); (fail_if_success (have q : _ → _ := x)); clear_value x)
    | intro x
    | lift_lets -underBinder
    | (simp only [↓Dev.sound_mk]; with_reducible apply Dev.Sound.parts)
    | with_reducible apply ite_sound
    | dsimp -zeta only
    | split
    | dsimp -zeta +zetaDelta only

theorem Dev.repick_sound {s : Dev} {pid : Nat} (h0 : s.Sound) : (Dev.repick s pid).Sound := by
  unfold Dev.repick
  repeat' first
    | with_reducible assumption
    | with_reducible apply Dev.discard_sound
    | with_reducible apply Dev.putPkt_sound
    | with_reducible apply Dev.requeue_sound
    | (intro x; have hx : Dev.Sound x; (on_goal 2 => clear_value x); (on_goal 1 => unfold x))
    | (intro x; (fail_if_success (have q : Engs := x)); (fail_if_success (have q : Svc := x)); (fail_if_success (have q : Trust := x)); (fail_if_success (have q : _ → _ := x)); clear_value x)
    | intro x
    | lift_lets -underBinder
    | (simp only [↓Dev.sound_mk]; with_reducible apply Dev.Sound.parts)
    | with_reducible apply ite_sound
    | dsimp -zeta only
    | split
    | dsimp -zeta +zetaDelta only

theorem Dev.failover_sound {s : Dev} {n : Nat} (h0 : s.Sound) : (Dev.failover s n).Sound := by
  unfold Dev.failover
  repeat' first
    | with_reducible assumption
    | with_reducible apply b_sound
    | with_reducible apply cut_sound
    | with_reducible apply Dev.delPkt_sound
    | with_reducible apply Dev.marker_sound
    | with_reducible apply Dev.raiseFence_sound
    | with_reducible apply Dev.repick_sound
    | with_reducible apply Dev.requeue_sound
    | with_reducible apply each_sound
    | (intro x; have hx : Dev.Sound x; (on_goal 2 => clear_value x); (on_goal 1 => unfold x))
    | (intro x; (fail_if_success (have q : Engs := x)); (fail_if_success (have q : Svc := x)); (fail_if_success (have q : Trust := x)); (fail_if_success (have q : _ → _ := x)); clear_value x)
    | intro x
    | lift_lets -underBinder
    | (simp only [↓Dev.sound_mk]; with_reducible apply Dev.Sound.parts)
    | with_reducible apply ite_sound
    | dsimp -zeta only
    | split
    | dsimp -zeta +zetaDelta only

theorem Dev.dropFence_sound {s : Dev} {f d oc : Nat} (h0 : s.Sound) : (Dev.dropFence s f d oc).Sound := by
  unfold Dev.dropFence
  repeat' first
    | with_reducible assumption
    | (intro x; have hx : Dev.Sound x; (on_goal 2 => clear_value x); (on_goal 1 => unfold x))
    | (intro x; (fail_if_success (have q : Engs := x)); (fail_if_success (have q : Svc := x)); (fail_if_success (have q : Trust := x)); (fail_if_success (have q : _ → _ := x)); clear_value x)
    | intro x
    | lift_lets -underBinder
    | (simp only [↓Dev.sound_mk]; with_reducible apply Dev.Sound.parts)
    | dsimp -zeta only
    | dsimp -zeta +zetaDelta only

theorem Dev.skipStep_sound {s : Dev} {d oc value : Nat} (h0 : s.Sound) : (Dev.skipStep s d oc value).Sound := by
  unfold Dev.skipStep
  repeat' first
    | with_reducible assumption
    | with_reducible apply Dev.modOut_sound
    | with_reducible apply Dev.mwSend_sound
    | (intro x; have hx : Dev.Sound x; (on_goal 2 => clear_value x); (on_goal 1 => unfold x))
    | (intro x; (fail_if_success (have q : Engs := x)); (fail_if_success (have q : Svc := x)); (fail_if_success (have q : Trust := x)); (fail_if_success (have q : _ → _ := x)); clear_value x)
    | intro x
    | lift_lets -underBinder
    | (simp only [↓Dev.sound_mk]; with_reducible apply Dev.Sound.parts)
    | dsimp -zeta only
    | dsimp -zeta +zetaDelta only

theorem Dev.giveUp_sound {s : Dev} {d oc : Nat} (h0 : s.Sound) : (Dev.giveUp s d oc).Sound := by
  unfold Dev.giveUp
  repeat' first
    | with_reducible assumption
    | with_reducible apply Dev.count_sound
    | with_reducible apply Dev.delPkt_sound
    | with_reducible apply Dev.dropFence_sound
    | with_reducible apply Dev.modOut_sound
    | with_reducible apply Dev.perrReport_sound
    | with_reducible apply Dev.raise_sound
    | with_reducible apply Dev.skipStep_sound
    | with_reducible apply Dev.synthesize_sound
    | with_reducible apply each_sound
    | (intro x; have hx : Dev.Sound x; (on_goal 2 => clear_value x); (on_goal 1 => unfold x))
    | (intro x; (fail_if_success (have q : Engs := x)); (fail_if_success (have q : Svc := x)); (fail_if_success (have q : Trust := x)); (fail_if_success (have q : _ → _ := x)); clear_value x)
    | intro x
    | lift_lets -underBinder
    | (simp only [↓Dev.sound_mk]; with_reducible apply Dev.Sound.parts)
    | with_reducible apply ite_sound
    | dsimp -zeta only
    | split
    | dsimp -zeta +zetaDelta only

theorem Dev.fenceGiveUp_sound {s : Dev} {x : Fence} (h0 : s.Sound) : (Dev.fenceGiveUp s x).Sound := by
  unfold Dev.fenceGiveUp
  repeat' first
    | with_reducible assumption
    | with_reducible apply Dev.count_sound
    | with_reducible apply Dev.delPkt_sound
    | with_reducible apply Dev.dropFence_sound
    | with_reducible apply Dev.giveUp_sound
    | with_reducible apply each_sound
    | (intro x; have hx : Dev.Sound x; (on_goal 2 => clear_value x); (on_goal 1 => unfold x))
    | (intro x; (fail_if_success (have q : Engs := x)); (fail_if_success (have q : Svc := x)); (fail_if_success (have q : Trust := x)); (fail_if_success (have q : _ → _ := x)); clear_value x)
    | intro x
    | lift_lets -underBinder
    | with_reducible apply ite_sound
    | dsimp -zeta only
    | split
    | dsimp -zeta +zetaDelta only

theorem Dev.fenceFail_sound {s : Dev} {f d oc : Nat} (h0 : s.Sound) : (Dev.fenceFail s f d oc).Sound := by
  unfold Dev.fenceFail
  repeat' first
    | with_reducible assumption
    | with_reducible apply Dev.fenceGiveUp_sound
    | with_reducible apply Dev.fenceStep1_sound
    | (intro x; have hx : Dev.Sound x; (on_goal 2 => clear_value x); (on_goal 1 => unfold x))
    | (intro x; (fail_if_success (have q : Engs := x)); (fail_if_success (have q : Svc := x)); (fail_if_success (have q : Trust := x)); (fail_if_success (have q : _ → _ := x)); clear_value x)
    | intro x
    | lift_lets -underBinder
    | (simp only [↓Dev.sound_mk]; with_reducible apply Dev.Sound.parts)
    | with_reducible apply ite_sound
    | dsimp -zeta only
    | split
    | dsimp -zeta +zetaDelta only

theorem Dev.modFence_sound {s : Dev} {f d oc : Nat} {g : Fence → Fence} (h0 : s.Sound) : (Dev.modFence s f d oc g).Sound := by
  unfold Dev.modFence
  repeat' first
    | with_reducible assumption
    | (intro x; have hx : Dev.Sound x; (on_goal 2 => clear_value x); (on_goal 1 => unfold x))
    | (intro x; (fail_if_success (have q : Engs := x)); (fail_if_success (have q : Svc := x)); (fail_if_success (have q : Trust := x)); (fail_if_success (have q : _ → _ := x)); clear_value x)
    | intro x
    | lift_lets -underBinder
    | (simp only [↓Dev.sound_mk]; with_reducible apply Dev.Sound.parts)
    | with_reducible apply ite_sound
    | dsimp -zeta only
    | split
    | dsimp -zeta +zetaDelta only

theorem e2eAckSend_sound {f oc : Nat} {s : Dev} (h0 : s.Sound) : (e2eAckSend f oc s).Sound := by
  unfold e2eAckSend
  repeat' first
    | with_reducible assumption
    | with_reducible apply Dev.modIn_sound
    | with_reducible apply Dev.mwSend_sound
    | (intro x; have hx : Dev.Sound x; (on_goal 2 => clear_value x); (on_goal 1 => unfold x))
    | (intro x; (fail_if_success (have q : Engs := x)); (fail_if_success (have q : Svc := x)); (fail_if_success (have q : Trust := x)); (fail_if_success (have q : _ → _ := x)); clear_value x)
    | intro x
    | lift_lets -underBinder
    | (simp only [↓Dev.sound_mk]; with_reducible apply Dev.Sound.parts)
    | with_reducible apply ite_sound
    | dsimp -zeta only
    | split
    | dsimp -zeta +zetaDelta only

theorem Dev.releasePkt_sound {s : Dev} {pid : Nat} {p : Pkt} (h0 : s.Sound) : (Dev.releasePkt s pid p).Sound := by
  unfold Dev.releasePkt
  repeat' first
    | with_reducible assumption
    | with_reducible apply Dev.delPkt_sound
    | with_reducible apply Dev.putPkt_sound
    | (intro x; have hx : Dev.Sound x; (on_goal 2 => clear_value x); (on_goal 1 => unfold x))
    | (intro x; (fail_if_success (have q : Engs := x)); (fail_if_success (have q : Svc := x)); (fail_if_success (have q : Trust := x)); (fail_if_success (have q : _ → _ := x)); clear_value x)
    | intro x
    | lift_lets -underBinder
    | (simp only [↓Dev.sound_mk]; with_reducible apply Dev.Sound.parts)
    | with_reducible apply ite_sound
    | dsimp -zeta only
    | split
    | dsimp -zeta +zetaDelta only

theorem e2eAckReceive_sound {d oc a : Nat} {s : Dev} (h0 : s.Sound) : (e2eAckReceive d oc a s).Sound := by
  unfold e2eAckReceive
  repeat' first
    | with_reducible assumption
    | with_reducible apply Dev.count_sound
    | with_reducible apply Dev.fsets_sound
    | with_reducible apply Dev.modOut_sound
    | with_reducible apply Dev.releasePkt_sound
    | with_reducible apply each_sound
    | (intro x; have hx : Dev.Sound x; (on_goal 2 => clear_value x); (on_goal 1 => unfold x))
    | (intro x; (fail_if_success (have q : Engs := x)); (fail_if_success (have q : Svc := x)); (fail_if_success (have q : Trust := x)); (fail_if_success (have q : _ → _ := x)); clear_value x)
    | intro x
    | lift_lets -underBinder
    | (simp only [↓Dev.sound_mk]; with_reducible apply Dev.Sound.parts)
    | with_reducible apply ite_sound
    | dsimp -zeta only
    | split
    | dsimp -zeta +zetaDelta only

theorem e2eTimerExpiry_sound {d oc : Nat} {s : Dev} (h0 : s.Sound) : (e2eTimerExpiry d oc s).Sound := by
  unfold e2eTimerExpiry
  repeat' first
    | with_reducible assumption
    | with_reducible apply Dev.count_sound
    | with_reducible apply Dev.giveUp_sound
    | with_reducible apply Dev.modOut_sound
    | with_reducible apply Dev.raiseFence_sound
    | with_reducible apply Dev.reroute_sound
    | with_reducible apply Dev.skipStep_sound
    | with_reducible apply each_sound
    | (intro x; have hx : Dev.Sound x; (on_goal 2 => clear_value x); (on_goal 1 => unfold x))
    | (intro x; (fail_if_success (have q : Engs := x)); (fail_if_success (have q : Svc := x)); (fail_if_success (have q : Trust := x)); (fail_if_success (have q : _ → _ := x)); clear_value x)
    | intro x
    | lift_lets -underBinder
    | (simp only [↓Dev.sound_mk]; with_reducible apply Dev.Sound.parts)
    | with_reducible apply ite_sound
    | dsimp -zeta only
    | split
    | dsimp -zeta +zetaDelta only

theorem fenceWrite_sound {f oc x_ val : Nat} {s : Dev} (h0 : s.Sound) : (fenceWrite f oc x_ val s).Sound := by
  unfold fenceWrite
  repeat' first
    | with_reducible assumption
    | with_reducible apply Dev.fset_sound
    | with_reducible apply Dev.modIn_sound
    | with_reducible apply Dev.orderedExit_sound
    | (intro x; have hx : Dev.Sound x; (on_goal 2 => clear_value x); (on_goal 1 => unfold x))
    | (intro x; (fail_if_success (have q : Engs := x)); (fail_if_success (have q : Svc := x)); (fail_if_success (have q : Trust := x)); (fail_if_success (have q : _ → _ := x)); clear_value x)
    | intro x
    | lift_lets -underBinder
    | (simp only [↓Dev.sound_mk]; with_reducible apply Dev.Sound.parts)
    | with_reducible apply ite_sound
    | dsimp -zeta only
    | split
    | dsimp -zeta +zetaDelta only

theorem skipWrite_sound {f oc x_ val : Nat} {s : Dev} (h0 : s.Sound) : (skipWrite f oc x_ val s).Sound := by
  unfold skipWrite
  repeat' first
    | with_reducible assumption
    | with_reducible apply Dev.fsets_sound
    | with_reducible apply Dev.modIn_sound
    | with_reducible apply Dev.releaseHeld_sound
    | (intro x; have hx : Dev.Sound x; (on_goal 2 => clear_value x); (on_goal 1 => unfold x))
    | (intro x; (fail_if_success (have q : Engs := x)); (fail_if_success (have q : Svc := x)); (fail_if_success (have q : Trust := x)); (fail_if_success (have q : _ → _ := x)); clear_value x)
    | intro x
    | lift_lets -underBinder
    | (simp only [↓Dev.sound_mk]; with_reducible apply Dev.Sound.parts)
    | dsimp -zeta only
    | dsimp -zeta +zetaDelta only

theorem fencePoll_sound {f d oc : Nat} {s : Dev} (h0 : s.Sound) : (fencePoll f d oc s).Sound := by
  unfold fencePoll
  repeat' first
    | with_reducible assumption
    | with_reducible apply Dev.modFence_sound
    | with_reducible apply Dev.mwSend_sound
    | (intro x; have hx : Dev.Sound x; (on_goal 2 => clear_value x); (on_goal 1 => unfold x))
    | (intro x; (fail_if_success (have q : Engs := x)); (fail_if_success (have q : Svc := x)); (fail_if_success (have q : Trust := x)); (fail_if_success (have q : _ → _ := x)); clear_value x)
    | intro x
    | lift_lets -underBinder
    | (simp only [↓Dev.sound_mk]; with_reducible apply Dev.Sound.parts)
    | with_reducible apply ite_sound
    | dsimp -zeta only
    | split
    | dsimp -zeta +zetaDelta only

theorem fenceTimeout_sound {f d oc : Nat} {s : Dev} (h0 : s.Sound) : (fenceTimeout f d oc s).Sound := by
  unfold fenceTimeout
  repeat' first
    | with_reducible assumption
    | with_reducible apply Dev.fenceFail_sound
    | intro x
    | with_reducible apply ite_sound
    | dsimp -zeta only
    | split

theorem lifetimeExpiry_sound {pid : Nat} {s : Dev} (h0 : s.Sound) : (lifetimeExpiry pid s).Sound := by
  unfold lifetimeExpiry
  repeat' first
    | with_reducible assumption
    | with_reducible apply Dev.count_sound
    | with_reducible apply Dev.delPkt_sound
    | with_reducible apply Dev.drop_sound
    | with_reducible apply Dev.modIn_sound
    | (intro x; have hx : Dev.Sound x; (on_goal 2 => clear_value x); (on_goal 1 => unfold x))
    | (intro x; (fail_if_success (have q : Engs := x)); (fail_if_success (have q : Svc := x)); (fail_if_success (have q : Trust := x)); (fail_if_success (have q : _ → _ := x)); clear_value x)
    | intro x
    | lift_lets -underBinder
    | (simp only [↓Dev.sound_mk]; with_reducible apply Dev.Sound.parts)
    | with_reducible apply ite_sound
    | dsimp -zeta only
    | split
    | dsimp -zeta +zetaDelta only

theorem Dev.mwAnswer_sound {s : Dev} {o : MwOut} {status data : Nat} (h0 : s.Sound) : (Dev.mwAnswer s o status data).Sound := by
  unfold Dev.mwAnswer
  repeat' first
    | with_reducible assumption
    | with_reducible apply Dev.count_sound
    | with_reducible apply Dev.dropFence_sound
    | with_reducible apply Dev.emit_sound
    | with_reducible apply Dev.fenceFail_sound
    | with_reducible apply Dev.modFence_sound
    | with_reducible apply Dev.modIn_sound
    | with_reducible apply Dev.modOut_sound
    | (intro x; have hx : Dev.Sound x; (on_goal 2 => clear_value x); (on_goal 1 => unfold x))
    | (intro x; (fail_if_success (have q : Engs := x)); (fail_if_success (have q : Svc := x)); (fail_if_success (have q : Trust := x)); (fail_if_success (have q : _ → _ := x)); clear_value x)
    | intro x
    | lift_lets -underBinder
    | (simp only [↓Dev.sound_mk]; with_reducible apply Dev.Sound.parts)
    | with_reducible apply ite_sound
    | dsimp -zeta only
    | split
    | dsimp -zeta +zetaDelta only

theorem mwResponse_sound {src id status data : Nat} {s : Dev} (h0 : s.Sound) : (mwResponse src id status data s).Sound := by
  unfold mwResponse
  repeat' first
    | with_reducible assumption
    | with_reducible apply Dev.mwAnswer_sound
    | (intro x; have hx : Dev.Sound x; (on_goal 2 => clear_value x); (on_goal 1 => unfold x))
    | (intro x; (fail_if_success (have q : Engs := x)); (fail_if_success (have q : Svc := x)); (fail_if_success (have q : Trust := x)); (fail_if_success (have q : _ → _ := x)); clear_value x)
    | intro x
    | lift_lets -underBinder
    | (simp only [↓Dev.sound_mk]; with_reducible apply Dev.Sound.parts)
    | dsimp -zeta only
    | split
    | dsimp -zeta +zetaDelta only

theorem mwReadTimeout_sound {id : Nat} {s : Dev} (h0 : s.Sound) : (mwReadTimeout id s).Sound := by
  unfold mwReadTimeout
  repeat' first
    | with_reducible assumption
    | with_reducible apply Dev.mwAnswer_sound
    | (intro x; have hx : Dev.Sound x; (on_goal 2 => clear_value x); (on_goal 1 => unfold x))
    | (intro x; (fail_if_success (have q : Engs := x)); (fail_if_success (have q : Svc := x)); (fail_if_success (have q : Trust := x)); (fail_if_success (have q : _ → _ := x)); clear_value x)
    | intro x
    | lift_lets -underBinder
    | (simp only [↓Dev.sound_mk]; with_reducible apply Dev.Sound.parts)
    | with_reducible apply ite_sound
    | dsimp -zeta only
    | split
    | dsimp -zeta +zetaDelta only

end Sys2Proof.Machine
end

