-- ==== Sys2Proof/Laws/SoundLinkBase.lean ====
section
/-! SUPPORT. Every operation of Machine/LinkBase.lean keeps the switch sound. -/
set_option linter.unusedTactic false
set_option linter.unusedSimpArgs false
set_option linter.unreachableTactic false
namespace Sys2Proof.Machine

theorem Dev.modBl_sound {s : Dev} {n : Nat} {f : BlPort → BlPort} (h0 : s.Sound) : (Dev.modBl s n f).Sound := by
  unfold Dev.modBl
  repeat' first
    | with_reducible assumption
    | (intro x; have hx : Dev.Sound x; (on_goal 2 => clear_value x); (on_goal 1 => unfold x))
    | (intro x; (fail_if_success (have q : Engs := x)); (fail_if_success (have q : Svc := x)); (fail_if_success (have q : Trust := x)); (fail_if_success (have q : _ → _ := x)); clear_value x)
    | intro x
    | lift_lets -underBinder
    | (simp only [↓Dev.sound_mk]; with_reducible apply Dev.Sound.parts)
    | dsimp -zeta only
    | dsimp -zeta +zetaDelta only

theorem Dev.drivers_sound {s : Dev} {n : Nat} {on : Bool} (h0 : s.Sound) : (Dev.drivers s n on).Sound := by
  unfold Dev.drivers
  repeat' first
    | with_reducible assumption
    | with_reducible apply Dev.emit_sound
    | with_reducible apply each_sound
    | intro x
    | dsimp -zeta only

theorem Dev.blEnter_sound {s : Dev} {n st : Nat} (h0 : s.Sound) : (Dev.blEnter s n st).Sound := by
  unfold Dev.blEnter
  repeat' first
    | with_reducible assumption
    | with_reducible apply Dev.drivers_sound
    | with_reducible apply Dev.fset_sound
    | with_reducible apply st_sound
    | (intro x; have hx : Dev.Sound x; (on_goal 2 => clear_value x); (on_goal 1 => unfold x))
    | (intro x; (fail_if_success (have q : Engs := x)); (fail_if_success (have q : Svc := x)); (fail_if_success (have q : Trust := x)); (fail_if_success (have q : _ → _ := x)); clear_value x)
    | intro x
    | lift_lets -underBinder
    | with_reducible apply ite_sound
    | dsimp -zeta only
    | split
    | dsimp -zeta +zetaDelta only

theorem Dev.linkEvent_sound {s : Dev} {n ev reason : Nat} (h0 : s.Sound) : (Dev.linkEvent s n ev reason).Sound := by
  unfold Dev.linkEvent
  repeat' first
    | with_reducible assumption
    | (intro x; have hx : Dev.Sound x; (on_goal 2 => clear_value x); (on_goal 1 => unfold x))
    | (intro x; (fail_if_success (have q : Engs := x)); (fail_if_success (have q : Svc := x)); (fail_if_success (have q : Trust := x)); (fail_if_success (have q : _ → _ := x)); clear_value x)
    | intro x
    | lift_lets -underBinder
    | (simp only [↓Dev.sound_mk]; with_reducible apply Dev.Sound.parts)
    | with_reducible apply ite_sound
    | dsimp -zeta only
    | split
    | dsimp -zeta +zetaDelta only

theorem Dev.trunkLeave_sound {s : Dev} {n : Nat} (h0 : s.Sound) : (Dev.trunkLeave s n).Sound := by
  unfold Dev.trunkLeave
  repeat' first
    | with_reducible assumption
    | with_reducible apply each_sound
    | (intro x; have hx : Dev.Sound x; (on_goal 2 => clear_value x); (on_goal 1 => unfold x))
    | (intro x; (fail_if_success (have q : Engs := x)); (fail_if_success (have q : Svc := x)); (fail_if_success (have q : Trust := x)); (fail_if_success (have q : _ → _ := x)); clear_value x)
    | intro x
    | lift_lets -underBinder
    | (simp only [↓Dev.sound_mk]; with_reducible apply Dev.Sound.parts)
    | with_reducible apply ite_sound
    | dsimp -zeta only
    | split
    | dsimp -zeta +zetaDelta only

theorem Dev.trunkJoin_sound {s : Dev} {n : Nat} {told : Bool} (h0 : s.Sound) : (Dev.trunkJoin s n told).Sound := by
  unfold Dev.trunkJoin
  repeat' first
    | with_reducible assumption
    | with_reducible apply b_sound
    | with_reducible apply Dev.raise_sound
    | with_reducible apply each_sound
    | (intro x; have hx : Dev.Sound x; (on_goal 2 => clear_value x); (on_goal 1 => unfold x))
    | (intro x; (fail_if_success (have q : Engs := x)); (fail_if_success (have q : Svc := x)); (fail_if_success (have q : Trust := x)); (fail_if_success (have q : _ → _ := x)); clear_value x)
    | intro x
    | lift_lets -underBinder
    | (simp only [↓Dev.sound_mk]; with_reducible apply Dev.Sound.parts)
    | with_reducible apply ite_sound
    | dsimp -zeta only
    | split
    | dsimp -zeta +zetaDelta only

theorem Dev.trunkArrive_sound {s : Dev} {n : Nat} (h0 : s.Sound) : (Dev.trunkArrive s n).Sound := by
  unfold Dev.trunkArrive
  repeat' first
    | with_reducible assumption
    | (intro x; have hx : Dev.Sound x; (on_goal 2 => clear_value x); (on_goal 1 => unfold x))
    | (intro x; (fail_if_success (have q : Engs := x)); (fail_if_success (have q : Svc := x)); (fail_if_success (have q : Trust := x)); (fail_if_success (have q : _ → _ := x)); clear_value x)
    | intro x
    | lift_lets -underBinder
    | (simp only [↓Dev.sound_mk]; with_reducible apply Dev.Sound.parts)
    | dsimp -zeta only
    | dsimp -zeta +zetaDelta only

theorem Dev.trunkAdmit_sound {s : Dev} (h0 : s.Sound) : (Dev.trunkAdmit s).Sound := by
  unfold Dev.trunkAdmit
  repeat' first
    | with_reducible assumption
    | with_reducible apply Dev.trunkJoin_sound
    | with_reducible apply each_sound
    | (intro x; have hx : Dev.Sound x; (on_goal 2 => clear_value x); (on_goal 1 => unfold x))
    | (intro x; (fail_if_success (have q : Engs := x)); (fail_if_success (have q : Svc := x)); (fail_if_success (have q : Trust := x)); (fail_if_success (have q : _ → _ := x)); clear_value x)
    | intro x
    | lift_lets -underBinder
    | (simp only [↓Dev.sound_mk]; with_reducible apply Dev.Sound.parts)
    | with_reducible apply ite_sound
    | dsimp -zeta only
    | split
    | dsimp -zeta +zetaDelta only

theorem Dev.suspend_sound {s : Dev} {n : Nat} (h0 : s.Sound) : (Dev.suspend s n).Sound := by
  unfold Dev.suspend
  repeat' first
    | with_reducible assumption
    | with_reducible apply each_sound
    | (intro x; have hx : Dev.Sound x; (on_goal 2 => clear_value x); (on_goal 1 => unfold x))
    | (intro x; (fail_if_success (have q : Engs := x)); (fail_if_success (have q : Svc := x)); (fail_if_success (have q : Trust := x)); (fail_if_success (have q : _ → _ := x)); clear_value x)
    | intro x
    | lift_lets -underBinder
    | (simp only [↓Dev.sound_mk]; with_reducible apply Dev.Sound.parts)
    | with_reducible apply ite_sound
    | dsimp -zeta only
    | split
    | dsimp -zeta +zetaDelta only

theorem Dev.dropArriving_sound {s : Dev} {n : Nat} (h0 : s.Sound) : (Dev.dropArriving s n).Sound := by
  unfold Dev.dropArriving
  repeat' first
    | with_reducible assumption
    | with_reducible apply b_sound
    | with_reducible apply cut_sound
    | with_reducible apply Dev.delPkt_sound
    | with_reducible apply Dev.modBl_sound
    | with_reducible apply Dev.putPkt_sound
    | (intro x; have hx : Dev.Sound x; (on_goal 2 => clear_value x); (on_goal 1 => unfold x))
    | (intro x; (fail_if_success (have q : Engs := x)); (fail_if_success (have q : Svc := x)); (fail_if_success (have q : Trust := x)); (fail_if_success (have q : _ → _ := x)); clear_value x)
    | intro x
    | lift_lets -underBinder
    | (simp only [↓Dev.sound_mk]; with_reducible apply Dev.Sound.parts)
    | with_reducible apply ite_sound
    | dsimp -zeta only
    | split
    | dsimp -zeta +zetaDelta only

theorem Dev.keepStall_sound {s : Dev} {n : Nat} (h0 : s.Sound) : (Dev.keepStall s n).Sound := by
  unfold Dev.keepStall
  repeat' first
    | with_reducible assumption
    | (intro x; have hx : Dev.Sound x; (on_goal 2 => clear_value x); (on_goal 1 => unfold x))
    | (intro x; (fail_if_success (have q : Engs := x)); (fail_if_success (have q : Svc := x)); (fail_if_success (have q : Trust := x)); (fail_if_success (have q : _ → _ := x)); clear_value x)
    | intro x
    | lift_lets -underBinder
    | (simp only [↓Dev.sound_mk]; with_reducible apply Dev.Sound.parts)
    | dsimp -zeta only
    | split
    | dsimp -zeta +zetaDelta only

theorem Dev.leaveActive_sound {s : Dev} {n : Nat} {asleep : Bool} (h0 : s.Sound) : (Dev.leaveActive s n asleep).Sound := by
  unfold Dev.leaveActive
  repeat' first
    | with_reducible assumption
    | with_reducible apply b_sound
    | with_reducible apply Dev.blEnter_sound
    | with_reducible apply Dev.drivers_sound
    | with_reducible apply Dev.modBl_sound
    | with_reducible apply Dev.watchBreak_sound
    | with_reducible apply each_sound
    | (intro x; have hx : Dev.Sound x; (on_goal 2 => clear_value x); (on_goal 1 => unfold x))
    | (intro x; (fail_if_success (have q : Engs := x)); (fail_if_success (have q : Svc := x)); (fail_if_success (have q : Trust := x)); (fail_if_success (have q : _ → _ := x)); clear_value x)
    | intro x
    | lift_lets -underBinder
    | (simp only [↓Dev.sound_mk]; with_reducible apply Dev.Sound.parts)
    | with_reducible apply ite_sound
    | dsimp -zeta only
    | split
    | dsimp -zeta +zetaDelta only

theorem Dev.linkFail_sound {s : Dev} {n reason : Nat} (h0 : s.Sound) : (Dev.linkFail s n reason).Sound := by
  unfold Dev.linkFail
  repeat' first
    | with_reducible assumption
    | with_reducible apply Dev.count_sound
    | with_reducible apply Dev.dropArriving_sound
    | with_reducible apply Dev.failover_sound
    | with_reducible apply Dev.fsets_sound
    | with_reducible apply Dev.keepStall_sound
    | with_reducible apply Dev.leaveActive_sound
    | with_reducible apply Dev.linkEvent_sound
    | with_reducible apply Dev.logError_sound
    | with_reducible apply Dev.noteHops_sound
    | with_reducible apply Dev.raise_sound
    | with_reducible apply Dev.suspend_sound
    | with_reducible apply Dev.trunkLeave_sound
    | (intro x; have hx : Dev.Sound x; (on_goal 2 => clear_value x); (on_goal 1 => unfold x))
    | (intro x; (fail_if_success (have q : Engs := x)); (fail_if_success (have q : Svc := x)); (fail_if_success (have q : Trust := x)); (fail_if_success (have q : _ → _ := x)); clear_value x)
    | intro x
    | lift_lets -underBinder
    | with_reducible apply ite_sound
    | dsimp -zeta only
    | split
    | dsimp -zeta +zetaDelta only

theorem Dev.protoError_sound {s : Dev} {n : Nat} (h0 : s.Sound) : (Dev.protoError s n).Sound := by
  unfold Dev.protoError
  repeat' first
    | with_reducible assumption
    | with_reducible apply Dev.count_sound
    | with_reducible apply Dev.linkFail_sound
    | intro x
    | dsimp -zeta only

theorem Dev.bringFail_sound {s : Dev} {n reason : Nat} (h0 : s.Sound) : (Dev.bringFail s n reason).Sound := by
  unfold Dev.bringFail
  repeat' first
    | with_reducible assumption
    | with_reducible apply b_sound
    | with_reducible apply Dev.blEnter_sound
    | with_reducible apply Dev.count_sound
    | with_reducible apply Dev.fsets_sound
    | with_reducible apply Dev.logError_sound
    | with_reducible apply Dev.modBl_sound
    | with_reducible apply Dev.raise_sound
    | (intro x; have hx : Dev.Sound x; (on_goal 2 => clear_value x); (on_goal 1 => unfold x))
    | (intro x; (fail_if_success (have q : Engs := x)); (fail_if_success (have q : Svc := x)); (fail_if_success (have q : Trust := x)); (fail_if_success (have q : _ → _ := x)); clear_value x)
    | intro x
    | lift_lets -underBinder
    | (simp only [↓Dev.sound_mk]; with_reducible apply Dev.Sound.parts)
    | dsimp -zeta only
    | dsimp -zeta +zetaDelta only

theorem Dev.enterTrain_sound {s : Dev} {n : Nat} (h0 : s.Sound) : (Dev.enterTrain s n).Sound := by
  unfold Dev.enterTrain
  repeat' first
    | with_reducible assumption
    | with_reducible apply Dev.applyEntry_sound
    | with_reducible apply b_sound
    | with_reducible apply Dev.blEnter_sound
    | with_reducible apply Dev.fset_sound
    | with_reducible apply Dev.modBl_sound
    | with_reducible apply Dev.modLane_sound
    | with_reducible apply Dev.prbsStop_sound
    | with_reducible apply Dev.raise_sound
    | with_reducible apply each_sound
    | (intro x; have hx : Dev.Sound x; (on_goal 2 => clear_value x); (on_goal 1 => unfold x))
    | (intro x; (fail_if_success (have q : Engs := x)); (fail_if_success (have q : Svc := x)); (fail_if_success (have q : Trust := x)); (fail_if_success (have q : _ → _ := x)); clear_value x)
    | intro x
    | lift_lets -underBinder
    | (simp only [↓Dev.sound_mk]; with_reducible apply Dev.Sound.parts)
    | with_reducible apply ite_sound
    | dsimp -zeta only
    | split
    | dsimp -zeta +zetaDelta only

theorem Dev.fillNbr_sound {s : Dev} {n : Nat} (h0 : s.Sound) : (Dev.fillNbr s n).Sound := by
  unfold Dev.fillNbr
  repeat' first
    | with_reducible assumption
    | with_reducible apply b_sound
    | with_reducible apply Dev.fset_sound
    | with_reducible apply Dev.fsets_sound
    | with_reducible apply Dev.linkEvent_sound
    | with_reducible apply Dev.modBl_sound
    | with_reducible apply Dev.raise_sound
    | (intro x; have hx : Dev.Sound x; (on_goal 2 => clear_value x); (on_goal 1 => unfold x))
    | (intro x; (fail_if_success (have q : Engs := x)); (fail_if_success (have q : Svc := x)); (fail_if_success (have q : Trust := x)); (fail_if_success (have q : _ → _ := x)); clear_value x)
    | intro x
    | lift_lets -underBinder
    | (simp only [↓Dev.sound_mk]; with_reducible apply Dev.Sound.parts)
    | with_reducible apply ite_sound
    | dsimp -zeta only
    | split
    | dsimp -zeta +zetaDelta only

theorem Dev.enterActive_sound {s : Dev} {n : Nat} (h0 : s.Sound) : (Dev.enterActive s n).Sound := by
  unfold Dev.enterActive
  repeat' first
    | with_reducible assumption
    | with_reducible apply b_sound
    | with_reducible apply Dev.blEnter_sound
    | with_reducible apply Dev.fsets_sound
    | with_reducible apply Dev.linkEvent_sound
    | with_reducible apply Dev.modBl_sound
    | with_reducible apply Dev.noteHops_sound
    | with_reducible apply Dev.raise_sound
    | with_reducible apply Dev.trunkArrive_sound
    | (intro x; have hx : Dev.Sound x; (on_goal 2 => clear_value x); (on_goal 1 => unfold x))
    | (intro x; (fail_if_success (have q : Engs := x)); (fail_if_success (have q : Svc := x)); (fail_if_success (have q : Trust := x)); (fail_if_success (have q : _ → _ := x)); clear_value x)
    | intro x
    | lift_lets -underBinder
    | (simp only [↓Dev.sound_mk]; with_reducible apply Dev.Sound.parts)
    | with_reducible apply ite_sound
    | dsimp -zeta only
    | split
    | dsimp -zeta +zetaDelta only

theorem Dev.sendFlit_sound {s : Dev} {n : Nat} {h : FlitHdr} {payload : List Byte} (h0 : s.Sound) : (Dev.sendFlit s n h payload).Sound := by
  unfold Dev.sendFlit
  repeat' first
    | with_reducible assumption
    | with_reducible apply b_sound
    | with_reducible apply Dev.emit_sound
    | with_reducible apply Dev.modBl_sound
    | (intro x; have hx : Dev.Sound x; (on_goal 2 => clear_value x); (on_goal 1 => unfold x))
    | (intro x; (fail_if_success (have q : Engs := x)); (fail_if_success (have q : Svc := x)); (fail_if_success (have q : Trust := x)); (fail_if_success (have q : _ → _ := x)); clear_value x)
    | intro x
    | lift_lets -underBinder
    | (simp only [↓Dev.sound_mk]; with_reducible apply Dev.Sound.parts)
    | with_reducible apply ite_sound
    | dsimp -zeta only
    | split
    | dsimp -zeta +zetaDelta only

theorem Dev.sendIdle_sound {s : Dev} {n : Nat} (h0 : s.Sound) : (Dev.sendIdle s n).Sound := by
  unfold Dev.sendIdle
  repeat' first
    | with_reducible assumption
    | with_reducible apply Dev.sendFlit_sound
    | (intro x; have hx : Dev.Sound x; (on_goal 2 => clear_value x); (on_goal 1 => unfold x))
    | (intro x; (fail_if_success (have q : Engs := x)); (fail_if_success (have q : Svc := x)); (fail_if_success (have q : Trust := x)); (fail_if_success (have q : _ → _ := x)); clear_value x)
    | intro x
    | lift_lets -underBinder
    | (simp only [↓Dev.sound_mk]; with_reducible apply Dev.Sound.parts)
    | dsimp -zeta only
    | dsimp -zeta +zetaDelta only

theorem Dev.sendCtl_sound {s : Dev} {n sub info : Nat} (h0 : s.Sound) : (Dev.sendCtl s n sub info).Sound := by
  unfold Dev.sendCtl
  repeat' first
    | with_reducible assumption
    | with_reducible apply Dev.sendFlit_sound
    | with_reducible apply sub_sound
    | (intro x; have hx : Dev.Sound x; (on_goal 2 => clear_value x); (on_goal 1 => unfold x))
    | (intro x; (fail_if_success (have q : Engs := x)); (fail_if_success (have q : Svc := x)); (fail_if_success (have q : Trust := x)); (fail_if_success (have q : _ → _ := x)); clear_value x)
    | intro x
    | lift_lets -underBinder
    | (simp only [↓Dev.sound_mk]; with_reducible apply Dev.Sound.parts)
    | dsimp -zeta only
    | dsimp -zeta +zetaDelta only

end Sys2Proof.Machine
end

