-- ==== Sys2Proof/Laws/SoundLink.lean ====
section
/-! SUPPORT. Every operation of Machine/Link.lean keeps the switch sound. -/
set_option linter.unusedTactic false
set_option linter.unusedSimpArgs false
set_option linter.unreachableTactic false
namespace Sys2Proof.Machine

theorem portEnable_sound {n : Nat} {s : Dev} (h0 : s.Sound) : (portEnable n s).Sound := by
  unfold portEnable
  repeat' first
    | with_reducible assumption
    | with_reducible apply b_sound
    | with_reducible apply Dev.enterTrain_sound
    | with_reducible apply Dev.linkFree_sound
    | with_reducible apply Dev.modBl_sound
    | with_reducible apply Dev.oset_sound
    | with_reducible apply Dev.prbsStop_sound
    | with_reducible apply each_sound
    | (intro x; have hx : Dev.Sound x; (on_goal 2 => clear_value x); (on_goal 1 => unfold x))
    | (intro x; (fail_if_success (have q : Engs := x)); (fail_if_success (have q : Svc := x)); (fail_if_success (have q : Trust := x)); (fail_if_success (have q : _ → _ := x)); clear_value x)
    | intro x
    | lift_lets -underBinder
    | (simp only [↓Dev.sound_mk]; with_reducible apply Dev.Sound.parts)
    | with_reducible apply ite_sound
    | dsimp -zeta only
    | split
    | dsimp -zeta +zetaDelta only

theorem Dev.deviceDown_sound {s : Dev} {n : Nat} (h0 : s.Sound) : (Dev.deviceDown s n).Sound := by
  unfold Dev.deviceDown
  repeat' first
    | with_reducible assumption
    | with_reducible apply Dev.aer_sound
    | with_reducible apply b_sound
    | (intro x; have hx : Dev.Sound x; (on_goal 2 => clear_value x); (on_goal 1 => unfold x))
    | (intro x; (fail_if_success (have q : Engs := x)); (fail_if_success (have q : Svc := x)); (fail_if_success (have q : Trust := x)); (fail_if_success (have q : _ → _ := x)); clear_value x)
    | intro x
    | lift_lets -underBinder
    | (simp only [↓Dev.sound_mk]; with_reducible apply Dev.Sound.parts)
    | dsimp -zeta only
    | split
    | dsimp -zeta +zetaDelta only

theorem portDisable_sound {n : Nat} {s : Dev} (h0 : s.Sound) : (portDisable n s).Sound := by
  unfold portDisable
  repeat' first
    | with_reducible assumption
    | with_reducible apply b_sound
    | with_reducible apply Dev.blEnter_sound
    | with_reducible apply Dev.dropArriving_sound
    | with_reducible apply Dev.failover_sound
    | with_reducible apply Dev.fsets_sound
    | with_reducible apply Dev.leaveActive_sound
    | with_reducible apply Dev.linkDown_sound
    | with_reducible apply Dev.linkEvent_sound
    | with_reducible apply Dev.modBl_sound
    | with_reducible apply Dev.modPport_sound
    | with_reducible apply Dev.noteHops_sound
    | with_reducible apply Dev.oset_sound
    | with_reducible apply Dev.suspend_sound
    | with_reducible apply Dev.trunkLeave_sound
    | (intro x; have hx : Dev.Sound x; (on_goal 2 => clear_value x); (on_goal 1 => unfold x))
    | (intro x; (fail_if_success (have q : Engs := x)); (fail_if_success (have q : Svc := x)); (fail_if_success (have q : Trust := x)); (fail_if_success (have q : _ → _ := x)); clear_value x)
    | intro x
    | lift_lets -underBinder
    | (simp only [↓Dev.sound_mk]; with_reducible apply Dev.Sound.parts)
    | with_reducible apply ite_sound
    | dsimp -zeta only
    | split
    | dsimp -zeta +zetaDelta only

theorem bringupCheckWindowEnd_sound {n lane bits errs : Nat} {s : Dev} (h0 : s.Sound) : (bringupCheckWindowEnd n lane bits errs s).Sound := by
  unfold bringupCheckWindowEnd
  repeat' first
    | with_reducible assumption
    | with_reducible apply b_sound
    | with_reducible apply Dev.modBl_sound
    | with_reducible apply Dev.modLane_sound
    | (intro x; have hx : Dev.Sound x; (on_goal 2 => clear_value x); (on_goal 1 => unfold x))
    | (intro x; (fail_if_success (have q : Engs := x)); (fail_if_success (have q : Svc := x)); (fail_if_success (have q : Trust := x)); (fail_if_success (have q : _ → _ := x)); clear_value x)
    | intro x
    | lift_lets -underBinder
    | (simp only [↓Dev.sound_mk]; with_reducible apply Dev.Sound.parts)
    | with_reducible apply ite_sound
    | dsimp -zeta only
    | split
    | dsimp -zeta +zetaDelta only

theorem alignEntry_sound {n : Nat} {s : Dev} (h0 : s.Sound) : (alignEntry n s).Sound := by
  unfold alignEntry
  repeat' first
    | with_reducible assumption
    | with_reducible apply b_sound
    | with_reducible apply Dev.blEnter_sound
    | with_reducible apply Dev.fillNbr_sound
    | with_reducible apply Dev.fsets_sound
    | with_reducible apply Dev.modBl_sound
    | (intro x; have hx : Dev.Sound x; (on_goal 2 => clear_value x); (on_goal 1 => unfold x))
    | (intro x; (fail_if_success (have q : Engs := x)); (fail_if_success (have q : Svc := x)); (fail_if_success (have q : Trust := x)); (fail_if_success (have q : _ → _ := x)); clear_value x)
    | intro x
    | lift_lets -underBinder
    | (simp only [↓Dev.sound_mk]; with_reducible apply Dev.Sound.parts)
    | with_reducible apply ite_sound
    | dsimp -zeta only
    | split
    | dsimp -zeta +zetaDelta only

theorem receiverAligned_sound {n : Nat} {s : Dev} (h0 : s.Sound) : (receiverAligned n s).Sound := by
  unfold receiverAligned
  repeat' first
    | with_reducible assumption
    | with_reducible apply b_sound
    | with_reducible apply Dev.fset_sound
    | with_reducible apply Dev.modBl_sound
    | (intro x; have hx : Dev.Sound x; (on_goal 2 => clear_value x); (on_goal 1 => unfold x))
    | (intro x; (fail_if_success (have q : Engs := x)); (fail_if_success (have q : Svc := x)); (fail_if_success (have q : Trust := x)); (fail_if_success (have q : _ → _ := x)); clear_value x)
    | intro x
    | lift_lets -underBinder
    | (simp only [↓Dev.sound_mk]; with_reducible apply Dev.Sound.parts)
    | with_reducible apply ite_sound
    | dsimp -zeta only
    | split
    | dsimp -zeta +zetaDelta only

theorem bringupTimeout_sound {n : Nat} {s : Dev} (h0 : s.Sound) : (bringupTimeout n s).Sound := by
  unfold bringupTimeout
  repeat' first
    | with_reducible assumption
    | with_reducible apply Dev.bringFail_sound
    | intro x
    | with_reducible apply ite_sound
    | dsimp -zeta only
    | split

theorem resetFlitsSent_sound {n : Nat} {s : Dev} (h0 : s.Sound) : (resetFlitsSent n s).Sound := by
  unfold resetFlitsSent
  repeat' first
    | with_reducible assumption
    | with_reducible apply b_sound
    | with_reducible apply Dev.blEnter_sound
    | with_reducible apply Dev.enterTrain_sound
    | with_reducible apply Dev.modBl_sound
    | (intro x; have hx : Dev.Sound x; (on_goal 2 => clear_value x); (on_goal 1 => unfold x))
    | (intro x; (fail_if_success (have q : Engs := x)); (fail_if_success (have q : Svc := x)); (fail_if_success (have q : Trust := x)); (fail_if_success (have q : _ → _ := x)); clear_value x)
    | intro x
    | lift_lets -underBinder
    | (simp only [↓Dev.sound_mk]; with_reducible apply Dev.Sound.parts)
    | with_reducible apply ite_sound
    | dsimp -zeta only
    | split
    | dsimp -zeta +zetaDelta only

theorem quietEnd_sound {n : Nat} {s : Dev} (h0 : s.Sound) : (quietEnd n s).Sound := by
  unfold quietEnd
  repeat' first
    | with_reducible assumption
    | with_reducible apply b_sound
    | with_reducible apply Dev.blEnter_sound
    | with_reducible apply Dev.enterTrain_sound
    | with_reducible apply Dev.modBl_sound
    | (intro x; have hx : Dev.Sound x; (on_goal 2 => clear_value x); (on_goal 1 => unfold x))
    | (intro x; (fail_if_success (have q : Engs := x)); (fail_if_success (have q : Svc := x)); (fail_if_success (have q : Trust := x)); (fail_if_success (have q : _ → _ := x)); clear_value x)
    | intro x
    | lift_lets -underBinder
    | (simp only [↓Dev.sound_mk]; with_reducible apply Dev.Sound.parts)
    | with_reducible apply ite_sound
    | dsimp -zeta only
    | split
    | dsimp -zeta +zetaDelta only

theorem signalDetect_sound {n : Nat} {s : Dev} (h0 : s.Sound) : (signalDetect n s).Sound := by
  unfold signalDetect
  repeat' first
    | with_reducible assumption
    | with_reducible apply b_sound
    | with_reducible apply Dev.enterTrain_sound
    | with_reducible apply Dev.modBl_sound
    | (intro x; have hx : Dev.Sound x; (on_goal 2 => clear_value x); (on_goal 1 => unfold x))
    | (intro x; (fail_if_success (have q : Engs := x)); (fail_if_success (have q : Svc := x)); (fail_if_success (have q : Trust := x)); (fail_if_success (have q : _ → _ := x)); clear_value x)
    | intro x
    | lift_lets -underBinder
    | (simp only [↓Dev.sound_mk]; with_reducible apply Dev.Sound.parts)
    | with_reducible apply ite_sound
    | dsimp -zeta only
    | split
    | dsimp -zeta +zetaDelta only

theorem lowerRankWaitExpiry_sound {n : Nat} {s : Dev} (h0 : s.Sound) : (lowerRankWaitExpiry n s).Sound := by
  unfold lowerRankWaitExpiry
  repeat' first
    | with_reducible assumption
    | with_reducible apply Dev.enterTrain_sound
    | intro x
    | with_reducible apply ite_sound
    | dsimp -zeta only
    | split

theorem Dev.mergeReset_sound {s : Dev} {n : Nat} (h0 : s.Sound) : (Dev.mergeReset s n).Sound := by
  unfold Dev.mergeReset
  repeat' first
    | with_reducible assumption
    | with_reducible apply Dev.fset_sound
    | intro x
    | dsimp -zeta only

theorem signalLoss_sound {n x_ : Nat} {s : Dev} (h0 : s.Sound) : (signalLoss n x_ s).Sound := by
  unfold signalLoss
  repeat' first
    | with_reducible assumption
    | with_reducible apply Dev.linkFail_sound
    | with_reducible apply Dev.mergeReset_sound
    | intro x
    | with_reducible apply ite_sound
    | dsimp -zeta only
    | split

theorem Dev.linkFlit_sound {s : Dev} {n : Nat} {x : TxFlit} (h0 : s.Sound) : (Dev.linkFlit s n x).Sound := by
  unfold Dev.linkFlit
  repeat' first
    | with_reducible assumption
    | with_reducible apply Dev.marker_sound
    | with_reducible apply Dev.sendFlit_sound
    | with_reducible apply sub_sound
    | (intro x; have hx : Dev.Sound x; (on_goal 2 => clear_value x); (on_goal 1 => unfold x))
    | (intro x; (fail_if_success (have q : Engs := x)); (fail_if_success (have q : Svc := x)); (fail_if_success (have q : Trust := x)); (fail_if_success (have q : _ → _ := x)); clear_value x)
    | intro x
    | lift_lets -underBinder
    | (simp only [↓Dev.sound_mk]; with_reducible apply Dev.Sound.parts)
    | dsimp -zeta only
    | split
    | dsimp -zeta +zetaDelta only

theorem Dev.disturb_sound {s : Dev} {n par : Nat} (h0 : s.Sound) : (Dev.disturb s n par).Sound := by
  unfold Dev.disturb
  repeat' first
    | with_reducible assumption
    | with_reducible apply Dev.count_sound
    | with_reducible apply Dev.fset_sound
    | (intro x; have hx : Dev.Sound x; (on_goal 2 => clear_value x); (on_goal 1 => unfold x))
    | (intro x; (fail_if_success (have q : Engs := x)); (fail_if_success (have q : Svc := x)); (fail_if_success (have q : Trust := x)); (fail_if_success (have q : _ → _ := x)); clear_value x)
    | intro x
    | lift_lets -underBinder
    | (simp only [↓Dev.sound_mk]; with_reducible apply Dev.Sound.parts)
    | with_reducible apply ite_sound
    | dsimp -zeta only
    | split
    | dsimp -zeta +zetaDelta only

theorem Dev.sendNew_sound {s : Dev} {n : Nat} {x : TxFlit} {rest : List TxFlit} (h0 : s.Sound) : (Dev.sendNew s n x rest).Sound := by
  unfold Dev.sendNew
  repeat' first
    | with_reducible assumption
    | with_reducible apply b_sound
    | with_reducible apply Dev.count_sound
    | with_reducible apply Dev.disturb_sound
    | with_reducible apply Dev.linkFlit_sound
    | with_reducible apply Dev.marker_sound
    | with_reducible apply Dev.modBl_sound
    | with_reducible apply Dev.putPkt_sound
    | with_reducible apply Dev.relatch_sound
    | (intro x; have hx : Dev.Sound x; (on_goal 2 => clear_value x); (on_goal 1 => unfold x))
    | (intro x; (fail_if_success (have q : Engs := x)); (fail_if_success (have q : Svc := x)); (fail_if_success (have q : Trust := x)); (fail_if_success (have q : _ → _ := x)); clear_value x)
    | intro x
    | lift_lets -underBinder
    | (simp only [↓Dev.sound_mk]; with_reducible apply Dev.Sound.parts)
    | with_reducible apply ite_sound
    | dsimp -zeta only
    | split
    | dsimp -zeta +zetaDelta only

theorem flitSend_sound {n : Nat} {s : Dev} (h0 : s.Sound) : (flitSend n s).Sound := by
  unfold flitSend
  repeat' first
    | with_reducible assumption
    | with_reducible apply b_sound
    | with_reducible apply Dev.linkFlit_sound
    | with_reducible apply Dev.modBl_sound
    | with_reducible apply Dev.sendCtl_sound
    | with_reducible apply Dev.sendIdle_sound
    | with_reducible apply Dev.sendNew_sound
    | (intro x; have hx : Dev.Sound x; (on_goal 2 => clear_value x); (on_goal 1 => unfold x))
    | (intro x; (fail_if_success (have q : Engs := x)); (fail_if_success (have q : Svc := x)); (fail_if_success (have q : Trust := x)); (fail_if_success (have q : _ → _ := x)); clear_value x)
    | intro x
    | lift_lets -underBinder
    | (simp only [↓Dev.sound_mk]; with_reducible apply Dev.Sound.parts)
    | with_reducible apply ite_sound
    | dsimp -zeta only
    | split
    | dsimp -zeta +zetaDelta only

theorem Dev.replayExpired_sound {s : Dev} {n : Nat} (h0 : s.Sound) : (Dev.replayExpired s n).Sound := by
  unfold Dev.replayExpired
  repeat' first
    | with_reducible assumption
    | with_reducible apply b_sound
    | with_reducible apply Dev.count_sound
    | with_reducible apply Dev.linkFail_sound
    | with_reducible apply Dev.modBl_sound
    | (intro x; have hx : Dev.Sound x; (on_goal 2 => clear_value x); (on_goal 1 => unfold x))
    | (intro x; (fail_if_success (have q : Engs := x)); (fail_if_success (have q : Svc := x)); (fail_if_success (have q : Trust := x)); (fail_if_success (have q : _ → _ := x)); clear_value x)
    | intro x
    | lift_lets -underBinder
    | (simp only [↓Dev.sound_mk]; with_reducible apply Dev.Sound.parts)
    | with_reducible apply ite_sound
    | dsimp -zeta only
    | split
    | dsimp -zeta +zetaDelta only

theorem replayTimerExpiry_sound {n : Nat} {s : Dev} (h0 : s.Sound) : (replayTimerExpiry n s).Sound := by
  unfold replayTimerExpiry
  repeat' first
    | with_reducible assumption
    | with_reducible apply b_sound
    | with_reducible apply Dev.modBl_sound
    | (intro x; have hx : Dev.Sound x; (on_goal 2 => clear_value x); (on_goal 1 => unfold x))
    | (intro x; (fail_if_success (have q : Engs := x)); (fail_if_success (have q : Svc := x)); (fail_if_success (have q : Trust := x)); (fail_if_success (have q : _ → _ := x)); clear_value x)
    | intro x
    | lift_lets -underBinder
    | (simp only [↓Dev.sound_mk]; with_reducible apply Dev.Sound.parts)
    | with_reducible apply ite_sound
    | dsimp -zeta only
    | split
    | dsimp -zeta +zetaDelta only

theorem Dev.lateFailover_sound {s : Dev} (h0 : s.Sound) : (Dev.lateFailover s).Sound := by
  unfold Dev.lateFailover
  repeat' first
    | with_reducible assumption
    | with_reducible apply Dev.failover_sound
    | with_reducible apply each_sound
    | (intro x; have hx : Dev.Sound x; (on_goal 2 => clear_value x); (on_goal 1 => unfold x))
    | (intro x; (fail_if_success (have q : Engs := x)); (fail_if_success (have q : Svc := x)); (fail_if_success (have q : Trust := x)); (fail_if_success (have q : _ → _ := x)); clear_value x)
    | intro x
    | lift_lets -underBinder
    | (simp only [↓Dev.sound_mk]; with_reducible apply Dev.Sound.parts)
    | with_reducible apply ite_sound
    | dsimp -zeta only
    | split
    | dsimp -zeta +zetaDelta only

theorem Dev.linkCycle_sound {s0 : Dev} (h0 : s0.Sound) : (Dev.linkCycle s0).Sound := by
  unfold Dev.linkCycle
  repeat' first
    | with_reducible assumption
    | with_reducible apply b_sound
    | with_reducible apply Dev.lateFailover_sound
    | with_reducible apply Dev.modBl_sound
    | with_reducible apply Dev.replayExpired_sound
    | with_reducible apply Dev.trunkAdmit_sound
    | with_reducible apply each_sound
    | (intro x; have hx : Dev.Sound x; (on_goal 2 => clear_value x); (on_goal 1 => unfold x))
    | (intro x; (fail_if_success (have q : Engs := x)); (fail_if_success (have q : Svc := x)); (fail_if_success (have q : Trust := x)); (fail_if_success (have q : _ → _ := x)); clear_value x)
    | intro x
    | lift_lets -underBinder
    | (simp only [↓Dev.sound_mk]; with_reducible apply Dev.Sound.parts)
    | with_reducible apply ite_sound
    | dsimp -zeta only
    | split
    | dsimp -zeta +zetaDelta only

theorem blSleepEntry_sound {n : Nat} {s : Dev} (h0 : s.Sound) : (blSleepEntry n s).Sound := by
  unfold blSleepEntry
  repeat' first
    | with_reducible assumption
    | with_reducible apply Dev.drivers_sound
    | with_reducible apply Dev.fset_sound
    | with_reducible apply Dev.sendCtl_sound
    | with_reducible apply each_sound
    | intro x
    | with_reducible apply ite_sound
    | dsimp -zeta only
    | split

theorem blWake_sound {n : Nat} {s : Dev} (h0 : s.Sound) : (blWake n s).Sound := by
  unfold blWake
  repeat' first
    | with_reducible assumption
    | with_reducible apply b_sound
    | with_reducible apply Dev.drivers_sound
    | with_reducible apply Dev.fset_sound
    | with_reducible apply Dev.modBl_sound
    | with_reducible apply Dev.sendIdle_sound
    | with_reducible apply each_sound
    | (intro x; have hx : Dev.Sound x; (on_goal 2 => clear_value x); (on_goal 1 => unfold x))
    | (intro x; (fail_if_success (have q : Engs := x)); (fail_if_success (have q : Svc := x)); (fail_if_success (have q : Trust := x)); (fail_if_success (have q : _ → _ := x)); clear_value x)
    | intro x
    | lift_lets -underBinder
    | (simp only [↓Dev.sound_mk]; with_reducible apply Dev.Sound.parts)
    | with_reducible apply ite_sound
    | dsimp -zeta only
    | split
    | dsimp -zeta +zetaDelta only

theorem blRealignTimeout_sound {n : Nat} {s : Dev} (h0 : s.Sound) : (blRealignTimeout n s).Sound := by
  unfold blRealignTimeout
  repeat' first
    | with_reducible assumption
    | with_reducible apply Dev.linkFail_sound
    | intro x
    | with_reducible apply ite_sound
    | dsimp -zeta only
    | split

theorem Dev.vsSurpriseDown_sound {s : Dev} {v : Nat} (h0 : s.Sound) : (Dev.vsSurpriseDown s v).Sound := by
  unfold Dev.vsSurpriseDown
  repeat' first
    | with_reducible assumption
    | with_reducible apply Dev.aer_sound
    | with_reducible apply b_sound
    | with_reducible apply Dev.dpcTrigger_sound
    | with_reducible apply each_sound
    | (intro x; have hx : Dev.Sound x; (on_goal 2 => clear_value x); (on_goal 1 => unfold x))
    | (intro x; (fail_if_success (have q : Engs := x)); (fail_if_success (have q : Svc := x)); (fail_if_success (have q : Trust := x)); (fail_if_success (have q : _ → _ := x)); clear_value x)
    | intro x
    | lift_lets -underBinder
    | (simp only [↓Dev.sound_mk]; with_reducible apply Dev.Sound.parts)
    | dsimp -zeta only
    | dsimp -zeta +zetaDelta only

theorem Dev.stallLog_sound {s : Dev} {n : Nat} {first : Option Pkt} (h0 : s.Sound) : (Dev.stallLog s n first).Sound := by
  unfold Dev.stallLog
  repeat' first
    | with_reducible assumption
    | with_reducible apply Dev.count_sound
    | with_reducible apply Dev.errLog_sound
    | (intro x; have hx : Dev.Sound x; (on_goal 2 => clear_value x); (on_goal 1 => unfold x))
    | (intro x; (fail_if_success (have q : Engs := x)); (fail_if_success (have q : Svc := x)); (fail_if_success (have q : Trust := x)); (fail_if_success (have q : _ → _ := x)); clear_value x)
    | intro x
    | lift_lets -underBinder
    | (simp only [↓Dev.sound_mk]; with_reducible apply Dev.Sound.parts)
    | dsimp -zeta only
    | dsimp -zeta +zetaDelta only

theorem Dev.stalled_sound {s : Dev} {n limit : Nat} (h0 : s.Sound) : (Dev.stalled s n limit).Sound := by
  unfold Dev.stalled
  repeat' first
    | with_reducible assumption
    | with_reducible apply Dev.aerContain_sound
    | with_reducible apply b_sound
    | with_reducible apply Dev.containPort_sound
    | with_reducible apply Dev.flushPort_sound
    | with_reducible apply Dev.linkDown_sound
    | with_reducible apply Dev.linkFail_sound
    | with_reducible apply Dev.raise_sound
    | with_reducible apply Dev.stallLog_sound
    | with_reducible apply Dev.vsSurpriseDown_sound
    | (intro x; have hx : Dev.Sound x; (on_goal 2 => clear_value x); (on_goal 1 => unfold x))
    | (intro x; (fail_if_success (have q : Engs := x)); (fail_if_success (have q : Svc := x)); (fail_if_success (have q : Trust := x)); (fail_if_success (have q : _ → _ := x)); clear_value x)
    | intro x
    | lift_lets -underBinder
    | (simp only [↓Dev.sound_mk]; with_reducible apply Dev.Sound.parts)
    | with_reducible apply ite_sound
    | dsimp -zeta only
    | split
    | dsimp -zeta +zetaDelta only

theorem egressStallTimeout_sound {n : Nat} {s : Dev} (h0 : s.Sound) : (egressStallTimeout n s).Sound := by
  unfold egressStallTimeout
  repeat' first
    | with_reducible assumption
    | with_reducible apply Dev.stallLog_sound
    | with_reducible apply Dev.stalled_sound
    | (intro x; have hx : Dev.Sound x; (on_goal 2 => clear_value x); (on_goal 1 => unfold x))
    | (intro x; (fail_if_success (have q : Engs := x)); (fail_if_success (have q : Svc := x)); (fail_if_success (have q : Trust := x)); (fail_if_success (have q : _ → _ := x)); clear_value x)
    | intro x
    | lift_lets -underBinder
    | (simp only [↓Dev.sound_mk]; with_reducible apply Dev.Sound.parts)
    | with_reducible apply ite_sound
    | dsimp -zeta only
    | split
    | dsimp -zeta +zetaDelta only

end Sys2Proof.Machine
end

