-- ==== Sys2Proof/Laws/SoundPci.lean ====
section
/-! SUPPORT. Every operation of Machine/Pci.lean keeps the switch sound. -/
set_option linter.unusedTactic false
set_option linter.unusedSimpArgs false
set_option linter.unreachableTactic false
namespace Sys2Proof.Machine

theorem Dev.clearCredits_sound {s : Dev} {n : Nat} (h0 : s.Sound) : (Dev.clearCredits s n).Sound := by
  unfold Dev.clearCredits
  repeat' first
    | with_reducible assumption
    | with_reducible apply each_sound
    | (intro x; have hx : Dev.Sound x; (on_goal 2 => clear_value x); (on_goal 1 => unfold x))
    | (intro x; (fail_if_success (have q : Engs := x)); (fail_if_success (have q : Svc := x)); (fail_if_success (have q : Trust := x)); (fail_if_success (have q : _ → _ := x)); clear_value x)
    | intro x
    | lift_lets -underBinder
    | (simp only [↓Dev.sound_mk]; with_reducible apply Dev.Sound.parts)
    | dsimp -zeta only
    | dsimp -zeta +zetaDelta only

theorem Dev.advertise_sound {s : Dev} {n : Nat} (h0 : s.Sound) : (Dev.advertise s n).Sound := by
  unfold Dev.advertise
  repeat' first
    | with_reducible assumption
    | with_reducible apply Dev.emit_sound
    | (intro x; have hx : Dev.Sound x; (on_goal 2 => clear_value x); (on_goal 1 => unfold x))
    | (intro x; (fail_if_success (have q : Engs := x)); (fail_if_success (have q : Svc := x)); (fail_if_success (have q : Trust := x)); (fail_if_success (have q : _ → _ := x)); clear_value x)
    | intro x
    | lift_lets -underBinder
    | (simp only [↓Dev.sound_mk]; with_reducible apply Dev.Sound.parts)
    | with_reducible apply ite_sound
    | dsimp -zeta only
    | split
    | dsimp -zeta +zetaDelta only

theorem pcieLinkUp_sound {n : Nat} {x : PciePartner} {s : Dev} (h0 : s.Sound) : (pcieLinkUp n x s).Sound := by
  unfold pcieLinkUp
  repeat' first
    | with_reducible assumption
    | with_reducible apply Dev.advertise_sound
    | with_reducible apply Dev.clearCredits_sound
    | with_reducible apply Dev.emit_sound
    | with_reducible apply Dev.fsets_sound
    | with_reducible apply Dev.modPport_sound
    | with_reducible apply Dev.tellHost_sound
    | (intro x; have hx : Dev.Sound x; (on_goal 2 => clear_value x); (on_goal 1 => unfold x))
    | (intro x; (fail_if_success (have q : Engs := x)); (fail_if_success (have q : Svc := x)); (fail_if_success (have q : Trust := x)); (fail_if_success (have q : _ → _ := x)); clear_value x)
    | intro x
    | lift_lets -underBinder
    | (simp only [↓Dev.sound_mk]; with_reducible apply Dev.Sound.parts)
    | with_reducible apply ite_sound
    | dsimp -zeta only
    | split
    | dsimp -zeta +zetaDelta only

theorem Dev.dataDown_sound {s : Dev} {n : Nat} {hotReset : Bool} (h0 : s.Sound) : (Dev.dataDown s n hotReset).Sound := by
  unfold Dev.dataDown
  repeat' first
    | with_reducible assumption
    | with_reducible apply Dev.deviceDown_sound
    | with_reducible apply Dev.linkDown_sound
    | with_reducible apply Dev.modPport_sound
    | (intro x; have hx : Dev.Sound x; (on_goal 2 => clear_value x); (on_goal 1 => unfold x))
    | (intro x; (fail_if_success (have q : Engs := x)); (fail_if_success (have q : Svc := x)); (fail_if_success (have q : Trust := x)); (fail_if_success (have q : _ → _ := x)); clear_value x)
    | intro x
    | lift_lets -underBinder
    | (simp only [↓Dev.sound_mk]; with_reducible apply Dev.Sound.parts)
    | with_reducible apply ite_sound
    | dsimp -zeta only
    | split
    | dsimp -zeta +zetaDelta only

theorem Dev.dropL0p_sound {s : Dev} {n : Nat} (h0 : s.Sound) : (Dev.dropL0p s n).Sound := by
  unfold Dev.dropL0p
  repeat' first
    | with_reducible assumption
    | with_reducible apply Dev.fsets_sound
    | with_reducible apply Dev.modPport_sound
    | (intro x; have hx : Dev.Sound x; (on_goal 2 => clear_value x); (on_goal 1 => unfold x))
    | (intro x; (fail_if_success (have q : Engs := x)); (fail_if_success (have q : Svc := x)); (fail_if_success (have q : Trust := x)); (fail_if_success (have q : _ → _ := x)); clear_value x)
    | intro x
    | lift_lets -underBinder
    | (simp only [↓Dev.sound_mk]; with_reducible apply Dev.Sound.parts)
    | with_reducible apply ite_sound
    | dsimp -zeta only
    | split
    | dsimp -zeta +zetaDelta only

theorem pcieRecovery_sound {n : Nat} {failedTo rate : Option Nat} {s : Dev} (h0 : s.Sound) : (pcieRecovery n failedTo rate s).Sound := by
  unfold pcieRecovery
  repeat' first
    | with_reducible assumption
    | with_reducible apply Dev.dropL0p_sound
    | with_reducible apply Dev.fset_sound
    | with_reducible apply Dev.fsets_sound
    | with_reducible apply Dev.modPport_sound
    | with_reducible apply Dev.raise_sound
    | with_reducible apply Dev.tellHost_sound
    | with_reducible apply Dev.watchBreak_sound
    | with_reducible apply each_sound
    | (intro x; have hx : Dev.Sound x; (on_goal 2 => clear_value x); (on_goal 1 => unfold x))
    | (intro x; (fail_if_success (have q : Engs := x)); (fail_if_success (have q : Svc := x)); (fail_if_success (have q : Trust := x)); (fail_if_success (have q : _ → _ := x)); clear_value x)
    | intro x
    | lift_lets -underBinder
    | (simp only [↓Dev.sound_mk]; with_reducible apply Dev.Sound.parts)
    | with_reducible apply ite_sound
    | dsimp -zeta only
    | split
    | dsimp -zeta +zetaDelta only

theorem pcieEqualisation_sound {n rate : Nat} {found : List EqFound} {s : Dev} (h0 : s.Sound) : (pcieEqualisation n rate found s).Sound := by
  unfold pcieEqualisation
  repeat' first
    | with_reducible assumption
    | with_reducible apply Dev.applyForced_sound
    | with_reducible apply Dev.applyStandard_sound
    | with_reducible apply Dev.fsets_sound
    | with_reducible apply Dev.raise_sound
    | with_reducible apply each_sound
    | (intro x; have hx : Dev.Sound x; (on_goal 2 => clear_value x); (on_goal 1 => unfold x))
    | (intro x; (fail_if_success (have q : Engs := x)); (fail_if_success (have q : Svc := x)); (fail_if_success (have q : Trust := x)); (fail_if_success (have q : _ → _ := x)); clear_value x)
    | intro x
    | lift_lets -underBinder
    | (simp only [↓Dev.sound_mk]; with_reducible apply Dev.Sound.parts)
    | with_reducible apply ite_sound
    | dsimp -zeta only
    | split
    | dsimp -zeta +zetaDelta only

theorem Dev.noteWidths_sound {s : Dev} {n : Nat} (h0 : s.Sound) : (Dev.noteWidths s n).Sound := by
  unfold Dev.noteWidths
  repeat' first
    | with_reducible assumption
    | with_reducible apply Dev.modPport_sound
    | (intro x; have hx : Dev.Sound x; (on_goal 2 => clear_value x); (on_goal 1 => unfold x))
    | (intro x; (fail_if_success (have q : Engs := x)); (fail_if_success (have q : Svc := x)); (fail_if_success (have q : Trust := x)); (fail_if_success (have q : _ → _ := x)); clear_value x)
    | intro x
    | lift_lets -underBinder
    | (simp only [↓Dev.sound_mk]; with_reducible apply Dev.Sound.parts)
    | with_reducible apply ite_sound
    | dsimp -zeta only
    | split
    | dsimp -zeta +zetaDelta only

theorem Dev.askFull_sound {s : Dev} {n : Nat} (h0 : s.Sound) : (Dev.askFull s n).Sound := by
  unfold Dev.askFull
  repeat' first
    | with_reducible assumption
    | with_reducible apply Dev.modPport_sound
    | (intro x; have hx : Dev.Sound x; (on_goal 2 => clear_value x); (on_goal 1 => unfold x))
    | (intro x; (fail_if_success (have q : Engs := x)); (fail_if_success (have q : Svc := x)); (fail_if_success (have q : Trust := x)); (fail_if_success (have q : _ → _ := x)); clear_value x)
    | intro x
    | lift_lets -underBinder
    | (simp only [↓Dev.sound_mk]; with_reducible apply Dev.Sound.parts)
    | with_reducible apply ite_sound
    | dsimp -zeta only
    | split
    | dsimp -zeta +zetaDelta only

theorem Dev.backlogFull_sound {s : Dev} {n : Nat} (h0 : s.Sound) : (Dev.backlogFull s n).Sound := by
  unfold Dev.backlogFull
  repeat' first
    | with_reducible assumption
    | with_reducible apply Dev.askFull_sound
    | intro x
    | with_reducible apply ite_sound
    | dsimp -zeta only
    | split

theorem l0pWindowEnd_sound {n used cap : Nat} {s : Dev} (h0 : s.Sound) : (l0pWindowEnd n used cap s).Sound := by
  unfold l0pWindowEnd
  repeat' first
    | with_reducible assumption
    | with_reducible apply Dev.askFull_sound
    | with_reducible apply Dev.fset_sound
    | with_reducible apply Dev.modPport_sound
    | with_reducible apply Dev.noteWidths_sound
    | (intro x; have hx : Dev.Sound x; (on_goal 2 => clear_value x); (on_goal 1 => unfold x))
    | (intro x; (fail_if_success (have q : Engs := x)); (fail_if_success (have q : Svc := x)); (fail_if_success (have q : Trust := x)); (fail_if_success (have q : _ → _ := x)); clear_value x)
    | intro x
    | lift_lets -underBinder
    | (simp only [↓Dev.sound_mk]; with_reducible apply Dev.Sound.parts)
    | with_reducible apply ite_sound
    | dsimp -zeta only
    | split
    | dsimp -zeta +zetaDelta only

theorem l0pWidenComplete_sound {n : Nat} {s : Dev} (h0 : s.Sound) : (l0pWidenComplete n s).Sound := by
  unfold l0pWidenComplete
  repeat' first
    | with_reducible assumption
    | with_reducible apply Dev.fset_sound
    | with_reducible apply Dev.modPport_sound
    | with_reducible apply Dev.noteWidths_sound
    | (intro x; have hx : Dev.Sound x; (on_goal 2 => clear_value x); (on_goal 1 => unfold x))
    | (intro x; (fail_if_success (have q : Engs := x)); (fail_if_success (have q : Svc := x)); (fail_if_success (have q : Trust := x)); (fail_if_success (have q : _ → _ := x)); clear_value x)
    | intro x
    | lift_lets -underBinder
    | (simp only [↓Dev.sound_mk]; with_reducible apply Dev.Sound.parts)
    | with_reducible apply ite_sound
    | dsimp -zeta only
    | split
    | dsimp -zeta +zetaDelta only

theorem l0pPartnerRequest_sound {n w : Nat} {s : Dev} (h0 : s.Sound) : (l0pPartnerRequest n w s).Sound := by
  unfold l0pPartnerRequest
  repeat' first
    | with_reducible assumption
    | with_reducible apply Dev.fset_sound
    | with_reducible apply Dev.noteWidths_sound
    | intro x
    | with_reducible apply ite_sound
    | dsimp -zeta only
    | split

theorem aspmL1Entry_sound {n : Nat} {s : Dev} (h0 : s.Sound) : (aspmL1Entry n s).Sound := by
  unfold aspmL1Entry
  repeat' first
    | with_reducible assumption
    | with_reducible apply Dev.fset_sound
    | with_reducible apply Dev.modPport_sound
    | (intro x; have hx : Dev.Sound x; (on_goal 2 => clear_value x); (on_goal 1 => unfold x))
    | (intro x; (fail_if_success (have q : Engs := x)); (fail_if_success (have q : Svc := x)); (fail_if_success (have q : Trust := x)); (fail_if_success (have q : _ → _ := x)); clear_value x)
    | intro x
    | lift_lets -underBinder
    | (simp only [↓Dev.sound_mk]; with_reducible apply Dev.Sound.parts)
    | with_reducible apply ite_sound
    | dsimp -zeta only
    | split
    | dsimp -zeta +zetaDelta only

theorem l1Exit_sound {n : Nat} {s : Dev} (h0 : s.Sound) : (l1Exit n s).Sound := by
  unfold l1Exit
  repeat' first
    | with_reducible assumption
    | with_reducible apply Dev.fset_sound
    | with_reducible apply Dev.modPport_sound
    | (intro x; have hx : Dev.Sound x; (on_goal 2 => clear_value x); (on_goal 1 => unfold x))
    | (intro x; (fail_if_success (have q : Engs := x)); (fail_if_success (have q : Svc := x)); (fail_if_success (have q : Trust := x)); (fail_if_success (have q : _ → _ := x)); clear_value x)
    | intro x
    | lift_lets -underBinder
    | (simp only [↓Dev.sound_mk]; with_reducible apply Dev.Sound.parts)
    | with_reducible apply ite_sound
    | dsimp -zeta only
    | split
    | dsimp -zeta +zetaDelta only

theorem Dev.setLinkDisable_sound {s : Dev} {p : Nat} {dis : Bool} (h0 : s.Sound) : (Dev.setLinkDisable s p dis).Sound := by
  unfold Dev.setLinkDisable
  repeat' first
    | with_reducible assumption
    | with_reducible apply Dev.linkDown_sound
    | with_reducible apply Dev.linkFree_sound
    | with_reducible apply Dev.modPport_sound
    | (intro x; have hx : Dev.Sound x; (on_goal 2 => clear_value x); (on_goal 1 => unfold x))
    | (intro x; (fail_if_success (have q : Engs := x)); (fail_if_success (have q : Svc := x)); (fail_if_success (have q : Trust := x)); (fail_if_success (have q : _ → _ := x)); clear_value x)
    | intro x
    | lift_lets -underBinder
    | (simp only [↓Dev.sound_mk]; with_reducible apply Dev.Sound.parts)
    | with_reducible apply ite_sound
    | dsimp -zeta only
    | split
    | dsimp -zeta +zetaDelta only

theorem vdspLinkDisable_sound {vs n : Nat} {dis : Bool} {s : Dev} (h0 : s.Sound) : (vdspLinkDisable vs n dis s).Sound := by
  unfold vdspLinkDisable
  repeat' first
    | with_reducible assumption
    | with_reducible apply Dev.atDevice_sound
    | with_reducible apply Dev.setLinkDisable_sound
    | intro x
    | dsimp -zeta only

theorem vdspRetrainLink_sound {vs n : Nat} {s : Dev} (h0 : s.Sound) : (vdspRetrainLink vs n s).Sound := by
  unfold vdspRetrainLink
  repeat' first
    | with_reducible assumption
    | with_reducible apply Dev.atDevice_sound
    | with_reducible apply Dev.dropL0p_sound
    | with_reducible apply Dev.fset_sound
    | with_reducible apply Dev.tellHost_sound
    | (intro x; have hx : Dev.Sound x; (on_goal 2 => clear_value x); (on_goal 1 => unfold x))
    | (intro x; (fail_if_success (have q : Engs := x)); (fail_if_success (have q : Svc := x)); (fail_if_success (have q : Trust := x)); (fail_if_success (have q : _ → _ := x)); clear_value x)
    | intro x
    | lift_lets -underBinder
    | (simp only [↓Dev.sound_mk]; with_reducible apply Dev.Sound.parts)
    | with_reducible apply ite_sound
    | dsimp -zeta only
    | split
    | dsimp -zeta +zetaDelta only

theorem vdspTargetLinkSpeed_sound {vs n speed : Nat} {s : Dev} (h0 : s.Sound) : (vdspTargetLinkSpeed vs n speed s).Sound := by
  unfold vdspTargetLinkSpeed
  repeat' first
    | with_reducible assumption
    | with_reducible apply Dev.atDevice_sound
    | with_reducible apply Dev.modPport_sound
    | (intro x; have hx : Dev.Sound x; (on_goal 2 => clear_value x); (on_goal 1 => unfold x))
    | (intro x; (fail_if_success (have q : Engs := x)); (fail_if_success (have q : Svc := x)); (fail_if_success (have q : Trust := x)); (fail_if_success (have q : _ → _ := x)); clear_value x)
    | intro x
    | lift_lets -underBinder
    | (simp only [↓Dev.sound_mk]; with_reducible apply Dev.Sound.parts)
    | with_reducible apply ite_sound
    | dsimp -zeta only
    | split
    | dsimp -zeta +zetaDelta only

theorem vdspAspmControl_sound {vs n ctl : Nat} {s : Dev} (h0 : s.Sound) : (vdspAspmControl vs n ctl s).Sound := by
  unfold vdspAspmControl
  repeat' first
    | with_reducible assumption
    | with_reducible apply Dev.atDevice_sound
    | with_reducible apply Dev.modPport_sound
    | (intro x; have hx : Dev.Sound x; (on_goal 2 => clear_value x); (on_goal 1 => unfold x))
    | (intro x; (fail_if_success (have q : Engs := x)); (fail_if_success (have q : Svc := x)); (fail_if_success (have q : Trust := x)); (fail_if_success (have q : _ → _ := x)); clear_value x)
    | intro x
    | lift_lets -underBinder
    | (simp only [↓Dev.sound_mk]; with_reducible apply Dev.Sound.parts)
    | dsimp -zeta only
    | dsimp -zeta +zetaDelta only

theorem secondaryBusReset_sound {vs n : Nat} {set : Bool} {s : Dev} (h0 : s.Sound) : (secondaryBusReset vs n set s).Sound := by
  unfold secondaryBusReset
  repeat' first
    | with_reducible assumption
    | with_reducible apply Dev.atDevice_sound
    | with_reducible apply Dev.linkDown_sound
    | with_reducible apply Dev.linkFree_sound
    | with_reducible apply Dev.modPport_sound
    | (intro x; have hx : Dev.Sound x; (on_goal 2 => clear_value x); (on_goal 1 => unfold x))
    | (intro x; (fail_if_success (have q : Engs := x)); (fail_if_success (have q : Svc := x)); (fail_if_success (have q : Trust := x)); (fail_if_success (have q : _ → _ := x)); clear_value x)
    | intro x
    | lift_lets -underBinder
    | (simp only [↓Dev.sound_mk]; with_reducible apply Dev.Sound.parts)
    | with_reducible apply ite_sound
    | dsimp -zeta only
    | split
    | dsimp -zeta +zetaDelta only

theorem vdspLinkStatusUpdate_sound {vs n speed width : Nat} {training dlActive : Bool} {note : PortNotice} {s : Dev} (h0 : s.Sound) : (vdspLinkStatusUpdate vs n speed width training dlActive note s).Sound := by
  unfold vdspLinkStatusUpdate
  repeat' first
    | with_reducible assumption
    | with_reducible apply Dev.portSays_sound
    | (intro x; have hx : Dev.Sound x; (on_goal 2 => clear_value x); (on_goal 1 => unfold x))
    | (intro x; (fail_if_success (have q : Engs := x)); (fail_if_success (have q : Svc := x)); (fail_if_success (have q : Trust := x)); (fail_if_success (have q : _ → _ := x)); clear_value x)
    | intro x
    | lift_lets -underBinder
    | (simp only [↓Dev.sound_mk]; with_reducible apply Dev.Sound.parts)
    | with_reducible apply ite_sound
    | dsimp -zeta only
    | split
    | dsimp -zeta +zetaDelta only

theorem presenceDebounced_sound {k : Nat} {present : Bool} {s : Dev} (h0 : s.Sound) : (presenceDebounced k present s).Sound := by
  unfold presenceDebounced
  repeat' first
    | with_reducible assumption
    | with_reducible apply Dev.fset_sound
    | with_reducible apply Dev.tellHost_sound
    | (intro x; have hx : Dev.Sound x; (on_goal 2 => clear_value x); (on_goal 1 => unfold x))
    | (intro x; (fail_if_success (have q : Engs := x)); (fail_if_success (have q : Svc := x)); (fail_if_success (have q : Trust := x)); (fail_if_success (have q : _ → _ := x)); clear_value x)
    | intro x
    | lift_lets -underBinder
    | (simp only [↓Dev.sound_mk]; with_reducible apply Dev.Sound.parts)
    | with_reducible apply ite_sound
    | dsimp -zeta only
    | split
    | dsimp -zeta +zetaDelta only

theorem Dev.pressAt_sound {s : Dev} {port : Nat} (h0 : s.Sound) : (Dev.pressAt s port).Sound := by
  unfold Dev.pressAt
  repeat' first
    | with_reducible assumption
    | with_reducible apply Dev.tellHost_sound
    | (intro x; have hx : Dev.Sound x; (on_goal 2 => clear_value x); (on_goal 1 => unfold x))
    | (intro x; (fail_if_success (have q : Engs := x)); (fail_if_success (have q : Svc := x)); (fail_if_success (have q : Trust := x)); (fail_if_success (have q : _ → _ := x)); clear_value x)
    | intro x
    | lift_lets -underBinder
    | (simp only [↓Dev.sound_mk]; with_reducible apply Dev.Sound.parts)
    | dsimp -zeta only
    | dsimp -zeta +zetaDelta only

theorem attentionButtonPress_sound {k : Nat} {s : Dev} (h0 : s.Sound) : (attentionButtonPress k s).Sound := by
  unfold attentionButtonPress
  repeat' first
    | with_reducible assumption
    | with_reducible apply Dev.fset_sound
    | with_reducible apply Dev.pressAt_sound
    | intro x
    | with_reducible apply ite_sound
    | dsimp -zeta only
    | split

theorem Dev.drive_sound {s : Dev} {name : String} {k which st : Nat} (h0 : s.Sound) : (Dev.drive s name k which st).Sound := by
  unfold Dev.drive
  repeat' first
    | with_reducible assumption
    | with_reducible apply Dev.pin_sound
    | with_reducible apply st_sound
    | (intro x; have hx : Dev.Sound x; (on_goal 2 => clear_value x); (on_goal 1 => unfold x))
    | (intro x; (fail_if_success (have q : Engs := x)); (fail_if_success (have q : Svc := x)); (fail_if_success (have q : Trust := x)); (fail_if_success (have q : _ → _ := x)); clear_value x)
    | intro x
    | lift_lets -underBinder
    | (simp only [↓Dev.sound_mk]; with_reducible apply Dev.Sound.parts)
    | with_reducible apply ite_sound
    | dsimp -zeta only
    | split
    | dsimp -zeta +zetaDelta only

theorem Dev.blinkTick_sound {s : Dev} (h0 : s.Sound) : (Dev.blinkTick s).Sound := by
  unfold Dev.blinkTick
  repeat' first
    | with_reducible assumption
    | with_reducible apply Dev.pin_sound
    | with_reducible apply each_sound
    | intro x
    | with_reducible apply ite_sound
    | dsimp -zeta only
    | split

theorem Dev.perstTick_sound {s : Dev} (h0 : s.Sound) : (Dev.perstTick s).Sound := by
  unfold Dev.perstTick
  repeat' first
    | with_reducible assumption
    | with_reducible apply b_sound
    | with_reducible apply Dev.emit_sound
    | with_reducible apply Dev.pin_sound
    | with_reducible apply each_sound
    | (intro x; have hx : Dev.Sound x; (on_goal 2 => clear_value x); (on_goal 1 => unfold x))
    | (intro x; (fail_if_success (have q : Engs := x)); (fail_if_success (have q : Svc := x)); (fail_if_success (have q : Trust := x)); (fail_if_success (have q : _ → _ := x)); clear_value x)
    | intro x
    | lift_lets -underBinder
    | (simp only [↓Dev.sound_mk]; with_reducible apply Dev.Sound.parts)
    | with_reducible apply ite_sound
    | dsimp -zeta only
    | split
    | dsimp -zeta +zetaDelta only

theorem Dev.slotCommand_sound {s : Dev} {vs n : Nat} (h0 : s.Sound) : (Dev.slotCommand s vs n).Sound := by
  unfold Dev.slotCommand
  repeat' first
    | with_reducible assumption
    | with_reducible apply Dev.modVd_sound
    | (intro x; have hx : Dev.Sound x; (on_goal 2 => clear_value x); (on_goal 1 => unfold x))
    | (intro x; (fail_if_success (have q : Engs := x)); (fail_if_success (have q : Svc := x)); (fail_if_success (have q : Trust := x)); (fail_if_success (have q : _ → _ := x)); clear_value x)
    | intro x
    | lift_lets -underBinder
    | (simp only [↓Dev.sound_mk]; with_reducible apply Dev.Sound.parts)
    | with_reducible apply ite_sound
    | dsimp -zeta only
    | split
    | dsimp -zeta +zetaDelta only

theorem slotIndicatorWrite_sound {vs n atn pwr : Nat} {s : Dev} (h0 : s.Sound) : (slotIndicatorWrite vs n atn pwr s).Sound := by
  unfold slotIndicatorWrite
  repeat' first
    | with_reducible assumption
    | with_reducible apply Dev.atDevice_sound
    | with_reducible apply Dev.drive_sound
    | with_reducible apply Dev.fset_sound
    | with_reducible apply Dev.slotCommand_sound
    | (intro x; have hx : Dev.Sound x; (on_goal 2 => clear_value x); (on_goal 1 => unfold x))
    | (intro x; (fail_if_success (have q : Engs := x)); (fail_if_success (have q : Svc := x)); (fail_if_success (have q : Trust := x)); (fail_if_success (have q : _ → _ := x)); clear_value x)
    | intro x
    | lift_lets -underBinder
    | (simp only [↓Dev.sound_mk]; with_reducible apply Dev.Sound.parts)
    | with_reducible apply ite_sound
    | dsimp -zeta only
    | split
    | dsimp -zeta +zetaDelta only

theorem Dev.setSlotOff_sound {s : Dev} {p : Nat} {off : Bool} (h0 : s.Sound) : (Dev.setSlotOff s p off).Sound := by
  unfold Dev.setSlotOff
  repeat' first
    | with_reducible assumption
    | with_reducible apply Dev.linkDown_sound
    | with_reducible apply Dev.linkFree_sound
    | with_reducible apply Dev.modPport_sound
    | (intro x; have hx : Dev.Sound x; (on_goal 2 => clear_value x); (on_goal 1 => unfold x))
    | (intro x; (fail_if_success (have q : Engs := x)); (fail_if_success (have q : Svc := x)); (fail_if_success (have q : Trust := x)); (fail_if_success (have q : _ → _ := x)); clear_value x)
    | intro x
    | lift_lets -underBinder
    | (simp only [↓Dev.sound_mk]; with_reducible apply Dev.Sound.parts)
    | with_reducible apply ite_sound
    | dsimp -zeta only
    | split
    | dsimp -zeta +zetaDelta only

theorem slotPowerOff_sound {vs n : Nat} {s : Dev} (h0 : s.Sound) : (slotPowerOff vs n s).Sound := by
  unfold slotPowerOff
  repeat' first
    | with_reducible assumption
    | with_reducible apply Dev.atDevice_sound
    | with_reducible apply Dev.modPport_sound
    | with_reducible apply Dev.modSlot_sound
    | with_reducible apply Dev.pin_sound
    | with_reducible apply Dev.setSlotOff_sound
    | with_reducible apply Dev.slotCommand_sound
    | (intro x; have hx : Dev.Sound x; (on_goal 2 => clear_value x); (on_goal 1 => unfold x))
    | (intro x; (fail_if_success (have q : Engs := x)); (fail_if_success (have q : Svc := x)); (fail_if_success (have q : Trust := x)); (fail_if_success (have q : _ → _ := x)); clear_value x)
    | intro x
    | lift_lets -underBinder
    | (simp only [↓Dev.sound_mk]; with_reducible apply Dev.Sound.parts)
    | with_reducible apply ite_sound
    | dsimp -zeta only
    | split
    | dsimp -zeta +zetaDelta only

theorem slotPerstRelease_sound {k : Nat} {s : Dev} (h0 : s.Sound) : (slotPerstRelease k s).Sound := by
  unfold slotPerstRelease
  repeat' first
    | with_reducible assumption
    | with_reducible apply Dev.linkFree_sound
    | with_reducible apply Dev.modPport_sound
    | with_reducible apply Dev.pin_sound
    | (intro x; have hx : Dev.Sound x; (on_goal 2 => clear_value x); (on_goal 1 => unfold x))
    | (intro x; (fail_if_success (have q : Engs := x)); (fail_if_success (have q : Svc := x)); (fail_if_success (have q : Trust := x)); (fail_if_success (have q : _ → _ := x)); clear_value x)
    | intro x
    | lift_lets -underBinder
    | (simp only [↓Dev.sound_mk]; with_reducible apply Dev.Sound.parts)
    | with_reducible apply ite_sound
    | dsimp -zeta only
    | split
    | dsimp -zeta +zetaDelta only

theorem slotCommandCompleted_sound {vs n : Nat} {s : Dev} (h0 : s.Sound) : (slotCommandCompleted vs n s).Sound := by
  unfold slotCommandCompleted
  repeat' first
    | with_reducible assumption
    | with_reducible apply Dev.hotplug_sound
    | with_reducible apply Dev.modVd_sound
    | (intro x; have hx : Dev.Sound x; (on_goal 2 => clear_value x); (on_goal 1 => unfold x))
    | (intro x; (fail_if_success (have q : Engs := x)); (fail_if_success (have q : Svc := x)); (fail_if_success (have q : Trust := x)); (fail_if_success (have q : _ → _ := x)); clear_value x)
    | intro x
    | lift_lets -underBinder
    | (simp only [↓Dev.sound_mk]; with_reducible apply Dev.Sound.parts)
    | with_reducible apply ite_sound
    | dsimp -zeta only
    | split
    | dsimp -zeta +zetaDelta only

theorem remoteErrorNotice_sound {vs n : Nat} {err : Option PcieErr} {hdr : HdrLog} {trig : Option (Nat × Nat)} {s : Dev} (h0 : s.Sound) : (remoteErrorNotice vs n err hdr trig s).Sound := by
  unfold remoteErrorNotice
  repeat' first
    | with_reducible assumption
    | with_reducible apply Dev.aer_sound
    | with_reducible apply Dev.dpcTrigger_sound
    | (intro x; have hx : Dev.Sound x; (on_goal 2 => clear_value x); (on_goal 1 => unfold x))
    | (intro x; (fail_if_success (have q : Engs := x)); (fail_if_success (have q : Svc := x)); (fail_if_success (have q : Trust := x)); (fail_if_success (have q : _ → _ := x)); clear_value x)
    | intro x
    | lift_lets -underBinder
    | with_reducible apply ite_sound
    | dsimp -zeta only
    | split
    | dsimp -zeta +zetaDelta only

theorem dpcSoftwareTrigger_sound {vs n : Nat} {s : Dev} (h0 : s.Sound) : (dpcSoftwareTrigger vs n s).Sound := by
  unfold dpcSoftwareTrigger
  repeat' first
    | with_reducible assumption
    | with_reducible apply Dev.dpcTrigger_sound
    | with_reducible apply Dev.modPfn_sound
    | (intro x; have hx : Dev.Sound x; (on_goal 2 => clear_value x); (on_goal 1 => unfold x))
    | (intro x; (fail_if_success (have q : Engs := x)); (fail_if_success (have q : Svc := x)); (fail_if_success (have q : Trust := x)); (fail_if_success (have q : _ → _ := x)); clear_value x)
    | intro x
    | lift_lets -underBinder
    | (simp only [↓Dev.sound_mk]; with_reducible apply Dev.Sound.parts)
    | with_reducible apply ite_sound
    | dsimp -zeta only
    | split
    | dsimp -zeta +zetaDelta only

theorem dpcTriggerStatusWrite_sound {vs n : Nat} {s : Dev} (h0 : s.Sound) : (dpcTriggerStatusWrite vs n s).Sound := by
  unfold dpcTriggerStatusWrite
  repeat' first
    | with_reducible assumption
    | with_reducible apply Dev.emit_sound
    | with_reducible apply Dev.modVd_sound
    | (intro x; have hx : Dev.Sound x; (on_goal 2 => clear_value x); (on_goal 1 => unfold x))
    | (intro x; (fail_if_success (have q : Engs := x)); (fail_if_success (have q : Svc := x)); (fail_if_success (have q : Trust := x)); (fail_if_success (have q : _ → _ := x)); clear_value x)
    | intro x
    | lift_lets -underBinder
    | (simp only [↓Dev.sound_mk]; with_reducible apply Dev.Sound.parts)
    | with_reducible apply ite_sound
    | dsimp -zeta only
    | split
    | dsimp -zeta +zetaDelta only

theorem dpcRelease_sound {vs n : Nat} {s : Dev} (h0 : s.Sound) : (dpcRelease vs n s).Sound := by
  unfold dpcRelease
  repeat' first
    | with_reducible assumption
    | with_reducible apply Dev.cmdDone_sound
    | with_reducible apply Dev.dpcFree_sound
    | with_reducible apply Dev.linkFree_sound
    | with_reducible apply Dev.tellHost_sound
    | (intro x; have hx : Dev.Sound x; (on_goal 2 => clear_value x); (on_goal 1 => unfold x))
    | (intro x; (fail_if_success (have q : Engs := x)); (fail_if_success (have q : Svc := x)); (fail_if_success (have q : Trust := x)); (fail_if_success (have q : _ → _ := x)); clear_value x)
    | intro x
    | lift_lets -underBinder
    | (simp only [↓Dev.sound_mk]; with_reducible apply Dev.Sound.parts)
    | with_reducible apply ite_sound
    | dsimp -zeta only
    | split
    | dsimp -zeta +zetaDelta only

theorem ptmRequest_sound {src : PtmReqr} {s : Dev} (h0 : s.Sound) : (ptmRequest src s).Sound := by
  unfold ptmRequest
  repeat' first
    | with_reducible assumption
    | with_reducible apply b_sound
    | with_reducible apply Dev.emit_sound
    | intro x
    | with_reducible apply ite_sound
    | dsimp -zeta only
    | split

end Sys2Proof.Machine
end

