-- ==== Sys2Proof/Laws/SoundTime.lean ====
section
/-! SUPPORT. Every operation of Machine/Time.lean keeps the switch sound. -/
set_option linter.unusedTactic false
set_option linter.unusedSimpArgs false
set_option linter.unreachableTactic false
namespace Sys2Proof.Machine

theorem Dev.modTp_sound {s : Dev} {n : Nat} {f : TimePort → TimePort} (h0 : s.Sound) : (Dev.modTp s n f).Sound := by
  unfold Dev.modTp
  repeat' first
    | with_reducible assumption
    | (intro x; have hx : Dev.Sound x; (on_goal 2 => clear_value x); (on_goal 1 => unfold x))
    | (intro x; (fail_if_success (have q : Engs := x)); (fail_if_success (have q : Svc := x)); (fail_if_success (have q : Trust := x)); (fail_if_success (have q : _ → _ := x)); clear_value x)
    | intro x
    | lift_lets -underBinder
    | (simp only [↓Dev.sound_mk]; with_reducible apply Dev.Sound.parts)
    | dsimp -zeta only
    | dsimp -zeta +zetaDelta only

theorem Dev.adoptTime_sound {s : Dev} {n st : Nat} (h0 : s.Sound) : (Dev.adoptTime s n st).Sound := by
  unfold Dev.adoptTime
  repeat' first
    | with_reducible assumption
    | with_reducible apply b_sound
    | with_reducible apply Dev.fsets_sound
    | with_reducible apply Dev.modTp_sound
    | with_reducible apply st_sound
    | (intro x; have hx : Dev.Sound x; (on_goal 2 => clear_value x); (on_goal 1 => unfold x))
    | (intro x; (fail_if_success (have q : Engs := x)); (fail_if_success (have q : Svc := x)); (fail_if_success (have q : Trust := x)); (fail_if_success (have q : _ → _ := x)); clear_value x)
    | intro x
    | lift_lets -underBinder
    | (simp only [↓Dev.sound_mk]; with_reducible apply Dev.Sound.parts)
    | dsimp -zeta only
    | dsimp -zeta +zetaDelta only

theorem Dev.holdover_sound {s : Dev} (h0 : s.Sound) : (Dev.holdover s).Sound := by
  unfold Dev.holdover
  repeat' first
    | with_reducible assumption
    | with_reducible apply Dev.fset_sound
    | with_reducible apply Dev.logError_sound
    | with_reducible apply Dev.raise_sound
    | intro x
    | dsimp -zeta only

theorem Dev.timeElect_sound {s : Dev} {lost : Bool} (h0 : s.Sound) : (Dev.timeElect s lost).Sound := by
  unfold Dev.timeElect
  repeat' first
    | with_reducible assumption
    | with_reducible apply Dev.adoptTime_sound
    | with_reducible apply Dev.fset_sound
    | with_reducible apply Dev.fsets_sound
    | with_reducible apply Dev.holdover_sound
    | with_reducible apply st_sound
    | (intro x; have hx : Dev.Sound x; (on_goal 2 => clear_value x); (on_goal 1 => unfold x))
    | (intro x; (fail_if_success (have q : Engs := x)); (fail_if_success (have q : Svc := x)); (fail_if_success (have q : Trust := x)); (fail_if_success (have q : _ → _ := x)); clear_value x)
    | intro x
    | lift_lets -underBinder
    | (simp only [↓Dev.sound_mk]; with_reducible apply Dev.Sound.parts)
    | with_reducible apply ite_sound
    | dsimp -zeta only
    | split
    | dsimp -zeta +zetaDelta only

theorem timeSync_sound {port val : Nat} {s : Dev} (h0 : s.Sound) : (timeSync port val s).Sound := by
  unfold timeSync
  repeat' first
    | with_reducible assumption
    | with_reducible apply Dev.modTp_sound
    | (intro x; have hx : Dev.Sound x; (on_goal 2 => clear_value x); (on_goal 1 => unfold x))
    | (intro x; (fail_if_success (have q : Engs := x)); (fail_if_success (have q : Svc := x)); (fail_if_success (have q : Trust := x)); (fail_if_success (have q : _ → _ := x)); clear_value x)
    | intro x
    | lift_lets -underBinder
    | (simp only [↓Dev.sound_mk]; with_reducible apply Dev.Sound.parts)
    | with_reducible apply ite_sound
    | dsimp -zeta only
    | split
    | dsimp -zeta +zetaDelta only

theorem Dev.timeStep_sound {s : Dev} {t : Nat} (h0 : s.Sound) : (Dev.timeStep s t).Sound := by
  have hf : ∀ tel, Dev.Sound { s with ftime := t % 2 ^ 64, tel := tel } := fun tel => by
    rw [Dev.sound_mk]
    exact ⟨h0.1, h0.2.1, h0.2.2.1, h0.2.2.2.1, h0.2.2.2.2.1, h0.2.2.2.2.2.1, Nat.mod_lt _ (by decide), h0.2.2.2.2.2.2.2⟩
  unfold Dev.timeStep
  extract_lets w old next _ s1 s2
  have a1 : Dev.Sound s1 := hf _
  clear_value s1
  have a2 : Dev.Sound s2 := Dev.fset_sound a1
  clear_value s2
  exact Dev.raise_sound (each_sound a2 fun _ _ h => Dev.modTp_sound h)

theorem Dev.stepDue_sound {s : Dev} (h0 : s.Sound) : (Dev.stepDue s).Sound := by
  unfold Dev.stepDue
  repeat' first
    | with_reducible assumption
    | with_reducible apply Dev.timeStep_sound
    | (intro x; have hx : Dev.Sound x; (on_goal 2 => clear_value x); (on_goal 1 => unfold x))
    | (intro x; (fail_if_success (have q : Engs := x)); (fail_if_success (have q : Svc := x)); (fail_if_success (have q : Trust := x)); (fail_if_success (have q : _ → _ := x)); clear_value x)
    | intro x
    | lift_lets -underBinder
    | (simp only [↓Dev.sound_mk]; with_reducible apply Dev.Sound.parts)
    | with_reducible apply ite_sound
    | dsimp -zeta only
    | split
    | dsimp -zeta +zetaDelta only

theorem Dev.servo_sound {s : Dev} (h0 : s.Sound) : (Dev.servo s).Sound := by
  unfold Dev.servo
  repeat' first
    | with_reducible assumption
    | with_reducible apply Dev.freeNat_sound
    | with_reducible refine Dev.freeNat_pair (by with_reducible assumption) ?_
    | (intro x; have hx : Dev.Sound x; (on_goal 2 => clear_value x); (on_goal 1 => unfold x))
    | (intro x; (fail_if_success (have q : Engs := x)); (fail_if_success (have q : Svc := x)); (fail_if_success (have q : Trust := x)); (fail_if_success (have q : _ → _ := x)); clear_value x)
    | intro x
    | lift_lets -underBinder
    | (simp only [↓Dev.sound_mk]; with_reducible apply Dev.Sound.parts)
    | dsimp -zeta only
    | split
    | dsimp -zeta +zetaDelta only

theorem Dev.exchange_sound {s : Dev} {off2 del2 : Int} {t1 : Nat} (h0 : s.Sound) : (Dev.exchange s off2 del2 t1).Sound := by
  unfold Dev.exchange
  repeat' first
    | with_reducible assumption
    | with_reducible apply Dev.drop_sound
    | with_reducible apply Dev.fset_sound
    | with_reducible apply Dev.fsets_sound
    | with_reducible apply Dev.raise_sound
    | with_reducible apply Dev.servo_sound
    | (intro x; have hx : Dev.Sound x; (on_goal 2 => clear_value x); (on_goal 1 => unfold x))
    | (intro x; (fail_if_success (have q : Engs := x)); (fail_if_success (have q : Svc := x)); (fail_if_success (have q : Trust := x)); (fail_if_success (have q : _ → _ := x)); clear_value x)
    | intro x
    | lift_lets -underBinder
    | (simp only [↓Dev.sound_mk]; with_reducible apply Dev.Sound.parts)
    | with_reducible apply ite_sound
    | dsimp -zeta only
    | split
    | dsimp -zeta +zetaDelta only

theorem timeReport_sound {port val : Nat} {s : Dev} (h0 : s.Sound) : (timeReport port val s).Sound := by
  unfold timeReport
  repeat' first
    | with_reducible assumption
    | with_reducible apply b_sound
    | with_reducible apply Dev.exchange_sound
    | (intro x; have hx : Dev.Sound x; (on_goal 2 => clear_value x); (on_goal 1 => unfold x))
    | (intro x; (fail_if_success (have q : Engs := x)); (fail_if_success (have q : Svc := x)); (fail_if_success (have q : Trust := x)); (fail_if_success (have q : _ → _ := x)); clear_value x)
    | intro x
    | lift_lets -underBinder
    | with_reducible apply ite_sound
    | dsimp -zeta only
    | split
    | dsimp -zeta +zetaDelta only

theorem timeHigh_sound {port val : Nat} {s : Dev} (h0 : s.Sound) : (timeHigh port val s).Sound := by
  unfold timeHigh
  repeat' first
    | with_reducible assumption
    | with_reducible apply Dev.modTp_sound
    | (intro x; have hx : Dev.Sound x; (on_goal 2 => clear_value x); (on_goal 1 => unfold x))
    | (intro x; (fail_if_success (have q : Engs := x)); (fail_if_success (have q : Svc := x)); (fail_if_success (have q : Trust := x)); (fail_if_success (have q : _ → _ := x)); clear_value x)
    | intro x
    | lift_lets -underBinder
    | (simp only [↓Dev.sound_mk]; with_reducible apply Dev.Sound.parts)
    | with_reducible apply ite_sound
    | dsimp -zeta only
    | split
    | dsimp -zeta +zetaDelta only

theorem timeTop_sound {port val : Nat} {s : Dev} (h0 : s.Sound) : (timeTop port val s).Sound := by
  unfold timeTop
  repeat' first
    | with_reducible assumption
    | with_reducible apply Dev.modTp_sound
    | (intro x; have hx : Dev.Sound x; (on_goal 2 => clear_value x); (on_goal 1 => unfold x))
    | (intro x; (fail_if_success (have q : Engs := x)); (fail_if_success (have q : Svc := x)); (fail_if_success (have q : Trust := x)); (fail_if_success (have q : _ → _ := x)); clear_value x)
    | intro x
    | lift_lets -underBinder
    | (simp only [↓Dev.sound_mk]; with_reducible apply Dev.Sound.parts)
    | with_reducible apply ite_sound
    | dsimp -zeta only
    | split
    | dsimp -zeta +zetaDelta only

theorem timeState_sound {port val : Nat} {s : Dev} (h0 : s.Sound) : (timeState port val s).Sound := by
  unfold timeState
  repeat' first
    | with_reducible assumption
    | with_reducible apply Dev.modTp_sound
    | with_reducible apply Dev.timeElect_sound
    | (intro x; have hx : Dev.Sound x; (on_goal 2 => clear_value x); (on_goal 1 => unfold x))
    | (intro x; (fail_if_success (have q : Engs := x)); (fail_if_success (have q : Svc := x)); (fail_if_success (have q : Trust := x)); (fail_if_success (have q : _ → _ := x)); clear_value x)
    | intro x
    | lift_lets -underBinder
    | (simp only [↓Dev.sound_mk]; with_reducible apply Dev.Sound.parts)
    | with_reducible apply ite_sound
    | dsimp -zeta only
    | split
    | dsimp -zeta +zetaDelta only

theorem timeRoot_sound {port q val : Nat} {s : Dev} (h0 : s.Sound) : (timeRoot port q val s).Sound := by
  unfold timeRoot
  repeat' first
    | with_reducible assumption
    | with_reducible apply Dev.modTp_sound
    | with_reducible apply Dev.timeElect_sound
    | (intro x; have hx : Dev.Sound x; (on_goal 2 => clear_value x); (on_goal 1 => unfold x))
    | (intro x; (fail_if_success (have q : Engs := x)); (fail_if_success (have q : Svc := x)); (fail_if_success (have q : Trust := x)); (fail_if_success (have q : _ → _ := x)); clear_value x)
    | intro x
    | lift_lets -underBinder
    | (simp only [↓Dev.sound_mk]; with_reducible apply Dev.Sound.parts)
    | with_reducible apply ite_sound
    | dsimp -zeta only
    | split
    | dsimp -zeta +zetaDelta only

theorem Dev.sendTime_sound {s : Dev} {n kind val : Nat} (h0 : s.Sound) : (Dev.sendTime s n kind val).Sound := by
  unfold Dev.sendTime
  repeat' first
    | with_reducible assumption
    | with_reducible apply Dev.sendCtl_sound
    | intro x
    | dsimp -zeta only

theorem Dev.syncTime_sound {s : Dev} {n : Nat} (h0 : s.Sound) : (Dev.syncTime s n).2.Sound := by
  unfold Dev.syncTime
  repeat' first
    | with_reducible assumption
    | with_reducible apply Dev.freeNat_sound
    | with_reducible refine Dev.freeNat_pair (by with_reducible assumption) ?_
    | intro x
    | dsimp -zeta only
    | split
theorem Dev.syncTime_pair {s : Dev} {n : Nat} {x_ t_} (e_ : Dev.syncTime s n = (x_, t_)) (h0 : s.Sound) : t_.Sound := by
  have q := Dev.syncTime_sound (s := s) (n := n) h0; rw [e_] at q; exact q

theorem Dev.sendDesc_sound {s : Dev} {n i : Nat} (h0 : s.Sound) : (Dev.sendDesc s n i).Sound := by
  unfold Dev.sendDesc
  repeat' first
    | with_reducible assumption
    | with_reducible apply Dev.sendTime_sound
    | with_reducible apply Dev.syncTime_sound
    | with_reducible refine Dev.syncTime_pair (by with_reducible assumption) ?_
    | (intro x; have hx : Dev.Sound x; (on_goal 2 => clear_value x); (on_goal 1 => unfold x))
    | (intro x; (fail_if_success (have q : Engs := x)); (fail_if_success (have q : Svc := x)); (fail_if_success (have q : Trust := x)); (fail_if_success (have q : _ → _ := x)); clear_value x)
    | intro x
    | lift_lets -underBinder
    | with_reducible apply ite_sound
    | dsimp -zeta only
    | split
    | dsimp -zeta +zetaDelta only

theorem timeExchangeInterval_sound {port : Nat} {s : Dev} (h0 : s.Sound) : (timeExchangeInterval port s).Sound := by
  unfold timeExchangeInterval
  repeat' first
    | with_reducible assumption
    | with_reducible apply Dev.freeNat_sound
    | with_reducible refine Dev.freeNat_pair (by with_reducible assumption) ?_
    | with_reducible apply Dev.modTp_sound
    | with_reducible apply Dev.sendDesc_sound
    | with_reducible apply Dev.sendTime_sound
    | with_reducible apply each_sound
    | (intro x; have hx : Dev.Sound x; (on_goal 2 => clear_value x); (on_goal 1 => unfold x))
    | (intro x; (fail_if_success (have q : Engs := x)); (fail_if_success (have q : Svc := x)); (fail_if_success (have q : Trust := x)); (fail_if_success (have q : _ → _ := x)); clear_value x)
    | intro x
    | lift_lets -underBinder
    | (simp only [↓Dev.sound_mk]; with_reducible apply Dev.Sound.parts)
    | with_reducible apply ite_sound
    | dsimp -zeta only
    | split
    | dsimp -zeta +zetaDelta only

theorem timeDescriptorExpiry_sound {port : Nat} {s : Dev} (h0 : s.Sound) : (timeDescriptorExpiry port s).Sound := by
  unfold timeDescriptorExpiry
  repeat' first
    | with_reducible assumption
    | with_reducible apply Dev.modTp_sound
    | with_reducible apply Dev.timeElect_sound
    | (intro x; have hx : Dev.Sound x; (on_goal 2 => clear_value x); (on_goal 1 => unfold x))
    | (intro x; (fail_if_success (have q : Engs := x)); (fail_if_success (have q : Svc := x)); (fail_if_success (have q : Trust := x)); (fail_if_success (have q : _ → _ := x)); clear_value x)
    | intro x
    | lift_lets -underBinder
    | (simp only [↓Dev.sound_mk]; with_reducible apply Dev.Sound.parts)
    | with_reducible apply ite_sound
    | dsimp -zeta only
    | split
    | dsimp -zeta +zetaDelta only

theorem timePortLoss_sound {port : Nat} {s : Dev} (h0 : s.Sound) : (timePortLoss port s).Sound := by
  unfold timePortLoss
  repeat' first
    | with_reducible assumption
    | with_reducible apply Dev.modTp_sound
    | with_reducible apply Dev.timeElect_sound
    | (intro x; have hx : Dev.Sound x; (on_goal 2 => clear_value x); (on_goal 1 => unfold x))
    | (intro x; (fail_if_success (have q : Engs := x)); (fail_if_success (have q : Svc := x)); (fail_if_success (have q : Trust := x)); (fail_if_success (have q : _ → _ := x)); clear_value x)
    | intro x
    | lift_lets -underBinder
    | (simp only [↓Dev.sound_mk]; with_reducible apply Dev.Sound.parts)
    | with_reducible apply ite_sound
    | dsimp -zeta only
    | split
    | dsimp -zeta +zetaDelta only

theorem ptmHostRequest_sound {vs : Nat} {s : Dev} (h0 : s.Sound) : (ptmHostRequest vs s).Sound := by
  unfold ptmHostRequest
  repeat' first
    | with_reducible assumption
    | with_reducible apply Dev.emit_sound
    | (intro x; have hx : Dev.Sound x; (on_goal 2 => clear_value x); (on_goal 1 => unfold x))
    | (intro x; (fail_if_success (have q : Engs := x)); (fail_if_success (have q : Svc := x)); (fail_if_success (have q : Trust := x)); (fail_if_success (have q : _ → _ := x)); clear_value x)
    | intro x
    | lift_lets -underBinder
    | (simp only [↓Dev.sound_mk]; with_reducible apply Dev.Sound.parts)
    | with_reducible apply ite_sound
    | dsimp -zeta only
    | split
    | dsimp -zeta +zetaDelta only

theorem Dev.tellPtm_sound {s : Dev} {vs kind val : Nat} (h0 : s.Sound) : (Dev.tellPtm s vs kind val).Sound := by
  unfold Dev.tellPtm
  repeat' first
    | with_reducible assumption
    | with_reducible apply b_sound
    | with_reducible apply Dev.emit_sound
    | with_reducible apply each_sound
    | (intro x; have hx : Dev.Sound x; (on_goal 2 => clear_value x); (on_goal 1 => unfold x))
    | (intro x; (fail_if_success (have q : Engs := x)); (fail_if_success (have q : Svc := x)); (fail_if_success (have q : Trust := x)); (fail_if_success (have q : _ → _ := x)); clear_value x)
    | intro x
    | lift_lets -underBinder
    | dsimp -zeta only
    | dsimp -zeta +zetaDelta only

theorem ptmHostResponse_sound {vs host : Nat} {s : Dev} (h0 : s.Sound) : (ptmHostResponse vs host s).Sound := by
  unfold ptmHostResponse
  repeat' first
    | with_reducible assumption
    | with_reducible apply Dev.fsets_sound
    | with_reducible apply Dev.tellPtm_sound
    | (intro x; have hx : Dev.Sound x; (on_goal 2 => clear_value x); (on_goal 1 => unfold x))
    | (intro x; (fail_if_success (have q : Engs := x)); (fail_if_success (have q : Svc := x)); (fail_if_success (have q : Trust := x)); (fail_if_success (have q : _ → _ := x)); clear_value x)
    | intro x
    | lift_lets -underBinder
    | with_reducible apply ite_sound
    | dsimp -zeta only
    | split
    | dsimp -zeta +zetaDelta only

theorem Dev.bwSet_sound {s : Dev} (h0 : s.Sound) : (Dev.bwSet s).Sound := by
  unfold Dev.bwSet
  repeat' first
    | with_reducible assumption
    | (intro x; have hx : Dev.Sound x; (on_goal 2 => clear_value x); (on_goal 1 => unfold x))
    | (intro x; (fail_if_success (have q : Engs := x)); (fail_if_success (have q : Svc := x)); (fail_if_success (have q : Trust := x)); (fail_if_success (have q : _ → _ := x)); clear_value x)
    | intro x
    | lift_lets -underBinder
    | (simp only [↓Dev.sound_mk]; with_reducible apply Dev.Sound.parts)
    | with_reducible apply ite_sound
    | dsimp -zeta only
    | split
    | dsimp -zeta +zetaDelta only

theorem bwWindowEnd_sound {s : Dev} (h0 : s.Sound) : (bwWindowEnd s).Sound := by
  unfold bwWindowEnd
  repeat' first
    | with_reducible assumption
    | with_reducible apply Dev.fset_sound
    | with_reducible apply Dev.rset_sound
    | with_reducible apply each_sound
    | (intro x; have hx : Dev.Sound x; (on_goal 2 => clear_value x); (on_goal 1 => unfold x))
    | (intro x; (fail_if_success (have q : Engs := x)); (fail_if_success (have q : Svc := x)); (fail_if_success (have q : Trust := x)); (fail_if_success (have q : _ → _ := x)); clear_value x)
    | intro x
    | lift_lets -underBinder
    | (simp only [↓Dev.sound_mk]; with_reducible apply Dev.Sound.parts)
    | with_reducible apply ite_sound
    | dsimp -zeta only
    | split
    | dsimp -zeta +zetaDelta only

theorem eventNoticeSend_sound {src : Nat} {s : Dev} (h0 : s.Sound) : (eventNoticeSend src s).Sound := by
  unfold eventNoticeSend
  repeat' first
    | with_reducible assumption
    | with_reducible apply Dev.count_sound
    | with_reducible apply Dev.notice_sound
    | (intro x; have hx : Dev.Sound x; (on_goal 2 => clear_value x); (on_goal 1 => unfold x))
    | (intro x; (fail_if_success (have q : Engs := x)); (fail_if_success (have q : Svc := x)); (fail_if_success (have q : Trust := x)); (fail_if_success (have q : _ → _ := x)); clear_value x)
    | intro x
    | lift_lets -underBinder
    | (simp only [↓Dev.sound_mk]; with_reducible apply Dev.Sound.parts)
    | with_reducible apply ite_sound
    | dsimp -zeta only
    | split
    | dsimp -zeta +zetaDelta only

theorem Dev.wearRegs_sound {s : Dev} (h0 : s.Sound) : (Dev.wearRegs s).Sound := by
  unfold Dev.wearRegs
  repeat' first
    | with_reducible assumption
    | with_reducible apply Dev.rset_sound
    | with_reducible apply each_sound
    | intro x
    | dsimp -zeta only

theorem wearTick_sound {s : Dev} (h0 : s.Sound) : (wearTick s).Sound := by
  unfold wearTick
  repeat' first
    | with_reducible assumption
    | with_reducible apply Dev.logError_sound
    | with_reducible apply Dev.raise_sound
    | with_reducible apply Dev.wearRegs_sound
    | (intro x; have hx : Dev.Sound x; (on_goal 2 => clear_value x); (on_goal 1 => unfold x))
    | (intro x; (fail_if_success (have q : Engs := x)); (fail_if_success (have q : Svc := x)); (fail_if_success (have q : Trust := x)); (fail_if_success (have q : _ → _ := x)); clear_value x)
    | intro x
    | lift_lets -underBinder
    | (simp only [↓Dev.sound_mk]; with_reducible apply Dev.Sound.parts)
    | with_reducible apply ite_sound
    | dsimp -zeta only
    | split
    | dsimp -zeta +zetaDelta only

theorem Dev.storeWear_sound {s : Dev} (h0 : s.Sound) : (Dev.storeWear s).Sound := by
  unfold Dev.storeWear
  repeat' first
    | with_reducible assumption
    | (intro x; have hx : Dev.Sound x; (on_goal 2 => clear_value x); (on_goal 1 => unfold x))
    | (intro x; (fail_if_success (have q : Engs := x)); (fail_if_success (have q : Svc := x)); (fail_if_success (have q : Trust := x)); (fail_if_success (have q : _ → _ := x)); clear_value x)
    | intro x
    | lift_lets -underBinder
    | (simp only [↓Dev.sound_mk]; with_reducible apply Dev.Sound.parts)
    | dsimp -zeta only
    | dsimp -zeta +zetaDelta only

theorem wearStore_sound {s : Dev} (h0 : s.Sound) : (wearStore s).Sound := by
  unfold wearStore
  repeat' first
    | with_reducible assumption
    | with_reducible apply Dev.storeWear_sound
    | intro x
    | with_reducible apply ite_sound
    | dsimp -zeta only
    | split

end Sys2Proof.Machine
end

