-- ==== Sys2Proof/Laws/SoundPower.lean ====
section
/-! SUPPORT. Every operation of Machine/Power.lean keeps the switch sound. -/
set_option linter.unusedTactic false
set_option linter.unusedSimpArgs false
set_option linter.unreachableTactic false
namespace Sys2Proof.Machine

theorem tabove_foldl_tins {l : List (Nat × OVal)} {t : Tbl OVal} (h : tabove 0 t = true) :
    tabove 0 (l.foldl (fun t e => tins t e.1 e.2) t) = true := by
  induction l generalizing t with
  | nil => exact h
  | cons x l ih => exact ih (tabove_tins h (Nat.zero_le _))

theorem Dev.settleFlash_sound {s : Dev} (h0 : s.Sound) : (Dev.settleFlash s).Sound := by
  unfold Dev.settleFlash
  extract_lets s1
  have a1 : Dev.Sound s1 := by
    refine each_sound h0 fun s c h => ?_
    have hx : ∀ x t, (x, t) = Dev.freeNat s → t.Sound := fun x t e => by
      have := Dev.freeNat_sound h; rw [← e] at this; exact this
    split
    rename_i x s1 e
    have h1 := hx x s1 e.symm
    split
    · refine each_sound h1 fun s e h => ?_
      rw [Dev.sound_mk]
      exact ⟨h.1, h.2.1, h.2.2.1, h.2.2.2.1, tabove_tins h.2.2.2.2.1 (Nat.zero_le _), h.2.2.2.2.2⟩
    · exact h1
  clear_value s1
  rw [Dev.sound_mk]
  exact a1.parts

theorem Dev.powerLost_sound {s : Dev} {why : Nat} (h0 : s.Sound) : (Dev.powerLost s why).Sound := by
  have h := Dev.settleFlash_sound h0
  unfold Dev.powerLost
  generalize Dev.settleFlash s = s1 at h
  rw [Dev.sound_mk]
  exact ⟨h.1, h.2.1, h.2.2.1, h.2.2.2.1, h.2.2.2.2.1, Nat.zero_le _, h.2.2.2.2.2.2⟩

theorem Dev.ramp_sound {s : Dev} {f : Nat} (h0 : s.Sound) : (Dev.ramp s f).Sound := by
  unfold Dev.ramp
  repeat' first
    | with_reducible assumption
    | (intro x; have hx : Dev.Sound x; (on_goal 2 => clear_value x); (on_goal 1 => unfold x))
    | (intro x; (fail_if_success (have q : Engs := x)); (fail_if_success (have q : Svc := x)); (fail_if_success (have q : Trust := x)); (fail_if_success (have q : _ → _ := x)); clear_value x)
    | intro x
    | lift_lets -underBinder
    | (simp only [↓Dev.sound_mk]; with_reducible apply Dev.Sound.parts)
    | dsimp -zeta only
    | dsimp -zeta +zetaDelta only

theorem Dev.waitRamp_sound {s : Dev} (h0 : s.Sound) : (Dev.waitRamp s).Sound := by
  unfold Dev.waitRamp
  repeat' first
    | with_reducible assumption
    | with_reducible apply Dev.ramp_sound
    | (intro x; have hx : Dev.Sound x; (on_goal 2 => clear_value x); (on_goal 1 => unfold x))
    | (intro x; (fail_if_success (have q : Engs := x)); (fail_if_success (have q : Svc := x)); (fail_if_success (have q : Trust := x)); (fail_if_success (have q : _ → _ := x)); clear_value x)
    | intro x
    | lift_lets -underBinder
    | (simp only [↓Dev.sound_mk]; with_reducible apply Dev.Sound.parts)
    | with_reducible apply ite_sound
    | dsimp -zeta only
    | split
    | dsimp -zeta +zetaDelta only

theorem Dev.raisePower_sound {s : Dev} (h0 : s.Sound) : (Dev.raisePower s).Sound := by
  unfold Dev.raisePower
  repeat' first
    | with_reducible assumption
    | with_reducible apply Dev.raise_sound
    | intro x
    | with_reducible apply ite_sound
    | dsimp -zeta only
    | split

theorem Dev.markLost_sound {s : Dev} {f : Nat} {why : FeedLoss} (h0 : s.Sound) : (Dev.markLost s f why).Sound := by
  unfold Dev.markLost
  repeat' first
    | with_reducible assumption
    | (intro x; have hx : Dev.Sound x; (on_goal 2 => clear_value x); (on_goal 1 => unfold x))
    | (intro x; (fail_if_success (have q : Engs := x)); (fail_if_success (have q : Svc := x)); (fail_if_success (have q : Trust := x)); (fail_if_success (have q : _ → _ := x)); clear_value x)
    | intro x
    | lift_lets -underBinder
    | (simp only [↓Dev.sound_mk]; with_reducible apply Dev.Sound.parts)
    | with_reducible apply ite_sound
    | dsimp -zeta only
    | split
    | dsimp -zeta +zetaDelta only

theorem Dev.moduleTrip_sound {s : Dev} {cause : Nat} (h0 : s.Sound) : (Dev.moduleTrip s cause).Sound := by
  unfold Dev.moduleTrip
  repeat' first
    | with_reducible assumption
    | with_reducible apply Dev.markLost_sound
    | with_reducible apply Dev.powerLost_sound
    | with_reducible apply each_sound
    | (intro x; have hx : Dev.Sound x; (on_goal 2 => clear_value x); (on_goal 1 => unfold x))
    | (intro x; (fail_if_success (have q : Engs := x)); (fail_if_success (have q : Svc := x)); (fail_if_success (have q : Trust := x)); (fail_if_success (have q : _ → _ := x)); clear_value x)
    | intro x
    | lift_lets -underBinder
    | (simp only [↓Dev.sound_mk]; with_reducible apply Dev.Sound.parts)
    | dsimp -zeta only
    | dsimp -zeta +zetaDelta only

theorem controllerStart_sound {x : PeSample} {s : Dev} (h0 : s.Sound) : (controllerStart x s).Sound := by
  unfold controllerStart
  repeat' first
    | with_reducible assumption
    | with_reducible apply Dev.freeNat_sound
    | with_reducible refine Dev.freeNat_pair (by with_reducible assumption) ?_
    | with_reducible apply Dev.storeAt_sound
    | (intro x; have hx : Dev.Sound x; (on_goal 2 => clear_value x); (on_goal 1 => unfold x))
    | (intro x; (fail_if_success (have q : Engs := x)); (fail_if_success (have q : Svc := x)); (fail_if_success (have q : Trust := x)); (fail_if_success (have q : _ → _ := x)); clear_value x)
    | intro x
    | lift_lets -underBinder
    | (simp only [↓Dev.sound_mk]; with_reducible apply Dev.Sound.parts)
    | with_reducible apply ite_sound
    | dsimp -zeta only
    | split
    | dsimp -zeta +zetaDelta only

theorem feedUsable_sound {f : Nat} {x : PeSample} {s : Dev} (h0 : s.Sound) : (feedUsable f x s).Sound := by
  unfold feedUsable
  repeat' first
    | with_reducible assumption
    | with_reducible apply Dev.waitRamp_sound
    | (intro x; have hx : Dev.Sound x; (on_goal 2 => clear_value x); (on_goal 1 => unfold x))
    | (intro x; (fail_if_success (have q : Engs := x)); (fail_if_success (have q : Svc := x)); (fail_if_success (have q : Trust := x)); (fail_if_success (have q : _ → _ := x)); clear_value x)
    | intro x
    | lift_lets -underBinder
    | (simp only [↓Dev.sound_mk]; with_reducible apply Dev.Sound.parts)
    | with_reducible apply ite_sound
    | dsimp -zeta only
    | split
    | dsimp -zeta +zetaDelta only

theorem Dev.transfer_sound {s : Dev} {f : Nat} {x : PeSample} (h0 : s.Sound) : (Dev.transfer s f x).Sound := by
  unfold Dev.transfer
  repeat' first
    | with_reducible assumption
    | with_reducible apply b_sound
    | with_reducible apply Dev.raisePower_sound
    | (intro x; have hx : Dev.Sound x; (on_goal 2 => clear_value x); (on_goal 1 => unfold x))
    | (intro x; (fail_if_success (have q : Engs := x)); (fail_if_success (have q : Svc := x)); (fail_if_success (have q : Trust := x)); (fail_if_success (have q : _ → _ := x)); clear_value x)
    | intro x
    | lift_lets -underBinder
    | (simp only [↓Dev.sound_mk]; with_reducible apply Dev.Sound.parts)
    | with_reducible apply ite_sound
    | dsimp -zeta only
    | split
    | dsimp -zeta +zetaDelta only

theorem Dev.lostOn_sound {s : Dev} {f : Nat} {why : FeedLoss} {x : PeSample} (h0 : s.Sound) : (Dev.lostOn s f why x).Sound := by
  unfold Dev.lostOn
  repeat' first
    | with_reducible assumption
    | with_reducible apply Dev.transfer_sound
    | (intro x; have hx : Dev.Sound x; (on_goal 2 => clear_value x); (on_goal 1 => unfold x))
    | (intro x; (fail_if_success (have q : Engs := x)); (fail_if_success (have q : Svc := x)); (fail_if_success (have q : Trust := x)); (fail_if_success (have q : _ → _ := x)); clear_value x)
    | intro x
    | lift_lets -underBinder
    | (simp only [↓Dev.sound_mk]; with_reducible apply Dev.Sound.parts)
    | with_reducible apply ite_sound
    | dsimp -zeta only
    | split
    | dsimp -zeta +zetaDelta only

theorem Dev.takeLoss_sound {s : Dev} {f : Nat} {why : FeedLoss} {x : PeSample} (h0 : s.Sound) : (Dev.takeLoss s f why x).Sound := by
  unfold Dev.takeLoss
  repeat' first
    | with_reducible assumption
    | with_reducible apply Dev.lostOn_sound
    | with_reducible apply Dev.markLost_sound
    | with_reducible apply Dev.waitRamp_sound
    | (intro x; have hx : Dev.Sound x; (on_goal 2 => clear_value x); (on_goal 1 => unfold x))
    | (intro x; (fail_if_success (have q : Engs := x)); (fail_if_success (have q : Svc := x)); (fail_if_success (have q : Trust := x)); (fail_if_success (have q : _ → _ := x)); clear_value x)
    | intro x
    | lift_lets -underBinder
    | (simp only [↓Dev.sound_mk]; with_reducible apply Dev.Sound.parts)
    | with_reducible apply ite_sound
    | dsimp -zeta only
    | split
    | dsimp -zeta +zetaDelta only

theorem feedLost_sound {f : Nat} {why : FeedLoss} {x : PeSample} {s : Dev} (h0 : s.Sound) : (feedLost f why x s).Sound := by
  unfold feedLost
  repeat' first
    | with_reducible assumption
    | (intro x; have hx : Dev.Sound x; (on_goal 2 => clear_value x); (on_goal 1 => unfold x))
    | (intro x; (fail_if_success (have q : Engs := x)); (fail_if_success (have q : Svc := x)); (fail_if_success (have q : Trust := x)); (fail_if_success (have q : _ → _ := x)); clear_value x)
    | intro x
    | lift_lets -underBinder
    | (simp only [↓Dev.sound_mk]; with_reducible apply Dev.Sound.parts)
    | with_reducible apply ite_sound
    | dsimp -zeta only
    | split
    | dsimp -zeta +zetaDelta only

theorem transferBreakEnd_sound {s : Dev} (h0 : s.Sound) : (transferBreakEnd s).Sound := by
  unfold transferBreakEnd
  repeat' first
    | with_reducible assumption
    | (intro x; have hx : Dev.Sound x; (on_goal 2 => clear_value x); (on_goal 1 => unfold x))
    | (intro x; (fail_if_success (have q : Engs := x)); (fail_if_success (have q : Svc := x)); (fail_if_success (have q : Trust := x)); (fail_if_success (have q : _ → _ := x)); clear_value x)
    | intro x
    | lift_lets -underBinder
    | (simp only [↓Dev.sound_mk]; with_reducible apply Dev.Sound.parts)
    | with_reducible apply ite_sound
    | dsimp -zeta only
    | split
    | dsimp -zeta +zetaDelta only

theorem transferEnd_sound {x : PeSample} {s : Dev} (h0 : s.Sound) : (transferEnd x s).Sound := by
  unfold transferEnd
  repeat' first
    | with_reducible assumption
    | (intro x; have hx : Dev.Sound x; (on_goal 2 => clear_value x); (on_goal 1 => unfold x))
    | (intro x; (fail_if_success (have q : Engs := x)); (fail_if_success (have q : Svc := x)); (fail_if_success (have q : Trust := x)); (fail_if_success (have q : _ → _ := x)); clear_value x)
    | intro x
    | lift_lets -underBinder
    | (simp only [↓Dev.sound_mk]; with_reducible apply Dev.Sound.parts)
    | with_reducible apply ite_sound
    | dsimp -zeta only
    | split
    | dsimp -zeta +zetaDelta only

theorem feedRevert_sound {x : PeSample} {s : Dev} (h0 : s.Sound) : (feedRevert x s).Sound := by
  unfold feedRevert
  repeat' first
    | with_reducible assumption
    | with_reducible apply Dev.transfer_sound
    | (intro x; have hx : Dev.Sound x; (on_goal 2 => clear_value x); (on_goal 1 => unfold x))
    | (intro x; (fail_if_success (have q : Engs := x)); (fail_if_success (have q : Svc := x)); (fail_if_success (have q : Trust := x)); (fail_if_success (have q : _ → _ := x)); clear_value x)
    | intro x
    | lift_lets -underBinder
    | (simp only [↓Dev.sound_mk]; with_reducible apply Dev.Sound.parts)
    | with_reducible apply ite_sound
    | dsimp -zeta only
    | split
    | dsimp -zeta +zetaDelta only

theorem rampEnd_sound {x : PeSample} {s : Dev} (h0 : s.Sound) : (rampEnd x s).Sound := by
  unfold rampEnd
  repeat' first
    | with_reducible assumption
    | (intro x; have hx : Dev.Sound x; (on_goal 2 => clear_value x); (on_goal 1 => unfold x))
    | (intro x; (fail_if_success (have q : Engs := x)); (fail_if_success (have q : Svc := x)); (fail_if_success (have q : Trust := x)); (fail_if_success (have q : _ → _ := x)); clear_value x)
    | intro x
    | lift_lets -underBinder
    | (simp only [↓Dev.sound_mk]; with_reducible apply Dev.Sound.parts)
    | with_reducible apply ite_sound
    | dsimp -zeta only
    | split
    | dsimp -zeta +zetaDelta only

theorem inrushFaultTimeout_sound {s : Dev} (h0 : s.Sound) : (inrushFaultTimeout s).Sound := by
  unfold inrushFaultTimeout
  repeat' first
    | with_reducible assumption
    | with_reducible apply Dev.moduleTrip_sound
    | intro x
    | with_reducible apply ite_sound
    | dsimp -zeta only
    | split

theorem railFaultTimeout_sound {s : Dev} (h0 : s.Sound) : (railFaultTimeout s).Sound := by
  unfold railFaultTimeout
  repeat' first
    | with_reducible assumption
    | with_reducible apply Dev.moduleTrip_sound
    | intro x
    | with_reducible apply ite_sound
    | dsimp -zeta only
    | split

theorem fastTrip_sound {f ma : Nat} {s : Dev} (h0 : s.Sound) : (fastTrip f ma s).Sound := by
  unfold fastTrip
  repeat' first
    | with_reducible assumption
    | with_reducible apply Dev.moduleTrip_sound
    | (intro x; have hx : Dev.Sound x; (on_goal 2 => clear_value x); (on_goal 1 => unfold x))
    | (intro x; (fail_if_success (have q : Engs := x)); (fail_if_success (have q : Svc := x)); (fail_if_success (have q : Trust := x)); (fail_if_success (have q : _ → _ := x)); clear_value x)
    | intro x
    | lift_lets -underBinder
    | with_reducible apply ite_sound
    | dsimp -zeta only
    | split
    | dsimp -zeta +zetaDelta only

theorem breakerTrip_sound {f pt ma : Nat} {s : Dev} (h0 : s.Sound) : (breakerTrip f pt ma s).Sound := by
  unfold breakerTrip
  repeat' first
    | with_reducible assumption
    | with_reducible apply Dev.moduleTrip_sound
    | intro x
    | with_reducible apply ite_sound
    | dsimp -zeta only
    | split

theorem latchRelease_sound {s : Dev} (h0 : s.Sound) : (latchRelease s).Sound := by
  unfold latchRelease
  repeat' first
    | with_reducible assumption
    | with_reducible apply Dev.waitRamp_sound
    | intro x
    | with_reducible apply ite_sound
    | dsimp -zeta only
    | split

theorem Dev.meterEnergy_sound {s : Dev} (h0 : s.Sound) : (Dev.meterEnergy s).Sound := by
  unfold Dev.meterEnergy
  repeat' first
    | with_reducible assumption
    | with_reducible apply b_sound
    | with_reducible apply Dev.freeNat_sound
    | with_reducible refine Dev.freeNat_pair (by with_reducible assumption) ?_
    | (intro x; have hx : Dev.Sound x; (on_goal 2 => clear_value x); (on_goal 1 => unfold x))
    | (intro x; (fail_if_success (have q : Engs := x)); (fail_if_success (have q : Svc := x)); (fail_if_success (have q : Trust := x)); (fail_if_success (have q : _ → _ := x)); clear_value x)
    | intro x
    | lift_lets -underBinder
    | (simp only [↓Dev.sound_mk]; with_reducible apply Dev.Sound.parts)
    | dsimp -zeta only
    | split
    | dsimp -zeta +zetaDelta only

theorem Dev.storeEnergy_sound {s : Dev} (h0 : s.Sound) : (Dev.storeEnergy s).Sound := by
  unfold Dev.storeEnergy
  repeat' first
    | with_reducible assumption
    | with_reducible apply Dev.meterEnergy_sound
    | with_reducible apply Dev.storeAt_sound
    | (intro x; have hx : Dev.Sound x; (on_goal 2 => clear_value x); (on_goal 1 => unfold x))
    | (intro x; (fail_if_success (have q : Engs := x)); (fail_if_success (have q : Svc := x)); (fail_if_success (have q : Trust := x)); (fail_if_success (have q : _ → _ := x)); clear_value x)
    | intro x
    | lift_lets -underBinder
    | (simp only [↓Dev.sound_mk]; with_reducible apply Dev.Sound.parts)
    | dsimp -zeta only
    | dsimp -zeta +zetaDelta only

theorem sagWarn_sound {x : PeSample} {s : Dev} (h0 : s.Sound) : (sagWarn x s).Sound := by
  unfold sagWarn
  repeat' first
    | with_reducible assumption
    | with_reducible apply Dev.pin_sound
    | with_reducible apply Dev.raisePower_sound
    | with_reducible apply Dev.storeEnergy_sound
    | with_reducible apply Dev.storeWear_sound
    | (intro x; have hx : Dev.Sound x; (on_goal 2 => clear_value x); (on_goal 1 => unfold x))
    | (intro x; (fail_if_success (have q : Engs := x)); (fail_if_success (have q : Svc := x)); (fail_if_success (have q : Trust := x)); (fail_if_success (have q : _ → _ := x)); clear_value x)
    | intro x
    | lift_lets -underBinder
    | (simp only [↓Dev.sound_mk]; with_reducible apply Dev.Sound.parts)
    | with_reducible apply ite_sound
    | dsimp -zeta only
    | split
    | dsimp -zeta +zetaDelta only

theorem pfwRelease_sound {x : PeSample} {s : Dev} (h0 : s.Sound) : (pfwRelease x s).Sound := by
  unfold pfwRelease
  repeat' first
    | with_reducible assumption
    | with_reducible apply Dev.pin_sound
    | (intro x; have hx : Dev.Sound x; (on_goal 2 => clear_value x); (on_goal 1 => unfold x))
    | (intro x; (fail_if_success (have q : Engs := x)); (fail_if_success (have q : Svc := x)); (fail_if_success (have q : Trust := x)); (fail_if_success (have q : _ → _ := x)); clear_value x)
    | intro x
    | lift_lets -underBinder
    | (simp only [↓Dev.sound_mk]; with_reducible apply Dev.Sound.parts)
    | with_reducible apply ite_sound
    | dsimp -zeta only
    | split
    | dsimp -zeta +zetaDelta only

theorem sagReset_sound {x : PeSample} {s : Dev} (h0 : s.Sound) : (sagReset x s).Sound := by
  unfold sagReset
  repeat' first
    | with_reducible assumption
    | (intro x; have hx : Dev.Sound x; (on_goal 2 => clear_value x); (on_goal 1 => unfold x))
    | (intro x; (fail_if_success (have q : Engs := x)); (fail_if_success (have q : Svc := x)); (fail_if_success (have q : Trust := x)); (fail_if_success (have q : _ → _ := x)); clear_value x)
    | intro x
    | lift_lets -underBinder
    | (simp only [↓Dev.sound_mk]; with_reducible apply Dev.Sound.parts)
    | with_reducible apply ite_sound
    | dsimp -zeta only
    | split
    | dsimp -zeta +zetaDelta only

theorem Dev.takeSag_sound {s : Dev} (h0 : s.Sound) : (Dev.takeSag s).Sound := by
  unfold Dev.takeSag
  repeat' first
    | with_reducible assumption
    | with_reducible apply Dev.powerLost_sound
    | with_reducible apply Dev.waitRamp_sound
    | intro x
    | with_reducible apply ite_sound
    | dsimp -zeta only
    | split

theorem energyStore_sound {s : Dev} (h0 : s.Sound) : (energyStore s).Sound := by
  unfold energyStore
  repeat' first
    | with_reducible assumption
    | with_reducible apply Dev.storeAt_sound
    | with_reducible apply Dev.storeEnergy_sound
    | intro x
    | with_reducible apply ite_sound
    | dsimp -zeta only
    | split

theorem Dev.slotDown_sound {s : Dev} {k st : Nat} (h0 : s.Sound) : (Dev.slotDown s k st).Sound := by
  unfold Dev.slotDown
  repeat' first
    | with_reducible assumption
    | with_reducible apply Dev.dataDown_sound
    | with_reducible apply Dev.fset_sound
    | with_reducible apply Dev.modPport_sound
    | with_reducible apply Dev.modSlot_sound
    | with_reducible apply Dev.pin_sound
    | with_reducible apply st_sound
    | (intro x; have hx : Dev.Sound x; (on_goal 2 => clear_value x); (on_goal 1 => unfold x))
    | (intro x; (fail_if_success (have q : Engs := x)); (fail_if_success (have q : Svc := x)); (fail_if_success (have q : Trust := x)); (fail_if_success (have q : _ → _ := x)); clear_value x)
    | intro x
    | lift_lets -underBinder
    | (simp only [↓Dev.sound_mk]; with_reducible apply Dev.Sound.parts)
    | with_reducible apply ite_sound
    | dsimp -zeta only
    | split
    | dsimp -zeta +zetaDelta only

theorem controllerStop_sound {x : PeSample} {s : Dev} (h0 : s.Sound) : (controllerStop x s).Sound := by
  unfold controllerStop
  repeat' first
    | with_reducible assumption
    | with_reducible apply Dev.powerLost_sound
    | with_reducible apply Dev.slotDown_sound
    | with_reducible apply each_sound
    | (intro x; have hx : Dev.Sound x; (on_goal 2 => clear_value x); (on_goal 1 => unfold x))
    | (intro x; (fail_if_success (have q : Engs := x)); (fail_if_success (have q : Svc := x)); (fail_if_success (have q : Trust := x)); (fail_if_success (have q : _ → _ := x)); clear_value x)
    | intro x
    | lift_lets -underBinder
    | (simp only [↓Dev.sound_mk]; with_reducible apply Dev.Sound.parts)
    | with_reducible apply ite_sound
    | dsimp -zeta only
    | split
    | dsimp -zeta +zetaDelta only

theorem Dev.slotTrip_sound {s : Dev} {k cause : Nat} (h0 : s.Sound) : (Dev.slotTrip s k cause).Sound := by
  unfold Dev.slotTrip
  repeat' first
    | with_reducible assumption
    | with_reducible apply Dev.count_sound
    | with_reducible apply Dev.modSlot_sound
    | with_reducible apply Dev.raise_sound
    | with_reducible apply Dev.slotDown_sound
    | with_reducible apply Dev.tellHost_sound
    | (intro x; have hx : Dev.Sound x; (on_goal 2 => clear_value x); (on_goal 1 => unfold x))
    | (intro x; (fail_if_success (have q : Engs := x)); (fail_if_success (have q : Svc := x)); (fail_if_success (have q : Trust := x)); (fail_if_success (have q : _ → _ := x)); clear_value x)
    | intro x
    | lift_lets -underBinder
    | (simp only [↓Dev.sound_mk]; with_reducible apply Dev.Sound.parts)
    | with_reducible apply ite_sound
    | dsimp -zeta only
    | split
    | dsimp -zeta +zetaDelta only

theorem slotPowerOn_sound {vs n : Nat} {s : Dev} (h0 : s.Sound) : (slotPowerOn vs n s).Sound := by
  unfold slotPowerOn
  repeat' first
    | with_reducible assumption
    | with_reducible apply Dev.atDevice_sound
    | with_reducible apply Dev.modSlot_sound
    | with_reducible apply Dev.setSlotOff_sound
    | with_reducible apply Dev.slotCommand_sound
    | (intro x; have hx : Dev.Sound x; (on_goal 2 => clear_value x); (on_goal 1 => unfold x))
    | (intro x; (fail_if_success (have q : Engs := x)); (fail_if_success (have q : Svc := x)); (fail_if_success (have q : Trust := x)); (fail_if_success (have q : _ → _ := x)); clear_value x)
    | intro x
    | lift_lets -underBinder
    | (simp only [↓Dev.sound_mk]; with_reducible apply Dev.Sound.parts)
    | with_reducible apply ite_sound
    | dsimp -zeta only
    | split
    | dsimp -zeta +zetaDelta only

theorem Dev.slotTurnOff_sound {s : Dev} (h0 : s.Sound) : (Dev.slotTurnOff s).Sound := by
  unfold Dev.slotTurnOff
  repeat' first
    | with_reducible assumption
    | with_reducible apply Dev.modSlot_sound
    | with_reducible apply Dev.slotDown_sound
    | with_reducible apply each_sound
    | (intro x; have hx : Dev.Sound x; (on_goal 2 => clear_value x); (on_goal 1 => unfold x))
    | (intro x; (fail_if_success (have q : Engs := x)); (fail_if_success (have q : Svc := x)); (fail_if_success (have q : Trust := x)); (fail_if_success (have q : _ → _ := x)); clear_value x)
    | intro x
    | lift_lets -underBinder
    | (simp only [↓Dev.sound_mk]; with_reducible apply Dev.Sound.parts)
    | with_reducible apply ite_sound
    | dsimp -zeta only
    | split
    | dsimp -zeta +zetaDelta only

theorem slotSoftStart_sound {k : Nat} {s : Dev} (h0 : s.Sound) : (slotSoftStart k s).Sound := by
  unfold slotSoftStart
  repeat' first
    | with_reducible assumption
    | with_reducible apply Dev.modSlot_sound
    | with_reducible apply Dev.pin_sound
    | (intro x; have hx : Dev.Sound x; (on_goal 2 => clear_value x); (on_goal 1 => unfold x))
    | (intro x; (fail_if_success (have q : Engs := x)); (fail_if_success (have q : Svc := x)); (fail_if_success (have q : Trust := x)); (fail_if_success (have q : _ → _ := x)); clear_value x)
    | intro x
    | lift_lets -underBinder
    | (simp only [↓Dev.sound_mk]; with_reducible apply Dev.Sound.parts)
    | with_reducible apply ite_sound
    | dsimp -zeta only
    | split
    | dsimp -zeta +zetaDelta only

theorem slotPowerGood_sound {k x_ : Nat} {s : Dev} (h0 : s.Sound) : (slotPowerGood k x_ s).Sound := by
  unfold slotPowerGood
  repeat' first
    | with_reducible assumption
    | with_reducible apply Dev.fset_sound
    | with_reducible apply Dev.modSlot_sound
    | (intro x; have hx : Dev.Sound x; (on_goal 2 => clear_value x); (on_goal 1 => unfold x))
    | (intro x; (fail_if_success (have q : Engs := x)); (fail_if_success (have q : Svc := x)); (fail_if_success (have q : Trust := x)); (fail_if_success (have q : _ → _ := x)); clear_value x)
    | intro x
    | lift_lets -underBinder
    | (simp only [↓Dev.sound_mk]; with_reducible apply Dev.Sound.parts)
    | with_reducible apply ite_sound
    | dsimp -zeta only
    | split
    | dsimp -zeta +zetaDelta only

theorem slotStartTimeout_sound {k : Nat} {s : Dev} (h0 : s.Sound) : (slotStartTimeout k s).Sound := by
  unfold slotStartTimeout
  repeat' first
    | with_reducible assumption
    | with_reducible apply Dev.slotTrip_sound
    | intro x
    | with_reducible apply ite_sound
    | dsimp -zeta only
    | split

theorem slotFastTrip_sound {k ma : Nat} {s : Dev} (h0 : s.Sound) : (slotFastTrip k ma s).Sound := by
  unfold slotFastTrip
  repeat' first
    | with_reducible assumption
    | with_reducible apply Dev.slotTrip_sound
    | intro x
    | with_reducible apply ite_sound
    | dsimp -zeta only
    | split

theorem slotFaultTimeTrip_sound {k ma : Nat} {s : Dev} (h0 : s.Sound) : (slotFaultTimeTrip k ma s).Sound := by
  unfold slotFaultTimeTrip
  repeat' first
    | with_reducible assumption
    | with_reducible apply Dev.slotTrip_sound
    | intro x
    | with_reducible apply ite_sound
    | dsimp -zeta only
    | split

theorem slotVoutTrip_sound {k x_ : Nat} {s : Dev} (h0 : s.Sound) : (slotVoutTrip k x_ s).Sound := by
  unfold slotVoutTrip
  repeat' first
    | with_reducible assumption
    | with_reducible apply Dev.slotTrip_sound
    | intro x
    | with_reducible apply ite_sound
    | dsimp -zeta only
    | split

theorem slotRetryEnd_sound {k : Nat} {s : Dev} (h0 : s.Sound) : (slotRetryEnd k s).Sound := by
  unfold slotRetryEnd
  repeat' first
    | with_reducible assumption
    | with_reducible apply Dev.modSlot_sound
    | (intro x; have hx : Dev.Sound x; (on_goal 2 => clear_value x); (on_goal 1 => unfold x))
    | (intro x; (fail_if_success (have q : Engs := x)); (fail_if_success (have q : Svc := x)); (fail_if_success (have q : Trust := x)); (fail_if_success (have q : _ → _ := x)); clear_value x)
    | intro x
    | lift_lets -underBinder
    | (simp only [↓Dev.sound_mk]; with_reducible apply Dev.Sound.parts)
    | with_reducible apply ite_sound
    | dsimp -zeta only
    | split
    | dsimp -zeta +zetaDelta only

theorem slotCountRestart_sound {k : Nat} {s : Dev} (h0 : s.Sound) : (slotCountRestart k s).Sound := by
  unfold slotCountRestart
  repeat' first
    | with_reducible assumption
    | with_reducible apply Dev.count_sound
    | with_reducible apply Dev.modSlot_sound
    | (intro x; have hx : Dev.Sound x; (on_goal 2 => clear_value x); (on_goal 1 => unfold x))
    | (intro x; (fail_if_success (have q : Engs := x)); (fail_if_success (have q : Svc := x)); (fail_if_success (have q : Trust := x)); (fail_if_success (have q : _ → _ := x)); clear_value x)
    | intro x
    | lift_lets -underBinder
    | (simp only [↓Dev.sound_mk]; with_reducible apply Dev.Sound.parts)
    | with_reducible apply ite_sound
    | dsimp -zeta only
    | split
    | dsimp -zeta +zetaDelta only

theorem slotPresenceLoss_sound {k : Nat} {s : Dev} (h0 : s.Sound) : (slotPresenceLoss k s).Sound := by
  unfold slotPresenceLoss
  repeat' first
    | with_reducible assumption
    | with_reducible apply Dev.count_sound
    | with_reducible apply Dev.modSlot_sound
    | (intro x; have hx : Dev.Sound x; (on_goal 2 => clear_value x); (on_goal 1 => unfold x))
    | (intro x; (fail_if_success (have q : Engs := x)); (fail_if_success (have q : Svc := x)); (fail_if_success (have q : Trust := x)); (fail_if_success (have q : _ → _ := x)); clear_value x)
    | intro x
    | lift_lets -underBinder
    | (simp only [↓Dev.sound_mk]; with_reducible apply Dev.Sound.parts)
    | with_reducible apply ite_sound
    | dsimp -zeta only
    | split
    | dsimp -zeta +zetaDelta only

theorem Dev.takeGone_sound {s : Dev} {k : Nat} (h0 : s.Sound) : (Dev.takeGone s k).Sound := by
  unfold Dev.takeGone
  repeat' first
    | with_reducible assumption
    | with_reducible apply Dev.count_sound
    | with_reducible apply Dev.modSlot_sound
    | with_reducible apply Dev.slotDown_sound
    | (intro x; have hx : Dev.Sound x; (on_goal 2 => clear_value x); (on_goal 1 => unfold x))
    | (intro x; (fail_if_success (have q : Engs := x)); (fail_if_success (have q : Svc := x)); (fail_if_success (have q : Trust := x)); (fail_if_success (have q : _ → _ := x)); clear_value x)
    | intro x
    | lift_lets -underBinder
    | (simp only [↓Dev.sound_mk]; with_reducible apply Dev.Sound.parts)
    | with_reducible apply ite_sound
    | dsimp -zeta only
    | split
    | dsimp -zeta +zetaDelta only

theorem Dev.sampleEnd_sound {s : Dev} (h0 : s.Sound) : (Dev.sampleEnd s).Sound := by
  unfold Dev.sampleEnd
  repeat' first
    | with_reducible assumption
    | with_reducible apply Dev.takeGone_sound
    | with_reducible apply Dev.takeLoss_sound
    | with_reducible apply Dev.takeSag_sound
    | with_reducible apply each_sound
    | (intro x; have hx : Dev.Sound x; (on_goal 2 => clear_value x); (on_goal 1 => unfold x))
    | (intro x; (fail_if_success (have q : Engs := x)); (fail_if_success (have q : Svc := x)); (fail_if_success (have q : Trust := x)); (fail_if_success (have q : _ → _ := x)); clear_value x)
    | intro x
    | lift_lets -underBinder
    | (simp only [↓Dev.sound_mk]; with_reducible apply Dev.Sound.parts)
    | with_reducible apply ite_sound
    | dsimp -zeta only
    | split
    | dsimp -zeta +zetaDelta only

theorem slotSag_sound {k mv : Nat} {s : Dev} (h0 : s.Sound) : (slotSag k mv s).Sound := by
  unfold slotSag
  repeat' first
    | with_reducible assumption
    | with_reducible apply Dev.modSlot_sound
    | with_reducible apply Dev.pin_sound
    | (intro x; have hx : Dev.Sound x; (on_goal 2 => clear_value x); (on_goal 1 => unfold x))
    | (intro x; (fail_if_success (have q : Engs := x)); (fail_if_success (have q : Svc := x)); (fail_if_success (have q : Trust := x)); (fail_if_success (have q : _ → _ := x)); clear_value x)
    | intro x
    | lift_lets -underBinder
    | (simp only [↓Dev.sound_mk]; with_reducible apply Dev.Sound.parts)
    | with_reducible apply ite_sound
    | dsimp -zeta only
    | split
    | dsimp -zeta +zetaDelta only

theorem slotPfwRelease_sound {k mv : Nat} {s : Dev} (h0 : s.Sound) : (slotPfwRelease k mv s).Sound := by
  unfold slotPfwRelease
  repeat' first
    | with_reducible assumption
    | with_reducible apply Dev.modSlot_sound
    | with_reducible apply Dev.pin_sound
    | (intro x; have hx : Dev.Sound x; (on_goal 2 => clear_value x); (on_goal 1 => unfold x))
    | (intro x; (fail_if_success (have q : Engs := x)); (fail_if_success (have q : Svc := x)); (fail_if_success (have q : Trust := x)); (fail_if_success (have q : _ → _ := x)); clear_value x)
    | intro x
    | lift_lets -underBinder
    | (simp only [↓Dev.sound_mk]; with_reducible apply Dev.Sound.parts)
    | with_reducible apply ite_sound
    | dsimp -zeta only
    | split
    | dsimp -zeta +zetaDelta only

theorem Dev.enterFault_sound {s : Dev} {cause : Nat} (h0 : s.Sound) : (Dev.enterFault s cause).Sound := by
  unfold Dev.enterFault
  repeat' first
    | with_reducible assumption
    | with_reducible apply Dev.blEnter_sound
    | with_reducible apply Dev.containPort_sound
    | with_reducible apply Dev.failover_sound
    | with_reducible apply Dev.linkDown_sound
    | with_reducible apply Dev.logError_sound
    | with_reducible apply Dev.setDevState_sound
    | with_reducible apply Dev.stopRun_sound
    | with_reducible apply each_sound
    | (intro x; have hx : Dev.Sound x; (on_goal 2 => clear_value x); (on_goal 1 => unfold x))
    | (intro x; (fail_if_success (have q : Engs := x)); (fail_if_success (have q : Svc := x)); (fail_if_success (have q : Trust := x)); (fail_if_success (have q : _ → _ := x)); clear_value x)
    | intro x
    | lift_lets -underBinder
    | (simp only [↓Dev.sound_mk]; with_reducible apply Dev.Sound.parts)
    | with_reducible apply ite_sound
    | dsimp -zeta only
    | split
    | decide
    | dsimp -zeta +zetaDelta only

theorem Dev.thermal_sound {s : Dev} (h0 : s.Sound) : (Dev.thermal s).Sound := by
  unfold Dev.thermal
  repeat' first
    | with_reducible assumption
    | with_reducible apply Dev.enterFault_sound
    | with_reducible apply Dev.pin_sound
    | (intro x; have hx : Dev.Sound x; (on_goal 2 => clear_value x); (on_goal 1 => unfold x))
    | (intro x; (fail_if_success (have q : Engs := x)); (fail_if_success (have q : Svc := x)); (fail_if_success (have q : Trust := x)); (fail_if_success (have q : _ → _ := x)); clear_value x)
    | intro x
    | lift_lets -underBinder
    | (simp only [↓Dev.sound_mk]; with_reducible apply Dev.Sound.parts)
    | with_reducible apply ite_sound
    | dsimp -zeta only
    | split
    | dsimp -zeta +zetaDelta only

theorem dieTempReading_sound {die : Nat} {milliC : Int} {s : Dev} (h0 : s.Sound) : (dieTempReading die milliC s).Sound := by
  unfold dieTempReading
  repeat' first
    | with_reducible assumption
    | with_reducible apply Dev.thermal_sound
    | (intro x; have hx : Dev.Sound x; (on_goal 2 => clear_value x); (on_goal 1 => unfold x))
    | (intro x; (fail_if_success (have q : Engs := x)); (fail_if_success (have q : Svc := x)); (fail_if_success (have q : Trust := x)); (fail_if_success (have q : _ → _ := x)); clear_value x)
    | intro x
    | lift_lets -underBinder
    | (simp only [↓Dev.sound_mk]; with_reducible apply Dev.Sound.parts)
    | with_reducible apply ite_sound
    | dsimp -zeta only
    | split
    | dsimp -zeta +zetaDelta only

theorem deviceFault_sound {cause : Nat} {s : Dev} (h0 : s.Sound) : (deviceFault cause s).Sound := by
  unfold deviceFault
  repeat' first
    | with_reducible assumption
    | with_reducible apply Dev.enterFault_sound
    | intro x
    | dsimp -zeta only

end Sys2Proof.Machine
end

