-- ==== Sys2Proof/Laws/SoundRouting.lean ====
section
/-! SUPPORT. Every operation of Machine/Routing.lean keeps the switch sound. -/
set_option linter.unusedTactic false
set_option linter.unusedSimpArgs false
set_option linter.unreachableTactic false
namespace Sys2Proof.Machine

theorem neighbourNoticeSend_sound {port : Nat} {s : Dev} (h0 : s.Sound) : (neighbourNoticeSend port s).Sound := by
  unfold neighbourNoticeSend
  repeat' first
    | with_reducible assumption
    | with_reducible apply b_sound
    | with_reducible apply Dev.toDealer_sound
    | (intro x; have hx : Dev.Sound x; (on_goal 2 => clear_value x); (on_goal 1 => unfold x))
    | (intro x; (fail_if_success (have q : Engs := x)); (fail_if_success (have q : Svc := x)); (fail_if_success (have q : Trust := x)); (fail_if_success (have q : _ → _ := x)); clear_value x)
    | intro x
    | lift_lets -underBinder
    | (simp only [↓Dev.sound_mk]; with_reducible apply Dev.Sound.parts)
    | with_reducible apply ite_sound
    | dsimp -zeta only
    | split
    | dsimp -zeta +zetaDelta only

theorem Dev.directedOut_sound {s : Dev} {port : Nat} {b : List Byte} (h0 : s.Sound) : (Dev.directedOut s port b).Sound := by
  unfold Dev.directedOut
  repeat' first
    | with_reducible assumption
    | with_reducible apply b_sound
    | with_reducible apply Dev.count_sound
    | with_reducible apply Dev.emit_sound
    | intro x
    | with_reducible apply ite_sound
    | dsimp -zeta only
    | split

theorem Dev.sendReply_sound {s : Dev} {b : List Byte} {kind : Nat} {content : List Byte} (h0 : s.Sound) : (Dev.sendReply s b kind content).Sound := by
  unfold Dev.sendReply
  repeat' first
    | with_reducible assumption
    | with_reducible apply b_sound
    | with_reducible apply Dev.directedOut_sound
    | (intro x; have hx : Dev.Sound x; (on_goal 2 => clear_value x); (on_goal 1 => unfold x))
    | (intro x; (fail_if_success (have q : Engs := x)); (fail_if_success (have q : Svc := x)); (fail_if_success (have q : Trust := x)); (fail_if_success (have q : _ → _ := x)); clear_value x)
    | intro x
    | lift_lets -underBinder
    | dsimp -zeta only
    | dsimp -zeta +zetaDelta only

theorem Dev.directedEnd_sound {s : Dev} {port kind : Nat} {b : List Byte} {f : Dev → List Byte → Dev} (h0 : s.Sound) (hf : ∀ t x1, Dev.Sound t → Dev.Sound (f t x1)) : (Dev.directedEnd s port kind b f).Sound := by
  unfold Dev.directedEnd
  repeat' first
    | with_reducible assumption
    | with_reducible apply b_sound
    | with_reducible apply Dev.count_sound
    | with_reducible apply hf
    | intro x
    | with_reducible apply ite_sound
    | dsimp -zeta only
    | split

theorem directedPacketRelay_sound {port : Nat} {b : List Byte} {s : Dev} (h0 : s.Sound) : (directedPacketRelay port b s).Sound := by
  unfold directedPacketRelay
  repeat' first
    | with_reducible assumption
    | with_reducible apply b_sound
    | with_reducible apply Dev.count_sound
    | with_reducible apply Dev.directedOut_sound
    | intro x
    | with_reducible apply ite_sound
    | dsimp -zeta only
    | split

theorem neighbourQuery_sound {port : Nat} {b : List Byte} {s : Dev} (h0 : s.Sound) : (neighbourQuery port b s).Sound := by
  unfold neighbourQuery
  repeat' first
    | with_reducible assumption
    | with_reducible apply b_sound
    | with_reducible apply Dev.directedEnd_sound
    | with_reducible apply Dev.sendReply_sound
    | intro x
    | with_reducible apply ite_sound
    | dsimp -zeta only
    | split

theorem Dev.keepReply_sound {s : Dev} {c : List Byte} (h0 : s.Sound) : (Dev.keepReply s c).Sound := by
  unfold Dev.keepReply
  repeat' first
    | with_reducible assumption
    | with_reducible apply Dev.count_sound
    | with_reducible apply Dev.deliver_sound
    | with_reducible apply Dev.drop_sound
    | with_reducible apply Dev.emit_sound
    | with_reducible apply Dev.notice_sound
    | (intro x; have hx : Dev.Sound x; (on_goal 2 => clear_value x); (on_goal 1 => unfold x))
    | (intro x; (fail_if_success (have q : Engs := x)); (fail_if_success (have q : Svc := x)); (fail_if_success (have q : Trust := x)); (fail_if_success (have q : _ → _ := x)); clear_value x)
    | intro x
    | lift_lets -underBinder
    | (simp only [↓Dev.sound_mk]; with_reducible apply Dev.Sound.parts)
    | with_reducible apply ite_sound
    | dsimp -zeta only
    | split
    | dsimp -zeta +zetaDelta only

theorem neighbourReply_sound {port : Nat} {b : List Byte} {s : Dev} (h0 : s.Sound) : (neighbourReply port b s).Sound := by
  unfold neighbourReply
  repeat' first
    | with_reducible assumption
    | with_reducible apply b_sound
    | with_reducible apply Dev.directedEnd_sound
    | with_reducible apply Dev.keepReply_sound
    | intro x
    | dsimp -zeta only

theorem directedMwResponse_sound {port : Nat} {b : List Byte} {s : Dev} (h0 : s.Sound) : (directedMwResponse port b s).Sound := by
  unfold directedMwResponse
  repeat' first
    | with_reducible assumption
    | with_reducible apply b_sound
    | with_reducible apply Dev.directedEnd_sound
    | with_reducible apply Dev.keepReply_sound
    | intro x
    | dsimp -zeta only

theorem directedUpTree_sound {port : Nat} {b : List Byte} {s : Dev} (h0 : s.Sound) : (directedUpTree port b s).Sound := by
  unfold directedUpTree
  repeat' first
    | with_reducible assumption
    | with_reducible apply b_sound
    | with_reducible apply Dev.directedEnd_sound
    | with_reducible apply Dev.keepReply_sound
    | intro x
    | dsimp -zeta only

theorem classCheck_sound {port : Nat} {b : List Byte} {s : Dev} (h0 : s.Sound) : (classCheck port b s).Sound := by
  unfold classCheck
  repeat' first
    | with_reducible assumption
    | with_reducible apply b_sound
    | with_reducible apply Dev.directedEnd_sound
    | with_reducible apply Dev.fsets_sound
    | with_reducible apply Dev.raise_sound
    | intro x
    | with_reducible apply ite_sound
    | dsimp -zeta only
    | split

theorem Dev.sendClassChecks_sound {s : Dev} (h0 : s.Sound) : (Dev.sendClassChecks s).Sound := by
  unfold Dev.sendClassChecks
  repeat' first
    | with_reducible assumption
    | with_reducible apply Dev.emit_sound
    | with_reducible apply Dev.freeNat_sound
    | with_reducible refine Dev.freeNat_pair (by with_reducible assumption) ?_
    | with_reducible apply each_sound
    | (intro x; have hx : Dev.Sound x; (on_goal 2 => clear_value x); (on_goal 1 => unfold x))
    | (intro x; (fail_if_success (have q : Engs := x)); (fail_if_success (have q : Svc := x)); (fail_if_success (have q : Trust := x)); (fail_if_success (have q : _ → _ := x)); clear_value x)
    | intro x
    | lift_lets -underBinder
    | dsimp -zeta only
    | split
    | dsimp -zeta +zetaDelta only

theorem Dev.sendWindowNotice_sound {s : Dev} {vs n : Nat} (h0 : s.Sound) : (Dev.sendWindowNotice s vs n).Sound := by
  unfold Dev.sendWindowNotice
  repeat' first
    | with_reducible assumption
    | with_reducible apply Dev.toDealer_sound
    | (intro x; have hx : Dev.Sound x; (on_goal 2 => clear_value x); (on_goal 1 => unfold x))
    | (intro x; (fail_if_success (have q : Engs := x)); (fail_if_success (have q : Svc := x)); (fail_if_success (have q : Trust := x)); (fail_if_success (have q : _ → _ := x)); clear_value x)
    | intro x
    | lift_lets -underBinder
    | (simp only [↓Dev.sound_mk]; with_reducible apply Dev.Sound.parts)
    | dsimp -zeta only
    | dsimp -zeta +zetaDelta only

theorem vdspWindowRegisterWrite_sound {vs n : Nat} {r : VdspWinReg} {v : Nat} {s : Dev} (h0 : s.Sound) : (vdspWindowRegisterWrite vs n r v s).Sound := by
  unfold vdspWindowRegisterWrite
  repeat' first
    | with_reducible assumption
    | with_reducible apply Dev.modPfn_sound
    | with_reducible apply Dev.notice_sound
    | with_reducible apply Dev.sendWindowNotice_sound
    | (intro x; have hx : Dev.Sound x; (on_goal 2 => clear_value x); (on_goal 1 => unfold x))
    | (intro x; (fail_if_success (have q : Engs := x)); (fail_if_success (have q : Svc := x)); (fail_if_success (have q : Trust := x)); (fail_if_success (have q : _ → _ := x)); clear_value x)
    | intro x
    | lift_lets -underBinder
    | (simp only [↓Dev.sound_mk]; with_reducible apply Dev.Sound.parts)
    | with_reducible apply ite_sound
    | dsimp -zeta only
    | split
    | dsimp -zeta +zetaDelta only

theorem Dev.holdEnd_sound {s : Dev} {h : WinHold} (h0 : s.Sound) : (Dev.holdEnd s h).Sound := by
  unfold Dev.holdEnd
  repeat' first
    | with_reducible assumption
    | with_reducible apply Dev.emit_sound
    | (intro x; have hx : Dev.Sound x; (on_goal 2 => clear_value x); (on_goal 1 => unfold x))
    | (intro x; (fail_if_success (have q : Engs := x)); (fail_if_success (have q : Svc := x)); (fail_if_success (have q : Trust := x)); (fail_if_success (have q : _ → _ := x)); clear_value x)
    | intro x
    | lift_lets -underBinder
    | (simp only [↓Dev.sound_mk]; with_reducible apply Dev.Sound.parts)
    | dsimp -zeta only
    | split
    | dsimp -zeta +zetaDelta only

theorem Dev.releaseHolds_sound {s : Dev} (h0 : s.Sound) : (Dev.releaseHolds s).Sound := by
  unfold Dev.releaseHolds
  repeat' first
    | with_reducible assumption
    | with_reducible apply Dev.holdEnd_sound
    | with_reducible apply Dev.notice_sound
    | with_reducible apply each_sound
    | intro x
    | dsimp -zeta only

theorem windowHoldTimeout_sound {vs n : Nat} {s : Dev} (h0 : s.Sound) : (windowHoldTimeout vs n s).Sound := by
  unfold windowHoldTimeout
  repeat' first
    | with_reducible assumption
    | with_reducible apply Dev.fset_sound
    | with_reducible apply Dev.holdEnd_sound
    | with_reducible apply Dev.raise_sound
    | intro x
    | dsimp -zeta only
    | split

theorem Dev.putBusMap_sound {s : Dev} {vs : Nat} {codes : List Nat} (h0 : s.Sound) : (Dev.putBusMap s vs codes).Sound := by
  unfold Dev.putBusMap
  repeat' first
    | with_reducible assumption
    | with_reducible apply foldl_sound
    | (intro x; have hx : Dev.Sound x; (on_goal 2 => clear_value x); (on_goal 1 => unfold x))
    | (intro x; (fail_if_success (have q : Engs := x)); (fail_if_success (have q : Svc := x)); (fail_if_success (have q : Trust := x)); (fail_if_success (have q : _ → _ := x)); clear_value x)
    | intro x
    | lift_lets -underBinder
    | (simp only [↓Dev.sound_mk]; with_reducible apply Dev.Sound.parts)
    | with_reducible apply ite_sound
    | dsimp -zeta only
    | split
    | dsimp -zeta +zetaDelta only

theorem Dev.syncBusMap_sound {s : Dev} {vs : Nat} (h0 : s.Sound) : (Dev.syncBusMap s vs).Sound := by
  unfold Dev.syncBusMap
  repeat' first
    | with_reducible assumption
    | with_reducible apply Dev.emit_sound
    | with_reducible apply Dev.putBusMap_sound
    | with_reducible apply each_sound
    | (intro x; have hx : Dev.Sound x; (on_goal 2 => clear_value x); (on_goal 1 => unfold x))
    | (intro x; (fail_if_success (have q : Engs := x)); (fail_if_success (have q : Svc := x)); (fail_if_success (have q : Trust := x)); (fail_if_success (have q : _ → _ := x)); clear_value x)
    | intro x
    | lift_lets -underBinder
    | (simp only [↓Dev.sound_mk]; with_reducible apply Dev.Sound.parts)
    | with_reducible apply ite_sound
    | dsimp -zeta only
    | split
    | dsimp -zeta +zetaDelta only

theorem Dev.cfgDone_sound {s : Dev} {waits vs reqId tag : Nat} (h0 : s.Sound) : (Dev.cfgDone s waits vs reqId tag).Sound := by
  unfold Dev.cfgDone
  repeat' first
    | with_reducible assumption
    | with_reducible apply Dev.drop_sound
    | with_reducible apply Dev.emit_sound
    | (intro x; have hx : Dev.Sound x; (on_goal 2 => clear_value x); (on_goal 1 => unfold x))
    | (intro x; (fail_if_success (have q : Engs := x)); (fail_if_success (have q : Svc := x)); (fail_if_success (have q : Trust := x)); (fail_if_success (have q : _ → _ := x)); clear_value x)
    | intro x
    | lift_lets -underBinder
    | (simp only [↓Dev.sound_mk]; with_reducible apply Dev.Sound.parts)
    | dsimp -zeta only
    | split
    | dsimp -zeta +zetaDelta only

theorem Dev.busAcked_sound {s : Dev} {vs fsid : Nat} (h0 : s.Sound) : (Dev.busAcked s vs fsid).Sound := by
  unfold Dev.busAcked
  repeat' first
    | with_reducible assumption
    | with_reducible apply Dev.emit_sound
    | (intro x; have hx : Dev.Sound x; (on_goal 2 => clear_value x); (on_goal 1 => unfold x))
    | (intro x; (fail_if_success (have q : Engs := x)); (fail_if_success (have q : Svc := x)); (fail_if_success (have q : Trust := x)); (fail_if_success (have q : _ → _ := x)); clear_value x)
    | intro x
    | lift_lets -underBinder
    | (simp only [↓Dev.sound_mk]; with_reducible apply Dev.Sound.parts)
    | with_reducible apply ite_sound
    | dsimp -zeta only
    | split
    | dsimp -zeta +zetaDelta only

theorem busMapUpdate_sound {vs : Nat} {part : BusMapPart} {s : Dev} (h0 : s.Sound) : (busMapUpdate vs part s).Sound := by
  unfold busMapUpdate
  repeat' first
    | with_reducible assumption
    | with_reducible apply Dev.busAcked_sound
    | with_reducible apply Dev.emit_sound
    | with_reducible apply Dev.putBusMap_sound
    | with_reducible apply Dev.syncBusMap_sound
    | intro x
    | with_reducible apply ite_sound
    | dsimp -zeta only
    | split

theorem handReturnSend_sound {f d : Nat} {s : Dev} (h0 : s.Sound) : (handReturnSend f d s).Sound := by
  unfold handReturnSend
  repeat' first
    | with_reducible assumption
    | with_reducible apply b_sound
    | with_reducible apply Dev.ctlPacket_sound
    | (intro x; have hx : Dev.Sound x; (on_goal 2 => clear_value x); (on_goal 1 => unfold x))
    | (intro x; (fail_if_success (have q : Engs := x)); (fail_if_success (have q : Svc := x)); (fail_if_success (have q : Trust := x)); (fail_if_success (have q : _ → _ := x)); clear_value x)
    | intro x
    | lift_lets -underBinder
    | (simp only [↓Dev.sound_mk]; with_reducible apply Dev.Sound.parts)
    | with_reducible apply ite_sound
    | dsimp -zeta only
    | split
    | dsimp -zeta +zetaDelta only

theorem handReturnReceive_sound {f count0 count1 : Nat} {s : Dev} (h0 : s.Sound) : (handReturnReceive f count0 count1 s).Sound := by
  unfold handReturnReceive
  repeat' first
    | with_reducible assumption
    | with_reducible apply Dev.fsets_sound
    | intro x
    | with_reducible apply ite_sound
    | dsimp -zeta only
    | split

theorem handAudit_sound {s : Dev} (h0 : s.Sound) : (handAudit s).Sound := by
  unfold handAudit
  repeat' first
    | with_reducible assumption
    | with_reducible apply Dev.count_sound
    | with_reducible apply Dev.fset_sound
    | with_reducible apply Dev.fsets_sound
    | with_reducible apply Dev.raise_sound
    | with_reducible apply each_sound
    | (intro x; have hx : Dev.Sound x; (on_goal 2 => clear_value x); (on_goal 1 => unfold x))
    | (intro x; (fail_if_success (have q : Engs := x)); (fail_if_success (have q : Svc := x)); (fail_if_success (have q : Trust := x)); (fail_if_success (have q : _ → _ := x)); clear_value x)
    | intro x
    | lift_lets -underBinder
    | (simp only [↓Dev.sound_mk]; with_reducible apply Dev.Sound.parts)
    | with_reducible apply ite_sound
    | dsimp -zeta only
    | split
    | dsimp -zeta +zetaDelta only

theorem stagingCheckStart_sound {s : Dev} (h0 : s.Sound) : (stagingCheckStart s).Sound := by
  unfold stagingCheckStart
  repeat' first
    | with_reducible assumption
    | with_reducible apply Dev.fsets_sound
    | (intro x; have hx : Dev.Sound x; (on_goal 2 => clear_value x); (on_goal 1 => unfold x))
    | (intro x; (fail_if_success (have q : Engs := x)); (fail_if_success (have q : Svc := x)); (fail_if_success (have q : Trust := x)); (fail_if_success (have q : _ → _ := x)); clear_value x)
    | intro x
    | lift_lets -underBinder
    | (simp only [↓Dev.sound_mk]; with_reducible apply Dev.Sound.parts)
    | dsimp -zeta only
    | dsimp -zeta +zetaDelta only

theorem stagingCheckDone_sound {s : Dev} (h0 : s.Sound) : (stagingCheckDone s).Sound := by
  unfold stagingCheckDone
  repeat' first
    | with_reducible assumption
    | with_reducible apply Dev.fsets_sound
    | (intro x; have hx : Dev.Sound x; (on_goal 2 => clear_value x); (on_goal 1 => unfold x))
    | (intro x; (fail_if_success (have q : Engs := x)); (fail_if_success (have q : Svc := x)); (fail_if_success (have q : Trust := x)); (fail_if_success (have q : _ → _ := x)); clear_value x)
    | intro x
    | lift_lets -underBinder
    | (simp only [↓Dev.sound_mk]; with_reducible apply Dev.Sound.parts)
    | dsimp -zeta only
    | split
    | dsimp -zeta +zetaDelta only

theorem Dev.quarantine_sound {s : Dev} {q : Quar} (h0 : s.Sound) : (Dev.quarantine s q).Sound := by
  unfold Dev.quarantine
  repeat' first
    | with_reducible assumption
    | with_reducible apply Dev.count_sound
    | with_reducible apply foldl_sound
    | (intro x; have hx : Dev.Sound x; (on_goal 2 => clear_value x); (on_goal 1 => unfold x))
    | (intro x; (fail_if_success (have q : Engs := x)); (fail_if_success (have q : Svc := x)); (fail_if_success (have q : Trust := x)); (fail_if_success (have q : _ → _ := x)); clear_value x)
    | intro x
    | lift_lets -underBinder
    | (simp only [↓Dev.sound_mk]; with_reducible apply Dev.Sound.parts)
    | with_reducible apply ite_sound
    | dsimp -zeta only
    | split
    | dsimp -zeta +zetaDelta only

theorem Dev.failReq_sound {s : Dev} {r : Req} (h0 : s.Sound) : (Dev.failReq s r).Sound := by
  unfold Dev.failReq
  repeat' first
    | with_reducible assumption
    | with_reducible apply Dev.deliver_sound
    | with_reducible apply Dev.emit_sound
    | with_reducible apply Dev.freeNat_sound
    | with_reducible refine Dev.freeNat_pair (by with_reducible assumption) ?_
    | (intro x; have hx : Dev.Sound x; (on_goal 2 => clear_value x); (on_goal 1 => unfold x))
    | (intro x; (fail_if_success (have q : Engs := x)); (fail_if_success (have q : Svc := x)); (fail_if_success (have q : Trust := x)); (fail_if_success (have q : _ → _ := x)); clear_value x)
    | intro x
    | lift_lets -underBinder
    | (simp only [↓Dev.sound_mk]; with_reducible apply Dev.Sound.parts)
    | with_reducible apply ite_sound
    | dsimp -zeta only
    | split
    | dsimp -zeta +zetaDelta only

theorem fabricTimeout_sound {reqId tag : Nat} {s : Dev} (h0 : s.Sound) : (fabricTimeout reqId tag s).Sound := by
  unfold fabricTimeout
  repeat' first
    | with_reducible assumption
    | (intro x; have hx : Dev.Sound x; (on_goal 2 => clear_value x); (on_goal 1 => unfold x))
    | (intro x; (fail_if_success (have q : Engs := x)); (fail_if_success (have q : Svc := x)); (fail_if_success (have q : Trust := x)); (fail_if_success (have q : _ → _ := x)); clear_value x)
    | intro x
    | lift_lets -underBinder
    | (simp only [↓Dev.sound_mk]; with_reducible apply Dev.Sound.parts)
    | with_reducible apply ite_sound
    | dsimp -zeta only
    | split
    | dsimp -zeta +zetaDelta only

theorem Dev.reqExpires_sound {s : Dev} {r : Req} (h0 : s.Sound) : (Dev.reqExpires s r).Sound := by
  unfold Dev.reqExpires
  repeat' first
    | with_reducible assumption
    | with_reducible apply Dev.count_sound
    | with_reducible apply Dev.endReq_sound
    | with_reducible apply Dev.failReq_sound
    | with_reducible apply Dev.fset_sound
    | with_reducible apply Dev.quarantine_sound
    | (intro x; have hx : Dev.Sound x; (on_goal 2 => clear_value x); (on_goal 1 => unfold x))
    | (intro x; (fail_if_success (have q : Engs := x)); (fail_if_success (have q : Svc := x)); (fail_if_success (have q : Trust := x)); (fail_if_success (have q : _ → _ := x)); clear_value x)
    | intro x
    | lift_lets -underBinder
    | (simp only [↓Dev.sound_mk]; with_reducible apply Dev.Sound.parts)
    | with_reducible apply ite_sound
    | dsimp -zeta only
    | split
    | dsimp -zeta +zetaDelta only

theorem Dev.reqCycle_sound {s : Dev} (h0 : s.Sound) : (Dev.reqCycle s).Sound := by
  unfold Dev.reqCycle
  repeat' first
    | with_reducible assumption
    | with_reducible apply Dev.reqExpires_sound
    | with_reducible apply each_sound
    | (intro x; have hx : Dev.Sound x; (on_goal 2 => clear_value x); (on_goal 1 => unfold x))
    | (intro x; (fail_if_success (have q : Engs := x)); (fail_if_success (have q : Svc := x)); (fail_if_success (have q : Trust := x)); (fail_if_success (have q : _ → _ := x)); clear_value x)
    | intro x
    | lift_lets -underBinder
    | (simp only [↓Dev.sound_mk]; with_reducible apply Dev.Sound.parts)
    | with_reducible apply ite_sound
    | dsimp -zeta only
    | split
    | dsimp -zeta +zetaDelta only

theorem fabricQuarantineEnd_sound {reqId tag : Nat} {s : Dev} (h0 : s.Sound) : (fabricQuarantineEnd reqId tag s).Sound := by
  unfold fabricQuarantineEnd
  repeat' first
    | with_reducible assumption
    | (intro x; have hx : Dev.Sound x; (on_goal 2 => clear_value x); (on_goal 1 => unfold x))
    | (intro x; (fail_if_success (have q : Engs := x)); (fail_if_success (have q : Svc := x)); (fail_if_success (have q : Trust := x)); (fail_if_success (have q : _ → _ := x)); clear_value x)
    | intro x
    | lift_lets -underBinder
    | (simp only [↓Dev.sound_mk]; with_reducible apply Dev.Sound.parts)
    | dsimp -zeta only
    | dsimp -zeta +zetaDelta only

theorem lockBrokenNotice_sound {vs : Nat} {s : Dev} (h0 : s.Sound) : (lockBrokenNotice vs s).Sound := by
  unfold lockBrokenNotice
  repeat' first
    | with_reducible assumption
    | with_reducible apply Dev.count_sound
    | with_reducible apply Dev.fset_sound
    | intro x
    | with_reducible apply ite_sound
    | dsimp -zeta only
    | split

end Sys2Proof.Machine
end

