-- ==== Sys2Proof/Laws/SoundEngMem.lean ====
section
/-! SUPPORT. Every operation of Machine/EngMem.lean keeps the switch sound. -/
set_option linter.unusedTactic false
set_option linter.unusedSimpArgs false
set_option linter.unreachableTactic false
namespace Sys2Proof.Machine

theorem Dev.engFaultOpen_sound {s : Dev} {e code : Nat} (h0 : s.Sound) : (Dev.engFaultOpen s e code).Sound := by
  unfold Dev.engFaultOpen
  repeat' first
    | with_reducible assumption
    | with_reducible apply Dev.engFault_sound
    | with_reducible apply Dev.freeNat_sound
    | with_reducible refine Dev.freeNat_pair (by with_reducible assumption) ?_
    | (intro x; have hx : Dev.Sound x; (on_goal 2 => clear_value x); (on_goal 1 => unfold x))
    | (intro x; (fail_if_success (have q : Engs := x)); (fail_if_success (have q : Svc := x)); (fail_if_success (have q : Trust := x)); (fail_if_success (have q : _ → _ := x)); clear_value x)
    | intro x
    | lift_lets -underBinder
    | dsimp -zeta only
    | split
    | dsimp -zeta +zetaDelta only

theorem Dev.sampleAdd_sound {s : Dev} {e pc n : Nat} (h0 : s.Sound) : (Dev.sampleAdd s e pc n).Sound := by
  unfold Dev.sampleAdd
  repeat' first
    | with_reducible assumption
    | with_reducible apply Dev.modEn_sound
    | (intro x; have hx : Dev.Sound x; (on_goal 2 => clear_value x); (on_goal 1 => unfold x))
    | (intro x; (fail_if_success (have q : Engs := x)); (fail_if_success (have q : Svc := x)); (fail_if_success (have q : Trust := x)); (fail_if_success (have q : _ → _ := x)); clear_value x)
    | intro x
    | lift_lets -underBinder
    | (simp only [↓Dev.sound_mk]; with_reducible apply Dev.Sound.parts)
    | with_reducible apply ite_sound
    | dsimp -zeta only
    | split
    | dsimp -zeta +zetaDelta only

theorem Dev.sampleCount_sound {s : Dev} {e pc : Nat} {mem : Bool} (h0 : s.Sound) : (Dev.sampleCount s e pc mem).Sound := by
  unfold Dev.sampleCount
  repeat' first
    | with_reducible assumption
    | with_reducible apply Dev.modEn_sound
    | with_reducible apply Dev.sampleAdd_sound
    | (intro x; have hx : Dev.Sound x; (on_goal 2 => clear_value x); (on_goal 1 => unfold x))
    | (intro x; (fail_if_success (have q : Engs := x)); (fail_if_success (have q : Svc := x)); (fail_if_success (have q : Trust := x)); (fail_if_success (have q : _ → _ := x)); clear_value x)
    | intro x
    | lift_lets -underBinder
    | (simp only [↓Dev.sound_mk]; with_reducible apply Dev.Sound.parts)
    | with_reducible apply ite_sound
    | dsimp -zeta only
    | split
    | dsimp -zeta +zetaDelta only

theorem Dev.sampleWait_sound {s : Dev} {e : Nat} (h0 : s.Sound) : (Dev.sampleWait s e).Sound := by
  unfold Dev.sampleWait
  repeat' first
    | with_reducible assumption
    | with_reducible apply Dev.sampleAdd_sound
    | intro x
    | with_reducible apply ite_sound
    | dsimp -zeta only
    | split

theorem Dev.issued_sound {s : Dev} {e : Nat} (h0 : s.Sound) : (Dev.issued s e).Sound := by
  unfold Dev.issued
  repeat' first
    | with_reducible assumption
    | with_reducible apply Dev.count_sound
    | with_reducible apply Dev.fcount_sound
    | with_reducible apply Dev.sampleCount_sound
    | (intro x; have hx : Dev.Sound x; (on_goal 2 => clear_value x); (on_goal 1 => unfold x))
    | (intro x; (fail_if_success (have q : Engs := x)); (fail_if_success (have q : Svc := x)); (fail_if_success (have q : Trust := x)); (fail_if_success (have q : _ → _ := x)); clear_value x)
    | intro x
    | lift_lets -underBinder
    | dsimp -zeta only
    | split
    | dsimp -zeta +zetaDelta only

theorem Dev.nextPc_sound {s : Dev} {e : Nat} (h0 : s.Sound) : (Dev.nextPc s e).Sound := by
  unfold Dev.nextPc
  repeat' first
    | with_reducible assumption
    | with_reducible apply Dev.setPc_sound
    | intro x
    | dsimp -zeta only

theorem Dev.runOp_sound {s : Dev} {op e : Nat} {w : OpWord} {legal : Bool} {gs vs : List Nat} {f : Dev → Dev} (h0 : s.Sound) (hf : ∀ t, Dev.Sound t → Dev.Sound (f t)) : (Dev.runOp s op e w legal gs vs f).Sound := by
  unfold Dev.runOp
  repeat' first
    | with_reducible assumption
    | with_reducible apply Dev.engFaultOpen_sound
    | with_reducible apply Dev.issued_sound
    | with_reducible apply hf
    | intro x
    | with_reducible apply ite_sound
    | dsimp -zeta only
    | split

theorem Dev.regOp_sound {s : Dev} {op e : Nat} {w : OpWord} {legal : Bool} {gs vs : List Nat} {f : Dev → Dev} (h0 : s.Sound) (hf : ∀ t, Dev.Sound t → Dev.Sound (f t)) : (Dev.regOp s op e w legal gs vs f).Sound := by
  unfold Dev.regOp
  repeat' first
    | with_reducible assumption
    | with_reducible apply Dev.issued_sound
    | with_reducible apply Dev.nextPc_sound
    | with_reducible apply Dev.runOp_sound
    | with_reducible apply hf
    | intro x
    | dsimp -zeta only

theorem Dev.rangeWrite_sound {s : Dev} {e seq vs fn : Nat} {w : Option Way} {l : List (Nat × Nat)} {b : List Byte} (h0 : s.Sound) :
    (Dev.rangeWrite s e seq vs fn w l b).Sound := by
  induction l generalizing s b with
  | nil => exact h0
  | cons x l ih =>
    unfold Dev.rangeWrite
    apply ih
    split
    · exact Dev.sramWrite_sound h0
    · exact Dev.memWrite_sound h0
    · exact Dev.fcount_sound (Dev.emit_sound h0)
    · exact h0

theorem Dev.accWrite_sound {s : Dev} {e : Nat} {k : AccKind} {v : Nat} (h0 : s.Sound) : (Dev.accWrite s e k v).Sound := by
  unfold Dev.accWrite
  repeat' first
    | with_reducible assumption
    | with_reducible apply Dev.setG_sound
    | with_reducible apply Dev.setV_sound
    | intro x
    | with_reducible apply ite_sound
    | dsimp -zeta only
    | split

theorem Dev.accGone_sound {s : Dev} {e seq : Nat} (h0 : s.Sound) : (Dev.accGone s e seq).Sound := by
  unfold Dev.accGone
  repeat' first
    | with_reducible assumption
    | with_reducible apply Dev.modEn_sound
    | with_reducible apply Dev.sampleWait_sound
    | with_reducible apply Dev.setEnState_sound
    | (intro x; have hx : Dev.Sound x; (on_goal 2 => clear_value x); (on_goal 1 => unfold x))
    | (intro x; (fail_if_success (have q : Engs := x)); (fail_if_success (have q : Svc := x)); (fail_if_success (have q : Trust := x)); (fail_if_success (have q : _ → _ := x)); clear_value x)
    | intro x
    | lift_lets -underBinder
    | (simp only [↓Dev.sound_mk]; with_reducible apply Dev.Sound.parts)
    | with_reducible apply ite_sound
    | dsimp -zeta only
    | split
    | dsimp -zeta +zetaDelta only

theorem Dev.accReq_sound {s : Dev} {e seq : Nat} (h0 : s.Sound) : (Dev.accReq s e seq).Sound := by
  unfold Dev.accReq
  repeat' first
    | with_reducible assumption
    | (intro x; have hx : Dev.Sound x; (on_goal 2 => clear_value x); (on_goal 1 => unfold x))
    | (intro x; (fail_if_success (have q : Engs := x)); (fail_if_success (have q : Svc := x)); (fail_if_success (have q : Trust := x)); (fail_if_success (have q : _ → _ := x)); clear_value x)
    | intro x
    | lift_lets -underBinder
    | (simp only [↓Dev.sound_mk]; with_reducible apply Dev.Sound.parts)
    | dsimp -zeta only
    | dsimp -zeta +zetaDelta only

theorem Dev.accFinish_sound {s : Dev} {e : Nat} {a : Access} {got : List Byte} (h0 : s.Sound) : (Dev.accFinish s e a got).Sound := by
  unfold Dev.accFinish
  repeat' first
    | with_reducible assumption
    | with_reducible apply Dev.accGone_sound
    | with_reducible apply Dev.accReq_sound
    | with_reducible apply Dev.accWrite_sound
    | with_reducible apply b_sound
    | with_reducible apply Dev.drop_sound
    | with_reducible apply Dev.memWrite_sound
    | with_reducible apply Dev.modEn_sound
    | with_reducible apply Dev.rangeWrite_sound
    | with_reducible apply Dev.sramWrite_sound
    | (intro x; have hx : Dev.Sound x; (on_goal 2 => clear_value x); (on_goal 1 => unfold x))
    | (intro x; (fail_if_success (have q : Engs := x)); (fail_if_success (have q : Svc := x)); (fail_if_success (have q : Trust := x)); (fail_if_success (have q : _ → _ := x)); clear_value x)
    | intro x
    | lift_lets -underBinder
    | (simp only [↓Dev.sound_mk]; with_reducible apply Dev.Sound.parts)
    | with_reducible apply ite_sound
    | dsimp -zeta only
    | split
    | dsimp -zeta +zetaDelta only

theorem Dev.accError_sound {s : Dev} {e : Nat} {a : Access} (h0 : s.Sound) : (Dev.accError s e a).Sound := by
  unfold Dev.accError
  repeat' first
    | with_reducible assumption
    | with_reducible apply Dev.accGone_sound
    | with_reducible apply Dev.accReq_sound
    | with_reducible apply Dev.engFault_sound
    | (intro x; have hx : Dev.Sound x; (on_goal 2 => clear_value x); (on_goal 1 => unfold x))
    | (intro x; (fail_if_success (have q : Engs := x)); (fail_if_success (have q : Svc := x)); (fail_if_success (have q : Trust := x)); (fail_if_success (have q : _ → _ := x)); clear_value x)
    | intro x
    | lift_lets -underBinder
    | with_reducible apply ite_sound
    | dsimp -zeta only
    | split
    | dsimp -zeta +zetaDelta only

theorem Dev.takeSeq_sound {s : Dev} {e : Nat} (h0 : s.Sound) : (Dev.takeSeq s e).2.Sound := by
  unfold Dev.takeSeq
  repeat' first
    | with_reducible assumption
    | with_reducible apply Dev.modEn_sound
    | (intro x; have hx : Dev.Sound x; (on_goal 2 => clear_value x); (on_goal 1 => unfold x))
    | (intro x; (fail_if_success (have q : Engs := x)); (fail_if_success (have q : Svc := x)); (fail_if_success (have q : Trust := x)); (fail_if_success (have q : _ → _ := x)); clear_value x)
    | intro x
    | lift_lets -underBinder
    | (simp only [↓Dev.sound_mk]; with_reducible apply Dev.Sound.parts)
    | dsimp -zeta only
    | dsimp -zeta +zetaDelta only
theorem Dev.takeSeq_pair {s : Dev} {e : Nat} {x_ t_} (e_ : Dev.takeSeq s e = (x_, t_)) (h0 : s.Sound) : t_.Sound := by
  have q := Dev.takeSeq_sound (s := s) (e := e) h0; rw [e_] at q; exact q

theorem Dev.accStart_sound {s : Dev} {e : Nat} {a : Access} {dev : Bool} (h0 : s.Sound) : (Dev.accStart s e a dev).Sound := by
  unfold Dev.accStart
  repeat' first
    | with_reducible assumption
    | with_reducible apply Dev.modEn_sound
    | with_reducible apply Dev.nextPc_sound
    | with_reducible apply Dev.sampleCount_sound
    | with_reducible apply Dev.setEnState_sound
    | (intro x; have hx : Dev.Sound x; (on_goal 2 => clear_value x); (on_goal 1 => unfold x))
    | (intro x; (fail_if_success (have q : Engs := x)); (fail_if_success (have q : Svc := x)); (fail_if_success (have q : Trust := x)); (fail_if_success (have q : _ → _ := x)); clear_value x)
    | intro x
    | lift_lets -underBinder
    | (simp only [↓Dev.sound_mk]; with_reducible apply Dev.Sound.parts)
    | with_reducible apply ite_sound
    | dsimp -zeta only
    | split
    | dsimp -zeta +zetaDelta only

theorem Dev.loadAt_sound {s : Dev} {e a len align : Nat} {kind : AccKind} (h0 : s.Sound) : (Dev.loadAt s e a len align kind).Sound := by
  unfold Dev.loadAt
  repeat' first
    | with_reducible assumption
    | with_reducible apply Dev.accStart_sound
    | with_reducible apply Dev.accWrite_sound
    | with_reducible apply b_sound
    | with_reducible apply Dev.bmEnd_sound
    | with_reducible apply Dev.drop_sound
    | with_reducible apply Dev.engFault_sound
    | with_reducible apply Dev.issued_sound
    | with_reducible apply Dev.modEn_sound
    | with_reducible apply Dev.nextPc_sound
    | with_reducible apply Dev.sampleCount_sound
    | with_reducible apply Dev.sendRead_sound
    | with_reducible apply Dev.takeSeq_sound
    | with_reducible refine Dev.takeSeq_pair (by with_reducible assumption) ?_
    | (intro x; have hx : Dev.Sound x; (on_goal 2 => clear_value x); (on_goal 1 => unfold x))
    | (intro x; (fail_if_success (have q : Engs := x)); (fail_if_success (have q : Svc := x)); (fail_if_success (have q : Trust := x)); (fail_if_success (have q : _ → _ := x)); clear_value x)
    | intro x
    | lift_lets -underBinder
    | (simp only [↓Dev.sound_mk]; with_reducible apply Dev.Sound.parts)
    | with_reducible apply ite_sound
    | dsimp -zeta only
    | split
    | dsimp -zeta +zetaDelta only

theorem Dev.flushFirst_sound {s : Dev} {e vs fn : Nat} (h0 : s.Sound) : (Dev.flushFirst s e vs fn).Sound := by
  unfold Dev.flushFirst
  repeat' first
    | with_reducible assumption
    | with_reducible apply Dev.flushReads_sound
    | with_reducible apply Dev.modEn_sound
    | (intro x; have hx : Dev.Sound x; (on_goal 2 => clear_value x); (on_goal 1 => unfold x))
    | (intro x; (fail_if_success (have q : Engs := x)); (fail_if_success (have q : Svc := x)); (fail_if_success (have q : Trust := x)); (fail_if_success (have q : _ → _ := x)); clear_value x)
    | intro x
    | lift_lets -underBinder
    | (simp only [↓Dev.sound_mk]; with_reducible apply Dev.Sound.parts)
    | with_reducible apply ite_sound
    | dsimp -zeta only
    | split
    | dsimp -zeta +zetaDelta only

theorem Dev.storeAt_sound {s : Dev} {e a align : Nat} {b : List Byte} (h0 : s.Sound) : (Dev.storeAt s e a align b).Sound := by
  unfold Dev.storeAt
  repeat' first
    | with_reducible assumption
    | with_reducible apply b_sound
    | with_reducible apply Dev.bmEnd_sound
    | with_reducible apply Dev.engFault_sound
    | with_reducible apply Dev.flushFirst_sound
    | with_reducible apply Dev.issued_sound
    | with_reducible apply Dev.modEn_sound
    | with_reducible apply Dev.nextPc_sound
    | with_reducible apply Dev.sampleCount_sound
    | with_reducible apply Dev.takeSeq_sound
    | with_reducible refine Dev.takeSeq_pair (by with_reducible assumption) ?_
    | (intro x; have hx : Dev.Sound x; (on_goal 2 => clear_value x); (on_goal 1 => unfold x))
    | (intro x; (fail_if_success (have q : Engs := x)); (fail_if_success (have q : Svc := x)); (fail_if_success (have q : Trust := x)); (fail_if_success (have q : _ → _ := x)); clear_value x)
    | intro x
    | lift_lets -underBinder
    | (simp only [↓Dev.sound_mk]; with_reducible apply Dev.Sound.parts)
    | with_reducible apply ite_sound
    | dsimp -zeta only
    | split
    | dsimp -zeta +zetaDelta only

theorem Dev.atomicAt_sound {s : Dev} {e op a len d cmp val : Nat} (h0 : s.Sound) : (Dev.atomicAt s e op a len d cmp val).Sound := by
  unfold Dev.atomicAt
  repeat' first
    | with_reducible assumption
    | with_reducible apply Dev.accStart_sound
    | with_reducible apply Dev.bmEnd_sound
    | with_reducible apply Dev.emit_sound
    | with_reducible apply Dev.engFault_sound
    | with_reducible apply Dev.issued_sound
    | with_reducible apply Dev.modEn_sound
    | with_reducible apply Dev.sfSend_sound
    | with_reducible apply Dev.takeSeq_sound
    | with_reducible refine Dev.takeSeq_pair (by with_reducible assumption) ?_
    | (intro x; have hx : Dev.Sound x; (on_goal 2 => clear_value x); (on_goal 1 => unfold x))
    | (intro x; (fail_if_success (have q : Engs := x)); (fail_if_success (have q : Svc := x)); (fail_if_success (have q : Trust := x)); (fail_if_success (have q : _ → _ := x)); clear_value x)
    | intro x
    | lift_lets -underBinder
    | (simp only [↓Dev.sound_mk]; with_reducible apply Dev.Sound.parts)
    | with_reducible apply ite_sound
    | dsimp -zeta only
    | split
    | dsimp -zeta +zetaDelta only

theorem Dev.prefetchAt_sound {s : Dev} {e a : Nat} (h0 : s.Sound) : (Dev.prefetchAt s e a).Sound := by
  unfold Dev.prefetchAt
  repeat' first
    | with_reducible assumption
    | with_reducible apply Dev.issued_sound
    | with_reducible apply Dev.modEn_sound
    | with_reducible apply Dev.nextPc_sound
    | with_reducible apply Dev.sendRead_sound
    | with_reducible apply Dev.takeSeq_sound
    | with_reducible refine Dev.takeSeq_pair (by with_reducible assumption) ?_
    | (intro x; have hx : Dev.Sound x; (on_goal 2 => clear_value x); (on_goal 1 => unfold x))
    | (intro x; (fail_if_success (have q : Engs := x)); (fail_if_success (have q : Svc := x)); (fail_if_success (have q : Trust := x)); (fail_if_success (have q : _ → _ := x)); clear_value x)
    | intro x
    | lift_lets -underBinder
    | (simp only [↓Dev.sound_mk]; with_reducible apply Dev.Sound.parts)
    | with_reducible apply ite_sound
    | dsimp -zeta only
    | split
    | dsimp -zeta +zetaDelta only

theorem Dev.moveAt_sound {s : Dev} {e : Nat} {src : Option Nat} {dst n : Nat} {kind : AccKind} (h0 : s.Sound) : (Dev.moveAt s e src dst n kind).Sound := by
  unfold Dev.moveAt
  repeat' first
    | with_reducible assumption
    | with_reducible apply Dev.accStart_sound
    | with_reducible apply Dev.bmEnd_sound
    | with_reducible apply Dev.engFault_sound
    | with_reducible apply Dev.engFaultOpen_sound
    | with_reducible apply Dev.flushFirst_sound
    | with_reducible apply Dev.issued_sound
    | with_reducible apply Dev.modEn_sound
    | with_reducible apply Dev.sendRead_sound
    | with_reducible apply Dev.takeSeq_sound
    | with_reducible refine Dev.takeSeq_pair (by with_reducible assumption) ?_
    | with_reducible apply each_sound
    | (intro x; have hx : Dev.Sound x; (on_goal 2 => clear_value x); (on_goal 1 => unfold x))
    | (intro x; (fail_if_success (have q : Engs := x)); (fail_if_success (have q : Svc := x)); (fail_if_success (have q : Trust := x)); (fail_if_success (have q : _ → _ := x)); clear_value x)
    | intro x
    | lift_lets -underBinder
    | (simp only [↓Dev.sound_mk]; with_reducible apply Dev.Sound.parts)
    | with_reducible apply ite_sound
    | dsimp -zeta only
    | split
    | dsimp -zeta +zetaDelta only

end Sys2Proof.Machine
end

