-- ==== Sys2Proof/Laws/SoundEng.lean ====
section
/-! SUPPORT. Every operation of Machine/Eng.lean keeps the switch sound. -/
set_option linter.unusedTactic false
set_option linter.unusedSimpArgs false
set_option linter.unreachableTactic false
namespace Sys2Proof.Machine

theorem ld_sound {e : Nat} {w : OpWord} {s : Dev} (h0 : s.Sound) : (ld e w s).Sound := by
  unfold ld
  repeat' first
    | with_reducible assumption
    | with_reducible apply Dev.loadAt_sound
    | with_reducible apply Dev.runOp_sound
    | intro x
    | dsimp -zeta only

theorem st_sound {e : Nat} {w : OpWord} {s : Dev} (h0 : s.Sound) : (st e w s).Sound := by
  unfold st
  repeat' first
    | with_reducible assumption
    | with_reducible apply b_sound
    | with_reducible apply Dev.runOp_sound
    | with_reducible apply Dev.storeAt_sound
    | intro x
    | dsimp -zeta only

theorem ldp_sound {e : Nat} {w : OpWord} {s : Dev} (h0 : s.Sound) : (ldp e w s).Sound := by
  unfold ldp
  repeat' first
    | with_reducible assumption
    | with_reducible apply Dev.loadAt_sound
    | with_reducible apply Dev.runOp_sound
    | intro x
    | dsimp -zeta only

theorem stp_sound {e : Nat} {w : OpWord} {s : Dev} (h0 : s.Sound) : (stp e w s).Sound := by
  unfold stp
  repeat' first
    | with_reducible assumption
    | with_reducible apply b_sound
    | with_reducible apply Dev.runOp_sound
    | with_reducible apply Dev.storeAt_sound
    | intro x
    | dsimp -zeta only

theorem vld_sound {e : Nat} {w : OpWord} {s : Dev} (h0 : s.Sound) : (vld e w s).Sound := by
  unfold vld
  repeat' first
    | with_reducible assumption
    | with_reducible apply Dev.loadAt_sound
    | with_reducible apply Dev.runOp_sound
    | intro x
    | dsimp -zeta only

theorem vst_sound {e : Nat} {w : OpWord} {s : Dev} (h0 : s.Sound) : (vst e w s).Sound := by
  unfold vst
  repeat' first
    | with_reducible assumption
    | with_reducible apply b_sound
    | with_reducible apply Dev.runOp_sound
    | with_reducible apply Dev.storeAt_sound
    | intro x
    | dsimp -zeta only

theorem prf_sound {e : Nat} {w : OpWord} {s : Dev} (h0 : s.Sound) : (prf e w s).Sound := by
  unfold prf
  repeat' first
    | with_reducible assumption
    | with_reducible apply Dev.prefetchAt_sound
    | with_reducible apply Dev.runOp_sound
    | intro x
    | dsimp -zeta only

theorem aadd_sound {e : Nat} {w : OpWord} {s : Dev} (h0 : s.Sound) : (aadd e w s).Sound := by
  unfold aadd
  repeat' first
    | with_reducible assumption
    | with_reducible apply Dev.atomicAt_sound
    | with_reducible apply b_sound
    | with_reducible apply Dev.runOp_sound
    | intro x
    | dsimp -zeta only

theorem aand_sound {e : Nat} {w : OpWord} {s : Dev} (h0 : s.Sound) : (aand e w s).Sound := by
  unfold aand
  repeat' first
    | with_reducible assumption
    | with_reducible apply Dev.atomicAt_sound
    | with_reducible apply b_sound
    | with_reducible apply Dev.runOp_sound
    | intro x
    | dsimp -zeta only

theorem aor_sound {e : Nat} {w : OpWord} {s : Dev} (h0 : s.Sound) : (aor e w s).Sound := by
  unfold aor
  repeat' first
    | with_reducible assumption
    | with_reducible apply Dev.atomicAt_sound
    | with_reducible apply b_sound
    | with_reducible apply Dev.runOp_sound
    | intro x
    | dsimp -zeta only

theorem aswp_sound {e : Nat} {w : OpWord} {s : Dev} (h0 : s.Sound) : (aswp e w s).Sound := by
  unfold aswp
  repeat' first
    | with_reducible assumption
    | with_reducible apply Dev.atomicAt_sound
    | with_reducible apply b_sound
    | with_reducible apply Dev.runOp_sound
    | intro x
    | dsimp -zeta only

theorem acas_sound {e : Nat} {w : OpWord} {s : Dev} (h0 : s.Sound) : (acas e w s).Sound := by
  unfold acas
  repeat' first
    | with_reducible assumption
    | with_reducible apply Dev.atomicAt_sound
    | with_reducible apply b_sound
    | with_reducible apply Dev.runOp_sound
    | intro x
    | dsimp -zeta only

theorem acasp_sound {e : Nat} {w : OpWord} {s : Dev} (h0 : s.Sound) : (acasp e w s).Sound := by
  unfold acasp
  repeat' first
    | with_reducible assumption
    | with_reducible apply Dev.atomicAt_sound
    | with_reducible apply b_sound
    | with_reducible apply Dev.runOp_sound
    | intro x
    | dsimp -zeta only

theorem mov_sound {e : Nat} {w : OpWord} {s : Dev} (h0 : s.Sound) : (mov e w s).Sound := by
  unfold mov
  repeat' first
    | with_reducible assumption
    | with_reducible apply Dev.regOp_sound
    | with_reducible apply Dev.setG_sound
    | intro x
    | dsimp -zeta only

theorem movi_sound {e : Nat} {w : OpWord} {s : Dev} (h0 : s.Sound) : (movi e w s).Sound := by
  unfold movi
  repeat' first
    | with_reducible assumption
    | with_reducible apply Dev.regOp_sound
    | with_reducible apply Dev.setG_sound
    | intro x
    | dsimp -zeta only

theorem movh_sound {e : Nat} {w : OpWord} {s : Dev} (h0 : s.Sound) : (movh e w s).Sound := by
  unfold movh
  repeat' first
    | with_reducible assumption
    | with_reducible apply Dev.regOp_sound
    | with_reducible apply Dev.setG_sound
    | intro x
    | dsimp -zeta only

theorem add_sound {e : Nat} {w : OpWord} {s : Dev} (h0 : s.Sound) : (add e w s).Sound := by
  unfold add
  repeat' first
    | with_reducible assumption
    | with_reducible apply b_sound
    | with_reducible apply Dev.regOp_sound
    | with_reducible apply Dev.setG_sound
    | intro x
    | dsimp -zeta only

theorem addi_sound {e : Nat} {w : OpWord} {s : Dev} (h0 : s.Sound) : (addi e w s).Sound := by
  unfold addi
  repeat' first
    | with_reducible assumption
    | with_reducible apply Dev.regOp_sound
    | with_reducible apply Dev.setG_sound
    | intro x
    | dsimp -zeta only

theorem sub_sound {e : Nat} {w : OpWord} {s : Dev} (h0 : s.Sound) : (sub e w s).Sound := by
  unfold sub
  repeat' first
    | with_reducible assumption
    | with_reducible apply b_sound
    | with_reducible apply Dev.regOp_sound
    | with_reducible apply Dev.setG_sound
    | intro x
    | dsimp -zeta only

theorem mul_sound {e : Nat} {w : OpWord} {s : Dev} (h0 : s.Sound) : (mul e w s).Sound := by
  unfold mul
  repeat' first
    | with_reducible assumption
    | with_reducible apply b_sound
    | with_reducible apply Dev.regOp_sound
    | with_reducible apply Dev.setG_sound
    | intro x
    | dsimp -zeta only

theorem andOp_sound {e : Nat} {w : OpWord} {s : Dev} (h0 : s.Sound) : (andOp e w s).Sound := by
  unfold andOp
  repeat' first
    | with_reducible assumption
    | with_reducible apply b_sound
    | with_reducible apply Dev.regOp_sound
    | with_reducible apply Dev.setG_sound
    | intro x
    | dsimp -zeta only

theorem orOp_sound {e : Nat} {w : OpWord} {s : Dev} (h0 : s.Sound) : (orOp e w s).Sound := by
  unfold orOp
  repeat' first
    | with_reducible assumption
    | with_reducible apply b_sound
    | with_reducible apply Dev.regOp_sound
    | with_reducible apply Dev.setG_sound
    | intro x
    | dsimp -zeta only

theorem xorOp_sound {e : Nat} {w : OpWord} {s : Dev} (h0 : s.Sound) : (xorOp e w s).Sound := by
  unfold xorOp
  repeat' first
    | with_reducible assumption
    | with_reducible apply b_sound
    | with_reducible apply Dev.regOp_sound
    | with_reducible apply Dev.setG_sound
    | intro x
    | dsimp -zeta only

theorem shl_sound {e : Nat} {w : OpWord} {s : Dev} (h0 : s.Sound) : (shl e w s).Sound := by
  unfold shl
  repeat' first
    | with_reducible assumption
    | with_reducible apply b_sound
    | with_reducible apply Dev.regOp_sound
    | with_reducible apply Dev.setG_sound
    | intro x
    | dsimp -zeta only

theorem shr_sound {e : Nat} {w : OpWord} {s : Dev} (h0 : s.Sound) : (shr e w s).Sound := by
  unfold shr
  repeat' first
    | with_reducible assumption
    | with_reducible apply b_sound
    | with_reducible apply Dev.regOp_sound
    | with_reducible apply Dev.setG_sound
    | intro x
    | dsimp -zeta only

theorem slt_sound {e : Nat} {w : OpWord} {s : Dev} (h0 : s.Sound) : (slt e w s).Sound := by
  unfold slt
  repeat' first
    | with_reducible assumption
    | with_reducible apply b_sound
    | with_reducible apply Dev.regOp_sound
    | with_reducible apply Dev.setG_sound
    | intro x
    | dsimp -zeta only

theorem mcpy_sound {e : Nat} {w : OpWord} {s : Dev} (h0 : s.Sound) : (mcpy e w s).Sound := by
  unfold mcpy
  repeat' first
    | with_reducible assumption
    | with_reducible apply b_sound
    | with_reducible apply Dev.moveAt_sound
    | with_reducible apply Dev.runOp_sound
    | intro x
    | dsimp -zeta only

theorem mfill_sound {e : Nat} {w : OpWord} {s : Dev} (h0 : s.Sound) : (mfill e w s).Sound := by
  unfold mfill
  repeat' first
    | with_reducible assumption
    | with_reducible apply b_sound
    | with_reducible apply Dev.moveAt_sound
    | with_reducible apply Dev.runOp_sound
    | intro x
    | dsimp -zeta only

theorem vadd_sound {e : Nat} {w : OpWord} {s : Dev} (h0 : s.Sound) : (vadd e w s).Sound := by
  unfold vadd
  repeat' first
    | with_reducible assumption
    | with_reducible apply b_sound
    | with_reducible apply Dev.regOp_sound
    | with_reducible apply Dev.setV_sound
    | intro x
    | dsimp -zeta only

theorem vmul_sound {e : Nat} {w : OpWord} {s : Dev} (h0 : s.Sound) : (vmul e w s).Sound := by
  unfold vmul
  repeat' first
    | with_reducible assumption
    | with_reducible apply b_sound
    | with_reducible apply Dev.regOp_sound
    | with_reducible apply Dev.setV_sound
    | intro x
    | dsimp -zeta only

theorem vmin_sound {e : Nat} {w : OpWord} {s : Dev} (h0 : s.Sound) : (vmin e w s).Sound := by
  unfold vmin
  repeat' first
    | with_reducible assumption
    | with_reducible apply b_sound
    | with_reducible apply Dev.regOp_sound
    | with_reducible apply Dev.setV_sound
    | intro x
    | dsimp -zeta only

theorem vmax_sound {e : Nat} {w : OpWord} {s : Dev} (h0 : s.Sound) : (vmax e w s).Sound := by
  unfold vmax
  repeat' first
    | with_reducible assumption
    | with_reducible apply b_sound
    | with_reducible apply Dev.regOp_sound
    | with_reducible apply Dev.setV_sound
    | intro x
    | dsimp -zeta only

theorem vfma_sound {e : Nat} {w : OpWord} {s : Dev} (h0 : s.Sound) : (vfma e w s).Sound := by
  unfold vfma
  repeat' first
    | with_reducible assumption
    | with_reducible apply b_sound
    | with_reducible apply Dev.regOp_sound
    | with_reducible apply Dev.setV_sound
    | intro x
    | dsimp -zeta only

theorem vbc_sound {e : Nat} {w : OpWord} {s : Dev} (h0 : s.Sound) : (vbc e w s).Sound := by
  unfold vbc
  repeat' first
    | with_reducible assumption
    | with_reducible apply Dev.regOp_sound
    | with_reducible apply Dev.setV_sound
    | intro x
    | dsimp -zeta only

theorem vext_sound {e : Nat} {w : OpWord} {s : Dev} (h0 : s.Sound) : (vext e w s).Sound := by
  unfold vext
  repeat' first
    | with_reducible assumption
    | with_reducible apply Dev.regOp_sound
    | with_reducible apply Dev.setG_sound
    | intro x
    | dsimp -zeta only

theorem Dev.setSlot_sound {s : Dev} {k : Nat} {x : AccSlot} (h0 : s.Sound) : (Dev.setSlot s k x).Sound := by
  unfold Dev.setSlot
  repeat' first
    | with_reducible assumption
    | (intro x; have hx : Dev.Sound x; (on_goal 2 => clear_value x); (on_goal 1 => unfold x))
    | (intro x; (fail_if_success (have q : Engs := x)); (fail_if_success (have q : Svc := x)); (fail_if_success (have q : Trust := x)); (fail_if_success (have q : _ → _ := x)); clear_value x)
    | intro x
    | lift_lets -underBinder
    | (simp only [↓Dev.sound_mk]; with_reducible apply Dev.Sound.parts)
    | dsimp -zeta only
    | dsimp -zeta +zetaDelta only

theorem acz_sound {e : Nat} {w : OpWord} {s : Dev} (h0 : s.Sound) : (acz e w s).Sound := by
  unfold acz
  repeat' first
    | with_reducible assumption
    | with_reducible apply Dev.regOp_sound
    | with_reducible apply Dev.setSlot_sound
    | (intro x; have hx : Dev.Sound x; (on_goal 2 => clear_value x); (on_goal 1 => unfold x))
    | (intro x; (fail_if_success (have q : Engs := x)); (fail_if_success (have q : Svc := x)); (fail_if_success (have q : Trust := x)); (fail_if_success (have q : _ → _ := x)); clear_value x)
    | intro x
    | lift_lets -underBinder
    | (simp only [↓Dev.sound_mk]; with_reducible apply Dev.Sound.parts)
    | with_reducible apply ite_sound
    | dsimp -zeta only
    | split
    | dsimp -zeta +zetaDelta only

theorem aca_sound {e : Nat} {w : OpWord} {s : Dev} (h0 : s.Sound) : (aca e w s).Sound := by
  unfold aca
  repeat' first
    | with_reducible assumption
    | with_reducible apply add_sound
    | with_reducible apply Dev.count_sound
    | with_reducible apply Dev.regOp_sound
    | with_reducible apply Dev.setSlot_sound
    | (intro x; have hx : Dev.Sound x; (on_goal 2 => clear_value x); (on_goal 1 => unfold x))
    | (intro x; (fail_if_success (have q : Engs := x)); (fail_if_success (have q : Svc := x)); (fail_if_success (have q : Trust := x)); (fail_if_success (have q : _ → _ := x)); clear_value x)
    | intro x
    | lift_lets -underBinder
    | (simp only [↓Dev.sound_mk]; with_reducible apply Dev.Sound.parts)
    | with_reducible apply ite_sound
    | dsimp -zeta only
    | split
    | dsimp -zeta +zetaDelta only

theorem acr_sound {e : Nat} {w : OpWord} {s : Dev} (h0 : s.Sound) : (acr e w s).Sound := by
  unfold acr
  repeat' first
    | with_reducible assumption
    | with_reducible apply Dev.freeNat_sound
    | with_reducible refine Dev.freeNat_pair (by with_reducible assumption) ?_
    | with_reducible apply Dev.regOp_sound
    | with_reducible apply Dev.setV_sound
    | with_reducible apply foldl_sound
    | (intro x; have hx : Dev.Sound x; (on_goal 2 => clear_value x); (on_goal 1 => unfold x))
    | (intro x; (fail_if_success (have q : Engs := x)); (fail_if_success (have q : Svc := x)); (fail_if_success (have q : Trust := x)); (fail_if_success (have q : _ → _ := x)); clear_value x)
    | intro x
    | lift_lets -underBinder
    | (simp only [↓Dev.sound_mk]; with_reducible apply Dev.Sound.parts)
    | with_reducible apply ite_sound
    | dsimp -zeta only
    | split
    | dsimp -zeta +zetaDelta only

theorem waitOp_sound {e : Nat} {w : OpWord} {s : Dev} (h0 : s.Sound) : (waitOp e w s).Sound := by
  unfold waitOp
  repeat' first
    | with_reducible assumption
    | with_reducible apply b_sound
    | with_reducible apply Dev.bmEnd_sound
    | with_reducible apply Dev.engFault_sound
    | with_reducible apply Dev.issued_sound
    | with_reducible apply Dev.modEn_sound
    | with_reducible apply Dev.runOp_sound
    | with_reducible apply Dev.setEnState_sound
    | (intro x; have hx : Dev.Sound x; (on_goal 2 => clear_value x); (on_goal 1 => unfold x))
    | (intro x; (fail_if_success (have q : Engs := x)); (fail_if_success (have q : Svc := x)); (fail_if_success (have q : Trust := x)); (fail_if_success (have q : _ → _ := x)); clear_value x)
    | intro x
    | lift_lets -underBinder
    | (simp only [↓Dev.sound_mk]; with_reducible apply Dev.Sound.parts)
    | with_reducible apply ite_sound
    | dsimp -zeta only
    | split
    | dsimp -zeta +zetaDelta only

theorem Dev.waitEnd_sound {s : Dev} {e d v : Nat} (h0 : s.Sound) : (Dev.waitEnd s e d v).Sound := by
  unfold Dev.waitEnd
  repeat' first
    | with_reducible assumption
    | with_reducible apply Dev.modEn_sound
    | with_reducible apply Dev.nextPc_sound
    | with_reducible apply Dev.setEnState_sound
    | with_reducible apply Dev.setG_sound
    | (intro x; have hx : Dev.Sound x; (on_goal 2 => clear_value x); (on_goal 1 => unfold x))
    | (intro x; (fail_if_success (have q : Engs := x)); (fail_if_success (have q : Svc := x)); (fail_if_success (have q : Trust := x)); (fail_if_success (have q : _ → _ := x)); clear_value x)
    | intro x
    | lift_lets -underBinder
    | (simp only [↓Dev.sound_mk]; with_reducible apply Dev.Sound.parts)
    | dsimp -zeta only
    | dsimp -zeta +zetaDelta only

theorem waitMet_sound {e : Nat} {data : List Byte} {s : Dev} (h0 : s.Sound) : (waitMet e data s).Sound := by
  unfold waitMet
  repeat' first
    | with_reducible assumption
    | with_reducible apply b_sound
    | with_reducible apply Dev.takeTurn_sound
    | with_reducible apply Dev.waitEnd_sound
    | (intro x; have hx : Dev.Sound x; (on_goal 2 => clear_value x); (on_goal 1 => unfold x))
    | (intro x; (fail_if_success (have q : Engs := x)); (fail_if_success (have q : Svc := x)); (fail_if_success (have q : Trust := x)); (fail_if_success (have q : _ → _ := x)); clear_value x)
    | intro x
    | lift_lets -underBinder
    | with_reducible apply ite_sound
    | dsimp -zeta only
    | split
    | dsimp -zeta +zetaDelta only

theorem waitTimeout_sound {e : Nat} {s : Dev} (h0 : s.Sound) : (waitTimeout e s).Sound := by
  unfold waitTimeout
  repeat' first
    | with_reducible assumption
    | with_reducible apply Dev.waitEnd_sound
    | intro x
    | with_reducible apply ite_sound
    | dsimp -zeta only
    | split

theorem sig_sound {e : Nat} {w : OpWord} {s : Dev} (h0 : s.Sound) : (sig e w s).Sound := by
  unfold sig
  repeat' first
    | with_reducible assumption
    | with_reducible apply Dev.atomicAt_sound
    | with_reducible apply Dev.runOp_sound
    | intro x
    | dsimp -zeta only

theorem irq_sound {e : Nat} {w : OpWord} {s : Dev} (h0 : s.Sound) : (irq e w s).Sound := by
  unfold irq
  repeat' first
    | with_reducible assumption
    | with_reducible apply Dev.regOp_sound
    | with_reducible apply Dev.signal_sound
    | intro x
    | dsimp -zeta only
    | split

theorem Dev.jump_sound {s : Dev} {e : Nat} {w : OpWord} (h0 : s.Sound) : (Dev.jump s e w).Sound := by
  unfold Dev.jump
  repeat' first
    | with_reducible assumption
    | with_reducible apply Dev.setPc_sound
    | intro x
    | dsimp -zeta only

theorem b_sound {e : Nat} {w : OpWord} {s : Dev} (h0 : s.Sound) : (b e w s).Sound := by
  unfold b
  repeat' first
    | with_reducible assumption
    | with_reducible apply Dev.issued_sound
    | with_reducible apply Dev.jump_sound
    | with_reducible apply Dev.runOp_sound
    | (intro x; have hx : Dev.Sound x; (on_goal 2 => clear_value x); (on_goal 1 => unfold x))
    | (intro x; (fail_if_success (have q : Engs := x)); (fail_if_success (have q : Svc := x)); (fail_if_success (have q : Trust := x)); (fail_if_success (have q : _ → _ := x)); clear_value x)
    | intro x
    | lift_lets -underBinder
    | dsimp -zeta only
    | dsimp -zeta +zetaDelta only

theorem bz_sound {e : Nat} {w : OpWord} {s : Dev} (h0 : s.Sound) : (bz e w s).Sound := by
  unfold bz
  repeat' first
    | with_reducible assumption
    | with_reducible apply Dev.issued_sound
    | with_reducible apply Dev.jump_sound
    | with_reducible apply Dev.nextPc_sound
    | with_reducible apply Dev.runOp_sound
    | (intro x; have hx : Dev.Sound x; (on_goal 2 => clear_value x); (on_goal 1 => unfold x))
    | (intro x; (fail_if_success (have q : Engs := x)); (fail_if_success (have q : Svc := x)); (fail_if_success (have q : Trust := x)); (fail_if_success (have q : _ → _ := x)); clear_value x)
    | intro x
    | lift_lets -underBinder
    | with_reducible apply ite_sound
    | dsimp -zeta only
    | split
    | dsimp -zeta +zetaDelta only

theorem bnz_sound {e : Nat} {w : OpWord} {s : Dev} (h0 : s.Sound) : (bnz e w s).Sound := by
  unfold bnz
  repeat' first
    | with_reducible assumption
    | with_reducible apply Dev.issued_sound
    | with_reducible apply Dev.jump_sound
    | with_reducible apply Dev.nextPc_sound
    | with_reducible apply Dev.runOp_sound
    | (intro x; have hx : Dev.Sound x; (on_goal 2 => clear_value x); (on_goal 1 => unfold x))
    | (intro x; (fail_if_success (have q : Engs := x)); (fail_if_success (have q : Svc := x)); (fail_if_success (have q : Trust := x)); (fail_if_success (have q : _ → _ := x)); clear_value x)
    | intro x
    | lift_lets -underBinder
    | with_reducible apply ite_sound
    | dsimp -zeta only
    | split
    | dsimp -zeta +zetaDelta only

theorem call_sound {e : Nat} {w : OpWord} {s : Dev} (h0 : s.Sound) : (call e w s).Sound := by
  unfold call
  repeat' first
    | with_reducible assumption
    | with_reducible apply Dev.issued_sound
    | with_reducible apply Dev.jump_sound
    | with_reducible apply Dev.runOp_sound
    | with_reducible apply Dev.setG_sound
    | (intro x; have hx : Dev.Sound x; (on_goal 2 => clear_value x); (on_goal 1 => unfold x))
    | (intro x; (fail_if_success (have q : Engs := x)); (fail_if_success (have q : Svc := x)); (fail_if_success (have q : Trust := x)); (fail_if_success (have q : _ → _ := x)); clear_value x)
    | intro x
    | lift_lets -underBinder
    | dsimp -zeta only
    | dsimp -zeta +zetaDelta only

theorem ret_sound {e : Nat} {w : OpWord} {s : Dev} (h0 : s.Sound) : (ret e w s).Sound := by
  unfold ret
  repeat' first
    | with_reducible assumption
    | with_reducible apply Dev.issued_sound
    | with_reducible apply Dev.runOp_sound
    | with_reducible apply Dev.setPc_sound
    | (intro x; have hx : Dev.Sound x; (on_goal 2 => clear_value x); (on_goal 1 => unfold x))
    | (intro x; (fail_if_success (have q : Engs := x)); (fail_if_success (have q : Svc := x)); (fail_if_success (have q : Trust := x)); (fail_if_success (have q : _ → _ := x)); clear_value x)
    | intro x
    | lift_lets -underBinder
    | dsimp -zeta only
    | dsimp -zeta +zetaDelta only

theorem endOp_sound {e : Nat} {w : OpWord} {s : Dev} (h0 : s.Sound) : (endOp e w s).Sound := by
  unfold endOp
  repeat' first
    | with_reducible assumption
    | with_reducible apply Dev.endRun_sound
    | with_reducible apply Dev.issued_sound
    | with_reducible apply Dev.modEn_sound
    | with_reducible apply Dev.runOp_sound
    | (intro x; have hx : Dev.Sound x; (on_goal 2 => clear_value x); (on_goal 1 => unfold x))
    | (intro x; (fail_if_success (have q : Engs := x)); (fail_if_success (have q : Svc := x)); (fail_if_success (have q : Trust := x)); (fail_if_success (have q : _ → _ := x)); clear_value x)
    | intro x
    | lift_lets -underBinder
    | (simp only [↓Dev.sound_mk]; with_reducible apply Dev.Sound.parts)
    | with_reducible apply ite_sound
    | dsimp -zeta only
    | split
    | dsimp -zeta +zetaDelta only

theorem barEngine_sound {e : Nat} {w : OpWord} {s : Dev} (h0 : s.Sound) : (barEngine e w s).Sound := by
  unfold barEngine
  repeat' first
    | with_reducible assumption
    | with_reducible apply Dev.issued_sound
    | with_reducible apply Dev.nextPc_sound
    | with_reducible apply Dev.runOp_sound
    | with_reducible apply Dev.setG_sound
    | intro x
    | with_reducible apply ite_sound
    | dsimp -zeta only
    | split

theorem barCluster_sound {e : Nat} {w : OpWord} {s : Dev} (h0 : s.Sound) : (barCluster e w s).Sound := by
  unfold barCluster
  repeat' first
    | with_reducible assumption
    | with_reducible apply Dev.issued_sound
    | with_reducible apply Dev.modEn_sound
    | with_reducible apply Dev.nextPc_sound
    | with_reducible apply Dev.runOp_sound
    | with_reducible apply Dev.setG_sound
    | intro x
    | with_reducible apply ite_sound
    | dsimp -zeta only
    | split

theorem barSystem_sound {e : Nat} {w : OpWord} {s : Dev} (h0 : s.Sound) : (barSystem e w s).Sound := by
  unfold barSystem
  repeat' first
    | with_reducible assumption
    | with_reducible apply Dev.bmEnd_sound
    | with_reducible apply Dev.flushReads_sound
    | with_reducible apply Dev.issued_sound
    | with_reducible apply Dev.modEn_sound
    | with_reducible apply Dev.nextPc_sound
    | with_reducible apply Dev.runOp_sound
    | with_reducible apply Dev.setG_sound
    | (intro x; have hx : Dev.Sound x; (on_goal 2 => clear_value x); (on_goal 1 => unfold x))
    | (intro x; (fail_if_success (have q : Engs := x)); (fail_if_success (have q : Svc := x)); (fail_if_success (have q : Trust := x)); (fail_if_success (have q : _ → _ := x)); clear_value x)
    | intro x
    | lift_lets -underBinder
    | (simp only [↓Dev.sound_mk]; with_reducible apply Dev.Sound.parts)
    | with_reducible apply ite_sound
    | dsimp -zeta only
    | split
    | dsimp -zeta +zetaDelta only

theorem Dev.flushDone_sound {s : Dev} {e : Nat} (h0 : s.Sound) : (Dev.flushDone s e).Sound := by
  unfold Dev.flushDone
  repeat' first
    | with_reducible assumption
    | (intro x; have hx : Dev.Sound x; (on_goal 2 => clear_value x); (on_goal 1 => unfold x))
    | (intro x; (fail_if_success (have q : Engs := x)); (fail_if_success (have q : Svc := x)); (fail_if_success (have q : Trust := x)); (fail_if_success (have q : _ → _ := x)); clear_value x)
    | intro x
    | lift_lets -underBinder
    | (simp only [↓Dev.sound_mk]; with_reducible apply Dev.Sound.parts)
    | dsimp -zeta only
    | split
    | dsimp -zeta +zetaDelta only

theorem Dev.barrierDone_sound {s : Dev} {e : Nat} {b : Barrier} {bad : Bool} (h0 : s.Sound) : (Dev.barrierDone s e b bad).Sound := by
  unfold Dev.barrierDone
  repeat' first
    | with_reducible assumption
    | with_reducible apply b_sound
    | with_reducible apply Dev.flushDone_sound
    | with_reducible apply Dev.modEn_sound
    | with_reducible apply Dev.nextPc_sound
    | with_reducible apply Dev.setG_sound
    | (intro x; have hx : Dev.Sound x; (on_goal 2 => clear_value x); (on_goal 1 => unfold x))
    | (intro x; (fail_if_success (have q : Engs := x)); (fail_if_success (have q : Svc := x)); (fail_if_success (have q : Trust := x)); (fail_if_success (have q : _ → _ := x)); clear_value x)
    | intro x
    | lift_lets -underBinder
    | (simp only [↓Dev.sound_mk]; with_reducible apply Dev.Sound.parts)
    | with_reducible apply ite_sound
    | dsimp -zeta only
    | split
    | dsimp -zeta +zetaDelta only

theorem systemBarrierComplete_sound {e : Nat} {oks : List Bool} {s : Dev} (h0 : s.Sound) : (systemBarrierComplete e oks s).Sound := by
  unfold systemBarrierComplete
  repeat' first
    | with_reducible assumption
    | with_reducible apply b_sound
    | with_reducible apply Dev.barrierDone_sound
    | (intro x; have hx : Dev.Sound x; (on_goal 2 => clear_value x); (on_goal 1 => unfold x))
    | (intro x; (fail_if_success (have q : Engs := x)); (fail_if_success (have q : Svc := x)); (fail_if_success (have q : Trust := x)); (fail_if_success (have q : _ → _ := x)); clear_value x)
    | intro x
    | lift_lets -underBinder
    | with_reducible apply ite_sound
    | dsimp -zeta only
    | split
    | dsimp -zeta +zetaDelta only

theorem storeVisible_sound {e seq : Nat} {s : Dev} (h0 : s.Sound) : (storeVisible e seq s).Sound := by
  unfold storeVisible
  repeat' first
    | with_reducible assumption
    | with_reducible apply Dev.fcount_sound
    | with_reducible apply Dev.modEn_sound
    | with_reducible apply Dev.takeTurn_sound
    | with_reducible apply Dev.writeStore_sound
    | (intro x; have hx : Dev.Sound x; (on_goal 2 => clear_value x); (on_goal 1 => unfold x))
    | (intro x; (fail_if_success (have q : Engs := x)); (fail_if_success (have q : Svc := x)); (fail_if_success (have q : Trust := x)); (fail_if_success (have q : _ → _ := x)); clear_value x)
    | intro x
    | lift_lets -underBinder
    | (simp only [↓Dev.sound_mk]; with_reducible apply Dev.Sound.parts)
    | with_reducible apply ite_sound
    | dsimp -zeta only
    | split
    | dsimp -zeta +zetaDelta only

theorem Dev.accessEnd_sound {s : Dev} {e : Nat} {a : Access} {r : AccEnd} (h0 : s.Sound) : (Dev.accessEnd s e a r).Sound := by
  unfold Dev.accessEnd
  repeat' first
    | with_reducible assumption
    | with_reducible apply Dev.accError_sound
    | with_reducible apply Dev.accFinish_sound
    | with_reducible apply Dev.fcount_sound
    | (intro x; have hx : Dev.Sound x; (on_goal 2 => clear_value x); (on_goal 1 => unfold x))
    | (intro x; (fail_if_success (have q : Engs := x)); (fail_if_success (have q : Svc := x)); (fail_if_success (have q : Trust := x)); (fail_if_success (have q : _ → _ := x)); clear_value x)
    | intro x
    | lift_lets -underBinder
    | with_reducible apply ite_sound
    | dsimp -zeta only
    | split
    | dsimp -zeta +zetaDelta only

theorem accessComplete_sound {e seq : Nat} {r : AccEnd} {s : Dev} (h0 : s.Sound) : (accessComplete e seq r s).Sound := by
  unfold accessComplete
  repeat' first
    | with_reducible assumption
    | with_reducible apply Dev.accessEnd_sound
    | with_reducible apply Dev.takeTurn_sound
    | (intro x; have hx : Dev.Sound x; (on_goal 2 => clear_value x); (on_goal 1 => unfold x))
    | (intro x; (fail_if_success (have q : Engs := x)); (fail_if_success (have q : Svc := x)); (fail_if_success (have q : Trust := x)); (fail_if_success (have q : _ → _ := x)); clear_value x)
    | intro x
    | lift_lets -underBinder
    | with_reducible apply ite_sound
    | dsimp -zeta only
    | split
    | dsimp -zeta +zetaDelta only

theorem deviceLoadReturn_sound {e : Nat} {r : AccEnd} {s : Dev} (h0 : s.Sound) : (deviceLoadReturn e r s).Sound := by
  unfold deviceLoadReturn
  repeat' first
    | with_reducible assumption
    | with_reducible apply Dev.accessEnd_sound
    | (intro x; have hx : Dev.Sound x; (on_goal 2 => clear_value x); (on_goal 1 => unfold x))
    | (intro x; (fail_if_success (have q : Engs := x)); (fail_if_success (have q : Svc := x)); (fail_if_success (have q : Trust := x)); (fail_if_success (have q : _ → _ := x)); clear_value x)
    | intro x
    | lift_lets -underBinder
    | dsimp -zeta only
    | split
    | dsimp -zeta +zetaDelta only

theorem prefetchEntryExpiry_sound {e addr : Nat} {s : Dev} (h0 : s.Sound) : (prefetchEntryExpiry e addr s).Sound := by
  unfold prefetchEntryExpiry
  repeat' first
    | with_reducible assumption
    | with_reducible apply Dev.modEn_sound
    | (intro x; have hx : Dev.Sound x; (on_goal 2 => clear_value x); (on_goal 1 => unfold x))
    | (intro x; (fail_if_success (have q : Engs := x)); (fail_if_success (have q : Svc := x)); (fail_if_success (have q : Trust := x)); (fail_if_success (have q : _ → _ := x)); clear_value x)
    | intro x
    | lift_lets -underBinder
    | (simp only [↓Dev.sound_mk]; with_reducible apply Dev.Sound.parts)
    | dsimp -zeta only
    | dsimp -zeta +zetaDelta only

theorem engineSample_sound {e ahead : Nat} {s : Dev} (h0 : s.Sound) : (engineSample e ahead s).Sound := by
  unfold engineSample
  repeat' first
    | with_reducible assumption
    | with_reducible apply Dev.fset_sound
    | with_reducible apply Dev.fsets_sound
    | with_reducible apply Dev.modEn_sound
    | with_reducible apply Dev.raise_sound
    | (intro x; have hx : Dev.Sound x; (on_goal 2 => clear_value x); (on_goal 1 => unfold x))
    | (intro x; (fail_if_success (have q : Engs := x)); (fail_if_success (have q : Svc := x)); (fail_if_success (have q : Trust := x)); (fail_if_success (have q : _ → _ := x)); clear_value x)
    | intro x
    | lift_lets -underBinder
    | (simp only [↓Dev.sound_mk]; with_reducible apply Dev.Sound.parts)
    | with_reducible apply ite_sound
    | dsimp -zeta only
    | split
    | dsimp -zeta +zetaDelta only

end Sys2Proof.Machine
end

