-- ==== Sys2Proof/Laws/SoundRun.lean ====
section
/-! SUPPORT. Every operation of Machine/Run.lean keeps the switch sound. -/
set_option linter.unusedTactic false
set_option linter.unusedSimpArgs false
set_option linter.unreachableTactic false
namespace Sys2Proof.Machine

theorem Dev.startRun_sound {s : Dev} {c slot : Nat} {w : WaitRun} {es : List Nat} (h0 : s.Sound) : (Dev.startRun s c slot w es).Sound := by
  unfold Dev.startRun
  repeat' first
    | with_reducible assumption
    | with_reducible apply Dev.drop_sound
    | with_reducible apply Dev.fset_sound
    | with_reducible apply Dev.fsets_sound
    | with_reducible apply Dev.modEn_sound
    | with_reducible apply Dev.startDesc_sound
    | with_reducible apply each_sound
    | (intro x; have hx : Dev.Sound x; (on_goal 2 => clear_value x); (on_goal 1 => unfold x))
    | (intro x; (fail_if_success (have q : Engs := x)); (fail_if_success (have q : Svc := x)); (fail_if_success (have q : Trust := x)); (fail_if_success (have q : _ → _ := x)); clear_value x)
    | intro x
    | lift_lets -underBinder
    | (simp only [↓Dev.sound_mk]; with_reducible apply Dev.Sound.parts)
    | dsimp -zeta only
    | dsimp -zeta +zetaDelta only

theorem runDispatch_sound {cluster : Nat} {s : Dev} (h0 : s.Sound) : (runDispatch cluster s).Sound := by
  unfold runDispatch
  repeat' first
    | with_reducible assumption
    | with_reducible apply Dev.complete_sound
    | with_reducible apply Dev.setResidents_sound
    | with_reducible apply Dev.startRun_sound
    | with_reducible apply foldl_sound
    | (intro x; have hx : Dev.Sound x; (on_goal 2 => clear_value x); (on_goal 1 => unfold x))
    | (intro x; (fail_if_success (have q : Engs := x)); (fail_if_success (have q : Svc := x)); (fail_if_success (have q : Trust := x)); (fail_if_success (have q : _ → _ := x)); clear_value x)
    | intro x
    | lift_lets -underBinder
    | (simp only [↓Dev.sound_mk]; with_reducible apply Dev.Sound.parts)
    | with_reducible apply ite_sound
    | dsimp -zeta only
    | split
    | dsimp -zeta +zetaDelta only

theorem quantumBoundary_sound {s : Dev} (h0 : s.Sound) : (quantumBoundary s).Sound := by
  unfold quantumBoundary
  repeat' first
    | with_reducible assumption
    | with_reducible apply foldl_sound
    | (intro x; have hx : Dev.Sound x; (on_goal 2 => clear_value x); (on_goal 1 => unfold x))
    | (intro x; (fail_if_success (have q : Engs := x)); (fail_if_success (have q : Svc := x)); (fail_if_success (have q : Trust := x)); (fail_if_success (have q : _ → _ := x)); clear_value x)
    | intro x
    | lift_lets -underBinder
    | (simp only [↓Dev.sound_mk]; with_reducible apply Dev.Sound.parts)
    | with_reducible apply ite_sound
    | dsimp -zeta only
    | split
    | dsimp -zeta +zetaDelta only

theorem runLimitExpiry_sound {run : Nat} {s : Dev} (h0 : s.Sound) : (runLimitExpiry run s).Sound := by
  unfold runLimitExpiry
  repeat' first
    | with_reducible assumption
    | with_reducible apply Dev.engFaultOpen_sound
    | intro x
    | with_reducible apply ite_sound
    | dsimp -zeta only
    | split

theorem Dev.firmDone_sound {s : Dev} {q idx : Nat} (h0 : s.Sound) : (Dev.firmDone s q idx).Sound := by
  unfold Dev.firmDone
  repeat' first
    | with_reducible assumption
    | (intro x; have hx : Dev.Sound x; (on_goal 2 => clear_value x); (on_goal 1 => unfold x))
    | (intro x; (fail_if_success (have q : Engs := x)); (fail_if_success (have q : Svc := x)); (fail_if_success (have q : Trust := x)); (fail_if_success (have q : _ → _ := x)); clear_value x)
    | intro x
    | lift_lets -underBinder
    | (simp only [↓Dev.sound_mk]; with_reducible apply Dev.Sound.parts)
    | dsimp -zeta only
    | dsimp -zeta +zetaDelta only

theorem Dev.copyFinish_sound {s : Dev} {q vs fn : Nat} {d : Desc} {data : List Byte} (h0 : s.Sound) : (Dev.copyFinish s q vs fn d data).Sound := by
  unfold Dev.copyFinish
  repeat' first
    | with_reducible assumption
    | with_reducible apply b_sound
    | with_reducible apply Dev.complete_sound
    | with_reducible apply Dev.firmDone_sound
    | with_reducible apply Dev.rangeWrite_sound
    | (intro x; have hx : Dev.Sound x; (on_goal 2 => clear_value x); (on_goal 1 => unfold x))
    | (intro x; (fail_if_success (have q : Engs := x)); (fail_if_success (have q : Svc := x)); (fail_if_success (have q : Trust := x)); (fail_if_success (have q : _ → _ := x)); clear_value x)
    | intro x
    | lift_lets -underBinder
    | (simp only [↓Dev.sound_mk]; with_reducible apply Dev.Sound.parts)
    | dsimp -zeta only
    | dsimp -zeta +zetaDelta only

theorem copyDescriptor_sound {q : Nat} {s : Dev} (h0 : s.Sound) : (copyDescriptor q s).Sound := by
  unfold copyDescriptor
  repeat' first
    | with_reducible assumption
    | with_reducible apply Dev.complete_sound
    | with_reducible apply Dev.emit_sound
    | with_reducible apply Dev.sfSend_sound
    | with_reducible apply Dev.startDesc_sound
    | (intro x; have hx : Dev.Sound x; (on_goal 2 => clear_value x); (on_goal 1 => unfold x))
    | (intro x; (fail_if_success (have q : Engs := x)); (fail_if_success (have q : Svc := x)); (fail_if_success (have q : Trust := x)); (fail_if_success (have q : _ → _ := x)); clear_value x)
    | intro x
    | lift_lets -underBinder
    | (simp only [↓Dev.sound_mk]; with_reducible apply Dev.Sound.parts)
    | with_reducible apply ite_sound
    | dsimp -zeta only
    | split
    | dsimp -zeta +zetaDelta only

theorem copyComplete_sound {q moved : Nat} {data : List Byte} {s : Dev} (h0 : s.Sound) : (copyComplete q moved data s).Sound := by
  unfold copyComplete
  repeat' first
    | with_reducible assumption
    | with_reducible apply Dev.copyFinish_sound
    | intro x
    | with_reducible apply ite_sound
    | dsimp -zeta only
    | split

theorem nopDescriptor_sound {q : Nat} {s : Dev} (h0 : s.Sound) : (nopDescriptor q s).Sound := by
  unfold nopDescriptor
  repeat' first
    | with_reducible assumption
    | with_reducible apply Dev.complete_sound
    | with_reducible apply Dev.startDesc_sound
    | (intro x; have hx : Dev.Sound x; (on_goal 2 => clear_value x); (on_goal 1 => unfold x))
    | (intro x; (fail_if_success (have q : Engs := x)); (fail_if_success (have q : Svc := x)); (fail_if_success (have q : Trust := x)); (fail_if_success (have q : _ → _ := x)); clear_value x)
    | intro x
    | lift_lets -underBinder
    | (simp only [↓Dev.sound_mk]; with_reducible apply Dev.Sound.parts)
    | with_reducible apply ite_sound
    | dsimp -zeta only
    | split
    | dsimp -zeta +zetaDelta only

end Sys2Proof.Machine
end

