-- ==== Sys2Proof/Laws/SoundColl.lean ====
section
/-! SUPPORT. Every operation of Machine/Coll.lean keeps the switch sound. -/
set_option linter.unusedTactic false
set_option linter.unusedSimpArgs false
set_option linter.unreachableTactic false
namespace Sys2Proof.Machine

theorem Dev.modGrp_sound {s : Dev} {g : Nat} {f : Grp → Grp} (h0 : s.Sound) : (Dev.modGrp s g f).Sound := by
  unfold Dev.modGrp
  repeat' first
    | with_reducible assumption
    | (intro x; have hx : Dev.Sound x; (on_goal 2 => clear_value x); (on_goal 1 => unfold x))
    | (intro x; (fail_if_success (have q : Engs := x)); (fail_if_success (have q : Svc := x)); (fail_if_success (have q : Trust := x)); (fail_if_success (have q : _ → _ := x)); clear_value x)
    | intro x
    | lift_lets -underBinder
    | (simp only [↓Dev.sound_mk]; with_reducible apply Dev.Sound.parts)
    | dsimp -zeta only
    | dsimp -zeta +zetaDelta only

theorem Dev.modInst_sound {s : Dev} {g : Nat} {f : CollInst → CollInst} (h0 : s.Sound) : (Dev.modInst s g f).Sound := by
  unfold Dev.modInst
  repeat' first
    | with_reducible assumption
    | with_reducible apply Dev.modGrp_sound
    | (intro x; have hx : Dev.Sound x; (on_goal 2 => clear_value x); (on_goal 1 => unfold x))
    | (intro x; (fail_if_success (have q : Engs := x)); (fail_if_success (have q : Svc := x)); (fail_if_success (have q : Trust := x)); (fail_if_success (have q : _ → _ := x)); clear_value x)
    | intro x
    | lift_lets -underBinder
    | (simp only [↓Dev.sound_mk]; with_reducible apply Dev.Sound.parts)
    | dsimp -zeta only
    | dsimp -zeta +zetaDelta only

theorem Dev.firmDrop_sound {s : Dev} {q idx : Nat} (h0 : s.Sound) : (Dev.firmDrop s q idx).Sound := by
  unfold Dev.firmDrop
  repeat' first
    | with_reducible assumption
    | with_reducible apply Dev.sfQuarantine_sound
    | with_reducible apply each_sound
    | intro x
    | dsimp -zeta only

theorem Dev.collSend_sound {s : Dev} {dst : List Nat} {m : CollMsg} (h0 : s.Sound) : (Dev.collSend s dst m).Sound := by
  unfold Dev.collSend
  repeat' first
    | with_reducible assumption
    | with_reducible apply Dev.emit_sound
    | with_reducible apply each_sound
    | intro x
    | dsimp -zeta only

theorem Dev.collEnd_sound {s : Dev} {g : Nat} {reqs : List CollReq} {status flags : Nat} (h0 : s.Sound) : (Dev.collEnd s g reqs status flags).Sound := by
  unfold Dev.collEnd
  repeat' first
    | with_reducible assumption
    | with_reducible apply Dev.complete_sound
    | with_reducible apply Dev.count_sound
    | with_reducible apply Dev.firmDrop_sound
    | with_reducible apply Dev.fsets_sound
    | with_reducible apply Dev.modGrp_sound
    | with_reducible apply each_sound
    | (intro x; have hx : Dev.Sound x; (on_goal 2 => clear_value x); (on_goal 1 => unfold x))
    | (intro x; (fail_if_success (have q : Engs := x)); (fail_if_success (have q : Svc := x)); (fail_if_success (have q : Trust := x)); (fail_if_success (have q : _ → _ := x)); clear_value x)
    | intro x
    | lift_lets -underBinder
    | (simp only [↓Dev.sound_mk]; with_reducible apply Dev.Sound.parts)
    | with_reducible apply ite_sound
    | dsimp -zeta only
    | split
    | dsimp -zeta +zetaDelta only

theorem Dev.collAbortAs_sound {s : Dev} {g status said : Nat} {except : Option Nat} (h0 : s.Sound) : (Dev.collAbortAs s g status said except).Sound := by
  unfold Dev.collAbortAs
  repeat' first
    | with_reducible assumption
    | with_reducible apply Dev.collEnd_sound
    | with_reducible apply Dev.collSend_sound
    | with_reducible apply Dev.modGrp_sound
    | (intro x; have hx : Dev.Sound x; (on_goal 2 => clear_value x); (on_goal 1 => unfold x))
    | (intro x; (fail_if_success (have q : Engs := x)); (fail_if_success (have q : Svc := x)); (fail_if_success (have q : Trust := x)); (fail_if_success (have q : _ → _ := x)); clear_value x)
    | intro x
    | lift_lets -underBinder
    | (simp only [↓Dev.sound_mk]; with_reducible apply Dev.Sound.parts)
    | with_reducible apply ite_sound
    | dsimp -zeta only
    | split
    | dsimp -zeta +zetaDelta only

theorem Dev.collFail_sound {s : Dev} {g status : Nat} (h0 : s.Sound) : (Dev.collFail s g status).Sound := by
  unfold Dev.collFail
  repeat' first
    | with_reducible assumption
    | with_reducible apply Dev.collAbortAs_sound
    | intro x
    | dsimp -zeta only

theorem Dev.owe_sound {s : Dev} {g kid : Nat} (h0 : s.Sound) : (Dev.owe s g kid).Sound := by
  unfold Dev.owe
  repeat' first
    | with_reducible assumption
    | with_reducible apply Dev.emit_sound
    | with_reducible apply Dev.modGrp_sound
    | (intro x; have hx : Dev.Sound x; (on_goal 2 => clear_value x); (on_goal 1 => unfold x))
    | (intro x; (fail_if_success (have q : Engs := x)); (fail_if_success (have q : Svc := x)); (fail_if_success (have q : Trust := x)); (fail_if_success (have q : _ → _ := x)); clear_value x)
    | intro x
    | lift_lets -underBinder
    | (simp only [↓Dev.sound_mk]; with_reducible apply Dev.Sound.parts)
    | with_reducible apply ite_sound
    | dsimp -zeta only
    | split
    | dsimp -zeta +zetaDelta only

theorem Dev.chunkUsed_sound {s : Dev} {g k n : Nat} {i : CollInst} (h0 : s.Sound) : (Dev.chunkUsed s g k n i).Sound := by
  unfold Dev.chunkUsed
  repeat' first
    | with_reducible assumption
    | with_reducible apply Dev.count_sound
    | with_reducible apply Dev.modInst_sound
    | with_reducible apply Dev.owe_sound
    | with_reducible apply each_sound
    | (intro x; have hx : Dev.Sound x; (on_goal 2 => clear_value x); (on_goal 1 => unfold x))
    | (intro x; (fail_if_success (have q : Engs := x)); (fail_if_success (have q : Svc := x)); (fail_if_success (have q : Trust := x)); (fail_if_success (have q : _ → _ := x)); clear_value x)
    | intro x
    | lift_lets -underBinder
    | (simp only [↓Dev.sound_mk]; with_reducible apply Dev.Sound.parts)
    | dsimp -zeta only
    | dsimp -zeta +zetaDelta only

theorem Dev.sendUps_sound {s : Dev} {g parent : Nat} {n_ : Nat} (h0 : s.Sound) : (Dev.sendUps s g parent n_).Sound := by
  induction n_ generalizing s with
  | zero => exact h0
  | succ n_ ih =>
    unfold Dev.sendUps
    repeat' first
      | with_reducible assumption
      | with_reducible apply ih
      | with_reducible apply Dev.chunkUsed_sound
      | with_reducible apply Dev.count_sound
      | with_reducible apply Dev.emit_sound
      | with_reducible apply Dev.modGrp_sound
      | with_reducible apply Dev.modInst_sound
      | (intro x; have hx : Dev.Sound x; (on_goal 2 => clear_value x); (on_goal 1 => unfold x))
      | (intro x; (fail_if_success (have q : Engs := x)); (fail_if_success (have q : Svc := x)); (fail_if_success (have q : Trust := x)); (fail_if_success (have q : _ → _ := x)); clear_value x)
      | intro x
      | lift_lets -underBinder
      | (simp only [↓Dev.sound_mk]; with_reducible apply Dev.Sound.parts)
      | with_reducible apply ite_sound
      | dsimp -zeta only
      | split
      | dsimp -zeta +zetaDelta only

theorem Dev.collWrite_sound {s : Dev} {i : CollInst} {off : Nat} {b : List Byte} (h0 : s.Sound) : (Dev.collWrite s i off b).Sound := by
  unfold Dev.collWrite
  repeat' first
    | with_reducible assumption
    | with_reducible apply b_sound
    | with_reducible apply Dev.rangeWrite_sound
    | with_reducible apply each_sound
    | intro x
    | with_reducible apply ite_sound
    | dsimp -zeta only
    | split

theorem Dev.rootDown_sound {s : Dev} {g : Nat} {n_ : Nat} (h0 : s.Sound) : (Dev.rootDown s g n_).Sound := by
  induction n_ generalizing s with
  | zero => exact h0
  | succ n_ ih =>
    unfold Dev.rootDown
    repeat' first
      | with_reducible assumption
      | with_reducible apply ih
      | with_reducible apply b_sound
      | with_reducible apply Dev.chunkUsed_sound
      | with_reducible apply Dev.collSend_sound
      | with_reducible apply Dev.collWrite_sound
      | with_reducible apply Dev.count_sound
      | with_reducible apply Dev.modInst_sound
      | with_reducible apply each_sound
      | with_reducible apply foldl_sound
      | (intro x; have hx : Dev.Sound x; (on_goal 2 => clear_value x); (on_goal 1 => unfold x))
      | (intro x; (fail_if_success (have q : Engs := x)); (fail_if_success (have q : Svc := x)); (fail_if_success (have q : Trust := x)); (fail_if_success (have q : _ → _ := x)); clear_value x)
      | intro x
      | lift_lets -underBinder
      | (simp only [↓Dev.sound_mk]; with_reducible apply Dev.Sound.parts)
      | with_reducible apply ite_sound
      | dsimp -zeta only
      | split
      | dsimp -zeta +zetaDelta only

theorem Dev.rootCast_sound {s : Dev} {g : Nat} {n_ : Nat} (h0 : s.Sound) : (Dev.rootCast s g n_).Sound := by
  induction n_ generalizing s with
  | zero => exact h0
  | succ n_ ih =>
    unfold Dev.rootCast
    repeat' first
      | with_reducible assumption
      | with_reducible apply ih
      | with_reducible apply b_sound
      | with_reducible apply Dev.collSend_sound
      | with_reducible apply Dev.collWrite_sound
      | with_reducible apply Dev.count_sound
      | with_reducible apply Dev.drop_sound
      | with_reducible apply Dev.modInst_sound
      | (intro x; have hx : Dev.Sound x; (on_goal 2 => clear_value x); (on_goal 1 => unfold x))
      | (intro x; (fail_if_success (have q : Engs := x)); (fail_if_success (have q : Svc := x)); (fail_if_success (have q : Trust := x)); (fail_if_success (have q : _ → _ := x)); clear_value x)
      | intro x
      | lift_lets -underBinder
      | (simp only [↓Dev.sound_mk]; with_reducible apply Dev.Sound.parts)
      | with_reducible apply ite_sound
      | dsimp -zeta only
      | split
      | dsimp -zeta +zetaDelta only

theorem Dev.collAdvance_sound {s : Dev} {g : Nat} (h0 : s.Sound) : (Dev.collAdvance s g).Sound := by
  unfold Dev.collAdvance
  repeat' first
    | with_reducible assumption
    | with_reducible apply Dev.collEnd_sound
    | with_reducible apply Dev.collSend_sound
    | with_reducible apply Dev.count_sound
    | with_reducible apply Dev.emit_sound
    | with_reducible apply Dev.modGrp_sound
    | with_reducible apply Dev.modInst_sound
    | with_reducible apply Dev.rootCast_sound
    | with_reducible apply Dev.rootDown_sound
    | with_reducible apply Dev.sendUps_sound
    | (intro x; have hx : Dev.Sound x; (on_goal 2 => clear_value x); (on_goal 1 => unfold x))
    | (intro x; (fail_if_success (have q : Engs := x)); (fail_if_success (have q : Svc := x)); (fail_if_success (have q : Trust := x)); (fail_if_success (have q : _ → _ := x)); clear_value x)
    | intro x
    | lift_lets -underBinder
    | (simp only [↓Dev.sound_mk]; with_reducible apply Dev.Sound.parts)
    | with_reducible apply ite_sound
    | dsimp -zeta only
    | split
    | dsimp -zeta +zetaDelta only

theorem Dev.useUp_sound {s : Dev} {g kid : Nat} {m : CollMsg} (h0 : s.Sound) : (Dev.useUp s g kid m).Sound := by
  unfold Dev.useUp
  repeat' first
    | with_reducible assumption
    | with_reducible apply Dev.collAdvance_sound
    | with_reducible apply Dev.collFail_sound
    | with_reducible apply Dev.count_sound
    | with_reducible apply Dev.modInst_sound
    | (intro x; have hx : Dev.Sound x; (on_goal 2 => clear_value x); (on_goal 1 => unfold x))
    | (intro x; (fail_if_success (have q : Engs := x)); (fail_if_success (have q : Svc := x)); (fail_if_success (have q : Trust := x)); (fail_if_success (have q : _ → _ := x)); clear_value x)
    | intro x
    | lift_lets -underBinder
    | (simp only [↓Dev.sound_mk]; with_reducible apply Dev.Sound.parts)
    | with_reducible apply ite_sound
    | dsimp -zeta only
    | split
    | dsimp -zeta +zetaDelta only

theorem Dev.useDown_sound {s : Dev} {g : Nat} {m : CollMsg} (h0 : s.Sound) : (Dev.useDown s g m).Sound := by
  unfold Dev.useDown
  repeat' first
    | with_reducible assumption
    | with_reducible apply b_sound
    | with_reducible apply Dev.collEnd_sound
    | with_reducible apply Dev.collFail_sound
    | with_reducible apply Dev.collSend_sound
    | with_reducible apply Dev.collWrite_sound
    | with_reducible apply Dev.count_sound
    | with_reducible apply Dev.modInst_sound
    | (intro x; have hx : Dev.Sound x; (on_goal 2 => clear_value x); (on_goal 1 => unfold x))
    | (intro x; (fail_if_success (have q : Engs := x)); (fail_if_success (have q : Svc := x)); (fail_if_success (have q : Trust := x)); (fail_if_success (have q : _ → _ := x)); clear_value x)
    | intro x
    | lift_lets -underBinder
    | (simp only [↓Dev.sound_mk]; with_reducible apply Dev.Sound.parts)
    | with_reducible apply ite_sound
    | dsimp -zeta only
    | split
    | dsimp -zeta +zetaDelta only

theorem Dev.collUse_sound {s : Dev} {g src : Nat} {m : CollMsg} (h0 : s.Sound) : (Dev.collUse s g src m).Sound := by
  unfold Dev.collUse
  repeat' first
    | with_reducible assumption
    | with_reducible apply Dev.collAbortAs_sound
    | with_reducible apply Dev.collAdvance_sound
    | with_reducible apply Dev.collFail_sound
    | with_reducible apply Dev.modGrp_sound
    | with_reducible apply Dev.useDown_sound
    | with_reducible apply Dev.useUp_sound
    | (intro x; have hx : Dev.Sound x; (on_goal 2 => clear_value x); (on_goal 1 => unfold x))
    | (intro x; (fail_if_success (have q : Engs := x)); (fail_if_success (have q : Svc := x)); (fail_if_success (have q : Trust := x)); (fail_if_success (have q : _ → _ := x)); clear_value x)
    | intro x
    | lift_lets -underBinder
    | (simp only [↓Dev.sound_mk]; with_reducible apply Dev.Sound.parts)
    | with_reducible apply ite_sound
    | dsimp -zeta only
    | split
    | dsimp -zeta +zetaDelta only

theorem Dev.collStart_sound {s : Dev} {g : Nat} (h0 : s.Sound) : (Dev.collStart s g).Sound := by
  unfold Dev.collStart
  repeat' first
    | with_reducible assumption
    | with_reducible apply Dev.collAdvance_sound
    | with_reducible apply Dev.collFail_sound
    | with_reducible apply Dev.count_sound
    | with_reducible apply Dev.drop_sound
    | with_reducible apply Dev.fset_sound
    | with_reducible apply Dev.modGrp_sound
    | (intro x; have hx : Dev.Sound x; (on_goal 2 => clear_value x); (on_goal 1 => unfold x))
    | (intro x; (fail_if_success (have q : Engs := x)); (fail_if_success (have q : Svc := x)); (fail_if_success (have q : Trust := x)); (fail_if_success (have q : _ → _ := x)); clear_value x)
    | intro x
    | lift_lets -underBinder
    | (simp only [↓Dev.sound_mk]; with_reducible apply Dev.Sound.parts)
    | with_reducible apply ite_sound
    | dsimp -zeta only
    | split
    | dsimp -zeta +zetaDelta only

theorem Dev.collPump_sound {s : Dev} {g : Nat} {n_ : Nat} (h0 : s.Sound) : (Dev.collPump s g n_).Sound := by
  induction n_ generalizing s with
  | zero => exact h0
  | succ n_ ih =>
    unfold Dev.collPump
    repeat' first
      | with_reducible assumption
      | with_reducible apply ih
      | with_reducible apply Dev.collStart_sound
      | with_reducible apply Dev.collUse_sound
      | with_reducible apply Dev.modGrp_sound
      | (intro x; have hx : Dev.Sound x; (on_goal 2 => clear_value x); (on_goal 1 => unfold x))
      | (intro x; (fail_if_success (have q : Engs := x)); (fail_if_success (have q : Svc := x)); (fail_if_success (have q : Trust := x)); (fail_if_success (have q : _ → _ := x)); clear_value x)
      | intro x
      | lift_lets -underBinder
      | (simp only [↓Dev.sound_mk]; with_reducible apply Dev.Sound.parts)
      | with_reducible apply ite_sound
      | dsimp -zeta only
      | split
      | dsimp -zeta +zetaDelta only

theorem Dev.collGo_sound {s : Dev} {g : Nat} (h0 : s.Sound) : (Dev.collGo s g).Sound := by
  unfold Dev.collGo
  repeat' first
    | with_reducible assumption
    | with_reducible apply Dev.collPump_sound
    | intro x
    | dsimp -zeta only

theorem Dev.collArrive_sound {s : Dev} {src : Nat} {m : CollMsg} (h0 : s.Sound) : (Dev.collArrive s src m).Sound := by
  unfold Dev.collArrive
  repeat' first
    | with_reducible assumption
    | with_reducible apply Dev.collFail_sound
    | with_reducible apply Dev.collGo_sound
    | with_reducible apply Dev.collUse_sound
    | with_reducible apply Dev.count_sound
    | with_reducible apply Dev.errLog_sound
    | with_reducible apply Dev.modGrp_sound
    | (intro x; have hx : Dev.Sound x; (on_goal 2 => clear_value x); (on_goal 1 => unfold x))
    | (intro x; (fail_if_success (have q : Engs := x)); (fail_if_success (have q : Svc := x)); (fail_if_success (have q : Trust := x)); (fail_if_success (have q : _ → _ := x)); clear_value x)
    | intro x
    | lift_lets -underBinder
    | (simp only [↓Dev.sound_mk]; with_reducible apply Dev.Sound.parts)
    | with_reducible apply ite_sound
    | dsimp -zeta only
    | split
    | dsimp -zeta +zetaDelta only

theorem Dev.abortArrive_sound {s : Dev} {g src : Nat} {m : CollMsg} (h0 : s.Sound) : (Dev.abortArrive s g src m).Sound := by
  unfold Dev.abortArrive
  repeat' first
    | with_reducible assumption
    | with_reducible apply Dev.collGo_sound
    | with_reducible apply Dev.collUse_sound
    | with_reducible apply Dev.count_sound
    | intro x
    | with_reducible apply ite_sound
    | dsimp -zeta only
    | split

theorem Dev.collCycle_sound {s : Dev} (h0 : s.Sound) : (Dev.collCycle s).Sound := by
  unfold Dev.collCycle
  repeat' first
    | with_reducible assumption
    | with_reducible apply Dev.abortArrive_sound
    | with_reducible apply Dev.modGrp_sound
    | with_reducible apply each_sound
    | (intro x; have hx : Dev.Sound x; (on_goal 2 => clear_value x); (on_goal 1 => unfold x))
    | (intro x; (fail_if_success (have q : Engs := x)); (fail_if_success (have q : Svc := x)); (fail_if_success (have q : Trust := x)); (fail_if_success (have q : _ → _ := x)); clear_value x)
    | intro x
    | lift_lets -underBinder
    | (simp only [↓Dev.sound_mk]; with_reducible apply Dev.Sound.parts)
    | dsimp -zeta only
    | dsimp -zeta +zetaDelta only

theorem collDescriptor_sound {q : Nat} {data : List Byte} {s : Dev} (h0 : s.Sound) : (collDescriptor q data s).Sound := by
  unfold collDescriptor
  repeat' first
    | with_reducible assumption
    | with_reducible apply Dev.collGo_sound
    | with_reducible apply Dev.complete_sound
    | with_reducible apply Dev.count_sound
    | with_reducible apply Dev.drop_sound
    | with_reducible apply Dev.emit_sound
    | with_reducible apply Dev.modGrp_sound
    | with_reducible apply Dev.sfSend_sound
    | with_reducible apply Dev.startDesc_sound
    | (intro x; have hx : Dev.Sound x; (on_goal 2 => clear_value x); (on_goal 1 => unfold x))
    | (intro x; (fail_if_success (have q : Engs := x)); (fail_if_success (have q : Svc := x)); (fail_if_success (have q : Trust := x)); (fail_if_success (have q : _ → _ := x)); clear_value x)
    | intro x
    | lift_lets -underBinder
    | (simp only [↓Dev.sound_mk]; with_reducible apply Dev.Sound.parts)
    | with_reducible apply ite_sound
    | dsimp -zeta only
    | split
    | dsimp -zeta +zetaDelta only

theorem Dev.collReqSet_sound {s : Dev} {g q idx : Nat} {f : CollReq → CollReq} (h0 : s.Sound) : (Dev.collReqSet s g q idx f).Sound := by
  unfold Dev.collReqSet
  repeat' first
    | with_reducible assumption
    | with_reducible apply Dev.modGrp_sound
    | (intro x; have hx : Dev.Sound x; (on_goal 2 => clear_value x); (on_goal 1 => unfold x))
    | (intro x; (fail_if_success (have q : Engs := x)); (fail_if_success (have q : Svc := x)); (fail_if_success (have q : Trust := x)); (fail_if_success (have q : _ → _ := x)); clear_value x)
    | intro x
    | lift_lets -underBinder
    | (simp only [↓Dev.sound_mk]; with_reducible apply Dev.Sound.parts)
    | with_reducible apply ite_sound
    | dsimp -zeta only
    | split
    | dsimp -zeta +zetaDelta only

theorem Dev.collData_sound {s : Dev} {q vs fn : Nat} {d : Desc} {got : Option (List Byte)} (h0 : s.Sound) : (Dev.collData s q vs fn d got).Sound := by
  unfold Dev.collData
  repeat' first
    | with_reducible assumption
    | with_reducible apply b_sound
    | with_reducible apply Dev.collAdvance_sound
    | with_reducible apply Dev.collFail_sound
    | with_reducible apply Dev.collGo_sound
    | with_reducible apply Dev.collReqSet_sound
    | with_reducible apply Dev.count_sound
    | with_reducible apply Dev.drop_sound
    | with_reducible apply Dev.firmDone_sound
    | (intro x; have hx : Dev.Sound x; (on_goal 2 => clear_value x); (on_goal 1 => unfold x))
    | (intro x; (fail_if_success (have q : Engs := x)); (fail_if_success (have q : Svc := x)); (fail_if_success (have q : Trust := x)); (fail_if_success (have q : _ → _ := x)); clear_value x)
    | intro x
    | lift_lets -underBinder
    | (simp only [↓Dev.sound_mk]; with_reducible apply Dev.Sound.parts)
    | with_reducible apply ite_sound
    | dsimp -zeta only
    | split
    | dsimp -zeta +zetaDelta only

theorem Dev.firmwareEnd_sound {s : Dev} {q idx : Nat} {got : Option (List Byte)} (h0 : s.Sound) : (Dev.firmwareEnd s q idx got).Sound := by
  unfold Dev.firmwareEnd
  repeat' first
    | with_reducible assumption
    | with_reducible apply b_sound
    | with_reducible apply Dev.collData_sound
    | with_reducible apply Dev.complete_sound
    | with_reducible apply Dev.copyFinish_sound
    | (intro x; have hx : Dev.Sound x; (on_goal 2 => clear_value x); (on_goal 1 => unfold x))
    | (intro x; (fail_if_success (have q : Engs := x)); (fail_if_success (have q : Svc := x)); (fail_if_success (have q : Trust := x)); (fail_if_success (have q : _ → _ := x)); clear_value x)
    | intro x
    | lift_lets -underBinder
    | (simp only [↓Dev.sound_mk]; with_reducible apply Dev.Sound.parts)
    | with_reducible apply ite_sound
    | dsimp -zeta only
    | split
    | dsimp -zeta +zetaDelta only

theorem Dev.collGone_sound {s : Dev} {q idx : Nat} (h0 : s.Sound) : (Dev.collGone s q idx).Sound := by
  unfold Dev.collGone
  repeat' first
    | with_reducible assumption
    | with_reducible apply Dev.collReqSet_sound
    | with_reducible apply each_sound
    | (intro x; have hx : Dev.Sound x; (on_goal 2 => clear_value x); (on_goal 1 => unfold x))
    | (intro x; (fail_if_success (have q : Engs := x)); (fail_if_success (have q : Svc := x)); (fail_if_success (have q : Trust := x)); (fail_if_success (have q : _ → _ := x)); clear_value x)
    | intro x
    | lift_lets -underBinder
    | (simp only [↓Dev.sound_mk]; with_reducible apply Dev.Sound.parts)
    | dsimp -zeta only
    | dsimp -zeta +zetaDelta only

theorem Dev.collDrop_sound {s : Dev} {q : Nat} (h0 : s.Sound) : (Dev.collDrop s q).Sound := by
  unfold Dev.collDrop
  repeat' first
    | with_reducible assumption
    | with_reducible apply Dev.modGrp_sound
    | with_reducible apply each_sound
    | (intro x; have hx : Dev.Sound x; (on_goal 2 => clear_value x); (on_goal 1 => unfold x))
    | (intro x; (fail_if_success (have q : Engs := x)); (fail_if_success (have q : Svc := x)); (fail_if_success (have q : Trust := x)); (fail_if_success (have q : _ → _ := x)); clear_value x)
    | intro x
    | lift_lets -underBinder
    | (simp only [↓Dev.sound_mk]; with_reducible apply Dev.Sound.parts)
    | with_reducible apply ite_sound
    | dsimp -zeta only
    | split
    | dsimp -zeta +zetaDelta only

theorem collUp_sound {src : Nat} {m : CollMsg} {s : Dev} (h0 : s.Sound) : (collUp src m s).Sound := by
  unfold collUp
  repeat' first
    | with_reducible assumption
    | with_reducible apply Dev.collArrive_sound
    | intro x
    | with_reducible apply ite_sound
    | dsimp -zeta only
    | split

theorem collDown_sound {src : Nat} {m : CollMsg} {s : Dev} (h0 : s.Sound) : (collDown src m s).Sound := by
  unfold collDown
  repeat' first
    | with_reducible assumption
    | with_reducible apply Dev.collArrive_sound
    | intro x
    | with_reducible apply ite_sound
    | dsimp -zeta only
    | split

theorem collCredit_sound {src : Nat} {m : CollMsg} {s : Dev} (h0 : s.Sound) : (collCredit src m s).Sound := by
  unfold collCredit
  repeat' first
    | with_reducible assumption
    | with_reducible apply Dev.collArrive_sound
    | intro x
    | with_reducible apply ite_sound
    | dsimp -zeta only
    | split

theorem collCreditSend_sound {g child : Nat} {s : Dev} (h0 : s.Sound) : (collCreditSend g child s).Sound := by
  unfold collCreditSend
  repeat' first
    | with_reducible assumption
    | with_reducible apply Dev.emit_sound
    | with_reducible apply Dev.modGrp_sound
    | (intro x; have hx : Dev.Sound x; (on_goal 2 => clear_value x); (on_goal 1 => unfold x))
    | (intro x; (fail_if_success (have q : Engs := x)); (fail_if_success (have q : Svc := x)); (fail_if_success (have q : Trust := x)); (fail_if_success (have q : _ → _ := x)); clear_value x)
    | intro x
    | lift_lets -underBinder
    | (simp only [↓Dev.sound_mk]; with_reducible apply Dev.Sound.parts)
    | with_reducible apply ite_sound
    | dsimp -zeta only
    | split
    | dsimp -zeta +zetaDelta only

theorem collAbort_sound {src : Nat} {m : CollMsg} {s : Dev} (h0 : s.Sound) : (collAbort src m s).Sound := by
  unfold collAbort
  repeat' first
    | with_reducible assumption
    | with_reducible apply Dev.collArrive_sound
    | intro x
    | with_reducible apply ite_sound
    | dsimp -zeta only
    | split

theorem collTimeout_sound {g : Nat} {s : Dev} (h0 : s.Sound) : (collTimeout g s).Sound := by
  unfold collTimeout
  repeat' first
    | with_reducible assumption
    | with_reducible apply Dev.collFail_sound
    | with_reducible apply Dev.collGo_sound
    | intro x
    | with_reducible apply ite_sound
    | dsimp -zeta only
    | split

theorem groupDisable_sound {g : Nat} {s : Dev} (h0 : s.Sound) : (groupDisable g s).Sound := by
  unfold groupDisable
  repeat' first
    | with_reducible assumption
    | with_reducible apply Dev.collFail_sound
    | with_reducible apply Dev.complete_sound
    | with_reducible apply Dev.firmDrop_sound
    | with_reducible apply Dev.fset_sound
    | with_reducible apply Dev.modGrp_sound
    | with_reducible apply each_sound
    | (intro x; have hx : Dev.Sound x; (on_goal 2 => clear_value x); (on_goal 1 => unfold x))
    | (intro x; (fail_if_success (have q : Engs := x)); (fail_if_success (have q : Svc := x)); (fail_if_success (have q : Trust := x)); (fail_if_success (have q : _ → _ := x)); clear_value x)
    | intro x
    | lift_lets -underBinder
    | (simp only [↓Dev.sound_mk]; with_reducible apply Dev.Sound.parts)
    | with_reducible apply ite_sound
    | dsimp -zeta only
    | split
    | dsimp -zeta +zetaDelta only

end Sys2Proof.Machine
end

