-- ==== Sys2Proof/Laws/SoundSf.lean ====
section
/-! SUPPORT. Every operation of Machine/Sf.lean keeps the switch sound. -/
set_option linter.unusedTactic false
set_option linter.unusedSimpArgs false
set_option linter.unreachableTactic false
namespace Sys2Proof.Machine

theorem Dev.bell_sound {s : Dev} {q tail : Nat} (h0 : s.Sound) : (Dev.bell s q tail).Sound := by
  unfold Dev.bell
  repeat' first
    | with_reducible assumption
    | with_reducible apply Dev.fetchMore_sound
    | with_reducible apply Dev.modQ_sound
    | with_reducible apply Dev.queueErr_sound
    | (intro x; have hx : Dev.Sound x; (on_goal 2 => clear_value x); (on_goal 1 => unfold x))
    | (intro x; (fail_if_success (have q : Engs := x)); (fail_if_success (have q : Svc := x)); (fail_if_success (have q : Trust := x)); (fail_if_success (have q : _ → _ := x)); clear_value x)
    | intro x
    | lift_lets -underBinder
    | (simp only [↓Dev.sound_mk]; with_reducible apply Dev.Sound.parts)
    | with_reducible apply ite_sound
    | dsimp -zeta only
    | split
    | dsimp -zeta +zetaDelta only

theorem doorbellWrite_sound {vs fn q tail : Nat} {s : Dev} (h0 : s.Sound) : (doorbellWrite vs fn q tail s).Sound := by
  unfold doorbellWrite
  repeat' first
    | with_reducible assumption
    | with_reducible apply Dev.modQ_sound
    | (intro x; have hx : Dev.Sound x; (on_goal 2 => clear_value x); (on_goal 1 => unfold x))
    | (intro x; (fail_if_success (have q : Engs := x)); (fail_if_success (have q : Svc := x)); (fail_if_success (have q : Trust := x)); (fail_if_success (have q : _ → _ := x)); clear_value x)
    | intro x
    | lift_lets -underBinder
    | (simp only [↓Dev.sound_mk]; with_reducible apply Dev.Sound.parts)
    | with_reducible apply ite_sound
    | dsimp -zeta only
    | split
    | dsimp -zeta +zetaDelta only

theorem Dev.fetchOver_sound {s : Dev} {q : Nat} (h0 : s.Sound) : (Dev.fetchOver s q).Sound := by
  unfold Dev.fetchOver
  repeat' first
    | with_reducible assumption
    | with_reducible apply Dev.modQ_sound
    | (intro x; have hx : Dev.Sound x; (on_goal 2 => clear_value x); (on_goal 1 => unfold x))
    | (intro x; (fail_if_success (have q : Engs := x)); (fail_if_success (have q : Svc := x)); (fail_if_success (have q : Trust := x)); (fail_if_success (have q : _ → _ := x)); clear_value x)
    | intro x
    | lift_lets -underBinder
    | (simp only [↓Dev.sound_mk]; with_reducible apply Dev.Sound.parts)
    | dsimp -zeta only
    | dsimp -zeta +zetaDelta only

theorem descriptorFetchComplete_sound {q : Nat} {cpl : CplIn} {s : Dev} (h0 : s.Sound) : (descriptorFetchComplete q cpl s).Sound := by
  unfold descriptorFetchComplete
  repeat' first
    | with_reducible assumption
    | with_reducible apply Dev.fcount_sound
    | with_reducible apply Dev.fetchMore_sound
    | with_reducible apply Dev.fetchOver_sound
    | with_reducible apply Dev.fsets_sound
    | with_reducible apply Dev.modQ_sound
    | with_reducible apply Dev.queueErr_sound
    | (intro x; have hx : Dev.Sound x; (on_goal 2 => clear_value x); (on_goal 1 => unfold x))
    | (intro x; (fail_if_success (have q : Engs := x)); (fail_if_success (have q : Svc := x)); (fail_if_success (have q : Trust := x)); (fail_if_success (have q : _ → _ := x)); clear_value x)
    | intro x
    | lift_lets -underBinder
    | (simp only [↓Dev.sound_mk]; with_reducible apply Dev.Sound.parts)
    | with_reducible apply ite_sound
    | dsimp -zeta only
    | split
    | dsimp -zeta +zetaDelta only

theorem queueEnable_sound {q : Nat} {s : Dev} (h0 : s.Sound) : (queueEnable q s).Sound := by
  unfold queueEnable
  repeat' first
    | with_reducible assumption
    | with_reducible apply Dev.fsets_sound
    | with_reducible apply Dev.modQ_sound
    | (intro x; have hx : Dev.Sound x; (on_goal 2 => clear_value x); (on_goal 1 => unfold x))
    | (intro x; (fail_if_success (have q : Engs := x)); (fail_if_success (have q : Svc := x)); (fail_if_success (have q : Trust := x)); (fail_if_success (have q : _ → _ := x)); clear_value x)
    | intro x
    | lift_lets -underBinder
    | (simp only [↓Dev.sound_mk]; with_reducible apply Dev.Sound.parts)
    | with_reducible apply ite_sound
    | dsimp -zeta only
    | split
    | dsimp -zeta +zetaDelta only

theorem queueDisable_sound {q : Nat} {s : Dev} (h0 : s.Sound) : (queueDisable q s).Sound := by
  unfold queueDisable
  repeat' first
    | with_reducible assumption
    | with_reducible apply Dev.fset_sound
    | intro x
    | with_reducible apply ite_sound
    | dsimp -zeta only
    | split

theorem Dev.queueLeave_sound {s : Dev} {q vs fn : Nat} (h0 : s.Sound) : (Dev.queueLeave s q vs fn).Sound := by
  unfold Dev.queueLeave
  repeat' first
    | with_reducible assumption
    | with_reducible apply Dev.cmdDone_sound
    | with_reducible apply Dev.collDrop_sound
    | with_reducible apply Dev.fset_sound
    | with_reducible apply Dev.fsets_sound
    | with_reducible apply Dev.modQ_sound
    | with_reducible apply Dev.sfEvent_sound
    | (intro x; have hx : Dev.Sound x; (on_goal 2 => clear_value x); (on_goal 1 => unfold x))
    | (intro x; (fail_if_success (have q : Engs := x)); (fail_if_success (have q : Svc := x)); (fail_if_success (have q : Trust := x)); (fail_if_success (have q : _ → _ := x)); clear_value x)
    | intro x
    | lift_lets -underBinder
    | (simp only [↓Dev.sound_mk]; with_reducible apply Dev.Sound.parts)
    | with_reducible apply ite_sound
    | dsimp -zeta only
    | split
    | dsimp -zeta +zetaDelta only

theorem queueIdle_sound {q : Nat} {s : Dev} (h0 : s.Sound) : (queueIdle q s).Sound := by
  unfold queueIdle
  repeat' first
    | with_reducible assumption
    | with_reducible apply Dev.fset_sound
    | with_reducible apply Dev.queueLeave_sound
    | (intro x; have hx : Dev.Sound x; (on_goal 2 => clear_value x); (on_goal 1 => unfold x))
    | (intro x; (fail_if_success (have q : Engs := x)); (fail_if_success (have q : Svc := x)); (fail_if_success (have q : Trust := x)); (fail_if_success (have q : _ → _ := x)); clear_value x)
    | intro x
    | lift_lets -underBinder
    | with_reducible apply ite_sound
    | dsimp -zeta only
    | split
    | dsimp -zeta +zetaDelta only

theorem Dev.flushVector_sound {s : Dev} {vs fn v : Nat} (h0 : s.Sound) : (Dev.flushVector s vs fn v).Sound := by
  unfold Dev.flushVector
  repeat' first
    | with_reducible assumption
    | with_reducible apply Dev.modSfn_sound
    | with_reducible apply Dev.signal_sound
    | (intro x; have hx : Dev.Sound x; (on_goal 2 => clear_value x); (on_goal 1 => unfold x))
    | (intro x; (fail_if_success (have q : Engs := x)); (fail_if_success (have q : Svc := x)); (fail_if_success (have q : Trust := x)); (fail_if_success (have q : _ → _ := x)); clear_value x)
    | intro x
    | lift_lets -underBinder
    | (simp only [↓Dev.sound_mk]; with_reducible apply Dev.Sound.parts)
    | with_reducible apply ite_sound
    | dsimp -zeta only
    | split
    | dsimp -zeta +zetaDelta only

theorem vectorUnmask_sound {vs fn vec : Nat} {s : Dev} (h0 : s.Sound) : (vectorUnmask vs fn vec s).Sound := by
  unfold vectorUnmask
  repeat' first
    | with_reducible assumption
    | with_reducible apply Dev.flushVector_sound
    | with_reducible apply Dev.modSfn_sound
    | (intro x; have hx : Dev.Sound x; (on_goal 2 => clear_value x); (on_goal 1 => unfold x))
    | (intro x; (fail_if_success (have q : Engs := x)); (fail_if_success (have q : Svc := x)); (fail_if_success (have q : Trust := x)); (fail_if_success (have q : _ → _ := x)); clear_value x)
    | intro x
    | lift_lets -underBinder
    | (simp only [↓Dev.sound_mk]; with_reducible apply Dev.Sound.parts)
    | with_reducible apply ite_sound
    | dsimp -zeta only
    | split
    | dsimp -zeta +zetaDelta only

theorem Dev.endDesc_sound {s : Dev} {q idx status : Nat} (h0 : s.Sound) : (Dev.endDesc s q idx status).Sound := by
  unfold Dev.endDesc
  repeat' first
    | with_reducible assumption
    | with_reducible apply Dev.complete_sound
    | with_reducible apply Dev.stopRun_sound
    | (intro x; have hx : Dev.Sound x; (on_goal 2 => clear_value x); (on_goal 1 => unfold x))
    | (intro x; (fail_if_success (have q : Engs := x)); (fail_if_success (have q : Svc := x)); (fail_if_success (have q : Trust := x)); (fail_if_success (have q : _ → _ := x)); clear_value x)
    | intro x
    | lift_lets -underBinder
    | (simp only [↓Dev.sound_mk]; with_reducible apply Dev.Sound.parts)
    | dsimp -zeta only
    | split
    | dsimp -zeta +zetaDelta only

theorem Dev.abandon_sound {s : Dev} {r : SfReq} (h0 : s.Sound) : (Dev.abandon s r).Sound := by
  unfold Dev.abandon
  repeat' first
    | with_reducible assumption
    | with_reducible apply Dev.collGone_sound
    | with_reducible apply Dev.endDesc_sound
    | with_reducible apply Dev.firmwareEnd_sound
    | with_reducible apply Dev.modQ_sound
    | with_reducible apply Dev.sfQuarantine_sound
    | with_reducible apply Dev.stopRun_sound
    | (intro x; have hx : Dev.Sound x; (on_goal 2 => clear_value x); (on_goal 1 => unfold x))
    | (intro x; (fail_if_success (have q : Engs := x)); (fail_if_success (have q : Svc := x)); (fail_if_success (have q : Trust := x)); (fail_if_success (have q : _ → _ := x)); clear_value x)
    | intro x
    | lift_lets -underBinder
    | (simp only [↓Dev.sound_mk]; with_reducible apply Dev.Sound.parts)
    | with_reducible apply ite_sound
    | dsimp -zeta only
    | split
    | dsimp -zeta +zetaDelta only

theorem Dev.abandonAll_sound {s : Dev} {vs fn : Nat} {sel : SfUse → Bool} (h0 : s.Sound) : (Dev.abandonAll s vs fn sel).Sound := by
  unfold Dev.abandonAll
  repeat' first
    | with_reducible assumption
    | with_reducible apply Dev.abandon_sound
    | with_reducible apply each_sound
    | intro x
    | with_reducible apply ite_sound
    | dsimp -zeta only
    | split

theorem revokeGraceExpiry_sound {q : Nat} {s : Dev} (h0 : s.Sound) : (revokeGraceExpiry q s).Sound := by
  unfold revokeGraceExpiry
  repeat' first
    | with_reducible assumption
    | with_reducible apply Dev.abandonAll_sound
    | with_reducible apply Dev.endDesc_sound
    | with_reducible apply Dev.fset_sound
    | with_reducible apply Dev.queueLeave_sound
    | with_reducible apply each_sound
    | (intro x; have hx : Dev.Sound x; (on_goal 2 => clear_value x); (on_goal 1 => unfold x))
    | (intro x; (fail_if_success (have q : Engs := x)); (fail_if_success (have q : Svc := x)); (fail_if_success (have q : Trust := x)); (fail_if_success (have q : _ → _ := x)); clear_value x)
    | intro x
    | lift_lets -underBinder
    | with_reducible apply ite_sound
    | dsimp -zeta only
    | split
    | dsimp -zeta +zetaDelta only

theorem Dev.timeoutEnd_sound {s : Dev} {r : SfReq} (h0 : s.Sound) : (Dev.timeoutEnd s r).Sound := by
  unfold Dev.timeoutEnd
  repeat' first
    | with_reducible assumption
    | with_reducible apply Dev.accGone_sound
    | with_reducible apply b_sound
    | with_reducible apply completionTimeout_sound
    | with_reducible apply Dev.endDesc_sound
    | with_reducible apply Dev.fcount_sound
    | with_reducible apply Dev.firmwareEnd_sound
    | with_reducible apply Dev.modEn_sound
    | with_reducible apply Dev.modQ_sound
    | with_reducible apply Dev.queueErr_sound
    | with_reducible apply Dev.sfAer_sound
    | with_reducible apply Dev.sfQuarantine_sound
    | with_reducible apply Dev.stopRun_sound
    | (intro x; have hx : Dev.Sound x; (on_goal 2 => clear_value x); (on_goal 1 => unfold x))
    | (intro x; (fail_if_success (have q : Engs := x)); (fail_if_success (have q : Svc := x)); (fail_if_success (have q : Trust := x)); (fail_if_success (have q : _ → _ := x)); clear_value x)
    | intro x
    | lift_lets -underBinder
    | (simp only [↓Dev.sound_mk]; with_reducible apply Dev.Sound.parts)
    | with_reducible apply ite_sound
    | dsimp -zeta only
    | split
    | dsimp -zeta +zetaDelta only

theorem completionTimeout_sound {vs fn tag : Nat} {s : Dev} (h0 : s.Sound) : (completionTimeout vs fn tag s).Sound := by
  unfold completionTimeout
  repeat' first
    | with_reducible assumption
    | (intro x; have hx : Dev.Sound x; (on_goal 2 => clear_value x); (on_goal 1 => unfold x))
    | (intro x; (fail_if_success (have q : Engs := x)); (fail_if_success (have q : Svc := x)); (fail_if_success (have q : Trust := x)); (fail_if_success (have q : _ → _ := x)); clear_value x)
    | intro x
    | lift_lets -underBinder
    | (simp only [↓Dev.sound_mk]; with_reducible apply Dev.Sound.parts)
    | with_reducible apply ite_sound
    | dsimp -zeta only
    | split
    | dsimp -zeta +zetaDelta only

theorem Dev.lateArrival_sound {s : Dev} {vs fn tag : Nat} {cpl : CplIn} (h0 : s.Sound) : (Dev.lateArrival s vs fn tag cpl).Sound := by
  unfold Dev.lateArrival
  repeat' first
    | with_reducible assumption
    | with_reducible apply Dev.count_sound
    | with_reducible apply Dev.fcount_sound
    | with_reducible apply Dev.firstEvent_sound
    | with_reducible apply Dev.sfEvent_sound
    | (intro x; have hx : Dev.Sound x; (on_goal 2 => clear_value x); (on_goal 1 => unfold x))
    | (intro x; (fail_if_success (have q : Engs := x)); (fail_if_success (have q : Svc := x)); (fail_if_success (have q : Trust := x)); (fail_if_success (have q : _ → _ := x)); clear_value x)
    | intro x
    | lift_lets -underBinder
    | with_reducible apply ite_sound
    | dsimp -zeta only
    | split
    | dsimp -zeta +zetaDelta only

theorem Dev.resumeFn_sound {s : Dev} {vs fn : Nat} (h0 : s.Sound) : (Dev.resumeFn s vs fn).Sound := by
  unfold Dev.resumeFn
  repeat' first
    | with_reducible assumption
    | with_reducible apply Dev.fetchMore_sound
    | with_reducible apply each_sound
    | intro x
    | dsimp -zeta only

theorem Dev.useTakes_sound {s1 : Dev} {r : SfReq} (h0 : s1.Sound) : (Dev.useTakes s1 r).Sound := by
  unfold Dev.useTakes
  repeat' first
    | with_reducible assumption
    | with_reducible apply Dev.accessEnd_sound
    | with_reducible apply b_sound
    | with_reducible apply descriptorFetchComplete_sound
    | with_reducible apply Dev.firmwareEnd_sound
    | with_reducible apply Dev.modEn_sound
    | (intro x; have hx : Dev.Sound x; (on_goal 2 => clear_value x); (on_goal 1 => unfold x))
    | (intro x; (fail_if_success (have q : Engs := x)); (fail_if_success (have q : Svc := x)); (fail_if_success (have q : Trust := x)); (fail_if_success (have q : _ → _ := x)); clear_value x)
    | intro x
    | lift_lets -underBinder
    | (simp only [↓Dev.sound_mk]; with_reducible apply Dev.Sound.parts)
    | with_reducible apply ite_sound
    | dsimp -zeta only
    | split
    | dsimp -zeta +zetaDelta only

theorem Dev.useEnd_sound {s : Dev} {r : SfReq} (h0 : s.Sound) : (Dev.useEnd s r).Sound := by
  unfold Dev.useEnd
  repeat' first
    | with_reducible assumption
    | with_reducible apply Dev.resumeFn_sound
    | with_reducible apply Dev.sfDone_sound
    | with_reducible apply Dev.useTakes_sound
    | intro x
    | dsimp -zeta only

theorem Dev.cplStatus_sound {s : Dev} {vs fn : Nat} {cpl : CplIn} (h0 : s.Sound) : (Dev.cplStatus s vs fn cpl).Sound := by
  unfold Dev.cplStatus
  repeat' first
    | with_reducible assumption
    | with_reducible apply b_sound
    | with_reducible apply Dev.modSfn_sound
    | with_reducible apply Dev.sfAer_sound
    | (intro x; have hx : Dev.Sound x; (on_goal 2 => clear_value x); (on_goal 1 => unfold x))
    | (intro x; (fail_if_success (have q : Engs := x)); (fail_if_success (have q : Svc := x)); (fail_if_success (have q : Trust := x)); (fail_if_success (have q : _ → _ := x)); clear_value x)
    | intro x
    | lift_lets -underBinder
    | (simp only [↓Dev.sound_mk]; with_reducible apply Dev.Sound.parts)
    | with_reducible apply ite_sound
    | dsimp -zeta only
    | split
    | dsimp -zeta +zetaDelta only

theorem sfCompletionArrival_sound {vs fn tag : Nat} {cpl : CplIn} {s : Dev} (h0 : s.Sound) : (sfCompletionArrival vs fn tag cpl s).Sound := by
  unfold sfCompletionArrival
  repeat' first
    | with_reducible assumption
    | with_reducible apply Dev.cplStatus_sound
    | with_reducible apply Dev.lateArrival_sound
    | with_reducible apply Dev.sfAer_sound
    | with_reducible apply Dev.useEnd_sound
    | (intro x; have hx : Dev.Sound x; (on_goal 2 => clear_value x); (on_goal 1 => unfold x))
    | (intro x; (fail_if_success (have q : Engs := x)); (fail_if_success (have q : Svc := x)); (fail_if_success (have q : Trust := x)); (fail_if_success (have q : _ → _ := x)); clear_value x)
    | intro x
    | lift_lets -underBinder
    | (simp only [↓Dev.sound_mk]; with_reducible apply Dev.Sound.parts)
    | with_reducible apply ite_sound
    | dsimp -zeta only
    | split
    | dsimp -zeta +zetaDelta only

theorem tagQuarantineEnd_sound {vs fn tag : Nat} {s : Dev} (h0 : s.Sound) : (tagQuarantineEnd vs fn tag s).Sound := by
  unfold tagQuarantineEnd
  repeat' first
    | with_reducible assumption
    | with_reducible apply Dev.resumeFn_sound
    | (intro x; have hx : Dev.Sound x; (on_goal 2 => clear_value x); (on_goal 1 => unfold x))
    | (intro x; (fail_if_success (have q : Engs := x)); (fail_if_success (have q : Svc := x)); (fail_if_success (have q : Trust := x)); (fail_if_success (have q : _ → _ := x)); clear_value x)
    | intro x
    | lift_lets -underBinder
    | (simp only [↓Dev.sound_mk]; with_reducible apply Dev.Sound.parts)
    | with_reducible apply ite_sound
    | dsimp -zeta only
    | split
    | dsimp -zeta +zetaDelta only

theorem Dev.flrStart_sound {s : Dev} {vs fn : Nat} (h0 : s.Sound) : (Dev.flrStart s vs fn).Sound := by
  unfold Dev.flrStart
  repeat' first
    | with_reducible assumption
    | with_reducible apply Dev.abandonAll_sound
    | with_reducible apply Dev.collDrop_sound
    | with_reducible apply Dev.dropSess_sound
    | with_reducible apply Dev.fset_sound
    | with_reducible apply Dev.fsets_sound
    | with_reducible apply Dev.modQ_sound
    | with_reducible apply Dev.modSfn_sound
    | with_reducible apply Dev.stopRun_sound
    | with_reducible apply each_sound
    | (intro x; have hx : Dev.Sound x; (on_goal 2 => clear_value x); (on_goal 1 => unfold x))
    | (intro x; (fail_if_success (have q : Engs := x)); (fail_if_success (have q : Svc := x)); (fail_if_success (have q : Trust := x)); (fail_if_success (have q : _ → _ := x)); clear_value x)
    | intro x
    | lift_lets -underBinder
    | (simp only [↓Dev.sound_mk]; with_reducible apply Dev.Sound.parts)
    | with_reducible apply ite_sound
    | dsimp -zeta only
    | split
    | dsimp -zeta +zetaDelta only

theorem functionLevelReset_sound {vs fn : Nat} {s : Dev} (h0 : s.Sound) : (functionLevelReset vs fn s).Sound := by
  unfold functionLevelReset
  repeat' first
    | with_reducible assumption
    | with_reducible apply Dev.flrStart_sound
    | with_reducible apply Dev.modSfn_sound
    | with_reducible apply each_sound
    | (intro x; have hx : Dev.Sound x; (on_goal 2 => clear_value x); (on_goal 1 => unfold x))
    | (intro x; (fail_if_success (have q : Engs := x)); (fail_if_success (have q : Svc := x)); (fail_if_success (have q : Trust := x)); (fail_if_success (have q : _ → _ := x)); clear_value x)
    | intro x
    | lift_lets -underBinder
    | (simp only [↓Dev.sound_mk]; with_reducible apply Dev.Sound.parts)
    | with_reducible apply ite_sound
    | dsimp -zeta only
    | split
    | dsimp -zeta +zetaDelta only

theorem Dev.queueReset_sound {s : Dev} {q : Nat} (h0 : s.Sound) : (Dev.queueReset s q).Sound := by
  unfold Dev.queueReset
  repeat' first
    | with_reducible assumption
    | with_reducible apply Dev.modQ_sound
    | with_reducible apply Dev.rclear_sound
    | (intro x; have hx : Dev.Sound x; (on_goal 2 => clear_value x); (on_goal 1 => unfold x))
    | (intro x; (fail_if_success (have q : Engs := x)); (fail_if_success (have q : Svc := x)); (fail_if_success (have q : Trust := x)); (fail_if_success (have q : _ → _ := x)); clear_value x)
    | intro x
    | lift_lets -underBinder
    | (simp only [↓Dev.sound_mk]; with_reducible apply Dev.Sound.parts)
    | dsimp -zeta only
    | dsimp -zeta +zetaDelta only

theorem Dev.fnReset_sound {s : Dev} {vs fn : Nat} (h0 : s.Sound) : (Dev.fnReset s vs fn).Sound := by
  unfold Dev.fnReset
  repeat' first
    | with_reducible assumption
    | with_reducible apply Dev.fset_sound
    | with_reducible apply Dev.modSfn_sound
    | with_reducible apply Dev.queueReset_sound
    | with_reducible apply Dev.rclear_sound
    | with_reducible apply each_sound
    | (intro x; have hx : Dev.Sound x; (on_goal 2 => clear_value x); (on_goal 1 => unfold x))
    | (intro x; (fail_if_success (have q : Engs := x)); (fail_if_success (have q : Svc := x)); (fail_if_success (have q : Trust := x)); (fail_if_success (have q : _ → _ := x)); clear_value x)
    | intro x
    | lift_lets -underBinder
    | (simp only [↓Dev.sound_mk]; with_reducible apply Dev.Sound.parts)
    | with_reducible apply ite_sound
    | dsimp -zeta only
    | split
    | dsimp -zeta +zetaDelta only

theorem flrComplete_sound {vs fn : Nat} {s : Dev} (h0 : s.Sound) : (flrComplete vs fn s).Sound := by
  unfold flrComplete
  repeat' first
    | with_reducible assumption
    | with_reducible apply Dev.fnReset_sound
    | with_reducible apply each_sound
    | (intro x; have hx : Dev.Sound x; (on_goal 2 => clear_value x); (on_goal 1 => unfold x))
    | (intro x; (fail_if_success (have q : Engs := x)); (fail_if_success (have q : Svc := x)); (fail_if_success (have q : Trust := x)); (fail_if_success (have q : _ → _ := x)); clear_value x)
    | intro x
    | lift_lets -underBinder
    | with_reducible apply ite_sound
    | dsimp -zeta only
    | split
    | dsimp -zeta +zetaDelta only

theorem busMasterDisable_sound {vs fn : Nat} {s : Dev} (h0 : s.Sound) : (busMasterDisable vs fn s).Sound := by
  unfold busMasterDisable
  repeat' first
    | with_reducible assumption
    | with_reducible apply Dev.modSfn_sound
    | (intro x; have hx : Dev.Sound x; (on_goal 2 => clear_value x); (on_goal 1 => unfold x))
    | (intro x; (fail_if_success (have q : Engs := x)); (fail_if_success (have q : Svc := x)); (fail_if_success (have q : Trust := x)); (fail_if_success (have q : _ → _ := x)); clear_value x)
    | intro x
    | lift_lets -underBinder
    | (simp only [↓Dev.sound_mk]; with_reducible apply Dev.Sound.parts)
    | with_reducible apply ite_sound
    | dsimp -zeta only
    | split
    | dsimp -zeta +zetaDelta only

theorem Dev.flushDue_sound {s : Dev} {q : Nat} (h0 : s.Sound) : (Dev.flushDue s q).Sound := by
  unfold Dev.flushDue
  repeat' first
    | with_reducible assumption
    | with_reducible apply Dev.modQ_sound
    | with_reducible apply Dev.pushRecord_sound
    | with_reducible apply each_sound
    | (intro x; have hx : Dev.Sound x; (on_goal 2 => clear_value x); (on_goal 1 => unfold x))
    | (intro x; (fail_if_success (have q : Engs := x)); (fail_if_success (have q : Svc := x)); (fail_if_success (have q : Trust := x)); (fail_if_success (have q : _ → _ := x)); clear_value x)
    | intro x
    | lift_lets -underBinder
    | (simp only [↓Dev.sound_mk]; with_reducible apply Dev.Sound.parts)
    | dsimp -zeta only
    | dsimp -zeta +zetaDelta only

theorem busMasterEnable_sound {vs fn : Nat} {s : Dev} (h0 : s.Sound) : (busMasterEnable vs fn s).Sound := by
  unfold busMasterEnable
  repeat' first
    | with_reducible assumption
    | with_reducible apply Dev.flushDue_sound
    | with_reducible apply Dev.flushVector_sound
    | with_reducible apply Dev.modSfn_sound
    | with_reducible apply Dev.resumeFn_sound
    | with_reducible apply each_sound
    | (intro x; have hx : Dev.Sound x; (on_goal 2 => clear_value x); (on_goal 1 => unfold x))
    | (intro x; (fail_if_success (have q : Engs := x)); (fail_if_success (have q : Svc := x)); (fail_if_success (have q : Trust := x)); (fail_if_success (have q : _ → _ := x)); clear_value x)
    | intro x
    | lift_lets -underBinder
    | (simp only [↓Dev.sound_mk]; with_reducible apply Dev.Sound.parts)
    | with_reducible apply ite_sound
    | dsimp -zeta only
    | split
    | dsimp -zeta +zetaDelta only

theorem ledgerSwap_sound {vs ctx : Nat} {s : Dev} (h0 : s.Sound) : (ledgerSwap vs ctx s).Sound := by
  unfold ledgerSwap
  repeat' first
    | with_reducible assumption
    | with_reducible apply Dev.fsets_sound
    | (intro x; have hx : Dev.Sound x; (on_goal 2 => clear_value x); (on_goal 1 => unfold x))
    | (intro x; (fail_if_success (have q : Engs := x)); (fail_if_success (have q : Svc := x)); (fail_if_success (have q : Trust := x)); (fail_if_success (have q : _ → _ := x)); clear_value x)
    | intro x
    | lift_lets -underBinder
    | (simp only [↓Dev.sound_mk]; with_reducible apply Dev.Sound.parts)
    | with_reducible apply ite_sound
    | dsimp -zeta only
    | split
    | dsimp -zeta +zetaDelta only

theorem ledgerSwapDone_sound {vs ctx : Nat} {s : Dev} (h0 : s.Sound) : (ledgerSwapDone vs ctx s).Sound := by
  unfold ledgerSwapDone
  repeat' first
    | with_reducible assumption
    | with_reducible apply Dev.fsets_sound
    | with_reducible apply Dev.sfEvent_sound
    | (intro x; have hx : Dev.Sound x; (on_goal 2 => clear_value x); (on_goal 1 => unfold x))
    | (intro x; (fail_if_success (have q : Engs := x)); (fail_if_success (have q : Svc := x)); (fail_if_success (have q : Trust := x)); (fail_if_success (have q : _ → _ := x)); clear_value x)
    | intro x
    | lift_lets -underBinder
    | (simp only [↓Dev.sound_mk]; with_reducible apply Dev.Sound.parts)
    | with_reducible apply ite_sound
    | dsimp -zeta only
    | split
    | dsimp -zeta +zetaDelta only

theorem ledgerSwapTimeout_sound {vs ctx : Nat} {s : Dev} (h0 : s.Sound) : (ledgerSwapTimeout vs ctx s).Sound := by
  unfold ledgerSwapTimeout
  repeat' first
    | with_reducible assumption
    | with_reducible apply Dev.fset_sound
    | with_reducible apply Dev.sfEvent_sound
    | (intro x; have hx : Dev.Sound x; (on_goal 2 => clear_value x); (on_goal 1 => unfold x))
    | (intro x; (fail_if_success (have q : Engs := x)); (fail_if_success (have q : Svc := x)); (fail_if_success (have q : Trust := x)); (fail_if_success (have q : _ → _ := x)); clear_value x)
    | intro x
    | lift_lets -underBinder
    | (simp only [↓Dev.sound_mk]; with_reducible apply Dev.Sound.parts)
    | with_reducible apply ite_sound
    | dsimp -zeta only
    | split
    | dsimp -zeta +zetaDelta only

theorem mailboxGo_sound {vs : Nat} {req : List Byte} {s : Dev} (h0 : s.Sound) : (mailboxGo vs req s).Sound := by
  unfold mailboxGo
  repeat' first
    | with_reducible assumption
    | with_reducible apply Dev.fsets_sound
    | with_reducible apply Dev.modSfn_sound
    | (intro x; have hx : Dev.Sound x; (on_goal 2 => clear_value x); (on_goal 1 => unfold x))
    | (intro x; (fail_if_success (have q : Engs := x)); (fail_if_success (have q : Svc := x)); (fail_if_success (have q : Trust := x)); (fail_if_success (have q : _ → _ := x)); clear_value x)
    | intro x
    | lift_lets -underBinder
    | (simp only [↓Dev.sound_mk]; with_reducible apply Dev.Sound.parts)
    | with_reducible apply ite_sound
    | dsimp -zeta only
    | split
    | dsimp -zeta +zetaDelta only

theorem Dev.perrRecord_sound {s : Dev} {r : PerrReport} (h0 : s.Sound) : (Dev.perrRecord s r).Sound := by
  unfold Dev.perrRecord
  repeat' first
    | with_reducible assumption
    | with_reducible apply Dev.fcount_sound
    | with_reducible apply Dev.fset_sound
    | with_reducible apply Dev.fsets_sound
    | with_reducible apply Dev.queueErr_sound
    | with_reducible apply Dev.rset_sound
    | with_reducible apply Dev.sfEvent_sound
    | with_reducible apply each_sound
    | (intro x; have hx : Dev.Sound x; (on_goal 2 => clear_value x); (on_goal 1 => unfold x))
    | (intro x; (fail_if_success (have q : Engs := x)); (fail_if_success (have q : Svc := x)); (fail_if_success (have q : Trust := x)); (fail_if_success (have q : _ → _ := x)); clear_value x)
    | intro x
    | lift_lets -underBinder
    | with_reducible apply ite_sound
    | dsimp -zeta only
    | split
    | dsimp -zeta +zetaDelta only

theorem postedErrorReportReceive_sound {r : PerrReport} {s : Dev} (h0 : s.Sound) : (postedErrorReportReceive r s).Sound := by
  unfold postedErrorReportReceive
  repeat' first
    | with_reducible assumption
    | with_reducible apply b_sound
    | with_reducible apply Dev.count_sound
    | with_reducible apply Dev.ctlPacket_sound
    | with_reducible apply Dev.perrRecord_sound
    | intro x
    | with_reducible apply ite_sound
    | dsimp -zeta only
    | split

theorem Dev.sfCycle_sound {s : Dev} (h0 : s.Sound) : (Dev.sfCycle s).Sound := by
  unfold Dev.sfCycle
  repeat' first
    | with_reducible assumption
    | with_reducible apply Dev.abandonAll_sound
    | with_reducible apply Dev.bell_sound
    | with_reducible apply Dev.modQ_sound
    | with_reducible apply Dev.modSfn_sound
    | with_reducible apply Dev.timeoutEnd_sound
    | with_reducible apply each_sound
    | (intro x; have hx : Dev.Sound x; (on_goal 2 => clear_value x); (on_goal 1 => unfold x))
    | (intro x; (fail_if_success (have q : Engs := x)); (fail_if_success (have q : Svc := x)); (fail_if_success (have q : Trust := x)); (fail_if_success (have q : _ → _ := x)); clear_value x)
    | intro x
    | lift_lets -underBinder
    | (simp only [↓Dev.sound_mk]; with_reducible apply Dev.Sound.parts)
    | with_reducible apply ite_sound
    | dsimp -zeta only
    | split
    | dsimp -zeta +zetaDelta only

end Sys2Proof.Machine
end

