-- ==== Sys2Proof/Laws/SoundRegWrite.lean ====
section
/-! SUPPORT. Every operation of Machine/RegWrite.lean keeps the switch sound. -/
set_option linter.unusedTactic false
set_option linter.unusedSimpArgs false
set_option linter.unreachableTactic false
namespace Sys2Proof.Machine

theorem Dev.regAfterRead_sound {s : Dev} {r : Reg} {inst : Nat} (h0 : s.Sound) : (Dev.regAfterRead s r inst).Sound := by
  unfold Dev.regAfterRead
  repeat' first
    | with_reducible assumption
    | with_reducible apply Dev.fset_sound
    | with_reducible apply Dev.rset_sound
    | with_reducible apply foldl_sound
    | intro x
    | with_reducible apply ite_sound
    | dsimp -zeta only
    | split

theorem Dev.blkRead_sound {s : Dev} {code off : Nat} (h0 : s.Sound) : (Dev.blkRead s code off).2.Sound := by
  unfold Dev.blkRead
  repeat' first
    | with_reducible assumption
    | with_reducible apply Dev.regAfterRead_sound
    | (intro x; have hx : Dev.Sound x; (on_goal 2 => clear_value x); (on_goal 1 => unfold x))
    | (intro x; (fail_if_success (have q : Engs := x)); (fail_if_success (have q : Svc := x)); (fail_if_success (have q : Trust := x)); (fail_if_success (have q : _ → _ := x)); clear_value x)
    | intro x
    | lift_lets -underBinder
    | with_reducible apply ite_sound
    | dsimp -zeta only
    | split
    | dsimp -zeta +zetaDelta only
theorem Dev.blkRead_pair {s : Dev} {code off : Nat} {x_ t_} (e_ : Dev.blkRead s code off = (x_, t_)) (h0 : s.Sound) : t_.Sound := by
  have q := Dev.blkRead_sound (s := s) (code := code) (off := off) h0; rw [e_] at q; exact q

theorem Dev.blkReadWhole_sound {s : Dev} {code off : Nat} (h0 : s.Sound) : (Dev.blkReadWhole s code off).2.Sound := by
  unfold Dev.blkReadWhole
  repeat' first
    | with_reducible assumption
    | with_reducible apply Dev.blkRead_sound
    | with_reducible refine Dev.blkRead_pair (by with_reducible assumption) ?_
    | with_reducible apply Dev.regAfterRead_sound
    | intro x
    | with_reducible apply ite_sound
    | dsimp -zeta only
    | split
theorem Dev.blkReadWhole_pair {s : Dev} {code off : Nat} {x_ t_} (e_ : Dev.blkReadWhole s code off = (x_, t_)) (h0 : s.Sound) : t_.Sound := by
  have q := Dev.blkReadWhole_sound (s := s) (code := code) (off := off) h0; rw [e_] at q; exact q

theorem Dev.wipeRecord_sound {s : Dev} {r : Reg} {inst : Nat} (h0 : s.Sound) : (Dev.wipeRecord s r inst).Sound := by
  unfold Dev.wipeRecord
  repeat' first
    | with_reducible assumption
    | with_reducible apply Dev.rclear_sound
    | intro x
    | dsimp -zeta only
    | split

theorem Dev.clearRecord_sound {s : Dev} {r : Reg} {inst : Nat} (h0 : s.Sound) : (Dev.clearRecord s r inst).Sound := by
  unfold Dev.clearRecord
  repeat' first
    | with_reducible assumption
    | with_reducible apply Dev.fsets_sound
    | with_reducible apply Dev.rset_sound
    | with_reducible apply Dev.wipeRecord_sound
    | (intro x; have hx : Dev.Sound x; (on_goal 2 => clear_value x); (on_goal 1 => unfold x))
    | (intro x; (fail_if_success (have q : Engs := x)); (fail_if_success (have q : Svc := x)); (fail_if_success (have q : Trust := x)); (fail_if_success (have q : _ → _ := x)); clear_value x)
    | intro x
    | lift_lets -underBinder
    | with_reducible apply ite_sound
    | dsimp -zeta only
    | split
    | dsimp -zeta +zetaDelta only

theorem Dev.shadowPut_sound {s : Dev} {r : Reg} {inst v : Nat} (h0 : s.Sound) : (Dev.shadowPut s r inst v).Sound := by
  unfold Dev.shadowPut
  repeat' first
    | with_reducible assumption
    | with_reducible apply Dev.fset_sound
    | with_reducible apply Dev.rset_sound
    | (intro x; have hx : Dev.Sound x; (on_goal 2 => clear_value x); (on_goal 1 => unfold x))
    | (intro x; (fail_if_success (have q : Engs := x)); (fail_if_success (have q : Svc := x)); (fail_if_success (have q : Trust := x)); (fail_if_success (have q : _ → _ := x)); clear_value x)
    | intro x
    | lift_lets -underBinder
    | (simp only [↓Dev.sound_mk]; with_reducible apply Dev.Sound.parts)
    | with_reducible apply ite_sound
    | dsimp -zeta only
    | split
    | dsimp -zeta +zetaDelta only

theorem Dev.rejected_sound {s : Dev} (h0 : s.Sound) : (Dev.rejected s).Sound := by
  unfold Dev.rejected
  repeat' first
    | with_reducible assumption
    | with_reducible apply Dev.count_sound
    | intro x
    | dsimp -zeta only

theorem Dev.vsCfgPut_sound {s : Dev} {v st : Nat} (h0 : s.Sound) : (Dev.vsCfgPut s v st).Sound := by
  unfold Dev.vsCfgPut
  repeat' first
    | with_reducible assumption
    | with_reducible apply Dev.rejected_sound
    | with_reducible apply Dev.rset_sound
    | with_reducible apply st_sound
    | (intro x; have hx : Dev.Sound x; (on_goal 2 => clear_value x); (on_goal 1 => unfold x))
    | (intro x; (fail_if_success (have q : Engs := x)); (fail_if_success (have q : Svc := x)); (fail_if_success (have q : Trust := x)); (fail_if_success (have q : _ → _ := x)); clear_value x)
    | intro x
    | lift_lets -underBinder
    | with_reducible apply ite_sound
    | dsimp -zeta only
    | split
    | dsimp -zeta +zetaDelta only

theorem Dev.slotMapPut_sound {s : Dev} {k st : Nat} (h0 : s.Sound) : (Dev.slotMapPut s k st).Sound := by
  unfold Dev.slotMapPut
  repeat' first
    | with_reducible assumption
    | with_reducible apply Dev.modPport_sound
    | with_reducible apply Dev.rejected_sound
    | with_reducible apply Dev.rset_sound
    | with_reducible apply Dev.slotDown_sound
    | with_reducible apply st_sound
    | (intro x; have hx : Dev.Sound x; (on_goal 2 => clear_value x); (on_goal 1 => unfold x))
    | (intro x; (fail_if_success (have q : Engs := x)); (fail_if_success (have q : Svc := x)); (fail_if_success (have q : Trust := x)); (fail_if_success (have q : _ → _ := x)); clear_value x)
    | intro x
    | lift_lets -underBinder
    | (simp only [↓Dev.sound_mk]; with_reducible apply Dev.Sound.parts)
    | with_reducible apply ite_sound
    | dsimp -zeta only
    | split
    | dsimp -zeta +zetaDelta only

theorem Dev.grpCtlPut_sound {s : Dev} {g st : Nat} (h0 : s.Sound) : (Dev.grpCtlPut s g st).Sound := by
  unfold Dev.grpCtlPut
  repeat' first
    | with_reducible assumption
    | with_reducible apply groupDisable_sound
    | with_reducible apply Dev.rejected_sound
    | with_reducible apply Dev.rset_sound
    | with_reducible apply st_sound
    | (intro x; have hx : Dev.Sound x; (on_goal 2 => clear_value x); (on_goal 1 => unfold x))
    | (intro x; (fail_if_success (have q : Engs := x)); (fail_if_success (have q : Svc := x)); (fail_if_success (have q : Trust := x)); (fail_if_success (have q : _ → _ := x)); clear_value x)
    | intro x
    | lift_lets -underBinder
    | with_reducible apply ite_sound
    | dsimp -zeta only
    | split
    | dsimp -zeta +zetaDelta only

theorem Dev.regStore_sound {s : Dev} {p : Plane} {r : Reg} {inst : Nat} {x : RegWr} {st : Nat} (h0 : s.Sound) : (Dev.regStore s p r inst x st).Sound := by
  unfold Dev.regStore
  repeat' first
    | with_reducible assumption
    | with_reducible apply Dev.bwSet_sound
    | with_reducible apply Dev.clearRecord_sound
    | with_reducible apply Dev.commitWrite_sound
    | with_reducible apply Dev.freshSamples_sound
    | with_reducible apply Dev.grpCtlPut_sound
    | with_reducible apply hatchWrite_sound
    | with_reducible apply Dev.modEn_sound
    | with_reducible apply prbsStart_sound
    | with_reducible apply Dev.rset_sound
    | with_reducible apply Dev.shadowPut_sound
    | with_reducible apply Dev.slotMapPut_sound
    | with_reducible apply st_sound
    | with_reducible apply stagingCheckStart_sound
    | with_reducible apply Dev.vsCfgPut_sound
    | (intro x; have hx : Dev.Sound x; (on_goal 2 => clear_value x); (on_goal 1 => unfold x))
    | (intro x; (fail_if_success (have q : Engs := x)); (fail_if_success (have q : Svc := x)); (fail_if_success (have q : Trust := x)); (fail_if_success (have q : _ → _ := x)); clear_value x)
    | intro x
    | lift_lets -underBinder
    | (simp only [↓Dev.sound_mk]; with_reducible apply Dev.Sound.parts)
    | with_reducible apply ite_sound
    | dsimp -zeta only
    | split
    | dsimp -zeta +zetaDelta only

theorem Dev.regPut_sound {s : Dev} {p : Plane} {r : Reg} {inst : Nat} {x : RegWr} (h0 : s.Sound) : (Dev.regPut s p r inst x).Sound := by
  unfold Dev.regPut
  repeat' first
    | with_reducible assumption
    | with_reducible apply Dev.regStore_sound
    | with_reducible apply Dev.rejected_sound
    | with_reducible apply st_sound
    | (intro x; have hx : Dev.Sound x; (on_goal 2 => clear_value x); (on_goal 1 => unfold x))
    | (intro x; (fail_if_success (have q : Engs := x)); (fail_if_success (have q : Svc := x)); (fail_if_success (have q : Trust := x)); (fail_if_success (have q : _ → _ := x)); clear_value x)
    | intro x
    | lift_lets -underBinder
    | with_reducible apply ite_sound
    | dsimp -zeta only
    | split
    | dsimp -zeta +zetaDelta only

theorem Dev.stagedPut_sound {s : Dev} {p : Plane} {o w : Nat} (h0 : s.Sound) : (Dev.stagedPut s p o w).Sound := by
  unfold Dev.stagedPut
  repeat' first
    | with_reducible assumption
    | with_reducible apply Dev.fset_sound
    | with_reducible apply Dev.rejected_sound
    | with_reducible apply Dev.setHword_sound
    | (intro x; have hx : Dev.Sound x; (on_goal 2 => clear_value x); (on_goal 1 => unfold x))
    | (intro x; (fail_if_success (have q : Engs := x)); (fail_if_success (have q : Svc := x)); (fail_if_success (have q : Trust := x)); (fail_if_success (have q : _ → _ := x)); clear_value x)
    | intro x
    | lift_lets -underBinder
    | with_reducible apply ite_sound
    | dsimp -zeta only
    | split
    | dsimp -zeta +zetaDelta only

theorem Dev.blkWrite_sound {s : Dev} {p : Plane} {code off w : Nat} (h0 : s.Sound) : (Dev.blkWrite s p code off w).Sound := by
  unfold Dev.blkWrite
  repeat' first
    | with_reducible assumption
    | with_reducible apply Dev.regPut_sound
    | with_reducible apply Dev.stagedPut_sound
    | intro x
    | with_reducible apply ite_sound
    | dsimp -zeta only
    | split

theorem Dev.blkWriteWhole_sound {s : Dev} {p : Plane} {code off v : Nat} (h0 : s.Sound) : (Dev.blkWriteWhole s p code off v).Sound := by
  unfold Dev.blkWriteWhole
  repeat' first
    | with_reducible assumption
    | with_reducible apply Dev.blkWrite_sound
    | with_reducible apply Dev.regPut_sound
    | intro x
    | with_reducible apply ite_sound
    | dsimp -zeta only
    | split

theorem Dev.barClosed_sound {s : Dev} {vs fn : Nat} {posted : Bool} (h0 : s.Sound) : (Dev.barClosed s vs fn posted).Sound := by
  unfold Dev.barClosed
  repeat' first
    | with_reducible assumption
    | with_reducible apply Dev.sfAer_sound
    | (intro x; have hx : Dev.Sound x; (on_goal 2 => clear_value x); (on_goal 1 => unfold x))
    | (intro x; (fail_if_success (have q : Engs := x)); (fail_if_success (have q : Svc := x)); (fail_if_success (have q : Trust := x)); (fail_if_success (have q : _ → _ := x)); clear_value x)
    | intro x
    | lift_lets -underBinder
    | (simp only [↓Dev.sound_mk]; with_reducible apply Dev.Sound.parts)
    | with_reducible apply ite_sound
    | dsimp -zeta only
    | split
    | dsimp -zeta +zetaDelta only

theorem Dev.barRead_sound {s : Dev} {vs fn b off : Nat} (h0 : s.Sound) : (Dev.barRead s vs fn b off).2.Sound := by
  unfold Dev.barRead
  repeat' first
    | with_reducible assumption
    | with_reducible apply b_sound
    | with_reducible apply Dev.barClosed_sound
    | with_reducible apply Dev.drop_sound
    | with_reducible apply Dev.regAfterRead_sound
    | intro x
    | with_reducible apply ite_sound
    | dsimp -zeta only
    | split
theorem Dev.barRead_pair {s : Dev} {vs fn b off : Nat} {x_ t_} (e_ : Dev.barRead s vs fn b off = (x_, t_)) (h0 : s.Sound) : t_.Sound := by
  have q := Dev.barRead_sound (s := s) (vs := vs) (fn := fn) (b := b) (off := off) h0; rw [e_] at q; exact q

theorem Dev.queueCfgPut_sound {s : Dev} {vs fn q st0 : Nat} (h0 : s.Sound) : (Dev.queueCfgPut s vs fn q st0).Sound := by
  unfold Dev.queueCfgPut
  repeat' first
    | with_reducible assumption
    | with_reducible apply queueDisable_sound
    | with_reducible apply queueEnable_sound
    | with_reducible apply Dev.rset_sound
    | with_reducible apply st_sound
    | (intro x; have hx : Dev.Sound x; (on_goal 2 => clear_value x); (on_goal 1 => unfold x))
    | (intro x; (fail_if_success (have q : Engs := x)); (fail_if_success (have q : Svc := x)); (fail_if_success (have q : Trust := x)); (fail_if_success (have q : _ → _ := x)); clear_value x)
    | intro x
    | lift_lets -underBinder
    | with_reducible apply ite_sound
    | dsimp -zeta only
    | split
    | dsimp -zeta +zetaDelta only

theorem Dev.queueStatPut_sound {s : Dev} {q st : Nat} (h0 : s.Sound) : (Dev.queueStatPut s q st).Sound := by
  unfold Dev.queueStatPut
  repeat' first
    | with_reducible assumption
    | with_reducible apply Dev.rset_sound
    | with_reducible apply st_sound
    | intro x
    | with_reducible apply ite_sound
    | dsimp -zeta only
    | split

theorem Dev.ledgerCtlPut_sound {s : Dev} {g st : Nat} {swap : Bool} (h0 : s.Sound) : (Dev.ledgerCtlPut s g st swap).Sound := by
  unfold Dev.ledgerCtlPut
  repeat' first
    | with_reducible assumption
    | with_reducible apply ledgerSwap_sound
    | with_reducible apply Dev.rset_sound
    | with_reducible apply st_sound
    | (intro x; have hx : Dev.Sound x; (on_goal 2 => clear_value x); (on_goal 1 => unfold x))
    | (intro x; (fail_if_success (have q : Engs := x)); (fail_if_success (have q : Svc := x)); (fail_if_success (have q : Trust := x)); (fail_if_success (have q : _ → _ := x)); clear_value x)
    | intro x
    | lift_lets -underBinder
    | with_reducible apply ite_sound
    | dsimp -zeta only
    | split
    | dsimp -zeta +zetaDelta only

theorem Dev.bitmapPut_sound {s : Dev} {r : Reg} {g st : Nat} (h0 : s.Sound) : (Dev.bitmapPut s r g st).Sound := by
  unfold Dev.bitmapPut
  repeat' first
    | with_reducible assumption
    | with_reducible apply Dev.rset_sound
    | with_reducible apply st_sound
    | intro x
    | with_reducible apply ite_sound
    | dsimp -zeta only
    | split

theorem Dev.sfPut_sound {s : Dev} {vs fn : Nat} {r : Reg} {inst : Nat} {x : RegWr} (h0 : s.Sound) : (Dev.sfPut s vs fn r inst x).Sound := by
  unfold Dev.sfPut
  repeat' first
    | with_reducible assumption
    | with_reducible apply Dev.bitmapPut_sound
    | with_reducible apply Dev.clearRecord_sound
    | with_reducible apply Dev.intxSync_sound
    | with_reducible apply Dev.ledgerCtlPut_sound
    | with_reducible apply mailboxGo_sound
    | with_reducible apply Dev.queueCfgPut_sound
    | with_reducible apply Dev.queueStatPut_sound
    | with_reducible apply Dev.rset_sound
    | with_reducible apply st_sound
    | (intro x; have hx : Dev.Sound x; (on_goal 2 => clear_value x); (on_goal 1 => unfold x))
    | (intro x; (fail_if_success (have q : Engs := x)); (fail_if_success (have q : Svc := x)); (fail_if_success (have q : Trust := x)); (fail_if_success (have q : _ → _ := x)); clear_value x)
    | intro x
    | lift_lets -underBinder
    | with_reducible apply ite_sound
    | dsimp -zeta only
    | split
    | dsimp -zeta +zetaDelta only

theorem Dev.barWrite_sound {s : Dev} {vs fn b off w : Nat} (h0 : s.Sound) : (Dev.barWrite s vs fn b off w).Sound := by
  unfold Dev.barWrite
  repeat' first
    | with_reducible assumption
    | with_reducible apply b_sound
    | with_reducible apply Dev.barClosed_sound
    | with_reducible apply doorbellWrite_sound
    | with_reducible apply Dev.flushVector_sound
    | with_reducible apply Dev.modSfn_sound
    | with_reducible apply Dev.sfPut_sound
    | (intro x; have hx : Dev.Sound x; (on_goal 2 => clear_value x); (on_goal 1 => unfold x))
    | (intro x; (fail_if_success (have q : Engs := x)); (fail_if_success (have q : Svc := x)); (fail_if_success (have q : Trust := x)); (fail_if_success (have q : _ → _ := x)); clear_value x)
    | intro x
    | lift_lets -underBinder
    | (simp only [↓Dev.sound_mk]; with_reducible apply Dev.Sound.parts)
    | with_reducible apply ite_sound
    | dsimp -zeta only
    | split
    | dsimp -zeta +zetaDelta only

end Sys2Proof.Machine
end

