-- ==== Sys2Proof/Laws/SoundTrust.lean ====
section
/-! SUPPORT. Every operation of Machine/Trust.lean keeps the switch sound. -/
set_option linter.unusedTactic false
set_option linter.unusedSimpArgs false
set_option linter.unreachableTactic false
namespace Sys2Proof.Machine

theorem Trust.append_slots {t : Trust} {r : List Byte} : (t.append r).slots = t.slots := by
  unfold Trust.append; split
  · rfl
  · split <;> rfl

theorem Trust.append_log {t : Trust} {r : List Byte} (h : t.log.length ≤ logCap) : (t.append r).log.length ≤ logCap := by
  unfold Trust.append; split
  · rename_i h1; simp only [List.length_append, List.length_singleton]; omega
  · split
    · rename_i h1 old h2
      have : t.bootRecs < t.log.length := by
        by_contra hc; rw [List.getElem?_eq_none (by omega)] at h2; cases h2
      simp only [List.length_append, List.length_singleton, List.length_take, List.length_drop]; omega
    · exact h

theorem Dev.measure_sound {s : Dev} {kind slot component : Nat} {detail digest : List Byte} (h0 : s.Sound) :
    (Dev.measure s kind slot component detail digest).Sound := by
  unfold Dev.measure
  extract_lets body after _ t t1
  have e1 : t1.slots.length = 8 := by
    have := h0.2.2.2.2.2.2.2.1
    unfold t1; rw [Trust.append_slots]; unfold t; simpa using this
  have e2 : t1.log.length ≤ logCap := Trust.append_log h0.2.2.2.2.2.2.2.2
  clear_value t1
  rw [Dev.sound_mk]
  refine ⟨h0.1, h0.2.1, h0.2.2.1, h0.2.2.2.1, h0.2.2.2.2.1, h0.2.2.2.2.2.1, h0.2.2.2.2.2.2.1, ?_, ?_⟩
  · split <;> exact e1
  · split <;> exact e2

theorem Dev.measureImage_sound {s : Dev} {kind : Nat} {u : ImgUse} {retained : Bool} (h0 : s.Sound) : (Dev.measureImage s kind u retained).Sound := by
  unfold Dev.measureImage
  repeat' first
    | with_reducible assumption
    | with_reducible apply Dev.measure_sound
    | (intro x; have hx : Dev.Sound x; (on_goal 2 => clear_value x); (on_goal 1 => unfold x))
    | (intro x; (fail_if_success (have q : Engs := x)); (fail_if_success (have q : Svc := x)); (fail_if_success (have q : Trust := x)); (fail_if_success (have q : _ → _ := x)); clear_value x)
    | intro x
    | lift_lets -underBinder
    | (simp only [↓Dev.sound_mk]; with_reducible apply Dev.Sound.parts)
    | dsimp -zeta only
    | dsimp -zeta +zetaDelta only

theorem Dev.bankCopy_sound {s : Dev} (h0 : s.Sound) : (Dev.bankCopy s).2.Sound := by
  unfold Dev.bankCopy
  repeat' first
    | with_reducible assumption
    | with_reducible apply Dev.freeNat_sound
    | with_reducible refine Dev.freeNat_pair (by with_reducible assumption) ?_
    | (intro x; have hx : Dev.Sound x; (on_goal 2 => clear_value x); (on_goal 1 => unfold x))
    | (intro x; (fail_if_success (have q : Engs := x)); (fail_if_success (have q : Svc := x)); (fail_if_success (have q : Trust := x)); (fail_if_success (have q : _ → _ := x)); clear_value x)
    | intro x
    | lift_lets -underBinder
    | with_reducible apply ite_sound
    | dsimp -zeta only
    | split
    | dsimp -zeta +zetaDelta only
theorem Dev.bankCopy_pair {s : Dev} {x_ t_} (e_ : Dev.bankCopy s = (x_, t_)) (h0 : s.Sound) : t_.Sound := by
  have q := Dev.bankCopy_sound (s := s) h0; rw [e_] at q; exact q

theorem Dev.readBack_sound {s : Dev} (h0 : s.Sound) : (Dev.readBack s).Sound := by
  unfold Dev.readBack
  repeat' first
    | with_reducible assumption
    | with_reducible apply b_sound
    | with_reducible apply Dev.bankCopy_sound
    | with_reducible refine Dev.bankCopy_pair (by with_reducible assumption) ?_
    | with_reducible apply Dev.measureImage_sound
    | (intro x; have hx : Dev.Sound x; (on_goal 2 => clear_value x); (on_goal 1 => unfold x))
    | (intro x; (fail_if_success (have q : Engs := x)); (fail_if_success (have q : Svc := x)); (fail_if_success (have q : Trust := x)); (fail_if_success (have q : _ → _ := x)); clear_value x)
    | intro x
    | lift_lets -underBinder
    | (simp only [↓Dev.sound_mk]; with_reducible apply Dev.Sound.parts)
    | with_reducible apply ite_sound
    | dsimp -zeta only
    | split
    | dsimp -zeta +zetaDelta only

theorem imageMeasure_sound {slot : Nat} {s : Dev} (h0 : s.Sound) : (imageMeasure slot s).Sound := by
  unfold imageMeasure
  repeat' first
    | with_reducible assumption
    | with_reducible apply Dev.measureImage_sound
    | with_reducible apply Dev.measured_sound
    | with_reducible refine Dev.measured_pair (by with_reducible assumption) ?_
    | with_reducible apply Dev.readBack_sound
    | (intro x; have hx : Dev.Sound x; (on_goal 2 => clear_value x); (on_goal 1 => unfold x))
    | (intro x; (fail_if_success (have q : Engs := x)); (fail_if_success (have q : Svc := x)); (fail_if_success (have q : Trust := x)); (fail_if_success (have q : _ → _ := x)); clear_value x)
    | intro x
    | lift_lets -underBinder
    | (simp only [↓Dev.sound_mk]; with_reducible apply Dev.Sound.parts)
    | with_reducible apply ite_sound
    | dsimp -zeta only
    | split
    | dsimp -zeta +zetaDelta only

theorem remeasure_sound {slot : Nat} {code : List Byte} {s : Dev} (h0 : s.Sound) : (remeasure slot code s).Sound := by
  unfold remeasure
  repeat' first
    | with_reducible assumption
    | with_reducible apply Dev.enterFault_sound
    | (intro x; have hx : Dev.Sound x; (on_goal 2 => clear_value x); (on_goal 1 => unfold x))
    | (intro x; (fail_if_success (have q : Engs := x)); (fail_if_success (have q : Svc := x)); (fail_if_success (have q : Trust := x)); (fail_if_success (have q : _ → _ := x)); clear_value x)
    | intro x
    | lift_lets -underBinder
    | (simp only [↓Dev.sound_mk]; with_reducible apply Dev.Sound.parts)
    | with_reducible apply ite_sound
    | dsimp -zeta only
    | split
    | dsimp -zeta +zetaDelta only

theorem Dev.eqInForce_sound {s : Dev} {copy : Nat} {other : Bool} (h0 : s.Sound) : (Dev.eqInForce s copy other).Sound := by
  unfold Dev.eqInForce
  repeat' first
    | with_reducible assumption
    | with_reducible apply b_sound
    | with_reducible apply Dev.fsets_sound
    | (intro x; have hx : Dev.Sound x; (on_goal 2 => clear_value x); (on_goal 1 => unfold x))
    | (intro x; (fail_if_success (have q : Engs := x)); (fail_if_success (have q : Svc := x)); (fail_if_success (have q : Trust := x)); (fail_if_success (have q : _ → _ := x)); clear_value x)
    | intro x
    | lift_lets -underBinder
    | with_reducible apply ite_sound
    | dsimp -zeta only
    | split
    | dsimp -zeta +zetaDelta only

theorem Dev.measureEq_sound {s : Dev} (h0 : s.Sound) : (Dev.measureEq s).Sound := by
  unfold Dev.measureEq
  repeat' first
    | with_reducible assumption
    | with_reducible apply Dev.measure_sound
    | (intro x; have hx : Dev.Sound x; (on_goal 2 => clear_value x); (on_goal 1 => unfold x))
    | (intro x; (fail_if_success (have q : Engs := x)); (fail_if_success (have q : Svc := x)); (fail_if_success (have q : Trust := x)); (fail_if_success (have q : _ → _ := x)); clear_value x)
    | intro x
    | lift_lets -underBinder
    | dsimp -zeta only
    | dsimp -zeta +zetaDelta only

theorem Dev.eqStart_sound {s : Dev} (h0 : s.Sound) : (Dev.eqStart s).Sound := by
  unfold Dev.eqStart
  repeat' first
    | with_reducible assumption
    | with_reducible apply Dev.eqInForce_sound
    | with_reducible apply Dev.measureEq_sound
    | with_reducible apply Dev.rset_sound
    | (intro x; have hx : Dev.Sound x; (on_goal 2 => clear_value x); (on_goal 1 => unfold x))
    | (intro x; (fail_if_success (have q : Engs := x)); (fail_if_success (have q : Svc := x)); (fail_if_success (have q : Trust := x)); (fail_if_success (have q : _ → _ := x)); clear_value x)
    | intro x
    | lift_lets -underBinder
    | with_reducible apply ite_sound
    | dsimp -zeta only
    | split
    | dsimp -zeta +zetaDelta only

theorem reportReady_sound {s : Dev} (h0 : s.Sound) : (reportReady s).Sound := by
  unfold reportReady
  repeat' first
    | with_reducible assumption
    | with_reducible apply b_sound
    | with_reducible apply Dev.cmdDone_sound
    | (intro x; have hx : Dev.Sound x; (on_goal 2 => clear_value x); (on_goal 1 => unfold x))
    | (intro x; (fail_if_success (have q : Engs := x)); (fail_if_success (have q : Svc := x)); (fail_if_success (have q : Trust := x)); (fail_if_success (have q : _ → _ := x)); clear_value x)
    | intro x
    | lift_lets -underBinder
    | (simp only [↓Dev.sound_mk]; with_reducible apply Dev.Sound.parts)
    | dsimp -zeta only
    | split
    | dsimp -zeta +zetaDelta only

end Sys2Proof.Machine
end

