-- ==== Sys2Proof/Laws/SoundObjAct.lean ====
section
/-! SUPPORT. Every operation of Machine/ObjAct.lean keeps the switch sound. -/
set_option linter.unusedTactic false
set_option linter.unusedSimpArgs false
set_option linter.unreachableTactic false
namespace Sys2Proof.Machine

theorem Dev.setMaxrate_sound {s : Dev} {n v : Nat} (h0 : s.Sound) : (Dev.setMaxrate s n v).Sound := by
  unfold Dev.setMaxrate
  repeat' first
    | with_reducible assumption
    | with_reducible apply Dev.fset_sound
    | intro x
    | with_reducible apply ite_sound
    | dsimp -zeta only
    | split

theorem Dev.setRole_sound {s : Dev} {n v : Nat} (h0 : s.Sound) : (Dev.setRole s n v).Sound := by
  unfold Dev.setRole
  repeat' first
    | with_reducible assumption
    | with_reducible apply Dev.oset_sound
    | with_reducible apply Dev.setMaxrate_sound
    | (intro x; have hx : Dev.Sound x; (on_goal 2 => clear_value x); (on_goal 1 => unfold x))
    | (intro x; (fail_if_success (have q : Engs := x)); (fail_if_success (have q : Svc := x)); (fail_if_success (have q : Trust := x)); (fail_if_success (have q : _ → _ := x)); clear_value x)
    | intro x
    | lift_lets -underBinder
    | with_reducible apply ite_sound
    | dsimp -zeta only
    | split
    | dsimp -zeta +zetaDelta only

theorem Dev.portObj_sound {s : Dev} {n sub v : Nat} (h0 : s.Sound) : (Dev.portObj s n sub v).Sound := by
  unfold Dev.portObj
  repeat' first
    | with_reducible assumption
    | with_reducible apply Dev.oset_sound
    | with_reducible apply portDisable_sound
    | with_reducible apply portEnable_sound
    | with_reducible apply Dev.setMaxrate_sound
    | with_reducible apply Dev.setRole_sound
    | with_reducible apply sub_sound
    | intro x
    | with_reducible apply ite_sound
    | dsimp -zeta only
    | split

theorem Dev.packAllocs_sound {s : Dev} (h0 : s.Sound) : (Dev.packAllocs s).Sound := by
  have key : ∀ (g : Nat → Option Nat) (l : Tbl Byte) (t : Tbl Byte), (∀ e ∈ l, e.2 ≠ memEmpty) → twf memEmpty t = true →
      twf memEmpty (l.foldl (fun t e => if e.1 < engArea then tins t e.1 e.2 else match g e.1 with
        | some a => tins t a e.2
        | none => t) t) = true := by
    intro g l
    induction l with
    | nil => exact fun t _ h => h
    | cons x l ih =>
      intro t hl ht
      refine ih _ (fun e he => hl e (List.mem_cons_of_mem _ he)) ?_
      have hx := hl x List.mem_cons_self
      dsimp only
      split
      · exact twf_tins ht hx
      · split
        · exact twf_tins ht hx
        · exact ht
  have hm := (twf_iff.1 h0.1).2
  unfold Dev.packAllocs
  extract_lets l
  split
  rename_i x moves hmv
  have := key (fun a => Option.map (fun m => m.2.2.2 + (a - m.1)) (List.find? (fun m => decide (m.1 ≤ a) && decide (a < m.1 + m.2.1)) moves)) s.mem [] hm rfl
  extract_lets at_ mem _
  rw [Dev.sound_mk]
  exact ⟨this, h0.2⟩

theorem Dev.setAlloc_sound {s : Dev} {k mib : Nat} (h0 : s.Sound) : (Dev.setAlloc s k mib).Sound := by
  unfold Dev.setAlloc
  repeat' first
    | with_reducible assumption
    | with_reducible apply Dev.oset_sound
    | with_reducible apply Dev.packAllocs_sound
    | (intro x; have hx : Dev.Sound x; (on_goal 2 => clear_value x); (on_goal 1 => unfold x))
    | (intro x; (fail_if_success (have q : Engs := x)); (fail_if_success (have q : Svc := x)); (fail_if_success (have q : Trust := x)); (fail_if_success (have q : _ → _ := x)); clear_value x)
    | intro x
    | lift_lets -underBinder
    | (simp only [↓Dev.sound_mk]; with_reducible apply Dev.Sound.parts)
    | with_reducible apply ite_sound
    | dsimp -zeta only
    | split
    | dsimp -zeta +zetaDelta only

theorem Dev.setHostPort_sound {s : Dev} {v p : Nat} (h0 : s.Sound) : (Dev.setHostPort s v p).Sound := by
  unfold Dev.setHostPort
  repeat' first
    | with_reducible assumption
    | with_reducible apply Dev.fset_sound
    | with_reducible apply Dev.fsets_sound
    | intro x
    | with_reducible apply ite_sound
    | dsimp -zeta only
    | split

theorem Dev.putNum_sound {s : Dev} {idx sub v : Nat} (h0 : s.Sound) : (Dev.putNum s idx sub v).Sound := by
  unfold Dev.putNum
  repeat' first
    | with_reducible assumption
    | with_reducible apply Dev.fset_sound
    | with_reducible apply Dev.fsets_sound
    | with_reducible apply groupDisable_sound
    | with_reducible apply Dev.oset_sound
    | with_reducible apply Dev.portObj_sound
    | with_reducible apply Dev.rset_sound
    | with_reducible apply Dev.setAlloc_sound
    | with_reducible apply Dev.setHostPort_sound
    | with_reducible apply sub_sound
    | (intro x; have hx : Dev.Sound x; (on_goal 2 => clear_value x); (on_goal 1 => unfold x))
    | (intro x; (fail_if_success (have q : Engs := x)); (fail_if_success (have q : Svc := x)); (fail_if_success (have q : Trust := x)); (fail_if_success (have q : _ → _ := x)); clear_value x)
    | intro x
    | lift_lets -underBinder
    | (simp only [↓Dev.sound_mk]; with_reducible apply Dev.Sound.parts)
    | with_reducible apply ite_sound
    | dsimp -zeta only
    | split
    | dsimp -zeta +zetaDelta only

theorem Dev.putBytes_sound {s : Dev} {idx sub : Nat} {b : List Byte} (h0 : s.Sound) : (Dev.putBytes s idx sub b).Sound := by
  unfold Dev.putBytes
  repeat' first
    | with_reducible assumption
    | with_reducible apply b_sound
    | with_reducible apply Dev.drop_sound
    | with_reducible apply Dev.fsets_sound
    | with_reducible apply Dev.osetb_sound
    | with_reducible apply sub_sound
    | with_reducible apply each_sound
    | (intro x; have hx : Dev.Sound x; (on_goal 2 => clear_value x); (on_goal 1 => unfold x))
    | (intro x; (fail_if_success (have q : Engs := x)); (fail_if_success (have q : Svc := x)); (fail_if_success (have q : Trust := x)); (fail_if_success (have q : _ → _ := x)); clear_value x)
    | intro x
    | lift_lets -underBinder
    | (simp only [↓Dev.sound_mk]; with_reducible apply Dev.Sound.parts)
    | with_reducible apply ite_sound
    | dsimp -zeta only
    | split
    | dsimp -zeta +zetaDelta only

theorem Dev.objPut_sound {s : Dev} {idx sub : Nat} {v : OVal} (h0 : s.Sound) : (Dev.objPut s idx sub v).Sound := by
  unfold Dev.objPut
  repeat' first
    | with_reducible assumption
    | with_reducible apply b_sound
    | with_reducible apply Dev.putBytes_sound
    | with_reducible apply Dev.putNum_sound
    | with_reducible apply sub_sound
    | intro x
    | dsimp -zeta only
    | split

theorem Dev.restoreRws_sound {s : Dev} (h0 : s.Sound) : (Dev.restoreRws s).Sound := by
  unfold Dev.restoreRws
  repeat' first
    | with_reducible assumption
    | with_reducible apply Dev.measure_sound
    | with_reducible apply Dev.objPut_sound
    | with_reducible apply portEnable_sound
    | with_reducible apply each_sound
    | (intro x; have hx : Dev.Sound x; (on_goal 2 => clear_value x); (on_goal 1 => unfold x))
    | (intro x; (fail_if_success (have q : Engs := x)); (fail_if_success (have q : Svc := x)); (fail_if_success (have q : Trust := x)); (fail_if_success (have q : _ → _ := x)); clear_value x)
    | intro x
    | lift_lets -underBinder
    | dsimp -zeta only
    | dsimp -zeta +zetaDelta only

end Sys2Proof.Machine
end

