-- ==== Sys2Proof/Laws/SoundBoot.lean ====
section
/-! SUPPORT. Every operation of Machine/Boot.lean keeps the switch sound. -/
set_option linter.unusedTactic false
set_option linter.unusedSimpArgs false
set_option linter.unreachableTactic false
namespace Sys2Proof.Machine

theorem Dev.bootEntry_sound {s : Dev} {cause : Nat} (h0 : s.Sound) : (Dev.bootEntry s cause).Sound := by
  unfold Dev.bootEntry
  extract_lets s1 cold hold pe0 d tel0 d1
  have a1 : Dev.Sound s1 := each_sound (Dev.settleFlash_sound h0) fun _ _ h => Dev.pin_sound (Dev.pin_sound (Dev.pin_sound h))
  clear_value s1
  have hm : ∀ c : Bool, twf memEmpty (if c = true then [] else keptMem s1.mem) = true := fun c => by
    split
    · rfl
    · exact twf_filter a1.1
  have hr : ∀ c : Bool, tabove 0 (if c = true then [] else keptRegs s1.regs) = true := fun c => by
    split
    · rfl
    · exact tabove_filter a1.2.2.1
  have hf : ∀ c : Bool, (if c = true then 0 else s1.ftime) < 2 ^ 64 := fun c => by
    split
    · decide
    · exact a1.2.2.2.2.2.2.1
  have a2 : Dev.Sound d := by
    unfold d
    rw [Dev.sound_mk]
    exact ⟨hm _, rfl, hr _, tabove_filter a1.2.2.2.2.1, a1.2.2.2.2.1, (by decide : (1 : Nat) ≤ 7), hf _, rfl, Nat.zero_le _⟩
  clear_value d
  have a3 : Dev.Sound d1 := Dev.wearRegs_sound (by rw [Dev.sound_mk]; exact a2.parts)
  clear_value d1
  split
  · exact a3
  · exact Dev.fset_sound a3

theorem powerGood_sound {s : Dev} (h0 : s.Sound) : (powerGood s).Sound := by
  unfold powerGood
  repeat' first
    | with_reducible assumption
    | with_reducible apply Dev.bootEntry_sound
    | (intro x; have hx : Dev.Sound x; (on_goal 2 => clear_value x); (on_goal 1 => unfold x))
    | (intro x; (fail_if_success (have q : Engs := x)); (fail_if_success (have q : Svc := x)); (fail_if_success (have q : Trust := x)); (fail_if_success (have q : _ → _ := x)); clear_value x)
    | intro x
    | lift_lets -underBinder
    | (simp only [↓Dev.sound_mk]; with_reducible apply Dev.Sound.parts)
    | with_reducible apply ite_sound
    | dsimp -zeta only
    | split
    | dsimp -zeta +zetaDelta only

theorem Dev.warmStart_sound {s : Dev} (h0 : s.Sound) : (Dev.warmStart s).Sound := by
  unfold Dev.warmStart
  repeat' first
    | with_reducible assumption
    | with_reducible apply Dev.bootEntry_sound
    | (intro x; have hx : Dev.Sound x; (on_goal 2 => clear_value x); (on_goal 1 => unfold x))
    | (intro x; (fail_if_success (have q : Engs := x)); (fail_if_success (have q : Svc := x)); (fail_if_success (have q : Trust := x)); (fail_if_success (have q : _ → _ := x)); clear_value x)
    | intro x
    | lift_lets -underBinder
    | (simp only [↓Dev.sound_mk]; with_reducible apply Dev.Sound.parts)
    | dsimp -zeta only
    | dsimp -zeta +zetaDelta only

theorem warmReset_sound {held : Nat} {s : Dev} (h0 : s.Sound) : (warmReset held s).Sound := by
  unfold warmReset
  repeat' first
    | with_reducible assumption
    | with_reducible apply Dev.freeNat_sound
    | with_reducible refine Dev.freeNat_pair (by with_reducible assumption) ?_
    | with_reducible apply Dev.warmStart_sound
    | (intro x; have hx : Dev.Sound x; (on_goal 2 => clear_value x); (on_goal 1 => unfold x))
    | (intro x; (fail_if_success (have q : Engs := x)); (fail_if_success (have q : Svc := x)); (fail_if_success (have q : Trust := x)); (fail_if_success (have q : _ → _ := x)); clear_value x)
    | intro x
    | lift_lets -underBinder
    | with_reducible apply ite_sound
    | dsimp -zeta only
    | split
    | dsimp -zeta +zetaDelta only

theorem rstNRelease_sound {s : Dev} (h0 : s.Sound) : (rstNRelease s).Sound := by
  unfold rstNRelease
  repeat' first
    | with_reducible assumption
    | (intro x; have hx : Dev.Sound x; (on_goal 2 => clear_value x); (on_goal 1 => unfold x))
    | (intro x; (fail_if_success (have q : Engs := x)); (fail_if_success (have q : Svc := x)); (fail_if_success (have q : Trust := x)); (fail_if_success (have q : _ → _ := x)); clear_value x)
    | intro x
    | lift_lets -underBinder
    | (simp only [↓Dev.sound_mk]; with_reducible apply Dev.Sound.parts)
    | with_reducible apply ite_sound
    | dsimp -zeta only
    | split
    | dsimp -zeta +zetaDelta only

theorem Dev.toStandby_sound {s : Dev} (h0 : s.Sound) : (Dev.toStandby s).Sound := by
  unfold Dev.toStandby
  repeat' first
    | with_reducible assumption
    | with_reducible apply Dev.restoreRws_sound
    | with_reducible apply Dev.setDevState_sound
    | intro x
    | dsimp -zeta only
    | decide

theorem Dev.tellTrips_sound {s : Dev} (h0 : s.Sound) : (Dev.tellTrips s).Sound := by
  unfold Dev.tellTrips
  repeat' first
    | with_reducible assumption
    | with_reducible apply Dev.raise_sound
    | (intro x; have hx : Dev.Sound x; (on_goal 2 => clear_value x); (on_goal 1 => unfold x))
    | (intro x; (fail_if_success (have q : Engs := x)); (fail_if_success (have q : Svc := x)); (fail_if_success (have q : Trust := x)); (fail_if_success (have q : _ → _ := x)); clear_value x)
    | intro x
    | lift_lets -underBinder
    | (simp only [↓Dev.sound_mk]; with_reducible apply Dev.Sound.parts)
    | with_reducible apply ite_sound
    | dsimp -zeta only
    | split
    | dsimp -zeta +zetaDelta only

theorem bootComplete_sound {s : Dev} (h0 : s.Sound) : (bootComplete s).Sound := by
  unfold bootComplete
  repeat' first
    | with_reducible assumption
    | with_reducible apply Dev.eqStart_sound
    | with_reducible apply Dev.measured_sound
    | with_reducible refine Dev.measured_pair (by with_reducible assumption) ?_
    | with_reducible apply Dev.setDevState_sound
    | with_reducible apply Dev.tellTrips_sound
    | with_reducible apply Dev.thermal_sound
    | with_reducible apply Dev.toStandby_sound
    | (intro x; have hx : Dev.Sound x; (on_goal 2 => clear_value x); (on_goal 1 => unfold x))
    | (intro x; (fail_if_success (have q : Engs := x)); (fail_if_success (have q : Svc := x)); (fail_if_success (have q : Trust := x)); (fail_if_success (have q : _ → _ := x)); clear_value x)
    | intro x
    | lift_lets -underBinder
    | with_reducible apply ite_sound
    | dsimp -zeta only
    | split
    | decide
    | dsimp -zeta +zetaDelta only

theorem eccInitComplete_sound {s : Dev} (h0 : s.Sound) : (eccInitComplete s).Sound := by
  unfold eccInitComplete
  repeat' first
    | with_reducible assumption
    | (intro x; have hx : Dev.Sound x; (on_goal 2 => clear_value x); (on_goal 1 => unfold x))
    | (intro x; (fail_if_success (have q : Engs := x)); (fail_if_success (have q : Svc := x)); (fail_if_success (have q : Trust := x)); (fail_if_success (have q : _ → _ := x)); clear_value x)
    | intro x
    | lift_lets -underBinder
    | (simp only [↓Dev.sound_mk]; with_reducible apply Dev.Sound.parts)
    | dsimp -zeta only
    | dsimp -zeta +zetaDelta only

theorem rrsLimitExpiry_sound {s : Dev} (h0 : s.Sound) : (rrsLimitExpiry s).Sound := by
  unfold rrsLimitExpiry
  repeat' first
    | with_reducible assumption
    | with_reducible apply Dev.raise_sound
    | (intro x; have hx : Dev.Sound x; (on_goal 2 => clear_value x); (on_goal 1 => unfold x))
    | (intro x; (fail_if_success (have q : Engs := x)); (fail_if_success (have q : Svc := x)); (fail_if_success (have q : Trust := x)); (fail_if_success (have q : _ → _ := x)); clear_value x)
    | intro x
    | lift_lets -underBinder
    | (simp only [↓Dev.sound_mk]; with_reducible apply Dev.Sound.parts)
    | with_reducible apply ite_sound
    | dsimp -zeta only
    | split
    | dsimp -zeta +zetaDelta only

theorem Dev.sfHotReset_sound {s : Dev} {vs : Nat} (h0 : s.Sound) : (Dev.sfHotReset s vs).Sound := by
  unfold Dev.sfHotReset
  repeat' first
    | with_reducible assumption
    | with_reducible apply flrComplete_sound
    | with_reducible apply functionLevelReset_sound
    | with_reducible apply each_sound
    | (intro x; have hx : Dev.Sound x; (on_goal 2 => clear_value x); (on_goal 1 => unfold x))
    | (intro x; (fail_if_success (have q : Engs := x)); (fail_if_success (have q : Svc := x)); (fail_if_success (have q : Trust := x)); (fail_if_success (have q : _ → _ := x)); clear_value x)
    | intro x
    | lift_lets -underBinder
    | dsimp -zeta only
    | dsimp -zeta +zetaDelta only

theorem Dev.slotReset_sound {s : Dev} {vs n : Nat} (h0 : s.Sound) : (Dev.slotReset s vs n).Sound := by
  unfold Dev.slotReset
  repeat' first
    | with_reducible assumption
    | with_reducible apply Dev.modSlot_sound
    | with_reducible apply Dev.modVd_sound
    | with_reducible apply slotPowerOff_sound
    | with_reducible apply slotPowerOn_sound
    | (intro x; have hx : Dev.Sound x; (on_goal 2 => clear_value x); (on_goal 1 => unfold x))
    | (intro x; (fail_if_success (have q : Engs := x)); (fail_if_success (have q : Svc := x)); (fail_if_success (have q : Trust := x)); (fail_if_success (have q : _ → _ := x)); clear_value x)
    | intro x
    | lift_lets -underBinder
    | (simp only [↓Dev.sound_mk]; with_reducible apply Dev.Sound.parts)
    | with_reducible apply ite_sound
    | dsimp -zeta only
    | split
    | dsimp -zeta +zetaDelta only

theorem Dev.vdspReset_sound {s : Dev} {vs n : Nat} (h0 : s.Sound) : (Dev.vdspReset s vs n).Sound := by
  unfold Dev.vdspReset
  repeat' first
    | with_reducible assumption
    | with_reducible apply Dev.modPfn_sound
    | with_reducible apply Dev.modVd_sound
    | with_reducible apply Dev.slotReset_sound
    | with_reducible apply Dev.syncPresence_sound
    | with_reducible apply Dev.tellControls_sound
    | with_reducible apply vdspAspmControl_sound
    | with_reducible apply vdspLinkDisable_sound
    | (intro x; have hx : Dev.Sound x; (on_goal 2 => clear_value x); (on_goal 1 => unfold x))
    | (intro x; (fail_if_success (have q : Engs := x)); (fail_if_success (have q : Svc := x)); (fail_if_success (have q : Trust := x)); (fail_if_success (have q : _ → _ := x)); clear_value x)
    | intro x
    | lift_lets -underBinder
    | (simp only [↓Dev.sound_mk]; with_reducible apply Dev.Sound.parts)
    | with_reducible apply ite_sound
    | dsimp -zeta only
    | split
    | dsimp -zeta +zetaDelta only

theorem vsHotReset_sound {vs : Nat} {s : Dev} (h0 : s.Sound) : (vsHotReset vs s).Sound := by
  unfold vsHotReset
  repeat' first
    | with_reducible assumption
    | with_reducible apply Dev.flushPort_sound
    | with_reducible apply Dev.linkDown_sound
    | with_reducible apply Dev.modPfn_sound
    | with_reducible apply Dev.rclear_sound
    | with_reducible apply secondaryBusReset_sound
    | with_reducible apply Dev.sendWindowNotice_sound
    | with_reducible apply Dev.sfHotReset_sound
    | with_reducible apply Dev.syncBusMap_sound
    | with_reducible apply Dev.tellPtm_sound
    | with_reducible apply Dev.vdspReset_sound
    | with_reducible apply each_sound
    | (intro x; have hx : Dev.Sound x; (on_goal 2 => clear_value x); (on_goal 1 => unfold x))
    | (intro x; (fail_if_success (have q : Engs := x)); (fail_if_success (have q : Svc := x)); (fail_if_success (have q : Trust := x)); (fail_if_success (have q : _ → _ := x)); clear_value x)
    | intro x
    | lift_lets -underBinder
    | (simp only [↓Dev.sound_mk]; with_reducible apply Dev.Sound.parts)
    | with_reducible apply ite_sound
    | dsimp -zeta only
    | split
    | dsimp -zeta +zetaDelta only

theorem pcieLinkDown_sound {n : Nat} {hotReset : Bool} {s : Dev} (h0 : s.Sound) : (pcieLinkDown n hotReset s).Sound := by
  unfold pcieLinkDown
  repeat' first
    | with_reducible assumption
    | with_reducible apply Dev.dataDown_sound
    | with_reducible apply vsHotReset_sound
    | (intro x; have hx : Dev.Sound x; (on_goal 2 => clear_value x); (on_goal 1 => unfold x))
    | (intro x; (fail_if_success (have q : Engs := x)); (fail_if_success (have q : Svc := x)); (fail_if_success (have q : Trust := x)); (fail_if_success (have q : _ → _ := x)); clear_value x)
    | intro x
    | lift_lets -underBinder
    | with_reducible apply ite_sound
    | dsimp -zeta only
    | split
    | dsimp -zeta +zetaDelta only

theorem hostPerstAssert_sound {n : Nat} {s : Dev} (h0 : s.Sound) : (hostPerstAssert n s).Sound := by
  unfold hostPerstAssert
  repeat' first
    | with_reducible assumption
    | with_reducible apply Dev.modPport_sound
    | with_reducible apply pcieLinkDown_sound
    | (intro x; have hx : Dev.Sound x; (on_goal 2 => clear_value x); (on_goal 1 => unfold x))
    | (intro x; (fail_if_success (have q : Engs := x)); (fail_if_success (have q : Svc := x)); (fail_if_success (have q : Trust := x)); (fail_if_success (have q : _ → _ := x)); clear_value x)
    | intro x
    | lift_lets -underBinder
    | (simp only [↓Dev.sound_mk]; with_reducible apply Dev.Sound.parts)
    | with_reducible apply ite_sound
    | dsimp -zeta only
    | split
    | dsimp -zeta +zetaDelta only

theorem hostPerstRelease_sound {n : Nat} {s : Dev} (h0 : s.Sound) : (hostPerstRelease n s).Sound := by
  unfold hostPerstRelease
  repeat' first
    | with_reducible assumption
    | with_reducible apply Dev.modPport_sound
    | (intro x; have hx : Dev.Sound x; (on_goal 2 => clear_value x); (on_goal 1 => unfold x))
    | (intro x; (fail_if_success (have q : Engs := x)); (fail_if_success (have q : Svc := x)); (fail_if_success (have q : Trust := x)); (fail_if_success (have q : _ → _ := x)); clear_value x)
    | intro x
    | lift_lets -underBinder
    | (simp only [↓Dev.sound_mk]; with_reducible apply Dev.Sound.parts)
    | with_reducible apply ite_sound
    | dsimp -zeta only
    | split
    | dsimp -zeta +zetaDelta only

theorem Dev.clusterReset_sound {s : Dev} {c : Nat} (h0 : s.Sound) : (Dev.clusterReset s c).2.Sound := by
  unfold Dev.clusterReset
  extract_lets rs s1 s2 _ s3 s4
  have a1 : Dev.Sound s1 := each_sound h0 fun _ _ h => Dev.stopRun_sound h
  clear_value s1
  have a2 : Dev.Sound s2 := Dev.setResidents_sound a1
  have a3 : Dev.Sound s3 := by
    unfold s3
    clear_value s2
    rw [Dev.sound_mk]
    exact ⟨a2.1, twf_filter a2.2.1, a2.2.2⟩
  clear_value s3
  have a4 : Dev.Sound s4 := each_sound a3 fun _ _ h => Dev.rclear_sound (Dev.rclear_sound (Dev.rclear_sound (Dev.rclear_sound h)))
  clear_value s4
  exact a4
theorem Dev.clusterReset_pair {s : Dev} {c : Nat} {x_ t_} (e_ : Dev.clusterReset s c = (x_, t_)) (h0 : s.Sound) : t_.Sound := by
  have q := Dev.clusterReset_sound (s := s) (c := c) h0; rw [e_] at q; exact q

end Sys2Proof.Machine
end

