-- ==== Sys2Proof/Laws/SoundDeal.lean ====
section
/-! SUPPORT. Every operation of Machine/Deal.lean keeps the switch sound. -/
set_option linter.unusedTactic false
set_option linter.unusedSimpArgs false
set_option linter.unreachableTactic false
namespace Sys2Proof.Machine

theorem Dev.treeTo_sound {s : Dev} {f : Nat} {m : TreeMsg} (h0 : s.Sound) : (Dev.treeTo s f m).Sound := by
  unfold Dev.treeTo
  repeat' first
    | with_reducible assumption
    | with_reducible apply Dev.emit_sound
    | (intro x; have hx : Dev.Sound x; (on_goal 2 => clear_value x); (on_goal 1 => unfold x))
    | (intro x; (fail_if_success (have q : Engs := x)); (fail_if_success (have q : Svc := x)); (fail_if_success (have q : Trust := x)); (fail_if_success (have q : _ → _ := x)); clear_value x)
    | intro x
    | lift_lets -underBinder
    | (simp only [↓Dev.sound_mk]; with_reducible apply Dev.Sound.parts)
    | dsimp -zeta only
    | dsimp -zeta +zetaDelta only

theorem Dev.downMsg_sound {s : Dev} {src : TreeSrc} {m : TreeMsg} {act : Dev → Bool → Dev} (h0 : s.Sound) (hf : ∀ t x1, Dev.Sound t → Dev.Sound (act t x1)) : (Dev.downMsg s src m act).Sound := by
  unfold Dev.downMsg
  repeat' first
    | with_reducible assumption
    | with_reducible apply Dev.count_sound
    | with_reducible apply Dev.fset_sound
    | with_reducible apply Dev.treeTo_sound
    | with_reducible apply each_sound
    | with_reducible apply hf
    | (intro x; have hx : Dev.Sound x; (on_goal 2 => clear_value x); (on_goal 1 => unfold x))
    | (intro x; (fail_if_success (have q : Engs := x)); (fail_if_success (have q : Svc := x)); (fail_if_success (have q : Trust := x)); (fail_if_success (have q : _ → _ := x)); clear_value x)
    | intro x
    | lift_lets -underBinder
    | (simp only [↓Dev.sound_mk]; with_reducible apply Dev.Sound.parts)
    | with_reducible apply ite_sound
    | dsimp -zeta only
    | split
    | dsimp -zeta +zetaDelta only

theorem Dev.dealerHears_sound {s : Dev} {m : TreeMsg} (h0 : s.Sound) : (Dev.dealerHears s m).Sound := by
  unfold Dev.dealerHears
  repeat' first
    | with_reducible assumption
    | with_reducible apply Dev.cmdDone_sound
    | with_reducible apply Dev.count_sound
    | with_reducible apply Dev.deliver_sound
    | with_reducible apply Dev.emit_sound
    | (intro x; have hx : Dev.Sound x; (on_goal 2 => clear_value x); (on_goal 1 => unfold x))
    | (intro x; (fail_if_success (have q : Engs := x)); (fail_if_success (have q : Svc := x)); (fail_if_success (have q : Trust := x)); (fail_if_success (have q : _ → _ := x)); clear_value x)
    | intro x
    | lift_lets -underBinder
    | with_reducible apply ite_sound
    | dsimp -zeta only
    | split
    | dsimp -zeta +zetaDelta only

theorem Dev.sendUp_sound {s : Dev} {m : TreeMsg} (h0 : s.Sound) : (Dev.sendUp s m).Sound := by
  unfold Dev.sendUp
  repeat' first
    | with_reducible assumption
    | with_reducible apply Dev.dealerHears_sound
    | with_reducible apply Dev.freeNat_sound
    | with_reducible refine Dev.freeNat_pair (by with_reducible assumption) ?_
    | with_reducible apply Dev.notice_sound
    | with_reducible apply Dev.sendReply_sound
    | with_reducible apply Dev.treeTo_sound
    | (intro x; have hx : Dev.Sound x; (on_goal 2 => clear_value x); (on_goal 1 => unfold x))
    | (intro x; (fail_if_success (have q : Engs := x)); (fail_if_success (have q : Svc := x)); (fail_if_success (have q : Trust := x)); (fail_if_success (have q : _ → _ := x)); clear_value x)
    | intro x
    | lift_lets -underBinder
    | with_reducible apply ite_sound
    | dsimp -zeta only
    | split
    | dsimp -zeta +zetaDelta only

theorem Dev.setComb_sound {s : Dev} {kind : Nat} {c : Combine} (h0 : s.Sound) : (Dev.setComb s kind c).Sound := by
  unfold Dev.setComb
  repeat' first
    | with_reducible assumption
    | with_reducible apply vote_sound
    | (intro x; have hx : Dev.Sound x; (on_goal 2 => clear_value x); (on_goal 1 => unfold x))
    | (intro x; (fail_if_success (have q : Engs := x)); (fail_if_success (have q : Svc := x)); (fail_if_success (have q : Trust := x)); (fail_if_success (have q : _ → _ := x)); clear_value x)
    | intro x
    | lift_lets -underBinder
    | (simp only [↓Dev.sound_mk]; with_reducible apply Dev.Sound.parts)
    | with_reducible apply ite_sound
    | dsimp -zeta only
    | split
    | dsimp -zeta +zetaDelta only

theorem Dev.combTry_sound {s : Dev} {kind : Nat} (h0 : s.Sound) : (Dev.combTry s kind).Sound := by
  unfold Dev.combTry
  repeat' first
    | with_reducible assumption
    | with_reducible apply Dev.sendUp_sound
    | with_reducible apply Dev.setComb_sound
    | (intro x; have hx : Dev.Sound x; (on_goal 2 => clear_value x); (on_goal 1 => unfold x))
    | (intro x; (fail_if_success (have q : Engs := x)); (fail_if_success (have q : Svc := x)); (fail_if_success (have q : Trust := x)); (fail_if_success (have q : _ → _ := x)); clear_value x)
    | intro x
    | lift_lets -underBinder
    | (simp only [↓Dev.sound_mk]; with_reducible apply Dev.Sound.parts)
    | with_reducible apply ite_sound
    | dsimp -zeta only
    | split
    | dsimp -zeta +zetaDelta only

theorem Dev.combStart_sound {s : Dev} {kind epoch round : Nat} (h0 : s.Sound) : (Dev.combStart s kind epoch round).Sound := by
  unfold Dev.combStart
  repeat' first
    | with_reducible assumption
    | with_reducible apply Dev.setComb_sound
    | with_reducible apply foldl_sound
    | (intro x; have hx : Dev.Sound x; (on_goal 2 => clear_value x); (on_goal 1 => unfold x))
    | (intro x; (fail_if_success (have q : Engs := x)); (fail_if_success (have q : Svc := x)); (fail_if_success (have q : Trust := x)); (fail_if_success (have q : _ → _ := x)); clear_value x)
    | intro x
    | lift_lets -underBinder
    | (simp only [↓Dev.sound_mk]; with_reducible apply Dev.Sound.parts)
    | with_reducible apply ite_sound
    | dsimp -zeta only
    | split
    | dsimp -zeta +zetaDelta only

theorem Dev.upMsg_sound {s : Dev} {src : TreeSrc} {kind : Nat} {m : TreeMsg} (h0 : s.Sound) : (Dev.upMsg s src kind m).Sound := by
  unfold Dev.upMsg
  repeat' first
    | with_reducible assumption
    | with_reducible apply Dev.combTry_sound
    | with_reducible apply Dev.count_sound
    | with_reducible apply Dev.dealerHears_sound
    | with_reducible apply Dev.setComb_sound
    | (intro x; have hx : Dev.Sound x; (on_goal 2 => clear_value x); (on_goal 1 => unfold x))
    | (intro x; (fail_if_success (have q : Engs := x)); (fail_if_success (have q : Svc := x)); (fail_if_success (have q : Trust := x)); (fail_if_success (have q : _ → _ := x)); clear_value x)
    | intro x
    | lift_lets -underBinder
    | (simp only [↓Dev.sound_mk]; with_reducible apply Dev.Sound.parts)
    | with_reducible apply ite_sound
    | dsimp -zeta only
    | split
    | dsimp -zeta +zetaDelta only

theorem vote_sound {m : TreeMsg} {src : TreeSrc} {s : Dev} (h0 : s.Sound) : (vote m src s).Sound := by
  unfold vote
  repeat' first
    | with_reducible assumption
    | with_reducible apply Dev.upMsg_sound
    | (intro x; have hx : Dev.Sound x; (on_goal 2 => clear_value x); (on_goal 1 => unfold x))
    | (intro x; (fail_if_success (have q : Engs := x)); (fail_if_success (have q : Svc := x)); (fail_if_success (have q : Trust := x)); (fail_if_success (have q : _ → _ := x)); clear_value x)
    | intro x
    | lift_lets -underBinder
    | (simp only [↓Dev.sound_mk]; with_reducible apply Dev.Sound.parts)
    | dsimp -zeta only
    | dsimp -zeta +zetaDelta only

theorem confirm_sound {src : TreeSrc} {m : TreeMsg} {s : Dev} (h0 : s.Sound) : (confirm src m s).Sound := by
  unfold confirm
  repeat' first
    | with_reducible assumption
    | with_reducible apply Dev.upMsg_sound
    | (intro x; have hx : Dev.Sound x; (on_goal 2 => clear_value x); (on_goal 1 => unfold x))
    | (intro x; (fail_if_success (have q : Engs := x)); (fail_if_success (have q : Svc := x)); (fail_if_success (have q : Trust := x)); (fail_if_success (have q : _ → _ := x)); clear_value x)
    | intro x
    | lift_lets -underBinder
    | (simp only [↓Dev.sound_mk]; with_reducible apply Dev.Sound.parts)
    | dsimp -zeta only
    | dsimp -zeta +zetaDelta only

theorem cutDone_sound {src : TreeSrc} {m : TreeMsg} {s : Dev} (h0 : s.Sound) : (cutDone src m s).Sound := by
  unfold cutDone
  repeat' first
    | with_reducible assumption
    | with_reducible apply Dev.upMsg_sound
    | (intro x; have hx : Dev.Sound x; (on_goal 2 => clear_value x); (on_goal 1 => unfold x))
    | (intro x; (fail_if_success (have q : Engs := x)); (fail_if_success (have q : Svc := x)); (fail_if_success (have q : Trust := x)); (fail_if_success (have q : _ → _ := x)); clear_value x)
    | intro x
    | lift_lets -underBinder
    | (simp only [↓Dev.sound_mk]; with_reducible apply Dev.Sound.parts)
    | dsimp -zeta only
    | dsimp -zeta +zetaDelta only

theorem treeChildTimeout_sound {kind : Nat} {s : Dev} (h0 : s.Sound) : (treeChildTimeout kind s).Sound := by
  unfold treeChildTimeout
  repeat' first
    | with_reducible assumption
    | with_reducible apply Dev.combTry_sound
    | with_reducible apply Dev.fset_sound
    | with_reducible apply Dev.raise_sound
    | with_reducible apply Dev.setComb_sound
    | with_reducible apply foldl_sound
    | (intro x; have hx : Dev.Sound x; (on_goal 2 => clear_value x); (on_goal 1 => unfold x))
    | (intro x; (fail_if_success (have q : Engs := x)); (fail_if_success (have q : Svc := x)); (fail_if_success (have q : Trust := x)); (fail_if_success (have q : _ → _ := x)); clear_value x)
    | intro x
    | lift_lets -underBinder
    | (simp only [↓Dev.sound_mk]; with_reducible apply Dev.Sound.parts)
    | with_reducible apply ite_sound
    | dsimp -zeta only
    | split
    | dsimp -zeta +zetaDelta only

theorem Dev.markerSend_sound {s : Dev} {p sub info : Nat} (h0 : s.Sound) : (Dev.markerSend s p sub info).Sound := by
  unfold Dev.markerSend
  repeat' first
    | with_reducible assumption
    | with_reducible apply Dev.enqueue_sound
    | with_reducible apply Dev.enter_sound
    | with_reducible apply Dev.marker_sound
    | with_reducible apply sub_sound
    | (intro x; have hx : Dev.Sound x; (on_goal 2 => clear_value x); (on_goal 1 => unfold x))
    | (intro x; (fail_if_success (have q : Engs := x)); (fail_if_success (have q : Svc := x)); (fail_if_success (have q : Trust := x)); (fail_if_success (have q : _ → _ := x)); clear_value x)
    | intro x
    | lift_lets -underBinder
    | (simp only [↓Dev.sound_mk]; with_reducible apply Dev.Sound.parts)
    | dsimp -zeta only
    | dsimp -zeta +zetaDelta only

theorem Dev.postDrain_sound {s : Dev} (h0 : s.Sound) : (Dev.postDrain s).Sound := by
  unfold Dev.postDrain
  repeat' first
    | with_reducible assumption
    | with_reducible apply Dev.markerSend_sound
    | with_reducible apply each_sound
    | (intro x; have hx : Dev.Sound x; (on_goal 2 => clear_value x); (on_goal 1 => unfold x))
    | (intro x; (fail_if_success (have q : Engs := x)); (fail_if_success (have q : Svc := x)); (fail_if_success (have q : Trust := x)); (fail_if_success (have q : _ → _ := x)); clear_value x)
    | intro x
    | lift_lets -underBinder
    | (simp only [↓Dev.sound_mk]; with_reducible apply Dev.Sound.parts)
    | with_reducible apply ite_sound
    | dsimp -zeta only
    | split
    | dsimp -zeta +zetaDelta only

theorem Dev.startDrain_sound {s : Dev} {round : Nat} (h0 : s.Sound) : (Dev.startDrain s round).Sound := by
  unfold Dev.startDrain
  repeat' first
    | with_reducible assumption
    | with_reducible apply Dev.combStart_sound
    | with_reducible apply Dev.combTry_sound
    | with_reducible apply Dev.fsets_sound
    | with_reducible apply Dev.postDrain_sound
    | (intro x; have hx : Dev.Sound x; (on_goal 2 => clear_value x); (on_goal 1 => unfold x))
    | (intro x; (fail_if_success (have q : Engs := x)); (fail_if_success (have q : Svc := x)); (fail_if_success (have q : Trust := x)); (fail_if_success (have q : _ → _ := x)); clear_value x)
    | intro x
    | lift_lets -underBinder
    | (simp only [↓Dev.sound_mk]; with_reducible apply Dev.Sound.parts)
    | dsimp -zeta only
    | dsimp -zeta +zetaDelta only

theorem Dev.retrunk_sound {s : Dev} (h0 : s.Sound) : (Dev.retrunk s).Sound := by
  unfold Dev.retrunk
  repeat' first
    | with_reducible assumption
    | with_reducible apply Dev.trunkJoin_sound
    | with_reducible apply Dev.trunkLeave_sound
    | with_reducible apply each_sound
    | with_reducible apply foldl_sound
    | (intro x; have hx : Dev.Sound x; (on_goal 2 => clear_value x); (on_goal 1 => unfold x))
    | (intro x; (fail_if_success (have q : Engs := x)); (fail_if_success (have q : Svc := x)); (fail_if_success (have q : Trust := x)); (fail_if_success (have q : _ → _ := x)); clear_value x)
    | intro x
    | lift_lets -underBinder
    | (simp only [↓Dev.sound_mk]; with_reducible apply Dev.Sound.parts)
    | dsimp -zeta only
    | dsimp -zeta +zetaDelta only

theorem Dev.dealEntryWrite_sound {s : Dev} {r : Reg} {inst byte v : Nat} (h0 : s.Sound) : (Dev.dealEntryWrite s r inst byte v).Sound := by
  unfold Dev.dealEntryWrite
  repeat' first
    | with_reducible assumption
    | with_reducible apply Dev.rset_sound
    | (intro x; have hx : Dev.Sound x; (on_goal 2 => clear_value x); (on_goal 1 => unfold x))
    | (intro x; (fail_if_success (have q : Engs := x)); (fail_if_success (have q : Svc := x)); (fail_if_success (have q : Trust := x)); (fail_if_success (have q : _ → _ := x)); clear_value x)
    | intro x
    | lift_lets -underBinder
    | (simp only [↓Dev.sound_mk]; with_reducible apply Dev.Sound.parts)
    | with_reducible apply ite_sound
    | dsimp -zeta only
    | split
    | dsimp -zeta +zetaDelta only

theorem Dev.dealList_sound {s : Dev} {par : Nat} (h0 : s.Sound) : (Dev.dealList s par).Sound := by
  unfold Dev.dealList
  repeat' first
    | with_reducible assumption
    | with_reducible apply Dev.arbAfterWrite_sound
    | with_reducible apply Dev.armGate_sound
    | with_reducible apply Dev.copyPort_sound
    | with_reducible apply Dev.dealEntryWrite_sound
    | with_reducible apply Dev.rset_sound
    | with_reducible apply each_sound
    | (intro x; have hx : Dev.Sound x; (on_goal 2 => clear_value x); (on_goal 1 => unfold x))
    | (intro x; (fail_if_success (have q : Engs := x)); (fail_if_success (have q : Svc := x)); (fail_if_success (have q : Trust := x)); (fail_if_success (have q : _ → _ := x)); clear_value x)
    | intro x
    | lift_lets -underBinder
    | with_reducible apply ite_sound
    | dsimp -zeta only
    | split
    | dsimp -zeta +zetaDelta only

theorem Dev.installTree_sound {s : Dev} {par : Nat} (h0 : s.Sound) : (Dev.installTree s par).Sound := by
  unfold Dev.installTree
  repeat' first
    | with_reducible assumption
    | with_reducible apply Dev.fsets_sound
    | with_reducible apply Dev.timeElect_sound
    | with_reducible apply each_sound
    | (intro x; have hx : Dev.Sound x; (on_goal 2 => clear_value x); (on_goal 1 => unfold x))
    | (intro x; (fail_if_success (have q : Engs := x)); (fail_if_success (have q : Svc := x)); (fail_if_success (have q : Trust := x)); (fail_if_success (have q : _ → _ := x)); clear_value x)
    | intro x
    | lift_lets -underBinder
    | (simp only [↓Dev.sound_mk]; with_reducible apply Dev.Sound.parts)
    | dsimp -zeta only
    | dsimp -zeta +zetaDelta only

theorem Dev.join_sound {s : Dev} {par e : Nat} (h0 : s.Sound) : (Dev.join s par e).Sound := by
  unfold Dev.join
  repeat' first
    | with_reducible assumption
    | with_reducible apply Dev.fsets_sound
    | with_reducible apply Dev.installTree_sound
    | with_reducible apply Dev.setDevState_sound
    | with_reducible apply each_sound
    | (intro x; have hx : Dev.Sound x; (on_goal 2 => clear_value x); (on_goal 1 => unfold x))
    | (intro x; (fail_if_success (have q : Engs := x)); (fail_if_success (have q : Svc := x)); (fail_if_success (have q : Trust := x)); (fail_if_success (have q : _ → _ := x)); clear_value x)
    | intro x
    | lift_lets -underBinder
    | (simp only [↓Dev.sound_mk]; with_reducible apply Dev.Sound.parts)
    | with_reducible apply ite_sound
    | dsimp -zeta only
    | split
    | decide
    | dsimp -zeta +zetaDelta only

theorem Dev.restartStreams_sound {s : Dev} {who : Nat → Bool} (h0 : s.Sound) : (Dev.restartStreams s who).Sound := by
  unfold Dev.restartStreams
  repeat' first
    | with_reducible assumption
    | with_reducible apply Dev.rclear_sound
    | with_reducible apply each_sound
    | (intro x; have hx : Dev.Sound x; (on_goal 2 => clear_value x); (on_goal 1 => unfold x))
    | (intro x; (fail_if_success (have q : Engs := x)); (fail_if_success (have q : Svc := x)); (fail_if_success (have q : Trust := x)); (fail_if_success (have q : _ → _ := x)); clear_value x)
    | intro x
    | lift_lets -underBinder
    | (simp only [↓Dev.sound_mk]; with_reducible apply Dev.Sound.parts)
    | dsimp -zeta only
    | dsimp -zeta +zetaDelta only

theorem Dev.streamsAtApply_sound {s : Dev} {old new : Nat} (h0 : s.Sound) : (Dev.streamsAtApply s old new).Sound := by
  unfold Dev.streamsAtApply
  repeat' first
    | with_reducible assumption
    | with_reducible apply Dev.restartStreams_sound
    | intro x
    | with_reducible apply ite_sound
    | dsimp -zeta only
    | split

theorem Dev.dealParams_sound {s : Dev} {par e : Nat} (h0 : s.Sound) : (Dev.dealParams s par e).Sound := by
  unfold Dev.dealParams
  repeat' first
    | with_reducible assumption
    | with_reducible apply Dev.dealList_sound
    | with_reducible apply Dev.join_sound
    | with_reducible apply Dev.rset_sound
    | (intro x; have hx : Dev.Sound x; (on_goal 2 => clear_value x); (on_goal 1 => unfold x))
    | (intro x; (fail_if_success (have q : Engs := x)); (fail_if_success (have q : Svc := x)); (fail_if_success (have q : Trust := x)); (fail_if_success (have q : _ → _ := x)); clear_value x)
    | intro x
    | lift_lets -underBinder
    | with_reducible apply ite_sound
    | dsimp -zeta only
    | split
    | dsimp -zeta +zetaDelta only

theorem Dev.freePort_sound {s : Dev} {p : Nat} {b : Binding} (h0 : s.Sound) : (Dev.freePort s p b).Sound := by
  unfold Dev.freePort
  repeat' first
    | with_reducible assumption
    | with_reducible apply b_sound
    | with_reducible apply Dev.linkFree_sound
    | with_reducible apply Dev.modPport_sound
    | (intro x; have hx : Dev.Sound x; (on_goal 2 => clear_value x); (on_goal 1 => unfold x))
    | (intro x; (fail_if_success (have q : Engs := x)); (fail_if_success (have q : Svc := x)); (fail_if_success (have q : Trust := x)); (fail_if_success (have q : _ → _ := x)); clear_value x)
    | intro x
    | lift_lets -underBinder
    | (simp only [↓Dev.sound_mk]; with_reducible apply Dev.Sound.parts)
    | with_reducible apply ite_sound
    | dsimp -zeta only
    | split
    | dsimp -zeta +zetaDelta only

theorem Dev.bindControls_sound {s : Dev} {vs n : Nat} (h0 : s.Sound) : (Dev.bindControls s vs n).Sound := by
  unfold Dev.bindControls
  repeat' first
    | with_reducible assumption
    | with_reducible apply Dev.tellControls_sound
    | with_reducible apply vdspAspmControl_sound
    | with_reducible apply vdspLinkDisable_sound
    | with_reducible apply vdspTargetLinkSpeed_sound
    | (intro x; have hx : Dev.Sound x; (on_goal 2 => clear_value x); (on_goal 1 => unfold x))
    | (intro x; (fail_if_success (have q : Engs := x)); (fail_if_success (have q : Svc := x)); (fail_if_success (have q : Trust := x)); (fail_if_success (have q : _ → _ := x)); clear_value x)
    | intro x
    | lift_lets -underBinder
    | with_reducible apply ite_sound
    | dsimp -zeta only
    | split
    | dsimp -zeta +zetaDelta only

theorem Dev.rebind_sound {s : Dev} {old new vs n : Nat} (h0 : s.Sound) : (Dev.rebind s old new vs n).Sound := by
  unfold Dev.rebind
  repeat' first
    | with_reducible assumption
    | with_reducible apply Dev.aer_sound
    | with_reducible apply b_sound
    | with_reducible apply Dev.bindControls_sound
    | with_reducible apply Dev.hotplug_sound
    | with_reducible apply Dev.modPfn_sound
    | with_reducible apply Dev.modVd_sound
    | with_reducible apply Dev.portSays_sound
    | with_reducible apply Dev.syncPresence_sound
    | (intro x; have hx : Dev.Sound x; (on_goal 2 => clear_value x); (on_goal 1 => unfold x))
    | (intro x; (fail_if_success (have q : Engs := x)); (fail_if_success (have q : Svc := x)); (fail_if_success (have q : Trust := x)); (fail_if_success (have q : _ → _ := x)); clear_value x)
    | intro x
    | lift_lets -underBinder
    | (simp only [↓Dev.sound_mk]; with_reducible apply Dev.Sound.parts)
    | with_reducible apply ite_sound
    | dsimp -zeta only
    | split
    | dsimp -zeta +zetaDelta only

theorem Dev.rebindAll_sound {s : Dev} {old new : Nat} (h0 : s.Sound) : (Dev.rebindAll s old new).Sound := by
  unfold Dev.rebindAll
  repeat' first
    | with_reducible assumption
    | with_reducible apply b_sound
    | with_reducible apply Dev.busAcked_sound
    | with_reducible apply Dev.emit_sound
    | with_reducible apply Dev.freePort_sound
    | with_reducible apply Dev.rebind_sound
    | with_reducible apply Dev.tellHost_sound
    | with_reducible apply each_sound
    | (intro x; have hx : Dev.Sound x; (on_goal 2 => clear_value x); (on_goal 1 => unfold x))
    | (intro x; (fail_if_success (have q : Engs := x)); (fail_if_success (have q : Svc := x)); (fail_if_success (have q : Trust := x)); (fail_if_success (have q : _ → _ := x)); clear_value x)
    | intro x
    | lift_lets -underBinder
    | (simp only [↓Dev.sound_mk]; with_reducible apply Dev.Sound.parts)
    | with_reducible apply ite_sound
    | dsimp -zeta only
    | split
    | dsimp -zeta +zetaDelta only

theorem Dev.applyDeal_sound {s : Dev} {late : Bool} (h0 : s.Sound) : (Dev.applyDeal s late).Sound := by
  unfold Dev.applyDeal
  repeat' first
    | with_reducible assumption
    | with_reducible apply Dev.count_sound
    | with_reducible apply Dev.dealParams_sound
    | with_reducible apply Dev.fset_sound
    | with_reducible apply Dev.fsets_sound
    | with_reducible apply Dev.markerSend_sound
    | with_reducible apply Dev.pfFlushAll_sound
    | with_reducible apply Dev.rebindAll_sound
    | with_reducible apply Dev.releaseHolds_sound
    | with_reducible apply Dev.retrunk_sound
    | with_reducible apply Dev.sendClassChecks_sound
    | with_reducible apply Dev.startDrain_sound
    | with_reducible apply Dev.streamsAtApply_sound
    | with_reducible apply each_sound
    | (intro x; have hx : Dev.Sound x; (on_goal 2 => clear_value x); (on_goal 1 => unfold x))
    | (intro x; (fail_if_success (have q : Engs := x)); (fail_if_success (have q : Svc := x)); (fail_if_success (have q : Trust := x)); (fail_if_success (have q : _ → _ := x)); clear_value x)
    | intro x
    | lift_lets -underBinder
    | (simp only [↓Dev.sound_mk]; with_reducible apply Dev.Sound.parts)
    | with_reducible apply ite_sound
    | dsimp -zeta only
    | split
    | dsimp -zeta +zetaDelta only

theorem Dev.voteNow_sound {s : Dev} {e code : Nat} (h0 : s.Sound) : (Dev.voteNow s e code).Sound := by
  unfold Dev.voteNow
  repeat' first
    | with_reducible assumption
    | with_reducible apply Dev.combStart_sound
    | with_reducible apply Dev.combTry_sound
    | with_reducible apply Dev.setComb_sound
    | with_reducible apply vote_sound
    | (intro x; have hx : Dev.Sound x; (on_goal 2 => clear_value x); (on_goal 1 => unfold x))
    | (intro x; (fail_if_success (have q : Engs := x)); (fail_if_success (have q : Svc := x)); (fail_if_success (have q : Trust := x)); (fail_if_success (have q : _ → _ := x)); clear_value x)
    | intro x
    | lift_lets -underBinder
    | (simp only [↓Dev.sound_mk]; with_reducible apply Dev.Sound.parts)
    | dsimp -zeta only
    | dsimp -zeta +zetaDelta only

theorem Dev.parityFor_sound {s : Dev} {e : Nat} (h0 : s.Sound) : (Dev.parityFor s e).Sound := by
  unfold Dev.parityFor
  repeat' first
    | with_reducible assumption
    | with_reducible apply Dev.fset_sound
    | (intro x; have hx : Dev.Sound x; (on_goal 2 => clear_value x); (on_goal 1 => unfold x))
    | (intro x; (fail_if_success (have q : Engs := x)); (fail_if_success (have q : Svc := x)); (fail_if_success (have q : Trust := x)); (fail_if_success (have q : _ → _ := x)); clear_value x)
    | intro x
    | lift_lets -underBinder
    | (simp only [↓Dev.sound_mk]; with_reducible apply Dev.Sound.parts)
    | with_reducible apply ite_sound
    | dsimp -zeta only
    | split
    | dsimp -zeta +zetaDelta only

theorem prepare_sound {src : TreeSrc} {m : TreeMsg} {s : Dev} (h0 : s.Sound) : (prepare src m s).Sound := by
  unfold prepare
  repeat' first
    | with_reducible assumption
    | with_reducible apply Dev.downMsg_sound
    | with_reducible apply Dev.fset_sound
    | with_reducible apply Dev.parityFor_sound
    | with_reducible apply Dev.voteNow_sound
    | (intro x; have hx : Dev.Sound x; (on_goal 2 => clear_value x); (on_goal 1 => unfold x))
    | (intro x; (fail_if_success (have q : Engs := x)); (fail_if_success (have q : Svc := x)); (fail_if_success (have q : Trust := x)); (fail_if_success (have q : _ → _ := x)); clear_value x)
    | intro x
    | lift_lets -underBinder
    | (simp only [↓Dev.sound_mk]; with_reducible apply Dev.Sound.parts)
    | with_reducible apply ite_sound
    | dsimp -zeta only
    | split
    | dsimp -zeta +zetaDelta only

theorem goDeal_sound {src : TreeSrc} {m : TreeMsg} {s : Dev} (h0 : s.Sound) : (goDeal src m s).Sound := by
  unfold goDeal
  repeat' first
    | with_reducible assumption
    | with_reducible apply Dev.downMsg_sound
    | with_reducible apply Dev.rset_sound
    | (intro x; have hx : Dev.Sound x; (on_goal 2 => clear_value x); (on_goal 1 => unfold x))
    | (intro x; (fail_if_success (have q : Engs := x)); (fail_if_success (have q : Svc := x)); (fail_if_success (have q : Trust := x)); (fail_if_success (have q : _ → _ := x)); clear_value x)
    | intro x
    | lift_lets -underBinder
    | (simp only [↓Dev.sound_mk]; with_reducible apply Dev.Sound.parts)
    | with_reducible apply ite_sound
    | dsimp -zeta only
    | split
    | dsimp -zeta +zetaDelta only

theorem dealApply_sound {s : Dev} (h0 : s.Sound) : (dealApply s).Sound := by
  unfold dealApply
  repeat' first
    | with_reducible assumption
    | with_reducible apply Dev.applyDeal_sound
    | intro x
    | with_reducible apply ite_sound
    | dsimp -zeta only
    | split

theorem cancel_sound {src : TreeSrc} {m : TreeMsg} {s : Dev} (h0 : s.Sound) : (cancel src m s).Sound := by
  unfold cancel
  repeat' first
    | with_reducible assumption
    | with_reducible apply Dev.downMsg_sound
    | with_reducible apply Dev.fset_sound
    | (intro x; have hx : Dev.Sound x; (on_goal 2 => clear_value x); (on_goal 1 => unfold x))
    | (intro x; (fail_if_success (have q : Engs := x)); (fail_if_success (have q : Svc := x)); (fail_if_success (have q : Trust := x)); (fail_if_success (have q : _ → _ := x)); clear_value x)
    | intro x
    | lift_lets -underBinder
    | (simp only [↓Dev.sound_mk]; with_reducible apply Dev.Sound.parts)
    | with_reducible apply ite_sound
    | dsimp -zeta only
    | split
    | dsimp -zeta +zetaDelta only

theorem drainMessage_sound {src : TreeSrc} {m : TreeMsg} {s : Dev} (h0 : s.Sound) : (drainMessage src m s).Sound := by
  unfold drainMessage
  repeat' first
    | with_reducible assumption
    | with_reducible apply Dev.downMsg_sound
    | with_reducible apply Dev.startDrain_sound
    | (intro x; have hx : Dev.Sound x; (on_goal 2 => clear_value x); (on_goal 1 => unfold x))
    | (intro x; (fail_if_success (have q : Engs := x)); (fail_if_success (have q : Svc := x)); (fail_if_success (have q : Trust := x)); (fail_if_success (have q : _ → _ := x)); clear_value x)
    | intro x
    | lift_lets -underBinder
    | (simp only [↓Dev.sound_mk]; with_reducible apply Dev.Sound.parts)
    | with_reducible apply ite_sound
    | dsimp -zeta only
    | split
    | dsimp -zeta +zetaDelta only

theorem drainLocalConfirm_sound {s : Dev} (h0 : s.Sound) : (drainLocalConfirm s).Sound := by
  unfold drainLocalConfirm
  repeat' first
    | with_reducible assumption
    | with_reducible apply Dev.combTry_sound
    | with_reducible apply Dev.fsets_sound
    | with_reducible apply Dev.postDrain_sound
    | (intro x; have hx : Dev.Sound x; (on_goal 2 => clear_value x); (on_goal 1 => unfold x))
    | (intro x; (fail_if_success (have q : Engs := x)); (fail_if_success (have q : Svc := x)); (fail_if_success (have q : Trust := x)); (fail_if_success (have q : _ → _ := x)); clear_value x)
    | intro x
    | lift_lets -underBinder
    | (simp only [↓Dev.sound_mk]; with_reducible apply Dev.Sound.parts)
    | with_reducible apply ite_sound
    | dsimp -zeta only
    | split
    | dsimp -zeta +zetaDelta only

theorem release_sound {src : TreeSrc} {m : TreeMsg} {s : Dev} (h0 : s.Sound) : (release src m s).Sound := by
  unfold release
  repeat' first
    | with_reducible assumption
    | with_reducible apply Dev.downMsg_sound
    | with_reducible apply Dev.fset_sound
    | with_reducible apply Dev.installTree_sound
    | (intro x; have hx : Dev.Sound x; (on_goal 2 => clear_value x); (on_goal 1 => unfold x))
    | (intro x; (fail_if_success (have q : Engs := x)); (fail_if_success (have q : Svc := x)); (fail_if_success (have q : Trust := x)); (fail_if_success (have q : _ → _ := x)); clear_value x)
    | intro x
    | lift_lets -underBinder
    | (simp only [↓Dev.sound_mk]; with_reducible apply Dev.Sound.parts)
    | with_reducible apply ite_sound
    | dsimp -zeta only
    | split
    | dsimp -zeta +zetaDelta only

theorem Dev.cutLatch_sound {s : Dev} {id : Nat} (h0 : s.Sound) : (Dev.cutLatch s id).Sound := by
  unfold Dev.cutLatch
  repeat' first
    | with_reducible assumption
    | with_reducible apply Dev.combStart_sound
    | with_reducible apply Dev.cycSync_sound
    | with_reducible apply Dev.fsets_sound
    | with_reducible apply Dev.markerSend_sound
    | with_reducible apply Dev.memWrite_sound
    | with_reducible apply each_sound
    | (intro x; have hx : Dev.Sound x; (on_goal 2 => clear_value x); (on_goal 1 => unfold x))
    | (intro x; (fail_if_success (have q : Engs := x)); (fail_if_success (have q : Svc := x)); (fail_if_success (have q : Trust := x)); (fail_if_success (have q : _ → _ := x)); clear_value x)
    | intro x
    | lift_lets -underBinder
    | (simp only [↓Dev.sound_mk]; with_reducible apply Dev.Sound.parts)
    | with_reducible apply ite_sound
    | dsimp -zeta only
    | split
    | dsimp -zeta +zetaDelta only

theorem cut_sound {src : TreeSrc} {m : TreeMsg} {s : Dev} (h0 : s.Sound) : (cut src m s).Sound := by
  unfold cut
  repeat' first
    | with_reducible assumption
    | with_reducible apply Dev.cutLatch_sound
    | with_reducible apply Dev.downMsg_sound
    | (intro x; have hx : Dev.Sound x; (on_goal 2 => clear_value x); (on_goal 1 => unfold x))
    | (intro x; (fail_if_success (have q : Engs := x)); (fail_if_success (have q : Svc := x)); (fail_if_success (have q : Trust := x)); (fail_if_success (have q : _ → _ := x)); clear_value x)
    | intro x
    | lift_lets -underBinder
    | (simp only [↓Dev.sound_mk]; with_reducible apply Dev.Sound.parts)
    | with_reducible apply ite_sound
    | dsimp -zeta only
    | split
    | dsimp -zeta +zetaDelta only

theorem Dev.cutFinish_sound {s : Dev} {status arb miss : Nat} (h0 : s.Sound) : (Dev.cutFinish s status arb miss).Sound := by
  unfold Dev.cutFinish
  repeat' first
    | with_reducible assumption
    | with_reducible apply Dev.combTry_sound
    | with_reducible apply Dev.fset_sound
    | with_reducible apply Dev.memWrite_sound
    | (intro x; have hx : Dev.Sound x; (on_goal 2 => clear_value x); (on_goal 1 => unfold x))
    | (intro x; (fail_if_success (have q : Engs := x)); (fail_if_success (have q : Svc := x)); (fail_if_success (have q : Trust := x)); (fail_if_success (have q : _ → _ := x)); clear_value x)
    | intro x
    | lift_lets -underBinder
    | (simp only [↓Dev.sound_mk]; with_reducible apply Dev.Sound.parts)
    | with_reducible apply ite_sound
    | dsimp -zeta only
    | split
    | dsimp -zeta +zetaDelta only

theorem cutRecordComplete_sound {s : Dev} (h0 : s.Sound) : (cutRecordComplete s).Sound := by
  unfold cutRecordComplete
  repeat' first
    | with_reducible assumption
    | with_reducible apply Dev.cutFinish_sound
    | intro x
    | with_reducible apply ite_sound
    | dsimp -zeta only
    | split

theorem markerTimeout_sound {isCut : Bool} {s : Dev} (h0 : s.Sound) : (markerTimeout isCut s).Sound := by
  unfold markerTimeout
  repeat' first
    | with_reducible assumption
    | with_reducible apply Dev.cutFinish_sound
    | with_reducible apply Dev.fset_sound
    | with_reducible apply Dev.fsets_sound
    | with_reducible apply Dev.raise_sound
    | with_reducible apply Dev.rset_sound
    | (intro x; have hx : Dev.Sound x; (on_goal 2 => clear_value x); (on_goal 1 => unfold x))
    | (intro x; (fail_if_success (have q : Engs := x)); (fail_if_success (have q : Svc := x)); (fail_if_success (have q : Trust := x)); (fail_if_success (have q : _ → _ := x)); clear_value x)
    | intro x
    | lift_lets -underBinder
    | (simp only [↓Dev.sound_mk]; with_reducible apply Dev.Sound.parts)
    | with_reducible apply ite_sound
    | dsimp -zeta only
    | split
    | dsimp -zeta +zetaDelta only

theorem Dev.marker_sound {s : Dev} {port sub info : Nat} (h0 : s.Sound) : (Dev.marker s port sub info).Sound := by
  unfold Dev.marker
  repeat' first
    | with_reducible assumption
    | with_reducible apply Dev.applyDeal_sound
    | with_reducible apply Dev.cutLatch_sound
    | with_reducible apply Dev.postDrain_sound
    | with_reducible apply Dev.protoError_sound
    | with_reducible apply sub_sound
    | (intro x; have hx : Dev.Sound x; (on_goal 2 => clear_value x); (on_goal 1 => unfold x))
    | (intro x; (fail_if_success (have q : Engs := x)); (fail_if_success (have q : Svc := x)); (fail_if_success (have q : Trust := x)); (fail_if_success (have q : _ → _ := x)); clear_value x)
    | intro x
    | lift_lets -underBinder
    | (simp only [↓Dev.sound_mk]; with_reducible apply Dev.Sound.parts)
    | with_reducible apply ite_sound
    | dsimp -zeta only
    | split
    | dsimp -zeta +zetaDelta only

theorem markerReceive_sound {port sub info : Nat} {s : Dev} (h0 : s.Sound) : (markerReceive port sub info s).Sound := by
  unfold markerReceive
  repeat' first
    | with_reducible assumption
    | with_reducible apply Dev.marker_sound
    | with_reducible apply sub_sound
    | intro x
    | with_reducible apply ite_sound
    | dsimp -zeta only
    | split

theorem Dev.clearValid_sound {s : Dev} {p : Nat} (h0 : s.Sound) : (Dev.clearValid s p).Sound := by
  unfold Dev.clearValid
  repeat' first
    | with_reducible assumption
    | with_reducible apply Dev.setHword_sound
    | with_reducible apply each_sound
    | (intro x; have hx : Dev.Sound x; (on_goal 2 => clear_value x); (on_goal 1 => unfold x))
    | (intro x; (fail_if_success (have q : Engs := x)); (fail_if_success (have q : Svc := x)); (fail_if_success (have q : Trust := x)); (fail_if_success (have q : _ → _ := x)); clear_value x)
    | intro x
    | lift_lets -underBinder
    | dsimp -zeta only
    | dsimp -zeta +zetaDelta only

theorem Dev.resetTraffic_sound {s : Dev} (h0 : s.Sound) : (Dev.resetTraffic s).Sound := by
  unfold Dev.resetTraffic
  repeat' first
    | with_reducible assumption
    | with_reducible apply Dev.count_sound
    | with_reducible apply Dev.delPkt_sound
    | with_reducible apply Dev.dropLog_sound
    | with_reducible apply Dev.endReq_sound
    | with_reducible apply Dev.failReq_sound
    | with_reducible apply Dev.perrReport_sound
    | with_reducible apply each_sound
    | (intro x; have hx : Dev.Sound x; (on_goal 2 => clear_value x); (on_goal 1 => unfold x))
    | (intro x; (fail_if_success (have q : Engs := x)); (fail_if_success (have q : Svc := x)); (fail_if_success (have q : Trust := x)); (fail_if_success (have q : _ → _ := x)); clear_value x)
    | intro x
    | lift_lets -underBinder
    | with_reducible apply ite_sound
    | dsimp -zeta only
    | split
    | dsimp -zeta +zetaDelta only

theorem Dev.unbound_sound {s : Dev} {old mine : List Binding} (h0 : s.Sound) : (Dev.unbound s old mine).Sound := by
  unfold Dev.unbound
  repeat' first
    | with_reducible assumption
    | with_reducible apply b_sound
    | with_reducible apply Dev.busAcked_sound
    | with_reducible apply Dev.freePort_sound
    | with_reducible apply Dev.syncPresence_sound
    | with_reducible apply each_sound
    | (intro x; have hx : Dev.Sound x; (on_goal 2 => clear_value x); (on_goal 1 => unfold x))
    | (intro x; (fail_if_success (have q : Engs := x)); (fail_if_success (have q : Svc := x)); (fail_if_success (have q : Trust := x)); (fail_if_success (have q : _ → _ := x)); clear_value x)
    | intro x
    | lift_lets -underBinder
    | dsimp -zeta only
    | dsimp -zeta +zetaDelta only

theorem Dev.fabricReset_sound {s : Dev} (h0 : s.Sound) : (Dev.fabricReset s).Sound := by
  unfold Dev.fabricReset
  repeat' first
    | with_reducible assumption
    | with_reducible apply b_sound
    | with_reducible apply Dev.clearValid_sound
    | with_reducible apply Dev.collFail_sound
    | with_reducible apply Dev.fset_sound
    | with_reducible apply Dev.fsets_sound
    | with_reducible apply Dev.rclear_sound
    | with_reducible apply Dev.resetTraffic_sound
    | with_reducible apply Dev.retrunk_sound
    | with_reducible apply Dev.setDevState_sound
    | with_reducible apply Dev.timeElect_sound
    | with_reducible apply Dev.unbound_sound
    | with_reducible apply vote_sound
    | with_reducible apply each_sound
    | (intro x; have hx : Dev.Sound x; (on_goal 2 => clear_value x); (on_goal 1 => unfold x))
    | (intro x; (fail_if_success (have q : Engs := x)); (fail_if_success (have q : Svc := x)); (fail_if_success (have q : Trust := x)); (fail_if_success (have q : _ → _ := x)); clear_value x)
    | intro x
    | lift_lets -underBinder
    | (simp only [↓Dev.sound_mk]; with_reducible apply Dev.Sound.parts)
    | with_reducible apply ite_sound
    | dsimp -zeta only
    | split
    | decide
    | dsimp -zeta +zetaDelta only

theorem resetMessage_sound {src : TreeSrc} {m : TreeMsg} {s : Dev} (h0 : s.Sound) : (resetMessage src m s).Sound := by
  unfold resetMessage
  repeat' first
    | with_reducible assumption
    | with_reducible apply Dev.downMsg_sound
    | (intro x; have hx : Dev.Sound x; (on_goal 2 => clear_value x); (on_goal 1 => unfold x))
    | (intro x; (fail_if_success (have q : Engs := x)); (fail_if_success (have q : Svc := x)); (fail_if_success (have q : Trust := x)); (fail_if_success (have q : _ → _ := x)); clear_value x)
    | intro x
    | lift_lets -underBinder
    | (simp only [↓Dev.sound_mk]; with_reducible apply Dev.Sound.parts)
    | with_reducible apply ite_sound
    | dsimp -zeta only
    | split
    | dsimp -zeta +zetaDelta only

theorem fabricResetAt_sound {s : Dev} (h0 : s.Sound) : (fabricResetAt s).Sound := by
  unfold fabricResetAt
  repeat' first
    | with_reducible assumption
    | with_reducible apply Dev.fabricReset_sound
    | intro x
    | with_reducible apply ite_sound
    | dsimp -zeta only
    | split

theorem Dev.treeAct_sound {s : Dev} {src : TreeSrc} {m : TreeMsg} (h0 : s.Sound) : (Dev.treeAct s src m).Sound := by
  unfold Dev.treeAct
  repeat' first
    | with_reducible assumption
    | with_reducible apply cancel_sound
    | with_reducible apply cut_sound
    | with_reducible apply drainMessage_sound
    | with_reducible apply goDeal_sound
    | with_reducible apply prepare_sound
    | with_reducible apply release_sound
    | with_reducible apply resetMessage_sound
    | intro x
    | with_reducible apply ite_sound
    | dsimp -zeta only
    | split

theorem directedDownTree_sound {port : Nat} {b : List Byte} {s : Dev} (h0 : s.Sound) : (directedDownTree port b s).Sound := by
  unfold directedDownTree
  repeat' first
    | with_reducible assumption
    | with_reducible apply b_sound
    | with_reducible apply Dev.directedEnd_sound
    | with_reducible apply Dev.drop_sound
    | with_reducible apply Dev.treeAct_sound
    | (intro x; have hx : Dev.Sound x; (on_goal 2 => clear_value x); (on_goal 1 => unfold x))
    | (intro x; (fail_if_success (have q : Engs := x)); (fail_if_success (have q : Svc := x)); (fail_if_success (have q : Trust := x)); (fail_if_success (have q : _ → _ := x)); clear_value x)
    | intro x
    | lift_lets -underBinder
    | (simp only [↓Dev.sound_mk]; with_reducible apply Dev.Sound.parts)
    | with_reducible apply ite_sound
    | dsimp -zeta only
    | split
    | dsimp -zeta +zetaDelta only

theorem Dev.journal_sound {s : Dev} {kind t epoch round : Nat} (h0 : s.Sound) : (Dev.journal s kind t epoch round).Sound := by
  unfold Dev.journal
  repeat' first
    | with_reducible assumption
    | with_reducible apply b_sound
    | with_reducible apply Dev.ctlPacket_sound
    | with_reducible apply Dev.memWrite_sound
    | with_reducible apply Dev.notice_sound
    | (intro x; have hx : Dev.Sound x; (on_goal 2 => clear_value x); (on_goal 1 => unfold x))
    | (intro x; (fail_if_success (have q : Engs := x)); (fail_if_success (have q : Svc := x)); (fail_if_success (have q : Trust := x)); (fail_if_success (have q : _ → _ := x)); clear_value x)
    | intro x
    | lift_lets -underBinder
    | (simp only [↓Dev.sound_mk]; with_reducible apply Dev.Sound.parts)
    | with_reducible apply ite_sound
    | dsimp -zeta only
    | split
    | dsimp -zeta +zetaDelta only

theorem dealerHeartbeat_sound {s : Dev} (h0 : s.Sound) : (dealerHeartbeat s).Sound := by
  unfold dealerHeartbeat
  repeat' first
    | with_reducible assumption
    | with_reducible apply Dev.freeNat_sound
    | with_reducible refine Dev.freeNat_pair (by with_reducible assumption) ?_
    | with_reducible apply Dev.journal_sound
    | (intro x; have hx : Dev.Sound x; (on_goal 2 => clear_value x); (on_goal 1 => unfold x))
    | (intro x; (fail_if_success (have q : Engs := x)); (fail_if_success (have q : Svc := x)); (fail_if_success (have q : Trust := x)); (fail_if_success (have q : _ → _ := x)); clear_value x)
    | intro x
    | lift_lets -underBinder
    | (simp only [↓Dev.sound_mk]; with_reducible apply Dev.Sound.parts)
    | with_reducible apply ite_sound
    | dsimp -zeta only
    | split
    | dsimp -zeta +zetaDelta only

theorem Dev.dealDown_sound {s : Dev} {m : TreeMsg} (h0 : s.Sound) : (Dev.dealDown s m).Sound := by
  unfold Dev.dealDown
  repeat' first
    | with_reducible assumption
    | with_reducible apply Dev.freeNat_sound
    | with_reducible refine Dev.freeNat_pair (by with_reducible assumption) ?_
    | with_reducible apply Dev.treeAct_sound
    | with_reducible apply Dev.treeTo_sound
    | (intro x; have hx : Dev.Sound x; (on_goal 2 => clear_value x); (on_goal 1 => unfold x))
    | (intro x; (fail_if_success (have q : Engs := x)); (fail_if_success (have q : Svc := x)); (fail_if_success (have q : Trust := x)); (fail_if_success (have q : _ → _ := x)); clear_value x)
    | intro x
    | lift_lets -underBinder
    | with_reducible apply ite_sound
    | dsimp -zeta only
    | split
    | dsimp -zeta +zetaDelta only

theorem dealerTakeover_sound {s : Dev} (h0 : s.Sound) : (dealerTakeover s).Sound := by
  unfold dealerTakeover
  repeat' first
    | with_reducible assumption
    | with_reducible apply b_sound
    | with_reducible apply Dev.dealDown_sound
    | with_reducible apply Dev.drop_sound
    | with_reducible apply Dev.journal_sound
    | (intro x; have hx : Dev.Sound x; (on_goal 2 => clear_value x); (on_goal 1 => unfold x))
    | (intro x; (fail_if_success (have q : Engs := x)); (fail_if_success (have q : Svc := x)); (fail_if_success (have q : Trust := x)); (fail_if_success (have q : _ → _ := x)); clear_value x)
    | intro x
    | lift_lets -underBinder
    | (simp only [↓Dev.sound_mk]; with_reducible apply Dev.Sound.parts)
    | with_reducible apply ite_sound
    | dsimp -zeta only
    | split
    | dsimp -zeta +zetaDelta only

end Sys2Proof.Machine
end

