-- ==== Sys2Proof/Laws/SoundDict.lean ====
section
/-! SUPPORT. Every operation of Machine/Dict.lean keeps the switch sound. -/
set_option linter.unusedTactic false
set_option linter.unusedSimpArgs false
set_option linter.unreachableTactic false
namespace Sys2Proof.Machine

theorem Dev.measured_sound {s : Dev} {idx sub : Nat} (h0 : s.Sound) : (Dev.measured s idx sub).2.Sound := by
  unfold Dev.measured
  repeat' first
    | with_reducible assumption
    | with_reducible apply sub_sound
    | (intro x; have hx : Dev.Sound x; (on_goal 2 => clear_value x); (on_goal 1 => unfold x))
    | (intro x; (fail_if_success (have q : Engs := x)); (fail_if_success (have q : Svc := x)); (fail_if_success (have q : Trust := x)); (fail_if_success (have q : _ → _ := x)); clear_value x)
    | intro x
    | lift_lets -underBinder
    | (simp only [↓Dev.sound_mk]; with_reducible apply Dev.Sound.parts)
    | dsimp -zeta only
    | dsimp -zeta +zetaDelta only
theorem Dev.measured_pair {s : Dev} {idx sub : Nat} {x_ t_} (e_ : Dev.measured s idx sub = (x_, t_)) (h0 : s.Sound) : t_.Sound := by
  have q := Dev.measured_sound (s := s) (idx := idx) (sub := sub) h0; rw [e_] at q; exact q

theorem Dev.powerVal_sound {s : Dev} {idx sub : Nat} (h0 : s.Sound) : (Dev.powerVal s idx sub).2.Sound := by
  unfold Dev.powerVal
  repeat' first
    | with_reducible assumption
    | with_reducible apply Dev.measured_sound
    | with_reducible refine Dev.measured_pair (by with_reducible assumption) ?_
    | with_reducible apply Dev.meterEnergy_sound
    | with_reducible apply sub_sound
    | (intro x; have hx : Dev.Sound x; (on_goal 2 => clear_value x); (on_goal 1 => unfold x))
    | (intro x; (fail_if_success (have q : Engs := x)); (fail_if_success (have q : Svc := x)); (fail_if_success (have q : Trust := x)); (fail_if_success (have q : _ → _ := x)); clear_value x)
    | intro x
    | lift_lets -underBinder
    | (simp only [↓Dev.sound_mk]; with_reducible apply Dev.Sound.parts)
    | with_reducible apply ite_sound
    | dsimp -zeta only
    | split
    | dsimp -zeta +zetaDelta only
theorem Dev.powerVal_pair {s : Dev} {idx sub : Nat} {x_ t_} (e_ : Dev.powerVal s idx sub = (x_, t_)) (h0 : s.Sound) : t_.Sound := by
  have q := Dev.powerVal_sound (s := s) (idx := idx) (sub := sub) h0; rw [e_] at q; exact q

theorem Dev.regValRead_sound {s : Dev} {x : Sess} (h0 : s.Sound) : (Dev.regValRead s x).2.Sound := by
  unfold Dev.regValRead
  repeat' first
    | with_reducible assumption
    | with_reducible apply Dev.blkReadWhole_sound
    | with_reducible refine Dev.blkReadWhole_pair (by with_reducible assumption) ?_
    | intro x
    | dsimp -zeta only
theorem Dev.regValRead_pair {s : Dev} {x : Sess} {x_ t_} (e_ : Dev.regValRead s x = (x_, t_)) (h0 : s.Sound) : t_.Sound := by
  have q := Dev.regValRead_sound (s := s) (x := x) h0; rw [e_] at q; exact q

theorem ite_sound2 {α β : Type} {c : Prop} [Decidable c] {a b : α × β × Dev} (ha : a.2.2.Sound) (hb : b.2.2.Sound) :
    (if c then a else b).2.2.Sound := by
  split
  · exact ha
  · exact hb

theorem Dev.entryRead_sound {s : Dev} {x : Sess} {idx sub : Nat} {r : ObjRow} (h0 : s.Sound) : (Dev.entryRead s x idx sub r).2.2.Sound := by
  have hv : ∀ v t, s.regValRead x = (v, t) → t.Sound := fun v t e => Dev.regValRead_pair e h0
  have hm : ∀ v t, s.measured idx sub = (v, t) → t.Sound := fun v t e => Dev.measured_pair e h0
  have hp : ∀ v t, s.powerVal idx sub = (v, t) → t.Sound := fun v t e => Dev.powerVal_pair e h0
  unfold Dev.entryRead
  generalize s.regValRead x = rv at hv ⊢
  generalize s.measured idx sub = mv at hm ⊢
  generalize s.powerVal idx sub = pv at hp ⊢
  obtain ⟨rv1, rv2⟩ := rv
  obtain ⟨mv1, mv2⟩ := mv
  have hv := hv _ _ rfl
  have hm := hm _ _ rfl
  extract_lets ok c
  have hk : ∀ v t, Dev.Sound t → (ok v t).2.2.Sound := fun _ _ h => h
  clear_value ok
  refine ite_sound2 (hk _ _ h0) (ite_sound2 (ite_sound2 h0 (ite_sound2 h0 (hk _ _ h0))) (ite_sound2 (hk _ _ h0) (ite_sound2 (hk _ _ h0)
    (ite_sound2 (hk _ _ h0) (ite_sound2 (hk _ _ h0) (ite_sound2 (ite_sound2 (hk _ _ hv) h0) (ite_sound2 (hk _ _ hm)
      (ite_sound2 (hk _ _ h0) (ite_sound2 (hk _ _ h0) (ite_sound2 (hk _ _ h0) ?_)))))))))) 
  split
  · exact hk _ _ h0
  · exact hk _ _ h0
  · exact hk _ _ (hp _ _ rfl)
  · split
    · exact hk _ _ h0
    · exact hk _ _ h0
theorem Dev.entryRead_pair {s : Dev} {x : Sess} {idx sub : Nat} {r : ObjRow} {x_ y_ t_} (e_ : Dev.entryRead s x idx sub r = (x_, y_, t_)) (h0 : s.Sound) : t_.Sound := by
  have q := Dev.entryRead_sound (s := s) (x := x) (idx := idx) (sub := sub) (r := r) h0; rw [e_] at q; exact q

end Sys2Proof.Machine
end

