-- ==== Sys2Proof/Laws/SoundSession.lean ====
section
/-! SUPPORT. Every operation of Machine/Session.lean keeps the switch sound. -/
set_option linter.unusedTactic false
set_option linter.unusedSimpArgs false
set_option linter.unreachableTactic false
namespace Sys2Proof.Machine

theorem Dev.mailReply_sound {s : Dev} {vs svc seq status : Nat} {body : List Byte} (h0 : s.Sound) : (Dev.mailReply s vs svc seq status body).Sound := by
  unfold Dev.mailReply
  repeat' first
    | with_reducible assumption
    | with_reducible apply b_sound
    | with_reducible apply Dev.fsets_sound
    | with_reducible apply Dev.modSfn_sound
    | with_reducible apply Dev.sfEvent_sound
    | (intro x; have hx : Dev.Sound x; (on_goal 2 => clear_value x); (on_goal 1 => unfold x))
    | (intro x; (fail_if_success (have q : Engs := x)); (fail_if_success (have q : Svc := x)); (fail_if_success (have q : Trust := x)); (fail_if_success (have q : _ → _ := x)); clear_value x)
    | intro x
    | lift_lets -underBinder
    | (simp only [↓Dev.sound_mk]; with_reducible apply Dev.Sound.parts)
    | with_reducible apply ite_sound
    | dsimp -zeta only
    | split
    | dsimp -zeta +zetaDelta only

theorem Dev.reply_sound {s : Dev} {k : SessKey} {svc seq status : Nat} {body : List Byte} (h0 : s.Sound) : (Dev.reply s k svc seq status body).Sound := by
  unfold Dev.reply
  repeat' first
    | with_reducible assumption
    | with_reducible apply Dev.mailReply_sound
    | with_reducible apply Dev.respond_sound
    | intro x
    | dsimp -zeta only
    | split

theorem Dev.answerReq_sound {s : Dev} {k : SessKey} {svc seq status : Nat} {body : List Byte} (h0 : s.Sound) : (Dev.answerReq s k svc seq status body).Sound := by
  unfold Dev.answerReq
  repeat' first
    | with_reducible assumption
    | with_reducible apply Dev.modSess_sound
    | with_reducible apply Dev.reply_sound
    | (intro x; have hx : Dev.Sound x; (on_goal 2 => clear_value x); (on_goal 1 => unfold x))
    | (intro x; (fail_if_success (have q : Engs := x)); (fail_if_success (have q : Svc := x)); (fail_if_success (have q : Trust := x)); (fail_if_success (have q : _ → _ := x)); clear_value x)
    | intro x
    | lift_lets -underBinder
    | (simp only [↓Dev.sound_mk]; with_reducible apply Dev.Sound.parts)
    | dsimp -zeta only
    | dsimp -zeta +zetaDelta only

theorem Dev.receive_sound {s : Dev} {h : ReqHdr} {r : SvcReq} (h0 : s.Sound) : (Dev.receive s h r).Sound := by
  unfold Dev.receive
  repeat' first
    | with_reducible assumption
    | (intro x; have hx : Dev.Sound x; (on_goal 2 => clear_value x); (on_goal 1 => unfold x))
    | (intro x; (fail_if_success (have q : Engs := x)); (fail_if_success (have q : Svc := x)); (fail_if_success (have q : Trust := x)); (fail_if_success (have q : _ → _ := x)); clear_value x)
    | intro x
    | lift_lets -underBinder
    | (simp only [↓Dev.sound_mk]; with_reducible apply Dev.Sound.parts)
    | with_reducible apply ite_sound
    | dsimp -zeta only
    | split
    | dsimp -zeta +zetaDelta only

theorem Dev.bySeq_sound {s : Dev} {h : ReqHdr} {x : Sess} {svc : Nat} {serve : Dev → Sess → Dev} (h0 : s.Sound) (hf : ∀ t x1, Dev.Sound t → Dev.Sound (serve t x1)) : (Dev.bySeq s h x svc serve).Sound := by
  unfold Dev.bySeq
  repeat' first
    | with_reducible assumption
    | with_reducible apply Dev.answerReq_sound
    | with_reducible apply Dev.reply_sound
    | with_reducible apply Dev.serve_sound
    | with_reducible apply hf
    | intro x
    | with_reducible apply ite_sound
    | dsimp -zeta only
    | split

theorem Dev.request_sound {s : Dev} {h : ReqHdr} {svc : Nat} {serve : Dev → Sess → Dev} (h0 : s.Sound) (hf : ∀ t x1, Dev.Sound t → Dev.Sound (serve t x1)) : (Dev.request s h svc serve).Sound := by
  unfold Dev.request
  repeat' first
    | with_reducible assumption
    | with_reducible apply Dev.bySeq_sound
    | with_reducible apply Dev.modSess_sound
    | with_reducible apply Dev.reply_sound
    | with_reducible apply Dev.serve_sound
    | with_reducible apply hf
    | (intro x; have hx : Dev.Sound x; (on_goal 2 => clear_value x); (on_goal 1 => unfold x))
    | (intro x; (fail_if_success (have q : Engs := x)); (fail_if_success (have q : Svc := x)); (fail_if_success (have q : Trust := x)); (fail_if_success (have q : _ → _ := x)); clear_value x)
    | intro x
    | lift_lets -underBinder
    | (simp only [↓Dev.sound_mk]; with_reducible apply Dev.Sound.parts)
    | with_reducible apply ite_sound
    | dsimp -zeta only
    | split
    | dsimp -zeta +zetaDelta only

theorem Dev.serveKeepalive_sound {s : Dev} {h : ReqHdr} (h0 : s.Sound) : (Dev.serveKeepalive s h).Sound := by
  unfold Dev.serveKeepalive
  repeat' first
    | with_reducible assumption
    | with_reducible apply Dev.answerReq_sound
    | with_reducible apply Dev.request_sound
    | intro x
    | dsimp -zeta only

theorem keepalive_sound {h : ReqHdr} {s : Dev} (h0 : s.Sound) : (keepalive h s).Sound := by
  unfold keepalive
  repeat' first
    | with_reducible assumption
    | with_reducible apply Dev.receive_sound
    | intro x
    | dsimp -zeta only

theorem Dev.serveSubscribe_sound {s : Dev} {h : ReqHdr} {mask : Nat} (h0 : s.Sound) : (Dev.serveSubscribe s h mask).Sound := by
  unfold Dev.serveSubscribe
  repeat' first
    | with_reducible assumption
    | with_reducible apply Dev.answerReq_sound
    | with_reducible apply Dev.modSess_sound
    | with_reducible apply Dev.request_sound
    | (intro x; have hx : Dev.Sound x; (on_goal 2 => clear_value x); (on_goal 1 => unfold x))
    | (intro x; (fail_if_success (have q : Engs := x)); (fail_if_success (have q : Svc := x)); (fail_if_success (have q : Trust := x)); (fail_if_success (have q : _ → _ := x)); clear_value x)
    | intro x
    | lift_lets -underBinder
    | (simp only [↓Dev.sound_mk]; with_reducible apply Dev.Sound.parts)
    | dsimp -zeta only
    | split
    | dsimp -zeta +zetaDelta only

theorem subscribe_sound {h : ReqHdr} {mask : Nat} {s : Dev} (h0 : s.Sound) : (subscribe h mask s).Sound := by
  unfold subscribe
  repeat' first
    | with_reducible assumption
    | with_reducible apply Dev.receive_sound
    | intro x
    | dsimp -zeta only

theorem Dev.serveNotifyAck_sound {s : Dev} {h : ReqHdr} {nseq : Nat} (h0 : s.Sound) : (Dev.serveNotifyAck s h nseq).Sound := by
  unfold Dev.serveNotifyAck
  repeat' first
    | with_reducible assumption
    | with_reducible apply Dev.answerReq_sound
    | with_reducible apply Dev.modSess_sound
    | with_reducible apply Dev.request_sound
    | (intro x; have hx : Dev.Sound x; (on_goal 2 => clear_value x); (on_goal 1 => unfold x))
    | (intro x; (fail_if_success (have q : Engs := x)); (fail_if_success (have q : Svc := x)); (fail_if_success (have q : Trust := x)); (fail_if_success (have q : _ → _ := x)); clear_value x)
    | intro x
    | lift_lets -underBinder
    | (simp only [↓Dev.sound_mk]; with_reducible apply Dev.Sound.parts)
    | dsimp -zeta only
    | dsimp -zeta +zetaDelta only

theorem notifyAck_sound {h : ReqHdr} {nseq : Nat} {s : Dev} (h0 : s.Sound) : (notifyAck h nseq s).Sound := by
  unfold notifyAck
  repeat' first
    | with_reducible assumption
    | with_reducible apply Dev.receive_sound
    | intro x
    | dsimp -zeta only

theorem notifyRetransmit_sound {k : SessKey} {s : Dev} (h0 : s.Sound) : (notifyRetransmit k s).Sound := by
  unfold notifyRetransmit
  repeat' first
    | with_reducible assumption
    | with_reducible apply Dev.emit_sound
    | with_reducible apply Dev.modSess_sound
    | with_reducible apply each_sound
    | (intro x; have hx : Dev.Sound x; (on_goal 2 => clear_value x); (on_goal 1 => unfold x))
    | (intro x; (fail_if_success (have q : Engs := x)); (fail_if_success (have q : Svc := x)); (fail_if_success (have q : Trust := x)); (fail_if_success (have q : _ → _ := x)); clear_value x)
    | intro x
    | lift_lets -underBinder
    | (simp only [↓Dev.sound_mk]; with_reducible apply Dev.Sound.parts)
    | with_reducible apply ite_sound
    | dsimp -zeta only
    | split
    | dsimp -zeta +zetaDelta only

theorem Dev.closeSess_sound {s : Dev} {k : SessKey} (h0 : s.Sound) : (Dev.closeSess s k).Sound := by
  unfold Dev.closeSess
  repeat' first
    | with_reducible assumption
    | with_reducible apply Dev.dropSess_sound
    | with_reducible apply Dev.putSess_sound
    | (intro x; have hx : Dev.Sound x; (on_goal 2 => clear_value x); (on_goal 1 => unfold x))
    | (intro x; (fail_if_success (have q : Engs := x)); (fail_if_success (have q : Svc := x)); (fail_if_success (have q : Trust := x)); (fail_if_success (have q : _ → _ := x)); clear_value x)
    | intro x
    | lift_lets -underBinder
    | (simp only [↓Dev.sound_mk]; with_reducible apply Dev.Sound.parts)
    | dsimp -zeta only
    | split
    | dsimp -zeta +zetaDelta only

theorem Dev.serveClose_sound {s : Dev} {h : ReqHdr} (h0 : s.Sound) : (Dev.serveClose s h).Sound := by
  unfold Dev.serveClose
  repeat' first
    | with_reducible assumption
    | with_reducible apply Dev.answerReq_sound
    | with_reducible apply Dev.closeSess_sound
    | with_reducible apply Dev.request_sound
    | intro x
    | dsimp -zeta only

theorem closeSession_sound {h : ReqHdr} {s : Dev} (h0 : s.Sound) : (closeSession h s).Sound := by
  unfold closeSession
  repeat' first
    | with_reducible assumption
    | with_reducible apply Dev.receive_sound
    | intro x
    | dsimp -zeta only

theorem Dev.serveDescribe_sound {s : Dev} {h : ReqHdr} {r : EntryRef} (h0 : s.Sound) : (Dev.serveDescribe s h r).Sound := by
  unfold Dev.serveDescribe
  repeat' first
    | with_reducible assumption
    | with_reducible apply Dev.answerReq_sound
    | with_reducible apply Dev.request_sound
    | with_reducible apply sub_sound
    | intro x
    | with_reducible apply ite_sound
    | dsimp -zeta only
    | split

theorem describe_sound {h : ReqHdr} {r : EntryRef} {s : Dev} (h0 : s.Sound) : (describe h r s).Sound := by
  unfold describe
  repeat' first
    | with_reducible assumption
    | with_reducible apply Dev.receive_sound
    | intro x
    | dsimp -zeta only

theorem sessionIdleTimeout_sound {k : SessKey} {s : Dev} (h0 : s.Sound) : (sessionIdleTimeout k s).Sound := by
  unfold sessionIdleTimeout
  repeat' first
    | with_reducible assumption
    | with_reducible apply Dev.dropSess_sound
    | intro x
    | with_reducible apply ite_sound
    | dsimp -zeta only
    | split

theorem Dev.freeBytes_sound {s : Dev} {n : Nat} (h0 : s.Sound) : (Dev.freeBytes s n).2.Sound := by
  unfold Dev.freeBytes
  repeat' first
    | with_reducible assumption
    | (intro x; have hx : Dev.Sound x; (on_goal 2 => clear_value x); (on_goal 1 => unfold x))
    | (intro x; (fail_if_success (have q : Engs := x)); (fail_if_success (have q : Svc := x)); (fail_if_success (have q : Trust := x)); (fail_if_success (have q : _ → _ := x)); clear_value x)
    | intro x
    | lift_lets -underBinder
    | (simp only [↓Dev.sound_mk]; with_reducible apply Dev.Sound.parts)
    | dsimp -zeta only
    | dsimp -zeta +zetaDelta only
theorem Dev.freeBytes_pair {s : Dev} {n : Nat} {x_ t_} (e_ : Dev.freeBytes s n = (x_, t_)) (h0 : s.Sound) : t_.Sound := by
  have q := Dev.freeBytes_sound (s := s) (n := n) h0; rw [e_] at q; exact q

theorem Dev.drawId_sound {s : Dev} (h0 : s.Sound) : (Dev.drawId s).2.Sound := by
  unfold Dev.drawId
  repeat' first
    | with_reducible assumption
    | with_reducible apply Dev.freeNat_sound
    | with_reducible refine Dev.freeNat_pair (by with_reducible assumption) ?_
    | (intro x; have hx : Dev.Sound x; (on_goal 2 => clear_value x); (on_goal 1 => unfold x))
    | (intro x; (fail_if_success (have q : Engs := x)); (fail_if_success (have q : Svc := x)); (fail_if_success (have q : Trust := x)); (fail_if_success (have q : _ → _ := x)); clear_value x)
    | intro x
    | lift_lets -underBinder
    | dsimp -zeta only
    | split
    | dsimp -zeta +zetaDelta only
theorem Dev.drawId_pair {s : Dev} {x_ t_} (e_ : Dev.drawId s = (x_, t_)) (h0 : s.Sound) : t_.Sound := by
  have q := Dev.drawId_sound (s := s) h0; rw [e_] at q; exact q

theorem Dev.challenge_sound {s : Dev} {kem : List Byte} (h0 : s.Sound) : (Dev.challenge s kem).2.Sound := by
  unfold Dev.challenge
  repeat' first
    | with_reducible assumption
    | with_reducible apply Dev.freeBytes_sound
    | with_reducible refine Dev.freeBytes_pair (by with_reducible assumption) ?_
    | (intro x; have hx : Dev.Sound x; (on_goal 2 => clear_value x); (on_goal 1 => unfold x))
    | (intro x; (fail_if_success (have q : Engs := x)); (fail_if_success (have q : Svc := x)); (fail_if_success (have q : Trust := x)); (fail_if_success (have q : _ → _ := x)); clear_value x)
    | intro x
    | lift_lets -underBinder
    | (simp only [↓Dev.sound_mk]; with_reducible apply Dev.Sound.parts)
    | dsimp -zeta only
    | split
    | dsimp -zeta +zetaDelta only
theorem Dev.challenge_pair {s : Dev} {kem : List Byte} {x_ t_} (e_ : Dev.challenge s kem = (x_, t_)) (h0 : s.Sound) : t_.Sound := by
  have q := Dev.challenge_sound (s := s) (kem := kem) h0; rw [e_] at q; exact q

theorem Dev.serveOpen_sound {s : Dev} {h : ReqHdr} {slot : Nat} {body : List Byte} (h0 : s.Sound) : (Dev.serveOpen s h slot body).Sound := by
  unfold Dev.serveOpen
  repeat' first
    | with_reducible assumption
    | with_reducible apply Dev.challenge_sound
    | with_reducible refine Dev.challenge_pair (by with_reducible assumption) ?_
    | with_reducible apply Dev.drawId_sound
    | with_reducible refine Dev.drawId_pair (by with_reducible assumption) ?_
    | with_reducible apply Dev.drop_sound
    | with_reducible apply Dev.putSess_sound
    | with_reducible apply Dev.reply_sound
    | with_reducible apply Dev.respond_sound
    | (intro x; have hx : Dev.Sound x; (on_goal 2 => clear_value x); (on_goal 1 => unfold x))
    | (intro x; (fail_if_success (have q : Engs := x)); (fail_if_success (have q : Svc := x)); (fail_if_success (have q : Trust := x)); (fail_if_success (have q : _ → _ := x)); clear_value x)
    | intro x
    | lift_lets -underBinder
    | (simp only [↓Dev.sound_mk]; with_reducible apply Dev.Sound.parts)
    | with_reducible apply ite_sound
    | dsimp -zeta only
    | split
    | dsimp -zeta +zetaDelta only

theorem openSession_sound {h : ReqHdr} {slot : Nat} {body : List Byte} {s : Dev} (h0 : s.Sound) : (openSession h slot body s).Sound := by
  unfold openSession
  repeat' first
    | with_reducible assumption
    | with_reducible apply Dev.receive_sound
    | intro x
    | dsimp -zeta only

theorem Dev.keyFail_sound {s : Dev} {slot : Nat} (h0 : s.Sound) : (Dev.keyFail s slot).Sound := by
  unfold Dev.keyFail
  repeat' first
    | with_reducible assumption
    | (intro x; have hx : Dev.Sound x; (on_goal 2 => clear_value x); (on_goal 1 => unfold x))
    | (intro x; (fail_if_success (have q : Engs := x)); (fail_if_success (have q : Svc := x)); (fail_if_success (have q : Trust := x)); (fail_if_success (have q : _ → _ := x)); clear_value x)
    | intro x
    | lift_lets -underBinder
    | (simp only [↓Dev.sound_mk]; with_reducible apply Dev.Sound.parts)
    | with_reducible apply ite_sound
    | dsimp -zeta only
    | split
    | dsimp -zeta +zetaDelta only

theorem Dev.accept_sound {s : Dev} {x : Sess} {seq : Nat} (h0 : s.Sound) : (Dev.accept s x seq).Sound := by
  unfold Dev.accept
  repeat' first
    | with_reducible assumption
    | with_reducible apply Dev.putSess_sound
    | with_reducible apply Dev.respond_sound
    | (intro x; have hx : Dev.Sound x; (on_goal 2 => clear_value x); (on_goal 1 => unfold x))
    | (intro x; (fail_if_success (have q : Engs := x)); (fail_if_success (have q : Svc := x)); (fail_if_success (have q : Trust := x)); (fail_if_success (have q : _ → _ := x)); clear_value x)
    | intro x
    | lift_lets -underBinder
    | (simp only [↓Dev.sound_mk]; with_reducible apply Dev.Sound.parts)
    | dsimp -zeta only
    | dsimp -zeta +zetaDelta only

theorem Dev.serveProof_sound {s : Dev} {h : ReqHdr} {sig : List Byte} (h0 : s.Sound) : (Dev.serveProof s h sig).Sound := by
  unfold Dev.serveProof
  repeat' first
    | with_reducible assumption
    | with_reducible apply Dev.accept_sound
    | with_reducible apply Dev.dropSess_sound
    | with_reducible apply Dev.keyFail_sound
    | with_reducible apply Dev.reply_sound
    | with_reducible apply Dev.respond_sound
    | with_reducible apply sig_sound
    | (intro x; have hx : Dev.Sound x; (on_goal 2 => clear_value x); (on_goal 1 => unfold x))
    | (intro x; (fail_if_success (have q : Engs := x)); (fail_if_success (have q : Svc := x)); (fail_if_success (have q : Trust := x)); (fail_if_success (have q : _ → _ := x)); clear_value x)
    | intro x
    | lift_lets -underBinder
    | (simp only [↓Dev.sound_mk]; with_reducible apply Dev.Sound.parts)
    | with_reducible apply ite_sound
    | dsimp -zeta only
    | split
    | dsimp -zeta +zetaDelta only

theorem proof_sound {h : ReqHdr} {sig : List Byte} {s : Dev} (h0 : s.Sound) : (proof h sig s).Sound := by
  unfold proof
  repeat' first
    | with_reducible assumption
    | with_reducible apply Dev.receive_sound
    | with_reducible apply sig_sound
    | intro x
    | dsimp -zeta only

theorem proofTimeout_sound {k : SessKey} {s : Dev} (h0 : s.Sound) : (proofTimeout k s).Sound := by
  unfold proofTimeout
  repeat' first
    | with_reducible assumption
    | with_reducible apply Dev.dropSess_sound
    | intro x
    | with_reducible apply ite_sound
    | dsimp -zeta only
    | split

theorem keySlotUnlock_sound {slot : Nat} {s : Dev} (h0 : s.Sound) : (keySlotUnlock slot s).Sound := by
  unfold keySlotUnlock
  repeat' first
    | with_reducible assumption
    | (intro x; have hx : Dev.Sound x; (on_goal 2 => clear_value x); (on_goal 1 => unfold x))
    | (intro x; (fail_if_success (have q : Engs := x)); (fail_if_success (have q : Svc := x)); (fail_if_success (have q : Trust := x)); (fail_if_success (have q : _ → _ := x)); clear_value x)
    | intro x
    | lift_lets -underBinder
    | (simp only [↓Dev.sound_mk]; with_reducible apply Dev.Sound.parts)
    | with_reducible apply ite_sound
    | dsimp -zeta only
    | split
    | dsimp -zeta +zetaDelta only

end Sys2Proof.Machine
end

