-- ==== Sys2Proof/Laws/SoundCmdAct.lean ====
section
/-! SUPPORT. Every operation of Machine/CmdAct.lean keeps the switch sound. -/
set_option linter.unusedTactic false
set_option linter.unusedSimpArgs false
set_option linter.unreachableTactic false
namespace Sys2Proof.Machine

theorem Dev.openTarget_sound {s : Dev} {k : SessKey} {idx n : Nat} (h0 : s.Sound) : (Dev.openTarget s k idx n).Sound := by
  unfold Dev.openTarget
  repeat' first
    | with_reducible assumption
    | with_reducible apply Dev.loadOpen_sound
    | (intro x; have hx : Dev.Sound x; (on_goal 2 => clear_value x); (on_goal 1 => unfold x))
    | (intro x; (fail_if_success (have q : Engs := x)); (fail_if_success (have q : Svc := x)); (fail_if_success (have q : Trust := x)); (fail_if_success (have q : _ → _ := x)); clear_value x)
    | intro x
    | lift_lets -underBinder
    | (simp only [↓Dev.sound_mk]; with_reducible apply Dev.Sound.parts)
    | with_reducible apply ite_sound
    | dsimp -zeta only
    | split
    | dsimp -zeta +zetaDelta only

theorem Dev.commitTarget_sound {s : Dev} {idx : Nat} (h0 : s.Sound) : (Dev.commitTarget s idx).Sound := by
  unfold Dev.commitTarget
  repeat' first
    | with_reducible assumption
    | with_reducible apply b_sound
    | with_reducible apply Dev.loadDrop_sound
    | (intro x; have hx : Dev.Sound x; (on_goal 2 => clear_value x); (on_goal 1 => unfold x))
    | (intro x; (fail_if_success (have q : Engs := x)); (fail_if_success (have q : Svc := x)); (fail_if_success (have q : Trust := x)); (fail_if_success (have q : _ → _ := x)); clear_value x)
    | intro x
    | lift_lets -underBinder
    | (simp only [↓Dev.sound_mk]; with_reducible apply Dev.Sound.parts)
    | with_reducible apply ite_sound
    | dsimp -zeta only
    | split
    | dsimp -zeta +zetaDelta only

theorem Dev.cmdStore_sound {s : Dev} {k : SessKey} {idx sub : Nat} {v : OVal} (h0 : s.Sound) : (Dev.cmdStore s k idx sub v).1.Sound := by
  have h1 : Dev.Sound (s.cmdStart idx sub (valNum v)) := Dev.cmdStart_sound h0
  unfold Dev.cmdStore
  extract_lets n s1
  have a1 : Dev.Sound s1 := h1
  clear_value s1
  split
  · exact Dev.openTarget_sound a1
  · exact Dev.commitTarget_sound a1
  · split
    · exact a1
    · exact a1
theorem Dev.cmdStore_pair {s : Dev} {k : SessKey} {idx sub : Nat} {v : OVal} {t_ x_} (e_ : Dev.cmdStore s k idx sub v = (t_, x_)) (h0 : s.Sound) : t_.Sound := by
  have q := Dev.cmdStore_sound (s := s) (k := k) (idx := idx) (sub := sub) (v := v) h0; rw [e_] at q; exact q

theorem Dev.directedSend_sound {s : Dev} {b : List Byte} (h0 : s.Sound) : (Dev.directedSend s b).Sound := by
  unfold Dev.directedSend
  repeat' first
    | with_reducible assumption
    | with_reducible apply b_sound
    | with_reducible apply Dev.count_sound
    | with_reducible apply Dev.directedOut_sound
    | with_reducible apply Dev.drop_sound
    | (intro x; have hx : Dev.Sound x; (on_goal 2 => clear_value x); (on_goal 1 => unfold x))
    | (intro x; (fail_if_success (have q : Engs := x)); (fail_if_success (have q : Svc := x)); (fail_if_success (have q : Trust := x)); (fail_if_success (have q : _ → _ := x)); clear_value x)
    | intro x
    | lift_lets -underBinder
    | (simp only [↓Dev.sound_mk]; with_reducible apply Dev.Sound.parts)
    | with_reducible apply ite_sound
    | dsimp -zeta only
    | split
    | dsimp -zeta +zetaDelta only

theorem Dev.regValPut_sound {s : Dev} {x : Sess} {v : Nat} (h0 : s.Sound) : (Dev.regValPut s x v).Sound := by
  unfold Dev.regValPut
  repeat' first
    | with_reducible assumption
    | with_reducible apply Dev.blkWriteWhole_sound
    | with_reducible apply Dev.rset_sound
    | (intro x; have hx : Dev.Sound x; (on_goal 2 => clear_value x); (on_goal 1 => unfold x))
    | (intro x; (fail_if_success (have q : Engs := x)); (fail_if_success (have q : Svc := x)); (fail_if_success (have q : Trust := x)); (fail_if_success (have q : _ → _ := x)); clear_value x)
    | intro x
    | lift_lets -underBinder
    | with_reducible apply ite_sound
    | dsimp -zeta only
    | split
    | dsimp -zeta +zetaDelta only

theorem Dev.putStaged_pair {s : Dev} {k : SessKey} {idx sub : Nat} {v : OVal} {t : Dev} (e : Dev.putStaged s k idx sub v = some t) (h0 : s.Sound) : t.Sound := by
  unfold Dev.putStaged at e
  split at e
  · cases e; exact Dev.modLoad_sound h0
  · split at e
    · cases e; exact Dev.loadData_sound h0
    · split at e
      · cases e; exact Dev.modSess_sound h0
      · cases e

theorem Dev.putEntry_sound {s : Dev} {k : SessKey} {e : EntryWrite} (h0 : s.Sound) : (Dev.putEntry s k e).1.Sound := by
  unfold Dev.putEntry
  extract_lets idx sub
  split
  · split
    rename_i h; exact Dev.cmdStore_pair h h0
  · split
    · rename_i h; exact Dev.putStaged_pair h h0
    · split
      · exact Dev.modSess_sound h0
      · split
        · change Dev.Sound (match s.sess? k with | some x => s.regValPut x (valNum e.val) | none => s)
          split
          · exact Dev.regValPut_sound h0
          · exact h0
        · split
          · exact Dev.directedSend_sound h0
          · split
            · exact h0.parts
            · exact Dev.objPut_sound h0
theorem Dev.putEntry_pair {s : Dev} {k : SessKey} {e : EntryWrite} {t_ x_} (e_ : Dev.putEntry s k e = (t_, x_)) (h0 : s.Sound) : t_.Sound := by
  have q := Dev.putEntry_sound (s := s) (k := k) (e := e) h0; rw [e_] at q; exact q

theorem Dev.preview_sound {s : Dev} {k : SessKey} {e : EntryWrite} (h0 : s.Sound) : (Dev.preview s k e).Sound := by
  unfold Dev.preview
  split
  · exact Dev.cmdStore_sound h0
  · cases h : s.putStaged k e.ref.index e.ref.sub e.val with
    | none => exact h0
    | some t => exact Dev.putStaged_pair h h0

theorem Dev.stateDone_sound {s : Dev} {status : Nat} (h0 : s.Sound) : (Dev.stateDone s status).Sound := by
  unfold Dev.stateDone
  repeat' first
    | with_reducible assumption
    | with_reducible apply Dev.cmdDone_sound
    | intro x
    | dsimp -zeta only

theorem Dev.toMaintenance_sound {s : Dev} (h0 : s.Sound) : (Dev.toMaintenance s).Sound := by
  unfold Dev.toMaintenance
  repeat' first
    | with_reducible assumption
    | with_reducible apply maintain_sound
    | with_reducible apply portDisable_sound
    | with_reducible apply Dev.setDevState_sound
    | with_reducible apply Dev.stateDone_sound
    | with_reducible apply each_sound
    | (intro x; have hx : Dev.Sound x; (on_goal 2 => clear_value x); (on_goal 1 => unfold x))
    | (intro x; (fail_if_success (have q : Engs := x)); (fail_if_success (have q : Svc := x)); (fail_if_success (have q : Trust := x)); (fail_if_success (have q : _ → _ := x)); clear_value x)
    | intro x
    | lift_lets -underBinder
    | (simp only [↓Dev.sound_mk]; with_reducible apply Dev.Sound.parts)
    | dsimp -zeta only
    | decide
    | dsimp -zeta +zetaDelta only

theorem Dev.drainNotice_sound {s : Dev} (h0 : s.Sound) : (Dev.drainNotice s).Sound := by
  unfold Dev.drainNotice
  repeat' first
    | with_reducible assumption
    | with_reducible apply Dev.toDealer_sound
    | intro x
    | with_reducible apply ite_sound
    | dsimp -zeta only
    | split

theorem Dev.maintainAct_sound {s : Dev} {force : Bool} (h0 : s.Sound) : (Dev.maintainAct s force).Sound := by
  unfold Dev.maintainAct
  repeat' first
    | with_reducible assumption
    | with_reducible apply Dev.discard_sound
    | with_reducible apply maintain_sound
    | with_reducible apply Dev.toMaintenance_sound
    | with_reducible apply each_sound
    | (intro x; have hx : Dev.Sound x; (on_goal 2 => clear_value x); (on_goal 1 => unfold x))
    | (intro x; (fail_if_success (have q : Engs := x)); (fail_if_success (have q : Svc := x)); (fail_if_success (have q : Trust := x)); (fail_if_success (have q : _ → _ := x)); clear_value x)
    | intro x
    | lift_lets -underBinder
    | (simp only [↓Dev.sound_mk]; with_reducible apply Dev.Sound.parts)
    | with_reducible apply ite_sound
    | dsimp -zeta only
    | split
    | dsimp -zeta +zetaDelta only

theorem Dev.stateAct_sound {s : Dev} {n : Nat} (h0 : s.Sound) : (Dev.stateAct s n).Sound := by
  unfold Dev.stateAct
  repeat' first
    | with_reducible assumption
    | with_reducible apply Dev.bootEntry_sound
    | with_reducible apply Dev.drainNotice_sound
    | with_reducible apply Dev.maintainAct_sound
    | with_reducible apply Dev.setDevState_sound
    | with_reducible apply Dev.stateDone_sound
    | with_reducible apply Dev.toStandby_sound
    | (intro x; have hx : Dev.Sound x; (on_goal 2 => clear_value x); (on_goal 1 => unfold x))
    | (intro x; (fail_if_success (have q : Engs := x)); (fail_if_success (have q : Svc := x)); (fail_if_success (have q : Trust := x)); (fail_if_success (have q : _ → _ := x)); clear_value x)
    | intro x
    | lift_lets -underBinder
    | with_reducible apply ite_sound
    | dsimp -zeta only
    | split
    | decide
    | dsimp -zeta +zetaDelta only

theorem Dev.eqCommitAct_sound {s : Dev} {b : List Byte} (h0 : s.Sound) : (Dev.eqCommitAct s b).Sound := by
  unfold Dev.eqCommitAct
  repeat' first
    | with_reducible assumption
    | with_reducible apply b_sound
    | with_reducible apply Dev.cmdDone_sound
    | with_reducible apply Dev.eqInForce_sound
    | with_reducible apply Dev.fset_sound
    | with_reducible apply Dev.measureEq_sound
    | (intro x; have hx : Dev.Sound x; (on_goal 2 => clear_value x); (on_goal 1 => unfold x))
    | (intro x; (fail_if_success (have q : Engs := x)); (fail_if_success (have q : Svc := x)); (fail_if_success (have q : Trust := x)); (fail_if_success (have q : _ → _ := x)); clear_value x)
    | intro x
    | lift_lets -underBinder
    | (simp only [↓Dev.sound_mk]; with_reducible apply Dev.Sound.parts)
    | with_reducible apply ite_sound
    | dsimp -zeta only
    | split
    | dsimp -zeta +zetaDelta only

theorem Dev.keyAct_sound {s : Dev} {slot n : Nat} {b : List Byte} (h0 : s.Sound) : (Dev.keyAct s slot n b).Sound := by
  unfold Dev.keyAct
  repeat' first
    | with_reducible assumption
    | with_reducible apply b_sound
    | with_reducible apply Dev.cmdDone_sound
    | with_reducible apply Dev.dropSess_sound
    | with_reducible apply Dev.loadDrop_sound
    | with_reducible apply Dev.measure_sound
    | with_reducible apply each_sound
    | (intro x; have hx : Dev.Sound x; (on_goal 2 => clear_value x); (on_goal 1 => unfold x))
    | (intro x; (fail_if_success (have q : Engs := x)); (fail_if_success (have q : Svc := x)); (fail_if_success (have q : Trust := x)); (fail_if_success (have q : _ → _ := x)); clear_value x)
    | intro x
    | lift_lets -underBinder
    | (simp only [↓Dev.sound_mk]; with_reducible apply Dev.Sound.parts)
    | with_reducible apply ite_sound
    | dsimp -zeta only
    | split
    | dsimp -zeta +zetaDelta only

theorem Dev.fwAct_sound {s : Dev} {n : Nat} {b : List Byte} (h0 : s.Sound) : (Dev.fwAct s n b).Sound := by
  unfold Dev.fwAct
  repeat' first
    | with_reducible assumption
    | with_reducible apply b_sound
    | with_reducible apply Dev.cmdDone_sound
    | with_reducible apply Dev.copies_sound
    | with_reducible apply Dev.measure_sound
    | (intro x; have hx : Dev.Sound x; (on_goal 2 => clear_value x); (on_goal 1 => unfold x))
    | (intro x; (fail_if_success (have q : Engs := x)); (fail_if_success (have q : Svc := x)); (fail_if_success (have q : Trust := x)); (fail_if_success (have q : _ → _ := x)); clear_value x)
    | intro x
    | lift_lets -underBinder
    | (simp only [↓Dev.sound_mk]; with_reducible apply Dev.Sound.parts)
    | with_reducible apply ite_sound
    | dsimp -zeta only
    | split
    | dsimp -zeta +zetaDelta only

theorem Dev.progAct_sound {s : Dev} {slot n : Nat} (h0 : s.Sound) : (Dev.progAct s slot n).Sound := by
  unfold Dev.progAct
  repeat' first
    | with_reducible assumption
    | with_reducible apply Dev.cmdDone_sound
    | with_reducible apply Dev.emptySlot_sound
    | with_reducible apply Dev.loadDrop_sound
    | (intro x; have hx : Dev.Sound x; (on_goal 2 => clear_value x); (on_goal 1 => unfold x))
    | (intro x; (fail_if_success (have q : Engs := x)); (fail_if_success (have q : Svc := x)); (fail_if_success (have q : Trust := x)); (fail_if_success (have q : _ → _ := x)); clear_value x)
    | intro x
    | lift_lets -underBinder
    | (simp only [↓Dev.sound_mk]; with_reducible apply Dev.Sound.parts)
    | with_reducible apply ite_sound
    | dsimp -zeta only
    | split
    | dsimp -zeta +zetaDelta only

theorem Dev.addQueue_sound {s : Dev} {vs fn : Nat} (h0 : s.Sound) : (Dev.addQueue s vs fn).Sound := by
  unfold Dev.addQueue
  repeat' first
    | with_reducible assumption
    | with_reducible apply Dev.fset_sound
    | with_reducible apply Dev.modQ_sound
    | with_reducible apply Dev.queueReset_sound
    | (intro x; have hx : Dev.Sound x; (on_goal 2 => clear_value x); (on_goal 1 => unfold x))
    | (intro x; (fail_if_success (have q : Engs := x)); (fail_if_success (have q : Svc := x)); (fail_if_success (have q : Trust := x)); (fail_if_success (have q : _ → _ := x)); clear_value x)
    | intro x
    | lift_lets -underBinder
    | (simp only [↓Dev.sound_mk]; with_reducible apply Dev.Sound.parts)
    | dsimp -zeta only
    | dsimp -zeta +zetaDelta only

theorem Dev.revokeQueue_sound {s : Dev} {q vs : Nat} (h0 : s.Sound) : (Dev.revokeQueue s q vs).Sound := by
  unfold Dev.revokeQueue
  repeat' first
    | with_reducible assumption
    | with_reducible apply Dev.fset_sound
    | with_reducible apply Dev.modQ_sound
    | with_reducible apply queueIdle_sound
    | (intro x; have hx : Dev.Sound x; (on_goal 2 => clear_value x); (on_goal 1 => unfold x))
    | (intro x; (fail_if_success (have q : Engs := x)); (fail_if_success (have q : Svc := x)); (fail_if_success (have q : Trust := x)); (fail_if_success (have q : _ → _ := x)); clear_value x)
    | intro x
    | lift_lets -underBinder
    | (simp only [↓Dev.sound_mk]; with_reducible apply Dev.Sound.parts)
    | dsimp -zeta only
    | dsimp -zeta +zetaDelta only

theorem Dev.resAct_sound {s : Dev} {n : Nat} (h0 : s.Sound) : (Dev.resAct s n).Sound := by
  unfold Dev.resAct
  repeat' first
    | with_reducible assumption
    | with_reducible apply Dev.addQueue_sound
    | with_reducible apply b_sound
    | with_reducible apply Dev.cmdDone_sound
    | with_reducible apply Dev.fset_sound
    | with_reducible apply Dev.revokeQueue_sound
    | with_reducible apply Dev.sfEvent_sound
    | with_reducible apply each_sound
    | (intro x; have hx : Dev.Sound x; (on_goal 2 => clear_value x); (on_goal 1 => unfold x))
    | (intro x; (fail_if_success (have q : Engs := x)); (fail_if_success (have q : Svc := x)); (fail_if_success (have q : Trust := x)); (fail_if_success (have q : _ → _ := x)); clear_value x)
    | intro x
    | lift_lets -underBinder
    | with_reducible apply ite_sound
    | dsimp -zeta only
    | split
    | dsimp -zeta +zetaDelta only

theorem Dev.dpcAct_sound {s : Dev} {n : Nat} (h0 : s.Sound) : (Dev.dpcAct s n).Sound := by
  unfold Dev.dpcAct
  repeat' first
    | with_reducible assumption
    | with_reducible apply b_sound
    | with_reducible apply Dev.cmdDone_sound
    | with_reducible apply dpcTriggerStatusWrite_sound
    | intro x
    | with_reducible apply ite_sound
    | dsimp -zeta only
    | split

theorem Dev.cutAct_sound {s : Dev} {id : Nat} (h0 : s.Sound) : (Dev.cutAct s id).Sound := by
  unfold Dev.cutAct
  repeat' first
    | with_reducible assumption
    | with_reducible apply Dev.dealDown_sound
    | (intro x; have hx : Dev.Sound x; (on_goal 2 => clear_value x); (on_goal 1 => unfold x))
    | (intro x; (fail_if_success (have q : Engs := x)); (fail_if_success (have q : Svc := x)); (fail_if_success (have q : Trust := x)); (fail_if_success (have q : _ → _ := x)); clear_value x)
    | intro x
    | lift_lets -underBinder
    | (simp only [↓Dev.sound_mk]; with_reducible apply Dev.Sound.parts)
    | dsimp -zeta only
    | dsimp -zeta +zetaDelta only

theorem Dev.cmdDo_sound {s : Dev} {a : CmdAct} (h0 : s.Sound) : (Dev.cmdDo s a).Sound := by
  unfold Dev.cmdDo
  repeat' first
    | with_reducible assumption
    | with_reducible apply Dev.clusterReset_sound
    | with_reducible refine Dev.clusterReset_pair (by with_reducible assumption) ?_
    | with_reducible apply clusterReset_sound
    | with_reducible apply Dev.cmdDone_sound
    | with_reducible apply Dev.commitWrite_sound
    | with_reducible apply Dev.cutAct_sound
    | with_reducible apply Dev.dpcAct_sound
    | with_reducible apply Dev.eqCommitAct_sound
    | with_reducible apply Dev.fwAct_sound
    | with_reducible apply Dev.keyAct_sound
    | with_reducible apply Dev.pressAt_sound
    | with_reducible apply Dev.progAct_sound
    | with_reducible apply Dev.resAct_sound
    | with_reducible apply Dev.stateAct_sound
    | with_reducible apply sub_sound
    | (intro x; have hx : Dev.Sound x; (on_goal 2 => clear_value x); (on_goal 1 => unfold x))
    | (intro x; (fail_if_success (have q : Engs := x)); (fail_if_success (have q : Svc := x)); (fail_if_success (have q : Trust := x)); (fail_if_success (have q : _ → _ := x)); clear_value x)
    | intro x
    | lift_lets -underBinder
    | (simp only [↓Dev.sound_mk]; with_reducible apply Dev.Sound.parts)
    | with_reducible apply ite_sound
    | dsimp -zeta only
    | split
    | dsimp -zeta +zetaDelta only

theorem Dev.cmdAct_sound {s : Dev} {a : CmdAct} (h0 : s.Sound) : (Dev.cmdAct s a).Sound := by
  unfold Dev.cmdAct
  repeat' first
    | with_reducible assumption
    | with_reducible apply Dev.cmdDo_sound
    | (intro x; have hx : Dev.Sound x; (on_goal 2 => clear_value x); (on_goal 1 => unfold x))
    | (intro x; (fail_if_success (have q : Engs := x)); (fail_if_success (have q : Svc := x)); (fail_if_success (have q : Trust := x)); (fail_if_success (have q : _ → _ := x)); clear_value x)
    | intro x
    | lift_lets -underBinder
    | (simp only [↓Dev.sound_mk]; with_reducible apply Dev.Sound.parts)
    | with_reducible apply ite_sound
    | dsimp -zeta only
    | split
    | dsimp -zeta +zetaDelta only

theorem Dev.runJobs_sound {s : Dev} {n_ : Nat} (h0 : s.Sound) : (Dev.runJobs s n_).Sound := by
  induction n_ generalizing s with
  | zero => exact h0
  | succ n_ ih =>
    unfold Dev.runJobs
    repeat' first
      | with_reducible assumption
      | with_reducible apply ih
      | with_reducible apply Dev.cmdDo_sound
      | (intro x; have hx : Dev.Sound x; (on_goal 2 => clear_value x); (on_goal 1 => unfold x))
      | (intro x; (fail_if_success (have q : Engs := x)); (fail_if_success (have q : Svc := x)); (fail_if_success (have q : Trust := x)); (fail_if_success (have q : _ → _ := x)); clear_value x)
      | intro x
      | lift_lets -underBinder
      | (simp only [↓Dev.sound_mk]; with_reducible apply Dev.Sound.parts)
      | with_reducible apply ite_sound
      | dsimp -zeta only
      | split
      | dsimp -zeta +zetaDelta only

theorem Dev.measureProgram_sound {s : Dev} {slot : Nat} (h0 : s.Sound) : (Dev.measureProgram s slot).Sound := by
  unfold Dev.measureProgram
  repeat' first
    | with_reducible assumption
    | with_reducible apply Dev.cmdDone_sound
    | with_reducible apply Dev.emptySlot_sound
    | with_reducible apply Dev.measure_sound
    | (intro x; have hx : Dev.Sound x; (on_goal 2 => clear_value x); (on_goal 1 => unfold x))
    | (intro x; (fail_if_success (have q : Engs := x)); (fail_if_success (have q : Svc := x)); (fail_if_success (have q : Trust := x)); (fail_if_success (have q : _ → _ := x)); clear_value x)
    | intro x
    | lift_lets -underBinder
    | (simp only [↓Dev.sound_mk]; with_reducible apply Dev.Sound.parts)
    | with_reducible apply ite_sound
    | dsimp -zeta only
    | split
    | dsimp -zeta +zetaDelta only

theorem programMeasured_sound {slot : Nat} {s : Dev} (h0 : s.Sound) : (programMeasured slot s).Sound := by
  unfold programMeasured
  repeat' first
    | with_reducible assumption
    | with_reducible apply Dev.measureProgram_sound
    | with_reducible apply Dev.runJobs_sound
    | (intro x; have hx : Dev.Sound x; (on_goal 2 => clear_value x); (on_goal 1 => unfold x))
    | (intro x; (fail_if_success (have q : Engs := x)); (fail_if_success (have q : Svc := x)); (fail_if_success (have q : Trust := x)); (fail_if_success (have q : _ → _ := x)); clear_value x)
    | intro x
    | lift_lets -underBinder
    | (simp only [↓Dev.sound_mk]; with_reducible apply Dev.Sound.parts)
    | with_reducible apply ite_sound
    | dsimp -zeta only
    | split
    | dsimp -zeta +zetaDelta only

end Sys2Proof.Machine
end

