-- ==== Sys2Proof/Laws/SoundIkiup.lean ====
section
/-! SUPPORT. Every operation of Machine/Ikiup.lean keeps the switch sound. -/
set_option linter.unusedTactic false
set_option linter.unusedSimpArgs false
set_option linter.unreachableTactic false
namespace Sys2Proof.Machine

theorem Dev.readAll_sound {s : Dev} {x : Sess} {l : List EntryRef} (h0 : s.Sound) : (Dev.readAll s x l).2.2.Sound := by
  induction l generalizing s with
  | nil => exact h0
  | cons e t ih =>
    unfold Dev.readAll
    split
    · exact h0
    · split
      rename_i h
      have h1 := Dev.entryRead_pair h h0
      split
      · exact h0
      · exact ih h1
theorem Dev.readAll_pair {s : Dev} {x : Sess} {l : List EntryRef} {x_ y_ t_} (e_ : Dev.readAll s x l = (x_, y_, t_)) (h0 : s.Sound) : t_.Sound := by
  have q := Dev.readAll_sound (s := s) (x := x) (l := l) h0; rw [e_] at q; exact q

theorem Dev.doRead_sound {s : Dev} {h : ReqHdr} {es : List EntryRef} (h0 : s.Sound) : (Dev.doRead s h es).Sound := by
  unfold Dev.doRead
  repeat' first
    | with_reducible assumption
    | with_reducible apply Dev.answerReq_sound
    | with_reducible apply b_sound
    | with_reducible apply Dev.readAll_sound
    | with_reducible refine Dev.readAll_pair (by with_reducible assumption) ?_
    | with_reducible apply st_sound
    | (intro x; have hx : Dev.Sound x; (on_goal 2 => clear_value x); (on_goal 1 => unfold x))
    | (intro x; (fail_if_success (have q : Engs := x)); (fail_if_success (have q : Svc := x)); (fail_if_success (have q : Trust := x)); (fail_if_success (have q : _ → _ := x)); clear_value x)
    | intro x
    | lift_lets -underBinder
    | with_reducible apply ite_sound
    | dsimp -zeta only
    | split
    | dsimp -zeta +zetaDelta only

theorem Dev.serveRead_sound {s : Dev} {h : ReqHdr} {es : List EntryRef} (h0 : s.Sound) : (Dev.serveRead s h es).Sound := by
  unfold Dev.serveRead
  repeat' first
    | with_reducible assumption
    | with_reducible apply Dev.doRead_sound
    | with_reducible apply read_sound
    | with_reducible apply Dev.request_sound
    | with_reducible apply sub_sound
    | (intro x; have hx : Dev.Sound x; (on_goal 2 => clear_value x); (on_goal 1 => unfold x))
    | (intro x; (fail_if_success (have q : Engs := x)); (fail_if_success (have q : Svc := x)); (fail_if_success (have q : Trust := x)); (fail_if_success (have q : _ → _ := x)); clear_value x)
    | intro x
    | lift_lets -underBinder
    | (simp only [↓Dev.sound_mk]; with_reducible apply Dev.Sound.parts)
    | with_reducible apply ite_sound
    | dsimp -zeta only
    | split
    | dsimp -zeta +zetaDelta only

theorem read_sound {h : ReqHdr} {es : List EntryRef} {s : Dev} (h0 : s.Sound) : (read h es s).Sound := by
  unfold read
  repeat' first
    | with_reducible assumption
    | with_reducible apply Dev.receive_sound
    | intro x
    | dsimp -zeta only

theorem Dev.storeAll_sound {s : Dev} {k : SessKey} {es : List EntryWrite} (h0 : s.Sound) : (Dev.storeAll s k es).1.Sound := by
  unfold Dev.storeAll
  have key : ∀ (l : List EntryWrite) (a : Dev × List CmdAct), a.1.Sound → (l.foldl (fun (a : Dev × List CmdAct) e =>
      let (s1, l) := a.1.putEntry k e
      (s1, a.2 ++ l)) a).1.Sound := by
    intro l
    induction l with
    | nil => exact fun _ h => h
    | cons x l ih => exact fun a h => ih _ (Dev.putEntry_sound h)
  exact key _ _ h0
theorem Dev.storeAll_pair {s : Dev} {k : SessKey} {es : List EntryWrite} {t_ x_} (e_ : Dev.storeAll s k es = (t_, x_)) (h0 : s.Sound) : t_.Sound := by
  have q := Dev.storeAll_sound (s := s) (k := k) (es := es) h0; rw [e_] at q; exact q

theorem Dev.doWrite_sound {s : Dev} {h : ReqHdr} {es : List EntryWrite} (h0 : s.Sound) : (Dev.doWrite s h es).Sound := by
  unfold Dev.doWrite
  repeat' first
    | with_reducible assumption
    | with_reducible apply Dev.answerReq_sound
    | with_reducible apply Dev.cmdAct_sound
    | with_reducible apply Dev.rejected_sound
    | with_reducible apply st_sound
    | with_reducible apply Dev.storeAll_sound
    | with_reducible refine Dev.storeAll_pair (by with_reducible assumption) ?_
    | with_reducible apply sub_sound
    | with_reducible apply each_sound
    | (intro x; have hx : Dev.Sound x; (on_goal 2 => clear_value x); (on_goal 1 => unfold x))
    | (intro x; (fail_if_success (have q : Engs := x)); (fail_if_success (have q : Svc := x)); (fail_if_success (have q : Trust := x)); (fail_if_success (have q : _ → _ := x)); clear_value x)
    | intro x
    | lift_lets -underBinder
    | (simp only [↓Dev.sound_mk]; with_reducible apply Dev.Sound.parts)
    | with_reducible apply ite_sound
    | dsimp -zeta only
    | split
    | dsimp -zeta +zetaDelta only

theorem Dev.serveWrite_sound {s : Dev} {h : ReqHdr} {es : List EntryWrite} (h0 : s.Sound) : (Dev.serveWrite s h es).Sound := by
  unfold Dev.serveWrite
  repeat' first
    | with_reducible assumption
    | with_reducible apply Dev.doWrite_sound
    | with_reducible apply Dev.request_sound
    | with_reducible apply sub_sound
    | with_reducible apply write_sound
    | (intro x; have hx : Dev.Sound x; (on_goal 2 => clear_value x); (on_goal 1 => unfold x))
    | (intro x; (fail_if_success (have q : Engs := x)); (fail_if_success (have q : Svc := x)); (fail_if_success (have q : Trust := x)); (fail_if_success (have q : _ → _ := x)); clear_value x)
    | intro x
    | lift_lets -underBinder
    | (simp only [↓Dev.sound_mk]; with_reducible apply Dev.Sound.parts)
    | with_reducible apply ite_sound
    | dsimp -zeta only
    | split
    | dsimp -zeta +zetaDelta only

theorem write_sound {h : ReqHdr} {es : List EntryWrite} {s : Dev} (h0 : s.Sound) : (write h es s).Sound := by
  unfold write
  repeat' first
    | with_reducible assumption
    | with_reducible apply Dev.receive_sound
    | intro x
    | dsimp -zeta only

theorem Dev.serve_sound {s : Dev} {q : InReq} (h0 : s.Sound) : (Dev.serve s q).Sound := by
  unfold Dev.serve
  repeat' first
    | with_reducible assumption
    | with_reducible apply describe_sound
    | with_reducible apply keepalive_sound
    | with_reducible apply notifyAck_sound
    | with_reducible apply proof_sound
    | with_reducible apply read_sound
    | with_reducible apply Dev.serveClose_sound
    | with_reducible apply Dev.serveDescribe_sound
    | with_reducible apply Dev.serveKeepalive_sound
    | with_reducible apply Dev.serveNotifyAck_sound
    | with_reducible apply Dev.serveOpen_sound
    | with_reducible apply Dev.serveProof_sound
    | with_reducible apply Dev.serveRead_sound
    | with_reducible apply Dev.serveSubscribe_sound
    | with_reducible apply Dev.serveWrite_sound
    | with_reducible apply sig_sound
    | with_reducible apply subscribe_sound
    | with_reducible apply write_sound
    | intro x
    | dsimp -zeta only
    | split

theorem Dev.serveRequests_sound {s : Dev} (h0 : s.Sound) : (Dev.serveRequests s).Sound := by
  unfold Dev.serveRequests
  repeat' first
    | with_reducible assumption
    | with_reducible apply Dev.serve_sound
    | with_reducible apply each_sound
    | with_reducible apply foldl_sound
    | (intro x; have hx : Dev.Sound x; (on_goal 2 => clear_value x); (on_goal 1 => unfold x))
    | (intro x; (fail_if_success (have q : Engs := x)); (fail_if_success (have q : Svc := x)); (fail_if_success (have q : Trust := x)); (fail_if_success (have q : _ → _ := x)); clear_value x)
    | intro x
    | lift_lets -underBinder
    | (simp only [↓Dev.sound_mk]; with_reducible apply Dev.Sound.parts)
    | with_reducible apply ite_sound
    | dsimp -zeta only
    | split
    | dsimp -zeta +zetaDelta only

theorem tabove_flashAll {l : List Commit} {t : Tbl OVal} (h : tabove 0 t = true) : tabove 0 (flashAll t l) = true := by
  unfold flashAll
  induction l generalizing t with
  | nil => exact h
  | cons x l ih => exact ih (tabove_foldl_tins h)

theorem rwsFlashCommit_sound {k : SessKey} {s : Dev} (h0 : s.Sound) : (rwsFlashCommit k s).Sound := by
  have hf : ∀ (l : List Commit) (svc : Svc), svc.state = s.svc.state → Dev.Sound { s with flash := flashAll s.flash l, svc := svc } := fun l svc hs => by
    rw [Dev.sound_mk]
    exact ⟨h0.1, h0.2.1, h0.2.2.1, h0.2.2.2.1, tabove_flashAll h0.2.2.2.2.1, by rw [hs]; exact h0.2.2.2.2.2.1, h0.2.2.2.2.2.2⟩
  unfold rwsFlashCommit
  extract_lets l _
  split
  · exact h0
  · split
    · exact h0
    · extract_lets s1
      have a1 : Dev.Sound s1 := hf _ _ rfl
      clear_value s1
      refine each_sound ?_ fun _ _ h => Dev.cmdAct_sound h
      split
      · exact Dev.answerReq_sound a1
      · exact a1

theorem writeNum_sound {h : ReqHdr} {idx sub : Nat} {t : ObjTyp} {v : Nat} {s : Dev} (h0 : s.Sound) : (writeNum h idx sub t v s).Sound := by
  unfold writeNum
  repeat' first
    | with_reducible assumption
    | with_reducible apply sub_sound
    | with_reducible apply write_sound
    | (intro x; have hx : Dev.Sound x; (on_goal 2 => clear_value x); (on_goal 1 => unfold x))
    | (intro x; (fail_if_success (have q : Engs := x)); (fail_if_success (have q : Svc := x)); (fail_if_success (have q : Trust := x)); (fail_if_success (have q : _ → _ := x)); clear_value x)
    | intro x
    | lift_lets -underBinder
    | (simp only [↓Dev.sound_mk]; with_reducible apply Dev.Sound.parts)
    | dsimp -zeta only
    | dsimp -zeta +zetaDelta only

theorem writeBytes_sound {h : ReqHdr} {idx sub : Nat} {b : List Byte} {s : Dev} (h0 : s.Sound) : (writeBytes h idx sub b s).Sound := by
  unfold writeBytes
  repeat' first
    | with_reducible assumption
    | with_reducible apply b_sound
    | with_reducible apply sub_sound
    | with_reducible apply write_sound
    | (intro x; have hx : Dev.Sound x; (on_goal 2 => clear_value x); (on_goal 1 => unfold x))
    | (intro x; (fail_if_success (have q : Engs := x)); (fail_if_success (have q : Svc := x)); (fail_if_success (have q : Trust := x)); (fail_if_success (have q : _ → _ := x)); clear_value x)
    | intro x
    | lift_lets -underBinder
    | (simp only [↓Dev.sound_mk]; with_reducible apply Dev.Sound.parts)
    | dsimp -zeta only
    | dsimp -zeta +zetaDelta only

theorem continueCmd_sound {h : ReqHdr} {s : Dev} (h0 : s.Sound) : (continueCmd h s).Sound := by
  unfold continueCmd
  repeat' first
    | with_reducible assumption
    | with_reducible apply writeNum_sound
    | intro x
    | dsimp -zeta only

theorem drain_sound {h : ReqHdr} {s : Dev} (h0 : s.Sound) : (drain h s).Sound := by
  unfold drain
  repeat' first
    | with_reducible assumption
    | with_reducible apply writeNum_sound
    | intro x
    | dsimp -zeta only

theorem maintain_sound {h : ReqHdr} {force : Bool} {s : Dev} (h0 : s.Sound) : (maintain h force s).Sound := by
  unfold maintain
  repeat' first
    | with_reducible assumption
    | with_reducible apply writeNum_sound
    | intro x
    | with_reducible apply ite_sound
    | dsimp -zeta only
    | split

theorem resume_sound {h : ReqHdr} {s : Dev} (h0 : s.Sound) : (resume h s).Sound := by
  unfold resume
  repeat' first
    | with_reducible assumption
    | with_reducible apply writeNum_sound
    | intro x
    | dsimp -zeta only

theorem abortDrain_sound {h : ReqHdr} {s : Dev} (h0 : s.Sound) : (abortDrain h s).Sound := by
  unfold abortDrain
  repeat' first
    | with_reducible assumption
    | with_reducible apply writeNum_sound
    | intro x
    | dsimp -zeta only

theorem mgmtReset_sound {h : ReqHdr} {s : Dev} (h0 : s.Sound) : (mgmtReset h s).Sound := by
  unfold mgmtReset
  repeat' first
    | with_reducible assumption
    | with_reducible apply writeNum_sound
    | intro x
    | dsimp -zeta only

theorem maintainComplete_sound {s : Dev} (h0 : s.Sound) : (maintainComplete s).Sound := by
  unfold maintainComplete
  repeat' first
    | with_reducible assumption
    | with_reducible apply maintain_sound
    | with_reducible apply Dev.toMaintenance_sound
    | intro x
    | with_reducible apply ite_sound
    | dsimp -zeta only
    | split

theorem maintainTimeout_sound {s : Dev} (h0 : s.Sound) : (maintainTimeout s).Sound := by
  unfold maintainTimeout
  repeat' first
    | with_reducible assumption
    | with_reducible apply maintain_sound
    | with_reducible apply Dev.stateDone_sound
    | (intro x; have hx : Dev.Sound x; (on_goal 2 => clear_value x); (on_goal 1 => unfold x))
    | (intro x; (fail_if_success (have q : Engs := x)); (fail_if_success (have q : Svc := x)); (fail_if_success (have q : Trust := x)); (fail_if_success (have q : _ → _ := x)); clear_value x)
    | intro x
    | lift_lets -underBinder
    | (simp only [↓Dev.sound_mk]; with_reducible apply Dev.Sound.parts)
    | with_reducible apply ite_sound
    | dsimp -zeta only
    | split
    | dsimp -zeta +zetaDelta only

theorem loadDataWrite_sound {h : ReqHdr} {idx : Nat} {data : List Byte} {s : Dev} (h0 : s.Sound) : (loadDataWrite h idx data s).Sound := by
  unfold loadDataWrite
  repeat' first
    | with_reducible assumption
    | with_reducible apply writeBytes_sound
    | intro x
    | dsimp -zeta only

theorem loadOffsetWrite_sound {h : ReqHdr} {idx off : Nat} {s : Dev} (h0 : s.Sound) : (loadOffsetWrite h idx off s).Sound := by
  unfold loadOffsetWrite
  repeat' first
    | with_reducible assumption
    | with_reducible apply writeNum_sound
    | intro x
    | dsimp -zeta only

theorem eqOpen_sound {h : ReqHdr} {s : Dev} (h0 : s.Sound) : (eqOpen h s).Sound := by
  unfold eqOpen
  repeat' first
    | with_reducible assumption
    | with_reducible apply writeNum_sound
    | intro x
    | dsimp -zeta only

theorem eqCommit_sound {h : ReqHdr} {s : Dev} (h0 : s.Sound) : (eqCommit h s).Sound := by
  unfold eqCommit
  repeat' first
    | with_reducible assumption
    | with_reducible apply writeNum_sound
    | intro x
    | dsimp -zeta only

theorem marginCmd_sound {h : ReqHdr} {port v : Nat} {s : Dev} (h0 : s.Sound) : (marginCmd h port v s).Sound := by
  unfold marginCmd
  repeat' first
    | with_reducible assumption
    | with_reducible apply writeNum_sound
    | intro x
    | dsimp -zeta only

theorem marginDone_sound {port bits errs : Nat} {s : Dev} (h0 : s.Sound) : (marginDone port bits errs s).Sound := by
  unfold marginDone
  repeat' first
    | with_reducible assumption
    | with_reducible apply Dev.cmdDone_sound
    | (intro x; have hx : Dev.Sound x; (on_goal 2 => clear_value x); (on_goal 1 => unfold x))
    | (intro x; (fail_if_success (have q : Engs := x)); (fail_if_success (have q : Svc := x)); (fail_if_success (have q : Trust := x)); (fail_if_success (have q : _ → _ := x)); clear_value x)
    | intro x
    | lift_lets -underBinder
    | (simp only [↓Dev.sound_mk]; with_reducible apply Dev.Sound.parts)
    | with_reducible apply ite_sound
    | dsimp -zeta only
    | split
    | dsimp -zeta +zetaDelta only

theorem dpcCmd_sound {h : ReqHdr} {port : Nat} {s : Dev} (h0 : s.Sound) : (dpcCmd h port s).Sound := by
  unfold dpcCmd
  repeat' first
    | with_reducible assumption
    | with_reducible apply writeNum_sound
    | intro x
    | dsimp -zeta only

theorem atnCmd_sound {h : ReqHdr} {port : Nat} {s : Dev} (h0 : s.Sound) : (atnCmd h port s).Sound := by
  unfold atnCmd
  repeat' first
    | with_reducible assumption
    | with_reducible apply writeNum_sound
    | intro x
    | dsimp -zeta only

theorem resAddQueues_sound {h : ReqHdr} {vs fn v : Nat} {s : Dev} (h0 : s.Sound) : (resAddQueues h vs fn v s).Sound := by
  unfold resAddQueues
  repeat' first
    | with_reducible assumption
    | with_reducible apply writeNum_sound
    | intro x
    | dsimp -zeta only

theorem resRevokeQueues_sound {h : ReqHdr} {vs fn v : Nat} {s : Dev} (h0 : s.Sound) : (resRevokeQueues h vs fn v s).Sound := by
  unfold resRevokeQueues
  repeat' first
    | with_reducible assumption
    | with_reducible apply writeNum_sound
    | intro x
    | dsimp -zeta only

theorem resSetVectors_sound {h : ReqHdr} {vs fn v : Nat} {s : Dev} (h0 : s.Sound) : (resSetVectors h vs fn v s).Sound := by
  unfold resSetVectors
  repeat' first
    | with_reducible assumption
    | with_reducible apply writeNum_sound
    | intro x
    | dsimp -zeta only

theorem resSetEngineWeight_sound {h : ReqHdr} {vs fn v : Nat} {s : Dev} (h0 : s.Sound) : (resSetEngineWeight h vs fn v s).Sound := by
  unfold resSetEngineWeight
  repeat' first
    | with_reducible assumption
    | with_reducible apply writeNum_sound
    | intro x
    | dsimp -zeta only

theorem resSetFlow_sound {h : ReqHdr} {vs fn v : Nat} {s : Dev} (h0 : s.Sound) : (resSetFlow h vs fn v s).Sound := by
  unfold resSetFlow
  repeat' first
    | with_reducible assumption
    | with_reducible apply writeNum_sound
    | intro x
    | dsimp -zeta only

theorem schedCommit_sound {h : ReqHdr} {s : Dev} (h0 : s.Sound) : (schedCommit h s).Sound := by
  unfold schedCommit
  repeat' first
    | with_reducible assumption
    | with_reducible apply writeNum_sound
    | intro x
    | dsimp -zeta only

theorem regValWrite_sound {h : ReqHdr} {v : Nat} {s : Dev} (h0 : s.Sound) : (regValWrite h v s).Sound := by
  unfold regValWrite
  repeat' first
    | with_reducible assumption
    | with_reducible apply writeNum_sound
    | intro x
    | dsimp -zeta only

theorem cutCmd_sound {h : ReqHdr} {id : Nat} {s : Dev} (h0 : s.Sound) : (cutCmd h id s).Sound := by
  unfold cutCmd
  repeat' first
    | with_reducible assumption
    | with_reducible apply writeNum_sound
    | intro x
    | dsimp -zeta only

theorem directedSend_sound {h : ReqHdr} {b : List Byte} {s : Dev} (h0 : s.Sound) : (directedSend h b s).Sound := by
  unfold directedSend
  repeat' first
    | with_reducible assumption
    | with_reducible apply b_sound
    | with_reducible apply writeBytes_sound
    | intro x
    | dsimp -zeta only

theorem keyOpen_sound {h : ReqHdr} {slot : Nat} {s : Dev} (h0 : s.Sound) : (keyOpen h slot s).Sound := by
  unfold keyOpen
  repeat' first
    | with_reducible assumption
    | with_reducible apply writeNum_sound
    | intro x
    | dsimp -zeta only

theorem keyCommit_sound {h : ReqHdr} {slot role : Nat} {s : Dev} (h0 : s.Sound) : (keyCommit h slot role s).Sound := by
  unfold keyCommit
  repeat' first
    | with_reducible assumption
    | with_reducible apply writeNum_sound
    | intro x
    | dsimp -zeta only

theorem keyErase_sound {h : ReqHdr} {slot : Nat} {s : Dev} (h0 : s.Sound) : (keyErase h slot s).Sound := by
  unfold keyErase
  repeat' first
    | with_reducible assumption
    | with_reducible apply writeNum_sound
    | intro x
    | dsimp -zeta only

theorem reportCmd_sound {h : ReqHdr} {nonce : List Byte} {s : Dev} (h0 : s.Sound) : (reportCmd h nonce s).Sound := by
  unfold reportCmd
  repeat' first
    | with_reducible assumption
    | with_reducible apply writeBytes_sound
    | intro x
    | dsimp -zeta only

theorem progOpen_sound {h : ReqHdr} {slot vs : Nat} {s : Dev} (h0 : s.Sound) : (progOpen h slot vs s).Sound := by
  unfold progOpen
  repeat' first
    | with_reducible assumption
    | with_reducible apply writeNum_sound
    | intro x
    | dsimp -zeta only

theorem progCommit_sound {h : ReqHdr} {slot : Nat} {s : Dev} (h0 : s.Sound) : (progCommit h slot s).Sound := by
  unfold progCommit
  repeat' first
    | with_reducible assumption
    | with_reducible apply writeNum_sound
    | intro x
    | dsimp -zeta only

theorem progRetire_sound {h : ReqHdr} {slot : Nat} {s : Dev} (h0 : s.Sound) : (progRetire h slot s).Sound := by
  unfold progRetire
  repeat' first
    | with_reducible assumption
    | with_reducible apply writeNum_sound
    | intro x
    | dsimp -zeta only

theorem fwOpen_sound {h : ReqHdr} {kind : Nat} {s : Dev} (h0 : s.Sound) : (fwOpen h kind s).Sound := by
  unfold fwOpen
  repeat' first
    | with_reducible assumption
    | with_reducible apply writeNum_sound
    | intro x
    | dsimp -zeta only

theorem fwCommit_sound {h : ReqHdr} {kind : Nat} {s : Dev} (h0 : s.Sound) : (fwCommit h kind s).Sound := by
  unfold fwCommit
  repeat' first
    | with_reducible assumption
    | with_reducible apply writeNum_sound
    | intro x
    | dsimp -zeta only

theorem raiseSvn_sound {h : ReqHdr} {kind : Nat} {s : Dev} (h0 : s.Sound) : (raiseSvn h kind s).Sound := by
  unfold raiseSvn
  repeat' first
    | with_reducible assumption
    | with_reducible apply writeNum_sound
    | intro x
    | dsimp -zeta only

theorem peClear_sound {h : ReqHdr} {s : Dev} (h0 : s.Sound) : (peClear h s).Sound := by
  unfold peClear
  repeat' first
    | with_reducible assumption
    | with_reducible apply writeNum_sound
    | intro x
    | dsimp -zeta only

theorem clusterReset_sound {h : ReqHdr} {c : Nat} {s : Dev} (h0 : s.Sound) : (clusterReset h c s).Sound := by
  unfold clusterReset
  repeat' first
    | with_reducible assumption
    | with_reducible apply writeNum_sound
    | intro x
    | dsimp -zeta only

end Sys2Proof.Machine
end

