-- ==== Sys2Proof/Laws/SoundAccess.lean ====
section
/-! SUPPORT. Every operation of Machine/Access.lean keeps the switch sound. -/
set_option linter.unusedTactic false
set_option linter.unusedSimpArgs false
set_option linter.unreachableTactic false
namespace Sys2Proof.Machine

theorem Dev.planeWrite_sound {s : Dev} {p : Plane} {a : RegAddr} {part : RegPart} {v : Nat} (h0 : s.Sound) : (Dev.planeWrite s p a part v).Sound := by
  unfold Dev.planeWrite
  repeat' first
    | with_reducible assumption
    | with_reducible apply b_sound
    | with_reducible apply Dev.barWrite_sound
    | with_reducible apply Dev.blkWrite_sound
    | with_reducible apply Dev.blkWriteWhole_sound
    | with_reducible apply Dev.sfPut_sound
    | intro x
    | with_reducible apply ite_sound
    | dsimp -zeta only
    | split

theorem Dev.planeRead_sound {s : Dev} {p : Plane} {a : RegAddr} (h0 : s.Sound) : (Dev.planeRead s p a).2.Sound := by
  unfold Dev.planeRead
  repeat' first
    | with_reducible assumption
    | with_reducible apply b_sound
    | with_reducible apply Dev.barRead_sound
    | with_reducible refine Dev.barRead_pair (by with_reducible assumption) ?_
    | with_reducible apply Dev.blkReadWhole_sound
    | with_reducible refine Dev.blkReadWhole_pair (by with_reducible assumption) ?_
    | with_reducible apply Dev.regAfterRead_sound
    | intro x
    | with_reducible apply ite_sound
    | dsimp -zeta only
    | split
theorem Dev.planeRead_pair {s : Dev} {p : Plane} {a : RegAddr} {x_ t_} (e_ : Dev.planeRead s p a = (x_, t_)) (h0 : s.Sound) : t_.Sound := by
  have q := Dev.planeRead_sound (s := s) (p := p) (a := a) h0; rw [e_] at q; exact q

theorem Dev.doCoreRead_sound {s : Dev} {p : Plane} {a : RegAddr} (h0 : s.Sound) : (Dev.doCoreRead s p a).Sound := by
  unfold Dev.doCoreRead
  repeat' first
    | with_reducible assumption
    | with_reducible apply Dev.emit_sound
    | with_reducible apply Dev.planeRead_sound
    | with_reducible refine Dev.planeRead_pair (by with_reducible assumption) ?_
    | (intro x; have hx : Dev.Sound x; (on_goal 2 => clear_value x); (on_goal 1 => unfold x))
    | (intro x; (fail_if_success (have q : Engs := x)); (fail_if_success (have q : Svc := x)); (fail_if_success (have q : Trust := x)); (fail_if_success (have q : _ → _ := x)); clear_value x)
    | intro x
    | lift_lets -underBinder
    | dsimp -zeta only
    | split
    | dsimp -zeta +zetaDelta only

theorem Dev.park_sound {s : Dev} {x : BusAcc} (h0 : s.Sound) : (Dev.park s x).Sound := by
  unfold Dev.park
  repeat' first
    | with_reducible assumption
    | (intro x; have hx : Dev.Sound x; (on_goal 2 => clear_value x); (on_goal 1 => unfold x))
    | (intro x; (fail_if_success (have q : Engs := x)); (fail_if_success (have q : Svc := x)); (fail_if_success (have q : Trust := x)); (fail_if_success (have q : _ → _ := x)); clear_value x)
    | intro x
    | lift_lets -underBinder
    | (simp only [↓Dev.sound_mk]; with_reducible apply Dev.Sound.parts)
    | dsimp -zeta only
    | dsimp -zeta +zetaDelta only

theorem registerWrite_sound {p : Plane} {a : RegAddr} {part : RegPart} {v : Nat} {s : Dev} (h0 : s.Sound) : (registerWrite p a part v s).Sound := by
  unfold registerWrite
  repeat' first
    | with_reducible assumption
    | with_reducible apply Dev.park_sound
    | with_reducible apply Dev.planeWrite_sound
    | intro x
    | with_reducible apply ite_sound
    | dsimp -zeta only
    | split

theorem rcRead_sound {p : Plane} {a : RegAddr} {s : Dev} (h0 : s.Sound) : (rcRead p a s).Sound := by
  unfold rcRead
  repeat' first
    | with_reducible assumption
    | with_reducible apply Dev.doCoreRead_sound
    | with_reducible apply Dev.park_sound
    | intro x
    | with_reducible apply ite_sound
    | dsimp -zeta only
    | split

theorem firstEventRecordClear_sound {r : Reg} {inst : Nat} {ev : Option (Nat × Nat)} {s : Dev} (h0 : s.Sound) : (firstEventRecordClear r inst ev s).Sound := by
  unfold firstEventRecordClear
  repeat' first
    | with_reducible assumption
    | with_reducible apply b_sound
    | with_reducible apply Dev.clearRecord_sound
    | with_reducible apply Dev.rset_sound
    | with_reducible apply foldl_sound
    | (intro x; have hx : Dev.Sound x; (on_goal 2 => clear_value x); (on_goal 1 => unfold x))
    | (intro x; (fail_if_success (have q : Engs := x)); (fail_if_success (have q : Svc := x)); (fail_if_success (have q : Trust := x)); (fail_if_success (have q : _ → _ := x)); clear_value x)
    | intro x
    | lift_lets -underBinder
    | with_reducible apply ite_sound
    | dsimp -zeta only
    | split
    | dsimp -zeta +zetaDelta only

theorem lpddr4xAccess_sound {p : Plane} {write : Bool} {addr len : Nat} {data : List Byte} {s : Dev} (h0 : s.Sound) : (lpddr4xAccess p write addr len data s).Sound := by
  unfold lpddr4xAccess
  repeat' first
    | with_reducible assumption
    | with_reducible apply Dev.emit_sound
    | with_reducible apply Dev.memViolation_sound
    | with_reducible apply Dev.memWrite_sound
    | with_reducible apply write_sound
    | (intro x; have hx : Dev.Sound x; (on_goal 2 => clear_value x); (on_goal 1 => unfold x))
    | (intro x; (fail_if_success (have q : Engs := x)); (fail_if_success (have q : Svc := x)); (fail_if_success (have q : Trust := x)); (fail_if_success (have q : _ → _ := x)); clear_value x)
    | intro x
    | lift_lets -underBinder
    | with_reducible apply ite_sound
    | dsimp -zeta only
    | split
    | dsimp -zeta +zetaDelta only

theorem Dev.mwRespond_sound {s : Dev} {src id status data : Nat} (h0 : s.Sound) : (Dev.mwRespond s src id status data).Sound := by
  unfold Dev.mwRespond
  repeat' first
    | with_reducible assumption
    | with_reducible apply Dev.ctlPacket_sound
    | intro x
    | dsimp -zeta only

theorem Dev.mwStore_sound {s : Dev} {src code off data : Nat} (h0 : s.Sound) : (Dev.mwStore s src code off data).2.Sound := by
  unfold Dev.mwStore
  repeat' first
    | with_reducible assumption
    | with_reducible apply Dev.blkWrite_sound
    | with_reducible apply e2eAckReceive_sound
    | with_reducible apply fenceWrite_sound
    | with_reducible apply skipWrite_sound
    | (intro x; have hx : Dev.Sound x; (on_goal 2 => clear_value x); (on_goal 1 => unfold x))
    | (intro x; (fail_if_success (have q : Engs := x)); (fail_if_success (have q : Svc := x)); (fail_if_success (have q : Trust := x)); (fail_if_success (have q : _ → _ := x)); clear_value x)
    | intro x
    | lift_lets -underBinder
    | with_reducible apply ite_sound
    | dsimp -zeta only
    | split
    | dsimp -zeta +zetaDelta only
theorem Dev.mwStore_pair {s : Dev} {src code off data : Nat} {x_ t_} (e_ : Dev.mwStore s src code off data = (x_, t_)) (h0 : s.Sound) : t_.Sound := by
  have q := Dev.mwStore_sound (s := s) (src := src) (code := code) (off := off) (data := data) h0; rw [e_] at q; exact q

theorem Dev.mwAccess_sound {s : Dev} {src op addr data : Nat} (h0 : s.Sound) : (Dev.mwAccess s src op addr data).2.2.Sound := by
  unfold Dev.mwAccess
  repeat' first
    | with_reducible assumption
    | with_reducible apply Dev.blkRead_sound
    | with_reducible refine Dev.blkRead_pair (by with_reducible assumption) ?_
    | with_reducible apply Dev.mwStore_sound
    | with_reducible refine Dev.mwStore_pair (by with_reducible assumption) ?_
    | with_reducible apply st_sound
    | (intro x; have hx : Dev.Sound x; (on_goal 2 => clear_value x); (on_goal 1 => unfold x))
    | (intro x; (fail_if_success (have q : Engs := x)); (fail_if_success (have q : Svc := x)); (fail_if_success (have q : Trust := x)); (fail_if_success (have q : _ → _ := x)); clear_value x)
    | intro x
    | lift_lets -underBinder
    | with_reducible apply ite_sound
    | dsimp -zeta only
    | split
    | dsimp -zeta +zetaDelta only
theorem Dev.mwAccess_pair {s : Dev} {src op addr data : Nat} {x_ y_ t_} (e_ : Dev.mwAccess s src op addr data = (x_, y_, t_)) (h0 : s.Sound) : t_.Sound := by
  have q := Dev.mwAccess_sound (s := s) (src := src) (op := op) (addr := addr) (data := data) h0; rw [e_] at q; exact q

theorem Dev.mwServe_sound {s : Dev} {src op addr data : Nat} (h0 : s.Sound) : (Dev.mwServe s src op addr data).2.2.Sound := by
  unfold Dev.mwServe
  repeat' first
    | with_reducible assumption
    | with_reducible apply Dev.mwAccess_sound
    | with_reducible refine Dev.mwAccess_pair (by with_reducible assumption) ?_
    | with_reducible apply st_sound
    | (intro x; have hx : Dev.Sound x; (on_goal 2 => clear_value x); (on_goal 1 => unfold x))
    | (intro x; (fail_if_success (have q : Engs := x)); (fail_if_success (have q : Svc := x)); (fail_if_success (have q : Trust := x)); (fail_if_success (have q : _ → _ := x)); clear_value x)
    | intro x
    | lift_lets -underBinder
    | (simp only [↓Dev.sound_mk]; with_reducible apply Dev.Sound.parts)
    | with_reducible apply ite_sound
    | dsimp -zeta only
    | split
    | dsimp -zeta +zetaDelta only
theorem Dev.mwServe_pair {s : Dev} {src op addr data : Nat} {x_ y_ t_} (e_ : Dev.mwServe s src op addr data = (x_, y_, t_)) (h0 : s.Sound) : t_.Sound := by
  have q := Dev.mwServe_sound (s := s) (src := src) (op := op) (addr := addr) (data := data) h0; rw [e_] at q; exact q

theorem Dev.mwDo_sound {s : Dev} {src id op addr data : Nat} (h0 : s.Sound) : (Dev.mwDo s src id op addr data).Sound := by
  unfold Dev.mwDo
  repeat' first
    | with_reducible assumption
    | with_reducible apply Dev.mwRespond_sound
    | with_reducible apply Dev.mwServe_sound
    | with_reducible refine Dev.mwServe_pair (by with_reducible assumption) ?_
    | with_reducible apply st_sound
    | (intro x; have hx : Dev.Sound x; (on_goal 2 => clear_value x); (on_goal 1 => unfold x))
    | (intro x; (fail_if_success (have q : Engs := x)); (fail_if_success (have q : Svc := x)); (fail_if_success (have q : Trust := x)); (fail_if_success (have q : _ → _ := x)); clear_value x)
    | intro x
    | lift_lets -underBinder
    | dsimp -zeta only
    | split
    | dsimp -zeta +zetaDelta only

theorem Dev.directedDo_sound {s : Dev} {c : List Byte} (h0 : s.Sound) : (Dev.directedDo s c).Sound := by
  unfold Dev.directedDo
  repeat' first
    | with_reducible assumption
    | with_reducible apply Dev.drop_sound
    | with_reducible apply Dev.mwServe_sound
    | with_reducible refine Dev.mwServe_pair (by with_reducible assumption) ?_
    | with_reducible apply Dev.sendReply_sound
    | with_reducible apply st_sound
    | (intro x; have hx : Dev.Sound x; (on_goal 2 => clear_value x); (on_goal 1 => unfold x))
    | (intro x; (fail_if_success (have q : Engs := x)); (fail_if_success (have q : Svc := x)); (fail_if_success (have q : Trust := x)); (fail_if_success (have q : _ → _ := x)); clear_value x)
    | intro x
    | lift_lets -underBinder
    | dsimp -zeta only
    | split
    | dsimp -zeta +zetaDelta only

theorem Dev.busServe_sound {s : Dev} {x : BusAcc} (h0 : s.Sound) : (Dev.busServe s x).Sound := by
  unfold Dev.busServe
  repeat' first
    | with_reducible assumption
    | with_reducible apply Dev.directedDo_sound
    | with_reducible apply Dev.doCoreRead_sound
    | with_reducible apply Dev.doRead_sound
    | with_reducible apply Dev.doWrite_sound
    | with_reducible apply Dev.mwDo_sound
    | with_reducible apply Dev.planeWrite_sound
    | with_reducible apply read_sound
    | with_reducible apply write_sound
    | intro x
    | dsimp -zeta only
    | split

theorem Dev.busDrain_sound {s : Dev} {n_ : Nat} (h0 : s.Sound) : (Dev.busDrain s n_).Sound := by
  induction n_ generalizing s with
  | zero => exact h0
  | succ n_ ih =>
    unfold Dev.busDrain
    repeat' first
      | with_reducible assumption
      | with_reducible apply ih
      | with_reducible apply Dev.busServe_sound
      | (intro x; have hx : Dev.Sound x; (on_goal 2 => clear_value x); (on_goal 1 => unfold x))
      | (intro x; (fail_if_success (have q : Engs := x)); (fail_if_success (have q : Svc := x)); (fail_if_success (have q : Trust := x)); (fail_if_success (have q : _ → _ := x)); clear_value x)
      | intro x
      | lift_lets -underBinder
      | (simp only [↓Dev.sound_mk]; with_reducible apply Dev.Sound.parts)
      | with_reducible apply ite_sound
      | dsimp -zeta only
      | split
      | dsimp -zeta +zetaDelta only

theorem Dev.busFree_sound {s : Dev} (h0 : s.Sound) : (Dev.busFree s).Sound := by
  unfold Dev.busFree
  repeat' first
    | with_reducible assumption
    | with_reducible apply Dev.busDrain_sound
    | intro x
    | dsimp -zeta only

theorem Dev.mwRequest_sound {s : Dev} {src id op addr data : Nat} (h0 : s.Sound) : (Dev.mwRequest s src id op addr data).Sound := by
  unfold Dev.mwRequest
  repeat' first
    | with_reducible assumption
    | with_reducible apply Dev.busFree_sound
    | with_reducible apply Dev.mwDo_sound
    | with_reducible apply Dev.park_sound
    | intro x
    | with_reducible apply ite_sound
    | dsimp -zeta only
    | split

theorem mwRead_sound {src id addr : Nat} {s : Dev} (h0 : s.Sound) : (mwRead src id addr s).Sound := by
  unfold mwRead
  repeat' first
    | with_reducible assumption
    | with_reducible apply Dev.mwRequest_sound
    | intro x
    | dsimp -zeta only

theorem mwWrite_sound {src id addr data : Nat} {s : Dev} (h0 : s.Sound) : (mwWrite src id addr data s).Sound := by
  unfold mwWrite
  repeat' first
    | with_reducible assumption
    | with_reducible apply Dev.mwRequest_sound
    | intro x
    | dsimp -zeta only

theorem Dev.yieldTo_sound {s : Dev} {f : Nat} (h0 : s.Sound) : (Dev.yieldTo s f).Sound := by
  unfold Dev.yieldTo
  repeat' first
    | with_reducible assumption
    | with_reducible apply Dev.count_sound
    | with_reducible apply Dev.emit_sound
    | with_reducible apply each_sound
    | (intro x; have hx : Dev.Sound x; (on_goal 2 => clear_value x); (on_goal 1 => unfold x))
    | (intro x; (fail_if_success (have q : Engs := x)); (fail_if_success (have q : Svc := x)); (fail_if_success (have q : Trust := x)); (fail_if_success (have q : _ → _ := x)); clear_value x)
    | intro x
    | lift_lets -underBinder
    | (simp only [↓Dev.sound_mk]; with_reducible apply Dev.Sound.parts)
    | with_reducible apply ite_sound
    | dsimp -zeta only
    | split
    | dsimp -zeta +zetaDelta only

theorem mwLockRead_sound {src id addr : Nat} {s : Dev} (h0 : s.Sound) : (mwLockRead src id addr s).Sound := by
  unfold mwLockRead
  repeat' first
    | with_reducible assumption
    | with_reducible apply Dev.mwRequest_sound
    | with_reducible apply Dev.mwRespond_sound
    | with_reducible apply Dev.yieldTo_sound
    | intro x
    | with_reducible apply ite_sound
    | dsimp -zeta only
    | split

theorem mwUnlockWrite_sound {src id addr data : Nat} {s : Dev} (h0 : s.Sound) : (mwUnlockWrite src id addr data s).Sound := by
  unfold mwUnlockWrite
  repeat' first
    | with_reducible assumption
    | with_reducible apply Dev.mwRequest_sound
    | intro x
    | dsimp -zeta only

theorem mwLockTimeout_sound {s : Dev} (h0 : s.Sound) : (mwLockTimeout s).Sound := by
  unfold mwLockTimeout
  repeat' first
    | with_reducible assumption
    | with_reducible apply Dev.busFree_sound
    | with_reducible apply Dev.count_sound
    | (intro x; have hx : Dev.Sound x; (on_goal 2 => clear_value x); (on_goal 1 => unfold x))
    | (intro x; (fail_if_success (have q : Engs := x)); (fail_if_success (have q : Svc := x)); (fail_if_success (have q : Trust := x)); (fail_if_success (have q : _ → _ := x)); clear_value x)
    | intro x
    | lift_lets -underBinder
    | (simp only [↓Dev.sound_mk]; with_reducible apply Dev.Sound.parts)
    | with_reducible apply ite_sound
    | dsimp -zeta only
    | split
    | dsimp -zeta +zetaDelta only

theorem directedMwRequest_sound {port : Nat} {b : List Byte} {s : Dev} (h0 : s.Sound) : (directedMwRequest port b s).Sound := by
  unfold directedMwRequest
  repeat' first
    | with_reducible assumption
    | with_reducible apply b_sound
    | with_reducible apply Dev.busFree_sound
    | with_reducible apply Dev.directedDo_sound
    | with_reducible apply Dev.directedEnd_sound
    | with_reducible apply Dev.park_sound
    | intro x
    | with_reducible apply ite_sound
    | dsimp -zeta only
    | split

end Sys2Proof.Machine
end

