-- ==== Sys2Proof/Laws/SoundCfg.lean ====
section
/-! SUPPORT. Every operation of Machine/Cfg.lean keeps the switch sound. -/
set_option linter.unusedTactic false
set_option linter.unusedSimpArgs false
set_option linter.unreachableTactic false
namespace Sys2Proof.Machine

theorem Dev.windowsPut_sound {s : Dev} {vs n reqId tag : Nat} {g : PortFn → PortFn} (h0 : s.Sound) : (Dev.windowsPut s vs n reqId tag g).Sound := by
  unfold Dev.windowsPut
  repeat' first
    | with_reducible assumption
    | with_reducible apply Dev.modPfn_sound
    | with_reducible apply Dev.notice_sound
    | with_reducible apply Dev.sendWindowNotice_sound
    | (intro x; have hx : Dev.Sound x; (on_goal 2 => clear_value x); (on_goal 1 => unfold x))
    | (intro x; (fail_if_success (have q : Engs := x)); (fail_if_success (have q : Svc := x)); (fail_if_success (have q : Trust := x)); (fail_if_success (have q : _ → _ := x)); clear_value x)
    | intro x
    | lift_lets -underBinder
    | (simp only [↓Dev.sound_mk]; with_reducible apply Dev.Sound.parts)
    | dsimp -zeta only
    | dsimp -zeta +zetaDelta only

theorem Dev.uspBusReset_sound {s : Dev} {vs : Nat} {set : Bool} (h0 : s.Sound) : (Dev.uspBusReset s vs set).Sound := by
  unfold Dev.uspBusReset
  repeat' first
    | with_reducible assumption
    | with_reducible apply secondaryBusReset_sound
    | with_reducible apply Dev.sendWindowNotice_sound
    | with_reducible apply Dev.syncBusMap_sound
    | with_reducible apply Dev.vdspReset_sound
    | with_reducible apply each_sound
    | (intro x; have hx : Dev.Sound x; (on_goal 2 => clear_value x); (on_goal 1 => unfold x))
    | (intro x; (fail_if_success (have q : Engs := x)); (fail_if_success (have q : Svc := x)); (fail_if_success (have q : Trust := x)); (fail_if_success (have q : _ → _ := x)); clear_value x)
    | intro x
    | lift_lets -underBinder
    | with_reducible apply ite_sound
    | dsimp -zeta only
    | split
    | dsimp -zeta +zetaDelta only

theorem Dev.bridgePut_sound {s : Dev} {vs n new : Nat} (h0 : s.Sound) : (Dev.bridgePut s vs n new).Sound := by
  unfold Dev.bridgePut
  repeat' first
    | with_reducible assumption
    | with_reducible apply Dev.modPfn_sound
    | with_reducible apply secondaryBusReset_sound
    | with_reducible apply Dev.uspBusReset_sound
    | (intro x; have hx : Dev.Sound x; (on_goal 2 => clear_value x); (on_goal 1 => unfold x))
    | (intro x; (fail_if_success (have q : Engs := x)); (fail_if_success (have q : Svc := x)); (fail_if_success (have q : Trust := x)); (fail_if_success (have q : _ → _ := x)); clear_value x)
    | intro x
    | lift_lets -underBinder
    | (simp only [↓Dev.sound_mk]; with_reducible apply Dev.Sound.parts)
    | with_reducible apply ite_sound
    | dsimp -zeta only
    | split
    | dsimp -zeta +zetaDelta only

theorem Dev.linkCtlPut_sound {s : Dev} {vs n : Nat} {x : CfgWr} (h0 : s.Sound) : (Dev.linkCtlPut s vs n x).Sound := by
  unfold Dev.linkCtlPut
  repeat' first
    | with_reducible assumption
    | with_reducible apply Dev.modPfn_sound
    | with_reducible apply vdspAspmControl_sound
    | with_reducible apply vdspLinkDisable_sound
    | with_reducible apply vdspRetrainLink_sound
    | (intro x; have hx : Dev.Sound x; (on_goal 2 => clear_value x); (on_goal 1 => unfold x))
    | (intro x; (fail_if_success (have q : Engs := x)); (fail_if_success (have q : Svc := x)); (fail_if_success (have q : Trust := x)); (fail_if_success (have q : _ → _ := x)); clear_value x)
    | intro x
    | lift_lets -underBinder
    | (simp only [↓Dev.sound_mk]; with_reducible apply Dev.Sound.parts)
    | with_reducible apply ite_sound
    | dsimp -zeta only
    | split
    | dsimp -zeta +zetaDelta only

theorem Dev.slotPut_sound {s : Dev} {vs n : Nat} {x : CfgWr} (h0 : s.Sound) : (Dev.slotPut s vs n x).Sound := by
  unfold Dev.slotPut
  repeat' first
    | with_reducible assumption
    | with_reducible apply Dev.modPfn_sound
    | with_reducible apply Dev.modVd_sound
    | with_reducible apply slotIndicatorWrite_sound
    | with_reducible apply slotPowerOff_sound
    | with_reducible apply slotPowerOn_sound
    | with_reducible apply Dev.syncPresence_sound
    | (intro x; have hx : Dev.Sound x; (on_goal 2 => clear_value x); (on_goal 1 => unfold x))
    | (intro x; (fail_if_success (have q : Engs := x)); (fail_if_success (have q : Svc := x)); (fail_if_success (have q : Trust := x)); (fail_if_success (have q : _ → _ := x)); clear_value x)
    | intro x
    | lift_lets -underBinder
    | (simp only [↓Dev.sound_mk]; with_reducible apply Dev.Sound.parts)
    | with_reducible apply ite_sound
    | dsimp -zeta only
    | split
    | dsimp -zeta +zetaDelta only

theorem Dev.vdspHighPut_sound {s : Dev} {vs n off : Nat} {x : CfgWr} (h0 : s.Sound) : (Dev.vdspHighPut s vs n off x).Sound := by
  unfold Dev.vdspHighPut
  repeat' first
    | with_reducible assumption
    | with_reducible apply dpcSoftwareTrigger_sound
    | with_reducible apply dpcTriggerStatusWrite_sound
    | with_reducible apply Dev.modPfn_sound
    | with_reducible apply Dev.tellControl_sound
    | (intro x; have hx : Dev.Sound x; (on_goal 2 => clear_value x); (on_goal 1 => unfold x))
    | (intro x; (fail_if_success (have q : Engs := x)); (fail_if_success (have q : Svc := x)); (fail_if_success (have q : Trust := x)); (fail_if_success (have q : _ → _ := x)); clear_value x)
    | intro x
    | lift_lets -underBinder
    | (simp only [↓Dev.sound_mk]; with_reducible apply Dev.Sound.parts)
    | with_reducible apply ite_sound
    | dsimp -zeta only
    | split
    | dsimp -zeta +zetaDelta only

theorem Dev.portWrite_sound {s : Dev} {vs n off : Nat} {x : CfgWr} (h0 : s.Sound) : (Dev.portWrite s vs n off x).Sound := by
  unfold Dev.portWrite
  repeat' first
    | with_reducible assumption
    | with_reducible apply Dev.bridgePut_sound
    | with_reducible apply Dev.linkCtlPut_sound
    | with_reducible apply Dev.setPfn_sound
    | with_reducible apply Dev.slotPut_sound
    | with_reducible apply sub_sound
    | with_reducible apply Dev.syncBusMap_sound
    | with_reducible apply Dev.tellControl_sound
    | with_reducible apply Dev.tellPtm_sound
    | with_reducible apply Dev.vdspHighPut_sound
    | with_reducible apply Dev.vdspInt_sound
    | with_reducible apply vdspTargetLinkSpeed_sound
    | (intro x; have hx : Dev.Sound x; (on_goal 2 => clear_value x); (on_goal 1 => unfold x))
    | (intro x; (fail_if_success (have q : Engs := x)); (fail_if_success (have q : Svc := x)); (fail_if_success (have q : Trust := x)); (fail_if_success (have q : _ → _ := x)); clear_value x)
    | intro x
    | lift_lets -underBinder
    | (simp only [↓Dev.sound_mk]; with_reducible apply Dev.Sound.parts)
    | with_reducible apply ite_sound
    | dsimp -zeta only
    | split
    | dsimp -zeta +zetaDelta only

theorem Dev.sfCmdPut_sound {s : Dev} {vs fn : Nat} {x : CfgWr} (h0 : s.Sound) : (Dev.sfCmdPut s vs fn x).Sound := by
  unfold Dev.sfCmdPut
  repeat' first
    | with_reducible assumption
    | with_reducible apply busMasterDisable_sound
    | with_reducible apply busMasterEnable_sound
    | with_reducible apply Dev.intxSync_sound
    | with_reducible apply Dev.modSfn_sound
    | (intro x; have hx : Dev.Sound x; (on_goal 2 => clear_value x); (on_goal 1 => unfold x))
    | (intro x; (fail_if_success (have q : Engs := x)); (fail_if_success (have q : Svc := x)); (fail_if_success (have q : Trust := x)); (fail_if_success (have q : _ → _ := x)); clear_value x)
    | intro x
    | lift_lets -underBinder
    | (simp only [↓Dev.sound_mk]; with_reducible apply Dev.Sound.parts)
    | with_reducible apply ite_sound
    | dsimp -zeta only
    | split
    | dsimp -zeta +zetaDelta only

theorem Dev.flushPending_sound {s : Dev} {vs fn : Nat} (h0 : s.Sound) : (Dev.flushPending s vs fn).Sound := by
  unfold Dev.flushPending
  repeat' first
    | with_reducible assumption
    | with_reducible apply Dev.flushVector_sound
    | with_reducible apply each_sound
    | (intro x; have hx : Dev.Sound x; (on_goal 2 => clear_value x); (on_goal 1 => unfold x))
    | (intro x; (fail_if_success (have q : Engs := x)); (fail_if_success (have q : Svc := x)); (fail_if_success (have q : Trust := x)); (fail_if_success (have q : _ → _ := x)); clear_value x)
    | intro x
    | lift_lets -underBinder
    | dsimp -zeta only
    | dsimp -zeta +zetaDelta only

theorem Dev.intChanged_sound {s : Dev} {vs fn : Nat} (h0 : s.Sound) : (Dev.intChanged s vs fn).Sound := by
  unfold Dev.intChanged
  repeat' first
    | with_reducible assumption
    | with_reducible apply Dev.flushPending_sound
    | with_reducible apply Dev.intxSync_sound
    | (intro x; have hx : Dev.Sound x; (on_goal 2 => clear_value x); (on_goal 1 => unfold x))
    | (intro x; (fail_if_success (have q : Engs := x)); (fail_if_success (have q : Svc := x)); (fail_if_success (have q : Trust := x)); (fail_if_success (have q : _ → _ := x)); clear_value x)
    | intro x
    | lift_lets -underBinder
    | with_reducible apply ite_sound
    | dsimp -zeta only
    | split
    | dsimp -zeta +zetaDelta only

theorem Dev.sriovPut_sound {s : Dev} {vs new : Nat} (h0 : s.Sound) : (Dev.sriovPut s vs new).Sound := by
  unfold Dev.sriovPut
  repeat' first
    | with_reducible assumption
    | with_reducible apply Dev.flrStart_sound
    | with_reducible apply Dev.fnReset_sound
    | with_reducible apply Dev.modSfn_sound
    | with_reducible apply Dev.syncBusMap_sound
    | with_reducible apply each_sound
    | (intro x; have hx : Dev.Sound x; (on_goal 2 => clear_value x); (on_goal 1 => unfold x))
    | (intro x; (fail_if_success (have q : Engs := x)); (fail_if_success (have q : Svc := x)); (fail_if_success (have q : Trust := x)); (fail_if_success (have q : _ → _ := x)); clear_value x)
    | intro x
    | lift_lets -underBinder
    | (simp only [↓Dev.sound_mk]; with_reducible apply Dev.Sound.parts)
    | with_reducible apply ite_sound
    | dsimp -zeta only
    | split
    | dsimp -zeta +zetaDelta only

theorem Dev.pfPut_sound {s : Dev} {vs off : Nat} {x : CfgWr} (h0 : s.Sound) : (Dev.pfPut s vs off x).Sound := by
  unfold Dev.pfPut
  repeat' first
    | with_reducible assumption
    | with_reducible apply Dev.flushPending_sound
    | with_reducible apply Dev.intChanged_sound
    | with_reducible apply Dev.modSfn_sound
    | with_reducible apply Dev.sriovPut_sound
    | (intro x; have hx : Dev.Sound x; (on_goal 2 => clear_value x); (on_goal 1 => unfold x))
    | (intro x; (fail_if_success (have q : Engs := x)); (fail_if_success (have q : Svc := x)); (fail_if_success (have q : Trust := x)); (fail_if_success (have q : _ → _ := x)); clear_value x)
    | intro x
    | lift_lets -underBinder
    | (simp only [↓Dev.sound_mk]; with_reducible apply Dev.Sound.parts)
    | with_reducible apply ite_sound
    | dsimp -zeta only
    | split
    | dsimp -zeta +zetaDelta only

theorem Dev.sfWrite_sound {s : Dev} {vs fn off : Nat} {x : CfgWr} (h0 : s.Sound) : (Dev.sfWrite s vs fn off x).Sound := by
  unfold Dev.sfWrite
  repeat' first
    | with_reducible assumption
    | with_reducible apply functionLevelReset_sound
    | with_reducible apply Dev.intChanged_sound
    | with_reducible apply Dev.modSfn_sound
    | with_reducible apply Dev.pfPut_sound
    | with_reducible apply Dev.sfCmdPut_sound
    | (intro x; have hx : Dev.Sound x; (on_goal 2 => clear_value x); (on_goal 1 => unfold x))
    | (intro x; (fail_if_success (have q : Engs := x)); (fail_if_success (have q : Svc := x)); (fail_if_success (have q : Trust := x)); (fail_if_success (have q : _ → _ := x)); clear_value x)
    | intro x
    | lift_lets -underBinder
    | (simp only [↓Dev.sound_mk]; with_reducible apply Dev.Sound.parts)
    | with_reducible apply ite_sound
    | dsimp -zeta only
    | split
    | dsimp -zeta +zetaDelta only

theorem Dev.cfgCpl_sound {s : Dev} {vs reqId tag status data : Nat} (h0 : s.Sound) : (Dev.cfgCpl s vs reqId tag status data).Sound := by
  unfold Dev.cfgCpl
  repeat' first
    | with_reducible assumption
    | with_reducible apply Dev.emit_sound
    | intro x
    | dsimp -zeta only

theorem Dev.cfgUr_sound {s : Dev} {vs reqId tag : Nat} (h0 : s.Sound) : (Dev.cfgUr s vs reqId tag).Sound := by
  unfold Dev.cfgUr
  repeat' first
    | with_reducible assumption
    | with_reducible apply Dev.aer_sound
    | with_reducible apply Dev.cfgCpl_sound
    | (intro x; have hx : Dev.Sound x; (on_goal 2 => clear_value x); (on_goal 1 => unfold x))
    | (intro x; (fail_if_success (have q : Engs := x)); (fail_if_success (have q : Svc := x)); (fail_if_success (have q : Trust := x)); (fail_if_success (have q : _ → _ := x)); clear_value x)
    | intro x
    | lift_lets -underBinder
    | (simp only [↓Dev.sound_mk]; with_reducible apply Dev.Sound.parts)
    | dsimp -zeta only
    | dsimp -zeta +zetaDelta only

theorem Dev.cfgPort_sound {s : Dev} {vs n off : Nat} {write : Option (Nat × Nat)} {reqId tag : Nat} (h0 : s.Sound) : (Dev.cfgPort s vs n off write reqId tag).Sound := by
  unfold Dev.cfgPort
  repeat' first
    | with_reducible assumption
    | with_reducible apply Dev.cfgCpl_sound
    | with_reducible apply Dev.cfgDone_sound
    | with_reducible apply Dev.portWrite_sound
    | with_reducible apply Dev.windowsPut_sound
    | with_reducible apply write_sound
    | (intro x; have hx : Dev.Sound x; (on_goal 2 => clear_value x); (on_goal 1 => unfold x))
    | (intro x; (fail_if_success (have q : Engs := x)); (fail_if_success (have q : Svc := x)); (fail_if_success (have q : Trust := x)); (fail_if_success (have q : _ → _ := x)); clear_value x)
    | intro x
    | lift_lets -underBinder
    | with_reducible apply ite_sound
    | dsimp -zeta only
    | split
    | dsimp -zeta +zetaDelta only

theorem Dev.cfgSf_sound {s : Dev} {vs fn off : Nat} {write : Option (Nat × Nat)} {reqId tag : Nat} (h0 : s.Sound) : (Dev.cfgSf s vs fn off write reqId tag).Sound := by
  unfold Dev.cfgSf
  repeat' first
    | with_reducible assumption
    | with_reducible apply Dev.cfgCpl_sound
    | with_reducible apply Dev.cfgDone_sound
    | with_reducible apply Dev.cfgUr_sound
    | with_reducible apply Dev.sfWrite_sound
    | with_reducible apply write_sound
    | (intro x; have hx : Dev.Sound x; (on_goal 2 => clear_value x); (on_goal 1 => unfold x))
    | (intro x; (fail_if_success (have q : Engs := x)); (fail_if_success (have q : Svc := x)); (fail_if_success (have q : Trust := x)); (fail_if_success (have q : _ → _ := x)); clear_value x)
    | intro x
    | lift_lets -underBinder
    | with_reducible apply ite_sound
    | dsimp -zeta only
    | split
    | dsimp -zeta +zetaDelta only

theorem Dev.cfgBelow_sound {s : Dev} {vs n rid off : Nat} {write : Option (Nat × Nat)} {reqId tag : Nat} (h0 : s.Sound) : (Dev.cfgBelow s vs n rid off write reqId tag).Sound := by
  unfold Dev.cfgBelow
  repeat' first
    | with_reducible assumption
    | with_reducible apply Dev.cfgCpl_sound
    | with_reducible apply Dev.cfgUr_sound
    | with_reducible apply Dev.ingressPcie_sound
    | with_reducible apply write_sound
    | (intro x; have hx : Dev.Sound x; (on_goal 2 => clear_value x); (on_goal 1 => unfold x))
    | (intro x; (fail_if_success (have q : Engs := x)); (fail_if_success (have q : Svc := x)); (fail_if_success (have q : Trust := x)); (fail_if_success (have q : _ → _ := x)); clear_value x)
    | intro x
    | lift_lets -underBinder
    | with_reducible apply ite_sound
    | dsimp -zeta only
    | split
    | dsimp -zeta +zetaDelta only

theorem Dev.cfgTold_sound {s : Dev} {vs : Nat} {tgt : CfgTarget} {off v be : Nat} (h0 : s.Sound) : (Dev.cfgTold s vs tgt off v be).Sound := by
  unfold Dev.cfgTold
  repeat' first
    | with_reducible assumption
    | with_reducible apply Dev.modTold_sound
    | (intro x; have hx : Dev.Sound x; (on_goal 2 => clear_value x); (on_goal 1 => unfold x))
    | (intro x; (fail_if_success (have q : Engs := x)); (fail_if_success (have q : Svc := x)); (fail_if_success (have q : Trust := x)); (fail_if_success (have q : _ → _ := x)); clear_value x)
    | intro x
    | lift_lets -underBinder
    | (simp only [↓Dev.sound_mk]; with_reducible apply Dev.Sound.parts)
    | with_reducible apply ite_sound
    | dsimp -zeta only
    | split
    | dsimp -zeta +zetaDelta only

theorem Dev.cfgVfBus_sound {s : Dev} {vs fn off : Nat} {write : Option (Nat × Nat)} {reqId tag : Nat} (h0 : s.Sound) : (Dev.cfgVfBus s vs fn off write reqId tag).Sound := by
  unfold Dev.cfgVfBus
  repeat' first
    | with_reducible assumption
    | with_reducible apply Dev.cfgBelow_sound
    | with_reducible apply Dev.cfgPort_sound
    | with_reducible apply Dev.cfgUr_sound
    | with_reducible apply Dev.sfEvent_sound
    | with_reducible apply write_sound
    | (intro x; have hx : Dev.Sound x; (on_goal 2 => clear_value x); (on_goal 1 => unfold x))
    | (intro x; (fail_if_success (have q : Engs := x)); (fail_if_success (have q : Svc := x)); (fail_if_success (have q : Trust := x)); (fail_if_success (have q : _ → _ := x)); clear_value x)
    | intro x
    | lift_lets -underBinder
    | with_reducible apply ite_sound
    | dsimp -zeta only
    | split
    | dsimp -zeta +zetaDelta only

theorem Dev.cfgVf_sound {s : Dev} {vs fn off : Nat} {write : Option (Nat × Nat)} {reqId tag : Nat} (h0 : s.Sound) : (Dev.cfgVf s vs fn off write reqId tag).Sound := by
  unfold Dev.cfgVf
  repeat' first
    | with_reducible assumption
    | with_reducible apply Dev.cfgSf_sound
    | with_reducible apply Dev.cfgUr_sound
    | with_reducible apply Dev.cfgVfBus_sound
    | with_reducible apply sub_sound
    | with_reducible apply write_sound
    | (intro x; have hx : Dev.Sound x; (on_goal 2 => clear_value x); (on_goal 1 => unfold x))
    | (intro x; (fail_if_success (have q : Engs := x)); (fail_if_success (have q : Svc := x)); (fail_if_success (have q : Trust := x)); (fail_if_success (have q : _ → _ := x)); clear_value x)
    | intro x
    | lift_lets -underBinder
    | with_reducible apply ite_sound
    | dsimp -zeta only
    | split
    | dsimp -zeta +zetaDelta only

theorem configRequest_sound {vs : Nat} {tgt : CfgTarget} {off : Nat} {write : Option (Nat × Nat)} {reqId tag : Nat} {s : Dev} (h0 : s.Sound) : (configRequest vs tgt off write reqId tag s).Sound := by
  unfold configRequest
  repeat' first
    | with_reducible assumption
    | with_reducible apply Dev.cfgBelow_sound
    | with_reducible apply Dev.cfgPort_sound
    | with_reducible apply Dev.cfgSf_sound
    | with_reducible apply Dev.cfgTold_sound
    | with_reducible apply Dev.cfgUr_sound
    | with_reducible apply Dev.cfgVf_sound
    | with_reducible apply write_sound
    | intro x
    | with_reducible apply ite_sound
    | dsimp -zeta only
    | split

end Sys2Proof.Machine
end

