-- ==== Sys2Proof/Laws/SoundFlit.lean ====
section
/-! SUPPORT. Every operation of Machine/Flit.lean keeps the switch sound. -/
set_option linter.unusedTactic false
set_option linter.unusedSimpArgs false
set_option linter.unreachableTactic false
namespace Sys2Proof.Machine

theorem Dev.laneRx_sound {s : Dev} {i k : Nat} (h0 : s.Sound) : (Dev.laneRx s i k).Sound := by
  unfold Dev.laneRx
  repeat' first
    | with_reducible assumption
    | with_reducible apply Dev.count_sound
    | with_reducible apply Dev.modLane_sound
    | (intro x; have hx : Dev.Sound x; (on_goal 2 => clear_value x); (on_goal 1 => unfold x))
    | (intro x; (fail_if_success (have q : Engs := x)); (fail_if_success (have q : Svc := x)); (fail_if_success (have q : Trust := x)); (fail_if_success (have q : _ → _ := x)); clear_value x)
    | intro x
    | lift_lets -underBinder
    | (simp only [↓Dev.sound_mk]; with_reducible apply Dev.Sound.parts)
    | dsimp -zeta only
    | dsimp -zeta +zetaDelta only

theorem Dev.laneSym_sound {s : Dev} {i : Nat} (h0 : s.Sound) : (Dev.laneSym s i).Sound := by
  unfold Dev.laneSym
  repeat' first
    | with_reducible assumption
    | with_reducible apply Dev.count_sound
    | with_reducible apply Dev.modLane_sound
    | (intro x; have hx : Dev.Sound x; (on_goal 2 => clear_value x); (on_goal 1 => unfold x))
    | (intro x; (fail_if_success (have q : Engs := x)); (fail_if_success (have q : Svc := x)); (fail_if_success (have q : Trust := x)); (fail_if_success (have q : _ → _ := x)); clear_value x)
    | intro x
    | lift_lets -underBinder
    | (simp only [↓Dev.sound_mk]; with_reducible apply Dev.Sound.parts)
    | dsimp -zeta only
    | dsimp -zeta +zetaDelta only

theorem Dev.laneUnc_sound {s : Dev} {i : Nat} (h0 : s.Sound) : (Dev.laneUnc s i).Sound := by
  unfold Dev.laneUnc
  repeat' first
    | with_reducible assumption
    | with_reducible apply Dev.count_sound
    | with_reducible apply Dev.modLane_sound
    | (intro x; have hx : Dev.Sound x; (on_goal 2 => clear_value x); (on_goal 1 => unfold x))
    | (intro x; (fail_if_success (have q : Engs := x)); (fail_if_success (have q : Svc := x)); (fail_if_success (have q : Trust := x)); (fail_if_success (have q : _ → _ := x)); clear_value x)
    | intro x
    | lift_lets -underBinder
    | (simp only [↓Dev.sound_mk]; with_reducible apply Dev.Sound.parts)
    | dsimp -zeta only
    | dsimp -zeta +zetaDelta only

theorem Dev.flitCounts_sound {s : Dev} {n : Nat} {c : FlitCheck} (h0 : s.Sound) : (Dev.flitCounts s n c).Sound := by
  unfold Dev.flitCounts
  repeat' first
    | with_reducible assumption
    | with_reducible apply Dev.count_sound
    | with_reducible apply Dev.laneRx_sound
    | with_reducible apply Dev.laneSym_sound
    | with_reducible apply Dev.laneUnc_sound
    | with_reducible apply each_sound
    | (intro x; have hx : Dev.Sound x; (on_goal 2 => clear_value x); (on_goal 1 => unfold x))
    | (intro x; (fail_if_success (have q : Engs := x)); (fail_if_success (have q : Svc := x)); (fail_if_success (have q : Trust := x)); (fail_if_success (have q : _ → _ := x)); clear_value x)
    | intro x
    | lift_lets -underBinder
    | dsimp -zeta only
    | split
    | dsimp -zeta +zetaDelta only

theorem Dev.flitAcked_sound {s : Dev} {x : TxFlit} (h0 : s.Sound) : (Dev.flitAcked s x).Sound := by
  unfold Dev.flitAcked
  repeat' first
    | with_reducible assumption
    | with_reducible apply Dev.delPkt_sound
    | with_reducible apply Dev.marker_sound
    | with_reducible apply Dev.putPkt_sound
    | (intro x; have hx : Dev.Sound x; (on_goal 2 => clear_value x); (on_goal 1 => unfold x))
    | (intro x; (fail_if_success (have q : Engs := x)); (fail_if_success (have q : Svc := x)); (fail_if_success (have q : Trust := x)); (fail_if_success (have q : _ → _ := x)); clear_value x)
    | intro x
    | lift_lets -underBinder
    | (simp only [↓Dev.sound_mk]; with_reducible apply Dev.Sound.parts)
    | with_reducible apply ite_sound
    | dsimp -zeta only
    | split
    | dsimp -zeta +zetaDelta only

theorem Dev.ackProcess_sound {s : Dev} {n ack : Nat} (h0 : s.Sound) : (Dev.ackProcess s n ack).Sound := by
  unfold Dev.ackProcess
  repeat' first
    | with_reducible assumption
    | with_reducible apply b_sound
    | with_reducible apply Dev.drop_sound
    | with_reducible apply Dev.flitAcked_sound
    | with_reducible apply Dev.fset_sound
    | with_reducible apply Dev.modBl_sound
    | with_reducible apply Dev.protoError_sound
    | with_reducible apply each_sound
    | (intro x; have hx : Dev.Sound x; (on_goal 2 => clear_value x); (on_goal 1 => unfold x))
    | (intro x; (fail_if_success (have q : Engs := x)); (fail_if_success (have q : Svc := x)); (fail_if_success (have q : Trust := x)); (fail_if_success (have q : _ → _ := x)); clear_value x)
    | intro x
    | lift_lets -underBinder
    | (simp only [↓Dev.sound_mk]; with_reducible apply Dev.Sound.parts)
    | with_reducible apply ite_sound
    | dsimp -zeta only
    | split
    | dsimp -zeta +zetaDelta only

theorem Dev.creditIn_sound {s : Dev} {n q lim : Nat} (h0 : s.Sound) : (Dev.creditIn s n q lim).Sound := by
  unfold Dev.creditIn
  repeat' first
    | with_reducible assumption
    | with_reducible apply b_sound
    | with_reducible apply Dev.modBl_sound
    | with_reducible apply Dev.protoError_sound
    | (intro x; have hx : Dev.Sound x; (on_goal 2 => clear_value x); (on_goal 1 => unfold x))
    | (intro x; (fail_if_success (have q : Engs := x)); (fail_if_success (have q : Svc := x)); (fail_if_success (have q : Trust := x)); (fail_if_success (have q : _ → _ := x)); clear_value x)
    | intro x
    | lift_lets -underBinder
    | (simp only [↓Dev.sound_mk]; with_reducible apply Dev.Sound.parts)
    | with_reducible apply ite_sound
    | dsimp -zeta only
    | split
    | dsimp -zeta +zetaDelta only

theorem Dev.linkDiscard_sound {s : Dev} {p : Pkt} {reason : Nat} (h0 : s.Sound) : (Dev.linkDiscard s p reason).Sound := by
  unfold Dev.linkDiscard
  repeat' first
    | with_reducible assumption
    | with_reducible apply Dev.discard_sound
    | with_reducible apply Dev.enter_sound
    | intro x
    | dsimp -zeta only

theorem Dev.acceptFlit_sound {s : Dev} {n pool : Nat} (h0 : s.Sound) : (Dev.acceptFlit s n pool).Sound := by
  unfold Dev.acceptFlit
  repeat' first
    | with_reducible assumption
    | with_reducible apply b_sound
    | with_reducible apply Dev.count_sound
    | with_reducible apply Dev.fset_sound
    | with_reducible apply Dev.modBl_sound
    | (intro x; have hx : Dev.Sound x; (on_goal 2 => clear_value x); (on_goal 1 => unfold x))
    | (intro x; (fail_if_success (have q : Engs := x)); (fail_if_success (have q : Svc := x)); (fail_if_success (have q : Trust := x)); (fail_if_success (have q : _ → _ := x)); clear_value x)
    | intro x
    | lift_lets -underBinder
    | (simp only [↓Dev.sound_mk]; with_reducible apply Dev.Sound.parts)
    | dsimp -zeta only
    | dsimp -zeta +zetaDelta only

theorem Dev.firstFlit_sound {s : Dev} {n : Nat} {h : FlitHdr} {pay : List Byte} {t : Option Tlp} (h0 : s.Sound) : (Dev.firstFlit s n h pay t).Sound := by
  unfold Dev.firstFlit
  repeat' first
    | with_reducible assumption
    | with_reducible apply b_sound
    | with_reducible apply Dev.drop_sound
    | with_reducible apply Dev.linkDiscard_sound
    | with_reducible apply Dev.modBl_sound
    | (intro x; have hx : Dev.Sound x; (on_goal 2 => clear_value x); (on_goal 1 => unfold x))
    | (intro x; (fail_if_success (have q : Engs := x)); (fail_if_success (have q : Svc := x)); (fail_if_success (have q : Trust := x)); (fail_if_success (have q : _ → _ := x)); clear_value x)
    | intro x
    | lift_lets -underBinder
    | (simp only [↓Dev.sound_mk]; with_reducible apply Dev.Sound.parts)
    | with_reducible apply ite_sound
    | dsimp -zeta only
    | split
    | dsimp -zeta +zetaDelta only

theorem Dev.lateBad_sound {s : Dev} {pid : Nat} {p : Pkt} (h0 : s.Sound) : (Dev.lateBad s pid p).Sound := by
  unfold Dev.lateBad
  repeat' first
    | with_reducible assumption
    | with_reducible apply cut_sound
    | with_reducible apply Dev.discard_sound
    | with_reducible apply Dev.enter_sound
    | with_reducible apply Dev.putPkt_sound
    | (intro x; have hx : Dev.Sound x; (on_goal 2 => clear_value x); (on_goal 1 => unfold x))
    | (intro x; (fail_if_success (have q : Engs := x)); (fail_if_success (have q : Svc := x)); (fail_if_success (have q : Trust := x)); (fail_if_success (have q : _ → _ := x)); clear_value x)
    | intro x
    | lift_lets -underBinder
    | (simp only [↓Dev.sound_mk]; with_reducible apply Dev.Sound.parts)
    | with_reducible apply ite_sound
    | dsimp -zeta only
    | split
    | dsimp -zeta +zetaDelta only

theorem Dev.laterFlit_sound {s : Dev} {n : Nat} {h : FlitHdr} {pay : List Byte} {x : RxPkt} (h0 : s.Sound) : (Dev.laterFlit s n h pay x).Sound := by
  unfold Dev.laterFlit
  repeat' first
    | with_reducible assumption
    | with_reducible apply b_sound
    | with_reducible apply Dev.flitsCome_sound
    | with_reducible apply Dev.lateBad_sound
    | with_reducible apply Dev.linkDiscard_sound
    | with_reducible apply Dev.modBl_sound
    | with_reducible apply Dev.putPkt_sound
    | (intro x; have hx : Dev.Sound x; (on_goal 2 => clear_value x); (on_goal 1 => unfold x))
    | (intro x; (fail_if_success (have q : Engs := x)); (fail_if_success (have q : Svc := x)); (fail_if_success (have q : Trust := x)); (fail_if_success (have q : _ → _ := x)); clear_value x)
    | intro x
    | lift_lets -underBinder
    | (simp only [↓Dev.sound_mk]; with_reducible apply Dev.Sound.parts)
    | with_reducible apply ite_sound
    | dsimp -zeta only
    | split
    | dsimp -zeta +zetaDelta only

theorem Dev.dataFlit_sound {s : Dev} {n : Nat} {h : FlitHdr} {pay : List Byte} {t : Option Tlp} (h0 : s.Sound) : (Dev.dataFlit s n h pay t).Sound := by
  unfold Dev.dataFlit
  repeat' first
    | with_reducible assumption
    | with_reducible apply Dev.acceptFlit_sound
    | with_reducible apply b_sound
    | with_reducible apply Dev.dropLog_sound
    | with_reducible apply Dev.firstFlit_sound
    | with_reducible apply Dev.laterFlit_sound
    | with_reducible apply Dev.protoError_sound
    | (intro x; have hx : Dev.Sound x; (on_goal 2 => clear_value x); (on_goal 1 => unfold x))
    | (intro x; (fail_if_success (have q : Engs := x)); (fail_if_success (have q : Svc := x)); (fail_if_success (have q : Trust := x)); (fail_if_success (have q : _ → _ := x)); clear_value x)
    | intro x
    | lift_lets -underBinder
    | (simp only [↓Dev.sound_mk]; with_reducible apply Dev.Sound.parts)
    | with_reducible apply ite_sound
    | dsimp -zeta only
    | split
    | dsimp -zeta +zetaDelta only

theorem Dev.markerFlit_sound {s : Dev} {n : Nat} {h : FlitHdr} (h0 : s.Sound) : (Dev.markerFlit s n h).Sound := by
  unfold Dev.markerFlit
  repeat' first
    | with_reducible assumption
    | with_reducible apply Dev.acceptFlit_sound
    | with_reducible apply Dev.dropLog_sound
    | with_reducible apply Dev.marker_sound
    | with_reducible apply Dev.protoError_sound
    | with_reducible apply sub_sound
    | (intro x; have hx : Dev.Sound x; (on_goal 2 => clear_value x); (on_goal 1 => unfold x))
    | (intro x; (fail_if_success (have q : Engs := x)); (fail_if_success (have q : Svc := x)); (fail_if_success (have q : Trust := x)); (fail_if_success (have q : _ → _ := x)); clear_value x)
    | intro x
    | lift_lets -underBinder
    | (simp only [↓Dev.sound_mk]; with_reducible apply Dev.Sound.parts)
    | with_reducible apply ite_sound
    | dsimp -zeta only
    | split
    | dsimp -zeta +zetaDelta only

theorem Dev.seqFlit_sound {s : Dev} {n : Nat} {h : FlitHdr} {pay : List Byte} {t : Option Tlp} (h0 : s.Sound) : (Dev.seqFlit s n h pay t).Sound := by
  unfold Dev.seqFlit
  repeat' first
    | with_reducible assumption
    | with_reducible apply Dev.count_sound
    | with_reducible apply Dev.dataFlit_sound
    | with_reducible apply Dev.markerFlit_sound
    | with_reducible apply Dev.protoError_sound
    | (intro x; have hx : Dev.Sound x; (on_goal 2 => clear_value x); (on_goal 1 => unfold x))
    | (intro x; (fail_if_success (have q : Engs := x)); (fail_if_success (have q : Svc := x)); (fail_if_success (have q : Trust := x)); (fail_if_success (have q : _ → _ := x)); clear_value x)
    | intro x
    | lift_lets -underBinder
    | with_reducible apply ite_sound
    | dsimp -zeta only
    | split
    | dsimp -zeta +zetaDelta only

theorem Dev.timeFlit_sound {s : Dev} {n info : Nat} (h0 : s.Sound) : (Dev.timeFlit s n info).Sound := by
  unfold Dev.timeFlit
  repeat' first
    | with_reducible assumption
    | with_reducible apply b_sound
    | with_reducible apply Dev.modBl_sound
    | with_reducible apply Dev.protoError_sound
    | with_reducible apply timeHigh_sound
    | with_reducible apply timeReport_sound
    | with_reducible apply timeRoot_sound
    | with_reducible apply timeState_sound
    | with_reducible apply timeSync_sound
    | with_reducible apply timeTop_sound
    | (intro x; have hx : Dev.Sound x; (on_goal 2 => clear_value x); (on_goal 1 => unfold x))
    | (intro x; (fail_if_success (have q : Engs := x)); (fail_if_success (have q : Svc := x)); (fail_if_success (have q : Trust := x)); (fail_if_success (have q : _ → _ := x)); clear_value x)
    | intro x
    | lift_lets -underBinder
    | (simp only [↓Dev.sound_mk]; with_reducible apply Dev.Sound.parts)
    | with_reducible apply ite_sound
    | dsimp -zeta only
    | split
    | dsimp -zeta +zetaDelta only

theorem Dev.ctlFlit_sound {s : Dev} {n : Nat} {h : FlitHdr} (h0 : s.Sound) : (Dev.ctlFlit s n h).Sound := by
  unfold Dev.ctlFlit
  repeat' first
    | with_reducible assumption
    | with_reducible apply b_sound
    | with_reducible apply Dev.fset_sound
    | with_reducible apply Dev.linkFail_sound
    | with_reducible apply Dev.modBl_sound
    | with_reducible apply Dev.protoError_sound
    | with_reducible apply sub_sound
    | with_reducible apply Dev.timeFlit_sound
    | (intro x; have hx : Dev.Sound x; (on_goal 2 => clear_value x); (on_goal 1 => unfold x))
    | (intro x; (fail_if_success (have q : Engs := x)); (fail_if_success (have q : Svc := x)); (fail_if_success (have q : Trust := x)); (fail_if_success (have q : _ → _ := x)); clear_value x)
    | intro x
    | lift_lets -underBinder
    | (simp only [↓Dev.sound_mk]; with_reducible apply Dev.Sound.parts)
    | with_reducible apply ite_sound
    | dsimp -zeta only
    | split
    | dsimp -zeta +zetaDelta only

theorem Dev.idleFlit_sound {s : Dev} {n : Nat} {b : List Byte} (h0 : s.Sound) : (Dev.idleFlit s n b).Sound := by
  unfold Dev.idleFlit
  repeat' first
    | with_reducible assumption
    | with_reducible apply b_sound
    | with_reducible apply Dev.modBl_sound
    | (intro x; have hx : Dev.Sound x; (on_goal 2 => clear_value x); (on_goal 1 => unfold x))
    | (intro x; (fail_if_success (have q : Engs := x)); (fail_if_success (have q : Svc := x)); (fail_if_success (have q : Trust := x)); (fail_if_success (have q : _ → _ := x)); clear_value x)
    | intro x
    | lift_lets -underBinder
    | (simp only [↓Dev.sound_mk]; with_reducible apply Dev.Sound.parts)
    | with_reducible apply ite_sound
    | dsimp -zeta only
    | split
    | dsimp -zeta +zetaDelta only

theorem Dev.flitInTrain_sound {s : Dev} {n : Nat} {h : FlitHdr} {b : List Byte} (h0 : s.Sound) : (Dev.flitInTrain s n h b).Sound := by
  unfold Dev.flitInTrain
  repeat' first
    | with_reducible assumption
    | with_reducible apply b_sound
    | with_reducible apply Dev.bringFail_sound
    | with_reducible apply Dev.idleFlit_sound
    | intro x
    | with_reducible apply ite_sound
    | dsimp -zeta only
    | split

theorem Dev.flitInAlign_sound {s : Dev} {n : Nat} {h : FlitHdr} {b : List Byte} (h0 : s.Sound) : (Dev.flitInAlign s n h b).Sound := by
  unfold Dev.flitInAlign
  repeat' first
    | with_reducible assumption
    | with_reducible apply b_sound
    | with_reducible apply Dev.bringFail_sound
    | with_reducible apply Dev.enterActive_sound
    | with_reducible apply Dev.fillNbr_sound
    | with_reducible apply Dev.idleFlit_sound
    | with_reducible apply Dev.modBl_sound
    | (intro x; have hx : Dev.Sound x; (on_goal 2 => clear_value x); (on_goal 1 => unfold x))
    | (intro x; (fail_if_success (have q : Engs := x)); (fail_if_success (have q : Svc := x)); (fail_if_success (have q : Trust := x)); (fail_if_success (have q : _ → _ := x)); clear_value x)
    | intro x
    | lift_lets -underBinder
    | (simp only [↓Dev.sound_mk]; with_reducible apply Dev.Sound.parts)
    | with_reducible apply ite_sound
    | dsimp -zeta only
    | split
    | dsimp -zeta +zetaDelta only

theorem Dev.flitInActive_sound {s : Dev} {n : Nat} {h : FlitHdr} {b : List Byte} {t : Option Tlp} (h0 : s.Sound) : (Dev.flitInActive s n h b t).Sound := by
  unfold Dev.flitInActive
  repeat' first
    | with_reducible assumption
    | with_reducible apply Dev.ackProcess_sound
    | with_reducible apply b_sound
    | with_reducible apply Dev.creditIn_sound
    | with_reducible apply Dev.ctlFlit_sound
    | with_reducible apply Dev.drop_sound
    | with_reducible apply Dev.idleFlit_sound
    | with_reducible apply Dev.protoError_sound
    | with_reducible apply Dev.seqFlit_sound
    | with_reducible apply sub_sound
    | (intro x; have hx : Dev.Sound x; (on_goal 2 => clear_value x); (on_goal 1 => unfold x))
    | (intro x; (fail_if_success (have q : Engs := x)); (fail_if_success (have q : Svc := x)); (fail_if_success (have q : Trust := x)); (fail_if_success (have q : _ → _ := x)); clear_value x)
    | intro x
    | lift_lets -underBinder
    | with_reducible apply ite_sound
    | dsimp -zeta only
    | split
    | dsimp -zeta +zetaDelta only

theorem flitReceive_sound {n : Nat} {b : List Byte} {t : Option Tlp} {s : Dev} (h0 : s.Sound) : (flitReceive n b t s).Sound := by
  unfold flitReceive
  repeat' first
    | with_reducible assumption
    | with_reducible apply b_sound
    | with_reducible apply Dev.flitCounts_sound
    | with_reducible apply Dev.flitInActive_sound
    | with_reducible apply Dev.flitInAlign_sound
    | with_reducible apply Dev.flitInTrain_sound
    | with_reducible apply Dev.mergeReset_sound
    | with_reducible apply Dev.modBl_sound
    | with_reducible apply st_sound
    | with_reducible apply sub_sound
    | (intro x; have hx : Dev.Sound x; (on_goal 2 => clear_value x); (on_goal 1 => unfold x))
    | (intro x; (fail_if_success (have q : Engs := x)); (fail_if_success (have q : Svc := x)); (fail_if_success (have q : Trust := x)); (fail_if_success (have q : _ → _ := x)); clear_value x)
    | intro x
    | lift_lets -underBinder
    | (simp only [↓Dev.sound_mk]; with_reducible apply Dev.Sound.parts)
    | with_reducible apply ite_sound
    | dsimp -zeta only
    | split
    | dsimp -zeta +zetaDelta only

end Sys2Proof.Machine
end

