-- ==== Sys2Proof/Laws/SoundTick.lean ====
section
/-! SUPPORT. Every operation of Machine/Tick.lean keeps the switch sound. -/
set_option linter.unusedTactic false
set_option linter.unusedSimpArgs false
set_option linter.unreachableTactic false
namespace Sys2Proof.Machine

theorem Dev.advance1_sound {s : Dev} (h0 : s.Sound) : (Dev.advance1 s).Sound := by
  unfold Dev.advance1
  extract_lets acc billion
  split
  rename_i n rest e
  rw [Dev.sound_mk]
  exact ⟨h0.1, h0.2.1, h0.2.2.1, h0.2.2.2.1, h0.2.2.2.2.1, h0.2.2.2.2.2.1, Nat.mod_lt _ (by decide), h0.2.2.2.2.2.2.2⟩

theorem Dev.lateDeal_sound {s : Dev} (h0 : s.Sound) : (Dev.lateDeal s).Sound := by
  unfold Dev.lateDeal
  repeat' first
    | with_reducible assumption
    | with_reducible apply Dev.applyDeal_sound
    | intro x
    | with_reducible apply ite_sound
    | dsimp -zeta only
    | split

theorem Dev.lateReset_sound {s : Dev} (h0 : s.Sound) : (Dev.lateReset s).Sound := by
  unfold Dev.lateReset
  repeat' first
    | with_reducible assumption
    | with_reducible apply Dev.fabricReset_sound
    | intro x
    | with_reducible apply ite_sound
    | dsimp -zeta only
    | split

theorem Dev.cycleBegins_sound {s : Dev} (h0 : s.Sound) : (Dev.cycleBegins s).Sound := by
  unfold Dev.cycleBegins
  repeat' first
    | with_reducible assumption
    | with_reducible apply Dev.advertise_sound
    | with_reducible apply Dev.backlogFull_sound
    | with_reducible apply Dev.collCycle_sound
    | with_reducible apply Dev.commitDue_sound
    | with_reducible apply Dev.freeCells_sound
    | with_reducible apply Dev.lateDeal_sound
    | with_reducible apply Dev.lateReset_sound
    | with_reducible apply Dev.linkCycle_sound
    | with_reducible apply Dev.lowWater_sound
    | with_reducible apply Dev.reqCycle_sound
    | with_reducible apply Dev.sampleTime_sound
    | with_reducible apply Dev.serveRequests_sound
    | with_reducible apply Dev.sfCycle_sound
    | with_reducible apply Dev.stepDue_sound
    | with_reducible apply Dev.watchCycle_sound
    | with_reducible apply Dev.writeFresh_sound
    | with_reducible apply each_sound
    | (intro x; have hx : Dev.Sound x; (on_goal 2 => clear_value x); (on_goal 1 => unfold x))
    | (intro x; (fail_if_success (have q : Engs := x)); (fail_if_success (have q : Svc := x)); (fail_if_success (have q : Trust := x)); (fail_if_success (have q : _ → _ := x)); clear_value x)
    | intro x
    | lift_lets -underBinder
    | (simp only [↓Dev.sound_mk]; with_reducible apply Dev.Sound.parts)
    | dsimp -zeta only
    | dsimp -zeta +zetaDelta only

theorem Dev.tick_sound {s : Dev} (h0 : s.Sound) : (Dev.tick s).Sound := by
  unfold Dev.tick
  repeat' first
    | with_reducible assumption
    | with_reducible apply Dev.advance1_sound
    | with_reducible apply Dev.blinkTick_sound
    | with_reducible apply Dev.busFree_sound
    | with_reducible apply Dev.cycleBegins_sound
    | with_reducible apply Dev.drainMark_sound
    | with_reducible apply Dev.perstTick_sound
    | with_reducible apply Dev.postDrain_sound
    | with_reducible apply Dev.retireTick_sound
    | with_reducible apply Dev.sampleEnd_sound
    | with_reducible apply Dev.slotTurnOff_sound
    | (intro x; have hx : Dev.Sound x; (on_goal 2 => clear_value x); (on_goal 1 => unfold x))
    | (intro x; (fail_if_success (have q : Engs := x)); (fail_if_success (have q : Svc := x)); (fail_if_success (have q : Trust := x)); (fail_if_success (have q : _ → _ := x)); clear_value x)
    | intro x
    | lift_lets -underBinder
    | with_reducible apply ite_sound
    | dsimp -zeta only
    | split
    | dsimp -zeta +zetaDelta only

end Sys2Proof.Machine
end

