-- ==== Sys2Proof/Tests/Base.lean ====
section
/-! SUPPORT. Two small switches for the tests. -/
namespace Sys2Proof.Tests
open Sys2Proof.Machine

/-- The switch after reset, in the device state ACTIVE. -/
def dv : Dev := { State.reset.dev with svc := { State.reset.dev.svc with state := 4 } }

/-- A joined switch with FSID 1 at work: host port 0 of VS 0 and device port 4 enabled and up, device port 4 bound to vDSP 0 of
VS 0 in the half in force, fabric port 8 enabled with an ACTIVE link. -/
def rv : Dev :=
  let o := ((((((dv.oset 0x4000 1 1).oset 0x4000 2 0).oset 0x4004 1 1).oset 0x4004 2 1).oset 0x4008 1 1).oset 0x4008 2 2)
  let w := ((o.oset 0x4000 3 16).oset 0x4004 3 4).oset 0x4008 3 8
  let r := (((((w.fset Fld.RT_ID.FSID 0 1).fset Fld.RT_ID.JOINED 0 1).fset Fld.PCI_VS_CFG.HPV 0 1).fset Fld.PCI_VS_CFG.HOST_PORT 0 0).fset
    Fld.BL_STAT.STATE 8 5)
  { r.setHword 0 (offBind + 12) (2147483648 + 68) with
    pci.ports := [(0, { up := true, width := 16 }), (4, { up := true, width := 4 })] }

/-- The same with engine 64 running a program of 4 words for queue 0 of VS 0, and 1 MiB of LPDDR4X of its function. -/
def ev : Dev :=
  { ((rv.oset 0xB400 3 1).fset Fld.EN_STAT.STATE 64 enRun).fset Fld.SF_Q_CFG.SIZE_EXP 0 4 with
    eng.eng := [(64, { g := [0, 5, 7, 9, 0x80000, 0, 0, 0, 0x100000000, 0, 0, 0, 0, 0, 0, 0], run := some 0 })],
    eng.runs := [(0, { vs := 0, fn := 0, q := 0, desc := { kind := 1, neng := 1, started := true }, slot := 0, cluster := 4, engines := [64],
                       startAt := 0, limitAt := tSec })],
    eng.progs := [(0, { state := 3, image := List.replicate 8 0 ++ [4, 0, 0, 0] ++ List.replicate 52 0 ++ List.replicate 32 0 })],
    eng.allocBase := [(0, 0xF0000000)],
    sf.qs := [(0, { owner := some (0, 0, 0), descs := [{ kind := 1, neng := 1, started := true }] })] }

/-- A program of four words whose first is given. -/
def imageOf (x : Nat) : List Byte := List.replicate 8 0 ++ [4, 0, 0, 0] ++ List.replicate 52 0 ++ leBytes 8 x ++ List.replicate 24 0

/-- The same switch with an operation word at the engine's pc. -/
def evw (op : Nat) (w : OpWord) : Dev := { ev with eng.progs := [(0, { state := 3, image := imageOf (opWord op w) })] }

end Sys2Proof.Tests
end

