-- ==== Sys2Proof/Tests/Slice0.lean ====
section
/-! SUPPORT. Tests: the ill-formed commands, single operations, and for every statement with hypotheses a state and operands that meet
them. -/
namespace Sys2Proof.Tests
open Sys2Proof Sys2Proof.Machine
set_option Elab.async false

/-- A flit of zeros with its CRC. -/
def zeroFlit : List Byte := List.replicate 248 0 ++ beBytes 8 15358184645714758957

theorem crcRun_append (c : Nat) (l m : List Byte) : crcRun c (l ++ m) = crcRun (crcRun c l) m := by simp [crcRun]

theorem crc_zeros_0 : crcRun 18446744073709551615 (List.replicate 31 0) = 15879310073284827200 := by decide +kernel
theorem crc_zeros_1 : crcRun 15879310073284827200 (List.replicate 31 0) = 14586728332071357 := by decide +kernel
theorem crc_zeros_2 : crcRun 14586728332071357 (List.replicate 31 0) = 15338492763406043521 := by decide +kernel
theorem crc_zeros_3 : crcRun 15338492763406043521 (List.replicate 31 0) = 7456572121818650051 := by decide +kernel
theorem crc_zeros_4 : crcRun 7456572121818650051 (List.replicate 31 0) = 17890675410050617274 := by decide +kernel
theorem crc_zeros_5 : crcRun 17890675410050617274 (List.replicate 31 0) = 13241838303391363258 := by decide +kernel
theorem crc_zeros_6 : crcRun 13241838303391363258 (List.replicate 31 0) = 10157181346633911210 := by decide +kernel
theorem crc_zeros_7 : crcRun 10157181346633911210 (List.replicate 31 0) = 3088559427994792658 := by decide +kernel

theorem crc_zeros : crcRun (2 ^ 64 - 1) (List.replicate 248 0) = 3088559427994792658 := by
  have e : List.replicate 248 (0 : Byte) = List.replicate 31 0 ++ (List.replicate 31 0 ++ (List.replicate 31 0 ++ (List.replicate 31 0 ++
      (List.replicate 31 0 ++ (List.replicate 31 0 ++ (List.replicate 31 0 ++ List.replicate 31 0)))))) := by
    simp only [List.replicate_append_replicate]
  rw [e]
  simp only [crcRun_append]
  rw [show (2 : Nat) ^ 64 - 1 = 18446744073709551615 from rfl]
  rw [crc_zeros_0, crc_zeros_1, crc_zeros_2, crc_zeros_3, crc_zeros_4, crc_zeros_5, crc_zeros_6, crc_zeros_7]

theorem syndrome_append {l m : List Byte} (h : l.length = 248) : syndrome (l ++ m) = crc64 l ^^^ beNat m := by
  show crc64 (List.take 248 (l ++ m)) ^^^ beNat (List.drop 248 (l ++ m)) = _
  rw [List.take_left' h, List.drop_left' h]

theorem crc64_zeros : crc64 (List.replicate 248 0) = 15358184645714758957 := by
  have h : ∀ l c, crcRun (2 ^ 64 - 1) l = c → crc64 l = 2 ^ 64 - 1 - c := fun l c h => by rw [← h]; rfl
  rw [h _ _ crc_zeros]
  decide +kernel

theorem crc_matches : 15358184645714758957 ^^^ beNat (beBytes 8 15358184645714758957) = 0 := by decide +kernel

theorem zeroFlit_syndrome : syndrome zeroFlit = 0 := by
  unfold zeroFlit
  rw [syndrome_append (List.length_replicate ..), crc64_zeros, crc_matches]

/-- The flit of zeros checks good. -/
theorem zeroFlit_good : (checkFlit zeroFlit).1 = .good := by
  simp [checkFlit, zeroFlit_syndrome]

theorem zeroFlit_length : zeroFlit.length = 256 := by
  unfold zeroFlit; rw [List.length_append, List.length_replicate]; decide +kernel


/-! Well-formedness: an ill-formed term for each check -/

theorem test_wf_refuses_fields :
    (OpWord.wf { d := 16 } || OpWord.wf { a := 16 } || OpWord.wf { b := 16 } || OpWord.wf { m := 16 } || OpWord.wf { resv := 256 } ||
      OpWord.wf { imm := 2 ^ 32 } || TreeMsg.wf { kind := 256 } || TreeMsg.wf { flags := 256 } || TreeMsg.wf { term := 65536 } ||
      TreeMsg.wf { epoch := 2 ^ 32 } || TreeMsg.wf { t := 2 ^ 64 } || TreeMsg.wf { count1 := 65536 } || TreeMsg.wf { count2 := 65536 } ||
      CollMsg.wf { kind := 16 } || CollMsg.wf { group := 256 } || CollMsg.wf { gen := 256 } || CollMsg.wf { iseq := 65536 } ||
      EntryRef.wf ⟨65536, 0, 0⟩ || EntryRef.wf ⟨0, 256, 0⟩ || EntryRef.wf ⟨0, 0, 256⟩ || ArbReq.wf ⟨68, 0⟩ || ArbReq.wf ⟨0, 8⟩) = false := by
  decide +kernel

theorem test_wf_refuses_lengths : CollMsg.wf { payload := List.replicate 4097 0 } = false ∧
    ReqHdr.wf { sess := .mctp 8, seq := 2 ^ 32 } = false ∧ Tlp.wf { data := List.replicate 4097 0 } = false := by
  refine ⟨?_, by decide, ?_⟩ <;> simp only [CollMsg.wf, Tlp.wf, List.length_replicate] <;> decide

theorem test_wf_refuses_packets :
    (Tlp.wf { tc := 8 } || Tlp.wf { reqId := 65536 } || Tlp.wf { tag := 16384 } || Tlp.wf { cplId := 65536 } || Tlp.wf { target := 65536 } ||
      Tlp.wf { addr := 2 ^ 64 } || Tlp.wf { len := 0 } || Tlp.wf { len := 4225 } || Ingress.wf (.pcie { tc := 8 } 1) || Ingress.wf (.pcie {} 0) || Ingress.wf (.more 0 0) ||
      Ingress.wf (.fabric (some { tc := 8 })) || CfgTarget.wf (.vdsp 256) || CfgTarget.wf (.sf 1025) || CfgTarget.wf (.below 256 0) ||
      CfgTarget.wf (.below 0 65536) || CfgTarget.wf (.vfBusInside 1025) || PerrReport.wf { reason := 256 } || PerrReport.wf { vs := 48 } ||
      PerrReport.wf { supp := 65536 } || Tlp.wf { be := 256 } || PtmReqr.wf (.port 48) || PtmReqr.wf (.sf 48) ||
      BusMapMsg.wf { vs := 48 } || BusMapPart.wf (.copy []) || BusMapPart.wf (.copy (List.replicate 256 260)) || BusMapPart.wf (.ack 2048) ||
      PortNotice.wf { slot := some (241, false, false) } || PortNotice.wf { caps := some 32 } ||
      Ingress.wf (.internal { unit := 68 }) || Ingress.wf (.internal { vs := 48 }) || Ingress.wf (.internal { oc := 8 }) ||
      Ingress.wf (.internal { cc := 8 }) || Ingress.wf (.internal { dgpa := 131072 }) || Ingress.wf (.internal { via := some 48 }) || PerrReport.wf { reqId := 65536 } || PerrReport.wf { dgpa := 131072 }) = false := by
  decide +kernel

/-! Single operations. The expected values are the spec's worked examples and tables, or hand calculation from its rules. -/

/-- The worked example of R483: 1.0, 2^24, 1.0 and −2^24 in FP32 sum to 2.0 in either order. -/
theorem test_sum_does_not_depend_on_order :
    (((elemAccs 3 [0x3F800000, 0xCB800000, 0x4B800000, 0x3F800000]).foldl (AccV.combine 0) ({} : AccV)).result 3 0).1 = 0x40000000 ∧
    (((elemAccs 3 [0x4B800000, 0x3F800000, 0x3F800000, 0xCB800000]).foldl (AccV.combine 0) ({} : AccV)).result 3 0).1 = 0x40000000 := by
  decide +kernel

/-- The breaker curve for 12 V feeds of R664's example: its second point, and that R663 lets it be stored. -/
theorem test_breaker_curve_example :
    let b : List Byte := [0xDC, 0, 0x40, 0x4B, 0x4C, 0, 0xF0, 0, 0x40, 0x42, 0x0F, 0, 4, 1, 0x90, 0xD0, 3, 0, 0x18, 1, 0x50, 0xC3, 0, 0,
      0x40, 1, 0x10, 0x27, 0, 0, 0x68, 1, 0xD0, 7, 0, 0, 0x90, 1, 0xF4, 1, 0, 0, 0xA4, 1, 0x64, 0, 0, 0]
    curveOk b = true ∧ (curveOf b).getD 1 (0, 0) = (240, 1000000) := by
  decide +kernel

/-- The transfer example of R668: from 4.382 V at 230 W, t_safe is 7.48 µs (7.47 µs from the rounded voltage). -/
theorem test_safe_break_example : dv.tSafe { bus := 4382, power := 230000 } = some 7470 := by decide +kernel

/-- The example of R630: 1.7535 × 10^8 s at the die that is worn most is 1,389. -/
theorem test_wear_example : wearUsedOf [5, 175350000 * 2 ^ 32, 7] = 1389 := by decide +kernel

/-- ADDI g2, g1, −8 (R496's example) on g1 = 5 leaves 2^64 − 3; the pc moves to 1. -/
theorem test_addi_wraps :
    let t := addi 64 { d := 2, a := 1, imm := 0xFFFFFFF8 } { ev with eng.progs := [(0, { state := 3, image := imageOf 0x24210000FFFFFFF8 })] }
    t.gr 64 2 = 2 ^ 64 - 3 ∧ t.gr 64 1 = 5 ∧ t.pc 64 = 1 := by
  decide +kernel

/-- g0 ignores writes (R490). -/
theorem test_g0_reads_zero : (mov 64 { d := 0, a := 1 } (evw 0x20 { d := 0, a := 1 })).gr 64 0 = 0 := by decide +kernel

/-- The spec's worked example: ADDI g2, g1, −8 and ACA of an INT32 and of an FP32 slot (R497). -/
theorem test_operation_words : opWordOf 0x24210000FFFFFFF8 = (0x24, { d := 2, a := 1, imm := 0xFFFFFFF8 }) ∧
    opWordOf 0x5102000000000003 = (0x51, { a := 2, imm := 3 }) ∧ opWordOf 0x5102030000000003 = (0x51, { a := 2, m := 3, imm := 3 }) := by decide

/-- At another operation's word nothing happens. -/
theorem test_other_word : sub 64 { d := 1, a := 2, b := 3 } (evw 0x23 { d := 1, a := 2, b := 3 }) = evw 0x23 { d := 1, a := 2, b := 3 } := by
  unfold sub Dev.regOp
  exact Dev.runOp_other (x := (0x23, { d := 1, a := 2, b := 3 })) (by decide +kernel) (by decide) (by decide)

/-- A word whose M is not 0 raises fault code 1 (R496, R505). -/
theorem test_reserved_mode_faults : add 64 { d := 1, a := 2, b := 3, m := 1 } (evw 0x23 { d := 1, a := 2, b := 3, m := 1 }) =
    ((evw 0x23 { d := 1, a := 2, b := 3, m := 1 }).issued 64).engFaultOpen 64 1 := by
  have h1 : (evw 0x23 { d := 1, a := 2, b := 3, m := 1 }).canIssue 64 = true := by decide +kernel
  have h2 : ((evw 0x23 { d := 1, a := 2, b := 3, m := 1 }).en 64).regsFree [2, 3, 1] [] = true := by decide +kernel
  have h3 : ((evw 0x23 { d := 1, a := 2, b := 3, m := 1 }).wordAt 64).map opWordOf = some (0x23, { d := 1, a := 2, b := 3, m := 1 }) := by
    decide +kernel
  generalize evw 0x23 { d := 1, a := 2, b := 3, m := 1 } = s at h1 h2 h3 ⊢
  unfold add Dev.regOp
  exact Dev.runOp_illegal h1 h2 h3

/-- A write within an open region reads back, low byte first, across the last byte of the space (R30). -/
theorem test_memory_reads_back : (lpddr4xAccess .data true (memTop - 2) 0 [1, 2] dv).memRead (memTop - 2) 2 = [1, 2] := by decide +kernel

/-- The data plane does not write region 0 (R29). -/
theorem test_memory_region_is_guarded : (lpddr4xAccess .data true 0 0 [1] dv).memByte 0 = 0 := by decide +kernel

/-- Writing what an unlisted byte reads as leaves nothing listed. -/
theorem test_memory_stays_canonical : ((dv.memWrite 5 [9]).memWrite 5 [0]).mem = [] := by decide +kernel

/-- A hatch closed by the management plane is not opened by the control plane (R128). -/
theorem test_hatch_bits : (hatchWrite 3 .control false (hatchWrite 3 .management true dv)).hatchClosed 3 = true := by decide +kernel

/-- A trip leaves the module off and latched (R665); a release leads to a ramp where a feed is usable (R666). -/
theorem test_latch_release :
    (latchRelease { dv.moduleTrip 1 with pe.state := peLatched, pe.usable := 1 }).pe.state = peRamp := by decide +kernel

/-- The flit of zeros checks good (R290). -/
theorem test_flit_check : (checkFlit zeroFlit).1 = .good := zeroFlit_good

/-- A tree message's bytes (R463): GO of term 2, epoch 3 and T = 4. -/
theorem test_tree_message_bytes : treeBytes { kind := 0x12, term := 2, epoch := 3, t := 4 } =
    [0x12, 0, 2, 0, 3, 0, 0, 0, 4, 0, 0, 0, 0, 0, 0, 0, 0, 0, 0, 0, 0, 0, 0, 0, 0, 0, 0, 0, 0, 0, 0, 0] := by decide +kernel

/-- An envelope's first and last bytes (R387): DGPA stands in bits 127 to 111, DL in 41 to 10. -/
theorem test_envelope_bytes : (envBytes { dgpa := 0x10001, tlen := 0, dl := 1 }).take 3 = [0x80, 0x00, 0x80] ∧
    (envBytes { dgpa := 0x10001, tlen := 0, dl := 1 }).drop 14 = [4, 0] := by decide +kernel

/-- A step takes the front command; an empty queue lets one tick of 125 ps pass. -/
theorem test_step_takes_the_front :
    step { pending := [.latchRelease, .energyStore], dev := { dv with svc.state := 0 } } =
      .next { pending := [.energyStore], dev := latchRelease { dv with svc.state := 0 } } := rfl

/-- No command has bits in the table. -/
theorem test_no_table_word : decodeTableWord 16 0 = none := rfl

/-- SHAKE256 of the empty message, the value FIPS 202 publishes (R639). -/
theorem test_shake256_of_nothing : beNat (shake256 [] 32) = 0x46b9dd2b0ba88d13233b3feb743eeb243fcd52ea62b81b82b50c27646ed5762f := by
  decide +kernel

theorem test_wf_refuses_commands_1 :
    (∀ a b c, (Instr.registerWrite a b c 18446744073709551616).wf = false) ∧ (∀ a, (Instr.packetIngress 53 a).wf = false) ∧
    (∀ a x, x.wf = false → (Instr.packetIngress a x).wf = false) ∧ (∀ a b c, (Instr.grant 57 a b c).wf = false) ∧
    (∀ a b c, (Instr.grant a [⟨68, 0⟩] b c).wf = false) ∧ (∀ a, (Instr.crossbarDataPhase 57 a).wf = false) ∧
    ((Instr.egressEncode 53).wf = false) ∧ ((Instr.egressTlpStart 53).wf = false) ∧ ((Instr.egressStallTimeout 53).wf = false) ∧
    ((Instr.roundBoundary 57).wf = false) ∧ ((Instr.tenureCut 57).wf = false) ∧ (∀ a, (Instr.trickCut64 57 a).wf = false) ∧
    (∀ a, (Instr.trickCut64 a 53).wf = false) ∧ (∀ a, (Instr.trickHoldCut 57 a).wf = false) ∧ (∀ a, (Instr.trickHoldCut a 53).wf = false) ∧
    ((Instr.parkReleaseIdle 57).wf = false) ∧ (∀ a b, (Instr.hatchWrite 57 a b).wf = false) ∧ ((Instr.hatchWatchdog 57).wf = false) ∧
    ((Instr.flowSweepVisit 16384).wf = false) ∧ ((Instr.gateEntryBegin 48).wf = false) := by
  refine ⟨?_, ?_, ?_, ?_, ?_, ?_, ?_, ?_, ?_, ?_, ?_, ?_, ?_, ?_, ?_, ?_, ?_, ?_, ?_, ?_⟩ <;> intros <;> simp_all [Instr.wf, ArbReq.wf]

theorem test_wf_refuses_commands_2 :
    ((Instr.gateSwitchover 48).wf = false) ∧ (∀ a, (Instr.pcieLinkUp 48 a).wf = false) ∧ (∀ a, (Instr.pcieLinkDown 48 a).wf = false) ∧
    (∀ a b, (Instr.pcieRecovery 48 a b).wf = false) ∧ (∀ a b, (Instr.pcieEqualisation 48 a b).wf = false) ∧
    (∀ a b, (Instr.l0pWindowEnd 48 a b).wf = false) ∧ ((Instr.l0pWidenComplete 48).wf = false) ∧
    (∀ a, (Instr.l0pPartnerRequest 48 a).wf = false) ∧ ((Instr.aspmL1Entry 48).wf = false) ∧
    (∀ a b c d e, (Instr.configRequest 48 a b c d e).wf = false) ∧
    (∀ a b c d e x, x.wf = false → (Instr.configRequest a x b c d e).wf = false) ∧
    (∀ a b c d e, (Instr.configRequest a b 4096 c d e).wf = false) ∧ (∀ a b c d e, (Instr.configRequest a b c d 65536 e).wf = false) ∧
    (∀ a b c d e, (Instr.configRequest a b c d e 16384).wf = false) ∧ (∀ a b, (Instr.vdspLinkDisable 48 a b).wf = false) ∧
    (∀ a b, (Instr.vdspLinkDisable a 256 b).wf = false) ∧ (∀ a, (Instr.vdspRetrainLink 48 a).wf = false) ∧
    (∀ a, (Instr.vdspRetrainLink a 256).wf = false) ∧ (∀ a b, (Instr.vdspTargetLinkSpeed 48 a b).wf = false) ∧
    (∀ a b, (Instr.vdspTargetLinkSpeed a 256 b).wf = false) := by
  refine ⟨?_, ?_, ?_, ?_, ?_, ?_, ?_, ?_, ?_, ?_, ?_, ?_, ?_, ?_, ?_, ?_, ?_, ?_, ?_, ?_⟩ <;> intros <;> simp_all [Instr.wf]

theorem test_wf_refuses_commands_3 :
    (∀ a b, (Instr.vdspAspmControl 48 a b).wf = false) ∧ (∀ a b, (Instr.vdspAspmControl a 256 b).wf = false) ∧
    (∀ a b, (Instr.vdspAspmControl a b 4).wf = false) ∧ (∀ a b, (Instr.secondaryBusReset 48 a b).wf = false) ∧
    (∀ a b, (Instr.secondaryBusReset a 256 b).wf = false) ∧ (∀ a b c d e, (Instr.vdspLinkStatusUpdate 48 a b c d e).wf = false) ∧
    (∀ a b c d e, (Instr.vdspLinkStatusUpdate a 256 b c d e).wf = false) ∧
    (∀ a b c d e x y, x.wf = false → (Instr.vdspLinkStatusUpdate a b c d e ⟨y, x⟩).wf = false) ∧
    (∀ a b c, (Instr.remoteErrorNotice 48 a b c).wf = false) ∧ (∀ a b c, (Instr.remoteErrorNotice a 256 b c).wf = false) ∧
    (∀ a, (Instr.dpcSoftwareTrigger 48 a).wf = false) ∧ (∀ a, (Instr.dpcSoftwareTrigger a 256).wf = false) ∧
    (∀ a, (Instr.dpcTriggerStatusWrite 48 a).wf = false) ∧ (∀ a, (Instr.dpcTriggerStatusWrite a 256).wf = false) ∧
    (∀ a, (Instr.dpcRelease 48 a).wf = false) ∧ (∀ a, (Instr.dpcRelease a 256).wf = false) ∧
    (∀ x, x.wf = false → (Instr.ptmRequest x).wf = false) ∧ (∀ a, (Instr.presenceDebounced 8 a).wf = false) ∧
    ((Instr.attentionButtonPress 8).wf = false) ∧ (∀ a b c, (Instr.slotIndicatorWrite 48 a b c).wf = false) := by
  refine ⟨?_, ?_, ?_, ?_, ?_, ?_, ?_, ?_, ?_, ?_, ?_, ?_, ?_, ?_, ?_, ?_, ?_, ?_, ?_, ?_⟩ <;> intros <;> simp_all [Instr.wf]

theorem test_wf_refuses_commands_4 :
    (∀ a b c, (Instr.slotIndicatorWrite a 256 b c).wf = false) ∧ (∀ a b c, (Instr.slotIndicatorWrite a b 4 c).wf = false) ∧
    (∀ a b c, (Instr.slotIndicatorWrite a b c 4).wf = false) ∧ (∀ a, (Instr.slotPowerOn 48 a).wf = false) ∧
    (∀ a, (Instr.slotPowerOn a 256).wf = false) ∧ (∀ a, (Instr.slotPowerOff 48 a).wf = false) ∧
    (∀ a, (Instr.slotPowerOff a 256).wf = false) ∧ ((Instr.slotPerstRelease 8).wf = false) ∧
    (∀ a, (Instr.slotCommandCompleted 48 a).wf = false) ∧ (∀ a, (Instr.slotCommandCompleted a 256).wf = false) ∧
    (∀ a b c, (Instr.doorbellWrite 48 a b c).wf = false) ∧ (∀ a b c, (Instr.doorbellWrite a 1025 b c).wf = false) ∧
    (∀ a b c, (Instr.doorbellWrite a b 4096 c).wf = false) ∧ (∀ a b c, (Instr.doorbellWrite a b c 65536).wf = false) ∧
    (∀ a, (Instr.descriptorFetchComplete 4096 a).wf = false) ∧ ((Instr.queueEnable 4096).wf = false) ∧
    ((Instr.queueDisable 4096).wf = false) ∧ ((Instr.queueIdle 4096).wf = false) ∧ (∀ a b, (Instr.vectorUnmask 48 a b).wf = false) ∧
    (∀ a b, (Instr.vectorUnmask a 1025 b).wf = false) := by
  refine ⟨?_, ?_, ?_, ?_, ?_, ?_, ?_, ?_, ?_, ?_, ?_, ?_, ?_, ?_, ?_, ?_, ?_, ?_, ?_, ?_⟩ <;> intros <;> simp_all [Instr.wf]

theorem test_wf_refuses_commands_5 :
    (∀ a b, (Instr.vectorUnmask a b 4096).wf = false) ∧ ((Instr.revokeGraceExpiry 4096).wf = false) ∧
    (∀ a b, (Instr.completionTimeout 48 a b).wf = false) ∧ (∀ a b, (Instr.completionTimeout a 1025 b).wf = false) ∧
    (∀ a b, (Instr.completionTimeout a b 16384).wf = false) ∧ (∀ a b c, (Instr.sfCompletionArrival 48 a b c).wf = false) ∧
    (∀ a b c, (Instr.sfCompletionArrival a 1025 b c).wf = false) ∧ (∀ a b c, (Instr.sfCompletionArrival a b 16384 c).wf = false) ∧
    (∀ a b, (Instr.tagQuarantineEnd 48 a b).wf = false) ∧ (∀ a b, (Instr.tagQuarantineEnd a 1025 b).wf = false) ∧
    (∀ a b, (Instr.tagQuarantineEnd a b 16384).wf = false) ∧ (∀ a, (Instr.functionLevelReset 48 a).wf = false) ∧
    (∀ a, (Instr.functionLevelReset a 1025).wf = false) ∧ (∀ a, (Instr.flrComplete 48 a).wf = false) ∧
    (∀ a, (Instr.flrComplete a 1025).wf = false) ∧ (∀ a, (Instr.busMasterDisable 48 a).wf = false) ∧
    (∀ a, (Instr.busMasterDisable a 1025).wf = false) ∧ (∀ a, (Instr.busMasterEnable 48 a).wf = false) ∧
    (∀ a, (Instr.busMasterEnable a 1025).wf = false) ∧ (∀ a, (Instr.ledgerSwap 48 a).wf = false) := by
  refine ⟨?_, ?_, ?_, ?_, ?_, ?_, ?_, ?_, ?_, ?_, ?_, ?_, ?_, ?_, ?_, ?_, ?_, ?_, ?_, ?_⟩ <;> intros <;> simp_all [Instr.wf]

theorem test_wf_refuses_commands_6 :
    (∀ a, (Instr.ledgerSwap a 8).wf = false) ∧ (∀ a, (Instr.ledgerSwapDone 48 a).wf = false) ∧
    (∀ a, (Instr.ledgerSwapDone a 8).wf = false) ∧ (∀ a, (Instr.ledgerSwapTimeout 48 a).wf = false) ∧
    (∀ a, (Instr.ledgerSwapTimeout a 8).wf = false) ∧ (∀ a, (Instr.mailboxGo 48 a).wf = false) ∧
    (∀ x, x.wf = false → (Instr.postedErrorReportReceive x).wf = false) ∧ (∀ a b c d, (Instr.watchIntervalEnd 192 a b c d).wf = false) ∧
    (∀ a, (Instr.bankTempUpdate 12 a).wf = false) ∧ (∀ a, (Instr.bankTempUpdate a 65536).wf = false) ∧ ((Instr.prbsStart 192).wf = false) ∧
    (∀ a b, (Instr.prbsTestEnd 192 a b).wf = false) ∧ (∀ a b, (Instr.prbsLockLoss 192 a b).wf = false) ∧
    (∀ a b, (Instr.flitReceive 48 a b).wf = false) ∧ (∀ a b, (Instr.flitReceive a [] b).wf = false) ∧ ((Instr.flitSend 48).wf = false) ∧
    ((Instr.portEnable 48).wf = false) ∧ ((Instr.portDisable 48).wf = false) ∧
    (∀ a b c, (Instr.bringupCheckWindowEnd 48 a b c).wf = false) ∧ (∀ a b c, (Instr.bringupCheckWindowEnd a 16 b c).wf = false) := by
  refine ⟨?_, ?_, ?_, ?_, ?_, ?_, ?_, ?_, ?_, ?_, ?_, ?_, ?_, ?_, ?_, ?_, ?_, ?_, ?_, ?_⟩ <;> intros <;> simp_all [Instr.wf]

theorem test_wf_refuses_commands_7 :
    ((Instr.alignEntry 48).wf = false) ∧ ((Instr.bringupTimeout 48).wf = false) ∧ ((Instr.resetFlitsSent 48).wf = false) ∧
    ((Instr.quietEnd 48).wf = false) ∧ ((Instr.signalDetect 48).wf = false) ∧ ((Instr.lowerRankWaitExpiry 48).wf = false) ∧
    (∀ a, (Instr.signalLoss 48 a).wf = false) ∧ (∀ a, (Instr.signalLoss a 16).wf = false) ∧ ((Instr.replayTimerExpiry 48).wf = false) ∧
    ((Instr.blSleepEntry 48).wf = false) ∧ ((Instr.blWake 48).wf = false) ∧ ((Instr.blRealignTimeout 48).wf = false) ∧
    ((Instr.neighbourNoticeSend 48).wf = false) ∧ (∀ a, (Instr.directedPacketRelay 48 a).wf = false) ∧
    (∀ a, (Instr.neighbourQuery 48 a).wf = false) ∧ (∀ a, (Instr.neighbourReply 48 a).wf = false) ∧
    (∀ a, (Instr.classCheck 48 a).wf = false) ∧ (∀ a, (Instr.directedMwRequest 48 a).wf = false) ∧
    (∀ a, (Instr.directedMwResponse 48 a).wf = false) ∧ (∀ a, (Instr.directedDownTree 48 a).wf = false) := by
  refine ⟨?_, ?_, ?_, ?_, ?_, ?_, ?_, ?_, ?_, ?_, ?_, ?_, ?_, ?_, ?_, ?_, ?_, ?_, ?_, ?_⟩ <;> intros <;> simp_all [Instr.wf]

theorem test_wf_refuses_commands_8 :
    (∀ a, (Instr.directedUpTree 48 a).wf = false) ∧ (∀ a b c, (Instr.vdspWindowRegisterWrite 48 a b c).wf = false) ∧
    (∀ a b c, (Instr.vdspWindowRegisterWrite a 256 b c).wf = false) ∧
    (∀ a b c, (Instr.vdspWindowRegisterWrite a b c 4294967296).wf = false) ∧ (∀ a, (Instr.windowHoldTimeout 48 a).wf = false) ∧
    (∀ a, (Instr.windowHoldTimeout a 256).wf = false) ∧ (∀ x, x.wf = false → (Instr.busMapUpdate x).wf = false) ∧
    (∀ a, (Instr.handReturnSend 2048 a).wf = false) ∧ (∀ a, (Instr.handReturnSend a 2048).wf = false) ∧
    (∀ a b, (Instr.handReturnReceive 2048 a b).wf = false) ∧ (∀ a, (Instr.fabricTimeout 65536 a).wf = false) ∧
    (∀ a, (Instr.fabricTimeout a 16384).wf = false) ∧ (∀ a, (Instr.fabricQuarantineEnd 65536 a).wf = false) ∧
    (∀ a, (Instr.fabricQuarantineEnd a 16384).wf = false) ∧ ((Instr.lockBrokenNotice 48).wf = false) ∧
    (∀ a b, (Instr.mwRead 2049 a b).wf = false) ∧ (∀ a b c, (Instr.mwWrite 2049 a b c).wf = false) ∧
    (∀ a b c, (Instr.mwWrite a b c 18446744073709551616).wf = false) ∧ (∀ a b, (Instr.mwLockRead 2049 a b).wf = false) ∧
    (∀ a b c, (Instr.mwUnlockWrite 2049 a b c).wf = false) := by
  refine ⟨?_, ?_, ?_, ?_, ?_, ?_, ?_, ?_, ?_, ?_, ?_, ?_, ?_, ?_, ?_, ?_, ?_, ?_, ?_, ?_⟩ <;> intros <;> simp_all [Instr.wf]

theorem test_wf_refuses_commands_9 :
    (∀ a b c, (Instr.mwUnlockWrite a b c 18446744073709551616).wf = false) ∧ (∀ a b c, (Instr.mwResponse 2049 a b c).wf = false) ∧
    (∀ a b c, (Instr.mwResponse a b c 18446744073709551616).wf = false) ∧ (∀ a, (Instr.e2eAckSend 2048 a).wf = false) ∧
    (∀ a, (Instr.e2eAckSend a 8).wf = false) ∧ (∀ a b, (Instr.e2eAckReceive 2048 a b).wf = false) ∧
    (∀ a b, (Instr.e2eAckReceive a 8 b).wf = false) ∧ (∀ a b, (Instr.e2eAckReceive a b 16777216).wf = false) ∧
    (∀ a, (Instr.e2eTimerExpiry 2048 a).wf = false) ∧ (∀ a, (Instr.e2eTimerExpiry a 8).wf = false) ∧
    (∀ a b c, (Instr.fenceWrite 2048 a b c).wf = false) ∧ (∀ a b c, (Instr.fenceWrite a 8 b c).wf = false) ∧
    (∀ a b c, (Instr.fenceWrite a b 2048 c).wf = false) ∧ (∀ a b c, (Instr.fenceWrite a b c 18446744073709551616).wf = false) ∧
    (∀ a b c, (Instr.skipWrite 2048 a b c).wf = false) ∧ (∀ a b c, (Instr.skipWrite a 8 b c).wf = false) ∧
    (∀ a b c, (Instr.skipWrite a b 2048 c).wf = false) ∧ (∀ a b c, (Instr.skipWrite a b c 18446744073709551616).wf = false) ∧
    (∀ a b, (Instr.fencePoll 2048 a b).wf = false) ∧ (∀ a b, (Instr.fencePoll a 2048 b).wf = false) := by
  refine ⟨?_, ?_, ?_, ?_, ?_, ?_, ?_, ?_, ?_, ?_, ?_, ?_, ?_, ?_, ?_, ?_, ?_, ?_, ?_, ?_⟩ <;> intros <;> simp_all [Instr.wf]

theorem test_wf_refuses_commands_10 :
    (∀ a b, (Instr.fencePoll a b 8).wf = false) ∧ (∀ a b, (Instr.fenceTimeout 2048 a b).wf = false) ∧
    (∀ a b, (Instr.fenceTimeout a 2048 b).wf = false) ∧ (∀ a b, (Instr.fenceTimeout a b 8).wf = false) ∧
    (∀ a x, x.wf = false → (Instr.prepare a x).wf = false) ∧ (∀ a x, x.wf = false → (Instr.vote x a).wf = false) ∧
    (∀ a x, x.wf = false → (Instr.goDeal a x).wf = false) ∧ (∀ a x, x.wf = false → (Instr.cancel a x).wf = false) ∧
    (∀ a x, x.wf = false → (Instr.drainMessage a x).wf = false) ∧ (∀ a x, x.wf = false → (Instr.confirm a x).wf = false) ∧
    (∀ a x, x.wf = false → (Instr.release a x).wf = false) ∧ (∀ a b, (Instr.markerReceive 48 a b).wf = false) ∧
    (∀ a x, x.wf = false → (Instr.cut a x).wf = false) ∧ (∀ a x, x.wf = false → (Instr.cutDone a x).wf = false) ∧
    (∀ a x, x.wf = false → (Instr.resetMessage a x).wf = false) ∧ (∀ a, (Instr.collDescriptor 4096 a).wf = false) ∧
    (∀ a, (Instr.collUp 2048 a).wf = false) ∧ (∀ a x, x.wf = false → (Instr.collUp a x).wf = false) ∧
    (∀ a, (Instr.collDown 2048 a).wf = false) ∧ (∀ a x, x.wf = false → (Instr.collDown a x).wf = false) := by
  refine ⟨?_, ?_, ?_, ?_, ?_, ?_, ?_, ?_, ?_, ?_, ?_, ?_, ?_, ?_, ?_, ?_, ?_, ?_, ?_, ?_⟩ <;> intros <;> simp_all [Instr.wf]

theorem test_wf_refuses_commands_11 :
    (∀ a, (Instr.collCredit 2048 a).wf = false) ∧ (∀ a x, x.wf = false → (Instr.collCredit a x).wf = false) ∧
    (∀ a, (Instr.collCreditSend 256 a).wf = false) ∧ (∀ a, (Instr.collCreditSend a 16).wf = false) ∧
    (∀ a, (Instr.collAbort 2048 a).wf = false) ∧ (∀ a x, x.wf = false → (Instr.collAbort a x).wf = false) ∧
    ((Instr.collTimeout 256).wf = false) ∧ ((Instr.groupDisable 256).wf = false) ∧ ((Instr.runDispatch 16).wf = false) ∧
    ((Instr.copyDescriptor 4096).wf = false) ∧ ((Instr.nopDescriptor 4096).wf = false) ∧ (∀ a, (Instr.ld 256 a).wf = false) ∧
    (∀ a x, x.wf = false → (Instr.ld a x).wf = false) ∧ (∀ a, (Instr.st 256 a).wf = false) ∧
    (∀ a x, x.wf = false → (Instr.st a x).wf = false) ∧ (∀ a, (Instr.ldp 256 a).wf = false) ∧
    (∀ a x, x.wf = false → (Instr.ldp a x).wf = false) ∧ (∀ a, (Instr.stp 256 a).wf = false) ∧
    (∀ a x, x.wf = false → (Instr.stp a x).wf = false) ∧ (∀ a, (Instr.vld 256 a).wf = false) := by
  refine ⟨?_, ?_, ?_, ?_, ?_, ?_, ?_, ?_, ?_, ?_, ?_, ?_, ?_, ?_, ?_, ?_, ?_, ?_, ?_, ?_⟩ <;> intros <;> simp_all [Instr.wf]

theorem test_wf_refuses_commands_12 :
    (∀ a x, x.wf = false → (Instr.vld a x).wf = false) ∧ (∀ a, (Instr.vst 256 a).wf = false) ∧
    (∀ a x, x.wf = false → (Instr.vst a x).wf = false) ∧ (∀ a, (Instr.prf 256 a).wf = false) ∧
    (∀ a x, x.wf = false → (Instr.prf a x).wf = false) ∧ (∀ a, (Instr.aadd 256 a).wf = false) ∧
    (∀ a x, x.wf = false → (Instr.aadd a x).wf = false) ∧ (∀ a, (Instr.aand 256 a).wf = false) ∧
    (∀ a x, x.wf = false → (Instr.aand a x).wf = false) ∧ (∀ a, (Instr.aor 256 a).wf = false) ∧
    (∀ a x, x.wf = false → (Instr.aor a x).wf = false) ∧ (∀ a, (Instr.aswp 256 a).wf = false) ∧
    (∀ a x, x.wf = false → (Instr.aswp a x).wf = false) ∧ (∀ a, (Instr.acas 256 a).wf = false) ∧
    (∀ a x, x.wf = false → (Instr.acas a x).wf = false) ∧ (∀ a, (Instr.acasp 256 a).wf = false) ∧
    (∀ a x, x.wf = false → (Instr.acasp a x).wf = false) ∧ (∀ a, (Instr.mov 256 a).wf = false) ∧
    (∀ a x, x.wf = false → (Instr.mov a x).wf = false) ∧ (∀ a, (Instr.movi 256 a).wf = false) := by
  refine ⟨?_, ?_, ?_, ?_, ?_, ?_, ?_, ?_, ?_, ?_, ?_, ?_, ?_, ?_, ?_, ?_, ?_, ?_, ?_, ?_⟩ <;> intros <;> simp_all [Instr.wf]

theorem test_wf_refuses_commands_13 :
    (∀ a x, x.wf = false → (Instr.movi a x).wf = false) ∧ (∀ a, (Instr.movh 256 a).wf = false) ∧
    (∀ a x, x.wf = false → (Instr.movh a x).wf = false) ∧ (∀ a, (Instr.add 256 a).wf = false) ∧
    (∀ a x, x.wf = false → (Instr.add a x).wf = false) ∧ (∀ a, (Instr.addi 256 a).wf = false) ∧
    (∀ a x, x.wf = false → (Instr.addi a x).wf = false) ∧ (∀ a, (Instr.sub 256 a).wf = false) ∧
    (∀ a x, x.wf = false → (Instr.sub a x).wf = false) ∧ (∀ a, (Instr.mul 256 a).wf = false) ∧
    (∀ a x, x.wf = false → (Instr.mul a x).wf = false) ∧ (∀ a, (Instr.andOp 256 a).wf = false) ∧
    (∀ a x, x.wf = false → (Instr.andOp a x).wf = false) ∧ (∀ a, (Instr.orOp 256 a).wf = false) ∧
    (∀ a x, x.wf = false → (Instr.orOp a x).wf = false) ∧ (∀ a, (Instr.xorOp 256 a).wf = false) ∧
    (∀ a x, x.wf = false → (Instr.xorOp a x).wf = false) ∧ (∀ a, (Instr.shl 256 a).wf = false) ∧
    (∀ a x, x.wf = false → (Instr.shl a x).wf = false) ∧ (∀ a, (Instr.shr 256 a).wf = false) := by
  refine ⟨?_, ?_, ?_, ?_, ?_, ?_, ?_, ?_, ?_, ?_, ?_, ?_, ?_, ?_, ?_, ?_, ?_, ?_, ?_, ?_⟩ <;> intros <;> simp_all [Instr.wf]

theorem test_wf_refuses_commands_14 :
    (∀ a x, x.wf = false → (Instr.shr a x).wf = false) ∧ (∀ a, (Instr.slt 256 a).wf = false) ∧
    (∀ a x, x.wf = false → (Instr.slt a x).wf = false) ∧ (∀ a, (Instr.mcpy 256 a).wf = false) ∧
    (∀ a x, x.wf = false → (Instr.mcpy a x).wf = false) ∧ (∀ a, (Instr.mfill 256 a).wf = false) ∧
    (∀ a x, x.wf = false → (Instr.mfill a x).wf = false) ∧ (∀ a, (Instr.vadd 256 a).wf = false) ∧
    (∀ a x, x.wf = false → (Instr.vadd a x).wf = false) ∧ (∀ a, (Instr.vmul 256 a).wf = false) ∧
    (∀ a x, x.wf = false → (Instr.vmul a x).wf = false) ∧ (∀ a, (Instr.vfma 256 a).wf = false) ∧
    (∀ a x, x.wf = false → (Instr.vfma a x).wf = false) ∧ (∀ a, (Instr.vmin 256 a).wf = false) ∧
    (∀ a x, x.wf = false → (Instr.vmin a x).wf = false) ∧ (∀ a, (Instr.vmax 256 a).wf = false) ∧
    (∀ a x, x.wf = false → (Instr.vmax a x).wf = false) ∧ (∀ a, (Instr.vbc 256 a).wf = false) ∧
    (∀ a x, x.wf = false → (Instr.vbc a x).wf = false) ∧ (∀ a, (Instr.vext 256 a).wf = false) := by
  refine ⟨?_, ?_, ?_, ?_, ?_, ?_, ?_, ?_, ?_, ?_, ?_, ?_, ?_, ?_, ?_, ?_, ?_, ?_, ?_, ?_⟩ <;> intros <;> simp_all [Instr.wf]

theorem test_wf_refuses_commands_15 :
    (∀ a x, x.wf = false → (Instr.vext a x).wf = false) ∧ (∀ a, (Instr.acz 256 a).wf = false) ∧
    (∀ a x, x.wf = false → (Instr.acz a x).wf = false) ∧ (∀ a, (Instr.aca 256 a).wf = false) ∧
    (∀ a x, x.wf = false → (Instr.aca a x).wf = false) ∧ (∀ a, (Instr.acr 256 a).wf = false) ∧
    (∀ a x, x.wf = false → (Instr.acr a x).wf = false) ∧ (∀ a, (Instr.waitOp 256 a).wf = false) ∧
    (∀ a x, x.wf = false → (Instr.waitOp a x).wf = false) ∧ (∀ a, (Instr.waitMet 256 a).wf = false) ∧
    ((Instr.waitTimeout 256).wf = false) ∧ (∀ a, (Instr.sig 256 a).wf = false) ∧ (∀ a x, x.wf = false → (Instr.sig a x).wf = false) ∧
    (∀ a, (Instr.irq 256 a).wf = false) ∧ (∀ a x, x.wf = false → (Instr.irq a x).wf = false) ∧ (∀ a, (Instr.b 256 a).wf = false) ∧
    (∀ a x, x.wf = false → (Instr.b a x).wf = false) ∧ (∀ a, (Instr.bz 256 a).wf = false) ∧
    (∀ a x, x.wf = false → (Instr.bz a x).wf = false) ∧ (∀ a, (Instr.bnz 256 a).wf = false) := by
  refine ⟨?_, ?_, ?_, ?_, ?_, ?_, ?_, ?_, ?_, ?_, ?_, ?_, ?_, ?_, ?_, ?_, ?_, ?_, ?_, ?_⟩ <;> intros <;> simp_all [Instr.wf]

theorem test_wf_refuses_commands_16 :
    (∀ a x, x.wf = false → (Instr.bnz a x).wf = false) ∧ (∀ a, (Instr.call 256 a).wf = false) ∧
    (∀ a x, x.wf = false → (Instr.call a x).wf = false) ∧ (∀ a, (Instr.ret 256 a).wf = false) ∧
    (∀ a x, x.wf = false → (Instr.ret a x).wf = false) ∧ (∀ a, (Instr.endOp 256 a).wf = false) ∧
    (∀ a x, x.wf = false → (Instr.endOp a x).wf = false) ∧ (∀ a, (Instr.barEngine 256 a).wf = false) ∧
    (∀ a x, x.wf = false → (Instr.barEngine a x).wf = false) ∧ (∀ a, (Instr.barCluster 256 a).wf = false) ∧
    (∀ a x, x.wf = false → (Instr.barCluster a x).wf = false) ∧ (∀ a, (Instr.barSystem 256 a).wf = false) ∧
    (∀ a x, x.wf = false → (Instr.barSystem a x).wf = false) ∧ (∀ a, (Instr.systemBarrierComplete 256 a).wf = false) ∧
    (∀ a, (Instr.deviceLoadReturn 256 a).wf = false) ∧ (∀ a, (Instr.prefetchEntryExpiry 256 a).wf = false) ∧
    (∀ a, (Instr.engineSample 256 a).wf = false) ∧ (∀ a x, x.wf = false → (Instr.read x a).wf = false) ∧
    (∀ a, (Instr.read a [⟨65536, 0, 0⟩]).wf = false) ∧ (∀ a x, x.wf = false → (Instr.write x a).wf = false) := by
  refine ⟨?_, ?_, ?_, ?_, ?_, ?_, ?_, ?_, ?_, ?_, ?_, ?_, ?_, ?_, ?_, ?_, ?_, ?_, ?_, ?_⟩ <;> intros <;> simp_all [Instr.wf, EntryRef.wf]

theorem test_wf_refuses_commands_17 :
    (∀ a, (Instr.write a [⟨⟨65536, 0, 0⟩, .num 0⟩]).wf = false) ∧ (∀ a x, x.wf = false → (Instr.describe x a).wf = false) ∧
    (∀ a x, x.wf = false → (Instr.describe a x).wf = false) ∧ (∀ a x, x.wf = false → (Instr.subscribe x a).wf = false) ∧
    (∀ a x, x.wf = false → (Instr.notifyAck x a).wf = false) ∧ (∀ x, x.wf = false → (Instr.keepalive x).wf = false) ∧
    (∀ a b x, x.wf = false → (Instr.openSession x a b).wf = false) ∧ (∀ a b, (Instr.openSession a 16 b).wf = false) ∧
    (∀ a x, x.wf = false → (Instr.proof x a).wf = false) ∧ (∀ x, x.wf = false → (Instr.closeSession x).wf = false) ∧
    ((Instr.keySlotUnlock 16).wf = false) ∧ ((Instr.eventNoticeSend 2304).wf = false) ∧
    (∀ x, x.wf = false → (Instr.continueCmd x).wf = false) ∧ (∀ x, x.wf = false → (Instr.drain x).wf = false) ∧
    (∀ a x, x.wf = false → (Instr.maintain x a).wf = false) ∧ (∀ x, x.wf = false → (Instr.resume x).wf = false) ∧
    (∀ x, x.wf = false → (Instr.abortDrain x).wf = false) ∧ (∀ x, x.wf = false → (Instr.mgmtReset x).wf = false) ∧
    (∀ a b x, x.wf = false → (Instr.loadDataWrite x a b).wf = false) ∧ (∀ a b x, x.wf = false → (Instr.loadOffsetWrite x a b).wf = false) := by
  refine ⟨?_, ?_, ?_, ?_, ?_, ?_, ?_, ?_, ?_, ?_, ?_, ?_, ?_, ?_, ?_, ?_, ?_, ?_, ?_, ?_⟩ <;> intros <;> simp_all [Instr.wf, EntryRef.wf]

theorem test_wf_refuses_commands_18 :
    (∀ x, x.wf = false → (Instr.eqOpen x).wf = false) ∧ (∀ x, x.wf = false → (Instr.eqCommit x).wf = false) ∧
    (∀ a b x, x.wf = false → (Instr.marginCmd x a b).wf = false) ∧ (∀ a b, (Instr.marginCmd a 48 b).wf = false) ∧
    (∀ a b, (Instr.marginDone 48 a b).wf = false) ∧ (∀ a x, x.wf = false → (Instr.dpcCmd x a).wf = false) ∧
    (∀ a, (Instr.dpcCmd a 48).wf = false) ∧ (∀ a x, x.wf = false → (Instr.atnCmd x a).wf = false) ∧ (∀ a, (Instr.atnCmd a 48).wf = false) ∧
    (∀ a b c x, x.wf = false → (Instr.resAddQueues x a b c).wf = false) ∧ (∀ a b c, (Instr.resAddQueues a 48 b c).wf = false) ∧
    (∀ a b c, (Instr.resAddQueues a b 1025 c).wf = false) ∧ (∀ a b c x, x.wf = false → (Instr.resRevokeQueues x a b c).wf = false) ∧
    (∀ a b c, (Instr.resRevokeQueues a 48 b c).wf = false) ∧ (∀ a b c, (Instr.resRevokeQueues a b 1025 c).wf = false) ∧
    (∀ a b c x, x.wf = false → (Instr.resSetVectors x a b c).wf = false) ∧ (∀ a b c, (Instr.resSetVectors a 48 b c).wf = false) ∧
    (∀ a b c, (Instr.resSetVectors a b 1025 c).wf = false) ∧ (∀ a b c x, x.wf = false → (Instr.resSetEngineWeight x a b c).wf = false) ∧
    (∀ a b c, (Instr.resSetEngineWeight a 48 b c).wf = false) := by
  refine ⟨?_, ?_, ?_, ?_, ?_, ?_, ?_, ?_, ?_, ?_, ?_, ?_, ?_, ?_, ?_, ?_, ?_, ?_, ?_, ?_⟩ <;> intros <;> simp_all [Instr.wf]

theorem test_wf_refuses_commands_19 :
    (∀ a b c, (Instr.resSetEngineWeight a b 1025 c).wf = false) ∧ (∀ a b c x, x.wf = false → (Instr.resSetFlow x a b c).wf = false) ∧
    (∀ a b c, (Instr.resSetFlow a 48 b c).wf = false) ∧ (∀ a b c, (Instr.resSetFlow a b 1025 c).wf = false) ∧
    (∀ x, x.wf = false → (Instr.schedCommit x).wf = false) ∧ (∀ a x, x.wf = false → (Instr.regValWrite x a).wf = false) ∧
    (∀ a, (Instr.regValWrite a 18446744073709551616).wf = false) ∧ (∀ a x, x.wf = false → (Instr.cutCmd x a).wf = false) ∧
    (∀ a x, x.wf = false → (Instr.directedSend x a).wf = false) ∧ (∀ a x, x.wf = false → (Instr.keyOpen x a).wf = false) ∧
    (∀ a, (Instr.keyOpen a 16).wf = false) ∧ (∀ a b x, x.wf = false → (Instr.keyCommit x a b).wf = false) ∧
    (∀ a b, (Instr.keyCommit a 16 b).wf = false) ∧ (∀ a b, (Instr.keyCommit a b 4).wf = false) ∧
    (∀ a x, x.wf = false → (Instr.keyErase x a).wf = false) ∧ (∀ a, (Instr.keyErase a 16).wf = false) ∧
    (∀ a x, x.wf = false → (Instr.reportCmd x a).wf = false) ∧ (∀ a, (Instr.reportCmd a []).wf = false) ∧
    (∀ a b x, x.wf = false → (Instr.progOpen x a b).wf = false) ∧ (∀ a b, (Instr.progOpen a 256 b).wf = false) := by
  refine ⟨?_, ?_, ?_, ?_, ?_, ?_, ?_, ?_, ?_, ?_, ?_, ?_, ?_, ?_, ?_, ?_, ?_, ?_, ?_, ?_⟩ <;> intros <;> simp_all [Instr.wf]

theorem test_wf_refuses_commands_20 :
    (∀ a b, (Instr.progOpen a b 48).wf = false) ∧ (∀ a x, x.wf = false → (Instr.progCommit x a).wf = false) ∧
    (∀ a, (Instr.progCommit a 256).wf = false) ∧ ((Instr.programMeasured 256).wf = false) ∧
    (∀ a x, x.wf = false → (Instr.progRetire x a).wf = false) ∧ (∀ a, (Instr.progRetire a 256).wf = false) ∧
    (∀ a x, x.wf = false → (Instr.fwOpen x a).wf = false) ∧ (∀ a, (Instr.fwOpen a 5).wf = false) ∧
    (∀ a x, x.wf = false → (Instr.fwCommit x a).wf = false) ∧ (∀ a, (Instr.fwCommit a 5).wf = false) ∧
    (∀ a x, x.wf = false → (Instr.raiseSvn x a).wf = false) ∧ (∀ a, (Instr.raiseSvn a 5).wf = false) ∧
    (∀ x, x.wf = false → (Instr.peClear x).wf = false) ∧ (∀ a x, x.wf = false → (Instr.clusterReset x a).wf = false) ∧
    (∀ a, (Instr.clusterReset a 16).wf = false) ∧ (∀ a, (Instr.timeSync 48 a).wf = false) ∧
    (∀ a, (Instr.timeSync a 4294967296).wf = false) ∧ (∀ a, (Instr.timeReport 48 a).wf = false) ∧
    (∀ a, (Instr.timeReport a 4294967296).wf = false) ∧ (∀ a, (Instr.timeHigh 48 a).wf = false) := by
  refine ⟨?_, ?_, ?_, ?_, ?_, ?_, ?_, ?_, ?_, ?_, ?_, ?_, ?_, ?_, ?_, ?_, ?_, ?_, ?_, ?_⟩ <;> intros <;> simp_all [Instr.wf]

theorem test_wf_refuses_commands_21 :
    (∀ a, (Instr.timeHigh a 4294967296).wf = false) ∧ (∀ a, (Instr.timeTop 48 a).wf = false) ∧
    (∀ a, (Instr.timeTop a 4294967296).wf = false) ∧ (∀ a, (Instr.timeState 48 a).wf = false) ∧
    (∀ a, (Instr.timeState a 4294967296).wf = false) ∧ (∀ a b, (Instr.timeRoot 48 a b).wf = false) ∧
    (∀ a b, (Instr.timeRoot a b 4294967296).wf = false) ∧ ((Instr.timeExchangeInterval 48).wf = false) ∧
    ((Instr.timeDescriptorExpiry 48).wf = false) ∧ ((Instr.timePortLoss 48).wf = false) ∧ ((Instr.ptmHostRequest 48).wf = false) ∧
    (∀ a, (Instr.ptmHostResponse 48 a).wf = false) ∧ (∀ a, (Instr.dieTempReading 5 a).wf = false) ∧
    (∀ a, (Instr.remeasure 8 a).wf = false) ∧ ((Instr.imageMeasure 8).wf = false) ∧ ((Instr.vsHotReset 48).wf = false) ∧
    ((Instr.hostPerstAssert 48).wf = false) ∧ ((Instr.hostPerstRelease 48).wf = false) ∧ (∀ a, (Instr.feedUsable 2 a).wf = false) ∧
    (∀ a b, (Instr.feedLost 2 a b).wf = false) := by
  refine ⟨?_, ?_, ?_, ?_, ?_, ?_, ?_, ?_, ?_, ?_, ?_, ?_, ?_, ?_, ?_, ?_, ?_, ?_, ?_, ?_⟩ <;> intros <;> simp_all [Instr.wf]

theorem test_wf_refuses_commands_22 :
    (∀ a, (Instr.fastTrip 2 a).wf = false) ∧ (∀ a b, (Instr.breakerTrip 2 a b).wf = false) ∧ ((Instr.slotSoftStart 8).wf = false) ∧
    (∀ a, (Instr.slotPowerGood 8 a).wf = false) ∧ ((Instr.slotStartTimeout 8).wf = false) ∧ (∀ a, (Instr.slotFastTrip 8 a).wf = false) ∧
    (∀ a, (Instr.slotFaultTimeTrip 8 a).wf = false) ∧ (∀ a, (Instr.slotVoutTrip 8 a).wf = false) ∧ ((Instr.slotRetryEnd 8).wf = false) ∧
    ((Instr.slotCountRestart 8).wf = false) ∧ ((Instr.slotPresenceLoss 8).wf = false) ∧ (∀ a, (Instr.slotSag 8 a).wf = false) ∧
    (∀ a, (Instr.slotPfwRelease 8 a).wf = false) ∧ ((Instr.receiverAligned 48).wf = false) ∧ ((Instr.prbsCheckerLock 192).wf = false) ∧
    ((Instr.l1Exit 48).wf = false) ∧ (∀ a b c, (Instr.pcieCreditUpdate 48 a b c).wf = false) ∧
    (∀ a b c, (Instr.pcieCreditUpdate a 3 b c).wf = false) ∧ (∀ a, (Instr.storeVisible 256 a).wf = false) ∧
    (∀ a b, (Instr.accessComplete 256 a b).wf = false) := by
  refine ⟨?_, ?_, ?_, ?_, ?_, ?_, ?_, ?_, ?_, ?_, ?_, ?_, ?_, ?_, ?_, ?_, ?_, ?_, ?_, ?_⟩ <;> intros <;> simp_all [Instr.wf]

theorem test_wf_refuses_commands_23 :
    (∀ a b, (Instr.copyComplete 4096 a b).wf = false) := by
  intros <;> simp_all [Instr.wf]

/-! What the statements assume is met -/

/-- What EveryCommandAnswers assumes is met, and LPDDR4X_ACCESS stops past the end alone. -/
theorem test_meets_EveryCommandAnswers : (∃ c : Instr, ∀ p w a l b, c ≠ .lpddr4xAccess p w a l b) ∧
    (exec (.lpddr4xAccess .data true memTop 0 [1]) { pending := [], dev := dv } = .fault (.noSuchAddress memTop)) ∧
    (∃ t, exec (.lpddr4xAccess .data true (memTop - 1) 0 [1]) { pending := [], dev := dv } = .next t) :=
  ⟨⟨.eccInitComplete, by intro p w a l b h; cases h⟩, rfl, ⟨_, rfl⟩⟩

/-- What OffSwitchIgnoresCommands assumes is met. -/
theorem test_meets_OffSwitchIgnoresCommands : ∃ (c : Instr) (s : State), s.dev.svc.state = stOff ∧ c.ofController = false :=
  ⟨.eccInitComplete, { pending := [], dev := { dv with svc.state := 0 } }, by decide +kernel⟩

/-- What SoundnessIsKept assumes is met. -/
theorem test_meets_SoundnessIsKept : ∃ s t : State, s.Sound ∧ step s = .next t :=
  ⟨State.reset, _, by unfold State.Sound; exact ⟨by unfold Dev.Sound SoundParts; decide +kernel, by decide +kernel⟩, rfl⟩

/-- What ReservedOffsetsHaveNoEffect assumes is met: at the last word below a half, in a half, past a block, and in a BAR. -/
theorem test_meets_ReservedOffsetsHaveNoEffect :
    (∃ (p : Plane) (code off : Nat) (s : Dev), s.On ∧ p ≠ .data ∧ s.portHeld p (.blk code off) = false ∧ ¬ (code = 7 ∧ offStaged ≤ off) ∧ regAt code off = none) ∧
    (∃ (p : Plane) (code off : Nat) (s : Dev), s.On ∧ p ≠ .data ∧ s.portHeld p (.blk code off) = false ∧ (code = 7 ∧ offStaged ≤ off) ∧
      halfMask (off % halfSize) = 0 ∧ regAt code off = none) ∧
    (∃ (vs fn b off : Nat) (s : Dev), s.On ∧ s.barOpen vs fn = true ∧ s.barAt vs fn b off = .none) :=
  ⟨⟨.control, 7, 0xFFFFC, dv, by decide +kernel⟩, ⟨.management, 7, 0x100014, dv, by decide +kernel⟩,
    ⟨0, 0, 2, 0xFFFFC, rv.modSfn 0 0 fun f => { f with cfg := { f.cfg with cmd := 2 } }, by decide +kernel, by decide +kernel, rfl⟩⟩

/-- What GatesOpenWhileDisabled assumes is met. -/
theorem test_meets_GatesOpenWhileDisabled : ∃ (s : Dev) (n c : Nat) (p : Pkt), s.fbit Fld.SCH_PORT_W.GEN n = false ∧ p.egr = n ∧ p.cc = c ∧ tfind s.sch.armed n = none :=
  ⟨dv, 0, 0, {}, by decide +kernel⟩

/-- What HatchBitsBelongToTheirPlanes assumes is met. -/
theorem test_meets_HatchBitsBelongToTheirPlanes : ∃ (a : Nat) (s : Dev), s.On ∧ a < 57 ∧ tabove 0 s.regs = true :=
  ⟨56, dv, by decide +kernel⟩

/-- What CombiningIgnoresOrder assumes is met. -/
theorem test_meets_CombiningIgnoresOrder : ∃ l r : List (Nat × TreeMsg), l ≠ r ∧ l.Perm r :=
  ⟨[(1, {}), (2, {})], [(2, {}), (1, {})], by decide, List.Perm.swap ..⟩

/-- What EnvelopeReadsBack assumes is met, at each field's greatest value. -/
theorem test_meets_EnvelopeReadsBack : ∃ e : Env, e.dgpa < 131072 ∧ e.sgpa < 131072 ∧ e.vs < 64 ∧ e.oc < 8 ∧ e.typ < 4 ∧ e.ep < 2 ∧
    e.eseq < 2 ^ 24 ∧ e.tlen < 8192 ∧ e.dl < 2 ^ 32 :=
  ⟨⟨131071, 131071, 63, 7, 3, 1, true, true, 2 ^ 24 - 1, 8191, true, 2 ^ 32 - 1⟩, by decide +kernel⟩

/-- What TreeMessageReadsBack assumes is met. -/
theorem test_meets_TreeMessageReadsBack : ∃ m : TreeMsg, m.wf = true :=
  ⟨⟨0x19, 255, 65535, 4294967295, 18446744073709551615, 65535, 65535⟩, by decide +kernel⟩

/-- What FlitsReadBack assumes is met, at each field's greatest value. -/
theorem test_meets_FlitsReadBack : ∃ h : FlitHdr, h.typ < 16 ∧ h.seq < 16384 ∧ h.ack < 16384 ∧ h.ep < 2 ∧ h.cc < 8 ∧ h.len < 256 ∧
    h.cpool < 4 ∧ h.cred < 65536 ∧ h.sub < 32 ∧ h.info < 2 ^ 24 :=
  ⟨⟨15, 16383, 16383, true, 1, 7, true, true, true, true, 255, 3, 65535, 31, 2 ^ 24 - 1⟩, by decide +kernel⟩

/-- What FlagsOfContributions assumes is met. -/
theorem test_meets_FlagsOfContributions : ∃ t : Nat, typInt t = false := ⟨4, by decide +kernel⟩

/-- What IntegerSumsSaturate assumes is met. -/
theorem test_meets_IntegerSumsSaturate : ∃ (t : Nat) (a : AccV), typInt t = true ∧ a.headroom = false := ⟨0, { sum := 2 ^ 40 }, by decide +kernel⟩

/-- What ReductionsIgnoreOrder assumes is met. -/
theorem test_meets_ReductionsIgnoreOrder : ∃ l r : List Nat, l ≠ r ∧ l.Perm r := ⟨[1, 2], [2, 1], by decide, List.Perm.swap ..⟩

/-- What RegisterOperationsKeepTheRest assumes is met. -/
theorem test_meets_RegisterOperationsKeepTheRest : ∃ (e : Nat) (w : OpWord) (s : Dev), s.On ∧ w.m = 0 ∧ s.MayIssue 0x23 e w [w.a, w.b, w.d] [] :=
  ⟨64, { d := 1, a := 2, b := 3 }, evw 0x23 { d := 1, a := 2, b := 3 }, by decide +kernel⟩

/-- What VectorOperationsKeepTheRest assumes is met, by a lane operation and by VBC. -/
theorem test_meets_VectorOperationsKeepTheRest : (∃ (e : Nat) (w : OpWord) (s : Dev), s.On ∧ w.m < 5 ∧ w.d < 8 ∧
    s.MayIssue 0x40 e w [] [w.a, w.b, w.d] ∧ w.a < 8 ∧ w.b < 8) ∧
    ∃ (e : Nat) (w : OpWord) (s : Dev), s.On ∧ w.m < 5 ∧ w.d < 8 ∧ s.MayIssue 0x45 e w [w.a] [w.d] :=
  ⟨⟨64, { d := 7, a := 2, b := 3, m := 4 }, evw 0x40 { d := 7, a := 2, b := 3, m := 4 }, by decide +kernel⟩,
    ⟨64, { d := 7, a := 2, m := 4 }, evw 0x45 { d := 7, a := 2, m := 4 }, by decide +kernel⟩⟩

/-- What EngineRunsTheWordAtItsPc assumes is met: at another operation's word, at an unassigned code, and past the last word. -/
theorem test_meets_EngineRunsTheWordAtItsPc : (∃ (op : Nat) (w : OpWord), op < 256 ∧ w.wf = true) ∧ (∃ x : Nat, x < 2 ^ 64) ∧
    (∃ (e : Nat) (s : Dev), s.On ∧ s.canIssue e = true ∧ (s.wordAt e).map opWordOf = some (0x24, ({ d := 15 } : OpWord))) ∧
    (∃ (e : Nat) (s : Dev), s.On ∧ s.canIssue e = true ∧ ∃ x, (s.wordAt e).map opWordOf = some x ∧ opAssigned x.1 = false) ∧
    ∃ (e : Nat) (s : Dev), s.On ∧ s.canIssue e = true ∧ s.wordAt e = none :=
  ⟨⟨255, ⟨15, 15, 15, 15, 255, 4294967295⟩, by decide +kernel⟩, ⟨18446744073709551615, by decide⟩, ⟨64, evw 0x24 { d := 15 }, by decide +kernel⟩,
    ⟨64, evw 0x79 {}, by decide +kernel, by decide +kernel, (0x79, {}), by decide +kernel⟩,
    ⟨64, { ev with eng.progs := [] }, by decide +kernel⟩⟩

/-- What Lpddr4xAccessTouchesItsBytes assumes is met, with a write that is allowed and one that is blocked. -/
theorem test_meets_Lpddr4xAccessTouchesItsBytes : ∃ (p : Plane) (a l : Nat) (b : List Byte) (s : Dev), (s.On ∧ s.Sound ∧ a + b.length ≤ memTop ∧
    a + l ≤ memTop) ∧ memBlocked p true a b.length = none ∧ memBlocked .control true a b.length ≠ none :=
  ⟨.data, memTop - 1, 1, [7], dv, ⟨by decide +kernel, by unfold Dev.Sound SoundParts; decide +kernel, by decide +kernel, by decide +kernel⟩,
    by decide +kernel, by decide +kernel⟩

/-- What StoresTouchTheirBytes assumes is met. -/
theorem test_meets_StoresTouchTheirBytes :
    (∃ (e seq o : Nat) (t : StoreE) (s : Dev), s.On ∧ s.Sound ∧ (s.en e).sb.find? (fun t => t.seq == seq) = some t ∧ (s.en e).storeReady t = true ∧
      t.tgt = .sram o) ∧
    (∃ (e seq a : Nat) (t : StoreE) (s : Dev), s.On ∧ s.Sound ∧ (s.en e).sb.find? (fun t => t.seq == seq) = some t ∧ (s.en e).storeReady t = true ∧
      t.tgt = .mem a) :=
  ⟨⟨64, 3, 0x80000, ⟨3, .sram 0x80000, [1]⟩, { ev with eng.eng := [(64, { run := some 0, sb := [⟨3, .sram 0x80000, [1]⟩] })] },
    by decide +kernel, by unfold Dev.Sound SoundParts; decide +kernel, by decide +kernel, by decide +kernel, rfl⟩,
   ⟨64, 3, 0xF0000000, ⟨3, .mem 0xF0000000, [1]⟩, { ev with eng.eng := [(64, { run := some 0, sb := [⟨3, .mem 0xF0000000, [1]⟩] })] },
    by decide +kernel, by unfold Dev.Sound SoundParts; decide +kernel, by decide +kernel, by decide +kernel, rfl⟩⟩

/-- What FailedWritesStoreNothing assumes is met: the second entry fails. -/
theorem test_meets_FailedWritesStoreNothing : ∃ (h : ReqHdr) (x : Sess) (es : List EntryWrite) (r : Nat × EntryWrite × Nat) (s : Dev), s.On ∧ s.Asks h x ∧
    s.xing.farLock = none ∧ es ≠ [] ∧ es.length ≤ 32 ∧ (s.heard h).checkAll h.sess es [] es = some r :=
  ⟨{ sess := .mctp 8 }, { key := .mctp 8 }, [⟨⟨0x2002, 1, ObjTyp.u32.code⟩, .num 500⟩, ⟨⟨0x2001, 1, ObjTyp.u16.code⟩, .num 4⟩],
    (2, ⟨⟨0x2001, 1, ObjTyp.u16.code⟩, .num 4⟩, 0x0401), dv, by decide +kernel⟩

/-- What RepeatedRequestsAreAnsweredAgain assumes is met. -/
theorem test_meets_RepeatedRequestsAreAnsweredAgain : ∃ (h : ReqHdr) (x : Sess) (s : Dev), s.On ∧ s.reachable = true ∧ s.mayAsk h.sess = true ∧ s.svc.inbox = [] ∧
    s.open? h.sess = some x ∧ x.from? h = true ∧ badTag h = false ∧ s.reqPending h.sess = false ∧ x.last < 2 ^ 32 ∧ h.seq = x.last ∧ x.stored.1 ≠ 0 :=
  ⟨{ sess := .mctp 8, seq := 7 }, { key := .mctp 8, last := 7, stored := (2, 0, [255]) },
    { dv with svc.sess := [{ key := .mctp 8, last := 7, stored := (2, 0, [255]) }] }, by decide +kernel⟩

/-- What FiveFailuresLockAKeySlot assumes is met: four failures, three, and an OPEN. -/
theorem test_meets_FiveFailuresLockAKeySlot :
    (∃ (slot : Nat) (s : Dev), slot < 16 ∧ 4 ≤ ((s.keySlot slot).fails.filter fun t => decide (s.now < t + 60 * tSec)).length) ∧
    (∃ (slot : Nat) (s : Dev), slot < 16 ∧ ((s.keySlot slot).fails.filter fun t => decide (s.now < t + 60 * tSec)).length < 4) ∧
    (∃ (h : ReqHdr) (i slot : Nat) (body : List Byte) (s : Dev), s.On ∧ s.reachable = true ∧ s.svc.inbox = [] ∧ s.mayAsk h.sess = true ∧ h.sess = .udp i ∧ h.fault = 0 ∧ h.version = 1 ∧
      body.length = 1216 ∧ (s.keySlot slot).till.isSome = true) :=
  ⟨⟨15, { dv with svc.keys := [(15, { fails := [0, 0, 0, 0] })] }, by decide +kernel⟩, ⟨15, { dv with svc.keys := [(15, { fails := [0, 0, 0] })] }, by decide +kernel⟩,
    ⟨{ sess := .udp 0 }, 0, 15, List.replicate 1216 0, { dv with svc.keys := [(15, { till := some 1 })] }, by decide +kernel, by decide +kernel, by decide +kernel, by decide +kernel, by decide +kernel,
      by decide +kernel, by decide +kernel, List.length_replicate .., by decide +kernel⟩⟩

/-- What WritesStoreByAccessCode assumes is met. -/
theorem test_meets_WritesStoreByAccessCode : ∃ (r : Reg) (old : Nat) (f : Field), old < 2 ^ 64 ∧ f ∈ (regInfo r).fields :=
  ⟨.ARB_HATCH, 2 ^ 64 - 1, ((regInfo .ARB_HATCH).fields.head (by decide)), by decide, List.head_mem _⟩

/-- What OnlyPowerGoodLeavesOff assumes is met. -/
theorem test_meets_OnlyPowerGoodLeavesOff : ∃ (c : Instr) (s t : State), s.dev.svc.state = stOff ∧ c ≠ .powerGood ∧ exec c s = .next t :=
  ⟨.latchRelease, { pending := [], dev := { dv with svc.state := 0 } }, _, by decide +kernel, (fun h => by cases h), rfl⟩

/-- What FabricTimeAdvancesWithinItsSlew assumes is met. -/
theorem test_meets_FabricTimeAdvancesWithinItsSlew : ∃ s : Dev, s.tel.slew = 0 ∧ s.tel.slewAcc = 0 := ⟨dv, by decide +kernel⟩

/-- What MinimumSvnOnlyRises assumes is met. -/
theorem test_meets_MinimumSvnOnlyRises : ∃ (kind : Nat) (s : Dev), kind < 5 ∧ s.trust.minSvn.length = 5 := ⟨4, dv, by decide +kernel⟩

/-- What CancelReturnsToIdle assumes is met, by a switch in PREPARED and by one in IDLE. -/
theorem test_meets_CancelReturnsToIdle : ∃ (src : TreeSrc) (m : TreeMsg) (s i : Dev), (s.On ∧ tabove 0 s.regs = true ∧ m.kind = 0x13 ∧
    s.treeAccept src = true ∧ s.fget Fld.DL_DEAL_STAT.TERM 0 ≤ m.term ∧ s.preparedFor m.epoch = true) ∧
    (i.On ∧ tabove 0 i.regs = true ∧ i.treeAccept src = true ∧ i.fget Fld.DL_DEAL_STAT.TERM 0 ≤ m.term ∧ i.fget Fld.DL_DEAL_STAT.STATE 0 ≠ 1) :=
  ⟨.external, { kind := 19, term := 1, epoch := 1 }, { rv.fset Fld.DL_DEAL_STAT.STATE 0 1 with dl.prepEpoch := some 1 }, rv, by decide +kernel⟩

/-- What ResultsAreReadOnceEnded assumes is met, with the action running and with none accepted. -/
theorem test_meets_ResultsAreReadOnceEnded : ∃ (h : ReqHdr) (x : Sess) (e : EntryRef) (r : ObjRow) (s i : Dev), (s.On ∧ s.Asks h x ∧
    s.xing.farLock = none ∧ isResult e.index e.sub = true ∧ (s.heard h).readCheck { x with at_ := s.now } e = .inl r ∧
    (s.cmdSt e.index (e.sub - 1)).running = true) ∧ (i.On ∧ i.Asks h x ∧ i.xing.farLock = none ∧
    (i.heard h).readCheck { x with at_ := i.now } e = .inl r ∧ (i.cmdSt e.index (e.sub - 1)).running = false ∧
    (i.cmdSt e.index (e.sub - 1)).rseq = 0) :=
  ⟨{ sess := .mctp 8 }, { key := .mctp 8 }, { index := 0x2001, sub := 2, typ := ObjTyp.octets.code }, (objRow 0x2001 2).get (by decide +kernel),
    dv.cmdStart 0x2001 1 1, dv,
    ⟨by decide +kernel, by decide +kernel, by decide +kernel, by decide +kernel, rfl, by decide +kernel⟩, ⟨by decide +kernel, by decide +kernel, by decide +kernel, rfl, by decide +kernel, by decide +kernel⟩⟩

/-- What RegisterAndMemoryAccessCompletes assumes is met. -/
theorem test_meets_RegisterAndMemoryAccessCompletes :
    (∃ (p : Plane) (code off v inst : Nat) (r : Reg) (s : Dev), (s.On) ∧ (s.portHeld p (.blk code off) = false) ∧ (p ≠ .data) ∧ (regAt code off = some (r, inst, 0)) ∧ ((regInfo r).width = 64) ∧ (r.plain = true) ∧ (s.regBlocked r inst = false)) ∧
    (∃ (p : Plane) (code off v inst byte : Nat) (r : Reg) (s : Dev), (s.On) ∧ (s.portHeld p (.blk code off) = false) ∧ (p ≠ .data) ∧ (¬ (code = 7 ∧ offStaged ≤ off)) ∧ (regAt code off = some (r, inst, byte)) ∧ (halfReg r = false) ∧ (r.plain = true) ∧ (s.regBlocked r inst = false)) ∧
    (∃ (p : Plane) (code off v inst byte : Nat) (r : Reg) (s : Dev), (s.On) ∧ (s.portHeld p (.blk code off) = false) ∧ (p ≠ .data) ∧ (¬ (code = 7 ∧ offStaged ≤ off)) ∧ (regAt code off = some (r, inst, byte)) ∧ (halfReg r = false) ∧ (r.plain = true) ∧ (s.regBlocked r inst = true)) ∧
    (∃ (p : Plane) (code off v : Nat) (s : Dev), (s.On) ∧ (s.portHeld p (.blk code off) = false) ∧ (p ≠ .data)) ∧
    (∃ (p : Plane) (code off v : Nat) (s : Dev), (s.On) ∧ (s.portHeld p (.blk code off) = false) ∧ (p ≠ .data)) ∧
    (∃ (p : Plane) (code off v : Nat) (s : Dev), (s.On) ∧ (s.portHeld p (.blk code off) = false) ∧ (p ≠ .data)) ∧
    (∃ (vs fn b off v : Nat) (s : Dev), (s.On)) ∧
    (∃ (p : Plane) (code off v : Nat) (part : RegPart) (s : Dev), (s.On) ∧ (s.portHeld p (.blk code off) = true)) ∧
    (∃ (p : Plane) (code off inst : Nat) (r : Reg) (s : Dev), (s.On) ∧ (s.portHeld p (.blk code off) = false) ∧ (p ≠ .data) ∧ (regAt code off = some (r, inst, 0)) ∧ ((regInfo r).width = 64)) ∧
    (∃ (p : Plane) (code off inst byte : Nat) (r : Reg) (s : Dev), (s.On) ∧ (s.portHeld p (.blk code off) = false) ∧ (p ≠ .data) ∧ (¬ (code = 7 ∧ offStaged ≤ off)) ∧ (regAt code off = some (r, inst, byte)) ∧ ((regInfo r).width = 32) ∧ (halfReg r = false)) ∧
    (∃ (p : Plane) (code off : Nat) (s : Dev), (s.On) ∧ (s.portHeld p (.blk code off) = false) ∧ (p ≠ .data)) ∧
    (∃ (vs fn b off inst : Nat) (r : Reg) (s : Dev), (s.On) ∧ (s.barOpen vs fn = true) ∧ (s.barAt vs fn b off = .reg r inst 0) ∧ ((regInfo r).width = 64)) ∧
    (∃ (p : Plane) (code off : Nat) (s : Dev), (s.On) ∧ (s.portHeld p (.blk code off) = true)) ∧
    (∃ (r : Reg) (inst : Nat) (s : Dev), (s.On) ∧ (eventRecord r = true) ∧ (inst < (regInfo r).n1 * (regInfo r).n2)) ∧
    (∃ (r : Reg) (inst a b : Nat) (s : Dev), (s.On) ∧ (eventRecord r = true) ∧ (eventTwin r = none) ∧ (inst < (regInfo r).n1 * (regInfo r).n2)) ∧
    (∃ (p : Plane) (addr len : Nat) (data : List Byte) (s : Dev), (s.On) ∧ (addr + data.length ≤ memTop) ∧ (memBlocked p true addr data.length = none)) ∧
    (∃ (p : Plane) (addr len : Nat) (data : List Byte) (s : Dev), (s.On) ∧ (addr + len ≤ memTop) ∧ (memBlocked p false addr len = none)) ∧
    (∃ (p : Plane) (addr len k a : Nat) (data : List Byte) (s : Dev), (s.On) ∧ (addr + data.length ≤ memTop) ∧ (memBlocked p true addr data.length = some (k, a))) :=
  ⟨⟨(.control), (2), (24), (1), (0), (.SCH_SMP_BASE), (dv), by decide +kernel⟩,
    ⟨(.management), (3), (0), (4294967295), (0), (0), (.XB_PORT_CTRL), (dv), by decide +kernel⟩,
    ⟨(.management), (3), (0), (4294967295), (0), (0), (.XB_PORT_CTRL), (dv.oset 0x4000 1 1), by decide +kernel⟩,
    ⟨(.control), (0), (0), (1), (dv), by decide +kernel⟩,
    ⟨(.management), (0), (0), (4294967295), (dv), by decide +kernel⟩,
    ⟨(.control), (1), (8), (0), (dv), by decide +kernel⟩,
    ⟨(0), (1), (0), (0), (5), (dv), by decide +kernel⟩,
    ⟨(.control), (0), (0), (1), (.whole), ({ dv with xing.farLock := some (2, 100) }), by decide +kernel⟩,
    ⟨(.management), (7), (32), (0), (.RT_LEAK_CNT), (dv), by decide +kernel⟩,
    ⟨(.management), (7), (0), (0), (0), (.RT_ID), (dv), by decide +kernel⟩,
    ⟨(.management), (0), (0), (dv), by decide +kernel⟩,
    ⟨(0), (0), (0), (24), (0), (.SF_LATE_CNT), (rv.modSfn 0 0 fun f => { f with cfg := { f.cfg with cmd := 2 } }), by decide +kernel, by decide +kernel, rfl, by decide +kernel⟩,
    ⟨(.control), (0), (0), ({ dv with xing.farLock := some (2, 100) }), by decide +kernel⟩,
    ⟨(.ARB_FLAG), (56), (dv), by decide +kernel⟩,
    ⟨(.ARB_FLAG), (0), (3), (0), (dv), by decide +kernel⟩,
    ⟨(.data), (0x40000000), (0), ([1, 2]), (dv), by decide +kernel⟩,
    ⟨(.data), (memTop - 2), (2), ([]), (dv), by decide +kernel⟩,
    ⟨(.control), (0), (0), (0), (0), ([7]), (dv), by decide +kernel⟩⟩

/-- What IngressCompletes assumes is met. -/
theorem test_meets_IngressCompletes :
    (∃ (port k : Nat) (b : Binding) (x t : Tlp) (s : Dev), (s.On) ∧ (s.enabled port = true) ∧ (s.role port = 1) ∧ ((s.pport port).up = true) ∧ (s.bindAt s.ap port = some b) ∧ (b.vs ≠ noVs) ∧ (s.tlpIn port x = t) ∧ (flitsOf t.len ≤ s.creditGiven port) ∧ (t.malformed = false) ∧ (s.errTrigger port t = none)) ∧
    (∃ (port k vs : Nat) (x t : Tlp) (s : Dev), (s.On) ∧ (s.enabled port = true) ∧ (s.role port = 0) ∧ ((s.pport port).up = true) ∧ (s.vsOfHost port = some vs) ∧ (vs ≠ noVs) ∧ (s.tlpIn port x = t) ∧ (flitsOf t.len ≤ s.creditGiven port) ∧ (t.malformed = false) ∧ (s.errTrigger port t = none)) ∧
    (∃ (port k vs : Nat) (x t : Tlp) (s : Dev), (s.On) ∧ (s.enabled port = true) ∧ (s.role port = 0) ∧ ((s.pport port).up = true) ∧ (s.vsOfHost port = some vs) ∧ (vs ≠ noVs) ∧ (s.tlpIn port x = t) ∧ (s.creditGiven port < flitsOf t.len)) ∧
    (∃ (port pid k : Nat) (p : Pkt) (s : Dev), (s.On) ∧ (s.pkt? pid = some p) ∧ (p.port = port) ∧ (port < 48) ∧ (p.arrEnv = none) ∧ (p.inArr < p.inFl)) ∧
    (∃ (port : Nat) (b : BlPort) (t : Tlp) (x : RxIn) (rest : List RxIn) (s : Dev), (s.On) ∧ (s.isFabric port = true) ∧ (tget {} s.bl.ports port = b) ∧ (b.inbox = x :: rest) ∧ (x.env.typ ≠ 3)) ∧
    (∃ (port : Nat) (p : IntPkt) (s : Dev), (s.On) ∧ (48 ≤ port) ∧ (port < 52)) ∧
    (∃ (pid d : Nat) (p : Pkt) (s : Dev), (s.On) ∧ (s.pkt? pid = some p) ∧ (s.seqDest p = some d) ∧ (p.stage = .decoded) ∧ (p.eseq = none) ∧ (s.overShelf p = false) ∧ ((s.fwd.pkts.any fun e => decide (e.1 < pid) && e.2.oc == p.oc && e.2.stage == .decoded && e.2.eseq.isNone && !s.overShelf e.2 && s.seqDest e.2 == some d) = false) ∧ ((s.outS d p.oc).skip = none) ∧ (seqSub (s.outS d p.oc).next (s.outS d p.oc).oldest < 1024) ∧ ((s.outS d p.oc).lastCycle ≠ some s.cycle)) ∧
    (∃ (pid g : Nat) (p : Pkt) (t : Option Tlp) (chk : CoreCheck) (s : Dev), (s.On) ∧ (s.pkt? pid = some p) ∧ (p.stage = .decoded) ∧ (s.lookedUpFirst pid p = false) ∧ (chk = .good) ∧ (s.staleParity p.par = false) ∧ (s.seqDest p = none) ∧ (s.resolve p = .to g t)) ∧
    (∃ (pid d g : Nat) (p : Pkt) (t : Option Tlp) (s : Dev), (s.On) ∧ (s.pkt? pid = some p) ∧ (p.stage = .decoded) ∧ (s.lookedUpFirst pid p = false) ∧ (s.staleParity p.par = false) ∧ (s.seqDest p = some d) ∧ (s.overShelf p = false) ∧ (p.eseq ≠ none) ∧ (s.resolve p = .to g t)) ∧
    (∃ (pid : Nat) (p : Pkt) (s : Dev), (s.On) ∧ (s.pkt? pid = some p) ∧ (p.stage = .decoded) ∧ (s.lookedUpFirst pid p = false)) ∧
    (∃ (pid : Nat) (p : Pkt) (t : Tlp) (env : Env) (s s1 : Dev), (s.On) ∧ (s.pkt? pid = some p) ∧ (p.stage = .reserve) ∧ (p.tlp? = some t) ∧ (p.outEnv = some env) ∧ ((s.xing.quar.any fun q => q.reqId == t.reqId && q.tag == t.tag) = false) ∧ ((s.fwd.pkts.any fun e => decide (e.1 < pid) && e.2.port == p.port && e.2.oc == p.oc && e.2.egr == p.egr && e.2.stage == .reserve) = false) ∧ (s.outTokens (gpaFsid p.dest) < s.handHeld p.par (gpaFsid p.dest)) ∧ (s.fget Fld.RT_SHELF_USE.RESV p.port + shelfOf t ≤ s.shelfSize p.par p.port) ∧ (s1 = (s.fset (handFld p.par) (gpaFsid p.dest) (s.fget (handFld p.par) (gpaFsid p.dest) + 1)).shelfTake p.port (shelfOf t))) :=
  ⟨⟨(4), (1), ({ valid := true, vs := 0, vdsp := 0, dgpa := dv.gpa 4, hgpa := 0 }), ({}), (({ (((dv.oset 0x4004 1 1).oset 0x4004 2 1).setHword 0 (offBind + 12) (2147483648 + dv.gpa 4)).fset Fld.PCI_PORT_STAT.FLIT 4 1 with pci.ports := [(4, { up := true })], fwd.pciGiven := [(4, 8)] } : Dev).tlpIn 4 {}), ({ (((dv.oset 0x4004 1 1).oset 0x4004 2 1).setHword 0 (offBind + 12) (2147483648 + dv.gpa 4)).fset Fld.PCI_PORT_STAT.FLIT 4 1 with pci.ports := [(4, { up := true })], fwd.pciGiven := [(4, 8)] }), by decide +kernel⟩,
    ⟨(0), (0), (0), ({}), (({ rv.fset Fld.PCI_PORT_STAT.FLIT 0 1 with fwd.pciGiven := [(0, 8)] } : Dev).tlpIn 0 {}), ({ rv.fset Fld.PCI_PORT_STAT.FLIT 0 1 with fwd.pciGiven := [(0, 8)] }), by decide +kernel⟩,
    ⟨(0), (0), (0), ({}), ((rv.fset Fld.PCI_PORT_STAT.FLIT 0 1 : Dev).tlpIn 0 {}), (rv.fset Fld.PCI_PORT_STAT.FLIT 0 1), by decide +kernel⟩,
    ⟨(0), (3), (1), ({ inFl := 2, inArr := 1 }), ({ dv with fwd.pkts := [(3, { inFl := 2, inArr := 1 })] }), by decide +kernel⟩,
    ⟨(8), ({ inbox := [{ cc := 2 }] }), ({}), ({ cc := 2 }), ([]), ({ dv.oset 0x4008 2 2 with bl.ports := [(8, { inbox := [{ cc := 2 }] })] }), by decide +kernel⟩,
    ⟨(48), ({ vs := 0, typ := .posted, content := .ctl [] }), (dv), by decide +kernel⟩,
    ⟨(0), (5), ({ port := 48, dest := 5 * 64 }), ({ dv with fwd.pkts := [(0, { port := 48, dest := 5 * 64 })] }), by decide +kernel⟩,
    ⟨(0), (52), ({ port := 48, dest := 52 }), (none), (.good), ({ dv.rset .RT_ID 0 0 with fwd.pkts := [(0, { port := 48, dest := 52 })] }), by decide +kernel⟩,
    ⟨(0), (5), (5 * 64), ({ port := 48, dest := 5 * 64, eseq := some 0 }), (none), ({ dv with fwd.pkts := [(0, { port := 48, dest := 5 * 64, eseq := some 0 })] }), by decide +kernel⟩,
    ⟨(0), ({}), ({ dv with fwd.pkts := [(0, {})] }), by decide +kernel⟩,
    ⟨(0), ({ stage := .reserve, content := .tlp {}, outEnv := some {}, dest := 5 * 64 }), ({}), ({}), ({ (dv.setHword 0 (offHand + 20) 256).setHword 0 offShelf 100 with fwd.pkts := [(0, { stage := .reserve, content := .tlp {}, outEnv := some {}, dest := 5 * 64 })] }), ((({ (dv.setHword 0 (offHand + 20) 256).setHword 0 offShelf 100 with fwd.pkts := [(0, { stage := .reserve, content := .tlp {}, outEnv := some {}, dest := 5 * 64 })] } : Dev).fset Fld.RT_HAND_HOLD.OUT_P0 5 1).shelfTake 0 (shelfOf {})), by decide +kernel⟩⟩

/-- What ArbitrationAndCrossbarCompletes assumes is met. -/
theorem test_meets_ArbitrationAndCrossbarCompletes :
    (∃ (a : Nat) (reqs : List ArbReq) (ask rel : Bool) (r : Request) (s s1 s2 : Dev), (s.On) ∧ (17 ≤ a) ∧ (a < 57) ∧ ((s.arbOf a).lastPhase ≠ some s.cycle) ∧ (s1 = ((s.modArb a fun x => { x with lastPhase := some s.cycle, tenure := if rel then none else x.tenure }).enterAll).cutTenure a) ∧ (s1.requests a reqs ≠ []) ∧ (s2 = s1.modArb a fun x => { x with idle := 0 }) ∧ (chooseWinner (s2.arbOf a) (arbInputs a) ((s1.requests a reqs).filter (s2.eligible a)) = some r)) ∧
    (∃ (a : Nat) (reqs : List ArbReq) (ask rel : Bool) (r : Request) (p : Pkt) (s s1 s2 : Dev), (s.On) ∧ (a ≤ 16) ∧ ((s.arbOf a).lastPhase ≠ some s.cycle) ∧ (s1 = (((s.modArb a fun x => { x with lastPhase := some s.cycle, tenure := if rel then none else x.tenure }).enterAll).cutTenure a).keepPhase) ∧ (s1.requests a reqs ≠ []) ∧ (s2 = s1.modArb a fun x => { x with idle := 0 }) ∧ (chooseWinner (s2.arbOf a) (arbInputs a) ((s1.requests a reqs).filter (s2.eligible a)) = some r) ∧ (s2.pkt? r.pid = some p) ∧ (s2.dlExpired p = false)) ∧
    (∃ (a : Nat) (reqs : List ArbReq) (ask rel : Bool) (s s1 : Dev), (s.On) ∧ (17 ≤ a) ∧ (a < 57) ∧ ((s.arbOf a).lastPhase ≠ some s.cycle) ∧ (s1 = ((s.modArb a fun x => { x with lastPhase := some s.cycle, tenure := if rel then none else x.tenure }).enterAll).cutTenure a) ∧ (s1.requests a reqs = [])) ∧
    (∃ (a : Nat) (g : GrantRec) (rest : List GrantRec) (p : Pkt) (s s1 : Dev), (s.On) ∧ ((s.arbOf a).pend = g :: rest) ∧ (g.cycle < s.cycle) ∧ ((s.arbOf a).dataAt ≠ some s.cycle) ∧ (tfind s.fwd.inputData g.input ≠ some s.cycle) ∧ (s1 = (let t := s.modArb a fun x => { x with pend := rest, dataAt := some s.cycle }; { t with fwd.inputData := tins t.fwd.inputData g.input s.cycle })) ∧ (s1.pkt? g.pid = some p) ∧ (g.void = false) ∧ (g.idx ≠ 0 ∨ g.privileged = true ∨ s1.fenced g.pid p = false)) ∧
    (∃ (n : Nat) (f : StagedFlit) (rest : List StagedFlit) (s : Dev), (s.On) ∧ (tget [] s.fwd.stg n = f :: rest) ∧ (s.isFabric n = false) ∧ (s.fget Fld.PCI_PORT_STAT.LTSSM n = lL0) ∧ (tfind s.fwd.started n = some f.pid)) ∧
    (∃ (n : Nat) (f : StagedFlit) (rest : List StagedFlit) (s : Dev), (s.On) ∧ (tget [] s.fwd.stg n = f :: rest) ∧ (s.isFabric n = true)) ∧
    (∃ (n : Nat) (f : StagedFlit) (rest : List StagedFlit) (p : Pkt) (s : Dev), (s.On) ∧ (tget [] s.fwd.stg n = f :: rest) ∧ (s.pkt? f.pid = some p) ∧ (s.isHost n = true ∨ s.isDevice n = true) ∧ (f.idx = 0) ∧ (p.passed + p.cells.length = p.nfl) ∧ (tfind s.fwd.started n = none)) ∧
    (∃ (n t : Nat) (s s1 : Dev), (s.On) ∧ (tfind s.fwd.stallEnd n = none) ∧ (tfind s.fwd.stallFrom n = some t) ∧ (t + 10 * tUs * 2 ^ s.fget Fld.XB_PORT_EGR.STALL_TO n ≤ s.now) ∧ (s.portHolds n = true) ∧ (s.isFabric n = true) ∧ (s1 = (let p := ((s.heldFor n).head?.bind s.pkt?).getD { port := n }; ((s.count .XB_DROP_CNT 6 1).errLog 7 (s.gpa n) p.port p.oc (ptypeCode p.typ) p.vs).linkFail n 5))) ∧
    (∃ (a : Nat) (s : Dev), (s.On) ∧ (a < 57) ∧ ((s.arbOf a).roundEnd ≤ s.cycle)) ∧
    (∃ (a : Nat) (h : Tenure) (s : Dev), (s.On) ∧ ((s.arbOf a).tenure = some h) ∧ (h.start + h.limit ≤ s.cycle)) ∧
    (∃ (a port : Nat) (t : Trick) (s : Dev), (s.On) ∧ ((s.arbOf a).tricks.find? (fun t => t.port == port && !t.locks) = some t)) ∧
    (∃ (a port : Nat) (t : Trick) (s : Dev), (s.On) ∧ ((s.arbOf a).tricks.find? (fun t => t.port == port && t.locks && decide (t.opened + t.hold ≤ s.cycle)) = some t)) ∧
    (∃ (a : Nat) (s : Dev), (s.On) ∧ ((s.arbOf a).parked ≠ none) ∧ (s.fget Fld.ARB_CFG_W.PARK_IDLE a ≤ (s.arbOf a).idle)) ∧
    (∃ (p : Plane) (s : Dev), (s.On) ∧ (p ≠ .data) ∧ (s.sch.commitAt = none)) ∧
    (∃ (p : Plane) (s : Dev), (s.On) ∧ (p ≠ .data) ∧ (s.sch.commitAt ≠ none)) ∧
    (∃ (a : Nat) (close : Bool) (s : Dev), (s.On) ∧ (a < 57)) ∧
    (∃ (a : Nat) (close : Bool) (s : Dev), (s.On) ∧ (a < 57)) ∧
    (∃ (a t : Nat) (s : Dev), (s.On) ∧ ((s.arbOf a).closedAt = some t) ∧ ((s.arbOf a).watched = false) ∧ (t + tUs * 2 ^ s.fget Fld.ARB_HATCH_WD.EXP 0 ≤ s.now)) :=
  ⟨⟨(17), ([⟨3, 2⟩]), (false), (true), ({ input := 3, cls := 2, level := 0, pid := 0, egr := 0, vs := 0, opens := false, marker := false }), (rv), (((rv.modArb 17 fun x => { x with lastPhase := some rv.cycle, tenure := none }).enterAll).cutTenure 17), ((((rv.modArb 17 fun x => { x with lastPhase := some rv.cycle, tenure := none }).enterAll).cutTenure 17 : Dev).modArb 17 fun x => { x with idle := 0 }), by decide +kernel⟩,
    ⟨(16), ([]), (false), (false), ({ input := 16, cls := 2, level := 2, pid := 7, egr := 52, vs := 0, opens := false, marker := false }), ({ port := 52, typ := .control, cc := 2, stage := .queued, egr := 52, dest := 116, placed := 1, cells := [⟨0, .pool, 0⟩] }), ({ rv with now := 40, fwd.pkts := [(7, ({ port := 52, typ := .control, cc := 2, stage := .queued, egr := 52, dest := 116, placed := 1, cells := [⟨0, .pool, 0⟩] } : Pkt))] }), ((((({ rv with now := 40, fwd.pkts := [(7, ({ port := 52, typ := .control, cc := 2, stage := .queued, egr := 52, dest := 116, placed := 1, cells := [⟨0, .pool, 0⟩] } : Pkt))] } : Dev).modArb 16 fun x => { x with lastPhase := some ({ rv with now := 40, fwd.pkts := [(7, ({ port := 52, typ := .control, cc := 2, stage := .queued, egr := 52, dest := 116, placed := 1, cells := [⟨0, .pool, 0⟩] } : Pkt))] } : Dev).cycle, tenure := x.tenure }).enterAll).cutTenure 16).keepPhase), (((((({ rv with now := 40, fwd.pkts := [(7, ({ port := 52, typ := .control, cc := 2, stage := .queued, egr := 52, dest := 116, placed := 1, cells := [⟨0, .pool, 0⟩] } : Pkt))] } : Dev).modArb 16 fun x => { x with lastPhase := some ({ rv with now := 40, fwd.pkts := [(7, ({ port := 52, typ := .control, cc := 2, stage := .queued, egr := 52, dest := 116, placed := 1, cells := [⟨0, .pool, 0⟩] } : Pkt))] } : Dev).cycle, tenure := x.tenure }).enterAll).cutTenure 16).keepPhase : Dev).modArb 16 fun x => { x with idle := 0 }), by decide +kernel⟩,
    ⟨(17), ([]), (false), (true), (rv), (((rv.modArb 17 fun x => { x with lastPhase := some rv.cycle, tenure := none }).enterAll).cutTenure 17), by decide +kernel⟩,
    ⟨(1), ({ input := 0, cls := 0, pid := 3, idx := 0, egr := 4, ptr := 0, serial := 1, cycle := 0, round := 256, counted := true, bypass := false, privileged := false }), ([]), ({}), ({ rv with now := 4, fwd.pkts := [(3, {})], arb := [(1, { pend := [({ input := 0, cls := 0, pid := 3, idx := 0, egr := 4, ptr := 0, serial := 1, cycle := 0, round := 256, counted := true, bypass := false, privileged := false } : GrantRec)] })] }), ((let t := ({ rv with now := 4, fwd.pkts := [(3, {})], arb := [(1, { pend := [({ input := 0, cls := 0, pid := 3, idx := 0, egr := 4, ptr := 0, serial := 1, cycle := 0, round := 256, counted := true, bypass := false, privileged := false } : GrantRec)] })] } : Dev).modArb 1 fun x => { x with pend := [], dataAt := some ({ rv with now := 4, fwd.pkts := [(3, {})], arb := [(1, { pend := [({ input := 0, cls := 0, pid := 3, idx := 0, egr := 4, ptr := 0, serial := 1, cycle := 0, round := 256, counted := true, bypass := false, privileged := false } : GrantRec)] })] } : Dev).cycle }; { t with fwd.inputData := tins t.fwd.inputData 0 ({ rv with now := 4, fwd.pkts := [(3, {})], arb := [(1, { pend := [({ input := 0, cls := 0, pid := 3, idx := 0, egr := 4, ptr := 0, serial := 1, cycle := 0, round := 256, counted := true, bypass := false, privileged := false } : GrantRec)] })] } : Dev).cycle })), by decide +kernel⟩,
    ⟨(4), (⟨3, 0⟩), ([]), ({ rv.fset Fld.PCI_PORT_STAT.LTSSM 4 lL0 with fwd.stg := [(4, [⟨3, 0⟩])], fwd.started := [(4, 3)] }), by decide +kernel⟩,
    ⟨(8), (⟨3, 0⟩), ([⟨3, 1⟩]), ({ rv with fwd.stg := [(8, [⟨3, 0⟩, ⟨3, 1⟩])] }), by decide +kernel⟩,
    ⟨(0), (⟨3, 0⟩), ([]), ({ passed := 1, nfl := 2, cells := [⟨1, .pool, 0⟩] }), ({ rv with fwd.stg := [(0, [⟨3, 0⟩])], fwd.pkts := [(3, { passed := 1, nfl := 2, cells := [⟨1, .pool, 0⟩] })] }), by decide +kernel⟩,
    ⟨(8), (0), ({ rv with now := 10 * tSec, fwd.stallFrom := [(8, 0)], fwd.stg := [(8, [⟨3, 0⟩])] }), ((let p := ((({ rv with now := 10 * tSec, fwd.stallFrom := [(8, 0)], fwd.stg := [(8, [⟨3, 0⟩])] } : Dev).heldFor 8).head?.bind ({ rv with now := 10 * tSec, fwd.stallFrom := [(8, 0)], fwd.stg := [(8, [⟨3, 0⟩])] } : Dev).pkt?).getD { port := 8 }; ((({ rv with now := 10 * tSec, fwd.stallFrom := [(8, 0)], fwd.stg := [(8, [⟨3, 0⟩])] } : Dev).count .XB_DROP_CNT 6 1).errLog 7 (({ rv with now := 10 * tSec, fwd.stallFrom := [(8, 0)], fwd.stg := [(8, [⟨3, 0⟩])] } : Dev).gpa 8) p.port p.oc (ptypeCode p.typ) p.vs).linkFail 8 5)), by decide +kernel⟩,
    ⟨(56), ({ rv with now := 1024 }), by decide +kernel⟩,
    ⟨(3), (⟨12, 0, 0, 64⟩), ({ rv with now := 400, arb := [(3, { tenure := some ⟨12, 0, 0, 64⟩ })] }), by decide +kernel⟩,
    ⟨(1), (4), ({ port := 4, input := 0, vs := 0, cls := 2, flits := 64, opened := 0, hold := 100, lock := false }), ({ rv with arb := [(1, { tricks := [{ port := 4, input := 0, vs := 0, cls := 2, flits := 64, opened := 0, hold := 100, lock := false }] })] }), by decide +kernel⟩,
    ⟨(1), (4), ({ port := 4, input := 0, vs := 0, cls := 2, flits := 3, opened := 0, hold := 100, lock := true }), ({ rv with now := 400, arb := [(1, { tricks := [{ port := 4, input := 0, vs := 0, cls := 2, flits := 3, opened := 0, hold := 100, lock := true }] })] }), by decide +kernel⟩,
    ⟨(2), ({ rv with arb := [(2, { parked := some (0, 1), idle := 300 })] }), by decide +kernel⟩,
    ⟨(.control), (dv), by decide +kernel⟩,
    ⟨(.management), ({ dv with sch.commitAt := some (0, 0) }), by decide +kernel⟩,
    ⟨(56), (true), (dv), by decide +kernel⟩,
    ⟨(0), (false), (dv), by decide +kernel⟩,
    ⟨(5), (0), ({ rv with now := 100 * tSec, arb := [(5, { closedAt := some 0 })] }), by decide +kernel⟩⟩

/-- What SchedulingCompletes assumes is met. -/
theorem test_meets_SchedulingCompletes :
    (∃ (s : Dev), (s.On)) ∧
    (∃ (f : Nat) (s : Dev), (s.On) ∧ (f = s.sch.sweep) ∧ (s.fbit Fld.SCH_CAL.EN 0 = true) ∧ (tatGe (s.tat f + tSec * 65536) s.now16 = false)) ∧
    (∃ (n : Nat) (s : Dev), (s.On) ∧ (n < 48)) ∧
    (∃ (n : Nat) (a : GateList) (s s1 s2 : Dev), (s.On) ∧ (tfind s.sch.armed n = some a) ∧ (a.swt ≤ s.sampled) ∧ (s1 = s.fsets n [(Fld.SCH_PORT_W.GEN, b2n a.gen), (Fld.SCH_PORT_W.LEN, a.len), (Fld.SCH_GATE_BASE_W.TIME, a.base), (Fld.SCH_GATE_SWT_W.TIME, a.swt), (Fld.SCH_GATE_STAT.ARMED, 0)]) ∧ (s2 = each ((List.range a.len).zip a.ents) s1 fun s x => s.fsets (n * 256 + x.1) [(Fld.SCH_GATE_ENT_W.GATES, x.2.1), (Fld.SCH_GATE_ENT_W.DUR, x.2.2)])) ∧
    (∃ (late : Bool) (s s1 : Dev), (s.On) ∧ (s.fbit Fld.SCH_SMP_CTRL.EN 0 = true) ∧ (s.sch.smpNext ≤ s.now) ∧ (s.sch.smpSkip = false) ∧ (s1 = each s.selected s fun s q => s.sampleRecord s.sch.smpPass q)) ∧
    (∃ (late : Bool) (s : Dev), (s.On) ∧ (s.fbit Fld.SCH_SMP_CTRL.EN 0 = true) ∧ (s.sch.smpNext ≤ s.now) ∧ (s.sch.smpSkip = true)) :=
  ⟨⟨(dv), by decide +kernel⟩,
    ⟨(0), ({ rv.fset Fld.SCH_CAL.EN 0 1 with ftime := 2 * tSec, sampled := 2 * tSec }), by decide +kernel⟩,
    ⟨(47), (dv), by decide +kernel⟩,
    ⟨(4), ({ gen := true, len := 1, base := 0, swt := 5, ents := [(255, 100)] }), ({ rv with ftime := 5, sampled := 5, sch.armed := [(4, { gen := true, len := 1, base := 0, swt := 5, ents := [(255, 100)] })] }), (({ rv with ftime := 5, sampled := 5, sch.armed := [(4, { gen := true, len := 1, base := 0, swt := 5, ents := [(255, 100)] })] } : Dev).fsets 4 [(Fld.SCH_PORT_W.GEN, 1), (Fld.SCH_PORT_W.LEN, 1), (Fld.SCH_GATE_BASE_W.TIME, 0), (Fld.SCH_GATE_SWT_W.TIME, 5), (Fld.SCH_GATE_STAT.ARMED, 0)]), ((({ rv with ftime := 5, sampled := 5, sch.armed := [(4, { gen := true, len := 1, base := 0, swt := 5, ents := [(255, 100)] })] } : Dev).fsets 4 [(Fld.SCH_PORT_W.GEN, 1), (Fld.SCH_PORT_W.LEN, 1), (Fld.SCH_GATE_BASE_W.TIME, 0), (Fld.SCH_GATE_SWT_W.TIME, 5), (Fld.SCH_GATE_STAT.ARMED, 0)]).fsets 1024 [(Fld.SCH_GATE_ENT_W.GATES, 255), (Fld.SCH_GATE_ENT_W.DUR, 100)]), by decide +kernel⟩,
    ⟨(false), (dv.fset Fld.SCH_SMP_CTRL.EN 0 1), (dv.fset Fld.SCH_SMP_CTRL.EN 0 1), by decide +kernel⟩,
    ⟨(false), ({ dv.fset Fld.SCH_SMP_CTRL.EN 0 1 with sch.smpSkip := true }), by decide +kernel⟩⟩

/-- What PciePortCommandsComplete assumes is met. -/
theorem test_meets_PciePortCommandsComplete :
    (∃ (n : Nat) (x : PciePartner) (s : Dev), (s.On) ∧ (s.pcieOn n = true) ∧ ((s.pport n).up = false) ∧ ((s.pport n).disabled = false) ∧ ((s.pport n).slotOff = false) ∧ ((s.pport n).perst = false) ∧ ((s.pport n).hotReset = false) ∧ (s.isHost n = true)) ∧
    (∃ (n : Nat) (x : PciePartner) (s : Dev), (s.On) ∧ (s.pcieOn n = true) ∧ ((s.pport n).up = false) ∧ ((s.pport n).disabled = false) ∧ ((s.pport n).slotOff = false) ∧ ((s.pport n).perst = false) ∧ ((s.pport n).hotReset = false) ∧ (s.isDevice n = true) ∧ (s.isContained n = false)) ∧
    (∃ (n : Nat) (hot : Bool) (s : Dev), (s.On) ∧ ((s.pport n).up = true) ∧ (s.vsOfHost n = none)) ∧
    (∃ (n vs : Nat) (hot : Bool) (s : Dev), (s.On) ∧ ((s.pport n).up = true) ∧ (s.vsOfHost n = some vs) ∧ (s.isDevice n = false)) ∧
    (∃ (n : Nat) (s : Dev), (s.On) ∧ ((s.pport n).up = true)) ∧
    (∃ (n rate : Nat) (found : List EqFound) (s : Dev), (s.On) ∧ (s.pcieOn n = true) ∧ (2 ≤ rate) ∧ (rate ≤ s.fget Fld.PCI_PORT_CTRL.MAXRATE n) ∧ (s.fbit Fld.PCI_PORT_CTRL.EQ_MODE n = false)) ∧
    (∃ (n rate : Nat) (found : List EqFound) (s : Dev), (s.On) ∧ (s.pcieOn n = true) ∧ (2 ≤ rate) ∧ (rate ≤ s.fget Fld.PCI_PORT_CTRL.MAXRATE n) ∧ (s.fbit Fld.PCI_PORT_CTRL.EQ_MODE n = true) ∧ (((s.lanesOf n).all fun i => (s.eqEntry i rate).isSome) = false)) ∧
    (∃ (n used cap : Nat) (s : Dev), (s.On) ∧ (s.l0pOn n = true) ∧ ((s.pport n).winAt + tUs * 2 ^ s.fget Fld.PCI_L0P.WIN_EXP n ≤ s.now) ∧ (s.fget Fld.PCI_L0P.HI_PCT n * cap < 100 * used)) ∧
    (∃ (n used cap : Nat) (s : Dev), (s.On) ∧ (s.l0pOn n = true) ∧ ((s.pport n).winAt + tUs * 2 ^ s.fget Fld.PCI_L0P.WIN_EXP n ≤ s.now) ∧ (100 * used < s.fget Fld.PCI_L0P.LO_PCT n * cap) ∧ (100 * used ≤ s.fget Fld.PCI_L0P.HI_PCT n * cap) ∧ (s.egrCells n ≤ 64) ∧ (s.minWidth n < s.fget Fld.PCI_PORT_STAT.TXW n) ∧ ((s.pport n).l0pAt = none)) ∧
    (∃ (n : Nat) (s : Dev), (s.On) ∧ (s.l0pOn n = true) ∧ ((s.pport n).l0pAt ≠ none ∨ 64 < s.egrCells n)) ∧
    (∃ (n w : Nat) (s : Dev), (s.On) ∧ (s.l0pOn n = true) ∧ (w ≤ (s.pport n).width) ∧ (w = 1 ∨ w = 2 ∨ w = 4 ∨ w = 8 ∨ w = 16)) ∧
    (∃ (n : Nat) (s : Dev), (s.On) ∧ (s.pcieOn n = true) ∧ ((s.pport n).up = true) ∧ (s.fget Fld.PCI_PORT_STAT.LTSSM n = lL0) ∧ (s.l1Allowed n = true)) ∧
    (∃ (vs off reqId tag : Nat) (s : Dev), (s.On) ∧ (s.vsExists vs = true) ∧ (off % 4 = 0) ∧ (off < 4096)) ∧
    (∃ (vs n off v be reqId tag : Nat) (s : Dev), (s.On) ∧ (s.vsExists vs = true) ∧ (s.vdspExists vs n = true) ∧ (off % 4 = 0) ∧ (off < 0x20) ∧ ((s.portWrite vs n off (cfgWr (s.portWord vs n off) v be)).rt.busWait.drop s.rt.busWait.length = [])) ∧
    (∃ (vs n off reqId tag : Nat) (s : Dev), (s.On) ∧ (s.vsExists vs = true) ∧ (s.vdspExists vs n = false) ∧ (off % 4 = 0) ∧ (off < 4096)) :=
  ⟨⟨(0), ({ rate := 6, width := 8, flit := true }), ({ rv with pci.ports := [] }), by decide +kernel⟩,
    ⟨(4), ({ rate := 6, width := 8, flit := true }), ({ rv with pci.ports := [] }), by decide +kernel⟩,
    ⟨(4), (false), (rv), by decide +kernel⟩,
    ⟨(0), (0), (true), (rv), by decide +kernel⟩,
    ⟨(4), (rv), by decide +kernel⟩,
    ⟨(4), (2), ([{}]), ((rv.fset Fld.PCI_PORT_CTRL.EQ_MODE 4 0).fset Fld.PCI_PORT_CTRL.MAXRATE 4 6), by decide +kernel⟩,
    ⟨(4), (6), ([]), ((rv.fset Fld.PCI_PORT_CTRL.EQ_MODE 4 1).fset Fld.PCI_PORT_CTRL.MAXRATE 4 6), by decide +kernel⟩,
    ⟨(4), (100), (100), ({ (rv.fset Fld.PCI_PORT_CTRL.L0P_EN 4 1).fset Fld.PCI_PORT_STAT.FLIT 4 1 with now := 100 * tSec }), by decide +kernel⟩,
    ⟨(4), (0), (100), ({ ((rv.fset Fld.PCI_PORT_CTRL.L0P_EN 4 1).fset Fld.PCI_PORT_STAT.FLIT 4 1).fset Fld.PCI_PORT_STAT.TXW 4 4 with now := 100 * tSec }), by decide +kernel⟩,
    ⟨(4), ({ (rv.fset Fld.PCI_PORT_CTRL.L0P_EN 4 1).fset Fld.PCI_PORT_STAT.FLIT 4 1 with pci.ports := [(4, { up := true, width := 4, l0pAt := some 0 })] }), by decide +kernel⟩,
    ⟨(0), (16), ((rv.fset Fld.PCI_PORT_CTRL.L0P_EN 0 1).fset Fld.PCI_PORT_STAT.FLIT 0 1), by decide +kernel⟩,
    ⟨(4), ({ rv.fset Fld.PCI_PORT_STAT.LTSSM 4 lL0 with pci.ports := [(4, { up := true, width := 4, aspm := 2 })] }), by decide +kernel⟩,
    ⟨(0), (4092), (0), (3), (rv), by decide +kernel⟩,
    ⟨(0), (7), (4), (6), (3), (0), (3), (rv), by decide +kernel⟩,
    ⟨(0), (8), (0), (0), (3), (rv), by decide +kernel⟩⟩

/-- What VirtualPortCommandsComplete assumes is met. -/
theorem test_meets_VirtualPortCommandsComplete :
    (∃ (vs n p : Nat) (dis : Bool) (s : Dev), (s.On) ∧ (s.boundPort vs n = some p)) ∧
    (∃ (vs n g : Nat) (dis : Bool) (s : Dev), (s.On) ∧ (s.boundPort vs n = none) ∧ (s.boundFar vs n = some g)) ∧
    (∃ (vs n p : Nat) (s : Dev), (s.On) ∧ (s.boundPort vs n = some p) ∧ ((s.pport p).up = true)) ∧
    (∃ (vs n speed p : Nat) (s : Dev), (s.On) ∧ (s.boundPort vs n = some p) ∧ (1 ≤ speed) ∧ (speed ≤ 7)) ∧
    (∃ (vs n ctl p : Nat) (s : Dev), (s.On) ∧ (s.boundPort vs n = some p)) ∧
    (∃ (vs n p : Nat) (s : Dev), (s.On) ∧ (s.boundPort vs n = some p)) ∧
    (∃ (vs n p : Nat) (s : Dev), (s.On) ∧ (s.boundPort vs n = some p) ∧ ((s.pport p).hotReset = true)) ∧
    (∃ (vs n speed width g : Nat) (training dl : Bool) (note : PortNotice) (s : Dev), (s.On) ∧ (s.vdspExists vs n = true) ∧ (s.boundPort vs n = none) ∧ (s.boundFar vs n = some g)) ∧
    (∃ (vs n speed width p : Nat) (training dl : Bool) (note : PortNotice) (s : Dev), (s.On) ∧ (s.vdspExists vs n = true) ∧ (s.boundPort vs n = some p)) ∧
    (∃ (vs n : Nat) (err : PcieErr) (hdr : HdrLog) (s : Dev), (s.On) ∧ (s.vdspExists vs n = true)) ∧
    (∃ (vs n reason src : Nat) (hdr : HdrLog) (s : Dev), (s.On) ∧ (s.vdspExists vs n = true) ∧ (n ≠ uspNo)) ∧
    (∃ (vs n : Nat) (s : Dev), (s.On) ∧ (s.vdspExists vs n = true) ∧ ((s.pfn vs n).dpcStat.testBit 0 = false) ∧ (bitsOf (s.pfn vs n).dpcCtl 1 0 = 1 ∨ bitsOf (s.pfn vs n).dpcCtl 1 0 = 2)) ∧
    (∃ (vs n : Nat) (s : Dev), (s.On) ∧ (s.dpcHeld vs n = true) ∧ (s.boundFar vs n = none)) ∧
    (∃ (vs n t p : Nat) (s : Dev), (s.On) ∧ ((s.vd vs n).trigAt = some t) ∧ (s.dpcHeld vs n = true) ∧ ((s.vd vs n).relReq = true) ∧ (t + tMs ≤ s.now) ∧ (s.boundPort vs n = some p) ∧ (s.portHolds p = false) ∧ (s.vsExists vs = true)) ∧
    (∃ (n : Nat) (b : Binding) (s : Dev), (s.On) ∧ (s.isDevice n = true) ∧ ((s.pport n).up = true) ∧ (s.bindAt s.ap n = some b)) ∧
    (∃ (vs : Nat) (s : Dev), (s.On) ∧ (s.vsExists vs = true) ∧ ((s.sfn vs 0).cfg.ptmCtl.testBit 0 = true)) ∧
    (∃ (k : Nat) (present : Bool) (s : Dev), (s.On) ∧ (k < 8) ∧ (s.fbit Fld.PCI_SLOT_MAP.EN k = false)) ∧
    (∃ (k : Nat) (present : Bool) (s : Dev), (s.On) ∧ (k < 8) ∧ (s.fbit Fld.PCI_SLOT_MAP.EN k = true)) ∧
    (∃ (k : Nat) (s : Dev), (s.On) ∧ (k < 8) ∧ (s.fbit Fld.PCI_SLOT_MAP.EN k = true) ∧ (s.bindAt s.ap (s.fget Fld.PCI_SLOT_MAP.PORT k) ≠ none)) ∧
    (∃ (k : Nat) (s : Dev), (s.On) ∧ (k < 8) ∧ (s.fbit Fld.PCI_SLOT_MAP.EN k = false)) ∧
    (∃ (vs n atn pwr p : Nat) (s : Dev), (s.On) ∧ (s.vdspExists vs n = true) ∧ ((s.slotCommand vs n).boundPort vs n = some p) ∧ ((s.slotCommand vs n).slotOf p = none)) ∧
    (∃ (vs n p k : Nat) (s : Dev), (s.On) ∧ (s.vdspExists vs n = true) ∧ ((s.slotCommand vs n).boundPort vs n = some p) ∧ ((s.slotCommand vs n).slotOf p = some k)) ∧
    (∃ (vs n p : Nat) (s : Dev), (s.On) ∧ (s.vdspExists vs n = true) ∧ ((s.slotCommand vs n).boundPort vs n = some p) ∧ ((s.slotCommand vs n).slotOf p = none)) ∧
    (∃ (vs n p k : Nat) (s : Dev), (s.On) ∧ (s.vdspExists vs n = true) ∧ ((s.slotCommand vs n).boundPort vs n = some p) ∧ ((s.slotCommand vs n).slotOf p = some k)) ∧
    (∃ (k t : Nat) (s : Dev), (s.On) ∧ (tfind s.pci.perstAt k = some t) ∧ (t + 100 * tMs ≤ s.now) ∧ (s.fbit Fld.PCI_SLOT_STAT.POWERED k = true) ∧ (s.fbit Fld.PCI_SLOT_MAP.EN k = false)) ∧
    (∃ (vs n : Nat) (s : Dev), (s.On) ∧ (s.vdspExists vs n = true) ∧ ((s.vd vs n).cmdAt ≠ none) ∧ (s.turningOff vs n = false)) :=
  ⟨⟨(0), (0), (4), (true), (rv), by decide +kernel⟩,
    ⟨(0), (0), (132), (true), (rv.setHword 0 (offBind + 12) (2147483648 + 132)), by decide +kernel⟩,
    ⟨(0), (0), (4), (rv), by decide +kernel⟩,
    ⟨(0), (0), (7), (4), (rv), by decide +kernel⟩,
    ⟨(0), (0), (3), (4), (rv), by decide +kernel⟩,
    ⟨(0), (0), (4), (rv), by decide +kernel⟩,
    ⟨(0), (0), (4), ({ rv with pci.ports := [(4, { hotReset := true })] }), by decide +kernel⟩,
    ⟨(0), (0), (5), (4), (132), (false), (true), ({ inband := true }), (rv.setHword 0 (offBind + 12) (2147483648 + 132)), by decide +kernel⟩,
    ⟨(0), (0), (5), (4), (4), (false), (true), ({}), (rv), by decide +kernel⟩,
    ⟨(0), (0), (.badTlp), ({}), (rv), by decide +kernel⟩,
    ⟨(0), (0), (1), (256), ({}), (rv), by decide +kernel⟩,
    ⟨(0), (0), (rv.modPfn 0 0 fun f => { f with dpcCtl := 2 }), by decide +kernel⟩,
    ⟨(0), (0), (rv.dpcTrigger 0 0 3 0), by decide +kernel⟩,
    ⟨(0), (0), (0), (4), ({ ((rv.dpcTrigger 0 0 3 0).modVd 0 0 fun v => { v with relReq := true }) with now := tMs }), by decide +kernel⟩,
    ⟨(4), ({ valid := true, vs := 0, vdsp := 0, dgpa := 68, hgpa := 0 }), (rv), by decide +kernel⟩,
    ⟨(0), (rv.modSfn 0 0 fun f => { f with cfg := { f.cfg with ptmCtl := 1 } }), by decide +kernel⟩,
    ⟨(7), (true), (dv), by decide +kernel⟩,
    ⟨(0), (true), ((rv.fset Fld.PCI_SLOT_MAP.EN 0 1).fset Fld.PCI_SLOT_MAP.PORT 0 4), by decide +kernel⟩,
    ⟨(0), ((rv.fset Fld.PCI_SLOT_MAP.EN 0 1).fset Fld.PCI_SLOT_MAP.PORT 0 4), by decide +kernel⟩,
    ⟨(7), (dv), by decide +kernel⟩,
    ⟨(0), (0), (1), (2), (4), (rv), by decide +kernel⟩,
    ⟨(0), (0), (4), (0), ((rv.fset Fld.PCI_SLOT_MAP.EN 0 1).fset Fld.PCI_SLOT_MAP.PORT 0 4), by decide +kernel⟩,
    ⟨(0), (0), (4), (rv), by decide +kernel⟩,
    ⟨(0), (0), (4), (0), ((rv.fset Fld.PCI_SLOT_MAP.EN 0 1).fset Fld.PCI_SLOT_MAP.PORT 0 4), by decide +kernel⟩,
    ⟨(3), (0), ({ rv.fset Fld.PCI_SLOT_STAT.POWERED 3 1 with now := tSec, pci.perstAt := [(3, 0)] }), by decide +kernel⟩,
    ⟨(0), (0), (rv.slotCommand 0 0), by decide +kernel⟩⟩

/-- What ServiceFunctionCommandsComplete assumes is met. -/
theorem test_meets_ServiceFunctionCommandsComplete :
    (∃ (vs fn q k tail : Nat) (s : Dev), (s.On) ∧ (s.localQ vs fn q = some k) ∧ (s.sfExists vs fn = true) ∧ (s.inFlr vs fn = false) ∧ (s.fbit Fld.SF_Q_CFG.EN k = true) ∧ (s.fbit Fld.SF_Q_STAT.ERR k = false)) ∧
    (∃ (k tail : Nat) (x : SfQueue) (s : Dev), ((s.sf.fns.filter fun e => e.2.bmOff.any fun c => c != s.cycle) = []) ∧ ((s.sf.reqs.filter fun r => r.expAt.any fun c => c != s.cycle) = []) ∧ ((s.sf.qs.filter fun e => !e.2.bells.isEmpty) = [(k, x)]) ∧ (x.bells = [tail])) ∧
    (∃ (q vs fn l : Nat) (cpl : CplIn) (s : Dev), (s.On) ∧ ((s.sfq q).owner = some (vs, fn, l)) ∧ ((s.sfq q).fetching = true) ∧ (cpl.status = 0) ∧ (cpl.poisoned = false) ∧ (badDesc cpl.data = false)) ∧
    (∃ (q vs fn l : Nat) (cpl : CplIn) (s : Dev), (s.On) ∧ ((s.sfq q).owner = some (vs, fn, l)) ∧ ((s.sfq q).fetching = true) ∧ (cpl.status ≠ 0)) ∧
    (∃ (q : Nat) (s : Dev), (s.On) ∧ ((s.sfq q).owner ≠ none) ∧ (s.fbit Fld.SF_Q_CFG.EN q = false)) ∧
    (∃ (q : Nat) (s : Dev), (s.On) ∧ ((s.sfq q).owner ≠ none)) ∧
    (∃ (q vs fn l : Nat) (s : Dev), (s.On) ∧ ((s.sfq q).owner = some (vs, fn, l)) ∧ (s.fbit Fld.SF_Q_CFG.EN q = false) ∧ ((s.sfq q).descs = []) ∧ ((s.sfq q).due = []) ∧ ((s.sfq q).fetching = false)) ∧
    (∃ (vs fn vec : Nat) (s : Dev), (s.On) ∧ (s.sfExists vs fn = true) ∧ (s.inFlr vs fn = false) ∧ (s.intMode vs fn = 3)) ∧
    (∃ (q vs fn l t : Nat) (s : Dev), (s.On) ∧ ((s.sfq q).owner = some (vs, fn, l)) ∧ ((s.sfq q).graceAt = some t) ∧ (t ≤ s.now) ∧ (s.fbit Fld.SF_Q_STAT.REVOKE_REQ q = true)) ∧
    (∃ (vs fn tag : Nat) (r : SfReq) (s : Dev), (s.On) ∧ (s.sfReq? vs fn tag = some r) ∧ (r.deadline ≤ s.ftime) ∧ (s.inFlr vs fn = false) ∧ (s.bme vs fn = true) ∧ (s.flushFar r = false)) ∧
    (∃ (q : Nat) (r : SfReq) (s : Dev), ((s.sf.fns.filter fun e => e.2.bmOff.any fun c => c != s.cycle) = []) ∧ ((s.sf.reqs.filter fun r => r.expAt.any fun c => c != s.cycle) = [r]) ∧ ((s.timeoutEnd r).sf.qs.all (fun e => e.2.bells.isEmpty) = true) ∧ (r.use = .fetch q)) ∧
    (∃ (vs fn tag : Nat) (cpl : CplIn) (r : SfReq) (s : Dev), (s.On) ∧ (s.sfExists vs fn = true) ∧ (s.sfReq? vs fn tag = some r) ∧ (cpl.last = true ∨ cpl.status ≠ 0)) ∧
    (∃ (vs fn tag : Nat) (cpl : CplIn) (x : SfQuar) (s : Dev), (s.On) ∧ (s.sfExists vs fn = true) ∧ (s.sfReq? vs fn tag = none) ∧ ((s.sf.quar.find? fun x => x.vs == vs && x.fn == fn && x.tag == tag) = some x) ∧ (x.silent = false)) ∧
    (∃ (vs fn tag : Nat) (s : Dev), (s.On) ∧ ((s.sf.quar.any fun x => x.vs == vs && x.fn == fn && x.tag == tag && decide (x.till ≤ s.ftime)) = true)) ∧
    (∃ (vs : Nat) (s : Dev), (s.On) ∧ (s.sfExists vs 0 = true) ∧ (s.inFlr vs 0 = false) ∧ (s.resetNow = false)) ∧
    (∃ (vs fn : Nat) (s : Dev), (s.On) ∧ (s.sfExists vs fn = true) ∧ (s.inFlr vs fn = false) ∧ (fn ≠ 0) ∧ (s.resetNow = false)) ∧
    (∃ (vs fn : Nat) (s : Dev), (s.On) ∧ (s.inFlr vs fn = true) ∧ (fn ≠ 0)) ∧
    (∃ (vs fn : Nat) (s : Dev), (s.On) ∧ (s.sfExists vs fn = true) ∧ (s.inFlr vs fn = false)) ∧
    (∃ (k : Nat) (x : SfFn) (s t : Dev), ((s.sf.fns.filter fun e => e.2.bmOff.any fun c => c != s.cycle) = [(k, x)]) ∧ (t = (s.modSfn (k / 1025) (k % 1025) fun f => { f with bmOff := none }).abandonAll (k / 1025) (k % 1025) fun _ => true) ∧ ((t.sf.reqs.filter fun r => r.expAt.any fun c => c != s.cycle) = []) ∧ ((t.sf.qs.filter fun e => !e.2.bells.isEmpty) = [])) ∧
    (∃ (vs fn : Nat) (s : Dev), (s.On) ∧ (s.sfExists vs fn = true) ∧ (s.inFlr vs fn = false)) :=
  ⟨⟨(0), (0), (0), (0), (15), ({ (rv.fset Fld.SF_Q_CFG.EN 0 1).fset Fld.SF_Q_CFG.SIZE_EXP 0 4 with sf.qs := [(0, { owner := some (0, 0, 0) })] }), by decide +kernel⟩,
    ⟨(0), (16), ({ owner := some (0, 0, 0), bells := [16] }), ({ (rv.fset Fld.SF_Q_CFG.EN 0 1).fset Fld.SF_Q_CFG.SIZE_EXP 0 4 with sf.qs := [(0, { owner := some (0, 0, 0), bells := [16] })] }), by decide +kernel⟩,
    ⟨(0), (0), (0), (0), ({ data := [64] ++ List.replicate 127 0 }), ({ rv with sf.qs := [(0, { owner := some (0, 0, 0), fetching := true })] }), by decide +kernel⟩,
    ⟨(0), (0), (0), (0), ({ status := 1 }), ({ rv with sf.qs := [(0, { owner := some (0, 0, 0), fetching := true })] }), by decide +kernel⟩,
    ⟨(0), ({ rv with sf.qs := [(0, { owner := some (0, 0, 0) })] }), by decide +kernel⟩,
    ⟨(0), ({ rv with sf.qs := [(0, { owner := some (0, 0, 0) })] }), by decide +kernel⟩,
    ⟨(0), (0), (0), (0), ({ rv with sf.qs := [(0, { owner := some (0, 0, 0) })] }), by decide +kernel⟩,
    ⟨(0), (0), (2), (rv.modSfn 0 0 fun f => { f with msixCtl := 32768 }), by decide +kernel⟩,
    ⟨(0), (0), (0), (0), (0), ({ rv.fset Fld.SF_Q_STAT.REVOKE_REQ 0 1 with sf.qs := [(0, { owner := some (0, 0, 0), graceAt := some 0 })] }), by decide +kernel⟩,
    ⟨(0), (0), (5), ({ vs := 0, fn := 0, tag := 5, use := .fetch 0, deadline := 0 }), ({ rv.modSfn 0 0 (fun f => { f with cfg := { f.cfg with cmd := 4 } }) with sf.reqs := [{ vs := 0, fn := 0, tag := 5, use := .fetch 0, deadline := 0 }] }), by decide +kernel⟩,
    ⟨(0), ({ vs := 0, fn := 0, tag := 5, use := .fetch 0, deadline := 0, expAt := some 0 }), ({ rv.modSfn 0 0 (fun f => { f with cfg := { f.cfg with cmd := 4 } }) with now := 4, sf.reqs := [{ vs := 0, fn := 0, tag := 5, use := .fetch 0, deadline := 0, expAt := some 0 }] }), by decide +kernel⟩,
    ⟨(0), (0), (5), ({}), ({ vs := 0, fn := 0, tag := 5, use := .fetch 0, deadline := 0 }), ({ rv with sf.reqs := [{ vs := 0, fn := 0, tag := 5, use := .fetch 0, deadline := 0 }] }), by decide +kernel⟩,
    ⟨(0), (0), (5), ({}), ({ vs := 0, fn := 0, tag := 5, till := 9, silent := false }), ({ rv with sf.quar := [{ vs := 0, fn := 0, tag := 5, till := 9, silent := false }] }), by decide +kernel⟩,
    ⟨(0), (0), (5), ({ rv with ftime := 9, sf.quar := [{ vs := 0, fn := 0, tag := 5, till := 9, silent := false }] }), by decide +kernel⟩,
    ⟨(0), (rv), by decide +kernel⟩,
    ⟨(0), (2), (rv.modSfn 0 0 fun f => { f with sriov := 1, numVfs := 2 }), by decide +kernel⟩,
    ⟨(0), (1), (rv.modSfn 0 1 fun f => { f with flrAt := some 0 }), by decide +kernel⟩,
    ⟨(0), (0), (rv), by decide +kernel⟩,
    ⟨(0), ({ bmOff := some 0 }), ({ rv with now := 4, sf.fns := [(0, { bmOff := some 0 })] }), ((({ rv with now := 4, sf.fns := [(0, { bmOff := some 0 })] } : Dev).modSfn 0 0 fun f => { f with bmOff := none }).abandonAll 0 0 fun _ => true), by decide +kernel⟩,
    ⟨(0), (0), (rv), by decide +kernel⟩⟩

/-- What LedgerMailboxAndErrorReportsComplete assumes is met. -/
theorem test_meets_LedgerMailboxAndErrorReportsComplete :
    (∃ (vs ctx : Nat) (s : Dev), (s.On) ∧ (s.sfExists vs 0 = true) ∧ (ctx < 8) ∧ (s.inFlr vs 0 = false) ∧ (s.fbit Fld.SF_LG_STAT.BUSY (lgKey vs ctx) = false)) ∧
    (∃ (vs ctx : Nat) (s : Dev), (s.On) ∧ (s.fbit Fld.SF_LG_STAT.BUSY (lgKey vs ctx) = true) ∧ (s.marksLeft vs ctx = false)) ∧
    (∃ (vs ctx t : Nat) (s : Dev), (s.On) ∧ (tfind s.sf.swapAt (lgKey vs ctx) = some t) ∧ (t + tMs ≤ s.now) ∧ (s.marksLeft vs ctx = true)) ∧
    (∃ (vs : Nat) (req : List Byte) (s : Dev), (s.On) ∧ (s.sfExists vs 0 = true) ∧ (s.inFlr vs 0 = false) ∧ (s.fbit Fld.SF_MB_STAT.BUSY vs = false) ∧ (1 ≤ req.length) ∧ (req.length ≤ 2047)) ∧
    (∃ (r : PerrReport) (s : Dev), (s.On) ∧ (s.vsExists r.vs = true)) ∧
    (∃ (r : PerrReport) (s : Dev), (s.On) ∧ (s.vsExists r.vs = false) ∧ (s.bindVs s.ap r.vs = none)) :=
  ⟨⟨(0), (7), (rv), by decide +kernel⟩,
    ⟨(0), (0), (rv.fset Fld.SF_LG_STAT.BUSY 0 1), by decide +kernel⟩,
    ⟨(0), (0), (0), ({ rv with now := tMs, sf.swapAt := [(0, 0)], sf.marks := [{ vs := 0, ctx := 0, b := true, loc := 0, addr := 0, bit := 0 }] }), by decide +kernel⟩,
    ⟨(0), ([1]), (rv), by decide +kernel⟩,
    ⟨({ vs := 0 }), (rv), by decide +kernel⟩,
    ⟨({ vs := 47 }), (rv), by decide +kernel⟩⟩

/-- What LaneCommandsComplete assumes is met. -/
theorem test_meets_LaneCommandsComplete :
    (∃ (i rx sym unc util t : Nat) (s : Dev), (s.On) ∧ (i < 192) ∧ ((s.lane i).till = some t) ∧ (t ≤ s.now) ∧ ((s.lane i).ended = none) ∧ ((s.lane i).par Fld.LN_WATCH.EN ≠ 0)) ∧
    (∃ (i rx sym util : Nat) (s : Dev), (s.fget Fld.LN_LANE_APPLIED.SRC i ≠ 1) ∧ (sym * 2 ^ (s.lane i).par Fld.LN_WATCH.THR_EXP ≤ rx)) ∧
    (∃ (i rx sym util : Nat) (s : Dev), (s.fget Fld.LN_LANE_APPLIED.SRC i ≠ 1) ∧ (rx < sym * 2 ^ (s.lane i).par Fld.LN_WATCH.THR_EXP)) ∧
    (∃ (i rx sym unc util : Nat) (s : Dev), (s.fget Fld.LN_LANE_APPLIED.SRC i ≠ 1) ∧ (0 < unc) ∧ (sym * 2 ^ (s.lane i).par Fld.LN_WATCH.THR_EXP ≤ rx)) ∧
    (∃ (b temp : Nat) (s : Dev), (s.On) ∧ (b < 12)) ∧
    (∃ (i n : Nat) (s : Dev), (s.On) ∧ (i < 192) ∧ (s.portOfLane i = some n) ∧ (s.enabled n = false) ∧ (s.testsTx i = false)) ∧
    (∃ (i bits errs t : Nat) (s : Dev), (s.On) ∧ ((s.lane i).prbsEnd = some t) ∧ (t ≤ s.now) ∧ (s.fbit Fld.LN_PRBS_CTRL.LOCK i = true)) ∧
    (∃ (i bits errs : Nat) (s : Dev), (s.On) ∧ (s.fbit Fld.LN_PRBS_CTRL.BUSY i = true) ∧ (s.fbit Fld.LN_PRBS_CTRL.LOCK i = true)) :=
  ⟨⟨(191), (10), (0), (0), (50), (0), ({ dv with ln.lane := [(191, { till := some 0, watch := 2 ^ 32 - 1 })] }), by decide +kernel⟩,
    ⟨(191), (10), (0), (50), (dv), by decide +kernel⟩,
    ⟨(191), (1), (9), (50), (dv), by decide +kernel⟩,
    ⟨(191), (10), (0), (3), (50), (dv), by decide +kernel⟩,
    ⟨(11), (400), (dv), by decide +kernel⟩,
    ⟨(191), (44), (dv.fset Fld.LN_PRBS_CTRL.DIR 191 2), by decide +kernel⟩,
    ⟨(0), (1), (0), (0), ({ dv.fset Fld.LN_PRBS_CTRL.LOCK 0 1 with ln.lane := [(0, { prbsEnd := some 0 })] }), by decide +kernel⟩,
    ⟨(0), (1), (1), ((dv.fset Fld.LN_PRBS_CTRL.LOCK 0 1).fset Fld.LN_PRBS_CTRL.BUSY 0 1), by decide +kernel⟩⟩

/-- What BrornaLinkCommandsComplete assumes is met. -/
theorem test_meets_BrornaLinkCommandsComplete :
    (∃ (n : Nat) (b : List Byte) (t : Option Tlp) (s : Dev), (s.On) ∧ (s.isFabric n = true) ∧ (b.length = 256) ∧ (s.blState n = blUp) ∧ (s.fbit Fld.BL_STAT.RXSLEEP n = false) ∧ ((checkFlit b).1 = .good)) ∧
    (∃ (n : Nat) (s : Dev), (s.On) ∧ (s.blState n = blReset) ∧ ((s.bl! n).resets < 64)) ∧
    (∃ (n : Nat) (x : TxFlit) (rest : List TxFlit) (s : Dev), (s.On) ∧ (s.blState n = blUp) ∧ (s.fbit Fld.BL_STAT.TXSLEEP n = false) ∧ ((s.bl! n).replayFrom = none) ∧ ((s.bl! n).txq = x :: rest) ∧ ((s.bl! n).unacked.length < min (s.fget Fld.BL_LINK.WIN n) (s.share n)) ∧ (1 ≤ s.blCredit n x.pool)) ∧
    (∃ (n : Nat) (s : Dev), (s.On) ∧ (s.blState n = blUp) ∧ (s.fbit Fld.BL_STAT.TXSLEEP n = false) ∧ ((s.bl! n).replayFrom = none) ∧ ((s.bl! n).txq = [])) ∧
    (∃ (n : Nat) (s t : Dev), (s.On) ∧ (n < 48) ∧ (s.enabled n = false) ∧ (s.role n = 1) ∧ (s.width n ≠ 0) ∧ (t = each (s.lanesOf n) (s.oset (0x4000 + n) 1 1) fun s i => s.prbsStop i) ∧ (t.isFabric n = false)) ∧
    (∃ (n : Nat) (s t : Dev), (s.On) ∧ (n < 48) ∧ (s.enabled n = false) ∧ (s.role n = 2) ∧ (s.width n ≠ 0) ∧ (t = each (s.lanesOf n) (s.oset (0x4000 + n) 1 1) fun s i => s.prbsStop i) ∧ (t.isFabric n = true) ∧ (t.blState n ≠ blReset)) ∧
    (∃ (n : Nat) (s : Dev), (s.On) ∧ (s.enabled n = true) ∧ (s.role n = 1)) ∧
    (∃ (n : Nat) (s : Dev), (s.On) ∧ (s.enabled n = true) ∧ (s.role n = 2) ∧ (s.blState n = blUp)) ∧
    (∃ (n lane bits errs t : Nat) (s : Dev), (s.On) ∧ (s.blState n = blTrain) ∧ (lane < s.width n) ∧ ((s.lane (16 * (n / 4) + 4 * (n % 4) + lane)).window = some t) ∧ (t ≤ s.now) ∧ (errs * 2 ^ (s.bl! n).bring Fld.BL_BRINGUP.BER_EXP ≤ bits)) ∧
    (∃ (n lane bits errs t : Nat) (s : Dev), (s.On) ∧ (s.blState n = blTrain) ∧ (lane < s.width n) ∧ ((s.lane (16 * (n / 4) + 4 * (n % 4) + lane)).window = some t) ∧ (t ≤ s.now) ∧ (bits < errs * 2 ^ (s.bl! n).bring Fld.BL_BRINGUP.BER_EXP)) ∧
    (∃ (n t : Nat) (s : Dev), (s.On) ∧ ((s.bl! n).allOkAt = some t) ∧ (s.blState n = blTrain) ∧ (t + 4 * tUs ≤ s.now) ∧ ((s.bl! n).partner.known = false)) ∧
    (∃ (n : Nat) (s : Dev), (s.On) ∧ (s.blState n = blTrain ∨ s.blState n = blAlign) ∧ ((s.bl! n).bringAt + tMs * 2 ^ (s.bl! n).bring Fld.BL_BRINGUP.TO_EXP ≤ s.now)) ∧
    (∃ (n : Nat) (s : Dev), (s.On) ∧ (s.blState n = blReset) ∧ (64 ≤ (s.bl! n).resets) ∧ ((s.bl! n).disabling = false)) ∧
    (∃ (n : Nat) (s t : Dev), (s.On) ∧ (s.blState n = blReset) ∧ (64 ≤ (s.bl! n).resets) ∧ ((s.bl! n).disabling = true) ∧ (t = (s.blEnter n blDisabled).modBl n fun b => { b with disabling := false, rankKnown := false }) ∧ (t.enabled n = false)) ∧
    (∃ (n : Nat) (s t : Dev), (s.On) ∧ (s.blState n = blReset) ∧ (64 ≤ (s.bl! n).resets) ∧ ((s.bl! n).disabling = true) ∧ (t = (s.blEnter n blDisabled).modBl n fun b => { b with disabling := false, rankKnown := false }) ∧ (t.enabled n = true)) ∧
    (∃ (n : Nat) (s : Dev), (s.On) ∧ (s.blState n = blQuiet) ∧ ((s.bl! n).quietTill ≤ s.now) ∧ ((s.bl! n).waitSig = none) ∧ (s.fbit Fld.BL_CTRL.AUTO n = true) ∧ ((s.bl! n).rankKnown = false ∨ s.outranks (s.bl! n).partner = true)) ∧
    (∃ (n : Nat) (s : Dev), (s.On) ∧ (s.blState n = blQuiet) ∧ ((s.bl! n).waitSig ≠ none)) ∧
    (∃ (n t : Nat) (s : Dev), (s.On) ∧ ((s.bl! n).waitSig = some t) ∧ (s.blState n = blQuiet) ∧ (t ≤ s.now)) ∧
    (∃ (n lane : Nat) (s : Dev), (s.On) ∧ (s.blState n = blUp) ∧ (s.fbit Fld.BL_STAT.RXSLEEP n = false)) ∧
    (∃ (n t : Nat) (s : Dev), (s.On) ∧ ((s.bl! n).replayAt = some t) ∧ (s.blState n = blUp) ∧ (t ≤ s.now) ∧ ((s.bl! n).unacked ≠ []) ∧ (s.fbit Fld.BL_STAT.RXSLEEP n = false)) ∧
    (∃ (n : Nat) (s : Dev), ((s.bl! n).replays ≠ s.fget Fld.BL_LINK.REPLAY_MAX n)) ∧
    (∃ (n : Nat) (s : Dev), ((s.bl! n).replays = s.fget Fld.BL_LINK.REPLAY_MAX n)) ∧
    (∃ (n : Nat) (s : Dev), (s.On) ∧ (s.maySleep n = true)) ∧
    (∃ (n : Nat) (s : Dev), (s.On) ∧ (s.blState n = blUp) ∧ (s.fbit Fld.BL_STAT.TXSLEEP n = true) ∧ (s.wakeDue n = true)) ∧
    (∃ (n t : Nat) (s : Dev), (s.On) ∧ ((s.bl! n).realignAt = some t) ∧ (s.blState n = blUp) ∧ (t ≤ s.now)) :=
  ⟨⟨(8), (zeroFlit), (none), (rv), by decide +kernel, by decide +kernel, zeroFlit_length, by decide +kernel, by decide +kernel, zeroFlit_good⟩,
    ⟨(8), (rv.fset Fld.BL_STAT.STATE 8 blReset), by decide +kernel⟩,
    ⟨(8), ({ pid := 3 }), ([]), ({ rv with bl.ports := [(8, { txq := [{ pid := 3 }], limits := [9, 9, 9, 9] })] }), by decide +kernel⟩,
    ⟨(8), (rv), by decide +kernel⟩,
    ⟨(4), (rv.oset 0x4004 1 0), (each ((rv.oset 0x4004 1 0 : Dev).lanesOf 4) ((rv.oset 0x4004 1 0 : Dev).oset 0x4004 1 1) fun s i => s.prbsStop i), by decide +kernel⟩,
    ⟨(8), (rv.oset 0x4008 1 0), (each ((rv.oset 0x4008 1 0 : Dev).lanesOf 8) ((rv.oset 0x4008 1 0 : Dev).oset 0x4008 1 1) fun s i => s.prbsStop i), by decide +kernel⟩,
    ⟨(4), (rv), by decide +kernel⟩,
    ⟨(8), (rv), by decide +kernel⟩,
    ⟨(8), (7), (0), (0), (0), ({ rv.fset Fld.BL_STAT.STATE 8 blTrain with ln.lane := [(39, { window := some 0 })] }), by decide +kernel⟩,
    ⟨(8), (0), (0), (1), (0), ({ rv.fset Fld.BL_STAT.STATE 8 blTrain with ln.lane := [(32, { window := some 0 })] }), by decide +kernel⟩,
    ⟨(8), (0), ({ rv.fset Fld.BL_STAT.STATE 8 blTrain with now := 4 * tUs, bl.ports := [(8, { allOkAt := some 0 })] }), by decide +kernel⟩,
    ⟨(8), ({ rv.fset Fld.BL_STAT.STATE 8 blAlign with now := 1000 * tSec }), by decide +kernel⟩,
    ⟨(8), ({ rv.fset Fld.BL_STAT.STATE 8 blReset with bl.ports := [(8, { resets := 64 })] }), by decide +kernel⟩,
    ⟨(8), ({ (rv.fset Fld.BL_STAT.STATE 8 blReset).oset 0x4008 1 0 with bl.ports := [(8, { resets := 64, disabling := true })] }), ((({ (rv.fset Fld.BL_STAT.STATE 8 blReset).oset 0x4008 1 0 with bl.ports := [(8, { resets := 64, disabling := true })] } : Dev).blEnter 8 blDisabled).modBl 8 fun b => { b with disabling := false, rankKnown := false }), by decide +kernel⟩,
    ⟨(8), ({ rv.fset Fld.BL_STAT.STATE 8 blReset with bl.ports := [(8, { resets := 64, disabling := true })] }), ((({ rv.fset Fld.BL_STAT.STATE 8 blReset with bl.ports := [(8, { resets := 64, disabling := true })] } : Dev).blEnter 8 blDisabled).modBl 8 fun b => { b with disabling := false, rankKnown := false }), by decide +kernel⟩,
    ⟨(8), ((rv.fset Fld.BL_STAT.STATE 8 blQuiet).fset Fld.BL_CTRL.AUTO 8 1), by decide +kernel⟩,
    ⟨(8), ({ rv.fset Fld.BL_STAT.STATE 8 blQuiet with bl.ports := [(8, { waitSig := some 9 })] }), by decide +kernel⟩,
    ⟨(8), (9), ({ rv.fset Fld.BL_STAT.STATE 8 blQuiet with now := 9, bl.ports := [(8, { waitSig := some 9 })] }), by decide +kernel⟩,
    ⟨(8), (0), (rv), by decide +kernel⟩,
    ⟨(8), (0), ({ rv with bl.ports := [(8, { replayAt := some 0, unacked := [{}] })] }), by decide +kernel⟩,
    ⟨(8), (rv), by decide +kernel⟩,
    ⟨(8), ({ rv with bl.ports := [(8, { replayAt := some 0, unacked := [{}], replays := rv.fget Fld.BL_LINK.REPLAY_MAX 8 })] }), by decide +kernel⟩,
    ⟨(8), ({ (rv.fset Fld.BL_SLEEP.EN 8 1) with now := 100 * tSec, bl.ports := [(8, { sentAck := (rv.fget Fld.BL_SEQ.RXNE 8 + 16383) % 16384, sentLimit := (List.range 4).map fun q => rv.creditLimit 8 q })] }), by decide +kernel⟩,
    ⟨(8), ({ rv.fset Fld.BL_STAT.TXSLEEP 8 1 with bl.ports := [(8, { wakeReq := true })] }), by decide +kernel⟩,
    ⟨(8), (0), ({ rv with bl.ports := [(8, { realignAt := some 0 })] }), by decide +kernel⟩⟩

/-- What DirectedPacketCommandsComplete assumes is met. -/
theorem test_meets_DirectedPacketCommandsComplete :
    (∃ (port n ev reason time : Nat) (s : Dev), (s.On) ∧ (s.rt.nbrPend.find? (fun p => p.1 == port) = some (n, ev, reason, time)) ∧ (s.joined = true)) ∧
    (∃ (port : Nat) (b c : List Byte) (s : Dev), (s.On) ∧ (s.isFabric port = true) ∧ (directedHop port b = some c) ∧ (byteN c 2 < byteN c 1) ∧ (directedKind (byteN c 0) = true)) ∧
    (∃ (port : Nat) (b : List Byte) (s : Dev), (s.On) ∧ (s.isFabric port = true) ∧ (directedHop port b = none)) ∧
    (∃ (port : Nat) (b c : List Byte) (s : Dev), (s.On) ∧ (s.isFabric port = true) ∧ (directedHop port b = some c) ∧ (byteN c 0 = 1) ∧ (byteN c 2 = byteN c 1)) ∧
    (∃ (port : Nat) (b c : List Byte) (s : Dev), (s.On) ∧ (s.isFabric port = true) ∧ (directedHop port b = some c) ∧ (byteN c 0 = 2) ∧ (byteN c 2 = byteN c 1)) ∧
    (∃ (port : Nat) (b c : List Byte) (s : Dev), (s.On) ∧ (s.isFabric port = true) ∧ (directedHop port b = some c) ∧ (byteN c 0 = 3) ∧ (byteN c 2 = byteN c 1) ∧ (classPair (byteN c 40 % 4) (s.turnClass s.ap port) = false)) ∧
    (∃ (port : Nat) (b c : List Byte) (s : Dev), (s.On) ∧ (s.isFabric port = true) ∧ (directedHop port b = some c) ∧ (byteN c 0 = 8) ∧ (byteN c 2 = byteN c 1) ∧ (byteN c 40 = 0x11) ∧ (byteN c 41 ≤ 3) ∧ (s.busHeld dirSrc = false)) ∧
    (∃ (port : Nat) (b c : List Byte) (s : Dev), (s.On) ∧ (s.isFabric port = true) ∧ (directedHop port b = some c) ∧ (byteN c 0 = 9) ∧ (byteN c 2 = byteN c 1)) ∧
    (∃ (port : Nat) (b c : List Byte) (s : Dev), (s.On) ∧ (s.isFabric port = true) ∧ (s.joined = false) ∧ (directedHop port b = some c) ∧ (byteN c 0 = 0x0A) ∧ (byteN c 2 = byteN c 1)) ∧
    (∃ (port : Nat) (b c : List Byte) (s : Dev), (s.On) ∧ (s.isFabric port = true) ∧ (directedHop port b = some c) ∧ (byteN c 0 = 0x0B) ∧ (byteN c 2 = byteN c 1)) :=
  ⟨⟨(8), (8), (1), (0), (7), ({ rv with rt.nbrPend := [(8, 1, 0, 7)] }), by decide +kernel⟩,
    ⟨(8), ([1, 2, 0, 0, 0, 0, 0, 0, 8, 12] ++ List.replicate 30 0), ((directedHop 8 ([1, 2, 0, 0, 0, 0, 0, 0, 8, 12] ++ List.replicate 30 0)).getD []), (rv), by decide +kernel⟩,
    ⟨(8), ([]), (rv), by decide +kernel⟩,
    ⟨(8), ([1, 1, 0, 0, 0, 0, 0, 0, 8] ++ List.replicate 31 0), ((directedHop 8 ([1, 1, 0, 0, 0, 0, 0, 0, 8] ++ List.replicate 31 0 : List Byte)).getD []), (rv), by decide +kernel⟩,
    ⟨(8), ([2, 1, 0, 0, 0, 0, 0, 0, 8] ++ List.replicate 31 0), ((directedHop 8 ([2, 1, 0, 0, 0, 0, 0, 0, 8] ++ List.replicate 31 0 : List Byte)).getD []), (rv), by decide +kernel⟩,
    ⟨(8), ([3, 1, 0, 0, 0, 0, 0, 0, 8] ++ List.replicate 31 0 ++ [1, 0, 0, 0]), ((directedHop 8 ([3, 1, 0, 0, 0, 0, 0, 0, 8] ++ List.replicate 31 0 ++ [1, 0, 0, 0] : List Byte)).getD []), (rv), by decide +kernel⟩,
    ⟨(8), ([8, 1, 0, 0, 0, 0, 0, 0, 8] ++ List.replicate 31 0 ++ [17, 0, 0, 0, 0, 0, 0, 0, 0, 0, 0, 0]), ((directedHop 8 ([8, 1, 0, 0, 0, 0, 0, 0, 8] ++ List.replicate 31 0 ++ [17, 0, 0, 0, 0, 0, 0, 0, 0, 0, 0, 0] : List Byte)).getD []), (rv), by decide +kernel⟩,
    ⟨(8), ([9, 1, 0, 0, 0, 0, 0, 0, 8] ++ List.replicate 31 0), ((directedHop 8 ([9, 1, 0, 0, 0, 0, 0, 0, 8] ++ List.replicate 31 0 : List Byte)).getD []), (rv), by decide +kernel⟩,
    ⟨(8), ([10, 1, 0, 0, 0, 0, 0, 0, 8] ++ List.replicate 31 0 ++ List.replicate 32 0), ((directedHop 8 ([10, 1, 0, 0, 0, 0, 0, 0, 8] ++ List.replicate 31 0 ++ List.replicate 32 0 : List Byte)).getD []), (dv.oset 0x4008 2 2), by decide +kernel⟩,
    ⟨(8), ([11, 1, 0, 0, 0, 0, 0, 0, 8] ++ List.replicate 31 0), ((directedHop 8 ([11, 1, 0, 0, 0, 0, 0, 0, 8] ++ List.replicate 31 0 : List Byte)).getD []), (rv), by decide +kernel⟩⟩

/-- What RoutingAndCrossingCommandsComplete assumes is met. -/
theorem test_meets_RoutingAndCrossingCommandsComplete :
    (∃ (vs n v : Nat) (r : VdspWinReg) (s : Dev), (s.On) ∧ (s.vdspExists vs n = true)) ∧
    (∃ (vs n : Nat) (h : WinHold) (s : Dev), (s.On) ∧ (s.rt.holds.find? (fun h => h.vs == vs && h.n == n && decide (h.deadline ≤ s.now)) = some h)) ∧
    (∃ (vs : Nat) (s : Dev), (s.On) ∧ (s.vsExists vs = true)) ∧
    (∃ (vs : Nat) (codes : List Nat) (s : Dev), (s.On) ∧ (s.vsExists vs = false) ∧ (s.bindVs s.ap vs ≠ none)) ∧
    (∃ (vs f : Nat) (s : Dev), (s.On) ∧ (s.vsExists vs = true)) ∧
    (∃ (f d : Nat) (o : Owed) (s : Dev), (s.On) ∧ (tget {} s.rt.owed (f * 2048 + d) = o) ∧ (s.fget Fld.RT_HAND_CFG.RET_BATCH 0 ≤ o.c0 + o.c1) ∧ (1 ≤ o.c0 + o.c1) ∧ (o.c0 ≤ 255) ∧ (o.c1 ≤ 255)) ∧
    (∃ (f c0 c1 : Nat) (s : Dev), (s.On) ∧ (f < 2048)) ∧
    (∃ (t par : Nat) (s : Dev), (s.On) ∧ (s.rt.auditAt = some (t, par)) ∧ (t ≤ s.now)) ∧
    (∃ (s : Dev), (s.On)) ∧
    (∃ (t : Nat) (s : Dev), (s.On) ∧ (s.rt.chkAt = some t)) ∧
    (∃ (reqId tag : Nat) (r : Req) (s : Dev), (s.On) ∧ (s.findReq reqId tag = some r) ∧ (r.deadline ≤ s.now)) ∧
    (∃ (r : Req) (s : Dev), (r.tok = false) ∧ (r.locked = false)) ∧
    (∃ (r : Req) (s : Dev), (r.tok = true) ∧ (r.locked = false)) ∧
    (∃ (reqId tag : Nat) (s : Dev), (s.On)) ∧
    (∃ (vs : Nat) (s : Dev), (s.On) ∧ (s.vsExists vs = true) ∧ (s.lockHeld vs = true)) ∧
    (∃ (src id addr : Nat) (s : Dev), (s.On) ∧ (s.busHeld src = false)) ∧
    (∃ (src id addr data : Nat) (s : Dev), (s.On) ∧ (s.busHeld src = false)) ∧
    (∃ (src id addr data : Nat) (s : Dev), (s.On) ∧ (s.busHeld src = true)) ∧
    (∃ (src id addr : Nat) (s : Dev), (s.On) ∧ (s.lockOn src = false) ∧ (s.busHeld src = false)) ∧
    (∃ (src id addr : Nat) (s : Dev), (s.On) ∧ (s.lockOn src = true) ∧ (src ≤ s.fsid)) ∧
    (∃ (src id addr data : Nat) (s : Dev), (s.On) ∧ (s.busHeld src = false)) ∧
    (∃ (src id status data : Nat) (o : MwOut) (s : Dev), (s.On) ∧ (s.xing.mwOut.find? (fun o => o.id == id && o.dst == src) = some o)) ∧
    (∃ (id : Nat) (o : MwOut) (s : Dev), (s.On) ∧ (s.xing.mwOut.find? (fun o => o.id == id) = some o) ∧ (o.deadline ≤ s.now)) ∧
    (∃ (f till : Nat) (s : Dev), (s.On) ∧ (s.xing.farLock = some (f, till)) ∧ (till ≤ s.now)) :=
  ⟨⟨(0), (7), (16), (.memBase), (rv), by decide +kernel⟩,
    ⟨(0), (0), ({ vs := 0, n := 0, notice := 1, deadline := 5 }), ({ rv with now := 5, rt.holds := [{ vs := 0, n := 0, notice := 1, deadline := 5 }] }), by decide +kernel⟩,
    ⟨(0), (rv), by decide +kernel⟩,
    ⟨(0), (List.replicate 256 0), (rv.fset Fld.PCI_VS_CFG.HPV 0 0), by decide +kernel⟩,
    ⟨(0), (6), (rv), by decide +kernel⟩,
    ⟨(5), (1), ({ c0 := 255, c1 := 255 }), ({ rv with rt.owed := [(10241, { c0 := 255, c1 := 255 })] }), by decide +kernel⟩,
    ⟨(2047), (1), (0), (dv), by decide +kernel⟩,
    ⟨(0), (1), ({ rv with rt.auditAt := some (0, 1) }), by decide +kernel⟩,
    ⟨(dv), by decide +kernel⟩,
    ⟨(0), ({ rv with rt.chkAt := some 0 }), by decide +kernel⟩,
    ⟨(0), (5), ({ reqId := 0, tag := 5, vs := 0, port := 0, dgpa := 320, par := 0, tok := false, shelf := 1, deadline := 0, fto := 1, bytes := 4, left := 4, addr := 0, oc := 0, locked := false, eseq := none }), ({ rv with xing.reqs := [({ reqId := 0, tag := 5, vs := 0, port := 0, dgpa := 320, par := 0, tok := false, shelf := 1, deadline := 0, fto := 1, bytes := 4, left := 4, addr := 0, oc := 0, locked := false, eseq := none } : Req)] }), by decide +kernel⟩,
    ⟨({ reqId := 0, tag := 5, vs := 0, port := 0, dgpa := 320, par := 0, tok := false, shelf := 1, deadline := 0, fto := 1, bytes := 4, left := 4, addr := 0, oc := 0, locked := false, eseq := none }), (rv), by decide +kernel⟩,
    ⟨({ reqId := 0, tag := 5, vs := 0, port := 0, dgpa := 320, par := 0, tok := true, shelf := 1, deadline := 0, fto := 1, bytes := 4, left := 4, addr := 0, oc := 0, locked := false, eseq := none }), (rv), by decide +kernel⟩,
    ⟨(0), (0), (dv), by decide +kernel⟩,
    ⟨(0), (rv.fset Fld.XB_LOCK.HELD 0 1), by decide +kernel⟩,
    ⟨(5), (65535), (0), (rv), by decide +kernel⟩,
    ⟨(5), (0), (0), (1), (rv), by decide +kernel⟩,
    ⟨(5), (0), (0), (1), ({ rv with xing.farLock := some (6, 100) }), by decide +kernel⟩,
    ⟨(5), (0), (0), (rv), by decide +kernel⟩,
    ⟨(0), (0), (0), ({ rv with xing.held := [0] }), by decide +kernel⟩,
    ⟨(5), (0), (0), (1), ({ rv with xing.farLock := some (5, 100) }), by decide +kernel⟩,
    ⟨(5), (0), (0), (1), (⟨0, 5, 0, .core .data, 9⟩), ({ rv with xing.mwOut := [⟨0, 5, 0, .core .data, 9⟩] }), by decide +kernel⟩,
    ⟨(0), (⟨0, 5, 0, .core .data, 9⟩), ({ rv with now := 9, xing.mwOut := [⟨0, 5, 0, .core .data, 9⟩] }), by decide +kernel⟩,
    ⟨(5), (0), ({ rv with xing.farLock := some (5, 0) }), by decide +kernel⟩⟩

/-- What DeliveryCommandsComplete assumes is met. -/
theorem test_meets_DeliveryCommandsComplete :
    (∃ (f oc : Nat) (s : Dev), (s.On) ∧ (s.joined = true) ∧ (oc < 8) ∧ ((s.inS f oc).ackNow = true)) ∧
    (∃ (d oc a : Nat) (s : Dev), (s.On) ∧ (seqSub (s.outS d oc).next (s.outS d oc).oldest < seqSub a (s.outS d oc).oldest)) ∧
    (∃ (d oc a : Nat) (s : Dev), (s.On) ∧ (seqSub a (s.outS d oc).oldest ≤ seqSub (s.outS d oc).next (s.outS d oc).oldest) ∧ (a ≠ (s.outS d oc).oldest)) ∧
    (∃ (d oc t : Nat) (s : Dev), (s.On) ∧ ((s.outS d oc).skip = none) ∧ ((s.outS d oc).timer = some t) ∧ (t ≤ s.now) ∧ (s.fget Fld.DL_CFG.E2E_MAX 0 ≤ (s.outS d oc).expiries)) ∧
    (∃ (f oc src val : Nat) (s : Dev), (s.On) ∧ (s.ordered f oc = false)) ∧
    (∃ (f oc src val : Nat) (s : Dev), (s.On)) ∧
    (∃ (f d oc : Nat) (x : Fence) (s : Dev), (s.On) ∧ (s.dl.fences.find? (fun x => x.f == f && x.d == d && x.oc == oc) = some x) ∧ (x.ok = true) ∧ (x.at_ + tQuarter * s.fget Fld.DL_FENCE_CFG.POLL 0 ≤ s.now)) ∧
    (∃ (f d oc : Nat) (x : Fence) (s : Dev), (s.On) ∧ (s.dl.fences.find? (fun x => x.f == f && x.d == d && x.oc == oc) = some x) ∧ (x.ok = false) ∧ (x.at_ + tQuarter * s.fget Fld.DL_FENCE_CFG.FENCE_TO 0 ≤ s.now)) ∧
    (∃ (pid : Nat) (p : Pkt) (s : Dev), (s.On) ∧ (s.pkt? pid = some p) ∧ (p.eseq ≠ none) ∧ (p.decNow + s.fget Fld.DL_CFG.LIFE 0 * 10 * tUs ≤ s.now) ∧ (p.remote = true) ∧ (p.granted = 0) ∧ (p.stage = .queued)) :=
  ⟨⟨(5), (7), ({ rv with dl.ins := [(strKey 5 7, { ackNow := true })] }), by decide +kernel⟩,
    ⟨(5), (0), (1), (dv), by decide +kernel⟩,
    ⟨(5), (0), (1), ({ rv with dl.outs := [(strKey 5 0, { next := 1 })] }), by decide +kernel⟩,
    ⟨(5), (0), (0), ({ rv with dl.outs := [(strKey 5 0, { next := 1, timer := some 0, expiries := 255 })] }), by decide +kernel⟩,
    ⟨(5), (0), (5), (16777215), (rv), by decide +kernel⟩,
    ⟨(5), (0), (5), (0), (dv), by decide +kernel⟩,
    ⟨(1), (5), (0), (⟨1, 5, 0, 0, [], true, 0, 0⟩), ({ rv with now := tSec, dl.fences := [⟨1, 5, 0, 0, [], true, 0, 0⟩] }), by decide +kernel⟩,
    ⟨(1), (5), (0), (⟨1, 5, 0, 0, [], false, 0, 0⟩), ({ rv with now := tSec, dl.fences := [⟨1, 5, 0, 0, [], false, 0, 0⟩] }), by decide +kernel⟩,
    ⟨(0), ({ eseq := some 0, remote := true, stage := .queued }), ({ rv with now := tSec, fwd.pkts := [(0, { eseq := some 0, remote := true, stage := .queued })] }), by decide +kernel⟩⟩

/-- What DealCommandsComplete assumes is met. -/
theorem test_meets_DealCommandsComplete :
    (∃ (src : TreeSrc) (m : TreeMsg) (s t : Dev), (s.On) ∧ (m.kind = 0x10) ∧ (s.treeAccept src = true) ∧ (s.fget Fld.DL_DEAL_STAT.TERM 0 ≤ m.term) ∧ (t = s.followed src m) ∧ (t.prepCode m true = 0) ∧ (t.fget Fld.DL_DEAL_STAT.STATE 0 ≠ 1)) ∧
    (∃ (src : TreeSrc) (m : TreeMsg) (code : Nat) (s t : Dev), (s.On) ∧ (m.kind = 0x10) ∧ (s.treeAccept src = true) ∧ (s.fget Fld.DL_DEAL_STAT.TERM 0 ≤ m.term) ∧ (t = s.followed src m) ∧ (t.prepCode m true = code) ∧ (code ≠ 0)) ∧
    (∃ (src : TreeSrc) (m : TreeMsg) (s : Dev), (s.On) ∧ (s.treeAccept src = false)) ∧
    (∃ (m : TreeMsg) (f : Nat) (s : Dev), (s.On) ∧ (m.kind = 0x11) ∧ ((s.treeKids.any fun k => k.2 == f) = true) ∧ (s.dl.vote.active = true) ∧ (s.dl.vote.isFor 0x11 m = true) ∧ (s.dl.vote.from_.contains f = false)) ∧
    (∃ (src : TreeSrc) (m : TreeMsg) (s t : Dev), (s.On) ∧ (m.kind = 0x12) ∧ (s.treeAccept src = true) ∧ (s.fget Fld.DL_DEAL_STAT.TERM 0 ≤ m.term) ∧ (t = s.followed src m) ∧ (t.preparedFor m.epoch = true) ∧ (t.ftime < m.t)) ∧
    (∃ (src : TreeSrc) (m : TreeMsg) (s t : Dev), (s.On) ∧ (m.kind = 0x12) ∧ (s.treeAccept src = true) ∧ (s.fget Fld.DL_DEAL_STAT.TERM 0 ≤ m.term) ∧ (t = s.followed src m) ∧ (t.preparedFor m.epoch = true) ∧ (m.t ≤ t.ftime)) ∧
    (∃ (x : Nat) (s : Dev), (s.On) ∧ (s.dl.goT = some x) ∧ (s.dl.goLate = none) ∧ (s.fget Fld.DL_DEAL_STAT.STATE 0 = 1) ∧ (x ≤ s.sampled)) ∧
    (∃ (c : Nat) (s : Dev), (s.On) ∧ (s.dl.goLate = some c) ∧ (s.fget Fld.DL_DEAL_STAT.STATE 0 = 1) ∧ (c < s.cycle)) ∧
    (∃ (src : TreeSrc) (m : TreeMsg) (s t : Dev), (s.On) ∧ (m.kind = 0x13) ∧ (s.treeAccept src = true) ∧ (s.fget Fld.DL_DEAL_STAT.TERM 0 ≤ m.term) ∧ (t = s.followed src m) ∧ (t.preparedFor m.epoch = true)) ∧
    (∃ (src : TreeSrc) (m : TreeMsg) (s t : Dev), (s.On) ∧ (m.kind = 0x14) ∧ (s.treeAccept src = true) ∧ (s.fget Fld.DL_DEAL_STAT.TERM 0 ≤ m.term) ∧ (t = s.followed src m) ∧ (2 ≤ t.fget Fld.DL_DEAL_STAT.STATE 0) ∧ (m.epoch = t.fget Fld.DL_DEAL_EPOCH.EPOCH 0) ∧ (t.fget Fld.DL_DRAIN_STAT.ROUND 0 < m.t % 65536)) ∧
    (∃ (s : Dev), (s.On) ∧ (s.fget Fld.DL_DEAL_STAT.STATE 0 = 2) ∧ (s.drainMissing = []) ∧ (s.oldGone = true)) ∧
    (∃ (src : TreeSrc) (m : TreeMsg) (f : Nat) (s : Dev), (s.On) ∧ (src = .fsid f) ∧ (m.kind = 0x15) ∧ ((s.treeKids.any fun k => k.2 == f) = false) ∧ (s.dl.dealer.active = true)) ∧
    (∃ (src : TreeSrc) (m : TreeMsg) (s t u : Dev), (s.On) ∧ (m.kind = 0x16) ∧ (s.treeAccept src = true) ∧ (s.fget Fld.DL_DEAL_STAT.TERM 0 ≤ m.term) ∧ (t = s.followed src m) ∧ (t.fget Fld.DL_DEAL_STAT.STATE 0 = 3) ∧ (m.epoch = t.fget Fld.DL_DEAL_EPOCH.EPOCH 0) ∧ (u = (if t.dealTree t.ap then t.installTree t.ap else t).fset Fld.DL_DEAL_STAT.STATE 0 0)) ∧
    (∃ (port info : Nat) (s : Dev), (s.On) ∧ (s.blActive port = true)) ∧
    (∃ (port id : Nat) (s : Dev), (s.On) ∧ (s.blActive port = true) ∧ (s.dl.cutId = some (id % 65536))) ∧
    (∃ (s : Dev), (s.On) ∧ (s.fget Fld.DL_DEAL_STAT.STATE 0 = 2) ∧ (s.dl.markerTo = false) ∧ (s.dl.drainDue ≤ s.now) ∧ (s.drainMissing ≠ []) ∧ (s.hatchHolding 1 = none)) ∧
    (∃ (s : Dev), (s.On) ∧ (s.dl.cutActive = true) ∧ (s.dl.cutDue ≤ s.now) ∧ (s.cutMissing ≠ []) ∧ (s.hatchHolding 2 = none)) ∧
    (∃ (src : TreeSrc) (m : TreeMsg) (s t : Dev), (s.On) ∧ (m.kind = 0x17) ∧ (s.treeAccept src = true) ∧ (s.fget Fld.DL_DEAL_STAT.TERM 0 ≤ m.term) ∧ (t = s.followed src m) ∧ (t.dl.cutId ≠ some (m.epoch % 65536))) ∧
    (∃ (s : Dev), (s.On) ∧ (s.dl.cutActive = true) ∧ (s.cutMissing = [])) ∧
    (∃ (src : TreeSrc) (m : TreeMsg) (f : Nat) (s : Dev), (s.On) ∧ (src = .fsid f) ∧ (m.kind = 0x18) ∧ ((s.treeKids.any fun k => k.2 == f) = true) ∧ (s.dl.done.active = true) ∧ (s.dl.done.epoch = m.epoch) ∧ (s.dl.done.from_.contains f = false)) ∧
    (∃ (miss : List (Nat × Nat)) (s : Dev), (s.On) ∧ (s.dl.vote.active = true) ∧ (s.dl.vote.deadline ≤ s.now) ∧ (miss = s.treeKids.filter fun k => !s.dl.vote.from_.contains k.2) ∧ (miss ≠ [])) ∧
    (∃ (s t : Dev), (s.On) ∧ (s.mayDeal = true) ∧ (s.dl.dealer.active = true) ∧ (s.dl.dealer.beatAt ≤ s.now)) ∧
    (∃ (s : Dev), (s.On) ∧ (s.onum 0x7100 1 0 = 2) ∧ (s.dl.dealer.active = false) ∧ (byteN s.lastRecord 0 = 6)) ∧
    (∃ (src : TreeSrc) (m : TreeMsg) (s t : Dev), (s.On) ∧ (m.kind = 0x19) ∧ (s.treeAccept src = true) ∧ (s.fget Fld.DL_DEAL_STAT.TERM 0 ≤ m.term) ∧ (t = s.followed src m)) ∧
    (∃ (x : Nat) (s : Dev), (s.On) ∧ (s.dl.resetT = some x) ∧ (x ≤ s.sampled) ∧ (s.dl.resetLate = false)) :=
  ⟨⟨(.external), ({ kind := 16, term := 1, epoch := 1 }), (rv.fset Fld.RT_STAGE_STAT.DONE 0 1), ((rv.fset Fld.RT_STAGE_STAT.DONE 0 1 : Dev).followed .external { kind := 16, term := 1, epoch := 1 }), by decide +kernel⟩,
    ⟨(.external), ({ kind := 16, term := 1, epoch := 7 }), (1), (rv), (rv.followed .external { kind := 16, term := 1, epoch := 7 }), by decide +kernel⟩,
    ⟨(.external), ({}), (dv), by decide +kernel⟩,
    ⟨({ kind := 17, epoch := 1 }), (5), ({ (rv.fset Fld.DL_TREE_CHILD.VALID 0 1).fset Fld.DL_TREE_CHILD.FSID 0 5 with dl.treeIn := true, dl.vote := { active := true, epoch := 1 } }), by decide +kernel⟩,
    ⟨(.external), ({ kind := 18, term := 1, epoch := 1, t := 100 }), ({ rv.fset Fld.DL_DEAL_STAT.STATE 0 1 with dl.prepEpoch := some 1 }), (({ rv.fset Fld.DL_DEAL_STAT.STATE 0 1 with dl.prepEpoch := some 1 } : Dev).followed .external { kind := 18, term := 1, epoch := 1, t := 100 }), by decide +kernel⟩,
    ⟨(.external), ({ kind := 18, term := 1, epoch := 1, t := 0 }), ({ rv.fset Fld.DL_DEAL_STAT.STATE 0 1 with dl.prepEpoch := some 1 }), (({ rv.fset Fld.DL_DEAL_STAT.STATE 0 1 with dl.prepEpoch := some 1 } : Dev).followed .external { kind := 18, term := 1, epoch := 1, t := 0 }), by decide +kernel⟩,
    ⟨(0), ({ rv.fset Fld.DL_DEAL_STAT.STATE 0 1 with dl.goT := some 0 }), by decide +kernel⟩,
    ⟨(0), ({ rv.fset Fld.DL_DEAL_STAT.STATE 0 1 with now := 100 * tUs, dl.goT := some 0, dl.goLate := some 0 }), by decide +kernel⟩,
    ⟨(.external), ({ kind := 19, term := 1, epoch := 1 }), ({ rv.fset Fld.DL_DEAL_STAT.STATE 0 1 with dl.prepEpoch := some 1 }), (({ rv.fset Fld.DL_DEAL_STAT.STATE 0 1 with dl.prepEpoch := some 1 } : Dev).followed .external { kind := 19, term := 1, epoch := 1 }), by decide +kernel⟩,
    ⟨(.external), ({ kind := 20, term := 1, epoch := 0, t := 2 }), (rv.fset Fld.DL_DEAL_STAT.STATE 0 2), ((rv.fset Fld.DL_DEAL_STAT.STATE 0 2 : Dev).followed .external { kind := 20, term := 1, epoch := 0, t := 2 }), by decide +kernel⟩,
    ⟨({ dv.fset Fld.DL_DEAL_STAT.STATE 0 2 with dl.treeIn := false }), by decide +kernel⟩,
    ⟨(.fsid 5), ({ kind := 21 }), (5), ({ rv with dl.dealer := { active := true } }), by decide +kernel⟩,
    ⟨(.external), ({ kind := 22, term := 1, epoch := 0 }), (rv.fset Fld.DL_DEAL_STAT.STATE 0 3), ((rv.fset Fld.DL_DEAL_STAT.STATE 0 3 : Dev).followed .external { kind := 22, term := 1, epoch := 0 }), (((rv.fset Fld.DL_DEAL_STAT.STATE 0 3 : Dev).followed .external { kind := 22, term := 1, epoch := 0 } : Dev).fset Fld.DL_DEAL_STAT.STATE 0 0), by decide +kernel⟩,
    ⟨(8), (131071), (rv), by decide +kernel⟩,
    ⟨(8), (7), ({ rv with dl.cutId := some 7 }), by decide +kernel⟩,
    ⟨({ rv.fset Fld.DL_DEAL_STAT.STATE 0 2 with now := 100 * tSec }), by decide +kernel⟩,
    ⟨({ rv with now := 100 * tSec, dl.cutActive := true }), by decide +kernel⟩,
    ⟨(.external), ({ kind := 23, term := 1, epoch := 9 }), (rv), (rv.followed .external { kind := 23, term := 1, epoch := 9 }), by decide +kernel⟩,
    ⟨({ dv with dl.cutActive := true }), by decide +kernel⟩,
    ⟨(.fsid 5), ({ kind := 24, epoch := 1 }), (5), ({ (rv.fset Fld.DL_TREE_CHILD.VALID 0 1).fset Fld.DL_TREE_CHILD.FSID 0 5 with dl.treeIn := true, dl.done := { active := true, epoch := 1 } }), by decide +kernel⟩,
    ⟨([(0, 5)]), ({ (rv.fset Fld.DL_TREE_CHILD.VALID 0 1).fset Fld.DL_TREE_CHILD.FSID 0 5 with now := 9, dl.treeIn := true, dl.vote := { active := true, epoch := 1, deadline := 9 } }), by decide +kernel⟩,
    ⟨({ rv.oset 0x7100 1 1 with dl.dealer := { active := true } }), (dv), by decide +kernel⟩,
    ⟨((rv.oset 0x7100 1 2).memWrite journalBase [6]), by decide +kernel⟩,
    ⟨(.external), ({ kind := 25, term := 1, t := 100 }), (rv), (rv.followed .external { kind := 25, term := 1, t := 100 }), by decide +kernel⟩,
    ⟨(0), ({ rv with dl.resetT := some 0 }), by decide +kernel⟩⟩

/-- What CollectiveCommandsComplete assumes is met. -/
theorem test_meets_CollectiveCommandsComplete :
    (∃ (q vs fn l : Nat) (data : List Byte) (d : Desc) (r : CollReq) (g : Nat) (s t : Dev), (s.On) ∧ ((s.sfq q).owner = some (vs, fn, l)) ∧ (s.startable q = some d) ∧ (d.kind = 3) ∧ (s.inFlr vs fn = false) ∧ (r = d.collReq q) ∧ (g = leNat ((d.body.drop 26).take 1)) ∧ (t = s.startDesc q d.idx) ∧ (d.collBad r = false) ∧ (s.fbit Fld.CL_GRP_CTL.EN g = true) ∧ ((s.fget Fld.CL_GRP_VSMASK.VSMASK g).testBit vs = true) ∧ (r.op = 4)) ∧
    (∃ (q vs fn l : Nat) (data : List Byte) (d : Desc) (g : Nat) (s : Dev), (s.On) ∧ ((s.sfq q).owner = some (vs, fn, l)) ∧ (s.startable q = some d) ∧ (d.kind = 3) ∧ (s.inFlr vs fn = false) ∧ (g = leNat ((d.body.drop 26).take 1)) ∧ (d.collBad (d.collReq q) = false) ∧ (s.fbit Fld.CL_GRP_CTL.EN g = false ∨ (s.fget Fld.CL_GRP_VSMASK.VSMASK g).testBit vs = false)) ∧
    (∃ (src : Nat) (m : CollMsg) (s : Dev), (s.On) ∧ (m.kind = 1)) ∧
    (∃ (src : Nat) (m : CollMsg) (s : Dev), (s.On) ∧ (m.kind = 2)) ∧
    (∃ (src : Nat) (m : CollMsg) (s : Dev), (s.On) ∧ (m.kind = 3)) ∧
    (∃ (src : Nat) (m : CollMsg) (s : Dev), (s.On) ∧ (m.kind = 4)) ∧
    (∃ (src : Nat) (m : CollMsg) (s : Dev), (s.On) ∧ (m.kind = 4) ∧ (src ≠ s.fsid) ∧ (s.fbit Fld.CL_GRP_CTL.EN (m.group % 256) = true) ∧ ((s.collNbrs (m.group % 256)).contains src = true) ∧ ((m.iseq + 65536 - s.iseq (m.group % 256)) % 65536 = 0) ∧ ((s.grp (m.group % 256)).inst ≠ none)) ∧
    (∃ (g src : Nat) (m : CollMsg) (s : Dev), (m.iseq = s.iseq g)) ∧
    (∃ (g src : Nat) (m : CollMsg) (s : Dev), (m.iseq ≠ s.iseq g)) ∧
    (∃ (src : Nat) (m : CollMsg) (s : Dev), (s.On) ∧ (m.kind = 1) ∧ (src ≠ s.fsid) ∧ (s.fbit Fld.CL_GRP_CTL.EN (m.group % 256) = false)) ∧
    (∃ (g child n at_ : Nat) (i : CollInst) (s : Dev), (s.On) ∧ (tget (0, 0) (s.grp g).owed child = (n, at_)) ∧ (n ≠ 0) ∧ (at_ + tUs ≤ s.now) ∧ ((s.grp g).inst = some i)) ∧
    (∃ (g : Nat) (i : CollInst) (s : Dev), (s.On) ∧ ((s.grp g).inst = some i) ∧ (i.startAt + 10 * tUs * 2 ^ s.fget Fld.CL_COLL_CFG.TO_EXP 0 ≤ s.now)) ∧
    (∃ (g : Nat) (s : Dev), (s.On) ∧ (g < 256) ∧ (s.fbit Fld.CL_GRP_CTL.EN g = true) ∧ ((s.grp g).inst = none)) :=
  ⟨⟨(0), (0), (0), (0), ([]), ({ idx := 0, kind := 3, body := List.replicate 22 0 ++ [4] ++ List.replicate 41 0 }), (({ idx := 0, kind := 3, body := List.replicate 22 0 ++ [4] ++ List.replicate 41 0 } : Desc).collReq 0), (0), ({ ((rv.fset Fld.CL_GRP_CTL.EN 0 1).fset Fld.CL_GRP_VSMASK.VSMASK 0 1).fset Fld.SF_Q_CFG.SIZE_EXP 0 4 with sf.qs := [(0, { owner := some (0, 0, 0), descs := [({ idx := 0, kind := 3, body := List.replicate 22 0 ++ [4] ++ List.replicate 41 0 } : Desc)] })] }), (({ ((rv.fset Fld.CL_GRP_CTL.EN 0 1).fset Fld.CL_GRP_VSMASK.VSMASK 0 1).fset Fld.SF_Q_CFG.SIZE_EXP 0 4 with sf.qs := [(0, { owner := some (0, 0, 0), descs := [({ idx := 0, kind := 3, body := List.replicate 22 0 ++ [4] ++ List.replicate 41 0 } : Desc)] })] } : Dev).startDesc 0 0), by decide +kernel⟩,
    ⟨(0), (0), (0), (0), ([]), ({ idx := 0, kind := 3, body := List.replicate 22 0 ++ [4] ++ List.replicate 41 0 }), (0), ({ rv.fset Fld.SF_Q_CFG.SIZE_EXP 0 4 with sf.qs := [(0, { owner := some (0, 0, 0), descs := [({ idx := 0, kind := 3, body := List.replicate 22 0 ++ [4] ++ List.replicate 41 0 } : Desc)] })] }), by decide +kernel⟩,
    ⟨(5), ({}), (rv), by decide +kernel⟩,
    ⟨(5), ({ kind := 2 }), (rv), by decide +kernel⟩,
    ⟨(5), ({ kind := 3 }), (rv), by decide +kernel⟩,
    ⟨(5), ({ kind := 4 }), (rv), by decide +kernel⟩,
    ⟨(5), ({ kind := 4 }), ({ (((rv.fset Fld.CL_GRP_CTL.EN 0 1).fset Fld.CL_GRP_CHILD.FSID 0 5).fset Fld.CL_GRP_CHILD.VALID 0 1) with coll := [(0, { inst := some {} })] }), by decide +kernel⟩,
    ⟨(0), (5), ({ kind := 4 }), (rv), by decide +kernel⟩,
    ⟨(0), (5), ({ kind := 4, iseq := 9 }), (rv), by decide +kernel⟩,
    ⟨(5), ({}), (rv), by decide +kernel⟩,
    ⟨(0), (2), (4), (0), ({}), ({ rv with now := tUs, coll := [(0, { owed := [(2, (4, 0))], inst := some {} })] }), by decide +kernel⟩,
    ⟨(0), ({}), ({ rv with now := 1000000 * tSec, coll := [(0, { inst := some {} })] }), by decide +kernel⟩,
    ⟨(255), (rv.fset Fld.CL_GRP_CTL.EN 255 1), by decide +kernel⟩⟩

/-- What EngineRunCommandsComplete assumes is met. -/
theorem test_meets_EngineRunCommandsComplete :
    (∃ (c : Nat) (w : WaitRun) (s : Dev), (s.On) ∧ (4 ≤ c) ∧ (c ≤ 15) ∧ (s.waitingRuns.find? (fun w => (s.progOf w.vs w.desc.prog).isNone) = some w)) ∧
    (∃ (c : Nat) (w0 w : WaitRun) (rest : List WaitRun) (slot : Nat) (l : List Resident) (s : Dev), (s.On) ∧ (4 ≤ c) ∧ (c ≤ 15) ∧ (s.waitingRuns.find? (fun w => (s.progOf w.vs w.desc.prog).isNone) = none) ∧ (s.waitingRuns.filter (fun w => decide (w.desc.neng ≤ (s.freeEngines c).length) && ((s.progOf w.vs w.desc.prog).bind (s.placed c)).isSome) = w0 :: rest) ∧ (w = rest.foldl (fun m x => if s.runBefore x m then x else m) w0) ∧ (s.progOf w.vs w.desc.prog = some slot) ∧ (s.placed c slot = some l)) ∧
    (∃ (q vs fn l : Nat) (d : Desc) (s : Dev), (s.On) ∧ ((s.sfq q).owner = some (vs, fn, l)) ∧ (s.startable q = some d) ∧ (d.kind = 2) ∧ (s.inFlr vs fn = false) ∧ (s.copyFault vs fn d = none) ∧ (s.rangeHas vs fn d.copySrc d.copyLen EngTgt.isWin = false) ∧ (s.rangeHas vs fn d.copyDst d.copyLen EngTgt.isWin = false)) ∧
    (∃ (q vs fn l c a : Nat) (d : Desc) (s : Dev), (s.On) ∧ ((s.sfq q).owner = some (vs, fn, l)) ∧ (s.startable q = some d) ∧ (d.kind = 2) ∧ (s.inFlr vs fn = false) ∧ (s.copyFault vs fn d = some (c, a))) ∧
    (∃ (q vs fn l : Nat) (d : Desc) (s : Dev), (s.On) ∧ ((s.sfq q).owner = some (vs, fn, l)) ∧ (s.startable q = some d) ∧ (d.kind = 4) ∧ (s.inFlr vs fn = false)) ∧
    (∃ (s : Dev), (s.On) ∧ (s.eng.quantumEnd ≤ s.now)) ∧
    (∃ (run e : Nat) (x : Run) (s : Dev), (s.On) ∧ (tfind s.eng.runs run = some x) ∧ (x.limitAt ≤ s.now) ∧ (x.engines.find? (fun e => !(s.en e).ended) = some e)) :=
  ⟨⟨(15), ({ q := 0, desc := { kind := 1, neng := 1 }, vs := 0, fn := 0 }), ({ rv.fset Fld.SF_Q_CFG.SIZE_EXP 0 4 with eng.weights := [(0, 1)], sf.qs := [(0, { owner := some (0, 0, 0), descs := [{ kind := 1, neng := 1 }] })] }), by decide +kernel⟩,
    ⟨(4), ({ q := 0, desc := { kind := 1, neng := 1 }, vs := 0, fn := 0 }), ({ q := 0, desc := { kind := 1, neng := 1 }, vs := 0, fn := 0 }), ([]), (0), ([{ slot := 0, words := 1, last := 0 }]), ({ rv.fset Fld.SF_Q_CFG.SIZE_EXP 0 4 with eng.weights := [(0, 1)], eng.progs := [(0, { state := 3, image := List.replicate 8 0 ++ [1, 0, 0, 0] ++ List.replicate 60 0 })], sf.qs := [(0, { owner := some (0, 0, 0), descs := [{ kind := 1, neng := 1 }] })] }), by decide +kernel⟩,
    ⟨(0), (0), (0), (0), ({ kind := 2, body := leBytes 8 0x100000000 ++ leBytes 8 0x100001000 ++ leBytes 8 64 }), ({ ((rv.fset Fld.SF_Q_CFG.SIZE_EXP 0 4).oset 0xB400 3 1) with eng.allocBase := [(0, 0xF0000000)], sf.qs := [(0, { owner := some (0, 0, 0), descs := [({ kind := 2, body := leBytes 8 0x100000000 ++ leBytes 8 0x100001000 ++ leBytes 8 64 } : Desc)] })] }), by decide +kernel⟩,
    ⟨(0), (0), (0), (0), (3), (0), ({ kind := 2 }), ({ ((rv.fset Fld.SF_Q_CFG.SIZE_EXP 0 4)) with sf.qs := [(0, { owner := some (0, 0, 0), descs := [{ kind := 2 }] })] }), by decide +kernel⟩,
    ⟨(0), (0), (0), (0), ({ kind := 4 }), ({ ((rv.fset Fld.SF_Q_CFG.SIZE_EXP 0 4)) with sf.qs := [(0, { owner := some (0, 0, 0), descs := [{ kind := 4 }] })] }), by decide +kernel⟩,
    ⟨({ rv with now := tSec }), by decide +kernel⟩,
    ⟨(0), (64), ({ vs := 0, fn := 0, q := 0, desc := {}, slot := 0, cluster := 4, engines := [64], startAt := 0, limitAt := 0 }), ({ rv with eng.runs := [(0, ({ vs := 0, fn := 0, q := 0, desc := {}, slot := 0, cluster := 4, engines := [64], startAt := 0, limitAt := 0 } : Run))] }), by decide +kernel⟩⟩

/-- What EngineRegisterOperationsComplete assumes is met. -/
theorem test_meets_EngineRegisterOperationsComplete :
    (∃ (e : Nat) (w : OpWord) (s : Dev), (s.On) ∧ (s.MayIssue 0x20 e w [w.a, w.d] []) ∧ (w.m = 0)) ∧
    (∃ (e : Nat) (w : OpWord) (s : Dev), (s.On) ∧ (s.MayIssue 0x21 e w [w.d] []) ∧ (w.m = 0)) ∧
    (∃ (e : Nat) (w : OpWord) (s : Dev), (s.On) ∧ (s.MayIssue 0x22 e w [w.d] []) ∧ (w.m = 0)) ∧
    (∃ (e : Nat) (w : OpWord) (s : Dev), (s.On) ∧ (s.MayIssue 0x23 e w [w.a, w.b, w.d] []) ∧ (w.m = 0)) ∧
    (∃ (e : Nat) (w : OpWord) (s : Dev), (s.On) ∧ (s.MayIssue 0x24 e w [w.a, w.d] []) ∧ (w.m = 0)) ∧
    (∃ (e : Nat) (w : OpWord) (s : Dev), (s.On) ∧ (s.MayIssue 0x25 e w [w.a, w.b, w.d] []) ∧ (w.m = 0)) ∧
    (∃ (e : Nat) (w : OpWord) (s : Dev), (s.On) ∧ (s.MayIssue 0x26 e w [w.a, w.b, w.d] []) ∧ (w.m = 0)) ∧
    (∃ (e : Nat) (w : OpWord) (s : Dev), (s.On) ∧ (s.MayIssue 0x27 e w [w.a, w.b, w.d] []) ∧ (w.m = 0)) ∧
    (∃ (e : Nat) (w : OpWord) (s : Dev), (s.On) ∧ (s.MayIssue 0x28 e w [w.a, w.b, w.d] []) ∧ (w.m = 0)) ∧
    (∃ (e : Nat) (w : OpWord) (s : Dev), (s.On) ∧ (s.MayIssue 0x29 e w [w.a, w.b, w.d] []) ∧ (w.m = 0)) ∧
    (∃ (e : Nat) (w : OpWord) (s : Dev), (s.On) ∧ (s.MayIssue 0x2A e w [w.a, w.b, w.d] []) ∧ (w.m = 0)) ∧
    (∃ (e : Nat) (w : OpWord) (s : Dev), (s.On) ∧ (s.MayIssue 0x2B e w [w.a, w.b, w.d] []) ∧ (w.m = 0)) ∧
    (∃ (e : Nat) (w : OpWord) (s : Dev), (s.On) ∧ (s.MayIssue 0x2C e w [w.a, w.b, w.d] []) ∧ (w.m = 0)) ∧
    (∃ (e : Nat) (w : OpWord) (s : Dev), (s.On) ∧ (s.MayIssue 0x40 e w [] [w.a, w.b, w.d]) ∧ (w.m < 5) ∧ (w.d < 8 ∧ w.a < 8 ∧ w.b < 8)) ∧
    (∃ (e : Nat) (w : OpWord) (s : Dev), (s.On) ∧ (s.MayIssue 0x41 e w [] [w.a, w.b, w.d]) ∧ (w.m < 5) ∧ (w.d < 8 ∧ w.a < 8 ∧ w.b < 8)) ∧
    (∃ (e : Nat) (w : OpWord) (s : Dev), (s.On) ∧ (s.MayIssue 0x42 e w [] [w.a, w.b, w.d]) ∧ (w.m < 5) ∧ (w.d < 8 ∧ w.a < 8 ∧ w.b < 8)) ∧
    (∃ (e : Nat) (w : OpWord) (s : Dev), (s.On) ∧ (s.MayIssue 0x43 e w [] [w.a, w.b, w.d]) ∧ (w.m < 5) ∧ (w.d < 8 ∧ w.a < 8 ∧ w.b < 8)) ∧
    (∃ (e : Nat) (w : OpWord) (s : Dev), (s.On) ∧ (s.MayIssue 0x44 e w [] [w.a, w.b, w.d]) ∧ (w.m < 5) ∧ (w.d < 8 ∧ w.a < 8 ∧ w.b < 8)) ∧
    (∃ (e : Nat) (w : OpWord) (s : Dev), (s.On) ∧ (s.MayIssue 0x45 e w [w.a] [w.d]) ∧ (w.m < 5) ∧ (w.d < 8)) ∧
    (∃ (e : Nat) (w : OpWord) (s : Dev), (s.On) ∧ (s.MayIssue 0x46 e w [w.d] [w.a]) ∧ (w.m < 5) ∧ (w.a < 8) ∧ (w.imm < typLanes w.m)) :=
  ⟨⟨(64), ({ d := 1, a := 2, b := 3 }), (evw 0x20 ({ d := 1, a := 2, b := 3 } : OpWord)), by decide +kernel⟩,
    ⟨(64), ({ d := 1, a := 2, b := 3 }), (evw 0x21 ({ d := 1, a := 2, b := 3 } : OpWord)), by decide +kernel⟩,
    ⟨(64), ({ d := 1, a := 2, b := 3 }), (evw 0x22 ({ d := 1, a := 2, b := 3 } : OpWord)), by decide +kernel⟩,
    ⟨(64), ({ d := 1, a := 2, b := 3 }), (evw 0x23 ({ d := 1, a := 2, b := 3 } : OpWord)), by decide +kernel⟩,
    ⟨(64), ({ d := 1, a := 2, b := 3 }), (evw 0x24 ({ d := 1, a := 2, b := 3 } : OpWord)), by decide +kernel⟩,
    ⟨(64), ({ d := 1, a := 2, b := 3 }), (evw 0x25 ({ d := 1, a := 2, b := 3 } : OpWord)), by decide +kernel⟩,
    ⟨(64), ({ d := 1, a := 2, b := 3 }), (evw 0x26 ({ d := 1, a := 2, b := 3 } : OpWord)), by decide +kernel⟩,
    ⟨(64), ({ d := 1, a := 2, b := 3 }), (evw 0x27 ({ d := 1, a := 2, b := 3 } : OpWord)), by decide +kernel⟩,
    ⟨(64), ({ d := 1, a := 2, b := 3 }), (evw 0x28 ({ d := 1, a := 2, b := 3 } : OpWord)), by decide +kernel⟩,
    ⟨(64), ({ d := 1, a := 2, b := 3 }), (evw 0x29 ({ d := 1, a := 2, b := 3 } : OpWord)), by decide +kernel⟩,
    ⟨(64), ({ d := 1, a := 2, b := 3 }), (evw 0x2A ({ d := 1, a := 2, b := 3 } : OpWord)), by decide +kernel⟩,
    ⟨(64), ({ d := 1, a := 2, b := 3 }), (evw 0x2B ({ d := 1, a := 2, b := 3 } : OpWord)), by decide +kernel⟩,
    ⟨(64), ({ d := 1, a := 2, b := 3 }), (evw 0x2C ({ d := 1, a := 2, b := 3 } : OpWord)), by decide +kernel⟩,
    ⟨(64), ({ d := 7, a := 2, b := 3, m := 4 }), (evw 0x40 ({ d := 7, a := 2, b := 3, m := 4 } : OpWord)), by decide +kernel⟩,
    ⟨(64), ({ d := 7, a := 2, b := 3, m := 4 }), (evw 0x41 ({ d := 7, a := 2, b := 3, m := 4 } : OpWord)), by decide +kernel⟩,
    ⟨(64), ({ d := 7, a := 2, b := 3, m := 4 }), (evw 0x42 ({ d := 7, a := 2, b := 3, m := 4 } : OpWord)), by decide +kernel⟩,
    ⟨(64), ({ d := 7, a := 2, b := 3, m := 4 }), (evw 0x43 ({ d := 7, a := 2, b := 3, m := 4 } : OpWord)), by decide +kernel⟩,
    ⟨(64), ({ d := 7, a := 2, b := 3, m := 4 }), (evw 0x44 ({ d := 7, a := 2, b := 3, m := 4 } : OpWord)), by decide +kernel⟩,
    ⟨(64), ({ d := 7, a := 2, b := 3, m := 4 }), (evw 0x45 ({ d := 7, a := 2, b := 3, m := 4 } : OpWord)), by decide +kernel⟩,
    ⟨(64), ({ d := 7, a := 2, m := 0, imm := typLanes 0 - 1 }), (evw 0x46 ({ d := 7, a := 2, m := 0, imm := typLanes 0 - 1 } : OpWord)), by decide +kernel⟩⟩

/-- What EngineMemoryOperationsComplete assumes is met. -/
theorem test_meets_EngineMemoryOperationsComplete :
    (∃ (e : Nat) (w : OpWord) (s : Dev), (s.On) ∧ (s.MayIssue 0x01 e w [w.a, w.d] []) ∧ (loadMod w.m = true)) ∧
    (∃ (e : Nat) (w : OpWord) (s : Dev), (s.On) ∧ (s.MayIssue 0x02 e w [w.a, w.b] []) ∧ (storeMod w.m = true)) ∧
    (∃ (e : Nat) (w : OpWord) (s : Dev), (s.On) ∧ (s.MayIssue 0x03 e w [w.a, w.d, w.d + 1] []) ∧ (w.m = 0 ∧ w.d % 2 = 0)) ∧
    (∃ (e : Nat) (w : OpWord) (s : Dev), (s.On) ∧ (s.MayIssue 0x04 e w [w.a, w.b, w.b + 1] []) ∧ (w.m = 0 ∧ w.b % 2 = 0)) ∧
    (∃ (e : Nat) (w : OpWord) (s : Dev), (s.On) ∧ (s.MayIssue 0x05 e w [w.a] [w.d]) ∧ (w.m = 0 ∧ w.d < 8)) ∧
    (∃ (e : Nat) (w : OpWord) (s : Dev), (s.On) ∧ (s.MayIssue 0x06 e w [w.a] [w.b]) ∧ (w.m = 0 ∧ w.b < 8)) ∧
    (∃ (e : Nat) (w : OpWord) (s : Dev), (s.On) ∧ (s.MayIssue 0x07 e w [w.a] []) ∧ (w.m = 0)) ∧
    (∃ (e : Nat) (w : OpWord) (s : Dev), (s.On) ∧ (s.MayIssue 0x10 e w [w.a, w.b, w.d] []) ∧ (w.m = 0)) ∧
    (∃ (e : Nat) (w : OpWord) (s : Dev), (s.On) ∧ (s.MayIssue 0x11 e w [w.a, w.b, w.d] []) ∧ (w.m = 0)) ∧
    (∃ (e : Nat) (w : OpWord) (s : Dev), (s.On) ∧ (s.MayIssue 0x12 e w [w.a, w.b, w.d] []) ∧ (w.m = 0)) ∧
    (∃ (e : Nat) (w : OpWord) (s : Dev), (s.On) ∧ (s.MayIssue 0x13 e w [w.a, w.b, w.d] []) ∧ (w.m = 0)) ∧
    (∃ (e : Nat) (w : OpWord) (s : Dev), (s.On) ∧ (s.MayIssue 0x14 e w [w.a, w.b, w.d] []) ∧ (w.m = 0)) ∧
    (∃ (e : Nat) (w : OpWord) (s : Dev), (s.On) ∧ (s.MayIssue 0x15 e w [w.a, w.b, w.b + 1, w.d, w.d + 1] []) ∧ (w.m = 0 ∧ w.d % 2 = 0 ∧ w.b % 2 = 0)) ∧
    (∃ (e : Nat) (w : OpWord) (s : Dev), (s.On) ∧ (s.MayIssue 0x2D e w [w.a, w.b, w.d] []) ∧ (w.m = 0)) ∧
    (∃ (e : Nat) (w : OpWord) (s : Dev), (s.On) ∧ (s.MayIssue 0x2E e w [w.b, w.d] []) ∧ (w.m = 0)) ∧
    (∃ (e : Nat) (w : OpWord) (s : Dev), (s.On) ∧ (s.MayIssue 0x61 e w [w.a] []) ∧ (w.m = 0)) ∧
    (∃ (e : Nat) (w : OpWord) (s : Dev), (s.On) ∧ (s.MayIssue 0x01 e w [w.a, w.d] []) ∧ (loadMod w.m = true) ∧ (s.addrOf e w % sizeOf' w.m ≠ 0)) ∧
    (∃ (e t : Nat) (w : OpWord) (s : Dev), (s.On) ∧ (s.MayIssue 0x02 e w [w.a, w.b] []) ∧ (storeMod w.m = true) ∧ (s.addrOf e w % sizeOf' w.m = 0) ∧ (s.target (s.fnOf e).1 (s.fnOf e).2 (s.addrOf e w) (leBytes (sizeOf' w.m) (s.gr e w.b)).length true = .inr t)) :=
  ⟨⟨(64), ({ d := 1, a := 4, m := 8 }), (evw 0x01 ({ d := 1, a := 4, m := 8 } : OpWord)), by decide +kernel⟩,
    ⟨(64), ({ a := 4, b := 1, m := 3 }), (evw 0x02 ({ a := 4, b := 1, m := 3 } : OpWord)), by decide +kernel⟩,
    ⟨(64), ({ d := 2, a := 4 }), (evw 0x03 ({ d := 2, a := 4 } : OpWord)), by decide +kernel⟩,
    ⟨(64), ({ b := 2, a := 4 }), (evw 0x04 ({ b := 2, a := 4 } : OpWord)), by decide +kernel⟩,
    ⟨(64), ({ d := 7, a := 4 }), (evw 0x05 ({ d := 7, a := 4 } : OpWord)), by decide +kernel⟩,
    ⟨(64), ({ b := 7, a := 4 }), (evw 0x06 ({ b := 7, a := 4 } : OpWord)), by decide +kernel⟩,
    ⟨(64), ({ a := 4 }), (evw 0x07 ({ a := 4 } : OpWord)), by decide +kernel⟩,
    ⟨(64), ({ d := 1, a := 4, b := 2 }), (evw 0x10 ({ d := 1, a := 4, b := 2 } : OpWord)), by decide +kernel⟩,
    ⟨(64), ({ d := 1, a := 4, b := 2 }), (evw 0x11 ({ d := 1, a := 4, b := 2 } : OpWord)), by decide +kernel⟩,
    ⟨(64), ({ d := 1, a := 4, b := 2 }), (evw 0x12 ({ d := 1, a := 4, b := 2 } : OpWord)), by decide +kernel⟩,
    ⟨(64), ({ d := 1, a := 4, b := 2 }), (evw 0x13 ({ d := 1, a := 4, b := 2 } : OpWord)), by decide +kernel⟩,
    ⟨(64), ({ d := 1, a := 4, b := 2 }), (evw 0x14 ({ d := 1, a := 4, b := 2 } : OpWord)), by decide +kernel⟩,
    ⟨(64), ({ d := 2, a := 4, b := 6 }), (evw 0x15 ({ d := 2, a := 4, b := 6 } : OpWord)), by decide +kernel⟩,
    ⟨(64), ({ d := 4, a := 8, b := 2 }), (evw 0x2D ({ d := 4, a := 8, b := 2 } : OpWord)), by decide +kernel⟩,
    ⟨(64), ({ d := 4, b := 2, imm := 255 }), (evw 0x2E ({ d := 4, b := 2, imm := 255 } : OpWord)), by decide +kernel⟩,
    ⟨(64), ({ a := 4, imm := 1 }), (evw 0x61 ({ a := 4, imm := 1 } : OpWord)), by decide +kernel⟩,
    ⟨(64), ({ d := 1, a := 2, m := 3 }), (evw 0x01 ({ d := 1, a := 2, m := 3 } : OpWord)), by decide +kernel⟩,
    ⟨(64), (4), ({ a := 0, b := 2, m := 3 }), (evw 0x02 ({ a := 0, b := 2, m := 3 } : OpWord)), by decide +kernel⟩⟩

/-- What EngineControlCompletes assumes is met. -/
theorem test_meets_EngineControlCompletes :
    (∃ (e k : Nat) (w : OpWord) (s : Dev), (s.On) ∧ (s.MayIssue 0x50 e w [] []) ∧ (w.m < 4) ∧ (s.slotKey e w.imm = some k) ∧ (w.imm % 2 = 1) ∧ ((s.accSlot (k - 1)).typ ≠ 4) ∧ (s.slotTurn k e = true) ∧ (s.slotUsed k e = false)) ∧
    (∃ (e k : Nat) (w : OpWord) (x : AccSlot) (new : List AccV) (s : Dev), (s.On) ∧ (s.MayIssue 0x51 e w [] [w.a]) ∧ (w.m < 5) ∧ (w.a < 8) ∧ (s.slotKey e w.imm = some k) ∧ ((s.accSlot k).typ = w.m) ∧ (x = s.accSlot k) ∧ (s.slotTurn k e = true) ∧ (new = (((List.range 16).map fun i => x.vals.getD i {}).zip (List.range 16)).map fun p => if p.2 < typLanes w.m then p.1.add w.m (laneOf w.m (s.vr e w.a) p.2) else p.1)) ∧
    (∃ (e k r : Nat) (w : OpWord) (x : AccSlot) (run : Run) (rs : List (Nat × Nat)) (s t : Dev), (s.On) ∧ (s.MayIssue 0x52 e w [] [w.d]) ∧ (w.m < 4) ∧ (w.d < 8) ∧ (s.slotKey e w.imm = some k) ∧ (s.runOf e = some (r, run)) ∧ (t = s.issued e) ∧ (x = s.accSlot k) ∧ (x.typ ≠ slotTaken) ∧ (s.slotTurn k e = true) ∧ (rs = (List.range (typLanes x.typ)).map fun i => ((s.slotVals k e).getD i {}).result x.typ w.m)) ∧
    (∃ (e : Nat) (w : OpWord) (t : EngTgt) (s : Dev), (s.On) ∧ (s.MayIssue 0x60 e w [w.a, w.b, w.d] []) ∧ (w.m = 0) ∧ (s.gr e w.a % 8 = 0) ∧ (s.target (s.fnOf e).1 (s.fnOf e).2 (s.gr e w.a) 8 false = .inl t) ∧ (t.isWin = false) ∧ (t.isDev = false)) ∧
    (∃ (e : Nat) (data : List Byte) (x : WaitSt) (s : Dev), (s.On) ∧ ((s.en e).wait = some x) ∧ (x.bound ≤ leNat (mergeFwd ((s.en e).fwdBytes x.tgt 8) ((if x.tgt.isWin then data else s.readTgt e x.tgt 8).take 8))) ∧ (s.turnOk e [(x.tgt, 8)] = true)) ∧
    (∃ (e r t : Nat) (run : Run) (x : WaitSt) (s : Dev), (s.On) ∧ ((s.en e).wait = some x) ∧ (s.runOf e = some (r, run)) ∧ (x.till = some t) ∧ (t ≤ s.now) ∧ (t / engCycle < run.limitAt / engCycle)) ∧
    (∃ (e r : Nat) (w : OpWord) (run : Run) (s t : Dev), (s.On) ∧ (s.MayIssue 0x62 e w [] []) ∧ (w.m = 0) ∧ (s.runOf e = some (r, run)) ∧ (t = s.issued e)) ∧
    (∃ (e : Nat) (w : OpWord) (s : Dev), (s.On) ∧ (s.MayIssue 0x70 e w [] []) ∧ (w.m = 0)) ∧
    (∃ (e : Nat) (w : OpWord) (s : Dev), (s.On) ∧ (s.MayIssue 0x71 e w [w.a] []) ∧ (w.m = 0)) ∧
    (∃ (e : Nat) (w : OpWord) (s : Dev), (s.On) ∧ (s.MayIssue 0x72 e w [w.a] []) ∧ (w.m = 0)) ∧
    (∃ (e : Nat) (w : OpWord) (s : Dev), (s.On) ∧ (s.MayIssue 0x73 e w [15] []) ∧ (w.m = 0)) ∧
    (∃ (e : Nat) (w : OpWord) (s : Dev), (s.On) ∧ (s.MayIssue 0x74 e w [15] []) ∧ (w.m = 0)) ∧
    (∃ (e r : Nat) (w : OpWord) (run : Run) (s t u : Dev), (s.On) ∧ (s.MayIssue 0x75 e w [] []) ∧ (w.m = 0) ∧ (s.runOf e = some (r, run)) ∧ (((s.en e).acc.any fun a => !a.kind.isPrefetch) = false) ∧ (t = (s.issued e).modEn e fun x => { x with ended := true }) ∧ (u = { t with eng.runs := tins t.eng.runs r (if run.engines.head? = some e then { run with result := s.gr e 1 } else run) }) ∧ ((run.engines.all fun i => (u.en i).ended) = true)) ∧
    (∃ (e : Nat) (w : OpWord) (s : Dev), (s.On) ∧ (s.MayIssue 0x78 e w [w.d] []) ∧ (w.m = 0) ∧ ((s.en e).loadsDone = true)) ∧
    (∃ (e : Nat) (w : OpWord) (s : Dev), (s.On) ∧ (s.MayIssue 0x78 e w [w.d] []) ∧ (w.m = 1) ∧ ((s.en e).loadsDone = true) ∧ ((s.en e).localStoresDone = true)) ∧
    (∃ (e : Nat) (w : OpWord) (s : Dev), (s.On) ∧ (s.MayIssue 0x78 e w [w.d] []) ∧ (w.m = 2) ∧ ((s.en e).loadsDone = true) ∧ ((s.en e).sb = []) ∧ ((s.en e).flush = []) ∧ (s.flushTags e (s.fnOf e).1 (s.fnOf e).2 = true)) ∧
    (∃ (e : Nat) (oks : List Bool) (b : Barrier) (s : Dev), (s.On) ∧ ((s.en e).bar = some b) ∧ (b.sent = true) ∧ (((s.runOf e).any fun r => decide (r.2.limitAt / engCycle ≤ s.engCyc)) = false)) ∧
    (∃ (e h : Nat) (r : AccEnd) (a : Access) (s : Dev), (s.On) ∧ ((s.en e).hold = some h) ∧ ((s.en e).acc.find? (fun a => a.seq == h) = some a)) ∧
    (∃ (e addr : Nat) (s : Dev), (s.On)) ∧
    (∃ (e r : Nat) (run : Run) (s : Dev), (s.On) ∧ (s.runOf e = some (r, run)) ∧ (s.fget Fld.EN_SMP_CFG.EVENT e = 3) ∧ (s.fbit Fld.EN_SMP_CFG.SMP_EN e = true)) ∧
    (∃ (e r : Nat) (run : Run) (s : Dev), (s.On) ∧ (s.runOf e = some (r, run)) ∧ (s.fget Fld.EN_SMP_CFG.EVENT e = 1) ∧ (s.fbit Fld.EN_SMP_CFG.SMP_EN e = true) ∧ ((s.en e).smpFrom + 2 ^ s.fget Fld.EN_SMP_CFG.PERIOD_EXP e * engCycle ≤ s.now) ∧ (s.fbit Fld.EN_SMP_PC.VALID e = false)) :=
  ⟨⟨(64), (1025), ({ m := 2, imm := 1 }), (evw 0x50 ({ m := 2, imm := 1 } : OpWord)), by decide +kernel⟩,
    ⟨(64), (1024), ({ m := 0, a := 1 }), ((evw 0x51 ({ m := 0, a := 1 } : OpWord) : Dev).accSlot 1024), (((List.range 16).map fun i => ((evw 0x51 ({ m := 0, a := 1 } : OpWord) : Dev).accSlot 1024 : AccSlot).vals.getD i {}).zip (List.range 16) |>.map fun p => if p.2 < typLanes 0 then p.1.add 0 (laneOf 0 0 p.2) else p.1), (evw 0x51 ({ m := 0, a := 1 } : OpWord)), by decide +kernel⟩,
    ⟨(64), (1024), (0), ({ m := 3, d := 7 }), ((evw 0x52 ({ m := 3, d := 7 } : OpWord) : Dev).accSlot 1024), ({ vs := 0, fn := 0, q := 0, desc := { kind := 1, neng := 1, started := true }, slot := 0, cluster := 4, engines := [64], startAt := 0, limitAt := tSec }), ((List.range (typLanes 0)).map fun i => (((evw 0x52 ({ m := 3, d := 7 } : OpWord) : Dev).slotVals 1024 64).getD i {}).result 0 3), (evw 0x52 ({ m := 3, d := 7 } : OpWord)), ((evw 0x52 ({ m := 3, d := 7 } : OpWord) : Dev).issued 64), by decide +kernel⟩,
    ⟨(64), ({ d := 1, a := 4, b := 2, imm := 10 }), (.sram 0x80000), (evw 0x60 ({ d := 1, a := 4, b := 2, imm := 10 } : OpWord)), by decide +kernel⟩,
    ⟨(64), ([]), (⟨.sram 0x80000, 0, 1, none⟩), ({ ev with eng.eng := [(64, { run := some 0, wait := some ⟨.sram 0x80000, 0, 1, none⟩ })] }), by decide +kernel⟩,
    ⟨(64), (0), (0), ({ vs := 0, fn := 0, q := 0, desc := { kind := 1, neng := 1, started := true }, slot := 0, cluster := 4, engines := [64], startAt := 0, limitAt := tSec }), (⟨.sram 0x80000, 0, 1, some 0⟩), ({ ev with eng.eng := [(64, { run := some 0, wait := some ⟨.sram 0x80000, 0, 1, some 0⟩ })] }), by decide +kernel⟩,
    ⟨(64), (0), ({}), ({ vs := 0, fn := 0, q := 0, desc := { kind := 1, neng := 1, started := true }, slot := 0, cluster := 4, engines := [64], startAt := 0, limitAt := tSec }), (evw 0x62 ({} : OpWord)), ((evw 0x62 ({} : OpWord) : Dev).issued 64), by decide +kernel⟩,
    ⟨(64), ({ imm := 4294967295 }), (evw 0x70 ({ imm := 4294967295 } : OpWord)), by decide +kernel⟩,
    ⟨(64), ({ a := 1, imm := 2 }), (evw 0x71 ({ a := 1, imm := 2 } : OpWord)), by decide +kernel⟩,
    ⟨(64), ({ a := 1, imm := 2 }), (evw 0x72 ({ a := 1, imm := 2 } : OpWord)), by decide +kernel⟩,
    ⟨(64), ({ imm := 3 }), (evw 0x73 ({ imm := 3 } : OpWord)), by decide +kernel⟩,
    ⟨(64), ({}), (evw 0x74 ({} : OpWord)), by decide +kernel⟩,
    ⟨(64), (0), ({}), ({ vs := 0, fn := 0, q := 0, desc := { kind := 1, neng := 1, started := true }, slot := 0, cluster := 4, engines := [64], startAt := 0, limitAt := tSec }), (evw 0x75 ({} : OpWord)), (((evw 0x75 ({} : OpWord) : Dev).issued 64).modEn 64 fun x => { x with ended := true }), ({ (((evw 0x75 ({} : OpWord) : Dev).issued 64).modEn 64 fun x => { x with ended := true } : Dev) with eng.runs := tins (((evw 0x75 ({} : OpWord) : Dev).issued 64).modEn 64 fun x => { x with ended := true } : Dev).eng.runs 0 { ({ vs := 0, fn := 0, q := 0, desc := { kind := 1, neng := 1, started := true }, slot := 0, cluster := 4, engines := [64], startAt := 0, limitAt := tSec } : Run) with result := (evw 0x75 ({} : OpWord) : Dev).gr 64 1 } }), by decide +kernel⟩,
    ⟨(64), ({ d := 1 }), (evw 0x78 ({ d := 1 } : OpWord)), by decide +kernel⟩,
    ⟨(64), ({ d := 1, m := 1 }), (evw 0x78 ({ d := 1, m := 1 } : OpWord)), by decide +kernel⟩,
    ⟨(64), ({ d := 1, m := 2 }), (evw 0x78 ({ d := 1, m := 2 } : OpWord)), by decide +kernel⟩,
    ⟨(64), ([true, false]), ({ scope := 2, d := 1, sent := true }), ({ ev with eng.eng := [(64, { run := some 0, bar := some { scope := 2, d := 1, sent := true } })] }), by decide +kernel⟩,
    ⟨(64), (3), (.ok []), ({ seq := 3, kind := .load 1 8 false, tgt := .sram 0x80000, len := 8, vaddr := 0x80000 }), ({ ev with eng.eng := [(64, { run := some 0, hold := some 3, acc := [({ seq := 3, kind := .load 1 8 false, tgt := .sram 0x80000, len := 8, vaddr := 0x80000 } : Access)] })] }), by decide +kernel⟩,
    ⟨(64), (0), (dv), by decide +kernel⟩,
    ⟨(64), (0), ({ vs := 0, fn := 0, q := 0, desc := { kind := 1, neng := 1, started := true }, slot := 0, cluster := 4, engines := [64], startAt := 0, limitAt := tSec }), ((ev.fset Fld.EN_SMP_CFG.EVENT 64 3).fset Fld.EN_SMP_CFG.SMP_EN 64 1), by decide +kernel⟩,
    ⟨(64), (0), ({ vs := 0, fn := 0, q := 0, desc := { kind := 1, neng := 1, started := true }, slot := 0, cluster := 4, engines := [64], startAt := 0, limitAt := tSec }), ({ (ev.fset Fld.EN_SMP_CFG.EVENT 64 1).fset Fld.EN_SMP_CFG.SMP_EN 64 1 with now := tSec - 1 }), by decide +kernel⟩⟩

/-- What RequestServicesComplete assumes is met. -/
theorem test_meets_RequestServicesComplete :
    (∃ (h : ReqHdr) (x : Sess) (es : List EntryRef) (b : List Byte) (s t : Dev), (s.On) ∧ (s.Asks h x) ∧ (s.xing.farLock = none) ∧ (es ≠ []) ∧ (es.length ≤ 32) ∧ ((s.heard h).readAll { x with at_ := s.now } es = (0, b, t)) ∧ (b.length ≤ messageMax)) ∧
    (∃ (h : ReqHdr) (x : Sess) (es : List EntryWrite) (acts : List CmdAct) (s t : Dev), (s.On) ∧ (s.Asks h x) ∧ (s.xing.farLock = none) ∧ (es ≠ []) ∧ (es.length ≤ 32) ∧ ((s.heard h).checkAll h.sess es [] es = none) ∧ ((s.heard h).storeAll h.sess es = (t, acts))) ∧
    (∃ (k : SessKey) (c : Commit) (s : Dev), (s.On) ∧ (s.svc.commits.findIdx? (fun c => c.sess == k) = some 0) ∧ (s.svc.commits.head? = some c) ∧ (c.live = true)) ∧
    (∃ (h : ReqHdr) (x : Sess) (r : EntryRef) (row : ObjRow) (s : Dev), (s.On) ∧ (s.Asks h x) ∧ (indexExists r.index = true) ∧ (objRow r.index r.sub = some row)) ∧
    (∃ (h : ReqHdr) (x : Sess) (mask : Nat) (s : Dev), (s.On) ∧ (s.Asks h x) ∧ ((match h.sess with | .mailbox _ => true | _ => false) = false)) ∧
    (∃ (h : ReqHdr) (x : Sess) (nseq : Nat) (s : Dev), (s.On) ∧ (s.Asks h x)) ∧
    (∃ (h : ReqHdr) (x : Sess) (s : Dev), (s.On) ∧ (s.Asks h x)) ∧
    (∃ (h : ReqHdr) (x : Sess) (s : Dev), (s.On) ∧ (s.Asks h x)) ∧
    (∃ (h : ReqHdr) (id i slot : Nat) (body c : List Byte) (s t u : Dev), (s.On) ∧ (s.reachable = true) ∧ (s.mayAsk h.sess = true) ∧ (s.svc.inbox = []) ∧ (h.sess = .udp i) ∧ (h.fault = 0) ∧ (h.version = 1) ∧ (body.length = 1216) ∧ ((s.keySlot slot).till = none) ∧ (s.udpOpen < 8) ∧ ((id, t) = s.drawId) ∧ ((c, u) = t.challenge (body.drop 32))) ∧
    (∃ (h : ReqHdr) (i : Nat) (sig : List Byte) (x : Sess) (s : Dev), (s.On) ∧ (s.reachable = true) ∧ (s.mayAsk h.sess = true) ∧ (s.svc.inbox = []) ∧ (h.sess = .udp i) ∧ (s.sess? h.sess = some x) ∧ (x.from? h = true) ∧ (h.tagOk = true) ∧ (x.opened = false) ∧ (s.now ≤ x.at_ + 5 * tSec) ∧ (h.fault = 0) ∧ (h.version = 1) ∧ ((s.keySlot x.slot).state = 2) ∧ (s.udpOpen < 8)) ∧
    (∃ (i : Nat) (x : Sess) (s : Dev), (s.On) ∧ (s.open? (.udp i) = some x) ∧ (x.at_ + x.idle ≤ s.now) ∧ ((s.svc.inbox.any fun q => q.hdr.sess == SessKey.udp i) = false)) ∧
    (∃ (k : SessKey) (x : Sess) (s : Dev), (s.On) ∧ (s.sess? k = some x) ∧ (x.opened = false) ∧ (x.at_ + 5 * tSec ≤ s.now)) ∧
    (∃ (slot t : Nat) (s : Dev), (s.On) ∧ (slot < 16) ∧ ((s.keySlot slot).till = some t) ∧ (t ≤ s.now)) ∧
    (∃ (k : SessKey) (x : Sess) (s : Dev), (s.On) ∧ (s.reachable = true) ∧ (s.open? k = some x) ∧ (x.notes ≠ []) ∧ (x.noteAt + 100 * tMs ≤ s.now)) ∧
    (∃ (src : Nat) (e : EvtNote) (s : Dev), (s.On) ∧ (tfind s.tel.evt src = some e) ∧ (e.count ≠ 0) ∧ ((match e.last with | some t => decide (t + tMs ≤ s.now) | none => true) = true) ∧ (8 ≤ s.evtClass src) ∧ (s.evtClass src ≤ 63)) :=
  ⟨⟨({ sess := .mctp 8 }), ({ key := .mctp 8 }), ([⟨0x2000, 1, ObjTyp.u8.code⟩]), ((((dv : Dev).heard ({ sess := .mctp 8 } : ReqHdr)).readAll ({ key := .mctp 8 } : Sess) ([⟨0x2000, 1, ObjTyp.u8.code⟩] : List EntryRef)).2.1), (dv), ((((dv : Dev).heard ({ sess := .mctp 8 } : ReqHdr)).readAll ({ key := .mctp 8 } : Sess) ([⟨0x2000, 1, ObjTyp.u8.code⟩] : List EntryRef)).2.2), by decide +kernel⟩,
    ⟨({ sess := .mctp 8 }), ({ key := .mctp 8 }), ([⟨⟨0x2001, 1, ObjTyp.u16.code⟩, .num 2⟩, ⟨⟨0x2002, 1, ObjTyp.u32.code⟩, .num 500⟩]), ((((dv : Dev).heard ({ sess := .mctp 8 } : ReqHdr)).storeAll (.mctp 8) ([⟨⟨0x2001, 1, ObjTyp.u16.code⟩, .num 2⟩, ⟨⟨0x2002, 1, ObjTyp.u32.code⟩, .num 500⟩] : List EntryWrite)).2), (dv), ((((dv : Dev).heard ({ sess := .mctp 8 } : ReqHdr)).storeAll (.mctp 8) ([⟨⟨0x2001, 1, ObjTyp.u16.code⟩, .num 2⟩, ⟨⟨0x2002, 1, ObjTyp.u32.code⟩, .num 500⟩] : List EntryWrite)).1), by decide +kernel⟩,
    ⟨(.mctp 8), ({ sess := .mctp 8, seq := 1, body := [255], vals := [(objKey 0x2002 1, .num 500)] }), ({ dv with svc.commits := [({ sess := .mctp 8, seq := 1, body := [255], vals := [(objKey 0x2002 1, .num 500)] } : Commit)] }), by decide +kernel⟩,
    ⟨({ sess := .mctp 8 }), ({ key := .mctp 8 }), (⟨0x2000, 1, 5⟩), (ent 0x2000 1 1 "device_state" .u8 .ro 0 rtA none none), (dv), by decide +kernel, by decide +kernel, by decide +kernel, rfl⟩,
    ⟨({ sess := .mctp 8 }), ({ key := .mctp 8 }), (2 ^ 64 - 1), (dv), by decide +kernel⟩,
    ⟨({ sess := .mctp 8 }), ({ key := .mctp 8 }), (0), (dv), by decide +kernel⟩,
    ⟨({ sess := .udp 4 }), ({ key := .udp 4 }), ({ dv with svc.sess := [{ key := .udp 4 }] }), by decide +kernel⟩,
    ⟨({ sess := .udp 4 }), ({ key := .udp 4 }), ({ dv with svc.sess := [{ key := .udp 4 }] }), by decide +kernel⟩,
    ⟨({ sess := .udp 0 }), ((dv : Dev).drawId.1), (0), (0), (List.replicate 1216 0), ((((dv : Dev).drawId.2 : Dev).challenge ((List.replicate 1216 0 : List Byte).drop 32)).1), (dv), ((dv : Dev).drawId.2), ((((dv : Dev).drawId.2 : Dev).challenge ((List.replicate 1216 0 : List Byte).drop 32)).2), by decide +kernel, by decide +kernel, by decide +kernel, by decide +kernel, by decide +kernel, by decide +kernel, by decide +kernel, List.length_replicate .., by decide +kernel, by decide +kernel, rfl, rfl⟩,
    ⟨({ sess := .udp 4 }), (4), ([]), ({ key := .udp 4, opened := false }), ({ dv with svc.sess := [{ key := .udp 4, opened := false }], svc.keys := [(0, { state := 2 })] }), by decide +kernel⟩,
    ⟨(4), ({ key := .udp 4, idle := tSec }), ({ dv with now := tSec, svc.sess := [{ key := .udp 4, idle := tSec }] }), by decide +kernel⟩,
    ⟨(.udp 4), ({ key := .udp 4, opened := false }), ({ dv with now := 5 * tSec, svc.sess := [{ key := .udp 4, opened := false }] }), by decide +kernel⟩,
    ⟨(15), (0), ({ dv with svc.keys := [(15, { till := some 0 })] }), by decide +kernel⟩,
    ⟨(.mctp 8), ({ key := .mctp 8, notes := [{ nseq := 1, cls := 8, source := 2, time := 0, data := [], lost := 0 }] }), ({ dv with now := 100 * tMs, svc.sess := [({ key := .mctp 8, notes := [{ nseq := 1, cls := 8, source := 2, time := 0, data := [], lost := 0 }] } : Sess)] }), by decide +kernel⟩,
    ⟨(0), ({ count := 70000, first := 5 }), ({ dv.oset 0x9100 1 8 with tel.evt := [(0, { count := 70000, first := 5 })] }), by decide +kernel⟩⟩

/-- What DeviceStateCommandsComplete assumes is met. -/
theorem test_meets_DeviceStateCommandsComplete :
    (∃ (h : ReqHdr) (x : Sess) (s t : Dev), (s.On) ∧ (s.Orders h x (0x2001) 1 .u16 (.num 1)) ∧ ((s.commanded h 0x2001 1 (.num 1)).stateLegal 1 = true) ∧ (t = s.commanded h (0x2001) 1 (.num 1))) ∧
    (∃ (h : ReqHdr) (x : Sess) (s t : Dev), (s.On) ∧ (s.Orders h x (0x2001) 1 .u16 (.num 2)) ∧ ((s.commanded h 0x2001 1 (.num 2)).stateLegal 2 = true) ∧ (t = s.commanded h (0x2001) 1 (.num 2))) ∧
    (∃ (h : ReqHdr) (x : Sess) (s t : Dev), (s.On) ∧ (s.Orders h x (0x2001) 1 .u16 (.num 259)) ∧ ((s.commanded h 0x2001 1 (.num 259)).stateLegal 3 = true) ∧ (t = s.commanded h (0x2001) 1 (.num 259))) ∧
    (∃ (h : ReqHdr) (x : Sess) (s t : Dev), (s.On) ∧ (s.Orders h x (0x2001) 1 .u16 (.num 3)) ∧ ((s.commanded h 0x2001 1 (.num 3)).stateLegal 3 = true) ∧ (t = s.commanded h (0x2001) 1 (.num 3))) ∧
    (∃ (h : ReqHdr) (x : Sess) (s t : Dev), (s.On) ∧ (s.Orders h x (0x2001) 1 .u16 (.num 4)) ∧ ((s.commanded h 0x2001 1 (.num 4)).stateLegal 4 = true) ∧ (t = s.commanded h (0x2001) 1 (.num 4))) ∧
    (∃ (h : ReqHdr) (x : Sess) (s t : Dev), (s.On) ∧ (s.Orders h x (0x2001) 1 .u16 (.num 5)) ∧ ((s.commanded h 0x2001 1 (.num 5)).stateLegal 5 = true) ∧ (t = s.commanded h (0x2001) 1 (.num 5))) ∧
    (∃ (h : ReqHdr) (x : Sess) (s t : Dev), (s.On) ∧ (s.Orders h x (0x2001) 1 .u16 (.num 6)) ∧ ((s.commanded h 0x2001 1 (.num 6)).stateLegal 6 = true) ∧ (t = s.commanded h (0x2001) 1 (.num 6))) ∧
    (∃ (a quiet till : Nat) (s : Dev), (s.On) ∧ (s.svc.maintain = some (a, quiet, till)) ∧ (s.svc.state = stDraining) ∧ (s.drained quiet = true)) ∧
    (∃ (a quiet till : Nat) (s : Dev), (s.On) ∧ (s.svc.maintain = some (a, quiet, till)) ∧ (s.svc.state = stDraining) ∧ (till ≤ s.now)) ∧
    (∃ (cause : Nat) (s : Dev), (s.On) ∧ (s.svc.state ≠ stFault)) :=
  ⟨⟨({ sess := .mctp 8 }), ({ key := .mctp 8 }), ({ dv.oset 0xA000 1 1 with svc.state := stMeasured }), (({ dv.oset 0xA000 1 1 with svc.state := stMeasured } : Dev).commanded ({ sess := .mctp 8 } : ReqHdr) (0x2001) 1 (.num 1)), by decide +kernel⟩,
    ⟨({ sess := .mctp 8 }), ({ key := .mctp 8 }), ({ dv with svc.state := stActive }), (({ dv with svc.state := stActive } : Dev).commanded ({ sess := .mctp 8 } : ReqHdr) (0x2001) 1 (.num 2)), by decide +kernel⟩,
    ⟨({ sess := .mctp 8 }), ({ key := .mctp 8 }), ({ dv with svc.state := stDraining }), (({ dv with svc.state := stDraining } : Dev).commanded ({ sess := .mctp 8 } : ReqHdr) (0x2001) 1 (.num 259)), by decide +kernel⟩,
    ⟨({ sess := .mctp 8 }), ({ key := .mctp 8 }), ({ dv with svc.state := stDraining }), (({ dv with svc.state := stDraining } : Dev).commanded ({ sess := .mctp 8 } : ReqHdr) (0x2001) 1 (.num 3)), by decide +kernel⟩,
    ⟨({ sess := .mctp 8 }), ({ key := .mctp 8 }), ({ dv with svc.state := stMaintenance }), (({ dv with svc.state := stMaintenance } : Dev).commanded ({ sess := .mctp 8 } : ReqHdr) (0x2001) 1 (.num 4)), by decide +kernel⟩,
    ⟨({ sess := .mctp 8 }), ({ key := .mctp 8 }), ({ dv with svc.state := stDraining }), (({ dv with svc.state := stDraining } : Dev).commanded ({ sess := .mctp 8 } : ReqHdr) (0x2001) 1 (.num 5)), by decide +kernel⟩,
    ⟨({ sess := .mctp 8 }), ({ key := .mctp 8 }), ({ dv with svc.state := stActive }), (({ dv with svc.state := stActive } : Dev).commanded ({ sess := .mctp 8 } : ReqHdr) (0x2001) 1 (.num 6)), by decide +kernel⟩,
    ⟨(0), (5), (9), ({ dv with now := 5, svc.state := stDraining, svc.maintain := some (0, 5, 9) }), by decide +kernel⟩,
    ⟨(0), (5), (9), ({ dv with now := 9, svc.state := stDraining, svc.maintain := some (0, 5, 9) }), by decide +kernel⟩,
    ⟨(3), (dv), by decide +kernel⟩⟩

/-- What LoadTargetCommandsComplete assumes is met. -/
theorem test_meets_LoadTargetCommandsComplete :
    (∃ (h : ReqHdr) (x : Sess) (idx : Nat) (data : List Byte) (s : Dev), (s.On) ∧ (s.Orders h x idx (loadSub idx) .octets (.bytes data)) ∧ ((objRow idx (loadSub idx)).map (·.acc) = some .wo) ∧ (isLoadOff idx (loadSub idx) = false) ∧ (isLoadData idx (loadSub idx) = true)) ∧
    (∃ (h : ReqHdr) (x : Sess) (idx off : Nat) (s : Dev), (s.On) ∧ (s.Orders h x idx (loadSub idx - 1) .u32 (.num off)) ∧ ((objRow idx (loadSub idx - 1)).map (·.acc) = some .rw) ∧ (isLoadOff idx (loadSub idx - 1) = true)) ∧
    (∃ (h : ReqHdr) (x : Sess) (s t : Dev), (s.On) ∧ (s.Orders h x (0x3000) 1 .u8 (.num 1)) ∧ (t = s.commanded h (0x3000) 1 (.num 1))) ∧
    (∃ (h : ReqHdr) (x : Sess) (b : List Byte) (s t : Dev), (s.On) ∧ (s.Orders h x (0x3000) 1 .u8 (.num 2)) ∧ (t = s.commanded h (0x3000) 1 (.num 2)) ∧ (b = (s.load (0x3000)).image) ∧ (t.trust.jobs = [])) ∧
    (∃ (h : ReqHdr) (x : Sess) (slot : Nat) (s t : Dev), (s.On) ∧ (s.Orders h x (0xA100 + slot) 1 .u16 (.num 1)) ∧ (slot < 16) ∧ (t = s.commanded h (0xA100 + slot) 1 (.num 1))) ∧
    (∃ (h : ReqHdr) (x : Sess) (slot role : Nat) (b : List Byte) (s t : Dev), (s.On) ∧ (s.Orders h x (0xA100 + slot) 1 .u16 (.num (2 + 256 * role))) ∧ (slot < 16) ∧ (role < 4) ∧ (b.length = 1952) ∧ (t = s.commanded h (0xA100 + slot) 1 (.num (2 + 256 * role))) ∧ (b = (s.load (0xA100 + slot)).image) ∧ (t.trust.jobs = [])) ∧
    (∃ (h : ReqHdr) (x : Sess) (slot : Nat) (s t : Dev), (s.On) ∧ (s.Orders h x (0xA100 + slot) 1 .u16 (.num 3)) ∧ (slot < 16) ∧ (t = s.commanded h (0xA100 + slot) 1 (.num 3)) ∧ (t.trust.jobs = [])) ∧
    (∃ (b : List Byte) (s : Dev), (s.On) ∧ (s.trust.pendReport = some b)) ∧
    (∃ (h : ReqHdr) (x : Sess) (nonce : List Byte) (s t : Dev), (s.On) ∧ (s.Orders h x (0xA000) 4 .octets (.bytes nonce)) ∧ (t = s.commanded h (0xA000) 4 (.bytes nonce))) ∧
    (∃ (h : ReqHdr) (x : Sess) (kind : Nat) (s t : Dev), (s.On) ∧ (s.Orders h x (0xA200) 1 .u16 (.num (1 + 256 * kind))) ∧ (kind < 256) ∧ (t = s.commanded h (0xA200) 1 (.num (1 + 256 * kind)))) ∧
    (∃ (h : ReqHdr) (x : Sess) (kind : Nat) (b : List Byte) (s t : Dev), (s.On) ∧ (s.Orders h x (0xA200) 1 .u16 (.num (2 + 256 * kind))) ∧ (kind < 256) ∧ (t = s.commanded h (0xA200) 1 (.num (2 + 256 * kind))) ∧ (b = (s.load (0xA200)).image) ∧ (t.trust.jobs = [])) ∧
    (∃ (h : ReqHdr) (x : Sess) (kind : Nat) (s t : Dev), (s.On) ∧ (s.Orders h x (0xA200) 1 .u16 (.num (3 + 256 * kind))) ∧ (kind < 256) ∧ (t = s.commanded h (0xA200) 1 (.num (3 + 256 * kind))) ∧ (t.trust.jobs = [])) ∧
    (∃ (h : ReqHdr) (x : Sess) (slot vs : Nat) (s t : Dev), (s.On) ∧ (s.Orders h x (0xB100 + slot) 1 .u16 (.num (1 + 256 * vs))) ∧ (slot < 256) ∧ (vs < 48) ∧ (t = s.commanded h (0xB100 + slot) 1 (.num (1 + 256 * vs)))) ∧
    (∃ (h : ReqHdr) (x : Sess) (slot : Nat) (b : List Byte) (s t : Dev), (s.On) ∧ (s.Orders h x (0xB100 + slot) 1 .u16 (.num 2)) ∧ (slot < 256) ∧ (t = s.commanded h (0xB100 + slot) 1 (.num 2)) ∧ (b = (s.load (0xB100 + slot)).image)) ∧
    (∃ (h : ReqHdr) (x : Sess) (slot : Nat) (s t : Dev), (s.On) ∧ (s.Orders h x (0xB100 + slot) 1 .u16 (.num 3)) ∧ (slot < 256) ∧ ((t.prog slot).state ≠ 1) ∧ (t = s.commanded h (0xB100 + slot) 1 (.num 3))) ∧
    (∃ (slot : Nat) (s : Dev), ((s.prog slot).state = 4) ∧ ((s.prog slot).retireAt < s.engCyc) ∧ ((s.eng.runs.any fun e => e.2.slot == slot) = false)) ∧
    (∃ (slot : Nat) (p : Prog) (a : CmdAct) (s t : Dev), (s.On) ∧ (s.trust.jobs = [a]) ∧ (a.program = some slot) ∧ (t = { s with trust.jobs := [] }) ∧ (p = t.prog slot) ∧ (p.state = 2) ∧ ((t.cmdSt (0xB100 + slot) 1).running = true) ∧ (progFormed p.image = true) ∧ (p.expect = [])) ∧
    (∃ (h : ReqHdr) (x : Sess) (slot role : Nat) (b : List Byte) (s t : Dev), (s.On) ∧ (s.Orders h x (0xA100 + slot) 1 .u16 (.num (2 + 256 * role))) ∧ (slot < 16) ∧ (t = s.commanded h (0xA100 + slot) 1 (.num (2 + 256 * role))) ∧ (b = (s.load (0xA100 + slot)).image) ∧ (t.trust.jobs ≠ [])) :=
  ⟨⟨({ sess := .mctp 8 }), ({ key := .mctp 8 }), (0xA105), ([7]), ({ dv with svc.loads := [(0xA105, { holder := some (.mctp 8) })], svc.keys := [(5, { state := 1 })] }), by decide +kernel⟩,
    ⟨({ sess := .mctp 8 }), ({ key := .mctp 8 }), (0xA105), (1952), ({ dv with svc.loads := [(0xA105, { holder := some (.mctp 8) })], svc.keys := [(5, { state := 1 })] }), by decide +kernel⟩,
    ⟨({ sess := .mctp 8 }), ({ key := .mctp 8 }), (dv), ((dv : Dev).commanded ({ sess := .mctp 8 } : ReqHdr) (0x3000) 1 (.num 1)), by decide +kernel⟩,
    ⟨({ sess := .mctp 8 }), ({ key := .mctp 8 }), ((({ dv with svc.loads := [(0x3000, { holder := some (.mctp 8), bytes := [1] })] } : Dev).load (0x3000)).image), ({ dv with svc.loads := [(0x3000, { holder := some (.mctp 8), bytes := [1] })] }), (({ dv with svc.loads := [(0x3000, { holder := some (.mctp 8), bytes := [1] })] } : Dev).commanded ({ sess := .mctp 8 } : ReqHdr) (0x3000) 1 (.num 2)), by decide +kernel⟩,
    ⟨({ sess := .mctp 8 }), ({ key := .mctp 8 }), (15), (dv), ((dv : Dev).commanded ({ sess := .mctp 8 } : ReqHdr) (0xA100 + (15 : Nat)) 1 (.num 1)), by decide +kernel⟩,
    ⟨({ sess := .mctp 8 }), ({ key := .mctp 8 }), (15), (3), ((({ dv with svc.loads := [(0xA10F, { holder := some (.mctp 8), bytes := List.replicate 1952 0, off := 1952 })], svc.keys := [(15, { state := 1 })] } : Dev).load (0xA100 + (15 : Nat))).image), ({ dv with svc.loads := [(0xA10F, { holder := some (.mctp 8), bytes := List.replicate 1952 0, off := 1952 })], svc.keys := [(15, { state := 1 })] }), (({ dv with svc.loads := [(0xA10F, { holder := some (.mctp 8), bytes := List.replicate 1952 0, off := 1952 })], svc.keys := [(15, { state := 1 })] } : Dev).commanded ({ sess := .mctp 8 } : ReqHdr) (0xA100 + (15 : Nat)) 1 (.num (2 + 256 * (3 : Nat)))), by decide +kernel⟩,
    ⟨({ sess := .mctp 8 }), ({ key := .mctp 8 }), (15), (dv), ((dv : Dev).commanded ({ sess := .mctp 8 } : ReqHdr) (0xA100 + (15 : Nat)) 1 (.num 3)), by decide +kernel⟩,
    ⟨([1]), ({ dv with trust.pendReport := some [1] }), by decide +kernel⟩,
    ⟨({ sess := .mctp 8 }), ({ key := .mctp 8 }), (List.replicate 32 0), (dv), ((dv : Dev).commanded ({ sess := .mctp 8 } : ReqHdr) (0xA000) 4 (.bytes (List.replicate 32 0 : List Byte))), by decide +kernel, by decide +kernel, rfl⟩,
    ⟨({ sess := .mctp 8 }), ({ key := .mctp 8 }), (0), (dv), ((dv : Dev).commanded ({ sess := .mctp 8 } : ReqHdr) (0xA200) 1 (.num (1 + 256 * (0 : Nat)))), by decide +kernel⟩,
    ⟨({ sess := .mctp 8 }), ({ key := .mctp 8 }), (3), ((({ dv with svc.loads := [(0xA200, { holder := some (.mctp 8), bytes := [1] })] } : Dev).load (0xA200)).image), ({ dv with svc.loads := [(0xA200, { holder := some (.mctp 8), bytes := [1] })] }), (({ dv with svc.loads := [(0xA200, { holder := some (.mctp 8), bytes := [1] })] } : Dev).commanded ({ sess := .mctp 8 } : ReqHdr) (0xA200) 1 (.num (2 + 256 * (3 : Nat)))), by decide +kernel⟩,
    ⟨({ sess := .mctp 8 }), ({ key := .mctp 8 }), (0), ({ dv with trust.inUse := [(0, { svn := 2 })] }), (({ dv with trust.inUse := [(0, { svn := 2 })] } : Dev).commanded ({ sess := .mctp 8 } : ReqHdr) (0xA200) 1 (.num (3 + 256 * (0 : Nat)))), by decide +kernel⟩,
    ⟨({ sess := .mctp 8 }), ({ key := .mctp 8 }), (255), (0), (rv), ((rv : Dev).commanded ({ sess := .mctp 8 } : ReqHdr) (0xB100 + (255 : Nat)) 1 (.num (1 + 256 * (0 : Nat)))), by decide +kernel⟩,
    ⟨({ sess := .mctp 8 }), ({ key := .mctp 8 }), (255), ((({ rv with svc.loads := [(0xB1FF, { holder := some (.mctp 8), bytes := [1] })], eng.progs := [(255, { state := 1 })] } : Dev).load (0xB100 + (255 : Nat))).image), ({ rv with svc.loads := [(0xB1FF, { holder := some (.mctp 8), bytes := [1] })], eng.progs := [(255, { state := 1 })] }), (({ rv with svc.loads := [(0xB1FF, { holder := some (.mctp 8), bytes := [1] })], eng.progs := [(255, { state := 1 })] } : Dev).commanded ({ sess := .mctp 8 } : ReqHdr) (0xB100 + (255 : Nat)) 1 (.num 2)), by decide +kernel⟩,
    ⟨({ sess := .mctp 8 }), ({ key := .mctp 8 }), (0), ({ rv with eng.progs := [(0, { state := 3 })] }), (({ rv with eng.progs := [(0, { state := 3 })] } : Dev).commanded ({ sess := .mctp 8 } : ReqHdr) (0xB100 + (0 : Nat)) 1 (.num 3)), by decide +kernel⟩,
    ⟨(255), ({ rv with now := tSec, eng.progs := [(255, { state := 4 })] }), by decide +kernel⟩,
    ⟨(255), (({ ({ dv with trust.jobs := [{ idx := 0xB1FF, sub := 1, val := .num 2 }], svc.cmds := [(objKey 0xB1FF 1, { running := true })], eng.progs := [(255, { state := 2, image := [0x4D, 0x52, 0x50, 0x5A, 1, 0, 0, 0, 1, 0, 0, 0] ++ List.replicate 60 0 })] } : Dev) with trust.jobs := [] } : Dev).prog 255), ({ idx := 0xB1FF, sub := 1, val := .num 2 }), ({ dv with trust.jobs := [{ idx := 0xB1FF, sub := 1, val := .num 2 }], svc.cmds := [(objKey 0xB1FF 1, { running := true })], eng.progs := [(255, { state := 2, image := [0x4D, 0x52, 0x50, 0x5A, 1, 0, 0, 0, 1, 0, 0, 0] ++ List.replicate 60 0 })] }), ({ ({ dv with trust.jobs := [{ idx := 0xB1FF, sub := 1, val := .num 2 }], svc.cmds := [(objKey 0xB1FF 1, { running := true })], eng.progs := [(255, { state := 2, image := [0x4D, 0x52, 0x50, 0x5A, 1, 0, 0, 0, 1, 0, 0, 0] ++ List.replicate 60 0 })] } : Dev) with trust.jobs := [] }), by decide +kernel⟩,
    ⟨({ sess := .mctp 8 }), ({ key := .mctp 8 }), (15), (3), ((({ dv with trust.jobs := [{ idx := 0xB1FF, sub := 1, val := .num 2 }], svc.loads := [(0xA10F, { holder := some (.mctp 8), bytes := List.replicate 1952 0, off := 1952 })], svc.keys := [(15, { state := 1 })] } : Dev).load (0xA100 + (15 : Nat))).image), ({ dv with trust.jobs := [{ idx := 0xB1FF, sub := 1, val := .num 2 }], svc.loads := [(0xA10F, { holder := some (.mctp 8), bytes := List.replicate 1952 0, off := 1952 })], svc.keys := [(15, { state := 1 })] }), (({ dv with trust.jobs := [{ idx := 0xB1FF, sub := 1, val := .num 2 }], svc.loads := [(0xA10F, { holder := some (.mctp 8), bytes := List.replicate 1952 0, off := 1952 })], svc.keys := [(15, { state := 1 })] } : Dev).commanded ({ sess := .mctp 8 } : ReqHdr) (0xA100 + (15 : Nat)) 1 (.num (2 + 256 * (3 : Nat)))), by decide +kernel⟩⟩

/-- What DictionaryCommandsComplete assumes is met. -/
theorem test_meets_DictionaryCommandsComplete :
    (∃ (h : ReqHdr) (x : Sess) (port v : Nat) (s t : Dev), (s.On) ∧ (s.Orders h x (0x3100 + port) 1 .u32 (.num v)) ∧ (port < 48) ∧ (t = s.commanded h (0x3100 + port) 1 (.num v))) ∧
    (∃ (port bits errs a till : Nat) (s : Dev), (s.On) ∧ (tfind s.ln.margin port = some (a, till)) ∧ (till ≤ s.now)) ∧
    (∃ (h : ReqHdr) (x : Sess) (port : Nat) (b : Binding) (s t : Dev), (s.On) ∧ (s.Orders h x (0x4000 + port) 5 .u8 (.num 1)) ∧ (port < 48) ∧ (t.bindAt t.ap port = some b) ∧ (t.dpcHeld b.vs b.vdsp = true) ∧ (t = s.commanded h (0x4000 + port) 5 (.num 1))) ∧
    (∃ (h : ReqHdr) (x : Sess) (port : Nat) (s t : Dev), (s.On) ∧ (s.Orders h x (0x4000 + port) 7 .u8 (.num 1)) ∧ (port < 48) ∧ (t = s.commanded h (0x4000 + port) 7 (.num 1))) ∧
    (∃ (h : ReqHdr) (x : Sess) (vs fn v : Nat) (s t : Dev), (s.On) ∧ (s.Orders h x (0x5100) 1 .u64 (.num (resWord 1 vs fn v))) ∧ (v < 2 ^ 32) ∧ (fn < 65536) ∧ (vs < 256) ∧ (t = s.commanded h (0x5100) 1 (.num (resWord 1 vs fn v)))) ∧
    (∃ (h : ReqHdr) (x : Sess) (vs fn v : Nat) (s t : Dev), (s.On) ∧ (s.Orders h x (0x5100) 1 .u64 (.num (resWord 2 vs fn v))) ∧ (v < 2 ^ 32) ∧ (fn < 65536) ∧ (vs < 256) ∧ (t = s.commanded h (0x5100) 1 (.num (resWord 2 vs fn v)))) ∧
    (∃ (h : ReqHdr) (x : Sess) (vs fn v : Nat) (s t : Dev), (s.On) ∧ (s.Orders h x (0x5100) 1 .u64 (.num (resWord 3 vs fn v))) ∧ (v < 2 ^ 32) ∧ (fn < 65536) ∧ (vs < 256) ∧ (t = s.commanded h (0x5100) 1 (.num (resWord 3 vs fn v)))) ∧
    (∃ (h : ReqHdr) (x : Sess) (vs fn v : Nat) (s t : Dev), (s.On) ∧ (s.Orders h x (0x5100) 1 .u64 (.num (resWord 4 vs fn v))) ∧ (v < 2 ^ 32) ∧ (fn < 65536) ∧ (vs < 256) ∧ (t = s.commanded h (0x5100) 1 (.num (resWord 4 vs fn v)))) ∧
    (∃ (h : ReqHdr) (x : Sess) (vs fn v : Nat) (s t : Dev), (s.On) ∧ (s.Orders h x (0x5100) 1 .u64 (.num (resWord 5 vs fn v))) ∧ (v < 2 ^ 32) ∧ (fn < 65536) ∧ (vs < 256) ∧ (t = s.commanded h (0x5100) 1 (.num (resWord 5 vs fn v)))) ∧
    (∃ (h : ReqHdr) (x : Sess) (s t : Dev), (s.On) ∧ (s.Orders h x (0x6000) 3 .u8 (.num 1)) ∧ (t = s.commanded h (0x6000) 3 (.num 1))) ∧
    (∃ (h : ReqHdr) (x : Sess) (v : Nat) (s : Dev), (s.On) ∧ (s.Orders h x 0x6000 2 .u64 (.num v))) ∧
    (∃ (h : ReqHdr) (x : Sess) (b : List Byte) (s : Dev), (s.On) ∧ (s.Orders h x 0x7300 1 .octets (.bytes b))) ∧
    (∃ (h : ReqHdr) (x : Sess) (id : Nat) (s t : Dev), (s.On) ∧ (s.Orders h x (0x7200) 1 .u16 (.num id)) ∧ (t = s.commanded h (0x7200) 1 (.num id))) ∧
    (∃ (h : ReqHdr) (x : Sess) (s t : Dev), (s.On) ∧ (s.Orders h x (0x8300) 8 .u8 (.num 1)) ∧ (t = s.commanded h (0x8300) 8 (.num 1))) ∧
    (∃ (h : ReqHdr) (x : Sess) (c : Nat) (s t : Dev), (s.On) ∧ (s.Orders h x (0xB900) 1 .u8 (.num c)) ∧ (t = s.commanded h (0xB900) 1 (.num c))) :=
  ⟨⟨({ sess := .mctp 8 }), ({ key := .mctp 8 }), (8), (0x01010100), (rv), ((rv : Dev).commanded ({ sess := .mctp 8 } : ReqHdr) (0x3100 + (8 : Nat)) 1 (.num (0x01010100 : Nat))), by decide +kernel⟩,
    ⟨(4), (5), (0), (0), (7), ({ rv with now := 7, ln.margin := [(4, (0, 7))] }), by decide +kernel⟩,
    ⟨({ sess := .mctp 8 }), ({ key := .mctp 8 }), (4), (⟨true, 0, 0, 68, 0⟩), (rv.modPfn 0 0 fun f => { f with dpcStat := 1 }), ((rv.modPfn 0 0 fun f => { f with dpcStat := 1 } : Dev).commanded ({ sess := .mctp 8 } : ReqHdr) (0x4000 + (4 : Nat)) 5 (.num 1)), by decide +kernel⟩,
    ⟨({ sess := .mctp 8 }), ({ key := .mctp 8 }), (4), (rv), ((rv : Dev).commanded ({ sess := .mctp 8 } : ReqHdr) (0x4000 + (4 : Nat)) 7 (.num 1)), by decide +kernel⟩,
    ⟨({ sess := .mctp 8 }), ({ key := .mctp 8 }), (0), (0), (1), (rv), ((rv : Dev).commanded ({ sess := .mctp 8 } : ReqHdr) (0x5100) 1 (.num (resWord 1 (0 : Nat) (0 : Nat) (1 : Nat)))), by decide +kernel⟩,
    ⟨({ sess := .mctp 8 }), ({ key := .mctp 8 }), (0), (0), (1), (ev.fset Fld.SF_RES.QUEUES 0 1), ((ev.fset Fld.SF_RES.QUEUES 0 1 : Dev).commanded ({ sess := .mctp 8 } : ReqHdr) (0x5100) 1 (.num (resWord 2 (0 : Nat) (0 : Nat) (1 : Nat)))), by decide +kernel⟩,
    ⟨({ sess := .mctp 8 }), ({ key := .mctp 8 }), (0), (0), (1), (rv), ((rv : Dev).commanded ({ sess := .mctp 8 } : ReqHdr) (0x5100) 1 (.num (resWord 3 (0 : Nat) (0 : Nat) (1 : Nat)))), by decide +kernel⟩,
    ⟨({ sess := .mctp 8 }), ({ key := .mctp 8 }), (0), (0), (1), (rv), ((rv : Dev).commanded ({ sess := .mctp 8 } : ReqHdr) (0x5100) 1 (.num (resWord 4 (0 : Nat) (0 : Nat) (1 : Nat)))), by decide +kernel⟩,
    ⟨({ sess := .mctp 8 }), ({ key := .mctp 8 }), (0), (0), (1), (rv), ((rv : Dev).commanded ({ sess := .mctp 8 } : ReqHdr) (0x5100) 1 (.num (resWord 5 (0 : Nat) (0 : Nat) (1 : Nat)))), by decide +kernel⟩,
    ⟨({ sess := .mctp 8 }), ({ key := .mctp 8 }), (dv), ((dv : Dev).commanded ({ sess := .mctp 8 } : ReqHdr) (0x6000) 3 (.num 1)), by decide +kernel⟩,
    ⟨({ sess := .mctp 8 }), ({ key := .mctp 8, regSel := 0x05000000 }), (5), ({ rv with svc.sess := [({ key := .mctp 8, regSel := 0x05000000 } : Sess)] }), by decide +kernel⟩,
    ⟨({ sess := .mctp 8 }), ({ key := .mctp 8, role := 2 }), (List.replicate 40 0), ({ rv with svc.sess := [({ key := .mctp 8, role := 2 } : Sess)] }), by decide +kernel⟩,
    ⟨({ sess := .mctp 8 }), ({ key := .mctp 8, role := 2 }), (9), ({ rv.oset 0x7100 1 1 with svc.sess := [({ key := .mctp 8, role := 2 } : Sess)] }), (({ rv.oset 0x7100 1 1 with svc.sess := [({ key := .mctp 8, role := 2 } : Sess)] } : Dev).commanded ({ sess := .mctp 8 } : ReqHdr) (0x7200) 1 (.num (9 : Nat))), by decide +kernel⟩,
    ⟨({ sess := .mctp 8 }), ({ key := .mctp 8 }), (dv), ((dv : Dev).commanded ({ sess := .mctp 8 } : ReqHdr) (0x8300) 8 (.num 1)), by decide +kernel⟩,
    ⟨({ sess := .mctp 8 }), ({ key := .mctp 8 }), (4), (ev), ((ev : Dev).commanded ({ sess := .mctp 8 } : ReqHdr) (0xB900) 1 (.num (4 : Nat))), by decide +kernel⟩⟩

/-- What TimePlaneCompletes assumes is met. -/
theorem test_meets_TimePlaneCompletes :
    (∃ (port val : Nat) (s : Dev), (s.On) ∧ (s.blActive port = true)) ∧
    (∃ (port val low t1 t3 : Nat) (s : Dev), (s.On) ∧ (s.blActive port = true) ∧ (s.tstate = tsAcquire ∨ s.tstate = tsLocked) ∧ (port = s.tport) ∧ ((s.tp port).syncLow = some low) ∧ ((s.tp port).sentAt = some t3) ∧ (s.parentSync (s.tp port) low = some t1)) ∧
    (∃ (t : Nat) (s : Dev), (s.tel.stepTo = some t) ∧ (s.tstate = tsAcquire)) ∧
    (∃ (port val : Nat) (s : Dev), (s.On) ∧ (s.blActive port = true)) ∧
    (∃ (port val : Nat) (s : Dev), (s.On) ∧ (s.blActive port = true)) ∧
    (∃ (port val : Nat) (s : Dev), (s.On) ∧ (s.blActive port = true)) ∧
    (∃ (port q val : Nat) (s : Dev), (s.On) ∧ (s.blActive port = true) ∧ (q < 4)) ∧
    (∃ (port : Nat) (s : Dev), (s.On) ∧ (s.blActive port = true) ∧ (s.fbit Fld.BL_STAT.TXSLEEP port = false) ∧ (s.isTimePort port = false) ∧ ((s.tp port).lastSend + tMs ≤ s.now)) ∧
    (∃ (port low : Nat) (s : Dev), (s.On) ∧ (s.blActive port = true) ∧ (s.fbit Fld.BL_STAT.TXSLEEP port = false) ∧ (s.isTimePort port = true) ∧ ((s.tp port).lastSend + (s.tp port).wait ≤ s.now) ∧ ((s.tp port).syncLow = some low)) ∧
    (∃ (port t : Nat) (s : Dev), (s.On) ∧ ((s.tp port).refreshed = some t) ∧ (t + 4 * tMs ≤ s.now)) ∧
    (∃ (port : Nat) (s : Dev), (s.On) ∧ (s.tstate = tsAcquire ∨ s.tstate = tsLocked) ∧ (port = s.tport) ∧ (s.fget Fld.TM_CFG.LOSS 0 ≤ (s.tp port).missed)) ∧
    (∃ (vs : Nat) (s : Dev), (s.On) ∧ (s.ptmAsks vs = true) ∧ ((match tfind s.tel.ptmSent vs with | some t => decide (t + tMs ≤ s.now) | none => true) = true)) ∧
    (∃ (vs host : Nat) (s : Dev), (s.On) ∧ (s.ptmAsks vs = true)) ∧
    (∃ (s : Dev), (s.On) ∧ (s.tel.bwNext ≤ s.ftime)) :=
  ⟨⟨(8), (2 ^ 20 - 1), (rv), by decide +kernel⟩,
    ⟨(8), (9), (5), (5), (3), ({ rv.fsets 0 [(Fld.TM_STAT.STATE, tsLocked), (Fld.TM_STAT.TPORT, 8)] with tel.ports := [(8, { syncLow := some 5, sentAt := some 3 })] }), by decide +kernel⟩,
    ⟨(9), ({ rv.fset Fld.TM_STAT.STATE 0 tsAcquire with tel.stepTo := some 9 }), by decide +kernel⟩,
    ⟨(8), (5), (rv), by decide +kernel⟩,
    ⟨(8), (5), (rv), by decide +kernel⟩,
    ⟨(8), (5), (rv), by decide +kernel⟩,
    ⟨(8), (3), (65535), (rv), by decide +kernel⟩,
    ⟨(8), ({ rv with now := tMs }), by decide +kernel⟩,
    ⟨(8), (5), ({ rv.fsets 0 [(Fld.TM_STAT.STATE, tsLocked), (Fld.TM_STAT.TPORT, 8)] with now := tSec, tel.ports := [(8, { syncLow := some 5 })] }), by decide +kernel⟩,
    ⟨(8), (0), ({ rv with now := 4 * tMs, tel.ports := [(8, { refreshed := some 0 })] }), by decide +kernel⟩,
    ⟨(8), ({ rv.fsets 0 [(Fld.TM_STAT.STATE, tsLocked), (Fld.TM_STAT.TPORT, 8)] with tel.ports := [(8, { missed := 100 })] }), by decide +kernel⟩,
    ⟨(0), (rv.modPfn 0 uspNo fun f => { f with ptmCtl := 1 }), by decide +kernel⟩,
    ⟨(0), (0), ({ (rv.modPfn 0 uspNo fun f => { f with ptmCtl := 1 }) with ftime := 80 }), by decide +kernel⟩,
    ⟨({ dv with ftime := 10 ^ 12 }), by decide +kernel⟩⟩

/-- What WearBootAndMeasurementComplete assumes is met. -/
theorem test_meets_WearBootAndMeasurementComplete :
    (∃ (s : Dev), (s.On) ∧ (s.tel.wearAt + tSec ≤ s.now)) ∧
    (∃ (s : Dev), (s.On) ∧ (s.tel.wearStoreAt + 3600 * tSec ≤ s.now)) ∧
    (∃ (die : Nat) (milliC : Int) (s : Dev), (s.On) ∧ (die < 5)) ∧
    (∃ (slot : Nat) (code : List Byte) (s : Dev), (s.On) ∧ (slot = 1 ∨ slot = 2) ∧ (s.reachable = true) ∧ (s.trust.remAt.getD (slot - 1) 0 + s.remeasureTime ≤ s.now)) ∧
    (∃ (slot : Nat) (u : ImgUse) (s : Dev), (s.On) ∧ (s.svc.state = stBoot) ∧ (s.svc.rstLow = none) ∧ (slot = s.trust.measured) ∧ (slot < 4) ∧ (s.trust.retain.testBit slot = true) ∧ (tfind s.trust.inUse slot = some u)) ∧
    (∃ (slot : Nat) (s : Dev), (s.On) ∧ (s.svc.state = stBoot) ∧ (s.svc.rstLow = none) ∧ (slot = s.trust.measured) ∧ (slot < 5) ∧ (¬ (slot < 4 ∧ s.trust.retain.testBit slot = true))) ∧
    (∃ (s : Dev), (s.On) ∧ (s.svc.state = stBoot) ∧ (s.svc.rstLow = none) ∧ (s.trust.measured = 5)) ∧
    (∃ (s : Dev), (s.On)) ∧
    (∃ (s : Dev), (s.On) ∧ (s.joined = false) ∧ (s.svc.rrsDone = false) ∧ (s.reachable = true) ∧ (s.bootAt + s.onum 0x2003 3 2000 * tMs ≤ s.now)) :=
  ⟨⟨({ dv with now := tSec }), by decide +kernel⟩,
    ⟨({ dv with now := 3600 * tSec }), by decide +kernel⟩,
    ⟨(4), (120000), (dv), by decide +kernel⟩,
    ⟨(2), ([]), ({ dv with now := 60 * tSec }), by decide +kernel⟩,
    ⟨(3), ({}), ({ dv with svc.state := stBoot, trust.measured := 3, trust.retain := 8, trust.inUse := [(3, {})] }), by decide +kernel⟩,
    ⟨(4), ({ dv with svc.state := stBoot, trust.measured := 4 }), by decide +kernel⟩,
    ⟨({ dv with svc.state := stBoot, trust.measured := 5 }), by decide +kernel⟩,
    ⟨(dv), by decide +kernel⟩,
    ⟨({ dv with now := 2 * tSec }), by decide +kernel⟩⟩

/-- What PowerControllerCompletes assumes is met. -/
theorem test_meets_PowerControllerCompletes :
    (∃ (s : Dev), (s.pe.state = peOn) ∧ (s.pe.railAt.isSome = true) ∧ (s.pe.pgood = false)) ∧
    (∃ (x : PeSample) (s t : Dev) (fl : Nat), (s.pe.state = peOff) ∧ (4000 ≤ x.va ∨ 4000 ≤ x.vb) ∧ ((fl, t) = s.freeNat)) ∧
    (∃ (f : Nat) (x : PeSample) (s : Dev), (s.pe.state ≠ peOff) ∧ (f < 2) ∧ (s.usableFeed f = false) ∧ (4500 ≤ feedMv x f) ∧ (s.sagWarnMv + 100 ≤ feedMv x f) ∧ (feedMv x f ≤ 18000)) ∧
    (∃ (f : Nat) (why : FeedLoss) (x : PeSample) (s : Dev), (s.pe.state ≠ peOff) ∧ (s.usableFeed f = true)) ∧
    (∃ (f : Nat) (why : FeedLoss) (x : PeSample) (s : Dev), (s.pe.state ≠ peOff) ∧ (s.usableFeed f = true)) ∧
    (∃ (s : Dev), (s.now % tUs = 0)) ∧
    (∃ (t : Nat) (s : Dev), (s.pe.breakTill = some t) ∧ (s.pe.state = peTransfer) ∧ (t ≤ s.now)) ∧
    (∃ (x : PeSample) (s : Dev), (s.pe.state = peTransfer) ∧ (s.pe.regulating = true) ∧ (s.busNear x = true)) ∧
    (∃ (x : PeSample) (s : Dev), (s.pe.state = peOn) ∧ (s.pe.feed = otherFeed s.preferred) ∧ (s.usableFeed s.preferred = true) ∧ (s.pe.usableAt.getD s.preferred 0 + 10 * tSec ≤ s.now) ∧ (s.pe.revertAt ≤ s.now)) ∧
    (∃ (x : PeSample) (s : Dev), (s.pe.state = peRamp) ∧ (s.busNear x = true)) ∧
    (∃ (s : Dev), (s.pe.state = peRamp ∨ s.pe.state = peTransfer) ∧ (s.pe.regulating = true) ∧ (s.pe.at_ + s.inrushTime ≤ s.now)) ∧
    (∃ (t : Nat) (s : Dev), (s.pe.railAt = some t) ∧ (s.pe.state = peOn) ∧ (t + 5 * tMs ≤ s.now)) ∧
    (∃ (f ma : Nat) (s : Dev), (s.conducts f = true) ∧ ((if s.pe.state = peRamp then 2 * s.inrushMa else 2 * s.curveI0) < ma)) ∧
    (∃ (f pt ma : Nat) (s : Dev), (s.conducts f = true) ∧ (pt < 8) ∧ ((s.curve.getD pt (0, 0)).1 * 100 < ma)) ∧
    (∃ (s : Dev), (s.pe.state = peLatched)) ∧
    (∃ (x : PeSample) (s : Dev), (s.pe.state ≠ peOff) ∧ (x.va < 4000) ∧ (x.vb < 4000)) ∧
    (∃ (x : PeSample) (s : Dev), (s.pe.state ≠ peOff) ∧ (s.pe.pfw = false) ∧ (x.bus < s.sagWarnMv)) ∧
    (∃ (x : PeSample) (s : Dev), (s.pe.state ≠ peOff) ∧ (s.pe.pfw = true) ∧ (s.sagWarnMv + 100 ≤ x.bus)) ∧
    (∃ (x : PeSample) (s : Dev), (s.pe.state = peOn ∨ s.pe.state = peTransfer) ∧ (x.bus < s.sagResetMv)) ∧
    (∃ (s : Dev), (s.pe.state = peOn ∨ s.pe.state = peTransfer)) ∧
    (∃ (s : Dev), (s.pe.state ≠ peOff) ∧ (s.pe.storeAt + 60 * tSec ≤ s.now)) :=
  ⟨⟨({ dv with pe.state := peOn, pe.railAt := some 0 , pe.pgood := false }), by decide +kernel⟩,
    ⟨({ vb := 4000 }), ({ dv with pe.state := peOff }), (({ dv with pe.state := peOff } : Dev).freeNat.2), (({ dv with pe.state := peOff } : Dev).freeNat.1), by decide +kernel, by decide +kernel, rfl⟩,
    ⟨(1), ({ vb := 12000 }), ({ dv with pe.state := peWait, pe.usable := 0 }), by decide +kernel⟩,
    ⟨(1), (.overvoltage), ({}), ({ dv with pe.state := peOn, pe.usable := 3 }), by decide +kernel⟩,
    ⟨(1), (.overvoltage), ({}), ({ dv with pe.state := peOn, pe.usable := 3 }), by decide +kernel⟩,
    ⟨({ dv with pe.lost := [(1, .overvoltage, {})] }), by decide +kernel⟩,
    ⟨(0), ({ dv with pe.state := peTransfer, pe.breakTill := some 0 }), by decide +kernel⟩,
    ⟨({ va := 12000, bus := 11800 }), ({ dv with pe.state := peTransfer, pe.regulating := true, pe.feed := 0 }), by decide +kernel⟩,
    ⟨({}), ({ dv with now := 10 * tSec, pe.state := peOn, pe.feed := 1, pe.usable := 3 }), by decide +kernel⟩,
    ⟨({ va := 12000, bus := 11800 }), ({ dv with pe.state := peRamp, pe.feed := 0 }), by decide +kernel⟩,
    ⟨({ dv with now := tSec, pe.state := peRamp, pe.regulating := true }), by decide +kernel⟩,
    ⟨(0), ({ dv with now := tSec, pe.state := peOn, pe.railAt := some 0 }), by decide +kernel⟩,
    ⟨(0), (10 ^ 7), ({ dv with pe.state := peOn, pe.feed := 0 }), by decide +kernel⟩,
    ⟨(0), (7), (10 ^ 7), ({ dv with pe.state := peOn, pe.feed := 0 }), by decide +kernel⟩,
    ⟨({ dv with pe.state := peLatched }), by decide +kernel⟩,
    ⟨({ va := 3999 }), ({ dv with pe.state := peOn }), by decide +kernel⟩,
    ⟨({ bus := 0 }), ({ dv with pe.state := peOn, pe.pfw := false }), by decide +kernel⟩,
    ⟨({ bus := 12000 }), ({ dv with pe.state := peOn, pe.pfw := true }), by decide +kernel⟩,
    ⟨({ bus := 0 }), ({ dv with pe.state := peOn }), by decide +kernel⟩,
    ⟨({ dv with pe.state := peOn }), by decide +kernel⟩,
    ⟨({ dv with now := 60 * tSec, pe.state := peOn }), by decide +kernel⟩⟩

/-- What SlotAndResetCommandsComplete assumes is met. -/
theorem test_meets_SlotAndResetCommandsComplete :
    (∃ (held : Nat) (s : Dev), (s.On) ∧ (10000 ≤ held)) ∧
    (∃ (vs : Nat) (s : Dev), (s.On) ∧ (s.vsExists vs = true) ∧ (s.resetNow = false)) ∧
    (∃ (n : Nat) (s : Dev), (s.On) ∧ (s.isHost n = true)) ∧
    (∃ (n : Nat) (s : Dev), (s.On) ∧ (s.isHost n = true)) ∧
    (∃ (k : Nat) (c : SlotCh) (s : Dev), (s.On) ∧ (k < 8) ∧ (c = s.slot k) ∧ (s.fbit Fld.PCI_SLOT_MAP.EN k = true) ∧ (s.slotCtl k = true) ∧ (s.fbit Fld.PCI_SLOT_STAT.PRSNT k = true) ∧ (c.retryAt = none) ∧ (c.offAt = none) ∧ (c.state = slOff ∨ c.state = slWait) ∧ (stStandby ≤ s.svc.state) ∧ (s.svc.state ≠ stFault)) ∧
    (∃ (k mv : Nat) (s : Dev), (k < 8) ∧ ((s.slot k).state = slRamp)) ∧
    (∃ (k : Nat) (s : Dev), (k < 8) ∧ ((s.slot k).state = slRamp) ∧ ((s.slot k).at_ + s.slotFaultTime k ≤ s.now)) ∧
    (∃ (k ma : Nat) (s : Dev), (k < 8) ∧ (s.gateOn k = true) ∧ (2 * s.slotLimitMa k < ma)) ∧
    (∃ (k ma : Nat) (s : Dev), (k < 8) ∧ ((s.slot k).state = slOn) ∧ (s.slotLimitMa k < ma)) ∧
    (∃ (k mv : Nat) (s : Dev), (k < 8) ∧ ((s.slot k).state = slOn)) ∧
    (∃ (k t : Nat) (s : Dev), (k < 8) ∧ ((s.slot k).retryAt = some t) ∧ (t ≤ s.now)) ∧
    (∃ (k : Nat) (s : Dev), (k < 8) ∧ ((s.slot k).state = slOn) ∧ ((s.slot k).at_ + 10 * tSec ≤ s.now)) ∧
    (∃ (k : Nat) (s : Dev), (k < 8) ∧ (s.gateOn k = true)) ∧
    (∃ (k : Nat) (s : Dev), (s.gateOn k = true)) ∧
    (∃ (k : Nat) (s : Dev), (k < 8) ∧ (s.gateOn k = false) ∧ ((s.slot k).tripAt = none)) ∧
    (∃ (k t : Nat) (s : Dev), (k < 8) ∧ (s.gateOn k = false) ∧ ((s.slot k).tripAt = some t) ∧ (t / tUs = s.now / tUs)) ∧
    (∃ (k mv : Nat) (s : Dev), (k < 8) ∧ (s.gateOn k = true) ∧ (mv < s.slotSagMv k) ∧ ((s.slot k).pfw = false)) ∧
    (∃ (k mv : Nat) (s : Dev), (k < 8) ∧ (s.gateOn k = true) ∧ (s.slotSagMv k + 100 ≤ mv) ∧ ((s.slot k).pfw = true) ∧ ((s.slot k).offAt = none)) ∧
    (∃ (n : Nat) (s : Dev), (s.On) ∧ (s.blState n = blAlign)) ∧
    (∃ (i n : Nat) (s : Dev), (s.On) ∧ ((s.fbit Fld.LN_PRBS_CTRL.BUSY i && s.checks i) = false) ∧ (s.portOfLane i = some n) ∧ (s.isFabric n = true) ∧ (s.fget Fld.BL_STAT.STATE n = 3) ∧ ((s.lane i).window = none) ∧ ((tget {} s.bl.ports n).lanesOk.testBit (i - (16 * (n / 4) + 4 * (n % 4))) = false)) ∧
    (∃ (i : Nat) (s : Dev), (s.On) ∧ ((s.fbit Fld.LN_PRBS_CTRL.BUSY i && s.checks i) = true) ∧ (s.portOfLane i = none)) ∧
    (∃ (n : Nat) (s : Dev), (s.On) ∧ ((s.pport n).up = true) ∧ ((s.pport n).l1 = true)) ∧
    (∃ (n kind hdr data : Nat) (s : Dev), (s.On) ∧ (s.isHost n = true ∨ s.isDevice n = true) ∧ (kind < 3)) ∧
    (∃ (e seq : Nat) (t : StoreE) (s : Dev), (s.On) ∧ ((s.en e).sb.find? (fun t => t.seq == seq) = some t) ∧ ((s.en e).storeReady t = true) ∧ (s.turnOk e [(t.tgt, t.data.length)] = true)) ∧
    (∃ (e seq : Nat) (a : Access) (data : List Byte) (s t : Dev), (s.On) ∧ ((s.en e).acc.find? (fun a => a.seq == seq) = some a) ∧ ((s.en e).hold ≠ some seq) ∧ ((s.en e).accReady a = true) ∧ (s.turnOk e (s.accTgts e a) = true) ∧ (t = s.takeTurn e (s.accTgts e a))) ∧
    (∃ (q moved vs fn l : Nat) (data : List Byte) (d : Desc) (s : Dev), (s.On) ∧ ((s.sfq q).owner = some (vs, fn, l)) ∧ ((s.sfq q).descs.find? (fun d => d.started && d.kind == 2) = some d) ∧ (moved = d.copyLen)) ∧
    (∃ (s : Dev), (s.On) ∧ (s.svc.rstLow.isSome = true)) :=
  ⟨⟨(10000), (dv), by decide +kernel⟩,
    ⟨(0), (rv), by decide +kernel⟩,
    ⟨(0), (rv), by decide +kernel⟩,
    ⟨(0), (rv), by decide +kernel⟩,
    ⟨(7), ((((dv.fset Fld.PCI_SLOT_MAP.EN 7 1).fset Fld.PCI_SLOT_STAT.PRSNT 7 1).fset Fld.PCI_SLOT_MAP.AUTO_ON 7 1 : Dev).slot 7), (((dv.fset Fld.PCI_SLOT_MAP.EN 7 1).fset Fld.PCI_SLOT_STAT.PRSNT 7 1).fset Fld.PCI_SLOT_MAP.AUTO_ON 7 1), by decide +kernel⟩,
    ⟨(7), (11000), (dv.modSlot 7 fun c => { c with state := slRamp }), by decide +kernel⟩,
    ⟨(7), ({ (dv.modSlot 7 fun c => { c with state := slRamp }) with now := tSec }), by decide +kernel⟩,
    ⟨(7), (12001), (dv.modSlot 7 fun c => { c with state := slOn }), by decide +kernel⟩,
    ⟨(7), (6001), (dv.modSlot 7 fun c => { c with state := slOn }), by decide +kernel⟩,
    ⟨(7), (0), (dv.modSlot 7 fun c => { c with state := slOn }), by decide +kernel⟩,
    ⟨(7), (0), (dv.modSlot 7 fun c => { c with state := slRetry, retryAt := some 0 }), by decide +kernel⟩,
    ⟨(7), ({ (dv.modSlot 7 fun c => { c with state := slOn }) with now := 10 * tSec }), by decide +kernel⟩,
    ⟨(7), (dv.modSlot 7 fun c => { c with state := slOn }), by decide +kernel⟩,
    ⟨(7), (dv.modSlot 7 fun c => { c with state := slOn }), by decide +kernel⟩,
    ⟨(7), (dv), by decide +kernel⟩,
    ⟨(7), (0), (dv.modSlot 7 fun c => { c with state := slLatched, tripAt := some 0 }), by decide +kernel⟩,
    ⟨(7), (10799), (dv.modSlot 7 fun c => { c with state := slOn, pfw := false }), by decide +kernel⟩,
    ⟨(7), (10900), (dv.modSlot 7 fun c => { c with state := slOn, pfw := true }), by decide +kernel⟩,
    ⟨(8), (rv.fset Fld.BL_STAT.STATE 8 blAlign), by decide +kernel⟩,
    ⟨(39), (8), (rv.fset Fld.BL_STAT.STATE 8 3), by decide +kernel⟩,
    ⟨(40), ((rv.fset Fld.LN_PRBS_CTRL.BUSY 40 1).fset Fld.LN_PRBS_CTRL.DIR 40 2), by decide +kernel⟩,
    ⟨(4), ({ rv with pci.ports := [(4, { up := true, l1 := true })] }), by decide +kernel⟩,
    ⟨(4), (2), (1), (4), (rv), by decide +kernel⟩,
    ⟨(64), (3), (⟨3, .sram 0x80000, [1]⟩), ({ ev with eng.eng := [(64, { run := some 0, sb := [(⟨3, .sram 0x80000, [1]⟩ : StoreE)] })] }), by decide +kernel⟩,
    ⟨(64), (3), ({ seq := 3, kind := .load 1 8 false, tgt := .sram 0x80000, len := 8, vaddr := 0x80000 }), ([]), ({ ev with eng.eng := [(64, { run := some 0, acc := [({ seq := 3, kind := .load 1 8 false, tgt := .sram 0x80000, len := 8, vaddr := 0x80000 } : Access)] })] }), (({ ev with eng.eng := [(64, { run := some 0, acc := [({ seq := 3, kind := .load 1 8 false, tgt := .sram 0x80000, len := 8, vaddr := 0x80000 } : Access)] })] } : Dev).takeTurn 64 (({ ev with eng.eng := [(64, { run := some 0, acc := [({ seq := 3, kind := .load 1 8 false, tgt := .sram 0x80000, len := 8, vaddr := 0x80000 } : Access)] })] } : Dev).accTgts 64 ({ seq := 3, kind := .load 1 8 false, tgt := .sram 0x80000, len := 8, vaddr := 0x80000 } : Access))), by decide +kernel⟩,
    ⟨(0), (0), (0), (0), (0), ([]), ({ kind := 2, started := true }), ({ rv with sf.qs := [(0, { owner := some (0, 0, 0), descs := [{ kind := 2, started := true }] })] }), by decide +kernel⟩,
    ⟨({ dv with svc.rstLow := some 0 }), by decide +kernel⟩⟩

end Sys2Proof.Tests
end

section
/-! The accesses a plane makes when they do not wait, and those to reserved offsets (R12). Each lemma says what one of the nested
accesses of Machine/RegWrite.lean and Machine/Access.lean does there. -/
namespace Sys2Proof.Machine

/-! Accesses that do not wait -/

theorem registerWrite_of_not_held {p : Plane} {a : RegAddr} {part : RegPart} {v : Nat} {s : Dev} (h : s.portHeld p a = false) :
    registerWrite p a part v s = s.planeWrite p a part v := by simp [registerWrite, h]

theorem rcRead_of_not_held {p : Plane} {a : RegAddr} {s : Dev} (h : s.portHeld p a = false) : rcRead p a s = s.doCoreRead p a := by
  simp [rcRead, h]

/-- A driver's access goes over no register bus (R409). -/
@[simp] theorem Dev.portHeld_bar (s : Dev) (p : Plane) (vs fn b off : Nat) : s.portHeld p (.bar vs fn b off) = false := rfl

theorem Dev.doCoreRead_of_planeRead {p : Plane} {a : RegAddr} {s t : Dev} {v : Nat} (h : s.planeRead p a = (v, t)) :
    s.doCoreRead p a = t.emit (.regRead v) := by rw [Dev.doCoreRead, h]

/-- A read that does not wait completes with what the plane reads. -/
theorem Does.rcRead_of_planeRead {p : Plane} {a : RegAddr} {s t : Dev} {v : Nat} (hon : s.On) (hheld : s.portHeld p a = false)
    (h : s.planeRead p a = (v, t)) : Does (.rcRead p a) s (t.emit (.regRead v)) :=
  Does.of_act (fun _ => rfl) hon ((rcRead_of_not_held hheld).trans (Dev.doCoreRead_of_planeRead h))

/-- A write that does not wait completes with what the plane writes. -/
theorem Does.registerWrite_of_planeWrite {p : Plane} {a : RegAddr} {part : RegPart} {v : Nat} {s t : Dev} (hon : s.On)
    (hheld : s.portHeld p a = false) (h : s.planeWrite p a part v = t) : Does (.registerWrite p a part v) s t :=
  Does.of_act (fun _ => rfl) hon ((registerWrite_of_not_held hheld).trans h)

/-! Reserved offsets of a block -/

/-- The 32-bit word at a block address holds nothing: of a half, no bit of the word is used; elsewhere no register is there. -/
def WordReserved (code off : Nat) : Prop :=
  if code = 7 ∧ offStaged ≤ off then halfMask (off % halfSize) = 0 else regAt code off = none

theorem wordReserved_half {code off : Nat} (hhalf : code = 7 ∧ offStaged ≤ off) :
    WordReserved code off ↔ halfMask (off % halfSize) = 0 := by rw [WordReserved, if_pos hhalf]

theorem wordReserved_reg {code off : Nat} (hhalf : ¬ (code = 7 ∧ offStaged ≤ off)) :
    WordReserved code off ↔ regAt code off = none := by rw [WordReserved, if_neg hhalf]

/-- No plane changes a word of the staged half without bits. -/
theorem Dev.stagedPut_of_halfMask_zero {s : Dev} {p : Plane} {o w : Nat} (h : halfMask o = 0) : s.stagedPut p o w = s :=
  if_pos (Or.inr h)

theorem Dev.blkRead_reserved {s : Dev} {code off : Nat} (h : WordReserved code off) : s.blkRead code off = (0, s) := by
  by_cases hhalf : code = 7 ∧ offStaged ≤ off
  · rw [Dev.blkRead, if_pos hhalf]
    dsimp only
    rw [if_pos ((wordReserved_half hhalf).1 h)]
  · rw [Dev.blkRead, if_neg hhalf, (wordReserved_reg hhalf).1 h]

theorem Dev.blkWrite_reserved {s : Dev} {p : Plane} {code off w : Nat} (h : WordReserved code off) : s.blkWrite p code off w = s := by
  by_cases hhalf : code = 7 ∧ offStaged ≤ off
  · rw [Dev.blkWrite, if_pos hhalf, Dev.stagedPut_of_halfMask_zero ((wordReserved_half hhalf).1 h), ite_self]
  · rw [Dev.blkWrite, if_neg hhalf, (wordReserved_reg hhalf).1 h]

/-- Where no register begins, a whole access is one of the 32-bit word. -/
theorem Dev.blkReadWhole_of_noReg {s : Dev} {code off : Nat} (h : regAt code off = none) :
    s.blkReadWhole code off = s.blkRead code off := by rw [Dev.blkReadWhole, h]

theorem Dev.blkWriteWhole_of_noReg {s : Dev} {p : Plane} {code off v : Nat} (h : regAt code off = none) :
    s.blkWriteWhole p code off v = s.blkWrite p code off (v % 2 ^ 32) := by rw [Dev.blkWriteWhole, h]

section
variable {s : Dev} {p : Plane} {code off : Nat}

theorem Dev.planeRead_blk_reserved (hp : p ≠ .data) (hword : WordReserved code off) (hreg : regAt code off = none) :
    s.planeRead p (.blk code off) = (0, s) := by
  have hread : s.planeRead p (.blk code off) = s.blkReadWhole code off := if_neg hp
  rw [hread, Dev.blkReadWhole_of_noReg hreg, Dev.blkRead_reserved hword]

theorem Dev.planeWrite_blk_low_reserved (hp : p ≠ .data) (hword : WordReserved code off) (v : Nat) :
    s.planeWrite p (.blk code off) .low v = s := by
  have hwrite : s.planeWrite p (.blk code off) .low v = s.blkWrite p code off (v % 2 ^ 32) := if_neg hp
  rw [hwrite, Dev.blkWrite_reserved hword]

theorem Dev.planeWrite_blk_whole_reserved (hp : p ≠ .data) (hword : WordReserved code off) (hreg : regAt code off = none) (v : Nat) :
    s.planeWrite p (.blk code off) .whole v = s := by
  have hwrite : s.planeWrite p (.blk code off) .whole v = s.blkWriteWhole p code off v := if_neg hp
  rw [hwrite, Dev.blkWriteWhole_of_noReg hreg, Dev.blkWrite_reserved hword]

end

/-! Reserved offsets of an open BAR -/

section
variable {s : Dev} {vs fn b off : Nat}

theorem Dev.barRead_reserved (hopen : s.barOpen vs fn = true) (hat : s.barAt vs fn b off = .none) :
    s.barRead vs fn b off = (0, s) := by
  rw [Dev.barRead, if_neg (not_not_intro hopen), hat]

theorem Dev.barWrite_reserved (hopen : s.barOpen vs fn = true) (hat : s.barAt vs fn b off = .none) (w : Nat) :
    s.barWrite vs fn b off w = s := by
  rw [Dev.barWrite, if_neg (not_not_intro hopen), hat]

theorem Dev.planeRead_bar_reserved (hopen : s.barOpen vs fn = true) (hat : s.barAt vs fn b off = .none) :
    s.planeRead .data (.bar vs fn b off) = (0, s) := by
  have hread : s.planeRead .data (.bar vs fn b off) = s.barRead vs fn b off := by simp [Dev.planeRead, hat]
  rw [hread, Dev.barRead_reserved hopen hat]

theorem Dev.planeWrite_bar_low_reserved (hopen : s.barOpen vs fn = true) (hat : s.barAt vs fn b off = .none) (v : Nat) :
    s.planeWrite .data (.bar vs fn b off) .low v = s :=
  Dev.barWrite_reserved hopen hat (v % 2 ^ 32)

theorem Dev.planeWrite_bar_whole_reserved (hopen : s.barOpen vs fn = true) (hat : s.barAt vs fn b off = .none) (v : Nat) :
    s.planeWrite .data (.bar vs fn b off) .whole v = s := by
  have hwrite : s.planeWrite .data (.bar vs fn b off) .whole v = s.barWrite vs fn b off (v % 2 ^ 32) := by simp [Dev.planeWrite, hat]
  rw [hwrite, Dev.barWrite_reserved hopen hat]

end

/-- Settles O9: at a reserved offset the plane's read gives 0 and leaves the switch, and its write leaves the switch; an access that
does not wait completes with just that. -/
theorem reservedOffsetsHaveNoEffect : Obligations.ReservedOffsetsHaveNoEffect := by
  unfold Obligations.ReservedOffsetsHaveNoEffect
  constructor
  · intro p code off v s hon hp hheld hword hreg
    exact ⟨Does.rcRead_of_planeRead hon hheld (Dev.planeRead_blk_reserved hp hword hreg),
      Does.registerWrite_of_planeWrite hon hheld (Dev.planeWrite_blk_low_reserved hp hword v),
      Does.registerWrite_of_planeWrite hon hheld (Dev.planeWrite_blk_whole_reserved hp hword hreg v)⟩
  · intro vs fn b off v s hon hopen hat
    have hheld := s.portHeld_bar .data vs fn b off
    exact ⟨Does.rcRead_of_planeRead hon hheld (Dev.planeRead_bar_reserved hopen hat),
      Does.registerWrite_of_planeWrite hon hheld (Dev.planeWrite_bar_low_reserved hopen hat v),
      Does.registerWrite_of_planeWrite hon hheld (Dev.planeWrite_bar_whole_reserved hopen hat v)⟩

end Sys2Proof.Machine
end

section
/-! The gates of a port whose list is disabled (R150 to R153): what GEN = 0 makes of the gate, of the length check of R152 and of the
next closing that GUARD waits for. -/

namespace Sys2Proof.Machine

section
variable {s : Dev} {n : Nat}

theorem Dev.gateOpen_of_disabled (hgen : s.fbit Fld.SCH_PORT_W.GEN n = false) (c : Nat) : s.gateOpen n c = true := by
  simp [Dev.gateOpen, hgen]

theorem Dev.oversize_of_disabled {p : Pkt} (hgen : s.fbit Fld.SCH_PORT_W.GEN p.egr = false) : s.oversize p = false := by
  simp [Dev.oversize, hgen]

/-- No closing is ahead at a port without an enabled or an armed list. -/
theorem Dev.nextClose_of_disabled (hgen : s.fbit Fld.SCH_PORT_W.GEN n = false) (harmed : tfind s.sch.armed n = none) (c : Nat) :
    s.nextClose n c = none := by
  simp [Dev.nextClose, hgen, harmed]

/-- A packet whose gate is open, that some open interval holds and that no closing cuts off goes, with or without GUARD, and not by
R152. -/
theorem Dev.gateOk_of_no_close {p : Pkt} (hopen : s.gateOpen p.egr p.cc = true) (hfits : s.oversize p = false)
    (hclose : s.nextClose p.egr p.cc = none) : s.gateOk p = (true, false) := by
  cases hguard : s.fbit Fld.SCH_PORT_W.GUARD p.egr with
  | false => simp [Dev.gateOk, hopen, hfits, hguard]
  | true => simp [Dev.gateOk, hopen, hfits, hguard, hclose]

end

/-- Settles O10: a disabled list closes no gate and has no interval a packet could exceed; without an armed list no closing is ahead
either, so GUARD holds nothing back. -/
theorem gatesOpenWhileDisabled : Obligations.GatesOpenWhileDisabled := by
  unfold Obligations.GatesOpenWhileDisabled
  intro s n c hgen
  refine ⟨Dev.gateOpen_of_disabled hgen c, ?_⟩
  rintro p rfl rfl harmed
  exact Dev.gateOk_of_no_close (Dev.gateOpen_of_disabled hgen p.cc) (Dev.oversize_of_disabled hgen)
    (Dev.nextClose_of_disabled hgen harmed p.cc)

end Sys2Proof.Machine
end

section
/-! CANCEL at a switch that follows the message (R439): what following a down message leaves alone, and what CANCEL does after it. -/

namespace Sys2Proof.Machine

/-! A down message passed on and noted -/

theorem Dev.fget_of_regs_eq {s t : Dev} (h : s.regs = t.regs) (f : Fld) (i : Nat) : s.fget f i = t.fget f i := by
  rw [Dev.fget, Dev.fget, Dev.rget, Dev.rget, h]

@[simp] theorem Dev.fget_withSender (s : Dev) (sender : Option TreeSrc) (f : Fld) (i : Nat) :
    ({ s with dl.from_ := sender } : Dev).fget f i = s.fget f i := rfl

/-- Passing a down message on to the children only sends packets: what sending leaves alone stays. -/
theorem Dev.passedOn_keeps {β : Type} (p : Dev → β) (hemit : ∀ s o, p (s.emit o) = p s) (s : Dev) (m : TreeMsg) :
    p (if s.joined then each s.treeKids s fun s k => s.treeTo k.2 m else s) = p s := by
  split
  · exact each_keeps p (fun s _ => hemit s _) s.treeKids s
  · rfl

section
variable (s : Dev) (src : TreeSrc) (m : TreeMsg)

@[simp] theorem Dev.followed_rt : (s.followed src m).rt = s.rt := Dev.passedOn_keeps (·.rt) Dev.emit_rt s m

@[simp] theorem Dev.followed_prepEpoch : (s.followed src m).dl.prepEpoch = s.dl.prepEpoch :=
  Dev.passedOn_keeps (·.dl.prepEpoch) (fun _ _ => rfl) s m

variable {s} (hregs : tabove 0 s.regs = true)
include hregs

theorem Dev.followed_regs_up : tabove 0 (s.followed src m).regs = true :=
  fset_regs_up ((congrArg (tabove 0) (Dev.passedOn_keeps (·.regs) Dev.emit_regs s m)).trans hregs) Fld.DL_DEAL_STAT.TERM 0 m.term

/-- Noting the term leaves the state of the deal, which stands in the same register. -/
theorem Dev.followed_dealState : (s.followed src m).fget Fld.DL_DEAL_STAT.STATE 0 = s.fget Fld.DL_DEAL_STAT.STATE 0 := by
  have hsent := Dev.passedOn_keeps (·.regs) Dev.emit_regs s m
  have hnoted := fget_fset_field (f := Fld.DL_DEAL_STAT.TERM) (g := Fld.DL_DEAL_STAT.STATE) ((congrArg (tabove 0) hsent).trans hregs) rfl
    (by decide) (by decide) (by decide) (by decide) 0 m.term
  rw [Dev.followed, Dev.fget_withSender, hnoted, Dev.fget_of_regs_eq hsent]

theorem Dev.followed_preparedFor (e : Nat) : (s.followed src m).preparedFor e = s.preparedFor e := by
  rw [Dev.preparedFor, Dev.followed_dealState src m hregs, Dev.followed_prepEpoch, Dev.preparedFor]

end

/-! CANCEL -/

/-- No deal is prepared and no apply instant is known. -/
def Dev.unprepared (s : Dev) : Dev := { s with dl.prepEpoch := none, dl.goT := none, dl.goLate := none }

@[simp] theorem Dev.unprepared_rt (s : Dev) : s.unprepared.rt = s.rt := rfl

@[simp] theorem Dev.unprepared_fget (s : Dev) (f : Fld) (i : Nat) : s.unprepared.fget f i = s.fget f i := rfl

/-- The switch back in IDLE. -/
def Dev.cancelled (s : Dev) : Dev := (s.fset Fld.DL_DEAL_STAT.STATE 0 0).unprepared

@[simp] theorem Dev.cancelled_rt (s : Dev) : s.cancelled.rt = s.rt := by rw [Dev.cancelled, Dev.unprepared_rt, Dev.fset_rt]

theorem Dev.cancelled_dealState {s : Dev} (h : tabove 0 s.regs = true) : s.cancelled.fget Fld.DL_DEAL_STAT.STATE 0 = 0 := by
  rw [Dev.cancelled, Dev.unprepared_fget, fget_fset_self h (by decide) (by decide), Nat.zero_mod]

theorem Dev.preparedFor_of_dealState_ne {s : Dev} (h : s.fget Fld.DL_DEAL_STAT.STATE 0 ≠ 1) (e : Nat) : s.preparedFor e = false := by
  simp [Dev.preparedFor, h]

/-- What CANCEL does once the message is followed: it takes back the deal the switch is PREPARED for. -/
theorem Does.cancel_of_followed {src : TreeSrc} {m : TreeMsg} {s : Dev} (hon : s.On) (hkind : m.kind = 0x13)
    (hsrc : s.treeAccept src = true) (hterm : s.fget Fld.DL_DEAL_STAT.TERM 0 ≤ m.term) :
    Does (.cancel src m) s
      (if (s.followed src m).preparedFor m.epoch = true then (s.followed src m).cancelled else s.followed src m) := by
  have hmsg : ({ m with kind := 0x13 } : TreeMsg) = m := by rw [← hkind]
  refine Does.of_act (f := cancel src m) (fun _ => rfl) hon ?_
  rw [cancel, hmsg, Dev.downMsg_followed hsrc hterm]
  simp only [Bool.true_and, Dev.cancelled, Dev.unprepared]

/-- Settles O32: following the message leaves the state of the deal, the epoch prepared and the routing tables; CANCEL then takes a
PREPARED switch to IDLE, and one in another state is prepared for no epoch. -/
theorem cancelReturnsToIdle : Obligations.CancelReturnsToIdle := by
  unfold Obligations.CancelReturnsToIdle
  intro src m s hon hregs hkind hsrc hterm
  have hdoes := Does.cancel_of_followed hon hkind hsrc hterm
  rw [Dev.followed_preparedFor src m hregs] at hdoes
  constructor
  · intro hprep
    rw [if_pos hprep] at hdoes
    exact ⟨_, hdoes, Dev.cancelled_dealState (Dev.followed_regs_up src m hregs), (Dev.cancelled_rt _).trans (Dev.followed_rt s src m)⟩
  · intro hstate
    have hprep : ¬ s.preparedFor m.epoch = true := by simp [Dev.preparedFor_of_dealState_ne hstate]
    rwa [if_neg hprep] at hdoes

end Sys2Proof.Machine
end

section
/-! Up messages combined (R461 to R463): what a combination says of one more message is what its combined message and that message
say together. -/
namespace Sys2Proof.Machine

/-- Two messages of one kind as one: the greater code of two votes, the flags of either of two confirmations, the counts added (R463). -/
def mergeMsg (a m : TreeMsg) : TreeMsg :=
  { a with flags := if a.kind = 0x11 then max a.flags (m.flags % 16) else if a.kind = 0x15 then a.flags ||| m.flags % 4 else a.flags,
           count1 := a.count1 + m.count1, count2 := a.count2 + m.count2 }

theorem Combine.msg_take (c : Combine) (f : Nat) (m : TreeMsg) (kind : Nat) : (c.take f m).msg kind = mergeMsg (c.msg kind) m := by
  simp only [Combine.msg, Combine.take, mergeMsg, TreeMsg.mk.injEq, true_and, and_true]
  split
  · rfl
  · split <;> rfl

theorem Combine.msg_foldl_take (c : Combine) (l : List (Nat × TreeMsg)) (kind : Nat) :
    (l.foldl (fun c x => c.take x.1 x.2) c).msg kind = l.foldl (fun a x => mergeMsg a x.2) (c.msg kind) :=
  (List.foldl_hom (fun c : Combine => c.msg kind) fun c x => (c.msg_take x.1 x.2 kind).symm).symm

theorem mergeMsg_flags_lt {a : TreeMsg} (ha : a.flags < 16) (m : TreeMsg) : (mergeMsg a m).flags < 16 := by
  have hmod : m.flags % 4 < 16 := by omega
  simp only [mergeMsg]
  split
  · omega
  · split
    · exact Nat.or_lt_two_pow (n := 4) ha hmod
    · exact ha

theorem mergeMsg_right_comm (a m n : TreeMsg) : mergeMsg (mergeMsg a m) n = mergeMsg (mergeMsg a n) m := by
  simp only [mergeMsg, TreeMsg.mk.injEq, true_and]
  refine ⟨?_, Nat.add_right_comm .., Nat.add_right_comm ..⟩
  split
  · exact max_right_comm ..
  · split
    · exact Nat.or_right_comm ..
    · rfl

/-- The code of a vote is read from 4 bits, so merging twice and merging the merged agree for one that fits them. -/
theorem mergeMsg_assoc {a b : TreeMsg} (hkind : b.kind = a.kind) (hb : b.flags < 16) (m : TreeMsg) :
    mergeMsg a (mergeMsg b m) = mergeMsg (mergeMsg a b) m := by
  simp only [mergeMsg, TreeMsg.mk.injEq, true_and, hkind]
  refine ⟨?_, (Nat.add_assoc ..).symm, (Nat.add_assoc ..).symm⟩
  split
  · omega
  · split
    · rw [show 4 = 2 ^ 2 from rfl, Nat.or_mod_two_pow, Nat.mod_mod, Nat.or_assoc]
    · rfl

theorem mergeMsg_foldl (a : TreeMsg) (l : List (Nat × TreeMsg)) {b : TreeMsg} (hkind : b.kind = a.kind) (hb : b.flags < 16) :
    mergeMsg a (l.foldl (fun a x => mergeMsg a x.2) b) = l.foldl (fun a x => mergeMsg a x.2) (mergeMsg a b) := by
  induction l generalizing b with
  | nil => rfl
  | cons x l ih =>
    rw [List.foldl_cons, List.foldl_cons, ← mergeMsg_assoc hkind hb x.2]
    exact ih hkind (mergeMsg_flags_lt hb x.2)

/-- A combination that has taken no message adds nothing to a message of its kind. -/
theorem mergeMsg_empty (a : TreeMsg) : mergeMsg a (({} : Combine).msg a.kind) = a := by
  simp [mergeMsg, Combine.msg]

/-- Taking what a group combined to says what taking each message of the group says. -/
theorem Combine.msg_take_group (c : Combine) (f : Nat) (l : List (Nat × TreeMsg)) (kind : Nat) :
    (c.take f ((l.foldl (fun c x => c.take x.1 x.2) ({} : Combine)).msg kind)).msg kind =
      (l.foldl (fun c x => c.take x.1 x.2) c).msg kind := by
  have hempty : mergeMsg (c.msg kind) (({} : Combine).msg kind) = c.msg kind := mergeMsg_empty (c.msg kind)
  have hkind : (({} : Combine).msg kind).kind = (c.msg kind).kind := rfl
  have hflags : (({} : Combine).msg kind).flags < 16 := by simp [Combine.msg]
  rw [Combine.msg_take, Combine.msg_foldl_take, Combine.msg_foldl_take, mergeMsg_foldl (c.msg kind) l hkind hflags, hempty]

theorem Combine.msg_foldl_take_perm (c : Combine) {l r : List (Nat × TreeMsg)} (h : l.Perm r) (kind : Nat) :
    (l.foldl (fun c x => c.take x.1 x.2) c).msg kind = (r.foldl (fun c x => c.take x.1 x.2) c).msg kind := by
  rw [Combine.msg_foldl_take, Combine.msg_foldl_take]
  exact h.foldl_eq' (fun x _ y _ a => mergeMsg_right_comm a x.2 y.2) (c.msg kind)

theorem Combine.msg_foldl_take_groups (c : Combine) (ls : List (List (Nat × TreeMsg))) (kind : Nat) :
    (ls.foldl (fun c l => c.take 0 ((l.foldl (fun c x => c.take x.1 x.2) ({} : Combine)).msg kind)) c).msg kind =
      (ls.flatten.foldl (fun c x => c.take x.1 x.2) c).msg kind := by
  induction ls generalizing c with
  | nil => rfl
  | cons l ls ih =>
    rw [List.foldl_cons, ih, List.flatten_cons, List.foldl_append, Combine.msg_foldl_take, Combine.msg_take_group,
      ← Combine.msg_foldl_take]

/-- Settles O12: a combined message is the fold of `mergeMsg` over the messages taken, which is commutative on the right, and
associative on messages whose flags fit 4 bits. -/
theorem combiningIgnoresOrder : Obligations.CombiningIgnoresOrder := by
  unfold Obligations.CombiningIgnoresOrder
  exact ⟨fun kind c _ _ h => c.msg_foldl_take_perm h kind, fun kind c ls => c.msg_foldl_take_groups ls kind⟩

end Sys2Proof.Machine
end

section
/-! The flags of an accumulator (R478): what one contribution does to each, and a fold of contributions. -/
namespace Sys2Proof.Machine

theorem foldl_flag_any {α β : Type} {p : β → Bool} {q : α → Bool} {f : β → α → β} (h : ∀ a x, p (f a x) = (p a || q x)) (l : List α)
    (a : β) : p (l.foldl f a) = (p a || l.any q) := by
  induction l generalizing a with
  | nil => simp
  | cons x l ih => rw [List.foldl_cons, ih, h, List.any_cons, Bool.or_assoc]

theorem foldl_flag_all {α β : Type} {p : β → Bool} {q : α → Bool} {f : β → α → β} (h : ∀ a x, p (f a x) = (p a && q x)) (l : List α)
    (a : β) : p (l.foldl f a) = (p a && l.all q) := by
  induction l generalizing a with
  | nil => simp
  | cons x l ih => rw [List.foldl_cons, ih, h, List.all_cons, Bool.and_assoc]

/-- One floating-point contribution raises the flag of its own kind and lets NZ stand if it is −0 (R478). -/
theorem AccV.add_flags {t : Nat} (ht : typInt t = false) (a : AccV) (x : Nat) :
    (a.add t x).nan = (a.nan || decide (fdecode t x = .nan)) ∧ (a.add t x).pinf = (a.pinf || decide (fdecode t x = .inf false)) ∧
    (a.add t x).ninf = (a.ninf || decide (fdecode t x = .inf true)) ∧ (a.add t x).nz = (a.nz && decide (fdecode t x = .zero true)) := by
  simp only [AccV.add, ht, Bool.false_eq_true, if_false]
  match fdecode t x with
  | .nan => simp
  | .inf true => simp
  | .inf false => simp
  | .zero true => simp
  | .zero false => simp
  | .fin m e => simp

/-- Settles O16: each contribution changes each flag by `AccV.add_flags`, the empty accumulator has NZ alone, and `AccV.join` is by its
fields. -/
theorem flagsOfContributions : Obligations.FlagsOfContributions := by
  unfold Obligations.FlagsOfContributions
  refine ⟨fun t l ht => ?_, fun a b => ⟨rfl, rfl, rfl, rfl⟩⟩
  have hadd := AccV.add_flags ht
  simp only [forall_and] at hadd
  obtain ⟨hnan, hpinf, hninf, hnz⟩ := hadd
  exact ⟨foldl_flag_any hnan l {}, foldl_flag_any hpinf l {}, foldl_flag_any hninf l {}, foldl_flag_all hnz l {}⟩

end Sys2Proof.Machine
end

section
/-! Integer results (R480): two's complement encoding read back, and the saturated sum. -/
namespace Sys2Proof.Machine

theorem signedOf_toNat {w : Nat} (hw : 0 < w) (x : BitVec w) : signedOf w x.toNat = x.toInt := by
  obtain ⟨v, rfl⟩ : ∃ v, w = v + 1 := ⟨w - 1, by omega⟩
  have hpow : 2 ^ (v + 1) = 2 * 2 ^ v := by omega
  simp only [signedOf, BitVec.toInt, BitVec.toNat_mod_cancel, Nat.add_sub_cancel, Int.ofNat_eq_natCast]
  congr 1
  simp only [eq_iff_iff]
  omega

theorem unsignedOf_eq_toNat (w : Nat) (x : Int) : unsignedOf w x = (BitVec.ofInt w x).toNat := (BitVec.toNat_ofInt x).symm

theorem signedOf_unsignedOf {w : Nat} (hw : 0 < w) {x : Int} (hlo : -(2 ^ (w - 1) : Int) ≤ x) (hhi : x < 2 ^ (w - 1)) :
    signedOf w (unsignedOf w x) = x := by
  rw [unsignedOf_eq_toNat, signedOf_toNat hw, BitVec.toInt_ofInt_eq_self hw hlo hhi]

theorem typWidth_pos (t : Nat) : 0 < typWidth t := by
  unfold typWidth
  split
  · decide
  · split <;> decide

/-- A number brought into the range of a type: itself, or the nearest end of the range. -/
def typClamp (t : Nat) (x : Int) : Int := max (-(2 ^ (typWidth t - 1) : Int)) (min (2 ^ (typWidth t - 1) - 1) x)

theorem typClamp_range (t : Nat) (x : Int) : -(2 ^ (typWidth t - 1) : Int) ≤ typClamp t x ∧ typClamp t x < 2 ^ (typWidth t - 1) := by
  have hpos : (0 : Int) < 2 ^ (typWidth t - 1) := by positivity
  unfold typClamp
  omega

/-- The result's encoding is that of the sum brought into the range, and RANGE says that it was not there (R480). -/
theorem intResult_of_headroom {a : AccV} (h : a.headroom = false) (t : Nat) :
    intResult t a = (unsignedOf (typWidth t) (typClamp t a.sum),
      if a.sum < -(2 ^ (typWidth t - 1) : Int) ∨ (2 ^ (typWidth t - 1) : Int) - 1 < a.sum then flagRange else 0) := by
  have hpos : (0 : Int) < 2 ^ (typWidth t - 1) := by positivity
  simp only [intResult, typClamp, h, Bool.false_eq_true, if_false, Int.ofNat_eq_natCast, Nat.cast_pow, Nat.cast_ofNat]
  split
  case isTrue hhi => rw [if_pos (.inr hhi), min_eq_left (by omega), max_eq_right (by omega)]
  case isFalse hhi =>
    split
    case isTrue hlo => rw [if_pos (.inl hlo), max_eq_left (by omega)]
    case isFalse hlo => rw [if_neg (by omega), min_eq_right (by omega), max_eq_right (by omega)]

/-- Settles O17: the encoding of the sum brought into its type's range reads back as that number. -/
theorem integerSumsSaturate : Obligations.IntegerSumsSaturate := by
  unfold Obligations.IntegerSumsSaturate
  intro t mode a ht hroom
  obtain ⟨hlo, hhi⟩ := typClamp_range t a.sum
  have hresult : a.result t mode = intResult t a := by rw [AccV.result, if_pos ht]
  rw [hresult, intResult_of_headroom hroom]
  exact ⟨signedOf_unsignedOf (typWidth_pos t) hlo hhi, Ne.ite_eq_left_iff (by decide)⟩

end Sys2Proof.Machine
end

section
/-! READ requests that are refused, and the status of a result entry (R556, R559, R569). -/
namespace Sys2Proof.Machine

/-- A READ that is carried out while no other switch holds the register bus does not wait for it (R409). -/
theorem Dev.serveRead_of_asks {s : Dev} {h : ReqHdr} {x : Sess} {es : List EntryRef} (ha : s.Asks h x) (hbus : s.xing.farLock = none) :
    s.serveRead h es = (s.heard h).doRead h es := by
  have hfree : ¬ ((s.heard h).xing.farLock.isSome = true ∧ (es.any fun e => onBus e.index e.sub) = true) := by
    simp [Dev.heard_xing, hbus]
  rw [Dev.serveRead, Dev.request_serves ha]
  exact if_neg hfree

/-- An entry that passes the checks of R556 but has no value to give fails the pass over a READ with its status. -/
theorem Dev.readAll_cons_of_entryRead_ne_zero {s : Dev} {x : Sess} {e : EntryRef} {r : ObjRow} {es : List EntryRef}
    (hc : s.readCheck x e = .inl r) (hst : (s.entryRead x e.index e.sub r).1 ≠ 0) :
    s.readAll x (e :: es) = ((s.entryRead x e.index e.sub r).1, [], s) := by
  rw [Dev.readAll, hc]
  exact if_pos hst

/-- A READ whose pass ends in a failing status is answered with that status and no data. -/
theorem Dev.doRead_of_readAll_ne_zero {s : Dev} {h : ReqHdr} {x : Sess} {es : List EntryRef} (ho : s.open? h.sess = some x)
    (hlen : ¬ (es.isEmpty = true ∨ 32 < es.length)) (hst : (s.readAll x es).1 ≠ 0) :
    s.doRead h es = s.answerReq h.sess svRead h.seq (s.readAll x es).1 [] := by
  rw [Dev.doRead, ho]
  exact (if_neg hlen).trans (if_pos hst)

/-- A READ of one entry that passes the checks of R556 but has no value to give answers the entry's status without data. -/
theorem Serves.read_one_of_entryRead {h : ReqHdr} {x : Sess} {e : EntryRef} {r : ObjRow} {s : Dev} {st : Nat} (hon : s.On)
    (ha : s.Asks h x) (hbus : s.xing.farLock = none) (hc : (s.heard h).readCheck { x with at_ := s.now } e = .inl r)
    (he : ((s.heard h).entryRead { x with at_ := s.now } e.index e.sub r).1 = st) (hst : st ≠ 0) :
    Serves (.read h [e]) h (.read [e]) s ((s.heard h).answerReq h.sess svRead h.seq st []) := by
  have ⟨hreach, hmay, hopen, _, _, _, _, _, _, hinbox⟩ := ha
  subst he
  have hall := Dev.readAll_cons_of_entryRead_ne_zero (es := []) hc hst
  have hdo : (s.heard h).doRead h [e] = (s.heard h).answerReq h.sess svRead h.seq
      ((s.heard h).entryRead { x with at_ := s.now } e.index e.sub r).1 [] := by
    rw [Dev.doRead_of_readAll_ne_zero (Dev.open_heard hopen) (by simp) (by rwa [hall]), hall]
  exact Serves.of_serve (fun _ => rfl) hon hreach hmay hinbox ((Dev.serveRead_of_asks ha hbus).trans hdo)

/-- Hearing a request leaves every command as it is. -/
@[simp] theorem Dev.cmdSt_heard (s : Dev) (h : ReqHdr) (idx sub : Nat) : (s.heard h).cmdSt idx sub = s.cmdSt idx sub := by
  rw [Dev.cmdSt, Dev.heard, Dev.modSess_cmds, Dev.cmdSt]

/-- The status of a result entry is that of the command it follows (R568, R569). -/
theorem Dev.entryRead_status_of_isResult {idx sub : Nat} (hres : isResult idx sub = true) (s : Dev) (x : Sess) (r : ObjRow) :
    (s.entryRead x idx sub r).1 =
      if (s.cmdSt idx (sub - 1)).running = true then 0x0402 else if (s.cmdSt idx (sub - 1)).rseq = 0 then 0x0404 else 0 := by
  have hsub : sub ≠ 0 := by
    rintro rfl
    simp [isResult] at hres
  rw [Dev.entryRead, if_neg hsub, if_pos hres]
  dsimp only
  split
  case isTrue => rfl
  case isFalse => split <;> rfl

/-- Settles O33: a result entry has the status of its command, and a READ of one entry whose status is a failure answers just that. -/
theorem resultsAreReadOnceEnded : Obligations.ResultsAreReadOnceEnded := by
  unfold Obligations.ResultsAreReadOnceEnded
  intro h x e r s hon ha hbus hres hc
  have hstatus := Dev.entryRead_status_of_isResult hres (s.heard h) { x with at_ := s.now } r
  rw [Dev.cmdSt_heard] at hstatus
  constructor
  · intro hrun
    rw [if_pos hrun] at hstatus
    exact Serves.read_one_of_entryRead hon ha hbus hc hstatus (by decide)
  · intro hrun hnone
    rw [if_neg (by simp [hrun]), if_pos hnone] at hstatus
    exact Serves.read_one_of_entryRead hon ha hbus hc hstatus (by decide)

end Sys2Proof.Machine
end

section
/-! How the arms of the commands answer (Machine/Dispatch.lean): every arm runs a function of the switch alone, so none reaches the queue,
and all but one always answer. -/
namespace Sys2Proof.Machine

/-- What a command's arm does: it runs a function that keeps the switch sound, in OFF only if the command is one of the power controller
(R25), or it is LPDDR4X_ACCESS, which can stop (R30). -/
inductive CmdArm (c : Instr) : Prop
  | act {f : Dev → Dev} (hsound : ∀ {d : Dev}, d.Sound → (f d).Sound) (hexec : ∀ s : State, exec c s = s.act f)
      (hcontroller : c.ofController = false := by rfl)
  | actPe {f : Dev → Dev} (hsound : ∀ {d : Dev}, d.Sound → (f d).Sound) (hexec : ∀ s : State, exec c s = s.actPe f)
      (hcontroller : c.ofController = true := by rfl)
  | memory {p : Plane} {w : Bool} {a l : Nat} {b : List Byte} (h : c = .lpddr4xAccess p w a l b)

theorem cmdArm (c : Instr) : CmdArm c := by
  cases c with
  | registerWrite => exact .act registerWrite_sound fun _ => rfl
  | rcRead => exact .act rcRead_sound fun _ => rfl
  | firstEventRecordClear => exact .act firstEventRecordClear_sound fun _ => rfl
  | lpddr4xAccess p w a l b => exact .memory rfl
  | packetIngress => exact .act packetIngress_sound fun _ => rfl
  | eseqAssign => exact .act eseqAssign_sound fun _ => rfl
  | coreLookup => exact .act coreLookup_sound fun _ => rfl
  | npReservation => exact .act npReservation_sound fun _ => rfl
  | grant => exact .act grant_sound fun _ => rfl
  | crossbarDataPhase => exact .act crossbarDataPhase_sound fun _ => rfl
  | egressEncode => exact .act egressEncode_sound fun _ => rfl
  | egressTlpStart => exact .act egressTlpStart_sound fun _ => rfl
  | egressStallTimeout => exact .act egressStallTimeout_sound fun _ => rfl
  | roundBoundary => exact .act roundBoundary_sound fun _ => rfl
  | tenureCut => exact .act tenureCut_sound fun _ => rfl
  | trickCut64 => exact .act trickCut64_sound fun _ => rfl
  | trickHoldCut => exact .act trickHoldCut_sound fun _ => rfl
  | parkReleaseIdle => exact .act parkReleaseIdle_sound fun _ => rfl
  | commit => exact .act commit_sound fun _ => rfl
  | hatchWrite => exact .act hatchWrite_sound fun _ => rfl
  | hatchWatchdog => exact .act hatchWatchdog_sound fun _ => rfl
  | calendarSlotBegin => exact .act calendarSlotBegin_sound fun _ => rfl
  | flowSweepVisit => exact .act flowSweepVisit_sound fun _ => rfl
  | gateEntryBegin => exact .act gateEntryBegin_sound fun _ => rfl
  | gateSwitchover => exact .act gateSwitchover_sound fun _ => rfl
  | samplingPass => exact .act samplingPass_sound fun _ => rfl
  | pcieLinkUp => exact .act pcieLinkUp_sound fun _ => rfl
  | pcieLinkDown => exact .act pcieLinkDown_sound fun _ => rfl
  | pcieRecovery => exact .act pcieRecovery_sound fun _ => rfl
  | pcieEqualisation => exact .act pcieEqualisation_sound fun _ => rfl
  | l0pWindowEnd => exact .act l0pWindowEnd_sound fun _ => rfl
  | l0pWidenComplete => exact .act l0pWidenComplete_sound fun _ => rfl
  | l0pPartnerRequest => exact .act l0pPartnerRequest_sound fun _ => rfl
  | aspmL1Entry => exact .act aspmL1Entry_sound fun _ => rfl
  | configRequest => exact .act configRequest_sound fun _ => rfl
  | vdspLinkDisable => exact .act vdspLinkDisable_sound fun _ => rfl
  | vdspRetrainLink => exact .act vdspRetrainLink_sound fun _ => rfl
  | vdspTargetLinkSpeed => exact .act vdspTargetLinkSpeed_sound fun _ => rfl
  | vdspAspmControl => exact .act vdspAspmControl_sound fun _ => rfl
  | secondaryBusReset => exact .act secondaryBusReset_sound fun _ => rfl
  | vdspLinkStatusUpdate => exact .act vdspLinkStatusUpdate_sound fun _ => rfl
  | remoteErrorNotice => exact .act remoteErrorNotice_sound fun _ => rfl
  | dpcSoftwareTrigger => exact .act dpcSoftwareTrigger_sound fun _ => rfl
  | dpcTriggerStatusWrite => exact .act dpcTriggerStatusWrite_sound fun _ => rfl
  | dpcRelease => exact .act dpcRelease_sound fun _ => rfl
  | ptmRequest => exact .act ptmRequest_sound fun _ => rfl
  | presenceDebounced => exact .act presenceDebounced_sound fun _ => rfl
  | attentionButtonPress => exact .act attentionButtonPress_sound fun _ => rfl
  | slotIndicatorWrite => exact .act slotIndicatorWrite_sound fun _ => rfl
  | slotPowerOn => exact .act slotPowerOn_sound fun _ => rfl
  | slotPowerOff => exact .act slotPowerOff_sound fun _ => rfl
  | slotPerstRelease => exact .act slotPerstRelease_sound fun _ => rfl
  | slotCommandCompleted => exact .act slotCommandCompleted_sound fun _ => rfl
  | doorbellWrite => exact .act doorbellWrite_sound fun _ => rfl
  | descriptorFetchComplete => exact .act descriptorFetchComplete_sound fun _ => rfl
  | queueEnable => exact .act queueEnable_sound fun _ => rfl
  | queueDisable => exact .act queueDisable_sound fun _ => rfl
  | queueIdle => exact .act queueIdle_sound fun _ => rfl
  | vectorUnmask => exact .act vectorUnmask_sound fun _ => rfl
  | revokeGraceExpiry => exact .act revokeGraceExpiry_sound fun _ => rfl
  | completionTimeout => exact .act completionTimeout_sound fun _ => rfl
  | sfCompletionArrival => exact .act sfCompletionArrival_sound fun _ => rfl
  | tagQuarantineEnd => exact .act tagQuarantineEnd_sound fun _ => rfl
  | functionLevelReset => exact .act functionLevelReset_sound fun _ => rfl
  | flrComplete => exact .act flrComplete_sound fun _ => rfl
  | busMasterDisable => exact .act busMasterDisable_sound fun _ => rfl
  | busMasterEnable => exact .act busMasterEnable_sound fun _ => rfl
  | ledgerSwap => exact .act ledgerSwap_sound fun _ => rfl
  | ledgerSwapDone => exact .act ledgerSwapDone_sound fun _ => rfl
  | ledgerSwapTimeout => exact .act ledgerSwapTimeout_sound fun _ => rfl
  | mailboxGo => exact .act mailboxGo_sound fun _ => rfl
  | postedErrorReportReceive => exact .act postedErrorReportReceive_sound fun _ => rfl
  | watchIntervalEnd => exact .act watchIntervalEnd_sound fun _ => rfl
  | bankTempUpdate => exact .act bankTempUpdate_sound fun _ => rfl
  | prbsStart => exact .act prbsStart_sound fun _ => rfl
  | prbsTestEnd => exact .act prbsTestEnd_sound fun _ => rfl
  | prbsLockLoss => exact .act prbsLockLoss_sound fun _ => rfl
  | flitReceive => exact .act flitReceive_sound fun _ => rfl
  | flitSend => exact .act flitSend_sound fun _ => rfl
  | portEnable => exact .act portEnable_sound fun _ => rfl
  | portDisable => exact .act portDisable_sound fun _ => rfl
  | bringupCheckWindowEnd => exact .act bringupCheckWindowEnd_sound fun _ => rfl
  | alignEntry => exact .act alignEntry_sound fun _ => rfl
  | bringupTimeout => exact .act bringupTimeout_sound fun _ => rfl
  | resetFlitsSent => exact .act resetFlitsSent_sound fun _ => rfl
  | quietEnd => exact .act quietEnd_sound fun _ => rfl
  | signalDetect => exact .act signalDetect_sound fun _ => rfl
  | lowerRankWaitExpiry => exact .act lowerRankWaitExpiry_sound fun _ => rfl
  | signalLoss => exact .act signalLoss_sound fun _ => rfl
  | replayTimerExpiry => exact .act replayTimerExpiry_sound fun _ => rfl
  | blSleepEntry => exact .act blSleepEntry_sound fun _ => rfl
  | blWake => exact .act blWake_sound fun _ => rfl
  | blRealignTimeout => exact .act blRealignTimeout_sound fun _ => rfl
  | neighbourNoticeSend => exact .act neighbourNoticeSend_sound fun _ => rfl
  | directedPacketRelay => exact .act directedPacketRelay_sound fun _ => rfl
  | neighbourQuery => exact .act neighbourQuery_sound fun _ => rfl
  | neighbourReply => exact .act neighbourReply_sound fun _ => rfl
  | classCheck => exact .act classCheck_sound fun _ => rfl
  | directedMwRequest => exact .act directedMwRequest_sound fun _ => rfl
  | directedMwResponse => exact .act directedMwResponse_sound fun _ => rfl
  | directedDownTree => exact .act directedDownTree_sound fun _ => rfl
  | directedUpTree => exact .act directedUpTree_sound fun _ => rfl
  | vdspWindowRegisterWrite => exact .act vdspWindowRegisterWrite_sound fun _ => rfl
  | windowHoldTimeout => exact .act windowHoldTimeout_sound fun _ => rfl
  | busMapUpdate => exact .act busMapUpdate_sound fun _ => rfl
  | handReturnSend => exact .act handReturnSend_sound fun _ => rfl
  | handReturnReceive => exact .act handReturnReceive_sound fun _ => rfl
  | handAudit => exact .act handAudit_sound fun _ => rfl
  | stagingCheckStart => exact .act stagingCheckStart_sound fun _ => rfl
  | stagingCheckDone => exact .act stagingCheckDone_sound fun _ => rfl
  | fabricTimeout => exact .act fabricTimeout_sound fun _ => rfl
  | fabricQuarantineEnd => exact .act fabricQuarantineEnd_sound fun _ => rfl
  | lockBrokenNotice => exact .act lockBrokenNotice_sound fun _ => rfl
  | mwRead => exact .act mwRead_sound fun _ => rfl
  | mwWrite => exact .act mwWrite_sound fun _ => rfl
  | mwLockRead => exact .act mwLockRead_sound fun _ => rfl
  | mwUnlockWrite => exact .act mwUnlockWrite_sound fun _ => rfl
  | mwResponse => exact .act mwResponse_sound fun _ => rfl
  | mwReadTimeout => exact .act mwReadTimeout_sound fun _ => rfl
  | mwLockTimeout => exact .act mwLockTimeout_sound fun _ => rfl
  | e2eAckSend => exact .act e2eAckSend_sound fun _ => rfl
  | e2eAckReceive => exact .act e2eAckReceive_sound fun _ => rfl
  | e2eTimerExpiry => exact .act e2eTimerExpiry_sound fun _ => rfl
  | fenceWrite => exact .act fenceWrite_sound fun _ => rfl
  | skipWrite => exact .act skipWrite_sound fun _ => rfl
  | fencePoll => exact .act fencePoll_sound fun _ => rfl
  | fenceTimeout => exact .act fenceTimeout_sound fun _ => rfl
  | lifetimeExpiry => exact .act lifetimeExpiry_sound fun _ => rfl
  | prepare => exact .act prepare_sound fun _ => rfl
  | vote => exact .act vote_sound fun _ => rfl
  | goDeal => exact .act goDeal_sound fun _ => rfl
  | dealApply => exact .act dealApply_sound fun _ => rfl
  | cancel => exact .act cancel_sound fun _ => rfl
  | drainMessage => exact .act drainMessage_sound fun _ => rfl
  | drainLocalConfirm => exact .act drainLocalConfirm_sound fun _ => rfl
  | confirm => exact .act confirm_sound fun _ => rfl
  | release => exact .act release_sound fun _ => rfl
  | markerReceive => exact .act markerReceive_sound fun _ => rfl
  | markerTimeout => exact .act markerTimeout_sound fun _ => rfl
  | cut => exact .act cut_sound fun _ => rfl
  | cutRecordComplete => exact .act cutRecordComplete_sound fun _ => rfl
  | cutDone => exact .act cutDone_sound fun _ => rfl
  | treeChildTimeout => exact .act treeChildTimeout_sound fun _ => rfl
  | dealerHeartbeat => exact .act dealerHeartbeat_sound fun _ => rfl
  | dealerTakeover => exact .act dealerTakeover_sound fun _ => rfl
  | resetMessage => exact .act resetMessage_sound fun _ => rfl
  | fabricReset => exact .act fabricResetAt_sound fun _ => rfl
  | collDescriptor => exact .act collDescriptor_sound fun _ => rfl
  | collUp => exact .act collUp_sound fun _ => rfl
  | collDown => exact .act collDown_sound fun _ => rfl
  | collCredit => exact .act collCredit_sound fun _ => rfl
  | collCreditSend => exact .act collCreditSend_sound fun _ => rfl
  | collAbort => exact .act collAbort_sound fun _ => rfl
  | collTimeout => exact .act collTimeout_sound fun _ => rfl
  | groupDisable => exact .act groupDisable_sound fun _ => rfl
  | runDispatch => exact .act runDispatch_sound fun _ => rfl
  | copyDescriptor => exact .act copyDescriptor_sound fun _ => rfl
  | nopDescriptor => exact .act nopDescriptor_sound fun _ => rfl
  | quantumBoundary => exact .act quantumBoundary_sound fun _ => rfl
  | runLimitExpiry => exact .act runLimitExpiry_sound fun _ => rfl
  | ld => exact .act ld_sound fun _ => rfl
  | st => exact .act st_sound fun _ => rfl
  | ldp => exact .act ldp_sound fun _ => rfl
  | stp => exact .act stp_sound fun _ => rfl
  | vld => exact .act vld_sound fun _ => rfl
  | vst => exact .act vst_sound fun _ => rfl
  | prf => exact .act prf_sound fun _ => rfl
  | aadd => exact .act aadd_sound fun _ => rfl
  | aand => exact .act aand_sound fun _ => rfl
  | aor => exact .act aor_sound fun _ => rfl
  | aswp => exact .act aswp_sound fun _ => rfl
  | acas => exact .act acas_sound fun _ => rfl
  | acasp => exact .act acasp_sound fun _ => rfl
  | mov => exact .act mov_sound fun _ => rfl
  | movi => exact .act movi_sound fun _ => rfl
  | movh => exact .act movh_sound fun _ => rfl
  | add => exact .act add_sound fun _ => rfl
  | addi => exact .act addi_sound fun _ => rfl
  | sub => exact .act sub_sound fun _ => rfl
  | mul => exact .act mul_sound fun _ => rfl
  | andOp => exact .act andOp_sound fun _ => rfl
  | orOp => exact .act orOp_sound fun _ => rfl
  | xorOp => exact .act xorOp_sound fun _ => rfl
  | shl => exact .act shl_sound fun _ => rfl
  | shr => exact .act shr_sound fun _ => rfl
  | slt => exact .act slt_sound fun _ => rfl
  | mcpy => exact .act mcpy_sound fun _ => rfl
  | mfill => exact .act mfill_sound fun _ => rfl
  | vadd => exact .act vadd_sound fun _ => rfl
  | vmul => exact .act vmul_sound fun _ => rfl
  | vfma => exact .act vfma_sound fun _ => rfl
  | vmin => exact .act vmin_sound fun _ => rfl
  | vmax => exact .act vmax_sound fun _ => rfl
  | vbc => exact .act vbc_sound fun _ => rfl
  | vext => exact .act vext_sound fun _ => rfl
  | acz => exact .act acz_sound fun _ => rfl
  | aca => exact .act aca_sound fun _ => rfl
  | acr => exact .act acr_sound fun _ => rfl
  | waitOp => exact .act waitOp_sound fun _ => rfl
  | waitMet => exact .act waitMet_sound fun _ => rfl
  | waitTimeout => exact .act waitTimeout_sound fun _ => rfl
  | sig => exact .act sig_sound fun _ => rfl
  | irq => exact .act irq_sound fun _ => rfl
  | b => exact .act b_sound fun _ => rfl
  | bz => exact .act bz_sound fun _ => rfl
  | bnz => exact .act bnz_sound fun _ => rfl
  | call => exact .act call_sound fun _ => rfl
  | ret => exact .act ret_sound fun _ => rfl
  | endOp => exact .act endOp_sound fun _ => rfl
  | barEngine => exact .act barEngine_sound fun _ => rfl
  | barCluster => exact .act barCluster_sound fun _ => rfl
  | barSystem => exact .act barSystem_sound fun _ => rfl
  | systemBarrierComplete => exact .act systemBarrierComplete_sound fun _ => rfl
  | deviceLoadReturn => exact .act deviceLoadReturn_sound fun _ => rfl
  | prefetchEntryExpiry => exact .act prefetchEntryExpiry_sound fun _ => rfl
  | engineSample => exact .act engineSample_sound fun _ => rfl
  | read => exact .act read_sound fun _ => rfl
  | write => exact .act write_sound fun _ => rfl
  | describe => exact .act describe_sound fun _ => rfl
  | subscribe => exact .act subscribe_sound fun _ => rfl
  | notifyAck => exact .act notifyAck_sound fun _ => rfl
  | keepalive => exact .act keepalive_sound fun _ => rfl
  | openSession => exact .act openSession_sound fun _ => rfl
  | proof => exact .act proof_sound fun _ => rfl
  | closeSession => exact .act closeSession_sound fun _ => rfl
  | sessionIdleTimeout => exact .act sessionIdleTimeout_sound fun _ => rfl
  | proofTimeout => exact .act proofTimeout_sound fun _ => rfl
  | keySlotUnlock => exact .act keySlotUnlock_sound fun _ => rfl
  | rwsFlashCommit => exact .act rwsFlashCommit_sound fun _ => rfl
  | notifyRetransmit => exact .act notifyRetransmit_sound fun _ => rfl
  | eventNoticeSend => exact .act eventNoticeSend_sound fun _ => rfl
  | continueCmd => exact .act continueCmd_sound fun _ => rfl
  | drain => exact .act drain_sound fun _ => rfl
  | maintain => exact .act maintain_sound fun _ => rfl
  | maintainComplete => exact .act maintainComplete_sound fun _ => rfl
  | maintainTimeout => exact .act maintainTimeout_sound fun _ => rfl
  | resume => exact .act resume_sound fun _ => rfl
  | abortDrain => exact .act abortDrain_sound fun _ => rfl
  | mgmtReset => exact .act mgmtReset_sound fun _ => rfl
  | deviceFault => exact .act deviceFault_sound fun _ => rfl
  | loadDataWrite => exact .act loadDataWrite_sound fun _ => rfl
  | loadOffsetWrite => exact .act loadOffsetWrite_sound fun _ => rfl
  | eqOpen => exact .act eqOpen_sound fun _ => rfl
  | eqCommit => exact .act eqCommit_sound fun _ => rfl
  | marginCmd => exact .act marginCmd_sound fun _ => rfl
  | marginDone => exact .act marginDone_sound fun _ => rfl
  | dpcCmd => exact .act dpcCmd_sound fun _ => rfl
  | atnCmd => exact .act atnCmd_sound fun _ => rfl
  | resAddQueues => exact .act resAddQueues_sound fun _ => rfl
  | resRevokeQueues => exact .act resRevokeQueues_sound fun _ => rfl
  | resSetVectors => exact .act resSetVectors_sound fun _ => rfl
  | resSetEngineWeight => exact .act resSetEngineWeight_sound fun _ => rfl
  | resSetFlow => exact .act resSetFlow_sound fun _ => rfl
  | schedCommit => exact .act schedCommit_sound fun _ => rfl
  | regValWrite => exact .act regValWrite_sound fun _ => rfl
  | cutCmd => exact .act cutCmd_sound fun _ => rfl
  | directedSend => exact .act directedSend_sound fun _ => rfl
  | keyOpen => exact .act keyOpen_sound fun _ => rfl
  | keyCommit => exact .act keyCommit_sound fun _ => rfl
  | keyErase => exact .act keyErase_sound fun _ => rfl
  | reportCmd => exact .act reportCmd_sound fun _ => rfl
  | reportReady => exact .act reportReady_sound fun _ => rfl
  | progOpen => exact .act progOpen_sound fun _ => rfl
  | progCommit => exact .act progCommit_sound fun _ => rfl
  | programMeasured => exact .act programMeasured_sound fun _ => rfl
  | progRetire => exact .act progRetire_sound fun _ => rfl
  | fwOpen => exact .act fwOpen_sound fun _ => rfl
  | fwCommit => exact .act fwCommit_sound fun _ => rfl
  | raiseSvn => exact .act raiseSvn_sound fun _ => rfl
  | peClear => exact .act peClear_sound fun _ => rfl
  | clusterReset => exact .act clusterReset_sound fun _ => rfl
  | timeSync => exact .act timeSync_sound fun _ => rfl
  | timeReport => exact .act timeReport_sound fun _ => rfl
  | timeHigh => exact .act timeHigh_sound fun _ => rfl
  | timeTop => exact .act timeTop_sound fun _ => rfl
  | timeState => exact .act timeState_sound fun _ => rfl
  | timeRoot => exact .act timeRoot_sound fun _ => rfl
  | timeExchangeInterval => exact .act timeExchangeInterval_sound fun _ => rfl
  | timeDescriptorExpiry => exact .act timeDescriptorExpiry_sound fun _ => rfl
  | timePortLoss => exact .act timePortLoss_sound fun _ => rfl
  | ptmHostRequest => exact .act ptmHostRequest_sound fun _ => rfl
  | ptmHostResponse => exact .act ptmHostResponse_sound fun _ => rfl
  | bwWindowEnd => exact .act bwWindowEnd_sound fun _ => rfl
  | wearTick => exact .act wearTick_sound fun _ => rfl
  | wearStore => exact .act wearStore_sound fun _ => rfl
  | dieTempReading => exact .act dieTempReading_sound fun _ => rfl
  | remeasure => exact .act remeasure_sound fun _ => rfl
  | imageMeasure => exact .act imageMeasure_sound fun _ => rfl
  | bootComplete => exact .act bootComplete_sound fun _ => rfl
  | eccInitComplete => exact .act eccInitComplete_sound fun _ => rfl
  | rrsLimitExpiry => exact .act rrsLimitExpiry_sound fun _ => rfl
  | powerGood => exact .actPe powerGood_sound fun _ => rfl
  | warmReset => exact .act warmReset_sound fun _ => rfl
  | vsHotReset => exact .act vsHotReset_sound fun _ => rfl
  | hostPerstAssert => exact .act hostPerstAssert_sound fun _ => rfl
  | hostPerstRelease => exact .act hostPerstRelease_sound fun _ => rfl
  | controllerStart => exact .actPe controllerStart_sound fun _ => rfl
  | feedUsable => exact .actPe feedUsable_sound fun _ => rfl
  | feedLost => exact .actPe feedLost_sound fun _ => rfl
  | transferBreakEnd => exact .actPe transferBreakEnd_sound fun _ => rfl
  | transferEnd => exact .actPe transferEnd_sound fun _ => rfl
  | feedRevert => exact .actPe feedRevert_sound fun _ => rfl
  | rampEnd => exact .actPe rampEnd_sound fun _ => rfl
  | inrushFaultTimeout => exact .actPe inrushFaultTimeout_sound fun _ => rfl
  | railFaultTimeout => exact .actPe railFaultTimeout_sound fun _ => rfl
  | fastTrip => exact .actPe fastTrip_sound fun _ => rfl
  | breakerTrip => exact .actPe breakerTrip_sound fun _ => rfl
  | latchRelease => exact .actPe latchRelease_sound fun _ => rfl
  | controllerStop => exact .actPe controllerStop_sound fun _ => rfl
  | sagWarn => exact .actPe sagWarn_sound fun _ => rfl
  | pfwRelease => exact .actPe pfwRelease_sound fun _ => rfl
  | sagReset => exact .actPe sagReset_sound fun _ => rfl
  | energyStore => exact .actPe energyStore_sound fun _ => rfl
  | slotSoftStart => exact .act slotSoftStart_sound fun _ => rfl
  | slotPowerGood => exact .actPe slotPowerGood_sound fun _ => rfl
  | slotStartTimeout => exact .actPe slotStartTimeout_sound fun _ => rfl
  | slotFastTrip => exact .actPe slotFastTrip_sound fun _ => rfl
  | slotFaultTimeTrip => exact .actPe slotFaultTimeTrip_sound fun _ => rfl
  | slotVoutTrip => exact .actPe slotVoutTrip_sound fun _ => rfl
  | slotRetryEnd => exact .actPe slotRetryEnd_sound fun _ => rfl
  | slotCountRestart => exact .actPe slotCountRestart_sound fun _ => rfl
  | slotPresenceLoss => exact .actPe slotPresenceLoss_sound fun _ => rfl
  | slotSag => exact .actPe slotSag_sound fun _ => rfl
  | slotPfwRelease => exact .actPe slotPfwRelease_sound fun _ => rfl
  | receiverAligned => exact .act receiverAligned_sound fun _ => rfl
  | prbsCheckerLock => exact .act prbsCheckerLock_sound fun _ => rfl
  | l1Exit => exact .act l1Exit_sound fun _ => rfl
  | pcieCreditUpdate => exact .act pcieCreditUpdate_sound fun _ => rfl
  | storeVisible => exact .act storeVisible_sound fun _ => rfl
  | accessComplete => exact .act accessComplete_sound fun _ => rfl
  | copyComplete => exact .act copyComplete_sound fun _ => rfl
  | rstNRelease => exact .act rstNRelease_sound fun _ => rfl


section
variable {c : Instr} {s t : State}

theorem exec_lpddr4xAccess (p : Plane) (w : Bool) (a l : Nat) (b : List Byte) (s : State) : exec (.lpddr4xAccess p w a l b) s =
    if s.dev.On ∧ memTop < a + (if w then b.length else l) then .fault (.noSuchAddress a) else s.act (lpddr4xAccess p w a l b) := rfl

theorem act_of_exec_lpddr4xAccess {p : Plane} {w : Bool} {a l : Nat} {b : List Byte} (h : exec (.lpddr4xAccess p w a l b) s = .next t) :
    s.act (lpddr4xAccess p w a l b) = .next t := by
  rw [exec_lpddr4xAccess] at h
  by_cases hpast : s.dev.On ∧ memTop < a + (if w then b.length else l)
  · rw [if_pos hpast] at h; cases h
  · rwa [if_neg hpast] at h

/-- No arm reaches the queue. -/
theorem exec_pending (h : exec c s = .next t) : t.pending = s.pending := by
  cases cmdArm c with
  | act _ hexec => rw [hexec] at h; cases h; rfl
  | actPe _ hexec => rw [hexec] at h; cases h; rfl
  | memory hc =>
    subst hc
    cases act_of_exec_lpddr4xAccess h; rfl

/-- Every arm keeps the switch sound. -/
theorem exec_sound (hs : s.dev.Sound) (h : exec c s = .next t) : t.dev.Sound := by
  have hact : ∀ {f : Dev → Dev}, (s.dev.Sound → (f s.dev).Sound) → s.act f = .next t → t.dev.Sound := by
    intro f hf h
    cases h
    exact ite_sound (fun _ => hs) fun _ => hf hs
  cases cmdArm c with
  | act hsound hexec => exact hact hsound ((hexec s).symm.trans h)
  | actPe hsound hexec =>
    rw [hexec] at h
    cases h
    exact hsound hs
  | memory hc =>
    subst hc
    exact hact lpddr4xAccess_sound (act_of_exec_lpddr4xAccess h)

/-- In OFF no arm but the power controller's changes anything. -/
theorem exec_off (hoff : s.dev.svc.state = stOff) (hc : c.ofController = false) : exec c s = .next s := by
  cases cmdArm c with
  | act _ hexec => rw [hexec, State.act_off hoff]
  | actPe _ _ hcontroller => rw [hc] at hcontroller; cases hcontroller
  | memory h =>
    subst h
    rw [exec_lpddr4xAccess, if_neg fun hlimit => hlimit.1 hoff, State.act_off hoff]

theorem exec_answers (hc : ∀ p w a l b, c ≠ .lpddr4xAccess p w a l b) (s : State) : ∃ t, exec c s = .next t := by
  cases cmdArm c with
  | act _ hexec => exact ⟨_, hexec s⟩
  | actPe _ hexec => exact ⟨_, hexec s⟩
  | memory h => exact (hc _ _ _ _ _ h).elim

end

/-! One step (Machine/Step.lean) -/

/-- Settles O1: the front command is what `step` matches on. -/
theorem stepRunsFrontCommand : Obligations.StepRunsFrontCommand := fun _ _ _ => rfl

/-- Settles O2: an empty queue is the other case of `step`. -/
theorem idleStepIsOneTick : Obligations.IdleStepIsOneTick := fun _ => rfl

/-- Settles O3: the step takes the first command, and its arm leaves the queue. -/
theorem queueIsFirstInFirstOut : Obligations.QueueIsFirstInFirstOut := by
  unfold Obligations.QueueIsFirstInFirstOut
  rintro ⟨_ | ⟨c, q⟩, s⟩ t h
  · cases h; rfl
  · have hexec : exec c { pending := q, dev := s } = .next t := h
    exact exec_pending hexec

/-- Settles O4: every arm but that of LPDDR4X_ACCESS answers, and that one stops past the memory's end. -/
theorem everyCommandAnswers : Obligations.EveryCommandAnswers := by
  unfold Obligations.EveryCommandAnswers
  exact ⟨fun c s hc => exec_answers hc s, fun p w a l b s => exec_lpddr4xAccess p w a l b s⟩

/-- Settles O5: the arms of the other commands run nothing in OFF. -/
theorem offSwitchIgnoresCommands : Obligations.OffSwitchIgnoresCommands := by
  unfold Obligations.OffSwitchIgnoresCommands
  exact fun c s hoff hc => exec_off hoff hc

/-- Settles O6: a tick keeps the switch sound, and so does every command's arm; the commands that go on waiting were in range before. -/
theorem soundnessIsKept : Obligations.SoundnessIsKept := by
  unfold Obligations.SoundnessIsKept
  rintro ⟨_ | ⟨c, q⟩, s⟩ t ⟨hdev, hqueue⟩ h
  · cases h
    exact State.sound_mk (Dev.tick_sound hdev) hqueue
  · have hexec : exec c { pending := q, dev := s } = .next t := h
    refine ⟨exec_sound (s := { pending := q, dev := s }) hdev hexec, ?_⟩
    rw [exec_pending hexec]
    exact (Bool.and_eq_true_iff.1 hqueue).2

end Sys2Proof.Machine
end

section
/-! Bytes, headers and flits that read back (R288 to R293, R387, R463): a number from its bytes, a word from its fields, and the CRC of a
flit that was sent. -/
namespace Sys2Proof.Machine

/-! Numbers as bytes -/

@[simp] theorem leBytes_length (n x : Nat) : (leBytes n x).length = n := by
  induction n generalizing x with
  | zero => rfl
  | succ n ih => rw [leBytes, List.length_cons, ih]

@[simp] theorem beBytes_length (n x : Nat) : (beBytes n x).length = n := by rw [beBytes, List.length_reverse, leBytes_length]

theorem leNat_leBytes (n x : Nat) : leNat (leBytes n x) = x % 256 ^ n := by
  induction n generalizing x with
  | zero => rw [leBytes, leNat, Nat.pow_zero, Nat.mod_one]
  | succ n ih => rw [leBytes, leNat, ih, BitVec.toNat_ofNat, Nat.pow_succ' (m := 256), Nat.mod_mul]

theorem leNat_leBytes_of_lt {n x : Nat} (h : x < 256 ^ n) : leNat (leBytes n x) = x := by rw [leNat_leBytes, Nat.mod_eq_of_lt h]

theorem beNat_beBytes_of_lt {n x : Nat} (h : x < 256 ^ n) : beNat (beBytes n x) = x := by
  rw [beNat, beBytes, List.reverse_reverse, leNat_leBytes_of_lt h]

theorem padTo_length (n : Nat) (l : List Byte) : (padTo n l).length = n := by
  rw [padTo, List.length_take, List.length_append, List.length_replicate]
  omega

/-! Fields of a word -/

theorem bitsOf_eq (x hi lo : Nat) : bitsOf x hi lo = x / 2 ^ lo % 2 ^ (hi + 1 - lo) := by rw [bitsOf, Nat.shiftRight_eq_div_pow]

theorem b2n_lt (b : Bool) : b2n b < 2 := by cases b <;> decide

/-- A one-bit field reads back as the truth value it was made from. -/
theorem bitOf_eq_of_div {x i : Nat} {b : Bool} (h : x / 2 ^ i % 2 = b2n b) : bitOf x i = b := by
  rw [bitOf, Nat.testBit_eq_decide_div_mod_eq, h]
  cases b <;> rfl

theorem FlitHdr.word_lt (h : FlitHdr) : h.word < 256 ^ 12 := by
  have := b2n_lt h.ackv
  have := b2n_lt h.sop
  have := b2n_lt h.eop
  have := b2n_lt h.topen
  have := b2n_lt h.tclose
  unfold FlitHdr.word
  omega

theorem flitHdr_word {h : FlitHdr} (htyp : h.typ < 16) (hseq : h.seq < 16384) (hack : h.ack < 16384) (hep : h.ep < 2) (hcc : h.cc < 8)
    (hlen : h.len < 256) (hcpool : h.cpool < 4) (hcred : h.cred < 65536) (hsub : h.sub < 32) (hinfo : h.info < 2 ^ 24) :
    flitHdr h.word = h := by
  have hackv := b2n_lt h.ackv
  have hsop := b2n_lt h.sop
  have heop := b2n_lt h.eop
  have htopen := b2n_lt h.topen
  have htclose := b2n_lt h.tclose
  obtain ⟨typ, seq, ack, ackv, ep, cc, sop, eop, topen, tclose, len, cpool, cred, sub, info⟩ := h
  simp only [flitHdr, FlitHdr.word, FlitHdr.mk.injEq, bitsOf_eq] at *
  refine ⟨?_, ?_, ?_, bitOf_eq_of_div ?_, ?_, ?_, bitOf_eq_of_div ?_, bitOf_eq_of_div ?_, bitOf_eq_of_div ?_, bitOf_eq_of_div ?_,
    ?_, ?_, ?_, ?_, ?_⟩ <;> omega

/-! The envelope -/

theorem envWord_lt (e : Env) : envWord e < 256 ^ 16 := by
  have := b2n_lt e.lock
  have := b2n_lt e.tok
  have := b2n_lt e.dlv
  unfold envWord
  omega

/-- Settles O13: the 16 bytes are the envelope's word, and each field of the word is the field it was made from. -/
theorem envelopeReadsBack : Obligations.EnvelopeReadsBack := by
  unfold Obligations.EnvelopeReadsBack
  intro e hdgpa hsgpa hvs hoc htyp hep heseq htlen hdl
  have hlock := b2n_lt e.lock
  have htok := b2n_lt e.tok
  have hdlv := b2n_lt e.dlv
  have hword : beNat ((envBytes e).take 16) = envWord e := by
    rw [envBytes, List.take_of_length_le (beBytes_length 16 _).le, beNat_beBytes_of_lt (envWord_lt e)]
  obtain ⟨dgpa, sgpa, vs, oc, typ, ep, lock, tok, eseq, tlen, dlv, dl⟩ := e
  simp only [envOf, hword, envWord, Env.mk.injEq, bitsOf_eq] at *
  refine ⟨?_, ?_, ?_, ?_, ?_, ?_, bitOf_eq_of_div ?_, bitOf_eq_of_div ?_, ?_, ?_, bitOf_eq_of_div ?_, ?_⟩ <;> omega

/-! Tree messages -/

/-- Settles O14: each part of the 32 bytes is the little-endian form of its field. -/
theorem treeMessageReadsBack : Obligations.TreeMessageReadsBack := by
  unfold Obligations.TreeMessageReadsBack
  rintro ⟨kind, flags, term, epoch, t, count1, count2⟩ hwf
  simp only [TreeMsg.wf, Bool.and_eq_true, decide_eq_true_eq] at hwf
  obtain ⟨⟨⟨⟨⟨⟨hkind, hflags⟩, hterm⟩, hepoch⟩, ht⟩, hcount1⟩, hcount2⟩ := hwf
  refine ⟨by simp [treeBytes], ?_⟩
  simp [treeOf, treeBytes, byteN, List.drop_append, List.drop_eq_nil_of_le, leNat_leBytes_of_lt, *]

/-! Flits -/

theorem crc64_lt (l : List Byte) : crc64 l < 256 ^ 8 := by
  unfold crc64
  omega

/-- Where the last eight bytes are the CRC of those before them, the CRC agrees. -/
theorem syndrome_append_crc64 {b : List Byte} (h : b.length = 248) : syndrome (b ++ beBytes 8 (crc64 b)) = 0 := by
  rw [syndrome, List.take_left' h, List.drop_left' h, beNat_beBytes_of_lt (crc64_lt b), Nat.xor_self]

theorem checkFlit_of_syndrome_zero {b : List Byte} (h : syndrome b = 0) : checkFlit b = (.good, b) := if_pos h

/-- Settles O15: a flit ends with the CRC of its first 248 bytes, which are the header's word and the padded payload. -/
theorem flitsReadBack : Obligations.FlitsReadBack := by
  unfold Obligations.FlitsReadBack
  intro h payload htyp hseq hack hep hcc hlen hcpool hcred hsub hinfo
  have hpad := padTo_length 236 payload
  have hhead := beBytes_length 12 h.word
  have hbody : (beBytes 12 h.word ++ padTo 236 payload).length = 248 := by rw [List.length_append, hhead, hpad]
  refine ⟨?_, checkFlit_of_syndrome_zero (syndrome_append_crc64 hbody), ?_, ?_⟩
  · rw [flitBytes, List.length_append, hbody, beBytes_length]
  · rw [flitBytes, List.append_assoc, List.take_left' hhead, beNat_beBytes_of_lt h.word_lt]
    exact flitHdr_word htyp hseq hack hep hcc hlen hcpool hcred hsub hinfo
  · rw [flitBytes, List.append_assoc, List.drop_left' hhead, List.take_left' hpad]

end Sys2Proof.Machine
end

section
/-! The state after reset (R689, R693), the passing of time (R605), module trips (R665), minimum SVNs (R652), the hatch (R128) and locked key
slots (R582). -/
namespace Sys2Proof.Machine

/-! Reset -/

/-- Settles O7: the tables are empty, the eight slots and the log are at their reset values. -/
theorem resetIsSound : Obligations.ResetIsSound := by
  refine State.sound_mk ?_ rfl
  exact ⟨rfl, rfl, rfl, rfl, rfl, by decide, by decide, rfl, by decide⟩

/-- Settles O8: the register file lists nothing, so each register reads as its reset value. -/
theorem resetLeavesResetValues : Obligations.ResetLeavesResetValues :=
  ⟨rfl, rfl, rfl, rfl, rfl, rfl, rfl, rfl, fun _ _ => rfl⟩

/-! Time -/

/-- The units of fabric time in one tick: 1, or 0 or 2 where the servo's corrections have added up to a unit (R605). -/
def Dev.units (s : Dev) : Nat :=
  if 1000000000 ≤ s.tel.slewAcc + s.tel.slew then 2 else if s.tel.slewAcc + s.tel.slew ≤ -1000000000 then 0 else 1

theorem Dev.units_le (s : Dev) : s.units ≤ 2 := by
  unfold Dev.units
  split
  · decide
  · split <;> decide

theorem Dev.units_of_no_slew {s : Dev} (hslew : s.tel.slew = 0) (hacc : s.tel.slewAcc = 0) : s.units = 1 := by
  simp [Dev.units, hslew, hacc]

theorem Dev.advance1_ftime (s : Dev) : s.advance1.ftime = (s.ftime + s.units) % 2 ^ 64 := by
  unfold Dev.advance1 Dev.units
  dsimp only
  split
  · rfl
  · split <;> rfl

/-- Settles O30: fabric time runs by `Dev.units`. -/
theorem fabricTimeAdvancesWithinItsSlew : Obligations.FabricTimeAdvancesWithinItsSlew := by
  unfold Obligations.FabricTimeAdvancesWithinItsSlew
  intro s
  refine ⟨⟨s.units, s.units_le, s.advance1_ftime⟩, rfl, fun hslew hacc => ?_⟩
  rw [Dev.advance1_ftime, Dev.units_of_no_slew hslew hacc]

/-! Trips -/

/-- Settles O29: the trip is recorded in the controller and the device has lost power. -/
theorem tripsLatchOff : Obligations.TripsLatchOff := fun _ _ => ⟨rfl, rfl, rfl, rfl, rfl⟩

/-! The hatch -/

@[simp] theorem Dev.fget_modArb (s : Dev) (a : Nat) (f : Arb → Arb) (fld : Fld) (i : Nat) : (s.modArb a f).fget fld i = s.fget fld i := rfl

/-- The field of a plane that has one, as its hatch write leaves it. -/
theorem fbit_fset_self {s : Dev} (h : tabove 0 s.regs = true) {f : Fld} (hf : f.hi = f.lo) (h64 : f.hi < 64) (i : Nat) (b : Bool) :
    (s.fset f i (b2n b)).fbit f i = b := by
  rw [Dev.fbit, fget_fset_self h hf.ge h64, hf, Nat.add_sub_cancel_left]
  cases b <;> rfl

/-- Settles O11: each plane's write stores its own field of the register, which leaves the other field. -/
theorem hatchBitsBelongToTheirPlanes : Obligations.HatchBitsBelongToTheirPlanes := by
  unfold Obligations.HatchBitsBelongToTheirPlanes
  intro a close s hon ha hregs
  have hdoes (p : Plane) : Does (.hatchWrite a p close) s (hatchWrite a p close s) := Does.of_act (fun _ => rfl) hon rfl
  have hrange : ¬ 57 ≤ a := by omega
  have hfield (p : Plane) (f g : Fld) (hp : ∀ fld i, (hatchWrite a p close s).fget fld i = (s.fset f a (b2n close)).fget fld i)
      (hf : f.hi = f.lo ∧ f.hi < 64) (hg : g.reg = f.reg ∧ g.lo ≤ g.hi ∧ (g.hi < f.lo ∨ f.hi < g.lo)) :
      (hatchWrite a p close s).fbit f a = close ∧ (hatchWrite a p close s).fbit g a = s.fbit g a := by
    refine ⟨?_, ?_⟩
    · rw [Dev.fbit, hp]
      exact fbit_fset_self hregs hf.1 hf.2 a close
    · rw [Dev.fbit, hp, fget_fset_field hregs hg.1 hf.1.ge hg.2.1 hf.2 hg.2.2, Dev.fbit]
  obtain ⟨hmgmt, hmgmtCtrl⟩ := hfield .management Fld.ARB_HATCH.MGMT Fld.ARB_HATCH.CTRL
    (fun _ _ => by simp [hatchWrite, hrange]) (by decide) (by decide)
  obtain ⟨hctrl, hctrlMgmt⟩ := hfield .control Fld.ARB_HATCH.CTRL Fld.ARB_HATCH.MGMT
    (fun _ _ => by simp [hatchWrite, hrange]) (by decide) (by decide)
  have hdata : hatchWrite a .data close s = s := by simp [hatchWrite]
  refine ⟨_, _, hdoes .management, hdoes .control, Does.of_act (fun _ => rfl) hon hdata, hmgmt, hmgmtCtrl, hctrl, hctrlMgmt, ?_, ?_⟩
  · rw [Dev.hatchClosed, hmgmt, hmgmtCtrl]
  · rw [Dev.hatchClosed, hctrl, hctrlMgmt]

/-! What an answer and the end of a command leave alone -/

section
variable {β : Type} {p : Dev → β}

theorem Dev.putSess_keeps (hsess : ∀ s l, p { s with svc.sess := l } = p s) (s : Dev) (x : Sess) : p (s.putSess x) = p s := by
  unfold Dev.putSess
  split
  · exact hsess s _
  · exact hsess s _

theorem Dev.modSess_keeps (hsess : ∀ s l, p { s with svc.sess := l } = p s) (s : Dev) (k : SessKey) (f : Sess → Sess) :
    p (s.modSess k f) = p s := by
  unfold Dev.modSess
  split
  · exact Dev.putSess_keeps hsess s _
  · rfl

variable (hsvc : ∀ s x, p { s with svc := x } = p s) (hout : ∀ s o, p (s.emit o) = p s)
include hsvc hout

/-- A notice changes the sessions it goes to and leaves the switch. -/
theorem Dev.notice_keeps (s : Dev) (cls source time : Nat) (b : List Byte) : p (s.notice cls source time b) = p s := by
  unfold Dev.notice
  dsimp only
  split
  · exact hsvc s _
  · refine each_keeps p (fun s x => ?_) _ _
    split
    · exact (hout _ _).trans (Dev.putSess_keeps (fun s l => hsvc s _) s _)
    · rfl

theorem Dev.cmdDone_keeps (s : Dev) (idx sub st : Nat) (b : List Byte) : p (s.cmdDone idx sub st b) = p s := by
  unfold Dev.cmdDone
  split
  · exact (Dev.notice_keeps hsvc hout _ _ _ _ _).trans (hsvc s _)
  · rfl

end

/-! Minimum SVNs -/

theorem Trust.append_minSvn (t : Trust) (r : List Byte) : (t.append r).minSvn = t.minSvn := by
  unfold Trust.append
  split
  · rfl
  · split <;> rfl

theorem Dev.measure_minSvn (s : Dev) (kind slot component : Nat) (detail digest : List Byte) :
    (s.measure kind slot component detail digest).trust.minSvn = s.trust.minSvn := by
  unfold Dev.measure
  dsimp only
  split <;> exact Trust.append_minSvn _ _

/-- RAISE_SVN of a kind: its minimum becomes the SVN of the image in use where that is greater (R652). -/
theorem Dev.fwAct_raise_minSvn {kind : Nat} {s : Dev} : (s.fwAct (3 + 256 * kind) []).trust.minSvn =
    let svn := ((tfind s.trust.inUse kind).map fun u => u.svn).getD 0
    if svn ≤ s.trust.minSvn.getD kind 0 then s.trust.minSvn else s.trust.minSvn.set kind svn := by
  have hdone := Dev.cmdDone_keeps (p := (·.trust.minSvn)) (fun _ _ => rfl) fun _ _ => rfl
  have hkind : (3 + 256 * kind) / 256 = kind := by omega
  have hop : (3 + 256 * kind) % 256 = 3 := by omega
  simp only [Dev.fwAct, hkind, hop]
  rw [if_neg (by decide), if_neg (by decide)]
  split
  · exact hdone s _ _ _ _
  · exact (hdone _ _ _ _ _).trans (Dev.measure_minSvn ..)

/-- Settles O31: the named kind's minimum becomes the greater of the two numbers, every other stays. -/
theorem minimumSvnOnlyRises : Obligations.MinimumSvnOnlyRises := by
  unfold Obligations.MinimumSvnOnlyRises
  intro kind s hkind hlen
  simp only [Dev.fwAct_raise_minSvn]
  generalize ((tfind s.trust.inUse kind).map fun u => u.svn).getD 0 = svn
  split
  case isTrue hle => exact ⟨(max_eq_left hle).symm, fun _ _ => rfl⟩
  case isFalse hgt =>
    refine ⟨?_, fun k hk => ?_⟩
    · rw [max_eq_right (by omega), List.getD_eq_getElem?_getD, List.getElem?_set_self (by omega), Option.getD_some]
    · rw [List.getD_eq_getElem?_getD, List.getElem?_set_ne (Ne.symm hk), ← List.getD_eq_getElem?_getD]

/-! Key slots -/

/-- The failures of a key slot within the last 60 s. -/
def Dev.lateFails (s : Dev) (slot : Nat) : List Nat := (s.keySlot slot).fails.filter fun t => decide (s.now < t + 60 * tSec)

theorem Dev.keySlot_keyFail {s : Dev} {slot : Nat} (h : slot < 16) : (s.keyFail slot).keySlot slot =
    if 4 ≤ (s.lateFails slot).length then { s.keySlot slot with fails := [], till := some (s.now + 60 * tSec) }
    else { s.keySlot slot with fails := s.lateFails slot ++ [s.now] } := by
  have hread (k : KeySlot) (hk : k ≠ {}) : tget {} (tput {} s.svc.keys slot k) slot = k := by
    rw [tput, if_neg hk, tget, tfind_tins, if_pos rfl, Option.getD_some]
  have hlen : 5 ≤ (s.lateFails slot ++ [s.now]).length ↔ 4 ≤ (s.lateFails slot).length := by
    rw [List.length_append, List.length_singleton]; omega
  have hfail : (s.keyFail slot).keySlot slot = tget {} (tput {} s.svc.keys slot
      (if 5 ≤ (s.lateFails slot ++ [s.now]).length then { s.keySlot slot with fails := [], till := some (s.now + 60 * tSec) }
        else { s.keySlot slot with fails := s.lateFails slot ++ [s.now] })) slot := by
    rw [Dev.keyFail, if_neg (by omega)]; rfl
  rw [hfail]
  simp only [hlen]
  refine hread _ ?_
  split
  · intro hk
    have := congrArg KeySlot.till hk
    cases this
  · intro hk
    have := congrArg KeySlot.fails hk
    simp at this

/-- OPEN on a locked key slot is answered 0x0203 (R582). -/
theorem Dev.serveOpen_of_locked {s : Dev} {h : ReqHdr} {i slot : Nat} {body : List Byte} (hreach : s.reachable = true)
    (hmay : s.mayAsk h.sess = true) (hsess : h.sess = .udp i) (hfault : h.fault = 0) (hversion : h.version = 1) (hlen : body.length = 1216)
    (hlocked : (s.keySlot slot).till.isSome = true) : s.serveOpen h slot body = s.respond h.sess h.seq 0x0203 [] := by
  rw [Dev.serveOpen, if_neg (by simp [hreach, hmay])]
  simp only [hsess]
  rw [if_neg (by simp [hfault]), if_neg (by simp [hversion]), if_neg (by simp [hlen]), if_pos hlocked]

/-- Settles O26: the failure counts with those of the last minute, and four before it make it the fifth. -/
theorem fiveFailuresLockAKeySlot : Obligations.FiveFailuresLockAKeySlot := by
  unfold Obligations.FiveFailuresLockAKeySlot
  refine ⟨fun slot s hslot => ?_, ?_⟩
  · have hfail := s.keySlot_keyFail hslot
    refine ⟨fun (hfour : 4 ≤ (s.lateFails slot).length) => ?_, fun (hfew : (s.lateFails slot).length < 4) => ?_⟩
    · rw [if_pos hfour] at hfail
      rw [hfail]
      exact ⟨rfl, rfl⟩
    · rw [if_neg (Nat.not_le.2 hfew)] at hfail
      rw [hfail]
      exact ⟨rfl, rfl⟩
  · intro h i slot body s hon hreach hinbox hmay hsess hfault hversion hlen hlocked
    exact Serves.of_serve (fun _ => rfl) hon hreach hmay hinbox (Dev.serveOpen_of_locked hreach hmay hsess hfault hversion hlen hlocked)

end Sys2Proof.Machine
end

section
/-! Requests that are answered again, and WRITEs that fail (R557, R576): what an answer touches, and what the two requests answer. -/
namespace Sys2Proof.Machine

/-! What an answer touches -/

/-- What an answer leaves alone: what does not depend on the sessions, the registers and their marks, the service functions, the pending
events and the outbox. -/
structure AnswerKeeps {β : Type} (p : Dev → β) : Prop where
  sess : ∀ (s : Dev) l, p { s with svc.sess := l } = p s
  regs : ∀ (s : Dev) t, p { s with regs := t } = p s
  cyc : ∀ (s : Dev) t, p { s with cyc := t } = p s
  sf : ∀ (s : Dev) t, p { s with sf := t } = p s
  tel : ∀ (s : Dev) t, p { s with tel := t } = p s
  out : ∀ (s : Dev) l, p { s with out := l } = p s

section
variable {β : Type} {p : Dev → β} (h : AnswerKeeps p)
include h

theorem AnswerKeeps.emit (s : Dev) (o : Out) : p (s.emit o) = p s := h.out s _

theorem AnswerKeeps.rset (s : Dev) (r : Reg) (i v : Nat) : p (s.rset r i v) = p s := h.regs s _

theorem AnswerKeeps.mark (s : Dev) (r : Reg) (i bits : Nat) : p (s.mark r i bits) = p s := h.cyc s _

theorem AnswerKeeps.fset (s : Dev) (f : Fld) (i v : Nat) : p (s.fset f i v) = p s := (h.mark _ _ _ _).trans (h.rset s _ _ _)

theorem AnswerKeeps.count (s : Dev) (r : Reg) (i n : Nat) : p (s.count r i n) = p s := (h.mark _ _ _ _).trans (h.rset s _ _ _)

theorem AnswerKeeps.fsets (s : Dev) (i : Nat) (l : List (Fld × Nat)) : p (s.fsets i l) = p s :=
  each_keeps p (fun s (x : Fld × Nat) => h.fset s x.1 i x.2) l s

theorem AnswerKeeps.raise (s : Dev) (src : Nat) : p (s.raise src) = p s := by
  unfold Dev.raise
  dsimp only
  split
  · exact (h.tel _ _).trans ((h.mark _ _ _ _).trans (h.rset _ _ _ _))
  · exact (h.mark _ _ _ _).trans (h.rset _ _ _ _)

theorem AnswerKeeps.modSfn (s : Dev) (vs fn : Nat) (g : SfFn → SfFn) : p (s.modSfn vs fn g) = p s := h.sf s _

theorem AnswerKeeps.signal (s : Dev) (vs fn v : Nat) (w : Option Way) : p (s.signal vs fn v w) = p s := by
  have hsent : ∀ o : Out, p ((s.emit o).fcount vs fn 10 1) = p s := fun o => (h.count _ _ _ _).trans (h.emit s o)
  unfold Dev.signal
  dsimp only
  split
  · split
    · exact h.modSfn ..
    · exact hsent _
  · split
    · exact h.modSfn ..
    · exact hsent _
  · rfl

theorem AnswerKeeps.intxSync (s : Dev) (vs : Nat) : p (s.intxSync vs) = p s := by
  unfold Dev.intxSync
  dsimp only
  split
  · rfl
  · exact (h.count _ _ _ _).trans ((h.emit _ _).trans (h.modSfn ..))

theorem AnswerKeeps.sfEvent (s : Dev) (vs fn : Nat) (f : Fld) : p (s.sfEvent vs fn f) = p s := by
  have hsignal : ∀ (c : Prop) [Decidable c] (t : Dev), p t = p s → p (if c then t else t.signal vs fn 0) = p s := by
    intro c _ t ht
    split
    · exact ht
    · exact (h.signal ..).trans ht
  unfold Dev.sfEvent
  dsimp only
  split
  · exact (h.raise _ _).trans ((h.intxSync _ _).trans (hsignal _ _ (h.fset ..)))
  · exact (h.raise _ _).trans (hsignal _ _ (h.fset ..))

theorem AnswerKeeps.reply (s : Dev) (k : SessKey) (svc seq st : Nat) (b : List Byte) : p (s.reply k svc seq st b) = p s := by
  cases k with
  | udp i => exact h.emit s _
  | mctp e => exact h.emit s _
  | mailbox vs =>
    show p (s.mailReply vs svc seq st b) = p s
    unfold Dev.mailReply
    dsimp only
    split
    · rfl
    · exact (h.sfEvent ..).trans ((h.modSfn ..).trans (h.fsets ..))

theorem AnswerKeeps.modSess (s : Dev) (k : SessKey) (f : Sess → Sess) : p (s.modSess k f) = p s := Dev.modSess_keeps h.sess s k f

theorem AnswerKeeps.answerReq (s : Dev) (k : SessKey) (svc seq st : Nat) (b : List Byte) : p (s.answerReq k svc seq st b) = p s :=
  (h.reply ..).trans (h.modSess s k _)

theorem AnswerKeeps.heard (s : Dev) (r : ReqHdr) : p (s.heard r) = p s := h.modSess s r.sess _

end

/-! Requests repeated -/

section
variable {s : Dev} {h : ReqHdr} {x : Sess}

/-- A request under the SEQ last answered is answered as that was, whatever it asks (R576). -/
theorem Dev.request_repeated (hreach : s.reachable = true) (hmay : s.mayAsk h.sess = true) (hopen : s.open? h.sess = some x)
    (hfrom : x.from? h = true) (htag : badTag h = false) (hidle : s.reqPending h.sess = false)
    (hseq : h.seq = x.last) (hstored : x.stored.1 ≠ 0) (svc : Nat) (serve : Dev → Sess → Dev) :
    s.request h svc serve = (s.heard h).reply h.sess x.stored.1 h.seq x.stored.2.1 x.stored.2.2 := by
  unfold Dev.request
  rw [if_neg (by simp [hreach, hmay]), hopen]
  dsimp only
  rw [if_neg (by simp [hfrom]), if_neg (by simp [htag]), if_neg (by simp [hidle])]
  unfold Dev.bySeq
  dsimp only
  rw [if_neg (by omega), if_pos ⟨hseq, hstored⟩]
  rfl

end

/-- Settles O25: each of the services leaves its request to `Dev.request`, which repeats the answer. -/
theorem repeatedRequestsAreAnsweredAgain : Obligations.RepeatedRequestsAreAnsweredAgain := by
  unfold Obligations.RepeatedRequestsAreAnsweredAgain
  intro h x s hon hreach hmay hinbox hopen hfrom htag hidle _ hseq hstored es rs r m n c hc
  have hagain := Dev.request_repeated hreach hmay hopen hfrom htag hidle hseq hstored
  simp only [List.mem_cons, List.not_mem_nil, or_false] at hc
  rcases hc with rfl | rfl | rfl | rfl | rfl | rfl | rfl <;>
    exact Serves.of_serve (fun _ => rfl) hon hreach hmay hinbox (hagain _ _)

/-! WRITEs that fail -/

/-- A WRITE with a failing entry is answered with its status and position; a write that R28 keeps back is counted (R557, R632). -/
theorem Dev.doWrite_of_checkAll_some {s : Dev} {h : ReqHdr} {x : Sess} {es : List EntryWrite} {pos st : Nat} {e : EntryWrite}
    (hopen : s.open? h.sess = some x) (hne : es ≠ []) (hlen : es.length ≤ 32) (hcheck : s.checkAll h.sess es [] es = some (pos, e, st)) :
    s.doWrite h es = s.answerReq h.sess svWrite h.seq st (leBytes 1 pos) ∨
      s.doWrite h es = s.rejected.answerReq h.sess svWrite h.seq st (leBytes 1 pos) := by
  unfold Dev.doWrite
  dsimp only
  rw [hopen]
  dsimp only
  rw [if_neg (by simp [hne, hlen]), hcheck]
  dsimp only
  split
  · exact .inr rfl
  · exact .inl rfl

/-- A WRITE that is carried out while no other switch holds the register bus does not wait for it (R409). -/
theorem Dev.serveWrite_of_asks {s : Dev} {h : ReqHdr} {x : Sess} {es : List EntryWrite} (ha : s.Asks h x) (hbus : s.xing.farLock = none) :
    s.serveWrite h es = (s.heard h).doWrite h es := by
  have hfree : ¬ ((s.heard h).xing.farLock.isSome = true ∧ (es.any fun e => onBus e.ref.index e.ref.sub) = true) := by
    simp [Dev.heard_xing, hbus]
  rw [Dev.serveWrite, Dev.request_serves ha]
  exact if_neg hfree

/-- Settles O24: the pass over the entries ends in an answer, which touches none of what a WRITE stores. -/
theorem failedWritesStoreNothing : Obligations.FailedWritesStoreNothing := by
  unfold Obligations.FailedWritesStoreNothing
  intro h x es pos st e s hon ha hbus hne hlen hcheck
  have ⟨hreach, hmay, hopen, _, _, _, _, _, _, hinbox⟩ := ha
  obtain ⟨u, hu, hdo⟩ : ∃ u, (u = s.heard h ∨ u = (s.heard h).rejected) ∧
      (s.heard h).doWrite h es = u.answerReq h.sess svWrite h.seq st (leBytes 1 pos) := by
    rcases Dev.doWrite_of_checkAll_some (Dev.open_heard hopen) hne hlen hcheck with hdo | hdo
    · exact ⟨_, .inl rfl, hdo⟩
    · exact ⟨_, .inr rfl, hdo⟩
  have hkeeps {β : Type} {p : Dev → β} (hp : AnswerKeeps p) : p (u.answerReq h.sess svWrite h.seq st (leBytes 1 pos)) = p s := by
    have hheard := hp.heard s h
    rcases hu with rfl | rfl
    · exact (hp.answerReq ..).trans hheard
    · exact (hp.answerReq ..).trans ((hp.count _ _ _ _).trans hheard)
  have hserves := Serves.of_serve (c := .write h es) (r := .write es) (fun _ => rfl) hon hreach hmay hinbox
    ((Dev.serveWrite_of_asks ha hbus).trans hdo)
  refine ⟨_, u, hserves, rfl, hu, hkeeps (p := (·.objs)) ?_, hkeeps (p := (·.flash)) ?_, hkeeps (p := (·.mem)) ?_, hkeeps (p := (·.eng)) ?_,
    hkeeps (p := (·.trust)) ?_, hkeeps (p := (·.svc.loads)) ?_, hkeeps (p := (·.svc.cmds)) ?_, hkeeps (p := (·.svc.keys)) ?_,
    hkeeps (p := (·.svc.commits)) ?_, hkeeps (p := (·.svc.state)) ?_⟩ <;>
    constructor <;> intros <;> rfl

end Sys2Proof.Machine
end

section
/-! Register fields under a write (R13, R14), a blocked access and the marks of its core cycle (R14, R29), and a store that R523 holds
back. -/
namespace Sys2Proof.Machine

/-! The fields of a register -/

/-- Two fields have no bit in common. -/
abbrev Field.Apart (f g : Field) : Prop := f.hi < g.lo ∨ g.hi < f.lo

/-- Fields that begin at or below their ends, no two of which meet. -/
abbrev FieldsOk (l : List Field) : Prop := (∀ f ∈ l, f.lo ≤ f.hi) ∧ l.Pairwise Field.Apart

theorem allRegs_fieldsOk : ∀ r ∈ allRegs, FieldsOk (regInfo r).fields := by decide +kernel

theorem regInfo_fieldsOk (r : Reg) : FieldsOk (regInfo r).fields := allRegs_fieldsOk r (List.mem_of_getElem? (allRegs_regCode r))

/-- A write's effect on a field, by its access code (R14). -/
def Field.after (f : Field) (old new ones : Nat) : Nat :=
  match f.acc with
  | .RW | .RWS => if f.allows new = true then new else old
  | .RW1C => old ^^^ (old &&& ones)
  | _ => old

theorem bitsOf_mod (x hi lo : Nat) : bitsOf x hi lo % 2 ^ (hi + 1 - lo) = bitsOf x hi lo := Nat.mod_eq_of_lt (bitsOf_lt x hi lo)

theorem Field.bitsOf_store_self {f : Field} (hf : f.lo ≤ f.hi) (v new ones : Nat) : bitsOf (f.store v new ones) f.hi f.lo =
    f.after (bitsOf v f.hi f.lo) (bitsOf new f.hi f.lo) (bitsOf ones f.hi f.lo) := by
  have hclear : (bitsOf v f.hi f.lo ^^^ (bitsOf v f.hi f.lo &&& bitsOf ones f.hi f.lo)) % 2 ^ (f.hi + 1 - f.lo) =
      bitsOf v f.hi f.lo ^^^ (bitsOf v f.hi f.lo &&& bitsOf ones f.hi f.lo) :=
    Nat.mod_eq_of_lt (Nat.xor_lt_two_pow (bitsOf_lt ..) (Nat.and_lt_two_pow _ (bitsOf_lt ..)))
  have hrw : bitsOf (if f.allows (bitsOf new f.hi f.lo) = true then setBitsOf v f.hi f.lo (bitsOf new f.hi f.lo) else v) f.hi f.lo =
      if f.allows (bitsOf new f.hi f.lo) = true then bitsOf new f.hi f.lo else bitsOf v f.hi f.lo := by
    split
    · rw [bitsOf_setBitsOf_self hf, bitsOf_mod]
    · rfl
  unfold Field.store Field.after
  cases f.acc with
  | RW => exact hrw
  | RWS => exact hrw
  | RW1C => exact (bitsOf_setBitsOf_self hf).trans hclear
  | RO | RC | WO | HWINIT => rfl

/-- A store of a field leaves the fields apart from it. -/
theorem Field.bitsOf_store_apart {f g : Field} (hf : f.lo ≤ f.hi) (hg : g.lo ≤ g.hi) (h : f.Apart g) (v new ones : Nat) :
    bitsOf (f.store v new ones) g.hi g.lo = bitsOf v g.hi g.lo := by
  have hset (x : Nat) : bitsOf (setBitsOf v f.hi f.lo x) g.hi g.lo = bitsOf v g.hi g.lo :=
    h.elim (bitsOf_setBitsOf_above hf) (bitsOf_setBitsOf_below hf hg)
  unfold Field.store
  split
  · split
    · exact hset _
    · rfl
  · split
    · exact hset _
    · rfl
  · exact hset _
  · rfl

theorem bitsOf_foldl_store_apart {g : Field} (hg : g.lo ≤ g.hi) {l : List Field} (hle : ∀ f ∈ l, f.lo ≤ f.hi)
    (hapart : ∀ f ∈ l, f.Apart g) (v new ones : Nat) :
    bitsOf (l.foldl (fun v f => f.store v new ones) v) g.hi g.lo = bitsOf v g.hi g.lo := by
  induction l generalizing v with
  | nil => rfl
  | cons f l ih =>
    rw [List.foldl_cons, ih (fun f hf => hle f (.tail _ hf)) fun f hf => hapart f (.tail _ hf)]
    exact Field.bitsOf_store_apart (hle f (.head _)) hg (hapart f (.head _)) v new ones

theorem bitsOf_foldl_store {l : List Field} (hl : FieldsOk l) {f : Field} (hf : f ∈ l) (v new ones : Nat) :
    bitsOf (l.foldl (fun v f => f.store v new ones) v) f.hi f.lo =
      f.after (bitsOf v f.hi f.lo) (bitsOf new f.hi f.lo) (bitsOf ones f.hi f.lo) := by
  induction l generalizing v with
  | nil => cases hf
  | cons g l ih =>
    obtain ⟨hle, hpair⟩ := hl
    obtain ⟨hg, hrest⟩ := List.pairwise_cons.1 hpair
    have hrestLe : ∀ f ∈ l, f.lo ≤ f.hi := fun f hf => hle f (.tail _ hf)
    rw [List.foldl_cons]
    cases hf with
    | head =>
      rw [bitsOf_foldl_store_apart (hle _ (.head _)) hrestLe fun f hf => (hg f hf).symm]
      exact Field.bitsOf_store_self (hle _ (.head _)) v new ones
    | tail _ hf =>
      rw [ih ⟨hrestLe, hrest⟩ hf, Field.bitsOf_store_apart (hle g (.head _)) (hrestLe f hf) (hg f hf)]

theorem RegWr.stored_field (x : RegWr) (r : Reg) (old : Nat) {f : Field} (hf : f ∈ (regInfo r).fields) :
    bitsOf (x.stored (regInfo r) old) f.hi f.lo = f.after (bitsOf old f.hi f.lo) (bitsOf x.new f.hi f.lo) (bitsOf x.ones f.hi f.lo) :=
  bitsOf_foldl_store (regInfo_fieldsOk r) hf old x.new x.ones

/-- Settles O27: a write stores field after field, the fields of a register are apart, and a field's store leaves `Field.after`. -/
theorem writesStoreByAccessCode : Obligations.WritesStoreByAccessCode := by
  unfold Obligations.WritesStoreByAccessCode
  intro r x old _ f hf
  refine (x.stored_field r old hf).trans ?_
  unfold Field.after
  cases f.acc <;> rfl

/-! A command answers one next state -/

theorem Does.unique {c : Instr} {s t u : Dev} (ht : Does c s t) (hu : Does c s u) : t = u := by
  have h := (ht []).symm.trans (hu [])
  injection h with h
  injection h

/-! A blocked access marks its record -/

theorem Dev.fset_of_not_w1c {f : Fld} (hf : f.isW1c = false) (s : Dev) (i v : Nat) : (s.fset f i v).cyc.set = s.cyc.set := by
  simp [Dev.fset, Dev.mark, hf]

theorem Dev.fsets_cyc_set {l : List (Fld × Nat)} (hl : ∀ x ∈ l, x.1.isW1c = false) (s : Dev) (i : Nat) :
    (s.fsets i l).cyc.set = s.cyc.set := by
  induction l generalizing s with
  | nil => rfl
  | cons x l ih => exact (ih (fun y hy => hl y (.tail _ hy)) _).trans (Dev.fset_of_not_w1c (hl x (.head _)) s i x.2)

theorem Dev.firstEvent_of_not_valid {s : Dev} {valid : Fld} {i : Nat} (h : s.fbit valid i = false) (more : Option Fld)
    (details : List (Fld × Nat)) : s.firstEvent valid more i details = (s.fset valid i 1).fsets i details := by
  rw [Dev.firstEvent, if_neg (by simp [h])]

/-- A first event marks its VALID bit, which a write of the same core cycle then does not clear (R14). -/
theorem Dev.firstEvent_marks {s : Dev} {valid : Fld} {i : Nat} {details : List (Fld × Nat)} (h : s.fbit valid i = false)
    (hvalid : valid.isW1c = true) (hdetails : ∀ x ∈ details, x.1.isW1c = false) (hnone : s.cyc.set = []) (more : Option Fld) :
    (s.firstEvent valid more i details).cyc.set = [(regKey valid.reg i, 2 ^ valid.lo)] := by
  rw [Dev.firstEvent_of_not_valid h, Dev.fsets_cyc_set hdetails]
  simp [Dev.fset, Dev.mark, hvalid, hnone, tmod, tput, tget, tfind, tins]

/-- No violation is recorded after reset. -/
theorem reset_memViol_valid (n i : Nat) : ({ State.reset.dev with free := n } : Dev).fbit Fld.TM_MEM_VIOL.VALID i = false := by
  have hdefault : regDefault .TM_MEM_VIOL i = 0#64 := by
    show BitVec.ofNat 64 (tableReset (regInfo .TM_MEM_VIOL).fields) = 0#64
    decide
  have hget : ({ State.reset.dev with free := n } : Dev).rget .TM_MEM_VIOL i = (regDefault .TM_MEM_VIOL i).toNat := rfl
  rw [Dev.fbit, Dev.fget, hget, hdefault]
  decide

theorem memViolation_reset_marks (p : Plane) (write : Bool) (region addr : Nat) :
    (State.reset.dev.memViolation p write region addr).cyc.set ≠ [] := by
  have hdetails : ∀ x ∈ [(Fld.TM_MEM_VIOL.PLANE, planeCode p), (Fld.TM_MEM_VIOL.WRITE, b2n write), (Fld.TM_MEM_VIOL.REGION, region),
      (Fld.TM_MEM_VIOL.ADDR, addr)], x.1.isW1c = false := by
    simp only [List.forall_mem_cons, List.not_mem_nil, false_implies, implies_true, and_true]
    decide
  have hmarks := Dev.firstEvent_marks (reset_memViol_valid 1 (Config.freeNat 0 % 4)) (by decide) hdetails rfl
    (some Fld.TM_MEM_VIOL.MORE)
  intro hnone
  exact List.cons_ne_nil _ _ (hmarks.symm.trans hnone)

/-- Refutes O22: a blocked write also changes the marks of its core cycle, which keep a write of the same cycle from clearing the record
that it sets (R14). Here the data plane, right after reset, writes a byte of region 0, which belongs to the management plane. -/
theorem not_lpddr4xAccessTouchesItsBytes : ¬ Obligations.Lpddr4xAccessTouchesItsBytes := by
  unfold Obligations.Lpddr4xAccessTouchesItsBytes
  intro h
  have hon : State.reset.dev.On := by decide
  obtain ⟨t, _, hwrite, _, _, hframe, _⟩ := h .data 0 1 [1] State.reset.dev hon resetIsSound.1 (by decide) (by decide)
  have hblocked : lpddr4xAccess .data true 0 1 [1] State.reset.dev = State.reset.dev.memViolation .data true 0 0 := by
    have hmem : memBlocked .data true 0 1 = some (0, 0) := by decide
    simp [lpddr4xAccess, hmem]
  have hviolation : Does (.lpddr4xAccess .data true 0 1 [1]) State.reset.dev (State.reset.dev.memViolation .data true 0 0) := by
    intro q
    rw [exec_lpddr4xAccess, if_neg (by simp), State.act_on (s := { pending := q, dev := State.reset.dev }) hon, hblocked]
  have ht : t = State.reset.dev.memViolation .data true 0 0 := Does.unique hwrite hviolation
  have hcyc : t.cyc = State.reset.dev.cyc := by rw [hframe]
  exact memViolation_reset_marks .data true 0 0 (by rw [← ht, hcyc]; rfl)

/-! A store out of its turn -/

/-- Engine 0 has a store of the byte 1 to its cluster's SRAM in its buffer, and engine 1 has accessed that byte in this engine cycle. -/
def storeOutOfTurn : Dev :=
  { State.reset.dev with
    eng.eng := [(0, { sb := [{ seq := 0, tgt := .sram 0, data := [1] }] })]
    eng.turns := [{ cyc := 0, e := 1, space := 2, lo := 0, len := 1 }] }

theorem storeOutOfTurn_sound : storeOutOfTurn.Sound := resetIsSound.1

theorem storeOutOfTurn_waits : storeVisible 0 0 storeOutOfTurn = storeOutOfTurn := by
  have hturn : storeOutOfTurn.turnOk 0 [(.sram 0, 1)] = false := by decide
  have hsb : (storeOutOfTurn.en 0).sb.find? (fun t => t.seq == 0) = some { seq := 0, tgt := .sram 0, data := [1] } := by decide
  simp [storeVisible, hsb, hturn]

/-- Refutes O23: a store waits while an engine of a higher number has accessed its bytes in the same engine cycle (R523). -/
theorem not_storesTouchTheirBytes : ¬ Obligations.StoresTouchTheirBytes := by
  unfold Obligations.StoresTouchTheirBytes
  intro h
  have hon : storeOutOfTurn.On := by decide
  obtain ⟨u, hdoes, _, _, hbytes⟩ := h.1 0 0 0 { seq := 0, tgt := .sram 0, data := [1] } storeOutOfTurn hon storeOutOfTurn_sound (by decide)
    (by decide) rfl
  have hwaits : Does (.storeVisible 0 0) storeOutOfTurn storeOutOfTurn := Does.of_act (fun _ => rfl) hon storeOutOfTurn_waits
  have hu : u = storeOutOfTurn := Does.unique hdoes hwaits
  have hbyte := hbytes 0
  rw [hu] at hbyte
  exact absurd hbyte (by decide)

end Sys2Proof.Machine
end

section
/-! Reductions (R476 to R482): what combining a list of contributions gives, whatever the order and the grouping. -/
namespace Sys2Proof.Machine

/-! Sums -/

/-- A partial that holds the exact sum of a list of partials, their saturated count and their flags (R478). -/
def AccV.Sums (l : List AccV) (m : AccV) : Prop :=
  m.sum = (l.map AccV.sum).sum ∧ m.n = min (accMax + 1) (l.map AccV.n).sum ∧ m.nan = l.any AccV.nan ∧ m.pinf = l.any AccV.pinf ∧
    m.ninf = l.any AccV.ninf ∧ m.nz = l.all AccV.nz

theorem AccV.Sums.append {l r : List AccV} {a b : AccV} (ha : AccV.Sums l a) (hb : AccV.Sums r b) : AccV.Sums (l ++ r) (a.join b) := by
  obtain ⟨ha1, ha2, ha3, ha4, ha5, ha6⟩ := ha
  obtain ⟨hb1, hb2, hb3, hb4, hb5, hb6⟩ := hb
  have hn : min (accMax + 1) (a.n + b.n) = min (accMax + 1) ((l.map AccV.n).sum + (r.map AccV.n).sum) := by rw [ha2, hb2]; omega
  simp only [AccV.Sums, AccV.join, List.map_append, List.sum_append, List.any_append, List.all_append]
  exact ⟨by rw [ha1, hb1], hn, by rw [ha3, hb3], by rw [ha4, hb4], by rw [ha5, hb5], by rw [ha6, hb6]⟩

theorem AccV.Sums.unique {l : List AccV} {a b : AccV} (ha : AccV.Sums l a) (hb : AccV.Sums l b) : a = b := by
  obtain ⟨ha1, ha2, ha3, ha4, ha5, ha6⟩ := ha
  obtain ⟨hb1, hb2, hb3, hb4, hb5, hb6⟩ := hb
  cases a
  cases b
  simp_all only

theorem AccV.Sums.perm {l r : List AccV} (h : l.Perm r) {m : AccV} (hm : AccV.Sums l m) : AccV.Sums r m := by
  obtain ⟨h1, h2, h3, h4, h5, h6⟩ := hm
  exact ⟨h1.trans (h.map _).sum_eq, by rw [h2, (h.map _).sum_eq], h3.trans h.any_eq, h4.trans h.any_eq, h5.trans h.any_eq,
    h6.trans h.all_eq⟩

/-! Least and greatest -/

/-- A partial's place in exact order: the infinities outside, −0 just below +0 (R481). -/
def AccV.key (a : AccV) : Int ×ₗ Int :=
  if a.ninf = true then toLex (-1, 0) else if a.pinf = true then toLex (1, 0) else toLex (0, 2 * a.sum - (if a.nz = true then 1 else 0))

theorem AccV.before_iff (a b : AccV) : a.before b = true ↔ a.key < b.key := by
  have hfin : 2 * a.sum - (if a.nz = true then 1 else 0) < 2 * b.sum - (if b.nz = true then 1 else 0) ↔
      a.sum < b.sum ∨ (a.sum = b.sum ∧ a.nz = true ∧ b.nz = false) := by
    cases a.nz <;> cases b.nz <;> simp <;> omega
  unfold AccV.before AccV.key
  cases a.ninf <;> cases b.ninf <;> cases a.pinf <;> cases b.pinf <;> simp [Prod.Lex.toLex_lt_toLex, hfin, and_assoc]

/-- What MIN (1) or MAX takes before another partial. -/
def AccV.Beats (red : Nat) (a b : AccV) : Prop := if red = 1 then a.key < b.key else b.key < a.key

theorem AccV.Beats.trans {red : Nat} {a b c : AccV} (h : AccV.Beats red a b) (k : AccV.Beats red b c) : AccV.Beats red a c := by
  unfold AccV.Beats at *
  split_ifs at *
  · exact h.trans k
  · exact k.trans h

/-- What is not beaten stays so by what is not beaten by it. -/
theorem AccV.Beats.not_trans {red : Nat} {a b c : AccV} (h : ¬ AccV.Beats red a b) (k : ¬ AccV.Beats red b c) : ¬ AccV.Beats red a c := by
  unfold AccV.Beats at *
  split_ifs at *
  · exact not_lt.2 ((not_lt.1 k).trans (not_lt.1 h))
  · exact not_lt.2 ((not_lt.1 h).trans (not_lt.1 k))

/-- A contribution of an element: counted once, and its place in the order says all of it unless it is a NaN. -/
def AccV.Single (a : AccV) : Prop :=
  a.n = 1 ∧ (a.nan = true ∨ (a.ninf = true ∧ a.pinf = false ∧ a.sum = 0 ∧ a.nz = false) ∨
    (a.ninf = false ∧ a.pinf = true ∧ a.sum = 0 ∧ a.nz = false) ∨ (a.ninf = false ∧ a.pinf = false))

theorem AccV.add_single (t x : Nat) : (({} : AccV).add t x).Single := by
  unfold AccV.add
  dsimp only
  split
  · exact ⟨rfl, .inr (.inr (.inr ⟨rfl, rfl⟩))⟩
  · split
    · exact ⟨rfl, .inl rfl⟩
    · exact ⟨rfl, .inr (.inl ⟨rfl, rfl, rfl, rfl⟩)⟩
    · exact ⟨rfl, .inr (.inr (.inl ⟨rfl, rfl, rfl, rfl⟩))⟩
    · exact ⟨rfl, .inr (.inr (.inr ⟨rfl, rfl⟩))⟩
    · exact ⟨rfl, .inr (.inr (.inr ⟨rfl, rfl⟩))⟩
    · exact ⟨rfl, .inr (.inr (.inr ⟨rfl, rfl⟩))⟩

/-- Integers give no NaN. -/
theorem AccV.add_nan_of_int {t : Nat} (ht : typInt t = true) (x : Nat) : (({} : AccV).add t x).nan = false := by
  unfold AccV.add
  dsimp only
  rw [if_pos ht]

theorem AccV.Single.eq_of_key {a b : AccV} (ha : a.Single) (hb : b.Single) (hna : a.nan = false) (hnb : b.nan = false)
    (h : a.key = b.key) : a = b := by
  obtain ⟨sa, na, _, pa, ia, za⟩ := a
  obtain ⟨sb, nb, _, pb, ib, zb⟩ := b
  simp only [AccV.Single] at ha hb hna hnb
  obtain ⟨rfl, ha⟩ := ha
  obtain ⟨rfl, hb⟩ := hb
  subst hna hnb
  simp only [AccV.key] at h
  rcases ha with ha | ⟨rfl, rfl, rfl, rfl⟩ | ⟨rfl, rfl, rfl, rfl⟩ | ⟨rfl, rfl⟩
  · cases ha
  all_goals
    rcases hb with hb | ⟨rfl, rfl, rfl, rfl⟩ | ⟨rfl, rfl, rfl, rfl⟩ | ⟨rfl, rfl⟩
    · cases hb
    all_goals simp at h ⊢
  cases za <;> cases zb <;> simp at h ⊢ <;> omega

/-- What MIN or MAX of a list of contributions is: nothing of nothing, a NaN where one is among them, and else one of them that none
beats (R481). -/
def AccV.Picks (red : Nat) (l : List AccV) (m : AccV) : Prop :=
  if l = [] then m = {} else m.n = 1 ∧ m.nan = l.any AccV.nan ∧ (m.nan = false → m ∈ l ∧ ∀ x ∈ l, ¬ AccV.Beats red x m)

theorem AccV.picks_nil {red : Nat} {m : AccV} : AccV.Picks red [] m ↔ m = {} := by simp [AccV.Picks]

theorem AccV.picks_of_ne_nil {red : Nat} {l : List AccV} (h : l ≠ []) {m : AccV} : AccV.Picks red l m ↔
    m.n = 1 ∧ m.nan = l.any AccV.nan ∧ (m.nan = false → m ∈ l ∧ ∀ x ∈ l, ¬ AccV.Beats red x m) := by
  rw [AccV.Picks, if_neg h]

theorem AccV.Picks.single {red : Nat} {x : AccV} (h : x.Single) : AccV.Picks red [x] x := by
  have hself : ¬ AccV.Beats red x x := by
    unfold AccV.Beats
    split <;> exact lt_irrefl _
  rw [AccV.picks_of_ne_nil (by simp)]
  exact ⟨h.1, by simp, fun _ => ⟨List.mem_singleton_self x, by simpa using hself⟩⟩

/-- Of two partials without a NaN, the second is taken if it beats the first. -/
theorem AccV.combine_of_count {red : Nat} (hred : red ≠ 0) {a b : AccV} (ha : a.n = 1) (hb : b.n = 1) (hna : a.nan = false)
    (hnb : b.nan = false) : (AccV.Beats red b a ∧ a.combine red b = b) ∨ (¬ AccV.Beats red b a ∧ a.combine red b = a) := by
  have hc : a.combine red b = if red = 1 then (if b.before a then b else a) else (if a.before b then b else a) := by
    unfold AccV.combine
    rw [if_neg hred, if_neg (by omega), if_neg (by omega), if_neg (by simp [hna, hnb])]
  simp only [AccV.before_iff] at hc
  rw [hc]
  unfold AccV.Beats
  split_ifs with h1 h2 h2
  · exact .inl ⟨h2, rfl⟩
  · exact .inr ⟨h2, rfl⟩
  · exact .inl ⟨h2, rfl⟩
  · exact .inr ⟨h2, rfl⟩

theorem AccV.Picks.append {red : Nat} (hred : red ≠ 0) {l r : List AccV} {a b : AccV} (ha : AccV.Picks red l a)
    (hb : AccV.Picks red r b) : AccV.Picks red (l ++ r) (a.combine red b) := by
  rcases eq_or_ne l [] with rfl | hl
  · have hemp : a.combine red b = b := by
      rw [AccV.picks_nil.1 ha, AccV.combine, if_neg hred, if_pos rfl]
    rwa [hemp, List.nil_append]
  obtain ⟨han, hanan, hal⟩ := (AccV.picks_of_ne_nil hl).1 ha
  rcases eq_or_ne r [] with rfl | hr
  · have hemp : a.combine red b = a := by
      rw [AccV.picks_nil.1 hb, AccV.combine, if_neg hred, if_neg (by omega), if_pos rfl]
    rwa [hemp, List.append_nil]
  obtain ⟨hbn, hbnan, hbr⟩ := (AccV.picks_of_ne_nil hr).1 hb
  rw [AccV.picks_of_ne_nil (by simp [hl]), List.any_append, ← hanan, ← hbnan]
  by_cases hnan : a.nan = true ∨ b.nan = true
  · have hc : a.combine red b = { a with nan := true } := by
      rw [AccV.combine, if_neg hred, if_neg (by omega), if_neg (by omega), if_pos hnan]
    rw [hc]
    exact ⟨han, ((Bool.or_eq_true _ _).mpr hnan).symm, by simp⟩
  · obtain ⟨hna, hnb⟩ : a.nan = false ∧ b.nan = false := by simpa using hnan
    obtain ⟨hmem_a, hbest_a⟩ := hal hna
    obtain ⟨hmem_b, hbest_b⟩ := hbr hnb
    rcases AccV.combine_of_count hred han hbn hna hnb with ⟨hbeat, hc⟩ | ⟨hbeat, hc⟩
    · rw [hc]
      refine ⟨hbn, by simp [hna], fun _ => ⟨List.mem_append_right _ hmem_b, fun x hx => ?_⟩⟩
      rcases List.mem_append.1 hx with hx | hx
      · exact fun h => hbest_a x hx (h.trans hbeat)
      · exact hbest_b x hx
    · rw [hc]
      refine ⟨han, by simp [hnb], fun _ => ⟨List.mem_append_left _ hmem_a, fun x hx => ?_⟩⟩
      rcases List.mem_append.1 hx with hx | hx
      · exact hbest_a x hx
      · exact AccV.Beats.not_trans (hbest_b x hx) hbeat

theorem AccV.Picks.perm {red : Nat} {l r : List AccV} (h : l.Perm r) {m : AccV} (hm : AccV.Picks red l m) : AccV.Picks red r m := by
  rcases eq_or_ne l [] with rfl | hl
  · rwa [h.nil_eq.symm]
  · have hr : r ≠ [] := fun hr => hl (by subst hr; exact h.eq_nil)
    obtain ⟨hn, hnan, hbest⟩ := (AccV.picks_of_ne_nil hl).1 hm
    rw [AccV.picks_of_ne_nil hr]
    exact ⟨hn, hnan.trans h.any_eq, fun hno => ⟨h.mem_iff.1 (hbest hno).1, fun x hx => (hbest hno).2 x (h.mem_iff.2 hx)⟩⟩

/-- A partial of a NaN has the canonical NaN as its result, whatever else it holds (R479). -/
theorem AccV.result_of_nan {t : Nat} (ht : typInt t = false) (mode : Nat) {a : AccV} (hn : a.n = 1) (ha : a.nan = true) :
    a.result t mode = (fnan t, flagNan) := by
  have hroom : ¬ a.headroom = true := by simp [AccV.headroom, hn]
  rw [AccV.result, if_neg (by simp [ht]), fltResult, if_neg hroom, if_pos (.inl ha)]

/-- Contributions of one type determine the result of what MIN or MAX picks of them. -/
theorem AccV.Picks.result_unique {red t mode : Nat} {vals : List Nat} {a b : AccV} (ha : AccV.Picks red (elemAccs t vals) a)
    (hb : AccV.Picks red (elemAccs t vals) b) : a.result t mode = b.result t mode := by
  by_cases hl : elemAccs t vals = []
  · rw [hl, AccV.picks_nil] at ha hb
    rw [ha, hb]
  obtain ⟨han, hanan, hal⟩ := (AccV.picks_of_ne_nil hl).1 ha
  obtain ⟨hbn, hbnan, hbl⟩ := (AccV.picks_of_ne_nil hl).1 hb
  have hsingle : ∀ x ∈ elemAccs t vals, x.Single := by
    intro x hx
    obtain ⟨v, -, rfl⟩ := List.mem_map.1 hx
    exact AccV.add_single t v
  cases hnan : a.nan with
  | true =>
    have ht : typInt t = false := by
      by_contra ht
      simp only [Bool.not_eq_false] at ht
      rw [hanan, elemAccs, List.any_map, List.any_eq_true] at hnan
      obtain ⟨v, -, hv⟩ := hnan
      rw [Function.comp_apply, AccV.add_nan_of_int ht] at hv
      cases hv
    rw [AccV.result_of_nan ht mode han hnan, AccV.result_of_nan ht mode hbn (hbnan.trans (hanan.symm.trans hnan))]
  | false =>
    have hnb : b.nan = false := hbnan.trans (hanan.symm.trans hnan)
    obtain ⟨hma, hba⟩ := hal hnan
    obtain ⟨hmb, hbb⟩ := hbl hnb
    have hkey : a.key = b.key := by
      have h1 := hba b hmb
      have h2 := hbb a hma
      unfold AccV.Beats at h1 h2
      split_ifs at h1 h2
      · exact le_antisymm (not_lt.1 h1) (not_lt.1 h2)
      · exact le_antisymm (not_lt.1 h2) (not_lt.1 h1)
    rw [(hsingle a hma).eq_of_key (hsingle b hmb) hnan hnb hkey]

/-! Any operation -/

/-- What an operation makes of a list of contributions. -/
def AccV.Reduces (red : Nat) (l : List AccV) (m : AccV) : Prop := if red = 0 then AccV.Sums l m else AccV.Picks red l m

section
variable {red : Nat}

theorem AccV.Reduces.empty : AccV.Reduces red [] {} := by
  unfold AccV.Reduces
  split
  · exact ⟨rfl, rfl, rfl, rfl, rfl, rfl⟩
  · exact AccV.picks_nil.2 rfl

theorem AccV.Reduces.single {x : AccV} (h : x.Single) : AccV.Reduces red [x] x := by
  unfold AccV.Reduces
  split
  · have hn : x.n = min (accMax + 1) x.n := by rw [h.1]; rfl
    exact ⟨by simp, by simpa using hn, by simp, by simp, by simp, by simp⟩
  · exact .single h

theorem AccV.Reduces.append {l r : List AccV} {a b : AccV} (ha : AccV.Reduces red l a) (hb : AccV.Reduces red r b) :
    AccV.Reduces red (l ++ r) (a.combine red b) := by
  unfold AccV.Reduces at *
  split_ifs at * with h
  · rw [AccV.combine, if_pos h]
    exact ha.append hb
  · exact ha.append h hb

theorem AccV.Reduces.perm {l r : List AccV} (h : l.Perm r) {m : AccV} (hm : AccV.Reduces red l m) : AccV.Reduces red r m := by
  unfold AccV.Reduces at *
  split_ifs at *
  · exact AccV.Sums.perm h hm
  · exact AccV.Picks.perm h hm

theorem AccV.Reduces.result_unique {t mode : Nat} {vals : List Nat} {a b : AccV} (ha : AccV.Reduces red (elemAccs t vals) a)
    (hb : AccV.Reduces red (elemAccs t vals) b) : a.result t mode = b.result t mode := by
  unfold AccV.Reduces at *
  split_ifs at *
  · rw [ha.unique hb]
  · exact ha.result_unique hb

/-- Combining partials of groups, one after the other, gives what the operation makes of all their contributions. -/
theorem AccV.Reduces.foldl {α : Type} (part : α → List AccV) (val : α → AccV) (hpart : ∀ x, AccV.Reduces red (part x) (val x)) (xs : List α)
    {l : List AccV} {a : AccV} (ha : AccV.Reduces red l a) :
    AccV.Reduces red (l ++ xs.flatMap part) ((xs.map val).foldl (fun a b => a.combine red b) a) := by
  induction xs generalizing l a with
  | nil => simpa using ha
  | cons x xs ih =>
    have hx := ih (ha.append (hpart x))
    rwa [List.append_assoc, ← List.flatMap_cons] at hx

theorem AccV.reduces_elems (red t : Nat) (vals : List Nat) :
    AccV.Reduces red (elemAccs t vals) ((elemAccs t vals).foldl (fun a b => a.combine red b) ({} : AccV)) := by
  have h := AccV.Reduces.foldl (fun x => [({} : AccV).add t x]) (fun x => ({} : AccV).add t x)
    (fun x => .single (AccV.add_single t x)) vals (AccV.Reduces.empty (red := red))
  rwa [List.nil_append, ← List.map_eq_flatMap] at h

theorem AccV.reduces_groups (red t : Nat) (ls : List (List Nat)) :
    AccV.Reduces red (elemAccs t ls.flatten)
      ((ls.map fun l => (elemAccs t l).foldl (fun a b => a.combine red b) ({} : AccV)).foldl (fun a b => a.combine red b) ({} : AccV)) := by
  have h := AccV.Reduces.foldl (elemAccs t) (fun l => (elemAccs t l).foldl (fun a b => a.combine red b) ({} : AccV))
    (AccV.reduces_elems red t) ls (AccV.Reduces.empty (red := red))
  have hflat : elemAccs t ls.flatten = ls.flatMap (elemAccs t) := by
    rw [elemAccs, List.map_flatten, List.flatMap]
    rfl
  rwa [List.nil_append, ← hflat] at h

end

/-- Settles O18: the contributions alone say what the operation makes of them, by `AccV.Reduces`: their exact sum, or one that none of
them beats. -/
theorem reductionsIgnoreOrder : Obligations.ReductionsIgnoreOrder := by
  unfold Obligations.ReductionsIgnoreOrder
  refine ⟨fun red t mode l r h => ?_, fun red t mode ls => ?_⟩
  · exact ((AccV.reduces_elems red t l).perm (h.map _)).result_unique (AccV.reduces_elems red t r)
  · exact (AccV.reduces_groups red t ls).result_unique (AccV.reduces_elems red t ls.flatten)

end Sys2Proof.Machine
end

section
/-! The frame of an engine operation (R496, R620): its count of operations may run over, which marks the core cycle. -/
namespace Sys2Proof.Machine

/-- Engine 64 is about to run the operation word `op`, `w` for the first time since its counter of operations reached its greatest
value. -/
def counterFull (op : Nat) (w : OpWord) : Dev :=
  { (State.reset.dev.setEnState 64 enRun).rset .EN_OP_CNT 64 (2 ^ 48 - 1) with
    eng.eng := [(64, { run := some 0 })]
    eng.runs := [(0, { vs := 0, fn := 0, q := 0, desc := {}, slot := 0, cluster := 4, engines := [64], startAt := 0, limitAt := 0 })]
    eng.progs := [(0, { state := 3, image := List.replicate 8 0 ++ [1, 0, 0, 0] ++ List.replicate 52 0 ++ leBytes 8 (opWord op w) })] }

/-- Refutes O19: a count that runs over is marked in the core cycle, so that a write of the same cycle does not clear it (R14). Here MOV
of g1 to g2, with EN_OP_CNT at 2^48 − 1. -/
theorem not_registerOperationsKeepTheRest : ¬ Obligations.RegisterOperationsKeepTheRest := by
  unfold Obligations.RegisterOperationsKeepTheRest
  intro h
  have hon : (counterFull 0x20 { d := 2, a := 1 }).On := by decide
  obtain ⟨t, hdoes, hframe, -⟩ := h 64 { d := 2, a := 1 } (counterFull 0x20 { d := 2, a := 1 }) hon rfl _ (.head _) (by decide +kernel)
  have ht : t = mov 64 { d := 2, a := 1 } (counterFull 0x20 { d := 2, a := 1 }) := Does.unique hdoes (Does.of_act (fun _ => rfl) hon rfl)
  have hmarks : (mov 64 { d := 2, a := 1 } (counterFull 0x20 { d := 2, a := 1 })).cyc.set ≠ [] := by decide +kernel
  have hcyc : t.cyc = (counterFull 0x20 { d := 2, a := 1 }).cyc := by rw [hframe]
  exact hmarks (by rw [← ht, hcyc]; rfl)

/-- Refutes O20: as for the register operations. Here VBC of g1 to v2. -/
theorem not_vectorOperationsKeepTheRest : ¬ Obligations.VectorOperationsKeepTheRest := by
  unfold Obligations.VectorOperationsKeepTheRest
  intro h
  have hon : (counterFull 0x45 { d := 2, a := 1 }).On := by decide
  obtain ⟨t, hdoes, hframe, -⟩ := h 64 { d := 2, a := 1 } (counterFull 0x45 { d := 2, a := 1 }) hon (by decide) (by decide) _
    (List.getLast_mem (by simp)) (by decide +kernel) (by decide)
  have ht : t = vbc 64 { d := 2, a := 1 } (counterFull 0x45 { d := 2, a := 1 }) := Does.unique hdoes (Does.of_act (fun _ => rfl) hon rfl)
  have hmarks : (vbc 64 { d := 2, a := 1 } (counterFull 0x45 { d := 2, a := 1 })).cyc.set ≠ [] := by decide +kernel
  have hcyc : t.cyc = (counterFull 0x45 { d := 2, a := 1 }).cyc := by rw [hframe]
  exact hmarks (by rw [← ht, hcyc]; rfl)

end Sys2Proof.Machine
end

section
/-! The operation word (R496) and the issue of the word at an engine's pc. -/
namespace Sys2Proof.Machine

theorem opWord_lt {op : Nat} {w : OpWord} (hop : op < 256) (hw : w.wf = true) : opWord op w < 2 ^ 64 := by
  simp only [OpWord.wf, Bool.and_eq_true, decide_eq_true_eq] at hw
  obtain ⟨⟨⟨⟨⟨hd, ha⟩, hb⟩, hm⟩, hr⟩, hi⟩ := hw
  unfold opWord
  omega

theorem opWordOf_opWord {op : Nat} {w : OpWord} (hop : op < 256) (hw : w.wf = true) : opWordOf (opWord op w) = (op, w) := by
  simp only [OpWord.wf, Bool.and_eq_true, decide_eq_true_eq] at hw
  obtain ⟨⟨⟨⟨⟨hd, ha⟩, hb⟩, hm⟩, hr⟩, hi⟩ := hw
  obtain ⟨d, a, b, m, r, i⟩ := w
  simp only [opWordOf, opWord, Prod.mk.injEq, OpWord.mk.injEq] at *
  omega

theorem opWord_opWordOf {x : Nat} (hx : x < 2 ^ 64) : opWord (opWordOf x).1 (opWordOf x).2 = x := by
  simp only [opWord, opWordOf]
  omega

/-- An engine that could issue but has no word with an assigned code at its pc faults (R497). -/
theorem Dev.runOp_unassigned {s : Dev} {op e : Nat} {w : OpWord} {legal : Bool} {gs vs : List Nat} {f : Dev → Dev}
    (hcan : s.canIssue e = true)
    (hword : s.wordAt e = none ∨ ∃ x, (s.wordAt e).map opWordOf = some x ∧ opAssigned x.1 = false) :
    s.runOp op e w legal gs vs f = (s.issued e).engFaultOpen e 1 := by
  unfold Dev.runOp
  rw [if_neg (by simp [hcan])]
  rcases hword with hnone | ⟨x, hsome, hop⟩
  · rw [hnone]
    rfl
  · rw [hsome]
    exact if_pos hop

/-- What an operation does where the word at the pc is not its own. -/
theorem Does.regOp_not_own {c : Instr} {s : Dev} {op e : Nat} {w : OpWord} {g : Dev → Dev} (hc : ∀ x : State, exec c x = x.act g)
    (hon : s.On) (hcan : s.canIssue e = true) {legal : Bool} {gs vs : List Nat} {f : Dev → Dev} (hg : g s = s.regOp op e w legal gs vs f) :
    (∀ x, (s.wordAt e).map opWordOf = some x → opAssigned x.1 = true → x ≠ (op, w) → Does c s s) ∧
      ((s.wordAt e = none ∨ ∃ x, (s.wordAt e).map opWordOf = some x ∧ opAssigned x.1 = false) →
        Does c s ((s.issued e).engFaultOpen e 1)) :=
  ⟨fun _ hx ha hne => Does.of_act hc hon (hg.trans (Dev.runOp_other hx ha hne)),
    fun hword => Does.of_act hc hon (hg.trans (Dev.runOp_unassigned hcan hword))⟩

/-- Settles O21: the word's fields are its digits; and the thirteen operations share `Dev.runOp`, which does nothing at another word and
faults at none. -/
theorem engineRunsTheWordAtItsPc : Obligations.EngineRunsTheWordAtItsPc := by
  unfold Obligations.EngineRunsTheWordAtItsPc
  refine ⟨fun op w hop hw => ⟨opWord_lt hop hw, opWordOf_opWord hop hw⟩, fun x hx => opWord_opWordOf hx, fun e w s hon hcan => ?_⟩
  simp only [List.forall_mem_cons, List.not_mem_nil, false_implies, implies_true, and_true]
  exact ⟨Does.regOp_not_own (g := mov e w) (fun _ => rfl) hon hcan rfl,
    Does.regOp_not_own (g := movi e w) (fun _ => rfl) hon hcan rfl,
    Does.regOp_not_own (g := movh e w) (fun _ => rfl) hon hcan rfl,
    Does.regOp_not_own (g := add e w) (fun _ => rfl) hon hcan rfl,
    Does.regOp_not_own (g := addi e w) (fun _ => rfl) hon hcan rfl,
    Does.regOp_not_own (g := sub e w) (fun _ => rfl) hon hcan rfl,
    Does.regOp_not_own (g := mul e w) (fun _ => rfl) hon hcan rfl,
    Does.regOp_not_own (g := andOp e w) (fun _ => rfl) hon hcan rfl,
    Does.regOp_not_own (g := orOp e w) (fun _ => rfl) hon hcan rfl,
    Does.regOp_not_own (g := xorOp e w) (fun _ => rfl) hon hcan rfl,
    Does.regOp_not_own (g := shl e w) (fun _ => rfl) hon hcan rfl,
    Does.regOp_not_own (g := shr e w) (fun _ => rfl) hon hcan rfl,
    Does.regOp_not_own (g := slt e w) (fun _ => rfl) hon hcan rfl⟩

end Sys2Proof.Machine
end

section
/-! What the power-entry controller leaves of the device state (R560): a slot's trip, and the loss of the link below it, reach the ports,
their packets and their registers, and never the management service. -/
namespace Sys2Proof.Machine

/-! Ports and packets -/

@[simp] theorem Dev.setPfn_svc (s : Dev) (vs n : Nat) (f : PortFn) : (s.setPfn vs n f).svc = s.svc := rfl
@[simp] theorem Dev.modPfn_svc (s : Dev) (vs n : Nat) (g : PortFn → PortFn) : (s.modPfn vs n g).svc = s.svc := rfl
@[simp] theorem Dev.modVd_svc (s : Dev) (vs n : Nat) (g : VdspSt → VdspSt) : (s.modVd vs n g).svc = s.svc := rfl
@[simp] theorem Dev.modPport_svc (s : Dev) (n : Nat) (g : PciPort → PciPort) : (s.modPport n g).svc = s.svc := rfl
@[simp] theorem Dev.modLane_svc (s : Dev) (i : Nat) (f : Lane → Lane) : (s.modLane i f).svc = s.svc := rfl
@[simp] theorem Dev.modSlot_svc (s : Dev) (k : Nat) (f : SlotCh → SlotCh) : (s.modSlot k f).svc = s.svc := rfl
@[simp] theorem Dev.putPkt_svc (s : Dev) (pid : Nat) (p : Pkt) : (s.putPkt pid p).svc = s.svc := rfl
@[simp] theorem Dev.pin_svc (s : Dev) (name : String) (i : Nat) (level : Bool) : (s.pin name i level).svc = s.svc := rfl
@[simp] theorem Dev.oweToken_svc (s : Dev) (src dst par : Nat) : (s.oweToken src dst par).svc = s.svc := rfl
@[simp] theorem Dev.shelfReturn_svc (s : Dev) (port n : Nat) : (s.shelfReturn port n).svc = s.svc := rfl
@[simp] theorem Dev.ctlPacket_svc (s : Dev) (dgpa : Nat) (b : List Byte) : (s.ctlPacket dgpa b).svc = s.svc := rfl
@[simp] theorem Dev.answer_svc (s : Dev) (p : Pkt) (t : Tlp) (status completer : Nat) : (s.answer p t status completer).svc = s.svc := rfl
@[simp] theorem Dev.synthesize_svc (s : Dev) (p : Pkt) (t : Tlp) : (s.synthesize p t).svc = s.svc := rfl
@[simp] theorem Dev.watchBreak_svc (s : Dev) (i : Nat) : (s.watchBreak i).svc = s.svc := rfl

@[simp] theorem Dev.firstEvent_svc (s : Dev) (valid : Fld) (more : Option Fld) (i : Nat) (details : List (Fld × Nat)) :
    (s.firstEvent valid more i details).svc = s.svc := by
  unfold Dev.firstEvent
  split
  · cases more <;> rfl
  · simp

@[simp] theorem Dev.dropLog_svc (s : Dev) (p : Pkt) (reason : Nat) : (s.dropLog p reason).svc = s.svc := by
  simp [Dev.dropLog, Dev.errLog]

@[simp] theorem Dev.delPkt_svc (s : Dev) (pid : Nat) : (s.delPkt pid).svc = s.svc := by
  unfold Dev.delPkt
  dsimp only
  split
  · split <;> rfl
  · rfl

@[simp] theorem Dev.drop_svc (s : Dev) (pid : Nat) (p : Pkt) : (s.drop pid p).svc = s.svc := by
  unfold Dev.drop
  split <;> simp

@[simp] theorem Dev.perrReport_svc (s : Dev) (p : Pkt) (reason : Nat) : (s.perrReport p reason).svc = s.svc := by
  unfold Dev.perrReport
  dsimp only
  split <;> rfl

@[simp] theorem Dev.discardFar_svc (s : Dev) (pid reason : Nat) : (s.discardFar pid reason).svc = s.svc := by
  unfold Dev.discardFar
  split
  · rfl
  · next p _ =>
    have howed : (if (p.arrEnv.map (·.tok)).getD p.tok = true then
        (s.dropLog p reason).oweToken (gpaFsid (s.sourceGpa p)) (gpaFsid p.dest) p.par else s.dropLog p reason).svc = s.svc :=
      Dev.ite_svc (by simp) (by simp)
    dsimp only
    rw [Dev.drop_svc]
    split
    · rw [Dev.perrReport_svc, howed]
    · rw [Dev.synthesize_svc, howed]
    · exact Dev.ite_svc (by rw [Dev.count_svc, howed]) howed
    · exact howed

@[simp] theorem Dev.flushPort_svc (s : Dev) (n : Nat) : (s.flushPort n).svc = s.svc :=
  each_keeps (·.svc) (fun s pid => Dev.discardFar_svc s pid 7) (s.heldFor n) s

/-! What the host is told -/

@[simp] theorem Dev.vdspInt_svc (s : Dev) (vs n : Nat) : (s.vdspInt vs n).svc = s.svc := by
  unfold Dev.vdspInt
  dsimp only
  repeat' split
  all_goals rfl

@[simp] theorem Dev.hotplug_svc (s : Dev) (vs n bit : Nat) : (s.hotplug vs n bit).svc = s.svc := by
  unfold Dev.hotplug
  dsimp only
  split <;> simp

@[simp] theorem Dev.noteLink_svc (s : Dev) (vs n st : Nat) : (s.noteLink vs n st).svc = s.svc := by
  unfold Dev.noteLink
  dsimp only
  split <;> split <;> simp

@[simp] theorem Dev.syncPresence_svc (s : Dev) (vs n : Nat) : (s.syncPresence vs n).svc = s.svc := by
  unfold Dev.syncPresence
  dsimp only
  split <;> simp

@[simp] theorem Dev.dpcFree_svc (s : Dev) (vs n : Nat) : (s.dpcFree vs n).svc = s.svc := by
  unfold Dev.dpcFree
  dsimp only
  split <;> rfl

@[simp] theorem Dev.portSays_svc (s : Dev) (vs n st : Nat) (x : PortNotice) : (s.portSays vs n st x).svc = s.svc := by
  unfold Dev.portSays
  dsimp only
  repeat' split
  all_goals simp

@[simp] theorem Dev.tellHost_svc (s : Dev) (p : Nat) (x : PortNotice) : (s.tellHost p x).svc = s.svc := by
  unfold Dev.tellHost
  split
  · rfl
  · exact Dev.ite_svc (by simp) (by simp)

@[simp] theorem Dev.linkDown_svc (s : Dev) (n ltssm : Nat) : (s.linkDown n ltssm).svc = s.svc := by
  unfold Dev.linkDown
  rw [Dev.tellHost_svc, Dev.modPport_svc, Dev.fsets_svc]
  exact each_keeps (·.svc) Dev.watchBreak_svc (s.lanesOf n) s

/-! Errors and containment -/

@[simp] theorem Dev.aerLog_svc (s : Dev) (vs n : Nat) (e : PcieErr) (hdr : HdrLog) : (s.aerLog vs n e hdr).svc = s.svc := by
  unfold Dev.aerLog
  dsimp only
  split <;> rfl

@[simp] theorem Dev.errNotice_svc (s : Dev) (vs n : Nat) (e : Option PcieErr) (hdr : HdrLog) (trig : Option (Nat × Nat)) :
    (s.errNotice vs n e hdr trig).svc = s.svc := by
  unfold Dev.errNotice
  split <;> rfl

@[simp] theorem Dev.lockNotice_svc (s : Dev) (vs : Nat) : (s.lockNotice vs).svc = s.svc := by
  unfold Dev.lockNotice
  split <;> rfl

@[simp] theorem Dev.lockLost_svc (s : Dev) (t : Trick) : (s.lockLost t).svc = s.svc := by
  unfold Dev.lockLost
  rw [Dev.lockNotice_svc]
  split
  · exact Dev.ite_svc (by simp) (by simp)
  · rfl

@[simp] theorem Dev.dropLockTricks_svc (s : Dev) (n : Nat) : (s.dropLockTricks n).svc = s.svc := by
  refine each_keeps (·.svc) (fun s k => ?_) (tkeys s.arb) s
  rfl

@[simp] theorem Dev.containPort_svc (s : Dev) (n : Nat) : (s.containPort n).svc = s.svc := by
  unfold Dev.containPort
  rw [Dev.flushPort_svc, Dev.dropLockTricks_svc, each_keeps (·.svc) Dev.lockLost_svc, Dev.linkDown_svc]

@[simp] theorem Dev.dpcStatus_svc (s : Dev) (vs n reason src : Nat) : (s.dpcStatus vs n reason src).svc = s.svc := by
  unfold Dev.dpcStatus
  dsimp only
  split <;> split <;> simp

@[simp] theorem Dev.dpcTrigger_svc (s : Dev) (vs n reason src : Nat) : (s.dpcTrigger vs n reason src).svc = s.svc := by
  unfold Dev.dpcTrigger
  have hstatus : (if s.vsExists vs = true ∧ ¬ (s.pfn vs n).dpcStat.testBit 0 = true then s.dpcStatus vs n reason src else s).svc = s.svc :=
    Dev.ite_svc (by simp) rfl
  dsimp only
  split
  · exact hstatus
  · exact Dev.ite_svc (Dev.ite_svc hstatus (by rw [Dev.containPort_svc]; exact hstatus)) hstatus

@[simp] theorem Dev.aer_svc (s : Dev) (vs n : Nat) (e : PcieErr) (hdr : HdrLog) : (s.aer vs n e hdr).svc = s.svc := by
  unfold Dev.aer
  dsimp only
  split <;> split <;> simp

@[simp] theorem Dev.deviceDown_svc (s : Dev) (n : Nat) : (s.deviceDown n).svc = s.svc := by
  unfold Dev.deviceDown
  split <;> simp

@[simp] theorem Dev.dataDown_svc (s : Dev) (n : Nat) (hotReset : Bool) : (s.dataDown n hotReset).svc = s.svc := by
  unfold Dev.dataDown
  dsimp only
  repeat' split
  all_goals simp

/-! The controller -/

@[simp] theorem Dev.slotDown_svc (s : Dev) (k st : Nat) : (s.slotDown k st).svc = s.svc := by
  have hpins : ∀ t : Dev, (((t.pin "SLOT_GATE" k false).pin "SLOT_PFW_N" k false).pin "SLOT_PERST_N" k false).svc = t.svc := fun _ => rfl
  have hgate : ((s.modSlot k fun c => { c with state := st, pfw := true, offAt := none }).fset Fld.PCI_SLOT_STAT.POWERED k 0).svc = s.svc := by
    rw [Dev.fset_svc, Dev.modSlot_svc]
  unfold Dev.slotDown
  generalize (s.modSlot k fun c => { c with state := st, pfw := true, offAt := none }).fset Fld.PCI_SLOT_STAT.POWERED k 0 = s1 at hgate ⊢
  exact Dev.ite_svc (by rw [Dev.dataDown_svc, Dev.modPport_svc, hpins]; exact hgate) (by rw [hpins]; exact hgate)

@[simp] theorem Dev.slotTrip_svc (s : Dev) (k cause : Nat) : (s.slotTrip k cause).svc = s.svc := by
  unfold Dev.slotTrip
  dsimp only
  have htold : ∀ t : Dev, t.svc = s.svc →
      (if s.fbit Fld.PCI_SLOT_MAP.EN k = true then t.tellHost (s.fget Fld.PCI_SLOT_MAP.PORT k) { fault := true } else t).svc = s.svc :=
    fun t ht => Dev.ite_svc (by rw [Dev.tellHost_svc, ht]) ht
  refine Dev.ite_svc (htold _ (by simp)) ?_
  rw [Dev.raise_svc]
  exact htold _ (by simp)

@[simp] theorem Dev.raisePower_svc (s : Dev) : s.raisePower.svc = s.svc := Dev.ite_svc rfl (Dev.raise_svc ..)

@[simp] theorem Dev.waitRamp_svc (s : Dev) : s.waitRamp.svc = s.svc := by
  unfold Dev.waitRamp
  dsimp only
  repeat' split
  all_goals rfl

@[simp] theorem Dev.transfer_svc (s : Dev) (f : Nat) (x : PeSample) : (s.transfer f x).svc = s.svc := by
  unfold Dev.transfer
  dsimp only
  rw [Dev.raisePower_svc]

@[simp] theorem Dev.storeEnergy_svc (s : Dev) : s.storeEnergy.svc = s.svc := rfl

theorem Dev.moduleTrip_off (s : Dev) (cause : Nat) : (s.moduleTrip cause).svc.state = stOff := rfl

theorem ite_off {c : Prop} [Decidable c] {a b : Dev} (ha : a.svc.state = stOff) (hb : b.svc.state = stOff) :
    (if c then a else b).svc.state = stOff := by
  split <;> assumption

theorem controllerStop_off {x : PeSample} {s : Dev} (h : s.svc.state = stOff) : (controllerStop x s).svc.state = stOff := by
  unfold controllerStop
  refine ite_off h ?_
  dsimp only
  rw [each_keeps (·.svc) fun s k => Dev.slotDown_svc s k slOff]
  rfl

theorem sagWarn_off {x : PeSample} {s : Dev} (h : s.svc.state = stOff) : (sagWarn x s).svc.state = stOff := by
  unfold sagWarn
  refine ite_off h ?_
  dsimp only
  rw [Dev.raisePower_svc, Dev.storeEnergy_svc, Dev.pin_svc]
  exact ite_off h h

theorem feedRevert_off {x : PeSample} {s : Dev} (h : s.svc.state = stOff) : (feedRevert x s).svc.state = stOff := by
  unfold feedRevert
  exact ite_off (ite_off (by rw [Dev.transfer_svc]; exact h) h) h

/-- Of an event of the controller's own, none but POWER_GOOD leaves OFF. -/
theorem controller_keeps_off {c : Instr} (hc : c.ofController = true) (hgood : c ≠ .powerGood) :
    ∃ f : Dev → Dev, (∀ s : State, exec c s = s.actPe f) ∧ ∀ s : Dev, s.svc.state = stOff → (f s).svc.state = stOff := by
  cases c with
  | powerGood => exact absurd rfl hgood
  | controllerStart x => exact ⟨controllerStart x, fun _ => rfl, fun s h => ite_off h h⟩
  | feedUsable f x =>
    refine ⟨feedUsable f x, fun _ => rfl, fun s h => ite_off h (ite_off ?_ h)⟩
    rw [Dev.waitRamp_svc]
    exact h
  | feedLost f why x => exact ⟨feedLost f why x, fun _ => rfl, fun s h => ite_off h h⟩
  | transferBreakEnd =>
    refine ⟨transferBreakEnd, fun _ => rfl, fun s h => ?_⟩
    unfold transferBreakEnd
    split
    · exact ite_off h h
    · exact h
  | transferEnd x => exact ⟨transferEnd x, fun _ => rfl, fun s h => ite_off h h⟩
  | feedRevert x => exact ⟨feedRevert x, fun _ => rfl, fun s h => feedRevert_off h⟩
  | rampEnd x => exact ⟨rampEnd x, fun _ => rfl, fun s h => ite_off h h⟩
  | inrushFaultTimeout => exact ⟨inrushFaultTimeout, fun _ => rfl, fun s h => ite_off (s.moduleTrip_off 2) h⟩
  | railFaultTimeout =>
    refine ⟨railFaultTimeout, fun _ => rfl, fun s h => ?_⟩
    unfold railFaultTimeout
    split
    · exact ite_off (s.moduleTrip_off 3) h
    · exact h
  | fastTrip f ma => exact ⟨fastTrip f ma, fun _ => rfl, fun s h => ite_off (s.moduleTrip_off 1) h⟩
  | breakerTrip f pt ma => exact ⟨breakerTrip f pt ma, fun _ => rfl, fun s h => ite_off (s.moduleTrip_off (0x10 + pt)) h⟩
  | latchRelease =>
    refine ⟨latchRelease, fun _ => rfl, fun s h => ite_off ?_ h⟩
    rw [Dev.waitRamp_svc]
    exact h
  | controllerStop x => exact ⟨controllerStop x, fun _ => rfl, fun s h => controllerStop_off h⟩
  | sagWarn x => exact ⟨sagWarn x, fun _ => rfl, fun s h => sagWarn_off h⟩
  | pfwRelease x => exact ⟨pfwRelease x, fun _ => rfl, fun s h => ite_off h h⟩
  | sagReset x => exact ⟨sagReset x, fun _ => rfl, fun s h => ite_off h h⟩
  | energyStore => exact ⟨energyStore, fun _ => rfl, fun s h => ite_off h h⟩
  | slotPowerGood k mv =>
    refine ⟨slotPowerGood k mv, fun _ => rfl, fun s h => ite_off ?_ h⟩
    have hgate : ((s.modSlot k fun c => { c with state := slOn, at_ := s.now }).fset Fld.PCI_SLOT_STAT.POWERED k 1).svc = s.svc := by
      rw [Dev.fset_svc, Dev.modSlot_svc]
    generalize (s.modSlot k fun c => { c with state := slOn, at_ := s.now }).fset Fld.PCI_SLOT_STAT.POWERED k 1 = s1 at hgate ⊢
    rw [← hgate] at h
    exact h
  | slotStartTimeout k => exact ⟨slotStartTimeout k, fun _ => rfl, fun s h => ite_off (by rw [Dev.slotTrip_svc]; exact h) h⟩
  | slotFastTrip k ma => exact ⟨slotFastTrip k ma, fun _ => rfl, fun s h => ite_off (by rw [Dev.slotTrip_svc]; exact h) h⟩
  | slotFaultTimeTrip k ma => exact ⟨slotFaultTimeTrip k ma, fun _ => rfl, fun s h => ite_off (by rw [Dev.slotTrip_svc]; exact h) h⟩
  | slotVoutTrip k mv => exact ⟨slotVoutTrip k mv, fun _ => rfl, fun s h => ite_off (by rw [Dev.slotTrip_svc]; exact h) h⟩
  | slotRetryEnd k =>
    refine ⟨slotRetryEnd k, fun _ => rfl, fun s h => ?_⟩
    unfold slotRetryEnd
    split
    · exact ite_off h h
    · exact h
  | slotCountRestart k => exact ⟨slotCountRestart k, fun _ => rfl, fun s h => ite_off h h⟩
  | slotPresenceLoss k => exact ⟨slotPresenceLoss k, fun _ => rfl, fun s h => ite_off h (ite_off h h)⟩
  | slotSag k mv => exact ⟨slotSag k mv, fun _ => rfl, fun s h => ite_off h h⟩
  | slotPfwRelease k mv => exact ⟨slotPfwRelease k mv, fun _ => rfl, fun s h => ite_off h h⟩
  | _ => cases hc

/-- Settles O28: a command that is no event of the controller's leaves the switch, and an event of the controller's keeps it OFF. -/
theorem onlyPowerGoodLeavesOff : Obligations.OnlyPowerGoodLeavesOff := by
  unfold Obligations.OnlyPowerGoodLeavesOff
  intro c s t hoff hgood h
  cases hc : c.ofController with
  | false =>
    rw [exec_off hoff hc] at h
    cases h
    exact hoff
  | true =>
    obtain ⟨f, hexec, hkeeps⟩ := controller_keeps_off hc hgood
    rw [hexec] at h
    cases h
    exact hkeeps s.dev hoff

end Sys2Proof.Machine
end

section
/-! End-to-end delivery (R411 to R437). -/
namespace Sys2Proof.Machine

/-- Settles O46: each clause's assumptions choose one branch of its command. -/
theorem deliveryCommandsComplete : Obligations.DeliveryCommandsComplete := by
  unfold Obligations.DeliveryCommandsComplete
  refine ⟨?_, ?_, ?_, ?_, ?_, ?_, ?_, ?_, ?_⟩
  · intro f oc s hon hjoined hoc hackNow
    exact Does.of_act (f := e2eAckSend f oc) (fun _ => rfl) hon (by simp [e2eAckSend, hjoined, hoc, hackNow])
  · intro d oc a s hon hseqSub
    exact Does.of_act (f := e2eAckReceive d oc a) (fun _ => rfl) hon (by simp [e2eAckReceive, hseqSub])
  · intro d oc a s hon hseqSub houtS
    exact Does.of_act (f := e2eAckReceive d oc a) (fun _ => rfl) hon (by simp [e2eAckReceive, hseqSub, houtS])
  · intro d oc t s hon hskip htimer hnow he2emax
    exact Does.of_act (f := e2eTimerExpiry d oc) (fun _ => rfl) hon (by simp [e2eTimerExpiry, hskip, htimer, hnow, he2emax])
  · intro f oc src val s hon hordered
    exact Does.of_act (f := fenceWrite f oc src val) (fun _ => rfl) hon (by simp [fenceWrite, hordered])
  · intro f oc src val s hon
    exact Does.of_act (f := skipWrite f oc src val) (fun _ => rfl) hon (by simp [skipWrite])
  · intro f d oc x s hon hfind hok hat
    exact Does.of_act (f := fencePoll f d oc) (fun _ => rfl) hon (by simp [fencePoll, hfind, hok, hat])
  · intro f d oc x s hon hfind hok hat
    exact Does.of_act (f := fenceTimeout f d oc) (fun _ => rfl) hon (by simp [fenceTimeout, hfind, hok, hat])
  · intro pid p s hon hpkt heseq hdecNow hremote hgranted hstage
    exact Does.of_act (f := lifetimeExpiry pid) (fun _ => rfl) hon
      (by simp [lifetimeExpiry, hpkt, heseq, hdecNow, hremote, hgranted, hstage])

end Sys2Proof.Machine
end

section
/-! Dispatch, copies, quanta and run limits (R505 to R519). -/
namespace Sys2Proof.Machine

/-- Settles O49: each clause's assumptions choose one branch of its command. -/
theorem engineRunCommandsComplete : Obligations.EngineRunCommandsComplete := by
  unfold Obligations.EngineRunCommandsComplete
  refine ⟨?_, ?_, ?_, ?_, ?_, ?_, ?_⟩
  · intro c w s hon hc hc2 hfind
    exact Does.of_act (f := runDispatch c) (fun _ => rfl) hon (by simp [runDispatch, hc, hc2, hfind])
  · rintro c w0 w rest slot l s hon hc hc2 hfind hfilter rfl hprogOf hplaced
    exact Does.of_act (f := runDispatch c) (fun _ => rfl) hon (by simp [runDispatch, hc, hc2, hfind, hfilter, hprogOf, hplaced])
  · intro q vs fn l d s hon howner hstartable hkind hinFlr hcopyFault hrangeHas hrangeHas2
    exact Does.of_act (f := copyDescriptor q) (fun _ => rfl) hon
      (by simp [copyDescriptor, howner, hstartable, hkind, hinFlr, hcopyFault, hrangeHas, hrangeHas2])
  · intro q vs fn l c a d s hon howner hstartable hkind hinFlr hcopyFault
    exact Does.of_act (f := copyDescriptor q) (fun _ => rfl) hon (by simp [copyDescriptor, howner, hstartable, hkind, hinFlr, hcopyFault])
  · intro q vs fn l d s hon howner hstartable hkind hinFlr
    exact Does.of_act (f := nopDescriptor q) (fun _ => rfl) hon (by simp [nopDescriptor, howner, hstartable, hkind, hinFlr])
  · intro s hon hquantumEnd
    exact Does.of_act (f := quantumBoundary) (fun _ => rfl) hon (by simp [quantumBoundary, hquantumEnd])
  · intro run e x s hon hruns hlimitAt hfind
    exact Does.of_act (f := runLimitExpiry run) (fun _ => rfl) hon (by simp [runLimitExpiry, hruns, hlimitAt, hfind])

end Sys2Proof.Machine
end

section
/-! Engine register operations (R496 to R499): an operation that issues, with the registers it reads. -/
namespace Sys2Proof.Machine

/-- A register operation that may issue counts as an operation, writes its result and moves the pc. -/
theorem Does.regOp_issued {c : Instr} {s : Dev} {op e : Nat} {w : OpWord} {g : Dev → Dev} (hc : ∀ x : State, exec c x = x.act g)
    (hon : s.On) {legal : Bool} {gs vs : List Nat} {f : Dev → Dev} (hissue : s.MayIssue op e w gs vs) (hlegal : legal = true)
    (hg : g s = s.regOp op e w legal gs vs f) (ho : opAssigned op = true := by decide) : Does c s ((f (s.issued e)).nextPc e) :=
  Does.of_act hc hon (hg.trans (Dev.runOp_issued hissue hlegal ho))

theorem vecOk_of_lt {w : OpWord} {l : List Nat} (hm : w.m < 5) (hl : ∀ r ∈ l, r < 8) : vecOk w l = true := by
  simpa [vecOk, hm] using hl

/-- Settles O50: each operation is `Dev.regOp` with its own legality and result; counting the operation changes no register it reads. -/
theorem engineRegisterOperationsComplete : Obligations.EngineRegisterOperationsComplete := by
  unfold Obligations.EngineRegisterOperationsComplete
  refine ⟨?_, ?_, ?_, ?_, ?_, ?_, ?_, ?_, ?_, ?_, ?_, ?_, ?_, ?_, ?_, ?_, ?_, ?_, ?_, ?_⟩
  · intro e w s hon hmayIssue hm
    have hgr := hmayIssue.alike.1
    simpa only [hgr] using Does.regOp_issued (g := mov e w) (fun _ => rfl) hon hmayIssue (by simp [hm]) rfl
  · intro e w s hon hmayIssue hm
    exact Does.regOp_issued (g := movi e w) (fun _ => rfl) hon hmayIssue (by simp [hm]) rfl
  · intro e w s hon hmayIssue hm
    have hgr := hmayIssue.alike.1
    simpa only [hgr] using Does.regOp_issued (g := movh e w) (fun _ => rfl) hon hmayIssue (by simp [hm]) rfl
  · intro e w s hon hmayIssue hm
    have hgr := hmayIssue.alike.1
    simpa only [hgr] using Does.regOp_issued (g := add e w) (fun _ => rfl) hon hmayIssue (by simp [hm]) rfl
  · intro e w s hon hmayIssue hm
    have hgr := hmayIssue.alike.1
    simpa only [hgr] using Does.regOp_issued (g := addi e w) (fun _ => rfl) hon hmayIssue (by simp [hm]) rfl
  · intro e w s hon hmayIssue hm
    have hgr := hmayIssue.alike.1
    simpa only [hgr] using Does.regOp_issued (g := sub e w) (fun _ => rfl) hon hmayIssue (by simp [hm]) rfl
  · intro e w s hon hmayIssue hm
    have hgr := hmayIssue.alike.1
    simpa only [hgr] using Does.regOp_issued (g := mul e w) (fun _ => rfl) hon hmayIssue (by simp [hm]) rfl
  · intro e w s hon hmayIssue hm
    have hgr := hmayIssue.alike.1
    simpa only [hgr] using Does.regOp_issued (g := andOp e w) (fun _ => rfl) hon hmayIssue (by simp [hm]) rfl
  · intro e w s hon hmayIssue hm
    have hgr := hmayIssue.alike.1
    simpa only [hgr] using Does.regOp_issued (g := orOp e w) (fun _ => rfl) hon hmayIssue (by simp [hm]) rfl
  · intro e w s hon hmayIssue hm
    have hgr := hmayIssue.alike.1
    simpa only [hgr] using Does.regOp_issued (g := xorOp e w) (fun _ => rfl) hon hmayIssue (by simp [hm]) rfl
  · intro e w s hon hmayIssue hm
    have hgr := hmayIssue.alike.1
    simpa only [hgr] using Does.regOp_issued (g := shl e w) (fun _ => rfl) hon hmayIssue (by simp [hm]) rfl
  · intro e w s hon hmayIssue hm
    have hgr := hmayIssue.alike.1
    simpa only [hgr] using Does.regOp_issued (g := shr e w) (fun _ => rfl) hon hmayIssue (by simp [hm]) rfl
  · intro e w s hon hmayIssue hm
    have hgr := hmayIssue.alike.1
    simpa [hgr, b2n] using Does.regOp_issued (g := slt e w) (fun _ => rfl) hon hmayIssue (by simp [hm]) rfl
  · intro e w s hon hmayIssue hm hd
    have hvr := hmayIssue.alike.2.1
    simpa only [hvr] using Does.regOp_issued (g := vadd e w) (fun _ => rfl) hon hmayIssue (vecOk_of_lt hm (by simp [hd])) rfl
  · intro e w s hon hmayIssue hm hd
    have hvr := hmayIssue.alike.2.1
    simpa only [hvr] using Does.regOp_issued (g := vmul e w) (fun _ => rfl) hon hmayIssue (vecOk_of_lt hm (by simp [hd])) rfl
  · intro e w s hon hmayIssue hm hd
    have hvr := hmayIssue.alike.2.1
    simpa only [hvr] using Does.regOp_issued (g := vfma e w) (fun _ => rfl) hon hmayIssue (vecOk_of_lt hm (by simp [hd])) rfl
  · intro e w s hon hmayIssue hm hd
    have hvr := hmayIssue.alike.2.1
    simpa only [hvr] using Does.regOp_issued (g := vmin e w) (fun _ => rfl) hon hmayIssue (vecOk_of_lt hm (by simp [hd])) rfl
  · intro e w s hon hmayIssue hm hd
    have hvr := hmayIssue.alike.2.1
    simpa only [hvr] using Does.regOp_issued (g := vmax e w) (fun _ => rfl) hon hmayIssue (vecOk_of_lt hm (by simp [hd])) rfl
  · intro e w s hon hmayIssue hm hd
    have hgr := hmayIssue.alike.1
    simpa only [hgr] using Does.regOp_issued (g := vbc e w) (fun _ => rfl) hon hmayIssue (vecOk_of_lt hm (by simp [hd])) rfl
  · intro e w s hon hmayIssue hm ha himm
    have hvr := hmayIssue.alike.2.1
    simpa only [hvr] using Does.regOp_issued (g := vext e w) (fun _ => rfl) hon hmayIssue (by simp [vecOk, hm, ha, himm]) rfl

end Sys2Proof.Machine
end

section
/-! Engine memory operations (R496 to R501): an operation that issues. -/
namespace Sys2Proof.Machine

/-- An operation that may issue does what its own definition says. -/
theorem Does.runOp_issued {c : Instr} {s : Dev} {op e : Nat} {w : OpWord} {g : Dev → Dev} (hc : ∀ x : State, exec c x = x.act g)
    (hon : s.On) {legal : Bool} {gs vs : List Nat} {f : Dev → Dev} (hissue : s.MayIssue op e w gs vs) (hlegal : legal = true)
    (hg : g s = s.runOp op e w legal gs vs f) (ho : opAssigned op = true := by decide) : Does c s (f s) :=
  Does.of_act hc hon (hg.trans (Dev.runOp_issued hissue hlegal ho))

/-- Settles O51: each operation is `Dev.runOp` with its own legality and access. -/
theorem engineMemoryOperationsComplete : Obligations.EngineMemoryOperationsComplete := by
  unfold Obligations.EngineMemoryOperationsComplete
  refine ⟨?_, ?_, ?_, ?_, ?_, ?_, ?_, ?_, ?_, ?_, ?_, ?_, ?_, ?_, ?_, ?_, ?_, ?_⟩
  · intro e w s hon hmayIssue hloadMod
    exact Does.runOp_issued (g := ld e w) (fun _ => rfl) hon hmayIssue hloadMod rfl
  · intro e w s hon hmayIssue hstoreMod
    exact Does.runOp_issued (g := st e w) (fun _ => rfl) hon hmayIssue hstoreMod rfl
  · intro e w s hon hmayIssue hm
    exact Does.runOp_issued (g := ldp e w) (fun _ => rfl) hon hmayIssue (by simp [hm]) rfl
  · intro e w s hon hmayIssue hm
    exact Does.runOp_issued (g := stp e w) (fun _ => rfl) hon hmayIssue (by simp [hm]) rfl
  · intro e w s hon hmayIssue hm
    exact Does.runOp_issued (g := vld e w) (fun _ => rfl) hon hmayIssue (by simp [hm]) rfl
  · intro e w s hon hmayIssue hm
    exact Does.runOp_issued (g := vst e w) (fun _ => rfl) hon hmayIssue (by simp [hm]) rfl
  · intro e w s hon hmayIssue hm
    exact Does.runOp_issued (g := prf e w) (fun _ => rfl) hon hmayIssue (by simp [hm]) rfl
  · intro e w s hon hmayIssue hm
    exact Does.runOp_issued (g := aadd e w) (fun _ => rfl) hon hmayIssue (by simp [hm]) rfl
  · intro e w s hon hmayIssue hm
    exact Does.runOp_issued (g := aand e w) (fun _ => rfl) hon hmayIssue (by simp [hm]) rfl
  · intro e w s hon hmayIssue hm
    exact Does.runOp_issued (g := aor e w) (fun _ => rfl) hon hmayIssue (by simp [hm]) rfl
  · intro e w s hon hmayIssue hm
    exact Does.runOp_issued (g := aswp e w) (fun _ => rfl) hon hmayIssue (by simp [hm]) rfl
  · intro e w s hon hmayIssue hm
    exact Does.runOp_issued (g := acas e w) (fun _ => rfl) hon hmayIssue (by simp [hm]) rfl
  · intro e w s hon hmayIssue hm
    exact Does.runOp_issued (g := acasp e w) (fun _ => rfl) hon hmayIssue (by simp [hm]) rfl
  · intro e w s hon hmayIssue hm
    exact Does.runOp_issued (g := mcpy e w) (fun _ => rfl) hon hmayIssue (by simp [hm]) rfl
  · intro e w s hon hmayIssue hm
    exact Does.runOp_issued (g := mfill e w) (fun _ => rfl) hon hmayIssue (by simp [hm]) rfl
  · intro e w s hon hmayIssue hm
    exact Does.runOp_issued (g := sig e w) (fun _ => rfl) hon hmayIssue (by simp [hm]) rfl
  · intro e w s hon hmayIssue hloadMod haddrOf
    have hfault : s.loadAt e (s.addrOf e w) (sizeOf' w.m) (sizeOf' w.m) (.load w.d (sizeOf' w.m) (w.m.testBit 3)) =
        (s.issued e).engFault e 2 (s.addrOf e w) := if_pos haddrOf
    exact Does.of_act (f := ld e w) (fun _ => rfl) hon ((Dev.runOp_issued hmayIssue hloadMod).trans hfault)
  · intro e t w s hon hmayIssue hstoreMod haddrOf htarget
    have hfault : s.storeAt e (s.addrOf e w) (sizeOf' w.m) (leBytes (sizeOf' w.m) (s.gr e w.b)) =
        (s.issued e).engFault e t (s.addrOf e w) := by
      simp only [Dev.storeAt, haddrOf, htarget, ne_eq, not_true_eq_false, if_false]
    exact Does.of_act (f := st e w) (fun _ => rfl) hon ((Dev.runOp_issued hmayIssue hstoreMod).trans hfault)

end Sys2Proof.Machine
end

section
/-! Engine accumulators, waits, branches, barriers, ends and samples (R502 to R504, R515, R518, R520, R531 to R534). -/
namespace Sys2Proof.Machine

/-- Settles O52: an operation that issues is its own definition after counting, which changes no register, slot or run it reads; the
others take one branch. -/
theorem engineControlCompletes : Obligations.EngineControlCompletes := by
  unfold Obligations.EngineControlCompletes
  refine ⟨?_, ?_, ?_, ?_, ?_, ?_, ?_, ?_, ?_, ?_, ?_, ?_, ?_, ?_, ?_, ?_, ?_, ?_, ?_, ?_, ?_⟩
  · intro e k w s hon hmayIssue hm hslotKey himm htyp hslotTurn hslotUsed
    have hlate : ((s.slotKey e w.imm).any fun k => !s.slotTurn k e || s.slotUsed k e) = false := by simp [hslotKey, hslotTurn, hslotUsed]
    obtain ⟨-, -, -, hkey, hslot, hcyc, -⟩ := hmayIssue.alike
    refine Does.of_act (f := acz e w) (fun _ => rfl) hon ?_
    unfold acz
    dsimp only
    rw [if_neg (by simp [hlate]), Dev.regOp, Dev.runOp_issued hmayIssue (by simp [hslotKey]; omega)]
    simp [hkey, hslot, hcyc, hslotKey, himm, htyp, show w.m ≠ 4 by omega]
  · rintro e k w x new s hon hmayIssue hm ha hslotKey htyp rfl hslotTurn rfl
    obtain ⟨-, hvr, -, hkey, hslot, hcyc, -⟩ := hmayIssue.alike
    refine Does.of_act (f := aca e w) (fun _ => rfl) hon ?_
    unfold aca
    dsimp only
    rw [if_neg (by simp [hslotKey, hslotTurn]), Dev.regOp, Dev.runOp_issued hmayIssue (by simp [vecOk, hm, ha, hslotKey, htyp])]
    simp [hkey, hslot, hcyc, hvr, hslotKey]
  · rintro e k r w x run rs s t hon hmayIssue hm hd hslotKey hrunOf rfl rfl htyp hslotTurn rfl
    obtain ⟨-, -, hrun, hkey, hslot, -, hvals⟩ := hmayIssue.alike
    refine Does.of_act (f := acr e w) (fun _ => rfl) hon ?_
    unfold acr
    rw [if_neg (by simp [hslotKey, hslotTurn]), Dev.regOp, Dev.runOp_issued hmayIssue (by simp [hm, hd, hslotKey])]
    simp [hkey, hslot, hrun, hvals, hslotKey, hrunOf, htyp]
  · intro e w t s hon hmayIssue hm hgr htarget hisWin hisDev
    refine Does.of_act (f := waitOp e w) (fun _ => rfl) hon ((Dev.runOp_issued hmayIssue (by simp [hm])).trans ?_)
    simp [hgr, htarget, hisWin, hisDev]
  · intro e data x s hon hwait hbound hturnOk
    exact Does.of_act (f := waitMet e data) (fun _ => rfl) hon (by simp [waitMet, hwait, hbound, hturnOk])
  · intro e r t run x s hon hwait hrunOf htill hnow hengCycle
    exact Does.of_act (f := waitTimeout e) (fun _ => rfl) hon (by simp [waitTimeout, hwait, hrunOf, htill, hnow, hengCycle])
  · rintro e r w run s t hon hmayIssue hm hrunOf rfl
    have hrun := hmayIssue.alike.2.2.1
    refine Does.of_act (f := irq e w) (fun _ => rfl) hon ?_
    rw [irq, Dev.regOp, Dev.runOp_issued hmayIssue (by simp [hm])]
    simp [hrun, hrunOf]
  · intro e w s hon hmayIssue hm
    exact Does.runOp_issued (g := b e w) (fun _ => rfl) hon hmayIssue (by simp [hm]) rfl
  · intro e w s hon hmayIssue hm
    exact Does.runOp_issued (g := bz e w) (fun _ => rfl) hon hmayIssue (by simp [hm]) rfl
  · intro e w s hon hmayIssue hm
    exact Does.runOp_issued (g := bnz e w) (fun _ => rfl) hon hmayIssue (by simp [hm]) rfl
  · intro e w s hon hmayIssue hm
    exact Does.runOp_issued (g := call e w) (fun _ => rfl) hon hmayIssue (by simp [hm]) rfl
  · intro e w s hon hmayIssue hm
    exact Does.runOp_issued (g := ret e w) (fun _ => rfl) hon hmayIssue (by simp [hm]) rfl
  · rintro e r w run s t u hon hmayIssue hm hrunOf hacc rfl rfl hall
    refine Does.of_act (f := endOp e w) (fun _ => rfl) hon ((Dev.runOp_issued hmayIssue (by simp [hm])).trans ?_)
    simp only [hrunOf, hacc, hall, if_true, if_false, Bool.false_eq_true]
  · intro e w s hon hmayIssue hm hloadsDone
    refine Does.of_act (f := barEngine e w) (fun _ => rfl) hon ?_
    rw [barEngine, if_neg (by omega), Dev.runOp_issued hmayIssue (by simp [hm]), if_pos hloadsDone]
  · intro e w s hon hmayIssue hm hloadsDone hlocalStoresDone
    refine Does.of_act (f := barCluster e w) (fun _ => rfl) hon ?_
    rw [barCluster, if_neg (by omega), Dev.runOp_issued hmayIssue (by simp [hm]), if_pos (by simp [hloadsDone, hlocalStoresDone])]
  · intro e w s hon hmayIssue hm hloadsDone hsb hflush hflushTags
    refine Does.of_act (f := barSystem e w) (fun _ => rfl) hon ?_
    rw [barSystem, if_neg (by omega), Dev.runOp_issued hmayIssue (by simp [hm])]
    simp [hloadsDone, hsb, hflush, hflushTags]
  · intro e oks b s hon hbar hsent hany
    exact Does.of_act (f := systemBarrierComplete e oks) (fun _ => rfl) hon (by simp [systemBarrierComplete, hbar, hsent, hany])
  · intro e h r a s hon hhold hacc
    exact Does.of_act (f := deviceLoadReturn e r) (fun _ => rfl) hon (by simp [deviceLoadReturn, hhold, hacc])
  · intro e addr s hon
    exact Does.of_act (f := prefetchEntryExpiry e addr) (fun _ => rfl) hon (by simp [prefetchEntryExpiry])
  · intro e r run s hon hrunOf hevent hsmpen
    exact Does.of_act (f := engineSample e 0) (fun _ => rfl) hon (by simp [engineSample, hrunOf, hevent, hsmpen])
  · intro e r run s hon hrunOf hevent hsmpen hsmpFrom hvalid
    exact Does.of_act (f := engineSample e 0) (fun _ => rfl) hon (by simp [engineSample, hrunOf, hevent, hsmpen, hsmpFrom, hvalid])

end Sys2Proof.Machine
end

section
/-! Ledger swaps, mailbox requests and posted-error reports (R229 to R236, R399). -/
namespace Sys2Proof.Machine

/-- Settles O41: each clause's assumptions choose one branch of its command. -/
theorem ledgerMailboxAndErrorReportsComplete : Obligations.LedgerMailboxAndErrorReportsComplete := by
  unfold Obligations.LedgerMailboxAndErrorReportsComplete
  refine ⟨?_, ?_, ?_, ?_, ?_, ?_⟩
  · intro vs ctx s hon hsfExists hctx hinFlr hbusy
    exact Does.of_act (f := ledgerSwap vs ctx) (fun _ => rfl) hon (by simp [ledgerSwap, hsfExists, hctx, hinFlr, hbusy])
  · intro vs ctx s hon hbusy hmarksLeft
    exact Does.of_act (f := ledgerSwapDone vs ctx) (fun _ => rfl) hon (by simp [ledgerSwapDone, hbusy, hmarksLeft])
  · intro vs ctx t s hon hswapAt htMs hmarksLeft
    refine Does.of_act (f := ledgerSwapTimeout vs ctx) (fun _ => rfl) hon ?_
    unfold ledgerSwapTimeout
    dsimp only
    rw [hswapAt]
    exact if_neg (by simp [hmarksLeft, htMs])
  · intro vs req s hon hsfExists hinFlr hbusy hlength hlength2
    have hsome : req ≠ [] := by
      rintro rfl
      simp at hlength
    have hfits : ¬ 2047 < req.length := by omega
    exact Does.of_act (f := mailboxGo vs req) (fun _ => rfl) hon (by simp [mailboxGo, hsfExists, hinFlr, hbusy, hsome, hfits])
  · intro r s hon hvsExists
    exact Does.of_act (f := postedErrorReportReceive r) (fun _ => rfl) hon (by simp [postedErrorReportReceive, hvsExists])
  · intro r s hon hvsExists hbindVs
    exact Does.of_act (f := postedErrorReportReceive r) (fun _ => rfl) hon (by simp [postedErrorReportReceive, hvsExists, hbindVs])

end Sys2Proof.Machine
end

section
/-! Watch intervals, bank temperatures and PRBS tests (R270 to R282). -/
namespace Sys2Proof.Machine

/-- Settles O42: the marks of an interval's end choose the branches of its evaluation; each command takes the branch its assumptions
name. -/
theorem laneCommandsComplete : Obligations.LaneCommandsComplete := by
  unfold Obligations.LaneCommandsComplete
  refine ⟨?_, ?_, ?_, ?_, ?_, ?_, ?_, ?_, ?_⟩
  · intro i rx sym unc util t s hon hi htill hnow hended hpar
    exact Does.of_act (f := watchIntervalEnd i rx sym unc util) (fun _ => rfl) hon
      (by simp [watchIntervalEnd, hi, htill, hnow, hended, hpar])
  · intro i rx sym util s hsrc hlane
    have hfew : ¬ rx < sym * 2 ^ (s.lane i).par Fld.LN_WATCH.THR_EXP := by omega
    simp [Dev.watchEval, hsrc, hfew]
  · intro i rx sym util s hsrc hlane
    simp [Dev.watchEval, hsrc, hlane]
  · intro i rx sym unc util s hsrc hunc hlane
    have hfew : ¬ rx < sym * 2 ^ (s.lane i).par Fld.LN_WATCH.THR_EXP := by omega
    simp [Dev.watchEval, hsrc, hunc, hfew]
  · intro s
    rfl
  · intro b temp s hon hb
    exact Does.of_act (f := bankTempUpdate b temp) (fun _ => rfl) hon (by simp [bankTempUpdate, hb])
  · intro i n s hon hi hportOfLane henabled htestsTx
    exact Does.of_act (f := prbsStart i) (fun _ => rfl) hon (by simp [prbsStart, hi, hportOfLane, henabled, htestsTx])
  · intro i bits errs t s hon hprbsEnd hnow hlock
    exact Does.of_act (f := prbsTestEnd i bits errs) (fun _ => rfl) hon (by simp [prbsTestEnd, hprbsEnd, hnow, hlock])
  · intro i bits errs s hon hbusy hlock
    exact Does.of_act (f := prbsLockLoss i bits errs) (fun _ => rfl) hon (by simp [prbsLockLoss, hbusy, hlock])

end Sys2Proof.Machine
end

section
/-! Collective requests, messages, credits, timeouts and disabling (R467 to R487). -/
namespace Sys2Proof.Machine

/-- Settles O48: each clause's assumptions choose one branch of its command, or of what an arriving message does. -/
theorem collectiveCommandsComplete : Obligations.CollectiveCommandsComplete := by
  unfold Obligations.CollectiveCommandsComplete
  refine ⟨?_, ?_, ?_, ?_, ?_, ?_, ?_, ?_, ?_, ?_, ?_, ?_, ?_⟩
  · rintro q vs fn l data d r g s t hon howner hstartable hkind hinFlr rfl rfl rfl hcollBad hen htestBit hop
    refine Does.of_act (f := collDescriptor q data) (fun _ => rfl) hon ?_
    simp [collDescriptor, howner, hstartable, hkind, hinFlr, hcollBad, hen, htestBit, Dev.collReads, Dev.collWrites, hop]
  · rintro q vs fn l data d g s hon howner hstartable hkind hinFlr rfl hcollBad hen
    exact Does.of_act (f := collDescriptor q data) (fun _ => rfl) hon
      (by simp [collDescriptor, howner, hstartable, hkind, hinFlr, hcollBad, hen])
  · intro src m s hon hkind
    exact Does.of_act (f := collUp src m) (fun _ => rfl) hon (by simp [collUp, hkind])
  · intro src m s hon hkind
    exact Does.of_act (f := collDown src m) (fun _ => rfl) hon (by simp [collDown, hkind])
  · intro src m s hon hkind
    exact Does.of_act (f := collCredit src m) (fun _ => rfl) hon (by simp [collCredit, hkind])
  · intro src m s hon hkind
    exact Does.of_act (f := collAbort src m) (fun _ => rfl) hon (by simp [collAbort, hkind])
  · intro src m s hon hkind hfsid hen hcontains hiseq hinst
    refine Does.of_act (f := collAbort src m) (fun _ => rfl) hon ?_
    have hsome : (s.grp (m.group % 256)).inst.isSome = true := Option.isSome_iff_ne_none.2 hinst
    have hnbr : src ∈ s.collNbrs (m.group % 256) := by simpa using hcontains
    rw [collAbort, if_pos hkind]
    simp [Dev.collArrive, hkind, hfsid, hen, hnbr, hiseq, hsome]
  · intro g src m s hiseq
    exact if_pos hiseq
  · intro g src m s hiseq
    exact if_neg hiseq
  · intro src m s hon hkind hfsid hen
    refine Does.of_act (f := collUp src m) (fun _ => rfl) hon ?_
    rw [collUp, if_pos hkind]
    simp [Dev.collArrive, hfsid, hen]
  · intro g child n at_ i s hon hgrp hn htUs hinst
    exact Does.of_act (f := collCreditSend g child) (fun _ => rfl) hon (by simp [collCreditSend, hgrp, hn, htUs, hinst])
  · intro g i s hon hinst hstartAt
    exact Does.of_act (f := collTimeout g) (fun _ => rfl) hon (by simp [collTimeout, hinst, hstartAt])
  · intro g s hon hg hen hinst
    exact Does.of_act (f := groupDisable g) (fun _ => rfl) hon (by simp [groupDisable, hg, hen, hinst])

end Sys2Proof.Machine
end

section
/-! Commands of the dictionary (R557, R568): a WRITE of one entry that is in order, and the device state commands (R560 to R567). -/
namespace Sys2Proof.Machine

/-- A command that brings a WRITE of one entry in order: what the WRITE does. -/
theorem Serves.of_orders {c : Instr} {h : ReqHdr} {x : Sess} {idx sub : Nat} {ty : ObjTyp} {v : OVal} {s t : Dev}
    (hc : ∀ y : State, exec c y = y.act (write h [⟨⟨idx, sub, ty.code⟩, v⟩])) (hon : s.On) (ho : s.Orders h x idx sub ty v)
    (e : s.serveWrite h [⟨⟨idx, sub, ty.code⟩, v⟩] = t) : Serves c h (.write [⟨⟨idx, sub, ty.code⟩, v⟩]) s t := by
  obtain ⟨⟨hreach, hmay, -, -, -, -, -, -, -, hinbox⟩, -⟩ := ho
  exact Serves.of_serve hc hon hreach hmay hinbox e

/-- A write of a command entry in order, no COMMIT of a load target: the command's action. -/
theorem Serves.of_command {c : Instr} {h : ReqHdr} {x : Sess} {idx sub : Nat} {ty : ObjTyp} {v : OVal} {s t : Dev}
    (hc : ∀ y : State, exec c y = y.act (write h [⟨⟨idx, sub, ty.code⟩, v⟩])) (hon : s.On) (ho : s.Orders h x idx sub ty v)
    (hcmd : (objRow idx sub).map (·.acc) = some .cmd) (hload : loadCmd idx sub (valNum v) ≠ some 2)
    (e : (s.commanded h idx sub v).cmdAct { idx := idx, sub := sub, val := v } = t) :
    Serves c h (.write [⟨⟨idx, sub, ty.code⟩, v⟩]) s t :=
  Serves.of_orders hc hon ho ((Dev.write_plain ho hcmd hload).trans e)

/-- A write of the state command in order. -/
theorem Serves.of_stateCommand {c : Instr} {h : ReqHdr} {x : Sess} {n : Nat} {s t : Dev}
    (hc : ∀ y : State, exec c y = y.act (write h [⟨⟨0x2001, 1, ObjTyp.u16.code⟩, .num n⟩])) (hon : s.On)
    (ho : s.Orders h x 0x2001 1 .u16 (.num n)) (e : (s.commanded h 0x2001 1 (.num n)).stateAct n = t) :
    Serves c h (.write [⟨⟨0x2001, 1, ObjTyp.u16.code⟩, .num n⟩]) s t := by
  have hrun := s.commanded_runs h 0x2001 1 (.num n)
  have hdo : (s.commanded h 0x2001 1 (.num n)).cmdDo { idx := 0x2001, sub := 1, val := .num n } =
      (s.commanded h 0x2001 1 (.num n)).stateAct n := by simp [Dev.cmdDo, hrun, valNum]
  exact Serves.of_command hc hon ho (by decide) (by simp [loadCmd]) ((Dev.cmdAct_now (.inl (by simp [CmdAct.measures, CmdAct.program]))).trans
    (hdo.trans e))

/-- Settles O54: a write of the state command in order, of a legal state, acts at once; the other events take one branch. -/
theorem deviceStateCommandsComplete : Obligations.DeviceStateCommandsComplete := by
  unfold Obligations.DeviceStateCommandsComplete
  refine ⟨?_, ?_, ?_, ?_, ?_, ?_, ?_, ?_, ?_, ?_⟩
  · rintro h x s t hon horders hstateLegal rfl
    exact Serves.of_stateCommand (fun _ => rfl) hon horders (by simp [Dev.stateAct, hstateLegal])
  · rintro h x s t hon horders hstateLegal rfl
    exact Serves.of_stateCommand (fun _ => rfl) hon horders (by simp [Dev.stateAct, hstateLegal])
  · rintro h x s t hon horders hstateLegal rfl
    have hact : (s.commanded h 0x2001 1 (.num 259)).stateAct 259 = (s.commanded h 0x2001 1 (.num 259)).maintainAct true := by
      simp [Dev.stateAct, hstateLegal]
    exact Serves.of_stateCommand (fun _ => rfl) hon horders (hact.trans (if_pos rfl))
  · rintro h x s t hon horders hstateLegal rfl
    have hact : (s.commanded h 0x2001 1 (.num 3)).stateAct 3 = (s.commanded h 0x2001 1 (.num 3)).maintainAct false := by
      simp [Dev.stateAct, hstateLegal]
    exact Serves.of_stateCommand (fun _ => rfl) hon horders (hact.trans (if_neg Bool.false_ne_true))
  · rintro h x s t hon horders hstateLegal rfl
    exact Serves.of_stateCommand (fun _ => rfl) hon horders (by simp [Dev.stateAct, hstateLegal])
  · rintro h x s t hon horders hstateLegal rfl
    exact Serves.of_stateCommand (fun _ => rfl) hon horders (by simp [Dev.stateAct, hstateLegal])
  · rintro h x s t hon horders hstateLegal rfl
    exact Serves.of_stateCommand (fun _ => rfl) hon horders (by simp [Dev.stateAct, hstateLegal])
  · intro a quiet till s hon hmaintain hstate hdrained
    exact Does.of_act (f := maintainComplete) (fun _ => rfl) hon (by simp [maintainComplete, hmaintain, hstate, hdrained])
  · intro a quiet till s hon hmaintain hstate hnow
    exact Does.of_act (f := maintainTimeout) (fun _ => rfl) hon (by simp [maintainTimeout, hmaintain, hstate, hnow])
  · intro cause s hon hstate
    have hup : ¬ (s.svc.state = stFault ∨ s.svc.state = stOff) := not_or.2 ⟨hstate, hon⟩
    exact Does.of_act (f := deviceFault cause) (fun _ => rfl) hon (by rw [deviceFault, Dev.enterFault, if_neg hup])

end Sys2Proof.Machine
end

section
/-! The dictionary's commands on ports, resources, schedule, registers, cuts and clusters (R568, R597). -/
namespace Sys2Proof.Machine

/-! Entries of a WRITE -/

theorem Dev.sess?_of_open {s : Dev} {k : SessKey} {x : Sess} (h : s.open? k = some x) : s.sess? k = some x := by
  unfold Dev.open? at h
  obtain ⟨y, hy, hx⟩ := Option.bind_eq_some_iff.1 h
  split at hx
  · cases hx
    exact hy
  · cases hx

section
variable {s : Dev} {k : SessKey} {idx sub typ : Nat} {v : OVal}

theorem Dev.putEntry_of_staged {t : Dev} (hc : (objRow idx sub).map (·.acc) ≠ some .cmd) (h : s.putStaged k idx sub v = some t) :
    s.putEntry k ⟨⟨idx, sub, typ⟩, v⟩ = (t, []) := by
  unfold Dev.putEntry
  dsimp only
  rw [if_neg hc, h]

/-- An entry that is neither a command nor staged: a window's offset, a register value, a directed packet, an expected digest, or an
object. -/
theorem Dev.putEntry_of_not_staged (hc : (objRow idx sub).map (·.acc) ≠ some .cmd) (h : s.putStaged k idx sub v = none) :
    s.putEntry k ⟨⟨idx, sub, typ⟩, v⟩ =
      if isWinOff idx sub = true then (s.modSess k fun y => { y with offs := tput 0 y.offs (objKey idx sub) (valNum v) }, [])
      else if idx = 0x6000 ∧ sub = 2 then (((s.sess? k).map fun x => s.regValPut x (valNum v)).getD s, [])
      else if idx = 0x7300 then (s.directedSend (valBytes v), [])
      else if 0xB100 ≤ idx ∧ idx < 0xB200 then
        ({ s with eng.progs := tmod {} s.eng.progs (idx - 0xB100) fun p => { p with expect := valBytes v } }, [])
      else (s.objPut idx sub v, []) := by
  unfold Dev.putEntry
  dsimp only
  rw [if_neg hc, h]
  cases s.sess? k <;> rfl

end

/-! Actions of commands -/

/-- A write of a command entry in order that needs no measurement: what its entry's action does. -/
theorem Serves.of_action {c : Instr} {h : ReqHdr} {x : Sess} {idx sub : Nat} {ty : ObjTyp} {v : OVal} {s t : Dev}
    (hc : ∀ y : State, exec c y = y.act (write h [⟨⟨idx, sub, ty.code⟩, v⟩])) (hon : s.On) (ho : s.Orders h x idx sub ty v)
    (hcmd : (objRow idx sub).map (·.acc) = some .cmd) (hload : loadCmd idx sub (valNum v) ≠ some 2)
    (hmeas : ({ idx := idx, sub := sub, val := v } : CmdAct).measures = false)
    (e : (s.commanded h idx sub v).cmdDo { idx := idx, sub := sub, val := v } = t) :
    Serves c h (.write [⟨⟨idx, sub, ty.code⟩, v⟩]) s t :=
  Serves.of_command hc hon ho hcmd hload ((Dev.cmdAct_now (.inl hmeas)).trans e)

section
variable {s : Dev} {v : OVal}

theorem Dev.cmdDo_margin {p : Nat} (hp : p < 48) (hrun : (s.cmdSt (0x3100 + p) 1).running = true) :
    s.cmdDo { idx := 0x3100 + p, sub := 1, val := v } =
      { s with ln.margin := tins s.ln.margin p (s.now, s.now + valNum v / 2 ^ 24 * tMs) } := by
  unfold Dev.cmdDo
  dsimp only
  rw [if_neg (by simp [hrun]), if_neg (by omega), if_neg (by omega), if_pos (by omega), Nat.add_sub_cancel_left]

theorem Dev.cmdDo_port {p sub : Nat} (hp : p < 48) (hrun : (s.cmdSt (0x4000 + p) sub).running = true) :
    s.cmdDo { idx := 0x4000 + p, sub := sub, val := v } =
      if sub = 5 then s.dpcAct p else (s.pressAt p).cmdDone (0x4000 + p) 7 0 [] := by
  unfold Dev.cmdDo
  dsimp only
  rw [if_neg (by simp [hrun]), if_neg (by omega), if_neg (by omega), if_neg (by omega), if_pos (by omega), Nat.add_sub_cancel_left]

theorem Dev.cmdDo_res {n : Nat} (hrun : (s.cmdSt 0x5100 1).running = true) :
    s.cmdDo { idx := 0x5100, sub := 1, val := .num n } = s.resAct n := by
  simp [Dev.cmdDo, hrun, valNum]

theorem CmdAct.measures_eq_false {idx sub : Nat} (h : idx ≠ 0x3000) (hkey : idx < 0xA100 ∨ 0xA110 ≤ idx) (hfw : idx ≠ 0xA200)
    (hprog : idx < 0xB100 ∨ 0xB200 ≤ idx) : ({ idx := idx, sub := sub, val := v } : CmdAct).measures = false := by
  have hnone : ({ idx := idx, sub := sub, val := v } : CmdAct).program = none := if_neg (by dsimp only; omega)
  have hslot : (decide (0xA100 ≤ idx) && decide (idx < 0xA110)) = false := by simp; omega
  simp [CmdAct.measures, hnone, h, hfw, hslot]

theorem loadCmd_eq_none {idx sub n : Nat} (h : idx ≠ 0x3000) (hkey : idx < 0xA100 ∨ 0xA110 ≤ idx) (hfw : idx ≠ 0xA200)
    (hprog : idx < 0xB100 ∨ 0xB200 ≤ idx) : loadCmd idx sub n = none := if_neg (by omega)

end

/-- A write of the resource command in order. -/
theorem Serves.of_resCommand {c : Instr} {h : ReqHdr} {x : Sess} {n : Nat} {s t : Dev}
    (hc : ∀ y : State, exec c y = y.act (write h [⟨⟨0x5100, 1, ObjTyp.u64.code⟩, .num n⟩])) (hon : s.On)
    (ho : s.Orders h x 0x5100 1 .u64 (.num n)) (e : (s.commanded h 0x5100 1 (.num n)).resAct n = t) :
    Serves c h (.write [⟨⟨0x5100, 1, ObjTyp.u64.code⟩, .num n⟩]) s t :=
  Serves.of_action hc hon ho (by decide) (by simp [loadCmd]) (by simp [CmdAct.measures, CmdAct.program])
    ((Dev.cmdDo_res (s.commanded_runs ..)).trans e)

/-- Settles O56: a write of a command entry in order does the action of its entry; a register value and a directed packet are stored at
once. -/
theorem dictionaryCommandsComplete : Obligations.DictionaryCommandsComplete := by
  unfold Obligations.DictionaryCommandsComplete
  refine ⟨?_, ?_, ?_, ?_, ?_, ?_, ?_, ?_, ?_, ?_, ?_, ?_, ?_, ?_, ?_⟩
  · rintro h x port v s t hon horders hport rfl
    exact Serves.of_action (fun _ => rfl) hon horders (objRow_margin port hport)
      (by simp [loadCmd_eq_none (idx := 0x3100 + port) (by omega) (by omega) (by omega) (by omega)])
      (CmdAct.measures_eq_false (by omega) (by omega) (by omega) (by omega)) (Dev.cmdDo_margin hport (s.commanded_runs ..))
  · intro port bits errs a till s hon hmargin hnow
    exact Does.of_act (f := marginDone port bits errs) (fun _ => rfl) hon (by simp [marginDone, hmargin, hnow])
  · rintro h x port b s t hon horders hport hbindAt hdpcHeld rfl
    have hact := (s.commanded h (0x4000 + port) 5 (.num 1)).cmdDo_port (v := .num 1) hport (s.commanded_runs ..)
    exact Serves.of_action (fun _ => rfl) hon horders (objRow_dpc port hport)
      (by simp [loadCmd_eq_none (idx := 0x4000 + port) (by omega) (by omega) (by omega) (by omega)])
      (CmdAct.measures_eq_false (by omega) (by omega) (by omega) (by omega)) (hact.trans (by simp [Dev.dpcAct, hbindAt, hdpcHeld]))
  · rintro h x port s t hon horders hport rfl
    have hact := (s.commanded h (0x4000 + port) 7 (.num 1)).cmdDo_port (v := .num 1) hport (s.commanded_runs ..)
    exact Serves.of_action (fun _ => rfl) hon horders (objRow_atn port hport)
      (by simp [loadCmd_eq_none (idx := 0x4000 + port) (by omega) (by omega) (by omega) (by omega)])
      (CmdAct.measures_eq_false (by omega) (by omega) (by omega) (by omega)) hact
  · rintro h x vs fn v s t hon horders hv hfn hvs rfl
    obtain ⟨hop, hvs', hfn', hv'⟩ := resWord_parts (op := 1) hv hfn hvs
    exact Serves.of_resCommand (fun _ => rfl) hon horders (by simp [Dev.resAct, hop, hvs', hfn', hv'])
  · rintro h x vs fn v s t hon horders hv hfn hvs rfl
    obtain ⟨hop, hvs', hfn', hv'⟩ := resWord_parts (op := 2) hv hfn hvs
    exact Serves.of_resCommand (fun _ => rfl) hon horders (by simp [Dev.resAct, hop, hvs', hfn', hv'])
  · rintro h x vs fn v s t hon horders hv hfn hvs rfl
    obtain ⟨hop, hvs', hfn', hv'⟩ := resWord_parts (op := 3) hv hfn hvs
    exact Serves.of_resCommand (fun _ => rfl) hon horders (by simp [Dev.resAct, hop, hvs', hfn', hv'])
  · rintro h x vs fn v s t hon horders hv hfn hvs rfl
    obtain ⟨hop, hvs', hfn', hv'⟩ := resWord_parts (op := 4) hv hfn hvs
    exact Serves.of_resCommand (fun _ => rfl) hon horders (by simp [Dev.resAct, hop, hvs', hfn', hv'])
  · rintro h x vs fn v s t hon horders hv hfn hvs rfl
    obtain ⟨hop, hvs', hfn', hv'⟩ := resWord_parts (op := 5) hv hfn hvs
    exact Serves.of_resCommand (fun _ => rfl) hon horders (by simp [Dev.resAct, hop, hvs', hfn', hv'])
  · rintro h x s t hon horders rfl
    exact Serves.of_action (fun _ => rfl) hon horders (by decide) (by simp [loadCmd]) (by simp [CmdAct.measures, CmdAct.program])
      (by simp [Dev.cmdDo, s.commanded_runs h 0x6000 3 (.num 1)])
  · intro h x v s hon horders
    have hopen := Dev.sess?_of_open (Dev.open_heard horders.1.2.2.1)
    have hput : (s.heard h).putEntry h.sess ⟨⟨0x6000, 2, ObjTyp.u64.code⟩, .num v⟩ =
        ((s.heard h).regValPut { x with at_ := s.now } v, []) := by
      rw [Dev.putEntry_of_not_staged (by decide) (by simp [Dev.putStaged, isLoadOff, isLoadData]), if_neg (by decide), if_pos (by
      decide), hopen]
      rfl
    refine Serves.of_orders (fun _ => rfl) hon horders ((Dev.write_one horders (by decide)).trans ?_)
    rw [hput]
    rfl
  · intro h x b s hon horders
    have hput : (s.heard h).putEntry h.sess ⟨⟨0x7300, 1, ObjTyp.octets.code⟩, .bytes b⟩ = ((s.heard h).directedSend b, []) := by
      rw [Dev.putEntry_of_not_staged (by decide) (by simp [Dev.putStaged, isLoadOff, isLoadData]), if_neg (by decide), if_neg (by
      decide), if_pos rfl]
      rfl
    refine Serves.of_orders (fun _ => rfl) hon horders ((Dev.write_one horders (by decide)).trans ?_)
    rw [hput]
    rfl
  · rintro h x id s t hon horders rfl
    exact Serves.of_action (fun _ => rfl) hon horders (by decide) (by simp [loadCmd]) (by simp [CmdAct.measures, CmdAct.program])
      (by simp [Dev.cmdDo, s.commanded_runs h 0x7200 1 (.num id), Dev.cutAct, valNum])
  · rintro h x s t hon horders rfl
    exact Serves.of_action (fun _ => rfl) hon horders (by decide) (by simp [loadCmd]) (by simp [CmdAct.measures, CmdAct.program])
      (by simp [Dev.cmdDo, s.commanded_runs h 0x8300 8 (.num 1)])
  · rintro h x c s t hon horders rfl
    exact Serves.of_action (fun _ => rfl) hon horders (by decide) (by simp [loadCmd]) (by simp [CmdAct.measures, CmdAct.program])
      (by simp [Dev.cmdDo, s.commanded_runs h 0xB900 1 (.num c), valNum])

end Sys2Proof.Machine
end

section
/-! Loads, key slots, program slots, firmware images and reports (R267, R506 to R508, R591, R602, R639 to R652). -/
namespace Sys2Proof.Machine

/-- A COMMIT of a load target in order: its action, with the image that was staged. -/
theorem Serves.of_commit {c : Instr} {h : ReqHdr} {x : Sess} {idx sub : Nat} {ty : ObjTyp} {v : OVal} {s t : Dev}
    (hc : ∀ y : State, exec c y = y.act (write h [⟨⟨idx, sub, ty.code⟩, v⟩])) (hon : s.On) (ho : s.Orders h x idx sub ty v)
    (hcmd : (objRow idx sub).map (·.acc) = some .cmd) (hload : loadCmd idx sub (valNum v) = some 2)
    (e : (s.commanded h idx sub v).cmdAct { idx := idx, sub := sub, val := v, image := (s.load idx).image } = t) :
    Serves c h (.write [⟨⟨idx, sub, ty.code⟩, v⟩]) s t := by
  refine Serves.of_orders hc hon ho ((Dev.write_orders ho hcmd).trans ?_)
  rw [Dev.cmdStore_commit hload]
  exact e

/-! Commands of load targets -/

theorem loadCmd_key {i n : Nat} (hi : i < 16) : loadCmd (0xA100 + i) 1 n = some (n % 256) := if_pos (by omega)
theorem loadCmd_fw (n : Nat) : loadCmd 0xA200 1 n = some (n % 256) := if_pos (by omega)
theorem loadCmd_prog {i n : Nat} (hi : i < 256) : loadCmd (0xB100 + i) 1 n = some (n % 256) := if_pos (by omega)

section
variable {v : OVal} {b : List Byte}

theorem CmdAct.program_key {i : Nat} (hi : i < 16) : ({ idx := 0xA100 + i, sub := 1, val := v, image := b } : CmdAct).program = none :=
  if_neg (by dsimp only; omega)

theorem CmdAct.program_fw : ({ idx := 0xA200, sub := 1, val := v, image := b } : CmdAct).program = none := if_neg (by dsimp only; omega)

theorem CmdAct.program_prog {i n : Nat} (hi : i < 256) : ({ idx := 0xB100 + i, sub := 1, val := .num n, image := b } : CmdAct).program =
    if n % 256 = 2 then some i else none := by
  simp only [CmdAct.program, valNum, Nat.add_sub_cancel_left]
  congr 1
  simp only [eq_iff_iff]
  omega

theorem CmdAct.measures_key {i n : Nat} (hi : i < 16) :
    ({ idx := 0xA100 + i, sub := 1, val := .num n, image := b } : CmdAct).measures = decide (2 ≤ n % 256) := by
  have hslot : 0xA100 + i < 0xA110 := by omega
  have heq : (0xA100 + i == 0x3000) = false := by simp; omega
  simp [CmdAct.measures, CmdAct.program_key hi, hslot, heq, valNum]
  rfl

theorem CmdAct.measures_prog {i n : Nat} (hi : i < 256) :
    ({ idx := 0xB100 + i, sub := 1, val := .num n, image := b } : CmdAct).measures = decide (n % 256 = 2) := by
  have hslot : (decide (0xA100 ≤ 0xB100 + i) && decide (0xB100 + i < 0xA110)) = false := by simp; omega
  have heq : (0xB100 + i == 0x3000) = false := by simp; omega
  have hfw : (0xB100 + i == 0xA200) = false := by simp; omega
  simp only [CmdAct.measures, CmdAct.program_prog hi, hslot, heq, hfw, valNum, Bool.false_and, Bool.or_false]
  split <;> simp_all

end

/-! Actions of load targets -/

section
variable {s : Dev} {n : Nat} {b : List Byte}

theorem Dev.cmdDo_key {i : Nat} (hi : i < 16) (hrun : (s.cmdSt (0xA100 + i) 1).running = true) :
    s.cmdDo { idx := 0xA100 + i, sub := 1, val := .num n, image := b } = s.keyAct i n b := by
  unfold Dev.cmdDo
  dsimp only
  rw [if_neg (by simp [hrun]), if_neg (by omega), if_neg (by omega), if_neg (by omega), if_neg (by omega), if_neg (by omega),
    if_neg (by omega), if_neg (by omega), if_neg (by omega), if_neg (by omega), if_pos (by omega), Nat.add_sub_cancel_left, valNum]

theorem Dev.cmdDo_fw (hrun : (s.cmdSt 0xA200 1).running = true) :
    s.cmdDo { idx := 0xA200, sub := 1, val := .num n, image := b } = s.fwAct n b := by
  simp [Dev.cmdDo, hrun, valNum]

theorem Dev.cmdDo_prog {i : Nat} (hi : i < 256) (hrun : (s.cmdSt (0xB100 + i) 1).running = true) :
    s.cmdDo { idx := 0xB100 + i, sub := 1, val := .num n, image := b } = s.progAct i n := by
  unfold Dev.cmdDo
  dsimp only
  rw [if_neg (by simp [hrun]), if_neg (by omega), if_neg (by omega), if_neg (by omega), if_neg (by omega), if_neg (by omega),
    if_neg (by omega), if_neg (by omega), if_neg (by omega), if_neg (by omega), if_neg (by omega), if_neg (by omega), if_pos (by omega),
    Nat.add_sub_cancel_left, valNum]

/-- While no measurement is before it, the command of a key slot acts at once. -/
theorem Dev.cmdAct_key {i : Nat} (hi : i < 16) (hnow : n % 256 < 2 ∨ s.trust.jobs = []) (hrun : (s.cmdSt (0xA100 + i) 1).running = true) :
    s.cmdAct { idx := 0xA100 + i, sub := 1, val := .num n, image := b } = s.keyAct i n b :=
  (Dev.cmdAct_now (hnow.imp (fun h => by rw [CmdAct.measures_key hi]; simpa using h) fun h => ⟨CmdAct.program_key hi, h⟩)).trans
    (Dev.cmdDo_key hi hrun)

/-- The same of a firmware image. -/
theorem Dev.cmdAct_fw (hnow : n % 256 < 2 ∨ s.trust.jobs = []) (hrun : (s.cmdSt 0xA200 1).running = true) :
    s.cmdAct { idx := 0xA200, sub := 1, val := .num n, image := b } = s.fwAct n b :=
  (Dev.cmdAct_now (hnow.imp (fun h => by
    simp [CmdAct.measures, CmdAct.program, valNum]
    exact decide_eq_false (by omega)) fun h => ⟨CmdAct.program_fw, h⟩)).trans
    (Dev.cmdDo_fw hrun)

/-- The command of a program slot that is no COMMIT acts at once. -/
theorem Dev.cmdAct_prog {i : Nat} (hi : i < 256) (hop : n % 256 ≠ 2) (hrun : (s.cmdSt (0xB100 + i) 1).running = true) :
    s.cmdAct { idx := 0xB100 + i, sub := 1, val := .num n, image := b } = s.progAct i n :=
  (Dev.cmdAct_now (.inl (by rw [CmdAct.measures_prog hi]; simpa using hop))).trans (Dev.cmdDo_prog hi hrun)

end

/-- A write of an entry of a load target in order that is staged. -/
theorem Serves.of_staged {c : Instr} {h : ReqHdr} {x : Sess} {idx sub : Nat} {ty : ObjTyp} {v : OVal} {s u : Dev}
    (hc : ∀ y : State, exec c y = y.act (write h [⟨⟨idx, sub, ty.code⟩, v⟩])) (hon : s.On) (ho : s.Orders h x idx sub ty v)
    (hcmd : (objRow idx sub).map (·.acc) ≠ some .cmd) (hrws : (objRow idx sub).map (·.acc) ≠ some .rws)
    (hput : (s.heard h).putStaged h.sess idx sub v = some u) :
    Serves c h (.write [⟨⟨idx, sub, ty.code⟩, v⟩]) s (u.answerReq h.sess svWrite h.seq 0 [255]) := by
  refine Serves.of_orders hc hon ho ((Dev.write_one ho hrws).trans ?_)
  rw [Dev.putEntry_of_staged hcmd hput]
  rfl

/-- Settles O55: a load target's entries are staged; a command in order does its slot's action, a COMMIT with the image that was staged,
or waits behind other measurements. -/
theorem loadTargetCommandsComplete : Obligations.LoadTargetCommandsComplete := by
  unfold Obligations.LoadTargetCommandsComplete
  refine ⟨?_, ?_, ?_, ?_, ?_, ?_, ?_, ?_, ?_, ?_, ?_, ?_, ?_, ?_, ?_, ?_, ?_, ?_⟩
  · intro h x idx data s hon horders hmap hisLoadOff hisLoadData
    exact Serves.of_staged (fun _ => rfl) hon horders (by simp [hmap]) (by simp [hmap])
      (by simp [Dev.putStaged, hisLoadOff, hisLoadData, valBytes])
  · intro h x idx off s hon horders hmap hisLoadOff
    exact Serves.of_staged (fun _ => rfl) hon horders (by simp [hmap]) (by simp [hmap]) (by simp [Dev.putStaged, hisLoadOff, valNum])
  · rintro h x s t hon horders rfl
    exact Serves.of_action (fun _ => rfl) hon horders (by decide) (by simp [loadCmd, valNum]) (by simp [CmdAct.measures, CmdAct.program,
      valNum])
      (by simp [Dev.cmdDo, s.commanded_runs h 0x3000 1 (.num 1), valNum])
  · rintro h x b s t hon horders rfl rfl hjobs
    have hact : (s.commanded h 0x3000 1 (.num 2)).cmdDo { idx := 0x3000, sub := 1, val := .num 2, image := (s.load 0x3000).image } =
        (s.commanded h 0x3000 1 (.num 2)).eqCommitAct (s.load 0x3000).image := by
      simp [Dev.cmdDo, s.commanded_runs h 0x3000 1 (.num 2), valNum]
    exact Serves.of_commit (fun _ => rfl) hon horders (by decide) (by simp [loadCmd, valNum])
      ((Dev.cmdAct_now (.inr ⟨by simp [CmdAct.program], hjobs⟩)).trans hact)
  · rintro h x slot s t hon horders hslot rfl
    exact Serves.of_command (fun _ => rfl) hon horders (objRow_key slot hslot) (by simp [loadCmd_key hslot, valNum])
      ((Dev.cmdAct_key hslot (.inl (by omega)) (s.commanded_runs ..)).trans (by simp [Dev.keyAct]))
  · rintro h x slot role b s t hon horders hslot hrole hlength rfl rfl hjobs
    have hop : (2 + 256 * role) % 256 = 2 := by omega
    have hrole' : (2 + 256 * role) / 256 = role := by omega
    exact Serves.of_commit (fun _ => rfl) hon horders (objRow_key slot hslot) (by simp [loadCmd_key hslot, valNum, hop])
      ((Dev.cmdAct_key hslot (.inr hjobs) (s.commanded_runs ..)).trans (by simp [Dev.keyAct, hop, hrole', hlength]))
  · rintro h x slot s t hon horders hslot rfl hjobs
    exact Serves.of_command (fun _ => rfl) hon horders (objRow_key slot hslot) (by simp [loadCmd_key hslot, valNum])
      ((Dev.cmdAct_key hslot (.inr hjobs) (s.commanded_runs ..)).trans rfl)
  · intro b s hon hpendReport
    exact Does.of_act (f := reportReady) (fun _ => rfl) hon (by simp [reportReady, hpendReport])
  · rintro h x nonce s t hon horders rfl
    exact Serves.of_action (fun _ => rfl) hon horders (by decide) (by simp [loadCmd]) (by simp [CmdAct.measures, CmdAct.program, valNum])
      (by simp [Dev.cmdDo])
  · rintro h x kind s t hon horders hkind rfl
    have hop : (1 + 256 * kind) % 256 = 1 := by omega
    exact Serves.of_command (fun _ => rfl) hon horders (by decide) (by simp [loadCmd_fw, valNum, hop])
      ((Dev.cmdAct_fw (.inl (by omega)) (s.commanded_runs ..)).trans (by simp [Dev.fwAct, hop]))
  · rintro h x kind b s t hon horders hkind rfl rfl hjobs
    have hop : (2 + 256 * kind) % 256 = 2 := by omega
    have hkind' : (2 + 256 * kind) / 256 = kind := by omega
    exact Serves.of_commit (fun _ => rfl) hon horders (by decide) (by simp [loadCmd_fw, valNum, hop])
      ((Dev.cmdAct_fw (.inr hjobs) (s.commanded_runs ..)).trans
        (by unfold Dev.fwAct; dsimp only; rw [hop, hkind', if_neg (by decide), if_pos rfl, ite_not]))
  · rintro h x kind s t hon horders hkind rfl hjobs
    have hop : (3 + 256 * kind) % 256 = 3 := by omega
    have hkind' : (3 + 256 * kind) / 256 = kind := by omega
    exact Serves.of_command (fun _ => rfl) hon horders (by decide) (by simp [loadCmd_fw, valNum, hop])
      ((Dev.cmdAct_fw (.inr hjobs) (s.commanded_runs ..)).trans (by simp [Dev.fwAct, hop, hkind']))
  · rintro h x slot vs s t hon horders hslot hvs rfl
    have hop : (1 + 256 * vs) % 256 = 1 := by omega
    exact Serves.of_command (fun _ => rfl) hon horders (objRow_prog slot hslot) (by simp [loadCmd_prog hslot, valNum, hop])
      ((Dev.cmdAct_prog hslot (by omega) (s.commanded_runs ..)).trans (by simp [Dev.progAct, hop]))
  · rintro h x slot b s t hon horders hslot rfl rfl
    exact Serves.of_commit (fun _ => rfl) hon horders (objRow_prog slot hslot) (by simp [loadCmd_prog hslot, valNum])
      (Dev.cmdAct_waits (by simp [CmdAct.measures_prog hslot]) (.inl (by simp [CmdAct.program_prog hslot])))
  · rintro h x slot s t hon horders hslot hstate rfl
    exact Serves.of_command (fun _ => rfl) hon horders (objRow_prog slot hslot) (by simp [loadCmd_prog hslot, valNum])
      ((Dev.cmdAct_prog hslot (by omega) (s.commanded_runs ..)).trans (by simp [Dev.progAct, hstate]))
  · intro slot s hstate hretireAt hany
    exact if_pos ⟨hstate, hretireAt, by simp [hany]⟩
  · rintro slot p a s t hon hjobs hprogram rfl rfl hstate hrunning hprogFormed hexpect
    have hprog : (s.prog slot).state = 2 := hstate
    refine Does.of_act (f := programMeasured slot) (fun _ => rfl) hon ?_
    simp only [programMeasured, hjobs, hprogram, hprog, and_self, if_true, List.length_nil, Dev.runJobs]
    simp [Dev.measureProgram, hrunning, hprogFormed, hexpect]
  · rintro h x slot role b s t hon horders hslot rfl rfl hjobs
    have hop : (2 + 256 * role) % 256 = 2 := by omega
    exact Serves.of_commit (fun _ => rfl) hon horders (objRow_key slot hslot) (by simp [loadCmd_key hslot, valNum, hop])
      (Dev.cmdAct_waits (by simp [CmdAct.measures_key hslot, hop]) (.inr hjobs))

end Sys2Proof.Machine
end

section
/-! Services of a session (R555 to R559, R575 to R588). -/
namespace Sys2Proof.Machine

/-- A command that brings a request in order: what its service does. -/
theorem Serves.of_asks {c : Instr} {h : ReqHdr} {x : Sess} {r : SvcReq} {s t : Dev} (hc : ∀ y : State, exec c y = y.act fun d => d.receive h r)
    (hon : s.On) (ha : s.Asks h x) (e : s.serve { hdr := h, req := r } = t) : Serves c h r s t := by
  obtain ⟨hreach, hmay, -, -, -, -, -, -, -, hinbox⟩ := ha
  exact Serves.of_serve hc hon hreach hmay hinbox e

/-- A service that every request in order reaches. -/
theorem Serves.of_request {c : Instr} {h : ReqHdr} {x : Sess} {r : SvcReq} {s t : Dev} {svc : Nat} {serve : Dev → Sess → Dev}
    (hc : ∀ y : State, exec c y = y.act fun d => d.receive h r) (hon : s.On) (ha : s.Asks h x)
    (hr : s.serve { hdr := h, req := r } = s.request h svc serve) (e : serve (s.heard h) { x with at_ := s.now } = t) : Serves c h r s t :=
  Serves.of_asks hc hon ha (hr.trans ((Dev.request_serves ha).trans e))

/-- A READ whose entries all have a value is answered with them. -/
theorem Dev.doRead_of_readAll {s t : Dev} {h : ReqHdr} {x : Sess} {es : List EntryRef} {b : List Byte} (ho : s.open? h.sess = some x)
    (hes : es ≠ []) (hlen : es.length ≤ 32) (hall : s.readAll x es = (0, b, t)) (hb : b.length ≤ messageMax) :
    s.doRead h es = t.answerReq h.sess svRead h.seq 0 b := by
  unfold Dev.doRead
  rw [ho]
  dsimp only
  rw [if_neg (by simp [hes, hlen]), hall]
  exact (if_neg (by simp)).trans (if_neg (Nat.not_lt.2 hb))

/-- A WRITE without a failing entry stores its entries; its response and its actions wait where a value goes to flash first. -/
theorem Dev.doWrite_of_checkAll_none {s t : Dev} {h : ReqHdr} {x : Sess} {es : List EntryWrite} {acts : List CmdAct}
    (ho : s.open? h.sess = some x) (hes : es ≠ []) (hlen : es.length ≤ 32) (hcheck : s.checkAll h.sess es [] es = none)
    (hstore : s.storeAll h.sess es = (t, acts)) :
    s.doWrite h es =
      if rwsVals es = [] then each acts (t.answerReq h.sess svWrite h.seq 0 (t.writeBody acts)) fun s a => s.cmdAct a
      else { t with svc.commits := t.svc.commits ++
        [{ sess := h.sess, seq := h.seq, body := t.writeBody acts, vals := rwsVals es, acts := acts }] } := by
  unfold Dev.doWrite
  dsimp only
  rw [ho]
  dsimp only
  rw [if_neg (by simp [hes, hlen]), hcheck]
  dsimp only
  rw [hstore]
  simp only [List.isEmpty_iff]

/-- Settles O53: a request in order is carried out by its service; the events of sessions take one branch. -/
theorem requestServicesComplete : Obligations.RequestServicesComplete := by
  unfold Obligations.RequestServicesComplete
  refine ⟨?_, ?_, ?_, ?_, ?_, ?_, ?_, ?_, ?_, ?_, ?_, ?_, ?_, ?_, ?_⟩
  · intro h x es b s t hon hasks hfarLock hes hlength hreadAll hlength2
    exact Serves.of_asks (fun _ => rfl) hon hasks ((Dev.serveRead_of_asks hasks hfarLock).trans
      (Dev.doRead_of_readAll (Dev.open_heard hasks.2.2.1) hes hlength hreadAll hlength2))
  · intro h x es acts s t hon hasks hfarLock hes hlength hcheckAll hstoreAll
    exact Serves.of_asks (fun _ => rfl) hon hasks ((Dev.serveWrite_of_asks hasks hfarLock).trans
      (Dev.doWrite_of_checkAll_none (Dev.open_heard hasks.2.2.1) hes hlength hcheckAll hstoreAll))
  · intro k c s hon hfindIdx hhead hlive
    refine Does.of_act (f := rwsFlashCommit k) (fun _ => rfl) hon ?_
    obtain ⟨l, hl⟩ : ∃ l, s.svc.commits = c :: l := by
      cases hcommits : s.svc.commits with
      | nil => simp [hcommits] at hhead
      | cons d l => simp_all
    unfold rwsFlashCommit
    dsimp only
    rw [hfindIdx, hl]
    simp [hlive]
  · intro h x r row s hon hasks hindexExists hobjRow
    exact Serves.of_request (fun _ => rfl) hon hasks rfl (by simp [hindexExists, hobjRow])
  · intro h x mask s hon hasks hmatch
    refine Serves.of_request (fun _ => rfl) hon hasks rfl ?_
    cases hsess : h.sess with
    | mailbox vs => simp [hsess] at hmatch
    | udp i => rfl
    | mctp e => rfl
  · intro h x nseq s hon hasks
    exact Serves.of_request (fun _ => rfl) hon hasks rfl rfl
  · intro h x s hon hasks
    exact Serves.of_request (fun _ => rfl) hon hasks rfl rfl
  · intro h x s hon hasks
    exact Serves.of_request (fun _ => rfl) hon hasks rfl rfl
  · intro h id i slot body c s t u hon hreachable hmayAsk hinbox hsess hfault hversion hlength htill hudpOpen hdrawId hchallenge
    refine Serves.of_serve (fun _ => rfl) hon hreachable hmayAsk hinbox ?_
    have hfew : ¬ 8 ≤ s.udpOpen := by omega
    show s.serveOpen h slot body = _
    unfold Dev.serveOpen
    rw [if_neg (by simp [hreachable, hmayAsk]), hsess]
    simp only [hfault, hversion, hlength, htill, hfew, ← hdrawId, ← hchallenge, ne_eq, not_true_eq_false, if_false, Option.isSome_none,
      Bool.false_eq_true]
  · intro h i sig x s hon hreachable hmayAsk hinbox hsess hsess2 hfrom htagOk hopened hnow hfault hversion hstate hudpOpen
    refine Serves.of_serve (fun _ => rfl) hon hreachable hmayAsk hinbox ?_
    have hfew : ¬ 8 ≤ s.udpOpen := by omega
    have hsoon : ¬ x.at_ + 5 * tSec < s.now := by omega
    have hok : s.proofOk x sig = Config.mldsaVerify (s.keySlot x.slot).key x.transcript [] sig := by simp [Dev.proofOk, hstate]
    show s.serveProof h sig = _
    unfold Dev.serveProof
    rw [if_neg (by simp [hreachable, hmayAsk])]
    simp only [hsess2, hfrom, htagOk, hopened, hsoon, hfault, hversion, hok, hfew, ne_eq, not_true_eq_false, if_false, Bool.false_eq_true,
      ite_not]
    rw [hsess]
  · intro i x s hon hopen hat hany
    exact Does.of_act (f := sessionIdleTimeout (.udp i)) (fun _ => rfl) hon (by simp [sessionIdleTimeout, hopen, hat, hany])
  · intro k x s hon hsess hopened hat
    exact Does.of_act (f := proofTimeout k) (fun _ => rfl) hon (by simp [proofTimeout, hsess, hopened, hat])
  · intro slot t s hon hslot htill hnow
    exact Does.of_act (f := keySlotUnlock slot) (fun _ => rfl) hon (by simp [keySlotUnlock, hslot, htill, hnow])
  · intro k x s hon hreachable hopen hnotes hnoteAt
    exact Does.of_act (f := notifyRetransmit k) (fun _ => rfl) hon (by simp [notifyRetransmit, hreachable, hopen, hnotes, hnoteAt])
  · intro src e s hon hevt hcount hmatch hevtClass hevtClass2
    have hdue : ¬ (¬ (match e.last with | some t => decide (t + tMs ≤ s.now) | none => true) = true) := not_not_intro hmatch
    refine Does.of_act (f := eventNoticeSend src) (fun _ => rfl) hon ?_
    unfold eventNoticeSend
    rw [hevt]
    exact if_neg (not_or.2 ⟨hcount, not_or.2 ⟨hdue, not_or.2 ⟨Nat.not_lt.2 hevtClass, Nat.not_lt.2 hevtClass2⟩⟩⟩)

end Sys2Proof.Machine
end

section
/-! Time flits, exchanges, PTM and bandwidth windows (R605 to R627). -/
namespace Sys2Proof.Machine

/-- Settles O57: each clause's assumptions choose one branch of its command. -/
theorem timePlaneCompletes : Obligations.TimePlaneCompletes := by
  unfold Obligations.TimePlaneCompletes
  refine ⟨?_, ?_, ?_, ?_, ?_, ?_, ?_, ?_, ?_, ?_, ?_, ?_, ?_, ?_⟩
  · intro port val s hon hblActive
    exact Does.of_act (f := timeSync port val) (fun _ => rfl) hon (by simp [timeSync, hblActive])
  · rintro port val low t1 t3 s hon hblActive htstate rfl hsyncLow hsentAt hparentSync
    exact Does.of_act (f := timeReport _ val) (fun _ => rfl) hon
      (by simp [timeReport, hblActive, htstate, hsyncLow, hsentAt, hparentSync])
  · intro t s hstepTo htstate
    simp [Dev.stepDue, hstepTo, htstate]
  · intro port val s hon hblActive
    exact Does.of_act (f := timeHigh port val) (fun _ => rfl) hon (by simp [timeHigh, timeHigh.timeSpan, hblActive])
  · intro port val s hon hblActive
    exact Does.of_act (f := timeTop port val) (fun _ => rfl) hon (by simp [timeTop, hblActive])
  · intro port val s hon hblActive
    exact Does.of_act (f := timeState port val) (fun _ => rfl) hon (by simp [timeState, hblActive])
  · intro port q val s hon hblActive hq
    exact Does.of_act (f := timeRoot port q val) (fun _ => rfl) hon (by simp [timeRoot, hblActive, hq])
  · intro port s hon hblActive htxsleep hisTimePort hlastSend
    exact Does.of_act (f := timeExchangeInterval port) (fun _ => rfl) hon
      (by simp [timeExchangeInterval, hblActive, htxsleep, hisTimePort, hlastSend])
  · intro port low s hon hblActive htxsleep hisTimePort hlastSend hsyncLow
    exact Does.of_act (f := timeExchangeInterval port) (fun _ => rfl) hon
      (by simp [timeExchangeInterval, hblActive, htxsleep, hisTimePort, hlastSend, hsyncLow])
  · intro port t s hon hrefreshed htMs
    exact Does.of_act (f := timeDescriptorExpiry port) (fun _ => rfl) hon (by simp [timeDescriptorExpiry, hrefreshed, htMs])
  · rintro port s hon htstate rfl hloss
    exact Does.of_act (f := timePortLoss _) (fun _ => rfl) hon (by simp [timePortLoss, htstate, hloss])
  · intro vs s hon hptmAsks hmatch
    exact Does.of_act (f := ptmHostRequest vs) (fun _ => rfl) hon (if_pos (Bool.and_eq_true_iff.2 ⟨hptmAsks, hmatch⟩))
  · intro vs host s hon hptmAsks
    exact Does.of_act (f := ptmHostResponse vs host) (fun _ => rfl) hon (by simp [ptmHostResponse, hptmAsks])
  · intro s hon hbwNext
    exact Does.of_act (f := bwWindowEnd) (fun _ => rfl) hon (if_neg (Nat.not_lt.2 hbwNext))

end Sys2Proof.Machine
end

section
/-! Wear, die temperatures, measurement and the boot (R621 to R646). -/
namespace Sys2Proof.Machine

/-- Settles O58: each clause's assumptions choose one branch of its command. -/
theorem wearBootAndMeasurementComplete : Obligations.WearBootAndMeasurementComplete := by
  unfold Obligations.WearBootAndMeasurementComplete
  refine ⟨?_, ?_, ?_, ?_, ?_, ?_, ?_, ?_, ?_⟩
  · intro s hon hwearAt
    exact Does.of_act (f := wearTick) (fun _ => rfl) hon (by simp [wearTick, hwearAt])
  · intro s hon hwearStoreAt
    exact Does.of_act (f := wearStore) (fun _ => rfl) hon (if_neg (Nat.not_lt.2 hwearStoreAt))
  · intro die milliC s hon hdie
    exact Does.of_act (f := dieTempReading die milliC) (fun _ => rfl) hon (by simp [dieTempReading, hdie])
  · intro slot code s hon hslot hreachable hgetD
    exact Does.of_act (f := remeasure slot code) (fun _ => rfl) hon
      (if_neg (not_or.2 ⟨by omega, not_or.2 ⟨not_not_intro hreachable, Nat.not_lt.2 hgetD⟩⟩))
  · rintro slot u s hon hstate hrstLow rfl hslot htestBit hinUse
    refine Does.of_act (f := imageMeasure _) (fun _ => rfl) hon ?_
    have hmay : ¬ 5 ≤ s.trust.measured := by omega
    simp [imageMeasure, hstate, hrstLow, hmay, hslot, htestBit, hinUse]
  · rintro slot s hon hstate hrstLow rfl hslot htestBit
    refine Does.of_act (f := imageMeasure _) (fun _ => rfl) hon ?_
    unfold imageMeasure
    rw [if_neg (by simp [hstate, hrstLow]; omega)]
    dsimp only
    exact (if_neg htestBit).trans (by cases s.bootCopy s.trust.measured <;> rfl)
  · intro s hon hstate hrstLow hmeasured
    exact Does.of_act (f := bootComplete) (fun _ => rfl) hon (by simp [bootComplete, hstate, hrstLow, hmeasured])
  · intro s hon
    exact Does.of_act (f := eccInitComplete) (fun _ => rfl) hon (by simp [eccInitComplete])
  · intro s hon hjoined hrrsDone hreachable hbootAt
    exact Does.of_act (f := rrsLimitExpiry) (fun _ => rfl) hon (by simp [rrsLimitExpiry, hjoined, hrrsDone, hreachable, hbootAt])

end Sys2Proof.Machine
end

section
/-! The power controller's events (R653 to R677). -/
namespace Sys2Proof.Machine

/-- Settles O59: each clause's assumptions choose one branch of its event. -/
theorem powerControllerCompletes : Obligations.PowerControllerCompletes := by
  unfold Obligations.PowerControllerCompletes
  refine ⟨?_, ?_, ?_, ?_, ?_, ?_, ?_, ?_, ?_, ?_, ?_, ?_, ?_, ?_, ?_, ?_, ?_, ?_, ?_, ?_, ?_⟩
  · intro s hstate hisSome hpgood
    exact Does.of_actPe (f := powerGood) (fun _ => rfl) (by simp [powerGood, hstate, hisSome, hpgood])
  · intro x s t fl hstate hva hfreeNat
    refine Does.of_actPe (f := controllerStart x) (fun _ => rfl) ?_
    have hhigh : ¬ (x.va < 4000 ∧ x.vb < 4000) := by omega
    simp [controllerStart, hstate, hhigh, ← hfreeNat]
  · intro f x s hstate hf husableFeed hfeedMv hsagWarnMv hfeedMv2
    exact Does.of_actPe (f := feedUsable f x) (fun _ => rfl)
      (by simp [feedUsable, hstate, hf, husableFeed, hfeedMv, hsagWarnMv, hfeedMv2])
  · intro f why x s hstate husableFeed
    exact Does.of_actPe (f := feedLost f why x) (fun _ => rfl) (by simp [feedLost, hstate, husableFeed])
  · intro f why x s hstate husableFeed
    unfold Dev.takeLoss
    exact if_neg (by simp [hstate, husableFeed])
  · intro s hnow
    unfold Dev.sampleEnd
    exact if_neg (not_not_intro hnow)
  · intro t s hbreakTill hstate hnow
    exact Does.of_actPe (f := transferBreakEnd) (fun _ => rfl) (by simp [transferBreakEnd, hbreakTill, hstate, hnow])
  · intro x s hstate hregulating hbusNear
    exact Does.of_actPe (f := transferEnd x) (fun _ => rfl) (by simp [transferEnd, hstate, hregulating, hbusNear])
  · intro x s hstate hfeed husableFeed hgetD hrevertAt
    exact Does.of_actPe (f := feedRevert x) (fun _ => rfl) (by simp [feedRevert, hstate, hfeed, husableFeed, hrevertAt,
      -List.getD_eq_getElem?_getD, Nat.not_lt.2 hgetD])
  · intro x s hstate hbusNear
    exact Does.of_actPe (f := rampEnd x) (fun _ => rfl) (by simp [rampEnd, hstate, hbusNear])
  · intro s hstate hregulating hat
    exact Does.of_actPe (f := inrushFaultTimeout) (fun _ => rfl) (by simp [inrushFaultTimeout, hstate, hregulating, hat])
  · intro t s hrailAt hstate htMs
    exact Does.of_actPe (f := railFaultTimeout) (fun _ => rfl) (by simp [railFaultTimeout, hrailAt, hstate, htMs])
  · intro f ma s hconducts hstate
    exact Does.of_actPe (f := fastTrip f ma) (fun _ => rfl) (by simp [fastTrip, hconducts, hstate])
  · intro f pt ma s hconducts hpt h1
    exact Does.of_actPe (f := breakerTrip f pt ma) (fun _ => rfl) (if_pos ⟨hconducts, hpt, h1⟩)
  · intro s hstate
    exact Does.of_actPe (f := latchRelease) (fun _ => rfl) (by simp [latchRelease, hstate])
  · intro x s hstate hva hvb
    exact Does.of_actPe (f := controllerStop x) (fun _ => rfl) (by simp [controllerStop, hstate, hva, hvb])
  · intro x s hstate hpfw hbus
    exact Does.of_actPe (f := sagWarn x) (fun _ => rfl) (by simp [sagWarn, hstate, hpfw, hbus])
  · intro x s hstate hpfw hsagWarnMv
    exact Does.of_actPe (f := pfwRelease x) (fun _ => rfl) (by simp [pfwRelease, hstate, hpfw, hsagWarnMv])
  · intro x s hstate hbus
    exact Does.of_actPe (f := sagReset x) (fun _ => rfl) (by simp [sagReset, hstate, hbus])
  · intro s hstate
    exact if_pos hstate
  · intro s hstate hstoreAt
    exact Does.of_actPe (f := energyStore) (fun _ => rfl) (by simp [energyStore, hstate, hstoreAt])

end Sys2Proof.Machine
end

section
/-! Slot channels, resets and late events (R523 to R531, R678 to R710). -/
namespace Sys2Proof.Machine

/-- Settles O60: each clause's assumptions choose one branch of its command. -/
theorem slotAndResetCommandsComplete : Obligations.SlotAndResetCommandsComplete := by
  unfold Obligations.SlotAndResetCommandsComplete
  refine ⟨?_, ?_, ?_, ?_, ?_, ?_, ?_, ?_, ?_, ?_, ?_, ?_, ?_, ?_, ?_, ?_, ?_, ?_, ?_, ?_, ?_, ?_, ?_, ?_, ?_, ?_, ?_⟩
  · intro held s hon hheld
    have hlong : ¬ held < 10000 := by omega
    have hvalid : ¬ held < 1000 := by omega
    exact Does.of_act (f := warmReset held) (fun _ => rfl) hon (by simp [warmReset, hlong, hvalid])
  · intro vs s hon hvsExists hresetNow
    exact Does.of_act (f := vsHotReset vs) (fun _ => rfl) hon (by simp [vsHotReset, hvsExists, hresetNow])
  · intro n s hon hisHost
    exact Does.of_act (f := hostPerstAssert n) (fun _ => rfl) hon (by simp [hostPerstAssert, hisHost])
  · intro n s hon hisHost
    exact Does.of_act (f := hostPerstRelease n) (fun _ => rfl) hon (by simp [hostPerstRelease, hisHost])
  · rintro k c s hon hk rfl hen hslotCtl hprsnt hretryAt hoffAt hstate hstStandby hstate2
    exact Does.of_act (f := slotSoftStart k) (fun _ => rfl) hon
      (by simp [slotSoftStart, hk, hen, hslotCtl, hprsnt, hretryAt, hoffAt, hstate, hstStandby, hstate2])
  · intro k mv s hk hstate
    exact Does.of_actPe (f := slotPowerGood k mv) (fun _ => rfl) (if_pos ⟨hk, hstate⟩)
  · intro k s hk hstate hat
    exact Does.of_actPe (f := slotStartTimeout k) (fun _ => rfl) (by simp [slotStartTimeout, hk, hstate, hat])
  · intro k ma s hk hgateOn hslotLimitMa
    exact Does.of_actPe (f := slotFastTrip k ma) (fun _ => rfl) (by simp [slotFastTrip, hk, hgateOn, hslotLimitMa])
  · intro k ma s hk hstate hslotLimitMa
    exact Does.of_actPe (f := slotFaultTimeTrip k ma) (fun _ => rfl) (by simp [slotFaultTimeTrip, hk, hstate, hslotLimitMa])
  · intro k mv s hk hstate
    exact Does.of_actPe (f := slotVoutTrip k mv) (fun _ => rfl) (by simp [slotVoutTrip, hk, hstate])
  · intro k t s hk hretryAt hnow
    exact Does.of_actPe (f := slotRetryEnd k) (fun _ => rfl) (by simp [slotRetryEnd, hk, hretryAt, hnow])
  · intro k s hk hstate hat
    exact Does.of_actPe (f := slotCountRestart k) (fun _ => rfl) (by simp [slotCountRestart, hk, hstate, hat])
  · intro k s hk hgateOn
    exact Does.of_actPe (f := slotPresenceLoss k) (fun _ => rfl) (by simp [slotPresenceLoss, hk, hgateOn])
  · intro k s hgateOn
    unfold Dev.takeGone
    rw [if_pos hgateOn]
  · intro k s hk hgateOn htripAt
    exact Does.of_actPe (f := slotPresenceLoss k) (fun _ => rfl) (by simp [slotPresenceLoss, hk, hgateOn, htripAt])
  · intro k t s hk hgateOn htripAt htUs
    exact Does.of_actPe (f := slotPresenceLoss k) (fun _ => rfl) (by simp [slotPresenceLoss, hk, hgateOn, htripAt, htUs])
  · intro k mv s hk hgateOn hslotSagMv hpfw
    exact Does.of_actPe (f := slotSag k mv) (fun _ => rfl) (by simp [slotSag, hk, hgateOn, hslotSagMv, hpfw])
  · intro k mv s hk hgateOn hslotSagMv hpfw hoffAt
    exact Does.of_actPe (f := slotPfwRelease k mv) (fun _ => rfl) (by simp [slotPfwRelease, hk, hgateOn, hslotSagMv, hpfw, hoffAt])
  · intro n s hon hblState
    exact Does.of_act (f := receiverAligned n) (fun _ => rfl) hon (by simp [receiverAligned, hblState])
  · intro i n s hon hbusy hportOfLane hisFabric hstate hwindow hlanesOk
    exact Does.of_act (f := prbsCheckerLock i) (fun _ => rfl) hon
      (by simp [prbsCheckerLock, hbusy, hportOfLane, hisFabric, hstate, hwindow, hlanesOk])
  · intro i s hon hbusy hportOfLane
    exact Does.of_act (f := prbsCheckerLock i) (fun _ => rfl) hon (by simp [prbsCheckerLock, hbusy, hportOfLane])
  · intro n s hon hup hl1
    exact Does.of_act (f := l1Exit n) (fun _ => rfl) hon (by simp [l1Exit, hup, hl1])
  · intro n kind hdr data s hon hisHost hkind
    exact Does.of_act (f := pcieCreditUpdate n kind hdr data) (fun _ => rfl) hon (by simp [pcieCreditUpdate, hisHost, hkind])
  · intro e seq t s hon hsb hstoreReady hturnOk
    exact Does.of_act (f := storeVisible e seq) (fun _ => rfl) hon (by simp [storeVisible, hsb, hstoreReady, hturnOk])
  · rintro e seq a data s t hon hacc hhold haccReady hturnOk rfl
    exact Does.of_act (f := accessComplete e seq (.ok data)) (fun _ => rfl) hon
      (by simp [accessComplete, Dev.accessEnd, hacc, hhold, haccReady, hturnOk])
  · rintro q moved vs fn l data d s hon howner hdescs rfl
    exact Does.of_act (f := copyComplete q _ data) (fun _ => rfl) hon (by simp [copyComplete, Dev.copyFinish, howner, hdescs])
  · intro s hon hisSome
    exact Does.of_act (f := rstNRelease) (fun _ => rfl) hon (by simp [rstNRelease, hisSome])

end Sys2Proof.Machine
end

section
/-! Neighbour notices and directed packets (R358 to R366, R411). -/
namespace Sys2Proof.Machine

/-- Settles O44: a directed packet that ends here acts by `Dev.directedEnd_here`. -/
theorem directedPacketCommandsComplete : Obligations.DirectedPacketCommandsComplete := by
  unfold Obligations.DirectedPacketCommandsComplete
  refine ⟨?_, ?_, ?_, ?_, ?_, ?_, ?_, ?_, ?_, ?_⟩
  · intro port n ev reason time s hon hfind hjoined
    exact Does.of_act (f := neighbourNoticeSend port) (fun _ => rfl) hon (by simp [neighbourNoticeSend, hfind, hjoined])
  · intro port b c s hon hisFabric hdirectedHop hbyteN hdirectedKind
    exact Does.of_act (f := directedPacketRelay port b) (fun _ => rfl) hon
      (by simp [directedPacketRelay, hisFabric, hdirectedHop, hbyteN, hdirectedKind])
  · intro port b s hon hisFabric hdirectedHop
    exact Does.of_act (f := directedPacketRelay port b) (fun _ => rfl) hon (by simp [directedPacketRelay, hisFabric, hdirectedHop])
  · intro port b c s hon hisFabric hdirectedHop hbyteN hbyteN2
    exact Does.of_act (f := neighbourQuery port b) (fun _ => rfl) hon
      (Dev.directedEnd_here hisFabric hdirectedHop hbyteN hbyteN2)
  · intro port b c s hon hisFabric hdirectedHop hbyteN hbyteN2
    exact Does.of_act (f := neighbourReply port b) (fun _ => rfl) hon
      (Dev.directedEnd_here hisFabric hdirectedHop hbyteN hbyteN2)
  · intro port b c s hon hisFabric hdirectedHop hbyteN hbyteN2 hclassPair
    exact Does.of_act (f := classCheck port b) (fun _ => rfl) hon
      ((Dev.directedEnd_here hisFabric hdirectedHop hbyteN hbyteN2).trans (if_neg (by simp [hclassPair])))
  · intro port b c s hon hisFabric hdirectedHop hbyteN hbyteN2 hbyteN3 hbyteN4 hbusHeld
    exact Does.of_act (f := directedMwRequest port b) (fun _ => rfl) hon
      ((Dev.directedEnd_here hisFabric hdirectedHop hbyteN hbyteN2).trans (by simp [hbyteN3, hbyteN4, hbusHeld]))
  · intro port b c s hon hisFabric hdirectedHop hbyteN hbyteN2
    exact Does.of_act (f := directedMwResponse port b) (fun _ => rfl) hon
      (Dev.directedEnd_here hisFabric hdirectedHop hbyteN hbyteN2)
  · intro port b c s hon hisFabric hjoined hdirectedHop hbyteN hbyteN2
    exact Does.of_act (f := directedDownTree port b) (fun _ => rfl) hon
      ((Dev.directedEnd_here hisFabric hdirectedHop hbyteN hbyteN2).trans (by simp [hjoined]))
  · intro port b c s hon hisFabric hdirectedHop hbyteN hbyteN2
    exact Does.of_act (f := directedUpTree port b) (fun _ => rfl) hon
      (Dev.directedEnd_here hisFabric hdirectedHop hbyteN hbyteN2)

end Sys2Proof.Machine
end

section
/-! Messages of the deal and its tree (R430 to R470). -/
namespace Sys2Proof.Machine

/-- A command names the kind its message has. -/
theorem TreeMsg.withKind_same {m : TreeMsg} {k : Nat} (h : m.kind = k) : ({ m with kind := k } : TreeMsg) = m := by rw [← h]

/-- A down message of a sender the switch follows acts on the switch that has followed it. -/
theorem Does.of_downMsg {c : Instr} {src : TreeSrc} {m : TreeMsg} {k : Nat} {act : Dev → Bool → Dev} {s t u : Dev}
    (hc : ∀ y : State, exec c y = y.act fun s => s.downMsg src { m with kind := k } act) (hon : s.On) (hkind : m.kind = k)
    (hsrc : s.treeAccept src = true) (hterm : s.fget Fld.DL_DEAL_STAT.TERM 0 ≤ m.term) (ht : t = s.followed src m)
    (e : act t true = u) : Does c s u := by
  refine Does.of_act hc hon ?_
  rw [TreeMsg.withKind_same hkind, Dev.downMsg_followed hsrc hterm, ← ht, e]

/-- An up message of a child that belongs to what the switch combines is taken. -/
theorem Dev.upMsg_taken {s : Dev} {f kind : Nat} {m : TreeMsg} (hkid : (s.treeKids.any fun k => k.2 == f) = true)
    (hactive : (s.comb kind).active = true) (hfor : (s.comb kind).isFor kind m = true)
    (hnew : (s.comb kind).from_.contains f = false) :
    s.upMsg (.fsid f) kind m = (s.setComb kind ((s.comb kind).take f m)).combTry kind := by
  unfold Dev.upMsg
  dsimp only
  rw [if_pos hkid]
  exact if_pos ⟨hactive, hfor, ne_true_of_eq_false hnew⟩

/-- A CONFIRM of no child goes to the dealer, where the switch carries it. -/
theorem Dev.upMsg_to_dealer {s : Dev} {f kind : Nat} {m : TreeMsg} (hkid : (s.treeKids.any fun k => k.2 == f) = false) (hk : m.kind = kind)
    (hkind : kind ≠ 0x18) (hactive : s.dl.dealer.active = true) :
    s.upMsg (.fsid f) kind m = s.emit (.deliver 52 none (.ctl (treeBytes m))) := by
  unfold Dev.upMsg
  dsimp only
  rw [if_neg (ne_true_of_eq_false hkid), TreeMsg.withKind_same hk]
  unfold Dev.dealerHears
  dsimp only
  rw [if_neg (fun h => hkind (hk.symm.trans h.1)), if_pos hactive]

/-- Settles O47: a message the switch follows acts on the switch after `Dev.followed`; the other clauses take one branch of their event.
-/
theorem dealCommandsComplete : Obligations.DealCommandsComplete := by
  unfold Obligations.DealCommandsComplete
  refine ⟨?_, ?_, ?_, ?_, ?_, ?_, ?_, ?_, ?_, ?_, ?_, ?_, ?_, ?_, ?_, ?_, ?_, ?_, ?_, ?_, ?_, ?_, ?_, ?_, ?_⟩
  · intro src m s t hon hkind htreeAccept hterm hfollowed hprepCode hstate
    exact Does.of_downMsg (fun _ => rfl) hon hkind htreeAccept hterm hfollowed
      ((if_neg (not_not_intro hprepCode)).trans (if_neg hstate))
  · rintro src m code s t hon hkind htreeAccept hterm hfollowed rfl hcode
    exact Does.of_downMsg (fun _ => rfl) hon hkind htreeAccept hterm hfollowed
      (if_pos hcode)
  · intro src m s hon htreeAccept
    exact Does.of_act (f := prepare src m) (fun _ => rfl) hon (Dev.downMsg_dropped htreeAccept)
  · intro m f s hon hkind hany hactive hisFor hcontains
    refine Does.of_act (f := vote m (.fsid f)) (fun _ => rfl) hon ?_
    rw [vote, TreeMsg.withKind_same hkind]
    exact Dev.upMsg_taken hany hactive hisFor hcontains
  · intro src m s t hon hkind htreeAccept hterm hfollowed hpreparedFor hftime
    exact Does.of_downMsg (fun _ => rfl) hon hkind htreeAccept hterm hfollowed
      ((if_pos (by simp [hpreparedFor])).trans (by rw [if_neg (Nat.not_le.2 hftime)]))
  · intro src m s t hon hkind htreeAccept hterm hfollowed hpreparedFor ht
    exact Does.of_downMsg (fun _ => rfl) hon hkind htreeAccept hterm hfollowed
      ((if_pos (by simp [hpreparedFor])).trans (by rw [if_pos ht]))
  · intro x s hon hgoT hgoLate hstate hsampled
    have hdue : s.dealDue = true := by simp [Dev.dealDue, hgoT, hgoLate, hsampled]
    exact Does.of_act (f := dealApply) (fun _ => rfl) hon (by simp [dealApply, hstate, hdue, hgoLate])
  · intro c s hon hgoLate hstate hcycle
    have hdue : s.dealDue = true := by simp [Dev.dealDue, hgoLate, hcycle]
    exact Does.of_act (f := dealApply) (fun _ => rfl) hon (by simp [dealApply, hstate, hdue, hgoLate])
  · intro src m s t hon hkind htreeAccept hterm hfollowed hpreparedFor
    exact Does.of_downMsg (fun _ => rfl) hon hkind htreeAccept hterm hfollowed
      (if_pos (by simp [hpreparedFor]))
  · intro src m s t hon hkind htreeAccept hterm hfollowed hstate hepoch hround
    exact Does.of_downMsg (fun _ => rfl) hon hkind htreeAccept hterm hfollowed
      (if_pos (by simp [hstate, hepoch, hround]))
  · intro s hon hstate hdrainMissing holdGone
    exact Does.of_act (f := drainLocalConfirm) (fun _ => rfl) hon (by simp [drainLocalConfirm, hstate, hdrainMissing, holdGone])
  · rintro src m f s hon rfl hkind hany hactive
    refine Does.of_act (f := confirm (.fsid f) m) (fun _ => rfl) hon ?_
    rw [confirm, TreeMsg.withKind_same hkind]
    exact Dev.upMsg_to_dealer hany hkind (by decide) hactive
  · rintro src m s t u hon hkind htreeAccept hterm hfollowed hstate hepoch rfl
    exact Does.of_downMsg (fun _ => rfl) hon hkind htreeAccept hterm hfollowed
      (if_pos (by simp [hstate, hepoch]))
  · intro port info s hon hblActive
    exact Does.of_act (f := markerReceive port 1 info) (fun _ => rfl) hon (if_pos hblActive)
  · intro port id s hon hblActive hcutId
    exact Does.of_act (f := markerReceive port 2 id) (fun _ => rfl) hon ((if_pos hblActive).trans (by simp [Dev.marker, hcutId]))
  · intro s hon hstate hmarkerTo hdrainDue hdrainMissing hhatchHolding
    exact Does.of_act (f := markerTimeout false) (fun _ => rfl) hon
      (by simp [markerTimeout, hstate, hmarkerTo, hdrainDue, hdrainMissing, hhatchHolding])
  · intro s hon hcutActive hcutDue hcutMissing hhatchHolding
    refine Does.of_act (f := markerTimeout true) (fun _ => rfl) hon ?_
    unfold markerTimeout
    rw [if_pos rfl]
    dsimp only
    rw [if_neg (by simp [hcutActive, hcutMissing]; omega)]
    simp only [hhatchHolding, Option.isSome_none, Bool.false_eq_true, if_false, b2n, Nat.mul_zero, Nat.add_zero, Option.getD_none]
  · intro src m s t hon hkind htreeAccept hterm hfollowed hcutId
    exact Does.of_downMsg (fun _ => rfl) hon hkind htreeAccept hterm hfollowed
      (if_pos (by simp [hcutId]))
  · intro s hon hcutActive hcutMissing
    exact Does.of_act (f := cutRecordComplete) (fun _ => rfl) hon (by simp [cutRecordComplete, hcutActive, hcutMissing])
  · rintro src m f s hon rfl hkind hany hactive hepoch hcontains
    refine Does.of_act (f := cutDone (.fsid f) m) (fun _ => rfl) hon ?_
    rw [cutDone, TreeMsg.withKind_same hkind]
    exact Dev.upMsg_taken hany hactive (by simp [Dev.comb, Combine.isFor, hepoch]) hcontains
  · rintro miss s hon hactive hdeadline rfl hmiss
    refine Does.of_act (f := treeChildTimeout 0x11) (fun _ => rfl) hon ?_
    unfold treeChildTimeout
    dsimp only
    exact if_neg (not_or.2 ⟨not_not_intro (.inl rfl),
      not_or.2 ⟨not_not_intro hactive, not_or.2 ⟨Nat.not_lt.2 hdeadline, mt List.isEmpty_iff.1 hmiss⟩⟩⟩)
  · intro s t hon hmayDeal hactive hbeatAt
    exact Does.of_act (f := dealerHeartbeat) (fun _ => rfl) hon (by simp [dealerHeartbeat, hmayDeal, hactive, hbeatAt])
  · intro s hon honum hactive hbyteN
    refine Does.of_act (f := dealerTakeover) (fun _ => rfl) hon ?_
    unfold dealerTakeover
    dsimp only
    rw [if_pos (by simp [honum, hactive]), hbyteN]
    rfl
  · intro src m s t hon hkind htreeAccept hterm hfollowed
    exact Does.of_downMsg (fun _ => rfl) hon hkind htreeAccept hterm hfollowed
      (if_pos rfl)
  · intro x s hon hresetT hsampled hresetLate
    exact Does.of_act (f := fabricResetAt) (fun _ => rfl) hon (by simp [fabricResetAt, hresetT, hsampled, hresetLate])

end Sys2Proof.Machine
end

section
/-! The Brorna link's flits, bring-up and replay (R300 to R357). -/
namespace Sys2Proof.Machine

/-- Only the 48 external ports are enabled. -/
theorem Dev.lt_of_enabled {s : Dev} {n : Nat} (h : s.enabled n = true) : n < 48 := by
  unfold Dev.enabled at h
  exact of_decide_eq_true (Bool.and_eq_true_iff.1 h).1

/-- Settles O43: each clause's assumptions choose one branch of its command. -/
theorem brornaLinkCommandsComplete : Obligations.BrornaLinkCommandsComplete := by
  unfold Obligations.BrornaLinkCommandsComplete
  refine ⟨?_, ?_, ?_, ?_, ?_, ?_, ?_, ?_, ?_, ?_, ?_, ?_, ?_, ?_, ?_, ?_, ?_, ?_, ?_, ?_, ?_, ?_, ?_, ?_, ?_, ?_⟩
  · intro n b t s hon hisFabric hlength hblState hrxsleep h1
    exact Does.of_act (f := flitReceive n b t) (fun _ => rfl) hon (by simp [flitReceive, hisFabric, hlength, hblState, hrxsleep, h1])
  · intro n s hon hblState hresets
    exact Does.of_act (f := flitSend n) (fun _ => rfl) hon (by simp [flitSend, hblState, hresets])
  · intro n x rest s hon hblState htxsleep hreplayFrom htxq hunacked hblCredit
    exact Does.of_act (f := flitSend n) (fun _ => rfl) hon
      (by simp [flitSend, hblState, htxsleep, hreplayFrom, htxq, hunacked, hblCredit])
  · intro n s hon hblState htxsleep hreplayFrom htxq
    exact Does.of_act (f := flitSend n) (fun _ => rfl) hon (by simp [flitSend, hblState, htxsleep, hreplayFrom, htxq])
  · rintro n s t hon hn henabled hrole hwidth rfl hisFabric
    exact Does.of_act (f := portEnable n) (fun _ => rfl) hon (by simp [portEnable, hn, henabled, hrole, hwidth, hisFabric])
  · rintro n s t hon hn henabled hrole hwidth rfl hisFabric hblState
    exact Does.of_act (f := portEnable n) (fun _ => rfl) hon (by simp [portEnable, hn, henabled, hrole, hwidth, hisFabric, hblState])
  · intro n s hon henabled hrole
    have hport : ¬ 48 ≤ n := Nat.not_le.2 (Dev.lt_of_enabled henabled)
    exact Does.of_act (f := portDisable n) (fun _ => rfl) hon (by simp [portDisable, hport, henabled, hrole])
  · intro n s hon henabled hrole hblState
    have hport : ¬ 48 ≤ n := Nat.not_le.2 (Dev.lt_of_enabled henabled)
    refine Does.of_act (f := portDisable n) (fun _ => rfl) hon ?_
    unfold portDisable
    rw [if_neg (by simp [hport, henabled])]
    exact (if_pos hrole).trans (if_pos hblState)
  · intro n lane bits errs t s hon hblState hwidth hwindow hnow hbl
    exact Does.of_act (f := bringupCheckWindowEnd n lane bits errs) (fun _ => rfl) hon
      (by simp [bringupCheckWindowEnd, hblState, hwidth, hwindow, hnow, hbl])
  · intro n lane bits errs t s hon hblState hwidth hwindow hnow hbl
    have hlane : ¬ s.width n ≤ lane := Nat.not_le.2 hwidth
    have hmany : ¬ errs * 2 ^ (s.bl! n).bring Fld.BL_BRINGUP.BER_EXP ≤ bits := Nat.not_le.2 hbl
    exact Does.of_act (f := bringupCheckWindowEnd n lane bits errs) (fun _ => rfl) hon
      (by simp [bringupCheckWindowEnd, hblState, hlane, hwindow, hnow, hmany])
  · intro n t s hon hallOkAt hblState htUs hpartner
    exact Does.of_act (f := alignEntry n) (fun _ => rfl) hon (by simp [alignEntry, hallOkAt, hblState, htUs, hpartner])
  · intro n s hon hblState hbringAt
    exact Does.of_act (f := bringupTimeout n) (fun _ => rfl) hon (by simp [bringupTimeout, hblState, hbringAt])
  · intro n s hon hblState hbl hdisabling
    exact Does.of_act (f := resetFlitsSent n) (fun _ => rfl) hon (by simp [resetFlitsSent, hblState, hbl, hdisabling])
  · rintro n s t hon hblState hbl hdisabling rfl henabled
    exact Does.of_act (f := resetFlitsSent n) (fun _ => rfl) hon (by simp [resetFlitsSent, hblState, hbl, hdisabling, henabled])
  · rintro n s t hon hblState hbl hdisabling rfl henabled
    exact Does.of_act (f := resetFlitsSent n) (fun _ => rfl) hon (by simp [resetFlitsSent, hblState, hbl, hdisabling, henabled])
  · intro n s hon hblState hquietTill hwaitSig hauto hrankKnown
    have hover : ¬ s.now < (s.bl! n).quietTill := Nat.not_lt.2 hquietTill
    have hlower : ¬ ((s.bl! n).rankKnown = true ∧ s.outranks (s.bl! n).partner = false) := by
      rcases hrankKnown with h | h <;> simp [h]
    exact Does.of_act (f := quietEnd n) (fun _ => rfl) hon (by simp [quietEnd, hblState, hover, hwaitSig, hauto, hlower])
  · intro n s hon hblState hwaitSig
    exact Does.of_act (f := signalDetect n) (fun _ => rfl) hon (by simp [signalDetect, hblState, hwaitSig])
  · intro n t s hon hwaitSig hblState hnow
    exact Does.of_act (f := lowerRankWaitExpiry n) (fun _ => rfl) hon (by simp [lowerRankWaitExpiry, hwaitSig, hblState, hnow])
  · intro n lane s hon hblState hrxsleep
    exact Does.of_act (f := signalLoss n lane) (fun _ => rfl) hon (by simp [signalLoss, hblState, hrxsleep])
  · intro n t s hon hreplayAt hblState hnow hunacked hrxsleep
    exact Does.of_act (f := replayTimerExpiry n) (fun _ => rfl) hon
      (by simp [replayTimerExpiry, hreplayAt, hblState, hnow, hunacked, hrxsleep])
  · intro n s hreplays
    exact if_neg hreplays
  · intro n s hreplays
    exact if_pos hreplays
  · intro s
    rfl
  · intro n s hon hmaySleep
    exact Does.of_act (f := blSleepEntry n) (fun _ => rfl) hon (by simp [blSleepEntry, hmaySleep])
  · intro n s hon hblState htxsleep hwakeDue
    exact Does.of_act (f := blWake n) (fun _ => rfl) hon (by simp [blWake, hblState, htxsleep, hwakeDue])
  · intro n t s hon hrealignAt hblState hnow
    exact Does.of_act (f := blRealignTimeout n) (fun _ => rfl) hon (by simp [blRealignTimeout, hrealignAt, hblState, hnow])

end Sys2Proof.Machine
end

section
/-! Windows, hands, staging and the management window (R371 to R410). -/
namespace Sys2Proof.Machine

/-- A management-window access is carried out while no other holds the register bus. -/
theorem Dev.mwRequest_of_free {s : Dev} {src : Nat} (h : s.busHeld src = false) (id op addr data : Nat) :
    s.mwRequest src id op addr data = (s.mwDo src id op addr data).busFree := by
  unfold Dev.mwRequest
  exact if_neg (ne_true_of_eq_false h)

/-- A management-window access waits while another holds the register bus. -/
theorem Dev.mwRequest_of_held {s : Dev} {src : Nat} (h : s.busHeld src = true) (id op addr data : Nat) :
    s.mwRequest src id op addr data = s.park (.mw src id op addr data) := by
  unfold Dev.mwRequest
  exact if_pos h

/-- Settles O45: each clause's assumptions choose one branch of its command. -/
theorem routingAndCrossingCommandsComplete : Obligations.RoutingAndCrossingCommandsComplete := by
  unfold Obligations.RoutingAndCrossingCommandsComplete
  refine ⟨?_, ?_, ?_, ?_, ?_, ?_, ?_, ?_, ?_, ?_, ?_, ?_, ?_, ?_, ?_, ?_, ?_, ?_, ?_, ?_, ?_, ?_, ?_, ?_, ?_⟩
  · intro vs n v r s hon hvdspExists
    exact Does.of_act (f := vdspWindowRegisterWrite vs n r v) (fun _ => rfl) hon (by simp [vdspWindowRegisterWrite, hvdspExists])
  · intro vs n h s hon hfind
    exact Does.of_act (f := windowHoldTimeout vs n) (fun _ => rfl) hon (by simp [windowHoldTimeout, hfind])
  · intro vs s hon hvsExists
    exact Does.of_act (f := busMapUpdate vs .here) (fun _ => rfl) hon (if_pos hvsExists)
  · intro vs codes s hon hvsExists hbindVs
    exact Does.of_act (f := busMapUpdate vs (.copy codes)) (fun _ => rfl) hon (if_neg (by simp [hvsExists, hbindVs]))
  · intro vs f s hon hvsExists
    exact Does.of_act (f := busMapUpdate vs (.ack f)) (fun _ => rfl) hon (if_pos hvsExists)
  · intro f d o s hon howed hbatch hsome hc0 hc1
    have hdue : ¬ (o.c0 + o.c1 = 0 ∨ o.c0 + o.c1 < s.fget Fld.RT_HAND_CFG.RET_BATCH 0 ∧
        s.now < o.since + s.fget Fld.RT_HAND_CFG.RET_WAIT 0 * tQuarter) := by omega
    exact Does.of_act (f := handReturnSend f d) (fun _ => rfl) hon
      (by simp only [handReturnSend, howed, hdue, if_false, Nat.min_eq_right hc0, Nat.min_eq_right hc1, Nat.sub_self, Nat.add_zero,
      if_true])
  · intro f c0 c1 s hon hf
    exact Does.of_act (f := handReturnReceive f c0 c1) (fun _ => rfl) hon (by simp [handReturnReceive, hf])
  · intro t par s hon hauditAt hnow
    exact Does.of_act (f := handAudit) (fun _ => rfl) hon (by simp [handAudit, hauditAt, hnow])
  · intro s hon
    exact Does.of_act (f := stagingCheckStart) (fun _ => rfl) hon (by simp [stagingCheckStart])
  · intro t s hon hchkAt
    exact Does.of_act (f := stagingCheckDone) (fun _ => rfl) hon (by simp [stagingCheckDone, hchkAt])
  · intro reqId tag r s hon hfindReq hdeadline
    exact Does.of_act (f := fabricTimeout reqId tag) (fun _ => rfl) hon (by simp [fabricTimeout, hfindReq, hdeadline])
  · intro s
    rfl
  · intro r s htok hlocked
    simp [Dev.reqExpires, htok, hlocked]
  · intro r s htok hlocked
    simp [Dev.reqExpires, htok, hlocked]
  · intro reqId tag s hon
    exact Does.of_act (f := fabricQuarantineEnd reqId tag) (fun _ => rfl) hon (by simp [fabricQuarantineEnd])
  · intro vs s hon hvsExists hlockHeld
    exact Does.of_act (f := lockBrokenNotice vs) (fun _ => rfl) hon (by simp [lockBrokenNotice, hvsExists, hlockHeld])
  · intro src id addr s hon hbusHeld
    exact Does.of_act (f := mwRead src id addr) (fun _ => rfl) hon (Dev.mwRequest_of_free hbusHeld id 0 addr 0)
  · intro src id addr data s hon hbusHeld
    exact Does.of_act (f := mwWrite src id addr data) (fun _ => rfl) hon (Dev.mwRequest_of_free hbusHeld id 1 addr data)
  · intro src id addr data s hon hbusHeld
    exact Does.of_act (f := mwWrite src id addr data) (fun _ => rfl) hon (Dev.mwRequest_of_held hbusHeld id 1 addr data)
  · intro src id addr s hon hlockOn hbusHeld
    exact Does.of_act (f := mwLockRead src id addr) (fun _ => rfl) hon
      ((if_neg (ne_true_of_eq_false hlockOn)).trans (Dev.mwRequest_of_free hbusHeld id 2 addr 0))
  · intro src id addr s hon hlockOn hfsid
    exact Does.of_act (f := mwLockRead src id addr) (fun _ => rfl) hon (by simp [mwLockRead, hlockOn, hfsid])
  · intro src id addr data s hon hbusHeld
    exact Does.of_act (f := mwUnlockWrite src id addr data) (fun _ => rfl) hon (Dev.mwRequest_of_free hbusHeld id 3 addr data)
  · intro src id status data o s hon hfind
    exact Does.of_act (f := mwResponse src id status data) (fun _ => rfl) hon (by simp [mwResponse, hfind])
  · intro id o s hon hfind hdeadline
    exact Does.of_act (f := mwReadTimeout id) (fun _ => rfl) hon (by simp [mwReadTimeout, hfind, hdeadline])
  · intro f till s hon hfarLock hnow
    exact Does.of_act (f := mwLockTimeout) (fun _ => rfl) hon (by simp [mwLockTimeout, hfarLock, hnow])

end Sys2Proof.Machine
end

section
/-! Calendar, gates and sampling (R130 to R168). -/
namespace Sys2Proof.Machine

/-- Settles O37: each clause's assumptions choose one branch of its command. -/
theorem schedulingCompletes : Obligations.SchedulingCompletes := by
  unfold Obligations.SchedulingCompletes
  refine ⟨?_, ?_, ?_, ?_, ?_, ?_⟩
  · intro s hon
    exact Does.of_act (f := calendarSlotBegin) (fun _ => rfl) hon rfl
  · rintro f s hon rfl hen htatGe
    exact Does.of_act (f := flowSweepVisit _) (fun _ => rfl) hon (by simp [flowSweepVisit, hen, htatGe])
  · intro n s hon hn
    exact Does.of_act (f := gateEntryBegin n) (fun _ => rfl) hon (by simp [gateEntryBegin, hn])
  · rintro n a s s1 s2 hon harmed hswt rfl rfl
    exact Does.of_act (f := gateSwitchover n) (fun _ => rfl) hon (by simp [gateSwitchover, harmed, hswt])
  · rintro late s s1 hon hen hsmpNext hsmpSkip rfl
    exact Does.of_act (f := samplingPass late) (fun _ => rfl) hon (by simp [samplingPass, hen, hsmpNext, hsmpSkip])
  · intro late s hon hen hsmpNext hsmpSkip
    exact Does.of_act (f := samplingPass late) (fun _ => rfl) hon (by simp [samplingPass, hen, hsmpNext, hsmpSkip])

end Sys2Proof.Machine
end

section
/-! The service function's queues, requests and resets (R212 to R246). -/
namespace Sys2Proof.Machine

/-- The end of a core cycle without a bus master disable or a request out of time takes the doorbells alone. -/
theorem Dev.sfCycle_bells {s : Dev} {bells : List (Nat × SfQueue)}
    (hoff : (s.sf.fns.filter fun e => e.2.bmOff.any fun c => c != s.cycle) = [])
    (hexp : (s.sf.reqs.filter fun r => r.expAt.any fun c => c != s.cycle) = [])
    (hbells : (s.sf.qs.filter fun e => !e.2.bells.isEmpty) = bells) :
    s.sfCycle = each bells s fun s e => each e.2.bells (s.modQ e.1 fun x => { x with bells := [] }) fun s t => s.bell e.1 t := by
  unfold Dev.sfCycle
  rw [hoff]
  dsimp only [each, List.foldl_nil]
  rw [hexp]
  dsimp only [List.foldl_nil]
  rw [hbells]

/-- The end of a core cycle that carries out one bus master disable and nothing else. -/
theorem Dev.sfCycle_off {s t : Dev} {k : Nat} {x : SfFn}
    (hoff : (s.sf.fns.filter fun e => e.2.bmOff.any fun c => c != s.cycle) = [(k, x)])
    (ht : t = (s.modSfn (k / 1025) (k % 1025) fun f => { f with bmOff := none }).abandonAll (k / 1025) (k % 1025) fun _ => true)
    (hexp : (t.sf.reqs.filter fun r => r.expAt.any fun c => c != s.cycle) = [])
    (hbells : (t.sf.qs.filter fun e => !e.2.bells.isEmpty) = []) : s.sfCycle = t := by
  unfold Dev.sfCycle
  rw [hoff]
  dsimp only [each, List.foldl_nil, List.foldl_cons]
  rw [← ht, hexp]
  dsimp only [List.foldl_nil]
  rw [hbells]
  rfl

/-- The end of a core cycle that carries out one completion time-out and nothing else. -/
theorem Dev.sfCycle_timeout {s : Dev} {r : SfReq} (hoff : (s.sf.fns.filter fun e => e.2.bmOff.any fun c => c != s.cycle) = [])
    (hexp : (s.sf.reqs.filter fun r => r.expAt.any fun c => c != s.cycle) = [r])
    (hbells : (s.timeoutEnd r).sf.qs.all (fun e => e.2.bells.isEmpty) = true) : s.sfCycle = s.timeoutEnd r := by
  have hr : (s.sf.reqs.any fun x => x == r) = true := by
    have hmem : r ∈ s.sf.reqs := List.mem_of_mem_filter (hexp ▸ List.mem_singleton_self r)
    exact List.any_eq_true.2 ⟨r, hmem, beq_self_eq_true r⟩
  have hnone : ((s.timeoutEnd r).sf.qs.filter fun e => !e.2.bells.isEmpty) = [] := by
    simpa [List.filter_eq_nil_iff] using hbells
  unfold Dev.sfCycle
  rw [hoff]
  dsimp only [each, List.foldl_nil]
  rw [hexp]
  dsimp only [List.foldl_nil, List.foldl_cons]
  rw [if_pos hr, hnone]
  rfl

/-- Settles O40: each clause's assumptions choose one branch of its command, or of what the end of a core cycle carries out. -/
theorem serviceFunctionCommandsComplete : Obligations.ServiceFunctionCommandsComplete := by
  unfold Obligations.ServiceFunctionCommandsComplete
  refine ⟨?_, ?_, ?_, ?_, ?_, ?_, ?_, ?_, ?_, ?_, ?_, ?_, ?_, ?_, ?_, ?_, ?_, ?_, ?_, ?_⟩
  · intro vs fn q k tail s hon hlocalQ hsfExists hinFlr hen herr
    exact Does.of_act (f := doorbellWrite vs fn q tail) (fun _ => rfl) hon
      (by simp [doorbellWrite, hlocalQ, hsfExists, hinFlr, hen, herr])
  · intro k tail x s hfilter hfilter2 hfilter3 hbells
    rw [Dev.sfCycle_bells hfilter hfilter2 hfilter3]
    dsimp only [each, List.foldl_nil, List.foldl_cons]
    rw [hbells]
    rfl
  · intro q vs fn l cpl s hon howner hfetching hstatus hpoisoned hbadDesc
    exact Does.of_act (f := descriptorFetchComplete q cpl) (fun _ => rfl) hon
      (by simp [descriptorFetchComplete, howner, hfetching, hstatus, hpoisoned, hbadDesc])
  · intro q vs fn l cpl s hon howner hfetching hstatus
    exact Does.of_act (f := descriptorFetchComplete q cpl) (fun _ => rfl) hon
      (by simp [descriptorFetchComplete, howner, hfetching, hstatus])
  · intro q s hon howner hen
    exact Does.of_act (f := queueEnable q) (fun _ => rfl) hon (by simp [queueEnable, howner, hen])
  · intro q s hon howner
    exact Does.of_act (f := queueDisable q) (fun _ => rfl) hon (by simp [queueDisable, howner])
  · intro q vs fn l s hon howner hen hdescs hdue hfetching
    exact Does.of_act (f := queueIdle q) (fun _ => rfl) hon (by simp [queueIdle, howner, hen, hdescs, hdue, hfetching])
  · intro vs fn vec s hon hsfExists hinFlr hintMode
    exact Does.of_act (f := vectorUnmask vs fn vec) (fun _ => rfl) hon (by simp [vectorUnmask, hsfExists, hinFlr, hintMode])
  · intro q vs fn l t s hon howner hgraceAt hnow hrevokereq
    refine Does.of_act (f := revokeGraceExpiry q) (fun _ => rfl) hon ?_
    have hover : ¬ s.now < t := Nat.not_lt.2 hnow
    unfold revokeGraceExpiry
    dsimp only
    rw [howner, hgraceAt]
    exact if_neg (by simp [hover, hrevokereq])
  · intro vs fn tag r s hon hsfReq hdeadline hinFlr hbme hflushFar
    exact Does.of_act (f := completionTimeout vs fn tag) (fun _ => rfl) hon
      (by simp [completionTimeout, hsfReq, hdeadline, hinFlr, hbme, hflushFar])
  · intro q r s hfilter hfilter2 hsf huse
    rw [Dev.sfCycle_timeout hfilter hfilter2 hsf, Dev.timeoutEnd, huse]
  · intro vs fn tag cpl r s hon hsfExists hsfReq hlast
    refine Does.of_act (f := sfCompletionArrival vs fn tag cpl) (fun _ => rfl) hon ?_
    unfold sfCompletionArrival
    rw [if_neg (not_not_intro hsfExists), hsfReq]
    exact if_pos hlast
  · intro vs fn tag cpl x s hon hsfExists hsfReq hfind hsilent
    exact Does.of_act (f := sfCompletionArrival vs fn tag cpl) (fun _ => rfl) hon
      (by simp [sfCompletionArrival, hsfExists, hsfReq, hfind, hsilent])
  · intro vs fn tag s hon hany
    exact Does.of_act (f := tagQuarantineEnd vs fn tag) (fun _ => rfl) hon (by simp [tagQuarantineEnd, hany])
  · intro vs s hon hsfExists hinFlr hresetNow
    exact Does.of_act (f := functionLevelReset vs 0) (fun _ => rfl) hon (by simp [functionLevelReset, hsfExists, hinFlr, hresetNow])
  · intro vs fn s hon hsfExists hinFlr hfn hresetNow
    exact Does.of_act (f := functionLevelReset vs fn) (fun _ => rfl) hon (by simp [functionLevelReset, hsfExists, hinFlr, hfn, hresetNow])
  · intro vs fn s hon hinFlr hfn
    exact Does.of_act (f := flrComplete vs fn) (fun _ => rfl) hon (by simp [flrComplete, hinFlr, hfn])
  · intro vs fn s hon hsfExists hinFlr
    exact Does.of_act (f := busMasterDisable vs fn) (fun _ => rfl) hon (by simp [busMasterDisable, hsfExists, hinFlr])
  · rintro k x s t hfilter rfl hfilter2 hfilter3
    exact Dev.sfCycle_off hfilter rfl hfilter2 hfilter3
  · intro vs fn s hon hsfExists hinFlr
    exact Does.of_act (f := busMasterEnable vs fn) (fun _ => rfl) hon (by simp [busMasterEnable, hsfExists, hinFlr])

end Sys2Proof.Machine
end

section
/-! Link, width and configuration events of a PCI Express port (R170 to R199). -/
namespace Sys2Proof.Machine

/-- A port has one role: a host's is no device's. -/
theorem Dev.not_device_of_host {s : Dev} {n : Nat} (h : s.isHost n = true) : s.isDevice n = false := by
  have hrole : s.role n = 0 := by simpa using (Bool.and_eq_true_iff.1 h).2
  unfold Dev.isDevice
  rw [hrole]
  exact Bool.and_false _

/-- A port has one role: a device's is no host's. -/
theorem Dev.not_host_of_device {s : Dev} {n : Nat} (h : s.isDevice n = true) : s.isHost n = false := by
  have hrole : s.role n = 1 := by simpa using (Bool.and_eq_true_iff.1 h).2
  unfold Dev.isHost
  rw [hrole]
  exact Bool.and_false _

/-- The link of a port that is up goes down. -/
theorem Dev.dataDown_of_up {s : Dev} {n : Nat} (h : (s.pport n).up = true) (hot : Bool) :
    s.dataDown n hot =
      if s.isDevice n = true ∧ ¬ hot = true then ((s.modPport n fun q => { q with detect := false }).linkDown n lDetect).deviceDown n
      else (s.modPport n fun q => { q with detect := false }).linkDown n lDetect := by
  unfold Dev.dataDown
  exact if_neg (not_not_intro h)

/-- Settles O38: each clause's assumptions choose one branch of its command. -/
theorem pciePortCommandsComplete : Obligations.PciePortCommandsComplete := by
  unfold Obligations.PciePortCommandsComplete
  refine ⟨?_, ?_, ?_, ?_, ?_, ?_, ?_, ?_, ?_, ?_, ?_, ?_, ?_, ?_, ?_⟩
  · intro n x s hon hpcieOn hup hdisabled hslotOff hperst hhotReset hisHost
    refine Does.of_act (f := pcieLinkUp n x) (fun _ => rfl) hon ?_
    unfold pcieLinkUp
    dsimp only
    rw [if_neg (by simp [hpcieOn, hup, hdisabled, hslotOff, hperst, hhotReset, Dev.not_device_of_host hisHost]), if_pos hisHost]
  · intro n x s hon hpcieOn hup hdisabled hslotOff hperst hhotReset hisDevice hisContained
    refine Does.of_act (f := pcieLinkUp n x) (fun _ => rfl) hon ?_
    unfold pcieLinkUp
    dsimp only
    rw [if_neg (by simp [hpcieOn, hup, hdisabled, hslotOff, hperst, hhotReset, hisContained]),
      if_neg (ne_true_of_eq_false (Dev.not_host_of_device hisDevice))]
  · intro n hot s hon hup hvsOfHost
    refine Does.of_act (f := pcieLinkDown n hot) (fun _ => rfl) hon ?_
    unfold pcieLinkDown
    dsimp only
    rw [hvsOfHost]
    exact Dev.dataDown_of_up hup hot
  · intro n vs hot s hon hup hvsOfHost hisDevice
    refine Does.of_act (f := pcieLinkDown n hot) (fun _ => rfl) hon ?_
    unfold pcieLinkDown
    dsimp only
    rw [hvsOfHost]
    exact (if_pos hup).trans (by rw [Dev.dataDown_of_up hup, if_neg (by simp [hisDevice])])
  · intro n s hon hup
    exact Does.of_act (f := pcieRecovery n none none) (fun _ => rfl) hon (by simp [pcieRecovery, hup])
  · intro n rate found s hon hpcieOn hrate hmaxrate heqmode
    exact Does.of_act (f := pcieEqualisation n rate found) (fun _ => rfl) hon
      ((if_neg (by simp [hpcieOn]; omega)).trans (if_pos (by simp [heqmode])))
  · intro n rate found s hon hpcieOn hrate hmaxrate heqmode hall
    exact Does.of_act (f := pcieEqualisation n rate found) (fun _ => rfl) hon
      ((if_neg (by simp [hpcieOn]; omega)).trans ((if_neg (by simp [heqmode])).trans (if_neg (ne_true_of_eq_false hall))))
  · intro n used cap s hon hl0pOn hwinAt hhipct
    exact Does.of_act (f := l0pWindowEnd n used cap) (fun _ => rfl) hon (by simp [l0pWindowEnd, hl0pOn, hwinAt, hhipct])
  · intro n used cap s hon hl0pOn hwinAt hlopct hhipct hegrCells hminWidth hl0pAt
    have hquiet : ¬ (s.fget Fld.PCI_L0P.HI_PCT n * cap < 100 * used ∨ 64 < s.egrCells n) := by omega
    exact Does.of_act (f := l0pWindowEnd n used cap) (fun _ => rfl) hon
      ((if_neg (by simp only [hl0pOn, not_true_eq_false, false_or]; omega)).trans
        ((if_neg hquiet).trans (if_pos ⟨hlopct, hminWidth, by rw [hl0pAt]; rfl⟩)))
  · intro n s hon hl0pOn hl0pAt
    exact Does.of_act (f := l0pWidenComplete n) (fun _ => rfl) hon
      (if_pos ⟨hl0pOn, hl0pAt.imp_left fun h => Option.isSome_iff_ne_none.2 h⟩)
  · intro n w s hon hl0pOn hpport hw
    exact Does.of_act (f := l0pPartnerRequest n w) (fun _ => rfl) hon (by simp [l0pPartnerRequest, hl0pOn, hpport, hw])
  · intro n s hon hpcieOn hup hltssm hl1Allowed
    exact Does.of_act (f := aspmL1Entry n) (fun _ => rfl) hon (by simp [aspmL1Entry, hpcieOn, hup, hltssm, hl1Allowed])
  · intro vs off reqId tag s hon hvsExists hoff hoff2
    refine Does.of_act (f := configRequest vs .usp off none reqId tag) (fun _ => rfl) hon ?_
    have hin : ¬ 4096 ≤ off := Nat.not_le.2 hoff2
    simp [configRequest, Dev.cfgPort, Dev.cfgCpl, hvsExists, hoff, hin]
  · intro vs n off v be reqId tag s hon hvsExists hvdspExists hoff hx20 hrt
    refine Does.of_act (f := configRequest vs (.vdsp n) off (some (v, be)) reqId tag) (fun _ => rfl) hon ?_
    have hin : ¬ 4096 ≤ off := by omega
    have hplain : ¬ (off = 0x20 ∨ off = 0x24 ∨ off = 0x28 ∨ off = 0x2C) := by omega
    simp [configRequest, Dev.cfgPort, Dev.cfgDone, hvsExists, hvdspExists, hoff, hin, hplain, hrt]
  · intro vs n off reqId tag s hon hvsExists hvdspExists hoff hoff2
    exact Does.of_act (f := configRequest vs (.vdsp n) off none reqId tag) (fun _ => rfl) hon
      (by simp [configRequest, hvsExists, hvdspExists, hoff, hoff2])

end Sys2Proof.Machine
end

section
/-! A vDSP's link control, containment and hot-plug (R180 to R211). -/
namespace Sys2Proof.Machine

/-- A write of a vDSP whose device port is here acts on that port. -/
theorem Dev.atDevice_here {s : Dev} {vs n p : Nat} (h : s.boundPort vs n = some p) (kind val : Nat) (f : Dev → Nat → Dev) :
    s.atDevice vs n kind val f = f s p := by
  unfold Dev.atDevice
  rw [h]

/-- A write of a vDSP whose device port is at another switch travels there. -/
theorem Dev.atDevice_far {s : Dev} {vs n g : Nat} (h : s.boundPort vs n = none) (hg : s.boundFar vs n = some g) (kind val : Nat)
    (f : Dev → Nat → Dev) : s.atDevice vs n kind val f = s.emit (.vdsp g vs n kind val) := by
  unfold Dev.atDevice
  rw [h]
  dsimp only
  rw [hg]

/-- A vDSP is one of a VS the switch carries. -/
theorem Dev.vsExists_of_vdsp {s : Dev} {vs n : Nat} (h : s.vdspExists vs n = true) : s.vsExists vs = true := by
  unfold Dev.vdspExists at h
  exact (Bool.and_eq_true_iff.1 h).1

/-- Settles O39: a write of a vDSP acts at the device port bound here, or travels to its switch; the events take one branch. -/
theorem virtualPortCommandsComplete : Obligations.VirtualPortCommandsComplete := by
  unfold Obligations.VirtualPortCommandsComplete
  refine ⟨?_, ?_, ?_, ?_, ?_, ?_, ?_, ?_, ?_, ?_, ?_, ?_, ?_, ?_, ?_, ?_, ?_, ?_, ?_, ?_, ?_, ?_, ?_, ?_, ?_, ?_⟩
  · intro vs n p dis s hon hboundPort
    exact Does.of_act (f := vdspLinkDisable vs n dis) (fun _ => rfl) hon (Dev.atDevice_here hboundPort _ _ _)
  · intro vs n g dis s hon hboundPort hboundFar
    exact Does.of_act (f := vdspLinkDisable vs n dis) (fun _ => rfl) hon (Dev.atDevice_far hboundPort hboundFar _ _ _)
  · intro vs n p s hon hboundPort hup
    exact Does.of_act (f := vdspRetrainLink vs n) (fun _ => rfl) hon ((Dev.atDevice_here hboundPort _ _ _).trans (if_pos hup))
  · intro vs n speed p s hon hboundPort hspeed hspeed2
    exact Does.of_act (f := vdspTargetLinkSpeed vs n speed) (fun _ => rfl) hon
      ((if_pos ⟨hspeed, hspeed2⟩).trans (Dev.atDevice_here hboundPort _ _ _))
  · intro vs n ctl p s hon hboundPort
    exact Does.of_act (f := vdspAspmControl vs n ctl) (fun _ => rfl) hon (Dev.atDevice_here hboundPort _ _ _)
  · intro vs n p s hon hboundPort
    exact Does.of_act (f := secondaryBusReset vs n true) (fun _ => rfl) hon ((Dev.atDevice_here hboundPort _ _ _).trans (if_pos rfl))
  · intro vs n p s hon hboundPort hhotReset
    exact Does.of_act (f := secondaryBusReset vs n false) (fun _ => rfl) hon ((Dev.atDevice_here hboundPort _ _ _).trans ((if_neg (by
      decide)).trans (if_pos hhotReset)))
  · intro vs n speed width g training dl note s hon hvdspExists hboundPort hboundFar
    exact Does.of_act (f := vdspLinkStatusUpdate vs n speed width training dl note) (fun _ => rfl) hon
      (by simp [vdspLinkStatusUpdate, hvdspExists, hboundPort, hboundFar])
  · intro vs n speed width p training dl note s hon hvdspExists hboundPort
    exact Does.of_act (f := vdspLinkStatusUpdate vs n speed width training dl note) (fun _ => rfl) hon
      (by simp [vdspLinkStatusUpdate, hvdspExists, hboundPort])
  · intro vs n err hdr s hon hvdspExists
    exact Does.of_act (f := remoteErrorNotice vs n (some err) hdr none) (fun _ => rfl) hon (if_pos (.inl hvdspExists))
  · intro vs n reason src hdr s hon hvdspExists huspNo
    exact Does.of_act (f := remoteErrorNotice vs n none hdr (some (reason, src))) (fun _ => rfl) hon
      ((if_pos (.inl hvdspExists)).trans (if_neg huspNo))
  · intro vs n s hon hvdspExists hdpcStat hbitsOf
    exact Does.of_act (f := dpcSoftwareTrigger vs n) (fun _ => rfl) hon
      ((if_pos (Dev.vsExists_of_vdsp hvdspExists)).trans (if_pos ⟨hvdspExists, by simp [hdpcStat], hbitsOf⟩))
  · intro vs n s hon hdpcHeld hboundFar
    exact Does.of_act (f := dpcTriggerStatusWrite vs n) (fun _ => rfl) hon (by simp [dpcTriggerStatusWrite, hdpcHeld, hboundFar])
  · intro vs n t p s hon htrigAt hdpcHeld hrelReq htMs hboundPort hportHolds hvsExists
    refine Does.of_act (f := dpcRelease vs n) (fun _ => rfl) hon ?_
    have hover : ¬ s.now < t + tMs := Nat.not_lt.2 htMs
    unfold dpcRelease
    dsimp only
    rw [htrigAt]
    dsimp only
    rw [if_neg (by simp [hdpcHeld, hrelReq, hover]), hboundPort]
    exact (if_neg (ne_true_of_eq_false hportHolds)).trans (by rw [Dev.dpcFree, if_pos hvsExists])
  · intro n b s hon hisDevice hup hbindAt
    exact Does.of_act (f := ptmRequest (.port n)) (fun _ => rfl) hon (by simp [ptmRequest, hisDevice, hup, hbindAt])
  · intro vs s hon hvsExists hcfg
    exact Does.of_act (f := ptmRequest (.sf vs)) (fun _ => rfl) hon (by simp [ptmRequest, hvsExists, hcfg])
  · intro k present s hon hk hen
    exact Does.of_act (f := presenceDebounced k present) (fun _ => rfl) hon (by simp [presenceDebounced, hk, hen])
  · intro k present s hon hk hen
    exact Does.of_act (f := presenceDebounced k present) (fun _ => rfl) hon (by simp [presenceDebounced, hk, hen])
  · intro k s hon hk hen hbindAt
    have hslot : ¬ 8 ≤ k := Nat.not_le.2 hk
    exact Does.of_act (f := attentionButtonPress k) (fun _ => rfl) hon
      ((if_neg hslot).trans (if_pos ⟨hen, Option.isSome_iff_ne_none.2 hbindAt⟩))
  · intro k s hon hk hen
    exact Does.of_act (f := attentionButtonPress k) (fun _ => rfl) hon (by simp [attentionButtonPress, hk, hen])
  · intro vs n atn pwr p s hon hvdspExists hboundPort hslotOf
    refine Does.of_act (f := slotIndicatorWrite vs n atn pwr) (fun _ => rfl) hon ?_
    unfold slotIndicatorWrite
    dsimp only
    rw [if_pos hvdspExists, Dev.atDevice_here hboundPort, hslotOf]
  · intro vs n p k s hon hvdspExists hboundPort hslotOf
    refine Does.of_act (f := slotPowerOn vs n) (fun _ => rfl) hon ?_
    unfold slotPowerOn
    dsimp only
    rw [if_pos hvdspExists, Dev.atDevice_here hboundPort, hslotOf]
  · intro vs n p s hon hvdspExists hboundPort hslotOf
    refine Does.of_act (f := slotPowerOff vs n) (fun _ => rfl) hon ?_
    unfold slotPowerOff
    dsimp only
    rw [if_pos hvdspExists, Dev.atDevice_here hboundPort, hslotOf]
  · intro vs n p k s hon hvdspExists hboundPort hslotOf
    refine Does.of_act (f := slotPowerOff vs n) (fun _ => rfl) hon ?_
    unfold slotPowerOff
    dsimp only
    rw [if_pos hvdspExists, Dev.atDevice_here hboundPort, hslotOf]
  · intro k t s hon hperstAt htMs hpowered hen
    exact Does.of_act (f := slotPerstRelease k) (fun _ => rfl) hon (by simp [slotPerstRelease, hperstAt, htMs, hpowered, hen])
  · intro vs n s hon hvdspExists hcmdAt hturningOff
    exact Does.of_act (f := slotCommandCompleted vs n) (fun _ => rfl) hon
      (by simp [slotCommandCompleted, hvdspExists, hcmdAt, hturningOff])

end Sys2Proof.Machine
end

section
/-! Arbitration, the data phase and egress (R87 to R129). -/
namespace Sys2Proof.Machine

/-- The start of an arbitration phase: the phase is noted, a released tenure ends, packets enter and a tenure that is over is cut. -/
def Dev.beginPhase (s : Dev) (a : Nat) (release : Bool) : Dev :=
  ((s.modArb a fun x => { x with lastPhase := some s.cycle, tenure := if release then none else x.tenure }).enterAll).cutTenure a

/-- A phase whose choice has a winner grants it. -/
theorem grant_of_winner {a : Nat} {reqs : List ArbReq} {ask rel : Bool} {r : Request} {s s1 s2 : Dev} (ha : a < 57)
    (hphase : (s.arbOf a).lastPhase ≠ some s.cycle)
    (hs1 : s1 = if a ≤ 16 then (s.beginPhase a rel).keepPhase else s.beginPhase a rel) (hreqs : s1.requests a reqs ≠ [])
    (hs2 : s2 = s1.modArb a fun x => { x with idle := 0 })
    (hwin : chooseWinner (s2.arbOf a) (arbInputs a) ((s1.requests a reqs).filter (s2.eligible a)) = some r) :
    grant a reqs ask rel s = s2.grantWinner a r ask := by
  have hmay : ¬ (57 ≤ a ∨ (s.arbOf a).lastPhase = some s.cycle) := not_or.2 ⟨Nat.not_le.2 ha, hphase⟩
  unfold grant
  rw [if_neg hmay]
  dsimp only
  rw [← Dev.beginPhase, ← hs1, if_neg (mt List.isEmpty_iff.1 hreqs), ← hs2, hwin]

/-- A phase of an arbiter without requests may park. -/
theorem grant_of_no_request {a : Nat} {reqs : List ArbReq} {ask rel : Bool} {s s1 : Dev} (ha : a < 57)
    (hphase : (s.arbOf a).lastPhase ≠ some s.cycle)
    (hs1 : s1 = if a ≤ 16 then (s.beginPhase a rel).keepPhase else s.beginPhase a rel) (hreqs : s1.requests a reqs = []) :
    grant a reqs ask rel s = s1.parkPhase a := by
  have hmay : ¬ (57 ≤ a ∨ (s.arbOf a).lastPhase = some s.cycle) := not_or.2 ⟨Nat.not_le.2 ha, hphase⟩
  unfold grant
  rw [if_neg hmay]
  dsimp only
  rw [← Dev.beginPhase, ← hs1, if_pos (List.isEmpty_iff.2 hreqs)]

/-- A flit that is not void, of a packet that stands and is not fenced off, passes the crossbar. -/
theorem Dev.dataCycle_good {s : Dev} {a : Nat} {g : GrantRec} {p : Pkt} (hpkt : s.pkt? g.pid = some p) (hvoid : g.void = false)
    (hfence : g.idx ≠ 0 ∨ g.privileged = true ∨ s.fenced g.pid p = false) : s.dataCycle a g .good = s.passFlit g p .good := by
  have hopen : ¬ (g.idx = 0 ∧ ¬ g.privileged = true ∧ s.fenced g.pid p = true) := by
    rintro ⟨hfirst, hplain, hfenced⟩
    rcases hfence with h | h | h
    · exact h hfirst
    · exact hplain h
    · exact ne_true_of_eq_false h hfenced
  unfold Dev.dataCycle
  rw [hpkt]
  dsimp only
  rw [if_neg (ne_true_of_eq_false hvoid), if_neg (by simp), if_neg hopen]

/-- A COMMIT of the planes that hold the schedule is one write of its register. -/
theorem commit_of_not_data {p : Plane} (h : p ≠ .data) (s : Dev) : commit p s = s.commitWrite := by
  cases p with
  | data => exact absurd rfl h
  | _ => rfl

/-- Settles O36: a phase with requests grants the winner of the choice; the other clauses take one branch of their command. -/
theorem arbitrationAndCrossbarCompletes : Obligations.ArbitrationAndCrossbarCompletes := by
  unfold Obligations.ArbitrationAndCrossbarCompletes
  refine ⟨?_, ?_, ?_, ?_, ?_, ?_, ?_, ?_, ?_, ?_, ?_, ?_, ?_, ?_, ?_, ?_, ?_, ?_⟩
  · intro a reqs ask rel r s s1 s2 hon ha ha2 hlastPhase hs1 hrequests hs2 hchooseWinner
    have hgroup : ¬ a ≤ 16 := by omega
    exact Does.of_act (f := grant a reqs ask rel) (fun _ => rfl) hon
      ((grant_of_winner ha2 hlastPhase (hs1.trans (if_neg hgroup).symm) hrequests hs2 hchooseWinner).trans (if_neg hgroup))
  · intro a reqs ask rel r p s s1 s2 hon ha hlastPhase hs1 hrequests hs2 hchooseWinner hpkt hdlExpired
    refine Does.of_act (f := grant a reqs ask rel) (fun _ => rfl) hon ?_
    rw [grant_of_winner (by omega) hlastPhase (hs1.trans (if_pos ha).symm) hrequests hs2 hchooseWinner, Dev.grantWinner, if_pos ha, hpkt]
    exact if_neg (ne_true_of_eq_false hdlExpired)
  · intro a reqs ask rel s s1 hon ha ha2 hlastPhase hs1 hrequests
    have hgroup : ¬ a ≤ 16 := by omega
    exact Does.of_act (f := grant a reqs ask rel) (fun _ => rfl) hon
      (grant_of_no_request ha2 hlastPhase (hs1.trans (if_neg hgroup).symm) hrequests)
  · intro a g rest p s s1 hon hpend hcycle hdataAt hinputData hs1 hpkt hvoid hidx
    refine Does.of_act (f := crossbarDataPhase a .good) (fun _ => rfl) hon ?_
    unfold crossbarDataPhase
    rw [hpend]
    dsimp only
    rw [if_neg (by simp [hdataAt, hinputData]; omega)]
    dsimp only at hs1
    rw [← hs1]
    exact Dev.dataCycle_good hpkt hvoid hidx
  · intro n f rest s hon hstg hisFabric hltssm hstarted
    exact Does.of_act (f := egressEncode n) (fun _ => rfl) hon (by simp [egressEncode, hstg, hisFabric, hltssm, hstarted])
  · intro n f rest s hon hstg hisFabric
    exact Does.of_act (f := egressEncode n) (fun _ => rfl) hon (by simp [egressEncode, hstg, hisFabric])
  · intro n f rest p s hon hstg hpkt hisHost hidx hpassed hstarted
    exact Does.of_act (f := egressTlpStart n) (fun _ => rfl) hon (by simp [egressTlpStart, hstg, hpkt, hisHost, hidx, hpassed, hstarted])
  · intro n t s s1 hon hstallEnd hstallFrom htUs hportHolds hisFabric hs1
    refine Does.of_act (f := egressStallTimeout n) (fun _ => rfl) hon ?_
    have hover : ¬ s.now < t + 10 * tUs * 2 ^ s.fget Fld.XB_PORT_EGR.STALL_TO n := Nat.not_lt.2 htUs
    unfold egressStallTimeout
    dsimp only
    rw [hstallEnd]
    unfold Dev.stalled
    dsimp only
    rw [hstallFrom]
    dsimp only
    rw [if_neg (by simp [hover, hportHolds]), if_pos hisFabric, hs1]
    rfl
  · intro a s hon ha hroundEnd
    exact Does.of_act (f := roundBoundary a) (fun _ => rfl) hon (by simp [roundBoundary, ha, hroundEnd])
  · intro a h s hon htenure hstart
    refine Does.of_act (f := tenureCut a) (fun _ => rfl) hon ?_
    unfold tenureCut Dev.cutTenure
    rw [htenure]
    exact if_neg (Nat.not_lt.2 hstart)
  · intro a port t s hon htricks
    exact Does.of_act (f := trickCut64 a port) (fun _ => rfl) hon (by simp [trickCut64, htricks])
  · intro a port t s hon htricks
    exact Does.of_act (f := trickHoldCut a port) (fun _ => rfl) hon (by simp [trickHoldCut, htricks])
  · intro a s hon hparked hparkidle
    exact Does.of_act (f := parkReleaseIdle a) (fun _ => rfl) hon (by simp [parkReleaseIdle, hparked, hparkidle])
  · intro p s hon hdata hcommitAt
    exact Does.of_act (f := commit p) (fun _ => rfl) hon (by rw [commit_of_not_data hdata, Dev.commitWrite, if_neg (by simp [hcommitAt])])
  · intro p s hon hdata hcommitAt
    exact Does.of_act (f := commit p) (fun _ => rfl) hon
      (by rw [commit_of_not_data hdata, Dev.commitWrite, if_pos (Option.isSome_iff_ne_none.2 hcommitAt)])
  · intro a close s hon ha
    exact Does.of_act (f := hatchWrite a .control close) (fun _ => rfl) hon (by simp [hatchWrite, ha])
  · intro a close s hon ha
    exact Does.of_act (f := hatchWrite a .management close) (fun _ => rfl) hon (by simp [hatchWrite, ha])
  · intro a t s hon hclosedAt hwatched htUs
    exact Does.of_act (f := hatchWatchdog a) (fun _ => rfl) hon (by simp [hatchWatchdog, hclosedAt, hwatched, htUs])

end Sys2Proof.Machine
end

section
/-! Arriving packets (R61 to R86, R399). -/
namespace Sys2Proof.Machine

/-- Recording a first event touches registers alone, and leaves what crosses the fabric. -/
theorem Dev.errLog_xing (s : Dev) (reason gpa port oc typ vs : Nat) : (s.errLog reason gpa port oc typ vs).xing = s.xing := by
  unfold Dev.errLog Dev.firstEvent
  split
  · exact Dev.fset_xing _ _ _ _
  · rw [Dev.fsets_xing, Dev.fset_xing]

theorem Dev.dropLog_xing (s : Dev) (p : Pkt) (reason : Nat) : (s.dropLog p reason).xing = s.xing := by
  rw [Dev.dropLog, Dev.errLog_xing, Dev.count_xing]

/-- An error at an upstream switch port is logged or told, and contains nothing. -/
theorem Dev.aer_usp_xing (s : Dev) (vs : Nat) (e : PcieErr) (hdr : HdrLog) : (s.aer vs uspNo e hdr).xing = s.xing := by
  unfold Dev.aer
  simp only [bne_self_eq_false, Bool.false_and, Bool.false_eq_true, if_false]
  split
  · unfold Dev.aerLog
    split
    split <;> rfl
  · unfold Dev.errNotice
    split <;> rfl

/-- A posted-error report where none has gone out leaves the switch. -/
theorem Dev.perrReport_emits {s : Dev} (h : s.xing.perr = []) (p : Pkt) (reason : Nat) :
    ∃ o, (s.perrReport p reason).out = s.out ++ [o] := by
  have hfresh : ∀ key, (tget {} s.xing.perr key).sent = false := fun key => by rw [h]; rfl
  unfold Dev.perrReport
  dsimp only
  rw [if_neg (by simp [hfresh])]
  exact ⟨_, rfl⟩

/-- The packet that a TLP, as its port hands it on, makes at the host port of a VS. -/
def Dev.hostPkt (s : Dev) (port vs k : Nat) (t : Tlp) : Pkt :=
  let n := flitsOf t.len
  let m := if s.fbit Fld.PCI_PORT_STAT.FLIT port then max 1 (min k n) else n
  { port := port, vs := vs, typ := tlpType t.kind, oc := s.ocOf vs t.tc, cc := s.ccOf vs (s.ocOf vs t.tc),
    par := s.decodeParity, content := .tlp t, nfl := n, arrived := m, inFl := n, inArr := m,
    saf := s.fbit Fld.XB_PORT_CTRL.SAF port || !s.fbit Fld.PCI_PORT_STAT.FLIT port,
    idCode := s.busAt vs (t.target / 256 % 256), srcCode := s.busAt vs (t.reqId / 256) }

/-- The switch once it has dropped a TLP beyond the credit given to a host port and recorded the error. -/
def Dev.overCredit (s : Dev) (port vs k : Nat) (x : Tlp) : Dev :=
  ((s.count .TM_PORT_RXB port x.len).dropLog (s.hostPkt port vs k (s.tlpIn port x)) 6).aerAtPort port .receiverOverflow
    (s.hdrLogOf port (s.tlpIn port x))

section
variable {s : Dev} {port k vs : Nat} {x : Tlp} (hon : s.On) (henabled : s.enabled port = true) (hrole : s.role port = 0)
  (hup : (s.pport port).up = true) (hvs : s.vsOfHost port = some vs) (hreal : vs ≠ noVs)
  (hover : s.creditGiven port < flitsOf (s.tlpIn port x).len)
include hon henabled hrole hup hvs hreal hover

/-- A posted TLP beyond the credit given to a host port is dropped, and then reported to its source (R399). -/
theorem Does.posted_over_credit (hposted : tlpType (s.tlpIn port x).kind = .posted) :
    Does (.packetIngress port (.pcie x k)) s ((s.overCredit port vs k x).perrReport (s.hostPkt port vs k (s.tlpIn port x)) 6) := by
  refine Does.of_act (f := packetIngress port (.pcie x k)) (fun _ => rfl) hon ?_
  show s.ingressPcie port x k = _
  unfold Dev.ingressPcie
  rw [if_pos ⟨henabled, .inl hrole, hup⟩]
  simp only [hrole, if_true, hvs, Option.getD_some, hreal, if_false, hover, hposted, Dev.overCredit, Dev.hostPkt]

/-- What the statement says of a TLP beyond the credit: it is dropped, and no more. -/
theorem Does.over_credit_of_statement (h : Obligations.IngressCompletes) :
    Does (.packetIngress port (.pcie x k)) s (s.overCredit port vs k x) := by
  obtain ⟨-, -, hclause, -⟩ := h
  exact hclause port k vs x _ s hon henabled hrole hup hvs hreal rfl hover

end

/-- After reset, but for host port 0 of VS 0 enabled and its link up: no credit has been given. -/
def hostOverCredit : Dev :=
  ({ State.reset.dev with objs := [(objKey 0x4000 1, .num 1), (objKey 0x4000 2, .num 0)], pci.ports := [(0, { up := true })] } : Dev).fset
    Fld.PCI_VS_CFG.HPV 0 1

theorem hostOverCredit_lacks (n : Nat) : hostOverCredit.creditGiven 0 < flitsOf n := by
  have hnone : hostOverCredit.creditGiven 0 = 0 := by decide
  rw [hnone]
  exact Nat.lt_of_lt_of_le Nat.one_pos (Nat.le_max_left 1 _)

theorem hostOverCredit_no_reports : (hostOverCredit.overCredit 0 0 0 {}).xing.perr = [] := by
  have hvs : ((hostOverCredit.count .TM_PORT_RXB 0 ({} : Tlp).len).dropLog
      (hostOverCredit.hostPkt 0 0 0 (hostOverCredit.tlpIn 0 {})) 6).vsOfHost 0 = some 0 := by decide
  have hnone : hostOverCredit.xing.perr = [] := by decide
  rw [Dev.overCredit, Dev.aerAtPort, hvs]
  dsimp only
  rw [Dev.aer_usp_xing, Dev.dropLog_xing, Dev.count_xing, hnone]

/-- Refutes O35: a posted packet beyond the credit given to a host port is also reported to its source (R399), so that more leaves the
switch than the statement says. Here a memory write arrives at a host port that has given no credit. -/
theorem not_ingressCompletes : ¬ Obligations.IngressCompletes := by
  intro h
  have hon : hostOverCredit.On := by decide
  have henabled : hostOverCredit.enabled 0 = true := by decide
  have hrole : hostOverCredit.role 0 = 0 := by decide
  have hup : (hostOverCredit.pport 0).up = true := by decide
  have hvs : hostOverCredit.vsOfHost 0 = some 0 := by decide
  have hsame := Does.unique
    (Does.over_credit_of_statement (k := 0) (x := {}) hon henabled hrole hup hvs (by decide) (hostOverCredit_lacks _) h)
    (Does.posted_over_credit hon henabled hrole hup hvs (by decide) (hostOverCredit_lacks _) (by decide))
  obtain ⟨o, hout⟩ := Dev.perrReport_emits hostOverCredit_no_reports (hostOverCredit.hostPkt 0 0 0 (hostOverCredit.tlpIn 0 {})) 6
  rw [← hsame] at hout
  simpa using congrArg List.length hout

end Sys2Proof.Machine
end

section
/-! Register and memory accesses that complete (R10 to R14, R29, R30). -/
namespace Sys2Proof.Machine

section
variable {s : Dev} {p : Plane} {code off inst byte : Nat} {r : Reg}

/-- A whole write where a 64-bit register begins is one of that register. -/
theorem Dev.blkWriteWhole_of_reg64 (hat : regAt code off = some (r, inst, 0)) (hwidth : (regInfo r).width = 64) (v : Nat) :
    s.blkWriteWhole p code off v = s.regPut p r inst (wrWhole 64 v) := by
  rw [Dev.blkWriteWhole, hat]
  exact if_pos hwidth

/-- A 32-bit write outside the halves goes to the register its address names. -/
theorem Dev.blkWrite_of_reg (hout : ¬ (code = 7 ∧ offStaged ≤ off)) (hat : regAt code off = some (r, inst, byte))
    (hhalf : halfReg r = false) (w : Nat) :
    s.blkWrite p code off w = s.regPut p r inst (wrWord (s.rget r inst) (regInfo r).width byte w) := by
  rw [Dev.blkWrite, if_neg hout, hat]
  exact if_neg (ne_true_of_eq_false hhalf)

/-- A whole read where a 64-bit register begins is one of that register. -/
theorem Dev.blkReadWhole_of_reg64 (hat : regAt code off = some (r, inst, 0)) (hwidth : (regInfo r).width = 64) :
    s.blkReadWhole code off = (s.regRead r inst, s.regAfterRead r inst) := by
  rw [Dev.blkReadWhole, hat]
  exact if_pos hwidth

/-- A whole read of a 32-bit register outside the halves reads its word. -/
theorem Dev.blkReadWhole_of_reg32 (hout : ¬ (code = 7 ∧ offStaged ≤ off)) (hat : regAt code off = some (r, inst, byte))
    (hwidth : (regInfo r).width = 32) (hhalf : halfReg r = false) :
    s.blkReadWhole code off = (wordOf (s.regRead r inst) byte, s.regAfterRead r inst) := by
  have hword : s.blkRead code off = (wordOf (s.regRead r inst) byte, s.regAfterRead r inst) := by
    rw [Dev.blkRead, if_neg hout, hat]
    exact if_neg (ne_true_of_eq_false hhalf)
  rw [Dev.blkReadWhole, hat]
  cases byte with
  | zero => exact (if_neg (by omega)).trans hword
  | succ b => exact hword

/-- A whole read of an open BAR where a 64-bit register begins is one of that register. -/
theorem Dev.planeRead_bar_of_reg64 {vs fn b : Nat} (hopen : s.barOpen vs fn = true) (hat : s.barAt vs fn b off = .reg r inst 0)
    (hwidth : (regInfo r).width = 64) : s.planeRead .data (.bar vs fn b off) = (s.regRead r inst, s.regAfterRead r inst) := by
  unfold Dev.planeRead
  dsimp only
  rw [if_neg (not_not_intro rfl), hat]
  exact if_pos ⟨hopen, hwidth⟩

variable (hp : p ≠ .data)
include hp

theorem Dev.planeWrite_blk_whole (v : Nat) : s.planeWrite p (.blk code off) .whole v = s.blkWriteWhole p code off v := if_neg hp

theorem Dev.planeWrite_blk_low (v : Nat) : s.planeWrite p (.blk code off) .low v = s.blkWrite p code off (v % 2 ^ 32) := if_neg hp

theorem Dev.planeWrite_blk_high (v : Nat) : s.planeWrite p (.blk code off) .high v = s.blkWrite p code (off + 4) (v % 2 ^ 32) := if_neg hp

theorem Dev.planeRead_blk : s.planeRead p (.blk code off) = s.blkReadWhole code off := if_neg hp

end

/-- An access of LPDDR4X that ends in range is carried out. -/
theorem Does.lpddr4x_in_range {p : Plane} {write : Bool} {addr len : Nat} {data : List Byte} {s t : Dev} (hon : s.On)
    (hin : addr + (if write then data.length else len) ≤ memTop) (e : lpddr4xAccess p write addr len data s = t) :
    Does (.lpddr4xAccess p write addr len data) s t := by
  intro q
  rw [exec_lpddr4xAccess, if_neg fun h => Nat.not_lt.2 hin h.2, State.act_on (s := { pending := q, dev := s }) hon, e]

/-- Settles O34: an access that does not wait is the plane's, which goes to the register its address names. -/
theorem registerAndMemoryAccessCompletes : Obligations.RegisterAndMemoryAccessCompletes := by
  unfold Obligations.RegisterAndMemoryAccessCompletes
  refine ⟨?_, ?_, ?_, ?_, ?_, ?_, ?_, ?_, ?_, ?_, ?_, ?_, ?_, ?_, ?_, ?_, ?_, ?_⟩
  · intro p code off v inst r s hon hportHeld hdata hregAt hwidth hplain hregBlocked
    exact Does.registerWrite_of_planeWrite hon hportHeld ((Dev.planeWrite_blk_whole hdata v).trans
      ((Dev.blkWriteWhole_of_reg64 hregAt hwidth v).trans (Dev.regPut_plain hplain hregBlocked hdata)))
  · intro p code off v inst byte r s hon hportHeld hdata hoffStaged hregAt hhalfReg hplain hregBlocked
    exact Does.registerWrite_of_planeWrite hon hportHeld ((Dev.planeWrite_blk_low hdata v).trans
      ((Dev.blkWrite_of_reg hoffStaged hregAt hhalfReg _).trans (Dev.regPut_plain hplain hregBlocked hdata)))
  · intro p code off v inst byte r s hon hportHeld hdata hoffStaged hregAt hhalfReg hplain hregBlocked
    exact Does.registerWrite_of_planeWrite hon hportHeld ((Dev.planeWrite_blk_low hdata v).trans
      ((Dev.blkWrite_of_reg hoffStaged hregAt hhalfReg _).trans (Dev.regPut_blocked hplain hregBlocked hdata)))
  · intro p code off v s hon hportHeld hdata
    exact Does.registerWrite_of_planeWrite hon hportHeld (Dev.planeWrite_blk_whole hdata v)
  · intro p code off v s hon hportHeld hdata
    exact Does.registerWrite_of_planeWrite hon hportHeld (Dev.planeWrite_blk_low hdata v)
  · intro p code off v s hon hportHeld hdata
    exact Does.registerWrite_of_planeWrite hon hportHeld (Dev.planeWrite_blk_high hdata v)
  · intro vs fn b off v s hon
    exact Does.registerWrite_of_planeWrite hon (s.portHeld_bar .data vs fn b off) rfl
  · intro p code off v part s hon hportHeld
    exact Does.of_act (f := registerWrite p (.blk code off) part v) (fun _ => rfl) hon (if_pos hportHeld)
  · intro p code off inst r s hon hportHeld hdata hregAt hwidth
    exact Does.rcRead_of_planeRead hon hportHeld ((Dev.planeRead_blk hdata).trans (Dev.blkReadWhole_of_reg64 hregAt hwidth))
  · intro p code off inst byte r s hon hportHeld hdata hoffStaged hregAt hwidth hhalfReg
    exact Does.rcRead_of_planeRead hon hportHeld
      ((Dev.planeRead_blk hdata).trans (Dev.blkReadWhole_of_reg32 hoffStaged hregAt hwidth hhalfReg))
  · intro p code off s hon hportHeld hdata
    exact Does.rcRead_of_planeRead hon hportHeld (Dev.planeRead_blk hdata)
  · intro vs fn b off inst r s hon hbarOpen hbarAt hwidth
    exact Does.rcRead_of_planeRead hon (s.portHeld_bar .data vs fn b off) (Dev.planeRead_bar_of_reg64 hbarOpen hbarAt hwidth)
  · intro p code off s hon hportHeld
    exact Does.of_act (f := rcRead p (.blk code off)) (fun _ => rfl) hon (if_pos hportHeld)
  · intro r inst s hon heventRecord hregInfo
    exact Does.of_act (f := firstEventRecordClear r inst none) (fun _ => rfl) hon
      (by simp [firstEventRecordClear, heventRecord, hregInfo])
  · intro r inst a b s hon heventRecord heventTwin hregInfo
    exact Does.of_act (f := firstEventRecordClear r inst (some (a, b))) (fun _ => rfl) hon
      (by simp [firstEventRecordClear, heventRecord, heventTwin, hregInfo])
  · intro p addr len data s hon hlength hmemBlocked
    exact Does.lpddr4x_in_range hon hlength (by simp [lpddr4xAccess, hmemBlocked])
  · intro p addr len data s hon hmemTop hmemBlocked
    exact Does.lpddr4x_in_range hon hmemTop (by simp [lpddr4xAccess, hmemBlocked])
  · intro p addr len k a data s hon hlength hmemBlocked
    exact Does.lpddr4x_in_range hon hlength (by simp [lpddr4xAccess, hmemBlocked])

end Sys2Proof.Machine
end
